-- ==== Sys2Proof/Word.lean ====
section
/-! DEFINITION. The word types of the node: bytes, registers, identifiers (R10, R11), and the sparse table that
holds records by number. -/

namespace Sys2Proof

/-- One byte, the smallest unit of every memory and record (R10). -/
abbrev Byte := BitVec 8

/-- One 32-bit register (R11). -/
abbrev Word := BitVec 32

/-- A sparse table of records by number: strictly rising keys. -/
abbrev Table (α : Type) := List (Nat × α)

end Sys2Proof
end

