-- ==== Sys2Proof/Syntax.lean ====
section
/-! DEFINITION. The commands of the node: one constructor of `Instr` for each row of the table of operations and
events, with the operands that come from outside the node (R12 to R469). -/

namespace Sys2Proof

/-- Who writes a register (R331, R333): the PF driver, VF n (1 to 64), or management master m (1 to 15). -/
inductive Writer where
  | pf
  | vf (n : Nat)
  | mgmt (m : Nat)
  deriving DecidableEq, Repr

/-- The register blocks of BAR0 that hold a COMMIT register (R311, R330). -/
inductive Block where
  | node | host | deck | fab | rma | rmx | mem | tile | walk | cast | sec | mgmt
  deriving DecidableEq, Repr

/-- What the node reads back from host memory when it rebuilds a ring (R327): the ring record, how many completion
slots from COMPLETED on are present, and the descriptors in the slots from there to ACCEPTED. -/
structure RingImage where
  ring : Nat
  accepted : BitVec 32
  completed : BitVec 32
  resets : BitVec 32
  present : Nat
  descs : List (List Byte)
  deriving DecidableEq, Repr

/-- The parts whose physical instance a register names (R353, R160). -/
inductive RemapKind where
  | tile | walker | mrg | ldl | cen | pat | crucible
  deriving DecidableEq, Repr

/-- A doorbell page (R311): ring n in the PF's BAR2, or ring j of VF v. -/
inductive DbPage where
  | pf (n : Nat)
  | vf (v : Nat) (j : Nat)
  deriving DecidableEq, Repr

/-- The DMA read that an answer belongs to (R313, R314): a descriptor fetch, a command's data, or the read of a region
in host memory for a remote request on a connection (R271, R277). -/
inductive DmaTag where
  | desc (ring : Nat)
  | input (ring : Nat) (rseq : BitVec 32)
  | target (conn : Nat)
  deriving DecidableEq, Repr

/-- How a DMA read ended (R314, R340); `got` counts the bytes received before a failure. -/
inductive DmaResult where
  | data (bytes : List Byte)
  | unsupported (got : Nat)
  | aborted (got : Nat)
  | poisoned (got : Nat)
  deriving DecidableEq, Repr

/-- The DMA write that the link reports as failed (R314). -/
inductive DmaWTag where
  | dest (ring : Nat) (rseq : BitVec 32)
  | ringWrite (ring : Nat)
  | eventRing (fn : Nat)
  deriving DecidableEq, Repr

/-- Causes of a card's failure (R250), codes 1 to 7. -/
inductive FailCause where
  | overrun | late | cardFault | stageFull | timeLost | repeatLimit | metering
  deriving DecidableEq, Repr

/-- The fabric header (R217). -/
structure FabHdr where
  cls : BitVec 2
  vc : Bool
  static : Bool
  flits : Nat
  dst : BitVec 16
  src : BitVec 16
  route : BitVec 12
  hops : BitVec 4
  plen : Nat
  deriving DecidableEq, Repr

/-- The transport header (R262). -/
structure TrHdr where
  top : BitVec 8
  first : Bool
  last : Bool
  ackReq : Bool
  enc : Bool
  cl : Bool
  try_ : BitVec 8
  dconn : Nat
  psn : BitVec 24
  cpsn : BitVec 24
  raddr : BitVec 64
  rkey : BitVec 64
  total : BitVec 32
  deriving DecidableEq, Repr

/-- A packet (R217, R262). A scheduled packet carries no transport header; `tr` is then unused. `tag` is the GCM tag
of R281, empty without ENC. -/
structure Packet where
  fab : FabHdr
  tr : TrHdr
  payload : List Byte
  tag : List Byte
  deriving DecidableEq, Repr

/-- A partial of the merge tree (R89): m, l and o as FP32 bit patterns. -/
structure Partial where
  m : BitVec 32
  l : BitVec 32
  o : List (BitVec 32)
  deriving DecidableEq, Repr

/-- One page a remote node holds for a home (R66, R93, R113): its format, bytes and its stream's table record. -/
structure HeldPage where
  home : BitVec 16
  seq : Nat
  stream : Nat
  page : Nat
  fmt : Nat
  tver : Nat
  damaged : Bool
  bytes : List Byte
  tableRec : List Byte
  deriving DecidableEq, Repr

/-- An ATTEND sub-request (R93): everything the remote node needs. `pages` names (stream, page) pairs. -/
structure AttendReq where
  partition : Nat
  seq : Nat
  hdr : Nat
  d : Nat
  planes : Nat
  group : Nat
  kvh : Nat
  qrows : Nat
  qpos0 : Nat
  firstLayer : Nat
  layers : Nat
  flags : BitVec 12
  rope : Nat
  ropePairs : Nat
  ropeBase : BitVec 32
  scale : BitVec 32
  hooks : List (BitVec 64)
  heads : List (BitVec 64)
  masks : List (Nat × Nat)
  pins : List Nat
  cut : Nat
  pages : List (Nat × Nat)
  queries : List Byte
  deriving DecidableEq, Repr

/-- A sub-search (R177). -/
structure SearchReq where
  partition : Nat
  idx : Nat
  epoch : BitVec 16
  filterEn : Bool
  filter : Nat
  invert : Bool
  dmgSkip : Bool
  k : Nat
  beam : Nat
  width : Nat
  maxHops : Nat
  queries : List (List Byte)
  deriving DecidableEq, Repr

/-- A search result (R175): key as FP32 bits, item, generation, label, shard number. -/
structure Hit where
  key : BitVec 32
  shard : Nat
  item : Nat
  gen : Nat
  label : BitVec 16
  deriving DecidableEq, Repr

/-- A replicated commit (R62): the positions a to b - 1 of the home's LADLE, with the fields of the opening. -/
structure ReplReq where
  seq : Nat
  open_ : Bool
  pin : Bool
  mslot : Nat
  winM1 : Nat
  retrMax : Nat
  pinMax : Nat
  selInterval : Nat
  homeSeq : Nat
  tver : Nat
  a : Nat
  b : Nat
  values : List (BitVec 16)
  deriving DecidableEq, Repr

/-- What a CALL carries (R265, R268). The spec gives the kinds of work; the layout of the payload is open. -/
inductive CallMsg where
  | attendSub (step : BitVec 64) (sub : Nat) (stamp : BitVec 16) (req : AttendReq)
  | searchSub (step : BitVec 64) (sub : Nat) (stamp : BitVec 16) (req : SearchReq)
  | replicate (req : ReplReq)
  | migratePages (pages : List HeldPage)
  | migrateSeq (seq : Nat) (image : List Byte) (needBytes : Nat)
  | fetchPages (seq : Nat) (pages : List (Nat × Nat))
  | freeReplica (seq : Nat)
  | gfa (step : BitVec 64) (sub : Nat) (stamp : BitVec 16) (addr : BitVec 64) (len : Nat) (write : Bool) (data : List Byte)
  | releaseStep (step : BitVec 64)
  deriving DecidableEq, Repr

/-- What a CALL_RESP carries (R93, R177, R178, R296, R360, R361, R62, R67). A failing page of `partials` is its stream, its number
and its class: 0 an uncorrectable error, 1 to 6 as R124. -/
inductive RespMsg where
  | partials (step : BitVec 64) (sub : Nat) (fails : List (Nat × Nat × Nat)) (scored : Nat) (parts : List Partial)
  | lists (step : BitVec 64) (sub : Nat) (stale : Bool) (skipped : Nat) (stopped : Nat) (hits : List (List Hit))
  | busy (step : BitVec 64) (sub : Nat)
  | absent (step : BitVec 64) (sub : Nat)
  | replAck (seq : Nat) (b : Nat)
  | migrateOk (seq : Nat)
  | migrateBusy (seq : Nat)
  | pages (seq : Nat) (pages : List HeldPage)
  | gfaDone (step : BitVec 64) (sub : Nat) (status : BitVec 16) (data : List Byte)
  deriving DecidableEq, Repr

/-- A deck notice (R251). -/
structure Notice where
  ntype : BitVec 8
  cause : BitVec 8
  src : BitVec 16
  deckId : BitVec 32
  raised : BitVec 64
  step : BitVec 64
  pos : BitVec 16
  deriving DecidableEq, Repr

/-- The LCTL control flit (R204). -/
structure Lctl where
  ackValid : Bool
  nak : Bool
  ack : BitVec 10
  climit : List (BitVec 16)
  deriving DecidableEq, Repr

/-- The TSYNC control flit (R223). Times are 64-bit ns with a 16-bit fraction, held as one 80-bit number. -/
structure Tsync where
  locked : Bool
  source : Bool
  tseq : BitVec 16
  depth : BitVec 8
  tTx : BitVec 80
  tRxLast : BitVec 80
  tseqEcho : BitVec 16
  deriving DecidableEq, Repr

/-- The CAP control flit (R209). -/
structure Cap where
  seen : Bool
  gcm : Bool
  resend : Bool
  levels : BitVec 8
  lanesOk : BitVec 8
  nodeId : BitVec 16
  port : BitVec 8
  deriving DecidableEq, Repr

/-- A control flit of a block (R204). -/
inductive CtlFlit where
  | lctl (f : Lctl)
  | tsync (f : Tsync)
  | cap (f : Cap)
  | retrain
  deriving DecidableEq, Repr

/-- What a block's packet flits carry (R201, R217): whole packets, with the work of a CALL beside its packet. -/
inductive Cargo where
  | pkt (p : Packet)
  | call (p : Packet) (m : CallMsg)
  | resp (p : Packet) (m : RespMsg)
  | notice (p : Packet) (n : Notice)
  | demote (p : Packet) (seq : Nat) (newHome : BitVec 16) (ack : Bool)
  deriving DecidableEq, Repr

/-- The FEC decoder's report on a received block (R202): symbols corrected, or an uncorrectable codeword. -/
inductive FecReport where
  | ok (corrected : Nat)
  | uncorrectable
  deriving DecidableEq, Repr

/-- A sequenced block as received (R200 to R202): header fields, the CRC the header carries and the CRC computed over
the bytes that arrived, the packets in its data flits and its control flit. -/
structure RxBlock where
  bsn : BitVec 10
  replay : Bool
  dataFlits : Nat
  ctlSlot : Nat
  fec : FecReport
  bcrc : BitVec 16
  bcrcCalc : BitVec 16
  cargo : List Cargo
  deriving DecidableEq, Repr

/-- Part kinds of R347 (0 to 8 are the resource classes of R237). -/
inductive PartKind where
  | tile | mrg | ldl | pat | cen | gw | port | mcc | seqr
  | crucible | slice | package | mccComplex | pcie | mss | assay | powerStage | walkerCtx
  deriving DecidableEq, Repr

/-- Causes of form P (R349), codes 1 to 7. -/
inductive PartCause where
  | parity | ecc | watchdog | unitFault | training | errorRate | ownerCommand
  deriving DecidableEq, Repr

/-- What a shared-buffer or tile-buffer ECC error struck (R354). -/
inductive EccEvent where
  | corrected
  | mirrored
  | cachedCopy
  | deckBank
  | stepWord (ring : Nat) (rseq : BitVec 32) (input : Bool)
  deriving DecidableEq, Repr

/-- What an uncorrectable DRAM burst held (R96, R126, R147, R191). -/
inductive UeWhere where
  | page (seq : Nat) (stream : Nat) (page : Nat)
  | tableRec (seq : Nat) (stream : Nat)
  | retained (seq : Nat) (stream : Nat) (page : Nat)
  | staging (seq : Nat) (stream : Nat) (copy : Nat)
  | pin (seq : Nat) (stream : Nat) (page : Nat)
  | summary (seq : Nat) (stream : Nat) (page : Nat)
  | item (idx : Nat) (item : Nat) (what : Nat)
  | other
  deriving DecidableEq, Repr

/-- One sensor's mean over the last millisecond (R427). -/
structure SensorVal where
  idx : Nat
  val : BitVec 16
  deriving DecidableEq, Repr

/-- The header of a management message (R429): the master that the MSS set on receipt, the sender's number and tag. -/
structure MsgHdr where
  master : Nat
  mseq : BitVec 32
  tag : BitVec 32
  deriving DecidableEq, Repr

/-- Where answers on the fabric path go (R429, R430). -/
structure AnswerRegion where
  conn : Nat
  rkey : BitVec 64
  off : BitVec 64
  deriving DecidableEq, Repr

/-- How a bring-up step ended (R437): well, well with packages set aside (step 4), with every package failed, or with
a microcode class failing in both slots (step 3). -/
inductive BringupResult where
  | ok
  | packagesFailed (mask : BitVec 16)
  | microcodeFailed
  deriving DecidableEq, Repr

/-- The commands of the node, one constructor for each row of the table, in the table's order. -/
inductive Instr where
  /-- REGISTER_WRITE (R12). A driver or master writes a register with no row of its own; the node applies its access code, or rejects the write and records it under R331. -/
  | registerWrite (w : Writer) (off : BitVec 26) (wide : Bool) (v : BitVec 64)
  /-- CAST_COMMIT (R30). A write to the CAST block's COMMIT checks the pending model slots and cast audit settings, and accepts or rejects the set. -/
  | castCommit (w : Writer) (gen : BitVec 16)
  /-- TILE_COMMIT (R77). A write to the TILE block's COMMIT checks the pending hook lists and tile remap, and accepts or rejects the set. -/
  | tileCommit (w : Writer) (gen : BitVec 16)
  /-- WALK_COMMIT (R163). A write to the WALK block's COMMIT checks the pending index records and walker remap, and accepts or rejects the set. -/
  | walkCommit (w : Writer) (gen : BitVec 16)
  /-- HOST_COMMIT (R316). A PF write to the HOST block's COMMIT checks the pending ring, weight and event-ring settings, and accepts or rejects the set. -/
  | hostCommit (w : Writer) (gen : BitVec 16) (imgs : List RingImage)
  /-- VF_COMMIT (R312). A VF writes COMMIT in its own page, which checks and commits only that VF's pending HOST set. -/
  | vfCommit (vf : Nat) (gen : BitVec 16) (imgs : List RingImage)
  /-- SEC_COMMIT (R370). A write to the SEC block's COMMIT checks the partition records, operator keys, fuse requests and lifecycle request, and accepts or rejects the set. -/
  | secCommit (w : Writer) (gen : BitVec 16)
  /-- FAB_COMMIT (R230). A write to the FAB block's COMMIT checks the node ID, time, port, misdeal and static route settings, and accepts or rejects the set. -/
  | fabCommit (w : Writer) (gen : BitVec 16)
  /-- RMA_COMMIT (R291). A write to the RMA block's COMMIT checks the backing, timer and sync counter configuration, and accepts or rejects the set. -/
  | rmaCommit (w : Writer) (gen : BitVec 16)
  /-- MEM_COMMIT (R160). A write to the MEM block's COMMIT checks the crucible control, image version and remap settings, and accepts or rejects the set. -/
  | memCommit (w : Writer) (gen : BitVec 16)
  /-- DECK_COMMIT (R260). A write to the DECK block's COMMIT checks the margin target and loan threshold, and accepts or rejects the set. -/
  | deckCommit (w : Writer) (gen : BitVec 16)
  /-- NODE_COMMIT (R353). A write to the NODE block's COMMIT checks the engine map and the watchdog and fault settings, and accepts or rejects the set. -/
  | nodeCommit (w : Writer) (gen : BitVec 16)
  /-- MGMT_COMMIT (R444). A write to the MGMT block's COMMIT checks the bring-up, firmware activation, package target and PTP settings, and accepts or rejects the set. -/
  | mgmtCommit (w : Writer) (gen : BitVec 16)
  /-- COMMIT_DISCARD (R330). A write of COMMIT with DISCARD set copies the active bank into the pending bank. -/
  | commitDiscard (w : Writer) (b : Block)
  /-- COMMIT_SAFE_POINT_SWAP (R329). At the block's safe point, a checked pending set becomes active and is copied back into the pending bank. -/
  | commitSafePointSwap (b : Block) (vf : Nat)
  /-- REMAP_SWITCH (R353). A committed change of the physical instance serving a logical number takes effect once both instances are idle, or at a round boundary under a deck. -/
  | remapSwitch (k : RemapKind) (l : Nat)
  /-- CRUCIBLE_IMAGE_LOAD (R156). The controller loads a new crucible image by IMW into a unit that has become IDLE, and clears SWITCHING once every unit holds it. -/
  | crucibleImageLoad (pkg : Nat) (unit : Nat)
  /-- MICROCODE_FENCE_LOAD (R436). An engine of a microcode class loads the newly activated version at its next idle point, and FENCE_DONE is set once all engines hold it. -/
  | microcodeFenceLoad (cls : Nat) (engine : Nat)
  /-- DOORBELL_SQ_TAIL (R319). A write of SQ_TAIL to a doorbell page advances the ring's tail, or is ignored and counted in HOST_DB_BAD. -/
  | doorbellSqTail (pg : DbPage) (v : BitVec 32)
  /-- DOORBELL_CQ_HEAD (R319). A write of CQ_HEAD to a doorbell page returns consumed completion slots, or is ignored and counted. -/
  | doorbellCqHead (pg : DbPage) (v : BitVec 32)
  /-- DOORBELL_EVENT_RING (R339). A write to the event-ring doorbell returns consumed event entries, or is ignored and counted. -/
  | doorbellEventRing (fn : Nat) (v : BitVec 32)
  /-- DESCRIPTOR_ACCEPT (R320). The node takes descriptor s from a ring once EN, SQ_TAIL, free units and the deficit round-robin allow it, charging its units. -/
  | descriptorAccept (ring : Nat)
  /-- COMMAND_DEFERRED_ADMIT (R320). An accepted command that waited behind a fence, for RMA room or for a wait table entry is admitted once the wait ends. -/
  | commandDeferredAdmit (ring : Nat) (rseq : BitVec 32)
  /-- COMPLETION_WRITE (R321). A finished command's completion is written once every earlier completion of its ring is written and CQ_HEAD leaves a slot. -/
  | completionWrite (ring : Nat)
  /-- INTERRUPT_COAL_TIMEOUT (R338). COAL_US passes after the first unsignalled completion, and the ring signals its vector. -/
  | interruptCoalTimeout (ring : Nat)
  /-- DMA_READ_COMPLETION (R314). A PCIe DMA read completes with data, an error status or poison, and the command continues or fails. -/
  | dmaReadCompletion (t : DmaTag) (r : DmaResult)
  /-- DMA_READ_TIMEOUT (R314). A DMA read remains unanswered for 50 ms, and the command fails with ST_ACCESS_VIOLATION. -/
  | dmaReadTimeout (t : DmaTag)
  /-- DMA_WRITE_FAILURE (R314). The link reports a DMA write as failed, and the command fails or the ring stops with FAULT. -/
  | dmaWriteFailure (t : DmaWTag)
  /-- NODE_OWN_CLAIM (R333). The PF writes a credential address to NODE_OWN_CLAIM, and the SEC block verifies the credential for the ownership election. -/
  | nodeOwnClaim (w : Writer) (addr : BitVec 64) (cred : List Byte)
  /-- CLAIM_WINDOW_CLOSE (R333). The 100 µs window for verified claims closes, and the node elects the owner by class PRIO and master number. -/
  | claimWindowClose
  /-- NODE_OWN_HB (R334). The owner writes NODE_OWN_HB, which renews its 2 s lease. -/
  | nodeOwnHb (w : Writer)
  /-- NODE_OWN_PASS (R335). The owner writes NODE_OWN_PASS with a target master, and the state becomes PASSING. -/
  | nodeOwnPass (w : Writer) (target : BitVec 4)
  /-- NODE_OWN_PASS_CANCEL (R335). The owner writes NODE_OWN_PASS with CANCEL, and the state returns to OWNED. -/
  | nodeOwnPassCancel (w : Writer)
  /-- OWNER_LEASE_LAPSE (R334). The 2 s ownership lease expires, the node has no owner and the election reopens. -/
  | ownerLeaseLapse
  /-- PASS_TIMEOUT (R335). The pass target does not claim within 2 s, and the state returns to OWNED. -/
  | passTimeout
  /-- SEC_CHALLENGE_REFRESH (R394). 60 s pass since the last draw, and the node draws a new SEC_CHALLENGE value. -/
  | secChallengeRefresh
  /-- SEC_DBG_READ (R384). The owner writes SEC_DBG_CTL.GO with WRITE clear, which reads 64 bytes of a debug space and sets the TOUCHED bits. -/
  | secDbgRead (w : Writer)
  /-- SEC_DBG_WRITE (R384). The owner writes SEC_DBG_CTL.GO with WRITE set, which writes 64 bytes of a debug space and sets the TOUCHED bits. -/
  | secDbgWrite (w : Writer)
  /-- SEC_TRACE_CTL_WRITE (R386). The owner writes SEC_TRACE_CTL; setting EN clears the trace buffer and SEC_TRACE_PARTS and starts capture. -/
  | secTraceCtlWrite (w : Writer) (v : BitVec 32)
  /-- EXPERT_WINDOW_ACCESS (R425). The owner accesses the EXPERT window in BRINGUP, TEST or RECOVERY, which sets EXPERT_USED and touches every ACTIVE partition. -/
  | expertWindowAccess (w : Writer) (off : BitVec 20) (wr : Option (BitVec 32))
  /-- RMX_LOOKUP_GO (R308). A write of RMX_LK_CTL.GO looks up RMX_LK_KEY and returns the best match. -/
  | rmxLookupGo (w : Writer) (useRetiring : Bool)
  /-- RMX_LOOKUP_STEP (R308). A write of RMX_LK_CTL.STEP returns the next-ranked match of the step-through, or sets STALE or DONE. -/
  | rmxLookupStep (w : Writer)
  /-- POWER_ON (R424). A MGMT_REQ POWER_ON request in STANDBY starts bring-up, or completes with ST_POWER_ABSENT without 48 V. -/
  | powerOn (w : Writer)
  /-- POWER_OFF (R424). A MGMT_REQ POWER_OFF request turns the main rails off and takes the node to STANDBY. -/
  | powerOff (w : Writer)
  /-- WARM_RESET (R424). A MGMT_REQ WARM_RESET request starts a warm reset. -/
  | warmReset (w : Writer)
  /-- COLD_RESET (R424). A MGMT_REQ COLD_RESET request passes the node through STANDBY and then to BRINGUP. -/
  | coldReset (w : Writer)
  /-- ENTER_TEST (R424). A MGMT_REQ ENTER_TEST request moves the node to TEST, sets TEST_ENTERED and touches every ACTIVE partition. -/
  | enterTest (w : Writer)
  /-- LEAVE_TEST (R424). A MGMT_REQ LEAVE_TEST request returns the node to READY or DEGRADED, or is carried out as a cold reset after a pin-driving JTAG instruction. -/
  | leaveTest (w : Writer)
  /-- RECOVERY (R424). A MGMT_REQ RECOVERY request moves the node to the RECOVERY state. -/
  | recovery (w : Writer)
  /-- CONTINUE (R424). A MGMT_REQ CONTINUE request resumes a bring-up held by HOLD_AT. -/
  | continueReq (w : Writer)
  /-- MGMT_UPD_GO (R435). The owner writes MGMT_UPD_CTL.GO, and the node gathers and checks the image and starts writing it into the inactive slot. -/
  | mgmtUpdGo (w : Writer) (cls : BitVec 4) (image : List Byte)
  /-- MGMT_UPDATE_DONE (R435). The flash erase, write and read-back of an update end, and the slot is marked loadable or the update fails with ST_FLASH_FAULT. -/
  | mgmtUpdateDone (ok : Bool)
  /-- MSS_RESTART (R436). The MSS restarts from its active slot, or falls back to the other slot, while the data path runs on. -/
  | mssRestart (started : Bool)
  /-- PKG_RECAL_DONE (R443). The retraining and row read and write of a package under RECAL end. -/
  | pkgRecalDone (pkg : Nat) (stored : Bool)
  /-- LADLE (R58). The LADLE command opens a sequence or appends positions to every stream at an expected length. -/
  | ladle (ring : Nat) (rseq : BitVec 32)
  /-- LADLE_COMMIT (R59). Once staging, packing, sealing, the readers and the replica acknowledgement allow it, the node conditionally commits LEN at a page boundary or at the end of the append. -/
  | ladleCommit (ring : Nat) (rseq : BitVec 32)
  /-- ATTEND_NEED_LEN_TIMEOUT (R83). 1 ms passes before LEN reaches NEED_LEN, and the deferred ATTEND completes with ST_TIMEOUT. -/
  | attendNeedLenTimeout (ring : Nat) (rseq : BitVec 32)
  /-- SEAL_FREEZE (R65). The SEAL command in mode FREEZE makes an OPEN sequence FROZEN once the LADLEs admitted before it have completed. -/
  | sealFreeze (ring : Nat) (rseq : BitVec 32)
  /-- SEAL_FREE (R65). The SEAL command in mode FREE waits for the sequence's readers, then returns its memory and sets STATE to FREE. -/
  | sealFree (ring : Nat) (rseq : BitVec 32)
  /-- SEAL_READ (R65). The SEAL command in mode READ writes the 128-byte sequence descriptor to DEST. -/
  | sealRead (ring : Nat) (rseq : BitVec 32)
  /-- SEAL_FREEZE_EFFECT (R65). The earlier LADLEs have completed, so the sequence becomes FROZEN and releases the staging copy that does not hold the head page. -/
  | sealFreezeEffect (ring : Nat) (rseq : BitVec 32)
  /-- SEAL_FREE_EFFECT (R65). The sequence has no reader left, so its pages and areas return to the pool, the replica is freed and STATE becomes FREE. -/
  | sealFreeEffect (ring : Nat) (rseq : BitVec 32)
  /-- MIGRATE_MOVE_HOME (R66). The MIGRATE command in mode MOVE_HOME copies the sequence to TARGET and moves its home there. -/
  | migrateMoveHome (ring : Nat) (rseq : BitVec 32)
  /-- MIGRATE_REPLICATE (R66). The MIGRATE command in mode REPLICATE sets REPL to 2 with TARGET as the replica, copies every page and clears REPL_DEGRADED. -/
  | migrateReplicate (ring : Nat) (rseq : BitVec 32)
  /-- MIGRATE_SHARD_OUT (R66). The MIGRATE command in mode SHARD_OUT moves a range of sealed pages to TARGET and marks their PDEs REMOTE. -/
  | migrateShardOut (ring : Nat) (rseq : BitVec 32)
  /-- MIGRATE_SHARD_IN (R66). The MIGRATE command in mode SHARD_IN brings a range of remote pages back to local memory. -/
  | migrateShardIn (ring : Nat) (rseq : BitVec 32)
  /-- MIGRATE_PROMOTE (R66). The MIGRATE command in mode PROMOTE makes a REPLICA descriptor OPEN and sends a demotion notice to the former home. -/
  | migratePromote (ring : Nat) (rseq : BitVec 32)
  /-- MIGRATE_SWITCH (R66). After the copy, the node switches the placement in one descriptor update. -/
  | migrateSwitch (ring : Nat) (rseq : BitVec 32)
  /-- OLD_COPY_FREE (R66). The readers admitted before a switch have completed, and the node frees the old copies. -/
  | oldCopyFree (seq : Nat)
  /-- ATTEND (R82). The ATTEND command is checked, reads its snapshot length and starts the window, global, retrieval and source leaves. -/
  | attend (ring : Nat) (rseq : BitVec 32)
  /-- ATTEND_ROOT_MERGE (R92). Every leaf and remote partial of an ATTEND is present, so the merge tree is finished and DEST and the completion are written. -/
  | attendRootMerge (ring : Nat) (rseq : BitVec 32)
  /-- AUTO_SELECTION (R102). After an ATTEND's retrieval part has read the current set, the node runs the automatic reselection that the ATTEND triggered. -/
  | autoSelection (seq : Nat) (stream : Nat)
  /-- SELECT_PAGES (R99). The SELECT_PAGES command scores the page summaries and chooses a new retrieved set for each stream. -/
  | selectPages (ring : Nat) (rseq : BitVec 32)
  /-- SELECT_FLIP (R101). Once no earlier reader remains, the new set is written into the unselected copy and SEL flips. -/
  | selectFlip (seq : Nat) (stream : Nat)
  /-- SEARCH (R174). The SEARCH command is checked, records its epoch, filter and entry, and starts its walker contexts and any sub-searches. -/
  | search (ring : Nat) (rseq : BitVec 32)
  /-- WALKER_BATCH_READ_DONE (R171). The state words, lists and vectors of a batch arrive, and the walker context expands the batch and scores its neighbours. -/
  | walkerBatchReadDone (ring : Nat) (rseq : BitVec 32) (q : Nat)
  /-- SEARCH_MERGE (R178). Every shard's list is present, and a merge engine merges them and writes the results. -/
  | searchMerge (ring : Nat) (rseq : BitVec 32)
  /-- INSERT (R180). The INSERT command allocates a record, searches for neighbours, writes and prunes edge lists and commits the item. -/
  | insert (ring : Nat) (rseq : BitVec 32)
  /-- DELETE (R183). The DELETE command tombstones an item at the pending epoch and appends it to the delete log. -/
  | delete (ring : Nat) (rseq : BitVec 32)
  /-- PUBLISH_EPOCH (R185). The PUBLISH_EPOCH command is checked against EXPECT_P and starts its floor, filter and write-log steps. -/
  | publishEpoch (ring : Nat) (rseq : BitVec 32)
  /-- PUBLISH_COMMIT (R185). Once its waits end, the publish increments P, sets the floor, flips the filter copy and settles items. -/
  | publishCommit (ring : Nat) (rseq : BitVec 32)
  /-- PUBLISH_FLOOR_TIMEOUT (R185). 10 ms pass before the searches below the new floor end, and PUBLISH_EPOCH completes with ST_TIMEOUT. -/
  | publishFloorTimeout (ring : Nat) (rseq : BitVec 32)
  /-- SLAG_SWEEP (R186). The slag pass sweeps an index, rewires around dead items and frees their records. -/
  | slagSweep (idx : Nat)
  /-- RMA_READ (R273). The RMA_POST command in mode READ reads remote bytes into LADDR. -/
  | rmaRead (ring : Nat) (rseq : BitVec 32)
  /-- RMA_WRITE (R273). The RMA_POST command in mode WRITE writes LADDR bytes into a remote region. -/
  | rmaWrite (ring : Nat) (rseq : BitVec 32)
  /-- RMA_ADD (R273). The RMA_POST command in mode ADD performs a remote 64-bit fetch-and-add. -/
  | rmaAdd (ring : Nat) (rseq : BitVec 32)
  /-- CONN_OPEN (R267). The RMA_POST command in mode CONN_OPEN checks a parameter block and opens a connection half. -/
  | connOpen (ring : Nat) (rseq : BitVec 32)
  /-- CONN_CLOSE (R273). The RMA_POST command in mode CONN_CLOSE closes a connection once its operations have ended. -/
  | connClose (ring : Nat) (rseq : BitVec 32)
  /-- CONN_CLOSE_DONE (R273). A closing connection's last operation completes, and the half becomes FREE. -/
  | connCloseDone (conn : Nat)
  /-- MR_REG (R271). The RMA_POST command in mode MR_REG registers a memory region and returns its new RKEY. -/
  | mrReg (ring : Nat) (rseq : BitVec 32)
  /-- MR_DEREG (R272). The RMA_POST command in mode MR_DEREG starts to deregister a region named by its RKEY. -/
  | mrDereg (ring : Nat) (rseq : BitVec 32)
  /-- MR_DEREG_DONE (R272). The accesses to the region in process have finished, and the region entry is marked unused. -/
  | mrDeregDone (ring : Nat) (rseq : BitVec 32)
  /-- PAGE_RESUME (R279). The RMA_POST command in mode PAGE_RESUME applies a packet held under stall-mode paging and sends NAK SEQ. -/
  | pageResume (ring : Nat) (rseq : BitVec 32)
  /-- SIGNAL_LOCAL (R284). A local SIGNAL adds AMOUNT to a sync counter's VALUE or ACKED under the bound checks and wakes the satisfied waiters. -/
  | signalLocal (ring : Nat) (rseq : BitVec 32)
  /-- SIGNAL_REMOTE (R284). A remote SIGNAL is sent on a connection as a transport SIGNAL after every earlier packet. -/
  | signalRemote (ring : Nat) (rseq : BitVec 32)
  /-- WAIT (R286). The WAIT command fences its ring until a sync counter reaches TARGET. -/
  | wait (ring : Nat) (rseq : BitVec 32)
  /-- WAIT_TIMEOUT (R287). A WAIT stays unsatisfied for TIMEOUT_US, and it and the commands behind it complete with ST_TIMEOUT. -/
  | waitTimeout (ring : Nat) (rseq : BitVec 32)
  /-- DECK_LOAD (R241). The DECK_LOAD command reads a deck image into the pending bank and checks it. -/
  | deckLoad (ring : Nat) (rseq : BitVec 32)
  /-- DECK_SWAP (R243). The DECK_SWAP command schedules the pending deck to become active at START. -/
  | deckSwap (ring : Nat) (rseq : BitVec 32)
  /-- DECK_SWAP_STOP (R245). A DECK_SWAP with STOP set ends the running deck at START, with no successor. -/
  | deckSwapStop (ring : Nat) (rseq : BitVec 32)
  /-- DECK_SWAP_RESTART (R245). A DECK_SWAP with RESTART set resumes a halted deck at position 0 from START. -/
  | deckSwapRestart (ring : Nat) (rseq : BitVec 32)
  /-- DECK_START (R245). START arrives, and the pending bank becomes active, its routes are committed and the scratch area is cleared; the swap is deferred if a rewind is pending. -/
  | deckStart
  /-- ROUND_BOUNDARY (R248). A time round begins, and the power manager adjusts the supply against the margin target. -/
  | roundBoundary (rcMax : Nat)
  /-- CARD_EXEC (R238). At its first slot, an EXEC card admits its task and runs it on the card's resource. -/
  | cardExec (card : Nat)
  /-- CARD_HOLD (R238). At its first slot, a HOLD card lends its resource to a task for the span. -/
  | cardHold (card : Nat)
  /-- CARD_SEND (R238). At its first slot, a SEND card sends scratch bytes as scheduled packets on a static route. -/
  | cardSend (card : Nat)
  /-- CARD_RECV (R238). At its first slot, a RECV card expects scheduled bytes from a route into scratch. -/
  | cardRecv (card : Nat)
  /-- CARD_POST (R238). A POST card records an addition to a sync counter, to be applied at the step's release. -/
  | cardPost (card : Nat)
  /-- CARD_CHECK (R238). A CHECK card requires a sync counter to have reached its value at issue, or raises LATE. -/
  | cardCheck (card : Nat)
  /-- CARD_WAIT (R256). In loan mode, a WAIT card holds the sequencer and suspends the step's later cards until its counter reaches its value. -/
  | cardWait (card : Nat)
  /-- CARD_RELEASE (R238). A RELEASE card marks its step complete, which releases the step in loan mode. -/
  | cardRelease (card : Nat)
  /-- LOAN_THRESHOLD (R256). A loan-mode wait lasts longer than LOAN_US, and the power manager lends the waiting engine's budget to other islands. `card` is the
  card's number and 2¹⁷ times its cycle. -/
  | loanThreshold (card : Nat)
  /-- CARD_SPAN_END (R250). A card's span ends with its work incomplete or a cause of failure present, so the work is aborted and a deck notice is flooded. -/
  | cardSpanEnd (card : Nat) (cause : Option FailCause)
  /-- NOTICE_TAKE (R253). At the end of round r + 1, every node takes the notices raised in round r and rewinds or halts the deck. -/
  | noticeTake
  /-- STEP_RELEASE (R252). At the end of the round after its LAST card, a step writes its staged outputs, applies its POSTs, posts its counts and completes on CRING. -/
  | stepRelease (step : Nat)
  /-- MARGIN_READING (R248). Every 100 ns the rc sensors are read, and a margin below 2 % starts a 25 mV emergency raise. -/
  | marginReading (rc : Nat)
  /-- MAP_UPDATE (R301). The MAP_UPDATE command is checked in its turn and writes its added entries and DYING marks for a new epoch. -/
  | mapUpdate (ring : Nat) (rseq : BitVec 32)
  /-- MAP_COMMIT (R302). Once its entries are written, the update sets N to N + 1, the former epoch starts to retire and the update completes. -/
  | mapCommit
  /-- EPOCH_RETIRE (R304). The references to the retiring epoch reach zero, and the epoch retires: BORN is cleared and DYING entries are freed. -/
  | epochRetire
  /-- EPOCH_FORCED_RETIRE (R304). 1 ms after the commit the retiring epoch is retired by force, FORCED is set and the owner is told. -/
  | epochForcedRetire
  /-- STAMP_HOLD_TIMEOUT (R305). An access stamped with a newer epoch is held for 1 ms without the map reaching it, and it completes with ST_EPOCH_STALE. -/
  | stampHoldTimeout (held : Nat)
  /-- KEY_IMPORT_FABRIC (R377). The KEY_IMPORT command with KIND FABRIC unwraps an AES-256-GCM connection key into a slot. -/
  | keyImportFabric (ring : Nat) (rseq : BitVec 32)
  /-- KEY_IMPORT_WINDOW (R377). The KEY_IMPORT command with KIND WINDOW unwraps an XTS window key for a PCIe address window. -/
  | keyImportWindow (ring : Nat) (rseq : BitVec 32)
  /-- KEY_ERASE (R377). The KEY_IMPORT command with KIND ERASE zeroes a key slot and clears its KEYS bit. -/
  | keyErase (ring : Nat) (rseq : BitVec 32)
  /-- ATTEST (R389). The ATTEST command captures the node state, signs a partition-scope or node-scope report and writes it to DEST. -/
  | attest (ring : Nat) (rseq : BitVec 32)
  /-- RELEASE (R380). The RELEASE command makes a partition RELEASING, stops its rings and completes its unadmitted commands. -/
  | release (ring : Nat) (rseq : BitVec 32)
  /-- RELEASE_PROCEED (R381). Once the partition's admitted commands have completed, the node closes its connections, clears its objects, invalidates its lines and launches the fills. -/
  | releaseProceed (p : Nat)
  /-- RELEASE_FILL_DONE (R381). The partition's fills end, and the node destroys its key, clears TOUCHED, closes its metering and sets it FREE. -/
  | releaseFillDone (p : Nat) (failures : Nat)
  /-- RX_WRITE (R277). A WRITE transport packet is checked and applied in PSN order, or answered as a duplicate, a gap or a rejection. -/
  | rxWrite (port : Nat) (pkt : Packet)
  /-- RX_READ_REQ (R277). A READ_REQ packet is checked and answered with READ_RESP data or a NAK. -/
  | rxReadReq (port : Nat) (pkt : Packet)
  /-- RX_READ_RESP (R263). A READ_RESP packet delivers read data to the requester's buffer. -/
  | rxReadResp (port : Nat) (pkt : Packet)
  /-- RX_ADD_REQ (R277). An ADD_REQ packet performs a 64-bit fetch-and-add and is answered with ADD_RESP. -/
  | rxAddReq (port : Nat) (pkt : Packet)
  /-- RX_ADD_RESP (R263). An ADD_RESP packet returns the value before the add to the requester. -/
  | rxAddResp (port : Nat) (pkt : Packet)
  /-- RX_SIGNAL (R285). A transport SIGNAL packet adds to a sync counter under the bound checks, or is answered NAK BOUND or NAK ACCESS. -/
  | rxSignal (port : Nat) (pkt : Packet)
  /-- RX_ACK (R278). An ACK packet acknowledges PSNs and completes the operations it covers. -/
  | rxAck (port : Nat) (pkt : Packet)
  /-- RX_NAK (R278). A NAK packet completes an operation with the NAK's status, or with NAK SEQ starts go-back-N resending. -/
  | rxNak (port : Nat) (pkt : Packet)
  /-- RX_HOLD (R279). A HOLD packet restarts the sender's retransmit timer and stops new PSNs on the connection. -/
  | rxHold (port : Nat) (pkt : Packet)
  /-- RX_RETRY_AFTER (R280). A RETRY_AFTER packet makes the sender wait DELAY_US before it re-sends from the named PSN. -/
  | rxRetryAfter (port : Nat) (pkt : Packet)
  /-- RX_CALL (R265). A CALL packet carries node-to-node work: a sub-request, a sub-search, replication, a MIGRATE transfer, a GFA access or a retention release. -/
  | rxCall (port : Nat) (pkt : Packet) (m : CallMsg)
  /-- RX_CALL_RESP (R93). A CALL_RESP packet delivers a remote partial, list, access result or acknowledgement to the home. -/
  | rxCallResp (port : Nat) (pkt : Packet) (m : RespMsg)
  /-- RX_NOTICE (R251). A deck NOTICE packet is recorded for the round and forwarded once to the other torus ports. -/
  | rxNotice (port : Nat) (n : Notice)
  /-- RX_DEMOTE (R264). A DEMOTE packet sets an OPEN or FROZEN descriptor to MOVED and is answered with DEMOTE_ACK. -/
  | rxDemote (port : Nat) (src : BitVec 16) (seq : Nat) (newHome : BitVec 16)
  /-- RX_DEMOTE_ACK (R264). A DEMOTE_ACK packet stops the new home's DEMOTE repeats. -/
  | rxDemoteAck (port : Nat) (src : BitVec 16) (seq : Nat) (newHome : BitVec 16)
  /-- CONTEXT_FETCH_DONE (R270). A connection context arrives in the cache, and the packets parked for it are processed in order. -/
  | contextFetchDone (conn : Nat)
  /-- ACK_DELAY_TIMEOUT (R278). 500 ns pass after the oldest unacknowledged applied packet, and the target sends an ACK. -/
  | ackDelayTimeout (conn : Nat)
  /-- RETRANSMIT_TIMEOUT (R278). The oldest unacknowledged PSN goes RTO_US unanswered, so the sender retransmits, or enters ERROR at the retry limit. -/
  | retransmitTimeout (conn : Nat)
  /-- HOLD_REPEAT_TIMER (R279). Every 10 µs while a packet is held, the target sends HOLD again. -/
  | holdRepeatTimer (conn : Nat)
  /-- STALL_LIMIT_EXPIRY (R279). STALL_LIMIT_US passes for a paged packet, and the target answers NAK TIMEOUT. -/
  | stallLimitExpiry (conn : Nat)
  /-- RESEND_DELAY_EXPIRY (R280). DELAY_US passes after a RETRY_AFTER, and the sender re-sends from the named PSN. -/
  | resendDelayExpiry (conn : Nat)
  /-- DEMOTE_REPEAT_TIMER (R264). 1 ms passes without a DEMOTE_ACK, so the sender repeats DEMOTE, or after 100 tries posts DEMOTE_UNACKED. -/
  | demoteRepeatTimer (seq : Nat)
  /-- RETENTION_EXPIRY (R360). A retention record is not released within RETAIN_MS, so it is discarded and RETAIN_EXPIRED is posted. -/
  | retentionExpiry (home : BitVec 16) (step : BitVec 64) (sub : Nat)
  /-- RETENTION_BUSY_RETRY (R360). 10 µs after a producer answered ST_BUSY, the home repeats the sub-request. -/
  | retentionBusyRetry (ring : Nat) (rseq : BitVec 32) (sub : Nat)
  /-- BLOCK_RECEIVE (R205). A sequenced block arrives, is FEC-decoded and checked, and is accepted in BSN order or treated as bad. -/
  | blockReceive (port : Nat) (b : RxBlock)
  /-- ALIGNMENT_BLOCK_RECEIVE (R203). An alignment block arrives, and the receiver deskews the lanes on its markers. -/
  | alignmentBlockReceive (port : Nat) (skewNs : Nat)
  /-- BLOCK_TRANSMIT (R216). At each block boundary, the transmitter assembles a block from the chosen packets and the control flit due, or sends an alignment block. -/
  | blockTransmit (port : Nat)
  /-- RX_LCTL (R207). An LCTL control flit delivers acknowledgements, a NAK for replay and raised credit limits. -/
  | rxLctl (port : Nat) (f : Lctl)
  /-- RX_TSYNC (R224). A TSYNC control flit from the parent is used to compute the offset and delay and to correct the time counter. -/
  | rxTsync (port : Nat) (f : Tsync) (replayed : Bool) (rxFrac : Nat)
  /-- RX_CAP (R210). A CAP control flit offers the partner's levels and capabilities during negotiation. -/
  | rxCap (port : Nat) (f : Cap)
  /-- RX_RETRAIN (R208). A RETRAIN control flit requests a retrain of the link. -/
  | rxRetrain (port : Nat)
  /-- REPLAY_ACK_TIMEOUT (R206). The oldest unacknowledged block goes 4 µs unacknowledged, and the transmitter resends from it. -/
  | replayAckTimeout (port : Nat)
  /-- SIGNAL_DETECT (R209). Signal is detected on the lanes of an enabled port, which starts training at 32 GBd. -/
  | signalDetect (port : Nat)
  /-- TRAIN_LOW_DONE (R209). The lanes are equalised and aligned at 32 GBd, and the port enters NEGOTIATE. -/
  | trainLowDone (port : Nat) (lanes : BitVec 8)
  /-- TRAIN_HIGH_DONE (R209). The lanes are equalised and aligned at 64 GBd, and the port enters CREDIT. -/
  | trainHighDone (port : Nat) (lanes : BitVec 8)
  /-- CREDIT_EXCHANGE_DONE (R212). The initial credits have been exchanged, and the port goes UP. -/
  | creditExchangeDone (port : Nat) (limits : List (BitVec 16))
  /-- RETRAIN_DONE (R212). A retrain ends, and the port returns to UP at full or narrow width, or after three failed attempts goes DOWN. -/
  | retrainDone (port : Nat) (ok : Bool) (lanes : BitVec 8) (partnerLanes : BitVec 8)
  /-- LANE_FAILURE (R212). A lane fails while the port is UP, which triggers a retrain. -/
  | laneFailure (port : Nat) (lane : Nat)
  /-- TSYNC_DUE (R223). Node time passes a multiple of 1,000 ns, and each UP port makes a TSYNC flit due. -/
  | tsyncDue
  /-- HOLDOVER_ENTER (R226). A follower receives no valid TSYNC from its parent for 8 µs and enters HOLDOVER. -/
  | holdoverEnter
  /-- TIME_LOST (R226). After 5 ms in HOLDOVER, the follower reports LOST and posts an event, and a running deck halts. -/
  | timeLost
  /-- PTP_MESSAGE (R440). A timestamped IEEE 1588 message arrives on the management port and feeds the PTP servo. -/
  | ptpMessage (domain : BitVec 8) (offsetNs : Int)
  /-- PART_FAULT (R350). A part is declared faulted, receives no further work, and a joker or sharing takes over its logical number. -/
  | partFault (k : PartKind) (inst : Nat) (cause : PartCause)
  /-- JOKER_SWITCH_DONE (R351). A joker or shared instance is ready to serve the logical number. -/
  | jokerSwitchDone (k : PartKind) (inst : Nat)
  /-- STEP_REPLAY_START (R355). Once the joker is ready, a faulted unscheduled step runs again from its recorded inputs. -/
  | stepReplayStart (ring : Nat) (rseq : BitVec 32)
  /-- PART_WATCHDOG (R358). An engine makes no progress for 10 µs, and the part is declared faulted. -/
  | partWatchdog (k : PartKind) (inst : Nat)
  /-- STEP_WATCHDOG (R358). An unscheduled step exceeds its step watchdog limit and is replayed. -/
  | stepWatchdog (ring : Nat) (rseq : BitVec 32)
  /-- WAIT_WATCHDOG (R358). A step waits longer than WAIT_US, so it is replayed or its producer is declared lost. -/
  | waitWatchdog (ring : Nat) (rseq : BitVec 32)
  /-- SHARED_BUFFER_ECC_ERROR (R354). A shared-buffer or tile-buffer word has an ECC error, which is corrected, restored from the mirror, refetched, or faults its step. -/
  | sharedBufferEccError (slice : Nat) (e : EccEvent)
  /-- UE_BURST (R147). An uncorrectable DRAM burst is read, so DMG is set in the page's PDE and an event is posted. -/
  | ueBurst (addr : Nat) (where_ : UeWhere)
  /-- ROW_RETIRE_COPY (R159). A row reaches 16 corrected errors within 24 hours and is retired by an in-bank copy. -/
  | rowRetireCopy (unit : Nat) (src : Nat) (dst : Nat)
  /-- PACKAGE_FAULT (R363). A memory package fails retraining or exceeds its uncorrectable-burst rate and goes offline. -/
  | packageFault (pkg : Nat)
  /-- MCC_FAULT (R363). A memory controller complex fails, and its four packages go offline. -/
  | mccFault (mcc : Nat)
  /-- POWER_PHASE_LOSS (R363). A VCORE phase is lost, so the power limit drops to 600 W and the node enters DEGRADED. -/
  | powerPhaseLoss
  /-- MSS_WATCHDOG (R363). The MSS watchdog expires after 1 s, and the MSS restarts from its active slot. -/
  | mssWatchdog
  /-- CRW (R133). The controller writes one 32-byte column of a unit's command register area. -/
  | crw (u : Nat) (col : Nat) (data : List Byte) (bad : Nat)
  /-- CRUCIBLE_GO (R135). A CTL write with GO set starts the program at ENTRY and copies ARG into S. -/
  | crucibleGo (u : Nat) (entry : BitVec 10)
  /-- CRUCIBLE_ABORT (R153). A CTL write with ABORT set stops the unit at its next column boundary with CODE ABORTED. -/
  | crucibleAbort (u : Nat)
  /-- CRUCIBLE_SUSPEND (R151). A CTL write with SUSPEND set asks a running unit to suspend at its next row boundary. -/
  | crucibleSuspend (u : Nat)
  /-- CRR (R133). The controller reads one 32-byte column of a unit's command register area. -/
  | crr (u : Nat) (col : Nat) (bad : Nat)
  /-- OPW (R133). The controller writes one 32-byte column of an operand half. -/
  | opw (u : Nat) (h : Nat) (col : Nat) (data : List Byte) (bad : Nat)
  /-- RBR (R133). The controller reads one 32-byte column of a result half. -/
  | rbr (u : Nat) (h : Nat) (col : Nat) (bad : Nat)
  /-- IMW (R133). The controller writes one 32-byte column of an IDLE unit's program store. -/
  | imw (u : Nat) (col : Nat) (data : List Byte) (bad : Nat)
  /-- CRU_STOP (R139). The STOP instruction ends the program with CODE IMM[7:0]. -/
  | cruStop (u : Nat)
  /-- CRU_YIELD (R149). The YIELD instruction closes every row, resets ROWCYC and waits while the controller issues the refreshes owed. -/
  | cruYield (u : Nat)
  /-- YIELD_RELEASE (R149). The refreshes owed at a YIELD are done, and the controller releases the unit. -/
  | yieldRelease (u : Nat)
  /-- CRU_SETI (R139). The SETI instruction sets a scalar register to a sign-extended immediate. -/
  | cruSeti (u : Nat)
  /-- CRU_ADDI (R139). The ADDI instruction adds an immediate to a scalar register modulo 2³². -/
  | cruAddi (u : Nat)
  /-- CRU_ADD (R139). The ADD instruction adds two scalar registers modulo 2³². -/
  | cruAdd (u : Nat)
  /-- CRU_LOOP (R139). The LOOP instruction decrements a register and jumps if the result is not zero. -/
  | cruLoop (u : Nat)
  /-- CRU_JUMP (R139). The JUMP instruction jumps to IMM[9:0]. -/
  | cruJump (u : Nat)
  /-- CRU_BZ (R139). The BZ instruction jumps if a register is zero. -/
  | cruBz (u : Nat)
  /-- CRU_RSTR (R139). The RSTR instruction streams columns from the banks into LB, optionally checking and marking corrected columns. -/
  | cruRstr (u : Nat)
  /-- CRU_LDS (R139). The LDS instruction loads the K and V scales from the page header in LB. -/
  | cruLds (u : Nat)
  /-- CRU_DOT (R142). The DOT instruction forms the scores of up to 64 positions against the query codes. -/
  | cruDot (u : Nat)
  /-- CRU_ACC (R139). The ACC instruction accumulates weights times value codes into ACC. -/
  | cruAcc (u : Nat)
  /-- CRU_SCALE (R139). The SCALE instruction multiplies the scores by per-vector or shared constants. -/
  | cruScale (u : Nat)
  /-- CRU_HOOK (R142). The HOOK instruction applies one hook entry to the scores. -/
  | cruHook (u : Nat)
  /-- CRU_CSEL (R139). The CSEL instruction masks scores to −inf by causal or count compare. -/
  | cruCsel (u : Nat)
  /-- CRU_MAX (R139). The MAX instruction takes the per-vector maximum of the scores. -/
  | cruMax (u : Nat)
  /-- CRU_EXP2 (R143). The EXP2 instruction forms the integer weights and their sum. -/
  | cruExp2 (u : Nat)
  /-- CRU_STORE_RESULT (R144). STORE mode 0 writes the result record into a result half. -/
  | cruStoreResult (u : Nat)
  /-- CRU_STORE_COPY (R159). STORE mode 1 copies columns from LB to a granted ULA. -/
  | cruStoreCopy (u : Nat)
  /-- CRU_STORE_ZERO (R158). STORE mode 2 writes zero columns with fresh check symbols. -/
  | cruStoreZero (u : Nat)
  /-- CRU_STORE_REWRITE (R146). STORE mode 3 rewrites the corrected columns of the last checking stream. -/
  | cruStoreRewrite (u : Nat)
  /-- CRU_SSCORE (R142). The SSCORE instruction scores summary records into a result half. -/
  | cruSscore (u : Nat)
  /-- CRU_POST (R139). The POST instruction adds IMM to DONE for the controller to observe. -/
  | cruPost (u : Nat)
  /-- CRU_RESULT_READ (R144). After DONE, the leaf finisher reads the result record and forms the partials. -/
  | cruResultRead (u : Nat)
  /-- CRU_STALL_TIMEOUT (R153). STS stays unchanged for 10 µs while STATE is RUN, which is a unit fault. -/
  | cruStallTimeout (u : Nat)
  /-- CRU_CLOCK_BOUND (R136). A program exceeds CLKBOUND clocks and stops with CLOCK_BOUND. -/
  | cruClockBound (u : Nat)
  /-- REFRESH_DUE (R149). A bank's refresh interval passes, and the controller refreshes it or waits for the unit's row to close. -/
  | refreshDue (u : Nat) (bank : Nat)
  /-- CRU_ROW_BOUNDARY_SUSPEND (R151). A unit asked to suspend reaches its row boundary, closes the row, saves its state and enters SUSPENDED. -/
  | cruRowBoundarySuspend (u : Nat)
  /-- CRU_SUSPEND_RESUME (R151). The owing bank's refresh completes, and the unit reopens its row and resumes. -/
  | cruSuspendResume (u : Nat)
  /-- SCRUB_LAUNCH (R157). The scrubber launches the scrub program on one granule within its share. -/
  | scrubLaunch (u : Nat) (granule : Nat)
  /-- CAST_AUDIT_PIECE (R127). The cast audit decodes one sealed CAST page in spare expander capacity and reports any failure. -/
  | castAuditPiece
  /-- RETRAINING_PIECE (R441). The background retrainer runs one step of a channel's retraining within its share or deadline. -/
  | retrainingPiece (ch : Nat) (late : Bool)
  /-- TELEMETRY_SAMPLE (R427). Every 1 ms the sampler updates the sensors and their WARN and LIMIT states. -/
  | telemetrySample (vals : List SensorVal)
  /-- THERMAL_TRIP (R428). A sensor passes its TRIP threshold, so hardware turns the rails off within 1 ms and the node enters STANDBY. -/
  | thermalTrip (sensor : Nat) (val : BitVec 16)
  /-- EVENT_LOG_FLUSH (R432). The MSS writes the batched event-log entries to flash. -/
  | eventLogFlush
  /-- TAP_FLUSH (R407). Every 1 ms the node flushes the nonzero tap accumulators and the periodic LEVEL records into the tap queue. -/
  | tapFlush
  /-- METERING_RESUME (R410). The tap queue falls to 1,024 records, so a RESUME record is queued and admission resumes. -/
  | meteringResume
  /-- ASSAY_RX_COUNT (R407). The Assay accepts a COUNT record and adds its value to the counter. -/
  | assayRxCount
  /-- ASSAY_RX_LEVEL (R406). The Assay accepts a LEVEL record and accrues memory use by its own clock. -/
  | assayRxLevel (t : Nat)
  /-- ASSAY_RX_OPEN (R413). The Assay accepts an OPEN record, starts the instance's accrual and signs an OPEN statement. -/
  | assayRxOpen (t : Nat)
  /-- ASSAY_RX_CLOSE (R413). The Assay accepts a CLOSE record and signs a CLOSE statement. -/
  | assayRxClose
  /-- ASSAY_RX_HALT (R414). The Assay accepts a HALT record and signs HALT statements for the ACTIVE partitions. -/
  | assayRxHalt
  /-- ASSAY_RX_RESUME (R414). The Assay accepts a RESUME record and signs RESUME statements. -/
  | assayRxResume
  /-- ASSAY_RX_RESTART (R408). The Assay accepts a RESTART record, resets its expected sequence and flags RESTART. -/
  | assayRxRestart (t : Nat)
  /-- ASSAY_HEARTBEAT_LOSS (R408). 1 ms passes without an Assay heartbeat, and the node treats the Assay as unavailable. -/
  | assayHeartbeatLoss
  /-- ASSAY_READY_CHANGE (R408). The Assay's ready line changes, which makes the Assay available or unavailable to the tap. -/
  | assayReadyChange (ready : Bool)
  /-- ASSAY_PERIODIC_STATEMENT (R414). STATEMENT_S seconds pass on the Assay clock, and it signs PERIODIC statements. -/
  | assayPeriodicStatement
  /-- ASSAY_NVM_SAVE (R401). Every 1 s the Assay writes its counters to its nonvolatile store. -/
  | assayNvmSave
  /-- ASSAY_SEAL_BREACH (R416). The Assay's seal mesh breaks, and the SEAL_BROKEN fuse burns. -/
  | assaySealBreach
  /-- GET_STATEMENT (R419). A GET_STATEMENT message asks the Assay to sign a DEMAND statement for a partition. -/
  | getStatement (p : Nat)
  /-- GET_BY_ASEQ (R419). A GET_BY_ASEQ message asks for a statement still in the ring. -/
  | getByAseq (aseq : BitVec 64)
  /-- GET_CERT (R419). A GET_CERT message asks for the Assay's certificate. -/
  | getCert
  /-- GET_STATUS (R419). A GET_STATUS message asks for the Assay's status, LOST and last ASEQ. -/
  | getStatus
  /-- PATCH_CHUNK (R419). A PATCH_CHUNK message writes up to 1,024 bytes into the inactive patch slot. -/
  | patchChunk (off : BitVec 32) (data : List Byte)
  /-- PATCH_COMMIT (R419). A PATCH_COMMIT message makes the Assay verify and accept a patch while ASY_PATCH_EN# is low. -/
  | patchCommit (len : BitVec 32)
  /-- ASSAY_PATCH_RESTART (R418). After UPDATE statements, the Assay restarts on the new patch and burns its anti-rollback counter. -/
  | assayPatchRestart
  /-- ASSAY_SET_ENDPOINT_ID (R419). The Assay answers the MCTP Set Endpoint ID control message. -/
  | assaySetEndpointId (eid : BitVec 8)
  /-- ASSAY_GET_ENDPOINT_ID (R419). The Assay answers the MCTP Get Endpoint ID control message. -/
  | assayGetEndpointId
  /-- ASSAY_GET_MCTP_VERSION (R419). The Assay answers the MCTP Get MCTP Version Support control message. -/
  | assayGetMctpVersion
  /-- ASSAY_GET_MESSAGE_TYPES (R419). The Assay answers the MCTP Get Message Type Support control message. -/
  | assayGetMessageTypes
  /-- SET_ENDPOINT_ID (R429). The node answers the MCTP Set Endpoint ID control message on its SMBus path. -/
  | setEndpointId (eid : BitVec 8)
  /-- GET_ENDPOINT_ID (R429). The node answers the MCTP Get Endpoint ID control message. -/
  | getEndpointId
  /-- GET_MCTP_VERSION_SUPPORT (R429). The node answers the MCTP Get MCTP Version Support control message. -/
  | getMctpVersionSupport
  /-- GET_MESSAGE_TYPE_SUPPORT (R429). The node answers the MCTP Get Message Type Support control message. -/
  | getMessageTypeSupport
  /-- MGMT_OPEN (R430). A management OPEN message opens a session, or names the answer region on the fabric path. -/
  | mgmtOpen (h : MsgHdr) (ans : Option AnswerRegion)
  /-- MGMT_CLOSE (R430). A management CLOSE message closes a session. -/
  | mgmtClose (h : MsgHdr)
  /-- MGMT_READ (R430). A management READ message returns 4 to 256 bytes of BAR0. -/
  | mgmtRead (h : MsgHdr) (off : BitVec 32) (len : Nat)
  /-- MGMT_WRITE (R430). A management WRITE message writes 4 to 256 bytes of BAR0 for the owner. -/
  | mgmtWrite (h : MsgHdr) (off : BitVec 32) (data : List Byte)
  /-- MGMT_CLAIM (R430). A management CLAIM message presents a credential for ownership. -/
  | mgmtClaim (h : MsgHdr) (cred : List Byte)
  /-- MGMT_HEARTBEAT (R430). A management HEARTBEAT message renews the owner's lease. -/
  | mgmtHeartbeat (h : MsgHdr)
  /-- MGMT_SUBMIT (R431). A management SUBMIT message places a descriptor on the management ring, or returns the kept sequence for a repeated TAG. -/
  | mgmtSubmit (h : MsgHdr) (desc : List Byte)
  /-- MGMT_UPDATE (R430). A management UPDATE message delivers a chunk of a firmware image. -/
  | mgmtUpdate (h : MsgHdr) (off : BitVec 32) (data : List Byte)
  /-- MGMT_LOG_READ (R430). A management LOG_READ message returns event-log entries. -/
  | mgmtLogRead (h : MsgHdr) (first : BitVec 64) (count : Nat)
  /-- MGMT_SESSION_TIMEOUT (R429). An Ethernet session is silent for 10 s and closes. -/
  | mgmtSessionTimeout (m : Nat)
  /-- JTAG_BYPASS (R426). The JTAG BYPASS instruction is executed and the node keeps running. -/
  | jtagBypass
  /-- JTAG_IDCODE (R426). The JTAG IDCODE instruction is executed and the node keeps running. -/
  | jtagIdcode
  /-- JTAG_SAMPLE_PRELOAD (R426). The JTAG SAMPLE/PRELOAD instruction is executed in TEST and the node keeps running. -/
  | jtagSamplePreload
  /-- JTAG_EXTEST (R426). The JTAG EXTEST instruction in TEST drives pins and ends the data path as a cold reset does. -/
  | jtagExtest
  /-- JTAG_CLAMP (R426). The JTAG CLAMP instruction in TEST drives pins and ends the data path as a cold reset does. -/
  | jtagClamp
  /-- JTAG_INTEST (R426). The JTAG INTEST instruction in TEST drives pins and ends the data path as a cold reset does. -/
  | jtagIntest
  /-- STANDBY_POWER_GOOD (R422). Standby power becomes good, the straps are sampled, and the node verifies an MSS slot and enters STANDBY or RECOVERY. -/
  | standbyPowerGood (recoveryN : Bool) (sris : Bool) (smbAddr : BitVec 2)
  /-- STANDBY_POWER_LOSS (R422). Standby power is lost, so the node goes OFF and the Assay saves its counters from hold-up. -/
  | standbyPowerLoss
  /-- MAIN_POWER_LOSS (R452). VIN48 falls beyond the ride-through limits, and the node enters STANDBY with a cold reset of the data path. -/
  | mainPowerLoss
  /-- VIN48_DIP (R452). A dip of VIN48 of at most 100 µs, staying above 30 V, is ridden through with no state change. -/
  | vin48Dip (us : Nat) (minMv : Nat)
  /-- BRINGUP_STEP_DONE (R437). A bring-up step ends, and the next step starts, or bring-up holds at HOLD_AT or enters READY or DEGRADED. -/
  | bringupStepDone (res : BringupResult) (imgs : List RingImage)
  /-- PERST_ASSERT (R461). PERST# is asserted, which is a warm reset in READY, DEGRADED or TEST. -/
  | perstAssert
  /-- PERST_DEASSERT (R437). PERST# is deasserted, and the PCIe complex starts training. -/
  | perstDeassert
  /-- PCIE_LINK_DOWN (R326). The PCIe link goes down or a hot reset arrives, which causes a warm reset. -/
  | pcieLinkDown (hotReset : Bool)
  /-- PCIE_LINK_UP (R437). The PCIe link finishes training. -/
  | pcieLinkUp
  /-- FLR_VF (R326). A function-level reset of a VF resets its PCIe configuration and clears its rings' EN. -/
  | flrVf (vf : Nat)
  /-- FLR_PF (R326). A function-level reset of the PF resets its configuration and clears the EN of the owner rings. -/
  | flrPf
  /-- REFCLK_LOSS (R466). PCIE_REFCLK is lost in common-clock mode, which takes the link down and causes a warm reset. -/
  | refclkLoss
  /-- NODE_OSC_FAILURE (R466). The MSS clock monitor detects a failure of the node oscillator, which causes a cold reset; the node stays in STANDBY. -/
  | nodeOscFailure
  /-- VIN48_RETURN (R422). 48 V main input becomes present at the lands while the node is in STANDBY; the module charges its input capacitance, and with AUTO_ON set bring-up starts. -/
  | vin48Return
  /-- NODE_OSC_RECOVERY (R466). The node oscillator recovers after a failure, ending the hold in STANDBY so that bring-up may proceed again. -/
  | nodeOscRecovery
  /-- ASSAY_HEARTBEAT_RETURN (R408). A heartbeat from the Assay arrives again after a heartbeat loss, making the Assay available and letting the tap queue drain. -/
  | assayHeartbeatReturn
  /-- MSIX_VECTOR_UNMASK (R338). The host unmasks an MSI-X vector that has a pending signal, and the node sends the one message held for it. -/
  | msixVectorUnmask (fn : Nat) (vec : Nat)
  deriving DecidableEq, Repr

end Sys2Proof
end

