-- ==== Sys2Proof/Config.lean ====
section
/-! DEFINITION. The free values of the model: what the spec leaves open, as constants without a body. Nothing can be
proved about their values, so every statement holds whatever they are. Values that may differ from one use to the next
are applied to the counter `freeCnt` of the state. -/

namespace Sys2Proof.Config

open Sys2Proof

/-- Sign of a NaN that an arithmetic operation yields. The spec gives no NaN pattern (log entry 15). -/
opaque nanSign : Bool

/-- Fraction below the quiet bit of a NaN that an arithmetic operation yields (log entry 15). -/
opaque nanPayload : BitVec 22

/-- The cost in ns of a descriptor (R469): the spec publishes no formula. Arguments: the descriptor, the numbers of
the object it names, and the configuration in force (log entry 16). -/
opaque cost : List Byte → List Nat → Table Word → Nat

/-- A random draw of the node's DRBG: `n` bytes at draw `k` (R394, log entry 9). -/
opaque drbg : (k : Nat) → (n : Nat) → List Byte

/-- SHA-256 of a byte list (R391, R395; log entry 17). -/
opaque sha256 : List Byte → List Byte

/-- Whether an SLH-DSA signature over a message verifies under a public key (R393, R396; log entry 17). -/
opaque slhVerify : (key msg sig : List Byte) → Bool

/-- An SLH-DSA signature over a message: 7,856 or 17,088 bytes (R391, R414; log entry 17). -/
opaque slhSign : (keyId : Nat) → (msg : List Byte) → List Byte

/-- The plaintext of an ML-KEM-768 wrapped key blob, where its tag verifies (R374 to R377; log entry 17). -/
opaque unwrapKey : (importGen : Nat) → (aad blob : List Byte) → Option (List Byte)

/-- AES-256-GCM: the ciphertext and tag of a payload (R281; log entry 17). -/
opaque gcmSeal : (key nonce aad plain : List Byte) → List Byte × List Byte

/-- AES-256-GCM: the plaintext, where the tag verifies (R281; log entry 17). -/
opaque gcmOpen : (key nonce aad cipher tag : List Byte) → Option (List Byte)

/-- AES-256-XTS under a window key: the bytes as they go to the bus address (R378; log entry 17). -/
opaque xtsSeal : (key : List Byte) → (addr : Nat) → (plain : List Byte) → List Byte

/-- AES-256-XTS under a window key: the bytes read at the bus address, decrypted (R378; log entry 17). -/
opaque xtsOpen : (key : List Byte) → (addr : Nat) → (cipher : List Byte) → List Byte

/-- A public key or certificate the spec fixes by name only: 1 the import key, 2 the node certificate chain, 3 the Assay
certificate, 4 the device authority key, 5 to 8 the firmware keys, 9 the identity public key, 10 the boot ROM, 11 the Assay's mask ROM, 12 the empty
Assay patch area, 13 the metrology authority's key, from 32 on the firmware images as shipped (log entry 17). -/
opaque blob : (which : Nat) → (gen : Nat) → List Byte

/-- A local address that the node chooses for an allocation (R61): use `k`, an alignment and a size (log entry 13). -/
opaque allocAddr : (k align size : Nat) → Nat

/-- Whether an allocation of the partition finds memory (R61): use `k`, partition and bytes (log entry 13). -/
opaque allocFits : (k part bytes : Nat) → Bool

/-- U0 of a sequence (R54): any value from 0 to 1,023. -/
opaque u0 : (k : Nat) → Nat

/-- A byte that the spec leaves unspecified: a debug space, an unwritten filter byte, memory after a loss
(log entries 6 and 14). -/
opaque freeByte : (k i : Nat) → Byte

/-- A number that the spec leaves open, at use `k` (log entry 18). -/
opaque freeNat : (k : Nat) → Nat

/-- A choice that the spec leaves open, at use `k` (log entry 18). -/
opaque freeBool : (k : Nat) → Bool

/-- The module's 64-bit identity number (R310). -/
opaque serial : BitVec 64

/-- The JTAG IDCODE (R426). -/
opaque idcode : BitVec 32

/-- Whether draw `n` since the seed was set injects an event, at a probability of 2^(-rate) (R228): the spec gives the
polynomial of the LFSR, not how it is stepped or read (log entry 21). -/
opaque misdealDraw : (seed : BitVec 32) → (n rate : Nat) → Bool

/-- What a block carries after the misdeal injector has flipped payload bits and BCRC has missed it, which can happen for
bursts above 16 bits only (R227; log entry 21). -/
opaque flippedCargo : (k : Nat) → List Cargo → List Cargo

end Sys2Proof.Config
end

