-- ==== Sys2Proof/Machine/Bits.lean ====
section
/-! DEFINITION. Bits, bytes and sparse tables: bit fields, little-endian records (R10), serial order of 32-bit ring
sequences (R317), and tables with strictly rising keys. No state is read here. -/

namespace Sys2Proof.Machine

open Sys2Proof

/-! ## Tables -/

/-- The record under key `k`, if there is one. -/
def tget {α : Type} : Table α → Nat → Option α
  | [], _ => none
  | (k', v) :: t, k => if k' = k then some v else tget t k

/-- The record under key `k`, or `d`. -/
def tgetD {α : Type} (t : Table α) (k : Nat) (d : α) : α := (tget t k).getD d

/-- The table with `v` under key `k`; the keys stay strictly rising. -/
def tset {α : Type} : Table α → Nat → α → Table α
  | [], k, v => [(k, v)]
  | (k', v') :: t, k, v =>
    if k < k' then (k, v) :: (k', v') :: t
    else if k = k' then (k, v) :: t
    else (k', v') :: tset t k v

/-- The table without key `k`. -/
def tdel {α : Type} (t : Table α) (k : Nat) : Table α := t.filter fun e => e.1 != k

/-- The table with the record under `k` changed by `f`, where there is one. -/
def tmod {α : Type} (t : Table α) (k : Nat) (f : α → α) : Table α :=
  match tget t k with
  | some v => tset t k (f v)
  | none => t

/-- Every record changed by `f`, under its own key. -/
def tmap {α : Type} (t : Table α) (f : Nat → α → α) : Table α := t.map fun (k, v) => (k, f k v)

/-- The records that meet `p`. -/
def tfilter {α : Type} (t : Table α) (p : Nat → α → Bool) : Table α := t.filter fun (k, v) => p k v

/-- The first record, in key order, that meets `p`. -/
def tfind {α : Type} (t : Table α) (p : Nat → α → Bool) : Option (Nat × α) := t.find? fun (k, v) => p k v

/-- Whether some record meets `p`. -/
def tany {α : Type} (t : Table α) (p : Nat → α → Bool) : Bool := t.any fun (k, v) => p k v

/-- How many records meet `p`. -/
def tcount {α : Type} (t : Table α) (p : Nat → α → Bool) : Nat := (t.filter fun (k, v) => p k v).length

/-- The lowest key of `n` down from `fuel` candidates that the table does not hold. -/
def tfresh {α : Type} (t : Table α) : Nat → Nat → Option Nat
  | 0, _ => none
  | fuel + 1, k => if (tget t k).isNone then some k else tfresh t fuel (k + 1)

/-- The keys rise strictly. -/
def tsorted {α : Type} : Table α → Bool
  | [] => true
  | [_] => true
  | (k, _) :: (k', v') :: t => decide (k < k') && tsorted ((k', v') :: t)

/-! ## Bit fields of naturals -/

/-- Bits [lo + w - 1 : lo] of `v` (R10). -/
def bits (v lo w : Nat) : Nat := v / 2 ^ lo % 2 ^ w

/-- Bit `i` of `v`. -/
def bit (v i : Nat) : Bool := v / 2 ^ i % 2 == 1

/-- `v` with bits [lo + w - 1 : lo] replaced by the low bits of `x`. -/
def putBits (v lo w x : Nat) : Nat :=
  v % 2 ^ lo + x % 2 ^ w * 2 ^ lo + v / 2 ^ (lo + w) * 2 ^ (lo + w)

/-- The low `w` bits of `v` read as a two's complement integer. -/
def sext (v w : Nat) : Int :=
  let u := v % 2 ^ w
  if u < 2 ^ (w - 1) then (u : Int) else (u : Int) - (2 ^ w : Nat)

/-- An integer as a `w`-bit two's complement pattern. -/
def toTwos (i : Int) (w : Nat) : Nat := (i % (2 ^ w : Nat)).toNat

/-- 1 for true, 0 for false. -/
def b2n (b : Bool) : Nat := if b then 1 else 0

/-- The quotient rounded up. -/
def cdiv (a b : Nat) : Nat := (a + b - 1) / b

/-- `v` rounded up to a multiple of `m`. -/
def roundUp (v m : Nat) : Nat := cdiv v m * m

/-! ## Little-endian bytes (R10) -/

/-- The value of a byte list, byte 0 least significant. -/
def leVal : List Byte → Nat
  | [] => 0
  | b :: bs => b.toNat + 256 * leVal bs

/-- `n` bytes of `v`, byte 0 least significant. -/
def leBytes : Nat → Nat → List Byte
  | 0, _ => []
  | n + 1, v => BitVec.ofNat 8 (v % 256) :: leBytes n (v / 256)

/-- `n` bytes from offset `off`; a byte past the end reads as zero. -/
def slice (bs : List Byte) (off n : Nat) : List Byte :=
  let t := (bs.drop off).take n
  t ++ List.replicate (n - t.length) 0

/-- The field of `n` bytes at offset `off`. -/
def fld (bs : List Byte) (off n : Nat) : Nat := leVal (slice bs off n)

/-- The bits [lo + w - 1 : lo] of the field of `n` bytes at offset `off`. -/
def fldBits (bs : List Byte) (off n lo w : Nat) : Nat := bits (fld bs off n) lo w

/-- `bs` with the bytes at `off` replaced by `v`. -/
def patch (bs : List Byte) (off : Nat) (v : List Byte) : List Byte :=
  (slice bs 0 off) ++ v ++ bs.drop (off + v.length)

/-- `n` zero bytes. -/
def zeros (n : Nat) : List Byte := List.replicate n 0

/-- Every byte is zero. -/
def allZero (bs : List Byte) : Bool := bs.all (· == 0)

/-- A list cut into pieces of `n` elements; `fuel` bounds the pieces. -/
def chunksAux {α : Type} (n : Nat) : Nat → List α → List (List α)
  | 0, _ => []
  | fuel + 1, l => if l.isEmpty then [] else l.take n :: chunksAux n fuel (l.drop n)

/-- A list cut into pieces of `n` elements, the last perhaps shorter. -/
def chunks {α : Type} (n : Nat) (l : List α) : List (List α) := chunksAux n l.length l

/-! ## Serial order of 32-bit sequences (R317) -/

/-- How far `b` lies past `a`, modulo 2³². -/
def ahead (a b : BitVec 32) : Nat := (b - a).toNat

/-- `b` is `a` or lies past it in 32-bit serial order. -/
def serialLe (a b : BitVec 32) : Bool := decide (ahead a b < 2 ^ 31)

/-- `b` lies past `a` in 32-bit serial order. -/
def serialLt (a b : BitVec 32) : Bool := serialLe a b && a != b

/-! ## Lists -/

/-- Element `i`, or `d`. -/
def nth {α : Type} (l : List α) (i : Nat) (d : α) : α := l.getD i d

/-- The list with element `i` replaced. -/
def setNth {α : Type} (l : List α) (i : Nat) (v : α) : List α := l.set i v

/-- The sum of a list of naturals. -/
def sumN (l : List Nat) : Nat := l.foldl (· + ·) 0

/-- The greatest of a list of naturals, 0 of the empty list. -/
def maxN (l : List Nat) : Nat := l.foldl max 0

/-- No element stands twice. -/
def distinct (l : List Nat) : Bool :=
  match l with
  | [] => true
  | x :: xs => !xs.contains x && distinct xs

end Sys2Proof.Machine
end

