-- ==== Sys2Proof/Machine/Float.lean ====
section
/-! DEFINITION. Binary floating point: decoding, exact sums and products, and rounding to nearest even once to FP32,
BF16, FP16 or E4M3 (R41, R88, R90, R467). -/

namespace Sys2Proof.Machine

open Sys2Proof

/-- A binary format: fraction bits, exponent bits, and whether it saturates in place of giving infinity. -/
structure Fmt where
  mb : Nat
  eb : Nat
  sat : Bool
  maxPat : Nat
  deriving DecidableEq, Repr

/-- FP32. -/
def fmt32 : Fmt := { mb := 23, eb := 8, sat := false, maxPat := 0x7F7FFFFF }
/-- BF16. -/
def fmtB16 : Fmt := { mb := 7, eb := 8, sat := false, maxPat := 0x7F7F }
/-- FP16 with the saturation of R41. -/
def fmt16 : Fmt := { mb := 10, eb := 5, sat := true, maxPat := 0x7BFF }
/-- E4M3 with the saturation of R88. -/
def fmtE4 : Fmt := { mb := 3, eb := 4, sat := true, maxPat := 0x7E }

/-- Width of a format in bits. -/
def Fmt.width (f : Fmt) : Nat := 1 + f.eb + f.mb

/-- Least exponent of a normal number. -/
def Fmt.emin (f : Fmt) : Int := 2 - (2 ^ (f.eb - 1) : Nat)

/-- A decoded number: NaN, an infinity, or (-1)^neg * m * 2^e. -/
inductive FV where
  | nan
  | inf (neg : Bool)
  | fin (neg : Bool) (m : Nat) (e : Int)
  deriving DecidableEq, Repr

/-- Decode a pattern. E4M3 has no infinity and one NaN per sign. -/
def decodeF (f : Fmt) (p : Nat) : FV :=
  let neg := bit p (f.width - 1)
  let ex := bits p f.mb f.eb
  let fr := bits p 0 f.mb
  if f.mb = 3 ∧ ex = 15 ∧ fr = 7 then .nan
  else if f.mb ≠ 3 ∧ ex = 2 ^ f.eb - 1 then (if fr = 0 then .inf neg else .nan)
  else if ex = 0 then .fin neg fr (f.emin - f.mb)
  else .fin neg (2 ^ f.mb + fr) (f.emin - f.mb + (ex - 1 : Nat))

/-- The pattern of a NaN result: quiet, the rest a free value (log entry 15). -/
def nanPat (f : Fmt) : Nat :=
  if f.mb = 3 then b2n Config.nanSign * 128 + 0x7F
  else b2n Config.nanSign * 2 ^ (f.width - 1) + (2 ^ f.eb - 1) * 2 ^ f.mb + 2 ^ (f.mb - 1)
    + Config.nanPayload.toNat % 2 ^ (f.mb - 1)

/-- The sign bit in place. -/
def signPat (f : Fmt) (neg : Bool) : Nat := b2n neg * 2 ^ (f.width - 1)

/-- The pattern of infinity, or the greatest magnitude in a format that saturates. -/
def overPat (f : Fmt) : Nat := if f.sat then f.maxPat else (2 ^ f.eb - 1) * 2 ^ f.mb

/-- Bits needed to write `n`. -/
def bitLen (n : Nat) : Nat := if n = 0 then 0 else Nat.log2 n + 1

/-- `n` times 2^k, rounded down where k is negative. -/
def shiftI (n : Nat) (k : Int) : Nat := if 0 ≤ k then n * 2 ^ k.toNat else n / 2 ^ (-k).toNat

/-- Round a magnitude to nearest even. The exact value lies in [m, m + 1) * 2^e, and is m * 2^e if `sticky` is clear. -/
def roundMag (f : Fmt) (m : Nat) (e : Int) (sticky : Bool) : Nat :=
  let m4 := 4 * m + b2n sticky
  let e4 := e - 2
  if m4 = 0 then 0 else
  let q := max (e4 + bitLen m4 - (f.mb + 1 : Nat)) (f.emin - f.mb)
  let sh := q - e4
  let sig0 := shiftI m4 (-sh)
  let sig :=
    if 0 < sh then
      let rem := m4 % 2 ^ sh.toNat
      let half := 2 ^ (sh.toNat - 1)
      if half < rem ∨ (rem = half ∧ sig0 % 2 = 1) then sig0 + 1 else sig0
    else sig0
  let pat := if sig < 2 ^ f.mb then sig else (q + f.mb - f.emin + 1).toNat * 2 ^ f.mb + (sig - 2 ^ f.mb)
  if f.maxPat < pat then overPat f else pat

/-- Round an exact number to a format. -/
def encodeF (f : Fmt) : FV → Nat
  | .nan => nanPat f
  | .inf neg => signPat f neg + overPat f
  | .fin neg m e => signPat f neg + roundMag f m e false

/-- Negation. -/
def FV.neg : FV → FV
  | .nan => .nan
  | .inf s => .inf (!s)
  | .fin s m e => .fin (!s) m e

/-- The exact sum. -/
def FV.add : FV → FV → FV
  | .nan, _ => .nan
  | _, .nan => .nan
  | .inf s, .inf t => if s = t then .inf s else .nan
  | .inf s, _ => .inf s
  | _, .inf t => .inf t
  | .fin s m e, .fin t n g =>
    let lo := min e g
    let a : Int := (m * 2 ^ (e - lo).toNat : Nat)
    let b : Int := (n * 2 ^ (g - lo).toNat : Nat)
    let r := (if s then -a else a) + (if t then -b else b)
    if r = 0 then .fin (s && t) 0 lo else .fin (decide (r < 0)) r.natAbs lo

/-- The exact product. -/
def FV.mul : FV → FV → FV
  | .nan, _ => .nan
  | _, .nan => .nan
  | .inf s, .inf t => .inf (s != t)
  | .inf s, .fin t n _ => if n = 0 then .nan else .inf (s != t)
  | .fin s m _, .inf t => if m = 0 then .nan else .inf (s != t)
  | .fin s m e, .fin t n g => .fin (s != t) (m * n) (e + g)

/-- A quotient of naturals times 2^e, rounded once. -/
def roundRat (f : Fmt) (neg : Bool) (num den : Nat) (e : Int) : Nat :=
  let k := bitLen den + 80
  let n := num * 2 ^ k
  signPat f neg + roundMag f (n / den) (e - k) (n % den != 0)

/-- Division, rounded once. -/
def divF (f : Fmt) : FV → FV → Nat
  | .nan, _ => nanPat f
  | _, .nan => nanPat f
  | .inf _, .inf _ => nanPat f
  | .inf s, .fin t _ _ => signPat f (s != t) + overPat f
  | .fin s _ _, .inf t => signPat f (s != t)
  | .fin s m e, .fin t n g =>
    if n = 0 then (if m = 0 then nanPat f else signPat f (s != t) + overPat f)
    else roundRat f (s != t) m n (e - g)

/-! ## FP32 as patterns -/

/-- An FP32 pattern. -/
abbrev F32 := BitVec 32

/-- The number an FP32 pattern holds. -/
def F32.val (x : F32) : FV := decodeF fmt32 x.toNat

/-- Round to FP32. -/
def f32 (v : FV) : F32 := BitVec.ofNat 32 (encodeF fmt32 v)

/-- +0. -/
def fZero : F32 := 0
/-- 1.0. -/
def fOne : F32 := 0x3F800000
/-- Minus infinity, the score of a masked position. -/
def fNegInf : F32 := 0xFF800000
/-- log2(e) in FP32, constant CT[16] of R137. -/
def fLog2e : F32 := 0x3FB8AA3B

def fAdd (a b : F32) : F32 := f32 (a.val.add b.val)
def fSub (a b : F32) : F32 := f32 (a.val.add b.val.neg)
def fMul (a b : F32) : F32 := f32 (a.val.mul b.val)
def fDiv (a b : F32) : F32 := BitVec.ofNat 32 (divF fmt32 a.val b.val)
/-- a * b + c, rounded once (R90). -/
def fFma (a b c : F32) : F32 := f32 ((a.val.mul b.val).add c.val)

/-- An integer rounded to FP32. -/
def fOfInt (i : Int) : F32 := f32 (.fin (decide (i < 0)) i.natAbs 0)

/-- The pattern is a NaN. -/
def fIsNaN (a : F32) : Bool := a.val == .nan
/-- The pattern is finite. -/
def fIsFin (a : F32) : Bool := match a.val with
  | .fin _ _ _ => true
  | _ => false

/-- A key that orders numbers other than NaN as their values, -0 below +0. -/
def fKey (a : F32) : Int := if a.msb then -((a.toNat % 2 ^ 31 : Nat) : Int) - 1 else (a.toNat : Int)

/-- a < b as numbers; false if either is NaN. -/
def fLt (a b : F32) : Bool :=
  !(fIsNaN a) && !(fIsNaN b) && (decide (fKey a < fKey b)) && !(a.toNat % 2 ^ 31 == 0 && b.toNat % 2 ^ 31 == 0)

/-- a = b as numbers. -/
def fEq (a b : F32) : Bool := !(fIsNaN a) && !(fIsNaN b) && !(fLt a b) && !(fLt b a)

/-- The greater; NaN if either is NaN (PRESUMED, the IEEE 754 maximum; log entry 15). -/
def fMax (a b : F32) : F32 :=
  if fIsNaN a || fIsNaN b then BitVec.ofNat 32 (nanPat fmt32) else if fKey a < fKey b then b else a
/-- The smaller; NaN if either is NaN (PRESUMED, log entry 15). -/
def fMin (a b : F32) : F32 :=
  if fIsNaN a || fIsNaN b then BitVec.ofNat 32 (nanPat fmt32) else if fKey a < fKey b then a else b

/-- Is positive and finite. -/
def fPosFin (a : F32) : Bool := fIsFin a && fLt fZero a

/-! ## The other formats -/

/-- A BF16 pattern widened to FP32, exactly. -/
def bToF (b : Nat) : F32 := BitVec.ofNat 32 (b % 65536 * 65536)
/-- An FP32 number rounded to BF16. -/
def fToB (a : F32) : Nat := encodeF fmtB16 a.val
/-- An FP16 pattern widened to FP32, exactly. -/
def hToF (h : Nat) : F32 := f32 (match decodeF fmt16 h with
  | v => v)
/-- An FP32 number rounded to FP16, saturating (R41). -/
def fToH (a : F32) : Nat := encodeF fmt16 a.val
/-- An E4M3 pattern widened to FP32, exactly. -/
def eToF (e : Nat) : F32 := f32 (decodeF fmtE4 (e % 256))
/-- An FP32 number rounded to E4M3, saturating (R88). -/
def fToE (a : F32) : Nat := encodeF fmtE4 a.val

/-- The nearest integer to m * 2^e, ties to even. -/
def rneMag (m : Nat) (e : Int) : Nat :=
  if 0 ≤ e then m * 2 ^ e.toNat
  else
    let k := (-e).toNat
    let q := m / 2 ^ k
    let r := m % 2 ^ k
    if 2 ^ (k - 1) < r ∨ (r = 2 ^ (k - 1) ∧ q % 2 = 1) then q + 1 else q

/-- The nearest integer to an FP32 number, ties to even, clamped to [-lim, lim]; 0 for NaN. -/
def fRound (a : F32) (lim : Nat) : Int :=
  match a.val with
  | .nan => 0
  | .inf s => if s then -(lim : Int) else lim
  | .fin s m e =>
    let n := min lim (rneMag m e)
    if s then -(n : Int) else n

end Sys2Proof.Machine
end

