-- ==== Sys2Proof/Machine/Elementary.lean ====
section
/-! DEFINITION. The elementary functions of R467, correctly rounded: exp2, recip, tanh, pow, sin, cos and 1/sqrt.
An exact value is returned where the function has one; otherwise the value is irrational, it is bounded from below to
far more bits than any format holds, and rounded once (DEDUCED, log entry 19). -/

namespace Sys2Proof.Machine

open Sys2Proof

/-- Fraction bits of the fixed-point constants. -/
def fxP : Nat := 512

/-- ln 2 in units of 2^-512. -/
def fxLn2 : Nat := 0xb17217f7d1cf79abc9e3b39803f2f6af40f343267298b62d8a0d175b8baafa2be7b876206debac98559552fb4afa1b10ed2eae35c138214427573b291169b825

/-- pi in units of 2^-512. -/
def fxPi : Nat := 0x3243f6a8885a308d313198a2e03707344a4093822299f31d0082efa98ec4e6c89452821e638d01377be5466cf34e90c6cc0ac29b7c97c50dd3f84d5b5b5470917

/-- Product of two fixed-point numbers, rounded down. -/
def fxMul (a b : Nat) : Nat := a * b / 2 ^ fxP

/-- The Taylor sum of e^x from term `t` of index `k` on. -/
def fxExpSum (x : Nat) : Nat → Nat → Nat → Nat
  | 0, _, _ => 0
  | fuel + 1, k, t => t + fxExpSum x fuel (k + 1) (fxMul t x / (k + 1))

/-- e^x of a fixed-point x in [0, 1). -/
def fxExp (x : Nat) : Nat := fxExpSum x 100 0 (2 ^ fxP)

/-- 2^f of a fixed-point f in [0, 1). -/
def fxExp2 (f : Nat) : Nat := fxExp (fxMul f fxLn2)

/-- A fixed-point number above zero, known to lie just below an irrational value, as a format's pattern. The last 64
bits, which the rounding errors of the sums reach, are left off. -/
def fxRound (f : Fmt) (neg : Bool) (v : Nat) (e : Int) : Nat :=
  signPat f neg + roundMag f (v / 2 ^ 64) (e - fxP + 64) true

/-- Floor of num * 2^e. -/
def floorScale (num : Int) (e : Int) : Int :=
  if 0 ≤ e then num * (2 ^ e.toNat : Nat) else num / (2 ^ (-e).toNat : Nat)

/-- exp2 of an exact number, rounded once to a format (R467). -/
def exp2To (f : Fmt) : FV → Nat
  | .nan => nanPat f
  | .inf true => 0
  | .inf false => overPat f
  | .fin s m e =>
    let i : Int := if s then -(m : Int) else m
    let n := floorScale i e
    if 300 ≤ n then overPat f
    else if n < -300 then 0
    else if 0 ≤ e then roundMag f 1 n false
    else
      let k := (-e).toNat
      let fr := (i - n * (2 ^ k : Nat)).toNat
      if fr = 0 then roundMag f 1 n false
      else fxRound f false (fxExp2 (fr * 2 ^ fxP / 2 ^ k)) n

/-- exp2, correctly rounded to FP32. -/
def fExp2 (x : F32) : F32 := BitVec.ofNat 32 (exp2To fmt32 x.val)

/-- The reciprocal, correctly rounded to FP32. -/
def fRecip (x : F32) : F32 := fDiv fOne x

/-- tanh, correctly rounded to FP32 (R78, R467). -/
def fTanh (x : F32) : F32 :=
  match x.val with
  | .nan => BitVec.ofNat 32 (nanPat fmt32)
  | .inf s => if s then 0xBF800000 else fOne
  | .fin s m e =>
    if m = 0 then x
    else
      let top := e + bitLen m
      if top < -40 then BitVec.ofNat 32 (signPat fmt32 s + roundMag fmt32 (m * 2 ^ 64 - 1) (e - 64) true)
      else if 5 < top then BitVec.ofNat 32 (signPat fmt32 s + roundMag fmt32 (2 ^ 64 - 1) (-64) true)
      else
        -- |x| = a * 2^-256; e^(2a) = 2^n * e^r with r below ln 2
        let a := shiftI m (e + fxP)
        let n := 2 * a / fxLn2
        let r := 2 * a - n * fxLn2
        let ee := fxExp r * 2 ^ n
        let num := ee - 2 ^ fxP
        let den := ee + 2 ^ fxP
        BitVec.ofNat 32 (signPat fmt32 s + roundMag fmt32 (num * 2 ^ 320 / den) (-320) true)

/-- The sum of z^(2k+1)/(2k+1), for atanh. -/
def fxAtanhSum (z2 : Nat) : Nat → Nat → Nat → Nat
  | 0, _, _ => 0
  | fuel + 1, k, t => t / (2 * k + 1) + fxAtanhSum z2 fuel (k + 1) (fxMul t z2)

/-- log2 of a number y in [1, 2) held in units of 2^-512. -/
def fxLog2 (y : Nat) : Nat :=
  let z := (y - 2 ^ fxP) * 2 ^ fxP / (y + 2 ^ fxP)
  2 * fxAtanhSum (fxMul z z) 170 0 z * 2 ^ fxP / fxLn2

/-- pow(base, -j / pairs) for a finite base above 1, correctly rounded to FP32 (R57). -/
def fPowNeg (base : F32) (j pairs : Nat) : F32 :=
  match base.val with
  | .fin false m e =>
    if j = 0 ∨ pairs = 0 then fOne else
    let bl := bitLen m
    let ex := e + bl - 1
    if m = 2 ^ (bl - 1) then
      -- a power of two: the exponent is the rational -ex * j / pairs
      let num : Int := -(ex * j)
      let n := num / (pairs : Int)
      let fr := (num - n * pairs).toNat
      if fr = 0 then BitVec.ofNat 32 (roundMag fmt32 1 n false)
      else BitVec.ofNat 32 (fxRound fmt32 false (fxExp2 (fr * 2 ^ fxP / pairs)) n)
    else
      let y := shiftI m ((fxP : Int) - (bl - 1 : Nat))
      let l : Int := ex * (2 ^ fxP : Nat) + fxLog2 y
      let t : Int := -(l * j) / pairs
      let n := t / (2 ^ fxP : Nat)
      let fr := (t - n * (2 ^ fxP : Nat)).toNat
      BitVec.ofNat 32 (fxRound fmt32 false (fxExp2 fr) n)
  | _ => BitVec.ofNat 32 (nanPat fmt32)

/-- The alternating Taylor sum of sine (start k = 1, term x) or cosine (start k = 0, term 1). -/
def fxTrigSum (x2 : Nat) : Nat → Nat → Int → Int
  | 0, _, _ => 0
  | fuel + 1, k, t => t + fxTrigSum x2 fuel (k + 2) (-(t * x2 / (2 ^ fxP : Nat) / ((k + 1) * (k + 2) : Nat)))

/-- Sine and cosine of a fixed-point angle in [0, pi/2). -/
def fxSinCos (x : Nat) : Nat × Nat :=
  let x2 := fxMul x x
  ((fxTrigSum x2 60 1 x).toNat, (fxTrigSum x2 60 0 (2 ^ fxP : Nat)).toNat)

/-- Sine and cosine of |a|, with their signs: the angle is reduced by quarter turns. -/
def trigParts (m : Nat) (e : Int) : (Bool × Nat) × (Bool × Nat) :=
  let a := shiftI m (e + fxP)
  let q := 2 * a / fxPi
  let r := a - q * fxPi / 2
  let (s, c) := fxSinCos r
  match q % 4 with
  | 0 => ((false, s), (false, c))
  | 1 => ((false, c), (true, s))
  | 2 => ((true, s), (true, c))
  | _ => ((true, c), (false, s))

/-- Sine and cosine, correctly rounded to FP32 (R57, R467). -/
def fSinCos (a : F32) : F32 × F32 :=
  match a.val with
  | .fin s m e =>
    if m = 0 then (a, fOne)
    else
      let ((ss, sv), (cs, cv)) := trigParts m e
      (BitVec.ofNat 32 (fxRound fmt32 (s != ss) sv 0), BitVec.ofNat 32 (fxRound fmt32 cs cv 0))
  | _ => (BitVec.ofNat 32 (nanPat fmt32), BitVec.ofNat 32 (nanPat fmt32))

/-- Integer square root by bits: `fuel` bits from the top. -/
def isqrtAux (n : Nat) : Nat → Nat → Nat
  | 0, r => r
  | fuel + 1, r =>
    let c := r + 2 ^ fuel
    if c * c ≤ n then isqrtAux n fuel c else isqrtAux n fuel r

/-- Integer square root. -/
def isqrt (n : Nat) : Nat := isqrtAux n ((bitLen n + 1) / 2) 0

/-- 1/sqrt(d), correctly rounded to FP32 (R69). -/
def fRsqrtNat (d : Nat) : F32 :=
  let n := 2 ^ 200 / d
  let r := isqrt n
  BitVec.ofNat 32 (roundMag fmt32 r (-100) (decide (r * r * d ≠ 2 ^ 200)))

/-- 1/sqrt(x) of an FP32 number above zero, rounded once to FP32 (R168, R467). -/
def fRsqrt (x : F32) : F32 :=
  match x.val with
  | .fin false m e =>
    if m = 0 then 0x7F800000 else
    -- make the exponent even: x = m' * 2^(2h)
    let odd := e % 2 != 0
    let m' := if odd then 2 * m else m
    let h := (if odd then e - 1 else e) / 2
    let n := 2 ^ 240 / m'
    let r := isqrt n
    BitVec.ofNat 32 (roundMag fmt32 r (-120 - h) (decide (r * r * m' ≠ 2 ^ 240)))
  | .fin true m _ => if m = 0 then 0xFF800000 else BitVec.ofNat 32 (nanPat fmt32)
  | .inf false => fZero
  | _ => BitVec.ofNat 32 (nanPat fmt32)

/-- The integer nearest to 127 * 2^x, ties to even, for x at most 0 (R143). -/
def exp2Q127 (x : F32) : Nat :=
  match x.val with
  | .fin s m e =>
    let i : Int := if s then -(m : Int) else m
    let n := floorScale i e
    if n < -12 then 0
    else if 0 ≤ n then 127
    else
      let k := (-e).toNat
      let fr := (i - n * (2 ^ k : Nat)).toNat
      if fr = 0 ∨ 0 ≤ e then rneMag 127 n
      else rneMag (127 * fxExp2 (fr * 2 ^ fxP / 2 ^ k)) (n - fxP)
  | _ => 0

end Sys2Proof.Machine
end

