-- ==== Sys2Proof/Machine/Pages.lean ====
section
/-! DEFINITION. Page formats: quantisation (R41), PACKED8 and PACKED4 pages (R39, R40), summary records (R49, R52),
rotary positions (R57) and plane geometry (R27 to R29). -/

namespace Sys2Proof.Machine

open Sys2Proof

/-- A model slot (R27). -/
structure Slot where
  layers : Nat := 1
  kvh : Nat := 1
  group : Nat := 0
  hdim : Nat := 0
  latent : Nat := 0
  rope : Nat := 0
  ropePairs : Nat := 0
  ropeBase : BitVec 32 := 0
  winFmt : Nat := 0
  winPlace : Nat := 0
  retFmt : Nat := 0
  pinFmt : Nat := 0
  patternN : Nat := 0
  valid : Bool := false
  deriving DecidableEq, Repr

/-- Read a slot from its 32-byte record. -/
def Slot.ofBytes (b : List Byte) : Slot :=
  { layers := fld b 0 1 + 1, kvh := fld b 1 1 + 1, group := fld b 2 1, hdim := fld b 3 1, latent := fld b 4 2,
    rope := fld b 6 1, ropePairs := fld b 7 1, ropeBase := BitVec.ofNat 32 (fld b 8 4), winFmt := fld b 12 1,
    winPlace := fld b 13 1, retFmt := fld b 14 1, pinFmt := fld b 15 1, patternN := fld b 16 1,
    valid := bit (fld b 17 1) 0 }

/-- Head dimension of an HDIM code. -/
def hdimOf (c : Nat) : Nat :=
  match c with
  | 0 => 64
  | 1 => 96
  | 2 => 128
  | 3 => 192
  | 4 => 256
  | _ => 0

/-- Plane width D (R29). -/
def Slot.d (m : Slot) : Nat := if m.latent = 0 then hdimOf m.hdim else m.latent
/-- Planes per page (R29). -/
def Slot.planes (m : Slot) : Nat := if m.latent = 0 then 2 else 1
/-- Streams of a sequence (R28). -/
def Slot.streams (m : Slot) : Nat := m.layers * m.kvh

/-- Page format codes (R37). -/
def fmtEmpty : Nat := 0
def fmtRaw : Nat := 1
def fmtP8 : Nat := 2
def fmtP4 : Nat := 3
def fmtCast : Nat := 4

/-- Size of a PACKED page (R42). -/
def packedSize (fmt d planes : Nat) : Nat := 64 + planes * 64 * d / (if fmt = fmtP8 then 1 else 2)

/-- A RAW16 page: BF16 patterns by position and channel (R38), as many rows as positions are written. `bad` marks an
uncorrectable error in it. -/
structure RawPage where
  k : List (List Nat) := []
  v : List (List Nat) := []
  bad : Bool := false
  deriving DecidableEq, Repr

/-- The page with positions from `i` on replaced by the given rows. -/
def RawPage.write (p : RawPage) (i : Nat) (ks vs : List (List Nat)) : RawPage :=
  { p with k := p.k.take i ++ ks, v := p.v.take i ++ vs, bad := if i = 0 then false else p.bad }

/-! ## Quantisation (R41) -/

/-- A BF16 value that is not finite counts as zero. -/
def bFin (b : Nat) : Nat := if bits b 7 8 = 255 then 0 else b

/-- The greatest magnitude among BF16 patterns, as a pattern; values that are not finite take no part. -/
def maxAbsB (l : List Nat) : Nat := l.foldl (fun m b => max m (bFin b % 32768)) 0

/-- The FP16 scale of a group of greatest magnitude `m` (a BF16 pattern). -/
def scaleOf (m qmax : Nat) : Nat := fToH (fDiv (bToF m) (fOfInt qmax))

/-- The code of one value under a scale. -/
def codeOf (b s qmax : Nat) : Int :=
  if s = 0 then 0 else fRound (fDiv (bToF (bFin b)) (hToF s)) qmax

/-- The scales of a plane, one per 32 channels, over its valid rows. -/
def planeScales (d qmax : Nat) (rows : List (List Nat)) : List Nat :=
  (List.range (d / 32)).map fun g => scaleOf (maxAbsB (rows.flatMap fun r => (r.drop (32 * g)).take 32)) qmax

/-- The codes of one row. -/
def rowCodes (scales : List Nat) (qmax : Nat) (row : List Nat) : List Int :=
  row.zipIdx.map fun (b, c) => codeOf b (scales.getD (c / 32) 0) qmax

/-- A quantised plane: its scales and 64 rows of codes, code 0 past the valid rows. -/
structure QPlane where
  scales : List Nat
  codes : List (List Int)
  deriving DecidableEq, Repr

/-- Quantise a plane of width d. -/
def quantPlane (d qmax : Nat) (rows : List (List Nat)) : QPlane :=
  let s := planeScales d qmax rows
  let c := rows.map (rowCodes s qmax)
  { scales := s, codes := c ++ List.replicate (64 - c.length) (List.replicate d 0) }

/-! ## PACKED pages (R39, R40) -/

/-- The header of a page. `body48` is bytes 16 to 63. -/
def pageHeader (page stream fmt count seq tver : Nat) (body48 : List Byte) : List Byte :=
  leBytes 4 page ++ leBytes 2 stream ++ leBytes 1 fmt ++ leBytes 1 count ++ leBytes 4 seq ++ leBytes 1 tver ++ zeros 3
    ++ slice body48 0 48

/-- Two nibbles to a byte, even channel low. -/
def nibbles : List Int → List Byte
  | a :: b :: t => BitVec.ofNat 8 (toTwos a 4 + 16 * toTwos b 4) :: nibbles t
  | [a] => [BitVec.ofNat 8 (toTwos a 4)]
  | [] => []

/-- The code bytes of a plane. -/
def codeBytes (fmt : Nat) (p : QPlane) : List Byte :=
  p.codes.flatMap fun r => if fmt = fmtP8 then r.map (fun c => BitVec.ofNat 8 (toTwos c 8)) else nibbles r

/-- The greatest code of a format (R41). -/
def qmaxOf (fmt : Nat) : Nat := if fmt = fmtP8 then 127 else 7

/-- A PACKED page from a RAW16 page. -/
def packPage (m : Slot) (fmt page stream seq : Nat) (r : RawPage) : List Byte :=
  let k := quantPlane m.d (qmaxOf fmt) r.k
  let v := quantPlane m.d (qmaxOf fmt) r.v
  let two := m.planes = 2
  pageHeader page stream fmt r.k.length seq 0
      ((k.scales ++ if two then v.scales else []).flatMap (leBytes 2))
    ++ codeBytes fmt k ++ (if two then codeBytes fmt v else [])

/-- A pin page in a PACKED format: the pinned rows in the order pinned (R48). -/
def packPin (m : Slot) (stream seq page : Nat) (r : RawPage) : List Byte := packPage m m.pinFmt page stream seq r

/-- Code (i, c) of plane `pl` of a PACKED page. -/
def packedCode (fmt d : Nat) (b : List Byte) (pl i c : Nat) : Int :=
  let n := d * i + c
  if fmt = fmtP8 then sext (fld b (64 + pl * 64 * d + n) 1) 8
  else sext (fld b (64 + pl * 32 * d + n / 2) 1 / (if n % 2 = 0 then 1 else 16)) 4

/-- Scale of group g of plane `pl` of a PACKED page, an FP16 pattern. -/
def packedScale (d : Nat) (b : List Byte) (pl g : Nat) : Nat := fld b (16 + 2 * (pl * (d / 32) + g)) 2

/-- A plane of a PACKED page as codes. -/
def unpackPlane (fmt d : Nat) (b : List Byte) (pl : Nat) : QPlane :=
  { scales := (List.range (d / 32)).map fun g => packedScale d b pl g
    codes := (List.range 64).map fun i => (List.range d).map fun c => packedCode fmt d b pl i c }

/-- The represented values of a plane, in FP32: code times scale, exact (R41, R108). -/
def QPlane.values (p : QPlane) : List (List F32) :=
  p.codes.map fun r => r.zipIdx.map fun (q, c) => fMul (fOfInt q) (hToF (p.scales.getD (c / 32) 0))

/-! ## Rotary positions (R57) -/

/-- Rotate a vector held in FP32; the result is not yet rounded to the caller's format. -/
def rotate (m : Slot) (pos : Nat) (x : List F32) : List F32 :=
  let ang (j : Nat) : F32 × F32 :=
    fSinCos (fMul (fOfInt pos) (fPowNeg m.ropeBase j m.ropePairs))
  x.zipIdx.map fun (xi, c) =>
    let j := c / 2
    if m.ropePairs ≤ j then xi
    else
      let (sn, cs) := ang j
      let a := x.getD (2 * j) 0
      let b := x.getD (2 * j + 1) 0
      if c % 2 = 0 then fSub (fMul a cs) (fMul b sn) else fAdd (fMul a sn) (fMul b cs)

/-- Rotate a BF16 key at ladle time, rounding each rotated channel once to BF16 (ROPE 1). -/
def rotateB (m : Slot) (pos : Nat) (row : List Nat) : List Nat :=
  let r := rotate m pos (row.map bToF)
  row.zipIdx.map fun (b, c) => if m.ropePairs ≤ c / 2 then b else fToB (r.getD c 0)

/-! ## Summary records (R49, R52) -/

/-- The mean key of a page, in FP32: sums in ascending position, then divided by 64. -/
def meanKey (d : Nat) (rows : List (List Nat)) : List F32 :=
  let sums := rows.foldl (fun acc r => (List.range d).map fun c =>
    fAdd (acc.getD c 0) (bToF (bFin (r.getD c 0)))) (List.replicate d fZero)
  sums.map fun s => fDiv s (fOfInt 64)

/-- The sum of squares of a key in ascending channel order. -/
def sqNorm (row : List Nat) : F32 :=
  row.foldl (fun s b => fAdd s (fMul (bToF (bFin b)) (bToF (bFin b)))) fZero

/-- The key of greatest norm, the lowest position among equals. -/
def maxNormKey (rows : List (List Nat)) : List Nat :=
  match rows with
  | [] => []
  | r :: rs => (rs.foldl (fun (best : List Nat × F32) x =>
      let n := sqNorm x
      if fLt best.2 n then (x, n) else best) (r, sqNorm r)).1

/-- Quantise one key held in FP32 as PACKED8: codes and scales. A value that is not finite counts as zero (R41, R49),
the mean of a channel whose sum leaves the format included. DEDUCED: log entry 36. -/
def quantKey (key : List F32) : List Int × List Nat :=
  let x := key.map fun v => if fIsFin v then v else fZero
  let gs := (List.range (x.length / 32)).map fun g =>
    fToH (fDiv ((x.drop (32 * g)).take 32 |>.foldl (fun m v =>
      let a : F32 := BitVec.ofNat 32 (v.toNat % 2 ^ 31)
      if fKey m < fKey a then a else m) fZero) (fOfInt 127))
  (x.zipIdx.map fun (v, c) =>
    let s := gs.getD (c / 32) 0
    if s = 0 then 0 else fRound (fDiv v (hToF s)) 127, gs)

/-- Size Z of a summary record. -/
def summarySize (d : Nat) : Nat := roundUp (2 * d + d / 8) 64

/-- The summary record of a page (R52). -/
def summaryOf (d : Nat) (rows : List (List Nat)) : List Byte :=
  let (mc, ms) := quantKey (meanKey d rows)
  let (xc, xs) := quantKey ((maxNormKey rows).map fun b => bToF (bFin b))
  slice (mc.map (fun c => BitVec.ofNat 8 (toTwos c 8)) ++ xc.map (fun c => BitVec.ofNat 8 (toTwos c 8))
    ++ ms.flatMap (leBytes 2) ++ xs.flatMap (leBytes 2)) 0 (summarySize d)

end Sys2Proof.Machine
end

