-- ==== Sys2Proof/Machine/Cast.lean ====
section
/-! DEFINITION. CAST pages: symbols (R107), table records (R110 to R113), the pattern pass (R114), the encoder (R117 to
R121) and the expander with its checks (R122 to R125). -/

namespace Sys2Proof.Machine

open Sys2Proof

/-! ## CRC-32C -/

/-- One bit of the reflected Castagnoli CRC. -/
def crcBit (c : Nat) : Nat := if c % 2 = 1 then (c / 2) ^^^ 0x82F63B78 else c / 2

/-- One byte of the CRC. -/
def crcByte (c : Nat) (b : Byte) : Nat :=
  crcBit (crcBit (crcBit (crcBit (crcBit (crcBit (crcBit (crcBit (c ^^^ b.toNat))))))))

/-- CRC-32C of a byte list, with the polynomial's usual start and end values (PRESUMED, log entry 20). -/
def crc32c (l : List Byte) : Nat := (l.foldl crcByte 0xFFFFFFFF) ^^^ 0xFFFFFFFF

/-! ## Symbols (R107) -/

/-- Alphabet size of a plane: 64 for K and latent, 32 for V. -/
def alphaOf (isV : Bool) : Nat := if isV then 32 else 64
/-- Greatest code of a plane. -/
def castQmax (isV : Bool) : Nat := if isV then 15 else 31
/-- Payload bits of an escape. -/
def escBits (isV : Bool) : Nat := if isV then 5 else 6
/-- The symbol of a code. -/
def symOf (isV : Bool) (q : Int) : Nat := (q + (alphaOf isV / 2 : Nat)).toNat
/-- The symbols of a plane, in stream order (R119). -/
def planeSyms (isV : Bool) (p : QPlane) : List Nat := p.codes.flatMap fun r => r.map (symOf isV)

/-! ## Tables (R110 to R112) -/

/-- A table record (R110). -/
structure CastTable where
  tfmt : Nat := 2
  tver : Nat
  kmax : Nat
  vmax : Nat
  stream : Nat
  seq : Nat
  klen : List Nat
  vlen : List Nat
  deriving DecidableEq, Repr

/-- Nibbles of code lengths as bytes, even symbol low. -/
def lenBytes (n : Nat) (l : List Nat) : List Byte :=
  (List.range n).map fun k => BitVec.ofNat 8 (l.getD (2 * k) 0 % 16 + 16 * (l.getD (2 * k + 1) 0 % 16))

/-- The record without its check. -/
def CastTable.parts (t : CastTable) : List Byte × List Byte :=
  (leBytes 1 t.tfmt ++ leBytes 1 t.tver ++ leBytes 1 t.kmax ++ leBytes 1 t.vmax ++ leBytes 2 t.stream ++ zeros 2
    ++ leBytes 4 t.seq, lenBytes 32 t.klen ++ lenBytes 16 t.vlen)

/-- The 64-byte record. -/
def CastTable.bytes (t : CastTable) : List Byte :=
  let (a, b) := t.parts
  a ++ leBytes 4 (crc32c (a ++ b)) ++ b

/-- Kraft sum in units of 2^-max. -/
def kraft (mx : Nat) (l : List Nat) : Nat := sumN (l.map fun n => if n = 0 then 0 else 2 ^ (mx - n))

/-- One plane's lengths are valid (R111). -/
def lensOk (mx : Nat) (l : List Nat) : Bool :=
  l.getD 0 0 != 0 && decide (2 ≤ (l.filter (· != 0)).length) && maxN l == mx && decide (2 ≤ mx ∧ mx ≤ 15)
    && kraft mx l + 1 == 2 ^ mx

/-- Read a record, if it is valid (R111). `planes` is 1 for a latent stream. -/
def readTable (planes : Nat) (b : List Byte) : Option CastTable :=
  let nib (off i : Nat) : Nat := fld b (off + i / 2) 1 / (if i % 2 = 0 then 1 else 16) % 16
  let t : CastTable :=
    { tfmt := fld b 0 1, tver := fld b 1 1, kmax := fld b 2 1, vmax := fld b 3 1, stream := fld b 4 2,
      seq := fld b 8 4 % 2 ^ 20, klen := (List.range 64).map (nib 16), vlen := (List.range 32).map (nib 48) }
  let vOk := if planes = 2 then lensOk t.vmax t.vlen else t.vmax == 0 && t.vlen.all (· == 0)
  if t.tfmt == 2 && fld b 6 2 == 0 && fld b 8 4 < 2 ^ 20 && fld b 12 4 == crc32c (slice b 0 12 ++ slice b 16 48)
      && lensOk t.kmax t.klen && vOk then some t else none

/-- Canonical codewords (R112): symbol, length and codeword, ascending in (length, symbol). -/
def canonAux : List (Nat × Nat) → Nat → Nat → List (Nat × Nat × Nat)
  | [], _, _ => []
  | (n, i) :: t, code, prev =>
    let c := code * 2 ^ (n - prev)
    (i, n, c) :: canonAux t (c + 1) n

/-- The coded symbols ascending in (length, symbol). -/
def codedSyms (l : List Nat) : List (Nat × Nat) :=
  (List.range 16).flatMap fun n => if n = 0 then [] else
    (l.zipIdx.filter fun (len, _) => len == n)

/-- The codewords of a plane's lengths. -/
def codewords (l : List Nat) : List (Nat × Nat × Nat) := canonAux (codedSyms l) 0 0

/-! ## The pattern pass (R114) -/

/-- A node of the Huffman tree: its key and the leaves below it with their depths. -/
structure HNode where
  w : Nat
  ord : Nat
  leaves : List (Nat × Nat)
  deriving DecidableEq, Repr

/-- Insert a node in key order. -/
def hInsert (x : HNode) : List HNode → List HNode
  | [] => [x]
  | y :: t => if x.w < y.w ∨ (x.w = y.w ∧ x.ord < y.ord) then x :: y :: t else y :: hInsert x t

/-- Join the two least nodes until one remains. -/
def hMerge (a : Nat) : Nat → Nat → List HNode → List (Nat × Nat)
  | 0, _, _ => []
  | fuel + 1, merges, x :: y :: t =>
    hMerge a fuel (merges + 1) (hInsert
      { w := x.w + y.w, ord := a + merges,
        leaves := (x.leaves ++ y.leaves).map fun (i, dep) => (i, dep + 1) } t)
  | _ + 1, _, [x] => x.leaves
  | _ + 1, _, [] => []

/-- The coded symbol that `better` prefers. -/
def pickSym (w len : List Nat) (ok : Nat → Bool) (better : Nat → Nat → Bool) : Option Nat :=
  (List.range w.length).foldl (fun (b : Option Nat) i =>
    if len.getD i 0 = 0 ∨ ¬ ok i then b
    else match b with
      | none => some i
      | some j => if better i j then some i else b) none

/-- Lengthen until the code fits 14 bits. -/
def limitUp (w : List Nat) : Nat → Nat → List Nat → Nat × List Nat
  | 0, k, len => (k, len)
  | fuel + 1, k, len =>
    if k ≤ 16384 then (k, len) else
    match pickSym w len (fun i => decide (len.getD i 0 < 14)) (fun i j =>
        decide (len.getD j 0 < len.getD i 0) || (len.getD i 0 == len.getD j 0 &&
          (decide (w.getD i 0 < w.getD j 0) || (w.getD i 0 == w.getD j 0 && decide (j < i))))) with
    | none => (k, len)
    | some i => limitUp w fuel (k - 2 ^ (13 - len.getD i 0)) (len.set i (len.getD i 0 + 1))

/-- Shorten until the code is complete. -/
def limitDown (w : List Nat) : Nat → Nat → List Nat → List Nat
  | 0, _, len => len
  | fuel + 1, k, len =>
    if 16384 ≤ k then len else
    match pickSym w len (fun _ => true) (fun i j =>
        decide (len.getD j 0 < len.getD i 0) || (len.getD i 0 == len.getD j 0 &&
          (decide (w.getD j 0 < w.getD i 0) || (w.getD i 0 == w.getD j 0 && decide (i < j))))) with
    | none => len
    | some i => limitDown w fuel (k + 2 ^ (14 - len.getD i 0)) (len.set i (len.getD i 0 - 1))

/-- Code lengths from symbol weights, and the longest (R114). -/
def codeLens (w : List Nat) : List Nat × Nat :=
  let a := w.length
  let leaves := (w.zipIdx.filter fun (x, _) => x != 0)
  let nodes := leaves.foldl (fun l (x, i) => hInsert { w := x, ord := i, leaves := [(i, 0)] } l) []
  let deps := hMerge a (a + 1) 0 nodes
  let len0 := (List.range a).map fun i => min 14 (((deps.find? fun (j, _) => j == i).map (·.2)).getD 0)
  let k := sumN (len0.map fun n => if n = 0 then 0 else 2 ^ (14 - n))
  let (k1, len1) := limitUp w 4096 k len0
  let len2 := limitDown w 4096 k1 len1
  match pickSym w len2 (fun _ => true) (fun i j =>
      decide (len2.getD j 0 < len2.getD i 0) || (len2.getD i 0 == len2.getD j 0 && decide (j < i))) with
  | none => (len2, 0)
  | some j => (len2.set j (len2.getD j 0 + 1), len2.getD j 0 + 1)

/-- Weights from the symbol counts of the pattern pages; every weight 1 if every page was omitted (R115). -/
def patternWeights (isV : Bool) (pages : List QPlane) : List Nat :=
  let a := alphaOf isV
  if pages.isEmpty then List.replicate a 1
  else
    let syms := pages.flatMap (planeSyms isV)
    (List.range a).map fun i => if i = 0 then 1 + syms.length / 4096 else syms.count i

/-- The tables of one stream from its pattern pages that could be read (R113, R114). -/
def patternPass (m : Slot) (seq stream tver : Nat) (pages : List RawPage) : CastTable :=
  let ks := pages.map fun p => quantPlane m.d 31 p.k
  let vs := pages.map fun p => quantPlane m.d 15 p.v
  let (kl, km) := codeLens (patternWeights false ks)
  let (vl, vm) := if m.planes = 2 then codeLens (patternWeights true vs) else (List.replicate 32 0, 0)
  { tver := tver, kmax := km, vmax := vm, stream := stream, seq := seq, klen := kl, vlen := vl }

/-! ## The encoder (R117 to R121) -/

/-- `n` bits of `v`, most significant first. -/
def msbBits (v n : Nat) : List Bool := (List.range n).map fun i => bit v (n - 1 - i)

/-- The bits of one symbol: its codeword, or ESC and its index. -/
def symBits (isV : Bool) (cw : List (Nat × Nat × Nat)) (s : Nat) : List Bool :=
  let find (i : Nat) := cw.find? fun (j, _, _) => j == i
  match find s with
  | some (_, n, c) => msbBits c n
  | none => (match find 0 with
    | some (_, n, c) => msbBits c n
    | none => []) ++ msbBits s (escBits isV)

/-- How many symbols a table escapes. -/
def escapes (lens syms : List Nat) : Nat := (syms.filter fun s => lens.getD s 0 == 0).length

/-- Bits to bytes, bit 7 of a byte first; the last byte is filled with zeros. -/
def packBits (l : List Bool) : List Byte :=
  (chunks 8 l).map fun c => BitVec.ofNat 8 ((List.range 8).foldl (fun a i => 2 * a + b2n (c.getD i false)) 0)

/-- Segment bits of a plane and the offset at which each segment starts. -/
def encodePlane (isV : Bool) (d : Nat) (lens : List Nat) (syms : List Nat) : List Bool × List Nat :=
  let cw := codewords lens
  let segs := (chunks (4 * d) syms).map fun sg => sg.flatMap (symBits isV cw)
  (segs.flatten, (segs.foldl (fun (acc : List Nat × Nat) sg => (acc.1 ++ [acc.2], acc.2 + sg.length)) ([], 0)).1)

/-- A byte list padded with zeros to a multiple of 64. -/
def pad64 (b : List Byte) : List Byte := b ++ zeros (roundUp b.length 64 - b.length)

/-- SB of R118. -/
def scaleBlock (d planes : Nat) : Nat := 16 * cdiv (planes * d) 256

/-- The CAST page of a RAW16 page, however long (R118). -/
def castBytes (m : Slot) (t : CastTable) (page : Nat) (r : RawPage) : List Byte :=
  let two := m.planes = 2
  let k := quantPlane m.d 31 r.k
  let v := quantPlane m.d 15 r.v
  let (kb, ks) := encodePlane false m.d t.klen (planeSyms false k)
  let (vb, vs) := if two then encodePlane true m.d t.vlen (planeSyms true v) else ([], [])
  let scales := slice ((k.scales ++ if two then v.scales else []).flatMap (leBytes 2)) 0 (scaleBlock m.d m.planes)
  let segs := ks.flatMap (leBytes 4) ++ if two then vs.flatMap (leBytes 4) else []
  let head12 := leBytes 4 kb.length ++ leBytes 4 vb.length ++ leBytes 2 (64 * m.d)
    ++ leBytes 2 (if two then 64 * m.d else 0)
  let h0 := pageHeader page t.stream fmtCast 64 t.seq t.tver head12
  let check := crc32c (slice h0 0 28 ++ slice h0 32 32 ++ scales ++ segs)
  let fixed := patch h0 28 (leBytes 4 check) ++ scales ++ segs
  let upToK := pad64 (fixed ++ packBits kb)
  if two then upToK ++ pad64 (packBits vb) else upToK

/-- A sealed page: its format, bytes and table version (R36, R42, R121). -/
structure Sealed where
  fmt : Nat := 0
  tver : Nat := 0
  bytes : List Byte := []
  deriving DecidableEq, Repr

/-- Cast a page, or fall back to PACKED8 (R42, R121). -/
def castPage (m : Slot) (t : CastTable) (page : Nat) (r : RawPage) : Sealed :=
  let c := castBytes m t page r
  if packedSize fmtP8 m.d m.planes < c.length then
    { fmt := fmtP8, tver := 0, bytes := packPage m fmtP8 page t.stream t.seq r }
  else { fmt := fmtCast, tver := t.tver, bytes := c }

/-- Symbols that a cast page writes through ESC. -/
def castEscapes (m : Slot) (t : CastTable) (r : RawPage) : Nat :=
  escapes t.klen (planeSyms false (quantPlane m.d 31 r.k))
    + if m.planes = 2 then escapes t.vlen (planeSyms true (quantPlane m.d 15 r.v)) else 0

/-! ## The expander (R122 to R125) -/

/-- Failure classes of R124. -/
inductive CastFail where
  | header | table | unassigned | escape | length | count
  deriving DecidableEq, Repr

/-- Class codes of R124. -/
def CastFail.code : CastFail → Nat
  | .header => 1
  | .table => 2
  | .unassigned => 3
  | .escape => 4
  | .length => 5
  | .count => 6

/-- Bytes to bits, bit 7 of a byte first (R120). -/
def unpackBits (b : List Byte) : List Bool := b.flatMap fun x => msbBits x.toNat 8

/-- What the next bits spell. -/
inductive CwRead where
  | sym (s n : Nat)
  | reserved
  | short
  deriving DecidableEq, Repr

/-- Read one codeword: extend it bit by bit to the longest length. -/
def readCw (cw : List (Nat × Nat × Nat)) (mx : Nat) : Nat → Nat → Nat → List Bool → CwRead
  | 0, _, _, _ => .reserved
  | fuel + 1, n, acc, bs =>
    match bs with
    | [] => .short
    | b :: rest =>
      let acc' := 2 * acc + b2n b
      match cw.find? fun (_, len, c) => len == n + 1 && c == acc' with
      | some (s, _, _) => .sym s (n + 1)
      | none => if n + 1 = mx then .reserved else readCw cw mx fuel (n + 1) acc' rest

/-- The number that `n` bits spell, most significant first. -/
def bitsVal (l : List Bool) : Nat := l.foldl (fun a b => 2 * a + b2n b) 0

/-- Decode one segment of `want` symbols (R124). -/
def decodeSeg (isV : Bool) (lens : List Nat) (cw : List (Nat × Nat × Nat)) (mx : Nat) :
    Nat → Nat → List Bool → Except CastFail (List Nat)
  | 0, _, _ => .error .length
  | fuel + 1, want, bs =>
    if bs.isEmpty then (if want = 0 then .ok [] else .error .count)
    else if want = 0 then .error .length
    else match readCw cw mx 16 0 0 bs with
      | .short => .error .length
      | .reserved => .error .unassigned
      | .sym s n =>
        if s = 0 then
          let p := (bs.drop n).take (escBits isV)
          if p.length < escBits isV then .error .length
          else
            let v := bitsVal p
            if v = 0 ∨ lens.getD v 0 ≠ 0 then .error .escape
            else (decodeSeg isV lens cw mx fuel (want - 1) (bs.drop (n + escBits isV))).map (v :: ·)
        else (decodeSeg isV lens cw mx fuel (want - 1) (bs.drop n)).map (s :: ·)

/-- Decode the sixteen segments of a plane in order, then check the padding. -/
def decodePlane (isV : Bool) (d : Nat) (lens : List Nat) (mx : Nat) (bs : List Bool) (nbits : Nat) (segs : List Nat) :
    Except CastFail (List Nat) := do
  let cw := codewords lens
  let parts ← (segs.zipIdx).mapM fun (s, j) =>
    let e := segs.getD (j + 1) nbits
    decodeSeg isV lens cw mx (4 * d + 2) (4 * d) ((bs.drop s).take (e - s))
  if (bs.drop nbits).any id then .error .length else .ok parts.flatten

/-- Strictly rising, all below `lim`. -/
def risingBelow (lim : Nat) : List Nat → Bool
  | [] => true
  | [a] => decide (a < lim)
  | a :: b :: t => decide (a < b) && risingBelow lim (b :: t)

/-- An FP16 scale may stand in a page: not negative, finite. -/
def scaleOk (h : Nat) : Bool := decide (h < 0x7C00)

/-- The header checks of R124. -/
def castHeaderOk (m : Slot) (page stream seq tver len64 : Nat) (b : List Byte) : Bool :=
  let p := m.planes
  let d := m.d
  let sb := scaleBlock d p
  let kb := fld b 16 4
  let vb := fld b 20 4
  let fixed := 64 + sb + 64 * p
  let ks := (List.range 16).map fun j => fld b (64 + sb + 4 * j) 4
  let vs := (List.range 16).map fun j => fld b (128 + sb + 4 * j) 4
  let kEnd := roundUp (fixed + cdiv kb 8) 64
  let total := if p = 2 then kEnd + roundUp (cdiv vb 8) 64 else kEnd
  let nsc := p * d / 32
  fld b 6 1 == 4 && fld b 7 1 == 64 && fld b 0 4 == page && fld b 4 2 == stream && fld b 8 4 == seq
    && fld b 12 1 == tver && fld b 13 3 == 0 && allZero (slice b 32 32)
    && fld b 24 2 == 64 * d && fld b 26 2 == (if p = 2 then 64 * d else 0) && (p == 2 || vb == 0)
    && ((List.range nsc).all fun g => scaleOk (fld b (64 + 2 * g) 2))
    && allZero (slice b (64 + 2 * nsc) (sb - 2 * nsc))
    && ks.getD 0 0 == 0 && risingBelow kb ks && (p == 1 || (vs.getD 0 0 == 0 && risingBelow vb vs))
    && total == 64 * len64
    && fld b 28 4 == crc32c (slice b 0 28 ++ slice b 32 32 ++ slice b 64 (sb + 64 * p))

/-- Rows of `d` symbols as a quantised plane. -/
def symsPlane (isV : Bool) (d : Nat) (scales syms : List Nat) : QPlane :=
  { scales := scales, codes := chunks d (syms.map fun (s : Nat) => (s : Int) - (alphaOf isV / 2 : Nat)) }

/-- Decode a CAST page, or name the first class that fails (R124). `tbl` is the stream's table record. -/
def expand (m : Slot) (tbl : Option (List Byte)) (page stream seq tver len64 : Nat) (b : List Byte) :
    Except CastFail (QPlane × QPlane) := do
  if !castHeaderOk m page stream seq tver len64 b then .error .header
  else
    match tbl.bind (readTable m.planes) with
    | none => .error .table
    | some t =>
      if t.seq ≠ seq ∨ t.stream ≠ stream ∨ t.tver ≠ tver then .error .table
      else
        let d := m.d
        let sb := scaleBlock d m.planes
        let fixed := 64 + sb + 64 * m.planes
        let kb := fld b 16 4
        let vb := fld b 20 4
        let kEnd := roundUp (fixed + cdiv kb 8) 64
        let ks := (List.range 16).map fun j => fld b (64 + sb + 4 * j) 4
        let vs := (List.range 16).map fun j => fld b (128 + sb + 4 * j) 4
        let scK := (List.range (d / 32)).map fun g => fld b (64 + 2 * g) 2
        let scV := (List.range (d / 32)).map fun g => fld b (64 + 2 * (d / 32 + g)) 2
        let kSyms ← decodePlane false d t.klen t.kmax (unpackBits (slice b fixed (kEnd - fixed))) kb ks
        if m.planes = 2 then
          let vSyms ← decodePlane true d t.vlen t.vmax (unpackBits (b.drop kEnd)) vb vs
          .ok (symsPlane false d scK kSyms, symsPlane true d scV vSyms)
        else .ok (symsPlane false d scK kSyms, symsPlane false d scK kSyms)

end Sys2Proof.Machine
end

