-- ==== Sys2Proof/Machine/AttendMath.lean ====
section
/-! DEFINITION. The arithmetic of ATTEND: hooks (R78), the three arithmetic paths (R88, R142, R143), leaf partials
(R90), the merge tree (R90 to R92), partial records (R89) and summary scores (R100). -/

namespace Sys2Proof.Machine

open Sys2Proof

/-- One query vector as the arithmetic sees it: its values, already rotated and rounded to the query format, its
position and its head's slope. -/
structure QVec where
  vals : List F32
  qpos : Nat
  slope : F32 := 0
  sink : F32 := 0
  deriving DecidableEq, Repr

/-! ## Hooks (R77, R78) -/

/-- The parts of R79, with their hook bits. -/
inductive Part where
  | window | global | retr | source
  deriving DecidableEq, Repr

/-- Bit of a part in a hook entry (R77). -/
def Part.hookBit : Part → Nat
  | .window => 8
  | .global => 9
  | .retr => 10
  | .source => 11

/-- One hook operation on a score, with d = qpos - kpos. A score of minus infinity stays so (R78). -/
def hookOp (op : Nat) (arg slope : F32) (d : Int) (s : F32) : F32 :=
  if s = fNegInf then s else
  match op with
  | 1 => fAdd s arg
  | 2 => fMul s arg
  | 3 => fMul arg (fTanh (fDiv s arg))
  | 4 => fMin s arg
  | 5 => fMax s arg
  | 6 => fSub s (fMul arg (fOfInt d))
  | 7 => fSub s (fMul slope (fOfInt d))
  | 8 => if (arg.toNat : Int) < d then fNegInf else s
  | 9 => if d < -(arg.toNat : Int) then fNegInf else s
  | _ => s

/-- The entries of a list up to the first END. -/
def hookEntries (l : List (BitVec 64)) : List (BitVec 64) := l.takeWhile fun e => e.toNat % 256 != 0

/-- Run a hook list on a score of a part. -/
def runHooks (l : List (BitVec 64)) (p : Part) (slope : F32) (d : Int) (s : F32) : F32 :=
  (hookEntries l).foldl (fun s e =>
    if bit e.toNat p.hookBit then hookOp (e.toNat % 256) (BitVec.ofNat 32 (e.toNat / 2 ^ 32)) slope d s else s) s

/-- Every hook entry of the window part is one that a unit computes (R86). -/
def hooksInBank (l : List (BitVec 64)) : Bool :=
  (hookEntries l).all fun e => !bit e.toNat 8 || [1, 2, 6, 7, 8, 9].contains (e.toNat % 256)

/-! ## Positions of a leaf -/

/-- One offered position: its place, its key and value as delivered, and whether masks and damage leave it visible. -/
structure Posn where
  kpos : Nat
  visible : Bool
  k : List F32
  v : List F32
  deriving DecidableEq, Repr

/-- The empty partial (R89). -/
def emptyPartial (d : Nat) : Partial := { m := fNegInf, l := fZero, o := List.replicate d fZero }

/-! ## Path C (R88, R142 to R144) -/

/-- Path C query: scale sq and codes (R88). -/
def quantQuery (q : List F32) : F32 × List Int :=
  let a := q.foldl (fun (m : F32) v => let x : F32 := BitVec.ofNat 32 (v.toNat % 2 ^ 31); if fKey m < fKey x then x else m) fZero
  if a.toNat = 0 then (fZero, q.map fun _ => 0)
  else
    let sq := fDiv a (fOfInt 127)
    (sq, q.map fun v => fRound (fDiv v sq) 127)

/-- Exact integer dot product of one 32-channel group. -/
def groupDot (q k : List Int) (g : Nat) : Int :=
  (((q.drop (32 * g)).take 32).zip ((k.drop (32 * g)).take 32)).foldl (fun s (a, b) => s + a * b) 0

/-- The sum over groups of sk[g] * Dg, in FP32 in ascending g (R142). -/
def scaledDot (scales : List Nat) (q k : List Int) : F32 :=
  (List.range (q.length / 32)).foldl (fun t g =>
    fAdd t (fMul (hToF (scales.getD g 0)) (fOfInt (groupDot q k g)))) fZero

/-- u of one position in path C: scale, hooks of the window part, log2(e). -/
def scoreC (scale : F32) (hooks : List (BitVec 64)) (q : QVec) (sq : F32) (qi : List Int) (scales : List Nat)
    (k : List Int) (kpos : Nat) : F32 :=
  let s := fMul (fMul scale sq) (scaledDot scales qi k)
  let h := runHooks hooks .window q.slope ((q.qpos : Int) - kpos) s
  if h = fNegInf then fNegInf else fMul h fLog2e

/-- The partial of result-record values (R144). -/
def finishC (m : F32) (psum : Nat) (sums : List Int) (sv : List Nat) (d : Nat) : Partial :=
  if psum = 0 then emptyPartial d
  else { m := m, l := fDiv (fOfInt psum) (fOfInt 127),
         o := sums.zipIdx.map fun (x, c) =>
           fDiv (fMul (fOfInt x) (hToF (sv.getD (c / 32) 0))) (fOfInt 127) }

/-- The greatest of scores, minus infinity of none. -/
def maxScore (l : List F32) : F32 := l.foldl fMax fNegInf

/-- A page leaf in path C. `vis` says which of the positions are visible. -/
def leafC (scale : F32) (hooks : List (BitVec 64)) (q : QVec) (k v : QPlane) (vis : List (Nat × Nat)) : Partial :=
  let d := q.vals.length
  let (sq, qi) := quantQuery q.vals
  let us := vis.map fun (i, kpos) => (i, scoreC scale hooks q sq qi k.scales (k.codes.getD i []) kpos)
  let m := maxScore (us.map (·.2))
  if m = fNegInf then emptyPartial d else
  let ws := us.map fun (i, u) => (i, if u = fNegInf then 0 else exp2Q127 (fSub u m))
  let psum := sumN (ws.map (·.2))
  let sums := (List.range d).map fun c =>
    ws.foldl (fun (s : Int) (i, p) => s + p * (v.codes.getD i []).getD c 0) 0
  finishC m psum sums v.scales d

/-! ## Paths B and F (R88, R90) -/

/-- Round to the operand format: E4M3 under QFP8, else BF16. -/
def toOperand (fp8 : Bool) (x : F32) : F32 := if fp8 then eToF (fToE x) else bToF (fToB x)

/-- A weight of paths B and F: exp2 rounded once to the operand format. -/
def weightBF (fp8 : Bool) (x : F32) : F32 :=
  if fp8 then eToF (exp2To fmtE4 x.val) else bToF (exp2To fmtB16 x.val)

/-- u of one position in paths B and F. -/
def scoreBF (scale : F32) (hooks : List (BitVec 64)) (part : Part) (q : QVec) (k : List F32) (kpos : Nat) : F32 :=
  let dot := (q.vals.zip k).foldl (fun s (a, b) => fFma a b s) fZero
  let h := runHooks hooks part q.slope ((q.qpos : Int) - kpos) (fMul scale dot)
  if h = fNegInf then fNegInf else fMul h fLog2e

/-- A leaf in path B or F over positions in ascending order (R90). -/
def leafBF (fp8 : Bool) (scale : F32) (hooks : List (BitVec 64)) (part : Part) (q : QVec) (ps : List Posn) : Partial :=
  let d := q.vals.length
  let us := (ps.filter (·.visible)).map fun p => (p, scoreBF scale hooks part q p.k p.kpos)
  let m := maxScore (us.map (·.2))
  if m = fNegInf then emptyPartial d else
  let ws := (us.filter fun (_, u) => u != fNegInf).map fun (p, u) => (p, weightBF fp8 (fSub u m))
  { m := m
    l := ws.foldl (fun s (_, w) => fAdd s w) fZero
    o := ws.foldl (fun o (p, w) => (o.zip p.v).map fun (x, v) => fFma w v x) (List.replicate d fZero) }

/-! ## The merge tree (R90 to R92) -/

/-- Merge two partials, `a` the earlier in canonical order (R90). -/
def mergeP (a b : Partial) : Partial :=
  if a.m = fNegInf then b
  else if b.m = fNegInf then a
  else
    let m := fMax a.m b.m
    let ca := fExp2 (fSub a.m m)
    let cb := fExp2 (fSub b.m m)
    { m := m, l := fFma cb b.l (fMul ca a.l), o := (a.o.zip b.o).map fun (x, y) => fFma cb y (fMul ca x) }

/-- One level of the tree: neighbours merge, an odd last element passes up. -/
def mergeLevel : List Partial → List Partial
  | a :: b :: t => mergeP a b :: mergeLevel t
  | l => l

/-- The tree over leaves in canonical order; `fuel` bounds the levels. -/
def mergeTree (d : Nat) : Nat → List Partial → Partial
  | _, [] => emptyPartial d
  | _, [a] => a
  | 0, a :: _ => a
  | fuel + 1, l => mergeTree d fuel (mergeLevel l)

/-- The root of a list of leaves. -/
def rootOf (d : Nat) (l : List Partial) : Partial := mergeTree d l.length l

/-- The sink leaf (R91). -/
def sinkLeaf (sink : F32) (d : Nat) : Partial := { m := fMul sink fLog2e, l := fOne, o := List.replicate d fZero }

/-- The output of a root: zero if l is 0, else o[c] times recip(l), formed exactly and rounded once (R92). -/
def outputBytes (fp32 : Bool) (p : Partial) : List Byte :=
  let f := if fp32 then fmt32 else fmtB16
  let r := fRecip p.l
  p.o.flatMap fun x =>
    leBytes (if fp32 then 4 else 2) (if p.l.toNat % 2 ^ 31 = 0 then 0 else encodeF f ((F32.val x).mul (F32.val r)))

/-- Size of a partial record (R89). -/
def partialSize (fp32 : Bool) (d : Nat) : Nat := 16 * cdiv (8 + d * (if fp32 then 4 else 2)) 16

/-- The partial record of a root (R89). -/
def partialBytes (fp32 : Bool) (p : Partial) : List Byte :=
  slice (leBytes 4 p.m.toNat ++ leBytes 4 p.l.toNat
    ++ p.o.flatMap fun x => if fp32 then leBytes 4 x.toNat else leBytes 2 (fToB x)) 0 (partialSize fp32 p.o.length)

/-! ## Summary scores (R100, R142) -/

/-- The score of one summary record against one quantised query: the greater of its two keys. -/
def summaryScore (d : Nat) (q : F32 × List Int) (rec : List Byte) : F32 :=
  let codes (off : Nat) : List Int := (List.range d).map fun c => sext (fld rec (off + c) 1) 8
  let scales (off : Nat) : List Nat := (List.range (d / 32)).map fun g => fld rec (off + 2 * g) 2
  let s (kOff sOff : Nat) : F32 := fMul q.1 (scaledDot (scales sOff) q.2 (codes kOff))
  fMax (s 0 (2 * d)) (s d (2 * d + d / 16))

/-- A page's score: the maximum over every query vector (R100). -/
def pageScore (d : Nat) (qs : List (F32 × List Int)) (rec : List Byte) : F32 := maxScore (qs.map fun q => summaryScore d q rec)

/-- Insert a page into a list of best pages: higher score first, a tie to the higher page number (R100). -/
def insertBest (x : F32 × Nat) : List (F32 × Nat) → List (F32 × Nat)
  | [] => [x]
  | y :: t => if fLt y.1 x.1 ∨ (fEq y.1 x.1 ∧ y.2 < x.2) then x :: y :: t else y :: insertBest x t

/-- Insert a number into an ascending list. -/
def insertAsc (x : Nat) : List Nat → List Nat
  | [] => [x]
  | y :: t => if x < y then x :: y :: t else y :: insertAsc x t

/-- The `n` best pages, in ascending page number (R100). -/
def bestPages (n : Nat) (l : List (F32 × Nat)) : List Nat :=
  (((l.foldl (fun b x => insertBest x b) []).take n).map (·.2)).foldl (fun b x => insertAsc x b) []

end Sys2Proof.Machine
end

