-- ==== Sys2Proof/Machine/RegMap.lean ====
section
/-! DEFINITION. The register map of BAR0: for every register, which bits are staged, read-write, write-one-to-clear,
write-one-to-set and write-only (R12), which are reserved (R14), and what the bits hold at cold reset (R13). -/

namespace Sys2Proof.Machine

open Sys2Proof

/-- A run of `count` registers, `stride` bytes apart from `base` on. Bits in none of the masks are read-only.
`stRes` are the reserved bits of access ST and `res` the other reserved bits; no write may set either (R14, log entry 41). `stInit` and `init` are the reset values of the staged and of the other
bits; `idx` says that the reset value is the register's number. -/
structure RegSpec where
  base : Nat
  count : Nat := 1
  stride : Nat := 4
  st : Nat := 0
  rw : Nat := 0
  w1c : Nat := 0
  w1s : Nat := 0
  wo : Nat := 0
  stRes : Nat := 0
  res : Nat := 0
  stInit : Nat := 0
  init : Nat := 0
  idx : Bool := false
  deriving DecidableEq, Repr

/-- All 32 bits. -/
def allBits : Nat := 0xFFFFFFFF

/-- BAR0 base of a block (R311). -/
def blockBase : Block → Nat
  | .node => 0x000000
  | .host => 0x100000
  | .deck => 0x200000
  | .fab => 0x300000
  | .rma => 0x400000
  | .rmx => 0x500000
  | .mem => 0x600000
  | .tile => 0x700000
  | .walk => 0x800000
  | .cast => 0x900000
  | .sec => 0xA00000
  | .mgmt => 0xB00000

/-- Number of a block, for the commit controls. -/
def blockNo : Block → Nat
  | .node => 0
  | .host => 1
  | .deck => 2
  | .fab => 3
  | .rma => 4
  | .rmx => 5
  | .mem => 6
  | .tile => 7
  | .walk => 8
  | .cast => 9
  | .sec => 10
  | .mgmt => 11

/-- The block that holds a BAR0 offset. -/
def blockOf (off : Nat) : Option Block :=
  match off / 0x100000 with
  | 0 => some .node
  | 1 => some .host
  | 2 => some .deck
  | 3 => some .fab
  | 4 => some .rma
  | 5 => some .rmx
  | 6 => some .mem
  | 7 => some .tile
  | 8 => some .walk
  | 9 => some .cast
  | 10 => some .sec
  | 11 => some .mgmt
  | _ => none

/-- The blocks in the order of their numbers. -/
def allBlocks : List Block := [.node, .host, .deck, .fab, .rma, .rmx, .mem, .tile, .walk, .cast, .sec, .mgmt]

/-- NODE (R331, R337, R353, R359). -/
def nodeRegs : List RegSpec := [
  { base := 0x0040, res := 0x0000F800 },
  { base := 0x0044, wo := allBits },
  { base := 0x0048, wo := 0x1F, res := 0xFFFFFFE0 },
  { base := 0x004C, res := 0xFFFF0000 },
  { base := 0x0050, count := 2, wo := allBits },
  { base := 0x0058, res := 0xFFFE0000 },
  { base := 0x0080 },
  { base := 0x0084, w1c := 0x80000000, res := 0x7FFE0000 },
  { base := 0x0088, count := 2 },
  { base := 0x0100, st := allBits, stRes := 0xFFFF0000, stInit := 50 },
  { base := 0x0104, st := allBits, stRes := 0xFFFF0000, stInit := 2000 },
  { base := 0x0108, st := allBits, stRes := 0xFC000000, stInit := 410003 },
  { base := 0x0110, count := 2 },
  { base := 0x0120, st := allBits, stRes := 0xFC000000, stInit := 0x02E4E4E4 },
  { base := 0x0124, res := 0xFFFFC000 },
  { base := 0x0180, count := 18 }]

/-- HOST (R315, R324, R339, R343). -/
def hostRegs : List RegSpec := [
  { base := 0x100100, count := 64, st := allBits, stRes := 0xFFFFFF00, stInit := 1 },
  { base := 0x100200, count := 65, stride := 0x20, st := allBits },
  { base := 0x100204, count := 65, stride := 0x20, st := allBits },
  { base := 0x100208, count := 65, stride := 0x20, st := allBits, stRes := 0x0000FE00 },
  { base := 0x10020C, count := 65, stride := 0x20 },
  { base := 0x100210, count := 65, stride := 0x20 },
  { base := 0x100214, count := 65, stride := 0x20 },
  { base := 0x100218, count := 65, stride := 0x20, res := allBits },
  { base := 0x10021C, count := 65, stride := 0x20, res := allBits },
  { base := 0x100C00, count := 12 },
  { base := 0x110000, count := 4096, stride := 0x40, st := allBits },
  { base := 0x110004, count := 4096, stride := 0x40, st := allBits },
  { base := 0x110008, count := 4096, stride := 0x40, st := allBits },
  { base := 0x11000C, count := 4096, stride := 0x40, st := allBits },
  { base := 0x110010, count := 4096, stride := 0x40, st := allBits },
  { base := 0x110014, count := 4096, stride := 0x40, st := allBits },
  { base := 0x110018, count := 4096, stride := 0x40, st := allBits, stRes := 0xFFFC0000 },
  { base := 0x11001C, count := 4096, stride := 0x40, st := allBits },
  { base := 0x110020, count := 4096, stride := 0x40, st := allBits },
  { base := 0x110024, count := 4096, stride := 0x40, st := allBits },
  { base := 0x110028, count := 4096, stride := 0x40 },
  { base := 0x11002C, count := 4096, stride := 0x40 },
  { base := 0x110030, count := 4096, stride := 0x40 },
  { base := 0x110034, count := 4096, stride := 0x40 },
  { base := 0x110038, count := 4096, stride := 0x40, st := 0x00020000, res := 0xFFF80000 },
  { base := 0x11003C, count := 4096, stride := 0x40, res := allBits }]

/-- DECK (R260). -/
def deckRegs : List RegSpec := [
  { base := 0x200000, st := allBits, stRes := 0xFFC000C0, stInit := 12808 },
  { base := 0x200004, w1c := 0x20, res := 0xFFF000C0 },
  { base := 0x200008, count := 2 },
  { base := 0x200010, res := 0x80000000, init := 750 },
  { base := 0x200018, count := 4 },
  { base := 0x200100, count := 14 }]

/-- FAB (R230). -/
def fabRegs : List RegSpec := [
  { base := 0x300000, st := allBits, stRes := 0xFE000000, stInit := 0xFFFF },
  { base := 0x300010, st := allBits, stRes := 0xFFFF00C0, stInit := 2560 },
  { base := 0x300014, w1c := 4 },
  { base := 0x301000, count := 6, stride := 0x100, st := allBits, stRes := 0xFFFFFFF0, stInit := 6 },
  { base := 0x301004, count := 6, stride := 0x100, st := allBits, stRes := 0xFFFF0000 },
  { base := 0x301008, count := 6, stride := 0x100, init := 0xFFFF0000 },
  { base := 0x301020, count := 6, stride := 0x100, st := allBits, stRes := 0xF8000000 },
  { base := 0x301024, count := 6, stride := 0x100, st := allBits, stInit := 1 },
  { base := 0x301080, count := 20 },
  { base := 0x301180, count := 20 },
  { base := 0x301280, count := 20 },
  { base := 0x301380, count := 20 },
  { base := 0x301480, count := 20 },
  { base := 0x301580, count := 20 },
  { base := 0x308000, count := 4096, st := allBits, stRes := 0xFFFF0000 }]

/-- RMA (R291). -/
def rmaRegs : List RegSpec := [
  { base := 0x400000, st := allBits, stRes := 0xFFFFFFFC },
  { base := 0x400008, count := 2, st := allBits },
  { base := 0x400010, st := allBits, stRes := 0xC0000000, stInit := 3283984 },
  { base := 0x400014, st := allBits, stRes := 0xFFFF0000, stInit := 20 },
  { base := 0x400018, st := allBits, stRes := 0xFFF00000, stInit := 1000 },
  { base := 0x400020, rw := 0xFFFF, res := 0xFFFF0000 },
  { base := 0x400028, count := 4 },
  { base := 0x400040, rw := 0xFFFFF, res := 0xFFF00000 },
  { base := 0x400048, count := 2 },
  { base := 0x400100, count := 22 },
  { base := 0x480000, count := 65536, stride := 8, st := allBits, stRes := 0xFFFFFF80 },
  { base := 0x480004, count := 65536, stride := 8, st := allBits }]

/-- RMX (R308). -/
def rmxRegs : List RegSpec := [
  { base := 0x500000 },
  { base := 0x500004, w1c := 4, res := 0xFFFFFFF8 },
  { base := 0x500008 },
  { base := 0x500010, res := 0xFFFE0000 },
  { base := 0x500020, count := 2, rw := allBits },
  { base := 0x500028, rw := 4, wo := 3, res := 0xFFFFFFF8 },
  { base := 0x500030, res := 0xFFE00000 },
  { base := 0x500034, res := 0xFFFE0000 },
  { base := 0x500040, rw := 0xFFFF, res := 0xFFFF0000 },
  { base := 0x500080, count := 8 },
  { base := 0x500100, count := 14 }]

/-- MEM (R160). -/
def memRegs : List RegSpec := [
  { base := 0x602000, st := allBits, stRes := 0xFFFFFFF8 },
  { base := 0x602100, count := 16, stride := 0x10, st := allBits, stRes := 0xFFFF0000 },
  { base := 0x602104, count := 16, stride := 0x10, res := 0xFF000000 },
  { base := 0x602200, count := 128, st := 0xFFE00FFF, stRes := 0xFFE00000 },
  { base := 0x602400, count := 8 },
  { base := 0x602420 },
  { base := 0x602424, res := 0xFFFFE000 }]

/-- TILE (R77, R353). -/
def tileRegs : List RegSpec := [
  { base := 0x700400, count := 512, stride := 8, st := allBits, stRes := 0xFFFFF000 },
  { base := 0x700404, count := 512, stride := 8, st := allBits },
  { base := 0x702000, count := 16, st := 0xFFFFFFDF, stRes := 0xFFFFFFC0, idx := true },
  { base := 0x702040, res := 0xFFFC0000 }]

/-- WALK (R162, R193, R353). -/
def walkRegs : List RegSpec := [
  { base := 0x801000, count := 64, stride := 0x40, st := allBits, stRes := 0x0000C0FC },
  { base := 0x801004, count := 64, stride := 0x40, st := allBits },
  { base := 0x801008, count := 64, stride := 0x40, st := allBits },
  { base := 0x80100C, count := 64, stride := 0x40, st := allBits },
  { base := 0x801010, count := 64, stride := 0x40, st := allBits },
  { base := 0x801014, count := 64, stride := 0x40, st := allBits, stRes := 0xFF000000 },
  { base := 0x801018, count := 64, stride := 0x40, st := allBits },
  { base := 0x80101C, count := 64, stride := 0x40, st := allBits },
  { base := 0x801020, count := 64, stride := 0x40, st := allBits },
  { base := 0x801024, count := 64, stride := 0x40, st := allBits, stRes := 0xFFFFFFF8 },
  { base := 0x801028, count := 64, stride := 0x40, st := allBits },
  { base := 0x80102C, count := 64, stride := 0x40, st := allBits },
  { base := 0x801030, count := 64, stride := 0x40, st := allBits },
  { base := 0x801034, count := 64, stride := 0x40, st := allBits },
  { base := 0x801038, count := 64, stride := 0x40, st := allBits, stRes := allBits },
  { base := 0x80103C, count := 64, stride := 0x40, st := allBits, stRes := allBits },
  { base := 0x802000, count := 1024 },
  { base := 0x803000, count := 8 },
  { base := 0x803100, count := 32, st := 0xFFFFFFBF, stRes := 0xFFFFFF80, idx := true },
  { base := 0x803180 },
  { base := 0x803184, res := 0xFFFFFFF0 }]

/-- CAST (R27, R127). -/
def castRegs : List RegSpec := [
  { base := 0x900100, st := allBits, stRes := 0xFFFFFFFE },
  { base := 0x900104, w1c := 0x80000000, res := 0x7FF00000 },
  { base := 0x900110, count := 8 },
  { base := 0x900130 },
  { base := 0x900134, res := 0xE0000000 },
  { base := 0x901000, count := 64, stride := 0x20, st := allBits },
  { base := 0x901004, count := 64, stride := 0x20, st := allBits },
  { base := 0x901008, count := 64, stride := 0x20, st := allBits },
  { base := 0x90100C, count := 64, stride := 0x20, st := allBits },
  { base := 0x901010, count := 64, stride := 0x20, st := allBits, stRes := 0xFFFFFE00 },
  { base := 0x901014, count := 64, stride := 0x20 },
  { base := 0x901018, count := 64, stride := 0x20, st := allBits, stRes := allBits },
  { base := 0x90101C, count := 64, stride := 0x20, st := allBits, stRes := allBits }]

/-- SEC_PART (R368): word `k` of the record. -/
def secPartWord (k : Nat) : RegSpec :=
  let b : RegSpec := { base := 0xA01000 + 4 * k, count := 64, stride := 0x80, st := allBits }
  if k = 0 then { b with st := 0xFF00FF00, stRes := 0xC000F800 }
  else if k = 1 then { b with st := 0 }
  else if k = 2 ∨ k = 4 then { b with stRes := 0xFFF00000 }
  else if k = 9 then { b with st := 0xFFFF0000, stRes := 0xFFFF0000 }
  else if k = 10 ∨ k = 11 ∨ 28 ≤ k then { b with stRes := allBits }
  else if 12 ≤ k ∧ k % 2 = 1 then { b with stRes := 0xFFFFC000 }
  else b

/-- SEC (R368, R384, R386, R387, R394, R398, R399). -/
def secRegs : List RegSpec := [
  { base := 0xA00100, count := 4 },
  { base := 0xA00120, count := 2 },
  { base := 0xA00128, res := 0xFFFFC0F8 },
  { base := 0xA00130, count := 2 },
  { base := 0xA00200, rw := allBits },
  { base := 0xA00204, rw := 0xFFFFF, res := 0xFFF00000 },
  { base := 0xA00208, rw := 2, wo := 1, res := 0xFFF80000 },
  { base := 0xA00210, rw := 0x3FFFFFF, res := 0xFC000000 },
  { base := 0xA00214, res := 0xFFFF0000 },
  { base := 0xA00218, count := 2 },
  { base := 0xA00240, count := 16, rw := allBits },
  { base := 0xA00400, count := 64, st := allBits },
  { base := 0xA00604, count := 7, st := 0xFFFFFF00, stRes := 0xFFFF8000, res := 0x80 },
  { base := 0xA00640, st := allBits, stRes := 0xFFFFFFF0 },
  { base := 0xA00644, init := 2 },
  { base := 0xA00648, st := allBits, stRes := 0xFFFFFF00 }] ++ (List.range 32).map secPartWord

/-- MGMT (R444). -/
def mgmtRegs : List RegSpec := [
  { base := 0xB00000, res := 0xFFFFF000, init := 1 },
  { base := 0xB00004, wo := 0xF, res := 0xFFFFFFF0 },
  { base := 0xB00008, res := 0xFFFE0000 },
  { base := 0xB0000C, st := allBits, stRes := 0xFFFFFFF0 },
  { base := 0xB00010, count := 2, rw := allBits },
  { base := 0xB00018, rw := 0xFFFFFF, res := 0xFF000000 },
  { base := 0xB0001C, rw := 0x1E, wo := 1, res := 0xFFFFFFE0 },
  { base := 0xB00020, res := 0xFFFC0000 },
  { base := 0xB00104, count := 7, st := 0xFFFFFFFD, stRes := 0xFFFFFFFC, init := 2 },
  { base := 0xB00200, count := 16, st := 0xFFFFFFF3, stRes := 0xFFFFFFF0 },
  { base := 0xB00300, st := allBits, stRes := 0xFFFFFE00 },
  { base := 0xB00304 },
  { base := 0xB01000, count := 64, res := 0xFFF80000 },
  { base := 0xB08000, count := 2050 }]

/-- The registers of a block. -/
def regsOf : Block → List RegSpec
  | .node => nodeRegs
  | .host => hostRegs
  | .deck => deckRegs
  | .fab => fabRegs
  | .rma => rmaRegs
  | .rmx => rmxRegs
  | .mem => memRegs
  | .tile => tileRegs
  | .walk => walkRegs
  | .cast => castRegs
  | .sec => secRegs
  | .mgmt => mgmtRegs

/-- The offset lies in a run of registers. -/
def RegSpec.holds (r : RegSpec) (off : Nat) : Bool :=
  decide (r.base ≤ off) && (off - r.base) % r.stride == 0 && decide ((off - r.base) / r.stride < r.count)

/-- The register at a BAR0 offset, a multiple of 4. An offset the map does not hold has every bit reserved. -/
def regSpec (off : Nat) : RegSpec :=
  let none_ : RegSpec := { base := off, res := allBits }
  if off % 0x100000 = 0xF8 ∧ off < 0xC00000 then { base := off, rw := 0xFFFFF, res := 0xFFF00000 }
  else match blockOf off with
    | none => none_
    | some b => ((regsOf b).find? (·.holds off)).getD none_

/-- The reset value of the staged bits at an offset (R13). -/
def stReset (off : Nat) : Word :=
  let r := regSpec off
  if r.idx then BitVec.ofNat 32 ((off - r.base) / r.stride) else BitVec.ofNat 32 r.stInit

/-- The reset value of the other bits at an offset (R13). -/
def valReset (off : Nat) : Word := BitVec.ofNat 32 (regSpec off).init

end Sys2Proof.Machine
end

