-- ==== Sys2Proof/Machine/Objects.lean ====
section
/-! DEFINITION. The records the node keeps: statuses, events, rings, commands, sequences, indexes, crucible units, ports,
connections, decks, maps, keys, counters and management state. Every default value is the reset value of State.reset
(log entries 1 to 12 name the ones that the spec does not give). -/

namespace Sys2Proof.Machine

open Sys2Proof

/-! ## Status codes (R341, 13 and 15) -/

/-- Status codes, ST_* of R341 and of the tables of chapters 13 and 15. -/
inductive Status where
  | ok | illegalValue | illegalCombination | notOwner | busy | wrongState | version | flashFault | powerAbsent
  | accessViolation | keyStale | epochStale | authFailed | rollback | keyAbsent
  | dataDamaged | dataLost | streamDamaged | stepFault | timeout | resetLost | meteringHalt
  deriving DecidableEq, Repr

/-- The 16-bit code of a status. -/
def Status.code : Status → Nat
  | .ok => 0x0000
  | .illegalValue => 0x0001
  | .illegalCombination => 0x0002
  | .notOwner => 0x0003
  | .busy => 0x0004
  | .wrongState => 0x0005
  | .version => 0x0006
  | .flashFault => 0x0007
  | .powerAbsent => 0x0008
  | .accessViolation => 0x0010
  | .keyStale => 0x0011
  | .epochStale => 0x0012
  | .authFailed => 0x0013
  | .rollback => 0x0014
  | .keyAbsent => 0x0015
  | .dataDamaged => 0x0020
  | .dataLost => 0x0021
  | .streamDamaged => 0x0022
  | .stepFault => 0x0030
  | .timeout => 0x0031
  | .resetLost => 0x0032
  | .meteringHalt => 0x0040

/-- The status of a code; an unknown code is a failure that changed nothing (R342), read as ST_ILLEGAL_VALUE. -/
def Status.ofCode (c : Nat) : Status :=
  (([.ok, .illegalCombination, .notOwner, .busy, .wrongState, .version, .flashFault, .powerAbsent,
    .accessViolation, .keyStale, .epochStale, .authFailed, .rollback, .keyAbsent, .dataDamaged, .dataLost,
    .streamDamaged, .stepFault, .timeout, .resetLost, .meteringHalt] : List Status).find? fun s => s.code == c).getD
    .illegalValue

/-! ## Events (R347 to R349) -/

/-- DETAIL of an event by form (R349). -/
inductive Detail where
  | z
  | l (obj stream sub item addr : Nat)
  | c (conn peer nak : Nat) (rkey raddr : BitVec 64) (total : Nat)
  | p (oldPhys newPhys cause steps : Nat)
  | s (cause replays peer ring : Nat) (rseq : BitVec 32) (aux : Nat)
  deriving DecidableEq, Repr

/-- An event as the node raises it; ESEQ and PHASE are set when it is written to a ring (R347). -/
structure Event where
  cls : Nat
  code : Nat
  part : Option Nat := none
  ownerCopy : Bool := false
  time : Nat := 0
  step : BitVec 64 := 0
  kind : Nat := 255
  logical : Nat := 0
  physical : Nat := 0xFF
  status : Status := .ok
  detail : Detail := .z
  deriving DecidableEq, Repr

/-! ## What leaves the node -/

/-- Transactions of the node with the outside, in the order issued (log entry 2). `fn` is 0 for the PF, n for VF n. -/
inductive Out where
  /-- A PCIe memory read for a tag. -/
  | dmaRead (fn : Nat) (addr len : Nat) (tag : DmaTag)
  /-- A PCIe memory write. -/
  | dmaWrite (fn : Nat) (addr : Nat) (data : List Byte)
  /-- An MSI-X message. -/
  | msix (fn vec : Nat)
  /-- A sequenced block on a port: number, replay mark, packet flits, the packets whose last flit it carries, control
  flit, and the lane and count of bits that the misdeal injector flips (R227). -/
  | block (port : Nat) (bsn : BitVec 10) (replay : Bool) (flits : Nat) (cargo : List Cargo) (ctl : Option CtlFlit) (flip : Option (Nat × Nat))
  /-- An alignment block on a port. -/
  | align (port : Nat)
  /-- Training starts or ends on a port: the link state code. -/
  | link (port lstate : Nat)
  /-- A management message to a master: its type, number, tag and payload, and on the fabric path the region it is written to. -/
  | mgmtMsg (master mtype : Nat) (mseq tag : BitVec 32) (data : List Byte) (ans : Option AnswerRegion)
  /-- An answer of the MCTP control protocol, of the node or of the Assay. -/
  | mctp (assay : Bool) (code : Nat) (data : List Byte)
  /-- An Assay answer or statement. -/
  | assayMsg (mtype : Nat) (data : List Byte)
  /-- A tap record sent to the Assay (R408). -/
  | tapRec (data : List Byte)
  /-- A pin of R461 is driven. -/
  | pin (name : String) (high : Bool)
  /-- A flash write by the MSS: class or area, and bytes. -/
  | flash (area : Nat) (data : List Byte)
  /-- A fuse burns. -/
  | fuse (name : String) (idx : Nat)
  /-- A PTP or JTAG answer. -/
  | jtag (data : Nat)
  deriving DecidableEq, Repr

/-! ## Sequences (02 to 04) -/

/-- A page directory entry (R36). `shard` is meaningful when `remote` is set. -/
structure Pde where
  fmt : Nat := 0
  dmg : Bool := false
  cru : Bool := false
  sealed_ : Bool := false
  sumv : Bool := false
  repl : Bool := false
  addr : Nat := 0
  len : Nat := 0
  tver : Nat := 0
  remote : Bool := false
  shard : Nat := 0
  deriving DecidableEq, Repr

/-- A full window page in its ring slot (R43). -/
structure RingSlot where
  page : Nat
  bytes : List Byte
  cru : Bool := false
  bad : Bool := false
  deriving DecidableEq, Repr

/-- The retrieved-set record of a stream (R98). -/
structure RetrSet where
  sel : Nat := 0
  copy0 : List Nat := []
  copy1 : List Nat := []
  selLen : BitVec 32 := 0
  deriving DecidableEq, Repr

/-- The selected copy. -/
def RetrSet.cur (r : RetrSet) : List Nat := if r.sel = 0 then r.copy0 else r.copy1

/-- A selection of one stream that waits to flip (R101, R102): its snapshot, the new set, whether it is automatic, and
the readers admitted before the stream's previous flip that it waits for. -/
structure SelPending where
  ring : Nat
  rseq : BitVec 32
  auto : Bool
  len : Nat
  set : List Nat := []
  ready : Bool := false
  deriving DecidableEq, Repr

/-- An automatic selection that an ATTEND triggered (R102). -/
structure AutoSel where
  ring : Nat
  rseq : BitVec 32
  len : Nat
  step : BitVec 64
  queries : List (F32 × List Int)
  ready : Bool := false
  deriving DecidableEq, Repr

/-- One stream of a sequence. -/
structure Stream where
  stage0 : RawPage := {}
  stage1 : RawPage := {}
  retained : Table RawPage := []
  ring : Table RingSlot := []
  pdes : Table Pde := []
  copies : Table Sealed := []
  badCopies : List Nat := []
  sums : Table (List Byte) := []
  pinMaster : Table RawPage := []
  pinA : Table (List Byte) := []
  pinB : Table (List Byte) := []
  pinBad : List Nat := []
  retr : RetrSet := {}
  flipReaders : List Nat := []
  table : Option (List Byte) := none
  tableBad : Bool := false
  auto : Option AutoSel := none
  selQ : List SelPending := []
  deriving DecidableEq, Repr

/-- STATE codes of R31. -/
inductive SeqState where
  | free | open_ | frozen | moved | replica
  deriving DecidableEq, Repr

/-- The code of a STATE. -/
def SeqState.code : SeqState → Nat
  | .free => 0
  | .open_ => 1
  | .frozen => 2
  | .moved => 3
  | .replica => 4

/-- A reader of a sequence (R33): the command, or the serving step, that holds snapshot length `len`. -/
structure Reader where
  key : Nat
  len : Nat
  deriving DecidableEq, Repr

/-- A DEMOTE exchange of a new home (R264, R362). -/
structure Demote where
  oldHome : Nat
  oldSeq : Nat
  tries : Nat := 0
  due : Nat := 0
  done : Bool := false
  deriving DecidableEq, Repr

/-- A sequence descriptor (R31) with what it points to. Addresses are the node's own choice (R61). `readers` and `ladles` name
commands by key; those that run count. `slotUse` is the free choice that places the ring slots, `selNew` the SEL_LEN of a
selection that no commit has copied yet (R98), `homeNode` the home of a replica, `hdr` the sequence ID that the pages carry in
their headers (log entry 33). -/
structure Seq where
  state : SeqState := .free
  replDegraded : Bool := false
  cru : Bool := false
  tablesReady : Bool := false
  mslot : Nat := 0
  part : Nat := 0
  repl : Nat := 1
  winM1 : Nat := 0
  len : Nat := 0
  pins : List Nat := []
  pinMax : Nat := 0
  pinSel : List Nat := [0, 0, 0, 0]
  flipLen : List Nat := [0, 0, 0, 0]
  retrMax : Nat := 0
  selInterval : Nat := 0
  selLast : BitVec 32 := 0
  addrs : List Nat := []
  dirChunks : List Nat := []
  dirSize : Nat := 0
  peerNode : Nat := 0xFFFF
  peerConn : Nat := 0
  peerSeq : Nat := 0
  shards : List Nat := []
  damaged : Nat := 0
  mapEpoch : BitVec 16 := 0
  gen : BitVec 16 := 0
  step : BitVec 64 := 0
  streams : List Stream := []
  readers : List Reader := []
  ladles : List Nat := []
  freeAdm : Bool := false
  u0 : Nat := 0
  slotUse : Nat := 0
  selNew : Option (BitVec 32) := none
  tver : Nat := 0
  oldReaders : List Nat := []
  oldCopies : List (Nat × Nat) := []
  demote : Option Demote := none
  homeNode : Nat := 0xFFFF
  hdr : Nat := 0
  deriving DecidableEq, Repr

/-! ## Commands (11, R318 to R322, R345, R346) -/

/-- Why an accepted command has not been admitted (R320). -/
inductive WaitFor where
  | nothing
  | fence
  | rmaRoom
  | needLen (due : Nat)
  | waitEntry
  deriving DecidableEq, Repr

/-- Where a command stands. -/
inductive Phase where
  | accepted
  | deferred (w : WaitFor)
  | input
  | running
  | finished
  deriving DecidableEq, Repr

/-- A remote sub-request of a step (R93, R177, R296): its node, the connection, and the answer. -/
structure Sub where
  node : Nat
  conn : Nat
  call : CallMsg
  answer : Option RespMsg := none
  due : Nat := 0
  busy : Bool := false
  lost : Bool := false
  deriving DecidableEq, Repr

/-- A LADLE in progress (R56 to R62). -/
structure LadleRun where
  p : Nat
  n : Nat
  next : Nat
  upto : Nat
  rows : List (List (List Nat × List Nat)) := []
  have_ : Bool := false
  acked : Nat := 0
  opening : Bool := false
  deriving DecidableEq, Repr

/-- An ATTEND in progress: the snapshot it reads (R63, R84) and its recorded inputs (R346). -/
structure AttendRun where
  snap : Seq
  len : Nat
  hooks : List (BitVec 64)
  input : List Byte := []
  kv : List Byte := []
  haveIn : Bool := false
  haveKv : Bool := false
  started : Bool := false
  deriving DecidableEq, Repr

/-- A SELECT_PAGES in progress (R99 to R101). -/
structure SelectRun where
  len : Nat
  left : List Nat := []
  done : Nat := 0
  started : Bool := false
  deriving DecidableEq, Repr

/-- A MIGRATE in progress (R66). -/
structure MigrateRun where
  mode : Nat
  sent : Bool := false
  ack : Bool := false
  needPages : List (Nat × Nat) := []
  arrived : List HeldPage := []
  deriving DecidableEq, Repr

/-- The state word of an item (R165). -/
structure ItemState where
  ins : BitVec 16 := 0
  del : BitVec 16 := 0
  live : Bool := false
  insSet : Bool := false
  delSet : Bool := false
  gen : Nat := 0
  label : BitVec 16 := 0
  deriving DecidableEq, Repr

/-- An edge: target and generation tag (R166). -/
structure Edge where
  item : Nat
  tag : Nat
  deriving DecidableEq, Repr

/-- A member of a hand (R171): key, item, tag, expanded flag, and the state word once read. -/
structure Member where
  key : F32
  item : Nat
  tag : Nat
  expanded : Bool := false
  state : Option ItemState := none
  deriving DecidableEq, Repr

/-- A walker context's search of one query (R171). `visited` lists the bits set, ascending; `skipped` counts the damaged
records of R191, `counted` the hops that a run before a replay has metered already (R357). -/
structure Hand where
  query : List Byte := []
  qinv : F32 := 0
  hand : List Member := []
  visited : List Nat := []
  hops : Nat := 0
  skipped : Nat := 0
  counted : Nat := 0
  damaged : Bool := false
  stopped : Bool := false
  done : Bool := false
  deriving DecidableEq, Repr

/-- A SEARCH in progress, with the values resolved at admission (R174). -/
structure SearchRun where
  idx : Nat
  epoch : BitVec 16
  fsel : Nat
  filter : Option Nat := none
  invert : Bool := false
  allowMissing : Bool := false
  dmgSkip : Bool := false
  entry : Option Edge := none
  k : Nat
  beam : Nat
  width : Nat
  maxHops : Nat
  hands : List Hand := []
  queries : List (List Byte) := []
  started : Bool := false
  deriving DecidableEq, Repr

/-- A PUBLISH_EPOCH in progress (R185). -/
structure PublishRun where
  idx : Nat
  due : Nat
  floor : Option (BitVec 16)
  filters : Option (Nat × Nat)
  pages : List Byte := []
  haveIn : Bool := false
  before : List Nat := []
  deriving DecidableEq, Repr

/-- What an INSERT still needs: its vector (R180, R181). -/
structure InsertRun where
  idx : Nat
  label : BitVec 16
  deriving DecidableEq, Repr

/-- An RMA operation in progress (R273, R284). -/
structure RmaRun where
  conn : Nat
  mode : Nat
  firstPsn : BitVec 24 := 0
  psns : Nat := 0
  total : Nat := 0
  got : Nat := 0
  buf : List Byte := []
  sent : Bool := false
  deriving DecidableEq, Repr

/-- What an admitted command still carries. -/
inductive Work where
  | none
  | ladle (r : LadleRun)
  | attend (r : AttendRun)
  | select (r : SelectRun)
  | migrate (r : MigrateRun)
  | search (r : SearchRun)
  | insert (r : InsertRun)
  | publish (r : PublishRun)
  | rma (r : RmaRun)
  | wait (slot : Nat)
  | map (ops : List Byte) (here : Bool)
  | block
  deriving DecidableEq, Repr

/-- A command from its acceptance until its completion is written. Ring 4096 is the management ring, and `master` who sent
it there. `parts` are the pieces of an input in partition memory: local address, length, and the sub-request that fetches
a remote piece. `wrote` counts destination bytes already metered. -/
structure Cmd where
  ring : Nat
  rseq : BitVec 32
  master : Nat := 0
  desc : List Byte
  units : Nat := 0
  acceptT : Nat := 0
  phase : Phase := .accepted
  status : Status := .ok
  result : BitVec 64 := 0
  step : BitVec 64 := 0
  replayed : Bool := false
  metered : Bool := true
  admT : Nat := 0
  stamp : BitVec 16 := 0
  hasRef : Bool := false
  faulted : Bool := false
  replays : Nat := 0
  cause : Nat := 0
  subs : List Sub := []
  parts : List (Nat × Nat × Option Nat) := []
  wrote : Nat := 0
  work : Work := .none
  deriving DecidableEq, Repr

/-! ## Rings (11) -/

/-- The next descriptor of a ring, as fetched (R314). -/
inductive Fetch where
  | idle
  | reading
  | here (d : List Byte)
  | failed (st : Status)
  deriving DecidableEq, Repr

/-- A ring's running state; its configuration lies in the HOST block's active bank (R315). `known` says that the ring was enabled
since the last cold reset, `last` holds the completion entry of the last ring write, where that was one (R314). -/
structure Ring where
  sqTail : BitVec 32 := 0
  cqHead : BitVec 32 := 0
  accepted : BitVec 32 := 0
  completed : BitVec 32 := 0
  resets : BitVec 32 := 0
  used : Nat := 0
  running : Bool := false
  fault : Bool := false
  resuming : Bool := false
  fetch : Fetch := .idle
  unsig : Nat := 0
  firstUnsig : Nat := 0
  known : Bool := false
  last : Option (List Byte) := none
  deriving DecidableEq, Repr

/-- An event ring (R339). `last` is the last record written, with its address. -/
structure EvRing where
  produced : BitVec 32 := 0
  consumed : BitVec 32 := 0
  held : List Event := []
  lost : BitVec 64 := 0
  lostDue : Bool := false
  fault : Bool := false
  last : Option (Nat × List Byte) := none
  deriving DecidableEq, Repr

/-- An MSI-X vector: masked and pending bits (log entry 8). -/
structure Vector where
  masked : Bool := true
  pending : Bool := false
  deriving DecidableEq, Repr

/-- Deficit round-robin (R324): deficits, the partition being served, and the ring last served of each. Partition 64
stands for the owner rings and the management ring. -/
structure Drr where
  deficit : Table Nat := []
  cur : Nat := 0
  serving : Bool := false
  lastRing : Table Nat := []
  deriving DecidableEq, Repr

/-- A ring of the node, an event ring, and the rest of the host complex. -/
structure HostUnit where
  rings : Table Ring := []
  evs : Table EvRing := []
  msix : Table Vector := []
  drr : Drr := {}
  linkUp : Bool := false
  perst : Bool := true
  deriving DecidableEq, Repr

/-! ## Ownership (R333 to R337) -/

/-- Election state (R337). -/
inductive OwnState where
  | none | owned | passing
  deriving DecidableEq, Repr

/-- The owner, its lease, and the claims verified in the open window, each with the tag of its
message. Times are MSS times in ns. -/
structure Ownership where
  state : OwnState := .none
  owner : Nat := 0
  passTo : Nat := 0
  lease : Nat := 0
  passDue : Nat := 0
  window : Option Nat := none
  claims : List (Nat × BitVec 32) := []
  deriving DecidableEq, Repr

/-! ## Registers -/

/-- Commit control of a block, or of a VF's page (R330): the active generation, the checked set that waits for its safe
point, and COMMIT_STS. -/
structure CommitCtl where
  gen : BitVec 16 := 0
  checked : Option (Table Word × List RingImage) := none
  stsStatus : Status := .ok
  stsGen : BitVec 16 := 0
  deriving DecidableEq, Repr

/-- The registers: pending and active banks of the staged fields, every other field, and the 64-bit counters, by BAR0
offset. A bank lists only what differs: a pending field not listed holds the active value, an active field not listed its
reset value. `vfPend` holds each VF's own pending set (R312). -/
structure RegFile where
  act : Table Word := []
  pend : Table Word := []
  vfPend : Table (Table Word) := []
  val : Table Word := []
  cnt : Table (BitVec 64) := []
  ctl : Table CommitCtl := []
  vfVal : Table Word := []
  deriving DecidableEq, Repr

/-! ## Parts and faults (12) -/

/-- Serving state of the replaceable parts: failed physical instances, kinds offline, retired slices, committed switches under way,
jokers and shared instances that are not ready yet, and why the node is DEGRADED. The serving instances stand in the active bank (R353). -/
structure Parts where
  failed : Table (List Nat) := []
  offline : List Nat := []
  slicesOff : List Nat := []
  sliceErr : Table (List Nat) := []
  switching : List (Nat × Nat × Nat) := []
  loading : List (Nat × Nat) := []
  degraded : List String := []
  retiredCtx : Table Nat := []
  phasesLost : Nat := 0
  deriving DecidableEq, Repr

/-- A retention record of a producer (R360). -/
structure Retained where
  home : BitVec 16
  step : BitVec 64
  sub : Nat
  part : Nat
  born : Nat
  answer : RespMsg
  deriving DecidableEq, Repr

end Sys2Proof.Machine
end

