-- ==== Sys2Proof/Machine/Units.lean ====
section
/-! DEFINITION. The records of the units beside the host complex: management, power, tap and Assay, crucible units and
memory. Every default value is the reset value of State.reset. -/

namespace Sys2Proof.Machine

open Sys2Proof

/-! ## Management (15) -/

/-- Node states of R421. -/
inductive NodeState where
  | off | standby | bringup | ready | degraded | test | recovery
  deriving DecidableEq, Repr

/-- Codes of R421. -/
def NodeState.code : NodeState → Nat
  | .off => 0
  | .standby => 1
  | .bringup => 2
  | .ready => 3
  | .degraded => 4
  | .test => 5
  | .recovery => 6

/-- DETAIL of form M (R433). -/
structure DetailM where
  b0 : Nat := 0
  b1 : Nat := 0
  h0 : Nat := 0
  w0 : Nat := 0
  deriving DecidableEq, Repr

/-- An entry of the event log (R432): an owner event, or a management entry. -/
inductive LogEntry where
  | event (seq : Nat) (e : Event)
  | mgmt (seq cls code time : Nat) (status : Status) (m : DetailM)
  deriving DecidableEq, Repr

/-- A slot of the management flash (R434, R435): whether its image may be loaded, its version, SVN, key and
SHA-256. -/
structure FwSlot where
  loadable : Bool := false
  version : Nat := 0
  svn : Nat := 0
  key : Nat := 0
  digest : List Byte := []
  deriving DecidableEq, Repr

/-- A crucible image of a store: its SVN, key, digest and words (R156, R434). -/
structure CrucImage where
  svn : Nat
  key : Nat
  digest : List Byte
  words : List Nat
  deriving DecidableEq, Repr

/-- A session of a management master (R429). -/
structure Session where
  lastHeard : Nat := 0
  answer : Option AnswerRegion := none
  deriving DecidableEq, Repr

/-- An update in progress (R435). -/
structure Update where
  cls : Nat
  slot : Nat
  image : List Byte
  deriving DecidableEq, Repr

/-- The management subsystem. -/
structure Mgmt where
  st : NodeState := .standby
  prev : NodeState := .off
  stepNo : Nat := 0
  held : Bool := false
  bootCause : Nat := 0
  pausedAt : Nat := 0
  warm : Bool := false
  warmCause : Nat := 0
  mssRunning : Bool := true
  mssCause : Nat := 0
  jtagDriven : Bool := false
  sessions : Table Session := []
  ringDescs : List (Nat × List Byte) := []
  ringComps : Table (List Byte) := []
  tags : Table (List (BitVec 32 × Nat)) := []
  log : List LogEntry := []
  logBatch : List LogEntry := []
  logHw : List LogEntry := []
  logLost : Nat := 0
  logSeq : Nat := 0
  slotsA : Table FwSlot := []
  slotsB : Table FwSlot := []
  crucStore : Table (Table CrucImage) := []
  upd : Option Update := none
  updBuf : List Byte := []
  fences : Table (List Nat) := []
  eid : BitVec 8 := 0
  config : Table Word := []
  ptpGood : Nat := 0
  msgSeq : BitVec 32 := 0
  deriving DecidableEq, Repr

/-- Pins and supplies as they stand (R450 to R466; log entry 1). -/
structure Pins where
  vstby : Bool := true
  vin48 : Bool := true
  refclk : Bool := true
  oscGood : Bool := true
  recoveryN : Bool := true
  sris : Bool := false
  smbAddr : BitVec 2 := 0
  nodeReady : Bool := false
  thermTrip : Bool := false
  asyPatchEn : Bool := false
  deriving DecidableEq, Repr

/-! ## Tap and Assay (14) -/

/-- A tap record (R407). -/
structure TapRec where
  typ : Nat
  part : Nat := 0
  res : Nat := 0
  seq : BitVec 32 := 0
  value : Nat := 0
  deriving DecidableEq, Repr

/-- The node's side of the tap. Accumulator 12 p + r counts resource r of partition p. After a cold reset the queue holds the RESTART
record, TAP_SEQ 0 (R407, R412). -/
structure Tap where
  acc : Table Nat := []
  queue : List TapRec := [{ typ := 7 }]
  seq : BitVec 32 := 1
  heldLevel : Table Nat := []
  heldHalt : List Nat := []
  halted : Bool := false
  halts : BitVec 64 := 0
  ready : Bool := true
  beat : Bool := true
  deriving DecidableEq, Repr

/-- A signed statement of the Assay (R414). -/
structure Statement where
  aseq : Nat
  part : Nat
  kind : Nat
  body : List Byte
  sig : List Byte
  deriving DecidableEq, Repr

/-- The Assay. Times are its own, `lastT` in µs and `atime` in ms; `stmtAt` is when it last signed periodic statements, `stmtS` its
STATEMENT_S. `patchPend` holds version and SVN of a patch that is accepted and not yet running. -/
structure Assay where
  cnt : Table Nat := []
  level : Table Nat := []
  lastT : Table Nat := []
  acc : Table Nat := []
  gapMs : Table Nat := []
  pinst : Table Nat := []
  active : List Nat := []
  gapFlag : List Nat := []
  restartFlag : List Nat := []
  lastSeq : Option (BitVec 32) := none
  lost : Nat := 0
  nodeTime : Nat := 0
  atime : Nat := 0
  aseq : Nat := 0
  ring : List Statement := []
  ringNext : Nat := 0
  sealBroken : Bool := false
  stmtAt : Nat := 0
  stmtS : Nat := 60
  patchVer : Nat := 0
  patchSvn : Nat := 0
  patchSlot : Nat := 0
  patchDigest : List Byte := []
  patchBuf : List Byte := []
  patchPend : Option (Nat × Nat) := none
  fuseSvn : Nat := 0
  nvm : Table Nat := []
  eid : BitVec 8 := 0
  deriving DecidableEq, Repr

/-! ## Crucible units and memory (05, 13) -/

/-- STATE of a unit (R136). -/
inductive CruState where
  | idle | run | yielded | suspended | done | fault
  deriving DecidableEq, Repr

/-- Codes of STATE (R136). -/
def CruState.code : CruState → Nat
  | .idle => 0
  | .run => 1
  | .yielded => 2
  | .suspended => 3
  | .done => 4
  | .fault => 5

/-- A stream in the lane buffer: its start, its bytes, the first column that could not be corrected, and the columns it
corrected (R139, R146, R147). -/
structure Lane where
  ula : Nat := 0
  cols : Nat := 0
  bytes : List Byte := []
  bad : Option Nat := none
  check : Bool := false
  marks : List Nat := []
  deriving DecidableEq, Repr

/-- A crucible unit (R135, R137). Lists read as zero past their end. -/
structure CruUnit where
  st : CruState := .idle
  code : Nat := 0
  pc : Nat := 0
  suspendReq : Bool := false
  rowcyc : Nat := 0
  clkbound : Nat := 0
  erraddr : Nat := 0
  corr : Nat := 0
  imgver : Nat := 0
  rdLo : Nat := 0
  rdHi : Nat := 0
  stLo : Nat := 0
  stHi : Nat := 0
  args : List Word := []
  savePc : Nat := 0
  saveRow : Option Nat := none
  ops : Nat := 0
  done : Nat := 0
  prog : Table Word := []
  s : List Word := []
  lane : Lane := {}
  opnd0 : List Byte := []
  opnd1 : List Byte := []
  sk : List Nat := []
  sv : List Nat := []
  sb : List (List (BitVec 32)) := []
  m : List (BitVec 32) := []
  ps : List Nat := []
  wb : List (List Nat) := []
  acc : List (List Int) := []
  res0 : List Byte := []
  res1 : List Byte := []
  resHalf : Nat := 0
  half : Nat := 0
  nv : Nat := 0
  d : Nat := 0
  pageNo : Nat := 0
  openRow : Option Nat := none
  entry : Nat := 0
  reruns : Nat := 0
  deriving DecidableEq, Repr

/-- The memory side: raw bytes that are written, error patterns of bursts, units by physical number, refreshes owed by bank, the
image version each unit holds, packages that load an image, partials that leaf finishers formed, the granule that was scrubbed
last, the row that serves in place of a retired one, the former remap words of dies whose units still run, the page that the cast audit read last, the times of uncorrectable
bursts of each package, and the column that the controller received last by CRR or RBR (log entries 4 and 13). -/
structure MemUnit where
  cells : List Host.Cell := []
  err : Table (List Byte) := []
  units : Table CruUnit := []
  owed : Table Nat := []
  imgLoaded : Table Nat := []
  switching : List Nat := []
  finished : Table (List Partial) := []
  scrubPos : Nat := 0
  retiredRows : Table Nat := []
  remapOld : Table Nat := []
  auditPos : Nat × Nat × Nat := (0, 0, 0)
  uePkg : Table (List Nat) := []
  column : List Byte := []
  deriving DecidableEq, Repr

end Sys2Proof.Machine
end

