-- ==== Sys2Proof/Machine/Engines.lean ====
section
/-! DEFINITION. The records of the engines: recall indexes, ports and fabric time, connections, regions, sync counters,
the range matcher, the deck and security. Every default value is the reset value of State.reset. -/

namespace Sys2Proof.Machine

open Sys2Proof

/-! ## Recall indexes (06) -/

/-- An item's record (R164, R165): vector, inverse norm, edge list as applied, state word. The three marks say that the
stored vector, list or state word holds an uncorrectable error (R191). -/
structure Item where
  vec : List Byte := []
  inv : F32 := 0
  edges : List Edge := []
  st : ItemState := {}
  badVec : Bool := false
  badList : Bool := false
  badState : Bool := false
  deriving DecidableEq, Repr

/-- An insert log entry that is not retired (R180). -/
structure InsEntry where
  item : Nat
  gen : Nat
  ins : BitVec 16
  deriving DecidableEq, Repr

/-- Where a delete log entry stands: its item waits for the floor, is dead for the next sweep, or is freed (R185, R186). -/
inductive DelState where
  | waits | dead | freed
  deriving DecidableEq, Repr

/-- A delete log entry (R183). -/
structure DelEntry where
  item : Nat
  gen : Nat
  del : BitVec 16
  st : DelState := .waits
  deriving DecidableEq, Repr

/-- The runtime state of an index (R193) and its area (R164). `filters` holds bitmap b of copy c under 4,096 c + b; a
bitmap not listed holds free bytes (log entry 6). `wlog` is the write log, oldest first (R189). -/
structure Index where
  published : BitVec 16 := 0
  floor : BitVec 16 := 0
  fsel : Nat := 0
  sweeping : Bool := false
  applying : Bool := false
  insCount : BitVec 64 := 0
  entry : Option Edge := none
  hwm : Nat := 0
  ilog : Table InsEntry := []
  dlog : List DelEntry := []
  wlog : List (Nat × List Edge) := []
  sweeps : BitVec 64 := 0
  items : Table Item := []
  filters : Table (List Byte) := []
  deriving DecidableEq, Repr

/-- The recall side of the node: indexes, each walker's cached bitmaps, most recent first (R172), and the sweeps that
wait behind a full write log. -/
structure Recall where
  indexes : Table Index := []
  caches : Table (List (Nat × Nat × Nat)) := []
  deriving DecidableEq, Repr

/-! ## Ports and fabric time (07) -/

/-- Link states of R209. -/
inductive LinkState where
  | down | detect | trainLow | negotiate | trainHigh | credit | up | retrain | negFail
  deriving DecidableEq, Repr

/-- Codes of R209. -/
def LinkState.code : LinkState → Nat
  | .down => 0
  | .detect => 1
  | .trainLow => 2
  | .negotiate => 3
  | .trainHigh => 4
  | .credit => 5
  | .up => 6
  | .retrain => 7
  | .negFail => 8

/-- A packet that waits for an egress port: the buffer it goes to at the next node, the port it came in on (6 for a local
source), the buffer it still fills there, and its flits not yet sent (R213 to R215). -/
structure QPkt where
  cls : Nat
  buf : Nat
  src : Nat
  inBuf : Option Nat := none
  left : Nat
  cargo : Cargo
  deriving DecidableEq, Repr

/-- A block in the replay buffer (R205). -/
structure TxBlock where
  bsn : BitVec 10
  flits : Nat
  cargo : List Cargo
  ctl : Option CtlFlit
  sentAt : Nat
  resends : Nat := 0
  deriving DecidableEq, Repr

/-- A packet for local delivery that fills an input buffer (R213, R214). -/
structure InPkt where
  buf : Nat
  cargo : Cargo
  deriving DecidableEq, Repr

/-- A port: link state, replay on both sides, credits, queues, the miss queue (R270) and the misdeal injector. -/
structure Port where
  link : LinkState := .down
  level : Nat := 0
  narrow : Bool := false
  highHalf : Bool := false
  lanesOk : BitVec 8 := 0
  partner : BitVec 16 := 0xFFFF
  partnerPort : BitVec 8 := 0
  partnerLanes : BitVec 8 := 0
  gcm : Bool := false
  resend : Bool := false
  capIn : Bool := false
  seenIn : Bool := false
  seenOut : Bool := false
  pickLevel : Nat := 0
  attempts : Nat := 0
  again : Bool := false
  nextBsn : BitVec 10 := 0
  replayBuf : List TxBlock := []
  resendAt : Option Nat := none
  sinceAlign : Nat := 0
  expect : BitVec 10 := 0
  gotBlock : Bool := false
  nakDue : Bool := false
  retrainDue : Bool := false
  tsyncDue : Bool := false
  sinceLctl : Nat := 0
  sent : List Nat := [0, 0, 0, 0, 0, 0, 0]
  climit : List Nat := [0, 0, 0, 0, 0, 0, 0]
  granted : List Nat := [2048, 3072, 1024, 512, 512, 512, 512]
  told : List Nat := [2048, 3072, 1024, 512, 512, 512, 512]
  withheld : List Nat := [0, 0, 0, 0, 0, 0, 0]
  queue : List QPkt := []
  cur : Option QPkt := none
  lastSrc : List Nat := [6, 6, 6, 6]
  rmaTurns : Nat := 0
  waitFrom : Option Nat := none
  inbox : List InPkt := []
  missq : List (Nat × Cargo) := []
  missFull : Bool := false
  missFullFrom : Nat := 0
  tseq : BitVec 16 := 0
  txTimes : Table (BitVec 80) := []
  tRxLast : BitVec 80 := 0
  tseqEcho : BitVec 16 := 0
  draws : Nat := 0
  oneShotDone : Bool := false
  reorder : List Cargo := []
  deriving DecidableEq, Repr

/-- Fabric time on this node (R223 to R226). `rate` is the correction of the counter's rate in ppm, `catchUp` the parent
time that a held counter waits for, `ptpGood` the consecutive good PTP offsets. -/
structure FabTime where
  first : Bool := true
  good : Nat := 0
  rate : Int := 0
  catchUp : Nat := 0
  lastTsync : Nat := 0
  holdoverAt : Nat := 0
  lost : Bool := false
  deriving DecidableEq, Repr

/-- The fabric side of the node. `loop` holds packets that this node sends to itself. -/
structure Fab where
  ports : Table Port := []
  time : FabTime := {}
  loop : List Cargo := []
  sched : List (Nat × Packet) := []
  deriving DecidableEq, Repr

/-! ## Connections, regions and counters (09) -/

/-- Connection states of R266. -/
inductive ConnState where
  | free | open_ | error | closing
  deriving DecidableEq, Repr

/-- Codes of R266. -/
def ConnState.code : ConnState → Nat
  | .free => 0
  | .open_ => 1
  | .error => 2
  | .closing => 3

/-- Kinds of operation that a half sends. -/
inductive OpKind where
  | read | write | add | signal | call
  deriving DecidableEq, Repr

/-- An operation that is not complete at the sender (R274). `key` is the command's key, where one waits; `msg` the work of
a CALL; `data` the bytes of a WRITE, ADD or SIGNAL, `got` the responses of a READ by packet. `fixed` says that the PSN is the
recorded one of R289. -/
structure Op where
  kind : OpKind
  key : Option Nat := none
  psn : BitVec 24
  psns : Nat
  total : Nat := 0
  fence : Bool := false
  raddr : BitVec 64 := 0
  rkey : BitVec 64 := 0
  data : List Byte := []
  msg : Option CallMsg := none
  counter : Nat := 0
  toAcked : Bool := false
  got : Table (List Byte) := []
  sentPkts : Nat := 0
  tries : Nat := 0
  fixed : Bool := false
  deriving DecidableEq, Repr

/-- A packet held or in process at the target: its port, its cargo, and when it was first held or answered
RETRY_AFTER. -/
structure Held where
  port : Nat
  cargo : Cargo
  since : Nat
  lastHold : Nat
  region : Nat
  page : Nat
  deriving DecidableEq, Repr

/-- A DMA read for a remote request (R277): the packet, the bus ranges still to be read, the bytes so far, and whether it is
a duplicate. -/
structure TargetRead where
  port : Nat
  cargo : Cargo
  todo : List (Nat × Nat)
  got : List Byte := []
  dup : Bool
  deriving DecidableEq, Repr

/-- A WRITE of several packets whose FIRST was applied (R277): the operation's first PSN, its packets, its region and what
is left of the range that the FIRST named. -/
structure Rest where
  first : BitVec 24
  psns : Nat
  rkey : BitVec 64
  off : Nat
  left : Nat
  deriving DecidableEq, Repr

/-- A half of a connection (R266 to R269). -/
structure Conn where
  state : ConnState := .free
  part : Nat := 0
  mgmt : Bool := false
  service : Bool := false
  enc : Bool := false
  pathL1 : Bool := false
  peerNode : BitVec 16 := 0
  peerConn : Nat := 0
  keySlot : Nat := 0
  retryLimit : Nat := 0
  rtoUs : Nat := 0
  txPsn : BitVec 24 := 0
  rxPsn : BitVec 24 := 0
  ackPsn : BitVec 24 := 0
  retries : Nat := 0
  txWrap : Nat := 0
  rxWrap : Nat := 0
  timerAt : Nat := 0
  ops : List Op := []
  txHeld : Bool := false
  resendAt : Option (Nat × BitVec 24) := none
  nakSeqSent : Bool := false
  unacked : Nat := 0
  unackedAt : Nat := 0
  errRecs : List (BitVec 24 × Nat × Nat) := []
  addRecs : List (BitVec 24 × BitVec 64) := []
  rest : Option Rest := none
  held : Option Held := none
  retryAfter : Option (BitVec 24 × Nat × BitVec 24 × Nat) := none
  reading : Option TargetRead := none
  waiting : List (Nat × Cargo) := []
  fetching : Bool := false
  closer : Option Nat := none
  deriving DecidableEq, Repr

/-- A memory region (R271). `pieces` are the local ranges that a SPACE 0 region resolves to, `ents` the map entries. -/
structure Region where
  used : Bool := false
  gen : BitVec 32 := 1
  part : Nat := 0
  access : Nat := 0
  paging : Nat := 0
  space : Nat := 0
  pageLog2 : Nat := 0
  base : Nat := 0
  len : Nat := 0
  ptBase : Nat := 0
  pieces : List (Nat × Nat × Nat) := []
  ents : List Nat := []
  deriving DecidableEq, Repr

/-- A sync counter (R283). -/
structure SyncCnt where
  value : Nat := 0
  acked : Nat := 0
  deriving DecidableEq, Repr

/-- An entry of the wait table (R288): a WAIT command by its key, or a waiting card. -/
structure Waiter where
  key : Option Nat
  card : Option Nat := none
  counter : Nat
  onAcked : Bool
  target : Nat
  due : Nat
  deriving DecidableEq, Repr

/-- An entry of the outstanding-operation table (R289). -/
structure OotEntry where
  key : Nat
  conn : Nat
  psn : BitVec 24
  applied : Bool
  deriving DecidableEq, Repr

/-- The RMA side of the node. `cache` lists the connections whose context is cached, most recently used first. -/
structure Rma where
  conns : Table Conn := []
  regions : Table Region := []
  counters : Table SyncCnt := []
  waiters : List Waiter := []
  oot : List OotEntry := []
  cache : List Nat := []
  deriving DecidableEq, Repr

/-! ## The range matcher (10) -/

/-- An entry of the range matcher (R293); one that is not listed is free. -/
structure RmxEnt where
  key : Nat := 0
  mask : Nat := 0
  lbase : Nat := 0
  node : BitVec 16 := 0
  part : Nat := 0
  attr : Nat := 0
  prio : Nat := 0
  tag : BitVec 16 := 0
  born : Bool := false
  dying : Bool := false
  deriving DecidableEq, Repr

/-- A MAP_UPDATE whose entries are being written (R302). -/
structure MapWrite where
  key : Nat
  epoch : BitVec 16
  added : Nat
  dying : Nat
  deriving DecidableEq, Repr

/-- A GFA access that is held until the map reaches its stamp (R305). -/
structure HeldGfa where
  port : Nat
  pkt : Packet
  msg : CallMsg
  due : Nat
  deriving DecidableEq, Repr

/-- The range matcher. `retiring` is the time by which the retiring epoch is retired by force. -/
structure Rmx where
  ents : Table RmxEnt := []
  epoch : BitVec 16 := 0
  retiring : Option Nat := none
  writing : Option MapWrite := none
  held : Table HeldGfa := []
  lkEpoch : BitVec 16 := 0
  lkKey : Nat := 0
  lkLast : Option (Nat × RmxEnt) := none
  deriving DecidableEq, Repr

/-! ## The deck (08) -/

/-- A card (R236). -/
structure Card where
  pos : Nat
  slot : Nat
  spanM1 : Nat
  rclass : Nat
  rinst : Nat
  kind : Nat
  first : Bool
  last : Bool
  step : Nat
  cost : Nat
  arg0 : Nat
  arg1 : Nat
  arg2 : Nat
  deriving DecidableEq, Repr

/-- A task (R239). -/
structure Task where
  desc : List Byte
  stride : Nat
  rot : Nat
  amask : Nat
  deriving DecidableEq, Repr

/-- A deck image that passed its checks, or a bank marked invalid (R235, R241). -/
structure DeckImage where
  dfmt : Nat := 0
  loan : Bool := false
  roundUs : Nat := 0
  id : Nat := 0
  cycle : Nat := 0
  nodes : Nat := 0
  diameter : Nat := 0
  rcLimit : Nat := 0
  house : Nat := 0
  cards : List Card := []
  tasks : List Task := []
  routes : List Nat := []
  steps : Nat := 0
  deriving DecidableEq, Repr

/-- A DECK_SWAP that waits for START (R245). -/
structure SwapReq where
  key : Nat
  stop : Bool
  restart : Bool
  cring : Nat
  start : Nat
  stepBase : Nat
  deriving DecidableEq, Repr

/-- A step of the running deck from its first card until its completion is posted (R252): its cycle and number, when its
first card ran, the ring of its completion, the commands of its tasks by card, its staged outputs, remote operations,
additions and counts, the round of its LAST card, whether its RELEASE card completed, and how often it rewound in
succession. -/
structure StepRun where
  idx : Nat
  cycle : Nat
  number : Nat
  cring : Nat
  loan : Bool := false
  firstT : Nat := 0
  tasks : Table Nat := []
  outs : List Out := []
  ops : List (Nat × Op) := []
  posts : List (Nat × Nat) := []
  counts : List (Nat × Nat) := []
  lastRound : Option Nat := none
  complete : Bool := false
  rewinds : Nat := 0
  deriving DecidableEq, Repr

/-- The deck sequencer. `state` is DECK_STS.STATE, `round` the current time round, `cur` the positions run since the start
(cycle times CYCLE plus position), `disp` D. `issued` and `ended` name the cards of this round that were issued and whose span
ended, `short` the CHECK cards that found their counter short, `struck` the cards whose part faulted, `carried` the suspended
cards of earlier rounds with their cycle (R256). `rewindTo` is where the deck goes on after a rewind, `blindRound` the round that the last taking of notices made void, `skip` the step numbers
passed over then, `released` the numbers of this cycle's steps that completed. `received` names the RECV cards of this round whose bytes
came, `late` those of loan mode that still wait for theirs, `bankBad` a double error in the active bank (R354). `waits` holds when a WAIT card began to wait, `loaned` the waits that lend power. -/
structure Deck where
  active : Option DeckImage := none
  pend : Option DeckImage := none
  swap : Option SwapReq := none
  state : Nat := 0
  cring : Nat := 0
  stepBase : Nat := 0
  cur : Nat := 0
  round : Nat := 0
  disp : Nat := 0
  issued : List Nat := []
  ended : List Nat := []
  short : List Nat := []
  struck : List Nat := []
  carried : List (Nat × Nat) := []
  nextCmd : BitVec 32 := 0
  steps : List StepRun := []
  notices : List Notice := []
  seen : List (Nat × Nat × Nat × Nat) := []
  rewindTo : Option Nat := none
  blindRound : Option Nat := none
  skip : List Nat := []
  released : List Nat := []
  received : List Nat := []
  late : List (Nat × Nat) := []
  bankBad : Bool := false
  metering : Bool := false
  waits : Table Nat := []
  loaned : List Nat := []
  scratch : List Host.Cell := []
  goodRounds : Nat := 0
  deriving DecidableEq, Repr

/-! ## Security (13) -/

/-- A key slot (R374): kind 0 empty, 1 FABRIC, 2 WINDOW. -/
structure KeySlot where
  kind : Nat := 0
  key : List Byte := []
  wbase : Nat := 0
  wlen : Nat := 0
  deriving DecidableEq, Repr

/-- A release in progress (R381): the command's key, whether it verifies, whether its fills are launched, and, once
they have ended, how many columns failed to read back. -/
structure RelRun where
  key : Nat
  verify : Bool
  filling : Bool := false
  ended : Option Nat := none
  deriving DecidableEq, Repr

/-- The SEC block beside its registers. `prevChallenge` is the previous SEC_CHALLENGE, `drawn` when the current one was
drawn, `keyGen` the cold reset whose alias and import keys are in use, `memKeys` the partitions that hold a memory key. -/
structure Sec where
  slots : Table KeySlot := []
  prevChallenge : List Byte := []
  drawn : Nat := 0
  keyGen : Nat := 0
  coldResets : Nat := 0
  warmResets : Nat := 0
  idRevoked : Bool := false
  keysGone : Bool := false
  memKeys : Table Nat := []
  trace : List (List Byte) := []
  traceNext : Nat := 0
  releases : Table RelRun := []
  deriving DecidableEq, Repr

end Sys2Proof.Machine
end

