-- ==== Sys2Proof/Machine/State.lean ====
section
/-! DEFINITION. The state of the node as plain data, its fault and refusal reasons, and the state after reset. -/

namespace Sys2Proof.Machine

open Sys2Proof

/-- Clocks of the node, in ns: node time with its 16-bit fraction, whether it is held and until which MSS time, and MSS
time (R223, R224, R433). -/
structure Clock where
  node : Nat := 0
  frac : BitVec 16 := 0
  held : Bool := false
  heldUntil : Nat := 0
  mss : Nat := 0
  deriving DecidableEq, Repr

/-- The whole node. `pending` is the queue of commands that wait, first in, first out; `shards` are the pages held for other
homes, each with its partition (R66, R93). -/
structure State where
  pending : List Instr := []
  out : List Out := []
  freeCnt : Nat := 0
  clk : Clock := {}
  regs : RegFile := {}
  own : Ownership := {}
  host : HostUnit := {}
  cmds : Table Cmd := []
  seqs : Table Seq := []
  shards : List (Nat × HeldPage) := []
  parts : Parts := {}
  retained : List Retained := []
  mgmt : Mgmt := {}
  pins : Pins := {}
  tap : Tap := {}
  assay : Assay := {}
  mem : MemUnit := {}
  walk : Recall := {}
  fab : Fab := {}
  rma : Rma := {}
  rmx : Rmx := {}
  deck : Deck := {}
  sec : Sec := {}
  deriving DecidableEq, Repr

/-- No command stops the node with a fault: every error of the spec is a status, an event or a register. The one
constructor is raised by no command; it keeps the type inhabited (safe). -/
inductive Fault where
  /-- Raised by no command (safe). -/
  | none
  deriving DecidableEq, Repr

/-- Why a command has no next state. -/
inductive Refusal where
  /-- Raised by the dispatch of a command that has no meaning yet (safe: the run stops). -/
  | notModelled (mnemonic : String)
  deriving DecidableEq, Repr

/-- The state right after a cold reset: every field at its default, which is the value the spec or the log gives. -/
def State.reset : State := {}

end Sys2Proof.Machine
end

