-- ==== Sys2Proof/Machine/Ops.lean ====
section
/-! DEFINITION. The named operations over the state that the meanings share: time, free values, registers, memory bytes,
events and the event log, interrupts, metering, and finishing a command. -/

namespace Sys2Proof.Machine

open Sys2Proof

/-- The outcome type of every meaning. -/
abbrev Res := Host.Outcome State Fault Refusal

/-! ## Time and free values -/

/-- Node time in ns. -/
def now (s : State) : Nat := s.clk.node

/-- Main power is on (R422). -/
def mainOn (s : State) : Bool :=
  s.mgmt.st == .bringup || s.mgmt.st == .ready || s.mgmt.st == .degraded || s.mgmt.st == .test

/-- One ns passes (log entry 5). The node time counter runs on main power and stands still while it is held (R224, R433).
MSS time always runs. -/
def tick (s : State) : State :=
  let m := s.clk.mss + 1
  { s with clk := { s.clk with
      node := if s.clk.held || !mainOn s then s.clk.node else s.clk.node + 1
      held := s.clk.held && decide (m < s.clk.heldUntil)
      mss := m } }

/-- Node time is at least `t`: an event that is due at `t` has come (log entry 5). -/
def advanceTo (t : Nat) (s : State) : State :=
  { s with clk := { s.clk with
      node := max s.clk.node t
      held := s.clk.held && decide (t ≤ s.clk.node)
      mss := s.clk.mss + (t - s.clk.node) } }

/-- MSS time is at least `t` (R433), and node time has run on with it while main power is on. -/
def advanceMss (t : Nat) (s : State) : State :=
  { s with clk := { s.clk with
      node := if mainOn s then s.clk.node + (t - s.clk.mss) else s.clk.node
      mss := max s.clk.mss t } }

/-- The state with the counter of free values moved on: the value taken is the one at the old count. -/
def stepFree (s : State) : State := { s with freeCnt := s.freeCnt + 1 }

/-- The counter of free values moved on by `n` values. -/
def skipFree (n : Nat) (s : State) : State := { s with freeCnt := s.freeCnt + n }

/-- A transaction leaves the node. -/
def emit (o : Out) (s : State) : State := { s with out := s.out ++ [o] }

/-- Several transactions leave the node, in order. -/
def emitAll (os : List Out) (s : State) : State := { s with out := s.out ++ os }

/-- Apply a state change for each element of a list, in order. -/
def forEach {α : Type} (l : List α) (f : α → State → State) (s : State) : State := l.foldl (fun s a => f a s) s

/-! ## Registers -/

/-- The active value of the staged bits at an offset. -/
def actW (s : State) (off : Nat) : Word := (tget s.regs.act off).getD (stReset off)

/-- The pending value of the staged bits at an offset, as the PF stages them. -/
def pendW (s : State) (off : Nat) : Word := (tget s.regs.pend off).getD (actW s off)

/-- The value of the other bits at an offset. -/
def valW (s : State) (off : Nat) : Word := (tget s.regs.val off).getD (valReset off)

/-- The active bank holds `v` at an offset. -/
def setAct (off : Nat) (v : Word) (s : State) : State := { s with regs := { s.regs with act := tset s.regs.act off v } }

/-- The node, or a write that took effect, sets the other bits at an offset. -/
def setVal (off : Nat) (v : Word) (s : State) : State := { s with regs := { s.regs with val := tset s.regs.val off v } }

/-- Set a 64-bit register that the node writes. -/
def setVal64 (off : Nat) (v : Nat) (s : State) : State :=
  setVal (off + 4) (BitVec.ofNat 32 (v / 2 ^ 32)) (setVal off (BitVec.ofNat 32 v) s)

/-- A 64-bit value of the other bits. -/
def val64 (s : State) (off : Nat) : Nat := (valW s off).toNat + 2 ^ 32 * (valW s (off + 4)).toNat

/-- Put bits [lo + w - 1 : lo] of a register that the node writes. -/
def setValBits (off lo w x : Nat) (s : State) : State :=
  setVal off (BitVec.ofNat 32 (putBits (valW s off).toNat lo w x)) s

/-- Bits of the active value at an offset. -/
def actBits (s : State) (off lo w : Nat) : Nat := bits (actW s off).toNat lo w

/-- Bits of the other value at an offset. -/
def valBits (s : State) (off lo w : Nat) : Nat := bits (valW s off).toNat lo w

/-- A 64-bit staged register's active value. -/
def act64 (s : State) (off : Nat) : Nat := (actW s off).toNat + 2 ^ 32 * (actW s (off + 4)).toNat

/-- The active bytes of `n` words from an offset. -/
def actBytes (s : State) (off n : Nat) : List Byte :=
  (List.range n).flatMap fun i => leBytes 4 (actW s (off + 4 * i)).toNat

/-- The bytes of `n` words of a bank given as a function of the offset. -/
def bankBytes (bank : Nat → Word) (off n : Nat) : List Byte :=
  (List.range n).flatMap fun i => leBytes 4 (bank (off + 4 * i)).toNat

/-- A counter's value. -/
def cnt (s : State) (off : Nat) : BitVec 64 := (tget s.regs.cnt off).getD 0

/-- A 64-bit counter counts `n` (R11). -/
def cntAdd (off n : Nat) (s : State) : State :=
  { s with regs := { s.regs with cnt := tset s.regs.cnt off (cnt s off + BitVec.ofNat 64 n) } }

/-- Commit control number `b`: a block's, or 64 + v for VF v. -/
def ctlOf (s : State) (b : Nat) : CommitCtl := (tget s.regs.ctl b).getD {}

/-- Set a commit control. -/
def setCtl (b : Nat) (c : CommitCtl) (s : State) : State := { s with regs := { s.regs with ctl := tset s.regs.ctl b c } }

/-! ## Memory (R131, R369; log entry 4) -/

/-- Bytes of local memory: 6,291,456 granules of 256 KiB. -/
def memSize : Nat := 1649267441664

/-- What an unlisted address reads as (log entry 4). -/
def memDefault : Byte := 0

/-- The byte that a cell list holds at an address. -/
def cellGet : List Host.Cell → Nat → Byte
  | [], _ => memDefault
  | (a', b) :: t, a => if a' = a then b else if a < a' then memDefault else cellGet t a

/-- The cell list with a byte written; the canonical form is kept. -/
def cellSet : List Host.Cell → Nat → Byte → List Host.Cell
  | [], a, b => if b = memDefault then [] else [(a, b)]
  | (a', b') :: t, a, b =>
    if a < a' then (if b = memDefault then (a', b') :: t else (a, b) :: (a', b') :: t)
    else if a = a' then (if b = memDefault then t else (a, b) :: t)
    else (a', b') :: cellSet t a b

/-- Addresses strictly rising, no entry equal to what an unlisted address reads as, every address inside memory. -/
def Memory.wf (l : List Host.Cell) : Bool :=
  tsorted l && l.all fun (a, b) => b != memDefault && decide (a < memSize)

/-- One byte of local memory; an address past the end reads as the default. -/
def readByte (s : State) (a : Nat) : Byte := if a < memSize then cellGet s.mem.cells a else memDefault

/-- Write one byte of local memory; an address past the end is not memory, and nothing is written. -/
def writeByte (a : Nat) (b : Byte) (s : State) : State :=
  if a < memSize then { s with mem := { s.mem with cells := cellSet s.mem.cells a b } } else s

/-- `n` bytes of local memory. -/
def readMem (s : State) (a n : Nat) : List Byte := (List.range n).map fun i => readByte s (a + i)

/-- Write bytes one after another. -/
def writeBytes (a : Nat) : List Byte → State → State
  | [], s => s
  | b :: bs, s => writeBytes (a + 1) bs (writeByte a b s)

/-- The bursts of 32 bytes that a range fills hold fresh check symbols (R145). -/
def clearErr (a n : Nat) (s : State) : State :=
  { s with mem := { s.mem with err := tfilter s.mem.err fun k _ => !(decide (a ≤ 32 * k) && decide (32 * k + 32 ≤ a + n)) } }

/-- Write bytes to local memory. -/
def writeMem (a : Nat) (bs : List Byte) (s : State) : State := clearErr a bs.length (writeBytes a bs s)

/-! ## Partitions, ownership and node state -/

/-- Word k of SEC_PART[p] in the active bank. -/
def partW (s : State) (p k : Nat) : Nat := (actW s (0xA01000 + 0x80 * p + 4 * k)).toNat

/-- PSTATE of a partition (R368): 0 FREE, 1 ACTIVE, 2 RELEASING. -/
def pstate (s : State) (p : Nat) : Nat := valBits s (0xA01000 + 0x80 * p) 0 8

/-- The partition is ACTIVE. -/
def partActive (s : State) (p : Nat) : Bool := pstate s p == 1

/-- The ACTIVE partitions. -/
def activeParts (s : State) : List Nat := (List.range 64).filter (partActive s)

/-- A sequence ID lies in the partition's range (R31, R368). -/
def seqInRange (s : State) (p seq : Nat) : Bool :=
  decide (partW s p 2 % 2 ^ 20 ≤ seq) && decide (seq < partW s p 2 % 2 ^ 20 + partW s p 3)

/-- A 64-bit field of SEC_PART[p] at a byte offset, in the active bank. -/
def partQ (s : State) (p off : Nat) : Nat := act64 s (0xA01000 + 0x80 * p + off)

/-- Granule runs (first, count) of a partition record read from `q`: its extents and its crucible region (R369). -/
def runsOf (q : Nat → Nat) : List (Nat × Nat) :=
  ((List.range 8).map fun j => (bits (q (48 + 8 * j)) 0 23, bits (q (48 + 8 * j)) 23 23)).filter (fun r => r.2 != 0)
    ++ if bits (q 32) 16 16 = 0 then [] else [(1024 * bits (q 32) 0 16, 1024 * bits (q 32) 16 16)]

/-- Granule runs of partition p in force. -/
def partRuns (s : State) (p : Nat) : List (Nat × Nat) := runsOf (partQ s p)

/-- Granules of a partition (R406). -/
def partGranules (s : State) (p : Nat) : Nat := sumN ((partRuns s p).map (·.2))

/-- A granule lies in the partition's memory. -/
def ownsGranule (s : State) (p g : Nat) : Bool := (partRuns s p).any fun (f, n) => decide (f ≤ g) && decide (g < f + n)

/-- Granules g to g + n - 1 lie in the runs. -/
def coversRun (runs : List (Nat × Nat)) : Nat → Nat → Nat → Bool
  | 0, _, n => n == 0
  | fuel + 1, g, n =>
    if n = 0 then true
    else match runs.find? fun (f, m) => decide (f ≤ g) && decide (g < f + m) with
      | none => false
      | some (f, m) => coversRun runs fuel (f + m) (n - (f + m - g))

/-- The bytes a to a + n - 1 lie wholly in the partition's memory (R369). -/
def inPartMem (s : State) (p a n : Nat) : Bool :=
  n == 0 || coversRun (partRuns s p) 10 (a / 2 ^ 18) ((a + n - 1) / 2 ^ 18 - a / 2 ^ 18 + 1)

/-- The partition that holds a granule, if one does. -/
def granulePart (s : State) (g : Nat) : Option Nat :=
  (List.range 64).find? fun p => pstate s p != 0 && ownsGranule s p g

/-- The writer's master number, for masters that can own the node (R333). -/
def masterOf : Writer → Option Nat
  | .pf => some 0
  | .mgmt m => some m
  | .vf _ => none

/-- The node has an owner. -/
def hasOwner (s : State) : Bool := s.own.state != .none

/-- Master `m` is the owner. -/
def ownerIs (s : State) (m : Nat) : Bool := hasOwner s && s.own.owner == m

/-- The writer is the owner (R332). -/
def isOwner (s : State) (w : Writer) : Bool := match masterOf w with
  | some m => ownerIs s m
  | none => false

/-- The node serves commands: READY, DEGRADED or TEST (R423). -/
def serving (s : State) : Bool :=
  (s.mgmt.st == .ready || s.mgmt.st == .degraded || s.mgmt.st == .test) && !s.mgmt.jtagDriven

/-- The remap word that a die serves by: the active one, or the former one while the unit it takes off duty runs (R160). -/
def remapWord (s : State) (die : Nat) : Nat := (tget s.mem.remapOld die).getD (actW s (0x602200 + 4 * die)).toNat

/-- The crucible image of a version in the active store (R436). -/
def crucImage (s : State) (v : Nat) : Option CrucImage := tget (tgetD s.mgmt.crucStore (actBits s 0xB0011C 0 1) []) v

/-- Slot of an image class in force: bit 0 of MGMT_FW_ACT. -/
def actSlot (s : State) (cls : Nat) : Nat := actBits s (0xB00100 + 4 * cls) 0 1

/-- A flash slot of a class. Slot A of every class is loadable as the module ships (log entry 10). -/
def fwSlot (s : State) (cls slot : Nat) : FwSlot :=
  if slot = 0 then tgetD s.mgmt.slotsA cls { loadable := true } else tgetD s.mgmt.slotsB cls {}

/-- A deck runs in this node: DECK_STS.STATE is 1 (R260). -/
def deckRuns (s : State) : Bool := valBits s 0x200004 0 2 == 1

/-! ## Interrupts (R338, R339) -/

/-- Key of vector `v` of function `fn`. -/
def vecKey (fn v : Nat) : Nat := 64 * fn + v

/-- Vectors of a function (R310). -/
def vecCount (fn : Nat) : Nat := if fn = 0 then 64 else 31

/-- Signal a vector: a message, or its pending bit while it is masked. -/
def signalVec (fn v : Nat) (s : State) : State :=
  let e := tgetD s.host.msix (vecKey fn v) {}
  if e.masked then { s with host := { s.host with msix := tset s.host.msix (vecKey fn v) { e with pending := true } } }
  else emit (.msix fn v) s

/-! ## Event records (R347, R349) -/

/-- The 31 bytes of DETAIL. -/
def detailBytes : Detail → List Byte
  | .z => zeros 31
  | .l obj stream sub item addr =>
    slice (leBytes 4 obj ++ leBytes 2 stream ++ leBytes 1 sub ++ zeros 1 ++ leBytes 8 item ++ leBytes 8 addr) 0 31
  | .c conn peer nak rkey raddr total =>
    slice (leBytes 4 conn ++ leBytes 2 peer ++ leBytes 1 nak ++ zeros 1 ++ leBytes 8 rkey.toNat
      ++ leBytes 8 raddr.toNat ++ leBytes 4 total) 0 31
  | .p oldP newP cause steps => slice (leBytes 1 oldP ++ leBytes 1 newP ++ leBytes 1 cause ++ zeros 1 ++ leBytes 4 steps) 0 31
  | .s cause replays peer ring rseq aux =>
    slice (leBytes 1 cause ++ leBytes 1 replays ++ leBytes 2 peer ++ leBytes 2 ring ++ zeros 2 ++ leBytes 4 rseq.toNat
      ++ zeros 4 ++ leBytes 8 aux) 0 31

/-- The 64-byte record with its sequence and TAIL byte. -/
def eventBytes (eseq : Nat) (tail : Nat) (e : Event) : List Byte :=
  leBytes 4 eseq ++ leBytes 1 e.cls ++ leBytes 1 e.code
    ++ leBytes 1 (b2n e.part.isSome + 2 * b2n e.ownerCopy) ++ leBytes 1 (e.part.getD 0)
    ++ leBytes 8 e.time ++ leBytes 8 e.step.toNat
    ++ leBytes 4 (e.kind + 256 * (e.logical % 65536) + 2 ^ 24 * e.physical)
    ++ leBytes 2 e.status.code ++ zeros 2 ++ detailBytes e.detail ++ leBytes 1 tail

/-- Event ring of a function: base, log2 of its slots, EN and vector, from the active bank (R339). -/
structure EvCfg where
  base : Nat
  log2 : Nat
  en : Bool
  vec : Nat
  deriving DecidableEq, Repr

/-- The active event-ring record of a function. -/
def evCfg (s : State) (fn : Nat) : EvCfg :=
  let o := 0x100200 + 0x20 * fn
  { base := act64 s o, log2 := actBits s (o + 8) 0 8, en := actBits s (o + 8) 8 1 == 1, vec := actBits s (o + 8) 16 16 }

/-- The event ring of a function. -/
def evRing (s : State) (fn : Nat) : EvRing := tgetD s.host.evs fn {}

/-- Set an event ring. -/
def setEv (fn : Nat) (r : EvRing) (s : State) : State := { s with host := { s.host with evs := tset s.host.evs fn r } }

/-- The ring takes a record now: enabled, not stopped, a slot free. -/
def evRoom (c : EvCfg) (r : EvRing) : Bool := c.en && !r.fault && decide (ahead r.consumed r.produced < 2 ^ c.log2)

/-- Write one event record and signal the vector (R339). -/
def writeEv (fn : Nat) (e : Event) (s : State) : State :=
  let c := evCfg s fn
  let r := evRing s fn
  let q := r.produced.toNat
  let phase := (q / 2 ^ c.log2 + 1) % 2
  let a := c.base + 64 * (q % 2 ^ c.log2)
  let b := eventBytes q phase e
  signalVec fn c.vec (emit (.dmaWrite fn a b) (setEv fn { r with produced := r.produced + 1, last := some (a, b) } s))

/-- The LOST event (R339). -/
def lostEvent (s : State) : Event := { cls := 8, code := 5, time := now s }

/-- Write the held events of a function while there is room, then the LOST event if one is due. -/
def flushEv (fn : Nat) : Nat → State → State
  | 0, s => s
  | fuel + 1, s =>
    let r := evRing s fn
    if !evRoom (evCfg s fn) r then s
    else match r.held with
      | e :: rest => flushEv fn fuel (writeEv fn e (setEv fn { r with held := rest } s))
      | [] => if r.lostDue then writeEv fn (lostEvent s) (setEv fn { r with lostDue := false } s) else s

/-- Deliver an event to a function's ring: written, held up to 256, or counted lost (R339). -/
def deliverEv (fn : Nat) (e : Event) (s : State) : State :=
  let r := evRing s fn
  if r.held.isEmpty && !r.lostDue && evRoom (evCfg s fn) r then writeEv fn e s
  else if r.held.length < 256 && !r.lostDue then setEv fn { r with held := r.held ++ [e] } s
  else setEv fn { r with lost := r.lost + 1, lostDue := true } s

/-! ## Event log (R432, R433) -/

/-- Time of a management entry: node time, or MSS time with bit 63 set while the node time counter does not run. -/
def logTime (s : State) : Nat := if mainOn s then now s else s.clk.mss + 2 ^ 63

/-- An entry joins the batch that the MSS flushes, or the hardware queue while the MSS restarts. -/
def addLog (mk : Nat → LogEntry) (s : State) : State :=
  if s.mgmt.mssRunning then
    { s with mgmt := { s.mgmt with logBatch := s.mgmt.logBatch ++ [mk s.mgmt.logSeq], logSeq := s.mgmt.logSeq + 1 } }
  else if s.mgmt.logHw.length < 1024 then
    { s with mgmt := { s.mgmt with logHw := s.mgmt.logHw ++ [mk 0] } }
  else { s with mgmt := { s.mgmt with logLost := s.mgmt.logLost + 1 } }

/-- Log a management entry (R433). -/
def logMgmt (cls code : Nat) (st : Status) (m : DetailM) (s : State) : State :=
  addLog (fun q => .mgmt q cls code (logTime s) st m) s

/-- A management message to a master, with the node's own number; none leaves while the MSS restarts (R429, R436). SMB_ALERT# is low
while the BMC has one to read (R461). -/
def sendMgmt (master mtype : Nat) (tag : BitVec 32) (data : List Byte) (s : State) : State :=
  if s.mgmt.mssRunning then
    let m : Out := .mgmtMsg master mtype s.mgmt.msgSeq tag data ((tget s.mgmt.sessions master).bind (·.answer))
    emitAll (if master = 9 then [.pin "SMB_ALERT#" false, m, .pin "SMB_ALERT#" true] else [m])
      { s with mgmt := { s.mgmt with msgSeq := s.mgmt.msgSeq + 1 } }
  else s

/-- Post the owner's record of an event: to the PF ring, as a message to a management master, or to the log alone when
nobody owns the node; the log keeps it in every case (R347, R432). -/
def postOwner (e : Event) (s : State) : State :=
  let s1 := addLog (fun q => .event q e) s
  if !hasOwner s1 then s1
  else if s1.own.owner = 0 then deliverEv 0 e s1
  else sendMgmt s1.own.owner 0x83 0 (eventBytes 0 0 e) s1

/-- Post an event: to the VF of the partition it names, and to the owner (R347). -/
def post (e : Event) (s : State) : State :=
  let e := { e with time := now s }
  match e.part with
  | some p => postOwner { e with ownerCopy := true } (deliverEv (p + 1) e s)
  | none => postOwner e s

/-- Post to one function only. -/
def postFn (fn : Nat) (e : Event) (s : State) : State := deliverEv fn { e with time := now s } s

/-! ## Metering (R340, R403 to R411) -/

/-- Add to tap accumulator 12 p + r, modulo 2^64. -/
def tapAdd (p r n : Nat) (s : State) : State :=
  if n = 0 then s
  else { s with tap := { s.tap with acc := tset s.tap.acc (12 * p + r) ((tgetD s.tap.acc (12 * p + r) 0 + n) % 2 ^ 64) } }

/-- Resource codes of R403. -/
def resPosHeads : Nat := 1
def resCruOps : Nat := 2
def resHops : Nat := 3
def resLadle : Nat := 4
def resCast : Nat := 5
def resFab : Nat := 6
def resPcieIn : Nat := 10
def resPcieOut : Nat := 11

/-! ## Commands -/

/-- Key of command `rseq` of a ring. -/
def cmdKey (ring : Nat) (rseq : BitVec 32) : Nat := ring * 2 ^ 32 + rseq.toNat

/-- A command that is accepted and whose completion is not yet written. -/
def getCmd (s : State) (ring : Nat) (rseq : BitVec 32) : Option Cmd := tget s.cmds (cmdKey ring rseq)

/-- Set a command. -/
def setCmd (c : Cmd) (s : State) : State := { s with cmds := tset s.cmds (cmdKey c.ring c.rseq) c }

/-- Opcode byte of a command. -/
def Cmd.op (c : Cmd) : Nat := fld c.desc 1 1
/-- Partition that the header names (R318). -/
def Cmd.part (c : Cmd) : Nat := fld c.desc 2 2 % 64

/-- Number of the management ring, after the 4,096 rings of the host. -/
def mgmtRing : Nat := 4096

/-- Number of the ring that stands for the deck's tasks (R239). -/
def deckRing : Nat := 4097

/-- ASSIGN byte of a ring (R315). -/
def ringAssign (s : State) (ring : Nat) : Nat := actBits s (0x110018 + 0x40 * ring) 8 8

/-- The ring is an owner ring. -/
def ownerRing (s : State) (ring : Nat) : Bool :=
  ring == mgmtRing || (decide (ring < 4096) && bits (ringAssign s ring) 6 2 == 3)

/-- The function of a ring: the VF of its partition, or the PF (R315). -/
def ringFn (s : State) (ring : Nat) : Nat := if ownerRing s ring then 0 else ringAssign s ring % 64 + 1

/-- The function that a command's DMA carries: its ring's, or for a deck task the VF of its partition (R313). -/
def cmdFn (s : State) (c : Cmd) : Nat := if c.ring = deckRing then c.part + 1 else ringFn s c.ring

/-- DETAIL of form S for a command; a deck step names no ring (R349). -/
def stepDetail (c : Cmd) (cause peer aux : Nat) : Detail :=
  if c.ring = deckRing then .s cause c.replays peer 0xFFFF 0 aux else .s cause c.replays peer c.ring c.rseq aux

/-- Owner-domain commands post nothing to the tap (R340). -/
def ownerDomain (s : State) (c : Cmd) : Bool :=
  [0x40, 0x41, 0x50].contains c.op || (c.op == 0x60 && ownerRing s c.ring)

/-- The record of a deck step that is not yet released. -/
def openStep (s : State) (n : Nat) : Option StepRun := s.deck.steps.find? fun x => x.number == n

/-- Change the record of a deck step. -/
def modStep (n : Nat) (f : StepRun → StepRun) (s : State) : State :=
  { s with deck := { s.deck with steps := s.deck.steps.map fun x => if x.number = n then f x else x } }

/-- The command is a deck task whose step is not yet released (R252). -/
def staging (s : State) (c : Cmd) : Bool := c.ring == deckRing && (openStep s c.step.toNat).isSome

/-- A count of a command: a deck step's waits for its release, a re-executed command adds none (R252, R405). -/
def meter (c : Cmd) (p r n : Nat) (s : State) : State :=
  if !c.metered ∨ n = 0 then s
  else if staging s c then modStep c.step.toNat (fun x => { x with counts := x.counts ++ [(12 * p + r, n)] }) s
  else tapAdd p r n s

/-- A transaction of a command that leaves the node: a deck step's is staged until its release (R252). -/
def emitC (c : Cmd) (o : Out) (s : State) : State :=
  if staging s c then modStep c.step.toNat (fun x => { x with outs := x.outs ++ [o] }) s else emit o s

/-- The command's data bytes are metered: to the partition the header names, at the first execution (R340). -/
def meterData (c : Cmd) (res n : Nat) (s : State) : State :=
  if ownerDomain s c then s else meter c c.part res n s

/-- The command's descriptor, completion and record bytes: to the ring's partition (R340). -/
def meterRing (c : Cmd) (res n : Nat) (s : State) : State :=
  if !c.metered then s
  else if ownerRing s c.ring then (if ownerDomain s c then s else tapAdd c.part res n s)
  else tapAdd (ringAssign s c.ring % 64) res n s

/-- Drop the command's reference to a retiring map epoch (R303). -/
def dropRef (c : Cmd) : Cmd := { c with hasRef := false }

/-! ## The operand trace buffer (R386) -/

/-- Records of the trace buffer. -/
def traceSize : Nat := 16384

/-- SEC_TRACE_STS and SEC_TRACE_PARTS show the buffer. -/
def showTrace (s : State) : State :=
  let n := s.sec.trace.length
  let mask := (s.sec.trace.map fun r => bits (fld r 18 1) 1 6).foldl (fun m p => m ||| 2 ^ p) 0
  setVal64 0xA00218 mask (setVal 0xA00214 (BitVec.ofNat 32 (min n traceSize + 2 ^ 15 * b2n (decide (traceSize ≤ n)))) s)

/-- A record joins the buffer: it stops when full, or overwrites the oldest with WRAP. -/
def addTrace (r : List Byte) (s : State) : State :=
  if s.sec.trace.length < traceSize then { s with sec := { s.sec with trace := s.sec.trace ++ [r] } }
  else if valBits s 0xA00210 1 1 = 1 then
    { s with sec := { s.sec with
        trace := s.sec.trace.set s.sec.traceNext r
        traceNext := (s.sec.traceNext + 1) % traceSize } }
  else s

/-- The blocks of a command that pass the traced part while capture is on. Which logical instances work on a command, and in what
blocks, is the node's own: their number, direction and bytes are free (log entry 14). -/
def traceWork (c : Cmd) (s : State) : State :=
  if valBits s 0xA00210 0 1 = 0 then s
  else
    let n := Config.freeNat s.freeCnt % (traceSize + 1)
    let one (_ : Nat) (s : State) : State :=
      let dir := Config.freeBool s.freeCnt
      addTrace (leBytes 8 (now s) ++ leBytes 8 c.step.toNat ++ leBytes 1 (valBits s 0xA00210 2 8) ++ leBytes 1 (valBits s 0xA00210 10 16)
        ++ leBytes 1 (b2n dir + 2 * c.part + 128) ++ zeros 1 ++ (List.range 44).map (fun j => Config.freeByte s.freeCnt j)) (stepFree s)
    showTrace (forEach (List.range n) one (stepFree s))

/-- STEP/REPLAYED of a command whose replayed run has ended (R355). -/
def replayedEvent (c : Cmd) (s : State) : State :=
  post { cls := 4, code := 1, part := some c.part, step := c.step, detail := stepDetail c c.cause 0xFFFF 0 } s

/-- What a running command leaves behind as it ends: the blocks traced, and the event of a replayed run. -/
def reportEnd (c : Cmd) (s : State) : State :=
  let s1 := if c.phase = .running then traceWork c s else s
  if c.phase = .running ∧ c.replays ≠ 0 ∧ !c.faulted then replayedEvent c s1 else s1

/-- The command is gone. -/
def delCmd (c : Cmd) (s : State) : State := { s with cmds := tdel s.cmds (cmdKey c.ring c.rseq) }

/-- A finished command is kept for its completion; a deck task whose step is released has none to wait for. -/
def keepFinished (c : Cmd) (s : State) : State := if c.ring = deckRing ∧ !staging s c then delCmd c s else setCmd c s

/-- NODE counters of the statuses ST_STEP_FAULT and ST_DATA_LOST. -/
def countEnd (st : Status) (s : State) : State :=
  let s1 := if st = .stepFault then cntAdd 0x198 1 s else s
  if st = .dataLost then cntAdd 0x1A0 1 s1 else s1

/-- A command as it stands when it has ended. -/
def finished (c : Cmd) (st : Status) (result : Nat) : Cmd :=
  { dropRef c with phase := .finished, status := st, result := BitVec.ofNat 64 result, work := .none }

/-- A command ends: it waits for its completion to be written (R321). Its result is zero where it defines none. -/
def finish (c : Cmd) (st : Status) (result : Nat) (s : State) : State :=
  countEnd st (keepFinished (finished c st result) (reportEnd c s))

/-- STEP/STEP_FAULT of a command. -/
def stepFaultEvent (c : Cmd) (cause kind aux : Nat) (s : State) : State :=
  post { cls := 4, code := 2, part := some c.part, step := c.step, kind := kind, status := .stepFault,
         detail := stepDetail c cause 0xFFFF aux } s

/-- The result of a step that faults: a LADLE's is the committed length, any other's is zero (R357). -/
def faultResult (s : State) (c : Cmd) : Nat := if c.op = 0x18 then (tgetD s.seqs (fld c.desc 8 4 % 2 ^ 20) {}).len else 0

/-- A step ends with ST_STEP_FAULT. -/
def faultStep (c : Cmd) (cause kind : Nat) (s : State) : State :=
  finish c .stepFault (faultResult s c) (stepFaultEvent c cause kind 0 s)

/-- A fault strikes a running step (R355, R357, R366): it stops until its replay, and a replay that it ends is reported. A step that is
struck already has one replay for both; one whose last permitted replay is struck ends with ST_STEP_FAULT. -/
def strikeCmd (c : Cmd) (cause : Nat) (s : State) : State :=
  if c.phase ≠ .running then s
  else if c.faulted then setCmd c s
  else
    let s1 := if c.replays = 0 then s else replayedEvent c s
    if actBits s 0x108 0 2 ≤ c.replays then faultStep { c with faulted := true } 21 255 s1
    else setCmd { c with faulted := true, cause := cause } s1

/-- The command's next unscheduled step number (R345). -/
def takeStep (s : State) : BitVec 64 × State :=
  let n := val64 s 0x110
  (BitVec.ofNat 64 (2 ^ 63 + n % 2 ^ 63), setVal64 0x110 ((n + 1) % 2 ^ 63) s)

/-- Admit a command: it takes a step number and its map stamp, and is running (R320, R345, R303). -/
def admitCmd (c : Cmd) (w : Work) (s : State) : State :=
  let (n, s1) := if c.ring = deckRing then (c.step, s) else takeStep s
  setCmd { c with phase := .running, step := n, admT := now s, work := w,
                  stamp := s.rmx.epoch } s1

/-- What a command has at admission: its step number. A deck step has the deck's already (R320, R345). -/
def numbered (c : Cmd) (s : State) : Cmd × State :=
  if c.ring = deckRing then (c, s) else ({ c with step := (takeStep s).1 }, (takeStep s).2)

/-- A command ends at admission, turned away by its own chapter's checks or with nothing to do. Admission is the start of the command
under those checks and gives it its step number, so it ends with one. DEDUCED (R320, R345), log entry 39. -/
def endAtAdmission (c : Cmd) (st : Status) (result : Nat) (s : State) : State :=
  finish (numbered c s).1 st result (numbered c s).2

/-- A step faults at admission: the unit it needs is offline (R153, R320). -/
def faultAtAdmission (c : Cmd) (cause kind : Nat) (s : State) : State :=
  faultStep (numbered c s).1 cause kind (numbered c s).2

/-- The command is accepted and may be admitted: not yet admitted, not finished. -/
def admissible (c : Cmd) : Bool := match c.phase with
  | .accepted => true
  | .deferred _ => true
  | _ => false

/-- Put a cause of DEGRADED on record (R421). The state changes in `degrade`. -/
def addCause (what : String) (s : State) : State :=
  if s.parts.degraded.contains what then s
  else { s with parts := { s.parts with degraded := s.parts.degraded ++ [what] } }

/-- MGMT_STATE shows the state, the previous state, the bring-up step and HELD (R444). -/
def showState (s : State) : State :=
  setVal 0xB00000 (BitVec.ofNat 32 (s.mgmt.st.code + 16 * s.mgmt.prev.code
    + 256 * (if s.mgmt.st = .bringup then s.mgmt.stepNo else 0) + 2048 * b2n s.mgmt.held)) s

/-- Enter a node state, log the change with its cause, and drive NODE_READY (R422, R433, R461). -/
def enterState (st : NodeState) (cause w0 : Nat) (s : State) : State :=
  let s1 := logMgmt 0x80 1 .ok { b0 := s.mgmt.st.code, b1 := st.code, h0 := cause, w0 := w0 } s
  let rdy := st = .ready ∨ st = .degraded ∨ st = .test
  showState { s1 with mgmt := { s1.mgmt with prev := s.mgmt.st, st := st }, pins := { s1.pins with nodeReady := rdy } }

/-- A cause of DEGRADED arises: READY becomes DEGRADED (R421, R422). -/
def degrade (what : String) (s : State) : State :=
  let s1 := addCause what s
  if s1.mgmt.st = .ready then enterState .degraded 6 0 s1 else s1

/-- A cause of DEGRADED is removed; with the last one the node is READY again (R421, R422). -/
def repair (what : String) (s : State) : State :=
  let s1 : State := { s with parts := { s.parts with degraded := s.parts.degraded.filter fun x => x != what } }
  if s.parts.degraded.contains what ∧ s1.parts.degraded.isEmpty ∧ s1.mgmt.st = .degraded then enterState .ready 7 0 s1 else s1

end Sys2Proof.Machine
end

