-- ==== Sys2Proof/Machine/Ecc.lean ====
section
/-! DEFINITION. The system code RS(36,32) of R145 as decoding sees an error pattern, and reads of local memory through it. -/

namespace Sys2Proof.Machine

open Sys2Proof

/-- Multiply by alpha in GF(2^8), field polynomial x^8 + x^4 + x^3 + x^2 + 1 (R145). -/
def gfX (a : Nat) : Nat := if a < 128 then 2 * a else (2 * a) ^^^ 0x11D

/-- a times alpha^k. -/
def gfPow (a : Nat) : Nat → Nat
  | 0 => a
  | k + 1 => gfX (gfPow a k)

/-- Syndrome j of a pattern of 36 symbols, symbol i standing at x^(35 - i): Horner's rule. -/
def syndrome (e : List Byte) (j : Nat) : Nat := e.foldl (fun a b => gfPow a j ^^^ b.toNat) 0

/-- How a burst with an error pattern decodes (R145). -/
inductive Decoded where
  /-- Corrected, or no syndrome: what stays wrong in the 36 bytes, and the symbol corrected. -/
  | fine (rest : List Byte) (fixed : Option Nat)
  /-- Uncorrectable. -/
  | bad
  deriving DecidableEq, Repr

/-- Decode an error pattern: one symbol is corrected, every other nonzero syndrome is uncorrectable. -/
def decodeErr (e : List Byte) : Decoded :=
  let s0 := syndrome e 0
  let s1 := syndrome e 1
  let s2 := syndrome e 2
  let s3 := syndrome e 3
  if s0 = 0 ∧ s1 = 0 ∧ s2 = 0 ∧ s3 = 0 then .fine e none
  else match (List.range 36).find? fun p => s0 ≠ 0 ∧ gfPow s0 p = s1 ∧ gfPow s1 p = s2 ∧ gfPow s2 p = s3 with
    | some p => .fine (e.set (35 - p) ((e.getD (35 - p) 0) ^^^ BitVec.ofNat 8 s0)) (some (35 - p))
    | none => .bad

/-- A pattern that no decoding corrects: two wrong symbols (R145). -/
def twoErrors : List Byte := [1, 1] ++ zeros 34

/-- The pattern of a burst. -/
def burstErr (s : State) (b : Nat) : Option (List Byte) := tget s.mem.err b

/-- The first uncorrectable burst that a range touches. -/
def firstBadBurst (s : State) (a n : Nat) : Option Nat :=
  (s.mem.err.find? fun (b, e) => n ≠ 0 ∧ a < 32 * b + 32 ∧ 32 * b < a + n ∧ decodeErr e = .bad).map (·.1)

/-- One byte as a read delivers it. -/
def eccByte (s : State) (a : Nat) : Byte :=
  match burstErr s (a / 32) with
  | none => readByte s a
  | some e => match decodeErr e with
    | .fine rest _ => readByte s a ^^^ rest.getD (a % 32) 0
    | .bad => readByte s a

/-- Package of a local address (R130, R369). -/
def pkgOfAddr (a : Nat) : Nat := a / 2 ^ 18 % 16

/-- PSTATE of MGMT_PKG[p] (R444): 0 ONLINE, 1 OFFLINE, 2 RECAL, 3 FAILED. -/
def pkgState (s : State) (p : Nat) : Nat := valBits s (0xB00200 + 4 * p) 2 2

/-- A range touches a granule on a package that is not online. -/
def rangeLost (s : State) (a n : Nat) : Bool :=
  n != 0 && (List.range (min 16 ((a + n - 1) / 2 ^ 18 - a / 2 ^ 18 + 1))).any fun i =>
    pkgState s ((a / 2 ^ 18 + i) % 16) != 0

/-- What a read of local memory gives. -/
inductive MemRead where
  | data (bytes : List Byte)
  | damaged (burst : Nat)
  | lost
  deriving DecidableEq, Repr

/-- Read `n` bytes through the system code (R145, R147, R363). -/
def readLocal (s : State) (a n : Nat) : MemRead :=
  if rangeLost s a n then .lost
  else match firstBadBurst s a n with
    | some b => .damaged b
    | none => .data ((List.range n).map fun i => eccByte s (a + i))

end Sys2Proof.Machine
end

