-- ==== Sys2Proof/Machine/RegAccess.lean ====
section
/-! DEFINITION. Register writes and the staged banks: who may write what, what a write changes, how a rejected write is
recorded (R12, R14, R312, R315, R331, R332, R339, R423), and the generic part of a commit (R329, R330). -/

namespace Sys2Proof.Machine

open Sys2Proof

/-! ## Recording a rejected write (R331) -/

/-- FUNCTION field of a writer (R331). -/
def fnField : Writer → Nat
  | .pf => 0
  | .vf n => n
  | .mgmt m => 64 + m

/-- The 64-bit error record. -/
def errRecord (w : Writer) (off : Nat) (st : Status) : Nat :=
  off % 2 ^ 26 + st.code * 2 ^ 26 + fnField w * 2 ^ 42 + 2 ^ 63

/-- VF_REG_ERR of VF n: low word at 2n, high word at 2n + 1. -/
def vfErr (s : State) (n : Nat) : Nat :=
  ((tget s.regs.vfVal (2 * n)).getD 0).toNat + 2 ^ 32 * ((tget s.regs.vfVal (2 * n + 1)).getD 0).toNat

/-- Set VF_REG_ERR of VF n. -/
def setVfErr (n v : Nat) (s : State) : State :=
  { s with regs := { s.regs with vfVal := tset (tset s.regs.vfVal (2 * n) (BitVec.ofNat 32 v)) (2 * n + 1) (BitVec.ofNat 32 (v / 2 ^ 32)) } }

/-- Record a rejected write: the first since VALID was cleared, and the count (R331). Without main power nothing records it (R423). -/
def rejectWrite (w : Writer) (off : Nat) (st : Status) (s : State) : State :=
  let s1 := cntAdd 0x88 1 s
  if !mainOn s then s
  else match w with
  | .vf n => if bit (vfErr s1 n) 63 then s1 else setVfErr n (errRecord w off st) s1
  | _ => if bit (val64 s1 0x80) 63 then s1 else setVal64 0x80 (errRecord w off st) s1

/-! ## Which write a register takes -/

/-- The offset, with the bits written, belongs to a command with a row of its own. -/
def hasRow (off v : Nat) : Bool :=
  off % 0x100000 == 0xF0 || [0x44, 0x48, 0x50, 0x54, 0xA00210].contains off || (off == 0xB00004 && decide (1 ≤ v) && decide (v ≤ 8))
    || (off == 0xA00208 && bit v 0) || (off == 0x500028 && v % 4 != 0) || (off == 0xB0001C && bit v 0)
    || (decide (0xD00000 ≤ off) && decide (off < 0xE00000))

/-- The claim and ownership registers (R332, R423). -/
def ownReg (off : Nat) : Bool := decide (0x40 ≤ off) && decide (off < 0x5C)

/-- The registers of the debug path, which is served in any node state (R384). -/
def dbgReg (off : Nat) : Bool := decide (0xA00200 ≤ off) && decide (off < 0xA00280)

/-- The registers served for writes in BRINGUP, and in STANDBY or RECOVERY by message (R423). -/
def servedWrite (s : State) (off : Nat) : Bool :=
  match s.mgmt.st with
  | .ready => true
  | .degraded => true
  | .test => true
  | .bringup => ownReg off || dbgReg off || off == 0xB00004 || (decide (0xD00000 ≤ off) && decide (off < 0xE00000))
  | .standby => ownReg off || dbgReg off || off == 0xB00004
  | .recovery => ownReg off || dbgReg off || off == 0xB00004 || (decide (0xD00000 ≤ off) && decide (off < 0xE00000))
      || [0xB00010, 0xB00014, 0xB00018, 0xB0001C].contains off
  | .off => false

/-- The ring of a ring-record offset, with the offset of the word in the record. -/
def ringOff (off : Nat) : Option (Nat × Nat) :=
  if 0x110000 ≤ off ∧ off < 0x150000 then some ((off - 0x110000) / 0x40, (off - 0x110000) % 0x40) else none

/-- The function of an event-ring record offset. -/
def evOff (off : Nat) : Option Nat :=
  if 0x100200 ≤ off ∧ off < 0x100200 + 65 * 0x20 then some ((off - 0x100200) / 0x20) else none

/-- Staged bits of a ring record's word that the writer may change (R315); none where it may write no field of it. -/
def ringMask (s : State) (w : Writer) (ring k : Nat) : Option Nat :=
  let a := ringAssign s ring
  let assignMask := if k = 24 then 0xFF00 else 0
  match w with
  | .mgmt _ => none
  | .vf n => if bit a 7 ∧ ¬ bit a 6 ∧ a % 64 + 1 = n then some (if k = 24 then 0xFFFF00FF else allBits) else none
  | .pf =>
    if ¬ bit a 7 then some allBits
    else if bit a 6 then some (if isOwner s .pf then allBits else if k = 24 then 0xFFFF00FF else allBits)
    else some assignMask

/-- Rings of partition p in ascending order (R312). -/
def partRings (s : State) (p : Nat) : List Nat := (List.range 4096).filter fun r => ringAssign s r == 128 + p

/-- The PF offset that a VF page offset stands for, where it is one of the VF's staged records (R312). -/
def vfOffset (s : State) (n off : Nat) : Option Nat :=
  if 0x200 ≤ off ∧ off < 0x220 then some (0x100200 + 0x20 * n + (off - 0x200))
  else if 0x1000 ≤ off ∧ off < 0x2000 then
    ((partRings s (n - 1))[(off - 0x1000) / 0x40]?).map fun r => 0x110000 + 0x40 * r + off % 0x40
  else none

/-- A VF's pending value at a PF offset. -/
def vfPendW (s : State) (n off : Nat) : Word := (tget (tgetD s.regs.vfPend n []) off).getD (actW s off)

/-- The writer's pending value at a PF offset. -/
def pendOf (s : State) (w : Writer) (off : Nat) : Word := match w with
  | .vf n => vfPendW s n off
  | _ => pendW s off

/-- Stage a word in the writer's pending bank. -/
def setPend (w : Writer) (off : Nat) (v : Word) (s : State) : State := match w with
  | .vf n => { s with regs := { s.regs with vfPend := tset s.regs.vfPend n (tset (tgetD s.regs.vfPend n []) off v) } }
  | _ => { s with regs := { s.regs with pend := tset s.regs.pend off v } }

/-- A value that a field does not take (R14, R330, R424, R444). The requests of MGMT_REQ have rows of their own. -/
def illegalRw (off v : Nat) : Bool :=
  (off % 0x100000 == 0xF8 && v % 4 != 0)
    || (off == 0xB0001C && (bits v 1 4 == 0 || decide (7 < bits v 1 4))) || off == 0xB00004

/-- The bits of a register that no write may set: the reserved ones, staged registers' among them, since a reserved bit reads as zero (R14;
DEDUCED, log entry 41). -/
def reservedBits (off : Nat) : Nat := (regSpec off).res ||| (regSpec off).stRes

/-- Why a write of `v` is rejected, if it is. `off` is a PF offset. -/
def writeError (s : State) (w : Writer) (off v : Nat) : Option Status :=
  let r := regSpec off
  let denied : Option Status :=
    match ringOff off, evOff off with
    | some (ring, k), _ =>
      if w = .pf ∧ ¬ bit (ringAssign s ring) 7 ∧ ¬ isOwner s .pf then some .notOwner
      else match ringMask s w ring k with
        | none => some .accessViolation
        | some m => if (v ^^^ (pendOf s w off).toNat) &&& r.st &&& (allBits - m) ≠ 0 ∧ k ≠ 56 then some .accessViolation else none
    | none, some f => if (w = .pf ∧ f = 0) ∨ w = .vf f then none else some .accessViolation
    | none, none => if isOwner s w ∨ ownReg off then none else some .notOwner
  match denied with
  | some st => some st
  | none => if v &&& reservedBits off ≠ 0 ∨ illegalRw off v then some .illegalValue else none

/-- The change a write makes (R12): staged bits to the writer's pending bank, the others at once. STS.FAULT of a ring
stages only a 1 (R315). -/
def applyWrite (w : Writer) (off v : Nat) (s : State) : State :=
  let r := regSpec off
  let isSts := match ringOff off with
    | some (_, k) => k == 56
    | none => false
  let old := (pendOf s w off).toNat
  let stV := if isSts then (old ||| v) &&& r.st else v &&& r.st
  let s1 := if r.st = 0 then s else setPend w off (BitVec.ofNat 32 stV) s
  let cur := (valW s1 off).toNat
  let cleared := cur &&& (allBits - (v &&& r.w1c))
  let nv := ((cleared ||| (v &&& r.w1s)) &&& (allBits - r.rw)) ||| (v &&& r.rw)
  if r.rw = 0 ∧ r.w1c = 0 ∧ r.w1s = 0 then s1 else setVal off (BitVec.ofNat 32 nv) s1

/-- A write in a VF's page (R312). -/
def vfWrite (n off : Nat) (words : List Nat) (s : State) : State :=
  let w : Writer := .vf n
  let one (k v : Nat) : Option Status × (State → State) :=
    let o := off + 4 * k
    if o = 0x80 then (none, id)
    else if o = 0x84 then
      (if v &&& 0x7FFE0000 ≠ 0 then some .illegalValue else none,
        fun s => if bit v 31 then setVfErr n (vfErr s n % 2 ^ 63) s else s)
    else if o = 0xF8 then
      (if v % 4 ≠ 0 ∨ 2 ^ 20 ≤ v then some .illegalValue else none,
        fun s => { s with regs := { s.regs with vfVal := tset s.regs.vfVal (1000 + n) (BitVec.ofNat 32 v) } })
    else match vfOffset s n o with
      | some po => (writeError s w po v, applyWrite w po v)
      | none => (some .accessViolation, id)
  let rs := words.zipIdx.map fun (v, k) => one k v
  match rs.findSome? (·.1) with
  | some st => rejectWrite w off st s
  | none => forEach rs (fun r s => r.2 s) s

/-- MGMT_REQ_STS holds the status of the last request (R424). -/
def setReq (st : Status) (s : State) : State := setVal 0xB00008 (BitVec.ofNat 32 (st.code + 2 ^ 16)) s

/-- A write in the PF's BAR0 by the PF or by a management master. A 64-bit write is checked as a whole. -/
def pfWrite (w : Writer) (off : Nat) (words : List Nat) (s : State) : State :=
  if 0xC00000 ≤ off ∧ off < 0xD00000 then s
  else
    let ws := words.zipIdx.map fun (v, k) => (off + 4 * k, v)
    match ws.findSome? fun (o, v) => writeError s w o v with
    | some st =>
      let s1 := rejectWrite w off st s
      if (ws.map (·.1)).contains 0xB00004 then setReq st s1 else s1
    | none => forEach ws (fun (o, v) s => applyWrite w o v s) s

/-- A register write that has no row of its own (R12). `wide` is a 64-bit access. -/
def busWrite (w : Writer) (off : Nat) (wide : Bool) (v : Nat) (s : State) : State :=
  let words := if wide then [v % 2 ^ 32, v / 2 ^ 32] else [v % 2 ^ 32]
  if off % (if wide then 8 else 4) ≠ 0 then s
  else match w with
    | .vf n => if serving s then vfWrite n off words s else if s.mgmt.st = .bringup then rejectWrite w off .wrongState s else s
    | _ =>
      if hasRow off v then s
      else if servedWrite s off then
        (if mainOn s ∨ w ≠ .pf then pfWrite w off words s else s)
      else if s.mgmt.st = .bringup then rejectWrite w off .wrongState s
      else s

/-! ## Commits (R329, R330) -/

/-- Entries of a bank that lie in a block. -/
def inBlock (b : Block) (t : Table Word) : Table Word :=
  tfilter t fun o _ => decide (blockBase b ≤ o) && decide (o < blockBase b + 0x100000)

/-- Some staged reserved bit is set in a set of pending words (R14). -/
def stagesReserved (t : Table Word) : Bool := tany t fun o v => (v.toNat &&& (regSpec o).stRes) != 0

/-- Record the outcome of a commit in COMMIT_STS. -/
def setSts (k : Nat) (st : Status) (gen : BitVec 16) (s : State) : State :=
  setCtl k { ctlOf s k with stsStatus := st, stsGen := gen } s

/-- A commit that the writer may make: generation, PENDING, then the block's own check of the pending words `t`. -/
def commitSet (k : Nat) (gen : BitVec 16) (t : Table Word) (imgs : List RingImage) (check : Status) (s : State) : State :=
  let c := ctlOf s k
  if gen ≠ c.gen + 1 then setSts k .wrongState gen s
  else if c.checked.isSome then setSts k .busy gen s
  else if check ≠ .ok then setSts k check gen s
  else setCtl k { c with checked := some (t, imgs), stsStatus := .ok, stsGen := gen } s

/-- A PF block's commit by a master (R330): the owner only; the block's check sees the pending words. -/
def commitBlockBy (b : Block) (w : Writer) (gen : BitVec 16) (imgs : List RingImage) (check : Table Word → State → Status) (s : State) : State :=
  let off := blockBase b + 0xF0
  if !servedWrite s off then (if s.mgmt.st = .bringup then rejectWrite w off .wrongState s else s)
  else if !isOwner s w then rejectWrite w off .notOwner s
  else
    let t := inBlock b s.regs.pend
    commitSet (blockNo b) gen t imgs (check t s) s

/-- A commit of a block in which any staged reserved bit is an illegal value (R14, R370); no write stages one. -/
def commitBlock (b : Block) (w : Writer) (gen : BitVec 16) (imgs : List RingImage) (check : State → Status) (s : State) : State :=
  commitBlockBy b w gen imgs (fun t s => if stagesReserved t then .illegalValue else check s) s

/-- Copy the active bank into the pending bank of a block (R330). -/
def discardBlock (b : Block) (s : State) : State :=
  { s with regs := { s.regs with pend := tfilter s.regs.pend fun o _ =>
      !(decide (blockBase b ≤ o) && decide (o < blockBase b + 0x100000)) } }

/-- Copy the active bank into VF n's pending set. -/
def discardVf (n : Nat) (s : State) : State := { s with regs := { s.regs with vfPend := tdel s.regs.vfPend n } }

/-- The first status of a list that is not ST_OK. -/
def firstBad (l : List Status) : Status := (l.find? (· != .ok)).getD .ok

/-- `st` when the condition holds, else ST_OK. -/
def failIf (c : Bool) (st : Status) : Status := if c then st else .ok

/-- COMMIT_DISCARD (R330): a write of COMMIT with DISCARD set; its GEN is ignored. -/
def execCommitDiscard (w : Writer) (b : Block) (s : State) : Res :=
  .next (match w with
    | .vf n => if serving s then discardVf n s else s
    | _ =>
      let off := blockBase b + 0xF0
      if !servedWrite s off then (if s.mgmt.st = .bringup then rejectWrite w off .wrongState s else s)
      else if !isOwner s w then rejectWrite w off .notOwner s
      else discardBlock b s)

/-- A write that has no row of its own: the RMX block has no staged field, and its COMMIT no row. -/
def plainWrite (w : Writer) (off : Nat) (wide : Bool) (v : Nat) (s : State) : State :=
  if off = 0x5000F0 ∧ masterOf w ≠ none ∧ !bit v 17 then commitBlockBy .rmx w (BitVec.ofNat 16 v) [] (fun _ _ => .ok) s
  else busWrite w off wide v s

/-- REGISTER_WRITE (R12): a driver or master writes a register that has no row of its own. -/
def execRegisterWrite (w : Writer) (off : BitVec 26) (wide : Bool) (v : BitVec 64) (s : State) : Res :=
  .next (plainWrite w off.toNat wide v.toNat s)

end Sys2Proof.Machine
end

