-- ==== Sys2Proof/Machine/Rmx.lean ====
section
/-! DEFINITION. The range matcher: lookups under an epoch (R294, R302, R305), resolving a GFA access (R295, R296), the
prefix cover of a range (R300), and the lookup registers (R308). -/

namespace Sys2Proof.Machine

open Sys2Proof

/-! ## Counters of R308 -/

def rmxLookups : Nat := 0x500100
def rmxMisses : Nat := 0x500108
def rmxMulti : Nat := 0x500110
def rmxStale : Nat := 0x500118
def rmxRetires : Nat := 0x500120
def rmxForced : Nat := 0x500128
def rmxBorrowed : Nat := 0x500130

/-! ## Lookup -/

/-- An entry that is listed takes part in a lookup under `stamp` (R302). -/
def entVisible (x : Rmx) (stamp : BitVec 16) (e : RmxEnt) : Bool :=
  if stamp = x.epoch then (if x.writing.isSome then !e.born else !e.dying) else !e.born

/-- The GFA matches the entry's key under its mask. -/
def entMatches (g : Nat) (e : RmxEnt) : Bool := (g ^^^ e.key) &&& e.mask == 0

/-- Ones among the low `n` bits. -/
def popcount : Nat → Nat → Nat
  | 0, _ => 0
  | n + 1, v => v % 2 + popcount n (v / 2)

/-- Entry (i, a) ranks before (j, b): longer mask, then higher PRIO, then lower index (R294). -/
def ranksBefore (i : Nat) (a : RmxEnt) (j : Nat) (b : RmxEnt) : Bool :=
  let la := popcount 64 a.mask
  let lb := popcount 64 b.mask
  decide (lb < la) || (la == lb && (decide (b.prio < a.prio) || (a.prio == b.prio && decide (i < j))))

/-- Insert a match in rank order. -/
def rankInsert (x : Nat × RmxEnt) : List (Nat × RmxEnt) → List (Nat × RmxEnt)
  | [] => [x]
  | y :: t => if ranksBefore x.1 x.2 y.1 y.2 then x :: y :: t else y :: rankInsert x t

/-- The matches of a GFA under an epoch that the map holds, best first. -/
def rmxMatches (x : Rmx) (stamp : BitVec 16) (g : Nat) : List (Nat × RmxEnt) :=
  (x.ents.filter fun (_, e) => entVisible x stamp e && entMatches g e).foldl (fun l m => rankInsert m l) []

/-- How a stamp stands to the map (R305). -/
inductive StampAge where
  | now | old | stale | newer
  deriving DecidableEq, Repr

/-- The age of a stamp: N, N - 1 while it retires, gone, or newer than N. -/
def stampAge (x : Rmx) (stamp : BitVec 16) : StampAge :=
  if stamp = x.epoch then .now
  else if (stamp - x.epoch).toNat < 32768 then .newer
  else if stamp + 1 = x.epoch ∧ x.retiring.isSome then .old
  else .stale

/-! ## Resolving an access (R296) -/

/-- Zeros below the lowest one of a 64-bit mask; 64 of zero. -/
def trailingZeros (m : Nat) : Nat := ((List.range 64).find? fun i => bit m i).getD 64

/-- The next multiple of 2^k past g. -/
def nextMultiple (g k : Nat) : Nat := (g / 2 ^ k + 1) * 2 ^ k

/-- The mask is a prefix: ones, then zeros. -/
def isPrefix (m : Nat) : Bool := m == 2 ^ 64 - 2 ^ trailingZeros m

/-- Where past g a better-ranked entry may begin to match. -/
def breakOf (g : Nat) (e : RmxEnt) : Option Nat :=
  if isPrefix e.mask then (if g < e.key then some e.key else none) else some (nextMultiple g (trailingZeros e.mask))

/-- The end of the run of addresses from g on that the best match decides alike. -/
def runEnd (x : Rmx) (stamp : BitVec 16) (g i : Nat) (best : RmxEnt) : Nat :=
  (x.ents.filterMap fun (j, e) =>
    if entVisible x stamp e && ranksBefore j e i best then breakOf g e else none).foldl min
    (nextMultiple g (trailingZeros best.mask))

/-- One part of an access: its place in the access, the node and local address, and the entry. -/
structure Piece where
  off : Nat
  len : Nat
  node : BitVec 16
  addr : Nat
  idx : Nat
  deriving DecidableEq, Repr

/-- An access as resolved: its parts or its failure, and the searches, misses and multiple matches on the way. -/
structure Resolved where
  res : Except Status (List Piece)
  lookups : Nat := 0
  misses : Nat := 0
  multis : Nat := 0

/-- The local address of g through a MEMORY entry (R295). -/
def entAddr (e : RmxEnt) (g : Nat) : Nat := e.lbase + (g &&& (2 ^ 64 - 1 - e.mask))

/-- Resolve the bytes g to g + len - 1 part by part; `off` is the place reached. `fuel` bounds the parts. -/
def resolveRun (s : State) (stamp : BitVec 16) (part : Nat) (write : Bool) :
    Nat → Nat → Nat → Nat → Resolved → Resolved
  | 0, _, _, _, r => r
  | fuel + 1, g, len, off, r =>
    if len = 0 then r
    else match rmxMatches s.rmx stamp g with
      | [] => { r with res := .error .accessViolation, lookups := r.lookups + 1, misses := r.misses + 1 }
      | (i, e) :: rest =>
        let r1 := { r with lookups := r.lookups + 1, multis := r.multis + b2n (!rest.isEmpty) }
        let need := if write then 1 else 0
        let local_ := e.node = BitVec.ofNat 16 (actBits s 0x300000 0 16)
        let n := min len (runEnd s.rmx stamp g i e - g)
        let a := entAddr e g
        if e.part ≠ part ∨ !bit e.attr need ∨ bits e.attr 2 2 ≠ 0 then { r1 with res := .error .accessViolation }
        else if local_ ∧ !inPartMem s part a n then { r1 with res := .error .accessViolation }
        else
          let p : Piece := { off := off, len := n, node := e.node, addr := a, idx := i }
          resolveRun s stamp part write fuel (g + n) (len - n) (off + n)
            { r1 with res := match r1.res with
                | .ok l => .ok (l ++ [p])
                | .error st => .error st }

/-- Resolve a GFA access under a stamp that the map holds (R296). -/
def resolveGfa (s : State) (stamp : BitVec 16) (part : Nat) (g len : Nat) (write : Bool) : Resolved :=
  match stampAge s.rmx stamp with
  | .stale => { res := .error .epochStale }
  | .newer => { res := .error .epochStale }
  | _ => resolveRun s stamp part write len g len 0 { res := .ok [] }

/-- Count the searches of a resolved access (R308). -/
def countResolved (r : Resolved) (s : State) : State :=
  let s1 := cntAdd rmxMulti r.multis (cntAdd rmxMisses r.misses (cntAdd rmxLookups r.lookups s))
  match r.res with
  | .error .epochStale => cntAdd rmxStale 1 s1
  | _ => s1

/-! ## The range expander (R300) -/

/-- The greatest k, from 64 down, with a multiple of 2^k and a + 2^k - 1 at most hi. -/
def prefixBits (a hi : Nat) : Nat → Nat
  | 0 => 0
  | k + 1 => if a % 2 ^ (k + 1) = 0 ∧ a + 2 ^ (k + 1) - 1 ≤ hi then k + 1 else prefixBits a hi k

/-- The prefix cover of lo to hi: (start, size). `fuel` bounds the prefixes. -/
def coverRange (hi : Nat) : Nat → Nat → List (Nat × Nat)
  | 0, _ => []
  | fuel + 1, a =>
    if hi < a then []
    else
      let k := prefixBits a hi 64
      (a, 2 ^ k) :: coverRange hi fuel (a + 2 ^ k)

/-! ## Registers (R308) -/

/-- The 32 bytes of an entry (R293). -/
def entBytes (e : Option RmxEnt) : List Byte :=
  match e with
  | none => zeros 32
  | some e => leBytes 8 e.key ++ leBytes 8 e.mask ++ leBytes 8 e.lbase ++ leBytes 2 e.node.toNat ++ leBytes 1 e.part
      ++ leBytes 1 e.attr ++ leBytes 1 e.prio ++ leBytes 1 (1 + 2 * b2n e.born + 4 * b2n e.dying) ++ leBytes 2 e.tag.toNat

/-- References to the retiring epoch (R303): unfinished commands stamped with it, and its CALLs that await an answer. -/
def oldRefs (s : State) : Nat :=
  if s.rmx.retiring.isNone then 0
  else sumN (s.cmds.map fun (_, c) =>
    if c.stamp + 1 = s.rmx.epoch ∧ c.phase = .running then 1 + (c.subs.filter fun x => x.answer.isNone && !x.lost).length else 0)

/-- The RMX registers show the map (R308). -/
def showRmx (s : State) : State :=
  let x := s.rmx
  let ret := x.retiring.isSome
  let s1 := setVal 0x500000 (BitVec.ofNat 32 (x.epoch.toNat + 65536 * (x.epoch - 1).toNat * b2n ret)) s
  let s2 := setValBits 0x500004 0 2 (b2n ret + 2 * b2n x.writing.isSome) s1
  let s3 := setVal 0x500008 (BitVec.ofNat 32 (oldRefs s)) s2
  setVal 0x500010 (BitVec.ofNat 32 x.ents.length) s3

/-- RMX_LK_RES after a lookup or a step; RMX_ENT_SEL follows the entry returned. -/
def showLk (hit : Option Nat) (multi done stale : Bool) (n : Nat) (s : State) : State :=
  let s1 := setVal64 0x500030 (hit.getD 0 + 2 ^ 16 * b2n hit.isSome + 2 ^ 17 * b2n multi + 2 ^ 18 * b2n done
    + 2 ^ 19 * b2n stale + 2 ^ 32 * n) s
  match hit with
  | some i => setVal 0x500040 (BitVec.ofNat 32 i) s1
  | none => s1

/-- A register write that has a row of its own, by a master: not served, not the owner's, or its effect. -/
def ownerWrite (w : Writer) (off : Nat) (f : State → State) (s : State) : State :=
  if !servedWrite s off then (if s.mgmt.st = .bringup then rejectWrite w off .wrongState s else s)
  else if !isOwner s w then rejectWrite w off .notOwner s
  else f s

/-- RMX_LOOKUP_GO (R308): look RMX_LK_KEY up under N, or under the retiring epoch. A retiring epoch that is not there is
STALE. -/
def execRmxLookupGo (w : Writer) (useRetiring : Bool) (s : State) : Res :=
  .next (ownerWrite w 0x500028 (fun s =>
    let s := setValBits 0x500028 2 1 (b2n useRetiring) s
    let stamp := if useRetiring then s.rmx.epoch - 1 else s.rmx.epoch
    let key := val64 s 0x500020
    if useRetiring ∧ s.rmx.retiring.isNone then showLk none false true true 0 s
    else
      let ms := rmxMatches s.rmx stamp key
      let s1 := countResolved { res := .ok [], lookups := 1, misses := b2n ms.isEmpty, multis := b2n (decide (1 < ms.length)) } s
      let s2 := { s1 with rmx := { s1.rmx with lkEpoch := stamp, lkKey := key, lkLast := ms.head? } }
      showLk ((ms.head?).map (·.1)) (decide (1 < ms.length)) ms.isEmpty false ms.length s2) s)

/-- RMX_LOOKUP_STEP (R308): the match ranked after the last returned, under the epoch of the GO. -/
def execRmxLookupStep (w : Writer) (s : State) : Res :=
  .next (ownerWrite w 0x500028 (fun s =>
    match stampAge s.rmx s.rmx.lkEpoch with
    | .stale => showLk none (valBits s 0x500030 17 1 == 1) true true (valBits s 0x500034 0 17) s
    | .newer => showLk none (valBits s 0x500030 17 1 == 1) true true (valBits s 0x500034 0 17) s
    | _ =>
      let ms := rmxMatches s.rmx s.rmx.lkEpoch s.rmx.lkKey
      let multi := valBits s 0x500030 17 1 == 1
      let n := valBits s 0x500034 0 17
      let rest := match s.rmx.lkLast with
        | some (i, e) => ms.filter fun (j, d) => ranksBefore i e j d
        | none => []
      match rest with
      | [] => showLk none multi true false n s
      | (j, d) :: _ => showLk (some j) multi false false n { s with rmx := { s.rmx with lkLast := some (j, d) } }) s)

end Sys2Proof.Machine
end

