-- ==== Sys2Proof/Machine/Fabric.lean ====
section
/-! DEFINITION. Ports, links and routing (R196 to R231): sending a packet, the block transmitter and receiver, replay,
credits, training, the misdeal injector and the time flits. -/

namespace Sys2Proof.Machine

open Sys2Proof

/-! ## Ports -/

/-- A port. -/
def getPort (s : State) (p : Nat) : Port := tgetD s.fab.ports p {}

/-- Set a port. -/
def setPort (p : Nat) (x : Port) (s : State) : State := { s with fab := { s.fab with ports := tset s.fab.ports p x } }

/-- Change a port. -/
def modPort (p : Nat) (f : Port → Port) (s : State) : State := setPort p (f (getPort s p)) s

/-- Base of a port's registers (R230). -/
def portBase (p : Nat) : Nat := 0x301000 + 0x100 * p

/-- A bit of FAB_PORT_CFG[p]: 0 EN, 1 ALLOW_L1, 2 NARROW_OK, 3 GATEWAY. -/
def portCfg (s : State) (p i : Nat) : Bool := actBits s (portBase p) i 1 == 1

/-- Count in per-port counter `i` of R230. -/
def portCnt (p i n : Nat) (s : State) : State := cntAdd (portBase p + 0x80 + 8 * i) n s

def cTxFlits : Nat := 0
def cRxFlits : Nat := 1
def cFecCorr : Nat := 2
def cBadBlocks : Nat := 3
def cReplays : Nat := 4
def cRetrains : Nat := 5
def cCreditWait : Nat := 6
def cUnroutable : Nat := 7
def cSchedDiscard : Nat := 8
def cMisdeal : Nat := 9

/-- FAB_NODE_ID.NODE_ID in force. -/
def nodeId (s : State) : Nat := actBits s 0x300000 0 16

/-- FAB_PORT_STS[p] shows the port. -/
def showPort (p : Nat) (s : State) : State :=
  let x := getPort s p
  let lvl := if x.link = .up then x.level else 0
  setVal (portBase p + 8) (BitVec.ofNat 32 (if x.link = .down then 0xFFFF0000
    else x.link.code + 16 * lvl + 64 * b2n x.narrow + 128 * b2n x.highHalf + 256 * x.lanesOk.toNat + 65536 * x.partner.toNat)) s

/-- The LINK event of R212. No cause of R349 fits a lost link; the model gives training failure (log entry 22). -/
def linkEvent (p : Nat) (newPhys : Nat) (s : State) : State :=
  post { cls := 6, code := 1, kind := 6, logical := p, physical := p, detail := .p p newPhys 5 0 } s

/-- The port changes state; going DOWN or to NEG_FAIL posts an event (R212). -/
def setLink (p : Nat) (st : LinkState) (s : State) : State :=
  let old := (getPort s p).link
  let s1 := showPort p (emit (.link p st.code) (modPort p (fun x => { x with link := st }) s))
  if old ≠ st ∧ (st = .down ∨ st = .negFail) then linkEvent p 0xFF s1 else s1

/-- Blocks pass on the port (R209). -/
def carries (x : Port) : Bool := x.link == .negotiate || x.link == .credit || x.link == .up

/-! ## Packets -/

end Sys2Proof.Machine

namespace Sys2Proof

/-- The packet of a cargo. -/
def Cargo.packet : Cargo → Packet
  | .pkt p => p
  | .call p _ => p
  | .resp p _ => p
  | .notice p _ => p
  | .demote p _ _ _ => p

/-- A cargo with its packet changed. -/
def Cargo.withPacket (c : Cargo) (p : Packet) : Cargo :=
  match c with
  | .pkt _ => .pkt p
  | .call _ m => .call p m
  | .resp _ m => .resp p m
  | .notice _ n => .notice p n
  | .demote _ q h a => .demote p q h a

end Sys2Proof

namespace Sys2Proof.Machine

open Sys2Proof

/-- Buffer index of a class and virtual channel (R213). -/
def bufOf (cls : Nat) (vc : Bool) : Nat := if cls = 0 then 0 else 2 * cls - 1 + b2n vc

/-- Flits of a packet with `plen` bytes after the fabric header (R217). -/
def flitsOf (plen : Nat) : Nat := max 1 (cdiv (16 + plen) 64)

/-- A fabric header from this node (R217). -/
def mkFab (s : State) (cls dst plen : Nat) : FabHdr :=
  { cls := BitVec.ofNat 2 cls, vc := false, static := false, flits := flitsOf plen, dst := BitVec.ofNat 16 dst,
    src := BitVec.ofNat 16 (nodeId s), route := 0, hops := 0, plen := plen }

/-- A transport header with every field zero. -/
def noTr : TrHdr :=
  { top := 0, first := false, last := false, ackReq := false, enc := false, cl := false, try_ := 0, dconn := 0, psn := 0,
    cpsn := 0, raddr := 0, rkey := 0, total := 0 }

/-! ## Routing (R219 to R221) -/

/-- Where a packet goes next. -/
inductive Hop where
  | here
  | out (port : Nat) (vc : Bool)
  | drop (port : Nat)
  deriving DecidableEq, Repr

/-- The port carries torus traffic: UP, and no gateway (R230). -/
def torusUp (s : State) (p : Nat) : Bool := (getPort s p).link == .up && !portCfg s p 3

/-- Torus size of a dimension. -/
def dimSize (s : State) (d : Nat) : Nat := actBits s 0x300000 (16 + 3 * d) 3 + 1

/-- The hop of an unscheduled packet at this node (R219). `from_` is the dimension it came in on, if it did. -/
def chooseHop (s : State) (dst : Nat) (from_ : Option Nat) (vc : Bool) : Hop :=
  let own := nodeId s
  if dst % 512 = own % 512 then
    let sub := bits dst 9 3
    if sub = 0 then .here
    else if 6 < sub then .drop 5
    else if (getPort s (sub - 1)).link = .up then .out (sub - 1) vc else .drop (sub - 1)
  else
    match (List.range 3).find? fun d => bits dst (3 * d) 3 ≠ bits own (3 * d) 3 with
    | none => .here
    | some d =>
      let n := dimSize s d
      let o := bits own (3 * d) 3
      let delta := (bits dst (3 * d) 3 + n * 8 - o) % n
      let plus := decide (delta ≤ n - delta)
      let portOf (up : Bool) : Nat := 2 * d + b2n (!up)
      let dir := if torusUp s (portOf plus) then some plus else if torusUp s (portOf !plus) then some !plus else none
      match dir with
      | none => .drop (portOf plus)
      | some up =>
        let vc0 := if from_ = some d then vc else false
        let wrap := if up then o + 1 == n else o == 0
        .out (portOf up) (vc0 || wrap)

/-- No route to a node remains (R219, R361). -/
def noRoute (s : State) (dst : Nat) : Bool := match chooseHop s dst none false with
  | .drop _ => true
  | _ => false

/-! ## Credits on the receiving side (R214, R270) -/

/-- Flits leave input buffer `buf` of a port: the limit rises, or the credit is withheld while the port's miss queue is
full. -/
def returnCredit (p buf n : Nat) (s : State) : State :=
  if 6 ≤ p then s
  else modPort p (fun x =>
    let add (l : List Nat) : List Nat := l.set buf ((l.getD buf 0 + n) % 65536)
    if x.missFull ∧ buf ≠ 0 then { x with withheld := add x.withheld } else { x with granted := add x.granted }) s

/-- A packet leaves its input buffer. -/
def leaveBuffer (src : Nat) (inBuf : Option Nat) (c : Cargo) (s : State) : State :=
  match inBuf with
  | some b => returnCredit src b c.packet.fab.flits s
  | none => s

/-! ## The misdeal injector (R227 to R229) -/

/-- Fields of FAB_MISDEAL_CFG[p]. -/
def misdealBits (s : State) (p lo w : Nat) : Nat := actBits s (portBase p + 0x20) lo w

/-- Draw for one block or packet in mode `mode`: whether an event occurs, and the state after. One-shot mode makes one
event and goes OFF. Events outside TEST are kept in SEC_MISDEAL_EVENTS (R387). -/
def misdeal (p mode : Nat) (s : State) : Bool × State :=
  let x := getPort s p
  if misdealBits s p 0 3 ≠ mode then (false, s)
  else
    let oneShot := misdealBits s p 3 1 == 1
    let ev := oneShot || misdealBits s p 8 5 == 0 || Config.misdealDraw (actW s (portBase p + 0x24)) x.draws (misdealBits s p 8 5)
    let s1 := setPort p { x with draws := x.draws + 1 } s
    if !ev then (false, s1)
    else
      let s2 := portCnt p cMisdeal 1 s1
      let s3 := if s.mgmt.st = .test then s2 else setVal64 0xA00130 (val64 s2 0xA00130 + 1) s2
      (true, if oneShot then setAct (portBase p + 0x20) (BitVec.ofNat 32 (putBits (actW s3 (portBase p + 0x20)).toNat 0 3 0)) s3
             else s3)

/-- A packet's class is selected for the transport modes. -/
def misdealClass (s : State) (p : Nat) (c : Cargo) : Bool := bit (misdealBits s p 4 4) c.packet.fab.cls.toNat

/-! ## Local delivery and forwarding -/

/-- The transport opcodes of R263. -/
def knownTop (t : Nat) : Bool := [0x01, 0x02, 0x03, 0x04, 0x05, 0x06, 0x08, 0x09, 0x0A, 0x0B, 0x10, 0x11, 0x20, 0x21, 0x22].contains t

/-- A notice's TOP without CL: no connection packet has it, and a connectionless packet has CL set (R263, R264). -/
def strayNotice (h : TrHdr) : Bool := decide (0x20 ≤ h.top.toNat) && !h.cl

/-- A packet reaches the node's transport: it waits in the input buffer for its own step. One with a reserved TOP is
discarded and counted in STRAY (R263), and so is a notice without CL (R264, R277; DEDUCED, log entry 40). -/
def toInbox (src : Nat) (inBuf : Option Nat) (c : Cargo) (s : State) : State :=
  if !knownTop c.packet.tr.top.toNat ∨ strayNotice c.packet.tr then leaveBuffer src inBuf c (cntAdd 0x400138 1 s)
  else if 6 ≤ src then { s with fab := { s.fab with loop := s.fab.loop ++ [c] } }
  else modPort src (fun x => { x with inbox := x.inbox ++ [{ buf := inBuf.getD 0, cargo := c }] }) s

/-- Local delivery through the reorder mode of the misdeal injector (R227). -/
def deliverHere (src : Nat) (inBuf : Option Nat) (c : Cargo) (s : State) : State :=
  if src < 6 ∧ misdealBits s src 0 3 = 5 ∧ misdealClass s src c then
    let x := getPort s src
    let n := misdealBits s src 18 5 + 1
    if x.reorder.isEmpty then
      match misdeal src 5 s with
      | (true, s1) =>
        if n = 1 then toInbox src inBuf c s1 else modPort src (fun x => { x with reorder := [c] }) s1
      | (false, s1) => toInbox src inBuf c s1
    else if x.reorder.length + 1 < n then setPort src { x with reorder := x.reorder ++ [c] } s
    else
      forEach (c :: x.reorder.reverse)
        (fun c s => toInbox src (some (bufOf c.packet.fab.cls.toNat c.packet.fab.vc)) c s)
        (setPort src { x with reorder := [] } s)
  else toInbox src inBuf c s

/-- Route an unscheduled packet at this node; one that came in on a port is forwarded with HOPS one higher (R219,
R221). -/
def routePacket (src : Nat) (inBuf : Option Nat) (c : Cargo) (s : State) : State :=
  let h := c.packet.fab
  let from_ := if src < 6 ∧ !portCfg s src 3 then some (src / 2) else none
  let vcIn := if from_.isSome then h.vc else false
  match chooseHop s h.dst.toNat from_ vcIn with
  | .here => deliverHere src inBuf c s
  | .drop p => leaveBuffer src inBuf c (portCnt p cUnroutable 1 s)
  | .out p vc =>
    if src < 6 ∧ h.hops.toNat + 1 = 15 then leaveBuffer src inBuf c (portCnt p cUnroutable 1 s)
    else
      let h' := { h with vc := vc, hops := if src < 6 then h.hops + 1 else h.hops }
      let c' := c.withPacket { c.packet with fab := h' }
      let q : QPkt := { cls := h.cls.toNat, buf := bufOf h.cls.toNat vc, src := src, inBuf := inBuf, left := h.flits, cargo := c' }
      modPort p (fun x => { x with queue := x.queue ++ [q] }) s

/-- A scheduled packet that has no way on (R220): discarded, counted, and an event. The spec lists no event code for it;
the model posts FABRIC/LINK for the port (log entry 22). -/
def schedDiscard (src : Nat) (inBuf : Option Nat) (port : Nat) (c : Cargo) (s : State) : State :=
  linkEvent port port (leaveBuffer src inBuf c (portCnt port cSchedDiscard 1 s))

/-- Route a scheduled packet by FAB_SROUTE (R220). `src` is 6 for a card's own packet. -/
def routeSched (src : Nat) (inBuf : Option Nat) (c : Cargo) (s : State) : State :=
  let h := c.packet.fab
  let e := (actW s (0x308000 + 4 * h.route.toNat)).toNat
  let out := bits e 0 3
  let at_ := if out < 6 then out else if src < 6 then src else 0
  if !bit e 3 ∨ out = 7 then schedDiscard src inBuf at_ c s
  else if out = 6 then
    leaveBuffer src inBuf c { s with fab := { s.fab with sched := s.fab.sched ++ [(h.route.toNat, c.packet)] } }
  else if (getPort s out).link ≠ .up then schedDiscard src inBuf at_ c s
  else
    let h' := { h with route := BitVec.ofNat 12 (bits e 4 12), hops := if src < 6 then h.hops + 1 else h.hops }
    let q : QPkt :=
      { cls := 0, buf := 0, src := src, inBuf := inBuf, left := h.flits, cargo := c.withPacket { c.packet with fab := h' } }
    modPort out (fun x => { x with queue := x.queue ++ [q] }) s

/-- Send a packet from this node; its bytes are metered to the partition that owns the connection or card (R222). -/
def sendCargo (part : Option Nat) (c : Cargo) (s : State) : State :=
  let h := c.packet.fab
  let s1 := match part with
    | some p => tapAdd p (resFab + h.cls.toNat) (64 * h.flits) s
    | none => s
  if h.static then routeSched 6 none c s1 else routePacket 6 none c s1

/-- The bytes of a packet received as an endpoint (R222). -/
def meterRx (part : Option Nat) (pkt : Packet) (s : State) : State :=
  match part with
  | some p => tapAdd p (resFab + pkt.fab.cls.toNat) (64 * pkt.fab.flits) s
  | none => s

/-- A packet's own step takes it from the input buffer, where it waits there; its credit returns (R214). -/
def takeInbox (port : Nat) (c : Cargo) (s : State) : State :=
  if 6 ≤ port then { s with fab := { s.fab with loop := s.fab.loop.erase c } }
  else
    let x := getPort s port
    match x.inbox.find? fun e => e.cargo = c with
    | none => { s with fab := { s.fab with loop := s.fab.loop.erase c } }
    | some e => leaveBuffer port (some e.buf) c (setPort port { x with inbox := x.inbox.erase e } s)

/-! ## The block transmitter (R205, R206, R214 to R216) -/

/-- a is at or past b in 16-bit serial order. -/
def serial16Le (a b : Nat) : Bool := decide ((b + 65536 - a % 65536) % 65536 < 32768)

/-- The packet has credit at the next node (R214). -/
def hasCredit (x : Port) (q : QPkt) : Bool :=
  serial16Le ((x.sent.getD q.buf 0 + q.cargo.packet.fab.flits) % 65536) (x.climit.getD q.buf 0)

/-- The first packet of a source and class in each buffer that has credit; earlier packets of its buffer go first. -/
def headOf (x : Port) (cls src : Nat) : Option QPkt :=
  (x.queue.filter fun q => q.cls == cls && q.src == src).find? fun q =>
    hasCredit x q && ((x.queue.find? fun r => r.cls == cls && r.src == src && r.buf == q.buf) == some q)

/-- The next packet of a class: its sources in round-robin (R215). -/
def classPick (x : Port) (cls : Nat) : Option QPkt :=
  let last := x.lastSrc.getD cls 6
  ((List.range 7).map fun i => (last + 1 + i) % 7).findSome? (headOf x cls)

/-- The next packet of the port, with the count of RMA turns after (R215). -/
def pickPacket (x : Port) : Option (QPkt × Nat) :=
  match classPick x 0 with
  | some q => some (q, x.rmaTurns)
  | none => match classPick x 2 with
    | some q => some (q, x.rmaTurns)
    | none => match classPick x 1, classPick x 3 with
      | some a, some b => if x.rmaTurns < 15 then some (a, x.rmaTurns + 1) else some (b, 0)
      | some a, none => some (a, 0)
      | none, some b => some (b, 0)
      | none, none => none

/-- Fill `room` slots with packet flits: the slots used and the packets whose last flit is among them, with what left
which input buffer. -/
def fillSlots : Nat → Nat → Port → Nat × List QPkt × Port
  | 0, _, x => (0, [], x)
  | fuel + 1, room, x =>
    if room = 0 then (0, [], x)
    else match x.cur with
      | some q =>
        let n := min room q.left
        if n < q.left then (n, [], { x with cur := some { q with left := q.left - n } })
        else
          let (m, done, x') := fillSlots fuel (room - n) { x with cur := none }
          (n + m, q :: done, x')
      | none => match pickPacket x with
        | none => (0, [], x)
        | some (q, turns) =>
          let sent := x.sent.set q.buf ((x.sent.getD q.buf 0 + q.cargo.packet.fab.flits) % 65536)
          fillSlots fuel room
            { x with queue := x.queue.erase q, cur := some q, rmaTurns := turns, sent := sent, lastSrc := x.lastSrc.set q.cls q.src }

/-- Node time in units of 2^-16 ns, as the 80-bit form of R223. -/
def time80 (s : State) : BitVec 80 := BitVec.ofNat 80 (now s * 65536 + s.clk.frac.toNat)

/-- The levels that a KN-160 offers (R210). -/
def levelsOf (s : State) (p : Nat) : BitVec 8 := if portCfg s p 1 then 0x06 else 0x04

/-- The control flit due for the next block, by the order of R216, and the port with it placed. -/
def takeCtl (s : State) (p : Nat) (x : Port) : Option CtlFlit × Port :=
  let lctl (nak : Bool) : CtlFlit :=
    .lctl { ackValid := x.gotBlock, nak := nak, ack := x.expect - 1, climit := x.granted.map (BitVec.ofNat 16) }
  let afterLctl : Port := { x with nakDue := false, sinceLctl := 0, told := x.granted }
  if x.nakDue then (some (lctl true), afterLctl)
  else if x.retrainDue then (some .retrain, { x with retrainDue := false })
  else if x.tsyncDue ∧ x.link = .up then
    let src := actBits s 0x300010 0 2 == 1
    let f : Tsync :=
      { locked := src || valBits s 0x300014 0 1 == 1, source := src, tseq := x.tseq, depth := BitVec.ofNat 8 (valBits s 0x300014 3 5),
        tTx := time80 s, tRxLast := x.tRxLast, tseqEcho := x.tseqEcho }
    (some (.tsync f), { x with tsyncDue := false, tseq := x.tseq + 1,
                               txTimes := tset (tfilter x.txTimes fun k _ => decide ((x.tseq - BitVec.ofNat 16 k).toNat < 16)) x.tseq.toNat (time80 s) })
  else if x.link = .negotiate then
    let f : Cap :=
      { seen := x.capIn, gcm := true, resend := true, levels := levelsOf s p, lanesOk := x.lanesOk,
        nodeId := BitVec.ofNat 16 (nodeId s), port := BitVec.ofNat 8 p }
    (some (.cap f), { x with seenOut := x.seenOut || x.capIn })
  else if x.link ≠ .negotiate ∧ (31 ≤ x.sinceLctl ∨ x.granted ≠ x.told) then (some (lctl false), afterLctl)
  else (none, { x with sinceLctl := x.sinceLctl + 1 })

/-- A resend starts from the oldest unacknowledged block; after 8 resends of it without progress a retrain is asked for
instead (R206, R208). -/
def startResend (x : Port) : Port :=
  match x.replayBuf with
  | [] => { x with resendAt := none }
  | b :: _ => if 8 ≤ b.resends then { x with retrainDue := true, resendAt := none } else { x with resendAt := some 0 }

/-- Bits flipped by the transmitter in mode CORRUPT_PRE: the lane and the count (R227). -/
def flipPre (p : Nat) (s : State) : Option (Nat × Nat) × State :=
  match misdeal p 3 s with
  | (true, s1) => (some (misdealBits s p 23 3, misdealBits s p 13 5 + 1), s1)
  | (false, s1) => (none, s1)

/-- Time without credit (R230): a packet waits and none may start. -/
def creditWait (p : Nat) (s : State) : State :=
  let x := getPort s p
  let stuck := x.cur.isNone && !x.queue.isEmpty && (pickPacket x).isNone
  match x.waitFrom, stuck with
  | none, true => setPort p { x with waitFrom := some (now s) } s
  | some t, true => setPort p { x with waitFrom := some (now s) } (portCnt p cCreditWait (now s - t) s)
  | some t, false => setPort p { x with waitFrom := none } (portCnt p cCreditWait (now s - t) s)
  | none, false => s

/-- Send block `i` of the replay buffer again. -/
def resendBlock (p i : Nat) (s : State) : State :=
  let x := getPort s p
  match x.replayBuf[i]? with
  | none => setPort p { x with resendAt := none } s
  | some b =>
    let b' := { b with resends := b.resends + 1, sentAt := now s }
    let next := if i + 1 < x.replayBuf.length then some (i + 1) else none
    let s1 := setPort p { x with replayBuf := x.replayBuf.set i b', resendAt := next, sinceAlign := x.sinceAlign + 1 } s
    let (flip, s2) := flipPre p s1
    emit (.block p b.bsn true b.flits b.cargo b.ctl flip) (portCnt p cReplays 1 s2)

/-- Start a retrain (R208): the replay buffer is kept. -/
def enterRetrain (p : Nat) (s : State) : State :=
  setLink p .retrain (portCnt p cRetrains 1 (modPort p (fun x => { x with retrainDue := false }) s))

/-- Build and send a new sequenced block (R200, R201). -/
def newBlock (p : Nat) (s : State) : State :=
  let (ctl, x) := takeCtl s p (getPort s p)
  let room := if ctl.isSome then 19 else 20
  let (flits, done, x1) := if x.link = .up then fillSlots 64 room x else (0, [], x)
  let b : TxBlock := { bsn := x1.nextBsn, flits := flits, cargo := done.map (·.cargo), ctl := ctl, sentAt := now s }
  let x2 := { x1 with nextBsn := x1.nextBsn + 1, replayBuf := x1.replayBuf ++ [b], sinceAlign := x1.sinceAlign + 1 }
  let s1 := portCnt p cTxFlits flits (setPort p x2 s)
  let s2 := forEach done (fun q s => leaveBuffer q.src q.inBuf q.cargo s) s1
  let (flip, s3) := flipPre p s2
  let s4 := creditWait p (emit (.block p b.bsn false flits b.cargo ctl flip) s3)
  if ctl = some .retrain then enterRetrain p s4 else s4

/-- What a block boundary brings (R203, R205, R206): an alignment block, a resend, or a new block. -/
def transmitBlock (p : Nat) (s : State) : State :=
  let x := getPort s p
  if !carries x then s
  else if 8191 ≤ x.sinceAlign then emit (.align p) (setPort p { x with sinceAlign := 0 } s)
  else match x.resendAt with
    | some i => resendBlock p i s
    | none =>
      if 256 ≤ x.replayBuf.length then
        let x1 := startResend x
        match x1.resendAt with
        | some i => resendBlock p i (setPort p x1 s)
        | none => enterRetrain p (setPort p x1 s)
      else newBlock p s

/-! ## The block receiver (R202, R205, R206) -/

/-- A block is bad (R202): FEC, BCRC, or the slot rules of R201. -/
def badBlock (b : RxBlock) : Bool :=
  b.fec == .uncorrectable || b.bcrc != b.bcrcCalc || decide (20 < b.ctlSlot) || decide (20 < b.dataFlits + b2n (b.ctlSlot != 0))

/-- Take in the packets of an accepted block (R213, R219, R220, R227). -/
def takeCargo (p : Nat) (c : Cargo) (s : State) : State :=
  let h := c.packet.fab
  let buf := bufOf h.cls.toNat h.vc
  let (dropped, s1) := if misdealClass s p c then misdeal p 2 s else (false, s)
  if dropped then leaveBuffer p (some buf) c s1
  else if h.cls = 0 then routeSched p (some buf) c s1
  else routePacket p (some buf) c s1

/-- A sequenced block arrives (R205): the receiver's misdeal modes, then good or bad, then in order or not. -/
def receiveBlock (p : Nat) (b : RxBlock) (s : State) : State :=
  if !carries (getPort s p) then s
  else
    let s0 := match b.fec with
      | .ok n => portCnt p cFecCorr n s
      | .uncorrectable => s
    let (dropEv, s1) := if badBlock b then (false, s0) else misdeal p 1 s0
    let (flipEv, s2) := if badBlock b then (false, s1) else misdeal p 4 s1
    let burst := misdealBits s p 13 5 + 1
    let missed := flipEv && decide (16 < burst) && Config.freeBool s2.freeCnt
    let s3 := if flipEv then stepFree s2 else s2
    if badBlock b ∨ dropEv ∨ (flipEv ∧ !missed) then
      modPort p (fun x => { x with nakDue := true }) (portCnt p cBadBlocks 1 s3)
    else if b.bsn ≠ (getPort s3 p).expect then s3
    else
      let cargo := if missed then Config.flippedCargo s2.freeCnt b.cargo else b.cargo
      let s4 := modPort p (fun x => { x with expect := x.expect + 1, gotBlock := true }) s3
      forEach cargo (fun c s => takeCargo p c s) (portCnt p cRxFlits b.dataFlits s4)

/-! ## Rows of the link that need nothing else -/

/-- BLOCK_RECEIVE (R205): a sequenced block arrives. Its control flit is a step of its own. -/
def execBlockReceive (port : Nat) (b : RxBlock) (s : State) : Res :=
  .next (if port < 6 ∧ serving s then receiveBlock port b s else s)

/-- ALIGNMENT_BLOCK_RECEIVE (R203): the receiver deskews on the markers. More than 20 ns of skew is beyond what it
tolerates, and the link retrains. -/
def execAlignmentBlockReceive (port : Nat) (skewNs : Nat) (s : State) : Res :=
  .next (if port < 6 ∧ (getPort s port).link = .up ∧ 20 < skewNs then enterRetrain port s else s)

/-- BLOCK_TRANSMIT (R216): a block boundary of the port. -/
def execBlockTransmit (port : Nat) (s : State) : Res :=
  .next (if port < 6 ∧ serving s then transmitBlock port s else s)

/-- Blocks up to BSN `a` are acknowledged. -/
def ackBlocks (a : BitVec 10) (l : List TxBlock) : List TxBlock :=
  if l.any fun b => b.bsn == a then (l.dropWhile fun b => b.bsn != a).drop 1 else l

/-- RX_LCTL (R206, R207): acknowledgements, credit limits that only rise, and a NAK that starts a resend after the block
it names. -/
def execRxLctl (port : Nat) (f : Lctl) (s : State) : Res :=
  .next (
    if 6 ≤ port ∨ !carries (getPort s port) then s
    else modPort port (fun x =>
      let limits := (x.climit.zip (f.climit.map (·.toNat))).map fun (a, b) => if serial16Le a b then b else a
      let kept := if f.ackValid then ackBlocks f.ack x.replayBuf else x.replayBuf
      let gone := x.replayBuf.length - kept.length
      let x1 := { x with climit := limits, replayBuf := kept
                         resendAt := (x.resendAt.map fun i => i - gone).filter fun i => decide (i < kept.length) }
      if f.nak then startResend x1 else x1) s)

/-- RX_RETRAIN (R208): the partner asks for a retrain. -/
def execRxRetrain (port : Nat) (s : State) : Res :=
  .next (if port < 6 ∧ ((getPort s port).link = .up ∨ (getPort s port).link = .credit) then enterRetrain port s else s)

/-- REPLAY_ACK_TIMEOUT (R206): the oldest block has gone 4 µs unacknowledged. -/
def execReplayAckTimeout (port : Nat) (s : State) : Res :=
  .next (
    match (getPort s port).replayBuf with
    | [] => s
    | b :: _ =>
      if 6 ≤ port ∨ !carries (getPort s port) then s
      else modPort port startResend (advanceTo (b.sentAt + 4000) s))

/-- SIGNAL_DETECT (R209): training starts at 32 GBd on an enabled port. -/
def execSignalDetect (port : Nat) (s : State) : Res :=
  .next (
    let x := getPort s port
    if port < 6 ∧ mainOn s ∧ portCfg s port 0 ∧ (x.link = .detect ∨ x.link = .down) then
      setLink port .trainLow (setPort port { x with attempts := 0, again := false } s)
    else s)

/-- The port enters NEGOTIATE with the lanes that trained (R210). -/
def enterNegotiate (p : Nat) (lanes : BitVec 8) (s : State) : State :=
  setLink p .negotiate (modPort p (fun x => { x with lanesOk := lanes, capIn := false, seenIn := false, seenOut := false, pickLevel := 0 }) s)

/-- TRAIN_LOW_DONE (R209, R212). -/
def execTrainLowDone (port : Nat) (lanes : BitVec 8) (s : State) : Res :=
  .next (if port < 6 ∧ (getPort s port).link = .trainLow then enterNegotiate port lanes s else s)

/-- The port enters CREDIT: both counts of flits start again (R214). -/
def enterCredit (p : Nat) (s : State) : State :=
  setLink p .credit (modPort p (fun x =>
    let held := (List.range 7).map fun b => sumN ((x.inbox.filter fun e => e.buf == b).map fun e => e.cargo.packet.fab.flits)
    let size := [2048, 3072, 1024, 512, 512, 512, 512]
    let first := (size.zip held).map fun (a, b) => a - b
    { x with sent := List.replicate 7 0, climit := List.replicate 7 0, granted := first, told := first
             withheld := List.replicate 7 0 }) s)

/-- Width from the lanes good at both ends (R197): full, lower half, upper half, or none. -/
def widthOf (s : State) (p : Nat) (mine theirs : BitVec 8) : Option (Bool × Bool) :=
  let l := mine &&& theirs
  if l = 0xFF then some (false, false)
  else if !portCfg s p 2 then none
  else if l &&& 0x0F = 0x0F then some (true, false)
  else if l &&& 0xF0 = 0xF0 then some (true, true)
  else none

/-- Take a width; a change into NARROW posts an event (R212). -/
def setWidth (p : Nat) (w : Bool × Bool) (s : State) : State :=
  let was := (getPort s p).narrow
  let s1 := showPort p (modPort p (fun x => { x with narrow := w.1, highHalf := w.2 }) s)
  if w.1 ∧ !was then linkEvent p p s1 else s1

/-- LANE_FAILURE (R212): a lane fails while the port is UP. -/
def execLaneFailure (port : Nat) (lane : Nat) (s : State) : Res :=
  .next (
    let x := getPort s port
    if 6 ≤ port ∨ 8 ≤ lane ∨ x.link ≠ .up then s
    else enterRetrain port (setPort port { x with lanesOk := x.lanesOk &&& ~~~(BitVec.ofNat 8 (2 ^ lane)) } s))

/-! ## Fabric time (R223, R224, R226, R440) -/

/-- FAB_TIME_CFG.ROLE in force. -/
def timeRole (s : State) : Nat := actBits s 0x300010 0 2

/-- TSYNC_DUE (R223): node time passes a multiple of 1,000 ns. -/
def execTsyncDue (s : State) : Res :=
  .next (
    if !serving s then s
    else
      let s1 := advanceTo ((now s / 1000 + 1) * 1000) s
      forEach (List.range 6) (fun p s => modPort p (fun x => { x with tsyncDue := x.tsyncDue || x.link == .up }) s) s1)

/-- The last offset in OFFSET, in 1/16 ns; one that the field cannot hold is a free value (log entry 23). -/
def showOffset (o : Int) (s : State) : State :=
  let u := Int.tdiv o 4096
  if -(2 ^ 23 : Int) ≤ u ∧ u < 2 ^ 23 then setValBits 0x300014 8 24 (toTwos u 24) s
  else setValBits 0x300014 8 24 (Config.freeNat s.freeCnt % 2 ^ 24) (stepFree s)

/-- A follower uses one offset, in units of 2^-16 ns (R224). -/
def useOffset (o : Int) (s : State) : State :=
  let t := s.fab.time
  let us : Int := 65536 * 1000
  let jump := t.first && (decide (us < o) || decide (o < -us))
  let ppm := actBits s 0x300010 8 8
  let good := if -(2 * 65536 : Int) ≤ o ∧ o ≤ 2 * 65536 then t.good + 1 else 0
  let s1 := showOffset o s
  let s2 := { s1 with fab := { s1.fab with time := { t with
      first := false, good := min 16 good
      rate := if jump ∨ o = 0 then 0 else if 0 < o then -(ppm : Int) else (ppm : Int) } } }
  let s3 :=
    if !jump then s2
    else if o < 0 then
      let v := now s2 * 65536 + s2.clk.frac.toNat + (-o).toNat
      { s2 with clk := { s2.clk with node := v / 65536, frac := BitVec.ofNat 16 (v % 65536) } }
    else { s2 with clk := { s2.clk with held := true, heldUntil := s2.clk.mss + cdiv o.toNat 65536 } }
  setValBits 0x300014 0 1 (b2n (decide (16 ≤ good))) s3

/-- RX_TSYNC (R207, R224, R226): the parent's flit gives an offset where it echoes one of ours; on every port the receipt
is kept for the echo. -/
def execRxTsync (port : Nat) (f : Tsync) (replayed : Bool) (rxFrac : Nat) (s : State) : Res :=
  .next (
    let x := getPort s port
    if 6 ≤ port ∨ replayed ∨ x.link ≠ .up then s
    else
      let t2 := now s * 65536 + rxFrac % 65536
      let s1 := setPort port { x with tRxLast := BitVec.ofNat 80 t2, tseqEcho := f.tseq } s
      if timeRole s ≠ 2 ∨ actBits s 0x300010 2 3 ≠ port then s1
      else
        let s2 := { s1 with fab := { s1.fab with time := { s1.fab.time with lastTsync := now s } } }
        let s3 := setValBits 0x300014 3 5 (f.depth.toNat + 1) (setValBits 0x300014 1 1 0 s2)
        match tget x.txTimes f.tseqEcho.toNat with
        | none => s3
        | some t3 =>
          let asym : Int := sext (actBits s (portBase port + 4) 0 16) 16 * 4096
          let d1 : Int := (t2 : Int) - f.tTx.toNat
          let d2 : Int := (f.tRxLast.toNat : Int) - t3.toNat
          useOffset (Int.tdiv (d1 - d2 - asym) 2) s3)

/-- HOLDOVER_ENTER (R226): 8 µs without a TSYNC from the parent. -/
def execHoldoverEnter (s : State) : Res :=
  .next (
    if timeRole s ≠ 2 ∨ !serving s ∨ valBits s 0x300014 1 1 = 1 then s
    else
      let s1 := advanceTo (s.fab.time.lastTsync + 8000) s
      setValBits 0x300014 1 1 1 { s1 with fab := { s1.fab with time := { s1.fab.time with holdoverAt := now s1, lost := false } } })

/-- PTP_MESSAGE (R440): an offset measured on the management port in the domain of MGMT_PTP_CFG. It disciplines node time
when this node has no fabric time, or is a source that follows PTP. -/
def execPtpMessage (domain : BitVec 8) (offsetNs : Int) (s : State) : Res :=
  .next (
    let cfg := (actW s 0xB00300).toNat
    if !bit cfg 0 ∨ bits cfg 1 8 ≠ domain.toNat ∨ !mainOn s then s
    else
      let good := if -50 ≤ offsetNs ∧ offsetNs ≤ 50 then min 16 (s.mgmt.ptpGood + 1) else 0
      let fits := decide (-(2 ^ 30 : Int) ≤ offsetNs) && decide (offsetNs < 2 ^ 30)
      let s1 : State := { s with mgmt := { s.mgmt with ptpGood := good } }
      let s2 := if fits then setVal 0xB00304 (BitVec.ofNat 32 (b2n (decide (16 ≤ good)) + 2 * toTwos offsetNs 31)) s1
        else setVal 0xB00304 (BitVec.ofNat 32 (b2n (decide (16 ≤ good)) + 2 * (Config.freeNat s1.freeCnt % 2 ^ 31))) (stepFree s1)
      let ppm := actBits s 0x300010 8 8
      if timeRole s = 0 ∨ (timeRole s = 1 ∧ actBits s 0x300010 5 1 = 1) then
        { s2 with fab := { s2.fab with time := { s2.fab.time with
            rate := if offsetNs = 0 then 0 else if 0 < offsetNs then -(ppm : Int) else (ppm : Int) } } }
      else s2)

end Sys2Proof.Machine
end

