-- ==== Sys2Proof/Machine/Transport.lean ====
section
/-! DEFINITION. The transport at the sender (R262 to R281): connections, the context cache, building and sealing packets,
sending operations in order, acknowledgements, and the end of a connection. -/

namespace Sys2Proof.Machine

open Sys2Proof

/-! ## Connections -/

/-- A half of a connection. -/
def getConn (s : State) (c : Nat) : Conn := tgetD s.rma.conns c {}

/-- Set a half. -/
def setConn (c : Nat) (x : Conn) (s : State) : State := { s with rma := { s.rma with conns := tset s.rma.conns c x } }

/-- Change a half. -/
def modConn (c : Nat) (f : Conn → Conn) (s : State) : State := setConn c (f (getConn s c)) s

/-- The partition whose fabric bytes a half counts: none in the management domain (R222, R267). -/
def connPart (x : Conn) : Option Nat := if x.mgmt then none else some x.part

/-- Count in counter `i` of R291. -/
def rmaCnt (i n : Nat) (s : State) : State := cntAdd (0x400100 + 8 * i) n s

def cCtxMisses : Nat := 0
def cMissqFullNs : Nat := 1
def cRetransmits : Nat := 2
def cDuplicates : Nat := 3
def cSeqNaks : Nat := 4
def cViolations : Nat := 5
def cAuthFail : Nat := 6
def cStray : Nat := 7
def cStalls : Nat := 8
def cBoundRejects : Nat := 9
def cWaitTimeouts : Nat := 10

/-! ## The context cache (R269, R270) -/

/-- The half's context may be evicted: no unacknowledged packet, no held packet, no packet in process. -/
def evictable (x : Conn) : Bool :=
  x.ops.isEmpty && x.held.isNone && x.reading.isNone && x.waiting.isEmpty && x.unacked == 0 && x.rest.isNone

/-- The least recently used context that may be evicted, where the cache holds more than 16,384. When none may, the cache
grows past its size (log entry 24). -/
def evict (s : State) (l : List Nat) : List Nat :=
  if l.length ≤ 16384 then l
  else match l.reverse.find? fun c => evictable (getConn s c) with
    | some c => l.erase c
    | none => l

/-- A context is used: it is the most recent of the cache. -/
def touchCtx (c : Nat) (s : State) : State :=
  { s with rma := { s.rma with cache := evict s (c :: s.rma.cache.erase c) } }

/-- The context is in the cache. -/
def cached (s : State) (c : Nat) : Bool := s.rma.cache.contains c

/-- A context that is missed is fetched (R269). -/
def fetchCtx (c : Nat) (s : State) : State :=
  if (getConn s c).fetching then s else rmaCnt cCtxMisses 1 (modConn c (fun x => { x with fetching := true }) s)

/-! ## Packets (R217, R262, R281) -/

/-- The transport header's 40 bytes. -/
def trBytes (t : TrHdr) : List Byte :=
  leBytes 1 t.top.toNat
    ++ leBytes 1 (b2n t.first + 2 * b2n t.last + 4 * b2n t.ackReq + 8 * b2n t.enc + 16 * b2n t.cl)
    ++ leBytes 2 t.try_.toNat ++ leBytes 4 t.dconn ++ leBytes 4 t.psn.toNat ++ leBytes 4 t.cpsn.toNat
    ++ leBytes 8 t.raddr.toNat ++ leBytes 8 t.rkey.toNat ++ leBytes 4 t.total.toNat ++ zeros 4

/-- Bytes 0 to 5 of the fabric header. -/
def fabBytes (h : FabHdr) : List Byte :=
  leBytes 1 (h.cls.toNat + 4 * b2n h.vc + 8 * b2n h.static) ++ leBytes 1 h.flits ++ leBytes 2 h.dst.toNat ++ leBytes 2 h.src.toNat

/-- Additional authenticated data (R281). The header is taken as it leaves its source, with VC clear. -/
def aadOf (p : Packet) : List Byte := fabBytes { p.fab with vc := false } ++ trBytes p.tr

/-- KIND of R281. -/
def kindOf (top : Nat) : Nat :=
  if top = 0x03 ∨ top = 0x05 ∨ top = 0x11 then 1 else if 0x08 ≤ top ∧ top ≤ 0x0B then 2 else 0

/-- The 96-bit nonce. -/
def nonceOf (node conn psn tr kind wrap : Nat) : List Byte :=
  leBytes 12 (node % 2 ^ 16 + 2 ^ 16 * (conn % 2 ^ 20) + 2 ^ 36 * (psn % 2 ^ 24) + 2 ^ 60 * (tr % 256)
    + 2 ^ 68 * (kind % 4) + 2 ^ 70 * (wrap % 2 ^ 26))

/-- The wrap count that a PSN near `cur` belongs to. -/
def wrapOf (wrap : Nat) (cur psn : BitVec 24) : Nat :=
  if (cur - psn).toNat < 2 ^ 23 then (if cur.toNat < psn.toNat then wrap - 1 else wrap)
  else if psn.toNat < cur.toNat then wrap + 1 else wrap

/-- The wrap count of a PSN: requests of a half count its own PSNs, everything else the other half's. -/
def wrapFor (x : Conn) (own : Bool) (psn : BitVec 24) : Nat :=
  if own then wrapOf x.txWrap x.txPsn psn else wrapOf x.rxWrap x.rxPsn psn

/-- The key of a half. -/
def connKey (s : State) (x : Conn) : List Byte := (tgetD s.sec.slots x.keySlot {}).key

/-- The oldest PSN of an operation still incomplete at the sender (CPSN of R262). -/
def cpsnOf (x : Conn) : BitVec 24 :=
  match x.ops.find? fun o => o.sentPkts != 0 with
  | some o => o.psn
  | none => x.txPsn

/-- A packet of half `c`, sealed where the connection has ENC. -/
def connPacket (s : State) (c : Nat) (t : TrHdr) (payload : List Byte) : Packet :=
  let x := getConn s c
  let top := t.top.toNat
  let kind := kindOf top
  let plen := 40 + payload.length + if x.enc then 16 else 0
  let cls := if 0x08 ≤ top ∧ top ≤ 0x0B then 2 else if x.mgmt then 3 else 1
  let tr := { t with enc := x.enc, dconn := x.peerConn, cpsn := cpsnOf x }
  let p : Packet := { fab := mkFab s cls x.peerNode.toNat plen, tr := tr, payload := payload, tag := [] }
  if !x.enc then p
  else
    let n := nonceOf (nodeId s) c tr.psn.toNat tr.try_.toNat kind (wrapFor x (kind == 0) tr.psn)
    let (ct, tag) := Config.gcmSeal (connKey s x) n (aadOf p) payload
    { p with payload := ct, tag := tag }

/-- The plaintext of a packet that half `c` receives, where its tag verifies. -/
def openPacket (s : State) (c : Nat) (p : Packet) : Option (List Byte) :=
  let x := getConn s c
  if !x.enc then some p.payload
  else if !p.tr.enc then none
  else
    let kind := kindOf p.tr.top.toNat
    let n := nonceOf x.peerNode.toNat x.peerConn p.tr.psn.toNat p.tr.try_.toNat kind (wrapFor x (kind != 0) p.tr.psn)
    Config.gcmOpen (connKey s x) n (aadOf p) p.payload p.tag

/-- Send a packet of half `c`; `wrap` puts the work of a CALL beside it. -/
def sendConn (c : Nat) (t : TrHdr) (payload : List Byte) (wrap : Packet → Cargo) (s : State) : State :=
  sendCargo (connPart (getConn s c)) (wrap (connPacket s c t payload)) s

/-- The 8 bytes of RADDR in an acknowledgement packet. -/
def ackAddr (code delay : Nat) : BitVec 64 := BitVec.ofNat 64 (code % 256 + 65536 * (delay % 65536))

/-- Send ACK, NAK, HOLD or RETRY_AFTER naming a PSN. -/
def sendAck (c : Nat) (top : BitVec 8) (psn : BitVec 24) (code delay : Nat) (s : State) : State :=
  sendConn c { noTr with top := top, psn := psn, raddr := ackAddr code delay } [] .pkt s

/-! ## Operations (R263, R274) -/

/-- PSNs of an operation. -/
def opPsns (k : OpKind) (total : Nat) : Nat :=
  match k with
  | .read => cdiv total 4096
  | .write => cdiv total 4096
  | _ => 1

/-- Packets of an operation: a READ is asked for in one. -/
def opPkts (o : Op) : Nat := match o.kind with
  | .write => o.psns
  | _ => 1

/-- Packet `k` of an operation. -/
def opPacket (o : Op) (k : Nat) : TrHdr × List Byte × (Packet → Cargo) :=
  let last := k + 1 == opPkts o
  let t : TrHdr :=
    { noTr with first := k == 0, last := last, ackReq := last, try_ := BitVec.ofNat 8 o.tries, psn := o.psn + BitVec.ofNat 24 k
                raddr := o.raddr, rkey := o.rkey, total := if k = 0 then BitVec.ofNat 32 o.total else 0 }
  match o.kind with
  | .write => ({ t with top := 0x01, raddr := o.raddr + BitVec.ofNat 64 (4096 * k) }, (o.data.drop (4096 * k)).take 4096, .pkt)
  | .read => ({ t with top := 0x02 }, [], .pkt)
  | .add => ({ t with top := 0x04 }, slice o.data 0 8, .pkt)
  | .signal => ({ t with top := 0x06, raddr := 0, rkey := 0, total := BitVec.ofNat 32 (o.counter + 65536 * b2n o.toAcked) },
      slice o.data 0 8, .pkt)
  | .call => match o.msg with
    | some m => ({ t with top := 0x10, raddr := 0, rkey := 0, total := 0 }, [], fun p => .call p m)
    | none => ({ t with top := 0x10, raddr := 0, rkey := 0, total := 0 }, [], .pkt)

/-- Send packets `k` to the end of an operation. -/
def sendOpFrom (c : Nat) (o : Op) (k : Nat) (s : State) : State :=
  forEach ((List.range (opPkts o)).drop k) (fun i s =>
    let (t, payload, wrap) := opPacket o i
    sendConn c t payload wrap s) s

/-- The operation has what it sends. -/
def opReady (o : Op) : Bool :=
  match o.kind with
  | .write => o.data.length == o.total
  | _ => true

/-- Incomplete operations of the node: RMA_POST and SIGNAL (R274, R289). -/
def incompleteOps (s : State) : Nat := sumN (s.rma.conns.map fun (_, x) => (x.ops.filter fun o => o.key.isSome).length)

/-- The limits of R274 leave room for an operation. -/
def rmaRoom (s : State) (c : Nat) (k : OpKind) (total : Nat) : Bool :=
  let x := getConn s c
  decide (incompleteOps s < 65536) && decide (sumN (x.ops.map (·.psns)) + opPsns k total ≤ 4096)
    && (k != .add || decide ((x.ops.filter fun o => o.kind == .add).length < 16))

/-! ## A producer is lost (R361) -/

/-- FABRIC/PRODUCER_LOST. -/
def lostProducer (c : Cmd) (node : Nat) (s : State) : State :=
  post { cls := 6, code := 7, part := some c.part, step := c.step,
         detail := stepDetail c 19 node 0 } s

/-- STEP/DATA_LOST names the sequence (R361). -/
def dataLostEvent (c : Cmd) (node aux : Nat) (s : State) : State :=
  post { cls := 4, code := 3, part := some c.part, step := c.step, status := .dataLost,
         detail := stepDetail c 19 node aux } s

/-- REROUTE_MS in ns: NODE_FAULT_CFG (R359). -/
def rerouteNs (s : State) : Nat := 1000000 * actBits s 0x108 2 10

/-- RETAIN_MS in ns (R359). -/
def retainNs (s : State) : Nat := 1000000 * actBits s 0x108 12 14

/-- REPLAY_LIMIT (R359). -/
def replayLimit (s : State) : Nat := actBits s 0x108 0 2

/-- The service connection of a partition to a node, where it is OPEN (R268). -/
def serviceConn (s : State) (part node : Nat) : Option Nat :=
  ((tfind s.rma.conns fun _ x => x.service && x.part == part && x.peerNode.toNat == node && x.state == .open_).map (·.1))

/-- A node is a level-1 node: the port that holds it as partner runs at level 1. -/
def level1Node (s : State) (node : Nat) : Bool :=
  (List.range 6).any fun p => (getPort s p).partner.toNat == node && (getPort s p).link == .up && (getPort s p).level == 1

/-- Every page that an ATTEND sub-request covers has REPL set in its PDE (R361). -/
def coveredByReplica (q : Seq) (r : AttendReq) : Bool :=
  q.repl == 2 && r.pages.all fun (st, n) =>
    match tget (q.streams.getD st {}).pdes n with
    | some d => d.repl
    | none => false

/-- A sequence's home sets REPL_DEGRADED and goes on without its replica (R62). -/
def replDegrade (n : Nat) (s : State) : State :=
  match tget s.seqs n with
  | none => s
  | some q =>
    if q.replDegraded then s
    else post { cls := 6, code := 5, detail := .l n 0xFFFF 0 0 0 }
      { s with seqs := tset s.seqs n { q with replDegraded := true } }

/-- What the loss of the producer of sub-request `i` means for its command (R361). A replay waits for its own step; a
sub-search or an access by CALL may still be replayed within REROUTE_MS. -/
def loseSub (c : Cmd) (i : Nat) (s : State) : State :=
  match c.subs[i]? with
  | none => s
  | some x =>
    if x.answer.isSome ∨ x.lost then s
    else
      let s1 := lostProducer c x.node s
      let lost : Sub := { x with lost := true, due := now s1 + rerouteNs s1 }
      let keep := setCmd { c with subs := c.subs.set i lost } s1
      match x.call with
      | .attendSub _ _ _ r =>
        match tget s.seqs r.seq with
        | some q =>
          match serviceConn s c.part q.peerNode with
          | some k =>
            if coveredByReplica q r ∧ x.node ≠ q.peerNode then
              strikeCmd { c with subs := c.subs.set i { x with node := q.peerNode, conn := k, answer := none, lost := false } } 19 s1
            else finish c .dataLost 0 (dataLostEvent c x.node r.seq s1)
          | none => finish c .dataLost 0 (dataLostEvent c x.node r.seq s1)
        | none => finish c .dataLost 0 (dataLostEvent c x.node r.seq s1)
      | .searchSub _ _ _ _ => keep
      | .gfa _ _ _ _ _ _ _ => keep
      | .replicate r => replDegrade r.homeSeq
          (match c.work with
            | .ladle l => setCmd { c with work := .ladle { l with acked := 2 ^ 32 }, subs := c.subs.set i lost } s1
            | _ => keep)
      | .fetchPages _ _ => (match c.work with
          | .migrate _ => finish c .timeout 0 s1
          | _ => keep)
      | _ => finish c .timeout 0 s1

/-- Every producer that a command awaits on half `conn` is lost. -/
def loseOn (conn : Nat) (s : State) : State :=
  forEach (s.cmds.flatMap fun (k, c) => (c.subs.zipIdx.filter fun (x, _) => x.conn == conn && x.answer.isNone && !x.lost).map
      fun (_, i) => (k, i))
    (fun (k, i) s => match tget s.cmds k with
      | some c => if c.phase = .finished then s else loseSub c i s
      | none => s) s

/-- A half leaves OPEN: what awaits an answer on it is lost, and a sequence whose replication it carries goes on without
(R62, R268). -/
def connLeft (c : Nat) (s : State) : State :=
  let s1 := loseOn c s
  forEach (s1.seqs.filter fun (_, q) => q.repl == 2 && q.peerConn == c && (q.state == .open_ || q.state == .frozen))
    (fun (n, _) s => replDegrade n s) s1

/-! ## ERROR (R266, R278) -/

/-- The half enters ERROR: its operations complete in PSN order with ST_TIMEOUT, and an event goes to the partition and to
the owner. -/
def connError (c : Nat) (s : State) : State :=
  let x := getConn s c
  let s1 := setConn c { x with state := .error, ops := [], timerAt := 0, txHeld := false, resendAt := none } s
  let s2 := forEach x.ops (fun o s => match o.key with
    | some k => (match tget s.cmds k with
      | some cmd => finish cmd .timeout 0 s
      | none => s)
    | none => s) s1
  connLeft c (post { cls := 6, code := 3, part := connPart x, status := .timeout, detail := .c c x.peerNode.toNat 0 0 0 0 } s2)

/-! ## Sending -/

/-- The retransmit time of a half, in ns (R267, R291). -/
def rtoNs (s : State) (x : Conn) : Nat := 1000 * if x.rtoUs = 0 then actBits s 0x400010 0 10 else x.rtoUs

/-- Give the operation at place `i` its PSNs and send it. -/
def startOp (c i : Nat) (o : Op) (s : State) : State :=
  let x := getConn s c
  let psn := if o.fixed then o.psn else x.txPsn
  let next := if o.fixed then x.txPsn else x.txPsn + BitVec.ofNat 24 o.psns
  let wraps := !o.fixed && decide (next.toNat < x.txPsn.toNat)
  if x.enc ∧ wraps ∧ 2 ^ 26 - 1 ≤ x.txWrap then connError c s
  else
    let o1 := { o with psn := psn, sentPkts := opPkts o }
    let rec_ : List OotEntry := match o.key with
      | some k => (s.rma.oot.filter fun e => e.key != k) ++ [{ key := k, conn := c, psn := psn, applied := false }]
      | none => s.rma.oot
    let x1 := { x with ops := x.ops.set i o1, txPsn := next, txWrap := x.txWrap + b2n wraps
                       ackPsn := if x.ops.any fun e => e.sentPkts != 0 then x.ackPsn else psn
                       timerAt := if x.ops.any fun e => e.sentPkts != 0 then x.timerAt else now s }
    let s1 := setConn c x1 s
    let s2 := sendOpFrom c o1 0 { s1 with rma := { s1.rma with oot := rec_ } }
    rmaCnt cRetransmits (if o.fixed then opPkts o else 0) s2

/-- Send what may be sent, in order (R274, R279): one that is not ready, or a FENCE behind an earlier one, holds the rest. -/
def pumpAux (c : Nat) : Nat → State → State
  | 0, s => s
  | fuel + 1, s =>
    let x := getConn s c
    match x.ops.findIdx? fun o => o.sentPkts == 0 with
    | none => s
    | some i =>
      match x.ops[i]? with
      | none => s
      | some o =>
        if x.state ≠ .open_ ∧ x.state ≠ .closing ∨ x.txHeld ∨ x.resendAt.isSome ∨ !opReady o ∨ (o.fence ∧ i ≠ 0) then s
        else pumpAux c fuel (startOp c i o s)

/-- Send what a half may send, or fetch its context first. -/
def pump (c : Nat) (s : State) : State :=
  if (getConn s c).ops.all fun o => o.sentPkts != 0 then s
  else if !cached s c then fetchCtx c s
  else pumpAux c ((getConn s c).ops.length + 1) (touchCtx c s)

/-- Put an operation behind the others of a half. -/
def postOp (c : Nat) (o : Op) (s : State) : State :=
  pump c (modConn c (fun x => { x with ops := x.ops ++ [o] }) s)

/-- Send a CALL of the node on a half. -/
def sendCall (c : Nat) (m : CallMsg) (s : State) : State := postOp c { kind := .call, psn := 0, psns := 1, msg := some m } s

/-- Send the operations from PSN `from_` on again, each with TRY one higher (R276, R278). An operation whose TRY would pass
255 keeps 255 (log entry 25). -/
def resendFrom (c : Nat) (from_ : BitVec 24) (s : State) : State :=
  let x := getConn s c
  let ops := x.ops.map fun o =>
    if o.sentPkts = 0 then (o, none)
    else
      let d := (from_ - o.psn).toNat
      if d < 2 ^ 23 ∧ o.psns ≤ d then (o, none)
      else
        let k := if o.kind = .write ∧ d < o.psns then d else 0
        ({ o with tries := min 255 (o.tries + 1) }, some k)
  let s1 := setConn c { x with ops := ops.map (·.1), timerAt := now s } s
  forEach ops (fun (o, k) s => match k with
    | some k => rmaCnt cRetransmits (opPkts o - k) (sendOpFrom c o k s)
    | none => s) s1

/-- Something was acknowledged: no retransmission counts against the limit, and the timer starts again. -/
def progress (c : Nat) (s : State) : State :=
  pump c (modConn c (fun x => { x with retries := 0, txHeld := false, timerAt := now s }) s)

/-- Stands for the connection of a sub-request where the partition has none to the node any more. -/
def noConn : Nat := 2 ^ 20

/-- Send the CALLs of a command and remember them as its sub-requests. One without a connection has lost its producer (R361). -/
def sendSubs (c : Cmd) (subs : List Sub) (s : State) : State :=
  let s1 := forEach (subs.filter fun u => u.conn != noConn) (fun u s => sendCall u.conn u.call s) (setCmd { c with subs := c.subs ++ subs } s)
  if subs.any fun u => u.conn == noConn then loseOn noConn s1 else s1

/-- Remove an operation of a half. -/
def dropOp (c : Nat) (o : Op) (s : State) : State := modConn c (fun x => { x with ops := x.ops.erase o }) s

/-- The oldest PSN that is not acknowledged: of a READ, ADD or CALL until its response or ACK. -/
def oldestUnacked (x : Conn) : Option (BitVec 24) :=
  match x.ops.find? fun o => o.sentPkts != 0 with
  | none => none
  | some o => if o.kind = .write ∧ (x.ackPsn - o.psn).toNat < o.psns then some x.ackPsn else some o.psn

end Sys2Proof.Machine
end

