-- ==== Sys2Proof/Machine/Dma.lean ====
section
/-! DEFINITION. The data of commands (R313, R314, R340, R378): reading an input and writing a destination in PCIe space, in
partition memory, here or on another node, and in the deck's scratch area. -/

namespace Sys2Proof.Machine

open Sys2Proof

/-! ## XTS windows (R378) -/

/-- The window keys of a partition. -/
def windowsOf (s : State) (p : Nat) : List KeySlot :=
  ((List.range 16).filterMap fun i => tget s.sec.slots (16 * p + i)).filter fun k => k.kind == 2

/-- A bus range touches a window. -/
def touchesWindow (k : KeySlot) (a n : Nat) : Bool := decide (a < k.wbase + k.wlen) && decide (k.wbase < a + n) && n != 0

/-- A window access is not 16-byte aligned, or its length is no multiple of 16. -/
def windowBad (s : State) (p a n : Nat) : Bool :=
  (windowsOf s p).any fun k => touchesWindow k a n && (a % 16 != 0 || n % 16 != 0)

/-- Apply a window's cipher to the bytes that fall in each window of the partition; an access is split at its edges. -/
def throughWindows (f : List Byte → Nat → List Byte → List Byte) (s : State) (p a : Nat) (bs : List Byte) : List Byte :=
  (windowsOf s p).foldl (fun bs k =>
    if touchesWindow k a bs.length then
      let lo := max a k.wbase
      let hi := min (a + bs.length) (k.wbase + k.wlen)
      patch bs (lo - a) (f k.key (lo - k.wbase) (slice bs (lo - a) (hi - lo)))
    else bs) bs

/-- Bytes read at a bus address, as the command sees them. -/
def windowOpen (s : State) (p a : Nat) (bs : List Byte) : List Byte := throughWindows Config.xtsOpen s p a bs

/-- Bytes for a bus address, as they leave the node. -/
def windowSeal (s : State) (p a : Nat) (bs : List Byte) : List Byte := throughWindows Config.xtsSeal s p a bs

/-! ## Addresses (R313) -/

/-- The address names scratch: a deck task's address with bit 63 set (R239). -/
def isScratch (c : Cmd) (a : Nat) : Bool := c.ring == deckRing && bit a 63

/-- The address names partition memory. -/
def isGfa (a : Nat) : Bool := bits a 62 2 == 1

/-- The check of a range before any of it is issued. -/
def checkAddr (s : State) (c : Cmd) (a n : Nat) : Status :=
  if isScratch c a then .ok
  else if bit a 63 then .illegalValue
  else if isGfa a then .ok
  else if 2 ^ 62 < a + n ∨ windowBad s c.part a n then .illegalValue
  else .ok

/-- Byte of the scratch area. -/
def scratchByte (s : State) (a : Nat) : Byte := cellGet s.deck.scratch (a % 2 ^ 25)

/-- Write bytes of the scratch area. -/
def scratchWrite (a : Nat) : List Byte → State → State
  | [], s => s
  | b :: bs, s =>
    scratchWrite (a + 1) bs { s with deck := { s.deck with scratch := cellSet s.deck.scratch (a % 2 ^ 25) b } }

/-! ## Reading an input -/

/-- How a read went. -/
inductive Got where
  | now (bytes : List Byte)
  | fail (st : Status)
  | wait
  deriving DecidableEq, Repr

/-- The pieces of an access as the command's `parts`: a remote piece is asked for in a sub-request. -/
def askPieces (c : Cmd) (base : Nat) (write : Bool) (data : List Byte) (s : State) : List Piece → Cmd × List (Nat × CallMsg) × Bool
  | [] => (c, [], true)
  | p :: ps =>
    if p.node.toNat = nodeId s then
      askPieces { c with parts := c.parts ++ [(p.addr, p.len, none)] } base write data s ps
    else match serviceConn s c.part p.node.toNat with
      | none => (c, [], false)
      | some k =>
        let i := c.subs.length
        let m : CallMsg := .gfa c.step i c.stamp (BitVec.ofNat 64 (base + p.off)) p.len write (if write then slice data p.off p.len else [])
        let (c1, l, ok) :=
          askPieces { c with parts := c.parts ++ [(0, p.len, some i)], subs := c.subs ++ [{ node := p.node.toNat, conn := k, call := m }] }
            base write data s ps
        (c1, (k, m) :: l, ok)

/-- The bytes of a command's `parts`, once every remote piece has answered. -/
def gatherParts (s : State) (c : Cmd) : List (Nat × Nat × Option Nat) → Got
  | [] => .now []
  | (a, n, sub) :: t =>
    let here : Got := match sub with
      | none => (match readLocal s a n with
        | .data b => .now b
        | .damaged _ => .fail .dataDamaged
        | .lost => .fail .dataLost)
      | some i => match (c.subs[i]?).bind (·.answer) with
        | some (.gfaDone _ _ st b) => if st = 0 then .now (slice b 0 n) else .fail (Status.ofCode st.toNat)
        | _ => .wait
    match here with
    | .now b => (match gatherParts s c t with
      | .now b' => .now (b ++ b')
      | r => r)
    | r => r

/-- Start to read a command's input. What is local is there at once; PCIe and remote bytes come in steps of their own. -/
def startRead (c : Cmd) (a n : Nat) (s : State) : Got × State :=
  match checkAddr s c a n with
  | .ok =>
    if isScratch c a then (.now ((List.range n).map fun i => scratchByte s (a + i)), s)
    else if isGfa a then
      let g := a % 2 ^ 62
      let r := resolveGfa s c.stamp c.part g n false
      let s1 := countResolved r s
      match r.res with
      | .error st => (.fail st, s1)
      | .ok ps =>
        let (c1, calls, ok) := askPieces { c with parts := [] } g false [] s ps
        if !ok then (.fail .illegalCombination, s1)
        else if calls.isEmpty then (gatherParts s c1 c1.parts, s1)
        else (.wait, forEach calls (fun (k, m) s => sendCall k m s) (setCmd c1 s1))
    else (.wait, emit (.dmaRead (cmdFn s c) a n (.input c.ring c.rseq)) s)
  | st => (.fail st, s)

/-! ## Writing a destination -/

/-- The command ends once its destination is written: at once, or when the nodes that hold pieces have answered. -/
def deliver (c : Cmd) (a : Nat) (bs : List Byte) (st : Status) (result : Nat) (s : State) : State :=
  match checkAddr s c a bs.length with
  | .ok =>
    if bs.isEmpty then finish c st result s
    else if isScratch c a then finish c st result (scratchWrite a bs s)
    else if isGfa a then
      let g := a % 2 ^ 62
      let r := resolveGfa s c.stamp c.part g bs.length true
      let s1 := countResolved r s
      match r.res with
      | .error st => finish c st 0 s1
      | .ok ps =>
        let (c1, calls, ok) := askPieces { c with parts := [] } g true bs s ps
        if !ok then finish c .illegalCombination 0 s1
        else
          let s2 := forEach (ps.filter fun p => p.node.toNat == nodeId s) (fun p s => writeMem p.addr (slice bs p.off p.len) s) s1
          if calls.isEmpty then finish c st result s2
          else if staging s2 c then
            finish c st result (modStep c.step.toNat (fun x =>
              { x with ops := x.ops ++ calls.map fun (k, m) => (k, { kind := .call, psn := 0, psns := 1, msg := some m }) }) s2)
          else forEach calls (fun (k, m) s => sendCall k m s)
            (setCmd { c1 with status := st, result := BitVec.ofNat 64 result, work := .block } s2)
    else
      let s1 := emitC c (.dmaWrite (cmdFn s c) a (windowSeal s c.part a bs)) s
      finish { c with wrote := bs.length } st result (meterData c resPcieOut bs.length s1)
  | e => finish c e 0 s

/-- A write of a destination piece on another node. -/
def writesPiece (x : Sub) : Bool := match x.call with
  | .gfa _ _ _ _ _ w _ => w
  | _ => false

/-- A destination's answers are all here: the command ends, with the status of an access that failed. -/
def deliverDone (c : Cmd) (s : State) : State :=
  match (c.subs.filter writesPiece).findSome? fun x => match x.answer with
    | some (.gfaDone _ _ st _) => if st = 0 then none else some (Status.ofCode st.toNat)
    | _ => none with
  | some st => finish c st 0 s
  | none => if (c.subs.filter writesPiece).all fun x => x.answer.isSome then finish c c.status c.result.toNat s else s

/-- A DMA write to a destination fails (R314): the command completes with ST_ACCESS_VIOLATION, and its bytes are not posted
(R340). -/
def destFailed (c : Cmd) (s : State) : State :=
  let k := 12 * c.part + resPcieOut
  let s1 : State := if c.metered ∧ !staging s c then
      { s with tap := { s.tap with acc := tset s.tap.acc k (tgetD s.tap.acc k 0 - c.wrote) } } else s
  setCmd { c with status := .accessViolation, result := 0, wrote := 0 } s1

end Sys2Proof.Machine
end

