-- ==== Sys2Proof/Machine/Rings.lean ====
section
/-! DEFINITION. Submission and completion rings (R315 to R328, R338 to R340): doorbells, fetching, acceptance by deficit
round-robin, the header checks, completions, interrupts and the rebuild after a reset. -/

namespace Sys2Proof.Machine

open Sys2Proof

/-! ## Configuration of a ring (R315) -/

/-- The active configuration of a ring. -/
structure RingCfg where
  sqBase : Nat
  cqBase : Nat
  recBase : Nat
  log2 : Nat
  en : Bool
  resume : Bool
  qunits : Nat
  vec : Nat
  svc : Nat
  coalCount : Nat
  coalUs : Nat
  deriving DecidableEq, Repr

/-- Read a ring's record from a bank of words. -/
def ringCfgOf (bank : Nat → Word) (ring : Nat) : RingCfg :=
  let b := bankBytes bank (0x110000 + 0x40 * ring) 10
  { sqBase := fld b 0 8, cqBase := fld b 8 8, recBase := fld b 16 8, log2 := fld b 24 1, en := bit (fld b 26 1) 0,
    resume := bit (fld b 26 1) 1, qunits := fld b 28 2, vec := fld b 30 2, svc := fld b 32 4, coalCount := fld b 36 2,
    coalUs := fld b 38 2 }

/-- A ring's configuration in force. The management ring has 256 slots and takes part as an owner ring (R431). -/
def ringCfg (s : State) (ring : Nat) : RingCfg :=
  if ring = mgmtRing then
    { sqBase := 0, cqBase := 0, recBase := 0, log2 := 8, en := true, resume := false, qunits := 256, vec := 0, svc := 0,
      coalCount := 0, coalUs := 0 }
  else ringCfgOf (actW s) ring

/-- A ring's running state. -/
def getRing (s : State) (ring : Nat) : Ring := tgetD s.host.rings ring {}

/-- Set a ring's running state. -/
def setRing (ring : Nat) (r : Ring) (s : State) : State := { s with host := { s.host with rings := tset s.host.rings ring r } }

/-- Clear EN of a ring in the active bank. -/
def clearEn (ring : Nat) (s : State) : State :=
  let o := 0x110018 + 0x40 * ring
  setAct o (BitVec.ofNat 32 (putBits (actW s o).toNat 16 1 0)) s

/-- The partition that a ring counts for in acceptance: 64 for the owner rings and the management ring (R324). -/
def drrPart (s : State) (ring : Nat) : Nat := if ownerRing s ring then 64 else ringAssign s ring % 64

/-- Weight of a partition in acceptance (R324). -/
def drrWeight (s : State) (p : Nat) : Nat := if p = 64 then 16 else actBits s (0x100100 + 4 * p) 0 8

/-- The event of R319 and R339 to the function of a ring. -/
def fnEvent (s : State) (fn : Nat) (cls code : Nat) : Event :=
  { cls := cls, code := code, part := if fn = 0 then none else some (fn - 1), time := now s }

/-! ## Fetching descriptors -/

/-- Start to read the next descriptor of an enabled ring, if one is there and none is being read (R320). -/
def startFetch (ring : Nat) (s : State) : State :=
  let r := getRing s ring
  let c := ringCfg s ring
  if ring ≠ mgmtRing ∧ c.en ∧ r.fetch = .idle ∧ serialLt r.accepted r.sqTail ∧ !r.fault then
    emit (.dmaRead (ringFn s ring) (c.sqBase + 64 * (r.accepted.toNat % 2 ^ c.log2)) 64 (.desc ring))
      (setRing ring { r with fetch := .reading } s)
  else s

/-- The next descriptor of a ring, or the status with which its fetch failed. -/
def nextDesc (s : State) (ring : Nat) : Option (Except Status (List Byte)) :=
  if ring = mgmtRing then (s.mgmt.ringDescs.head?).map fun (_, d) => .ok d
  else match (getRing s ring).fetch with
    | .here d => some (.ok d)
    | .failed st => some (.error st)
    | _ => none

/-! ## Doorbells (R319, R339) -/

/-- The ring of a doorbell page, if the page has one. -/
def pageRing (s : State) : DbPage → Option Nat
  | .pf n => if n < 4096 ∧ ownerRing s n then some n else none
  | .vf v j => if 1 ≤ v ∧ v ≤ 64 ∧ j < 64 then (partRings s (v - 1))[j]? else none

/-- An ignored doorbell value: counted, and an event to the function. -/
def badDoorbell (fn : Nat) (s : State) : State := post (fnEvent s fn 7 4) (cntAdd 0x100C18 1 s)

/-- A doorbell value is taken if it does not move backwards and does not lie more than 2^SIZE_LOG2 beyond COMPLETED (R319). -/
def doorbellOk (old completed v : BitVec 32) (log2 : Nat) : Bool :=
  serialLe old v && !(serialLt completed v && decide (2 ^ log2 < ahead completed v))

/-- A doorbell write to a ring. -/
def ringDoorbell (pg : DbPage) (v : BitVec 32) (tail : Bool) (s : State) : State :=
  if !serving s then s
  else match pageRing s pg with
    | none => s
    | some ring =>
      let r := getRing s ring
      let c := ringCfg s ring
      let old := if tail then r.sqTail else r.cqHead
      if !doorbellOk old r.completed v c.log2 then badDoorbell (ringFn s ring) s
      else startFetch ring (setRing ring (if tail then { r with sqTail := v } else { r with cqHead := v }) s)

/-- DOORBELL_SQ_TAIL (R319). -/
def execDoorbellSqTail (pg : DbPage) (v : BitVec 32) (s : State) : Res := .next (ringDoorbell pg v true s)

/-- DOORBELL_CQ_HEAD (R319). -/
def execDoorbellCqHead (pg : DbPage) (v : BitVec 32) (s : State) : Res := .next (ringDoorbell pg v false s)

/-- DOORBELL_EVENT_RING (R339): the sequence one past the last entry consumed. -/
def execDoorbellEventRing (fn : Nat) (v : BitVec 32) (s : State) : Res :=
  .next (
    if !serving s ∨ 64 < fn then s
    else
      let r := evRing s fn
      if serialLe r.consumed v ∧ serialLe v r.produced then flushEv fn 260 (setEv fn { r with consumed := v } s)
      else badDoorbell fn s)

/-! ## Cost and units (R323, R469) -/

/-- Numbers of the object that a descriptor names, at acceptance. -/
def costInputs (s : State) (d : List Byte) : List Nat :=
  let op := fld d 1 1
  if 0x10 ≤ op ∧ op < 0x1B then
    match tget s.seqs (fld d 8 4 % 2 ^ 20) with
    | some q => [q.len, q.mslot, q.winM1, q.pins.length, q.retrMax, q.state.code]
    | none => []
  else if 0x20 ≤ op ∧ op < 0x24 then
    let n := fld d 8 4 % 64
    (List.range 16).map fun k => (valW s (0x802000 + 0x40 * n + 4 * k)).toNat
  else []

/-- The cost of a descriptor in ns (R469): equal inputs give equal costs; the formula is not published. -/
def descCost (s : State) (d : List Byte) : Nat := Config.cost d (costInputs s d) s.regs.act

/-- Service units of a descriptor on a ring (R323). -/
def descUnits (s : State) (ring : Nat) (d : List Byte) : Nat :=
  let c := ringCfg s ring
  if c.svc = 0 then 1 else max 1 (cdiv (descCost s d) (1000 * c.svc))

/-- Units that acceptance charges: none for a command whose units exceed QUNITS, or whose fetch failed. -/
def chargeOf (s : State) (ring : Nat) : Nat :=
  match nextDesc s ring with
  | some (.ok d) => let u := descUnits s ring d
                    if (ringCfg s ring).qunits < u then 0 else u
  | _ => 0

/-! ## Acceptance (R320, R324) -/

/-- The ring has a descriptor waiting that may be accepted as far as the ring itself goes. A ring whose partition is not ACTIVE
accepts nothing (R370). -/
def ringReady (s : State) (ring : Nat) : Bool :=
  let r := getRing s ring
  let c := ringCfg s ring
  let act := ownerRing s ring || partActive s (ringAssign s ring % 64)
  c.en && act && !r.fault && (nextDesc s ring).isSome && (ring == mgmtRing || serialLt r.accepted r.sqTail)
    && decide (chargeOf s ring + r.used ≤ c.qunits)

/-- The rings with a descriptor waiting, ascending. -/
def readyRings (s : State) : List Nat :=
  ((s.host.rings.map (·.1)).filter fun n => n != mgmtRing && ringReady s n) ++ if ringReady s mgmtRing then [mgmtRing] else []

/-- The next ring in turn after `last` among rings in ascending order. -/
def nextInTurn (last : Nat) (rs : List Nat) : Option Nat :=
  match rs.find? fun r => last < r with
  | some r => some r
  | none => rs.head?

/-- One pass of R324 over the partitions: the ring whose descriptor is accepted next, and the round-robin state after. -/
def drrLoop (weight : Nat → Nat) (units part : Nat → Nat) (ready : List Nat) : Nat → Drr → Option (Nat × Drr)
  | 0, _ => none
  | fuel + 1, d =>
    let mine := ready.filter fun r => part r == d.cur
    let turn := nextInTurn (tgetD d.lastRing d.cur 4097) mine
    let move (d : Drr) : Drr :=
      let p := (d.cur + 1) % 65
      let has := ready.any fun r => part r == p
      { d with cur := p, serving := has && weight p != 0,
               deficit := if has && weight p != 0 then tset d.deficit p (tgetD d.deficit p 0 + weight p) else tset d.deficit p 0 }
    match d.serving, turn with
    | true, some r =>
      if units r ≤ tgetD d.deficit d.cur 0 then
        some (r, { d with deficit := tset d.deficit d.cur (tgetD d.deficit d.cur 0 - units r), lastRing := tset d.lastRing d.cur r })
      else drrLoop weight units part ready fuel (move d)
    | true, none => drrLoop weight units part ready fuel (move { d with deficit := tset d.deficit d.cur 0 })
    | false, _ => drrLoop weight units part ready fuel (move d)

/-- The ring that wins acceptance (R324). Partitions of weight 0 are offered it only when no other waits. -/
def drrPick (s : State) : Option (Nat × Drr) :=
  let ready := readyRings s
  let heavy := ready.filter fun r => drrWeight s (drrPart s r) != 0
  if heavy.isEmpty then
    let parts := (List.range 65).filter fun p => ready.any fun r => drrPart s r == p
    match nextInTurn s.host.drr.cur parts with
    | none => none
    | some p =>
      (nextInTurn (tgetD s.host.drr.lastRing p 4097) (ready.filter fun r => drrPart s r == p)).map fun r =>
        (r, { s.host.drr with cur := p, serving := false, lastRing := tset s.host.drr.lastRing p r })
  else drrLoop (drrWeight s) (chargeOf s) (drrPart s) heavy 300000 s.host.drr

/-- The opcodes of R322. -/
def knownOp (op : Nat) : Bool :=
  [0x10, 0x11, 0x18, 0x19, 0x1A, 0x20, 0x21, 0x22, 0x23, 0x30, 0x31, 0x32, 0x40, 0x41, 0x50, 0x60, 0x61, 0x62].contains op

/-- Opcodes posted on owner rings only (R322). -/
def ownerOp (op : Nat) : Bool := [0x40, 0x41, 0x50, 0x62].contains op

/-- The master that posts on an owner ring: the PF, or the submitter on the management ring. -/
def ringMaster (s : State) (ring : Nat) : Nat :=
  if ring = mgmtRing then ((s.mgmt.ringDescs.head?).map (·.1)).getD 0 else 0

/-- The header checks at acceptance, in order: version, opcode, ring, ring sequence, partition (R24, R322, R318). -/
def headerStatus (s : State) (ring : Nat) (seq : BitVec 32) (d : List Byte) : Status :=
  let op := fld d 1 1
  let own := ownerRing s ring
  let dom := [0x40, 0x41, 0x50].contains op || (op == 0x60 && own)
  firstBad [
    failIf (fld d 0 1 != 2) .version,
    failIf (!knownOp op) .illegalValue,
    failIf (ownerOp op && !own) .notOwner,
    failIf (own && !ownerIs s (ringMaster s ring)) .notOwner,
    failIf (fld d 4 4 != seq.toNat) .illegalValue,
    failIf (fld d 2 2 &&& 0xFEC0 != 0) .illegalValue,
    failIf (!own && fld d 2 2 % 64 != ringAssign s ring % 64) .accessViolation,
    failIf (dom && fld d 2 2 % 64 != 0) .illegalValue]

/-- The ring record in host memory (R317). -/
def recordBytes (r : Ring) : List Byte :=
  leBytes 4 r.accepted.toNat ++ leBytes 4 r.completed.toNat ++ leBytes 4 r.resets.toNat ++ zeros 52

/-- Write the ring record. The management ring keeps its own in retained SRAM (R431). -/
def writeRecord (ring : Nat) (s : State) : State :=
  if ring = mgmtRing then s
  else emit (.dmaWrite (ringFn s ring) (ringCfg s ring).recBase (recordBytes (getRing s ring))) s

/-- A new command of a ring with its header checked. -/
def newCmd (s : State) (ring : Nat) (seq : BitVec 32) (d : Except Status (List Byte)) (replayed : Bool) : Cmd :=
  match d with
  | .error st => { ring := ring, rseq := seq, desc := zeros 64, acceptT := now s, phase := .finished, status := st, replayed := replayed }
  | .ok b =>
    let u := descUnits s ring b
    let tooBig := decide ((ringCfg s ring).qunits < u)
    let st := firstBad [headerStatus s ring seq b, failIf tooBig .illegalCombination]
    { ring := ring, rseq := seq, master := ringMaster s ring, desc := slice b 0 64, units := if tooBig then 0 else u, acceptT := now s,
      phase := if st = .ok then .accepted else .finished, status := st, replayed := replayed, metered := !replayed }

/-- Accept the next descriptor of a ring: it gets its command, its units are charged, ACCEPTED moves on (R317, R320). -/
def acceptNext (ring : Nat) (s : State) : State :=
  match nextDesc s ring with
  | none => s
  | some d =>
    let r := getRing s ring
    let c := newCmd s ring r.accepted d false
    let s1 := setRing ring { r with accepted := r.accepted + 1, used := r.used + c.units, running := true, fetch := .idle, last := none } s
    let s2 := if ring = mgmtRing then { s1 with mgmt := { s1.mgmt with ringDescs := s1.mgmt.ringDescs.tail } } else s1
    let s3 := meterRing c resPcieOut (if ring = mgmtRing then 0 else 64) (writeRecord ring (setCmd c s2))
    startFetch ring (cntAdd 0x100C00 1 s3)

/-- DESCRIPTOR_ACCEPT (R320, R324): the ring that wins acceptance gives its next descriptor. -/
def execDescriptorAccept (ring : Nat) (s : State) : Res :=
  .next (
    if !serving s then s
    else match drrPick s with
      | some (r, d) => if r = ring then acceptNext ring { s with host := { s.host with drr := d } } else s
      | none => s)

/-! ## Admission -/

/-- `cause` of a WAIT that expired: the commands behind it wait until its completion is posted (R287). -/
def waitExpired : Nat := 255

/-- An earlier WAIT or MAP_UPDATE of the ring is unfinished, or an expired WAIT is not yet posted (R286, R287, R301). -/
def fenced (s : State) (c : Cmd) : Bool :=
  tany s.cmds fun _ e => e.ring == c.ring && serialLt e.rseq c.rseq && (e.op == 0x32 || e.op == 0x50)
    && (e.phase != .finished || e.cause == waitExpired)

/-- Metered work (R411): a command that names a partition, but for SEAL, WAIT, KEY_IMPORT, ATTEST and RELEASE. -/
def meteredWork (c : Cmd) : Bool :=
  [0x10, 0x11, 0x18, 0x1A, 0x20, 0x21, 0x22, 0x23, 0x30, 0x31].contains c.op

/-- Admit a command that is accepted and passes `pick`, by `f`; behind a fence it is deferred, and metered work is turned
away while metering is halted (R320, R410). -/
def admitting (ring : Nat) (rseq : BitVec 32) (pick : Cmd → Bool) (f : Cmd → State → State) (s : State) : State :=
  match getCmd s ring rseq with
  | none => s
  | some c =>
    if !serving s ∨ !admissible c ∨ !pick c then s
    else if fenced s c then setCmd { c with phase := .deferred .fence } s
    else if s.tap.halted ∧ meteredWork c then endAtAdmission c .meteringHalt 0 s
    else f c s

/-- A running command that passes `pick`. -/
def runningCmd (s : State) (ring : Nat) (rseq : BitVec 32) : Option Cmd :=
  (getCmd s ring rseq).filter fun c => c.phase == .running

/-! ## Completions (R321, R338) -/

/-- The 32-byte completion entry. -/
def completionBytes (c : Cmd) (log2 t : Nat) : List Byte :=
  leBytes 4 c.rseq.toNat ++ leBytes 2 c.status.code ++ leBytes 1 c.op
    ++ leBytes 1 ((c.rseq.toNat / 2 ^ log2 + 1) % 2 + 2 * b2n c.replayed)
    ++ leBytes 8 c.result.toNat ++ leBytes 8 c.step.toNat ++ leBytes 4 (min ((t - c.acceptT) / 1000) (2 ^ 32 - 1))
    ++ leBytes 2 c.units ++ zeros 2

/-- The command whose completion is next on a ring, if it has finished and a slot is free (R321). -/
def nextCompletion (s : State) (ring : Nat) : Option Cmd :=
  let r := getRing s ring
  let c := ringCfg s ring
  if r.fault ∨ (ring ≠ mgmtRing ∧ ¬ ahead r.cqHead r.completed < 2 ^ c.log2) then none
  else (getCmd s ring r.completed).filter fun x => x.phase == .finished

/-- Signal the vector of a ring and start coalescing afresh. -/
def signalRing (ring : Nat) (s : State) : State :=
  signalVec (ringFn s ring) (ringCfg s ring).vec (setRing ring { getRing s ring with unsig := 0 } s)

/-- Count a written completion toward the interrupt, and signal when it is due (R338). -/
def coalesce (ring : Nat) (notify : Bool) (s : State) : State :=
  if ring = mgmtRing then s else
  let r := getRing s ring
  let c := ringCfg s ring
  let r1 := { r with unsig := r.unsig + 1, firstUnsig := if r.unsig = 0 then now s else r.firstUnsig }
  let s1 := setRing ring r1 s
  if max 1 c.coalCount ≤ r1.unsig ∨ notify then signalRing ring s1 else s1

/-- The completion entry leaves: to the completion ring, or as a COMPLETE message (R321, R431). -/
def emitCompletion (c : Cmd) (s : State) : State :=
  let cfg := ringCfg s c.ring
  let b := completionBytes c cfg.log2 (now s)
  if c.ring = mgmtRing then
    sendMgmt c.master 0x82 0 b { s with mgmt := { s.mgmt with ringComps := tset s.mgmt.ringComps (c.rseq.toNat % 256) b } }
  else emit (.dmaWrite (ringFn s c.ring) (cfg.cqBase + 32 * (c.rseq.toNat % 2 ^ cfg.log2)) b) s

/-- Write a command's completion: entry, record, units, counters, interrupt; the command is gone (R317, R321, R338). Behind a
WAIT that expired, every command accepted so far completes with ST_TIMEOUT (R287). -/
def writeCompletion (c : Cmd) (s : State) : State :=
  let s1 := emitCompletion c s
  let r := getRing s1 c.ring
  let s2 : State := { s1 with cmds := tdel s1.cmds (cmdKey c.ring c.rseq)
                              rma := { s1.rma with oot := s1.rma.oot.filter fun e => e.key != cmdKey c.ring c.rseq } }
  let busy := tany s2.cmds fun _ e => e.ring == c.ring
  let run := (ringCfg s c.ring).en || busy
  let s3 := setRing c.ring { r with completed := r.completed + 1, used := r.used - c.units, running := run, last := some (completionBytes c (ringCfg s c.ring).log2 (now s)) } s2
  let s4 := meterRing c resPcieOut (if c.ring = mgmtRing then 0 else 96) (writeRecord c.ring s3)
  let s4 := if c.cause = waitExpired then
      forEach ((s4.cmds.filter fun (_, e) => e.ring == c.ring && serialLt c.rseq e.rseq && e.phase != .finished).map (·.2))
        (fun e s => finish e .timeout 0 s) s4
    else s4
  let s5 := cntAdd 0x100C08 1 s4
  coalesce c.ring (bit (fld c.desc 2 2) 8) (if c.replayed then cntAdd 0x100C10 1 s5 else s5)

/-- INTERRUPT_COAL_TIMEOUT (R338): COAL_US passes after the first unsignalled completion. -/
def execInterruptCoalTimeout (ring : Nat) (s : State) : Res :=
  .next (
    let r := getRing s ring
    if r.unsig = 0 ∨ ring = mgmtRing ∨ !serving s then s
    else signalRing ring (advanceTo (r.firstUnsig + 1000 * (ringCfg s ring).coalUs) s))

/-- MSIX_VECTOR_UNMASK (R338): the one message held for a pending vector goes out. -/
def execMsixVectorUnmask (fn : Nat) (vec : Nat) (s : State) : Res :=
  .next (
    if 64 < fn ∨ vecCount fn ≤ vec ∨ !mainOn s then s
    else
      let e := tgetD s.host.msix (vecKey fn vec) {}
      let s1 := { s with host := { s.host with msix := tset s.host.msix (vecKey fn vec) { masked := false, pending := false } } }
      if e.pending then emit (.msix fn vec) s1 else s1)

/-! ## Rebuilding a ring after a reset (R327) -/

/-- The record of a ring cannot describe it. -/
def badImage (i : RingImage) (log2 : Nat) : Bool := decide (2 ^ log2 < ahead i.completed i.accepted)

/-- Rebuild one ring from what the node read back: warm re-executes, cold completes with ST_RESET_LOST. A cold reset lost both doorbell
values: until the driver writes them again, nothing is fetched and no completion slot is free. -/
def rebuildRing (warm : Bool) (i : RingImage) (s : State) : State :=
  let c := ringCfg s i.ring
  if badImage i c.log2 then
    post (fnEvent s (ringFn s i.ring) 7 5) (setRing i.ring { getRing s i.ring with fault := true } (clearEn i.ring s))
  else
    let k := min i.present (ahead i.completed i.accepted)
    let comp := i.completed + BitVec.ofNat 32 k
    let n := ahead comp i.accepted
    let r := getRing s i.ring
    let r1 : Ring :=
      { r with
        accepted := i.accepted, completed := comp, resets := i.resets + 1, used := 0
        running := true, resuming := false, fetch := .idle, unsig := 0, known := true, last := none
        sqTail := if r.known then r.sqTail else i.accepted
        cqHead := if r.known then r.cqHead else comp - BitVec.ofNat 32 (2 ^ c.log2) }
    let s1 := setRing i.ring r1 s
    let s2 := writeRecord i.ring s1
    startFetch i.ring (forEach (List.range n) (fun j s =>
      let q := comp + BitVec.ofNat 32 j
      let x := newCmd s i.ring q (.ok (i.descs.getD j [])) true
      let x := if warm then x else { x with phase := .finished, status := .resetLost, units := 0 }
      let r := getRing s i.ring
      setRing i.ring { r with used := r.used + x.units } (setCmd x s)) s2)

end Sys2Proof.Machine
end

