-- ==== Sys2Proof/Machine/Remap.lean ====
section
/-! DEFINITION. Replaceable parts: which physical instance serves a logical number (R351 to R353), kinds that are offline
(R468), and the events of a faulted step (R348, R357). -/

namespace Sys2Proof

/-- Code of a part kind (R237, R347). -/
def PartKind.code : PartKind → Nat
  | .tile => 0
  | .mrg => 1
  | .ldl => 2
  | .pat => 3
  | .cen => 4
  | .gw => 5
  | .port => 6
  | .mcc => 7
  | .seqr => 8
  | .crucible => 16
  | .slice => 17
  | .package => 18
  | .mccComplex => 19
  | .pcie => 20
  | .mss => 21
  | .assay => 22
  | .powerStage => 23
  | .walkerCtx => 255

/-- Kind code of the parts with a remap register. -/
def RemapKind.code : RemapKind → Nat
  | .tile => 0
  | .walker => 5
  | .mrg => 1
  | .ldl => 2
  | .cen => 4
  | .pat => 3
  | .crucible => 16

end Sys2Proof

namespace Sys2Proof.Machine

open Sys2Proof

/-- Logical instances of a kind (R351). -/
def logicals : Nat → Nat
  | 0 => 16
  | 1 => 4
  | 2 => 4
  | 3 => 2
  | 4 => 4
  | 5 => 32
  | _ => 0

/-- Physical instances of a kind (R351). -/
def physicals : Nat → Nat
  | 0 => 18
  | 1 => 4
  | 2 => 4
  | 3 => 2
  | 4 => 4
  | 5 => 36
  | _ => 0

/-- Where a kind's PHYS of logical instance l stands: offset, lowest bit, width (R353). -/
def physField (k l : Nat) : Nat × Nat × Nat :=
  match k with
  | 0 => (0x702000 + 4 * l, 0, 5)
  | 1 => (0x120, 2 * l, 2)
  | 2 => (0x120, 8 + 2 * l, 2)
  | 3 => (0x120, 24 + l, 1)
  | 4 => (0x120, 16 + 2 * l, 2)
  | _ => (0x803100 + 4 * l, 0, 6)

/-- PHYS of logical instance l in a bank. -/
def physOf (bank : Nat → Word) (k l : Nat) : Nat :=
  let (o, lo, w) := physField k l
  bits (bank o).toNat lo w

/-- Failed physical instances of a kind. -/
def failedOf (s : State) (k : Nat) : List Nat := tgetD s.parts.failed k []

/-- The check of a pending set of PHYS values (R353): an instance that failed or is not there; for tiles and walkers, one
that would serve two logical instances where the active set does not hold the pairing. -/
def remapStatus (s : State) (k : Nat) : Status :=
  let ls := List.range (logicals k)
  let new (l : Nat) : Nat := physOf (pendW s) k l
  let old (l : Nat) : Nat := physOf (actW s) k l
  firstBad [
    failIf (ls.any fun l => new l != old l && (decide (physicals k ≤ new l) || (failedOf s k).contains (new l))) .illegalValue,
    failIf ((k == 0 || k == 5) && ls.any fun l => ls.any fun j => decide (l < j) && new l == new j && old l != old j)
      .illegalCombination]

/-- A kind is offline (R468). -/
def offline (s : State) (k : Nat) : Bool := s.parts.offline.contains k

/-- The physical instance that serves a logical number: the one the register names, or the former one until the switch (R353). -/
def servingPhys (s : State) (k l : Nat) : Nat := match s.parts.switching.find? fun (a, b, _) => a == k && b == l with
  | some (_, _, old) => old
  | none => physOf (actW s) k l

/-- Logical numbers that a physical instance serves. -/
def servedBy (s : State) (k p : Nat) : List Nat := (List.range (logicals k)).filter fun l => servingPhys s k l == p

/-- The FAILED and SHARED fields show the parts (R353). -/
def showRemap (s : State) : State :=
  let mask (l : List Nat) : Nat := l.foldl (fun m i => m ||| 2 ^ i) 0
  let shared (s : State) (k l : Nat) : Nat := b2n (decide (1 < (servedBy s k (servingPhys s k l)).length) && !offline s k)
  let s1 := setVal 0x702040 (BitVec.ofNat 32 (mask (failedOf s 0))) s
  let s2 := setVal64 0x803180 (mask (failedOf s 5)) s1
  let s3 := setVal 0x124 (BitVec.ofNat 32 (mask (failedOf s 1) + 16 * mask (failedOf s 2) + 256 * mask (failedOf s 4)
    + 4096 * mask (failedOf s 3))) s2
  let s4 := forEach (List.range 16) (fun l s => setValBits (0x702000 + 4 * l) 5 1 (shared s 0 l) s) s3
  forEach (List.range 32) (fun l s => setValBits (0x803100 + 4 * l) 6 1 (shared s 5 l) s) s4

/-- The name of a shared instance's cause of DEGRADED. -/
def shareCause (k p : Nat) : String := "shared " ++ toString k ++ " " ++ toString p

/-- The node is DEGRADED by every instance of a kind that serves two logical numbers, and by no other (R352). -/
def settleShares (k : Nat) (s : State) : State :=
  forEach (List.range (physicals k)) (fun p s =>
    if 1 < (servedBy s k p).length ∧ !offline s k then degrade (shareCause k p) s else repair (shareCause k p) s) (showRemap s)

/-- An event of a replaceable part (R349). -/
def partEvent (code k l old new cause steps : Nat) : Event :=
  { cls := 3, code := code, kind := k, logical := l, physical := old, detail := .p old new cause steps }

/-- The kinds of a swapped set whose PHYS changed wait until their instances are idle; the former instance serves on (R353). -/
def noteSwitches (old new : Nat → Word) (kinds : List Nat) (s : State) : State :=
  let add := kinds.flatMap fun k => ((List.range (logicals k)).filter fun l => physOf old k l != physOf new k l).map fun l => (k, l, physOf old k l)
  { s with parts := { s.parts with
      switching := s.parts.switching ++ add.filter fun (k, l, _) => !s.parts.switching.any fun (a, b, _) => a == k && b == l } }

/-- No card of the round is issued yet: under a deck, the round has just begun (R329, R353). -/
def atBoundary (s : State) : Bool := !deckRuns s || s.deck.issued.isEmpty

/-- REMAP_SWITCH (R353): both instances are idle, or a round begins at which no card holds them. For a crucible `l` names the die (R160). -/
def execRemapSwitch (k : RemapKind) (l : Nat) (s : State) : Res :=
  .next (
    let idle := (List.range 9).all fun i =>
      let x := (tgetD s.mem.units (9 * l + i) {}).st
      x == .idle || x == .done || x == .fault
    if k = .crucible then
      if (tget s.mem.remapOld l).isSome ∧ mainOn s ∧ idle then { s with mem := { s.mem with remapOld := tdel s.mem.remapOld l } } else s
    else match s.parts.switching.find? fun (a, b, _) => a == k.code && b == l with
      | none => s
      | some (_, _, old) =>
        if !mainOn s ∨ !atBoundary s then s
        else
          let s1 : State := { s with parts := { s.parts with switching := s.parts.switching.filter fun (a, b, _) => !(a == k.code && b == l) } }
          let p := servingPhys s1 k.code l
          let s2 := if 1 < (servedBy s1 k.code p).length then post (partEvent 2 k.code l old p 7 0) s1 else s1
          settleShares k.code s2)

/-- The first kind that a step needs and that is offline. -/
def missingKind (s : State) (ks : List Nat) : Option Nat := ks.find? (offline s)

/-! ## Steps that a fault strikes (R355, R356) -/

/-- Opcodes of the commands whose steps use a kind: tiles; merge engines; ladle, pattern and encoder engines; walkers; crucible units.
Any other part may hold work of any step. -/
def kindOps (k : Nat) : List Nat :=
  match k with
  | 0 => [0x10]
  | 1 => [0x10, 0x20]
  | 2 => [0x18]
  | 3 => [0x18]
  | 4 => [0x18]
  | 5 => [0x11, 0x20, 0x21]
  | 16 => [0x10, 0x11]
  | _ => [0x10, 0x11, 0x18, 0x1A, 0x20, 0x21, 0x22, 0x23]

/-- The running unscheduled steps that hold work on a part that faulted. Which steps an engine works on is the node's own, so it is free
for each (log entry 18). -/
def struckKeys (s : State) (ops : List Nat) : List Nat :=
  let l := (s.cmds.filter fun (_, c) => c.phase == .running && c.ring != deckRing && ops.contains c.op).map (·.1)
  (l.zipIdx.filter fun (_, i) => Config.freeBool (s.freeCnt + i)).map (·.1)

/-- Strike the steps named by their keys. -/
def strikeKeys (ks : List Nat) (cause : Nat) (s : State) : State :=
  forEach ks (fun k s => match tget s.cmds k with
    | some c => strikeCmd c cause s
    | none => s) s

/-- The cards that hold a resource and whose work runs: each fails with CARD_FAULT at its end (R250, R356). A suspended card of loan mode
has its task struck at once (R256). -/
def strikeCards (k inst : Nat) (s : State) : State :=
  match s.deck.active with
  | none => s
  | some d =>
    if s.deck.state ≠ 1 then s
    else
      let on (i : Nat) : Bool := match d.cards[i]? with
        | some c => c.rclass == k && c.rinst == inst
        | none => false
      let now_ := (s.deck.issued.filter fun i => !s.deck.ended.contains i && !s.deck.struck.contains i).filter on
      let tasks := ((s.deck.carried.map (·.1)).filter on).flatMap fun i => s.deck.steps.filterMap fun x => tget x.tasks i
      strikeKeys tasks 16 { s with deck := { s.deck with struck := s.deck.struck ++ now_ } }

/-- A fault strikes what holds work on a part: unscheduled steps by the node's choice, and the cards of the logical numbers named. -/
def strikeSteps (ks : List Nat) (k : Nat) (ls : List Nat) (s : State) : State :=
  forEach ls (strikeCards k) (strikeKeys ks 16 (skipFree (2 ^ 32) s))

end Sys2Proof.Machine
end

