-- ==== Sys2Proof/Machine/Seqs.lean ====
section
/-! DEFINITION. Sequences (R27 to R64): model slots, descriptors, readers, the pages that one commit of a LADLE makes, and
pages on their way between nodes. -/

namespace Sys2Proof.Machine

open Sys2Proof

/-! ## Model slots (R27) -/

/-- Model slot n in a bank. -/
def slotIn (bank : Nat → Word) (n : Nat) : Slot := Slot.ofBytes (bankBytes bank (0x901000 + 0x20 * n) 8)

/-- Model slot n in force. -/
def slotOf (s : State) (n : Nat) : Slot := slotIn (actW s) n

/-- Descriptors that name slot n (REFCOUNT). -/
def slotRefs (s : State) (n : Nat) : Nat := tcount s.seqs fun _ q => q.state != .free && q.mslot == n

/-- REFCOUNT of slot n shows the descriptors. -/
def showRefs (n : Nat) (s : State) : State := setVal (0x901014 + 0x20 * n) (BitVec.ofNat 32 (slotRefs s n)) s

/-! ## Descriptors (R31 to R33) -/

/-- A sequence; one that was never opened is FREE. -/
def getSeq (s : State) (n : Nat) : Seq := tgetD s.seqs n {}

/-- Set a sequence. -/
def setSeq (n : Nat) (q : Seq) (s : State) : State := { s with seqs := tset s.seqs n q }

/-- Change a sequence. -/
def modSeq (n : Nat) (f : Seq → Seq) (s : State) : State := setSeq n (f (getSeq s n)) s

/-- A command that is admitted and unfinished. -/
def isRunning (s : State) (key : Nat) : Bool := match tget s.cmds key with
  | some c => c.phase == .running
  | none => false

/-- The readers of a sequence (R33). -/
def liveReaders (s : State) (q : Seq) : List Reader := q.readers.filter fun r => isRunning s r.key

/-- READ_MIN (R64), where there is a reader. -/
def readMin (s : State) (q : Seq) : Option Nat :=
  match (liveReaders s q).map (·.len) with
  | [] => none
  | a :: l => some (l.foldl min a)

/-- No reader holds a snapshot below x. -/
def noneBelow (s : State) (q : Seq) (x : Nat) : Bool := (liveReaders s q).all fun r => decide (x ≤ r.len)

/-- The command becomes a reader with snapshot length `len`. -/
def addReader (n key len : Nat) (s : State) : State :=
  modSeq n (fun q => { q with readers := liveReaders s q ++ [{ key := key, len := len }] }) s

/-- The LADLE, SEAL and MIGRATE commands of a sequence that are admitted and unfinished, in order (R33). -/
def liveTurns (s : State) (q : Seq) : List Nat := q.ladles.filter (isRunning s)

/-- The command stands at the end of its sequence's order. -/
def addTurn (n key : Nat) (s : State) : State := modSeq n (fun q => { q with ladles := liveTurns s q ++ [key] }) s

/-- It is the command's turn (R33). -/
def myTurn (s : State) (n key : Nat) : Bool := (liveTurns s (getSeq s n)).head? == some key

/-- The sequence ID that a descriptor names. -/
def seqOf (c : Cmd) : Nat := fld c.desc 8 4 % 2 ^ 20

/-- The state check of R32. -/
def stateCheck (q : Seq) : Status := match q.state with
  | .open_ => .ok
  | .frozen => .ok
  | .free => .wrongState
  | _ => .epochStale

/-- The sequence's replica may be read for anything: REPL 2, not degraded (R62). -/
def replicaWhole (q : Seq) : Bool := q.repl == 2 && !q.replDegraded

/-- The 128-byte descriptor (R31). -/
def seqImage (s : State) (n : Nat) : List Byte :=
  let q := getSeq s n
  let a (i : Nat) : Nat := q.addrs.getD i 0
  let pinSel := (List.range 4).foldl (fun m i => m + 2 ^ i * (q.pinSel.getD i 0 % 2)) 0
  leBytes 4 (n + 2 ^ 20 * q.state.code + 2 ^ 24 * b2n q.replDegraded + 2 ^ 25 * b2n q.cru + 2 ^ 26 * b2n q.tablesReady
      + 2 ^ 27 * b2n (decide (0 < q.damaged)))
    ++ leBytes 1 q.mslot ++ leBytes 1 q.part ++ leBytes 1 q.repl ++ leBytes 1 q.winM1 ++ leBytes 8 q.len
    ++ leBytes 8 ((readMin s q).getD (2 ^ 64 - 1)) ++ leBytes 8 (a 0) ++ leBytes 4 q.dirSize
    ++ leBytes 2 q.pins.length ++ leBytes 2 q.pinMax ++ leBytes 8 (a 1) ++ leBytes 1 pinSel ++ leBytes 1 q.retrMax
    ++ leBytes 2 q.selInterval ++ leBytes 4 q.selLast.toNat ++ leBytes 8 (a 2) ++ leBytes 8 (a 3) ++ leBytes 8 (a 4)
    ++ leBytes 8 (a 5) ++ leBytes 2 q.peerNode ++ leBytes 2 q.peerConn
    ++ leBytes 4 (q.peerSeq % 2 ^ 20 + 2 ^ 20 * (q.peerConn / 65536 % 16))
    ++ (List.range 8).flatMap (fun i => leBytes 2 (q.shards.getD i 0xFFFF))
    ++ leBytes 4 q.damaged ++ leBytes 2 q.mapEpoch.toNat ++ leBytes 2 q.gen.toNat ++ leBytes 8 q.step.toNat

/-- A sequence is given up: everything but GEN goes back to the pool. -/
def freeSeq (n : Nat) (s : State) : State :=
  let q := getSeq s n
  showRefs q.mslot (setSeq n { gen := q.gen } s)

/-! ## Pages on their way (R38, R66, R93)

A page that travels between nodes is named by its number plus a multiple of 2^26 for its kind: 0 sealed, 1 window, 2 staging,
3 pin master, 4 retained pattern page, 5 table record. -/

/-- The number of a travelling page. -/
def travelNo (kind page : Nat) : Nat := kind * 2 ^ 26 + page

/-- A RAW16 page as bytes: the written positions of the K plane, then of the V plane. -/
def rawBytes (r : RawPage) : List Byte := (r.k ++ r.v).flatMap fun row => row.flatMap (leBytes 2)

/-- A RAW16 page from bytes. -/
def rawOfBytes (m : Slot) (b : List Byte) : RawPage :=
  let vals := (chunks 2 b).map leVal
  let rows := chunks m.d vals
  let n := rows.length / m.planes
  { k := rows.take n, v := if m.planes = 2 then rows.drop n else [] }

/-- A travelling page of a sequence, as this node holds it. -/
def travelPage (home : BitVec 16) (homeSeq : Nat) (m : Slot) (q : Seq) (st no : Nat) : Option HeldPage :=
  let x := q.streams.getD st {}
  let page := no % 2 ^ 26
  let put (fmt tver : Nat) (bad : Bool) (b : List Byte) : Option HeldPage :=
    some { home := home, seq := homeSeq, stream := st, page := no, fmt := fmt, tver := tver, damaged := bad, bytes := b
           tableRec := x.table.getD [] }
  match no / 2 ^ 26 with
  | 0 => (tget x.copies page).bind fun c => put c.fmt c.tver (x.badCopies.contains page) (c.bytes ++ (tget x.sums page).getD [])
  | 1 => (tget x.ring (page % (q.winM1 + 2))).bind fun r => if r.page = page then put m.winFmt 0 r.bad r.bytes else none
  | 2 => let r := if page % 2 = 0 then x.stage0 else x.stage1
         put fmtRaw 0 r.bad (rawBytes r)
  | 3 => (tget x.pinMaster page).bind fun r => put fmtRaw 0 r.bad (rawBytes r)
  | 4 => (tget x.retained page).bind fun r => put fmtRaw 0 r.bad (rawBytes r)
  | 5 => if x.table.isSome ∧ !x.tableBad then put fmtRaw 0 false [] else none
  | _ => none

/-- Ask the replica of sequence n for pages, as a sub-request of a command. -/
def askReplica (n : Nat) (pages : List (Nat × Nat)) (c : Cmd) (s : State) : State :=
  let q := getSeq s n
  let m : CallMsg := .fetchPages q.peerSeq pages
  sendCall q.peerConn m (setCmd { c with subs := c.subs ++ [{ node := q.peerNode, conn := q.peerConn, call := m }] } s)

/-- The answer of the replica to a request for these pages, if it was asked: none while it has not come. A lost request counts
as answered with nothing. -/
def replicaAnswer (c : Cmd) (pages : List (Nat × Nat)) : Option (Option (List HeldPage)) :=
  (c.subs.find? fun u => match u.call with
    | .fetchPages _ p => p == pages
    | _ => false).map fun u =>
    match u.answer with
    | some (.pages _ hs) => some hs
    | some _ => some []
    | none => if u.lost then some [] else none

/-- Put pages that a replica gave back into their places: staging, window, retained pages and table records. -/
def healPage (m : Slot) (h : HeldPage) (q : Seq) : Seq :=
  if h.damaged then q else
  let x := q.streams.getD h.stream {}
  let page := h.page % 2 ^ 26
  let x' : Stream := match h.page / 2 ^ 26 with
    | 1 => { x with ring := tmod x.ring (page % (q.winM1 + 2)) fun r => { r with bytes := h.bytes, bad := false } }
    | 2 => if page % 2 = 0 then { x with stage0 := rawOfBytes m h.bytes } else { x with stage1 := rawOfBytes m h.bytes }
    | 4 => { x with retained := tset x.retained page (rawOfBytes m h.bytes) }
    | 5 => { x with table := some h.tableRec, tableBad := false }
    | _ => x
  { q with streams := q.streams.set h.stream x' }

/-! ## One commit of a LADLE (R45 to R54, R59) -/

/-- What a commit counts. -/
structure CommitCounts where
  cast : Nat := 0
  fallback : Nat := 0
  escapes : Nat := 0
  castBytes : Nat := 0
  damaged : Nat := 0
  pages : List (Nat × Nat) := []
  deriving DecidableEq, Repr

/-- Two counts together. -/
def CommitCounts.add (a b : CommitCounts) : CommitCounts :=
  { cast := a.cast + b.cast, fallback := a.fallback + b.fallback, escapes := a.escapes + b.escapes
    castBytes := a.castBytes + b.castBytes, damaged := a.damaged + b.damaged, pages := a.pages ++ b.pages }

/-- What a commit is made of beside the sequence: the model slot, the sequence ID in page headers, its range of positions,
whether pages get REPL, and the step. -/
structure CommitCtx where
  m : Slot
  seq : Nat
  a : Nat
  b : Nat
  pin : Bool
  repl : Bool
  addr : Nat
  deriving DecidableEq, Repr

/-- The staging copy of a page. -/
def Stream.stage (x : Stream) (page : Nat) : RawPage := if page % 2 = 0 then x.stage0 else x.stage1

/-- A source row as it is staged: the key rotated under ROPE 1 (R57). -/
def stagedRow (m : Slot) (pos : Nat) (r : List Nat × List Nat) : List Nat × List Nat :=
  (if m.rope = 1 then rotateB m pos r.1 else r.1, r.2)

/-- Stage the positions of one stream, and keep them in the retained pattern page (R45). -/
def stageRows (k : CommitCtx) (tables : Bool) (rows : List (List Nat × List Nat)) (x : Stream) : Stream :=
  let page := k.a / 64
  let i := k.a % 64
  let ks := rows.map (·.1)
  let vs := rows.map (·.2)
  let x1 := if page % 2 = 0 then { x with stage0 := x.stage0.write i ks vs } else { x with stage1 := x.stage1.write i ks vs }
  if k.m.retFmt = fmtCast ∧ !tables ∧ page < k.m.patternN then
    { x1 with retained := tset x1.retained page ((tgetD x1.retained page {}).write i ks vs) }
  else x1

/-- The pin pages that `n` new pins after `k0` touch. -/
def pinPages (k0 n : Nat) : List Nat := if n = 0 then [] else (List.range 4).filter fun j => decide (k0 / 64 ≤ j) && decide (j ≤ (k0 + n - 1) / 64)

/-- Add pins to one stream: masters, then the copies that PIN_SEL does not select (R47, R48). -/
def pinRows (k : CommitCtx) (st k0 : Nat) (sel : List Nat) (rows : List (List Nat × List Nat)) (x : Stream) : Stream :=
  let js := pinPages k0 rows.length
  js.foldl (fun x j =>
    let lo := max k0 (64 * j)
    let part := (rows.drop (lo - k0)).take (64 * (j + 1) - lo)
    let master := (tgetD x.pinMaster j {}).write (lo - 64 * j) (part.map (·.1)) (part.map (·.2))
    let copy := packPin k.m st k.seq j master
    let x1 := { x with pinMaster := tset x.pinMaster j master, pinBad := x.pinBad.filter (· != j) }
    if sel.getD j 0 = 0 then { x1 with pinB := tset x1.pinB j copy } else { x1 with pinA := tset x1.pinA j copy }) x

/-- LEN of a page in 64-byte units. -/
def len64 (n : Nat) : Nat := n / 64

/-- Count a page that a cast encoder wrote (R127, R128). -/
def castCounts (m : Slot) (t : CastTable) (r : RawPage) (c : Sealed) : CommitCounts :=
  if c.fmt = fmtCast then { cast := 1, escapes := castEscapes m t r, castBytes := c.bytes.length }
  else { fallback := 1, castBytes := c.bytes.length }

/-- A page that an uncorrectable error has made unreadable: EMPTY with DMG (R53). -/
def damagePde (st page : Nat) (x : Stream) : Stream × CommitCounts :=
  let d := tgetD x.pdes page {}
  if d.dmg then (x, {})
  else
    let e : Pde := { d with fmt := fmtEmpty, dmg := true, cru := false, len := 0, addr := 0, tver := 0 }
    ({ x with pdes := tset x.pdes page e, copies := tdel x.copies page, sums := tdel x.sums page },
      { damaged := 1, pages := [(st, page)] })

/-- Page q of a stream is full: its ring slot, its summary and its sealed copy (R43, R49, R53). Without tables a CAST stream
prepares no sealed copy yet (R51). -/
def fillPage (k : CommitCtx) (q : Seq) (st : Nat) (cruSlot : Bool) (x : Stream) : Stream × CommitCounts :=
  let page := k.b / 64 - 1
  let r := x.stage page
  let slot := page % (q.winM1 + 2)
  let win := packPage k.m k.m.winFmt page st k.seq r
  let x1 := { x with
    ring := tset x.ring slot { page := page, bytes := win, cru := cruSlot, bad := r.bad }
    pdes := tset x.pdes page { fmt := k.m.winFmt, cru := cruSlot, addr := k.addr + slot, len := len64 win.length } }
  if r.bad then damagePde st page x1
  else
    let x2 := { x1 with sums := tset x1.sums page (summaryOf k.m.d r.k) }
    if k.m.retFmt = fmtCast then
      if !q.tablesReady then (x2, {})
      else match (if x2.tableBad then none else x2.table.bind (readTable k.m.planes)) with
        | none => damagePde st page x2
        | some t =>
          let c := castPage k.m t page r
          ({ x2 with copies := tset x2.copies page c }, castCounts k.m t r c)
    else
      ({ x2 with copies := tset x2.copies page { fmt := k.m.retFmt, tver := 0, bytes := packPage k.m k.m.retFmt page st k.seq r } }, {})

/-- Name a sealed copy in the PDE (R50). -/
def sealPde (k : CommitCtx) (page : Nat) (c : Sealed) (x : Stream) : Stream :=
  let e : Pde :=
    { fmt := c.fmt, sealed_ := true, sumv := (tget x.sums page).isSome, repl := k.repl, addr := k.addr + page
      len := len64 c.bytes.length, tver := c.tver }
  { x with pdes := tset x.pdes page e }

/-- Page `page` leaves the window (R50, R51): its PDE names the sealed copy, or a bit copy of the window page where no table
is built yet. -/
def leaveWindow (k : CommitCtx) (q : Seq) (st page : Nat) (x : Stream) : Stream × CommitCounts :=
  let d := tgetD x.pdes page {}
  if d.dmg then ({ x with pdes := tset x.pdes page { d with sealed_ := true, cru := false } }, {})
  else match tget x.copies page with
    | some c => (sealPde k page c x, {})
    | none => match tget x.ring (page % (q.winM1 + 2)) with
      | some r =>
        if r.bad then damagePde st page x
        else
          let c : Sealed := { fmt := k.m.winFmt, tver := 0, bytes := r.bytes }
          (sealPde k page c { x with copies := tset x.copies page c }, {})
      | none => (x, {})

/-- The pattern pass of one stream (R51, R113 to R115): its table, then the cast copies of pages 0 to PATTERN_N - 1. A page
that has left the window gets its cast copy in place of the bit copy. -/
def patternStream (k : CommitCtx) (q : Seq) (st : Nat) (x : Stream) : Stream × CommitCounts :=
  let good := ((List.range k.m.patternN).filterMap fun p => tget x.retained p).filter fun r => !r.bad
  let t := patternPass k.m k.seq st q.tver good
  let x0 := { x with table := some t.bytes, tableBad := false }
  let (x1, n) := (List.range k.m.patternN).foldl (fun (x, n) p =>
    if (tgetD x.pdes p {}).dmg then (x, n)
    else
      let r := tgetD x.retained p {}
      if r.bad then
        let (x', n') := damagePde st p x
        (x', n.add n')
      else
        let c := castPage k.m t p r
        let x' := { x with copies := tset x.copies p c }
        ((if (tgetD x.pdes p {}).sealed_ then sealPde k p c x' else x'), n.add (castCounts k.m t r c)))
    (x0, ({} : CommitCounts))
  ({ x1 with retained := [] }, n)

/-- One stream through a commit. -/
def commitStream (k : CommitCtx) (q : Seq) (st : Nat) (cruSlot : Bool) (rows : List (List Nat × List Nat)) (x : Stream) :
    Stream × CommitCounts :=
  let staged := rows.zipIdx.map fun (r, i) => stagedRow k.m (k.a + i) r
  let x1 := stageRows k q.tablesReady staged x
  let x2 := if k.pin then pinRows k st q.pins.length q.pinSel staged x1 else x1
  if k.b % 64 ≠ 0 then (x2, {})
  else
    let (x3, n3) := fillPage k q st cruSlot x2
    let pat := k.m.retFmt == fmtCast && !q.tablesReady && k.b == 64 * k.m.patternN
    let (x4, n4) := if pat then patternStream k q st x3 else (x3, {})
    let page := k.b / 64 - 1
    let (x5, n5) := if q.winM1 + 1 ≤ page then leaveWindow k q st (page - (q.winM1 + 1)) x4 else (x4, {})
    (x5, n3.add (n4.add n5))

/-- Every stream through a commit. -/
def commitStreams (k : CommitCtx) (q : Seq) (cruSlot : Nat → Bool) (rows : List (List (List Nat × List Nat))) : List Stream × CommitCounts :=
  q.streams.zipIdx.foldl (fun (l, n) (x, st) =>
    let (x', n') := commitStream k q st (cruSlot st) (rows.getD st []) x
    (l ++ [x'], n.add n')) ([], {})

/-- The slot of a stream lies in the crucible region (R54, R61): the node's own choice at the opening. -/
def cruSlotOf (q : Seq) (st page : Nat) : Bool :=
  q.cru && Config.allocFits (q.slotUse + (q.winM1 + 2) * st + page % (q.winM1 + 2)) q.part 1

/-- Directory growth when a commit reaches page `b / 64` (R34). -/
def growDir (b : Nat) (q : Seq) : Seq :=
  let need := cdiv b 32768
  if need ≤ q.dirChunks.length then q
  else
    { q with dirChunks := q.dirChunks ++ List.replicate (need - q.dirChunks.length) 0
             dirSize := if q.dirSize < need then 2 * q.dirSize else q.dirSize }

/-- A commit that needs an allocation: a new chunk, or sealed copies (R61). -/
def commitAllocates (q : Seq) (b : Nat) : Bool := b % 64 == 0 || decide (q.dirChunks.length < cdiv b 32768)

/-- Count a commit's damage: the sequence's DAMAGED_PAGES, and an event for each page (R31, R53). -/
def damageEvents (n : Nat) (part : Nat) (pages : List (Nat × Nat)) (s : State) : State :=
  forEach pages (fun (st, p) s =>
    post { cls := 1, code := 1, part := some part, kind := 0xFF, detail := .l n st 0 p 0 } s) s

/-- The commit itself (R59): LEN from a to b with everything that goes with it; what it counts is the answer. -/
def commitSeq (n a b : Nat) (pin : Bool) (step : BitVec 64) (rows : List (List (List Nat × List Nat))) (s : State) : CommitCounts × State :=
  let q := getSeq s n
  let k : CommitCtx := { m := slotOf s q.mslot, seq := q.hdr, a := a, b := b, pin := pin,
                         repl := replicaWhole q, addr := Config.allocAddr s.freeCnt 64 1 }
  let (xs, c) := commitStreams k q (fun st => cruSlotOf q st (a / 64)) rows
  let js := if pin then pinPages q.pins.length (b - a) else []
  let pat := k.m.retFmt == fmtCast && !q.tablesReady && b == 64 * k.m.patternN
  let q1 := growDir b
    { q with
      streams := xs, len := b, tablesReady := q.tablesReady || pat, damaged := q.damaged + c.damaged
      pins := if pin then q.pins ++ (List.range (b - a)).map (a + ·) else q.pins
      pinSel := (List.range 4).map fun j => if js.contains j then 1 - q.pinSel.getD j 0 else q.pinSel.getD j 0
      flipLen := (List.range 4).map fun j => if js.contains j then b else q.flipLen.getD j 0
      selLast := q.selNew.getD q.selLast, selNew := none, step := step }
  let s1 := damageEvents n q.part c.pages (setSeq n q1 (stepFree s))
  (c, cntAdd 0x900120 c.escapes (cntAdd 0x900118 c.fallback (cntAdd 0x900110 c.cast s1)))

/-- Bytes of `n` positions of every stream (R57, R404). -/
def posBytes (m : Slot) (n : Nat) : Nat := 2 * m.d * m.planes * m.streams * n

/-- No reader of the sequence stands in the way of a commit from a to b (R46, R48). -/
def commitFree (s : State) (q : Seq) (a b : Nat) (pin : Bool) : Bool :=
  let page := a / 64
  ((liveReaders s q).all fun r => !(decide (64 * page < r.len + 128) && decide (r.len + 64 < 64 * page)))
    && (b % 64 != 0 || noneBelow s q (64 * page))
    && (!pin || (pinPages q.pins.length (b - a)).all fun j => noneBelow s q (q.flipLen.getD j 0))

/-- The unreadable pages that a commit from a to b reads (R53, R115): staging when the page fills, retained pages at the
pattern pass, the window page that is sealed as a bit copy, and tables. -/
def commitReads (m : Slot) (q : Seq) (b : Nat) : List (Nat × Nat) :=
  if b % 64 ≠ 0 then []
  else
    let page := b / 64 - 1
    let pat := m.retFmt == fmtCast && !q.tablesReady && b == 64 * m.patternN
    q.streams.zipIdx.flatMap fun (x, st) =>
      (if (x.stage page).bad then [(st, travelNo 2 page)] else [])
        ++ (if pat then ((List.range m.patternN).filter fun p => (tgetD x.retained p {}).bad).map fun p => (st, travelNo 4 p) else [])
        ++ (if q.tablesReady ∧ x.tableBad then [(st, travelNo 5 0)] else [])
        ++ (if q.winM1 + 1 ≤ page ∧ m.retFmt = fmtCast ∧ !q.tablesReady ∧ !pat
              ∧ (tgetD x.ring ((page - (q.winM1 + 1)) % (q.winM1 + 2)) { page := 0, bytes := [] }).bad
            then [(st, travelNo 1 (page - (q.winM1 + 1)))] else [])

end Sys2Proof.Machine
end

