-- ==== Sys2Proof/Machine/Ladle.lean ====
section
/-! DEFINITION. LADLE and SEAL (R56 to R65). -/

namespace Sys2Proof.Machine

open Sys2Proof

/-! ## Fields (R56) -/

/-- Bit i of the SEQ word: 20 OPEN, 21 PIN, 22 LAYOUT. -/
def ladleBit (c : Cmd) (i : Nat) : Bool := bit (fld c.desc 8 4) i
/-- COUNT. -/
def ladleN (c : Cmd) : Nat := fld c.desc 12 4
/-- EXPECT. -/
def ladleP (c : Cmd) : Nat := fld c.desc 16 8
/-- SRC. -/
def ladleSrc (c : Cmd) : Nat := fld c.desc 24 8

/-- Reserved bits and ranges of the descriptor (R56). -/
def ladleFieldsOk (s : State) (c : Cmd) : Bool :=
  let d := c.desc
  let ms := fld d 32 1
  decide (fld d 8 4 < 2 ^ 23) && decide (1 ≤ ladleN c) && decide (ladleN c ≤ 65536) && allZero (slice d 52 12)
    && (if ladleBit c 20 then
          decide (ms < 64) && (slotOf s ms).valid && (fld d 34 1 == 1 || fld d 34 1 == 2) && decide (fld d 35 1 ≤ 64)
            && decide (fld d 36 2 ≤ 256) && decide (fld d 38 2 ≤ 4096) && fld d 42 2 == 0 && decide (fld d 44 4 < 2 ^ 20)
            && decide (fld d 48 4 < 2 ^ 20) && (fld d 34 1 == 2 || fld d 48 4 == 0)
        else allZero (slice d 32 20))

/-- The open fields equal the descriptor's (R58). -/
def openFieldsEqual (c : Cmd) (q : Seq) : Bool :=
  let d := c.desc
  fld d 32 1 == q.mslot && fld d 33 1 == q.winM1 && fld d 34 1 == q.repl && fld d 35 1 == q.retrMax && fld d 36 2 == q.pinMax
    && fld d 38 2 == q.selInterval
    && (q.repl == 1 || (fld d 40 2 == q.peerNode && fld d 44 4 == q.peerSeq && fld d 48 4 == q.peerConn))

/-- The connection may carry a sequence's replication (R62). -/
def peerConnOk (s : State) (part conn node : Nat) : Bool :=
  let x := getConn s conn
  x.state == .open_ && !x.mgmt && x.part == part && x.peerNode.toNat == node

/-- The checks of a LADLE before the table of R58: R31 with MSLOTS, the fields, R32. -/
def ladleStatus (s : State) (c : Cmd) : Status :=
  let q := getSeq s (seqOf c)
  let opens := ladleBit c 20 && q.state == .free
  firstBad [
    failIf (!seqInRange s c.part (seqOf c)) .accessViolation,
    failIf (opens && !bit (partQ s c.part 24) (fld c.desc 32 1)) .accessViolation,
    failIf (!ladleFieldsOk s c) .illegalValue,
    failIf (q.state == .moved || q.state == .replica) .epochStale,
    failIf (q.state == .free && !ladleBit c 20) .wrongState]

/-- What the table of R58 says. Of PIN_COUNT + n only the positions not yet committed count, so that a re-posted LADLE is
idempotent (R62; log entry 29). -/
inductive LadleCase where
  | stop (st : Status)
  | opens
  | appends
  | nothing
  deriving DecidableEq, Repr

/-- The table of R58, in order. -/
def ladleCase (c : Cmd) (q : Seq) : LadleCase :=
  let p := ladleP c
  let n := ladleN c
  let op := ladleBit c 20
  let pin := ladleBit c 21
  if op ∧ q.state = .free then
    if p ≠ 0 then .stop .illegalValue
    else if pin ∧ fld c.desc 36 2 < n then .stop .illegalValue
    else .opens
  else if op ∧ !openFieldsEqual c q then .stop .wrongState
  else if q.state = .frozen then .stop .wrongState
  else if 2 ^ 32 < p + n ∨ (pin ∧ q.pinMax < q.pins.length + (p + n - max p q.len)) then .stop .illegalValue
  else if q.len < p then .stop .wrongState
  else if q.len < p + n then .appends
  else .nothing

/-- Bytes that an opening allocates (R61). -/
def openBytes (m : Slot) (c : Cmd) : Nat :=
  let raw := 2 * 64 * m.d * m.planes
  m.streams * (2 * raw + (fld c.desc 33 1 + 2) * packedSize m.winFmt m.d m.planes + 528
    + cdiv (fld c.desc 36 2) 64 * (raw + 2 * packedSize m.pinFmt m.d m.planes)
    + if m.retFmt = fmtCast then 64 + m.patternN * raw else 0)

/-- What an opening may not combine (R26, R55, R62). -/
def openCombination (s : State) (c : Cmd) : Status :=
  let m := slotOf s (fld c.desc 32 1)
  let node := fld c.desc 40 2
  failIf ((m.winPlace == 1 && bit (partW s c.part 0) 9)
    || (fld c.desc 34 1 == 2 && (!peerConnOk s c.part (fld c.desc 48 4) node || level1Node s node))) .illegalCombination

/-- The descriptor that an opening makes (R31, R58). The node chooses U0, the places of the ring slots and every address. -/
def openSeq (s : State) (c : Cmd) : Seq :=
  let q := getSeq s (seqOf c)
  let m := slotOf s (fld c.desc 32 1)
  let two := fld c.desc 34 1 == 2
  let k := s.freeCnt
  { state := .open_, gen := q.gen + 1, mslot := fld c.desc 32 1, part := c.part, repl := fld c.desc 34 1, winM1 := fld c.desc 33 1
    retrMax := fld c.desc 35 1, pinMax := fld c.desc 36 2, selInterval := fld c.desc 38 2
    peerNode := if two then fld c.desc 40 2 else 0xFFFF, peerSeq := if two then fld c.desc 44 4 else 0
    peerConn := fld c.desc 48 4, mapEpoch := s.rmx.epoch, step := c.step, streams := List.replicate m.streams {}
    cru := m.winPlace == 1 && bits (partQ s c.part 32) 16 16 != 0, u0 := Config.u0 k, slotUse := k + 8
    addrs := (List.range 6).map fun i => Config.allocAddr (k + 1 + i) 64 (openBytes m c)
    dirSize := 64, tver := (q.gen + 1).toNat % 255 + 1, hdr := seqOf c }

/-! ## Reading the source (R57, R59) -/

/-- The address and length of the next piece of the current segment: all of it in position-major layout, one stream of it in
stream-major layout. -/
def ladlePiece (m : Slot) (c : Cmd) (r : LadleRun) : Nat × Nat :=
  let dp := 2 * m.d * m.planes
  let i := r.next - r.p
  if ladleBit c 22 then (ladleSrc c + dp * (r.n * r.rows.length + i), dp * (r.upto - r.next))
  else (ladleSrc c + dp * m.streams * i, dp * m.streams * (r.upto - r.next))

/-- Key and value at value offset `base` of a piece. -/
def kvAt (m : Slot) (b : List Byte) (base : Nat) : List Nat × List Nat :=
  let row (k : Nat) : List Nat := (List.range m.d).map fun ch => fld b (2 * (m.d * (base + k) + ch)) 2
  (row 0, if m.planes = 2 then row 1 else [])

/-- Take a piece into the run: rows by stream and position. -/
def ladleAbsorb (m : Slot) (c : Cmd) (b : List Byte) (r : LadleRun) : LadleRun :=
  let cnt := r.upto - r.next
  if ladleBit c 22 then
    { r with rows := r.rows ++ [(List.range cnt).map fun i => kvAt m b (m.planes * i)] }
  else
    { r with rows := (List.range m.streams).map fun st => (List.range cnt).map fun i => kvAt m b (m.planes * (m.streams * i + st)) }

/-- The segment that starts at L: up to the next page boundary, or to the end. -/
def ladleSegment (l : Nat) (r : LadleRun) : LadleRun :=
  { r with next := l, upto := min (r.p + r.n) ((l / 64 + 1) * 64), rows := [], have_ := false }

/-- The segment's values in position-major order, as they go to the replica. -/
def replValues (r : LadleRun) : List (BitVec 16) :=
  (List.range (r.upto - r.next)).flatMap fun i => r.rows.flatMap fun st =>
    match st[i]? with
    | some (k, v) => (k ++ v).map (BitVec.ofNat 16)
    | none => []

/-- Send the segment to the replica (R62). -/
def sendReplicate (c : Cmd) (r : LadleRun) (s : State) : State :=
  let n := seqOf c
  let q := getSeq s n
  if !replicaWhole q then s
  else
    let m : CallMsg := .replicate
      { seq := q.peerSeq, open_ := r.opening && r.next == 0, pin := ladleBit c 21, mslot := q.mslot, winM1 := q.winM1, retrMax := q.retrMax
        pinMax := q.pinMax, selInterval := q.selInterval, homeSeq := n, tver := q.tver, a := r.next, b := r.upto
        values := replValues r }
    sendCall q.peerConn m (setCmd { c with subs := c.subs ++ [{ node := q.peerNode, conn := q.peerConn, call := m }] } s)

/-- Read the rest of the segment's source. -/
def ladleFetch : Nat → Cmd → LadleRun → State → State
  | 0, _, _, s => s
  | fuel + 1, c, r, s =>
    let m := slotOf s (getSeq s (seqOf c)).mslot
    if m.streams ≤ r.rows.length then
      let r1 := { r with have_ := true }
      let c1 := { c with work := .ladle r1 }
      sendReplicate c1 r1 (setCmd c1 s)
    else
      let (a, len) := ladlePiece m c r
      let c1 := { c with work := .ladle r }
      match startRead c1 a len (setCmd c1 s) with
      | (.now b, s1) => ladleFetch fuel c1 (ladleAbsorb m c b r) s1
      | (.wait, s1) => s1
      | (.fail st, s1) => finish c1 st (getSeq s1 (seqOf c)).len s1

/-- Start on the segment at L. -/
def ladleGo (c : Cmd) (r : LadleRun) (s : State) : State :=
  ladleFetch 4100 c (ladleSegment (getSeq s (seqOf c)).len r) s

/-- A piece of a LADLE's source is here, or cannot be read (R59). -/
def ladleInput (c : Cmd) (g : Got) (s : State) : State :=
  match c.work with
  | .ladle r =>
    if r.have_ then s
    else (match g with
      | .now b => ladleFetch 4100 c (ladleAbsorb (slotOf s (getSeq s (seqOf c)).mslot) c b r) s
      | .fail st => finish c st (getSeq s (seqOf c)).len s
      | .wait => s)
  | _ => s

/-! ## Admission (R58) -/

/-- A LADLE runs: it takes its place in the sequence's order and starts to read. -/
def runLadle (c : Cmd) (opening : Bool) (s : State) : State :=
  let r : LadleRun := { p := ladleP c, n := ladleN c, next := 0, upto := 0, opening := opening }
  let s1 := addTurn (seqOf c) (cmdKey c.ring c.rseq) (admitCmd c (.ladle r) s)
  let c1 := (getCmd s1 c.ring c.rseq).getD c
  ladleGo c1 r (if opening then modSeq (seqOf c) (fun q => { q with step := c1.step }) s1 else s1)

/-- LADLE is admitted (R58). -/
def admitLadle (c : Cmd) (s : State) : State :=
  let n := seqOf c
  let q := getSeq s n
  match ladleStatus s c with
  | .ok =>
    let m := slotOf s (if q.state = .free then fld c.desc 32 1 else q.mslot)
    let addr := checkAddr s c (ladleSrc c) (posBytes m (ladleN c))
    (match ladleCase c q with
    | .stop st => endAtAdmission c st q.len s
    | .nothing => endAtAdmission c .ok q.len s
    | .appends => if addr = .ok then runLadle c false s else endAtAdmission c addr q.len s
    | .opens =>
      match firstBad [addr, openCombination s c] with
      | .ok =>
        if !Config.allocFits s.freeCnt c.part (openBytes m c) then endAtAdmission c .busy 0 (stepFree s)
        else
          let q1 := openSeq s c
          let k := q1.slotUse + (q1.winM1 + 2) * m.streams
          runLadle c true (showRefs q1.mslot (setSeq n q1 { s with freeCnt := k }))
      | st => endAtAdmission c st 0 s)
  | st => endAtAdmission c st 0 s

/-- LADLE (R58). -/
def execLadle (ring : Nat) (rseq : BitVec 32) (s : State) : Res :=
  .next (admitting ring rseq (fun c => c.op == 0x18) admitLadle s)

/-! ## The commits (R59) -/

/-- The part kinds that a commit needs (R468): the ladle engine, an encoder when it casts, a pattern engine. -/
def commitKinds (m : Slot) (q : Seq) (b : Nat) : List Nat :=
  let pat := m.retFmt == fmtCast && !q.tablesReady && b == 64 * m.patternN
  [2] ++ (if b % 64 = 0 ∧ m.retFmt = fmtCast ∧ (q.tablesReady ∨ pat) then [4] else []) ++ if pat then [3] else []

/-- MEMORY/POOL_FULL (R61). -/
def poolFull (n part : Nat) (s : State) : State :=
  post { cls := 1, code := 5, part := some part, status := .busy, detail := .l n 0xFFFF 0 0 0 } s

/-- The commit of the current segment, its counts, and what follows it. -/
def ladleDoCommit (c : Cmd) (r : LadleRun) (s : State) : State :=
  let n := seqOf c
  let m := slotOf s (getSeq s n).mslot
  let (k, s1) := commitSeq n r.next r.upto (ladleBit c 21) c.step r.rows s
  let s2 := meter c c.part resCast k.castBytes (meter c c.part resLadle (posBytes m (r.upto - r.next)) s1)
  if r.p + r.n ≤ r.upto then finish c .ok r.upto s2 else ladleGo c r s2

/-- The sequence has left the state in which a LADLE appends. -/
def ladleEnds (c : Cmd) (q : Seq) (s : State) : State :=
  match stateCheck q with
  | .epochStale => finish c .epochStale 0 s
  | _ => finish c .wrongState q.len s

/-- A LADLE's next commit, where nothing holds it (R46, R48, R53, R59 to R62, R115). A length that moved since the segment was
read sends it back to the source (R59; log entry 30). -/
def ladleStep (c : Cmd) (r : LadleRun) (s : State) : State :=
  let n := seqOf c
  let q := getSeq s n
  let m := slotOf s q.mslot
  if !myTurn s n (cmdKey c.ring c.rseq) then s
  else if q.state ≠ .open_ then ladleEnds c q s
  else if r.p + r.n ≤ q.len then finish c .ok q.len s
  else if !r.have_ then s
  else if q.len ≠ r.next then ladleGo c r s
  else if !commitFree s q r.next r.upto (ladleBit c 21) then s
  else if replicaWhole q ∧ r.acked < r.upto then s
  else match missingKind s (commitKinds m q r.upto) with
    | some k => faultStep c 16 k s
    | none =>
      let bad := commitReads m q r.upto
      let go (s : State) : State :=
        if commitAllocates q r.upto ∧ !Config.allocFits s.freeCnt q.part (posBytes m 64) then
          finish c .busy q.len (poolFull n q.part (stepFree s))
        else ladleDoCommit c r s
      if bad.isEmpty ∨ !replicaWhole q then go s
      else match replicaAnswer c bad with
        | none => askReplica n bad c s
        | some none => s
        | some (some hs) => go (setSeq n (hs.foldl (fun q h => healPage m h q) q) s)

/-- LADLE_COMMIT (R59). -/
def execLadleCommit (ring : Nat) (rseq : BitVec 32) (s : State) : Res :=
  .next (
    match runningCmd s ring rseq with
    | none => s
    | some c => match c.work with
      | .ladle r => if c.faulted ∨ !serving s then s else ladleStep c r s
      | _ => s)

/-! ## SEAL (R65) -/

/-- MODE of a SEAL or MIGRATE. -/
def seqMode (c : Cmd) : Nat := fldBits c.desc 8 4 20 4

/-- Checks 2 to 4 of R65. -/
def sealStatus (s : State) (c : Cmd) : Status :=
  let q := getSeq s (seqOf c)
  firstBad [
    failIf (!seqInRange s c.part (seqOf c)) .accessViolation,
    failIf (decide (2 ^ 24 ≤ fld c.desc 8 4) || fld c.desc 12 4 != 0 || !allZero (slice c.desc 24 40) || decide (2 < seqMode c)) .illegalValue,
    failIf (q.state == .free) .wrongState,
    failIf (seqMode c == 0 && stateCheck q != .ok) .epochStale]

/-- A SEAL that is in order runs by `f`. -/
def admitSeal (f : Cmd → Seq → State → State) (c : Cmd) (s : State) : State :=
  match sealStatus s c with
  | .ok => f c (getSeq s (seqOf c)) s
  | st => endAtAdmission c st 0 s

/-- The command runs and stands in its sequence's order. -/
def admitTurn (c : Cmd) (s : State) : State := addTurn (seqOf c) (cmdKey c.ring c.rseq) (admitCmd c .none s)

/-- A row of one SEAL mode; reserved modes go with FREEZE. -/
def sealRow (ring : Nat) (rseq : BitVec 32) (mode : Nat) (f : Cmd → State → State) (s : State) : Res :=
  .next (admitting ring rseq (fun c => c.op == 0x19 && (seqMode c == mode || (mode == 0 && decide (2 < seqMode c)))) f s)

/-- SEAL FREEZE is admitted. -/
def admitFreeze : Cmd → State → State :=
  admitSeal fun c q s => if q.state = .frozen then endAtAdmission c .ok 0 s else admitTurn c s

/-- SEAL FREE is admitted. -/
def admitFree : Cmd → State → State :=
  admitSeal fun c _ s => modSeq (seqOf c) (fun q => { q with freeAdm := true }) (admitTurn c s)

/-- SEAL READ is admitted once the commands admitted before it for the sequence have taken effect (R33). -/
def admitRead : Cmd → State → State :=
  admitSeal fun c q s =>
    if !(liveTurns s q).isEmpty then setCmd { c with phase := .deferred .nothing } s
    else
      match checkAddr s c (fld c.desc 16 8) 128 with
      | .ok =>
        let s1 := admitCmd c .none s
        deliver ((getCmd s1 c.ring c.rseq).getD c) (fld c.desc 16 8) (seqImage s (seqOf c)) .ok 0 s1
      | st => endAtAdmission c st 0 s

/-- SEAL_FREEZE (R65). -/
def execSealFreeze (ring : Nat) (rseq : BitVec 32) (s : State) : Res := sealRow ring rseq 0 admitFreeze s

/-- SEAL_FREE (R65). -/
def execSealFree (ring : Nat) (rseq : BitVec 32) (s : State) : Res := sealRow ring rseq 1 admitFree s

/-- SEAL_READ (R65). -/
def execSealRead (ring : Nat) (rseq : BitVec 32) (s : State) : Res := sealRow ring rseq 2 admitRead s

/-- The staging copies of a frozen sequence: only the head page's is kept, and the retained pages without tables (R45). -/
def freezeStages (q : Seq) : Seq :=
  let keep0 := q.len % 64 != 0 && q.len / 64 % 2 == 0
  let keep1 := q.len % 64 != 0 && q.len / 64 % 2 == 1
  { q with streams := q.streams.map fun x => { x with stage0 := if keep0 then x.stage0 else {}, stage1 := if keep1 then x.stage1 else {} } }

/-- SEAL_FREEZE_EFFECT (R65): the earlier LADLEs have completed. -/
def execSealFreezeEffect (ring : Nat) (rseq : BitVec 32) (s : State) : Res :=
  .next (
    match runningCmd s ring rseq with
    | none => s
    | some c =>
      let n := seqOf c
      let q := getSeq s n
      if c.op ≠ 0x19 ∨ seqMode c ≠ 0 ∨ !myTurn s n (cmdKey ring rseq) ∨ !serving s then s
      else match stateCheck q with
        | .ok => if q.state = .frozen then finish c .ok 0 s
            else finish c .ok 0 (setSeq n { freezeStages q with state := .frozen, step := c.step } s)
        | st => finish c st 0 s)

/-- SEAL_FREE_EFFECT (R65): no reader is left. With REPL 2 the replica is freed too. -/
def execSealFreeEffect (ring : Nat) (rseq : BitVec 32) (s : State) : Res :=
  .next (
    match runningCmd s ring rseq with
    | none => s
    | some c =>
      let n := seqOf c
      let q := getSeq s n
      if c.op ≠ 0x19 ∨ seqMode c ≠ 1 ∨ !myTurn s n (cmdKey ring rseq) ∨ !(liveReaders s q).isEmpty ∨ !serving s then s
      else if q.state = .free then finish c .wrongState 0 s
      else
        let two := q.repl == 2 && (q.state == .open_ || q.state == .frozen) && peerConnOk s q.part q.peerConn q.peerNode
        finish c .ok 0 (freeSeq n (if two then sendCall q.peerConn (.freeReplica q.peerSeq) s else s)))

end Sys2Proof.Machine
end

