-- ==== Sys2Proof/Machine/Migrate.lean ====
section
/-! DEFINITION. MIGRATE, replicas and demotion (R62, R66 to R68, R264, R362): both ends of a migration and of replication. -/

namespace Sys2Proof.Machine

open Sys2Proof

/-! ## The image of a sequence

The spec leaves the layout of a CALL's payload open (R265). The image is the descriptor of R31, then TVER, the ID in page headers, the pins, the lengths
of the last pin flips, and for each stream its retrieved set and its page directory entries (log entry 31). -/

/-- A page directory entry (R36). -/
def pdeBytes (d : Pde) : List Byte :=
  leBytes 8 (d.fmt % 8 + 2 ^ 3 * b2n d.dmg + 2 ^ 4 * b2n d.cru + 2 ^ 5 * b2n d.sealed_ + 2 ^ 6 * b2n d.sumv + 2 ^ 7 * b2n d.repl
    + 2 ^ 8 * ((if d.remote then d.shard else d.addr) % 2 ^ 35) + 2 ^ 43 * (d.len % 2 ^ 11) + 2 ^ 54 * (d.tver % 256) + 2 ^ 62 * b2n d.remote)

/-- The entry that 8 bytes hold. -/
def pdeOf (v : Nat) : Pde :=
  let r := bit v 62
  { fmt := bits v 0 3, dmg := bit v 3, cru := bit v 4, sealed_ := bit v 5, sumv := bit v 6, repl := bit v 7
    addr := if r then 0 else bits v 8 35, shard := if r then bits v 8 3 else 0, len := bits v 43 11, tver := bits v 54 8, remote := r }

/-- A stream's part of the image. -/
def streamImage (x : Stream) : List Byte :=
  leBytes 1 x.retr.sel ++ leBytes 1 x.retr.copy0.length ++ leBytes 1 x.retr.copy1.length ++ leBytes 4 x.retr.selLen.toNat
    ++ (x.retr.copy0 ++ x.retr.copy1).flatMap (leBytes 4)
    ++ leBytes 4 x.pdes.length ++ x.pdes.flatMap fun (p, d) => leBytes 4 p ++ pdeBytes d

/-- The image, for STATE code `st` at the target. -/
def moveImage (s : State) (n st : Nat) : List Byte :=
  let q := getSeq s n
  let d := seqImage s n
  patch d 0 (leBytes 4 (putBits (fld d 0 4) 20 4 st)) ++ leBytes 1 q.tver ++ leBytes 4 q.hdr ++ q.pins.flatMap (leBytes 4) ++ q.flipLen.flatMap (leBytes 8)
    ++ q.streams.flatMap streamImage

/-- Read the streams of an image. -/
def streamsOf : Nat → List Byte → List Stream
  | 0, _ => []
  | n + 1, b =>
    let c0 := fld b 1 1
    let c1 := fld b 2 1
    let nums (off k : Nat) : List Nat := (List.range k).map fun i => fld b (off + 4 * i) 4
    let o := 7 + 4 * (c0 + c1)
    let k := fld b o 4
    let pdes := (List.range k).foldl (fun t i => tset t (fld b (o + 4 + 12 * i) 4) (pdeOf (fld b (o + 8 + 12 * i) 8))) []
    { retr := { sel := fld b 0 1, copy0 := nums 7 c0, copy1 := nums (7 + 4 * c0) c1, selLen := BitVec.ofNat 32 (fld b 3 4) }
      pdes := pdes } :: streamsOf n (b.drop (o + 4 + 12 * k))

/-- The descriptor of an image, at the node that takes it. -/
def seqOfImage (s : State) (n part : Nat) (old : Seq) (b : List Byte) : Seq :=
  let w := fld b 0 4
  let m := slotOf s (fld b 4 1)
  let pins := fld b 36 2
  let o := 133 + 4 * pins
  let st := match bits w 20 4 with
    | 2 => SeqState.frozen
    | 4 => SeqState.replica
    | _ => SeqState.open_
  let xs := streamsOf m.streams (b.drop (o + 32))
  let two := fld b 6 1 == 2 && st != .replica
  { state := st, replDegraded := bit w 24 || two, cru := bit w 25, tablesReady := bit w 26, mslot := fld b 4 1, part := part
    repl := fld b 6 1, winM1 := fld b 7 1, len := fld b 8 8, pins := (List.range pins).map fun i => fld b (133 + 4 * i) 4
    pinMax := fld b 38 2, pinSel := (List.range 4).map fun i => b2n (bit (fld b 48 1) i)
    flipLen := (List.range 4).map fun i => fld b (o + 8 * i) 8, retrMax := fld b 49 1, selInterval := fld b 50 2
    selLast := BitVec.ofNat 32 (fld b 52 4), addrs := (List.range 6).map fun i => Config.allocAddr (s.freeCnt + i) 64 n
    dirSize := fld b 32 4, dirChunks := List.replicate (cdiv (fld b 8 8) 32768) 0, peerNode := fld b 88 2
    peerConn := fld b 90 2 + 65536 * bits (fld b 92 4) 20 4, peerSeq := fld b 92 4 % 2 ^ 20
    shards := (List.range 8).map fun i => fld b (96 + 2 * i) 2, damaged := fld b 112 4, mapEpoch := s.rmx.epoch
    gen := BitVec.ofNat 16 (fld b 118 2), step := BitVec.ofNat 64 (fld b 120 8), tver := fld b 128 1, hdr := fld b 129 4
    streams := xs.zipIdx.map fun (x, i) => { (old.streams.getD i {}) with retr := x.retr, pdes := x.pdes } }

/-! ## Admission (R66, R67) -/

/-- TARGET, CONN, FIRST, PAGES and TARGET_SEQ. -/
def migTarget (c : Cmd) : Nat := fld c.desc 12 2
def migConn (c : Cmd) : Nat := fld c.desc 16 4 % 2 ^ 20
def migFirst (c : Cmd) : Nat := fld c.desc 20 4
def migPages (c : Cmd) : Nat := fld c.desc 24 4
def migSeq (c : Cmd) : Nat := fld c.desc 28 4 % 2 ^ 20

/-- The SHARD index for a node: its entry, or the first that is free. -/
def shardIdx (q : Seq) (node : Nat) : Option Nat :=
  match q.shards.findIdx? (· == node) with
  | some i => some i
  | none => (List.range 8).find? fun i => q.shards.getD i 0xFFFF == 0xFFFF

/-- The remote pages of a range, with the node that holds each. -/
def remotePages (q : Seq) (first n : Nat) : List (Nat × Nat × Nat) :=
  q.streams.zipIdx.flatMap fun (x, st) =>
    (x.pdes.filter fun (p, d) => d.remote && decide (first ≤ p) && decide (p < first + n)).map fun (p, d) => (st, p, q.shards.getD d.shard 0xFFFF)

/-- Every page of a range of every stream is sealed. -/
def rangeSealed (q : Seq) (first n : Nat) : Bool :=
  first + n ≤ q.len / 64 && q.streams.all fun x =>
    decide (tcount x.pdes (fun p d => d.sealed_ && decide (first ≤ p) && decide (p < first + n)) = n)

/-- The connection of a node for SHARD_IN: CONN toward TARGET, the service connection toward another shard. -/
def shardConn (s : State) (c : Cmd) (q : Seq) (node : Nat) : Option Nat :=
  if node = migTarget c then some (migConn c) else serviceConn s q.part node

/-- What R67 calls a combination. CONN has to satisfy what R62 asks of a replication connection (log entry 32). -/
def migCombination (s : State) (c : Cmd) (q : Seq) : Bool :=
  let t := migTarget c
  let noConn := !peerConnOk s c.part (migConn c) t
  match seqMode c with
  | 0 => level1Node s t || noConn
  | 1 => level1Node s t || noConn || (q.repl == 2 && !q.replDegraded)
  | 2 => level1Node s t || noConn || !rangeSealed q (migFirst c) (migPages c) || (shardIdx q t).isNone
  | 3 => level1Node s t || noConn
      || (remotePages q (migFirst c) (migPages c)).any fun (_, _, node) => (shardConn s c q node).isNone
  | _ => q.state != .replica

/-- The checks of a MIGRATE, in the order of R65's list. -/
def migStatus (s : State) (c : Cmd) : Status :=
  let q := getSeq s (seqOf c)
  firstBad [
    failIf (!seqInRange s c.part (seqOf c)) .accessViolation,
    failIf (decide (2 ^ 24 ≤ fld c.desc 8 4) || fld c.desc 14 2 != 0 || decide (2 ^ 20 ≤ fld c.desc 16 4) || decide (2 ^ 20 ≤ fld c.desc 28 4)
      || !allZero (slice c.desc 32 32) || decide (4 < seqMode c)) .illegalValue,
    failIf (q.state == .free) .wrongState,
    if seqMode c = 4 then .ok else stateCheck q,
    failIf (migCombination s c q) .illegalCombination]

/-- Every page of a sequence that travels with it: sealed pages, the window, staging, pins, retained pages, tables. -/
def allTravel (s : State) (n : Nat) (home : BitVec 16) (seq : Nat) : List HeldPage :=
  let q := getSeq s n
  let m := slotOf s q.mslot
  q.streams.zipIdx.flatMap fun (x, st) =>
    let nos := x.copies.map (fun (p, _) => travelNo 0 p) ++ x.ring.map (fun (_, r) => travelNo 1 r.page)
      ++ [travelNo 2 (q.len / 64), travelNo 2 (q.len / 64 + 1)] ++ x.pinMaster.map (fun (j, _) => travelNo 3 j)
      ++ x.retained.map (fun (p, _) => travelNo 4 p) ++ [travelNo 5 0]
    nos.filterMap fun no => travelPage home seq m q st no

/-- The sealed pages of a range that are here. -/
def rangeTravel (s : State) (n first cnt : Nat) : List HeldPage :=
  let q := getSeq s n
  let m := slotOf s q.mslot
  q.streams.zipIdx.flatMap fun (x, st) =>
    ((x.copies.filter fun (p, _) => decide (first ≤ p) && decide (p < first + cnt)).filterMap fun (p, _) =>
      travelPage (BitVec.ofNat 16 (nodeId s)) n m q st p)

/-- The copy of R66 starts: the pages, and for a new home or a replica the descriptor behind them. -/
def migCopy (c : Cmd) (s : State) : State :=
  let n := seqOf c
  let q := getSeq s n
  let t := migTarget c
  let k := migConn c
  let sub (m : CallMsg) : Sub := { node := t, conn := k, call := m }
  let c1 := { c with work := .migrate { mode := seqMode c, sent := true } }
  match seqMode c with
  | 2 => sendSubs c1 [sub (.migratePages (rangeTravel s n (migFirst c) (migPages c)))] s
  | 3 =>
    let pages := remotePages q (migFirst c) (migPages c)
    let nodes := (pages.map fun (_, _, node) => node).eraseDups
    sendSubs c1 (nodes.filterMap fun node => (shardConn s c q node).map fun k =>
      { node := node, conn := k, call := .fetchPages n ((pages.filter fun (_, _, x) => x == node).map fun (st, p, _) => (st, p)) }) s
  | mode =>
    let st := if mode = 1 then 4 else q.state.code
    let img := moveImage s n st
    let img := if mode = 1 then patch (patch (patch img 88 (leBytes 2 (nodeId s))) 92 (leBytes 4 n)) 6 (leBytes 1 2) else img
    let pages := allTravel s n (BitVec.ofNat 16 t) (migSeq c)
    sendSubs c1 [sub (.migratePages pages), sub (.migrateSeq (migSeq c) img (sumN (pages.map (·.bytes.length)) + img.length))] s

/-- MIGRATE in a mode that copies is admitted: it is a reader, and stands in its sequence's order (R33, R66). -/
def admitMigrate (c : Cmd) (s : State) : State :=
  match migStatus s c with
  | .ok =>
    let n := seqOf c
    let key := cmdKey c.ring c.rseq
    let s1 := addReader n key (getSeq s n).len (addTurn n key (admitCmd c (.migrate { mode := seqMode c }) s))
    let c1 := (getCmd s1 c.ring c.rseq).getD c
    if myTurn s1 n key then migCopy c1 s1 else s1
  | st => endAtAdmission c st 0 s

/-! ## Demotion (R66, R264, R362) -/

/-- A connectionless packet of class `cls` (R264). -/
def plainPacket (s : State) (top : BitVec 8) (cls dst : Nat) (payload : List Byte) : Packet :=
  { fab := mkFab s cls dst (40 + payload.length), tr := { noTr with top := top, first := true, last := true, cl := true },
    payload := payload, tag := [] }

/-- Send DEMOTE or DEMOTE_ACK. -/
def sendDemote (dst seq : Nat) (newHome : BitVec 16) (ack : Bool) (s : State) : State :=
  let p := plainPacket s (if ack then 0x22 else 0x21) 3 dst (leBytes 8 (seq % 2 ^ 20 + 2 ^ 32 * newHome.toNat))
  sendCargo none (.demote p seq newHome ack) s

/-- The new home tells the former one (R66). -/
def demoteFormer (n : Nat) (s : State) : State :=
  match (getSeq s n).demote with
  | none => s
  | some d =>
    sendDemote d.oldHome d.oldSeq (BitVec.ofNat 16 (nodeId s)) false
      (modSeq n (fun q => { q with demote := some { d with tries := d.tries + 1, due := now s + 1000000, done := false } }) s)

/-- MIGRATE PROMOTE is admitted (R66). -/
def admitPromote (c : Cmd) (s : State) : State :=
  let n := seqOf c
  match migStatus s c with
  | .ok =>
    if !(liveTurns s (getSeq s n)).isEmpty then setCmd { c with phase := .deferred .nothing } s
    else
      let s1 := admitCmd c .none s
      let c1 := (getCmd s1 c.ring c.rseq).getD c
      let q := getSeq s1 n
      let q1 : Seq := { q with state := .open_, repl := 1, replDegraded := true, peerNode := 0xFFFF, peerConn := 0, peerSeq := 0
                               mapEpoch := s.rmx.epoch, step := c1.step
                               demote := some { oldHome := q.peerNode, oldSeq := q.peerSeq } }
      finish c1 .ok 0 (demoteFormer n (setSeq n q1 s1))
  | st => endAtAdmission c st 0 s

/-- A row of one MIGRATE mode; reserved modes go with MOVE_HOME. -/
def migRow (ring : Nat) (rseq : BitVec 32) (mode : Nat) (f : Cmd → State → State) (s : State) : Res :=
  .next (admitting ring rseq (fun c => c.op == 0x1A && (seqMode c == mode || (mode == 0 && decide (4 < seqMode c)))) f s)

/-- MIGRATE_MOVE_HOME (R66). -/
def execMigrateMoveHome (ring : Nat) (rseq : BitVec 32) (s : State) : Res := migRow ring rseq 0 admitMigrate s

/-- MIGRATE_REPLICATE (R66). -/
def execMigrateReplicate (ring : Nat) (rseq : BitVec 32) (s : State) : Res := migRow ring rseq 1 admitMigrate s

/-- MIGRATE_SHARD_OUT (R66). -/
def execMigrateShardOut (ring : Nat) (rseq : BitVec 32) (s : State) : Res := migRow ring rseq 2 admitMigrate s

/-- MIGRATE_SHARD_IN (R66). -/
def execMigrateShardIn (ring : Nat) (rseq : BitVec 32) (s : State) : Res := migRow ring rseq 3 admitMigrate s

/-- MIGRATE_PROMOTE (R66). -/
def execMigratePromote (ring : Nat) (rseq : BitVec 32) (s : State) : Res := migRow ring rseq 4 admitPromote s

/-! ## The switch (R66) -/

/-- Readers other than this command that were admitted before the switch. -/
def otherReaders (s : State) (q : Seq) (key : Nat) : List Nat := ((liveReaders s q).map (·.key)).filter (· != key)

/-- Change the PDE of each of a list of pages. -/
def editPdes (pages : List (Nat × Nat)) (f : Pde → Pde) (q : Seq) : Seq :=
  pages.foldl (fun q (st, p) =>
    { q with streams := q.streams.set st (let x := q.streams.getD st {}; { x with pdes := tmod x.pdes p f }) }) q

/-- The SHARD entries with those that no page uses any more free (R66). -/
def trimShards (q : Seq) : Seq :=
  { q with shards := (List.range 8).map fun i =>
      if q.streams.any fun x => tany x.pdes fun _ d => d.remote && d.shard == i then q.shards.getD i 0xFFFF else 0xFFFF }

/-- Bring one fetched page home. -/
def bringPage (addr : Nat) (m : Slot) (q : Seq) (h : HeldPage) : Seq :=
  let x := q.streams.getD h.stream {}
  let d := tgetD x.pdes h.page {}
  if !d.remote then q
  else
    let len := h.bytes.length - summarySize m.d
    let c : Sealed := { fmt := h.fmt, tver := h.tver, bytes := h.bytes.take len }
    let x1 : Stream := { x with
      copies := tset x.copies h.page c, badCopies := if h.damaged then h.page :: x.badCopies else x.badCopies
      pdes := tset x.pdes h.page { d with remote := false, shard := 0, addr := addr + h.page } }
    { q with streams := q.streams.set h.stream x1 }

/-- The switch of each mode, one descriptor update. -/
def migSwitched (s : State) (c : Cmd) (q : Seq) : Seq :=
  let key := cmdKey c.ring c.rseq
  let old := otherReaders s q key
  let m := slotOf s q.mslot
  let every : List (Nat × Nat) := q.streams.zipIdx.flatMap fun (x, st) => x.copies.map fun (p, _) => (st, p)
  match seqMode c with
  | 0 => { q with state := .moved, step := c.step, oldReaders := old, oldCopies := every }
  | 1 => editPdes every (fun d => { d with repl := d.sealed_ || d.repl })
      { q with repl := 2, replDegraded := false, peerNode := migTarget c, peerConn := migConn c, peerSeq := migSeq c, step := c.step }
  | 2 =>
    let i := (shardIdx q (migTarget c)).getD 0
    let pages := every.filter fun (_, p) => decide (migFirst c ≤ p) && decide (p < migFirst c + migPages c)
    editPdes pages (fun d => { d with remote := true, shard := i, addr := 0 })
      { q with shards := (List.range 8).map fun j => if j = i then migTarget c else q.shards.getD j 0xFFFF
               step := c.step, oldReaders := old, oldCopies := q.oldCopies ++ pages }
  | _ =>
    let hs := c.subs.flatMap fun u => match u.answer with
      | some (.pages _ hs) => hs
      | _ => []
    { trimShards (hs.foldl (bringPage (Config.allocAddr s.freeCnt 64 1) m) q) with step := c.step }

/-- Some target had no room (R67). -/
def migBusy (c : Cmd) : Bool := c.subs.any fun u => match u.answer with
  | some (.migrateBusy _) => true
  | _ => false

/-- MIGRATE_SWITCH (R66): the copy is complete. A MIGRATE that had to wait for its turn starts its copy here. -/
def execMigrateSwitch (ring : Nat) (rseq : BitVec 32) (s : State) : Res :=
  .next (
    match runningCmd s ring rseq with
    | none => s
    | some c => match c.work with
      | .migrate r =>
        let n := seqOf c
        let q := getSeq s n
        if !myTurn s n (cmdKey ring rseq) ∨ c.faulted ∨ !serving s then s
        else if stateCheck q != .ok then finish c (stateCheck q) 0 s
        else if !r.sent then migCopy c s
        else if migBusy c then finish c .busy 0 s
        else if c.subs.any fun u => u.answer.isNone then s
        else finish c .ok 0 (setSeq n (migSwitched s c q) (stepFree s))
      | _ => s)

/-- OLD_COPY_FREE (R66): the readers admitted before a switch have completed. -/
def execOldCopyFree (seq : Nat) (s : State) : Res :=
  .next (
    let q := getSeq s seq
    if q.oldCopies.isEmpty ∨ q.oldReaders.any (isRunning s) ∨ !serving s then s
    else
      let moved := q.state == .moved
      let xs := q.streams.zipIdx.map fun (x, st) =>
        if moved then ({} : Stream)
        else { x with copies := tfilter x.copies fun p _ => !q.oldCopies.contains (st, p) || !(tgetD x.pdes p {}).remote }
      setSeq seq { q with streams := xs, oldCopies := [], oldReaders := [] } s)

/-! ## The other end -/

/-- A page arrives (R66): into the sequence that it is to become part of here, or among the pages held for another home. -/
def takePage (part : Nat) (h : HeldPage) (s : State) : State :=
  if h.home.toNat = nodeId s then
    let q := getSeq s h.seq
    if q.state ≠ .free then s
    else
      let x := q.streams.getD h.stream {}
      let page := h.page % 2 ^ 26
      let x0 : Stream := if h.tableRec.isEmpty then x else { x with table := some h.tableRec }
      let rawP : RawPage := { k := (chunks 2 h.bytes).map fun b => [leVal b], bad := h.damaged }
      let x1 : Stream := match h.page / 2 ^ 26 with
        | 0 => { x0 with copies := tset x0.copies page { fmt := h.fmt, tver := h.tver, bytes := h.bytes }
                         badCopies := if h.damaged then page :: x0.badCopies else x0.badCopies }
        | 1 => { x0 with ring := tset x0.ring page { page := page, bytes := h.bytes, bad := h.damaged } }
        | 2 => if page % 2 = 0 then { x0 with stage0 := rawP } else { x0 with stage1 := rawP }
        | 3 => { x0 with pinMaster := tset x0.pinMaster page rawP }
        | 4 => { x0 with retained := tset x0.retained page rawP }
        | _ => x0
      let xs : List Stream := List.append q.streams (List.replicate (h.stream + 1 - q.streams.length) {})
      setSeq h.seq { q with streams := xs.set h.stream x1 } s
  else
    { s with shards := s.shards.filter (fun (_, x) => !(x.home == h.home && x.seq == h.seq && x.stream == h.stream && x.page == h.page)) ++ [(part, h)] }

/-- RAW16 rows that arrived without their geometry, cut to the slot's. -/
def reshape (m : Slot) (r : RawPage) : RawPage :=
  { rawOfBytes m ((r.k.flatten).flatMap (leBytes 2)) with bad := r.bad }

/-- A stream whose pages arrived before its descriptor, in the shape that the descriptor gives it: summaries apart from sealed
pages, window pages in their slots, rows of the plane width, and pin copies from their masters. -/
def settleStream (m : Slot) (q : Seq) (n st : Nat) (x : Stream) : Stream :=
  let z := summarySize m.d
  let cut (b : List Byte) : Nat := b.length - z
  let masters := tmap x.pinMaster fun _ r => reshape m r
  let pins : Table (List Byte) := masters.map fun (j, r) => (j, packPin m st n j r)
  { x with
    sums := x.copies.map fun (p, c) => (p, c.bytes.drop (cut c.bytes))
    copies := tmap x.copies fun _ c => { c with bytes := c.bytes.take (cut c.bytes) }
    ring := x.ring.foldl (fun t (_, r) => tset t (r.page % (q.winM1 + 2)) r) []
    stage0 := reshape m x.stage0, stage1 := reshape m x.stage1
    retained := tmap x.retained fun _ r => reshape m r, pinMaster := masters, pinA := pins, pinB := pins }

/-- A migrating sequence's descriptor arrives at its new home or replica (R66, R67). -/
def takeSeq (n part : Nat) (image : List Byte) (need : Nat) (s : State) : RespMsg × State :=
  let old := getSeq s n
  let ms := fld image 4 1
  if old.state ≠ .free ∨ !(slotOf s ms).valid ∨ !Config.allocFits s.freeCnt part need then
    (.migrateBusy n, if old.state = .free then setSeq n { gen := old.gen } (stepFree s) else stepFree s)
  else
    let q := seqOfImage s n part old image
    let q1 := { q with streams := q.streams.zipIdx.map fun (x, st) => settleStream (slotOf s ms) q q.hdr st x }
    (.migrateOk n, showRefs ms (setSeq n q1 { s with freeCnt := s.freeCnt + 8 }))

/-- Pages that another node asks for: of a replica here, or held for that home as a shard. -/
def givePages (src : BitVec 16) (seq : Nat) (pages : List (Nat × Nat)) (s : State) : List HeldPage :=
  pages.filterMap fun (st, no) =>
    match (s.shards.map (·.2)).find? fun h => h.home == src && h.seq == seq && h.stream == st && h.page == no with
    | some h => some h
    | none =>
      let q := getSeq s seq
      if q.state = .replica ∧ q.peerNode = src.toNat then travelPage src q.peerSeq (slotOf s q.mslot) q st no else none

/-- A replica is freed with its home (R65). -/
def freeReplicaOf (src : BitVec 16) (seq : Nat) (s : State) : State :=
  let q := getSeq s seq
  if q.state = .replica ∧ q.peerNode = src.toNat then freeSeq seq s else s

/-- The rows of a replicated segment (R62): values in position-major order. -/
def replRows (m : Slot) (r : ReplReq) : List (List (List Nat × List Nat)) :=
  let vals := r.values.map (·.toNat)
  let rows := chunks m.d vals
  (List.range m.streams).map fun st => (List.range (r.b - r.a)).map fun i =>
    let base := m.planes * (m.streams * i + st)
    (rows.getD base [], if m.planes = 2 then rows.getD (base + 1) [] else [])

/-- A replicated commit arrives (R62): the replica opens where the home does, makes the same commit, and acknowledges it. A
commit that it has already made is acknowledged again. -/
def replicaCommit (src : BitVec 16) (conn part : Nat) (r : ReplReq) (s : State) : Option RespMsg × State :=
  let q0 := getSeq s r.seq
  let m := slotOf s r.mslot
  let s1 :=
    if r.open_ ∧ q0.state = .free ∧ m.valid then
      let k := s.freeCnt
      let q : Seq :=
        { state := .replica, gen := q0.gen + 1, mslot := r.mslot, part := part, repl := 2, winM1 := r.winM1, retrMax := r.retrMax
          pinMax := r.pinMax, selInterval := r.selInterval, peerNode := src.toNat, peerConn := conn, peerSeq := r.homeSeq
          mapEpoch := s.rmx.epoch, streams := List.replicate m.streams {}, cru := m.winPlace == 1, u0 := Config.u0 k, slotUse := k + 8
          addrs := (List.range 6).map fun i => Config.allocAddr (k + 1 + i) 64 1, dirSize := 64, tver := r.tver, hdr := r.homeSeq }
      showRefs r.mslot (setSeq r.seq q { s with freeCnt := k + 8 + (r.winM1 + 2) * m.streams })
    else s
  let q := getSeq s1 r.seq
  if q.state ≠ .replica ∨ q.peerNode ≠ src.toNat then (none, s1)
  else if r.b ≤ q.len then (some (.replAck r.homeSeq r.b), s1)
  else if q.len ≠ r.a then (none, s1)
  else
    let (k, s2) := commitSeq r.seq r.a r.b r.pin q.step (replRows m r) s1
    let s3 := tapAdd q.part resCast k.castBytes (tapAdd q.part resLadle (posBytes m (r.b - r.a)) s2)
    (some (.replAck r.homeSeq r.b), s3)

/-! ## Demotion at both ends -/

/-- A DEMOTE or DEMOTE_ACK leaves its input buffer. -/
def takeDemote (port : Nat) (src : BitVec 16) (seq : Nat) (newHome : BitVec 16) (ack : Bool) (s : State) : State :=
  let mine (c : Cargo) : Bool := match c with
    | .demote p q h a => p.fab.src == src && q == seq && h == newHome && a == ack
    | _ => false
  match ((getPort s port).inbox.map (·.cargo) ++ s.fab.loop).find? mine with
  | some c => takeInbox port c s
  | none => s

/-- RX_DEMOTE (R264): OPEN or FROZEN becomes MOVED; the answer goes out whatever the state. -/
def execRxDemote (port : Nat) (src : BitVec 16) (seq : Nat) (newHome : BitVec 16) (s : State) : Res :=
  .next (
    if !serving s then s
    else
      let s1 := takeDemote port src seq newHome false s
      let q := getSeq s1 (seq % 2 ^ 20)
      let s2 := if q.state = .open_ ∨ q.state = .frozen then setSeq (seq % 2 ^ 20) { q with state := .moved } s1 else s1
      sendDemote src.toNat seq newHome true s2)

/-- RX_DEMOTE_ACK (R264): the repeats stop. -/
def execRxDemoteAck (port : Nat) (src : BitVec 16) (seq : Nat) (newHome : BitVec 16) (s : State) : Res :=
  .next (
    if !serving s then s
    else
      let s1 := takeDemote port src seq newHome true s
      { s1 with seqs := tmap s1.seqs fun _ q => match q.demote with
          | some d => if d.oldHome = src.toNat ∧ d.oldSeq = seq ∧ newHome.toNat = nodeId s1 then { q with demote := none } else q
          | none => q })

/-- DEMOTE_REPEAT_TIMER (R264, R362): 1 ms without an answer; after 100 tries an event, and no more until a route returns. -/
def execDemoteRepeatTimer (seq : Nat) (s : State) : Res :=
  .next (
    match (getSeq s seq).demote with
    | none => s
    | some d =>
      if d.done ∨ !serving s then s
      else
        let s1 := advanceTo d.due s
        if d.tries < 100 then demoteFormer seq s1
        else post { cls := 6, code := 6, part := some (getSeq s1 seq).part, detail := .l seq 0xFFFF 0 0 0 }
          (modSeq seq (fun q => { q with demote := some { d with done := true } }) s1))

/-- A route has come back: a new home that has given up sends up to 100 further DEMOTEs (R362). -/
def redemote (s : State) : State :=
  forEach (s.seqs.filter fun (_, q) => match q.demote with
      | some d => d.done && !noRoute s d.oldHome
      | none => false)
    (fun (n, _) s => demoteFormer n (modSeq n (fun q => { q with demote := q.demote.map fun d => { d with tries := 0 } }) s)) s

end Sys2Proof.Machine
end

