-- ==== Sys2Proof/Machine/Attend.lean ====
section
/-! DEFINITION. ATTEND (R69 to R98): its checks, its snapshot, its leaves, the damage policy, its result, and the sub-requests
that this node serves for other homes. -/

namespace Sys2Proof.Machine

open Sys2Proof

/-! ## Fields (R71, R72) -/

/-- Flag i of the SEQ word, counted from bit 20. -/
def attendFlag (c : Cmd) (i : Nat) : Bool := bit (fld c.desc 8 4) (20 + i)
/-- FIRST_LAYER. -/
def attendFirst (c : Cmd) : Nat := fld c.desc 12 1
/-- Layers covered. -/
def attendLayers (c : Cmd) : Nat := fld c.desc 13 1 + 1
/-- QROWS. -/
def attendRows (c : Cmd) : Nat := fld c.desc 14 2 + 1
/-- QPOS0. -/
def attendPos (c : Cmd) : Nat := fld c.desc 16 4
/-- KV_FIRST. -/
def attendKvFirst (c : Cmd) : Nat := fld c.desc 20 4
/-- KV_COUNT. -/
def attendKvCount (c : Cmd) : Nat := fld c.desc 24 4
/-- MASK_N. -/
def attendMasks (c : Cmd) : Nat := fld c.desc 30 2
/-- NEED_LEN. -/
def attendNeed (c : Cmd) : Nat := fld c.desc 36 4

/-- The streams of the layers covered. -/
def coveredStreams (m : Slot) (c : Cmd) : List Nat :=
  (List.range (attendLayers c * m.kvh)).map (attendFirst c * m.kvh + ·)

/-- The score hook list that the descriptor names, as active now (R77). -/
def hookList (s : State) (h : Nat) : List (BitVec 64) :=
  if h = 0xFF then [] else (List.range 16).map fun k => BitVec.ofNat 64 (act64 s (0x700400 + 0x80 * h + 8 * k))

/-- Head parameters are present: SINK, or a list with HEAD_SLOPE (R73). -/
def headsUsed (sink : Bool) (hooks : List (BitVec 64)) : Bool :=
  sink || (hookEntries hooks).any fun e => e.toNat % 256 == 7

/-- Bytes of the query array (R73). -/
def queryBytes (m : Slot) (layers rows : Nat) (fp8 : Bool) : Nat :=
  layers * m.kvh * rows * m.group * m.d * if fp8 then 1 else 2

/-- Offsets of the head parameters and of the mask ranges, and the length of the block (R73). -/
def blockLayout (m : Slot) (c : Cmd) (hooks : List (BitVec 64)) : Nat × Nat × Nat :=
  let q := queryBytes m (attendLayers c) (attendRows c) (attendFlag c 11)
  let h := headsUsed (attendFlag c 9) hooks
  let hOff := roundUp q 64
  let hEnd := if h then hOff + 8 * attendLayers c * m.kvh * m.group else q
  let mOff := roundUp hEnd 64
  (hOff, mOff, if attendMasks c = 0 then hEnd else mOff + 8 * attendMasks c)

/-! ## What the arithmetic of one command uses (R69, R79 to R81) -/

/-- The parameters of an ATTEND, at its home and at a node that serves a part of it. `count` is the number of streams whose
queries stand in the query array. -/
structure AttendSpec where
  m : Slot
  seq : Nat
  rows : Nat
  qpos0 : Nat
  flags : Nat
  scale : F32
  hooks : List (BitVec 64)
  masks : List (Nat × Nat)
  pins : List Nat
  cut : Nat
  deriving DecidableEq, Repr

/-- Flag i of the command. -/
def AttendSpec.flag (k : AttendSpec) (i : Nat) : Bool := bit k.flags i

/-- SCALE, with zero for 1/sqrt(D) (R69). -/
def attendScale (w d : Nat) : F32 := if w = 0 then fRsqrtNat d else BitVec.ofNat 32 w

/-- A query vector as given: element `i` of the array, counted in vectors. -/
def queryVals (fp8 : Bool) (d : Nat) (b : List Byte) (i : Nat) : List F32 :=
  (List.range d).map fun c => if fp8 then eToF (fld b (d * i + c) 1) else bToF (fld b (2 * (d * i + c)) 2)

/-- Position of row t (R72). -/
def AttendSpec.qpos (k : AttendSpec) (t : Nat) : Nat := if k.flag 4 then k.qpos0 else k.qpos0 + t

/-- The query vectors of the i-th stream of the array, rows outside, heads inside, rotated and rounded (R73, R81). -/
def AttendSpec.vecs (k : AttendSpec) (queries : List Byte) (heads : List (BitVec 64)) (i : Nat) : List QVec :=
  (List.range (k.rows * k.m.group)).map fun v =>
    let t := v / k.m.group
    let j := v % k.m.group
    let x := queryVals (k.flag 11) k.m.d queries (i * k.rows * k.m.group + v)
    let x' := if k.m.rope = 0 ∨ k.flag 5 then x else (rotate k.m (k.qpos t) x).map (toOperand (k.flag 11))
    let h := (heads.getD (i * k.m.group + j) 0).toNat
    { vals := x', qpos := k.qpos t, sink := BitVec.ofNat 32 h, slope := BitVec.ofNat 32 (h / 2 ^ 32) }

/-- A page passes the mask ranges (R80). -/
def AttendSpec.seen (k : AttendSpec) (kpos : Nat) : Bool :=
  let inside := k.masks.any fun (a, n) => decide (a ≤ kpos / 64) && decide (kpos / 64 < a + n)
  if k.flag 10 then inside else !inside

/-- A position is visible to a query vector (R80). -/
def AttendSpec.visible (k : AttendSpec) (qpos kpos : Nat) : Bool := k.seen kpos && !(k.flag 3 && decide (qpos < kpos))

/-- Positions that the retrieval part offers in a page (R79). -/
def AttendSpec.offered (k : AttendSpec) (page : Nat) : List Nat :=
  ((List.range 64).map (64 * page + ·)).filter fun p => decide (p < k.cut) && !k.pins.contains p

/-! ## Leaves (R86 to R91) -/

/-- Why a page cannot be read (R96): DMG at admission, an uncorrectable error with the SUB of its event, or a cast stream of the
class that failed. -/
inductive Hurt where
  | known
  | ue (sub : Nat)
  | cast (cls : Nat)
  deriving DecidableEq, Repr

/-- Where a leaf of a stream comes from, in canonical order. -/
inductive LeafSrc where
  | tile (part : Part) (ks vs : List (List F32)) (kpos : List Nat)
  | cru (k v : QPlane) (first n : Nat) (inBank : Bool)
  | remote (parts : List Partial)
  | hurt (page : Nat) (pde : Bool) (h : Hurt)
  deriving DecidableEq, Repr

/-- A tile leaf from keys and values in FP32: keys rotated under ROPE 2, both rounded to the operand format (R81, R88). -/
def AttendSpec.tileLeaf (k : AttendSpec) (part : Part) (kpos : List Nat) (ks vs : List (List F32)) : LeafSrc :=
  let keys := (kpos.zip ks).map fun (p, x) => ((if k.m.rope = 2 then rotate k.m p x else x).map (toOperand (k.flag 11)))
  .tile part keys (vs.map fun v => v.map (toOperand (k.flag 11))) kpos

/-- The planes of a sealed page, or the class that fails (R37, R122, R124). -/
def sealedPlanes (m : Slot) (tbl : Option (List Byte)) (page stream seq tver len : Nat) (fmt : Nat) (b : List Byte) :
    Except CastFail (QPlane × QPlane) :=
  if fmt = fmtCast then expand m tbl page stream seq tver len b
  else
    let k := unpackPlane fmt m.d b 0
    .ok (k, if m.planes = 2 then unpackPlane fmt m.d b 1 else k)

/-- The leaf of a sealed page over the positions it offers. -/
def AttendSpec.sealedLeaf (k : AttendSpec) (tbl : Option (List Byte)) (page stream tver len fmt : Nat) (b : List Byte) (kpos : List Nat) : LeafSrc :=
  match sealedPlanes k.m tbl page stream k.seq tver len fmt b with
  | .error e => .hurt page true (.cast e.code)
  | .ok (kp, vp) =>
    let pick (p : QPlane) : List (List F32) := kpos.map fun x => p.values.getD (x % 64) []
    k.tileLeaf .retr kpos (pick kp) (pick vp)

/-- A leaf's partial for one query vector, number `i` of its stream. -/
def AttendSpec.leaf (k : AttendSpec) (q : QVec) (i : Nat) : LeafSrc → Partial
  | .tile part ks vs kpos =>
    leafBF (k.flag 11) k.scale k.hooks part q
      ((kpos.zip (ks.zip vs)).map fun (p, kv) => { kpos := p, visible := k.visible q.qpos p, k := kv.1, v := kv.2 })
  | .cru kp vp first n _ =>
    leafC k.scale k.hooks q kp vp (((List.range n).map fun j => (j, first + j)).filter fun (_, p) => k.visible q.qpos p)
  | .remote ps => ps.getD i (emptyPartial k.m.d)
  | .hurt _ _ _ => emptyPartial k.m.d

/-- The root for one query vector (R91, R92). -/
def AttendSpec.root (k : AttendSpec) (srcs : List LeafSrc) (q : QVec) (i : Nat) : Partial :=
  rootOf k.m.d ((if k.flag 9 then [sinkLeaf q.sink k.m.d] else []) ++ srcs.map (k.leaf q i))

/-- Visible positions of a leaf that a tile scores for a query vector (R103). -/
def AttendSpec.scored (k : AttendSpec) (q : QVec) : LeafSrc → Nat
  | .tile _ _ _ kpos => (kpos.filter fun p => k.visible q.qpos p).length
  | .cru _ _ first n false => (((List.range n).map (first + ·)).filter fun p => k.visible q.qpos p).length
  | _ => 0

/-- Operations of a leaf in a crucible unit for one query vector (R144). -/
def AttendSpec.cruOps (k : AttendSpec) : LeafSrc → Nat
  | .cru _ _ _ _ true => 4 * 64 * k.m.d
  | _ => 0

/-! ## The command's parameters -/

/-- The parameters of a command against its snapshot. -/
def attendSpec (m : Slot) (c : Cmd) (r : AttendRun) : AttendSpec :=
  let (_, mOff, _) := blockLayout m c r.hooks
  { m := m, seq := r.snap.hdr, rows := attendRows c, qpos0 := attendPos c, flags := fldBits c.desc 8 4 20 12
    scale := attendScale (fld c.desc 32 4) m.d, hooks := r.hooks
    masks := (List.range (attendMasks c)).map fun i => (bits (fld r.input (mOff + 8 * i) 4) 0 26, fld r.input (mOff + 8 * i + 4) 4)
    pins := r.snap.pins, cut := if attendKvCount c = 0 then r.len else min r.len (attendKvFirst c) }

/-- The head parameters, 8 bytes each. -/
def attendHeads (m : Slot) (c : Cmd) (r : AttendRun) : List (BitVec 64) :=
  let (hOff, _, _) := blockLayout m c r.hooks
  if headsUsed (attendFlag c 9) r.hooks then
    (List.range (attendLayers c * m.kvh * m.group)).map fun i => BitVec.ofNat 64 (fld r.input (hOff + 8 * i) 8)
  else []

/-- The first page of the window (R79). -/
def windowPage (q : Seq) (len : Nat) : Nat := len / 64 - (q.winM1 + 1)

/-- The pages of a stream's retrieved set that the retrieval part reads (R79). -/
def retrPages (k : AttendSpec) (q : Seq) (len : Nat) (x : Stream) : List (Nat × Pde) :=
  x.retr.cur.filterMap fun p => match tget x.pdes p with
    | some d => if d.sealed_ ∧ p < windowPage q len ∧ !(k.offered p).isEmpty then some (p, d) else none
    | none => none

/-- The remote pages that a command reads, by SHARD index: stream and page. A page with DMG set is not asked for. -/
def remoteReads (k : AttendSpec) (m : Slot) (c : Cmd) (q : Seq) (len : Nat) : List (Nat × List (Nat × Nat)) :=
  if attendFlag c 8 then []
  else
    let all : List (Nat × Nat × Nat) := (coveredStreams m c).flatMap fun st =>
      ((retrPages k q len (q.streams.getD st {})).filter fun (_, d) => d.remote && !d.dmg).map fun (p, d) => (d.shard, st, p)
    (List.range 8).filterMap fun i =>
      let l := (all.filter fun x => x.1 == i).map fun x => x.2
      if l.isEmpty then none else some (i, l)

/-! ## Checks (R82) -/

/-- Checks of field values (R82, step 3), as far as the descriptor goes. -/
def attendFieldsOk (c : Cmd) (m : Option Slot) : Bool :=
  let h := fld c.desc 28 1
  fld c.desc 29 1 == 0 && (decide (h < 32) || h == 0xFF) && decide (attendMasks c ≤ 256) && decide (attendKvCount c ≤ 65536)
    && decide (attendRows c ≤ 1024) && decide (attendKvFirst c + attendKvCount c ≤ 2 ^ 32)
    && (match m with
      | none => true
      | some m => decide (attendRows c * m.group ≤ 4096)
          && decide (queryBytes m (attendLayers c) (attendRows c) (attendFlag c 11) ≤ 16777216))

/-- Checks 2 to 6 of R82. -/
def attendStatus (s : State) (c : Cmd) : Status :=
  let q := getSeq s (seqOf c)
  let m := slotOf s q.mslot
  firstBad [
    failIf (!seqInRange s c.part (seqOf c)) .accessViolation,
    failIf (!attendFieldsOk c (if q.state = .free then none else some m)) .illegalValue,
    failIf (attendFlag c 6 && attendFlag c 7 && attendFlag c 8 && attendKvCount c == 0) .illegalCombination,
    stateCheck q,
    failIf q.freeAdm .wrongState,
    failIf (decide (m.layers < attendFirst c + attendLayers c)) .illegalValue]

/-- Bytes at DEST (R76). -/
def attendOut (m : Slot) (c : Cmd) : Nat :=
  let n := attendLayers c * m.kvh * attendRows c * m.group
  if attendFlag c 1 then n * partialSize (attendFlag c 2) m.d else n * m.d * if attendFlag c 2 then 4 else 2

/-- Checks 8 and 9 of R82 and the ranges of the addresses (R313). -/
def attendLate (s : State) (c : Cmd) (r : AttendRun) : Status :=
  let q := r.snap
  let m := slotOf s q.mslot
  let k := attendSpec m c r
  let (_, _, len) := blockLayout m c r.hooks
  firstBad [
    failIf (attendKvCount c != 0 && decide (r.len < attendKvFirst c)) .wrongState,
    failIf ((remoteReads k m c q r.len).any fun (i, _) => (serviceConn s c.part (q.shards.getD i 0xFFFF)).isNone) .illegalCombination,
    checkAddr s c (fld c.desc 40 8) len,
    checkAddr s c (fld c.desc 48 8) (attendOut m c),
    if attendKvCount c = 0 then .ok else checkAddr s c (fld c.desc 56 8) (posBytes m (attendKvCount c))]

/-! ## Damage (R96, R126, R147) -/

/-- The pages of covered streams that hold an uncorrectable error: in the snapshot, or found since (R96). -/
def badReads (k : AttendSpec) (m : Slot) (c : Cmd) (r : AttendRun) (live : Seq) : List (Nat × Nat) :=
  let q := r.snap
  let f := r.len / 64
  let w := windowPage q r.len
  (coveredStreams m c).flatMap fun st =>
    let x := q.streams.getD st {}
    let y := live.streams.getD st {}
    let sealedBad := if attendFlag c 8 then [] else
      (retrPages k q r.len x).filter fun (p, d) => !d.remote && !d.dmg && (x.badCopies.contains p || y.badCopies.contains p)
    let tbl := !attendFlag c 8 && (x.tableBad || y.tableBad) && (retrPages k q r.len x).any fun (_, d) => d.fmt == fmtCast && !d.remote && !d.dmg
    let ringBad (p : Nat) : Bool :=
      let i := p % (q.winM1 + 2)
      (match tget x.ring i with
        | some e => e.bad
        | none => false)
        || (match tget y.ring i with
          | some e => e.page == p && e.bad
          | none => false)
    let winBad := if attendFlag c 6 then [] else
      ((List.range (f - w)).map (w + ·)).filter fun p => decide (64 * p < k.cut) && !(tgetD x.pdes p {}).dmg && ringBad p
    let headBad := !attendFlag c 6 && decide (64 * f < k.cut) && ((x.stage f).bad || (live.len / 64 == f && (y.stage f).bad))
    let pinBad := if attendFlag c 7 then [] else (List.range 4).filter fun j => x.pinBad.contains j || y.pinBad.contains j
    (pinBad.map fun j => (st, travelNo 3 j)) ++ (if tbl then [(st, travelNo 5 0)] else [])
      ++ (sealedBad.map fun (p, _) => (st, travelNo 0 p)) ++ (winBad.map fun p => (st, travelNo 1 p))
      ++ if headBad then [(st, travelNo 2 f)] else []

/-- The replica may be read for a page (R96): its PDE has REPL, or it is a window, head, pin or table page of a sequence whose
replication is whole. -/
def replicaHas (s : State) (q : Seq) (x : Nat × Nat) : Bool :=
  let ok := q.repl == 2 && peerConnOk s q.part q.peerConn q.peerNode
  ok && (match x.2 / 2 ^ 26 with
    | 0 => (tgetD (q.streams.getD x.1 {}).pdes (x.2 % 2 ^ 26) {}).repl
    | 5 => true
    | _ => !q.replDegraded)

/-- The snapshot with a page that the replica gave. A pin page is packed again from the masters of the pins that the snapshot
knows. -/
def healRead (m : Slot) (r : AttendRun) (h : HeldPage) (q : Seq) : Seq :=
  if h.damaged then q else
  let x := q.streams.getD h.stream {}
  let page := h.page % 2 ^ 26
  match h.page / 2 ^ 26 with
  | 0 =>
    let len := h.bytes.length - summarySize m.d
    let x' : Stream := { x with copies := tset x.copies page { fmt := h.fmt, tver := h.tver, bytes := h.bytes.take len } }
    { q with streams := q.streams.set h.stream x' }
  | 3 =>
    let raw := rawOfBytes m h.bytes
    let n := r.snap.pins.length - 64 * page
    let b := packPin m h.stream q.hdr page { k := raw.k.take n, v := raw.v.take n }
    { q with streams := q.streams.set h.stream { x with pinA := tset x.pinA page b, pinB := tset x.pinB page b } }
  | 2 =>
    let raw := rawOfBytes m h.bytes
    let n := r.len % 64
    let b : RawPage := { k := raw.k.take n, v := raw.v.take n }
    { q with streams := q.streams.set h.stream (if page % 2 = 0 then { x with stage0 := b } else { x with stage1 := b }) }
  | _ => healPage m h q

/-! ## The leaves of one stream (R79, R91) -/

/-- A window slot's page is served by its crucible unit: the bank group has one, and crucible work is issued (R86, R154,
R160). -/
def unitServes (s : State) (addr : Nat) : Bool :=
  let u := addr / 2 ^ 18 % 1024
  let die := 8 * bits u 0 4 + bits u 4 3
  actBits s 0x602000 0 1 == 1 && !bit (remapWord s die) (4 + bits u 7 3)

/-- The leaf sources of stream `st` in canonical order but for the sink. `bad` says which pages cannot be
read, `away` gives the partials of each SHARD index. -/
def leafSources (s : State) (k : AttendSpec) (c : Cmd) (r : AttendRun) (q : Seq) (bad : List (Nat × Nat)) (st : Nat)
    (away : Nat → List Partial × List (Nat × Nat)) : List LeafSrc :=
  let m := k.m
  let x := q.streams.getD st {}
  let isBad (kind p : Nat) : Bool := bad.contains (st, travelNo kind p)
  let f := r.len / 64
  let w := windowPage q r.len
  let kvRows (b : List Byte) (fmt : Nat) (pl : Nat) : List (List F32) := (unpackPlane fmt m.d b (if m.planes = 2 then pl else 0)).values
  let pins : List LeafSrc := if attendFlag c 7 then [] else (List.range 4).filterMap fun j =>
    let mine := (((q.pins.drop (64 * j)).take 64).zipIdx).filter fun (p, _) => decide (p < min (64 * w) k.cut)
    if mine.isEmpty then none
    else if isBad 3 j then some (.hurt j false (.ue 0))
    else
      let b := tgetD (if q.pinSel.getD j 0 = 0 then x.pinA else x.pinB) j []
      let pick (pl : Nat) : List (List F32) := mine.map fun (_, n) => (kvRows b m.pinFmt pl).getD n []
      some (k.tileLeaf .global (mine.map (·.1)) (pick 0) (pick 1))
  let reads := if attendFlag c 8 then [] else retrPages k q r.len x
  let near := (reads.filter fun (_, d) => !d.remote).map fun (p, d) =>
    if d.dmg then LeafSrc.hurt p true .known
    else if isBad 0 p then .hurt p true (.ue 0)
    else
      let e := tgetD x.copies p {}
      k.sealedLeaf (if isBad 5 0 then none else x.table) p st e.tver d.len e.fmt e.bytes (k.offered p)
  let far := (List.range 8).flatMap fun sh =>
    let mine := reads.filter fun (_, d) => d.remote && d.shard == sh
    if mine.isEmpty then []
    else
      let (parts, fails) := away sh
      ((mine.filter fun (_, d) => d.dmg).map fun (p, _) => LeafSrc.hurt p true .known)
        ++ (fails.map fun (p, cls) => LeafSrc.hurt p true (if cls = 0 then .ue 0 else .cast cls)) ++ [.remote parts]
  let cruOk := decide (k.rows * m.group ≤ 16) && hooksInBank k.hooks
  let win := if attendFlag c 6 then [] else ((List.range (f - w)).map (w + ·)).filterMap fun p =>
    if k.cut ≤ 64 * p then none
    else
      let n := min 64 (k.cut - 64 * p)
      let d := tgetD x.pdes p {}
      let e := tgetD x.ring (p % (q.winM1 + 2)) { page := p, bytes := [] }
      let serves := q.cru && e.cru && cruOk
      if d.dmg then some (.hurt p true .known)
      else if isBad 1 p then some (.hurt p true (.ue (b2n (serves && unitServes s d.addr))))
      else if serves then
        let kp := unpackPlane m.winFmt m.d e.bytes 0
        some (.cru kp (if m.planes = 2 then unpackPlane m.winFmt m.d e.bytes 1 else kp) (64 * p) n (unitServes s d.addr))
      else
        some (k.tileLeaf .window ((List.range n).map (64 * p + ·)) ((kvRows e.bytes m.winFmt 0).take n) ((kvRows e.bytes m.winFmt 1).take n))
  let head : List LeafSrc :=
    if attendFlag c 6 ∨ r.len % 64 = 0 ∨ k.cut ≤ 64 * f then []
    else if isBad 2 f then [.hurt f false (.ue 0)]
    else
      let n := k.cut - 64 * f
      let raw := x.stage f
      let fl (l : List (List Nat)) : List (List F32) := (l.take n).map fun row => row.map bToF
      [k.tileLeaf .window ((List.range n).map (64 * f + ·)) (fl raw.k) (fl (if m.planes = 2 then raw.v else raw.k))]
  let n := attendKvCount c
  let a := attendKvFirst c
  let src := if n = 0 then [] else ((List.range ((a + n - 1) / 64 - a / 64 + 1)).map (a / 64 + ·)).map fun p =>
    let kpos := ((List.range 64).map (64 * p + ·)).filter fun x => decide (a ≤ x) && decide (x < a + n)
    let row (x : Nat) : List Nat × List Nat :=
      let kv := kvAt m r.kv (m.planes * (m.streams * (x - a) + st))
      (if m.rope = 1 then rotateB m x kv.1 else kv.1, if m.planes = 2 then kv.2 else (if m.rope = 1 then rotateB m x kv.1 else kv.1))
    k.tileLeaf .source kpos (kpos.map fun x => (row x).1.map bToF) (kpos.map fun x => (row x).2.map bToF)
  pins ++ near ++ far ++ win ++ head ++ src

/-! ## Starting (R74, R93, R102) -/

/-- The bytes of the queries of the given streams, in order. -/
def pickQueries (m : Slot) (c : Cmd) (input : List Byte) (sts : List Nat) : List Byte :=
  let n := attendRows c * m.group * m.d * if attendFlag c 11 then 1 else 2
  sts.flatMap fun st => slice input (n * (st - attendFirst c * m.kvh)) n

/-- The head parameters of the given streams. -/
def pickHeads (m : Slot) (c : Cmd) (heads : List (BitVec 64)) (sts : List Nat) : List (BitVec 64) :=
  if heads.isEmpty then [] else sts.flatMap fun st => (heads.drop ((st - attendFirst c * m.kvh) * m.group)).take m.group

/-- The sub-request for the pages that one node holds (R93). -/
def attendReq (k : AttendSpec) (m : Slot) (c : Cmd) (r : AttendRun) (pages : List (Nat × Nat)) : AttendReq :=
  let sts := (pages.map (·.1)).eraseDups
  { partition := c.part, seq := seqOf c, hdr := r.snap.hdr, d := m.d, planes := m.planes, group := m.group, kvh := m.kvh, qrows := k.rows
    qpos0 := k.qpos0, firstLayer := attendFirst c, layers := attendLayers c, flags := BitVec.ofNat 12 k.flags, rope := m.rope
    ropePairs := m.ropePairs, ropeBase := m.ropeBase, scale := k.scale, hooks := k.hooks
    heads := pickHeads m c (attendHeads m c r) sts, masks := k.masks, pins := k.pins, cut := k.cut, pages := pages
    queries := pickQueries m c r.input sts }

/-- Query vectors of a stream as a selection uses them: rotated under ROPE 1 only, then quantised (R100). -/
def selectQueries (k : AttendSpec) (queries : List Byte) (i : Nat) : List (F32 × List Int) :=
  let k' : AttendSpec := if k.m.rope = 1 then k else { k with flags := k.flags ||| 32 }
  (k'.vecs queries [] i).map fun q => quantQuery q.vals

/-- The input is here: the selections that the command triggered get its queries, and its sub-requests go out. -/
def attendStart (c : Cmd) (r : AttendRun) (s : State) : State :=
  let n := seqOf c
  let m := slotOf s r.snap.mslot
  let k := attendSpec m c r
  let give (q : Seq) : Seq := { q with streams := q.streams.zipIdx.map fun (x, st) =>
    match x.auto with
    | some a => if a.ring = c.ring ∧ a.rseq = c.rseq ∧ !a.ready then
          { x with auto := some { a with queries := selectQueries k r.input (st - attendFirst c * m.kvh), ready := true } }
        else x
    | none => x }
  let subs := (remoteReads k m c r.snap r.len).zipIdx.map fun ((sh, pages), j) =>
    let node := r.snap.shards.getD sh 0xFFFF
    ({ node := node, conn := (serviceConn s c.part node).getD noConn
       call := .attendSub c.step (c.subs.length + j) c.stamp (attendReq k m c r pages) } : Sub)
  sendSubs { c with work := .attend { r with started := true } } subs (modSeq n give s)

/-- An ATTEND ends before its input was there: the selections that it triggered have no queries, and go. -/
def dropAutos (c : Cmd) (s : State) : State :=
  modSeq (seqOf c) (fun q => { q with streams := q.streams.map fun x =>
    match x.auto with
    | some a => if a.ring = c.ring ∧ a.rseq = c.rseq ∧ !a.ready then
          { x with auto := none, selQ := x.selQ.filter fun e => !(e.auto && e.ring == c.ring && e.rseq == c.rseq) }
        else x
    | none => x }) s

/-- The mask ranges of the input block are in order (R73, R82). -/
def masksOk (c : Cmd) (b : List Byte) (mOff : Nat) : Bool :=
  (List.range (attendMasks c)).all fun i => decide (fld b (mOff + 8 * i) 4 < 2 ^ 26) && fld b (mOff + 8 * i + 4) 4 != 0

/-- A piece of an ATTEND's input is here, or cannot be read: first the block at QSRC, then KVSRC (R74, R75, R96). -/
def attendInput (c : Cmd) (g : Got) (s : State) : State :=
  match c.work with
  | .attend r =>
    let m := slotOf s r.snap.mslot
    let (_, mOff, _) := blockLayout m c r.hooks
    (match g with
    | .wait => s
    | .fail st => finish c st 0 (dropAutos c s)
    | .now b =>
      if !r.haveIn then
        let r1 := { r with input := b, haveIn := true }
        let c1 := { c with work := .attend r1 }
        if !masksOk c b mOff then finish c .illegalValue 0 (dropAutos c s)
        else if attendKvCount c = 0 then attendStart c1 r1 s
        else match startRead c1 (fld c.desc 56 8) (posBytes m (attendKvCount c)) (setCmd c1 s) with
          | (.now b', s1) => attendStart c1 { r1 with kv := b', haveKv := true } s1
          | (.fail st, s1) => finish c1 st 0 (dropAutos c1 s1)
          | (.wait, s1) => s1
      else if attendKvCount c = 0 ∨ r.haveKv then s
      else attendStart c { r with kv := b, haveKv := true } s)
  | _ => s

/-! ## Admission (R82 to R84, R102) -/

/-- The automatic selections that the command triggers (R102): each stands in its stream's order from now on. -/
def triggerAutos (m : Slot) (c : Cmd) (len : Nat) (q : Seq) : Seq :=
  if q.selInterval = 0 ∨ q.retrMax = 0 ∨ attendFlag c 8 then q
  else
    { q with streams := q.streams.zipIdx.map fun (x, st) =>
        let gap := (BitVec.ofNat 32 len - x.retr.selLen).toNat
        if !(coveredStreams m c).contains st ∨ gap < q.selInterval ∨ x.auto.isSome ∨ x.selQ.any (·.auto) then x
        else { x with auto := some { ring := c.ring, rseq := c.rseq, len := len, step := c.step, queries := [] }
                      selQ := x.selQ ++ [{ ring := c.ring, rseq := c.rseq, auto := true, len := len }] } }

/-- ATTEND is admitted with its snapshot: a reader that starts to read its input. -/
def runAttend (c : Cmd) (r : AttendRun) (s : State) : State :=
  let n := seqOf c
  let m := slotOf s r.snap.mslot
  let s1 := addReader n (cmdKey c.ring c.rseq) r.len (admitCmd c (.attend r) s)
  let c1 := (getCmd s1 c.ring c.rseq).getD c
  let s2 := modSeq n (triggerAutos m c1 r.len) s1
  let (_, _, len) := blockLayout m c1 r.hooks
  match startRead c1 (fld c.desc 40 8) len s2 with
  | (.wait, s3) => s3
  | (g, s3) => attendInput c1 g s3

/-- An ATTEND that waits for NEED_LEN, still short of it: its admission is deferred, so it has no step number (R83). -/
def needsLen (s : State) (c : Cmd) : Bool := match c.phase with
  | .deferred (.needLen _) => decide ((getSeq s (seqOf c)).len < attendNeed c)
  | _ => false

/-- ATTEND comes up for admission (R82, R83). -/
def admitAttend (c : Cmd) (s : State) : State :=
  let n := seqOf c
  let q := getSeq s n
  match attendStatus s c with
  | .ok =>
    if q.len < attendNeed c then
      if q.state = .frozen then finish c .wrongState 0 s
      else
        let due := match c.phase with
          | .deferred (.needLen d) => d
          | _ => now s + 1000000
        setCmd { c with phase := .deferred (.needLen due) } s
    else
      let r : AttendRun := { snap := q, len := q.len, hooks := hookList s (fld c.desc 28 1) }
      match attendLate s c r with
      | .ok => runAttend c r s
      | st => endAtAdmission c st 0 s
  | st => if needsLen s c then finish c st 0 s else endAtAdmission c st 0 s

/-- ATTEND (R82). -/
def execAttend (ring : Nat) (rseq : BitVec 32) (s : State) : Res :=
  .next (admitting ring rseq (fun c => c.op == 0x10) admitAttend s)

/-- ATTEND_NEED_LEN_TIMEOUT (R83). -/
def execAttendNeedLenTimeout (ring : Nat) (rseq : BitVec 32) (s : State) : Res :=
  .next (
    match getCmd s ring rseq with
    | none => s
    | some c => match c.phase with
      | .deferred (.needLen due) => if serving s then finish c .timeout 0 (advanceTo due s) else s
      | _ => s)

/-! ## The end (R92, R96, R97) -/

/-- The partials of one SHARD index for one stream, and the pages of that stream that failed there. -/
def awayParts (c : Cmd) (r : AttendRun) (perStream st : Nat) (sh : Nat) : List Partial × List (Nat × Nat) :=
  let node := r.snap.shards.getD sh 0xFFFF
  let hit := c.subs.findSome? fun u => match u.call with
    | .attendSub _ _ _ req =>
      let mine := req.pages.any fun (t, p) => t == st && (match tget (r.snap.streams.getD st {}).pdes p with
        | some d => d.remote && d.shard == sh
        | none => false)
      if mine ∨ u.node = node ∧ req.pages.any fun (t, _) => t == st then some (u, req) else none
    | _ => none
  match hit with
  | some (u, req) =>
    let i := ((req.pages.map (·.1)).eraseDups.takeWhile (· != st)).length
    (match u.answer with
    | some (.partials _ _ fails _ parts) =>
      ((parts.drop (perStream * i)).take perStream, (fails.filter fun x => x.1 == st).map fun x => x.2)
    | _ => ([], []))
  | none => ([], [])

/-- A page that cannot be read leaves its traces (R36, R96, R97, R125): DMG and DAMAGED_PAGES for an uncorrectable error, an event
and the cast counters for a damaged stream. -/
def castDamage (seq st page cls part : Nat) (step : BitVec 64) (s : State) : State :=
  let last := seq % 2 ^ 20 + 2 ^ 20 * (st % 2 ^ 12) + 2 ^ 32 * (page % 2 ^ 26) + 2 ^ 58 * (cls % 8)
  post { cls := 2, code := 1, part := some part, step := step, status := .streamDamaged, detail := .l seq st cls page 0 }
    (setVal64 0x900130 last (cntAdd 0x900128 1 s))

/-- Set DMG in a page's PDE and count it (R31, R36). -/
def markDmg (n st page : Nat) (s : State) : State :=
  let q := getSeq s n
  let x := q.streams.getD st {}
  match tget x.pdes page with
  | some d => if d.dmg then s
      else setSeq n { q with streams := q.streams.set st { x with pdes := tset x.pdes page { d with dmg := true } }, damaged := q.damaged + 1 } s
  | none => s

/-- What one page that could not be read does to the node. -/
def hurtEffect (c : Cmd) (q : Seq) (st : Nat) (skip : Bool) (src : LeafSrc) (s : State) : State :=
  let n := seqOf c
  match src with
  | .hurt p pde h =>
    let d := tgetD (q.streams.getD st {}).pdes p {}
    (match h with
    | .known => s
    | .ue sub =>
      post { cls := 1, code := 1, part := some c.part, step := c.step, status := if skip then .ok else .dataDamaged, detail := .l n st sub p d.addr }
        (if pde then markDmg n st p s else s)
    | .cast cls => if d.remote then s else castDamage n st p cls c.part c.step s)
  | _ => s

/-- The status that a page which cannot be read gives under the fail policy. -/
def hurtStatus : LeafSrc → Status
  | .hurt _ _ (.cast _) => .streamDamaged
  | _ => .dataDamaged

/-- The source is a page that cannot be read. -/
def LeafSrc.isHurt : LeafSrc → Bool
  | .hurt _ _ _ => true
  | _ => false

/-- The output of every query vector, in the order of R76. -/
def attendBytes (k : AttendSpec) (c : Cmd) (queries : List Byte) (heads : List (BitVec 64)) (srcs : List (List LeafSrc)) : List Byte :=
  srcs.zipIdx.flatMap fun (l, i) => (k.vecs queries heads i).zipIdx.flatMap fun (q, v) =>
    let p := k.root l q v
    if attendFlag c 1 then partialBytes (attendFlag c 2) p else outputBytes (attendFlag c 2) p

/-- The merge finishes and the result goes to DEST (R92, R96, R97, R103). -/
def attendMerge (c : Cmd) (r : AttendRun) (heal : List HeldPage) (bad : List (Nat × Nat)) (s : State) : State :=
  let n := seqOf c
  let m := slotOf s r.snap.mslot
  let k := attendSpec m c r
  let given := heal.filter (!·.damaged)
  let q := given.foldl (fun q h => healRead m r h q) r.snap
  let left := bad.filter fun x => !given.any fun h => h.stream == x.1 && h.page == x.2
  let heads := attendHeads m c r
  let per := k.rows * m.group
  let srcs := (coveredStreams m c).map fun st => leafSources s k c r q left st (awayParts c r per st)
  let tiles := srcs.any fun l => l.any fun x => match x with
    | .cru _ _ _ _ b => !b
    | .remote _ => false
    | .hurt _ _ _ => false
    | _ => true
  match missingKind s ((if tiles then [0] else []) ++ [1]) with
  | some kind => faultStep c 16 kind s
  | none =>
    let s1 := forEach given (fun h s =>
      let s' := post { cls := 1, code := if h.page / 2 ^ 26 = 5 then 2 else 1, part := some c.part, step := c.step
                       detail := .l n h.stream 0 (h.page % 2 ^ 26) 0 } s
      if h.page / 2 ^ 26 = 5 then modSeq n (healPage m h) s' else s') s
    let hurts : List (Nat × LeafSrc) := ((coveredStreams m c).zip srcs).flatMap fun (st, l) => (l.filter (·.isHurt)).map fun x => (st, x)
    match hurts, attendFlag c 0 with
    | (st, x) :: _, false => finish c (hurtStatus x) 0 (hurtEffect c q st false x s1)
    | _, _ =>
      let s2 := forEach hurts (fun (st, x) s => hurtEffect c q st true x s) s1
      let every : List (LeafSrc × QVec) := srcs.zipIdx.flatMap fun (l, i) => (k.vecs r.input heads i).flatMap fun v => l.map fun x => (x, v)
      let far := sumN (c.subs.map fun u => match u.answer with
        | some (.partials _ _ _ sc _) => sc
        | _ => 0)
      let s3 := meter c c.part resPosHeads (sumN (every.map fun (x, v) => k.scored v x) + far) s2
      let s4 := meter c c.part resCruOps (sumN (every.map fun (x, _) => k.cruOps x)) s3
      deliver c (fld c.desc 48 8) (attendBytes k c r.input heads srcs) .ok (r.len + 2 ^ 48 * min 65535 hurts.length) s4

/-- ATTEND_ROOT_MERGE (R92): every leaf and every remote partial is there. Pages that only the replica can give are fetched
first (R96). -/
def execAttendRootMerge (ring : Nat) (rseq : BitVec 32) (s : State) : Res :=
  .next (
    match runningCmd s ring rseq with
    | none => s
    | some c => match c.work with
      | .attend r =>
        if c.faulted ∨ !serving s ∨ !r.started then s
        else if c.subs.any fun u => match u.call with
            | .attendSub _ _ _ _ => u.answer.isNone
            | _ => false
          then s
        else
          let n := seqOf c
          let live := getSeq s n
          let m := slotOf s r.snap.mslot
          let bad := badReads (attendSpec m c r) m c r live
          let ask := bad.filter (replicaHas s live)
          if ask.isEmpty then attendMerge c r [] bad s
          else match replicaAnswer c ask with
            | none => askReplica n ask c s
            | some none => s
            | some (some hs) => attendMerge c r hs bad s
      | _ => s)

/-! ## Serving another home (R93) -/

/-- The plane geometry of a sub-request as a model slot. -/
def reqSlot (q : AttendReq) : Slot :=
  { kvh := q.kvh, group := q.group, latent := if q.planes = 1 then q.d else 0
    hdim := ((List.range 5).find? fun c => hdimOf c == q.d).getD 0
    rope := q.rope, ropePairs := q.ropePairs, ropeBase := q.ropeBase }

/-- The parameters of a sub-request. -/
def reqSpec (q : AttendReq) : AttendSpec :=
  { m := reqSlot q, seq := q.hdr, rows := q.qrows, qpos0 := q.qpos0, flags := q.flags.toNat, scale := q.scale, hooks := q.hooks
    masks := q.masks, pins := q.pins, cut := q.cut }

/-- A page that this node holds for a home: as a shard, or in the replica of its sequence. -/
def servedPage (s : State) (home seq st page : Nat) : Option HeldPage :=
  match (s.shards.map (·.2)).find? fun h => h.home.toNat == home && h.seq == seq && h.stream == st && h.page == page with
  | some h => some h
  | none => match tfind s.seqs fun _ q => q.state == .replica && q.peerNode == home && q.peerSeq == seq with
    | some (_, q) => travelPage (BitVec.ofNat 16 home) seq (slotOf s q.mslot) q st page
    | none => none

/-- The leaf source of a page served for a home, or the class that fails. -/
def servedLeaf (s : State) (home : Nat) (q : AttendReq) (st page : Nat) : LeafSrc :=
  let k := reqSpec q
  match servedPage s home q.seq st page with
  | none => .hurt page true (.ue 0)
  | some h =>
    if h.damaged then .hurt page true (.ue 0)
    else
      let b := h.bytes.take (h.bytes.length - summarySize q.d)
      k.sealedLeaf (if h.tableRec.isEmpty then none else some h.tableRec) page st h.tver (len64 b.length) h.fmt b (k.offered page)

/-- Serve a sub-request: one leaf per page, one partial per query vector of each stream (R93). The counters of damaged cast
pages count here too (R125). -/
def serveAttend (home : Nat) (step : BitVec 64) (sub : Nat) (q : AttendReq) (s : State) : RespMsg × State :=
  let k := reqSpec q
  let sts := (q.pages.map (·.1)).eraseDups
  let srcs := sts.map fun st => ((q.pages.filter fun (t, _) => t == st).map fun (_, p) => servedLeaf s home q st p)
  let fails := (sts.zip srcs).flatMap fun (st, l) => l.filterMap fun x => match x with
    | .hurt p _ (.cast cls) => some (st, p, cls)
    | .hurt p _ _ => some (st, p, 0)
    | _ => none
  let parts := srcs.zipIdx.flatMap fun (l, i) => (k.vecs q.queries q.heads i).zipIdx.map fun (v, j) => rootOf q.d (l.map (k.leaf v j))
  let scored := sumN (srcs.zipIdx.flatMap fun (l, i) => (k.vecs q.queries q.heads i).flatMap fun v => l.map (k.scored v))
  (.partials step sub fails scored parts,
    forEach (fails.filter fun x => x.2.2 != 0) (fun (st, p, cls) s => castDamage q.seq st p cls q.partition step s) s)

end Sys2Proof.Machine
end

