-- ==== Sys2Proof/Machine/Crucible.lean ====
section
/-! DEFINITION. Crucible units (R130 to R161): the command path, the register area, the instruction set, refresh and suspension,
stops and their handling, images, scrub and row retirement, and the cast audit (R127). A unit is named by its physical number:
9 times its die, plus its place on the die. -/

namespace Sys2Proof.Machine

open Sys2Proof

/-! ## Units and addresses (R130, R131) -/

/-- A unit. -/
def getUnit (s : State) (u : Nat) : CruUnit := tgetD s.mem.units u {}

/-- Set a unit. -/
def setUnit (u : Nat) (x : CruUnit) (s : State) : State := { s with mem := { s.mem with units := tset s.mem.units u x } }

/-- Offset of MEM_CRU_REMAP of a unit's die. -/
def remapOff (u : Nat) : Nat := 0x602200 + 4 * (u / 9)

/-- The unit is its die's spare. -/
def isSpare (u : Nat) : Bool := u % 9 == 8

/-- The bank group that a unit serves (R130, R160). -/
def bankGroup (s : State) (u : Nat) : Nat := if isSpare u then bits (remapWord s (u / 9)) 0 3 else u % 9

/-- The logical number of a unit. -/
def logicalUnit (s : State) (u : Nat) : Nat := u / 9 / 8 + 16 * (u / 9 % 8) + 128 * bankGroup s u

/-- The physical unit that serves logical unit `l`, if one does. -/
def physUnit (s : State) (l : Nat) : Option Nat :=
  let die := 8 * (l % 16) + l / 16 % 8
  let g := l / 128 % 8
  let w := remapWord s die
  if bit w (4 + g) then none else if bit w 3 ∧ w % 8 = g then some (9 * die + 8) else some (9 * die + g)

/-- The local address of a ULA. -/
def ulaAddr (s : State) (u ula : Nat) : Nat := ((ula / 2 ^ 18) * 1024 + logicalUnit s u) * 2 ^ 18 + ula % 2 ^ 18

/-- Columns in the bank group of a unit: 1.5 GiB. -/
def ulaEnd : Nat := 1610612736

/-- ERRADDR of a column (R135). -/
def errAddrOf (ula : Nat) : Nat := bits ula 12 2 + 4 * bits ula 14 17 + 2 ^ 19 * bits ula 5 7

/-! ## Stops (R136, R147, R153, R154) -/

/-- MEM_CRU_LAST shows a stop (R160). -/
def showLast (u code : Nat) (s : State) : State :=
  setVal64 0x602420 (logicalUnit s u + 2 ^ 10 * code + 2 ^ 18 * b2n (isSpare u) + 2 ^ 19 * (getUnit s u).erraddr) s

/-- The unit stops with a CODE. -/
def stopUnit (u code : Nat) (s : State) : State :=
  let x := getUnit s u
  let st := if code = 0 ∨ 0x80 ≤ code then CruState.done else .fault
  let s1 := setUnit u { x with st := st, code := code, openRow := none, suspendReq := false } s
  if code = 0 then s1 else showLast u code s1

/-- An event record of a unit (R154, R349). -/
def unitEvent (s : State) (u code newPhys cause steps : Nat) : Event :=
  { cls := 3, code := code, kind := 16, logical := logicalUnit s u, physical := u % 9, detail := .p (u % 9) newPhys cause steps }

/-- A unit fault (R154, R355): the spare takes the bank group where it is free, else the group falls to TILE_ONLY; the steps that hold
work on the unit are struck, and the cards that hold its controller. -/
def unitFault (u : Nat) (s : State) : State :=
  let die := u / 9
  let ks := struckKeys s (kindOps 16)
  let s := cntAdd 0x180 1 s
  let o := remapOff u
  let g := bankGroup s u
  let act := (actW s o).toNat
  let s1 := if isSpare u then setValBits o 20 1 1 s else setValBits o (12 + u % 9) 1 1 s
  let s1 : State := { s1 with mem := { s1.mem with remapOld := tdel s1.mem.remapOld die } }
  let spareBad := bit act 3 || isSpare u || valBits s o 20 1 == 1
  if spareBad then
    let act' := if isSpare u then putBits act 3 1 0 else act
    strikeSteps ks 7 [u / 288] (post (unitEvent s u 4 0xFF 4 ks.length) (setAct o (BitVec.ofNat 32 (putBits act' (4 + g) 1 1)) s1))
  else
    let sp := 9 * die + 8
    let x := getUnit s u
    let s2 := setUnit sp { getUnit s sp with prog := x.prog, imgver := x.imgver } (setAct o (BitVec.ofNat 32 (putBits (putBits act 0 3 g) 3 1 1)) s1)
    strikeSteps ks 7 [u / 288] (cntAdd 0x188 1 (post (unitEvent s u 1 8 4 ks.length)
      { s2 with mem := { s2.mem with imgLoaded := match tget s2.mem.imgLoaded u with
        | some v => tset s2.mem.imgLoaded sp v
        | none => s2.mem.imgLoaded } }))

/-- A part of the command path failed `bad` times in one transfer; the second failure is a unit fault (R133, R153). -/
def transfer (u bad : Nat) (f : State → State) (s : State) : State :=
  if !mainOn s ∨ 1152 ≤ u then s
  else if 2 ≤ bad then unitFault u (stopUnit u 7 s)
  else f s

/-- An uncorrectable column (R147): counted, and reported with CODE and ERRADDR. -/
def unitUncorrectable (u ula : Nat) (s : State) : State :=
  let x := getUnit s u
  let s1 := stopUnit u 1 (setUnit u { x with erraddr := errAddrOf ula } s)
  let a := ulaAddr s u ula
  post { cls := 1, code := 1, part := granulePart s (a / 2 ^ 18), kind := 16, logical := logicalUnit s u, physical := u % 9
         status := .dataDamaged, detail := .l 0 0xFFFF 1 0 (errAddrOf ula) } (cntAdd 0x602408 1 s1)

/-- Start a program (R135): ARG goes to S, the counts start afresh. -/
def startUnit (entry : Nat) (x : CruUnit) : CruUnit :=
  { x with st := .run, code := 0, pc := entry, entry := entry, rowcyc := 0, corr := 0, ops := 0, done := 0, openRow := none
           suspendReq := false, s := x.args }

/-- A program fault (R153): the program runs once more; a second identical fault is reported. -/
def programFault (u code : Nat) (s : State) : State :=
  let s1 := cntAdd 0x602418 1 (stopUnit u code s)
  let x := getUnit s1 u
  if x.reruns = 0 then setUnit u { startUnit x.entry x with reruns := code } s1
  else if x.reruns = code then post (unitEvent s u 3 (u % 9) 0 0) s1
  else s1

/-! ## The command path (R133 to R137) -/

/-- The unit runs no program (R133). -/
def unitFree (x : CruUnit) : Bool := x.st == .idle || x.st == .done || x.st == .fault

/-- CTL with GO: the program at ENTRY starts, where none runs. -/
def goUnit (entry : Nat) (u : Nat) (s : State) : State :=
  let x := getUnit s u
  if unitFree x then setUnit u { startUnit entry x with reruns := 0 } s else s

/-- CTL with ABORT: a unit that runs, yields or is suspended stops. -/
def abortUnit (u : Nat) (s : State) : State := if unitFree (getUnit s u) then s else stopUnit u 6 s

/-- CTL with SUSPEND: no effect but on a running unit (R151). -/
def suspendUnit (u : Nat) (s : State) : State :=
  let x := getUnit s u
  if x.st = .run then setUnit u { x with suspendReq := true } s else s

/-- Column `col` of the register area, as the controller writes it. STS, ROWCYC, ERRADDR, CORR, SAVE, OPS and DONE are the
unit's. -/
def writeColumn (col : Nat) (d : List Byte) (x : CruUnit) : CruUnit :=
  let args (first : Nat) (off n : Nat) : List Word :=
    (List.range 16).map fun i => if first ≤ i ∧ i < first + n then BitVec.ofNat 32 (fld d (off + 4 * (i - first)) 4) else x.args.getD i 0
  match col with
  | 0 => { x with clkbound := fld d 12 4, imgver := fld d 28 4 }
  | 1 => { x with rdLo := fld d 0 4, rdHi := fld d 4 4, stLo := fld d 8 4, stHi := fld d 12 4, args := args 0 16 4 }
  | 2 => { x with args := args 4 0 8 }
  | 3 => { x with args := args 12 0 4 }
  | _ => x

/-- CRW (R133): one column of the register area; column 0 carries CTL. -/
def execCrw (u : Nat) (col : Nat) (data : List Byte) (bad : Nat) (s : State) : Res :=
  .next (transfer u bad (fun s =>
    let s1 := setUnit u (writeColumn col data (getUnit s u)) s
    if col ≠ 0 then s1
    else
      let ctl := fld data 0 4
      if bit ctl 11 then abortUnit u s1
      else
        let s2 := if bit ctl 10 then goUnit (ctl % 1024) u s1 else s1
        if bit ctl 12 then suspendUnit u s2 else s2) s)

/-- CRUCIBLE_GO (R135). -/
def execCrucibleGo (u : Nat) (entry : BitVec 10) (s : State) : Res := .next (transfer u 0 (goUnit entry.toNat u) s)

/-- CRUCIBLE_ABORT (R153). -/
def execCrucibleAbort (u : Nat) (s : State) : Res := .next (transfer u 0 (abortUnit u) s)

/-- CRUCIBLE_SUSPEND (R151). -/
def execCrucibleSuspend (u : Nat) (s : State) : Res := .next (transfer u 0 (suspendUnit u) s)

/-- The 256 bytes of the register area (R135). The layout of SAVE is open: its bytes are free. -/
def registerArea (x : CruUnit) (k : Nat) : List Byte :=
  leBytes 4 x.entry ++ leBytes 4 (x.st.code + 16 * x.code + 4096 * (x.pc % 1024)) ++ leBytes 4 x.rowcyc ++ leBytes 4 x.clkbound
    ++ leBytes 8 x.erraddr ++ leBytes 4 x.corr ++ leBytes 4 x.imgver ++ leBytes 4 x.rdLo ++ leBytes 4 x.rdHi ++ leBytes 4 x.stLo
    ++ leBytes 4 x.stHi ++ (List.range 16).flatMap (fun i => leBytes 4 (x.args.getD i 0).toNat) ++ (List.range 32).map (Config.freeByte k)
    ++ leBytes 8 x.ops ++ leBytes 4 x.done ++ zeros 100

/-- The controller receives a column. -/
def gotColumn (d : List Byte) (s : State) : State := { s with mem := { s.mem with column := slice d 0 32 } }

/-- CRR (R133): the controller receives one column of the register area; a read changes nothing in the unit. -/
def execCrr (u : Nat) (col : Nat) (bad : Nat) (s : State) : Res :=
  .next (transfer u bad (fun s => gotColumn ((registerArea (getUnit s u) s.freeCnt).drop (32 * col)) (stepFree s)) s)

/-- Operand half h of a unit. -/
def CruUnit.opnd (x : CruUnit) (h : Nat) : List Byte := if h = 0 then x.opnd0 else x.opnd1

/-- A buffer of `n` bytes with `d` written at `off`; bytes not written before are zero. -/
def fillAt (n off : Nat) (d b : List Byte) : List Byte := slice (patch (slice b 0 n) off (d.take (n - off))) 0 n

/-- OPW (R133): one column of an operand half. -/
def execOpw (u : Nat) (h : Nat) (col : Nat) (data : List Byte) (bad : Nat) (s : State) : Res :=
  .next (transfer u bad (fun s =>
    let x := getUnit s u
    if 2 ≤ h ∨ 78 ≤ col then s
    else
      let b := fillAt 2496 (32 * col) (slice data 0 32) (x.opnd h)
      setUnit u (if h = 0 then { x with opnd0 := b } else { x with opnd1 := b }) s) s)

/-- RBR (R133): the controller receives one column of a result half; a read changes nothing in the unit. -/
def execRbr (u : Nat) (h : Nat) (col : Nat) (bad : Nat) (s : State) : Res :=
  .next (transfer u bad (fun s =>
    let x := getUnit s u
    gotColumn ((if h = 0 then x.res0 else x.res1).drop (32 * col)) s) s)

/-- Eight words of a column into the program store. -/
def storeWords (col : Nat) (d : List Byte) (t : Table Word) : Table Word :=
  (List.range 8).foldl (fun t i => tset t (8 * col + i) (BitVec.ofNat 32 (fld d (4 * i) 4))) t

/-- IMW (R133): one column of the program store of a unit that runs no program. -/
def execImw (u : Nat) (col : Nat) (data : List Byte) (bad : Nat) (s : State) : Res :=
  .next (transfer u bad (fun s =>
    let x := getUnit s u
    if unitFree x ∧ col < 128 then setUnit u { x with prog := storeWords col data x.prog } s else s) s)

/-! ## Words (R139, R140) -/

/-- OP of a word. -/
def wOp (w : Word) : Nat := bits w.toNat 26 6
/-- Register index X. -/
def wX (w : Word) : Nat := bits w.toNat 22 4
/-- Register index Y. -/
def wY (w : Word) : Nat := bits w.toNat 18 4
/-- Register index Z. -/
def wZ (w : Word) : Nat := bits w.toNat 14 4
/-- IMM. -/
def wImm (w : Word) : Nat := bits w.toNat 0 14

/-- Which of X, Y and Z an operation uses, and the mask of the IMM bits that it uses. -/
def wordUse (op imm : Nat) : Bool × Bool × Bool × Nat :=
  match op with
  | 0x00 => (false, false, false, 0xFF)
  | 0x01 => (false, false, false, 0)
  | 0x02 => (true, false, false, 0x3FFF)
  | 0x03 => (true, true, false, 0x3FFF)
  | 0x04 => (true, true, true, 0)
  | 0x05 => (true, false, false, 0x3FF)
  | 0x06 => (false, false, false, 0x3FF)
  | 0x07 => (true, false, false, 0x3FF)
  | 0x08 => (false, true, true, 1)
  | 0x09 => (false, true, false, 0)
  | 0x0A => (true, true, false, 0x3FF)
  | 0x0B => (true, true, false, 0x3FF)
  | 0x0C => (true, false, true, 1)
  | 0x0D => (true, false, true, 0x200)
  | 0x0E => (true, false, true, 3)
  | 0x0F => (true, false, false, 0)
  | 0x10 => (true, false, false, 0)
  | 0x11 => if imm % 8 = 0 then (false, false, false, 0xF) else if imm % 8 = 3 then (false, false, false, 7) else (false, true, true, 7)
  | 0x12 => (true, true, true, 0x200)
  | _ => (false, false, false, 0x3FFF)

/-- A defined opcode, zero in every field that it does not use, and no reserved field value (R136, R139). -/
def wordOk (w : Word) : Bool :=
  let op := wOp w
  let imm := wImm w
  let (x, y, z, m) := wordUse op imm
  decide (op ≤ 0x13) && (x || wX w == 0) && (y || wY w == 0) && (z || wZ w == 0) && (imm &&& (0x3FFF - m) == 0)
    && (op != 0x00 || imm == 0 || decide (0x80 ≤ imm)) && (op != 0x0A || bits imm 7 2 != 3) && (op != 0x0B || decide (bits imm 7 2 ≤ 1))
    && (op != 0x0E || imm != 2 && imm != 3) && (op != 0x11 || decide (imm % 8 ≤ 3))

/-- Words of the loaded image: one past the last word written. -/
def imageLen (x : CruUnit) : Nat := (x.prog.getLast?).elim 0 fun (i, _) => i + 1

/-- Scalar register i. -/
def CruUnit.reg (x : CruUnit) (i : Nat) : Word := x.s.getD i 0

/-- Set scalar register i. -/
def CruUnit.setReg (x : CruUnit) (i : Nat) (v : Word) : CruUnit :=
  { x with s := (List.range 16).map fun j => if j = i then v else x.s.getD j 0 }

/-- The next word. -/
def CruUnit.next (x : CruUnit) : CruUnit := { x with pc := x.pc + 1 }

/-- Run the word at PC of a running unit where it has opcode `op`; a word that is not in order faults (R136). -/
def cruStep (u op : Nat) (f : CruUnit → Word → State → State) (s : State) : Res :=
  .next (
    let x := getUnit s u
    if !mainOn s ∨ x.st ≠ .run then s
    else if imageLen x ≤ x.pc then programFault u 3 s
    else
      let w := tgetD x.prog x.pc 0
      if !wordOk w then programFault u 3 s else if wOp w ≠ op then s else f x w s)

/-- The limits of nv and D (R139, R140). -/
def shapeOk (nv d : Nat) : Bool :=
  decide (1 ≤ nv) && decide (nv ≤ 16) && d % 32 == 0 && decide (32 ≤ d) && decide (d ≤ 576) && decide (nv * d ≤ 2048)

/-- nv of an instruction that has only X. -/
def nvOk (nv : Nat) : Bool := decide (1 ≤ nv) && decide (nv ≤ 16)

/-! ## Control (R139) -/

/-- STOP (R139). At DONE the corrections are counted (R146). -/
def execCruStop (u : Nat) (s : State) : Res :=
  cruStep u 0x00 (fun x w s => stopUnit u (wImm w) (cntAdd 0x602400 x.corr s)) s

/-- YIELD (R149): every row is closed. -/
def execCruYield (u : Nat) (s : State) : Res :=
  cruStep u 0x01 (fun x _ s => setUnit u { x.next with st := .yielded, rowcyc := 0, openRow := none, suspendReq := false } s) s

/-- The refreshes that a unit's four banks owe are done. -/
def clearOwed (u : Nat) (s : State) : State :=
  { s with mem := { s.mem with owed := tfilter s.mem.owed fun k _ => k / 4 != u } }

/-- YIELD_RELEASE (R149). -/
def execYieldRelease (u : Nat) (s : State) : Res :=
  .next (
    let x := getUnit s u
    if x.st ≠ .yielded ∨ !mainOn s then s else clearOwed u (setUnit u { x with st := .run } s))

/-- IMM sign-extended to a word. -/
def immWord (w : Word) : Word := BitVec.ofInt 32 (sext (wImm w) 14)

/-- SETI (R139). -/
def execCruSeti (u : Nat) (s : State) : Res :=
  cruStep u 0x02 (fun x w s => setUnit u (x.setReg (wX w) (immWord w)).next s) s

/-- ADDI (R139). -/
def execCruAddi (u : Nat) (s : State) : Res :=
  cruStep u 0x03 (fun x w s => setUnit u (x.setReg (wX w) (x.reg (wY w) + immWord w)).next s) s

/-- ADD (R139). -/
def execCruAdd (u : Nat) (s : State) : Res :=
  cruStep u 0x04 (fun x w s => setUnit u (x.setReg (wX w) (x.reg (wY w) + x.reg (wZ w))).next s) s

/-- Jump to IMM[9:0], where the image reaches so far (R140). -/
def jumpTo (u : Nat) (x : CruUnit) (w : Word) (s : State) : State :=
  if imageLen x ≤ wImm w then programFault u 3 s else setUnit u { x with pc := wImm w } s

/-- LOOP (R139). -/
def execCruLoop (u : Nat) (s : State) : Res :=
  cruStep u 0x05 (fun x w s =>
    let v := x.reg (wX w) - 1
    let x1 := x.setReg (wX w) v
    if v = 0 then setUnit u x1.next s else jumpTo u x1 w s) s

/-- JUMP (R139). -/
def execCruJump (u : Nat) (s : State) : Res := cruStep u 0x06 (fun x w s => jumpTo u x w s) s

/-- BZ (R139). -/
def execCruBz (u : Nat) (s : State) : Res :=
  cruStep u 0x07 (fun x w s => if x.reg (wX w) = 0 then jumpTo u x w s else setUnit u x.next s) s

/-- POST (R139). -/
def execCruPost (u : Nat) (s : State) : Res :=
  cruStep u 0x13 (fun x w s => setUnit u { x.next with done := (x.done + wImm w) % 2 ^ 32 } s) s

/-! ## Streams and stores (R139, R146, R150) -/

/-- Activations of a stream or store over a range: one for each 4 KiB piece that is not the open row. -/
def activations (x : CruUnit) (ula n : Nat) : Nat :=
  if n = 0 then 0
  else (ula + n - 1) / 4096 - ula / 4096 + 1 - b2n (x.openRow == some (ula / 4096))

/-- The columns of a range that a read corrects, and the first that it cannot. -/
def columnMarks (s : State) (a cols : Nat) : List Nat × Option Nat :=
  let pat (i : Nat) : Option Decoded := (burstErr s (a / 32 + i)).map decodeErr
  let bad := (List.range cols).find? fun i => pat i == some .bad
  ((List.range cols).filter fun i => match pat i with
    | some (.fine _ (some _)) => decide (i < bad.getD cols)
    | _ => false, bad)

/-- RSTR (R139): a stream of columns into LB. -/
def execCruRstr (u : Nat) (s : State) : Res :=
  cruStep u 0x08 (fun x w s =>
    let ula := (x.reg (wY w)).toNat / 32 * 32
    let n := (x.reg (wZ w)).toNat
    if 32 * n ≠ 0 ∧ (ula < x.rdLo ∨ x.rdHi < ula + 32 * n ∨ ulaEnd < ula + 32 * n) then programFault u 4 s
    else
      let act := activations x ula (32 * n)
      if 512 < x.rowcyc + act then programFault u 2 (setUnit u { x with rowcyc := 512 } s)
      else
        let a := ulaAddr s u ula
        let (marks, bad) := columnMarks s a n
        let lane : Lane :=
          { ula := ula, cols := n, bytes := (List.range (32 * n)).map fun i => eccByte s (a + i), bad := bad, check := wImm w == 1, marks := marks }
        let row := if n = 0 then x.openRow else some ((ula + 32 * n - 1) / 4096)
        setUnit u { x.next with lane := lane, rowcyc := x.rowcyc + act, openRow := row, corr := (x.corr + marks.length) % 2 ^ 32 } s) s

/-- Use the first `n` bytes of the stream: an uncorrectable column among them stops the unit (R147). -/
def useLane (u n : Nat) (x : CruUnit) (f : State → State) (s : State) : State :=
  match x.lane.bad with
  | some c => if 32 * c < n then unitUncorrectable u (x.lane.ula + 32 * c) s else f s
  | none => f s

/-- LDS (R139): scales from the page header. A page with one plane has its K scales for both (R39, R69). -/
def execCruLds (u : Nat) (s : State) : Res :=
  cruStep u 0x09 (fun x w s =>
    let d := (x.reg (wY w)).toNat
    let n := d / 32
    if d % 32 ≠ 0 ∨ d = 0 ∨ 18 < n then programFault u 3 s
    else useLane u 64 x (fun s =>
      let b := x.lane.bytes
      let sk := (List.range n).map fun g => fld b (16 + 2 * g) 2
      let sv := (List.range n).map fun g => fld b (16 + 2 * (n + g)) 2
      let one := 64 < 16 + 4 * n ∨ 32 * x.lane.cols < 64 + 64 * d
      setUnit u { x.next with sk := sk, sv := if one then sk else sv, pageNo := fld b 0 4 } s) s) s

/-- Code (i, c) of a plane that starts at byte `off` of the stream, in the width of a DOT or ACC. -/
def laneCode (b : List Byte) (off width d i c : Nat) : Int :=
  let n := d * i + c
  if width = 0 then sext (fld b (off + n) 1) 8 else sext (fld b (off + n / 2) 1 / (if n % 2 = 0 then 1 else 16)) 4

/-- Bytes of a plane of 64 positions. -/
def planeBytes (width d : Nat) : Nat := 64 * d / (if width = 0 then 1 else 2)

/-- Query codes of vector v in an operand half. -/
def queryCodes (h : List Byte) (d v : Nat) : List Int := (List.range d).map fun c => sext (fld h (v * d + c) 1) 8

/-- Constant i of an operand half. -/
def ctOf (h : List Byte) (i : Nat) : BitVec 32 := if i < 64 then BitVec.ofNat 32 (fld h (2048 + 4 * i) 4) else 0

/-- qpos of vector v. -/
def qpOf (h : List Byte) (v : Nat) : Nat := fld h (2304 + 4 * v) 4

/-- Score (v, i). -/
def sbOf (x : CruUnit) (v i : Nat) : BitVec 32 := (x.sb.getD v []).getD i 0

/-- The score buffer with vectors below nv computed afresh. -/
def mapScores (nv : Nat) (f : Nat → Nat → BitVec 32) (x : CruUnit) : CruUnit :=
  { x with sb := (List.range 16).map fun v => (List.range 64).map fun i => if v < nv then f v i else sbOf x v i }

/-- DOT (R142). -/
def execCruDot (u : Nat) (s : State) : Res :=
  cruStep u 0x0A (fun x w s =>
    let nv := (x.reg (wX w)).toNat
    let d := (x.reg (wY w)).toNat
    let imm := wImm w
    let n := imm % 128
    let width := bits imm 7 2
    let h := x.opnd (bits imm 9 1)
    let codes (v : Nat) : List Int := queryCodes h d v
    if !shapeOk nv d ∨ n = 0 ∨ 64 < n then programFault u 3 s
    else if width = 2 ∧ (List.range nv).any fun v => (codes v).any fun c => decide (c < -7) || decide (7 < c) then programFault u 3 s
    else useLane u (64 + n * d / (if width = 0 then 1 else 2)) x (fun s =>
      let key (i : Nat) : List Int := (List.range d).map fun c => laneCode x.lane.bytes 64 width d i c
      let x1 := mapScores nv (fun v i => if i < n then scaledDot x.sk (codes v) (key i) else sbOf x v i) x
      setUnit u { x1.next with nv := nv, d := d, half := bits imm 9 1, ops := (x.ops + 2 * nv * d * n) % 2 ^ 64 } s) s) s

/-- Weight (v, i). -/
def wbOf (x : CruUnit) (v i : Nat) : Nat := (x.wb.getD v []).getD i 0

/-- Sum (v, c) of ACC. -/
def accOf (x : CruUnit) (v c : Nat) : Int := (x.acc.getD v []).getD c 0

/-- ACC (R139). A page with one plane gives its K codes as V codes (R69). -/
def execCruAcc (u : Nat) (s : State) : Res :=
  cruStep u 0x0B (fun x w s =>
    let nv := (x.reg (wX w)).toNat
    let d := (x.reg (wY w)).toNat
    let imm := wImm w
    let n := imm % 128
    let width := bits imm 7 2
    let p := planeBytes width d
    let off := if 32 * x.lane.cols < 64 + 2 * p then 64 else 64 + p
    if !shapeOk nv d ∨ n = 0 ∨ 64 < n then programFault u 3 s
    else useLane u (off + n * d / (if width = 0 then 1 else 2)) x (fun s =>
      let clear := bit imm 9
      let sum (v c : Nat) : Int :=
        (List.range n).foldl (fun t i => t + (wbOf x v i : Int) * laneCode x.lane.bytes off width d i c) (if clear then 0 else accOf x v c)
      let acc := (List.range 16).map fun v =>
        if v < nv then (List.range d).map fun c => (BitVec.ofInt 32 (sum v c)).toInt else if clear then [] else x.acc.getD v []
      setUnit u { x.next with acc := acc, nv := nv, d := d, ops := (x.ops + 2 * nv * d * n) % 2 ^ 64 } s) s) s

/-- SCALE (R139), with the constants of the half that DOT used. -/
def execCruScale (u : Nat) (s : State) : Res :=
  cruStep u 0x0C (fun x w s =>
    let nv := (x.reg (wX w)).toNat
    let z := (x.reg (wZ w)).toNat
    let h := x.opnd x.half
    if !nvOk nv then programFault u 3 s
    else setUnit u (mapScores nv (fun v i => fMul (ctOf h (if wImm w = 0 then z + v else z)) (sbOf x v i)) x).next s) s

/-- HOOK (R142): one entry of HT. The operations that units compute are those of R86; any other is reserved here. -/
def execCruHook (u : Nat) (s : State) : Res :=
  cruStep u 0x0D (fun x w s =>
    let nv := (x.reg (wX w)).toNat
    let z := (x.reg (wZ w)).toNat
    let h := x.opnd (bits (wImm w) 9 1)
    let op := fld h (2368 + 8 * z) 1
    let arg : BitVec 32 := BitVec.ofNat 32 (fld h (2372 + 8 * z) 4)
    if !nvOk nv ∨ 16 ≤ z ∨ !([0, 1, 2, 6, 7, 8, 9].contains op) then programFault u 3 s
    else
      let x1 := if op = 0 then x else
        mapScores nv (fun v i => hookOp op arg (ctOf h (32 + v)) ((qpOf h v : Int) - ((64 * x.pageNo + i : Nat) : Int)) (sbOf x v i)) x
      setUnit u { x1.next with half := bits (wImm w) 9 1 } s) s

/-- CSEL (R139). -/
def execCruCsel (u : Nat) (s : State) : Res :=
  cruStep u 0x0E (fun x w s =>
    let nv := (x.reg (wX w)).toNat
    let z := (x.reg (wZ w)).toNat
    let h := x.opnd x.half
    let out (v i : Nat) : Bool := if wImm w = 0 then decide (qpOf h v < z + i) else decide (z ≤ i)
    if !nvOk nv then programFault u 3 s
    else setUnit u (mapScores nv (fun v i => if out v i then fNegInf else sbOf x v i) x).next s) s

/-- MAX (R139). -/
def execCruMax (u : Nat) (s : State) : Res :=
  cruStep u 0x0F (fun x w s =>
    let nv := (x.reg (wX w)).toNat
    let m := (List.range 16).map fun v => if v < nv then maxScore ((List.range 64).map (sbOf x v)) else x.m.getD v 0
    if !nvOk nv then programFault u 3 s else setUnit u { x.next with m := m } s) s

/-- The weight of a score under a maximum (R143). -/
def exp2Weight (m sb : BitVec 32) : Nat := if sb = fNegInf ∨ m = fNegInf then 0 else exp2Q127 (fSub sb m)

/-- EXP2 (R143). -/
def execCruExp2 (u : Nat) (s : State) : Res :=
  cruStep u 0x10 (fun x w s =>
    let nv := (x.reg (wX w)).toNat
    let wb := (List.range 16).map fun v =>
      if v < nv then (List.range 64).map fun i => exp2Weight (x.m.getD v 0) (sbOf x v i) else x.wb.getD v []
    let ps := (List.range 16).map fun v => if v < nv then sumN (wb.getD v []) else x.ps.getD v 0
    if !nvOk nv then programFault u 3 s else setUnit u { x.next with wb := wb, ps := ps } s) s

/-- Bytes of one vector in a result record (R144). -/
def recStride (d : Nat) : Nat := 32 * cdiv (8 + 3 * d) 32

/-- Bytes of SV in a result record. -/
def recHead (d : Nat) : Nat := if 512 < d then 64 else 32

/-- The result record of R144. -/
def resultRecord (x : CruUnit) : List Byte :=
  slice ((List.range (x.d / 32)).flatMap fun g => leBytes 2 (x.sv.getD g 0)) 0 (recHead x.d)
    ++ (List.range x.nv).flatMap fun v =>
      slice (leBytes 4 (x.m.getD v 0).toNat ++ leBytes 4 (x.ps.getD v 0)
        ++ (List.range x.d).flatMap fun c => leBytes 3 (toTwos (accOf x v c) 24)) 0 (recStride x.d)

/-- Write into a result half. -/
def CruUnit.writeResult (x : CruUnit) (h off : Nat) (d : List Byte) : CruUnit :=
  if h = 0 then { x with res0 := fillAt 8192 off d x.res0 } else { x with res1 := fillAt 8192 off d x.res1 }

/-- A STORE in one mode. -/
def storeRow (u mode : Nat) (f : CruUnit → Word → State → State) (s : State) : Res :=
  cruStep u 0x11 (fun x w s => if wImm w % 8 = mode then f x w s else s) s

/-- CRU_STORE_RESULT (R144): STORE mode 0, for the shape of the last DOT or ACC. -/
def execCruStoreResult (u : Nat) (s : State) : Res :=
  storeRow u 0 (fun x w s =>
    let h := bits (wImm w) 3 1
    setUnit u { x.writeResult h 0 (resultRecord x) with pc := x.pc + 1, resHalf := h } s) s

/-- Write columns where the grant allows it (R139, R150, R158). -/
def storeColumns (u ula : Nat) (x : CruUnit) (d : List Byte) (s : State) : State :=
  let n := d.length
  if n ≠ 0 ∧ (ula < x.stLo ∨ x.stHi < ula + n ∨ ulaEnd < ula + n) then programFault u 4 s
  else
    let act := activations x ula n
    if 512 < x.rowcyc + act then programFault u 2 (setUnit u { x with rowcyc := 512 } s)
    else
      let row := if n = 0 then x.openRow else some ((ula + n - 1) / 4096)
      setUnit u { x.next with rowcyc := x.rowcyc + act, openRow := row } (writeMem (ulaAddr s u ula) d s)

/-- CRU_STORE_COPY (R159): STORE mode 1. -/
def execCruStoreCopy (u : Nat) (s : State) : Res :=
  storeRow u 1 (fun x w s =>
    let n := 32 * (x.reg (wZ w)).toNat
    useLane u n x (storeColumns u ((x.reg (wY w)).toNat / 32 * 32) x (slice x.lane.bytes 0 n)) s) s

/-- CRU_STORE_ZERO (R158): STORE mode 2. -/
def execCruStoreZero (u : Nat) (s : State) : Res :=
  storeRow u 2 (fun x w s => storeColumns u ((x.reg (wY w)).toNat / 32 * 32) x (zeros (32 * (x.reg (wZ w)).toNat)) s) s

/-- CRU_STORE_REWRITE (R146): STORE mode 3, the marked columns of the last checking stream, up to one that cannot be corrected. -/
def execCruStoreRewrite (u : Nat) (s : State) : Res :=
  storeRow u 3 (fun x _ s =>
    let l := x.lane
    let marks := if l.check then l.marks else []
    if marks.any fun c => decide (l.ula + 32 * c < x.stLo) || decide (x.stHi < l.ula + 32 * c + 32) then programFault u 4 s
    else useLane u (32 * l.cols) x (fun s =>
      setUnit u { x.next with lane := { l with marks := [] } }
        (forEach marks (fun c s => writeMem (ulaAddr s u (l.ula + 32 * c)) (slice l.bytes (32 * c) 32) s) s)) s) s

/-- SSCORE (R142): the score of each summary record, over both keys and every vector. -/
def execCruSscore (u : Nat) (s : State) : Res :=
  cruStep u 0x12 (fun x w s =>
    let nv := (x.reg (wX w)).toNat
    let d := (x.reg (wY w)).toNat
    let n := (x.reg (wZ w)).toNat
    let hn := bits (wImm w) 9 1
    let h := x.opnd hn
    let z := summarySize d
    if !shapeOk nv d ∨ 2048 < n then programFault u 3 s
    else useLane u (z * n) x (fun s =>
      let qs := (List.range nv).map fun v => (ctOf h v, queryCodes h d v)
      let out := (List.range n).flatMap fun r => leBytes 4 (pageScore d qs (slice x.lane.bytes (z * r) z)).toNat
      setUnit u { x.writeResult hn 0 out with pc := x.pc + 1, resHalf := hn, ops := (x.ops + 4 * nv * d * n) % 2 ^ 64 } s) s) s

/-- The partial of vector v in a result half (R144). -/
def finishRecord (b : List Byte) (d v : Nat) : Partial :=
  let o := recHead d + recStride d * v
  finishC (BitVec.ofNat 32 (fld b o 4)) (fld b (o + 4) 4) ((List.range d).map fun c => sext (fld b (o + 8 + 3 * c) 3) 24)
    ((List.range (d / 32)).map fun g => fld b (2 * g) 2) d

/-- CRU_RESULT_READ (R144): after DONE the leaf finisher forms the partials, and the unit holds no program any more. -/
def execCruResultRead (u : Nat) (s : State) : Res :=
  .next (
    let x := getUnit s u
    if x.st ≠ .done ∨ !mainOn s then s
    else
      let b := if x.resHalf = 0 then x.res0 else x.res1
      let ps := (List.range x.nv).map (finishRecord b x.d)
      let s1 := setUnit u { x with st := .idle } s
      { s1 with mem := { s1.mem with finished := tset s1.mem.finished u ps } })

/-! ## Limits, refresh and suspension (R136, R149 to R153) -/

/-- CRU_STALL_TIMEOUT (R153). -/
def execCruStallTimeout (u : Nat) (s : State) : Res :=
  .next (if (getUnit s u).st = .run ∧ mainOn s then unitFault u (stopUnit u 7 s) else s)

/-- CRU_CLOCK_BOUND (R136). -/
def execCruClockBound (u : Nat) (s : State) : Res :=
  .next (
    let x := getUnit s u
    if x.st = .run ∧ x.clkbound ≠ 0 ∧ mainOn s then unitFault u (stopUnit u 5 s) else s)

/-- Refreshes that a bank owes. -/
def owedBy (s : State) (u bank : Nat) : Nat := tgetD s.mem.owed (4 * u + bank) 0

/-- Set what a bank owes. -/
def setOwed (u bank n : Nat) (s : State) : State := { s with mem := { s.mem with owed := tset s.mem.owed (4 * u + bank) n } }

/-- The unit holds a row of the bank (R148). -/
def holdsBank (x : CruUnit) (bank : Nat) : Bool :=
  x.st == .run && (match x.openRow with
    | some r => r % 4 == bank
    | none => false)

/-- REFRESH_DUE (R149, R151): a bank that the unit holds no row in is refreshed with what it owes, else the refresh is owed; at 7
the unit is asked to suspend. -/
def execRefreshDue (u : Nat) (bank : Nat) (s : State) : Res :=
  .next (
    let x := getUnit s u
    if !mainOn s ∨ 4 ≤ bank ∨ 1152 ≤ u then s
    else if !holdsBank x bank then setOwed u bank 0 s
    else
      let n := min 8 (owedBy s u bank + 1)
      let s1 := setOwed u bank n s
      if 7 ≤ n then suspendUnit u s1 else s1)

/-- CRU_ROW_BOUNDARY_SUSPEND (R151). -/
def execCruRowBoundarySuspend (u : Nat) (s : State) : Res :=
  .next (
    let x := getUnit s u
    if x.st ≠ .run ∨ !x.suspendReq ∨ !mainOn s then s
    else cntAdd 0x602410 1
      (setUnit u { x with st := .suspended, suspendReq := false, savePc := x.pc, saveRow := x.openRow, openRow := none } s))

/-- The bank of a suspended unit that owes the most. -/
def owingBank (s : State) (u : Nat) : Nat :=
  (List.range 4).foldl (fun b k => if owedBy s u b < owedBy s u k then k else b) 0

/-- CRU_SUSPEND_RESUME (R151): one refresh of the owing bank is done, the row is open again and the unit runs. -/
def execCruSuspendResume (u : Nat) (s : State) : Res :=
  .next (
    let x := getUnit s u
    if x.st ≠ .suspended ∨ !mainOn s then s
    else
      let b := owingBank s u
      setOwed u b (owedBy s u b - 1) (setUnit u { x with st := .run, pc := x.savePc, openRow := x.saveRow, saveRow := none } s))

/-! ## Images (R156) -/

/-- VERSION_PEND of a package in force. -/
def imgVersion (s : State) (pkg : Nat) : Nat := actBits s (0x602100 + 16 * pkg) 0 16

/-- MEM_CRU_IMG of a package shows how far its load is (R160). -/
def showImg (pkg : Nat) (s : State) : State :=
  let o := 0x602104 + 16 * pkg
  let n := ((List.range 72).filter fun i => tget s.mem.imgLoaded (72 * pkg + i) == some (imgVersion s pkg)).length
  let s1 := setValBits o 23 1 (b2n (s.mem.switching.contains pkg)) (setValBits o 16 7 (if imgVersion s pkg = 0 then 0 else n) s)
  if n = 72 then setValBits o 0 16 (imgVersion s pkg) s1 else s1

/-- The program store that an image fills. -/
def imageProg (words : List Nat) : Table Word := words.zipIdx.map fun (w, i) => (i, BitVec.ofNat 32 w)

/-- CRUCIBLE_IMAGE_LOAD (R156): a unit that runs no program takes the new image; the last of the package ends the switch. -/
def execCrucibleImageLoad (pkg : Nat) (unit : Nat) (s : State) : Res :=
  .next (
    let u := 72 * pkg + unit
    let x := getUnit s u
    let v := imgVersion s pkg
    if !s.mem.switching.contains pkg ∨ 72 ≤ unit ∨ 16 ≤ pkg ∨ !unitFree x ∨ !mainOn s then s
    else
      let prog := match crucImage s v with
        | some i => imageProg i.words
        | none => x.prog
      let s1 := setUnit u { x with prog := prog, imgver := v } s
      let loaded := tset s1.mem.imgLoaded u v
      let all := (List.range 72).all fun i => tget loaded (72 * pkg + i) == some v
      let sw := if all then s1.mem.switching.erase pkg else s1.mem.switching
      showImg pkg { s1 with mem := { s1.mem with imgLoaded := loaded, switching := sw } })

/-! ## Scrub and row retirement (R157, R159) -/

/-- An uncorrectable burst that a scrub or a copy meets (R147). -/
def burstEvent (u burst : Nat) (s : State) : State :=
  let ea := errAddrOf (burst / 8192 / 1024 * 2 ^ 18 + burst % 8192 * 32)
  let x := getUnit s u
  let s1 := showLast u 1 (setUnit u { x with erraddr := ea } s)
  post { cls := 1, code := 1, part := granulePart s (burst / 8192), kind := 16, logical := logicalUnit s u, physical := u % 9
         status := .dataDamaged, detail := .l 0 0xFFFF 1 0 ea } (cntAdd 0x602408 1 s1)

/-- The bursts with an error pattern among `n` from `b` on. -/
def errBursts (s : State) (b n : Nat) : List (Nat × List Byte) := s.mem.err.filter fun (k, _) => decide (b ≤ k) && decide (k < b + n)

/-- Read a run of bursts and rewrite what was corrected, as the scrub program does. -/
def scrubBursts (u b n : Nat) (s : State) : State :=
  forEach (errBursts s b n) (fun (k, e) s =>
    match decodeErr e with
    | .fine _ fixed => cntAdd 0x602400 (b2n fixed.isSome) (writeMem (32 * k) ((List.range 32).map fun i => eccByte s (32 * k + i)) s)
    | .bad => burstEvent u k s) s

/-- SCRUB_LAUNCH (R157): one granule of the unit's bank group. -/
def execScrubLaunch (u : Nat) (granule : Nat) (s : State) : Res :=
  .next (
    if !mainOn s ∨ 1152 ≤ u ∨ 6291456 ≤ granule ∨ granule % 1024 ≠ logicalUnit s u then s
    else
      let s1 := scrubBursts u (8192 * granule) 8192 s
      { s1 with mem := { s1.mem with scrubPos := granule } })

/-- Local address of row `r` of a unit's bank group: row and bank as in a ULA, in 4 KiB pieces. -/
def rowAddr (s : State) (u r : Nat) : Nat := ulaAddr s u (4096 * r)

/-- ROW_RETIRE_COPY (R159): the row is copied within the bank group, corrected on the way, and the copy serves in its place. -/
def execRowRetireCopy (unit : Nat) (src : Nat) (dst : Nat) (s : State) : Res :=
  .next (
    if !mainOn s ∨ 1152 ≤ unit ∨ 393216 ≤ src ∨ 393216 ≤ dst ∨ src = dst then s
    else
      let a := rowAddr s unit src
      match firstBadBurst s a 4096 with
      | some b => burstEvent unit b s
      | none =>
        let fixed := ((errBursts s (a / 32) 128).filter fun (_, e) => match decodeErr e with
          | .fine _ f => f.isSome
          | .bad => false).length
        let data := (List.range 4096).map fun i => eccByte s (a + i)
        let s1 := cntAdd 0x602400 fixed (writeMem a data (writeMem (rowAddr s unit dst) data s))
        let s2 : State := { s1 with mem := { s1.mem with retiredRows := tset s1.mem.retiredRows (2 ^ 20 * unit + src) dst } }
        post { cls := 1, code := 3, part := granulePart s (a / 2 ^ 18), kind := 16, logical := logicalUnit s unit, physical := unit % 9
               detail := .l 0 0xFFFF 0 0 a } s2)

/-! ## The cast audit (R127) -/

/-- The sealed CAST pages of the node's OPEN and FROZEN sequences that are here, in order. -/
def auditPages (s : State) : List (Nat × Nat × Nat) :=
  s.seqs.flatMap fun (n, q) =>
    if q.state = .open_ ∨ q.state = .frozen then
      q.streams.zipIdx.flatMap fun (x, st) => (x.pdes.filter fun (p, d) => d.sealed_ && d.fmt == fmtCast && !d.remote && !d.dmg
        && (tget x.copies p).isSome).map fun (p, _) => (n, st, p)
    else []

/-- Page a comes after page b. -/
def auditAfter (a b : Nat × Nat × Nat) : Bool :=
  decide (b.1 < a.1) || (a.1 == b.1 && (decide (b.2.1 < a.2.1) || (a.2.1 == b.2.1 && decide (b.2.2 < a.2.2))))

/-- CAST_AUDIT_PIECE (R127): one page is decoded, and one that fails is reported as on any read. -/
def execCastAuditPiece (s : State) : Res :=
  .next (
    if !serving s ∨ actBits s 0x900100 0 1 = 0 then s
    else
      let ps := auditPages s
      let (next, wrapped) := match ps.find? fun p => auditAfter p s.mem.auditPos with
        | some p => (some p, false)
        | none => (ps.head?, true)
      let s1 := if wrapped then setValBits 0x900104 31 1 1 s else s
      match next with
      | none => s1
      | some (n, st, p) =>
        let q := getSeq s1 n
        let x := q.streams.getD st {}
        let d := tgetD x.pdes p {}
        let e := tgetD x.copies p {}
        let s2 := setValBits 0x900104 0 20 n { s1 with mem := { s1.mem with auditPos := (n, st, p) } }
        match expand (slotOf s q.mslot) (if x.tableBad then none else x.table) p st q.hdr d.tver d.len e.bytes with
        | .error f => castDamage n st p f.code q.part 0 s2
        | .ok _ => s2)

end Sys2Proof.Machine
end

