-- ==== Sys2Proof/Machine/DeckImage.lean ====
section
/-! DEFINITION. Deck images (R232, R235 to R239, R242): parsing, the checks of DECK_LOAD that need the image alone, and the
times of rounds and slots. -/

namespace Sys2Proof.Machine

open Sys2Proof

/-! ## Layout (R235, R236, R239) -/

/-- A card from its 32 bytes. -/
def readCard (b : List Byte) : Card :=
  { pos := fld b 0 2, slot := fldBits b 2 1 0 6, spanM1 := fldBits b 3 1 0 6, rclass := fld b 4 1, rinst := fld b 5 1
    kind := fld b 6 1, first := bit (fld b 7 1) 0, last := bit (fld b 7 1) 1, step := fld b 8 2, cost := fld b 12 4
    arg0 := fld b 16 4, arg1 := fld b 20 4, arg2 := fld b 24 4 }

/-- A task from its 128 bytes. -/
def readTask (b : List Byte) : Task := { desc := slice b 0 64, stride := fld b 64 8, rot := fld b 72 2, amask := fld b 74 1 }

/-- Byte offset of the task table. -/
def taskOff (b : List Byte) : Nat := roundUp (64 + 32 * fld b 24 4) 64

/-- Byte offset of the route table. -/
def routeOff (b : List Byte) : Nat := taskOff b + 128 * fld b 28 4

/-- The 32 bytes of card `i`. -/
def cardBytes (b : List Byte) (i : Nat) : List Byte := slice b (64 + 32 * i) 32

/-- The 128 bytes of task `i`. -/
def taskBytes (b : List Byte) (i : Nat) : List Byte := slice b (taskOff b + 128 * i) 128

/-- An image as records. -/
def readImage (b : List Byte) : DeckImage :=
  { dfmt := fld b 0 1, loan := bit (fld b 1 1) 0, roundUs := fld b 2 2, id := fld b 4 4, cycle := fld b 8 2, nodes := fld b 10 2
    diameter := fld b 12 2, rcLimit := fld b 14 2, house := fld b 16 8, steps := fld b 34 2
    cards := (List.range (fld b 24 4)).map fun i => readCard (cardBytes b i)
    tasks := (List.range (fld b 28 4)).map fun i => readTask (taskBytes b i)
    routes := (List.range (fld b 32 2)).map fun i => fld b (routeOff b + 4 * i) 4 }

/-! ## Time (R232) -/

/-- Length of a round in ns. -/
def DeckImage.roundNs (d : DeckImage) : Nat := 1000 * d.roundUs

/-- When slot `k` of time round `t` begins; a slot may begin between two ns, and the later one counts. -/
def DeckImage.slotAt (d : DeckImage) (t k : Nat) : Nat := t * d.roundNs + cdiv (k * d.roundNs) 64

/-! ## Resources and kinds (R237, R238) -/

/-- Instances of a resource class. -/
def classSize : Nat → Nat
  | 0 => 16
  | 1 => 4
  | 2 => 4
  | 3 => 2
  | 4 => 4
  | 5 => 32
  | 6 => 6
  | 7 => 4
  | 8 => 1
  | _ => 0

/-- The kind suits the class. -/
def kindSuits (kind cls : Nat) : Bool :=
  if kind = 1 then decide (cls ≤ 5)
  else if kind = 2 then decide (cls ≤ 7)
  else if kind = 3 ∨ kind = 4 then cls == 6
  else decide (5 ≤ kind) && decide (kind ≤ 8) && cls == 8

/-- The arguments of a card are in range. -/
def cardArgsOk (d : DeckImage) (c : Card) : Bool :=
  match c.kind with
  | 1 => decide (c.arg0 < d.tasks.length) && c.arg1 == 0 && c.arg2 == 0
  | 2 => decide (c.arg0 < d.tasks.length) && c.cost == 0
  | 3 => bits c.arg0 12 4 == 0 && decide (1 ≤ c.arg2) && decide (c.arg2 ≤ 262144) && decide (c.arg1 + c.arg2 ≤ 2 ^ 25)
  | 4 => bits c.arg0 12 4 == 0 && decide (1 ≤ c.arg2) && decide (c.arg2 ≤ 262144) && decide (c.arg1 + c.arg2 ≤ 2 ^ 25)
  | 5 => decide (c.arg0 < 65536)
  | 6 => decide (c.arg0 < 65536)
  | 7 => decide (c.arg0 < 65536) && d.loan
  | _ => c.arg0 == 0 && c.arg1 == 0 && c.arg2 == 0

/-- Check 3 of one card. -/
def cardOk (d : DeckImage) (b : List Byte) : Bool :=
  let c := readCard b
  decide (c.pos < d.cycle) && decide (fld b 2 1 < 64) && decide (fld b 3 1 < 64) && decide (c.slot + c.spanM1 ≤ 63)
    && decide (c.rinst < classSize c.rclass) && kindSuits c.kind c.rclass && decide (fld b 7 1 < 4) && decide (c.step < d.steps)
    && fld b 10 2 == 0 && fld b 28 4 == 0 && cardArgsOk d c

/-- Opcodes that a task may hold (R239). -/
def taskOp (op : Nat) : Bool := [0x10, 0x11, 0x18, 0x20, 0x21, 0x22, 0x30, 0x31].contains op

/-- Check 4 of one task. -/
def taskOk (b : List Byte) : Bool :=
  taskOp (fld b 1 1) && fld b 64 8 % 64 == 0 && fld b 72 2 != 0 && !bit (fld b 74 1) 0 && allZero (slice b 75 53)

/-- Check 2: header ranges, reserved fields, sizes and CRC. -/
def imageHeaderOk (b : List Byte) : Bool :=
  decide (fld b 1 1 < 2) && decide (4 ≤ fld b 2 2) && decide (fld b 2 2 ≤ 256) && fld b 4 4 != 0
    && decide (2 ≤ fld b 8 2) && decide (fld b 8 2 ≤ 4096) && decide (1 ≤ fld b 10 2) && decide (fld b 10 2 ≤ 512)
    && decide (fld b 12 2 ≤ 15) && decide (400 ≤ fld b 14 2) && decide (fld b 14 2 ≤ 2000) && fld b 16 8 != 0
    && decide (1 ≤ fld b 24 4) && decide (fld b 24 4 ≤ 131072) && decide (fld b 28 4 ≤ 16384) && decide (fld b 32 2 ≤ 4096)
    && fld b 34 2 != 0 && allZero (slice b 40 24)
    && b.length == routeOff b + 4 * fld b 32 2
    && crc32c (patch b 36 (zeros 4)) == fld b 36 4

/-- Slots of a card's span. -/
def Card.slots (c : Card) : List Nat := (List.range (c.spanM1 + 1)).map (c.slot + ·)

/-- Two cards hold one resource at one position and slot (R237). -/
def cardsClash (a b : Card) : Bool :=
  a.rclass == b.rclass && a.rinst == b.rinst && a.pos == b.pos && decide (a.slot ≤ b.slot + b.spanM1)
    && decide (b.slot ≤ a.slot + a.spanM1)

/-- `a` stands no earlier than `b`. -/
def notBefore (a b : Card) : Bool := decide (b.pos < a.pos) || (a.pos == b.pos && decide (b.slot ≤ a.slot))

/-- Check 8 of one step: its cards in the table's order. -/
def stepOk (cs : List Card) : Bool :=
  let rel := cs.filter fun c => c.kind == 8
  (cs.filter (·.first)).length == 1 && (cs.filter (·.last)).length == 1 && rel.length == 1
    && (cs.all fun c => !(c.kind == 1 || c.kind == 4) || rel.all fun r => notBefore r c)
    && cs.all fun c => cs.all fun e => decide (c.pos < e.pos + 16)

/-- Check 9 of one card: COST × RC_LIMIT_PS / 1,000 is at most the span in ns less 10. -/
def cardFits (d : DeckImage) (c : Card) : Bool :=
  decide (64 * c.cost * d.rcLimit + 640000 ≤ 1000 * (c.spanM1 + 1) * d.roundNs)

/-- The place of the first element that fails. -/
def firstFail {α : Type} (ok : α → Bool) (l : List α) : Option Nat := l.findIdx? fun x => !ok x

/-- The first check of R242 that fails, but for check 11: its number and the failing card or task. -/
def imageFail (b : List Byte) : Option (Nat × Nat) :=
  let d := readImage b
  let at_ (n : Nat) (r : Option Nat) : Option (Nat × Nat) := r.map fun i => (n, i)
  let ofStep (i : Nat) : Nat := (d.cards.findIdx? fun c => c.step == i).getD 0
  if !(d.dfmt == 2 || (d.dfmt == 1 && d.loan)) then some (1, 0)
  else if !imageHeaderOk b then some (2, 0)
  else
    let cards := d.cards.zipIdx
    (at_ 3 ((List.range d.cards.length).find? fun i => !cardOk d (cardBytes b i))).or
    <| (at_ 4 ((List.range d.tasks.length).find? fun i => !taskOk (taskBytes b i))).or
    <| (at_ 5 (firstFail (fun c => c.slots.all fun k => !bit d.house k) d.cards)).or
    <| (at_ 6 ((cards.find? fun (c, i) => cards.any fun (e, j) => decide (j < i) && cardsClash c e).map (·.2))).or
    <| (at_ 7 (firstFail (fun c => c.pos + 1 != d.cycle) d.cards)).or
    <| (at_ 8 (((List.range d.steps).find? fun i => !stepOk (d.cards.filter fun c => c.step == i)).map ofStep)).or
    <| (at_ 9 (firstFail (cardFits d) d.cards)).or
    <| if d.diameter * 200 + 1000 ≤ d.roundNs then none else some (10, 0)

/-- The status of a failed check. -/
def checkFail (n : Nat) : Nat := if n = 1 then 6 else if n ≤ 4 then 1 else if n ≤ 10 then 2 else 4

end Sys2Proof.Machine
end

