-- ==== Sys2Proof/Machine/RecallMath.lean ====
section
/-! DEFINITION. The recall index as a calculation: index records (R162, R164), keys (R168), the visited set and the batch
loop (R171), visibility (R170), filters (R172), pruning (R181), the write log (R189) and the sweep (R186). -/

namespace Sys2Proof.Machine

open Sys2Proof

/-! ## Index records (R162, R164) -/

/-- An index record. -/
structure IdxCfg where
  valid : Bool
  ordered : Bool
  part : Nat
  vfmt : Nat
  metric : Nat
  dim : Nat
  degree : Nat
  width : Nat
  beam : Nat
  buildBeam : Nat
  alpha : F32
  maxHops : Nat
  shardNo : Nat
  shards : List Nat
  shardCnt : Nat
  base : Nat
  capacity : Nat
  deriving DecidableEq, Repr

/-- Read a record. -/
def IdxCfg.ofBytes (b : List Byte) : IdxCfg :=
  { valid := bit (fld b 0 1) 0, ordered := bit (fld b 0 1) 1, part := fld b 1 1 % 64, vfmt := fld b 2 1, metric := fld b 3 1
    dim := fld b 4 2, degree := fld b 6 1, width := fld b 7 1, beam := fld b 8 2, buildBeam := fld b 10 2
    alpha := BitVec.ofNat 32 (fld b 12 4), maxHops := fld b 16 4, shardNo := fld b 20 2, shardCnt := fld b 22 1
    shards := (List.range (min 8 (fld b 22 1))).map fun i => fld b (40 + 2 * i) 2
    base := fld b 24 8, capacity := fld b 32 8 % 2 ^ 35 }

/-- Bytes of a vector in VFMT. -/
def vecBytes (c : IdxCfg) : Nat := if c.vfmt = 2 then 2 * c.dim else if c.vfmt = 3 then c.dim / 8 else c.dim

/-- Vector slot size VS. -/
def slotSize (c : IdxCfg) : Nat := roundUp (vecBytes c + if c.metric = 2 then 4 else 0) 32

/-- Edge list size ES. -/
def listSize (c : IdxCfg) : Nat := roundUp (5 * c.degree) 32

/-- Entries of the write log, the insert log and the delete log. -/
def wlogSize : Nat := 262144
def ilogSize : Nat := 65536
def dlogSize : Nat := 65536

/-- Bytes of the index area. -/
def indexArea (c : IdxCfg) : Nat :=
  roundUp (slotSize c * c.capacity) 4096 + roundUp (listSize c * c.capacity) 4096 + roundUp (8 * c.capacity) 4096
    + 2 * 524288 + 67108864 + if c.ordered then roundUp (wlogSize * (listSize c + 32)) 4096 else 0

/-! ## Keys (R168) -/

/-- Exact 1/sqrt of a sum, correctly rounded; 0 of zero. -/
def rsqrtExact (v : FV) : F32 :=
  match v with
  | .fin false m e =>
    if m = 0 then fZero else
    let odd := e % 2 != 0
    let m' := if odd then 2 * m else m
    let h := (if odd then e - 1 else e) / 2
    let k := 2 * (bitLen m' + 80)
    let r := isqrt (2 ^ k / m')
    BitVec.ofNat 32 (roundMag fmt32 r (-(k / 2 : Nat) - h) (decide (r * r * m' ≠ 2 ^ k)))
  | .fin true m _ => if m = 0 then fZero else BitVec.ofNat 32 (nanPat fmt32)
  | .inf false => fZero
  | _ => BitVec.ofNat 32 (nanPat fmt32)

/-- The elements of an INT8 vector. -/
def int8s (b : List Byte) (dim : Nat) : List Int := (slice b 0 dim).map fun x => sext x.toNat 8

/-- The elements of an FP8 or BF16 vector, in FP32. -/
def floats (vfmt : Nat) (b : List Byte) (dim : Nat) : List F32 :=
  (List.range dim).map fun i => if vfmt = 1 then eToF (fld b i 1) else bToF (fld b (2 * i) 2)

/-- Ones in which two binary vectors differ. -/
def hamming (a b : List Byte) (n : Nat) : Nat :=
  sumN (((slice a 0 n).zip (slice b 0 n)).map fun (x, y) =>
    ((List.range 8).filter fun i => (x ^^^ y).getLsbD i).length)

/-- Dot product and squared L2 distance. -/
structure Sums where
  dot : F32
  l2 : F32

/-- The sums of two vectors that are not binary. -/
def sumsOf (c : IdxCfg) (q x : List Byte) : Sums :=
  if c.vfmt = 0 then
    let ps := (int8s q c.dim).zip (int8s x c.dim)
    { dot := fOfInt (ps.foldl (fun s (a, b) => s + a * b) 0), l2 := fOfInt (ps.foldl (fun s (a, b) => s + (a - b) * (a - b)) 0) }
  else
    let ps := (floats c.vfmt q c.dim).zip (floats c.vfmt x c.dim)
    { dot := ps.foldl (fun s (a, b) => fAdd s (fMul a b)) fZero
      l2 := ps.foldl (fun s (a, b) => fAdd s (fMul (fSub a b) (fSub a b))) fZero }

/-- The sign flipped. -/
def fNeg (a : F32) : F32 := a ^^^ 0x80000000

/-- The key of a metric; smaller is nearer. -/
def keyOf (c : IdxCfg) (metric : Nat) (q : List Byte) (qinv : F32) (x : List Byte) (xinv : F32) : F32 :=
  if c.vfmt = 3 then
    let h := hamming q x (c.dim / 8)
    match metric with
    | 0 => fOfInt (4 * h)
    | 1 => fOfInt (-((c.dim : Int) - 2 * h))
    | _ => fDiv (fOfInt (2 * h)) (fOfInt c.dim)
  else
    let t := sumsOf c q x
    match metric with
    | 0 => t.l2
    | 1 => fNeg t.dot
    | _ => fSub fOne (fMul (fMul t.dot qinv) xinv)

/-- The inverse norm of a vector: correctly rounded, 0 of a zero vector. -/
def invNorm (c : IdxCfg) (x : List Byte) : F32 :=
  if c.vfmt = 0 then
    let n := (int8s x c.dim).foldl (fun s a => s + a * a) 0
    if n = 0 then fZero else rsqrtExact (.fin false n.natAbs 0)
  else if c.vfmt = 3 then rsqrtExact (.fin false c.dim 0)
  else rsqrtExact ((floats c.vfmt x c.dim).foldl (fun s a => s.add (a.val.mul a.val)) (.fin false 0 0))

/-! ## Items -/

/-- Item `i` of an index. -/
def getItem (x : Index) (i : Nat) : Item := tgetD x.items i {}

/-- Change item `i`. -/
def modItem (i : Nat) (f : Item → Item) (x : Index) : Index := { x with items := tset x.items i (f (getItem x i)) }

/-- The list of item `i` as written, the write log included (R189). -/
def listThru (x : Index) (i : Nat) : List Edge :=
  match x.wlog.reverse.find? fun w => w.1 == i with
  | some w => w.2
  | none => (getItem x i).edges

/-- The edge names its target: the tag is the target's GEN and the target is LIVE (R166). -/
def edgeValid (x : Index) (e : Edge) : Bool := (getItem x e.item).st.live && (getItem x e.item).st.gen == e.tag

/-! ## The search (R171) -/

/-- The two bits of the visited set that a pair sets. -/
def visitBits (item tag : Nat) : Nat × Nat :=
  let h := (tag * 2 ^ 35 + item) * 0x9E3779B97F4A7C15 % 2 ^ 64
  (bits h 46 18, bits h 28 18)

/-- The pair counts as visited. -/
def isVisited (v : List Nat) (item tag : Nat) : Bool :=
  let (a, b) := visitBits item tag
  v.contains a && v.contains b

/-- Mark a pair. -/
def markVisited (v : List Nat) (item tag : Nat) : List Nat :=
  let (a, b) := visitBits item tag
  let v1 := if v.contains a then v else insertAsc a v
  if v1.contains b then v1 else insertAsc b v1

/-- (d, i, t) is nearer than (e, j, u): key, then item, then tag (R168). -/
def nearer (d : F32) (i t : Nat) (e : F32) (j u : Nat) : Bool :=
  fLt d e || (!fLt e d && (decide (i < j) || (i == j && decide (t < u))))

/-- Insert a member in hand order. -/
def handInsert (m : Member) : List Member → List Member
  | [] => [m]
  | a :: t => if nearer m.key m.item m.tag a.key a.item a.tag then m :: a :: t else a :: handInsert m t

/-- What a context is told. -/
structure Limits where
  beam : Nat
  width : Nat
  maxHops : Nat
  metric : Nat
  skip : Bool
  thru : Bool
  deriving DecidableEq, Repr

/-- Counts of a batch: hops, tag misses, damaged records skipped. -/
structure HopCounts where
  hops : Nat := 0
  tagMiss : Nat := 0
  skipped : Nat := 0
  deriving DecidableEq, Repr

/-- The first `n` unexpanded members, in hand order. -/
def batchOf (n : Nat) (h : List Member) : List Member := (h.filter fun m => !m.expanded).take n

/-- Score one edge of an expanded member. A damaged vector ends the query, or leaves the neighbour unscored (R191). -/
def scoreEdge (c : IdxCfg) (lim : Limits) (x : Index) (e : Edge) (h : Hand) (n : HopCounts) : Hand × HopCounts :=
  if isVisited h.visited e.item e.tag then (h, n)
  else
    let h1 := { h with visited := markVisited h.visited e.item e.tag }
    let it := getItem x e.item
    if it.badVec then
      (if lim.skip then (h1, { n with skipped := n.skipped + 1 }) else ({ h1 with damaged := true }, n))
    else
      let d := keyOf c lim.metric h.query h.qinv it.vec it.inv
      let m : Member := { key := d, item := e.item, tag := e.tag }
      let full := decide (lim.beam ≤ h1.hand.length)
      let better := match h1.hand.getLast? with
        | some l => nearer d e.item e.tag l.key l.item l.tag
        | none => true
      if !full || better then ({ h1 with hand := (handInsert m h1.hand).take lim.beam }, n) else (h1, n)

/-- The edges of a list up to the first NONE, scored in list order. -/
def scoreEdges (c : IdxCfg) (lim : Limits) (x : Index) : List Edge → Hand → HopCounts → Hand × HopCounts
  | [], h, n => (h, n)
  | e :: t, h, n =>
    let (h1, n1) := scoreEdge c lim x e h n
    scoreEdges c lim x t h1 n1

/-- Expand one member of a batch. -/
def expandOne (c : IdxCfg) (lim : Limits) (x : Index) (m : Member) (h : Hand) (n : HopCounts) : Hand × HopCounts :=
  let it := getItem x m.item
  let h1 := { h with hops := h.hops + 1 }
  let n1 := { n with hops := n.hops + 1 }
  let same (y : Member) : Bool := y.item == m.item && y.tag == m.tag
  let removed : Hand := { h1 with hand := h1.hand.filter fun y => !same y }
  if it.badState then
    (if lim.skip then (removed, { n1 with skipped := n1.skipped + 1 }) else ({ h1 with damaged := true }, n1))
  else if !it.st.live ∨ it.st.gen ≠ m.tag then (removed, { n1 with tagMiss := n1.tagMiss + 1 })
  else
    let h2 := { h1 with hand := h1.hand.map fun y => if same y then { y with expanded := true, state := some it.st } else y }
    if it.badList then
      (if lim.skip then (h2, { n1 with skipped := n1.skipped + 1 }) else ({ h2 with damaged := true }, n1))
    else scoreEdges c lim x (if lim.thru then listThru x m.item else it.edges) h2 n1

/-- Expand a batch in hand order. -/
def expandAll (c : IdxCfg) (lim : Limits) (x : Index) : List Member → Hand → HopCounts → Hand × HopCounts
  | [], h, n => (h, n)
  | m :: t, h, n =>
    if h.damaged then (h, n)
    else
      let (h1, n1) := expandOne c lim x m h n
      expandAll c lim x t h1 n1

/-- Only when MAX_HOPS stopped the loop: the state words of the unexpanded members are read. -/
def readRest (lim : Limits) (x : Index) (h : Hand) : Hand × Nat :=
  let bad (m : Member) : Bool := !m.expanded && (getItem x m.item).badState
  let h1 := { h with hand := h.hand.map fun m =>
    if m.expanded then m
    else { m with state := some (if (getItem x m.item).badState then {} else (getItem x m.item).st) } }
  let k := (h.hand.filter bad).length
  if k = 0 then (h1, 0) else if lim.skip then (h1, k) else ({ h1 with damaged := true }, 0)

/-- One batch of the loop, and its end. -/
def searchBatch (c : IdxCfg) (lim : Limits) (x : Index) (h : Hand) : Hand × HopCounts :=
  if h.done then (h, {})
  else
    let b := batchOf (min lim.width (lim.maxHops - h.hops)) h.hand
    let (h1, n) := expandAll c lim x b h {}
    let open_ := h1.hand.any fun m => !m.expanded
    let h2 := { h1 with skipped := h1.skipped + n.skipped }
    if h2.damaged then ({ h2 with done := true }, n)
    else if open_ ∧ h2.hops < lim.maxHops then (h2, n)
    else if open_ then
      let (h3, k) := readRest lim x h2
      ({ h3 with done := true, stopped := true, skipped := h3.skipped + k }, { n with skipped := n.skipped + k })
    else ({ h2 with done := true }, n)

/-- The hand of a query before its first batch. -/
def startHand (c : IdxCfg) (lim : Limits) (x : Index) (entry : Option Edge) (q : List Byte) : Hand :=
  let qi := if c.metric = 2 then invNorm c q else fZero
  match entry with
  | none => { query := q, qinv := qi, done := true }
  | some e =>
    let it := getItem x e.item
    if it.badVec then
      { query := q, qinv := qi, done := true, damaged := !lim.skip, skipped := b2n lim.skip }
    else
      { query := q, qinv := qi, hand := [{ key := keyOf c lim.metric q qi it.vec it.inv, item := e.item, tag := e.tag }]
        visited := markVisited [] e.item e.tag }

/-- Run a search to its end; `fuel` bounds the batches. -/
def searchAll (c : IdxCfg) (lim : Limits) (x : Index) : Nat → Hand → HopCounts → Hand × HopCounts
  | 0, h, n => (h, n)
  | fuel + 1, h, n =>
    if h.done then (h, n)
    else
      let (h1, k) := searchBatch c lim x h
      searchAll c lim x fuel h1 { hops := n.hops + k.hops, tagMiss := n.tagMiss + k.tagMiss, skipped := n.skipped + k.skipped }

/-! ## Visibility and filters (R169, R170, R172) -/

/-- a ≤ b in 16-bit serial order. -/
def epochLe (a b : BitVec 16) : Bool := decide ((b - a).toNat < 32768)

/-- a < b. -/
def epochLt (a b : BitVec 16) : Bool := epochLe a b && a != b

/-- The last three tests of R170 but for the filter. -/
def epochVisible (st : ItemState) (e : BitVec 16) : Bool :=
  (!st.insSet || epochLe st.ins e) && (!st.delSet || epochLt e st.del)

/-- Bit LABEL of bitmap `b` in copy `copy`. A bitmap that nothing has written holds free bytes (log entry 6). -/
def filterBit (idx : Nat) (x : Index) (copy b label : Nat) : Bool :=
  match tget x.filters (4096 * copy + b) with
  | some bs => bit (fld bs (label / 8) 1) (label % 8)
  | none => (Config.freeByte (4096 * idx + b) (label / 8)).getLsbD (label % 8)

/-- A filter passes a label. -/
def filterPasses (idx : Nat) (x : Index) (fsel : Nat) (filter : Option Nat) (invert : Bool) (label : Nat) : Bool :=
  match filter with
  | none => true
  | some b => filterBit idx x fsel b label != invert

/-- The first k members that R170 lets a query return, as results. -/
def handHits (idx : Nat) (c : IdxCfg) (x : Index) (e : BitVec 16) (fsel : Nat) (filter : Option Nat) (invert : Bool) (k : Nat) (h : Hand) : List Hit :=
  ((h.hand.filterMap fun m => match m.state with
    | some st =>
      if st.live ∧ st.gen = m.tag ∧ epochVisible st e ∧ filterPasses idx x fsel filter invert st.label.toNat then
        some { key := m.key, shard := c.shardNo, item := m.item, gen := m.tag, label := st.label : Hit }
      else none
    | none => none).take k)

/-- The global ID of a result (R175). -/
def gidOf (h : Hit) : Nat := h.item % 2 ^ 35 + 2 ^ 35 * (h.shard % 2 ^ 16) + 2 ^ 51 * (h.gen % 32)

/-- Insert a result in ascending (key, GID). -/
def hitInsert (h : Hit) : List Hit → List Hit
  | [] => [h]
  | a :: t => if fLt h.key a.key ∨ (!fLt a.key h.key ∧ gidOf h < gidOf a) then h :: a :: t else a :: hitInsert h t

/-- Merge the lists of all shards for one query (R178). -/
def mergeHits (k : Nat) (ls : List (List Hit)) : List Hit := (ls.flatten.foldl (fun l h => hitInsert h l) []).take k

/-- The K records of a query (R175). -/
def hitBytes (k : Nat) (hs : List Hit) : List Byte :=
  (hs.take k).flatMap (fun h => leBytes 8 (gidOf h) ++ leBytes 4 h.key.toNat ++ leBytes 2 h.label.toNat ++ zeros 2)
    ++ (List.replicate (k - hs.length) (leBytes 8 (2 ^ 64 - 1) ++ leBytes 4 0x7F800000 ++ zeros 4)).flatten

/-! ## Writing lists (R181, R186, R189) -/

/-- L2 key between two stored vectors. -/
def keyL2 (c : IdxCfg) (x : Index) (i j : Nat) : F32 := keyOf c 0 (getItem x i).vec fZero (getItem x j).vec fZero

/-- Insert a candidate by (key, item). -/
def candInsert (k : F32) (e : Edge) : List (F32 × Edge) → List (F32 × Edge)
  | [] => [(k, e)]
  | (l, f) :: t => if fLt k l ∨ (!fLt l k ∧ e.item < f.item) then (k, e) :: (l, f) :: t else (l, f) :: candInsert k e t

/-- The pruning rule of R181, with the key of item `i` to each candidate. -/
def pruneBy (c : IdxCfg) (x : Index) (r : Nat) (cand : List (F32 × Edge)) : List Edge :=
  ((cand.foldl (fun l (k, e) => candInsert k e l) []).foldl (fun out (k, e) =>
    if out.length = r then out
    else if out.all fun a => fLt k (fMul c.alpha (keyL2 c x a.item e.item)) then out ++ [e] else out) [])

/-- prune(i, cand, r). -/
def prune (c : IdxCfg) (x : Index) (i r : Nat) (cand : List Edge) : List Edge :=
  pruneBy c x r (cand.map fun e => (keyL2 c x i e.item, e))

/-- Write the list of item `i`: at once, or to the write log where ORDERED is set and the item is LIVE (R189). -/
def writeList (c : IdxCfg) (i : Nat) (l : List Edge) (x : Index) : Index :=
  if c.ordered ∧ (getItem x i).st.live then { x with wlog := x.wlog ++ [(i, l)] }
  else modItem i (fun t => { t with edges := l, badList := false }) x

/-- Step 5 of R181 writes neighbour y's list: it can be read, does not hold the edge already, and has room or an owner
whose vector can be scored for the pruning (R191). DEDUCED: log entry 37. -/
def linkable (c : IdxCfg) (y : Nat) (e : Edge) (x : Index) : Bool :=
  let l := listThru x y
  !(getItem x y).badList && !l.contains e && (decide (l.length < c.degree) || !(getItem x y).badVec)

/-- Damaged records that step 5 meets at neighbour y (R191). -/
def linkMet (c : IdxCfg) (y : Nat) (e : Edge) (x : Index) : Nat :=
  let l := listThru x y
  let t := getItem x y
  if t.badList then 1
  else if l.contains e ∨ l.length < c.degree then 0
  else if t.badVec then 1
  else (l.filter fun f => (getItem x f.item).badState
    || (edgeValid x f && !(getItem x f.item).st.delSet && (getItem x f.item).badVec)).length

/-- Add the edge (i, gen) to neighbour y's list (R181 step 5). A list that cannot be read is left unchanged. -/
def linkBack (c : IdxCfg) (y : Nat) (e : Edge) (x : Index) : Index :=
  let l := listThru x y
  if !linkable c y e x then x
  else if l.length < c.degree then writeList c y (l ++ [e]) x
  else
    let keep := l.filter fun f => edgeValid x f && !(getItem x f.item).st.delSet && !(getItem x f.item).badState && !(getItem x f.item).badVec
    writeList c y (prune c x y c.degree (keep ++ [e])) x

/-- Where an INSERT puts its item: the freed record at the delete log's head, or the top (R181 step 1). -/
def allocItem (c : IdxCfg) (x : Index) : Option (Nat × Index) :=
  match x.dlog with
  | d :: rest => if d.st = .freed then some (d.item, { x with dlog := rest })
      else if x.hwm < c.capacity then some (x.hwm, { x with hwm := x.hwm + 1 }) else none
  | [] => if x.hwm < c.capacity then some (x.hwm, { x with hwm := x.hwm + 1 }) else none

/-- What an insert did: the item, its GEN, the hops of its search and the lists it updated. -/
structure Inserted where
  item : Nat
  gen : Nat
  index : Index
  counts : HopCounts
  lists : Nat

/-- Insert a vector (R181), where there is a record for it. -/
def insertItem (c : IdxCfg) (x : Index) (vec : List Byte) (label : BitVec 16) : Option Inserted :=
  match allocItem c x with
  | none => none
  | some (i, x0) =>
    let gen := (getItem x0 i).st.gen
    let inv := if c.metric = 2 then invNorm c vec else fZero
    let x1 := modItem i (fun t => { t with vec := vec, inv := inv, badVec := false, st := { t.st with live := false } }) x0
    let lim : Limits := { beam := c.buildBeam, width := 4, maxHops := c.maxHops, metric := 0, skip := true, thru := true }
    let (h, n) := searchAll { c with metric := 0 } lim x1 (c.maxHops + 1) (startHand { c with metric := 0 } lim x1 x1.entry vec) {}
    let cand := h.hand.filter fun m => match m.state with
      | some st => st.live && st.gen == m.tag && !st.delSet
      | none => false
    let list := pruneBy c x1 c.degree (cand.map fun m => (m.key, { item := m.item, tag := m.tag : Edge }))
    let x2 := modItem i (fun t => { t with edges := list, badList := false }) x1
    let x3 := list.foldl (fun x e => linkBack c e.item { item := i, tag := gen } x) x2
    let ep := x3.published + 1
    let x4 := modItem i (fun t => { t with badState := false
                                           st := { ins := ep, del := 0, live := true, insSet := true, delSet := false, gen := gen, label := label } }) x3
    let x5 : Index := { x4 with ilog := tset x4.ilog x4.insCount.toNat { item := i, gen := gen, ins := ep }, insCount := x4.insCount + 1
                                entry := if x4.entry.isNone then some { item := i, tag := gen } else x4.entry }
    let back : Edge := { item := i, tag := gen }
    some { item := i, gen := gen, index := x5
           counts := { n with skipped := n.skipped + sumN (list.map fun e => linkMet c e.item back x2) }
           lists := (list.filter fun e => linkable c e.item back x2).length }

/-- Write-log entries that an INSERT may need at most. -/
def insertWrites (c : IdxCfg) : Nat := if c.ordered then c.degree else 0

/-- The publish commit (R185 step 4), after the write log has been applied. -/
def publishIndex (floor : BitVec 16) (x : Index) : Index :=
  let x1 := x.wlog.foldl (fun x w => modItem w.1 (fun t => { t with edges := w.2, badList := false }) x) x
  let settled (st : ItemState) : Bool := st.insSet && epochLe st.ins floor
  { x1 with published := x1.published + 1, floor := floor, wlog := []
            items := tmap x1.items fun _ t => if settled t.st then { t with st := { t.st with insSet := false } } else t
            ilog := tfilter x1.ilog fun _ e => !epochLe e.ins floor
            dlog := x1.dlog.map fun d => if d.st = .waits ∧ epochLe d.del floor then { d with st := .dead } else d }

/-- The edges of a list that name no dead item, with the edges of each dead item it names, once each and still valid
(R186). -/
def sweepCands (x : Index) (dead : List (Nat × Nat)) (y : Nat) : List Edge :=
  let isDead (e : Edge) : Bool := dead.contains (e.item, e.tag)
  let l := listThru x y
  let more := (l.filter isDead).flatMap fun d =>
    if (getItem x d.item).badList then [] else (listThru x d.item).filter fun e => e.item != y && !isDead e
  ((l.filter fun e => !isDead e) ++ more).foldl (fun out e =>
    let t := getItem x e.item
    if out.contains e ∨ !edgeValid x e ∨ t.st.delSet ∨ t.badState ∨ t.badVec then out else out ++ [e]) []

/-- One item of a sweep. -/
def sweepItem (c : IdxCfg) (dead : List (Nat × Nat)) (x : Index) (y : Nat) : Index :=
  let t := getItem x y
  if !t.st.live ∨ t.badState ∨ t.badList ∨ t.badVec ∨ dead.contains (y, t.st.gen) then x
  else if (listThru x y).any fun e => dead.contains (e.item, e.tag) then writeList c y (prune c x y c.degree (sweepCands x dead y)) x
  else x

/-- The sweep of R186. -/
def sweepIndex (c : IdxCfg) (x : Index) : Index :=
  let dead := (x.dlog.filter fun d => d.st == .dead).map fun d => (d.item, d.gen)
  let x1 := (x.items.map (·.1)).foldl (sweepItem c dead) x
  let entryDead := match x1.entry with
    | some e => dead.contains (e.item, e.tag)
    | none => false
  let next := (x1.items.find? fun (i, t) => t.st.live && !t.st.delSet && !t.badState && !dead.contains (i, t.st.gen)).map fun (i, t) =>
    ({ item := i, tag := t.st.gen } : Edge)
  let x2 : Index := if entryDead then { x1 with entry := next } else x1
  let x3 := dead.foldl (fun x (i, _) => modItem i (fun t => { t with st := { t.st with live := false, gen := (t.st.gen + 1) % 32 } }) x) x2
  { x3 with dlog := x3.dlog.map fun d => if d.st = .dead then { d with st := .freed } else d
            sweeps := x3.sweeps + 1, sweeping := false }

/-- Damaged records that a sweep meets, each once (R191): state words as 3i, lists as 3i + 1, vectors as 3i + 2. -/
def sweepMet (x : Index) : Nat :=
  let dead := (x.dlog.filter fun d => d.st == .dead).map fun d => (d.item, d.gen)
  let isDead (e : Edge) : Bool := dead.contains (e.item, e.tag)
  let target (e : Edge) : List Nat :=
    let t := getItem x e.item
    if t.badState then [3 * e.item]
    else if edgeValid x e && !t.st.delSet && t.badVec then [3 * e.item + 2] else []
  (x.items.flatMap fun (y, t) =>
    if dead.contains (y, t.st.gen) then []
    else if t.badState then [3 * y]
    else if !t.st.live then []
    else if t.badList then [3 * y + 1]
    else
      let l := listThru x y
      if !l.any isDead then []
      else if t.badVec then [3 * y + 2]
      else (l.filter fun e => !isDead e).flatMap target
        ++ (l.filter isDead).flatMap fun d =>
          if (getItem x d.item).badList then [3 * d.item + 1]
          else ((listThru x d.item).filter fun e => e.item != y && !isDead e).flatMap target).eraseDups.length

/-- Lists that a sweep would write to the write log. -/
def sweepWrites (c : IdxCfg) (x : Index) : Nat :=
  if !c.ordered then 0
  else
    let dead := (x.dlog.filter fun d => d.st == .dead).map fun d => (d.item, d.gen)
    (x.items.filter fun (i, t) => t.st.live && (listThru x i).any fun e => dead.contains (e.item, e.tag)).length

end Sys2Proof.Machine
end

