-- ==== Sys2Proof/Machine/Recall.lean ====
section
/-! DEFINITION. The recall commands: WALK_COMMIT, SEARCH with its batches and its merge, INSERT, DELETE, PUBLISH_EPOCH and
the slag pass (R162 to R194). -/

namespace Sys2Proof.Machine

open Sys2Proof

/-- Index n's record in force. -/
def idxCfg (s : State) (n : Nat) : IdxCfg := IdxCfg.ofBytes (actBytes s (0x801000 + 0x40 * n) 16)

/-- Index n. -/
def getIndex (s : State) (n : Nat) : Index := tgetD s.walk.indexes n {}

/-- The runtime record of an index (R193). -/
def showIndex (n : Nat) (s : State) : State :=
  let x := getIndex s n
  let o := 0x802000 + 0x40 * n
  let free := (x.dlog.filter fun d => d.st == .freed).length
  let entry := match x.entry with
    | some e => e.item + 2 ^ 35 * e.tag
    | none => 2 ^ 63
  let s1 := setVal o (BitVec.ofNat 32 (x.published.toNat + 65536 * x.floor.toNat)) s
  let s2 := setVal (o + 4) (BitVec.ofNat 32 (x.fsel + 2 * b2n x.sweeping + 4 * b2n x.applying)) s1
  let s3 := setVal64 (o + 24) x.hwm (setVal64 (o + 16) entry (setVal64 (o + 8) x.insCount.toNat s2))
  let s4 := setVal (o + 36) (BitVec.ofNat 32 x.dlog.length) (setVal (o + 32) (BitVec.ofNat 32 x.ilog.length) s3)
  let s5 := setVal (o + 44) (BitVec.ofNat 32 x.wlog.length) (setVal (o + 40) (BitVec.ofNat 32 free) s4)
  setVal64 (o + 48) x.sweeps.toNat s5

/-- Set index n. -/
def setIndex (n : Nat) (x : Index) (s : State) : State :=
  showIndex n { s with walk := { s.walk with indexes := tset s.walk.indexes n x } }

/-- Counters of R193. -/
def walkHops : Nat := 0x803000
def walkTagMiss : Nat := 0x803008
def walkDmgSkip : Nat := 0x803010
def walkFcacheMiss : Nat := 0x803018

/-- Count the hops, tag misses and skips of a batch; `metered` hops go to the partition (R193, R194). -/
def countHops (c : Cmd) (n : HopCounts) (metered : Nat) (s : State) : State :=
  meterData c resHops metered
    (cntAdd walkDmgSkip n.skipped (cntAdd walkTagMiss n.tagMiss (cntAdd walkHops n.hops s)))

/-! ## WALK_COMMIT (R163, R353) -/

/-- A pending record's fields are in range (R162). -/
def idxFieldsOk (b : List Byte) : Bool :=
  let c := IdxCfg.ofBytes b
  decide (fld b 0 1 < 4) && decide (fld b 1 1 < 64) && decide (c.vfmt < 4) && decide (c.metric < 3)
    && (if c.vfmt = 3 then c.dim % 256 == 0 && decide (256 ≤ c.dim) && decide (c.dim ≤ 4096)
        else c.dim % 32 == 0 && decide (32 ≤ c.dim) && decide (c.dim ≤ 1024))
    && [16, 32, 64].contains c.degree && decide (1 ≤ c.width) && decide (c.width ≤ 8)
    && decide (16 ≤ c.beam) && decide (c.beam ≤ 256) && decide (16 ≤ c.buildBeam) && decide (c.buildBeam ≤ 256)
    && !fLt c.alpha fOne && !fLt (fOfInt 2) c.alpha && !fIsNaN c.alpha
    && decide (16 ≤ c.maxHops) && decide (c.maxHops ≤ 65535) && decide (c.shardCnt ≤ 8) && fld b 23 1 == 0
    && c.base % 4096 == 0 && decide (1 ≤ c.capacity) && decide (c.capacity ≤ 2 ^ 35 - 2) && decide (fld b 32 8 < 2 ^ 35)
    && fld b 56 8 == 0

/-- The commands of an index that are admitted and unfinished. -/
def indexCmds (s : State) (n : Nat) : List Cmd :=
  (s.cmds.filter fun (_, c) => [0x20, 0x21, 0x22, 0x23].contains c.op && c.phase == .running && fldBits c.desc 8 4 0 6 == n).map (·.2)

/-- A pending record changes what a VALID index may not change. -/
def idxBusy (s : State) (n : Nat) : Bool :=
  let a := idxCfg s n
  let p := IdxCfg.ofBytes (bankBytes (pendW s) (0x801000 + 0x40 * n) 16)
  a.valid && (if p.valid then
      a.ordered != p.ordered || a.part != p.part || a.vfmt != p.vfmt || a.metric != p.metric || a.dim != p.dim
        || a.degree != p.degree || a.base != p.base || a.capacity != p.capacity || a.shardNo != p.shardNo
    else !(indexCmds s n).isEmpty)

/-- The check of the pending WALK set: the records' values, their areas, what may change, then the remap (R163, R353). -/
def checkWalk (s : State) : Status :=
  let ns := List.range 64
  let rec_ (n : Nat) : List Byte := bankBytes (pendW s) (0x801000 + 0x40 * n) 16
  let cfg (n : Nat) : IdxCfg := IdxCfg.ofBytes (rec_ n)
  let others := tfilter (inBlock .walk s.regs.pend) fun o _ => !(decide (0x801000 ≤ o) && decide (o < 0x802000))
  firstBad [
    failIf (ns.any fun n => (cfg n).valid && !idxFieldsOk (rec_ n)) .illegalValue,
    failIf (stagesReserved others) .illegalValue,
    failIf (ns.any fun n => (cfg n).valid && !inPartMem s (cfg n).part (cfg n).base (indexArea (cfg n))) .accessViolation,
    failIf (ns.any fun n => idxBusy s n) .busy,
    remapStatus s 5]

/-- WALK_COMMIT (R163, R330). -/
def execWalkCommit (w : Writer) (gen : BitVec 16) (s : State) : Res :=
  .next (commitBlockBy .walk w gen [] (fun _ s => checkWalk s) s)

/-- The node of shard `i` of a record: the i-th of its shards. -/
def shardNode (s : State) (idx i : Nat) : Nat := (idxCfg s idx).shards.getD i 0xFFFF

/-- Searches whose lost shard has a new node within REROUTE_MS run again (R361). -/
def replayMoved (s : State) : State :=
  forEach ((s.cmds.filter fun (_, c) => c.phase == .running && c.subs.any fun u => u.lost && decide (now s ≤ u.due) && (match u.call with
      | .searchSub _ i _ q => shardNode s q.idx i != u.node
      | _ => false)).map (·.2)) (fun c s => strikeCmd c 19 s) s

/-- A WALK set becomes active: setting VALID creates an empty index, clearing it discards the index. `old` is the former
bank. -/
def swapWalk (old : Nat → Word) (s : State) : State :=
  let s1 := forEach (List.range 64) (fun n s =>
    let was := bit (old (0x801000 + 0x40 * n)).toNat 0
    let is_ := bit (actW s (0x801000 + 0x40 * n)).toNat 0
    if is_ ∧ !was then setIndex n {} s
    else if was ∧ !is_ then { s with walk := { s.walk with indexes := tdel s.walk.indexes n } }
    else s) s
  replayMoved (showRemap (noteSwitches old (actW s1) [5] s1))

/-! ## Fields and checks of the recall commands -/

/-- INDEX. -/
def idxOf (c : Cmd) : Nat := fldBits c.desc 8 4 0 6
/-- A flag of the INDEX word. -/
def idxFlag (c : Cmd) (i : Nat) : Bool := fldBits c.desc 8 4 i 1 == 1

/-- Check 2 of R174. -/
def idxCheck (s : State) (c : Cmd) : Status :=
  let x := idxCfg s (idxOf c)
  firstBad [failIf (!x.valid) .wrongState, failIf (x.part != c.part) .accessViolation]

/-- The index's area touches a package that is not online: what needs it meets ST_DATA_LOST (R363). -/
def idxLost (s : State) (n : Nat) : Bool := rangeLost s (idxCfg s n).base (indexArea (idxCfg s n))

/-! ## SEARCH (R173 to R178) -/

/-- K, and BEAM, WIDTH and MAX_HOPS as resolved at admission. -/
def searchK (c : Cmd) : Nat := fld c.desc 16 2
def searchBeam (s : State) (c : Cmd) : Nat := if fld c.desc 18 2 = 0 then (idxCfg s (idxOf c)).beam else fld c.desc 18 2
def searchWidth (s : State) (c : Cmd) : Nat := if fld c.desc 20 1 = 0 then (idxCfg s (idxOf c)).width else fld c.desc 20 1
def searchHops (s : State) (c : Cmd) : Nat := if fld c.desc 24 4 = 0 then (idxCfg s (idxOf c)).maxHops else fld c.desc 24 4
/-- Queries of the descriptor. -/
def searchCount (c : Cmd) : Nat := fld c.desc 21 1 + 1
/-- Bytes of a query as it stands at QSRC. -/
def queryStep (x : IdxCfg) : Nat := roundUp (vecBytes x) 32
/-- The epoch of the query. -/
def searchEpoch (s : State) (c : Cmd) : BitVec 16 :=
  if idxFlag c 8 then BitVec.ofNat 16 (fld c.desc 12 2) else (getIndex s (idxOf c)).published

/-- F ≤ e ≤ P. -/
def epochIn (x : Index) (e : BitVec 16) : Bool := epochLe x.floor e && epochLe e x.published

/-- Checks 2 to 5 of R174, and the addresses. A BEAM of 0 with a K above the index default is a combination the table does
not name; the hand then holds at least K (log entry 28). -/
def searchStatus (s : State) (c : Cmd) : Status :=
  let x := idxCfg s (idxOf c)
  let w := fld c.desc 8 4
  let k := searchK c
  let b := fld c.desc 18 2
  let h := fld c.desc 24 4
  let q := searchCount c
  firstBad [
    idxCheck s c,
    failIf (decide (2 ^ 14 ≤ w) || bits w 6 2 != 0 || fld c.desc 22 2 != 0 || fld c.desc 28 4 != 0 || !allZero (slice c.desc 48 16)
      || k == 0 || decide (256 < k) || (h != 0 && (decide (h < 16) || decide (65535 < h))) || (b != 0 && (decide (b < k) || decide (256 < b)))
      || decide (8 < fld c.desc 20 1) || decide (64 < q) || (bit w 9 && decide (4095 < fld c.desc 14 2))) .illegalValue,
    failIf (idxFlag c 11 && (x.shardCnt == 0 || x.shards.any fun n => level1Node s n || (serviceConn s c.part n).isNone)) .illegalCombination,
    failIf (!epochIn (getIndex s (idxOf c)) (searchEpoch s c)) .epochStale,
    checkAddr s c (fld c.desc 32 8) (q * queryStep x),
    checkAddr s c (fld c.desc 40 8) (16 * k * q),
    failIf (idxLost s (idxOf c)) .dataLost]

/-- The limits of a SEARCH. -/
def limitsOf (x : IdxCfg) (r : SearchRun) : Limits :=
  { beam := r.beam, width := r.width, maxHops := r.maxHops, metric := x.metric, skip := r.dmgSkip, thru := false }

/-- Use a bitmap: a walker that caches it serves the query, else some walker loads it (R172). -/
def useFilter (n copy b : Nat) (s : State) : State :=
  let tag := (n, copy, b)
  match tfind s.walk.caches fun _ l => l.contains tag with
  | some (w, l) => { s with walk := { s.walk with caches := tset s.walk.caches w (tag :: l.erase tag) } }
  | none =>
    let w := Config.freeNat s.freeCnt % 32
    let l := tgetD s.walk.caches w []
    cntAdd walkFcacheMiss 1 (stepFree { s with walk := { s.walk with caches := tset s.walk.caches w ((tag :: l).take 8) } })

/-- Queries at home and at the shards that MAX_HOPS stopped. -/
def stoppedMask (c : Cmd) (r : SearchRun) : Nat :=
  let home := r.hands.zipIdx.foldl (fun m (h, i) => if h.stopped then m ||| 2 ^ i else m) 0
  c.subs.foldl (fun m x => match x.answer with
    | some (.lists _ _ _ _ st _) => m ||| st
    | _ => m) home

/-- A SEARCH ends: damage, a stale shard, a missing shard, or its results (R175 to R178, R191). -/
def endSearch (c : Cmd) (r : SearchRun) (s : State) : State :=
  let x := idxCfg s r.idx
  let ix := getIndex s r.idx
  let missing := (c.subs.filter fun u => u.lost || (match u.answer with
    | some (.absent _ _) => true
    | _ => false)).length
  let stale := c.subs.any fun u => match u.answer with
    | some (.lists _ _ st _ _ _) => st
    | _ => false
  let remoteBad := c.subs.any fun u => match u.answer with
    | some (.gfaDone _ _ _ _) => true
    | _ => false
  let remoteSkip := sumN (c.subs.map fun u => match u.answer with
    | some (.lists _ _ _ sk _ _) => sk
    | _ => 0)
  let remoteLost := c.subs.any fun u => match u.answer with
    | some (.gfaDone _ _ st _) => st.toNat == Status.dataLost.code
    | _ => false
  if remoteLost then finish c .dataLost 0 s
  else if (r.hands.any fun h => h.damaged) ∨ remoteBad then finish c .dataDamaged 0 s
  else if stale then finish c .epochStale 0 s
  else if missing ≠ 0 ∧ !r.allowMissing then finish c .dataLost 0 s
  else
    let own := r.hands.map fun h => handHits r.idx x ix r.epoch r.fsel r.filter r.invert r.k h
    let lists := own.zipIdx.map fun (l, i) =>
      if c.subs.isEmpty then l
      else mergeHits r.k (l :: c.subs.map fun u => match u.answer with
        | some (.lists _ _ _ _ _ hs) => hs.getD i []
        | _ => [])
    let few := (lists.filter fun l => decide (l.length < r.k)).length
    let skipped := min 255 (sumN (r.hands.map (·.skipped)) + remoteSkip)
    let res := popcount 64 (stoppedMask c r) + 65536 * few + 2 ^ 32 * missing + 2 ^ 40 * skipped + 2 ^ 48 * r.epoch.toNat
    deliver c (fld c.desc 40 8) (lists.flatMap (hitBytes r.k)) .ok res s

/-- Every query is done at home. -/
def handsDone (r : SearchRun) : Bool := r.started && r.hands.all (·.done)

/-- The queries are here: the contexts start, and the sub-searches go out (R174, R177). A step that runs again keeps its
recorded inputs. -/
def startSearch (c : Cmd) (r : SearchRun) (qs : List (List Byte)) (s : State) : State :=
  let x := idxCfg s r.idx
  let ix := getIndex s r.idx
  let lim := limitsOf x r
  let r1 := { r with queries := qs, started := true, hands := qs.map fun q => startHand x lim ix r.entry q }
  let shards := if idxFlag c 11 then x.shards else []
  let subs : List Sub := shards.zipIdx.map fun (n, i) =>
    { node := n, conn := (serviceConn s c.part n).getD noConn,
      call := .searchSub c.step i c.stamp
        { partition := c.part, idx := r.idx, epoch := r.epoch, filterEn := r.filter.isSome, filter := r.filter.getD 0
          invert := r.invert, dmgSkip := r.dmgSkip, k := r.k, beam := r.beam, width := r.width, maxHops := r.maxHops, queries := qs } }
  let c1 := { c with subs := [], work := .search r1 }
  let s1 := match r.filter with
    | some b => forEach qs (fun _ s => useFilter r.idx r.fsel b s) s
    | none => s
  let s2 := sendSubs c1 subs s1
  if handsDone r1 ∧ subs.isEmpty then endSearch c1 r1 s2 else s2

/-- Cut QSRC's bytes into queries. -/
def queriesOf (x : IdxCfg) (n : Nat) (b : List Byte) : List (List Byte) :=
  (List.range n).map fun i => slice b (i * queryStep x) (vecBytes x)

/-- A SEARCH's queries are here, or cannot be read (R191). -/
def searchInput (c : Cmd) (g : Got) (s : State) : State :=
  match c.work with
  | .search r =>
    if r.started then s
    else match g with
      | .now b => startSearch c r (queriesOf (idxCfg s r.idx) (searchCount c) b) s
      | .fail st => finish c st 0 s
      | .wait => s
  | _ => s

/-- SEARCH is admitted (R174). While a publish applies the write log of an ORDERED index, new searches wait (R185). -/
def admitSearch (c : Cmd) (s : State) : State :=
  let n := idxOf c
  match searchStatus s c with
  | .ok =>
    let ix := getIndex s n
    match missingKind s ([5] ++ if idxFlag c 11 then [1] else []) with
    | some k => faultAtAdmission c 16 k s
    | none =>
      if ix.applying then setCmd { c with phase := .deferred .nothing } s
      else
        let r : SearchRun :=
          { idx := n, epoch := searchEpoch s c, fsel := ix.fsel, filter := if idxFlag c 9 then some (fld c.desc 14 2) else none
            invert := idxFlag c 10, allowMissing := idxFlag c 12, dmgSkip := idxFlag c 13, entry := ix.entry, k := searchK c
            beam := max (searchK c) (searchBeam s c), width := searchWidth s c, maxHops := searchHops s c }
        let s1 := admitCmd c (.search r) s
        let c1 := (getCmd s1 c.ring c.rseq).getD c
        let (g, s2) := startRead c1 (fld c.desc 32 8) (searchCount c * queryStep (idxCfg s n)) s1
        searchInput ((getCmd s2 c.ring c.rseq).getD c1) g s2
  | st => endAtAdmission c st 0 s

/-- SEARCH (R174). -/
def execSearch (ring : Nat) (rseq : BitVec 32) (s : State) : Res :=
  .next (admitting ring rseq (fun c => c.op == 0x20) admitSearch s)

/-- WALKER_BATCH_READ_DONE (R171): the batch of query `q` has arrived. -/
def execWalkerBatchReadDone (ring : Nat) (rseq : BitVec 32) (q : Nat) (s : State) : Res :=
  .next (
    match runningCmd s ring rseq with
    | none => s
    | some c =>
      match c.work with
      | .search r =>
        (match r.hands[q]? with
        | none => s
        | some h =>
          if h.done ∨ c.faulted ∨ !serving s ∨ offline s 5 then s
          else
            let (h1, n) := searchBatch (idxCfg s r.idx) (limitsOf (idxCfg s r.idx) r) (getIndex s r.idx) h
            let r1 := { r with hands := r.hands.set q h1 }
            let c1 := { c with work := .search r1 }
            let s1 := countHops c n ((h1.hops - h.counted) - (h.hops - h.counted)) (setCmd c1 s)
            if handsDone r1 ∧ c.subs.isEmpty then endSearch c1 r1 s1 else s1)
      | _ => s)

/-- Every list is here, or its shard is given up. -/
def listsIn (c : Cmd) : Bool := c.subs.all fun u => u.answer.isSome || u.lost

/-- SEARCH_MERGE (R178): every shard's list is present. A shard that is lost has had REROUTE_MS to come back (R361). -/
def execSearchMerge (ring : Nat) (rseq : BitVec 32) (s : State) : Res :=
  .next (
    match runningCmd s ring rseq with
    | none => s
    | some c =>
      match c.work with
      | .search r =>
        if handsDone r ∧ !c.subs.isEmpty ∧ listsIn c ∧ !c.faulted ∧ serving s then
          endSearch c r (advanceTo (maxN (c.subs.map fun u => if u.lost then u.due else 0)) s)
        else s
      | _ => s)

/-- A shard serves a sub-search (R177): its lists, a stale epoch, or that it has no such index. Damage without DMG_SKIP is
answered as the status of the access that failed. -/
def serveSearch (step : BitVec 64) (sub : Nat) (q : SearchReq) (s : State) : RespMsg × HopCounts :=
  let c := idxCfg s q.idx
  let x := getIndex s q.idx
  if !c.valid ∨ c.part ≠ q.partition then (.absent step sub, {})
  else if !epochIn x q.epoch then (.lists step sub true 0 0 [], {})
  else if idxLost s q.idx then (.gfaDone step sub (BitVec.ofNat 16 Status.dataLost.code) [], {})
  else
    let lim : Limits := { beam := q.beam, width := q.width, maxHops := q.maxHops, metric := c.metric, skip := q.dmgSkip, thru := false }
    let runs := q.queries.map fun v => searchAll c lim x (q.maxHops + 1) (startHand c lim x x.entry v) {}
    let n : HopCounts := { hops := sumN (runs.map (·.2.hops)), tagMiss := sumN (runs.map (·.2.tagMiss)), skipped := sumN (runs.map (·.2.skipped)) }
    if runs.any fun r => r.1.damaged then (.gfaDone step sub (BitVec.ofNat 16 Status.dataDamaged.code) [], n)
    else
      let filter := if q.filterEn then some q.filter else none
      (.lists step sub false (sumN (runs.map (·.1.skipped)))
        (runs.zipIdx.foldl (fun m (r, i) => if r.1.stopped then m ||| 2 ^ i else m) 0)
        (runs.map fun r => handHits q.idx c x q.epoch x.fsel filter q.invert q.k r.1), n)

/-! ## INSERT (R179 to R182) -/

/-- Field checks of INSERT. -/
def insertStatus (s : State) (c : Cmd) : Status :=
  firstBad [
    idxCheck s c,
    failIf (decide (64 ≤ fld c.desc 8 4) || fld c.desc 14 2 != 0 || !allZero (slice c.desc 32 32)) .illegalValue,
    checkAddr s c (fld c.desc 24 8) (vecBytes (idxCfg s (idxOf c))),
    failIf (idxLost s (idxOf c)) .dataLost]

/-- The outcome that the table of R180 gives without an insertion: its status and result. -/
def insertOutcome (s : State) (c : Cmd) : Option (Status × Nat) :=
  let n := idxOf c
  let x := getIndex s n
  let cfg := idxCfg s n
  let ex := fld c.desc 16 8
  let count := x.insCount.toNat
  if ex ≠ 2 ^ 64 - 1 ∧ ex ≠ count then
    if ex < count then
      match tget x.ilog ex with
      | some e => some (.ok, e.item + 2 ^ 35 * e.gen + 2 ^ 40 * e.ins.toNat)
      | none => some (.wrongState, 0)
    else some (.wrongState, 0)
  else if ilogSize ≤ x.ilog.length ∨ (allocItem cfg x).isNone ∨ wlogSize < x.wlog.length + insertWrites cfg then some (.busy, 0)
  else none

/-- INSERT's vector is here (R181). -/
def insertInput (c : Cmd) (g : Got) (s : State) : State :=
  match c.work, g with
  | .insert r, .now v =>
    (match insertOutcome s c with
    | some (st, res) => finish c st res s
    | none =>
      match insertItem (idxCfg s r.idx) (getIndex s r.idx) v r.label with
      | none => finish c .busy 0 s
      | some i =>
        let s1 := countHops c { i.counts with hops := i.counts.hops + i.lists } (i.counts.hops + i.lists) (setIndex r.idx i.index s)
        finish c .ok (i.item + 2 ^ 35 * i.gen + 2 ^ 40 * (i.index.published + 1).toNat) s1)
  | .insert _, .fail st => finish c st 0 s
  | _, _ => s

/-- INSERT is admitted. -/
def admitInsert (c : Cmd) (s : State) : State :=
  match insertStatus s c with
  | .ok =>
    (match missingKind s [5] with
    | some k => faultAtAdmission c 16 k s
    | none =>
      let s1 := admitCmd c (.insert { idx := idxOf c, label := BitVec.ofNat 16 (fld c.desc 12 2) }) s
      let c1 := (getCmd s1 c.ring c.rseq).getD c
      match insertOutcome s c with
      | some (st, res) => finish c1 st res s1
      | none =>
        let (g, s2) := startRead c1 (fld c.desc 24 8) (vecBytes (idxCfg s (idxOf c))) s1
        insertInput ((getCmd s2 c.ring c.rseq).getD c1) g s2)
  | st => endAtAdmission c st 0 s

/-- INSERT (R180). -/
def execInsert (ring : Nat) (rseq : BitVec 32) (s : State) : Res :=
  .next (admitting ring rseq (fun c => c.op == 0x21) admitInsert s)

/-! ## DELETE (R183) -/

/-- DELETE is admitted and takes effect. -/
def admitDelete (c : Cmd) (s : State) : State :=
  let w := fld c.desc 16 8
  let item := w % 2 ^ 35
  let gen := bits w 35 5
  let n := idxOf c
  let st := firstBad [
    idxCheck s c,
    failIf (decide (64 ≤ fld c.desc 8 4) || fld c.desc 12 4 != 0 || decide (2 ^ 40 ≤ w) || !allZero (slice c.desc 24 40)) .illegalValue,
    failIf (idxLost s n) .dataLost]
  if st ≠ .ok then endAtAdmission c st 0 s
  else
    let s1 := admitCmd c .none s
    let c1 := (getCmd s1 c.ring c.rseq).getD c
    let x := getIndex s1 n
    let t := (getItem x item).st
    if x.hwm ≤ item ∨ !t.live ∨ t.gen ≠ gen then finish c1 .wrongState 0 s1
    else if t.delSet then finish c1 .ok t.del.toNat s1
    else if dlogSize ≤ x.dlog.length then finish c1 .busy 0 s1
    else
      let del := x.published + 1
      let x1 := modItem item (fun y => { y with st := { y.st with del := del, delSet := true } }) x
      finish c1 .ok del.toNat (setIndex n { x1 with dlog := x1.dlog ++ [{ item := item, gen := gen, del := del }] } s1)

/-- DELETE (R183). -/
def execDelete (ring : Nat) (rseq : BitVec 32) (s : State) : Res :=
  .next (admitting ring rseq (fun c => c.op == 0x22) admitDelete s)

/-! ## PUBLISH_EPOCH (R184, R185) -/

/-- Fields of PUBLISH_EPOCH. -/
def pubExpect (c : Cmd) : BitVec 16 := BitVec.ofNat 16 (fld c.desc 12 2)
def pubFloor (s : State) (c : Cmd) : BitVec 16 :=
  if idxFlag c 8 then BitVec.ofNat 16 (fld c.desc 14 2) else (getIndex s (idxOf c)).floor
def pubCount (c : Cmd) : Nat := fld c.desc 26 2

/-- P in [15:0] and F in [31:16]. -/
def pubResult (x : Index) : Nat := x.published.toNat + 65536 * x.floor.toNat

/-- What decides a publish without a commit: its status. `none` where it goes on. -/
def pubOutcome (s : State) (c : Cmd) : Option Status :=
  let x := getIndex s (idxOf c)
  let f := pubFloor s c
  let p := x.published
  if p = pubExpect c + 1 then some .ok
  else if p ≠ pubExpect c then some .wrongState
  else if (idxFlag c 8 ∧ !(epochLe x.floor f && epochLe f (p + 1))) ∨ 4095 < (p + 1 - f).toNat then some .illegalValue
  else if x.dlog.any fun d => d.st != .freed && decide (16384 ≤ (p + 1 - d.del).toNat) then some .busy
  else none

/-- The searches of an index that run. -/
def runningSearches (s : State) (n : Nat) : List (Nat × SearchRun) :=
  s.cmds.filterMap fun (k, c) => match c.phase, c.work with
    | .running, .search r => if r.idx = n then some (k, r) else none
    | _, _ => none

/-- PUBLISH_EPOCH is admitted. -/
def admitPublish (c : Cmd) (s : State) : State :=
  let n := idxOf c
  let w := fld c.desc 8 4
  let cnt := pubCount c
  let st := firstBad [
    idxCheck s c,
    failIf (decide (2 ^ 10 ≤ w) || bits w 6 2 != 0 || !allZero (slice c.desc 28 36)
      || (idxFlag c 9 && (cnt == 0 || decide (4096 < cnt) || decide (4096 < fld c.desc 24 2 + cnt)))) .illegalValue,
    if idxFlag c 9 then checkAddr s c (fld c.desc 16 8) (8192 * cnt) else .ok,
    failIf (idxLost s n) .dataLost]
  if st ≠ .ok then endAtAdmission c st 0 s
  else
    let r : PublishRun :=
      { idx := n, due := now s + 10000000, floor := if idxFlag c 8 then some (pubFloor s c) else none
        filters := if idxFlag c 9 then some (fld c.desc 24 2, cnt) else none, haveIn := !idxFlag c 9
        before := (runningSearches s n).map (·.1) }
    let s1 := admitCmd c (.publish r) s
    let c1 := (getCmd s1 c.ring c.rseq).getD c
    match pubOutcome s c with
    | some st => finish c1 st (if st = .ok then pubResult (getIndex s n) else 0) s1
    | none =>
      let s2 := if (idxCfg s n).ordered then setIndex n { getIndex s1 n with applying := true } s1 else s1
      if !idxFlag c 9 then s2
      else match startRead c1 (fld c.desc 16 8) (8192 * cnt) s2 with
        | (.now b, s3) => setCmd { (getCmd s3 c.ring c.rseq).getD c1 with work := .publish { r with pages := b, haveIn := true } } s3
        | (.wait, s3) => s3
        | (.fail st, s3) => finish c1 st 0 (setIndex n { getIndex s3 n with applying := false } s3)

/-- The publish no longer holds new searches back. -/
def endApplying (n : Nat) (s : State) : State := setIndex n { getIndex s n with applying := false } s

/-- PUBLISH_EPOCH (R185). -/
def execPublishEpoch (ring : Nat) (rseq : BitVec 32) (s : State) : Res :=
  .next (admitting ring rseq (fun c => c.op == 0x23) admitPublish s)

/-- PUBLISH_EPOCH's bitmaps are here. -/
def publishInput (c : Cmd) (g : Got) (s : State) : State :=
  match c.work, g with
  | .publish r, .now b => setCmd { c with work := .publish { r with pages := b, haveIn := true } } s
  | .publish r, .fail st => finish c st 0 (endApplying r.idx s)
  | _, _ => s

/-- Step 1 still waits: a search of an epoch below the new floor runs. -/
def floorWaits (s : State) (r : PublishRun) : Bool :=
  match r.floor with
  | some f => (runningSearches s r.idx).any fun (_, q) => epochLt q.epoch f
  | none => false

/-- Steps 1 to 3 have ended. -/
def publishReady (s : State) (r : PublishRun) : Bool :=
  let x := getIndex s r.idx
  let run := runningSearches s r.idx
  r.haveIn && !floorWaits s r
    && (r.filters.isNone || !run.any fun (_, q) => q.filter.isSome && q.fsel != x.fsel)
    && (!(idxCfg s r.idx).ordered || !run.any fun (k, _) => r.before.contains k)

/-- Step 2: the unselected copy is written. -/
def writeFilters (r : PublishRun) (x : Index) : Index :=
  match r.filters with
  | none => x
  | some (first, n) =>
    let new := 1 - x.fsel
    let others := tfilter x.filters fun k _ => k / 4096 != new
    let copied := (x.filters.filter fun (k, _) => k / 4096 == x.fsel).foldl (fun t (k, b) => tset t (4096 * new + k % 4096) b) others
    let filled := (List.range n).foldl (fun t i => tset t (4096 * new + first + i) (slice r.pages (8192 * i) 8192)) copied
    { x with filters := filled, fsel := new }

/-- PUBLISH_COMMIT (R185): the waits have ended. -/
def execPublishCommit (ring : Nat) (rseq : BitVec 32) (s : State) : Res :=
  .next (
    match runningCmd s ring rseq with
    | none => s
    | some c =>
      match c.work with
      | .publish r =>
        if !publishReady s r ∨ !serving s then s
        else match pubOutcome s c with
          | some st => finish c st (if st = .ok then pubResult (getIndex s r.idx) else 0) (endApplying r.idx s)
          | none =>
            let x := getIndex s r.idx
            let x1 := { publishIndex (r.floor.getD x.floor) (writeFilters r x) with applying := false }
            finish c .ok (pubResult x1) (setIndex r.idx x1 s)
      | _ => s)

/-- PUBLISH_FLOOR_TIMEOUT (R185): 10 ms pass before the searches below the new floor end. -/
def execPublishFloorTimeout (ring : Nat) (rseq : BitVec 32) (s : State) : Res :=
  .next (
    match runningCmd s ring rseq with
    | none => s
    | some c =>
      match c.work with
      | .publish r => if floorWaits s r ∧ serving s then finish c .timeout 0 (endApplying r.idx (advanceTo r.due s)) else s
      | _ => s)

/-- SLAG_SWEEP (R186, R189): a sweep of an index that holds dead entries. It pauses while the write log has no room. -/
def execSlagSweep (idx : Nat) (s : State) : Res :=
  .next (
    let c := idxCfg s idx
    let x := getIndex s idx
    if 64 ≤ idx ∨ !c.valid ∨ !serving s ∨ !(x.dlog.any fun d => d.st == .dead) ∨ wlogSize < x.wlog.length + sweepWrites c x then s
    else cntAdd walkDmgSkip (sweepMet x) (setIndex idx (sweepIndex c x) s))

end Sys2Proof.Machine
end

