-- ==== Sys2Proof/Machine/Target.lean ====
section
/-! DEFINITION. The transport at the receiver (R275 to R285, R292): sync counters, regions and paging, the order of checks of
R277, duplicates, acknowledgements, and the rows of the packets and timers that need no other family. -/

namespace Sys2Proof.Machine

open Sys2Proof

/-! ## Sync counters (R283 to R288) -/

/-- A counter. -/
def getCnt (s : State) (i : Nat) : SyncCnt := tgetD s.rma.counters i {}

/-- Low word of RMA_CNT_CFG[i] in force: PARTITION and VALID; BOUND is the high word. -/
def cntCfg (s : State) (i : Nat) : Nat := (actW s (0x480000 + 8 * i)).toNat

/-- BOUND of a counter. -/
def cntBound (s : State) (i : Nat) : Nat := (actW s (0x480004 + 8 * i)).toNat

/-- The counter is VALID and belongs to the partition. -/
def cntOwned (s : State) (part i : Nat) : Bool := bit (cntCfg s i) 6 && bits (cntCfg s i) 0 6 == part

/-- The value that a waiter watches. -/
def watched (c : SyncCnt) (onAcked : Bool) : Nat := if onAcked then c.acked else c.value

/-- One waiter is woken: its WAIT completes with the value, or its card goes on (R286, R288). -/
def wakeOne (w : Waiter) (s : State) : State :=
  let v := watched (getCnt s w.counter) w.onAcked
  let s1 : State := { s with rma := { s.rma with waiters := s.rma.waiters.erase w } }
  match w.card, w.key with
  | some k, _ => { s1 with deck := { s1.deck with waits := tdel s1.deck.waits k, loaned := s1.deck.loaned.erase k } }
  | none, some k => (match tget s1.cmds k with
    | some c => finish c .ok v s1
    | none => s1)
  | none, none => s1

/-- Wake every waiter that a counter satisfies, in the order of their admission (R288). -/
def wakeWaiters (i : Nat) (s : State) : State :=
  forEach (s.rma.waiters.filter fun w => w.counter == i && decide (w.target ≤ watched (getCnt s i) w.onAcked)) wakeOne s

/-- The checks of an addition (R285). -/
def addStatus (s : State) (part i amount : Nat) (toAcked : Bool) : Status :=
  let c := getCnt s i
  if !cntOwned s part i then .accessViolation
  else if toAcked then (if c.value < c.acked + amount then .illegalValue else .ok)
  else if cntBound s i < c.value + amount - c.acked then .illegalValue
  else .ok

/-- Add to a counter and wake its waiters. A failed bound check is counted and reported to the partition (R285). -/
def addCounter (part i amount : Nat) (toAcked : Bool) (conn peer : Nat) (s : State) : State :=
  match addStatus s part i amount toAcked with
  | .ok =>
    let c := getCnt s i
    let c' : SyncCnt := if toAcked then { c with acked := c.acked + amount } else { c with value := c.value + amount }
    wakeWaiters i { s with rma := { s.rma with counters := tset s.rma.counters i c' } }
  | .illegalValue =>
    post { cls := 7, code := 2, part := some part, status := .illegalValue,
           detail := .c conn peer 4 0 (BitVec.ofNat 64 i) (amount % 2 ^ 32) } (rmaCnt cBoundRejects 1 s)
  | _ => s

/-! ## Regions (R271, R279) -/

/-- A region. -/
def getRegion (s : State) (i : Nat) : Region := tgetD s.rma.regions i {}

/-- Page table entry `i` of a region; one that cannot be read counts as absent. -/
def pageEntry (s : State) (r : Region) (i : Nat) : Nat :=
  match readLocal s (r.ptBase + 8 * i) 8 with
  | .data b => leVal b
  | _ => 0

/-- The first page of a range that is not present, if there is one. -/
def absentPage (s : State) (r : Region) (off n : Nat) : Option Nat :=
  if r.paging = 0 ∨ n = 0 then none
  else
    let a := off / 2 ^ r.pageLog2
    let b := (off + n - 1) / 2 ^ r.pageLog2
    ((List.range (b - a + 1)).find? fun k => !bit (pageEntry s r (a + k)) 0).map (a + ·)

/-- Cut a range of a region at the pieces it resolved to. -/
def throughPieces : List (Nat × Nat × Nat) → Nat → Nat → List (Nat × Nat)
  | [], _, _ => []
  | (o, l, a) :: t, off, n =>
    let lo := max o off
    let hi := min (o + l) (off + n)
    if lo < hi then (a + (lo - o), hi - lo) :: throughPieces t off n else throughPieces t off n

/-- Cut a range at page borders; `fuel` bounds the pages. -/
def throughPages (s : State) (r : Region) : Nat → Nat → Nat → List (Nat × Nat)
  | 0, _, _ => []
  | fuel + 1, off, n =>
    if n = 0 then []
    else
      let pg := 2 ^ r.pageLog2
      let m := min n (pg - off % pg)
      (bits (pageEntry s r (off / pg)) 12 40 * 4096 + off % pg, m) :: throughPages s r fuel (off + m) (n - m)

/-- The local or bus addresses of a range of a region. -/
def regionSpans (s : State) (r : Region) (off n : Nat) : List (Nat × Nat) :=
  if r.paging ≠ 0 then throughPages s r (n / 2 ^ r.pageLog2 + 2) off n
  else if r.space = 0 then throughPieces r.pieces off n
  else [(r.base + off, n)]

/-- The spans of a bus range that a window or the end of PCIe space does not allow (R313, R378). -/
def spansBad (s : State) (r : Region) (sp : List (Nat × Nat)) : Bool :=
  r.space == 1 && sp.any fun (a, n) => decide (2 ^ 62 < a + n) || windowBad s r.part a n

/-- Write bytes to spans in order. -/
def writeSpans (r : Region) : List (Nat × Nat) → List Byte → State → State
  | [], _, s => s
  | (a, n) :: t, bs, s =>
    let s1 := if r.space = 0 then writeMem a (slice bs 0 n) s
      else tapAdd r.part resPcieOut n (emit (.dmaWrite (r.part + 1) a (windowSeal s r.part a (slice bs 0 n))) s)
    writeSpans r t (bs.drop n) s1

/-- Read local spans in order. -/
def readSpans (s : State) : List (Nat × Nat) → MemRead
  | [] => .data []
  | (a, n) :: t =>
    match readLocal s a n with
    | .data b => (match readSpans s t with
      | .data b' => .data (b ++ b')
      | r => r)
    | r => r

/-! ## Answers of the target (R278) -/

/-- NAK codes. -/
def nakSeq : Nat := 1
def nakAccess : Nat := 2
def nakKeyStale : Nat := 3
def nakBound : Nat := 4
def nakTimeout : Nat := 5
def nakDamaged : Nat := 6
def nakUnsupported : Nat := 7
def nakMetering : Nat := 8

/-- The requester's status of a NAK code. -/
def nakStatus : Nat → Status
  | 2 => .accessViolation
  | 3 => .keyStale
  | 4 => .illegalValue
  | 5 => .timeout
  | 6 => .dataDamaged
  | 7 => .illegalCombination
  | 8 => .meteringHalt
  | _ => .illegalValue

/-- e advances by `n`; the wrap count follows. -/
def advanceRx (c n : Nat) (s : State) : State :=
  modConn c (fun x =>
    let e := x.rxPsn + BitVec.ofNat 24 n
    { x with rxPsn := e, rxWrap := x.rxWrap + b2n (decide (e.toNat < x.rxPsn.toNat)), nakSeqSent := false, retryAfter := none }) s

/-- Send ACK of e - 1. -/
def ackNow (c : Nat) (s : State) : State :=
  sendAck c 0x08 ((getConn s c).rxPsn - 1) 0 0 (modConn c (fun x => { x with unacked := 0 }) s)

/-- A packet is applied: an ACK at once, or when it is due. -/
def applied (c : Nat) (p : Packet) (s : State) : State :=
  let s1 := modConn c (fun x => { x with unacked := x.unacked + 1, unackedAt := if x.unacked = 0 then now s else x.unackedAt }) s
  if p.tr.ackReq ∨ 16 ≤ (getConn s1 c).unacked then ackNow c s1 else s1

/-- Reject an operation: e passes it, the NAK is recorded and sent. Where the 8 records are in use the packet is discarded. -/
def reject (c : Nat) (first : BitVec 24) (n code : Nat) (s : State) : State :=
  let x := getConn s c
  if 8 ≤ x.errRecs.length then s
  else
    let d := (first + BitVec.ofNat 24 n - x.rxPsn).toNat
    let s1 := modConn c (fun x => { x with errRecs := x.errRecs ++ [(first, n, code)], rest := none, unacked := 0, held := none })
      (advanceRx c d s)
    sendAck c 0x09 first code 0 s1

/-- Free the records that the sender's CPSN has passed. -/
def purgeRecs (c : Nat) (cpsn : BitVec 24) (s : State) : State :=
  let old (p : BitVec 24) : Bool := p != cpsn && decide ((cpsn - p).toNat < 2 ^ 23)
  modConn c (fun x => { x with errRecs := x.errRecs.filter fun r => !old r.1, addRecs := x.addRecs.filter fun r => !old r.1 }) s

/-! ## Step 6 of R277 -/

/-- The ACCESS bit that a packet needs. -/
def accessBit (top : Nat) : Nat := if top = 0x02 then 0 else if top = 0x01 then 1 else 2

/-- Region 65,535, which takes the management messages of the fabric path (R267, R429). -/
def mgmtRegion : Nat := 65535

/-- The key check of an operation's FIRST packet: its NAK code, or 0. A management half may write region 65,535 alone, and no other half
may use it. -/
def keyCheck (s : State) (x : Conn) (p : Packet) : Nat :=
  let r := getRegion s (p.tr.rkey.toNat % 65536)
  let n := if p.tr.top = 0x04 then 8 else p.tr.total.toNat
  if !r.used ∨ r.gen.toNat ≠ p.tr.rkey.toNat / 2 ^ 32 then nakKeyStale
  else if (if x.mgmt then !(p.tr.rkey.toNat % 65536 == mgmtRegion && p.tr.top == 0x01) else r.part != x.part) ∨ !bit r.access (accessBit p.tr.top.toNat) ∨ r.len < p.tr.raddr.toNat + n
      ∨ (p.tr.top = 0x04 ∧ p.tr.raddr.toNat % 8 ≠ 0) then nakAccess
  else 0

/-- A violation (R282): counted, and an event to the region's partition, or the connection's where the index is unused. -/
def violation (c : Nat) (p : Packet) (code : Nat) (s : State) : State :=
  let r := getRegion s (p.tr.rkey.toNat % 65536)
  let x := getConn s c
  let part := if r.used ∧ r.part < 64 then some r.part else connPart x
  post { cls := 7, code := 1, part := part, status := nakStatus code,
         detail := .c c x.peerNode.toNat code p.tr.rkey p.tr.raddr p.tr.total.toNat } (rmaCnt cViolations 1 s)

/-- PSNs of the operation that a FIRST packet opens. -/
def pktPsns (p : Packet) : Nat :=
  if p.tr.top = 0x01 ∨ p.tr.top = 0x02 then max 1 (cdiv p.tr.total.toNat 4096) else 1

/-! ## Step 8: paging (R279, R280) -/

/-- STALL_LIMIT_US in ns. -/
def stallNs (s : State) : Nat := 1000 * actBits s 0x400010 14 16

/-- The page request. -/
def pageRequest (c : Nat) (r : Region) (p : Packet) (page : Nat) (s : State) : State :=
  post { cls := 7, code := 3, part := some r.part,
         detail := .c c (getConn s c).peerNode.toNat 0 p.tr.rkey (BitVec.ofNat 64 (page * 2 ^ r.pageLog2)) p.tr.total.toNat } s

/-- The requester is served in stall mode in every region: its path crosses a level-1 link, or it is a gateway endpoint on
this node whose CAP lacks RESEND (R26, R279). -/
def stallOnly (s : State) (x : Conn) : Bool :=
  let n := x.peerNode.toNat
  x.pathL1 || (bits n 9 3 != 0 && n % 512 == nodeId s % 512 && !(getPort s (bits n 9 3 - 1)).resend)

/-- Packets held in the node. -/
def heldCount (s : State) : Nat := tcount s.rma.conns fun _ x => x.held.isSome

/-- A packet meets an absent page: `first` and `n` are its operation's PSNs. -/
def pageMiss (port c : Nat) (cg : Cargo) (first : BitVec 24) (n : Nat) (r : Region) (ri page : Nat) (s : State) : State :=
  let p := cg.packet
  let x := getConn s c
  if r.paging = 1 ∨ stallOnly s x then
    if 256 ≤ heldCount s ∧ x.held.isNone then s
    else
      let since := (x.held.map (·.since)).getD (now s)
      let h : Held := { port := port, cargo := cg, since := since, lastHold := now s, region := ri, page := page }
      let s1 := pageRequest c r p page (modConn c (fun x => { x with held := some h }) s)
      sendAck c 0x0A p.tr.psn 0 0 (if x.held.isSome then s1 else rmaCnt cStalls 1 s1)
  else
    let t0 := match x.retryAfter with
      | some (q, t, _, _) => if q = p.tr.psn then t else now s
      | none => now s
    if t0 + stallNs s ≤ now s ∧ x.retryAfter.isSome then reject c first n nakTimeout s
    else
      let s1 := pageRequest c r p page (modConn c (fun x => { x with retryAfter := some (p.tr.psn, t0, first, n) }) s)
      sendAck c 0x0B p.tr.psn 0 (actBits s 0x400014 0 16) (rmaCnt cStalls 1 s1)

/-! ## Step 9: applying -/

/-- Send read data: packet k carries the request's PSN + k. -/
def respondRead (c : Nat) (p : Packet) (data : List Byte) (s : State) : State :=
  let n := pktPsns p
  forEach (List.range n) (fun k s =>
    sendConn c { noTr with top := 0x03, first := k == 0, last := k + 1 == n, try_ := p.tr.try_, psn := p.tr.psn + BitVec.ofNat 24 k
                           total := if k = 0 then p.tr.total else 0 } ((data.drop (4096 * k)).take 4096) .pkt s) s

/-- Send the value before an add. -/
def respondAdd (c : Nat) (psn : BitVec 24) (try_ : BitVec 8) (old : BitVec 64) (s : State) : State :=
  sendConn c { noTr with top := 0x05, first := true, last := true, try_ := try_, psn := psn } (leBytes 8 old.toNat) .pkt s

/-- The data of a READ_REQ or ADD_REQ is there: answer it. A duplicate READ advances nothing. -/
def answerRead (c : Nat) (p : Packet) (data : List Byte) (dup : Bool) (s : State) : State :=
  if p.tr.top = 0x02 then
    if dup then respondRead c p data s
    else applied c p (respondRead c p data (advanceRx c (pktPsns p) s))
  else
    let old := BitVec.ofNat 64 (fld data 0 8)
    let r := getRegion s (p.tr.rkey.toNat % 65536)
    let new := leBytes 8 (old + BitVec.ofNat 64 (fld p.payload 0 8)).toNat
    let s1 := writeSpans r (regionSpans s r p.tr.raddr.toNat 8) new s
    let s2 := modConn c (fun x => { x with addRecs := x.addRecs ++ [(p.tr.psn, old)] }) (advanceRx c 1 s1)
    applied c p (respondAdd c p.tr.psn p.tr.try_ old s2)

/-- A read of the region fails: a NAK, recorded unless the packet is a duplicate. -/
def answerBad (c : Nat) (p : Packet) (code : Nat) (dup : Bool) (s : State) : State :=
  if dup then sendAck c 0x09 p.tr.psn code 0 s else reject c p.tr.psn (pktPsns p) code s

/-- Ask for the next bus range of a target read. -/
def askTarget (c part : Nat) (t : TargetRead) (s : State) : State :=
  match t.todo with
  | [] => s
  | (a, n) :: _ => emit (.dmaRead (part + 1) a n (.target c)) (modConn c (fun x => { x with reading := some t }) s)

/-- Steps 8 and 9 for READ_REQ and ADD_REQ. -/
def serveRead (port c : Nat) (cg : Cargo) (dup : Bool) (s : State) : State :=
  let p := cg.packet
  let ri := p.tr.rkey.toNat % 65536
  let r := getRegion s ri
  let n := if p.tr.top = 0x04 then 8 else p.tr.total.toNat
  match absentPage s r p.tr.raddr.toNat n with
  | some pg => pageMiss port c cg p.tr.psn (pktPsns p) r ri pg s
  | none =>
    let sp := regionSpans s r p.tr.raddr.toNat n
    if p.tr.top = 0x04 ∧ 16 ≤ (getConn s c).addRecs.length ∧ !dup then s
    else if spansBad s r sp then answerBad c p nakAccess dup s
    else if r.space = 1 then askTarget c r.part { port := port, cargo := cg, todo := sp, dup := dup } s
    else match readSpans s sp with
      | .data b => answerRead c p b dup s
      | _ => answerBad c p nakDamaged dup s

/-- Steps 8 and 9 for a packet of a WRITE; `o` is the operation as it stands. -/
def serveWrite (port c : Nat) (cg : Cargo) (o : Rest) (s : State) : State :=
  let p := cg.packet
  let ri := o.rkey.toNat % 65536
  let r := getRegion s ri
  let n := min p.payload.length o.left
  match absentPage s r o.off n with
  | some pg => pageMiss port c cg o.first o.psns r ri pg s
  | none =>
    let sp := regionSpans s r o.off n
    if spansBad s r sp then reject c o.first o.psns nakAccess s
    else
      let s1 := advanceRx c 1 (writeSpans r sp (p.payload.take n) s)
      let rest : Option Rest := if p.tr.last ∨ o.left ≤ n then none else some { o with off := o.off + n, left := o.left - n }
      applied c p (modConn c (fun x => { x with rest := rest }) s1)

/-- Steps 6 to 9 for an expected packet of a WRITE. A packet that continues no operation and is no FIRST is discarded. -/
def freshWrite (port c : Nat) (cg : Cargo) (s : State) : State :=
  let p := cg.packet
  let x := getConn s c
  if p.tr.first then
    if s.tap.halted then reject c p.tr.psn (pktPsns p) nakMetering s
    else match keyCheck s x p with
      | 0 => serveWrite port c cg { first := p.tr.psn, psns := pktPsns p, rkey := p.tr.rkey, off := p.tr.raddr.toNat, left := p.tr.total.toNat } s
      | code => if 8 ≤ x.errRecs.length then s else violation c p code (reject c p.tr.psn (pktPsns p) code s)
  else match x.rest with
    | some o => serveWrite port c cg o s
    | none => s

/-- Steps 6 to 9 for an expected READ_REQ or ADD_REQ. -/
def freshRead (port c : Nat) (cg : Cargo) (s : State) : State :=
  let p := cg.packet
  let x := getConn s c
  if s.tap.halted then reject c p.tr.psn (pktPsns p) nakMetering s
  else match keyCheck s x p with
    | 0 => serveRead port c cg false s
    | code => if 8 ≤ x.errRecs.length then s else violation c p code (reject c p.tr.psn (pktPsns p) code s)

/-- Step 7 and 9 for an expected SIGNAL. -/
def freshSignal (c : Nat) (cg : Cargo) (s : State) : State :=
  let p := cg.packet
  let x := getConn s c
  let i := p.tr.total.toNat % 65536
  let toAcked := bit p.tr.total.toNat 16
  let amount := fld p.payload 0 8
  let part := if x.mgmt then 64 else x.part
  if s.tap.halted then reject c p.tr.psn 1 nakMetering s
  else match addStatus s part i amount toAcked with
    | .ok => applied c p (advanceRx c 1 (addCounter part i amount toAcked c x.peerNode.toNat s))
    | .illegalValue => if 8 ≤ x.errRecs.length then s
        else reject c p.tr.psn 1 nakBound (addCounter part i amount toAcked c x.peerNode.toNat s)
    | _ => reject c p.tr.psn 1 nakAccess s

/-! ## Steps 1 to 5 -/

/-- A duplicate (R277). -/
def duplicate (port c : Nat) (cg : Cargo) (s : State) : State :=
  let p := cg.packet
  let x := getConn s c
  let s1 := rmaCnt cDuplicates 1 s
  match x.errRecs.find? fun r => decide ((p.tr.psn - r.1).toNat < r.2.1) with
  | some r => sendAck c 0x09 r.1 r.2.2 0 s1
  | none =>
    match p.tr.top.toNat, x.addRecs.find? fun r => r.1 == p.tr.psn with
    | 0x04, some r => respondAdd c p.tr.psn p.tr.try_ r.2 s1
    | 0x02, _ => (match keyCheck s x p with
      | 0 => serveRead port c cg true s1
      | code => sendAck c 0x09 p.tr.psn code 0 s1)
    | _, _ => ackNow c s1

/-- A packet cannot be processed until its context is fetched: it parks, or stays in its input buffer (R270). -/
def parkPacket (port c : Nat) (cg : Cargo) (s : State) : State :=
  let x := getPort s port
  if 6 ≤ port then fetchCtx c { s with fab := { s.fab with loop := s.fab.loop.filter (· != cg) ++ [cg] } }
  else if 64 ≤ x.missq.length then s
  else
    let s1 := modPort port (fun x =>
      let full := x.missq.length + 1 == 64
      { x with missq := x.missq ++ [(c, cg)], missFull := x.missFull || full
               missFullFrom := if full then now s else x.missFullFrom }) s
    fetchCtx c (takeInbox port cg s1)

/-- AUTH_FAIL (R277): counted, and an event to the owner. -/
def authFail (c : Nat) (p : Packet) (s : State) : State :=
  post { cls := 6, code := 4, detail := .c c p.fab.src.toNat 0 p.tr.rkey p.tr.raddr p.tr.total.toNat } (rmaCnt cAuthFail 1 s)

/-- A packet for a half arrives: steps 1 and 2, its bytes, and its context. `act` sees the packet with its plaintext. -/
def rxOn (port : Nat) (cg : Cargo) (queue : Bool) (act : Nat → Cargo → State → State) (s : State) : State :=
  let p := cg.packet
  let c := p.tr.dconn % 2 ^ 20
  let x := getConn s c
  if !serving s then s
  else if x.state = .free ∨ p.fab.src ≠ x.peerNode then rmaCnt cStray 1 (takeInbox port cg s)
  else if !cached s c then parkPacket port c cg s
  else if queue ∧ x.reading.isSome then
    modConn c (fun x => { x with waiting := x.waiting ++ [(port, cg)] }) (takeInbox port cg s)
  else
    let s1 := touchCtx c (meterRx (connPart x) p (takeInbox port cg s))
    match openPacket s1 c p with
    | none => authFail c p s1
    | some plain => act c (cg.withPacket { p with payload := plain }) (purgeRecs c p.tr.cpsn s1)

/-- Steps 3 to 5 for a request; `fresh` does the rest (R276, R277). -/
def rxRequest (port : Nat) (cg : Cargo) (fresh : Nat → Cargo → State → State) (s : State) : State :=
  rxOn port cg true (fun c cg s =>
    let p := cg.packet
    let x := getConn s c
    let d := (p.tr.psn - x.rxPsn).toNat
    if x.held.isSome then s
    else if d = 0 then
      if x.state = .error then
        (match x.rest with
          | some o => if p.tr.first then reject c p.tr.psn (pktPsns p) nakTimeout s else reject c o.first o.psns nakTimeout s
          | none => reject c p.tr.psn (pktPsns p) nakTimeout s)
      else fresh c cg s
    else if d < 2 ^ 23 then
      if x.nakSeqSent then s
      else sendAck c 0x09 (x.rxPsn - 1) nakSeq 0 (rmaCnt cSeqNaks 1 (modConn c (fun x => { x with nakSeqSent := true, unacked := 0 }) s))
    else duplicate port c cg s) s

/-- Process a WRITE packet. -/
def rxWritePkt (port : Nat) (cg : Cargo) (s : State) : State := rxRequest port cg (freshWrite port) s

/-- Process a READ_REQ or ADD_REQ packet. -/
def rxReadPkt (port : Nat) (cg : Cargo) (s : State) : State := rxRequest port cg (freshRead port) s

/-- Process a SIGNAL packet. -/
def rxSignalPkt (port : Nat) (cg : Cargo) (s : State) : State := rxRequest port cg freshSignal s

/-! ## The sender's answers -/

/-- An operation ends at the sender. -/
def opDone (c : Nat) (o : Op) (st : Status) (result : Nat) (s : State) : State :=
  let s1 := dropOp c o s
  match o.key with
  | none => s1
  | some k =>
    match tget s1.cmds k with
    | none => s1
    | some cmd =>
      if st = .ok ∧ o.kind = .read then
        let bs := o.got.flatMap fun (k, b) => slice b 0 (min 4096 (o.total - 4096 * k))
        deliver cmd (fld cmd.desc 16 8) bs .ok o.total s1
      else finish cmd st (if st = .ok then result else 0) s1

/-- A CALL is turned away with a NAK: the command that awaits its answer ends with the NAK's status; a LADLE goes on without
its replica (R62, R278). -/
def callRefused (c : Nat) (m : CallMsg) (st : Status) (s : State) : State :=
  match tfind s.cmds fun _ x => x.phase != .finished && x.subs.any fun u => u.conn == c && u.call == m && u.answer.isNone with
  | none => s
  | some (_, cmd) =>
    match m with
    | .replicate _ => (match cmd.subs.findIdx? fun u => u.call == m with
      | some i => loseSub cmd i s
      | none => s)
    | _ => finish cmd st 0 s

/-- PSNs up to `a` are applied at the target. -/
def ackUpTo (c : Nat) (a : BitVec 24) (s : State) : State :=
  let x := getConn s c
  let covered := x.ops.filter fun o => o.sentPkts != 0 && decide ((a - o.psn).toNat < 2 ^ 23)
  if covered.isEmpty then s
  else
    let moved := covered.any fun o =>
      decide (o.psns ≤ (a - o.psn).toNat + 1) && o.kind != .read && o.kind != .add
        || (o.kind == .write && decide ((x.ackPsn - o.psn).toNat < (a + 1 - o.psn).toNat))
    let s1 := modConn c (fun x => { x with ackPsn := a + 1 }) s
    let s2 := forEach covered (fun o s =>
      if o.psns ≤ (a - o.psn).toNat + 1 ∧ o.kind ≠ .read ∧ o.kind ≠ .add then opDone c o .ok (if o.kind = .write then o.total else 0) s else s) s1
    if moved then progress c s2 else s2

/-- ACK (R278). -/
def rxAckPkt (port : Nat) (cg : Cargo) (s : State) : State :=
  rxOn port cg false (fun c cg s => ackUpTo c cg.packet.tr.psn s) s

/-- NAK (R276, R278): SEQ resends from the next PSN; any other code ends the operation that it names. -/
def rxNakPkt (port : Nat) (cg : Cargo) (s : State) : State :=
  rxOn port cg false (fun c cg s =>
    let p := cg.packet
    let code := p.tr.raddr.toNat % 256
    if code = nakSeq then
      let s1 := modConn c (fun x => { x with txHeld := false }) (ackUpTo c p.tr.psn s)
      pump c (resendFrom c (p.tr.psn + 1) s1)
    else
      let s1 := ackUpTo c (p.tr.psn - 1) s
      match (getConn s1 c).ops.find? fun o => o.sentPkts != 0 && o.psn == p.tr.psn with
      | none => s1
      | some o =>
        let s2 := opDone c o (nakStatus code) 0 s1
        progress c (match o.msg with
          | some m => callRefused c m (nakStatus code) s2
          | none => s2)) s

/-- HOLD (R279): the timer starts again, no retry is counted, and no new PSN is sent. -/
def rxHoldPkt (port : Nat) (cg : Cargo) (s : State) : State :=
  rxOn port cg false (fun c _ s => modConn c (fun x => { x with timerAt := now s, txHeld := true }) s) s

/-- RETRY_AFTER (R280). -/
def rxRetryPkt (port : Nat) (cg : Cargo) (s : State) : State :=
  rxOn port cg false (fun c cg s =>
    let p := cg.packet
    let us := bits p.tr.raddr.toNat 16 16
    if (getConn s c).ops.any fun o => o.sentPkts != 0 && decide ((p.tr.psn - o.psn).toNat < o.psns) then
      modConn c (fun x => { x with timerAt := now s, resendAt := some (now s + 1000 * us, p.tr.psn) }) s
    else s) s

/-- READ_RESP (R263): packet k of the response; the READ is complete when every packet is here. -/
def rxReadRespPkt (port : Nat) (cg : Cargo) (s : State) : State :=
  rxOn port cg false (fun c cg s =>
    let p := cg.packet
    match (getConn s c).ops.find? fun o => o.kind == .read && o.sentPkts != 0 && decide ((p.tr.psn - o.psn).toNat < o.psns) with
    | none => s
    | some o =>
      let k := (p.tr.psn - o.psn).toNat
      let o1 := { o with got := tset o.got k p.payload }
      let s1 := modConn c (fun x => { x with ops := x.ops.map fun y => if y = o then o1 else y }) s
      progress c (if o1.got.length = o1.psns then opDone c o1 .ok o1.total s1 else s1)) s

/-- ADD_RESP (R263). -/
def rxAddRespPkt (port : Nat) (cg : Cargo) (s : State) : State :=
  rxOn port cg false (fun c cg s =>
    let p := cg.packet
    match (getConn s c).ops.find? fun o => o.kind == .add && o.sentPkts != 0 && o.psn == p.tr.psn with
    | none => s
    | some o => progress c (opDone c o .ok (fld p.payload 0 8) s)) s

/-- The packet's TOP is `top`, and it is not connectionless. -/
def topIs (p : Packet) (top : Nat) : Bool := p.tr.top.toNat == top && !p.tr.cl

/-- A row for one TOP. -/
def rxRow (port : Nat) (p : Packet) (top : Nat) (f : Nat → Cargo → State → State) (s : State) : Res :=
  .next (if topIs p top then f port (.pkt p) s else s)

/-- RX_WRITE (R277). -/
def execRxWrite (port : Nat) (pkt : Packet) (s : State) : Res := rxRow port pkt 0x01 rxWritePkt s

/-- RX_READ_REQ (R277). -/
def execRxReadReq (port : Nat) (pkt : Packet) (s : State) : Res := rxRow port pkt 0x02 rxReadPkt s

/-- RX_READ_RESP (R263). -/
def execRxReadResp (port : Nat) (pkt : Packet) (s : State) : Res := rxRow port pkt 0x03 rxReadRespPkt s

/-- RX_ADD_REQ (R277). -/
def execRxAddReq (port : Nat) (pkt : Packet) (s : State) : Res := rxRow port pkt 0x04 rxReadPkt s

/-- RX_ADD_RESP (R263). -/
def execRxAddResp (port : Nat) (pkt : Packet) (s : State) : Res := rxRow port pkt 0x05 rxAddRespPkt s

/-- RX_SIGNAL (R285). -/
def execRxSignal (port : Nat) (pkt : Packet) (s : State) : Res := rxRow port pkt 0x06 rxSignalPkt s

/-- RX_ACK (R278). -/
def execRxAck (port : Nat) (pkt : Packet) (s : State) : Res := rxRow port pkt 0x08 rxAckPkt s

/-- RX_NAK (R278). -/
def execRxNak (port : Nat) (pkt : Packet) (s : State) : Res := rxRow port pkt 0x09 rxNakPkt s

/-- RX_HOLD (R279). -/
def execRxHold (port : Nat) (pkt : Packet) (s : State) : Res := rxRow port pkt 0x0A rxHoldPkt s

/-- RX_RETRY_AFTER (R280). -/
def execRxRetryAfter (port : Nat) (pkt : Packet) (s : State) : Res := rxRow port pkt 0x0B rxRetryPkt s

/-! ## Timers -/

/-- ACK_DELAY_TIMEOUT (R278): 500 ns after the oldest unacknowledged applied packet. -/
def execAckDelayTimeout (conn : Nat) (s : State) : Res :=
  .next (
    let x := getConn s conn
    if x.unacked = 0 ∨ x.state = .free ∨ !serving s then s else ackNow conn (advanceTo (x.unackedAt + 500) s))

/-- RETRANSMIT_TIMEOUT (R278): the oldest PSN has gone RTO_US unanswered. -/
def execRetransmitTimeout (conn : Nat) (s : State) : Res :=
  .next (
    let x := getConn s conn
    let limit := if x.retryLimit = 0 then actBits s 0x400010 10 4 else x.retryLimit
    match oldestUnacked x with
    | none => s
    | some psn =>
      if (x.state ≠ .open_ ∧ x.state ≠ .closing) ∨ x.resendAt.isSome ∨ !serving s then s
      else
        let s1 := advanceTo (x.timerAt + rtoNs s x) s
        if limit ≤ x.retries then connError conn s1
        else resendFrom conn psn (modConn conn (fun x => { x with retries := x.retries + 1 }) s1))

/-- HOLD_REPEAT_TIMER (R279): every 10 µs while a packet is held. -/
def execHoldRepeatTimer (conn : Nat) (s : State) : Res :=
  .next (
    match (getConn s conn).held with
    | none => s
    | some h =>
      let s1 := advanceTo (h.lastHold + 10000) s
      sendAck conn 0x0A h.cargo.packet.tr.psn 0 0 (modConn conn (fun x => { x with held := some { h with lastHold := now s1 } }) s1))

/-- STALL_LIMIT_EXPIRY (R279, R280): a paged packet has waited STALL_LIMIT_US; the target answers NAK TIMEOUT. In stall mode
it posts an event. -/
def execStallLimitExpiry (conn : Nat) (s : State) : Res :=
  .next (
    let x := getConn s conn
    match x.held, x.retryAfter with
    | some h, _ =>
      let p := h.cargo.packet
      let (first, n) := match x.rest with
        | some o => if p.tr.first then (p.tr.psn, pktPsns p) else (o.first, o.psns)
        | none => (p.tr.psn, pktPsns p)
      let r := getRegion s h.region
      let s1 := reject conn first n nakTimeout (advanceTo (h.since + stallNs s) s)
      if 8 ≤ x.errRecs.length then s1
      else post { cls := 7, code := 3, part := some r.part, status := .timeout,
                  detail := .c conn x.peerNode.toNat nakTimeout p.tr.rkey (BitVec.ofNat 64 (h.page * 2 ^ r.pageLog2)) p.tr.total.toNat } s1
    | none, some (_, t, first, n) =>
      reject conn first n nakTimeout (advanceTo (t + stallNs s) s)
    | none, none => s)

/-- RESEND_DELAY_EXPIRY (R280): the sender re-sends from the named PSN; an operation whose TRY would pass 255 completes with
ST_TIMEOUT. -/
def execResendDelayExpiry (conn : Nat) (s : State) : Res :=
  .next (
    let x := getConn s conn
    match x.resendAt with
    | none => s
    | some (t, psn) =>
      let s1 := modConn conn (fun x => { x with resendAt := none }) (advanceTo t s)
      match x.ops.find? fun o => o.sentPkts != 0 && decide ((psn - o.psn).toNat < o.psns) with
      | some o => if 255 ≤ o.tries then pump conn (opDone conn o .timeout 0 s1) else pump conn (resendFrom conn psn s1)
      | none => pump conn s1)

end Sys2Proof.Machine
end

