-- ==== Sys2Proof/Machine/RmaOps.lean ====
section
/-! DEFINITION. RMA_POST, SIGNAL and WAIT (R267 to R274, R279, R284 to R289): admission, parameter blocks, and what ends
them. -/

namespace Sys2Proof.Machine

open Sys2Proof

/-! ## Fields (R273) -/

/-- CONN of an RMA_POST. -/
def rmaConnOf (c : Cmd) : Nat := fldBits c.desc 8 4 0 20
/-- MODE. -/
def rmaMode (c : Cmd) : Nat := fldBits c.desc 8 4 20 4
/-- LEN. -/
def rmaLen (c : Cmd) : Nat := fld c.desc 12 4
/-- LADDR. -/
def rmaLaddr (c : Cmd) : Nat := fld c.desc 16 8
/-- RADDR. -/
def rmaRaddr (c : Cmd) : BitVec 64 := BitVec.ofNat 64 (fld c.desc 24 8)
/-- RKEY. -/
def rmaRkey (c : Cmd) : BitVec 64 := BitVec.ofNat 64 (fld c.desc 32 8)

/-- Reserved bits of the descriptor are clear (R14). -/
def rmaClean (c : Cmd) : Bool := fldBits c.desc 8 4 25 7 == 0 && allZero (slice c.desc 48 16)

/-- The connection ID lies in the partition's range (R368). -/
def connInRange (s : State) (p c : Nat) : Bool :=
  decide (partW s p 4 % 2 ^ 20 ≤ c) && decide (c < partW s p 4 % 2 ^ 20 + partW s p 5)

/-- The command may use the half: its partition's, or on an owner ring one of the management domain (R267, R367). -/
def mayUseConn (s : State) (c : Cmd) (k : Nat) : Bool :=
  let x := getConn s k
  if x.state ≠ .free ∧ x.mgmt then ownerRing s c.ring
  else connInRange s c.part k && (x.state == .free || x.part == c.part)

/-- The recorded PSN of a re-executed operation (R289). -/
def recordedPsn (s : State) (c : Cmd) (k : Nat) : Option (BitVec 24) :=
  (s.rma.oot.find? fun e => e.key == cmdKey c.ring c.rseq && e.conn == k && !e.applied).map (·.psn)

/-- The kind of RMA_POST modes 0 to 2. -/
def rmaKind (mode : Nat) : OpKind := if mode = 0 then .read else if mode = 1 then .write else .add

/-- Put a command's operation on its half. A deck task's waits in its step for the release (R252). -/
def enqueueOp (c : Cmd) (k : Nat) (o : Op) (s : State) : State :=
  let o1 := { o with key := some (cmdKey c.ring c.rseq) }
  let o2 := match recordedPsn s c k with
    | some p => { o1 with psn := p, fixed := true }
    | none => o1
  if staging s c then modStep c.step.toNat (fun x => { x with ops := x.ops ++ [(k, o1)] }) s else postOp k o2 s

/-- READ, WRITE and ADD are admitted (R273, R274). Without room the command waits (R320). -/
def admitRmaOp (c : Cmd) (s : State) : State :=
  let mode := rmaMode c
  let kind := rmaKind mode
  let k := rmaConnOf c
  let n := rmaLen c
  let x := getConn s k
  let st := firstBad [
    failIf (!rmaClean c || decide (2 < mode)) .illegalValue,
    failIf (if mode = 2 then n != 8 else n == 0 || decide (4194304 < n)) .illegalValue,
    failIf (!mayUseConn s c k) .accessViolation,
    failIf (x.state != .open_) .wrongState,
    if mode = 2 then .ok else checkAddr s c (rmaLaddr c) n]
  if st ≠ .ok then endAtAdmission c st 0 s
  else if !rmaRoom s k kind n then setCmd { c with phase := .deferred .rmaRoom } s
  else
    let s1 := admitCmd c (.rma { conn := k, mode := mode }) s
    let o : Op := { kind := kind, psn := 0, psns := opPsns kind n, total := n, fence := fldBits c.desc 8 4 24 1 == 1
                    raddr := rmaRaddr c, rkey := rmaRkey c, data := if mode = 2 then slice c.desc 40 8 else [] }
    if mode ≠ 1 then enqueueOp c k o s1
    else
      let c1 := (getCmd s1 c.ring c.rseq).getD c
      match startRead c1 (rmaLaddr c) n s1 with
      | (.now b, s2) => enqueueOp c k { o with data := b } s2
      | (.wait, s2) => enqueueOp c k o s2
      | (.fail st, s2) => finish c1 st 0 s2

/-- A WRITE's bytes are here, or cannot be had. -/
def rmaWriteInput (c : Cmd) (r : Got) (s : State) : State :=
  let k := rmaConnOf c
  let mine (o : Op) : Bool := o.key == some (cmdKey c.ring c.rseq)
  match r with
  | .now b =>
    if staging s c then
      modStep c.step.toNat (fun x => { x with ops := x.ops.map fun (k, o) => (k, if mine o then { o with data := b } else o) }) s
    else pump k (modConn k (fun x => { x with ops := x.ops.map fun o => if mine o then { o with data := b } else o }) s)
  | .fail st =>
    let s1 := modStep c.step.toNat (fun x => { x with ops := x.ops.filter fun (_, o) => !mine o }) s
    pump k (finish c st 0 (modConn k (fun x => { x with ops := x.ops.filter fun o => !mine o }) s1))
  | .wait => s

/-! ## CONN_OPEN (R267, R371, R374) -/

/-- The first-hop port toward a node, whatever its links' state; none for this node. -/
def firstHop (s : State) (dst : Nat) : Option Nat :=
  match chooseHop s dst none false with
  | .here => none
  | .out p _ => some p
  | .drop p => some p

/-- The partition requires fabric encryption. -/
def fabEnc (s : State) (p : Nat) : Bool := bit (partW s p 0) 10

/-- The parameter block of CONN_OPEN as a half. -/
def connOfBlock (c : Cmd) (b : List Byte) : Conn :=
  let f := fld b 22 1
  { state := .open_, part := c.part, enc := bit f 0, pathL1 := bit f 1, mgmt := bit f 2, service := bit f 3
    peerNode := BitVec.ofNat 16 (fld b 4 2), peerConn := fld b 8 4, txPsn := BitVec.ofNat 24 (fld b 12 4)
    rxPsn := BitVec.ofNat 24 (fld b 16 4), ackPsn := BitVec.ofNat 24 (fld b 12 4), keySlot := fld b 20 2
    retryLimit := fld b 23 1, rtoUs := fld b 24 2 }

/-- The checks of a parameter block, in the order of R267. KEY_SLOT binds where ENC is set (log entry 27). -/
def connOpenStatus (s : State) (c : Cmd) (b : List Byte) : Status :=
  let x := connOfBlock c b
  let l := fld b 0 4
  let id := l % 2 ^ 20
  let own := ownerRing s c.ring
  let lo := if x.mgmt then 1024 else 16 * c.part
  let hop := firstHop s x.peerNode.toNat
  let hopLevel1 := match hop with
    | some p => (getPort s p).link == .up && (getPort s p).level == 1
    | none => false
  let hopDenied := match hop with
    | some p => !x.mgmt && !bit (partW s c.part 0) (24 + p)
    | none => false
  firstBad [
    failIf (if x.mgmt then !own else !connInRange s c.part id) .accessViolation,
    failIf (x.enc && !(decide (lo ≤ x.keySlot) && decide (x.keySlot < lo + 16))) .accessViolation,
    failIf hopDenied .accessViolation,
    failIf (decide (2 ^ 20 ≤ l) || decide (2 ^ 20 ≤ x.peerConn) || fld b 6 2 != 0 || decide (2 ^ 24 ≤ fld b 12 4)
      || decide (2 ^ 24 ≤ fld b 16 4) || decide (16 ≤ fld b 22 1) || decide (15 < x.retryLimit) || decide (1000 < x.rtoUs)
      || decide (4096 ≤ x.peerNode.toNat) || bits x.peerNode.toNat 9 3 == 7 || !allZero (slice b 26 38)) .illegalValue,
    failIf ((getConn s id).state != .free || actBits s 0x400000 0 1 == 0) .wrongState,
    failIf ((!x.mgmt && !x.enc && fabEnc s c.part) || (x.enc && x.pathL1) || (x.enc && hopLevel1) || (x.service && x.mgmt)
      || (x.service && tany s.rma.conns fun _ y => y.state != .free && y.service && y.part == c.part && y.peerNode == x.peerNode))
      .illegalCombination,
    failIf (x.enc && (tgetD s.sec.slots x.keySlot {}).kind != 1) .keyAbsent]

/-- CONN_OPEN's block is here (R267): on success the half is OPEN, with its context in the cache. -/
def connOpenInput (c : Cmd) (b : List Byte) (s : State) : State :=
  match connOpenStatus s c b with
  | .ok =>
    let id := fld b 0 4 % 2 ^ 20
    finish c .ok id (touchCtx id (setConn id (connOfBlock c b) s))
  | st => finish c st 0 s

/-! ## MR_REG and MR_DEREG (R271, R272) -/

/-- A region's local pieces under the current epoch, where every byte resolves to this node (R296). -/
def localPieces (s : State) (part g n : Nat) (write : Bool) : Option (List (Nat × Nat × Nat) × List Nat) :=
  match (resolveGfa s s.rmx.epoch part g n write).res with
  | .error _ => none
  | .ok ps =>
    if ps.all fun p => p.node.toNat == nodeId s then some (ps.map (fun p => (p.off, p.len, p.addr)), ps.map (·.idx)) else none

/-- MR_REG's block is here (R271). -/
def mrRegInput (c : Cmd) (b : List Byte) (s : State) : State :=
  let i := fld b 0 2
  let r := getRegion s i
  let access := fld b 2 1
  let paging := fld b 3 1
  let pl := fld b 5 1
  let base := fld b 8 8
  let n := fld b 16 8
  let pt := fld b 24 8
  let space := if fld b 4 1 = 0 ∨ isGfa base then 0 else 1
  let legal := decide (access < 8) && decide (paging < 3) && decide (fld b 4 1 < 2) && fld b 6 2 == 0
    && (paging == 0 || pl == 16 || pl == 21) && base % 64 == 0 && decide (base < 2 ^ 63) && decide (64 ≤ n) && decide (n ≤ 2 ^ 40)
    && allZero (slice b 32 32) && (space == 0 || decide (base + n ≤ 2 ^ 62))
  let g := base % 2 ^ 62
  let needWrite := bit access 1 || bit access 2
  let needRead := bit access 0 || bit access 2 || !needWrite
  let rd := if needRead then localPieces s c.part g n false else some ([], [])
  let wr := if needWrite then localPieces s c.part g n true else some ([], [])
  let ptBad := paging != 0 && !inPartMem s c.part pt (8 * cdiv n (2 ^ pl))
  if r.used then finish c .wrongState 0 s
  else if r.gen = 0xFFFFFFFF then finish c .busy 0 s
  else if !legal then finish c .illegalValue 0 s
  else if ptBad then finish c .accessViolation 0 s
  else
    let fresh : Region := { used := true, gen := r.gen + 1, part := c.part, access := access, paging := paging, space := space
                            pageLog2 := pl, base := base, len := n, ptBase := pt }
    let put (x : Region) : State :=
      finish c .ok (i + 2 ^ 32 * (r.gen + 1).toNat) { s with rma := { s.rma with regions := tset s.rma.regions i x } }
    if space = 1 then put fresh
    else match rd, wr with
      | some (ps, es), some (qs, fs) => put { fresh with pieces := if ps.isEmpty then qs else ps, ents := es ++ fs }
      | _, _ => finish c .accessViolation 0 s

/-- An access to region `i` is in process: a held packet, a read, or a WRITE whose later packets are still to come. -/
def regionBusy (s : State) (i : Nat) : Bool :=
  tany s.rma.conns fun _ x =>
    (match x.held with
      | some h => h.region == i
      | none => false)
    || (match x.reading with
      | some t => t.cargo.packet.tr.rkey.toNat % 65536 == i
      | none => false)
    || (match x.rest with
      | some o => o.rkey.toNat % 65536 == i
      | none => false)

/-- The checks of a local region key. -/
def localKeyStatus (s : State) (c : Cmd) : Status :=
  let k := (rmaRkey c).toNat
  let r := getRegion s (k % 65536)
  firstBad [
    failIf (bits k 16 16 != 0) .illegalValue,
    failIf (r.used && r.part != c.part) .accessViolation,
    failIf (!r.used || r.gen.toNat != k / 2 ^ 32) .keyStale]

/-- Admit a mode with a parameter block: LEN is 64, and the block is read. -/
def admitBlock (c : Cmd) (f : Cmd → List Byte → State → State) (s : State) : State :=
  let st := firstBad [failIf (!rmaClean c || rmaLen c != 64) .illegalValue, checkAddr s c (rmaLaddr c) 64]
  if st ≠ .ok then endAtAdmission c st 0 s
  else
    let s1 := admitCmd c (.rma { conn := rmaConnOf c, mode := rmaMode c }) s
    let c1 := (getCmd s1 c.ring c.rseq).getD c
    match startRead c1 (rmaLaddr c) 64 s1 with
    | (.now b, s2) => f c1 b s2
    | (.wait, s2) => s2
    | (.fail st, s2) => finish c1 st 0 s2

/-- CONN_CLOSE is admitted (R273): the half leaves OPEN and waits for its operations. One that runs again after a reset finds the half
CLOSING by itself, and waits on. -/
def admitConnClose (c : Cmd) (s : State) : State :=
  let k := rmaConnOf c
  let x := getConn s k
  let st := firstBad [
    failIf (!rmaClean c) .illegalValue,
    failIf (!mayUseConn s c k) .accessViolation,
    failIf (x.state == .free || (x.state == .closing && x.closer != some (cmdKey c.ring c.rseq))) .wrongState]
  if st ≠ .ok then endAtAdmission c st 0 s
  else
    let s1 := admitCmd c (.rma { conn := k, mode := 4 }) s
    connLeft k (modConn k (fun x => { x with state := .closing, closer := some (cmdKey c.ring c.rseq) }) s1)

/-- MR_DEREG is admitted (R272). -/
def admitMrDereg (c : Cmd) (s : State) : State :=
  let st := firstBad [failIf (!rmaClean c) .illegalValue, localKeyStatus s c]
  if st ≠ .ok then endAtAdmission c st 0 s else admitCmd c (.rma { conn := 0, mode := 6 }) s

/-- Apply a packet held for a page, then let the sender go on (R279 step 4). -/
def resumeHeld (k : Nat) (h : Held) (s : State) : State :=
  let p := h.cargo.packet
  let s1 :=
    if p.tr.top = 0x01 then
      match (getConn s k).rest with
      | some o => if p.tr.first then s else serveWrite h.port k h.cargo o s
      | none => serveWrite h.port k h.cargo { first := p.tr.psn, psns := pktPsns p, rkey := p.tr.rkey, off := p.tr.raddr.toNat, left := p.tr.total.toNat } s
    else serveRead h.port k h.cargo false s
  let x := getConn s1 k
  let again := match x.held with
    | some h' => h'.page != h.page || h'.lastHold == now s
    | none => false
  if (x.rxPsn ≠ (getConn s k).rxPsn) then
    sendAck k 0x09 (x.rxPsn - 1) nakSeq 0 (rmaCnt cSeqNaks 1 (modConn k (fun x => { x with held := none }) s1))
  else if x.reading.isSome then modConn k (fun x => { x with held := none }) s1
  else if again then s1 else s1

/-- PAGE_RESUME is admitted (R279): every packet held for the page is applied. -/
def admitPageResume (c : Cmd) (s : State) : State :=
  let st := firstBad [failIf (!rmaClean c) .illegalValue, localKeyStatus s c]
  if st ≠ .ok then endAtAdmission c st 0 s
  else
    let s1 := admitCmd c (.rma { conn := 0, mode := 7 }) s
    let c1 := (getCmd s1 c.ring c.rseq).getD c
    let i := (rmaRkey c).toNat % 65536
    let page := (rmaRaddr c).toNat / 2 ^ (getRegion s i).pageLog2
    let held := s.rma.conns.filterMap fun (k, x) => match x.held with
      | some h => if h.region = i ∧ h.page = page then some (k, h) else none
      | none => none
    finish c1 .ok 0 (forEach held (fun (k, h) s => resumeHeld k h s) s1)

/-! ## SIGNAL and WAIT (R284 to R288) -/

/-- SIGNAL's descriptor is in order (R284): CONN is zero without REMOTE. -/
def signalClean (c : Cmd) : Bool :=
  let w := fld c.desc 8 4
  let a := fld c.desc 16 8
  decide (w < 2 ^ 18) && decide (fld c.desc 12 4 < 2 ^ 20) && (bit w 16 || fld c.desc 12 4 == 0)
    && decide (1 ≤ a) && decide (a ≤ 2 ^ 32) && allZero (slice c.desc 24 40)

/-- REMOTE of a SIGNAL. -/
def signalRemote (c : Cmd) : Bool := fldBits c.desc 8 4 16 1 == 1

/-- A local SIGNAL is admitted (R284, R285); one recorded as applied adds nothing (R289). -/
def admitSignalLocal (c : Cmd) (s : State) : State :=
  let w := fld c.desc 8 4
  let i := w % 65536
  let amount := fld c.desc 16 8
  let key := cmdKey c.ring c.rseq
  if !signalClean c then endAtAdmission c .illegalValue 0 s
  else
    let s1 := admitCmd c .none s
    let c1 := (getCmd s1 c.ring c.rseq).getD c
    if s.rma.oot.any fun e => e.key == key && e.applied then finish c1 .ok 0 s1
    else
      match addStatus s c.part i amount (bit w 17) with
      | .ok =>
        let s2 := addCounter c.part i amount (bit w 17) 0 0 s1
        let e : OotEntry := { key := key, conn := 0, psn := 0, applied := true }
        finish c1 .ok 0 { s2 with rma := { s2.rma with oot := s2.rma.oot ++ [e] } }
      | st => finish c1 st 0 (addCounter c.part i amount (bit w 17) 0 0 s1)

/-- A remote SIGNAL is admitted (R284): it goes behind every earlier packet of its connection. -/
def admitSignalRemote (c : Cmd) (s : State) : State :=
  let w := fld c.desc 8 4
  let k := fld c.desc 12 4 % 2 ^ 20
  let st := firstBad [
    failIf (!signalClean c) .illegalValue,
    failIf (!mayUseConn s c k) .accessViolation,
    failIf ((getConn s k).state != .open_) .wrongState]
  if st ≠ .ok then endAtAdmission c st 0 s
  else if !rmaRoom s k .signal 0 then setCmd { c with phase := .deferred .rmaRoom } s
  else
    let s1 := admitCmd c (.rma { conn := k, mode := 8 }) s
    enqueueOp c k { kind := .signal, psn := 0, psns := 1, total := 0, counter := w % 65536, toAcked := bit w 17
                    data := slice c.desc 16 8 } s1

/-- WAIT is admitted (R286): at once satisfied, or listed; without a free entry it waits (R288). -/
def admitWait (c : Cmd) (s : State) : State :=
  let w := fld c.desc 8 4
  let us := fld c.desc 12 4
  let i := w % 65536
  let onAcked := bit w 16
  let target := fld c.desc 16 8
  let v := watched (getCnt s i) onAcked
  let st := firstBad [
    failIf (decide (2 ^ 17 ≤ w) || decide (1000000 < us) || !allZero (slice c.desc 24 40)) .illegalValue,
    failIf (!cntOwned s c.part i) .accessViolation]
  if st ≠ .ok then endAtAdmission c st 0 s
  else if v < target ∧ 4096 ≤ s.rma.waiters.length then setCmd { c with phase := .deferred .waitEntry } s
  else
    let s1 := admitCmd c (.wait i) s
    let c1 := (getCmd s1 c.ring c.rseq).getD c
    if target ≤ v then finish c1 .ok v s1
    else
      let t := 1000 * if us = 0 then actBits s 0x400018 0 20 else us
      let e : Waiter := { key := some (cmdKey c.ring c.rseq), counter := i, onAcked := onAcked, target := target, due := now s + t }
      { s1 with rma := { s1.rma with waiters := s1.rma.waiters ++ [e] } }

/-! ## Rows -/

/-- A row of one RMA_POST mode; reserved modes go with READ. -/
def rmaRow (ring : Nat) (rseq : BitVec 32) (mode : Nat) (f : Cmd → State → State) (s : State) : Res :=
  .next (admitting ring rseq (fun c => c.op == 0x30 && (rmaMode c == mode || (mode == 0 && decide (7 < rmaMode c)))) f s)

/-- RMA_READ (R273). -/
def execRmaRead (ring : Nat) (rseq : BitVec 32) (s : State) : Res := rmaRow ring rseq 0 admitRmaOp s

/-- RMA_WRITE (R273). -/
def execRmaWrite (ring : Nat) (rseq : BitVec 32) (s : State) : Res := rmaRow ring rseq 1 admitRmaOp s

/-- RMA_ADD (R273). -/
def execRmaAdd (ring : Nat) (rseq : BitVec 32) (s : State) : Res := rmaRow ring rseq 2 admitRmaOp s

/-- CONN_OPEN (R267). -/
def execConnOpen (ring : Nat) (rseq : BitVec 32) (s : State) : Res :=
  rmaRow ring rseq 3 (fun c s => admitBlock c connOpenInput s) s

/-- CONN_CLOSE (R273). -/
def execConnClose (ring : Nat) (rseq : BitVec 32) (s : State) : Res := rmaRow ring rseq 4 admitConnClose s

/-- MR_REG (R271). -/
def execMrReg (ring : Nat) (rseq : BitVec 32) (s : State) : Res :=
  rmaRow ring rseq 5 (fun c s => admitBlock c mrRegInput s) s

/-- MR_DEREG (R272). -/
def execMrDereg (ring : Nat) (rseq : BitVec 32) (s : State) : Res := rmaRow ring rseq 6 admitMrDereg s

/-- PAGE_RESUME (R279). -/
def execPageResume (ring : Nat) (rseq : BitVec 32) (s : State) : Res := rmaRow ring rseq 7 admitPageResume s

/-- SIGNAL_LOCAL (R284). -/
def execSignalLocal (ring : Nat) (rseq : BitVec 32) (s : State) : Res :=
  .next (admitting ring rseq (fun c => c.op == 0x31 && !signalRemote c) admitSignalLocal s)

/-- SIGNAL_REMOTE (R284). -/
def execSignalRemote (ring : Nat) (rseq : BitVec 32) (s : State) : Res :=
  .next (admitting ring rseq (fun c => c.op == 0x31 && signalRemote c) admitSignalRemote s)

/-- WAIT (R286). -/
def execWait (ring : Nat) (rseq : BitVec 32) (s : State) : Res :=
  .next (admitting ring rseq (fun c => c.op == 0x32) admitWait s)

/-- WAIT_TIMEOUT (R287): the WAIT completes with ST_TIMEOUT; what stands behind it follows when its completion is posted. -/
def execWaitTimeout (ring : Nat) (rseq : BitVec 32) (s : State) : Res :=
  .next (
    let key := cmdKey ring rseq
    match getCmd s ring rseq, s.rma.waiters.find? fun w => w.key == some key with
    | some c, some w =>
      if !serving s then s
      else
        let s1 := advanceTo w.due s
        finish { c with cause := waitExpired } .timeout 0
          (rmaCnt cWaitTimeouts 1 { s1 with rma := { s1.rma with waiters := s1.rma.waiters.erase w } })
    | _, _ => s)

/-- A half becomes FREE. -/
def freeConn (k : Nat) (s : State) : State :=
  { s with rma := { s.rma with conns := tdel s.rma.conns k, cache := s.rma.cache.erase k } }

/-- CONN_CLOSE_DONE (R273): the closing half has no operation left. -/
def execConnCloseDone (conn : Nat) (s : State) : Res :=
  .next (
    let x := getConn s conn
    if x.state ≠ .closing ∨ !x.ops.isEmpty ∨ !serving s then s
    else
      let s1 := freeConn conn s
      match x.closer.bind fun k => tget s1.cmds k with
      | some c => finish c .ok 0 s1
      | none => s1)

/-- MR_DEREG_DONE (R272): no access to the region is in process, so the entry is unused. -/
def execMrDeregDone (ring : Nat) (rseq : BitVec 32) (s : State) : Res :=
  .next (
    match runningCmd s ring rseq with
    | none => s
    | some c =>
      let i := (rmaRkey c).toNat % 65536
      if c.op ≠ 0x30 ∨ rmaMode c ≠ 6 ∨ regionBusy s i ∨ !serving s then s
      else if localKeyStatus s c != .ok then finish c (localKeyStatus s c) 0 s
      else
        let r := getRegion s i
        finish c .ok 0 { s with rma := { s.rma with regions := tset s.rma.regions i { gen := r.gen } } })

end Sys2Proof.Machine
end

