-- ==== Sys2Proof/Machine/Select.lean ====
section
/-! DEFINITION. SELECT_PAGES and automatic selection (R99 to R102, R129, R192). -/

namespace Sys2Proof.Machine

open Sys2Proof

/-! ## Fields (R99) -/

/-- Flag i of the SEQ word, counted from bit 20: QROT_DONE, QFP8, SAMEPOS. -/
def selectFlag (c : Cmd) (i : Nat) : Bool := bit (fld c.desc 8 4) (20 + i)

/-- Reserved bits and ranges of the descriptor. -/
def selectFieldsOk (c : Cmd) (m : Option Slot) : Bool :=
  decide (fld c.desc 8 4 < 2 ^ 23) && fld c.desc 20 4 == 0 && allZero (slice c.desc 32 32) && decide (attendRows c ≤ 16)
    && (match m with
      | none => true
      | some m => decide (queryBytes m (attendLayers c) (attendRows c) (selectFlag c 1) ≤ 16777216))

/-- The checks of a SELECT_PAGES: 1 to 6 of R82, with the rows of R99, then the range of its input. -/
def selectStatus (s : State) (c : Cmd) : Status :=
  let q := getSeq s (seqOf c)
  let m := slotOf s q.mslot
  firstBad [
    failIf (!seqInRange s c.part (seqOf c)) .accessViolation,
    failIf (!selectFieldsOk c (if q.state = .free then none else some m)) .illegalValue,
    stateCheck q,
    failIf q.freeAdm .wrongState,
    failIf (decide (m.layers < attendFirst c + attendLayers c)) .illegalValue,
    checkAddr s c (fld c.desc 24 8) (queryBytes m (attendLayers c) (attendRows c) (selectFlag c 1))]

/-! ## Scores (R100) -/

/-- The candidates of a stream at length `len`: sealed pages below the window with a valid summary and without damage. -/
def selectCandidates (q : Seq) (len : Nat) (x : Stream) : List (Nat × List Byte) :=
  x.pdes.filterMap fun (p, d) =>
    if d.sealed_ ∧ d.sumv ∧ !d.dmg ∧ p < windowPage q len then some (p, tgetD x.sums p []) else none

/-- The new set of a stream (R100). -/
def selectSet (m : Slot) (q : Seq) (len : Nat) (qs : List (F32 × List Int)) (x : Stream) : List Nat :=
  bestPages q.retrMax ((selectCandidates q len x).map fun (p, b) => (pageScore m.d qs b, p))

/-- The scan of a stream runs in crucible units: crucible work and scans are enabled, the stream's directory chunk lies in a
crucible region, and it has at most 16,384 candidates (R129, R160). -/
def scanInBank (s : State) (q : Seq) (len : Nat) (st : Nat) (x : Stream) : Bool :=
  actBits s 0x602000 0 2 == 3 && q.cru && Config.allocFits (q.slotUse + 2 ^ 20 + st) q.part 2
    && decide ((selectCandidates q len x).length ≤ 16384)

/-- The work of a scan: crucible operations and walker hops (R144, R192). -/
def scanWork (s : State) (m : Slot) (q : Seq) (len vecs st : Nat) : Nat × Nat :=
  let x := q.streams.getD st {}
  let n := (selectCandidates q len x).length
  if scanInBank s q len st x then (4 * m.d * vecs * n, 0) else (0, n)

/-! ## SELECT_PAGES (R99, R101) -/

/-- The parameters of a SELECT_PAGES as those of its queries. -/
def selectSpec (m : Slot) (c : Cmd) : AttendSpec :=
  { m := m, seq := 0, rows := attendRows c, qpos0 := attendPos c
    flags := 32 * b2n (selectFlag c 0) + 2048 * b2n (selectFlag c 1) + 16 * b2n (selectFlag c 2)
    scale := fOne, hooks := [], masks := [], pins := [], cut := 0 }

/-- A selection's set is known. -/
def settleSelection (ring : Nat) (rseq : BitVec 32) (auto : Bool) (set : List Nat) (x : Stream) : Stream :=
  { x with selQ := x.selQ.map fun e => if e.ring = ring ∧ e.rseq = rseq ∧ e.auto = auto then { e with set := set, ready := true } else e }

/-- The command's selections go. -/
def dropSelections (c : Cmd) (s : State) : State :=
  modSeq (seqOf c) (fun q => { q with streams := q.streams.map fun x =>
    { x with selQ := x.selQ.filter fun e => !(!e.auto && e.ring == c.ring && e.rseq == c.rseq) } }) s

/-- The queries of a SELECT_PAGES are here: the scans run, and each stream's set waits to flip. -/
def selectInput (c : Cmd) (g : Got) (s : State) : State :=
  match c.work with
  | .select r =>
    let n := seqOf c
    let q := getSeq s n
    let m := slotOf s q.mslot
    let k := selectSpec m c
    let vecs := k.rows * m.group
    (match g with
    | .wait => s
    | .fail st => finish c st 0 (dropSelections c s)
    | .now b =>
      if r.started then s
      else
        let work := r.left.map fun st => scanWork s m q r.len vecs st
        let hops := sumN (work.map (·.2))
        if hops ≠ 0 ∧ offline s 5 then faultStep c 16 5 (dropSelections c s)
        else
          let xs := q.streams.zipIdx.map fun (x, st) =>
            if r.left.contains st then
              settleSelection c.ring c.rseq false (selectSet m q r.len (selectQueries k b (st - attendFirst c * m.kvh)) x) x
            else x
          let s1 := cntAdd walkHops hops (setSeq n { q with streams := xs } s)
          let s2 := meter c c.part resHops hops (meter c c.part resCruOps (sumN (work.map (·.1))) s1)
          setCmd { c with work := .select { r with started := true } } s2)
  | _ => s

/-- SELECT_PAGES is admitted: a reader, with a place in the order of each stream (R101). -/
def admitSelect (c : Cmd) (s : State) : State :=
  let n := seqOf c
  let q := getSeq s n
  match selectStatus s c with
  | .ok =>
    if q.retrMax = 0 then endAtAdmission c .ok 0 s
    else
      let m := slotOf s q.mslot
      let sts := coveredStreams m c
      let s1 := addReader n (cmdKey c.ring c.rseq) q.len (admitCmd c (.select { len := q.len, left := sts }) s)
      let c1 := (getCmd s1 c.ring c.rseq).getD c
      let e : SelPending := { ring := c.ring, rseq := c.rseq, auto := false, len := q.len }
      let queue (q : Seq) : Seq :=
        { q with streams := q.streams.zipIdx.map fun (x, st) => if sts.contains st then { x with selQ := x.selQ ++ [e] } else x }
      match startRead c1 (fld c.desc 24 8) (queryBytes m (attendLayers c) (attendRows c) (selectFlag c 1)) (modSeq n queue s1) with
      | (.wait, s2) => s2
      | (g, s2) => selectInput c1 g s2
  | st => endAtAdmission c st 0 s

/-- SELECT_PAGES (R99). -/
def execSelectPages (ring : Nat) (rseq : BitVec 32) (s : State) : Res :=
  .next (admitting ring rseq (fun c => c.op == 0x11) admitSelect s)

/-! ## Automatic selection (R102) -/

/-- AUTO_SELECTION (R102): the triggering ATTEND has read the current set from its snapshot; the node scores the stream. Its counts
go to the sequence's partition. -/
def execAutoSelection (seq : Nat) (stream : Nat) (s : State) : Res :=
  .next (
    let q := getSeq s seq
    let x := q.streams.getD stream {}
    match x.auto with
    | none => s
    | some a =>
      let m := slotOf s q.mslot
      let (ops, hops) := scanWork s m q a.len a.queries.length stream
      if !a.ready ∨ !serving s ∨ (hops ≠ 0 ∧ offline s 5) then s
      else
        let x1 := { settleSelection a.ring a.rseq true (selectSet m q a.len a.queries x) x with auto := none }
        let s1 := setSeq seq { q with streams := q.streams.set stream x1 } s
        tapAdd q.part resHops hops (tapAdd q.part resCruOps ops (cntAdd walkHops hops s1)))

/-! ## The flip (R101) -/

/-- The readers of a retrieved set: SELECT_PAGES reads none (R101; log entry 34). -/
def setReaders (s : State) (q : Seq) : List Nat :=
  ((liveReaders s q).filter fun r => match tget s.cmds r.key with
    | some c => c.op != 0x11
    | none => false).map (·.key)

/-- The record with a new set in the copy that was not selected, and that copy selected. -/
def flipSet (len : Nat) (set : List Nat) (r : RetrSet) : RetrSet :=
  if r.sel = 0 then { r with sel := 1, copy1 := set, selLen := BitVec.ofNat 32 len }
  else { r with sel := 0, copy0 := set, selLen := BitVec.ofNat 32 len }

/-- A stream of a SELECT_PAGES is done; after the last the command ends with their number (R101). -/
def selectStreamDone (e : SelPending) (st : Nat) (s : State) : State :=
  if e.auto then s
  else match runningCmd s e.ring e.rseq with
    | none => s
    | some c => match c.work with
      | .select r =>
        let r1 := { r with left := r.left.erase st, done := r.done + 1 }
        if r1.left.isEmpty then finish c .ok r1.done s else setCmd { c with work := .select r1 } s
      | _ => s

/-- SELECT_FLIP (R101): the first selection of the stream's order flips once no reader from before the stream's previous flip
is left. -/
def execSelectFlip (seq : Nat) (stream : Nat) (s : State) : Res :=
  .next (
    let q := getSeq s seq
    let x := q.streams.getD stream {}
    match x.selQ with
    | [] => s
    | e :: rest =>
      if !e.ready ∨ x.flipReaders.any (isRunning s) ∨ !serving s then s
      else
        let x1 : Stream := { x with retr := flipSet e.len e.set x.retr, selQ := rest, flipReaders := setReaders s q }
        let q1 : Seq := { q with streams := q.streams.set stream x1, selNew := some (BitVec.ofNat 32 e.len) }
        selectStreamDone e stream (setSeq seq q1 s))

end Sys2Proof.Machine
end

