-- ==== Sys2Proof/Machine/Deck.lean ====
section
/-! DEFINITION. The deck (R232 to R261): loading and swapping, the cards, failures and notices, rewinds and halts, the release of
steps, loan mode, and the power manager's margin. -/

namespace Sys2Proof.Machine

open Sys2Proof

/-! ## What the registers show (R260) -/

/-- Counter `i` of R260. -/
def deckCnt (i n : Nat) (s : State) : State := cntAdd (0x200100 + 8 * i) n s

/-- The deck's record is replaced. -/
def setDeck (d : Deck) (s : State) : State := { s with deck := d }

/-- DECK_STS, the bank IDs and D show the deck. -/
def showDeck (s : State) : State :=
  let d := s.deck
  let id (x : Option DeckImage) : BitVec 32 := BitVec.ofNat 32 ((x.map (·.id)).getD 0)
  let cyc := (d.active.map (·.cycle)).getD 1
  let sts := d.state + 4 * b2n d.pend.isSome + 8 * b2n d.swap.isSome + 16 * b2n ((d.active.map (·.loan)).getD false)
    + 32 * valBits s 0x200004 5 1 + 256 * (if d.state = 0 then 0 else d.cur % cyc)
  setVal64 0x200018 d.disp (setVal 0x20000C (id d.pend) (setVal 0x200008 (id d.active) (setVal 0x200004 (BitVec.ofNat 32 sts) s)))

/-- Change the deck and show it. -/
def modDeck (f : Deck → Deck) (s : State) : State := showDeck (setDeck (f s.deck) s)

/-! ## DECK_LOAD (R240 to R242) -/

/-- FAB_SROUTE holds writes that are not committed (check 11). -/
def sroutePending (s : State) : Bool :=
  tany s.regs.pend fun o v => decide (0x308000 ≤ o) && decide (o < 0x30C000) && v != actW s o

/-- The image is here, or cannot be read: it is checked, and the pending bank is valid or not (R241). -/
def deckInput (c : Cmd) (g : Got) (s : State) : State :=
  match g with
  | .wait => s
  | .fail st => finish c st 0 (modDeck (fun d => { d with pend := none }) s)
  | .now b =>
    let fail := (imageFail b).or (if fld b 32 2 ≠ 0 ∧ sroutePending s then some (11, 0) else none)
    match fail with
    | some (n, i) => finish c (Status.ofCode (checkFail n)) (i + 2 ^ 32 * n) (modDeck (fun d => { d with pend := none }) s)
    | none => finish c .ok (fld b 4 4) (modDeck (fun d => { d with pend := some (readImage b) }) s)

/-- DECK_LOAD is admitted. -/
def admitDeckLoad (c : Cmd) (s : State) : State :=
  let n := fld c.desc 12 4
  let a := fld c.desc 16 8
  let st := firstBad [
    failIf (fld c.desc 8 4 != 0 || !allZero (slice c.desc 24 40) || decide (n < 128) || decide (8388608 < n)) .illegalValue,
    failIf s.deck.swap.isSome .busy,
    checkAddr s c a n]
  if st ≠ .ok then endAtAdmission c st 0 s
  else
    let s1 := admitCmd c .block s
    let c1 := (getCmd s1 c.ring c.rseq).getD c
    match startRead c1 a n s1 with
    | (.wait, s2) => s2
    | (g, s2) => deckInput c1 g s2

/-- DECK_LOAD (R241). -/
def execDeckLoad (ring : Nat) (rseq : BitVec 32) (s : State) : Res :=
  .next (admitting ring rseq (fun c => c.op == 0x40) admitDeckLoad s)

/-! ## DECK_SWAP (R243 to R245) -/

/-- STOP of a DECK_SWAP. -/
def swapStop (c : Cmd) : Bool := bit (fld c.desc 8 4) 0
/-- RESTART of a DECK_SWAP. -/
def swapRestart (c : Cmd) : Bool := bit (fld c.desc 8 4) 1

/-- The deck that the swap starts. -/
def swapImage (s : State) (c : Cmd) : Option DeckImage :=
  if swapRestart c then (if s.deck.state = 2 then s.deck.active else none) else s.deck.pend

/-- A START that the swap cannot take (R244.4). -/
def badStart (s : State) (c : Cmd) (img : DeckImage) : Bool :=
  let start := fld c.desc 16 8
  let aligned := swapStop c || start % img.roundNs == 0
  !aligned || (match s.deck.active with
    | some d =>
      if s.deck.state = 1 then
        start % d.roundNs != 0 || (s.deck.cur + start / d.roundNs - s.deck.round) % d.cycle != 0
          || decide (start < now s + 2 * d.roundNs)
      else decide (start < now s + 8000)
    | none => decide (start < now s + 8000))

/-- The checks of R244. A second swap waits for the first to take effect. -/
def swapStatus (s : State) (c : Cmd) : Status :=
  let cring := fld c.desc 12 2
  let sts := (valW s 0x300014).toNat
  let first := failIf ((swapStop c && swapRestart c) || decide (4 ≤ fld c.desc 8 4) || fld c.desc 14 2 != 0
    || !allZero (slice c.desc 36 28) || !ownerRing s cring || decide (4096 ≤ cring)) .illegalValue
  match swapImage s c with
  | none => firstBad [first, .wrongState]
  | some d => firstBad [first, failIf (d.id != fld c.desc 32 4) .wrongState,
      failIf (decide (1 < d.nodes) && !(bit sts 0 || timeRole s == 1)) .wrongState,
      failIf (badStart s c d) .illegalValue,
      failIf s.deck.swap.isSome .busy]

/-- DECK_SWAP is admitted: it waits for START. -/
def admitSwap (c : Cmd) (s : State) : State :=
  match swapStatus s c with
  | .ok =>
    if offline s 8 then faultAtAdmission c 16 8 s else
    let q : SwapReq :=
      { key := cmdKey c.ring c.rseq, stop := swapStop c, restart := swapRestart c, cring := fld c.desc 12 2
        start := fld c.desc 16 8, stepBase := fld c.desc 24 8 }
    modDeck (fun d => { d with swap := some q }) (admitCmd c .none s)
  | st => endAtAdmission c st 0 s

/-- DECK_SWAP (R243). -/
def execDeckSwap (ring : Nat) (rseq : BitVec 32) (s : State) : Res :=
  .next (admitting ring rseq (fun c => c.op == 0x41 && swapStop c == swapRestart c) admitSwap s)

/-- DECK_SWAP_STOP (R245). -/
def execDeckSwapStop (ring : Nat) (rseq : BitVec 32) (s : State) : Res :=
  .next (admitting ring rseq (fun c => c.op == 0x41 && swapStop c && !swapRestart c) admitSwap s)

/-- DECK_SWAP_RESTART (R245). -/
def execDeckSwapRestart (ring : Nat) (rseq : BitVec 32) (s : State) : Res :=
  .next (admitting ring rseq (fun c => c.op == 0x41 && swapRestart c && !swapStop c) admitSwap s)

/-! ## Cards and steps (R233, R236, R253) -/

/-- The running deck. -/
def runningDeck (s : State) : Option DeckImage := if s.deck.state = 1 ∧ serving s then s.deck.active else none

/-- Step number of a card in cycle `k`. -/
def stepNumber (s : State) (d : DeckImage) (k idx : Nat) : Nat := (s.deck.stepBase + k * d.steps + idx) % 2 ^ 64

/-- The cycle under way. -/
def curCycle (s : State) (d : DeckImage) : Nat := s.deck.cur / d.cycle

/-- Key of a card in a cycle, for waits. -/
def waitKey (card cyc : Nat) : Nat := card + 2 ^ 17 * cyc

/-- A WAIT card of the step is waiting: its later cards are suspended (R256). -/
def suspended (s : State) (d : DeckImage) (cyc idx : Nat) : Bool :=
  s.deck.waits.any fun (k, _) => k / 2 ^ 17 == cyc && ((d.cards[k % 2 ^ 17]?).map (·.step)) == some idx

/-- The card runs at this position: its step is not passed over, and under a metering halt it has started (R253). -/
def cardDue (s : State) (d : DeckImage) (c : Card) : Bool :=
  let n := stepNumber s d (curCycle s d) c.step
  c.pos == s.deck.cur % d.cycle && !s.deck.skip.contains n && (!s.deck.metering || (openStep s n).isSome)

/-- The cards of this position by number. -/
def dueCards (s : State) (d : DeckImage) : List (Card × Nat) := d.cards.zipIdx.filter fun (c, _) => cardDue s d c

/-- A card whose span must end before the round does: EXEC, SEND, RECV, and a CHECK that found its counter short. -/
def spanMatters (s : State) (c : Card) (i : Nat) : Bool := c.kind == 1 || c.kind == 3 || c.kind == 4 || s.deck.short.contains i

/-- The round's cards are issued, and their spans have ended; in loan mode a span is no deadline (R256). -/
def roundDone (s : State) (d : DeckImage) : Bool :=
  (dueCards s d).all fun (c, i) =>
    if s.deck.issued.contains i then d.loan || s.deck.ended.contains i || !spanMatters s c i
    else d.loan && suspended s d (curCycle s d) c.step

/-- Notices of this deck that were raised in a round. -/
def noticesOf (s : State) (round : Nat) : List Notice := s.deck.notices.filter fun n => n.raised.toNat == round

/-- The notices that the end of this round takes. -/
def dueNotices (s : State) : List Notice :=
  if s.deck.round = 0 ∨ s.deck.blindRound = some (s.deck.round - 1) then [] else noticesOf s (s.deck.round - 1)

/-- Node time at which this round ends. -/
def roundEnd (s : State) (d : DeckImage) : Nat := (s.deck.round + 1) * d.roundNs

/-! ## Notices (R251) -/

/-- Put a packet of this node on a port. -/
def sendOnPort (port : Nat) (c : Cargo) (s : State) : State :=
  let h := c.packet.fab
  let q : QPkt := { cls := h.cls.toNat, buf := bufOf h.cls.toNat false, src := 6, left := h.flits, cargo := c }
  modPort port (fun x => { x with queue := x.queue ++ [q] }) s

/-- The 32 bytes of a notice. -/
def noticeBytes (n : Notice) : List Byte :=
  leBytes 1 n.ntype.toNat ++ leBytes 1 n.cause.toNat ++ leBytes 2 n.src.toNat ++ leBytes 4 n.deckId.toNat
    ++ leBytes 8 n.raised.toNat ++ leBytes 8 n.step.toNat ++ leBytes 2 n.pos.toNat ++ zeros 6

/-- Send a notice to the partners of the given ports. -/
def floodNotice (n : Notice) (ports : List Nat) (s : State) : State :=
  forEach ports (fun p s =>
    sendOnPort p (.notice (plainPacket s 0x20 2 (getPort s p).partner.toNat (noticeBytes n)) n) s) s

/-- What makes two copies of a notice one. -/
def noticeKey (n : Notice) : Nat × Nat × Nat × Nat := (n.src.toNat, n.deckId.toNat, n.raised.toNat, n.step.toNat)

/-- The causes that send HALT. -/
def haltCause (cause : Nat) : Bool := decide (5 ≤ cause)

/-- Raise a notice for a round and position: it is recorded here and goes to every neighbour whose port is UP. -/
def raiseFor (cause step round pos : Nat) (s : State) : State :=
  let n : Notice :=
    { ntype := if haltCause cause then 2 else 1, cause := BitVec.ofNat 8 cause, src := BitVec.ofNat 16 (nodeId s)
      deckId := BitVec.ofNat 32 ((s.deck.active.map (·.id)).getD 0), raised := BitVec.ofNat 64 round
      step := BitVec.ofNat 64 step, pos := BitVec.ofNat 16 pos }
  if s.deck.seen.contains (noticeKey n) then s
  else floodNotice n ((List.range 6).filter fun p => (getPort s p).link == .up)
    (setDeck { s.deck with notices := s.deck.notices ++ [n], seen := s.deck.seen ++ [noticeKey n] } s)

/-- Raise a notice for the current round. -/
def raiseNotice (cause step : Nat) (s : State) : State :=
  match s.deck.active with
  | some d => raiseFor cause step s.deck.round (s.deck.cur % d.cycle) s
  | none => s

/-- A cause that strikes the whole node, TIME_LOST or METERING: a running deck halts (R250, R255, R410). -/
def deckCause (cause : Nat) (s : State) : State :=
  if s.deck.state = 1 ∧ !s.deck.metering ∧ !(s.deck.notices.any fun n => n.cause.toNat == cause && n.src.toNat == nodeId s) then
    let n : Option Nat := s.deck.active.bind fun d =>
      ((dueCards s d).find? fun p => s.deck.issued.contains p.2 && !s.deck.ended.contains p.2).map fun p =>
        stepNumber s d (curCycle s d) p.1.step
    raiseNotice cause (n.getD 0) s
  else s

/-- RX_NOTICE (R251): the first copy goes on to the other torus ports, and counts where the deck is the active one. -/
def execRxNotice (port : Nat) (n : Notice) (s : State) : Res :=
  .next (
    if !serving s then s
    else
      let mine (c : Cargo) : Bool := match c with
        | .notice _ m => m == n
        | _ => false
      let s1 := match ((getPort s port).inbox.map (·.cargo)).find? mine with
        | some c => takeInbox port c s
        | none => s
      if s1.deck.seen.contains (noticeKey n) then s1
      else
        let s2 := floodNotice n ((List.range 6).filter fun p => p != port && torusUp s1 p)
          (setDeck { s1.deck with seen := s1.deck.seen ++ [noticeKey n] } s1)
        let ours := s2.deck.state = 1 ∧ (s2.deck.active.map (·.id)) = some n.deckId.toNat ∧ (n.ntype = 1 ∨ n.ntype = 2)
        if ours then setDeck { s2.deck with notices := s2.deck.notices ++ [n] } s2 else s2)

/-! ## Completions of steps (R252, R254) -/

/-- A step's completion joins CRING behind what the ring has accepted: it takes the ring's next sequence, and no opcode. -/
def completeStep (cring number : Nat) (st : Status) (s : State) : State :=
  let r := getRing s cring
  let c : Cmd :=
    { ring := cring, rseq := r.accepted, desc := zeros 64, acceptT := now s, phase := .finished, status := st
      result := BitVec.ofNat 64 number, step := BitVec.ofNat 64 number, metered := false }
  setCmd c (setRing cring { r with accepted := r.accepted + 1 } s)

/-- A task goes without a trace: its command and the outputs that its step holds for it. -/
def dropTask (key : Nat) (s : State) : State :=
  match tget s.cmds key with
  | none => s
  | some c =>
    let s1 := dropAutos c { s with cmds := tdel s.cmds key, rma := { s.rma with waiters := s.rma.waiters.filter fun w => w.key != some key } }
    modStep c.step.toNat (fun x =>
      { x with ops := x.ops.filter fun (_, o) => o.key != some key, tasks := x.tasks.filter fun (_, k) => k != key })
      { s1 with seqs := tmap s1.seqs fun _ q => { q with streams := q.streams.map fun y =>
          { y with selQ := y.selQ.filter fun e => !(!e.auto && e.ring == c.ring && e.rseq == c.rseq) } } }

/-- A step's record as at its start: what it staged and what its tasks hold is gone (R253). -/
def resetStep (x : StepRun) (s : State) : State :=
  modStep x.number (fun y => { y with tasks := [], outs := [], ops := [], posts := [], counts := [], lastRound := none, complete := false })
    (forEach (x.tasks.map (·.2)) dropTask s)

/-- A step leaves the deck: its tasks go, but for those whose remote operation is still to be answered (R252). -/
def closeStep (x : StepRun) (s : State) : State :=
  let busy (k : Nat) : Bool := s.rma.conns.any fun (_, c) => c.ops.any fun o => o.key == some k
  { s with cmds := s.cmds.filter fun (k, _) => !((x.tasks.map (·.2)).contains k) || busy k || x.ops.any fun (_, o) => o.key == some k
           deck := { s.deck with steps := s.deck.steps.filter fun y => y.number != x.number } }

/-- A task is complete: its command has finished, or what it sends is staged (R252). -/
def taskDone (s : State) (x : StepRun) (key : Nat) : Bool :=
  (match tget s.cmds key with
    | some c => c.phase == .finished
    | none => true)
    || x.ops.any fun (_, o) => o.key == some key && opReady o

/-- The status of a step: of its first task, in card order, that ended with one other than ST_OK (R252). -/
def stepStatus (s : State) (x : StepRun) : Status :=
  firstBad (x.tasks.map fun (_, k) => match tget s.cmds k with
    | some c => if c.phase = .finished then c.status else .ok
    | none => .ok)

/-- The calls that let the producers of a command drop their records (R360). -/
def releaseCalls (c : Cmd) : List (Nat × CallMsg) :=
  let phase1 (x : Sub) : Bool := match x.call with
    | .attendSub .. => true
    | .searchSub .. => true
    | _ => false
  (((c.subs.filter phase1).map (·.conn)).eraseDups).map fun k => (k, .releaseStep c.step)

/-- A step is released: outputs, additions, counts and completion (R252). -/
def releaseStep (x : StepRun) (s : State) : State :=
  let st := stepStatus s x
  let rel : List (Nat × CallMsg) := x.tasks.flatMap fun (_, k) => match tget s.cmds k with
    | some c => releaseCalls c
    | none => []
  let s0 := closeStep x s
  let s1 := forEach x.ops (fun (k, o) s => postOp k o s) (emitAll x.outs s0)
  let s2 := forEach x.posts (fun (i, n) s => addCounter (bits (cntCfg s i) 0 6) i n false 0 0 s) s1
  let s3 := forEach x.counts (fun (k, n) s => tapAdd (k / 12) (k % 12) n s) s2
  let s4 := completeStep x.cring x.number st s3
  let s5 : State := { s4 with deck := { s4.deck with released := s4.deck.released ++ [x.number] } }
  setVal64 0x200020 x.number (forEach rel (fun (k, m) s => sendCall k m s) s5)

/-- The steps whose release is due, in step order: their LAST card ran in an earlier round that raised no notice, or in loan mode
their RELEASE card has completed and their tasks too (R252, R256). -/
def dueSteps (s : State) : List StepRun :=
  let due (x : StepRun) : Bool :=
    if x.loan then x.complete && x.tasks.all fun p => taskDone s x p.2
    else match x.lastRound with
      | some r => decide (r < s.deck.round) && (noticesOf s r).isEmpty
      | none => false
  (s.deck.steps.filter due).mergeSort fun a b => decide (a.number ≤ b.number)

/-- The steps of the cycle that have not completed, in step order, with those of earlier cycles that are still open. -/
def unreleased (s : State) (d : DeckImage) : List Nat :=
  let mine := (List.range d.steps).map (stepNumber s d (curCycle s d))
  let old := (s.deck.steps.map (·.number)).filter fun n => !mine.contains n
  old ++ mine.filter fun n => !s.deck.released.contains n

/-- Every step that is left completes with `st`, and the deck is halted (R253). -/
def haltDeck (d : DeckImage) (st : Status) (s : State) : State :=
  let left := unreleased s d
  let s1 := forEach s.deck.steps resetStep s
  let s2 : State := { s1 with rma := { s1.rma with waiters := s1.rma.waiters.filter fun w => w.card.isNone } }
  modDeck (fun e => { e with state := 2, metering := false, steps := [], issued := [], ended := [], short := [], struck := [], carried := []
                             received := [], late := [], waits := [], loaned := [], rewindTo := none, skip := [], released := [] })
    (forEach left (fun n s => completeStep s.deck.cring n st s) s2)

/-- Under a metering halt the deck is halted once every step that started is released; the others complete with
ST_METERING_HALT (R253). -/
def endMetering (s : State) : State :=
  match s.deck.active with
  | some d => if s.deck.metering ∧ s.deck.state = 1 ∧ s.deck.steps.isEmpty then haltDeck d .meteringHalt s else s
  | none => s

/-- STEP_RELEASE (R252): the first step whose release is due, at the end of the round. -/
def execStepRelease (step : Nat) (s : State) : Res :=
  .next (
    match runningDeck s, (dueSteps s).head? with
    | some d, some x =>
      if x.number ≠ step ∨ !(roundDone s d || x.loan) then s
      else endMetering (releaseStep x (if x.loan then s else advanceTo (roundEnd s d) s))
    | _, _ => s)

/-! ## Issuing cards (R234, R238) -/

/-- The cards before this one in the round are issued, or suspended. -/
def inOrder (s : State) (d : DeckImage) (c : Card) : Bool :=
  (dueCards s d).all fun (e, j) => decide (c.slot ≤ e.slot) || s.deck.issued.contains j || suspended s d (curCycle s d) e.step

/-- The card may be issued now in its own slot; the cycle that it belongs to. A suspended card of an earlier round comes when its
wait has ended. -/
def issuable (s : State) (d : DeckImage) (i kind : Nat) : Option (Card × Nat) :=
  match d.cards[i]? with
  | none => none
  | some c =>
    if c.kind ≠ kind then none
    else match s.deck.carried.find? fun x => x.1 == i with
      | some (_, cyc) => if suspended s d cyc c.step then none else some (c, cyc)
      | none =>
        let cyc := curCycle s d
        if cardDue s d c ∧ !s.deck.issued.contains i ∧ !suspended s d cyc c.step ∧ inOrder s d c then some (c, cyc) else none

/-- A card is issued: it is counted, and its step has a record. The time is its slot's, but for one that comes late. -/
def issueCard (d : DeckImage) (i : Nat) (c : Card) (cyc : Nat) (s : State) : State :=
  let late := s.deck.carried.any fun x => x.1 == i
  let s1 := if late then s else advanceTo (d.slotAt s.deck.round c.slot) s
  let n := stepNumber s1 d cyc c.step
  let e := s1.deck
  let e1 : Deck :=
    if late then { e with carried := e.carried.filter fun x => x.1 != i } else { e with issued := e.issued ++ [i] }
  let e2 : Deck := if e1.bankBad then { e1 with struck := e1.struck ++ [i] } else e1
  let run : StepRun :=
    { idx := c.step, cycle := cyc, number := n, cring := e.cring, loan := d.loan, firstT := now s1 }
  let e3 : Deck := if (openStep s1 n).isSome then e2 else { e2 with steps := e2.steps ++ [run] }
  let s2 := deckCnt 0 1 (setDeck e3 s1)
  if c.last then modStep n (fun x => { x with lastRound := some s1.deck.round }) s2 else s2

/-- A card's row: issue it, then act with its step number. -/
def cardRow (i kind : Nat) (f : DeckImage → Card → Nat → Nat → State → State) (s : State) : Res :=
  .next (
    match runningDeck s with
    | none => s
    | some d => match issuable s d i kind with
      | none => s
      | some (c, cyc) => f d c cyc (stepNumber s d cyc c.step) (issueCard d i c cyc s))

/-- A task's descriptor in cycle `k` (R239). -/
def taskDesc (t : Task) (k : Nat) : List Byte :=
  (List.range 8).flatMap fun j =>
    let v := fld t.desc (8 * j) 8
    leBytes 8 (if bit t.amask j then (v + k % t.rot * t.stride) % 2 ^ 64 else v)

/-- A command is admitted by its own chapter's rules. -/
def admitByOp (c : Cmd) (s : State) : State :=
  match c.op with
  | 0x10 => admitAttend c s
  | 0x11 => admitSelect c s
  | 0x18 => admitLadle c s
  | 0x20 => admitSearch c s
  | 0x21 => admitInsert c s
  | 0x22 => admitDelete c s
  | 0x31 => if signalRemote c then admitSignalRemote c s else admitSignalLocal c s
  | _ =>
    match rmaMode c with
    | 3 => admitBlock c connOpenInput s
    | 4 => admitConnClose c s
    | 5 => admitBlock c mrRegInput s
    | 6 => admitMrDereg c s
    | 7 => admitPageResume c s
    | _ => admitRmaOp c s

/-- CARD_EXEC (R238, R239): the task is admitted, by the command's own checks. The ring sequence of its header is ignored. -/
def execCardExec (card : Nat) (s : State) : Res :=
  cardRow card 1 (fun d c cyc n s =>
    match d.tasks[c.arg0]? with
    | none => s
    | some t =>
      let b := taskDesc t cyc
      let x : Cmd := { ring := deckRing, rseq := s.deck.nextCmd, desc := b, acceptT := now s, step := BitVec.ofNat 64 n }
      let st := firstBad [failIf (fld b 0 1 != 2) .version, failIf (fld b 2 2 &&& 0xFEC0 != 0) .illegalValue]
      let s1 := modStep n (fun y => { y with tasks := tset y.tasks card (cmdKey x.ring x.rseq) })
        (setCmd x (setDeck { s.deck with nextCmd := s.deck.nextCmd + 1 } s))
      if st ≠ .ok then finish x st 0 s1 else admitByOp x s1) s

/-- CARD_HOLD (R238): the task has the card's resource for the span. No result depends on it (R258). -/
def execCardHold (card : Nat) (s : State) : Res := cardRow card 2 (fun _ _ _ _ s => s) s

/-- The partition whose bytes a SEND or RECV counts: the one that the step's first task names (R222). -/
def cardPart (d : DeckImage) (c : Card) : Option Nat :=
  (((d.cards.find? fun e => e.step == c.step && e.kind == 1)).bind fun e => d.tasks[e.arg0]?).map fun t => fld t.desc 2 2 % 64

/-- Count scheduled bytes to the step, where a partition owns the card. -/
def countSched (d : DeckImage) (c : Card) (n flits : Nat) (s : State) : State :=
  match cardPart d c with
  | some p => modStep n (fun x => { x with counts := x.counts ++ [(12 * p + resFab, 64 * flits)] }) s
  | none => s

/-- The scheduled packets of a SEND: payloads of at most 4,208 bytes (R217). -/
def schedPackets (s : State) (c : Card) : List Packet :=
  (chunks 4208 ((List.range c.arg2).map fun i => scratchByte s (c.arg1 + i))).map fun b =>
    { fab := { mkFab s 0 (c.arg0 / 65536) b.length with static := true, route := BitVec.ofNat 12 c.arg0 }, tr := noTr, payload := b, tag := [] }

/-- CARD_SEND (R238, R220): the bytes leave as scheduled packets on the static route. -/
def execCardSend (card : Nat) (s : State) : Res :=
  cardRow card 3 (fun d c _ n s =>
    forEach (schedPackets s c) (fun p s => routeSched 6 none (.pkt p) (countSched d c n p.fab.flits s)) s) s

/-- The packets that a RECV takes: the oldest of its route and source that hold its bytes. -/
def recvPackets (s : State) (c : Card) : List (Nat × Packet) :=
  let mine := s.fab.sched.filter fun (r, p) => r == c.arg0 % 4096 && p.fab.src.toNat == c.arg0 / 65536
  (mine.foldl (fun (l, n) x => if n < c.arg2 then (l ++ [x], n + x.2.payload.length) else (l, n)) (([] : List (Nat × Packet)), 0)).1

/-- Take a RECV's bytes into scratch, where all of them have come; whether they have. -/
def takeSched (d : DeckImage) (c : Card) (n : Nat) (s : State) : Bool × State :=
  let ps := recvPackets s c
  let b := ps.flatMap fun (_, p) => p.payload
  if b.length < c.arg2 then (false, s)
  else
    let left := ps.foldl (fun l x => l.erase x) s.fab.sched
    (true, countSched d c n (sumN (ps.map fun (_, p) => p.fab.flits))
      (scratchWrite c.arg1 (b.take c.arg2) { s with fab := { s.fab with sched := left } }))

/-- Try a RECV; one that has its bytes is marked. -/
def tryRecv (d : DeckImage) (i : Nat) (c : Card) (n : Nat) (s : State) : State :=
  if s.deck.received.contains i then s
  else match takeSched d c n s with
    | (true, s1) => setDeck { s1.deck with received := s1.deck.received ++ [i] } s1
    | (false, s1) => s1

/-- CARD_RECV (R238). -/
def execCardRecv (card : Nat) (s : State) : Res := cardRow card 4 (fun d c _ n s => tryRecv d card c n s) s

/-- CARD_POST (R238): the addition waits for the step's release. -/
def execCardPost (card : Nat) (s : State) : Res :=
  cardRow card 5 (fun _ c _ n s => modStep n (fun x => { x with posts := x.posts ++ [(c.arg0 % 65536, c.arg1)] }) s) s

/-- The value that a CHECK or WAIT needs in a cycle. -/
def checkValue (c : Card) (cyc : Nat) : Nat := c.arg1 + cyc * c.arg2

/-- CARD_CHECK (R238, R250): a counter that is short fails the card with LATE, but in loan mode (R256). -/
def execCardCheck (card : Nat) (s : State) : Res :=
  cardRow card 6 (fun d c cyc _ s =>
    if (getCnt s (c.arg0 % 65536)).value < checkValue c cyc ∧ !d.loan then setDeck { s.deck with short := s.deck.short ++ [card] } s
    else s) s

/-- Limit of the wait watchdog in ns (R359). -/
def waitNs (s : State) : Nat := 1000 * actBits s 0x104 0 16

/-- CARD_WAIT (R256): loan mode only. The step's later cards are suspended until the counter has the value; the wait takes an entry of
the wait table (R288). -/
def execCardWait (card : Nat) (s : State) : Res :=
  if 4096 ≤ s.rma.waiters.length then .next s
  else cardRow card 7 (fun _ c cyc _ s =>
    let i := c.arg0 % 65536
    let target := checkValue c cyc
    if target ≤ (getCnt s i).value then s
    else
      let key := waitKey card cyc
      let w : Waiter := { key := none, card := some key, counter := i, onAcked := false, target := target, due := now s + waitNs s }
      setDeck { s.deck with waits := tset s.deck.waits key (now s) } { s with rma := { s.rma with waiters := s.rma.waiters ++ [w] } }) s

/-- CARD_RELEASE (R238, R256): the step is complete; in loan mode it is released as soon as its tasks are. -/
def execCardRelease (card : Nat) (s : State) : Res :=
  cardRow card 8 (fun _ _ _ n s =>
    let s1 := modStep n (fun x => { x with complete := true }) s
    match (dueSteps s1).find? fun x => x.number == n && x.loan with
    | some x => endMetering (releaseStep x s1)
    | none => s1) s

/-- LOAN_US in ns. -/
def loanNs (s : State) : Nat := 1000 * actBits s 0x200000 8 14

/-- LOAN_THRESHOLD (R256): a WAIT card has waited longer than LOAN_US, and its engine's budget is lent. `card` is the card's number
and 2¹⁷ times its cycle. -/
def execLoanThreshold (card : Nat) (s : State) : Res :=
  .next (
    match tget s.deck.waits card with
    | none => s
    | some t =>
      if s.deck.loaned.contains card ∨ (runningDeck s).isNone then s
      else deckCnt 6 1 (setDeck { s.deck with loaned := s.deck.loaned ++ [card] } (advanceTo (t + loanNs s) s)))

/-! ## The end of a span (R250) -/

end Sys2Proof.Machine

namespace Sys2Proof

/-- Codes of R250. -/
def FailCause.code : FailCause → Nat
  | .overrun => 1
  | .late => 2
  | .cardFault => 3
  | .stageFull => 4
  | .timeLost => 5
  | .repeatLimit => 6
  | .metering => 7

end Sys2Proof

namespace Sys2Proof.Machine

open Sys2Proof

/-- Bytes that a step has staged (R250). -/
def stagedBytes (x : StepRun) : Nat :=
  sumN (x.outs.map fun o => match o with
    | .dmaWrite _ _ d => d.length
    | _ => 0)
  + sumN (x.ops.map fun (_, o) => match o.msg with
    | some (.gfa _ _ _ _ n true _) => n
    | _ => if o.kind = .write then o.total else o.data.length)

/-- A scheduled packet of this node with a route index, to a destination. -/
def sendPkt (s : State) (c : Card) (q : QPkt) : Bool :=
  q.cls == 0 && q.src == 6 && q.cargo.packet.fab.dst.toNat == c.arg0 / 65536 && q.cargo.packet.fab.src.toNat == nodeId s

/-- Packets of a SEND still wait or are under way. -/
def sendBusy (s : State) (c : Card) : Bool :=
  (List.range 6).any fun p => (getPort s p).queue.any (sendPkt s c) || (getPort s p).cur.any (sendPkt s c)

/-- A card's work is not complete. -/
def workLeft (s : State) (i : Nat) (c : Card) (n : Nat) : Bool :=
  match c.kind with
  | 1 => (match openStep s n with
    | some x => (match tget x.tasks i with
      | some k => !taskDone s x k
      | none => false)
    | none => false)
  | 3 => sendBusy s c
  | 4 => !s.deck.received.contains i
  | _ => false

/-- The cause of a card's failure, if one is present: the first in the order of R250. `told` is what the engines report. -/
def failCause (s : State) (d : DeckImage) (i : Nat) (c : Card) (n : Nat) (told : Option FailCause) : Option Nat :=
  let left := workLeft s i c n
  let staged := ((openStep s n).map stagedBytes).getD 0
  [ (1, !d.loan && ((left && (c.kind == 1 || c.kind == 3)) || (told == some .overrun && c.kind == 4 && !left))),
    (2, !d.loan && ((left && c.kind == 4) || s.deck.short.contains i)),
    (3, s.deck.struck.contains i || (told == some .cardFault && decide (c.kind ≤ 4))),
    (4, decide (16777216 < staged)),
    (5, valBits s 0x300014 2 1 == 1),
    (7, s.tap.halted) ].find? (·.2) |>.map (·.1)

/-- Discard the work of a card (R250): its task, or its packets that have not left. -/
def abortCard (i : Nat) (c : Card) (n : Nat) (s : State) : State :=
  match c.kind with
  | 1 => (match (openStep s n).bind fun x => tget x.tasks i with
    | some k => dropTask k s
    | none => s)
  | 3 => forEach (List.range 6) (fun p s => modPort p (fun x => { x with queue := x.queue.filter fun q => !sendPkt s c q }) s) s
  | _ => s

/-- A card fails (R250): counted, reported and, but for a fault in loan mode, announced (R251, R256). -/
def failCard (d : DeckImage) (i : Nat) (c : Card) (n cause : Nat) (s : State) : State :=
  let k := if cause = 2 then 2 else 1
  let rew := ((openStep s n).map (·.rewinds)).getD 0
  let s1 := if cause = 1 ∨ cause = 2 ∨ cause = 3 ∨ cause = 4 then deckCnt k 1 s else s
  let phys := if c.rclass < 6 then physOf (actW s) c.rclass c.rinst else c.rinst
  let s2 := post
    { cls := 4, code := 4, step := BitVec.ofNat 64 n, kind := c.rclass, logical := c.rinst, physical := phys
      detail := .s cause rew 0xFFFF 0xFFFF 0 0 } s1
  if d.loan ∧ cause = 3 then
    match (openStep s2 n).bind fun x => (tget x.tasks i).bind fun k => tget s2.cmds k with
    | some t => strikeCmd t 16 s2
    | none => s2
  else if haltCause cause then deckCause cause s2
  else raiseNotice cause n (abortCard i c n s2)

/-- CARD_SPAN_END (R250). A late RECV of loan mode is tried again. -/
def execCardSpanEnd (card : Nat) (cause : Option FailCause) (s : State) : Res :=
  .next (
    match runningDeck s with
    | none => s
    | some d => match d.cards[card]? with
      | none => s
      | some c =>
        let n := stepNumber s d (curCycle s d) c.step
        if s.deck.issued.contains card ∧ !s.deck.ended.contains card then
          let s1 := advanceTo (d.slotAt s.deck.round (c.slot + c.spanM1 + 1)) s
          let s2 := if c.kind = 4 then tryRecv d card c n s1 else s1
          let s3 := match failCause s2 d card c n cause with
            | some k => failCard d card c n k s2
            | none => s2
          setDeck { s3.deck with ended := s3.deck.ended ++ [card] } s3
        else match s.deck.late.find? fun x => x.1 == card with
          | none => s
          | some (_, cyc) => match takeSched d c (stepNumber s d cyc c.step) s with
            | (true, s1) => setDeck { s1.deck with late := s1.deck.late.filter fun x => x.1 != card } s1
            | (false, _) => s)

/-! ## Rewind and halt (R253) -/

/-- Position of a step's first or last card. -/
def stepPos (d : DeckImage) (idx : Nat) (last : Bool) : Option Nat :=
  (d.cards.find? fun c => c.step == idx && (if last then c.last else c.first)).map (·.pos)

/-- The rewind set of a position: the steps whose first card lies at or before it and whose LAST card at or after it. -/
def rewindSet (d : DeckImage) (a : Nat) : List Nat :=
  (List.range d.steps).filter fun i => match stepPos d i false, stepPos d i true with
    | some f, some l => decide (f ≤ a) && decide (a ≤ l)
    | _, _ => false

/-- The rewind of R253: `w` and `a` as positions counted from the start. -/
def rewindDeck (d : DeckImage) (wLin aLin : Nat) (set : List Nat) (s : State) : State :=
  let cyc := aLin / d.cycle
  let a := aLin % d.cycle
  let void := s.deck.steps.filter fun x => !(x.cycle == cyc && set.contains x.idx)
    && decide (aLin < x.cycle * d.cycle + (stepPos d x.idx false).getD 0)
  let again := s.deck.steps.filter fun x => x.cycle == cyc && set.contains x.idx
  let s1 := forEach (void ++ again) resetStep s
  let steps := (s1.deck.steps.filter fun x => !(void.any fun v => v.number == x.number)).map fun x =>
    if again.any fun y => y.number == x.number then { x with rewinds := x.rewinds + 1 } else x
  let skip := ((List.range d.steps).filter fun i => !set.contains i && (match stepPos d i true with
    | some l => decide (l < a)
    | none => false)).map (stepNumber s1 d cyc)
  deckCnt 3 1 (modDeck (fun e => { e with steps := steps, skip := skip, rewindTo := some wLin, blindRound := some e.round, disp := e.disp + (aLin - wLin) + 2 })
    { s1 with fab := { s1.fab with sched := [] } })

/-- The notices of round r are taken at the end of round r + 1 (R253). A step that has rewound three times in succession raises
REPEAT (R254). -/
def takeNotices (d : DeckImage) (due : List Notice) (s : State) : State :=
  let a := due.foldl (fun m n => min m n.pos.toNat) (d.cycle - 1)
  let aLin := (s.deck.cur - 1) / d.cycle * d.cycle + a
  let set := rewindSet d a
  let w := set.foldl (fun m i => min m ((stepPos d i false).getD a)) a
  let wLin := aLin - a + w
  let halts := due.filter fun n => n.ntype == 2
  let s1 := setDeck { s.deck with notices := s.deck.notices.filter fun n => s.deck.round < n.raised.toNat } (advanceTo (roundEnd s d) s)
  match halts.head? with
  | some h =>
    let s2 := deckCnt 4 1 (post { cls := 4, code := 5, step := h.step, detail := .s h.cause.toNat 0 h.src.toNat 0xFFFF 0 0 } s1)
    if halts.all fun n => n.cause == 7 then
      endMetering (modDeck (fun e => { e with metering := true }) (rewindDeck d wLin aLin set s2))
    else haltDeck d .stepFault s2
  | none =>
    let s2 := rewindDeck d wLin aLin set s1
    match s2.deck.steps.find? fun x => x.cycle == aLin / d.cycle && set.contains x.idx && decide (3 ≤ x.rewinds) with
    | some x => raiseFor 6 x.number (s2.deck.round + 1) w s2
    | none => s2

/-- NOTICE_TAKE (R253). -/
def execNoticeTake (s : State) : Res :=
  .next (
    match runningDeck s with
    | none => s
    | some d =>
      let due := dueNotices s
      if due.isEmpty ∨ !roundDone s d ∨ s.deck.cur = 0 ∨ s.deck.rewindTo.isSome then s else takeNotices d due s)

/-! ## Round boundaries and START (R245, R248) -/

/-- A notice or a rewind of the old deck is pending (R245). -/
def rewindPending (s : State) : Bool := s.deck.rewindTo.isSome || s.deck.notices.any fun n =>
  decide (s.deck.round ≤ n.raised.toNat + 1) && s.deck.blindRound != some n.raised.toNat

/-- A swap takes effect at the end of this round: START is reached, a cycle ends, and nothing is pending. -/
def swapDue (s : State) (d : DeckImage) : Bool :=
  match s.deck.swap with
  | some q => decide (q.start ≤ roundEnd s d) && (s.deck.cur + 1) % d.cycle == 0 && !rewindPending s
  | none => false

/-- The round is over but for its boundary: nothing that its end brings is left. -/
def boundaryReady (s : State) (d : DeckImage) : Bool :=
  roundDone s d && (dueSteps s).isEmpty && ((dueNotices s).isEmpty || s.deck.rewindTo.isSome || s.deck.cur == 0)

/-- MARGIN_LOW is set and reported, once while it stands (R248, R249). -/
def marginLow (s : State) : State :=
  if valBits s 0x200004 5 1 = 1 then s
  else post { cls := 8, code := 2 } (setValBits 0x200004 5 1 1 s)

/-- VCORE_MV. -/
def vcore (s : State) : Nat := valBits s 0x200010 0 10

/-- The set point moves, between 620 and 880 mV. -/
def moveVcore (up down : Nat) (s : State) : State := setValBits 0x200010 0 10 (max 620 (min 880 (vcore s + up) - down)) s

/-- The margin at `rc` is below `pct` percent. -/
def marginBelow (d : DeckImage) (rc pct : Nat) : Bool := decide (d.rcLimit * 100 < rc * 100 + pct * d.rcLimit)

/-- The margin in units of 0.1 %, rounded either way where it is no whole number. -/
def marginTenths (s : State) (d : DeckImage) (rc : Nat) : Int :=
  let num : Int := 1000 * ((d.rcLimit : Int) - rc)
  let lo := Int.fdiv num d.rcLimit
  if lo * d.rcLimit = num then lo else if Config.freeBool s.freeCnt then lo else lo + 1

/-- What the power manager does at a round boundary (R248). -/
def adjustMargin (d : DeckImage) (rc : Nat) (s : State) : State :=
  let target := actBits s 0x200000 0 6
  let below := marginBelow d rc target
  let good := !marginBelow d rc (target + 4)
  let s0 := setValBits 0x200010 20 11 (toTwos (marginTenths s d rc) 11) (setValBits 0x200010 10 10 rc (stepFree s))
  let s1 := setDeck { s0.deck with goodRounds := if good then s0.deck.goodRounds + 1 else 0 } s0
  if below then (if 880 ≤ vcore s1 then marginLow s1 else moveVcore 10 0 s1)
  else if 8 ≤ s1.deck.goodRounds then moveVcore 0 5 s1
  else s1

/-- The next round begins at its position: cards that were suspended, and RECVs without their bytes, are carried on (R256). -/
def nextRound (d : DeckImage) (s : State) : State :=
  let cyc := curCycle s d
  let wait := ((dueCards s d).filter fun (_, i) => !s.deck.issued.contains i).map fun (_, i) => (i, cyc)
  let late := ((dueCards s d).filter fun (c, i) => c.kind == 4 && s.deck.issued.contains i && !s.deck.received.contains i).map
    fun (_, i) => (i, cyc)
  let cur := s.deck.rewindTo.getD (s.deck.cur + 1)
  let cyc' := cur / d.cycle
  modDeck (fun e =>
    { e with
      round := e.round + 1, cur := cur, rewindTo := none, issued := [], ended := [], short := [], struck := [], received := []
      carried := e.carried ++ wait
      late := e.late ++ (if d.loan then late else [])
      released := if cyc' = cyc then e.released else []
      notices := e.notices.filter fun n => decide (e.round ≤ n.raised.toNat) }) s

/-- ROUND_BOUNDARY (R248, R253): the next round begins; `rcMax` is the greatest rc of the round that ends. While the deck is
halted D grows. -/
def execRoundBoundary (rcMax : Nat) (s : State) : Res :=
  .next (
    match s.deck.active with
    | none => s
    | some d =>
      if !serving s then s
      else if s.deck.state = 2 then
        modDeck (fun e => { e with round := e.round + 1, disp := e.disp + 1 }) (advanceTo (roundEnd s d) s)
      else if s.deck.state ≠ 1 ∨ !boundaryReady s d ∨ swapDue s d then s
      else nextRound d (adjustMargin d rcMax (advanceTo (roundEnd s d) s)))

/-- MARGIN_READING (R248): a reading below 2 % raises the supply by 25 mV. -/
def execMarginReading (rc : Nat) (s : State) : Res :=
  .next (
    match runningDeck s with
    | none => s
    | some d =>
      if !marginBelow d rc 2 then s
      else
        let s1 := deckCnt 5 1 s
        if 880 ≤ vcore s1 then marginLow s1 else moveVcore 25 0 s1)

/-- Every engine of a class that waits for a deck's START loads its new microcode (R436). -/
def loadFences (s : State) : State :=
  forEach s.mgmt.fences (fun (cls, _) s =>
    logMgmt 0x82 4 .ok { b0 := cls, b1 := actSlot s cls, w0 := (fwSlot s cls (actSlot s cls)).version } (setValBits (0xB00100 + 4 * cls) 1 1 1 s))
    { s with mgmt := { s.mgmt with fences := [] } }

/-- The deck's routes become active, and only they, as at a FAB commit (R245). -/
def commitRoutes (routes : List Nat) (s : State) : State :=
  if routes.isEmpty then s
  else
    let s1 := forEach routes.zipIdx (fun (v, i) s => setAct (0x308000 + 4 * i) (BitVec.ofNat 32 v) s) s
    let s2 : State := { s1 with regs := { s1.regs with pend := tfilter s1.regs.pend fun o _ =>
        !(decide (0x308000 ≤ o) && decide (o < 0x308000 + 4 * routes.length)) } }
    setCtl 3 { ctlOf s2 3 with gen := (ctlOf s2 3).gen + 1 } s2

/-- A waiting swap completes with its start time. -/
def endSwap (q : SwapReq) (t : Nat) (s : State) : State :=
  match tget s.cmds q.key with
  | some c => finish c .ok t s
  | none => s

/-- The swap takes effect at `t` (R245). -/
def startDeck (q : SwapReq) (t : Nat) (s : State) : State :=
  let s1 := loadFences (advanceTo t s)
  let old := s1.deck
  let clean : Deck :=
    { pend := old.pend, nextCmd := old.nextCmd, seen := old.seen, disp := old.disp, goodRounds := old.goodRounds
      steps := if q.stop then [] else old.steps }
  let s2 := if q.stop then forEach old.steps resetStep s1 else s1
  let start (img : DeckImage) (e : Deck) : Deck :=
    { e with active := some img, state := 1, cring := q.cring, stepBase := q.stepBase, round := t / img.roundNs }
  endSwap q t (
    if q.stop then modDeck (fun _ => { clean with disp := 0 }) s2
    else if q.restart then
      match old.active with
      | some d => modDeck (fun _ => start d { clean with scratch := old.scratch, bankBad := old.bankBad }) s2
      | none => s2
    else match old.pend with
      | some d => modDeck (fun _ => start d { clean with pend := none, disp := 0 }) (commitRoutes d.routes s2)
      | none => s2)

/-- DECK_START (R245): START arrives. With a deck running it comes at the end of one of its cycles; a rewind or halt that is
pending defers it. A new deck's rounds begin at multiples of its round length. -/
def execDeckStart (s : State) : Res :=
  .next (
    match s.deck.swap with
    | none => s
    | some q =>
      let img := if q.restart then s.deck.active else s.deck.pend
      let align (t : Nat) : Nat := if q.stop then t else match img with
        | some d => roundUp t d.roundNs
        | none => t
      if !serving s then s
      else match s.deck.active with
        | some d =>
          if s.deck.state = 1 then
            (if boundaryReady s d ∧ swapDue s d then startDeck q (align (roundEnd s d)) s else s)
          else
            let cyc := d.cycle * d.roundNs
            startDeck q (align (if now s ≤ q.start then q.start else q.start + cdiv (now s - q.start) cyc * cyc)) s
        | none => startDeck q (align (max (now s) q.start)) s)

end Sys2Proof.Machine
end

