-- ==== Sys2Proof/Machine/Serve.lean ====
section
/-! DEFINITION. The node as a producer: CALLs from other nodes and their answers (R265, R268, R296, R305), and the retention
records (R360). -/

namespace Sys2Proof.Machine

open Sys2Proof

/-! ## Answers -/

/-- Send a CALL_RESP on a half. -/
def sendResp (conn : Nat) (psn : BitVec 24) (try_ : BitVec 8) (m : RespMsg) (s : State) : State :=
  sendConn conn { noTr with top := 0x11, first := true, last := true, try_ := try_, psn := psn } [] (fun p => .resp p m) s

/-- Send an answer, where there is one. -/
def sendAnswer (conn : Nat) (p : Packet) (m : Option RespMsg) (s : State) : State := match m with
  | some m => sendResp conn p.tr.psn p.tr.try_ m s
  | none => s

/-! ## Retention (R360) -/

/-- The retention record of a sub-request. -/
def retainedOf (s : State) (home : BitVec 16) (step : BitVec 64) (sub : Nat) : Option Retained :=
  s.retained.find? fun r => r.home == home && r.step == step && r.sub == sub

/-- Bytes that an answer takes in the shared buffer. -/
def respSize : RespMsg → Nat
  | .partials _ _ fails _ parts => 16 * fails.length + sumN (parts.map fun p => 8 + 4 * p.o.length)
  | .lists _ _ _ _ _ hits => 16 * sumN (hits.map (·.length))
  | _ => 16

/-- No further record fits: 4,096 records, 64 MiB. -/
def retentionFull (s : State) : Bool :=
  decide (4096 ≤ s.retained.length) || decide (67108864 < sumN (s.retained.map fun r => respSize r.answer))

/-- Keep an answer until the home releases its step. -/
def retain (part : Nat) (home : BitVec 16) (step : BitVec 64) (sub : Nat) (m : RespMsg) (s : State) : State :=
  { s with retained := s.retained ++ [{ home := home, step := step, sub := sub, part := part, born := now s, answer := m }] }

/-- The home has completed the step: its records go. -/
def releaseRecords (home : BitVec 16) (step : BitVec 64) (s : State) : State :=
  { s with retained := s.retained.filter fun r => !(r.home == home && r.step == step) }

/-! ## GFA accesses of other nodes (R296, R305) -/

/-- Bytes of local pieces. -/
def readPieces (s : State) : List Piece → MemRead
  | [] => .data []
  | p :: ps =>
    match readLocal s p.addr p.len with
    | .data b => (match readPieces s ps with
      | .data b' => .data (b ++ b')
      | r => r)
    | r => r

/-- Serve an access under a stamp that the map has reached. A range whose best match is another node gives ST_EPOCH_STALE. -/
def serveGfa (part : Nat) (step : BitVec 64) (sub : Nat) (stamp : BitVec 16) (addr : BitVec 64) (len : Nat) (write : Bool)
    (data : List Byte) (s : State) : RespMsg × State :=
  let done (st : Status) (b : List Byte) : RespMsg := .gfaDone step sub (BitVec.ofNat 16 st.code) b
  let r := resolveGfa s stamp part addr.toNat len write
  let s1 := countResolved r s
  match r.res with
  | .error st => (done st [], s1)
  | .ok ps =>
    if ps.any fun p => p.node.toNat != nodeId s then (done .epochStale [], cntAdd rmxStale 1 s1)
    else if write then (done .ok [], forEach ps (fun p s => writeMem p.addr (slice data p.off p.len) s) s1)
    else match readPieces s1 ps with
      | .data b => (done .ok b, s1)
      | .damaged _ => (done .dataDamaged [], s1)
      | .lost => (done .dataLost [], s1)

/-- Answer a GFA access that waited for its epoch. -/
def answerHeld (h : HeldGfa) (s : State) : State :=
  let c := h.pkt.tr.dconn % 2 ^ 20
  match h.msg with
  | .gfa step sub stamp addr len write data =>
    let (m, s1) := serveGfa (getConn s c).part step sub stamp addr len write data s
    sendResp c h.pkt.tr.psn h.pkt.tr.try_ m s1
  | _ => s

/-- The map has moved on: accesses that it has reached are served (R305). -/
def serveHeld (s : State) : State :=
  let go := s.rmx.held.filter fun (_, h) => match h.msg with
    | .gfa _ _ stamp _ _ _ _ => stampAge s.rmx stamp != .newer
    | _ => false
  let s1 : State := { s with rmx := { s.rmx with held := s.rmx.held.filter fun x => !go.contains x } }
  forEach go (fun (_, h) s => answerHeld h s) s1

/-- Hold an access whose stamp is newer than the map, for at most 1 ms. -/
def holdGfa (port : Nat) (p : Packet) (m : CallMsg) (s : State) : State :=
  let k := ((List.range (s.rmx.held.length + 1)).find? fun i => (tget s.rmx.held i).isNone).getD 0
  let h : HeldGfa := { port := port, pkt := p, msg := m, due := now s + 1000000 }
  { s with rmx := { s.rmx with held := tset s.rmx.held k h } }

/-! ## CALL (R265) -/

/-- The work of a sub-request is done once, and its answer kept (R93, R360). -/
def keepOnce (part : Nat) (home : BitVec 16) (step : BitVec 64) (sub : Nat) (f : State → Option RespMsg × State) (s : State) : Option RespMsg × State :=
  match retainedOf s home step sub with
  | some r => (some r.answer, s)
  | none =>
    if retentionFull s then (some (.busy step sub), s)
    else match f s with
      | (some m, s1) => (some m, retain part home step sub m s1)
      | r => r

/-- A page of a sub-request is here. -/
def hasPages (s : State) (home : Nat) (r : AttendReq) : Bool := r.pages.all fun (st, p) => (servedPage s home r.seq st p).isSome

/-- Do the work of a CALL: the answer, where there is one, and what changes here. A step that needs a kind of part that is
offline gets no answer (R468). -/
def serveCall (port conn : Nat) (p : Packet) (m : CallMsg) (s : State) : Option RespMsg × State :=
  let x := getConn s conn
  let home := x.peerNode
  match m with
  | .attendSub step sub _ r =>
    keepOnce x.part home step sub (fun s =>
      if !hasPages s home.toNat r ∨ r.partition ≠ x.part then (some (.absent step sub), s)
      else if offline s 0 ∨ offline s 1 then (none, s)
      else
        let (m, s1) := serveAttend home.toNat step sub r s
        (some m, s1)) s
  | .searchSub step sub _ r =>
    keepOnce x.part home step sub (fun s =>
      if r.partition ≠ x.part then (some (.absent step sub), s)
      else if offline s 5 then (none, s)
      else
        let (m, n) := serveSearch step sub r s
        (some m, tapAdd x.part resHops n.hops (cntAdd walkDmgSkip n.skipped (cntAdd walkTagMiss n.tagMiss (cntAdd walkHops n.hops s))))) s
  | .replicate r => replicaCommit home conn x.part r s
  | .migratePages pages =>
    let seq := ((pages.head?).map (·.seq)).getD 0
    let bytes := sumN (pages.map (·.bytes.length))
    let taken := pages.any fun h => h.home.toNat == nodeId s && (getSeq s h.seq).state != .free
    if taken ∨ !Config.allocFits s.freeCnt x.part bytes then (some (.migrateBusy seq), stepFree s)
    else (some (.migrateOk seq), forEach pages (takePage x.part) (stepFree s))
  | .migrateSeq n image need =>
    let (m, s1) := takeSeq n x.part image need s
    (some m, s1)
  | .fetchPages n pages => (some (.pages n (givePages home n pages s)), s)
  | .freeReplica n => (none, freeReplicaOf home n s)
  | .gfa step sub stamp addr len write data =>
    if stampAge s.rmx stamp = .newer then (none, holdGfa port p m s)
    else
      let (m, s1) := serveGfa x.part step sub stamp addr len write data s
      (some m, s1)
  | .releaseStep step => (none, releaseRecords home step s)

/-- The answer to a CALL is already held (R410). -/
def heldAnswer (s : State) (home : BitVec 16) : CallMsg → Bool
  | .attendSub step sub _ _ => (retainedOf s home step sub).isSome
  | .searchSub step sub _ _ => (retainedOf s home step sub).isSome
  | _ => false

/-- An expected CALL (R277): turned away while metering is halted, else applied and answered. A CALL on a management half is none
that a node sends, and is not served (log entry 35). -/
def freshCall (port c : Nat) (m : CallMsg) (cg : Cargo) (s : State) : State :=
  let p := cg.packet
  let x := getConn s c
  if x.mgmt then reject c p.tr.psn 1 nakUnsupported s
  else if s.tap.halted ∧ !heldAnswer s x.peerNode m then reject c p.tr.psn 1 nakMetering s
  else
    let (ans, s1) := serveCall port c p m s
    applied c p (sendAnswer c p ans (advanceRx c 1 s1))

/-- Process a CALL packet. -/
def rxCallPkt (port : Nat) (cg : Cargo) (s : State) : State :=
  match cg with
  | .call _ m => rxRequest port cg (fun c cg s => freshCall port c m cg s) s
  | _ => s

/-- RX_CALL (R265). -/
def execRxCall (port : Nat) (pkt : Packet) (m : CallMsg) (s : State) : Res :=
  .next (if topIs pkt 0x10 then rxCallPkt port (.call pkt m) s else s)

/-- RETENTION_EXPIRY (R360): the record is not released within RETAIN_MS. -/
def execRetentionExpiry (home : BitVec 16) (step : BitVec 64) (sub : Nat) (s : State) : Res :=
  .next (
    match retainedOf s home step sub with
    | none => s
    | some r =>
      if !serving s then s
      else
        let s1 := cntAdd 0x1C0 1 (advanceTo (r.born + retainNs s) s)
        post { cls := 4, code := 6, step := step, detail := .s 0 0 home.toNat 0xFFFF 0 0 }
          { s1 with retained := s1.retained.erase r })

/-- STAMP_HOLD_TIMEOUT (R305): 1 ms passes without the map reaching the stamp. -/
def execStampHoldTimeout (held : Nat) (s : State) : Res :=
  .next (
    match tget s.rmx.held held with
    | none => s
    | some h =>
      if !serving s then s
      else
        let s1 := cntAdd rmxStale 1 (advanceTo h.due s)
        let s2 : State := { s1 with rmx := { s1.rmx with held := tdel s1.rmx.held held } }
        match h.msg with
        | .gfa step sub _ _ _ _ _ =>
          sendResp (h.pkt.tr.dconn % 2 ^ 20) h.pkt.tr.psn h.pkt.tr.try_ (.gfaDone step sub (BitVec.ofNat 16 Status.epochStale.code) []) s2
        | _ => s2)

end Sys2Proof.Machine
end

