-- ==== Sys2Proof/Machine/MapOps.lean ====
section
/-! DEFINITION. MAP_UPDATE, the commit of a map epoch and its retirement (R298 to R304). -/

namespace Sys2Proof.Machine

open Sys2Proof

/-! ## Operations (R299) -/

/-- An operation of the list. -/
structure MapOp where
  op : Nat
  place : Nat
  index : Nat
  tag : Nat
  node : Nat
  part : Nat
  attr : Nat
  prio : Nat
  a : Nat
  b : Nat
  lbase : Nat
  pad : Bool
  deriving DecidableEq, Repr

/-- Read an operation from its 64 bytes; `pad` says that its reserved bytes are zero. -/
def MapOp.ofBytes (b : List Byte) : MapOp :=
  { op := fld b 0 1, place := fld b 1 1, index := fld b 2 2, tag := fld b 4 2, node := fld b 6 2, part := fld b 8 1, attr := fld b 9 1
    prio := fld b 10 1, a := fld b 16 8, b := fld b 24 8, lbase := fld b 32 8, pad := allZero (slice b 11 5) && allZero (slice b 40 24) }

/-- NEW_EPOCH. -/
def mapEpochOf (c : Cmd) : BitVec 16 := BitVec.ofNat 16 (fld c.desc 8 2)
/-- OPS. -/
def mapCount (c : Cmd) : Nat := fld c.desc 10 2

/-- The descriptor's own fields are in order. -/
def mapDescOk (c : Cmd) : Bool :=
  decide (1 ≤ mapCount c) && decide (mapCount c ≤ 4096) && fld c.desc 12 4 == 0 && allZero (slice c.desc 24 40)

/-- The operations of the list. -/
def mapOps (c : Cmd) (b : List Byte) : List MapOp := ((chunks 64 b).take (mapCount c)).map MapOp.ofBytes

/-- Bits of KEY where MASK is 0. -/
def looseKey (key mask : Nat) : Bool := key &&& (2 ^ 64 - 1 - mask) != 0

/-- An operation's fields are in order (R299, R301, step 3). -/
def mapOpOk (o : MapOp) : Bool :=
  let none_ := o.node == 0 && o.part == 0 && o.attr == 0 && o.prio == 0 && o.a == 0 && o.b == 0 && o.lbase == 0
  let result := decide (o.part < 64) && decide (o.node < 2 ^ 12) && decide (o.attr < 16) && decide (bits o.attr 2 2 ≤ 1)
  o.pad && (match o.op with
    | 1 => decide (o.place ≤ 1) && (o.place == 1 || o.index == 0) && result && !looseKey o.a o.b
    | 2 => o.place == 0 && o.index == 0 && result && decide (o.a ≤ o.b)
    | 3 => o.place == 0 && o.tag == 0 && none_
    | 4 => o.place == 0 && o.index == 0 && none_
    | _ => false)

/-- The entries that the operation removes. -/
def mapRemoves (x : Rmx) (o : MapOp) : List Nat := match o.op with
  | 3 => [o.index]
  | 4 => (x.ents.filter fun (_, e) => e.tag.toNat == o.tag && !e.dying).map (·.1)
  | _ => []

/-- The entries that an operation adds, before they have a place. -/
def mapAdds (o : MapOp) : List RmxEnt :=
  let e : RmxEnt := { node := BitVec.ofNat 16 o.node, part := o.part, attr := o.attr, prio := o.prio, tag := BitVec.ofNat 16 o.tag, born := true }
  match o.op with
  | 1 => [{ e with key := o.a, mask := o.b, lbase := o.lbase }]
  | 2 => (coverRange o.b 130 o.a).map fun (a, n) => { e with key := a, mask := 2 ^ 64 - n, lbase := (o.lbase + (a - o.a)) % 2 ^ 64 }
  | _ => []

/-- Step 5 of R301 over the list: `gone` are the entries removed so far, `named` the places named so far. -/
def mapCombination (x : Rmx) : List MapOp → List Nat → List Nat → Bool
  | [], _, _ => false
  | o :: t, gone, named =>
    let bad := match o.op with
      | 1 => o.place == 1 && ((tget x.ents o.index).isSome || named.contains o.index)
      | 3 => (tget x.ents o.index).isNone || gone.contains o.index
      | _ => false
    bad || mapCombination x t (gone ++ mapRemoves x o) (if o.op = 1 ∧ o.place = 1 then named ++ [o.index] else named)

/-- The places that operations name. -/
def namedPlaces (ops : List MapOp) : List Nat := (ops.filter fun o => o.op == 1 && o.place == 1).map (·.index)

/-- The `n` lowest indices from `i` on that are free, are no hole and are not named. -/
def freePlaces (x : Rmx) (named : List Nat) : Nat → Nat → Nat → List Nat
  | 0, _, _ => []
  | fuel + 1, i, n =>
    if n = 0 ∨ 65536 ≤ i then []
    else if i % 16 = 15 ∨ (tget x.ents i).isSome ∨ named.contains i then freePlaces x named fuel (i + 1) n
    else i :: freePlaces x named fuel (i + 1) (n - 1)

/-- Give each added entry its place: named ones theirs, the others the free places in order. -/
def placeAdds : List MapOp → List Nat → List (Nat × RmxEnt)
  | [], _ => []
  | o :: t, free =>
    let es := mapAdds o
    if o.op = 1 ∧ o.place = 1 then es.map (fun e => (o.index, e)) ++ placeAdds t free
    else free.zip es ++ placeAdds t (free.drop es.length)

/-- A registered region resolves through the entry. -/
def entryInUse (s : State) (i : Nat) : Bool := tany s.rma.regions fun _ r => r.used && r.space == 0 && r.ents.contains i

/-- Checks 2 to 7 of R301 but for the epoch that is the current one. -/
def mapStatus (s : State) (c : Cmd) (b : List Byte) : Status :=
  let ops := mapOps c b
  let x := s.rmx
  let adds := (ops.filter fun o => !(o.op == 1 && o.place == 1)).flatMap mapAdds
  let named := namedPlaces ops
  firstBad [
    failIf (!ownerIs s c.master) .notOwner,
    failIf (!mapDescOk c || !ops.all mapOpOk) .illegalValue,
    failIf (mapEpochOf c != x.epoch && mapEpochOf c != x.epoch + 1) .wrongState,
    if mapEpochOf c = x.epoch then .ok
    else firstBad [
      failIf (mapCombination x ops [] []) .illegalCombination,
      failIf ((ops.flatMap (mapRemoves x)).any (entryInUse s)) .busy,
      failIf (decide ((freePlaces x named 65536 0 adds.length).length < adds.length)) .busy]]

/-! ## The turn of an update (R301, R302) -/

/-- The result of an update. -/
def mapResult (w : MapWrite) : Nat := w.epoch.toNat + 2 ^ 16 * w.added + 2 ^ 32 * w.dying

/-- Write the entries of an update: BORN entries, DYING marks, and the search slots they borrow. -/
def mapWrite (c : Cmd) (b : List Byte) (s : State) : State :=
  let ops := mapOps c b
  let x := s.rmx
  let n := (ops.filter fun o => !(o.op == 1 && o.place == 1)).flatMap mapAdds
  let adds := placeAdds ops (freePlaces x (namedPlaces ops) 65536 0 n.length)
  let gone := ops.flatMap (mapRemoves x)
  let marked := gone.foldl (fun t i => tmod t i fun e => { e with dying := true }) x.ents
  let ents := adds.foldl (fun t (i, e) => tset t i e) marked
  let w : MapWrite := { key := cmdKey c.ring c.rseq, epoch := mapEpochOf c, added := adds.length, dying := gone.length }
  showRmx (cntAdd rmxBorrowed (3 * adds.length + gone.length) { s with rmx := { x with ents := ents, writing := some w } })

/-- The MAP_UPDATE that stands first: admitted, unfinished, with the lowest step number. -/
def firstUpdate (s : State) : Option Cmd :=
  ((s.cmds.filter fun (_, c) => c.op == 0x50 && c.phase == .running).map (·.2)).foldl (fun m c => match m with
    | none => some c
    | some d => if c.step.toNat < d.step.toNat then some c else some d) none

/-- The next update has its turn, where none is writing and no epoch retires; `fuel` bounds those that fail at once. -/
def mapTurn : Nat → State → State
  | 0, s => s
  | fuel + 1, s =>
    if s.rmx.writing.isSome ∨ s.rmx.retiring.isSome then s
    else match firstUpdate s with
      | none => s
      | some c => match c.work with
        | .map b true =>
          (match mapStatus s c b with
          | .ok => if mapEpochOf c = s.rmx.epoch then mapTurn fuel (finish c .ok s.rmx.epoch.toNat s) else mapWrite c b s
          | st => mapTurn fuel (finish c st 0 s))
        | _ => s

/-- The operation list is here, or cannot be read. -/
def mapInput (c : Cmd) (g : Got) (s : State) : State :=
  match c.work, g with
  | .map _ false, .now b => mapTurn 5000 (setCmd { c with work := .map b true } s)
  | .map _ false, .fail st => mapTurn 5000 (finish c st 0 s)
  | _, _ => s

/-- MAP_UPDATE is admitted: its list is read once. A descriptor that cannot name a list waits for its turn without one. -/
def admitMap (c : Cmd) (s : State) : State :=
  let s1 := admitCmd c (.map [] false) s
  let c1 := (getCmd s1 c.ring c.rseq).getD c
  if !mapDescOk c then mapInput c1 (.now []) s1
  else match startRead c1 (fld c.desc 16 8) (64 * mapCount c) s1 with
    | (.wait, s2) => s2
    | (g, s2) => mapInput c1 g s2

/-- MAP_UPDATE (R301). -/
def execMapUpdate (ring : Nat) (rseq : BitVec 32) (s : State) : Res :=
  .next (admitting ring rseq (fun c => c.op == 0x50) admitMap s)

/-! ## Commit and retirement (R302 to R304) -/

/-- Commands whose access by CALL was lost may run again under the new map, where it came in time (R361). -/
def replayLostGfa (s : State) : State :=
  forEach ((s.cmds.filter fun (_, c) => c.phase == .running && !c.faulted && c.subs.any fun u => u.lost && decide (now s ≤ u.due)
      && (match u.call with
        | .gfa _ _ _ _ _ _ _ => true
        | _ => false)).map (·.2))
    (fun c s => strikeCmd { c with stamp := s.rmx.epoch } 19 s) s

/-- MAP_COMMIT (R302): N becomes N + 1, the former epoch retires, the update completes, and accesses that waited for the epoch
are served. -/
def execMapCommit (s : State) : Res :=
  .next (
    match s.rmx.writing with
    | none => s
    | some w =>
      if !serving s then s
      else
        let s1 : State := { s with rmx := { s.rmx with epoch := w.epoch, retiring := some (now s + 1000000), writing := none } }
        let s2 := match tget s1.cmds w.key with
          | some c => finish c .ok (mapResult w) s1
          | none => s1
        showRmx (replayLostGfa (serveHeld s2)))

/-- The entries after a retirement (R304). -/
def retireEnts (t : Table RmxEnt) : Table RmxEnt := tmap (tfilter t fun _ e => !e.dying) fun _ e => { e with born := false }

/-- The retiring epoch retires, and the next update has its turn. -/
def retireEpoch (s : State) : State :=
  let s1 : State := { s with rmx := { s.rmx with ents := retireEnts s.rmx.ents, retiring := none } }
  mapTurn 5000 (showRmx (cntAdd rmxBorrowed 1 (cntAdd rmxRetires 1 s1)))

/-- EPOCH_RETIRE (R304): no reference is left. -/
def execEpochRetire (s : State) : Res :=
  .next (if s.rmx.retiring.isNone ∨ oldRefs s ≠ 0 ∨ !serving s then s else retireEpoch s)

/-- EPOCH_FORCED_RETIRE (R304): 1 ms after the commit. -/
def execEpochForcedRetire (s : State) : Res :=
  .next (
    match s.rmx.retiring with
    | none => s
    | some due =>
      if !serving s then s
      else
        let s1 := setValBits 0x500004 2 1 1 (retireEpoch (advanceTo due s))
        post { cls := 8, code := 3 } (cntAdd rmxForced 1 s1))

end Sys2Proof.Machine
end

