-- ==== Sys2Proof/Machine/Owner.lean ====
section
/-! DEFINITION. Ownership (R332 to R337) and operator credentials (R393, R394): claims and their election, the lease, passing
the deal, and what every change of owner does. Times of ownership are MSS times. -/

namespace Sys2Proof.Machine

open Sys2Proof

/-! ## Credentials (R393, R394) -/

/-- SEC_CHALLENGE as its registers hold it. -/
def challenge (s : State) : List Byte := (List.range 4).flatMap fun i => leBytes 4 (valW s (0xA00100 + 4 * i)).toNat

/-- Draw a new SEC_CHALLENGE; the former value stays valid until the next draw (R393, R394). -/
def drawChallenge (s : State) : State :=
  let b := Config.drbg s.freeCnt 16
  let s1 := stepFree { s with sec := { s.sec with prevChallenge := challenge s, drawn := s.clk.mss } }
  forEach (List.range 4) (fun i s => setVal (0xA00100 + 4 * i) (BitVec.ofNat 32 (fld b (4 * i) 4)) s) s1

/-- Operator key k in force (R394). -/
def opKey (s : State) (k : Nat) : List Byte := actBytes s (0xA00400 + 0x20 * k) 8

/-- The credential is valid for the master that presents it (R393). -/
def credentialOk (s : State) (m : Nat) (cred : List Byte) : Bool :=
  let ch := slice cred 16 16
  let key := slice cred 32 32
  cred.length == 17152 && fld cred 0 1 == 2 && fld cred 1 1 == m && fld cred 8 8 == Config.serial.toNat
    && (ch == challenge s || ch == s.sec.prevChallenge)
    && !allZero key && (List.range 8).any (fun k => opKey s k == key)
    && Config.slhVerify key (slice cred 0 64) (slice cred 64 17088)

/-! ## The owner's registers and a change of owner (R336, R337) -/

/-- A lease, and a pass, last 2 s. -/
def leaseNs : Nat := 2000000000

/-- NODE_OWN_STS shows STATE, OWNER and PASS_TO; SELF and LEASE_MS are formed when it is read. -/
def showOwn (s : State) : State :=
  let code := match s.own.state with
    | .none => 0
    | .owned => 1
    | .passing => 2
  setVal 0x40 (BitVec.ofNat 32 (code + 4 * (if code = 0 then 0 else s.own.owner) + 64 * (if code = 2 then s.own.passTo else 0))) s

/-- NODE_OWN_RES holds the status of the PF's last claim or pass. -/
def setOwnRes (st : Status) (s : State) : State := setVal 0x58 (BitVec.ofNat 32 (st.code + 2 ^ 16)) s

/-- A claim's outcome goes to its master: NODE_OWN_RES, or RESULT. -/
def answerClaim (m : Nat) (tag : BitVec 32) (st : Status) (s : State) : State :=
  if m = 0 then setOwnRes st s else sendMgmt m 0x81 tag (leBytes 2 st.code) s

/-- The masters that a node-wide message reaches: the BMC and every master with a session. -/
def listeners (s : State) : List Nat := ((9 :: s.mgmt.sessions.map (·.1)).eraseDups).mergeSort (· ≤ ·)

/-- OWNER_CHANGE goes to every master and once to the log (R336). -/
def postOwnerChange (s : State) : State :=
  let e : Event := { cls := 8, code := 1, time := now s }
  let s1 := deliverEv 0 e (addLog (fun q => .event q e) s)
  forEach (listeners s1) (fun m s => sendMgmt m 0x83 0 (eventBytes 0 0 e) s) s1

/-- The owner changes: every pending set of the owner's bank is discarded, and the event goes out (R336). -/
def changeOwner (o : Ownership) (s : State) : State :=
  postOwnerChange (showOwn { s with own := o, regs := { s.regs with pend := [] } })

/-- `m` becomes the owner with a new lease. -/
def takeDeal (m : Nat) (s : State) : State :=
  changeOwner { state := .owned, owner := m, lease := s.clk.mss + leaseNs } s

/-- The owner's lease is renewed (R334). -/
def renewLease (s : State) : State := { s with own := { s.own with lease := s.clk.mss + leaseNs } }

/-- A CLAIM entry of the log: 1 won, 2 renewed, 3 rejected (R433). -/
def logClaim (m how : Nat) (st : Status) (s : State) : State := logMgmt 0x81 1 st { b0 := m, b1 := how } s

/-- A PASS entry of the log: 1 started, 2 acknowledged, 3 cancelled, 4 timed out (R433). -/
def logPass (how : Nat) (s : State) : State :=
  logMgmt 0x81 2 .ok { b0 := s.own.owner, b1 := s.own.passTo, h0 := how } s

/-! ## Claims (R333, R335) -/

/-- Master `m` presents a credential. -/
def claim (m : Nat) (tag : BitVec 32) (cred : List Byte) (s : State) : State :=
  if !credentialOk s m cred then answerClaim m tag .accessViolation (logClaim m 3 .accessViolation s)
  else
    let s := drawChallenge s
    match s.own.state with
    | .none =>
      let cl := s.own.claims.filter (·.1 != m) ++ [(m, tag)]
      let s1 : State := { s with own := { s.own with claims := cl, window := some (s.own.window.getD (s.clk.mss + 100000)) } }
      if m = 0 then setVal 0x58 0 s1 else s1
    | .owned =>
      if m = s.own.owner then answerClaim m tag .ok (logClaim m 2 .ok (renewLease s))
      else answerClaim m tag .notOwner (logClaim m 3 .notOwner s)
    | .passing =>
      if m = s.own.passTo then answerClaim m tag .ok (takeDeal m (logClaim m 1 .ok (logPass 2 s)))
      else if m = s.own.owner then answerClaim m tag .ok (logClaim m 2 .ok (renewLease s))
      else answerClaim m tag .notOwner (logClaim m 3 .notOwner s)

/-- Class of a master for PRIO: PF, Ethernet, MCTP, fabric (R337). -/
def masterClass (m : Nat) : Nat := if m = 0 then 0 else if m ≤ 8 then 1 else if m = 9 then 2 else 3

/-- PRIO of a master's class. -/
def masterPrio (s : State) (m : Nat) : Nat := valBits s 0x4C (4 * masterClass m) 4

/-- The master that wins among verified claims: higher PRIO first, then the lower number (R333). -/
def electMaster (s : State) (ms : List Nat) : Option Nat :=
  ms.foldl (fun best m => match best with
    | none => some m
    | some b =>
      if masterPrio s b < masterPrio s m ∨ (masterPrio s b = masterPrio s m ∧ m < b) then some m else some b) none

/-- The claim window closes: the winner owns the node, the others are answered ST_NOT_OWNER. -/
def closeWindow (s : State) : State :=
  match s.own.window with
  | none => s
  | some t =>
    let s1 := advanceMss t s
    match electMaster s1 (s1.own.claims.map (·.1)) with
    | none => { s1 with own := { s1.own with window := none, claims := [] } }
    | some w =>
      forEach s1.own.claims (fun (m, tag) s =>
          if m = w then answerClaim m tag .ok (logClaim m 1 .ok s)
          else answerClaim m tag .notOwner (logClaim m 3 .notOwner s))
        (takeDeal w s1)

/-- CLAIM_WINDOW_CLOSE (R333). -/
def execClaimWindowClose (s : State) : Res := .next (closeWindow s)

/-! ## Writes of the ownership registers -/

/-- A write of an ownership register, where it is served (R423); a VF has no such register (R312). -/
def ownWrite (w : Writer) (off : Nat) (f : Nat → State → State) (s : State) : State :=
  match masterOf w with
  | none => if serving s then rejectWrite w off .accessViolation s else s
  | some m => if !servedWrite s off ∨ (w = .pf ∧ !mainOn s) then s else f m s

/-- The write of an ownership register by a master that is not the owner (R332). -/
def refuseOwn (w : Writer) (off : Nat) (s : State) : State := rejectWrite w off .notOwner s

/-- NODE_OWN_CLAIM (R333): the PF's claim. The register names the PF's DMA space, so no other master claims by it. -/
def writeClaim (w : Writer) (cred : List Byte) (s : State) : State :=
  ownWrite w 0x50 (fun m s => if m = 0 then claim 0 0 cred s else rejectWrite w 0x50 .accessViolation s) s

/-- NODE_OWN_CLAIM (R333). `cred` is what the node reads at the address. -/
def execNodeOwnClaim (w : Writer) (_addr : BitVec 64) (cred : List Byte) (s : State) : Res := .next (writeClaim w cred s)

/-- NODE_OWN_HB renews the owner's lease (R334). -/
def writeHb (w : Writer) (s : State) : State :=
  ownWrite w 0x44 (fun m s => if ownerIs s m then renewLease s else refuseOwn w 0x44 s) s

/-- NODE_OWN_HB (R334). -/
def execNodeOwnHb (w : Writer) (s : State) : Res := .next (writeHb w s)

/-- The PF's pass leaves its status in NODE_OWN_RES. -/
def passRes (w : Writer) (st : Status) (s : State) : State := if w = .pf then setOwnRes st s else s

/-- NODE_OWN_PASS with a target: the deal is offered for 2 s; the old owner stays owner (R335). -/
def writePass (w : Writer) (target : Nat) (s : State) : State :=
  ownWrite w 0x48 (fun m s =>
    if !ownerIs s m then passRes w .notOwner (refuseOwn w 0x48 s)
    else passRes w .ok (showOwn (logPass 1
      { s with own := { s.own with state := .passing, passTo := target, passDue := s.clk.mss + leaseNs } }))) s

/-- NODE_OWN_PASS (R335). -/
def execNodeOwnPass (w : Writer) (target : BitVec 4) (s : State) : Res := .next (writePass w target.toNat s)

/-- The pass ends and STATE returns to OWNED. -/
def endPass (how : Nat) (s : State) : State :=
  showOwn { logPass how s with own := { s.own with state := .owned, passTo := 0, passDue := 0 } }

/-- NODE_OWN_PASS with CANCEL (R335). -/
def writePassCancel (w : Writer) (s : State) : State :=
  ownWrite w 0x48 (fun m s =>
    if !ownerIs s m then passRes w .notOwner (refuseOwn w 0x48 s)
    else passRes w .ok (if s.own.state = .passing then endPass 3 s else s)) s

/-- NODE_OWN_PASS_CANCEL (R335). -/
def execNodeOwnPassCancel (w : Writer) (s : State) : Res := .next (writePassCancel w s)

/-- PASS_TIMEOUT (R335): 2 s pass without a valid claim of the target. -/
def execPassTimeout (s : State) : Res :=
  .next (if s.own.state = .passing then endPass 4 (advanceMss s.own.passDue s) else s)

/-- OWNER_LEASE_LAPSE (R334): the node has no owner and the election reopens. The lease does not run while the MSS restarts
(R436). -/
def execOwnerLeaseLapse (s : State) : Res :=
  .next (
    if hasOwner s ∧ s.mgmt.mssRunning then
      let s1 := advanceMss s.own.lease s
      changeOwner {} (logMgmt 0x81 3 .ok { b0 := s.own.owner } s1)
    else s)

/-- SEC_CHALLENGE_REFRESH (R394): 60 s since the last draw. -/
def execSecChallengeRefresh (s : State) : Res :=
  .next (
    if s.mgmt.st = .off then s else drawChallenge (advanceMss (s.sec.drawn + 60000000000) s))

end Sys2Proof.Machine
end

