-- ==== Sys2Proof/Machine/Tap.lean ====
section
/-! DEFINITION. The node's tap queue (R406 to R413): placing records, records held while every entry is taken, and levels. -/

namespace Sys2Proof.Machine

open Sys2Proof

/-- Entries of the tap queue. -/
def tapSize : Nat := 4096

/-- Entries that COUNT and periodic LEVEL records may fill (R409). -/
def tapShared : Nat := 3968

/-- A record joins the tap queue with the next TAP_SEQ. -/
def tapPut (typ part res value : Nat) (s : State) : State :=
  { s with tap := { s.tap with
      queue := s.tap.queue ++ [{ typ := typ, part := part, res := res, seq := s.tap.seq, value := value % 2 ^ 64 }]
      seq := s.tap.seq + 1 } }

/-- An entry is free. -/
def tapFree (s : State) : Bool := decide (s.tap.queue.length < tapSize)

/-- The level of a partition (R406). -/
def levelOf (s : State) (p : Nat) : Nat := if pstate s p = 0 then 0 else partGranules s p

/-- A LEVEL record at once, or held as the partition's pending level (R406, R409). -/
def putLevel (p n : Nat) (s : State) : State :=
  if tapFree s then tapPut 2 p 0 n s else { s with tap := { s.tap with heldLevel := tset s.tap.heldLevel p n } }

/-- The level of a partition has changed. -/
def levelChanged (p : Nat) (s : State) : State :=
  putLevel p (levelOf s p) s

/-- A HALT or RESUME record at once, or held to be placed first (R409). -/
def putHalt (typ : Nat) (s : State) : State :=
  if tapFree s then tapPut typ 0 0 0 s else { s with tap := { s.tap with heldHalt := s.tap.heldHalt ++ [typ] } }

/-- Entries have freed: held HALT and RESUME records first, then pending levels (R409). -/
def placeHeld : Nat → State → State
  | 0, s => s
  | fuel + 1, s =>
    if !tapFree s then s
    else match s.tap.heldHalt, s.tap.heldLevel with
      | t :: rest, _ => placeHeld fuel (tapPut t 0 0 0 { s with tap := { s.tap with heldHalt := rest } })
      | [], (p, n) :: rest => placeHeld fuel (tapPut 2 p 0 n { s with tap := { s.tap with heldLevel := rest } })
      | [], [] => s

/-- Nonzero accumulators of partition p. -/
def dueCounts (s : State) (p : Nat) : List Nat := (List.range 12).filter fun r => tgetD s.tap.acc (12 * p + r) 0 != 0

/-- Flush accumulator r of partition p as a COUNT record, where the queue has a shared entry (R407, R409). -/
def flushCount (p r : Nat) (s : State) : State :=
  let n := tgetD s.tap.acc (12 * p + r) 0
  if n = 0 ∨ tapShared ≤ s.tap.queue.length then s
  else tapPut 1 p r n { s with tap := { s.tap with acc := tdel s.tap.acc (12 * p + r) } }

end Sys2Proof.Machine
end

