-- ==== Sys2Proof/Machine/Sec.lean ====
section
/-! DEFINITION. Keys, release, the debug path, operand traces, the EXPERT window and attestation (R374 to R392, R425). -/

namespace Sys2Proof.Machine

open Sys2Proof

/-! ## Partition records -/

/-- A register word: staged bits from the active bank, the others as they stand. -/
def regNow (s : State) (off : Nat) : Nat :=
  let m := (regSpec off).st
  ((actW s off).toNat &&& m) ||| ((valW s off).toNat &&& (allBits - m))

/-- SEC_PART[p] as its 128 bytes (R368). -/
def partRecord (s : State) (p : Nat) : List Byte :=
  (List.range 32).flatMap fun k => leBytes 4 (regNow s (0xA01000 + 0x80 * p + 4 * k))

/-- PINST of a partition. -/
def pinst (s : State) (p : Nat) : Nat := (valW s (0xA01004 + 0x80 * p)).toNat

/-- Set PSTATE of a partition. -/
def setPstate (p st : Nat) (s : State) : State := setValBits (0xA01000 + 0x80 * p) 0 8 st s

/-- KEYS of a partition shows its slots. -/
def showKeys (p : Nat) (s : State) : State :=
  let m := sumN ((List.range 16).map fun i => if (tget s.sec.slots (16 * p + i)).isSome then 2 ^ i else 0)
  setValBits (0xA01024 + 0x80 * p) 0 16 m s

/-- Set the TOUCHED bits of partitions (R385). -/
def touch (ps : List Nat) (s : State) : State :=
  setVal64 0xA00120 (ps.foldl (fun m p => m ||| 2 ^ p) (val64 s 0xA00120)) s

/-! ## KEY_IMPORT (R374 to R377) -/

/-- SLOT, KIND, SRC, WBASE and WLEN of the descriptor. -/
def keySlotOf (c : Cmd) : Nat := fld c.desc 8 2
def keyKind (c : Cmd) : Nat := fld c.desc 10 1
def keySrc (c : Cmd) : Nat := fld c.desc 16 8
def keyBase (c : Cmd) : Nat := fld c.desc 24 8
def keyLen (c : Cmd) : Nat := fld c.desc 32 8

/-- The partition of a slot; 64 for the owner domain. -/
def slotPart (k : Nat) : Nat := k / 16

/-- PCIe ranges that an admitted command names for its data. -/
def dmaRanges (s : State) (c : Cmd) : List (Nat × Nat) :=
  let at_ (o n : Nat) : List (Nat × Nat) := if isGfa (fld c.desc o 8) ∨ isScratch c (fld c.desc o 8) then [] else [(fld c.desc o 8, n)]
  match c.op, c.work with
  | 0x10, .attend r =>
    let m := slotOf s r.snap.mslot
    let (_, _, n) := blockLayout m c r.hooks
    at_ 40 n ++ at_ 48 (attendOut m c) ++ at_ 56 (posBytes m (attendKvCount c))
  | 0x11, _ => at_ 24 (queryBytes (slotOf s (getSeq s (seqOf c)).mslot) (attendLayers c) (attendRows c) (selectFlag c 1))
  | 0x18, _ => at_ 24 (posBytes (slotOf s (getSeq s (seqOf c)).mslot) (ladleN c))
  | 0x20, _ => at_ 32 (searchCount c * queryStep (idxCfg s (idxOf c))) ++ at_ 40 (16 * searchK c * searchCount c)
  | 0x21, _ => at_ 24 (vecBytes (idxCfg s (idxOf c)))
  | 0x23, _ => at_ 16 (8192 * pubCount c)
  | 0x30, _ => at_ 16 (rmaLen c)
  | _, _ => []

/-- The slot serves a connection that is not FREE, or the DMA of an admitted command (R377 check 5). -/
def slotBusy (s : State) (k : Nat) : Bool :=
  (tany s.rma.conns fun _ x => x.state != .free && x.enc && x.keySlot == k)
    || (match tget s.sec.slots k with
        | none => false
        | some w => w.kind == 2 && tany s.cmds fun _ e => e.phase == .running && e.part == slotPart k
            && (dmaRanges s e).any fun (a, n) => touchesWindow w a n)

/-- A window of the same partition, in another slot, overlaps the one imported. -/
def windowOverlap (s : State) (c : Cmd) : Bool :=
  (List.range 16).any fun i =>
    let k := 16 * slotPart (keySlotOf c) + i
    k != keySlotOf c && (match tget s.sec.slots k with
      | some w => w.kind == 2 && touchesWindow w (keyBase c) (keyLen c)
      | none => false)

/-- Checks 2 to 5 of R377, and the range of SRC (R313). -/
def keyStatus (s : State) (c : Cmd) : Status :=
  let k := keySlotOf c
  let kind := keyKind c
  let mine := slotPart k == c.part || (slotPart k == 64 && ownerRing s c.ring)
  let winOk := keyBase c % 4096 == 0 && keyLen c % 4096 == 0 && decide (4096 ≤ keyLen c) && decide (keyLen c ≤ 2 ^ 40)
    && decide (keyBase c + keyLen c ≤ 2 ^ 62)
  let fields := decide (kind ≤ 2) && allZero (slice c.desc 11 5) && allZero (slice c.desc 40 24)
    && (if kind = 2 then winOk else keyBase c == 0 && keyLen c == 0) && (kind != 0 || keySrc c == 0)
  firstBad [
    failIf (!mine) .accessViolation,
    failIf (!fields) .illegalValue,
    if kind = 0 then .ok else checkAddr s c (keySrc c) 1184,
    failIf (kind == 2 && windowOverlap s c) .illegalCombination,
    failIf (slotBusy s k) .busy]

/-- The 64-byte binding record (R376). -/
def bindingRecord (s : State) (c : Cmd) : List Byte :=
  let p := slotPart (keySlotOf c)
  leBytes 8 Config.serial.toNat ++ leBytes 4 (if p = 64 then 0 else pinst s p) ++ leBytes 1 (if p = 64 then 0xFF else p)
    ++ leBytes 1 (keyKind c) ++ leBytes 2 (keySlotOf c) ++ Config.sha256 (Config.blob 1 s.sec.keyGen) ++ leBytes 8 (keyBase c)
    ++ leBytes 8 (keyLen c)

/-- The import block is here (R376, R377 check 6): the key goes into its slot. -/
def keyInput (c : Cmd) (g : Got) (s : State) : State :=
  match g with
  | .wait => s
  | .fail st => finish c st 0 s
  | .now b =>
    let key := if s.sec.keysGone then none else Config.unwrapKey s.sec.keyGen (bindingRecord s c) b
    match keyStatus s c, key with
    | .ok, some k =>
      if keyKind c = 1 ∧ !allZero (slice k 32 32) then finish c .authFailed 0 s
      else
        let e : KeySlot := { kind := keyKind c, key := if keyKind c = 1 then slice k 0 32 else slice k 0 64,
                             wbase := keyBase c, wlen := keyLen c }
        let s1 : State := { s with sec := { s.sec with slots := tset s.sec.slots (keySlotOf c) e } }
        finish c .ok (keySlotOf c) (if slotPart (keySlotOf c) < 64 then showKeys (slotPart (keySlotOf c)) s1 else s1)
    | .ok, none => finish c .authFailed 0 s
    | st, _ => finish c st 0 s

/-- An import is admitted. -/
def admitImport (c : Cmd) (s : State) : State :=
  match keyStatus s c with
  | .ok =>
    let s1 := admitCmd c .none s
    let c1 := (getCmd s1 c.ring c.rseq).getD c
    match startRead c1 (keySrc c) 1184 s1 with
    | (.wait, s2) => s2
    | (g, s2) => keyInput c1 g s2
  | st => endAtAdmission c st 0 s

/-- ERASE is admitted: the slot is zeroed and its KEYS bit cleared. -/
def admitErase (c : Cmd) (s : State) : State :=
  match keyStatus s c with
  | .ok =>
    let s1 := admitCmd c .none s
    let s2 : State := { s1 with sec := { s1.sec with slots := tdel s1.sec.slots (keySlotOf c) } }
    finish ((getCmd s1 c.ring c.rseq).getD c) .ok (keySlotOf c)
      (if slotPart (keySlotOf c) < 64 then showKeys (slotPart (keySlotOf c)) s2 else s2)
  | st => endAtAdmission c st 0 s

/-- KEY_IMPORT_FABRIC (R377). A reserved KIND goes with this row, and fails its check. -/
def execKeyImportFabric (ring : Nat) (rseq : BitVec 32) (s : State) : Res :=
  .next (admitting ring rseq (fun c => c.op == 0x61 && keyKind c != 0 && keyKind c != 2) admitImport s)

/-- KEY_IMPORT_WINDOW (R377). -/
def execKeyImportWindow (ring : Nat) (rseq : BitVec 32) (s : State) : Res :=
  .next (admitting ring rseq (fun c => c.op == 0x61 && keyKind c == 2) admitImport s)

/-- KEY_ERASE (R377). -/
def execKeyErase (ring : Nat) (rseq : BitVec 32) (s : State) : Res :=
  .next (admitting ring rseq (fun c => c.op == 0x61 && keyKind c == 0) admitErase s)

/-! ## Attestation (R389 to R392) -/

/-- Digest of the image in a slot; that of an image the module shipped with is open. -/
def fwDigest (s : State) (cls slot : Nat) : List Byte :=
  let f := fwSlot s cls slot
  if f.digest.isEmpty then Config.sha256 (Config.blob (32 + 2 * cls + slot) 0) else f.digest

/-- A digest entry (R392). -/
def digestEntry (cls idx slot svn version : Nat) (d : List Byte) : List Byte :=
  leBytes 1 cls ++ leBytes 1 idx ++ leBytes 1 slot ++ leBytes 1 svn ++ leBytes 4 version ++ slice d 0 32

/-- The 25 digest entries in ascending class and index. Those of the Assay are its own. -/
def digests (s : State) : List Byte :=
  let of (cls : Nat) : List Byte :=
    let f := fwSlot s cls (actSlot s cls)
    digestEntry cls 0 (actSlot s cls) f.svn f.version (fwDigest s cls (actSlot s cls))
  let cru (p : Nat) : List Byte :=
    let f := fwSlot s 7 (actSlot s 7)
    let v := valBits s (0x602104 + 16 * p) 0 16
    match crucImage s v with
    | some i => digestEntry 7 p (actSlot s 7) i.svn v i.digest
    | none => digestEntry 7 p (actSlot s 7) f.svn v (fwDigest s 7 (actSlot s 7))
  digestEntry 0 0 0xFF 0 0 (Config.sha256 (Config.blob 10 0)) ++ ([1, 2, 3, 4, 5, 6].flatMap of) ++ ((List.range 16).flatMap cru)
    ++ digestEntry 8 0 0xFF 0 0 (Config.sha256 (Config.blob 11 0))
    ++ digestEntry 9 0 s.assay.patchSlot s.assay.patchSvn s.assay.patchVer
      (if s.assay.patchDigest.isEmpty then Config.sha256 (Config.blob 12 0) else s.assay.patchDigest)

/-- The certificate chain (R388). -/
def certChain (s : State) : List Byte := (Config.blob 2 s.sec.keyGen).take 18496

/-- LAYOUT: every partition record. -/
def layoutBytes (s : State) : List Byte := (List.range 64).flatMap (partRecord s)

/-- The report body (R391). -/
def reportBody (s : State) (c : Cmd) (node : Bool) : List Byte :=
  let ds := digests s
  let dbg := valW s 0xA00128
  leBytes 1 2 ++ leBytes 1 (b2n node) ++ leBytes 2 (352 + ds.length) ++ leBytes 2 (ds.length / 40) ++ zeros 2
    ++ leBytes 8 Config.serial.toNat ++ slice c.desc 16 32 ++ leBytes 8 (now s) ++ leBytes 4 s.sec.coldResets
    ++ leBytes 4 s.sec.warmResets ++ Config.sha256 (Config.blob 9 0) ++ Config.sha256 (certChain s)
    ++ Config.sha256 (Config.blob 1 s.sec.keyGen) ++ leBytes 1 (valBits s 0xA00644 0 8) ++ leBytes 1 s.mgmt.st.code ++ zeros 2
    ++ (zeros 1 ++ (List.range 7).flatMap fun i => leBytes 1 (valBits s (0xA00604 + 4 * i) 0 7))
    ++ leBytes 1 (actBits s 0xA00640 0 4) ++ leBytes 1 (dbg.toNat % 8) ++ leBytes 1 (bits dbg.toNat 8 6) ++ zeros 1
    ++ leBytes 8 (val64 s 0xA00130)
    ++ leBytes 8 (if node then val64 s 0xA00120 else val64 s 0xA00120 &&& 2 ^ c.part)
    ++ (if node then Config.sha256 (layoutBytes s) else zeros 32) ++ (if node then zeros 128 else partRecord s c.part) ++ ds

/-- The output at DEST (R390), padded with zeros. -/
def reportBytes (s : State) (c : Cmd) (node : Bool) : List Byte :=
  let body := reportBody s c node
  let chain := certChain s
  let head := leBytes 4 body.length ++ leBytes 4 17088 ++ leBytes 4 1184 ++ leBytes 4 chain.length
    ++ leBytes 4 (if node then 8192 else 0) ++ zeros 44
  slice (head ++ slice body 0 4096 ++ slice (Config.slhSign (2 + s.sec.keyGen) body) 0 17088
    ++ slice (Config.blob 1 s.sec.keyGen) 0 1216 ++ slice chain 0 18496) 0 40960 ++ if node then layoutBytes s else []

/-- SCOPE of an ATTEST. -/
def attestNode (c : Cmd) : Bool := bit (fld c.desc 8 4) 0

/-- ATTEST is admitted: every value is captured at this instant, signed and written. -/
def admitAttest (c : Cmd) (s : State) : State :=
  let node := attestNode c
  let st := firstBad [
    failIf (node && !(ownerRing s c.ring && c.part == 0)) .notOwner,
    failIf (decide (2 ≤ fld c.desc 8 4) || !allZero (slice c.desc 12 4) || !allZero (slice c.desc 56 8)) .illegalValue,
    checkAddr s c (fld c.desc 48 8) (if node then 49152 else 40960),
    failIf (!node && !partActive s c.part) .wrongState]
  if st ≠ .ok then endAtAdmission c st 0 s
  else
    let s1 := admitCmd c .none s
    deliver ((getCmd s1 c.ring c.rseq).getD c) (fld c.desc 48 8) (reportBytes s c node) .ok 0 s1

/-- ATTEST (R389). -/
def execAttest (ring : Nat) (rseq : BitVec 32) (s : State) : Res :=
  .next (admitting ring rseq (fun c => c.op == 0x60) admitAttest s)

/-! ## Release (R380 to R382, R413) -/

/-- A task of a deck image names partition p. -/
def deckNames (d : Option DeckImage) (p : Nat) : Bool := match d with
  | some d => d.tasks.any fun t => fld t.desc 2 2 % 64 == p
  | none => false

/-- Checks 2 to 5 of R380; `none` where nothing is left to do and the command succeeds. -/
def releaseStatus (s : State) (c : Cmd) : Option Status :=
  let p := c.part
  let fresh := pinst s p == fld c.desc 12 4
  if 2 ≤ fld c.desc 8 4 ∨ !allZero (slice c.desc 16 48) then some .illegalValue
  else if pstate s p = 0 ∧ fresh then none
  else if pstate s p = 0 ∨ !fresh then some .wrongState
  else if (tany s.rmx.ents fun _ e => e.part == p) ∨ deckNames s.deck.active p ∨ deckNames s.deck.pend p then some .busy
  else some .ok

/-- A command acts for partition p: not a RELEASE, nor one of the owner domain. -/
def actsFor (s : State) (p : Nat) (c : Cmd) : Bool := c.part == p && c.op != 0x62 && !ownerDomain s c

/-- Step 1: RELEASING; the accepted commands that are not admitted complete with ST_WRONG_STATE. -/
def beginRelease (c : Cmd) (s : State) : State :=
  let p := c.part
  let s1 := setPstate p 2 { s with sec := { s.sec with
    releases := tset s.sec.releases p { key := cmdKey c.ring c.rseq, verify := bit (fld c.desc 8 4) 0 } } }
  forEach ((s1.cmds.filter fun (_, e) => actsFor s1 p e && admissible e).map (·.2)) (fun e s => finish e .wrongState 0 s) s1

/-- A RELEASE that is admitted and waits for no other is checked and starts, or ends. -/
def checkRelease (c : Cmd) (s : State) : State :=
  match releaseStatus s c with
  | none => finish c .ok 0 s
  | some .ok => beginRelease c s
  | some st => finish c st 0 s

/-- RELEASE is admitted: behind an earlier release of the partition it waits. -/
def admitRelease (c : Cmd) (s : State) : State :=
  let s1 := admitCmd c .none s
  let c1 := (getCmd s1 c.ring c.rseq).getD c
  if (tget s.sec.releases c.part).isSome then
    (if 2 ≤ fld c.desc 8 4 ∨ !allZero (slice c.desc 16 48) then finish c1 .illegalValue 0 s1 else s1)
  else checkRelease c1 s1

/-- RELEASE (R380). -/
def execRelease (ring : Nat) (rseq : BitVec 32) (s : State) : Res :=
  .next (admitting ring rseq (fun c => c.op == 0x62) admitRelease s)

/-- The connections of a partition that are not FREE. -/
def connsOf (s : State) (p : Nat) : List (Nat × Conn) := s.rma.conns.filter fun (_, x) => !x.mgmt && x.part == p && x.state != .free

/-- Close the partition's connections: those without an operation are FREE at once, the others when theirs end. -/
def closeConns (p : Nat) (s : State) : State :=
  forEach (connsOf s p) (fun (k, x) s =>
    let s1 := if x.state = .closing then s else connLeft k (modConn k (fun x => { x with state := .closing }) s)
    if (getConn s1 k).ops.isEmpty then freeConn k s1 else s1) s

/-- Step 2 but for the connections: regions, sync counters, indexes, sequences and retention records go; pages held for other
homes lie in the partition's memory and go with it. -/
def clearObjects (p : Nat) (s : State) : State :=
  let s1 : State := { s with rma := { s.rma with
    regions := tmap s.rma.regions fun i r => if r.used && r.part == p && i != 65535 then { gen := r.gen } else r } }
  let s2 := forEach ((s1.rma.counters.map (·.1)).filter (cntOwned s1 p)) (fun i s =>
    setAct (0x480000 + 8 * i) (BitVec.ofNat 32 (putBits (cntCfg s i) 6 1 0))
      { s with rma := { s.rma with counters := tdel s.rma.counters i } }) s1
  let s3 := forEach ((List.range 64).filter fun n => (idxCfg s2 n).valid && (idxCfg s2 n).part == p) (fun n s =>
    let o := 0x801000 + 0x40 * n
    showIndex n (setAct o (BitVec.ofNat 32 (putBits (actW s o).toNat 0 1 0))
      { s with walk := { s.walk with
          indexes := tdel s.walk.indexes n
          caches := tmap s.walk.caches fun _ l => l.filter fun (i, _, _) => i != n } })) s2
  let s4 := forEach ((s3.seqs.filter fun (_, q) => q.state != .free && q.part == p).map (·.1)) freeSeq s3
  { s4 with retained := s4.retained.filter (fun r => r.part != p), shards := s4.shards.filter fun (q, _) => q != p }

/-- Step 3 (R382, R386): the units' halves are zeroed, and the partition's trace records go. -/
def invalidate (p : Nat) (s : State) : State :=
  let old := s.sec.trace.drop s.sec.traceNext ++ s.sec.trace.take s.sec.traceNext
  let s1 : State := { s with
    mem := { s.mem with units := tmap s.mem.units fun _ u => { u with opnd0 := [], opnd1 := [], res0 := [], res1 := [] } }
    sec := { s.sec with trace := old.filter (fun r => bits (fld r 18 1) 1 6 != p), traceNext := 0 } }
  showTrace s1

/-- RELEASE_PROCEED (R381): nothing of the partition is admitted, so its connections close; once they are FREE, its objects are
cleared, its lines invalidated and the fills launched. -/
def execReleaseProceed (p : Nat) (s : State) : Res :=
  .next (
    match tget s.sec.releases p with
    | none => s
    | some r =>
      if r.filling ∨ !serving s ∨ (tany s.cmds fun _ e => actsFor s p e && e.phase == .running) then s
      else
        let s1 := closeConns p s
        if !(connsOf s1 p).isEmpty then s1
        else
          let s2 := invalidate p (clearObjects p s1)
          { s2 with sec := { s2.sec with releases := tset s2.sec.releases p { r with filling := true } } })

/-- The partition's memory is filled with zeros and fresh check symbols (R158). -/
def fillMemory (runs : List (Nat × Nat)) (s : State) : State :=
  let inside (a : Nat) : Bool := runs.any fun (f, n) => decide (f * 2 ^ 18 ≤ a) && decide (a < (f + n) * 2 ^ 18)
  { s with mem := { s.mem with cells := s.mem.cells.filter fun (a, _) => !inside a, err := tfilter s.mem.err fun b _ => !inside (32 * b) } }

/-- Step 5 has room: every accumulator of the partition can flush, then LEVEL and CLOSE have entries (R409, R413). -/
def releaseRoom (s : State) (p : Nat) : Bool :=
  let n := (dueCounts s p).length
  (n == 0 || decide (s.tap.queue.length + n ≤ tapShared)) && decide (s.tap.queue.length + n + 2 ≤ tapSize)

/-- Step 5: keys and TOUCHED go, metering closes, and the partition is FREE. Releases that waited behind are checked. -/
def endRelease (p failures : Nat) (r : RelRun) (s : State) : State :=
  let granules := partGranules s p
  let s1 : State := { s with sec := { s.sec with
    releases := tdel s.sec.releases p
    memKeys := tdel s.sec.memKeys p
    slots := tfilter s.sec.slots fun k _ => slotPart k != p } }
  let s2 := setVal64 0xA00120 (val64 s1 0xA00120 &&& (2 ^ 64 - 1 - 2 ^ p)) (showKeys p s1)
  let s3 := forEach (dueCounts s2 p) (flushCount p) s2
  let s4 := tapPut 4 p 0 (pinst s3 p) (tapPut 2 p 0 0
    { s3 with tap := { s3.tap with heldLevel := tdel s3.tap.heldLevel p } })
  let o := 0xA01000 + 0x80 * p
  let s5 := setAct o (BitVec.ofNat 32 (putBits (actW s4 o).toNat 8 1 0)) (setPstate p 0 s4)
  let s6 := match tget s5.cmds r.key with
    | some c => finish c .ok (granules % 2 ^ 32 + 2 ^ 32 * min failures 65535) s5
    | none => s5
  forEach ((s6.cmds.filter fun (_, e) => e.op == 0x62 && e.part == p && e.phase == .running).map (·.2))
    (fun e s => if (tget s.sec.releases p).isSome then s else checkRelease e s) s6

/-- A release whose fills have ended completes when the tap queue has room. -/
def finishRelease (p : Nat) (s : State) : State :=
  match tget s.sec.releases p with
  | none => s
  | some r => match r.ended with
    | some n => if releaseRoom s p then endRelease p n r s else s
    | none => s

/-- Every release that waits for the tap queue. -/
def finishReleases (s : State) : State := forEach (s.sec.releases.map (·.1)) finishRelease s

/-- MEMORY/FILL_VERIFY: a column that did not read back (R158). Which one is the node's to say. -/
def fillEvent (p i : Nat) (s : State) : State :=
  post { cls := 1, code := 4, part := some p, kind := 16, detail := .l 0 0xFFFF 0 0 (Config.freeNat (s.freeCnt + i) % memSize) } s

/-- RELEASE_FILL_DONE (R381): the fills end, with the number of columns that failed to read back. -/
def execReleaseFillDone (p : Nat) (failures : Nat) (s : State) : Res :=
  .next (
    match tget s.sec.releases p with
    | none => s
    | some r =>
      if !r.filling ∨ r.ended.isSome ∨ !serving s then s
      else
        let n := if r.verify ∨ actBits s 0x602000 2 1 = 1 then failures else 0
        let s1 := forEach (List.range n) (fillEvent p) (fillMemory (partRuns s p) s)
        finishRelease p { skipFree (n + 1) s1 with sec := { s1.sec with releases := tset s1.sec.releases p { r with ended := some n } } })

/-! ## The debug path (R384, R385) -/

/-- The partitions that the debug path reaches in a space, as far as the spec leaves it to the node: which lines and steps a part
holds is open (log entry 14). -/
def freeParts (s : State) : List Nat := (List.range 64).filter fun p => pstate s p != 0 && bit (Config.freeNat s.freeCnt) p

/-- The space and address are good. -/
def dbgAddrOk (space a : Nat) : Bool :=
  match space with
  | 0 => a % 64 == 0 && decide (a < memSize)
  | 1 => a % 64 == 0 && decide (a < 2 ^ 28)
  | 2 => a % 64 == 0 && decide (a < 18 * 2 ^ 21)
  | 3 => a % 64 == 0 && decide (a < 2 ^ 18)
  | 4 => decide (a < 2 ^ 24)
  | 5 => a % 64 == 0 && decide (a < 2 ^ 20)
  | _ => false

/-- The partitions whose data an access reaches (R385). -/
def dbgParts (s : State) (space a : Nat) : List Nat :=
  match space with
  | 0 => if a / 2 ^ 18 < 16384 then activeParts s else (granulePart s (a / 2 ^ 18)).toList
  | 3 => match physUnit s (a / 256) with
    | some u => if (getUnit s u).st = .idle then [] else freeParts s
    | none => []
  | 5 => (List.range 64).filter (bit (val64 s 0xA00218))
  | _ => freeParts s

/-- 64 bytes whose value the spec leaves open. -/
def freeBytes (s : State) : List Byte := (List.range 64).map (Config.freeByte s.freeCnt)

/-- The 64 bytes that an access reads. -/
def dbgBytes (s : State) (space a : Nat) : List Byte :=
  match space with
  | 0 => if mainOn s ∧ !rangeLost s a 64 then (List.range 64).map fun i => eccByte s (a + i) else freeBytes s
  | 3 => match physUnit s (a / 256) with
    | some u => slice (registerArea (getUnit s u) s.freeCnt) (a % 256) 64
    | none => freeBytes s
  | 5 => slice (s.sec.trace.getD (a / 64) []) 0 64
  | _ => freeBytes s

/-- An access writes its 64 bytes. What a write into the shared buffer, a tile buffer or an engine does is open. -/
def dbgStore (space a : Nat) (d : List Byte) (s : State) : State :=
  match space with
  | 0 => if mainOn s then writeMem a d s else s
  | 3 => match physUnit s (a / 256) with
    | some u => setUnit u (writeColumn (a % 256 / 32 + 1) (slice d 32 32) (writeColumn (a % 256 / 32) (slice d 0 32) (getUnit s u))) s
    | none => s
  | 5 => { s with sec := { s.sec with trace := s.sec.trace.set (a / 64) d } }
  | _ => s

/-- SEC_DBG_CTL shows WRITE, DONE and STATUS. -/
def dbgDone (write : Bool) (st : Status) (s : State) : State :=
  setVal 0xA00208 (BitVec.ofNat 32 (2 * b2n write + 4 + 8 * st.code)) s

/-- One access of the debug path by the owner. -/
def dbgAccess (w : Writer) (write : Bool) (s : State) : State :=
  if s.mgmt.st = .off ∨ (w = .pf ∧ !mainOn s) then s
  else match masterOf w with
    | none => if serving s then rejectWrite w 0xA00208 .accessViolation s else s
    | some m =>
      if !ownerIs s m then rejectWrite w 0xA00208 .notOwner s
      else
        let a := val64 s 0xA00200 % 2 ^ 48
        let space := bits (val64 s 0xA00200) 48 4
        let ps := dbgParts s space a
        if !dbgAddrOk space a then dbgDone write .illegalValue s
        else if ps.any fun p => pstate s p == 2 then dbgDone write .wrongState (stepFree s)
        else
          let s1 := setValBits 0xA00128 0 1 1 (touch ps s)
          if write then
            dbgDone write .ok (stepFree (dbgStore space a (bankBytes (valW s1) 0xA00240 16) s1))
          else
            let b := dbgBytes s1 space a
            dbgDone write .ok (stepFree (forEach (List.range 16) (fun i s =>
              setVal (0xA00240 + 4 * i) (BitVec.ofNat 32 (fld b (4 * i) 4)) s) s1))

/-- SEC_DBG_READ (R384). -/
def execSecDbgRead (w : Writer) (s : State) : Res := .next (dbgAccess w false s)

/-- SEC_DBG_WRITE (R384). -/
def execSecDbgWrite (w : Writer) (s : State) : Res := .next (dbgAccess w true s)

/-- Setting EN of SEC_TRACE_CTL clears the buffer and SEC_TRACE_PARTS, and capture starts (R386). -/
def writeTraceCtl (w : Writer) (v : Nat) (s : State) : State :=
  if s.mgmt.st = .off ∨ (w = .pf ∧ !mainOn s) then s
  else match masterOf w with
    | none => if serving s then rejectWrite w 0xA00210 .accessViolation s else s
    | some m =>
      if !ownerIs s m then rejectWrite w 0xA00210 .notOwner s
      else if 2 ^ 26 ≤ v then rejectWrite w 0xA00210 .illegalValue s
      else
        let s1 := setVal 0xA00210 (BitVec.ofNat 32 v) s
        if bit v 0 ∧ valBits s 0xA00210 0 1 = 0 then showTrace { s1 with sec := { s1.sec with trace := [], traceNext := 0 } } else s1

/-- SEC_TRACE_CTL_WRITE (R386). -/
def execSecTraceCtlWrite (w : Writer) (v : BitVec 32) (s : State) : Res := .next (writeTraceCtl w v.toNat s)

/-! ## The EXPERT window (R425) -/

/-- An access to the EXPERT window. What lies behind it is open; its use is recorded and touches every ACTIVE partition. -/
def expertAccess (w : Writer) (off : Nat) (write : Bool) (s : State) : State :=
  let st := s.mgmt.st
  match masterOf w with
  | none => if serving s ∧ write then rejectWrite w (0xD00000 + off) .accessViolation s else s
  | some m =>
    if st = .off ∨ st = .standby ∨ (w = .pf ∧ !mainOn s) then s
    else if !ownerIs s m then (if write then rejectWrite w (0xD00000 + off) .notOwner s else s)
    else if st = .ready ∨ st = .degraded then (if write then rejectWrite w (0xD00000 + off) .accessViolation s else s)
    else touch (activeParts s) (setValBits 0xA00128 1 1 1 s)

/-- EXPERT_WINDOW_ACCESS (R425). -/
def execExpertWindowAccess (w : Writer) (off : BitVec 20) (wr : Option (BitVec 32)) (s : State) : Res :=
  .next (expertAccess w off.toNat wr.isSome s)

end Sys2Proof.Machine
end

