-- ==== Sys2Proof/Machine/Assay.lean ====
section
/-! DEFINITION. Firmware images (R395, R396), the Assay (R401 to R420), the tap's flush and halt on the node's side, and the Assay's
own management port. -/

namespace Sys2Proof.Machine

open Sys2Proof

/-! ## Firmware images (R395, R396) -/

/-- Bytes of a firmware signature (SLH-DSA-SHA2-128s). -/
def fwSigLen : Nat := 7856

/-- Header and body of an image. -/
def fwBody (b : List Byte) : List Byte := b.take (128 + fld b 12 4)

/-- Check 1: IFMT, class, COMPAT, reserved fields, a length that fits, and an SVN of at most `svnMax`. -/
def fwHeaderOk (cls svnMax : Nat) (b : List Byte) : Bool :=
  fld b 0 1 == 2 && fld b 1 1 == cls && fld b 2 2 == 0 && fld b 6 2 == 0 && decide (fld b 8 1 ≤ svnMax) && decide (fld b 9 1 < 4)
    && fld b 10 2 == 0 && fld b 12 4 % 64 == 0 && b.length == 128 + fld b 12 4 + fwSigLen && fld b 48 4 == 0x02A1
    && allZero (slice b 52 76)

/-- Check 3: the body's hash, and the signature over the header. -/
def fwSigned (key : List Byte) (b : List Byte) : Bool :=
  Config.sha256 (slice b 128 (fld b 12 4)) == slice b 16 32 && Config.slhVerify key (slice b 0 128) (b.drop (128 + fld b 12 4))

/-- The checks of R396 for a class of the node: key revoked or SVN below the fuses is ST_ROLLBACK. -/
def imageStatus (s : State) (cls : Nat) (b : List Byte) : Status :=
  firstBad [
    failIf (!fwHeaderOk cls 64 b) .version,
    failIf (bit (actW s 0xA00640).toNat (fld b 9 1) || decide (fld b 8 1 < valBits s (0xA00600 + 4 * cls) 0 7)) .rollback,
    failIf (!fwSigned (Config.blob (5 + fld b 9 1) 0) b) .authFailed]

/-- The checks of R396 for an Assay patch, with the Assay's own fuses and the metrology authority's key (R417). -/
def patchStatus (s : State) (b : List Byte) : Status :=
  firstBad [
    failIf (!fwHeaderOk 9 32 b) .version,
    failIf (decide (fld b 8 1 < s.assay.fuseSvn)) .rollback,
    failIf (!fwSigned (Config.blob 13 0) b) .authFailed]

/-! ## Availability (R408) -/

/-- The Assay has power, and is not restarting on a patch. -/
def assayRuns (s : State) : Bool := s.pins.vstby && s.assay.patchPend.isNone

/-- The Assay is available to the node. -/
def assayAvail (s : State) : Bool := s.tap.ready && s.tap.beat && assayRuns s

/-- ASSAY_STS (R415). -/
def assaySts (s : State) : Nat :=
  b2n (assayAvail s) + 2 * b2n s.tap.halted + 4 * b2n s.assay.sealBroken + 8 * b2n (s.assay.patchVer != 0) + 65536 * (s.assay.patchVer % 65536)

/-! ## Statements (R414, R415) -/

/-- The body of a statement. -/
def stmtBody (s : State) (kind p : Nat) : List Byte :=
  let a := s.assay
  leBytes 1 2 ++ leBytes 1 kind ++ leBytes 1 p
    ++ leBytes 1 (b2n (a.gapFlag.contains p) + 2 * b2n (a.restartFlag.contains p) + 4 * b2n a.sealBroken + 8 * b2n (a.patchVer != 0))
    ++ leBytes 4 (tgetD a.pinst p 0) ++ leBytes 8 Config.serial.toNat ++ leBytes 8 (a.aseq + 1) ++ leBytes 8 a.nodeTime
    ++ leBytes 8 a.atime ++ leBytes 4 a.lost ++ leBytes 4 (tgetD a.gapMs p 0) ++ leBytes 4 a.patchVer ++ zeros 12
    ++ (List.range 12).flatMap (fun r => leBytes 8 (tgetD a.cnt (12 * p + r) 0)) ++ zeros 96

/-- Sign a statement of partition p: it goes to the next of the 48 slots, and GAP and RESTART are told once. -/
def signStmt (kind p : Nat) (s : State) : State :=
  let a := s.assay
  let b := stmtBody s kind p
  let x : Statement := { aseq := a.aseq + 1, part := p, kind := kind, body := b, sig := slice (Config.slhSign 1 b) 0 17088 }
  { s with assay := { a with
      aseq := a.aseq + 1, ring := (a.ring ++ [x]).drop (a.ring.length + 1 - 48), ringNext := (a.ringNext + 1) % 48
      gapFlag := a.gapFlag.filter (· != p), restartFlag := a.restartFlag.filter (· != p) } }

/-- Sign a statement of each ACTIVE partition, in ascending order. -/
def signActive (kind : Nat) (s : State) : State := forEach (s.assay.active.mergeSort (· ≤ ·)) (signStmt kind) s

/-! ## Records from the tap (R406 to R408) -/

/-- The 16 bytes of a tap record. -/
def tapBytes (r : TapRec) : List Byte :=
  leBytes 1 r.typ ++ leBytes 1 r.part ++ leBytes 1 r.res ++ zeros 1 ++ leBytes 4 r.seq.toNat ++ leBytes 8 r.value

/-- Entries of the tap queue have freed: what was held comes first, then releases that wait for room (R409). -/
def tapFreed (s : State) : State := finishReleases (placeHeld 200 s)

/-- The Assay's own clock has reached `t` µs. -/
def assayClock (t : Nat) (s : State) : State := { s with assay := { s.assay with atime := max s.assay.atime (t / 1000) } }

/-- The first record of the queue, of type `typ`, crosses the tap and is accepted in TAP_SEQ order; one at or below the last is
discarded, a gap is added to LOST. -/
def assayTake (typ : Nat) (f : TapRec → State → State) (s : State) : Res :=
  .next (
    match s.tap.queue with
    | [] => s
    | r :: rest =>
      if r.typ ≠ typ ∨ !assayAvail s ∨ !mainOn s then s
      else
        let s1 := emit (.tapRec (tapBytes r)) { s with tap := { s.tap with queue := rest } }
        let old := if typ = 7 then false else match s.assay.lastSeq with
          | some q => serialLe r.seq q
          | none => false
        let gap := if typ = 7 then 0 else match s.assay.lastSeq with
          | some q => (r.seq - q - 1).toNat
          | none => 0
        if old then tapFreed s1
        else
          let a := s1.assay
          let s2 : State := { s1 with assay := { a with
            lastSeq := some r.seq, nodeTime := now s, lost := (a.lost + gap) % 2 ^ 32
            gapFlag := if gap = 0 then a.gapFlag else (a.gapFlag ++ a.active).eraseDups } }
          tapFreed (f r s2))

/-- ASSAY_RX_COUNT (R407). -/
def execAssayRxCount (s : State) : Res :=
  assayTake 1 (fun r s => { s with assay := { s.assay with
    cnt := tset s.assay.cnt (12 * r.part + r.res) ((tgetD s.assay.cnt (12 * r.part + r.res) 0 + r.value) % 2 ^ 64) } }) s

/-- A level record at the Assay's time `t` in µs: memory use accrues for at most 2 ms (R406). -/
def accrue (p level t : Nat) (s : State) : State :=
  let a := s.assay
  let dt := t - tgetD a.lastT p t
  let use := min dt 2000
  let acc := tgetD a.acc p 0 + tgetD a.level p 0 * use
  { s with assay := { a with
      gapMs := tset a.gapMs p ((tgetD a.gapMs p 0 + (dt - use) / 1000) % 2 ^ 32)
      cnt := tset a.cnt (12 * p) ((tgetD a.cnt (12 * p) 0 + acc / 1000) % 2 ^ 64)
      acc := tset a.acc p (acc % 1000), level := tset a.level p level, lastT := tset a.lastT p t } }

/-- ASSAY_RX_LEVEL (R406). -/
def execAssayRxLevel (t : Nat) (s : State) : Res := assayTake 2 (fun r s => accrue r.part r.value t (assayClock t s)) s

/-- ASSAY_RX_OPEN (R406, R413). -/
def execAssayRxOpen (t : Nat) (s : State) : Res :=
  assayTake 3 (fun r s =>
    let s1 := assayClock t s
    let a := s1.assay
    signStmt 2 r.part { s1 with assay := { a with
      level := tset a.level r.part 0, lastT := tset a.lastT r.part t, pinst := tset a.pinst r.part (r.value % 2 ^ 32)
      active := if a.active.contains r.part then a.active else a.active ++ [r.part] } }) s

/-- ASSAY_RX_CLOSE (R413). -/
def execAssayRxClose (s : State) : Res :=
  assayTake 4 (fun r s => signStmt 3 r.part { s with assay := { s.assay with active := s.assay.active.filter (· != r.part) } }) s

/-- ASSAY_RX_HALT (R414). -/
def execAssayRxHalt (s : State) : Res := assayTake 5 (fun _ s => signActive 4 s) s

/-- ASSAY_RX_RESUME (R414). -/
def execAssayRxResume (s : State) : Res := assayTake 6 (fun _ s => signActive 5 s) s

/-- ASSAY_RX_RESTART (R406, R408): a level of 0 for every partition, and RESTART in the next statement of each. No partition is
ACTIVE after the cold reset that it stands for. -/
def execAssayRxRestart (t : Nat) (s : State) : Res :=
  assayTake 7 (fun _ s =>
    let s1 := forEach ((List.range 64).filter fun p => (tget s.assay.lastT p).isSome) (fun p s => accrue p 0 t s) (assayClock t s)
    { s1 with assay := { s1.assay with restartFlag := List.range 64, active := [] } }) s

/-- ASSAY_HEARTBEAT_LOSS (R408). -/
def execAssayHeartbeatLoss (s : State) : Res := .next { s with tap := { s.tap with beat := false } }

/-- ASSAY_HEARTBEAT_RETURN (R408). -/
def execAssayHeartbeatReturn (s : State) : Res := .next (if s.pins.vstby then { s with tap := { s.tap with beat := true } } else s)

/-- ASSAY_READY_CHANGE (R408). -/
def execAssayReadyChange (ready : Bool) (s : State) : Res :=
  .next (if s.pins.vstby then { s with tap := { s.tap with ready := ready } } else s)

/-- ASSAY_PERIODIC_STATEMENT (R414): STATEMENT_S seconds of its own clock. -/
def execAssayPeriodicStatement (s : State) : Res :=
  .next (
    if !assayRuns s then s
    else
      let t := max s.assay.atime (s.assay.stmtAt + 1000 * s.assay.stmtS)
      signActive 1 { s with assay := { s.assay with atime := t, stmtAt := t } })

/-- ASSAY_NVM_SAVE (R401). -/
def execAssayNvmSave (s : State) : Res :=
  .next (if s.pins.vstby then { s with assay := { s.assay with nvm := s.assay.cnt } } else s)

/-- ASSAY_SEAL_BREACH (R416): the fuse burns. -/
def execAssaySealBreach (s : State) : Res :=
  .next (if s.pins.vstby ∧ !s.assay.sealBroken then emit (.fuse "SEAL_BROKEN" 0) { s with assay := { s.assay with sealBroken := true } } else s)

/-! ## The Assay's port (R417 to R419) -/

/-- An answer of the Assay; ASY_ALERT# is low while it waits to be read. -/
def assayAnswer (typ : Nat) (data : List Byte) (s : State) : State :=
  emitAll [.pin "ASY_ALERT#" false, .assayMsg typ data, .pin "ASY_ALERT#" true] s

/-- A RESULT answer. -/
def assayResult (st : Status) (s : State) : State := assayAnswer 0x84 (leBytes 2 st.code) s

/-- A message at the Assay's port, while the Assay runs. -/
def assayMsg (f : State → State) (s : State) : Res := .next (if assayRuns s then f s else s)

/-- GET_STATEMENT (R419). -/
def execGetStatement (p : Nat) (s : State) : Res :=
  assayMsg (fun s =>
    if 64 ≤ p then assayResult .illegalValue s
    else
      let s1 := signStmt 6 p s
      match s1.assay.ring.getLast? with
      | some x => assayAnswer 0x81 (x.body ++ x.sig) s1
      | none => s1) s

/-- GET_BY_ASEQ (R419). -/
def execGetByAseq (aseq : BitVec 64) (s : State) : Res :=
  assayMsg (fun s => match s.assay.ring.find? fun x => x.aseq == aseq.toNat with
    | some x => assayAnswer 0x81 (x.body ++ x.sig) s
    | none => assayResult .wrongState s) s

/-- GET_CERT (R419). -/
def execGetCert (s : State) : Res := assayMsg (fun s => assayAnswer 0x82 ((Config.blob 3 0).take 32768) s) s

/-- GET_STATUS (R419). -/
def execGetStatus (s : State) : Res :=
  assayMsg (fun s => assayAnswer 0x83 (leBytes 4 (assaySts s) ++ leBytes 4 s.assay.lost ++ leBytes 8 s.assay.aseq) s) s

/-- PATCH_CHUNK (R419): bytes of the inactive patch slot. -/
def execPatchChunk (off : BitVec 32) (data : List Byte) (s : State) : Res :=
  assayMsg (fun s =>
    if 1024 < data.length ∨ 65536 < off.toNat + data.length then assayResult .illegalValue s
    else
      let buf := s.assay.patchBuf ++ zeros (off.toNat + data.length - s.assay.patchBuf.length)
      assayResult .ok { s with assay := { s.assay with patchBuf := patch buf off.toNat data } }) s

/-- PATCH_COMMIT (R417 to R419): a patch that verifies is announced in statements, and the Assay restarts. -/
def execPatchCommit (len : BitVec 32) (s : State) : Res :=
  assayMsg (fun s =>
    let b := slice s.assay.patchBuf 0 (min 65537 len.toNat)
    if !s.pins.asyPatchEn then assayResult .wrongState s
    else match patchStatus s b with
      | .ok =>
        let s1 := signActive 7 s
        assayResult .ok { s1 with
          assay := { s1.assay with patchPend := some (fld b 4 2, fld b 8 1), patchBuf := b }
          tap := { s1.tap with ready := false } }
      | st => assayResult st s) s

/-- ASSAY_PATCH_RESTART (R417, R418): the new patch runs, and its SVN is burned. Where the patch sets STATEMENT_S is not said, so it
is free. -/
def execAssayPatchRestart (s : State) : Res :=
  .next (
    match s.assay.patchPend with
    | none => s
    | some (ver, svn) =>
      if !s.pins.vstby then s
      else
        let a := s.assay
        let s1 : State := { s with
          tap := { s.tap with ready := true }
          assay := { a with
            patchPend := none, patchVer := ver, patchSvn := svn, patchSlot := 1 - a.patchSlot, fuseSvn := max a.fuseSvn svn
            patchDigest := Config.sha256 (fwBody a.patchBuf), patchBuf := [], stmtS := Config.freeNat s.freeCnt } }
        emitAll ((List.range (svn - a.fuseSvn)).map fun i => .fuse "ASSAY_ARB" (a.fuseSvn + i)) (stepFree s1))

/-! ## MCTP control messages (R419, R429)

The answers have the layout of DSP0236, with a completion code first (PRESUMED). Versions are the endpoint's own, so they are free. -/

/-- Set Endpoint ID takes every value but 0 and 0xFF. -/
def eidOk (eid : BitVec 8) : Bool := eid != 0 && eid != 0xFF

/-- The answer to Set Endpoint ID: accepted, or completion code ERROR_INVALID_DATA. -/
def setEidAnswer (eid : BitVec 8) : List Byte := if eidOk eid then [0, 0, eid, 0] else [2]

/-- The answer to Get MCTP Version Support: one version. -/
def versionAnswer (s : State) : List Byte := [0, 1] ++ (List.range 4).map (Config.freeByte s.freeCnt)

/-- ASSAY_SET_ENDPOINT_ID (R419). -/
def execAssaySetEndpointId (eid : BitVec 8) (s : State) : Res :=
  assayMsg (fun s => emit (.mctp true 1 (setEidAnswer eid)) (if eidOk eid then { s with assay := { s.assay with eid := eid } } else s)) s

/-- ASSAY_GET_ENDPOINT_ID (R419). -/
def execAssayGetEndpointId (s : State) : Res := assayMsg (fun s => emit (.mctp true 2 [0, s.assay.eid, 0, 0]) s) s

/-- ASSAY_GET_MCTP_VERSION (R419). -/
def execAssayGetMctpVersion (s : State) : Res := assayMsg (fun s => stepFree (emit (.mctp true 4 (versionAnswer s)) s)) s

/-- ASSAY_GET_MESSAGE_TYPES (R419): vendor-defined messages of type 0x7F. -/
def execAssayGetMessageTypes (s : State) : Res := assayMsg (fun s => emit (.mctp true 5 [0, 1, 0x7F]) s) s

/-! ## The tap on the node's side (R407, R409, R410) -/

/-- NODE/METERING: one record to the owner without a partition, one to each ACTIVE partition, and the log (R347, R410). -/
def meteringEvents (st : Status) (s : State) : State :=
  let e : Event := { cls := 8, code := 4, time := now s, status := st }
  forEach (activeParts s) (fun p s => postFn (p + 1) { e with part := some p } s) (postOwner e s)

/-- Metered admission halts (R410). -/
def haltMetering (s : State) : State :=
  let s1 := putHalt 5 { s with tap := { s.tap with halted := true, halts := s.tap.halts + 1 } }
  deckCause 7 (meteringEvents .meteringHalt s1)

/-- The records of a flush in order: the nonzero accumulators, then the partitions with a nonzero level. -/
def flushList (s : State) : List (Nat × Option Nat) :=
  (((List.range 64).flatMap fun p => (dueCounts s p).map fun r => (p, some r)))
    ++ ((List.range 64).filter fun p => levelOf s p != 0).map fun p => (p, none)

/-- Place the records of a flush one at a time; one that finds the queue at 3,968 halts metered admission, and the flush ends. -/
def flushAll : List (Nat × Option Nat) → State → State
  | [], s => s
  | (p, r) :: rest, s =>
    if tapShared ≤ s.tap.queue.length then (if s.tap.halted then s else haltMetering s)
    else match r with
      | some r => flushAll rest (flushCount p r s)
      | none => flushAll rest (tapPut 2 p 0 (levelOf s p) s)

/-- TAP_FLUSH (R407, R409). -/
def execTapFlush (s : State) : Res := .next (if mainOn s then flushAll (flushList s) s else s)

/-- METERING_RESUME (R410). -/
def execMeteringResume (s : State) : Res :=
  .next (
    if !s.tap.halted ∨ 1024 < s.tap.queue.length ∨ !mainOn s then s
    else meteringEvents .ok (putHalt 6 { s with tap := { s.tap with halted := false } }))

end Sys2Proof.Machine
end

