-- ==== Sys2Proof/Machine/Links.lean ====
section
/-! DEFINITION. Links that go down and come back (R208 to R212), the credit exchange, and fabric time that is lost (R226). -/

namespace Sys2Proof.Machine

open Sys2Proof

/-- The producers to which no route remains are lost (R361). -/
def loseUnrouted (s : State) : State :=
  forEach (s.rma.conns.filter fun (_, x) => x.state == .open_ && x.peerNode.toNat != nodeId s && noRoute s x.peerNode.toNat)
    (fun (c, _) s => loseOn c s) s

/-- A packet that waited for a port that went DOWN: an unscheduled one is routed again, a scheduled one is discarded
(R219, R220). -/
def requeue (p : Nat) (q : QPkt) (s : State) : State :=
  let h := q.cargo.packet.fab
  if h.static then schedDiscard q.src q.inBuf p q.cargo s
  else
    let back := q.cargo.withPacket { q.cargo.packet with fab := { h with hops := if q.src < 6 then h.hops - 1 else h.hops } }
    routePacket q.src q.inBuf back s

/-- A port goes DOWN (R208, R212): its replay buffer and its input buffers are discarded, with the packet that was leaving; what
waited for it goes another way. Both ends number their blocks from 0 when the link trains again. -/
def linkDown (p : Nat) (s : State) : State :=
  let x := getPort s p
  let s1 := setPort p { x with
    replayBuf := [], resendAt := none, cur := none, inbox := [], reorder := [], queue := [], nextBsn := 0, expect := 0, gotBlock := false
    nakDue := false, retrainDue := false, tsyncDue := false, waitFrom := none } s
  let s2 := match x.cur with
    | some q => leaveBuffer q.src q.inBuf q.cargo s1
    | none => s1
  let s3 := { s2 with fab := { s2.fab with ports := tmap s2.fab.ports fun _ y =>
      { y with queue := y.queue.filter fun q => !(q.src == p && q.inBuf.isSome)
               cur := y.cur.map fun q => if q.src = p then { q with inBuf := none } else q } } }
  let s4 := setLink p .down s3
  loseUnrouted (forEach (x.queue.filter fun q => !(q.src == p && q.inBuf.isSome)) (requeue p) s4)

/-- Both ends have said SEEN: the highest common level is taken (R210). -/
def leaveNegotiate (p : Nat) (s : State) : State :=
  let x := getPort s p
  if !(x.seenIn && x.seenOut) then s
  else if x.pickLevel = 2 then setLink p .trainHigh s
  else match widthOf s p x.lanesOk x.partnerLanes with
    | some w => enterCredit p (setWidth p w (modPort p (fun x => { x with level := 1 }) s))
    | none => linkDown p s

/-- RX_CAP (R210, R218, R231): the partner's offer. A partner that claims this node's own ID, or that shares no level,
puts the port in NEG_FAIL; a new ID while UP makes the port retrain and negotiate again. -/
def execRxCap (port : Nat) (f : Cap) (s : State) : Res :=
  .next (
    let x := getPort s port
    if 6 ≤ port then s
    else if x.link = .up then
      if f.nodeId ≠ x.partner then enterRetrain port (setPort port { x with again := true } s) else s
    else if x.link ≠ .negotiate then s
    else
      let common := f.levels &&& levelsOf s port
      if f.nodeId ≠ 0xFFFF ∧ f.nodeId = BitVec.ofNat 16 (nodeId s) then setLink port .negFail s
      else if common = 0 then setLink port .negFail s
      else
        let lvl := if common &&& 0x04 ≠ 0 then 2 else 1
        let x1 : Port := { x with capIn := true, seenIn := x.seenIn || f.seen, partner := f.nodeId, partnerPort := f.port
                                  partnerLanes := f.lanesOk, gcm := f.gcm, resend := f.resend, pickLevel := lvl }
        leaveNegotiate port (showPort port (setPort port x1 s)))

/-- TRAIN_HIGH_DONE (R209): 64 GBd is reached on the given lanes. -/
def execTrainHighDone (port : Nat) (lanes : BitVec 8) (s : State) : Res :=
  .next (
    let x := getPort s port
    if 6 ≤ port ∨ x.link ≠ .trainHigh then s
    else
      let s1 := setPort port { x with lanesOk := lanes, level := 2 } s
      match widthOf s port lanes x.partnerLanes with
      | some w => enterCredit port (setWidth port w s1)
      | none => linkDown port s1)

/-- The link is UP (R208, R362): replay goes on from the first unacknowledged block, and a new home whose former home can be reached
again sends its DEMOTE. -/
def linkUp (p : Nat) (s : State) : State :=
  redemote (setLink p .up (modPort p (fun x => { x with
    attempts := 0, resendAt := if x.replayBuf.isEmpty then none else some 0
    replayBuf := x.replayBuf.map fun b => { b with resends := 0 } }) s))

/-- CREDIT_EXCHANGE_DONE (R212, R214): the partner's first limits have come; UP. -/
def execCreditExchangeDone (port : Nat) (limits : List (BitVec 16)) (s : State) : Res :=
  .next (
    if 6 ≤ port ∨ (getPort s port).link ≠ .credit then s
    else linkUp port (modPort port (fun x => { x with climit := (List.range 7).map fun i => (limits.getD i 0).toNat }) s))

/-- RETRAIN_DONE (R208, R212): with a width the port returns to UP, or to NEGOTIATE where the partner's ID changed; without one it
goes DOWN. A retrain that fails is followed by full training, and the third that fails by DOWN. -/
def execRetrainDone (port : Nat) (ok : Bool) (lanes : BitVec 8) (partnerLanes : BitVec 8) (s : State) : Res :=
  .next (
    let x := getPort s port
    if 6 ≤ port ∨ x.link ≠ .retrain then s
    else if !ok then
      if 2 ≤ x.attempts then linkDown port (setPort port { x with attempts := 0 } s)
      else setLink port .trainLow (setPort port { x with attempts := x.attempts + 1 } s)
    else
      let s1 := setPort port { x with lanesOk := lanes, partnerLanes := partnerLanes, again := false } s
      if x.again then enterNegotiate port lanes s1
      else match widthOf s1 port lanes partnerLanes with
        | some w => linkUp port (setWidth port w s1)
        | none => linkDown port s1)

/-- TIME_LOST (R226, R254): 5 ms in HOLDOVER. -/
def execTimeLost (s : State) : Res :=
  .next (
    if timeRole s ≠ 2 ∨ !serving s ∨ valBits s 0x300014 1 1 = 0 ∨ s.fab.time.lost then s
    else
      let s1 := advanceTo (s.fab.time.holdoverAt + 5000000) s
      let s2 := setValBits 0x300014 2 1 1 (setValBits 0x300014 0 1 0 { s1 with fab := { s1.fab with time := { s1.fab.time with first := true, good := 0, lost := true } } })
      deckCause 5 (post { cls := 6, code := 2 } s2))

end Sys2Proof.Machine
end

