-- ==== Sys2Proof/Machine/Parts.lean ====
section
/-! DEFINITION. Causes of DEGRADED that go away, and memory packages that go offline and come back (R363, R421, R442, R443). -/

namespace Sys2Proof.Machine

open Sys2Proof

/-- The name of a package's cause of DEGRADED. -/
def pkgCause (p : Nat) : String := "package " ++ toString p

/-- PSTATE of a package changes and is logged (R433, R444). -/
def setPkg (p st : Nat) (status : Status) (s : State) : State :=
  let old := pkgState s p
  if old = st ∧ status = .ok then s
  else logMgmt 0x86 1 status { b0 := p, b1 := st, h0 := old } (setValBits (0xB00200 + 4 * p) 2 2 st s)

/-- A range touches a granule of package `p`. -/
def onPackage (p a n : Nat) : Bool :=
  n != 0 && (List.range (min 16 ((a + n - 1) / 2 ^ 18 - a / 2 ^ 18 + 1))).any fun i => (a / 2 ^ 18 + i) % 16 == p

/-- What the loss of a package does to one page of a stream: with a replica the page is read there; without one its PDE becomes EMPTY
with DMG (R53, R363). The flag says that DMG was set. -/
def losePage (whole : Bool) (page : Nat) (d : Pde) (x : Stream) : Stream × Bool :=
  let slot := x.ring.find? fun e => e.2.page == page
  let spoil (x : Stream) : Stream := match slot with
    | some (i, e) => { x with ring := tset x.ring i { e with bad := true } }
    | none => x
  if d.sealed_ then
    if d.repl then ({ x with badCopies := if x.badCopies.contains page then x.badCopies else x.badCopies ++ [page] }, false)
    else ({ x with pdes := tset x.pdes page { d with fmt := fmtEmpty, dmg := true, cru := false, len := 0, addr := 0, tver := 0 } }, !d.dmg)
  else if whole then (spoil x, false)
  else (spoil { x with pdes := tset x.pdes page { d with fmt := fmtEmpty, dmg := true, cru := false, len := 0, addr := 0, tver := 0 } }, !d.dmg)

/-- The objects of a stream that no entry of State places. Whether one of them lay on the package is the node's own choice, so it is
free for each (log entry 18). -/
def loseLoose (k : Nat) (whole : Bool) (x : Stream) : Stream :=
  let hit (i : Nat) : Bool := Config.freeBool (k + i)
  { x with
    stage0 := if hit 0 then { x.stage0 with bad := true } else x.stage0
    stage1 := if hit 1 then { x.stage1 with bad := true } else x.stage1
    tableBad := x.tableBad || (hit 2 && !whole && x.table.isSome)
    pinBad := (List.range 4).filter fun j => x.pinBad.contains j || (hit (3 + j) && (tget x.pinMaster j).isSome)
    retained := tmap x.retained fun p r => if hit (7 + p) then { r with bad := true } else r
    pdes := tmap x.pdes fun p d => if hit (64 + p) then { d with sumv := false } else d }

/-- What the loss of package `p` does to a sequence, and whether pages are gone. -/
def loseSeqPages (p k : Nat) (q : Seq) : Seq × Bool :=
  let whole := q.repl == 2 && !q.replDegraded
  let one (x : Stream) (i : Nat) : Stream × Nat :=
    (x.pdes.filter fun (_, d) => !d.remote && onPackage p d.addr d.len).foldl
      (fun (y, n) (pg, d) => ((losePage whole pg d y).1, n + b2n (losePage whole pg d y).2)) (loseLoose (k + 2 ^ 21 * i) whole x, 0)
  let l := q.streams.zipIdx.map fun (x, i) => one x i
  let n := sumN (l.map (·.2))
  ({ q with streams := l.map (·.1), damaged := q.damaged + n }, n != 0)

/-- A step whose data lay on a package that is gone: ST_DATA_LOST (R363). -/
def stepDataLost (c : Cmd) (aux : Nat) (s : State) : State :=
  let e : Event :=
    { cls := 4, code := 3, part := some c.part, step := c.step, kind := 18, status := .dataLost, detail := stepDetail c 16 0xFFFF aux }
  finish c .dataLost 0 (post e s)

/-- A package stops to serve (R363, R442): its units become TILE_ONLY, its pages are lost or read from replicas, and steps that read
what is lost end. PSTATE is `st`: 1 OFFLINE by command, 2 RECAL, 3 FAILED. -/
def pkgDown (p st cause : Nat) (s : State) : State :=
  if pkgState s p ≠ 0 then setPkg p st .ok s
  else
    let s1 := setPkg p st .ok s
    let s2 := forEach (List.range 8) (fun d s =>
      let o := 0x602200 + 4 * (8 * p + d)
      setAct o (BitVec.ofNat 32 (putBits (actW s o).toNat 4 8 255)) { s with mem := { s.mem with remapOld := tdel s.mem.remapOld (8 * p + d) } }) s1
    let s3 := forEach ((s2.mem.units.filter fun (u, x) => u / 72 == p && !unitFree x).map (·.1)) (fun u s => stopUnit u 6 s) s2
    let hit := s3.seqs.map fun (n, q) => (n, loseSeqPages p (s3.freeCnt + 2 ^ 33 * n) q)
    let s4 := skipFree (2 ^ 54) { s3 with seqs := hit.map fun (n, q, _) => (n, q) }
    let gone := (hit.filter fun h => h.2.2).map (·.1)
    let s5 := forEach (s4.cmds.filter fun (_, c) => c.phase == .running && (c.op == 0x10 || c.op == 0x11) && gone.contains (seqOf c))
      (fun (_, c) s => stepDataLost c (seqOf c) s) s4
    let s6 := forEach (s5.cmds.filter fun (_, c) => c.phase == .running && decide (0x20 ≤ c.op) && decide (c.op ≤ 0x23) && idxLost s5 (idxOf c))
      (fun (_, c) s => stepDataLost c (idxOf c) s) s5
    degrade (pkgCause p) (post { cls := 3, code := 4, kind := 18, logical := p, physical := p, detail := .p p 0xFF cause 0 } s6)

/-- A package serves again: it is filled before use, and the units that are well serve their bank groups (R442). -/
def pkgUp (p : Nat) (s : State) : State :=
  if pkgState s p = 0 then s
  else
    let s1 := forEach (List.range 8) (fun d s =>
      let o := 0x602200 + 4 * (8 * p + d)
      let w := (actW s o).toNat
      let f := (valW s o).toNat
      let only := sumN ((List.range 8).map fun g =>
        let served := if bit w 3 ∧ w % 8 = g then !bit f 20 else !bit f (12 + g)
        if served then 0 else 2 ^ g)
      setAct o (BitVec.ofNat 32 (putBits w 4 8 only)) s) s
    let s2 : State := { s1 with mem := { s1.mem with
        cells := s1.mem.cells.filter fun c => pkgOfAddr c.1 != p
        err := tfilter s1.mem.err fun b _ => pkgOfAddr (32 * b) != p
        uePkg := tdel s1.mem.uePkg p } }
    repair (pkgCause p) (setPkg p 0 .ok s2)

/-- A committed TARGET takes effect (R442, R443). A package in RECAL moves on only when that is done. -/
def pkgTarget (p : Nat) (s : State) : State :=
  match actBits s (0xB00200 + 4 * p) 0 2, pkgState s p with
  | _, 2 => s
  | 0, _ => pkgUp p s
  | 1, 0 => pkgDown p 1 7 s
  | 1, _ => setPkg p 1 .ok s
  | 2, _ => pkgDown p 2 7 s
  | _, _ => s

/-- A crucible program runs on a package (R443). -/
def pkgBusy (s : State) (p : Nat) : Bool :=
  (tany s.mem.units fun u x => u / 72 == p && !unitFree x) || tany s.sec.releases fun _ r => r.filling && r.ended.isNone

/-- PKG_RECAL_DONE (R443): the package is retrained and its rows are read and written. It stays offline until a commit of ONLINE; a
TARGET committed meanwhile takes effect now. Only training that could not be stored fails it. -/
def execPkgRecalDone (pkg : Nat) (stored : Bool) (s : State) : Res :=
  .next (
    if 16 ≤ pkg ∨ pkgState s pkg ≠ 2 ∨ !mainOn s then s
    else
      let s1 := setPkg pkg 1 (if stored then .ok else .flashFault) s
      if actBits s (0xB00200 + 4 * pkg) 0 2 = 2 then s1 else pkgTarget pkg s1)

end Sys2Proof.Machine
end

