-- ==== Sys2Proof/Machine/Commits.lean ====
section
/-! DEFINITION. The commits of the register blocks: what each refuses, and what a set changes when it becomes active (R30, R77, R160,
R230, R260, R291, R316, R329, R330, R353, R359, R370, R398, R399, R436, R444). -/

namespace Sys2Proof.Machine

open Sys2Proof

/-- A field stands within its range. -/
def inRange (v lo hi : Nat) : Bool := decide (lo ≤ v) && decide (v ≤ hi)

/-- Bits of a pending word. -/
def pendBits (s : State) (off lo w : Nat) : Nat := bits (pendW s off).toNat lo w

/-! ## CAST (R30) -/

/-- FP32 value that is finite and greater than 1.0. -/
def ropeBaseOk (w : Nat) : Bool := decide (0x3F800000 < w) && decide (w < 0x7F800000)

/-- The values of a VALID slot's fields (R27). -/
def slotFieldsOk (b : List Byte) : Bool :=
  let m := Slot.ofBytes b
  let lat := fld b 4 2
  decide (fld b 0 1 ≤ 127) && decide (fld b 1 1 ≤ 31) && inRange (fld b 2 1) 1 16 && decide (fld b 3 1 ≤ 4)
    && (lat == 0 || (lat % 32 == 0 && inRange lat 64 576)) && decide (fld b 6 1 ≤ 2)
    && (fld b 6 1 == 0 || (decide (2 * fld b 7 1 ≤ m.d) && ropeBaseOk (fld b 8 4)))
    && inRange (fld b 12 1) 2 3 && decide (fld b 13 1 ≤ 1) && inRange (fld b 14 1) 2 4 && inRange (fld b 15 1) 2 3
    && inRange (fld b 16 1) 1 16 && decide (fld b 17 1 < 2) && fld b 18 2 == 0 && fld b 24 8 == 0

/-- The check of the CAST block (R30, R127). -/
def checkCast (t : Table Word) (s : State) : Status :=
  let rec_ (n : Nat) : List Byte := bankBytes (pendW s) (0x901000 + 0x20 * n) 8
  let valid := (List.range 64).filter fun n => (Slot.ofBytes (rec_ n)).valid
  let latent (n : Nat) : Bool := fld (rec_ n) 4 2 != 0
  firstBad [
    failIf (stagesReserved (tfilter t fun o _ => decide (o < 0x901000)) || valid.any fun n => !slotFieldsOk (rec_ n)) .illegalValue,
    failIf (valid.any fun n => latent n && fld (rec_ n) 1 1 != 0) .illegalCombination,
    failIf (valid.any fun n => fld (rec_ n) 6 1 == 2 && fld (rec_ n) 13 1 == 1) .illegalCombination,
    failIf (t.any fun (o, v) => decide (0x901000 ≤ o) && v != actW s o && slotRefs s ((o - 0x901000) / 0x20) != 0) .busy]

/-- CAST_COMMIT (R30). -/
def execCastCommit (w : Writer) (gen : BitVec 16) (s : State) : Res := .next (commitBlockBy .cast w gen [] checkCast s)

/-! ## TILE (R77, R353) -/

/-- A hook entry is well-formed: its OP is defined, and CAP has a positive, finite ARG. -/
def hookOk (lo hi : Nat) : Bool :=
  decide (bits lo 0 8 ≤ 9) && (bits lo 0 8 != 3 || (decide (0 < hi) && decide (hi < 0x7F800000)))

/-- The check of the TILE block. -/
def checkTile (s : State) : Status :=
  firstBad [
    failIf ((List.range 512).any fun i => !hookOk (pendW s (0x700400 + 8 * i)).toNat (pendW s (0x700404 + 8 * i)).toNat) .illegalValue,
    remapStatus s 0]

/-- TILE_COMMIT (R77, R353). -/
def execTileCommit (w : Writer) (gen : BitVec 16) (s : State) : Res := .next (commitBlock .tile w gen [] checkTile s)

/-! ## HOST (R312, R315, R316, R339) -/

/-- The bank that a set would make active. -/
def withSet (s : State) (t : Table Word) (off : Nat) : Word := (tget t off).getD (actW s off)

/-- Rings whose records a set names. -/
def setRings (t : Table Word) : List Nat := ((t.filterMap fun (o, _) => ringOff o).map (·.1)).eraseDups

/-- Functions whose event-ring records a set names. -/
def setFns (t : Table Word) : List Nat := (t.filterMap fun (o, _) => evOff o).eraseDups

/-- A PCIe range that R313 permits, aligned. -/
def pcieOk (a n align : Nat) : Bool := a % align == 0 && decide (a < 2 ^ 62) && decide (a + n ≤ 2 ^ 62)

/-- The values of a ring record. Zero stands for a field not set while EN is clear; VECTOR counts once the ring has a function. -/
def ringFieldsOk (bank : Nat → Word) (ring : Nat) : Bool :=
  let c := ringCfgOf bank ring
  let a := bits (bank (0x110018 + 0x40 * ring)).toNat 8 8
  let unset (v : Nat) : Bool := v == 0 && !c.en
  (unset c.log2 || inRange c.log2 6 16) && (unset c.qunits || inRange c.qunits 1 (min (2 ^ c.log2) 4096))
    && (unset c.svc || inRange c.svc 10 10000000) && decide (c.coalUs ≤ 1000)
    && (!bit a 7 || decide (c.vec < vecCount (if bit a 6 then 0 else 1)))
    && pcieOk c.sqBase (64 * 2 ^ c.log2) 4096 && pcieOk c.cqBase (32 * 2 ^ c.log2) 4096 && pcieOk c.recBase 64 64

/-- The values of an event-ring record. -/
def evFieldsOk (bank : Nat → Word) (fn : Nat) : Bool :=
  let b := bankBytes bank (0x100200 + 0x20 * fn) 3
  let log2 := fld b 8 1
  let en := bit (fld b 9 1) 0
  ((log2 == 0 && !en) || inRange log2 6 14) && decide (fld b 10 2 < vecCount fn) && pcieOk (fld b 0 8) (64 * 2 ^ log2) 4096

/-- Some partition would hold more than 64 rings. -/
def tooManyRings (s : State) (t : Table Word) : Bool :=
  let named := ((s.regs.act.filterMap fun (o, _) => ringOff o) ++ (t.filterMap fun (o, _) => ringOff o)).map (·.1)
  let as := named.eraseDups.map fun r => bits (withSet s t (0x110018 + 0x40 * r)).toNat 8 8
  (List.range 64).any fun p => decide (64 < (as.filter (· == 128 + p)).length)

/-- An enabled ring would lose ASSIGNED. -/
def losesAssigned (s : State) (t : Table Word) (ring : Nat) : Bool :=
  let o := 0x110018 + 0x40 * ring
  bit (actW s o).toNat 15 && !bit (withSet s t o).toNat 15 && bit (withSet s t o).toNat 16

/-- A ring's base or size would change while it is enabled or runs, or EN would be set while it runs. -/
def ringBusy (s : State) (t : Table Word) (ring : Nat) : Bool :=
  let o := 0x110000 + 0x40 * ring
  let run := (getRing s ring).running
  let was := (ringCfg s ring).en
  let c := ringCfgOf (withSet s t) ring
  let moved := ((List.range 6).any fun k => withSet s t (o + 4 * k) != actW s (o + 4 * k)) || c.log2 != (ringCfg s ring).log2
  (moved && (was || run)) || (c.en && !was && run)

/-- The check of a set of the HOST block. -/
def checkHost (t : Table Word) (s : State) : Status :=
  let bank := withSet s t
  let rs := setRings t
  firstBad [
    failIf (stagesReserved t || (rs.any fun r => !ringFieldsOk bank r) || (setFns t).any fun f => !evFieldsOk bank f) .illegalValue,
    failIf (tooManyRings s t || rs.any fun r => losesAssigned s t r) .illegalCombination,
    failIf (rs.any fun r => ringBusy s t r) .busy]

/-- HOST_COMMIT (R316): `imgs` is what the node reads of the rings that resume (R327). -/
def execHostCommit (w : Writer) (gen : BitVec 16) (imgs : List RingImage) (s : State) : Res :=
  .next (commitBlockBy .host w gen imgs checkHost s)

/-- The part of a VF's pending set that is its own: its rings and its event ring (R312). -/
def vfSet (s : State) (n : Nat) : Table Word :=
  tfilter (tgetD s.regs.vfPend n []) fun o _ => match ringOff o with
    | some (r, _) => ringAssign s r == 128 + (n - 1)
    | none => evOff o == some n

/-- VF_COMMIT (R312, R316). -/
def execVfCommit (vf : Nat) (gen : BitVec 16) (imgs : List RingImage) (s : State) : Res :=
  .next (
    if vf = 0 ∨ 64 < vf then s
    else if !serving s then (if s.mgmt.st = .bringup then rejectWrite (.vf vf) 0xF0 .wrongState s else s)
    else commitSet (64 + vf) gen (vfSet s vf) imgs (checkHost (vfSet s vf) s) s)

/-! ## SEC (R370, R394, R398, R399) -/

/-- Words of a pending SEC_PART record as one quantity per byte offset. -/
def pendQ (s : State) (p off : Nat) : Nat :=
  let o := 0xA01000 + 0x80 * p + off
  (pendW s o).toNat + 2 ^ 32 * (pendW s (o + 4)).toNat

/-- VALID of a pending or active record. -/
def partValid (bank : Nat → Word) (p : Nat) : Bool := bit (bank (0xA01000 + 0x80 * p)).toNat 8

/-- The values of a record: ranges within 1,048,576 IDs, memory within the last granule. -/
def partFieldsOk (s : State) (p : Nat) : Bool :=
  let w (k : Nat) : Nat := (pendW s (0xA01000 + 0x80 * p + 4 * k)).toNat
  decide (w 2 % 2 ^ 20 + w 3 ≤ 2 ^ 20) && decide (w 4 % 2 ^ 20 + w 5 ≤ 2 ^ 20) && decide (bits (w 8) 16 16 ≤ 6128)
    && (runsOf (pendQ s p)).all fun (f, n) => decide (f + n ≤ 6291456)

/-- Two runs overlap. -/
def runsMeet (a b : Nat × Nat) : Bool := decide (a.1 < b.1 + b.2) && decide (b.1 < a.1 + a.2) && a.2 != 0 && b.2 != 0

/-- Some two of a list of runs overlap. -/
def anyMeet : List (Nat × Nat) → Bool
  | [] => false
  | a :: t => t.any (runsMeet a) || anyMeet t

/-- The combinations that the records may not hold. -/
def partsClash (s : State) : Bool :=
  let ps := List.range 64
  let w (p k : Nat) : Nat := (pendW s (0xA01000 + 0x80 * p + 4 * k)).toNat
  let mem := ps.flatMap fun p => runsOf (pendQ s p)
  let valid := ps.filter (partValid (pendW s))
  anyMeet mem || mem.any (fun r => decide (r.1 < 16384)) || anyMeet (valid.map fun p => (w p 2 % 2 ^ 20, w p 3))
    || anyMeet (valid.map fun p => (w p 4 % 2 ^ 20, w p 5)) || ps.any fun p => bit (w p 0) 9 && bits (w p 8) 16 16 != 0

/-- The changes of an ACTIVE record that are an extension (R370). -/
def partExtends (s : State) (p : Nat) : Bool :=
  let o := 0xA01000 + 0x80 * p
  let a (k : Nat) : Nat := (actW s (o + 4 * k)).toNat
  let n (k : Nat) : Nat := (pendW s (o + 4 * k)).toNat
  let ext (k : Nat) : Bool :=
    let x := partQ s p (48 + 8 * k)
    let y := pendQ s p (48 + 8 * k)
    bits x 23 23 == 0 || (bits x 0 23 == bits y 0 23 && decide (bits x 23 23 ≤ bits y 23 23))
  bits (a 0) 8 8 == bits (n 0) 8 8 && a 2 == n 2 && decide (a 3 ≤ n 3) && a 4 == n 4 && decide (a 5 ≤ n 5)
    && n 6 &&& a 6 == a 6 && n 7 &&& a 7 == a 7 && a 8 == n 8 && (List.range 8).all ext

/-- The records that a commit would activate. -/
def newParts (s : State) (bank : Nat → Word) : List Nat := (List.range 64).filter fun p => partValid bank p && pstate s p == 0

/-- What the state of the partitions forbids. -/
def partsBusy (s : State) : Bool :=
  let ps := List.range 64
  let changed (p : Nat) : Bool := (List.range 32).any fun k => pendW s (0xA01000 + 0x80 * p + 4 * k) != actW s (0xA01000 + 0x80 * p + 4 * k)
  (ps.any fun p => (pstate s p == 2 && changed p) || (partValid (actW s) p && !partValid (pendW s) p) || (pstate s p == 1 && !partExtends s p))
    || decide (tapSize < s.tap.queue.length + (newParts s (pendW s)).length)

/-- ADVANCE_TO of a class in a bank. -/
def advanceOf (bank : Nat → Word) (c : Nat) : Nat := bits (bank (0xA00600 + 4 * c)).toNat 8 7

/-- FUSE_SVN of a class. -/
def fuseSvn (s : State) (c : Nat) : Nat := valBits s (0xA00600 + 4 * c) 0 7

/-- SVN and key of the images of a class in its active slot. -/
def activeImages (s : State) (c : Nat) : List (Nat × Nat) :=
  let f := fwSlot s c (actSlot s c)
  if c = 7 then
    let l := (tgetD s.mgmt.crucStore (actSlot s 7) []).map fun (_, i) => (i.svn, i.key)
    if l.isEmpty then [(f.svn, f.key)] else l
  else [(f.svn, f.key)]

/-- The values that the fuse and lifecycle requests may not hold. -/
def fuseValuesOk (s : State) : Bool :=
  ((List.range 7).all fun i => inRange (advanceOf (pendW s) (i + 1)) (fuseSvn s (i + 1)) 64)
    && (actW s 0xA00640).toNat &&& (pendW s 0xA00640).toNat == (actW s 0xA00640).toNat
    && (pendW s 0xA00648 == actW s 0xA00648
      || (valBits s 0xA00644 0 8 == 2 && ((pendW s 0xA00648).toNat == 3 || (pendW s 0xA00648).toNat == 4)))

/-- The combinations that they may not hold (R398). -/
def fusesClash (s : State) : Bool :=
  let rev := (pendW s 0xA00640).toNat
  let new := rev &&& ((actW s 0xA00640).toNat ^^^ 15)
  ((List.range 7).any fun i => advanceOf (pendW s) (i + 1) != fuseSvn s (i + 1)
      && (activeImages s (i + 1)).any fun f => decide (f.1 < advanceOf (pendW s) (i + 1)))
    || ((List.range 7).any fun i => (activeImages s (i + 1)).any fun f => bit new f.2)
    || (new != 0 && rev % 16 == 15)

/-- The check of the SEC block. -/
def checkSec (s : State) : Status :=
  firstBad [
    failIf (((List.range 64).any fun p => !partFieldsOk s p) || !fuseValuesOk s) .illegalValue,
    failIf (partsClash s || fusesClash s) .illegalCombination,
    failIf (partsBusy s) .busy]

/-- SEC_COMMIT (R370). -/
def execSecCommit (w : Writer) (gen : BitVec 16) (s : State) : Res := .next (commitBlock .sec w gen [] checkSec s)

/-! ## FAB, RMA, MEM, DECK, NODE, MGMT -/

/-- The values of the FAB block's fields (R230). -/
def fabFieldsOk (s : State) : Bool :=
  let id (lo w : Nat) : Nat := pendBits s 0x300000 lo w
  let cfg (p lo w : Nat) : Nat := pendBits s (portBase p + 0x20) lo w
  id 9 3 == 0 && id 12 4 == 0 && ((List.range 3).all fun d => decide (id (3 * d) 3 ≤ id (16 + 3 * d) 3))
    && decide (pendBits s 0x300010 0 2 ≤ 2) && decide (pendBits s 0x300010 2 3 ≤ 5) && inRange (pendBits s 0x300010 8 8) 1 200
    && ((List.range 6).all fun p => decide (cfg p 0 3 ≤ 5) && !(cfg p 0 3 == 5 && cfg p 18 5 == 0)
      && !(cfg p 0 3 == 3 && !bit (getPort s p).lanesOk.toNat (cfg p 23 3)) && pendW s (portBase p + 0x24) != 0)
    && (inBlock .fab s.regs.pend).all fun (o, v) => decide (o < 0x308000) || bits v.toNat 0 3 != 7

/-- The check of the FAB block (R229, R230). -/
def checkFab (s : State) : Status :=
  firstBad [
    failIf (!fabFieldsOk s) .illegalValue,
    failIf (s.mgmt.st != .test && (List.range 6).any fun p => pendBits s (portBase p + 0x20) 0 3 != 0 && pendBits s (portBase p + 0x20) 26 1 == 0)
      .wrongState]

/-- FAB_COMMIT (R229, R230). -/
def execFabCommit (w : Writer) (gen : BitVec 16) (s : State) : Res := .next (commitBlock .fab w gen [] checkFab s)

/-- Counters whose configuration a set names. -/
def setCounters (t : Table Word) : List Nat :=
  (t.filterMap fun (o, _) => if 0x480000 ≤ o ∧ o < 0x500000 then some ((o - 0x480000) / 8) else none).eraseDups

/-- The check of the RMA block (R291). -/
def checkRma (s : State) : Status :=
  let t := inBlock .rma s.regs.pend
  let cs := setCounters t
  let valid (bank : Nat → Word) (i : Nat) : Bool := bit (bank (0x480000 + 8 * i)).toNat 6
  let bound (i : Nat) : Nat := (pendW s (0x480004 + 8 * i)).toNat
  let backing := [0x400000, 0x400008, 0x40000C].any fun o => pendW s o != actW s o && (o != 0x400000 || pendBits s o 1 1 != actBits s o 1 1)
  firstBad [
    failIf (!(inRange (pendBits s 0x400010 0 10) 1 1000 && inRange (pendBits s 0x400010 10 4) 1 15 && inRange (pendBits s 0x400010 14 16) 1 10000
      && inRange (pendBits s 0x400014 0 16) 1 65535 && inRange (pendBits s 0x400018 0 20) 1 1000000 && (pendW s 0x400008).toNat % 4096 == 0
      && cs.all fun i => !valid (pendW s) i || bound i != 0)) .illegalValue,
    failIf ((backing && tany s.rma.conns fun _ x => x.state != .free)
      || cs.any fun i => valid (actW s) i && !valid (pendW s) i && s.rma.waiters.any fun w => w.counter == i) .busy,
    failIf (cs.any fun i => valid (actW s) i && valid (pendW s) i && decide (bound i < (getCnt s i).value - (getCnt s i).acked)) .illegalCombination]

/-- RMA_COMMIT (R291). -/
def execRmaCommit (w : Writer) (gen : BitVec 16) (s : State) : Res := .next (commitBlock .rma w gen [] checkRma s)

/-- Packages whose VERSION_PEND a bank changes. -/
def newImages (old new : Nat → Word) : List Nat :=
  (List.range 16).filter fun p => bits (old (0x602100 + 16 * p)).toNat 0 16 != bits (new (0x602100 + 16 * p)).toNat 0 16

/-- The check of the MEM block (R156, R160). -/
def checkMem (s : State) : Status :=
  let img := newImages (actW s) (pendW s)
  let w (d : Nat) : Nat := (pendW s (0x602200 + 4 * d)).toNat
  firstBad [
    failIf (img.any fun p => s.mem.switching.contains p || (crucImage s (pendBits s (0x602100 + 16 * p) 0 16)).isNone) .illegalValue,
    failIf ((List.range 128).any fun d => bit (w d) 3 && bit (w d) (4 + w d % 8)) .illegalCombination]

/-- MEM_COMMIT (R156, R160). -/
def execMemCommit (w : Writer) (gen : BitVec 16) (s : State) : Res := .next (commitBlock .mem w gen [] checkMem s)

/-- DECK_COMMIT (R260). -/
def execDeckCommit (w : Writer) (gen : BitVec 16) (s : State) : Res :=
  .next (commitBlock .deck w gen [] (fun s =>
    failIf (!(inRange (pendBits s 0x200000 0 6) 2 25 && inRange (pendBits s 0x200000 8 14) 1 10000)) .illegalValue) s)

/-- The check of the NODE block (R353, R359). -/
def checkNode (s : State) : Status :=
  firstBad [
    failIf (!(inRange (pendBits s 0x100 0 16) 1 60000 && inRange (pendBits s 0x104 0 16) 100 60000 && inRange (pendBits s 0x108 0 2) 1 3
      && inRange (pendBits s 0x108 2 10) 1 1000 && inRange (pendBits s 0x108 12 14) 1 10000)) .illegalValue,
    remapStatus s 1, remapStatus s 2, remapStatus s 3, remapStatus s 4,
    failIf (decide (pendBits s 0x104 0 16 ≤ 2 * actBits s 0x200000 8 14)) .illegalCombination]

/-- NODE_COMMIT (R353, R359). -/
def execNodeCommit (w : Writer) (gen : BitVec 16) (s : State) : Res := .next (commitBlock .node w gen [] checkNode s)

/-- Classes whose slot a bank changes. -/
def newSlots (old new : Nat → Word) : List Nat :=
  ((List.range 7).map (· + 1)).filter fun c => bits (old (0xB00100 + 4 * c)).toNat 0 1 != bits (new (0xB00100 + 4 * c)).toNat 0 1

/-- Packages whose TARGET a bank changes. -/
def newTargets (old new : Nat → Word) : List Nat :=
  (List.range 16).filter fun p => bits (old (0xB00200 + 4 * p)).toNat 0 2 != bits (new (0xB00200 + 4 * p)).toNat 0 2

/-- The check of the MGMT block (R436, R443, R444). -/
def checkMgmt (s : State) : Status :=
  firstBad [
    failIf (((List.range 16).any fun p => pendBits s (0xB00200 + 4 * p) 0 2 == 3) || decide (127 < pendBits s 0xB00300 1 8)) .illegalValue,
    failIf ((newSlots (actW s) (pendW s)).any fun c => !(fwSlot s c (pendBits s (0xB00100 + 4 * c) 0 1)).loadable) .illegalCombination,
    failIf ((newTargets (actW s) (pendW s)).any fun p => pendBits s (0xB00200 + 4 * p) 0 2 == 1 && pkgBusy s p) .busy]

/-- MGMT_COMMIT (R444). -/
def execMgmtCommit (w : Writer) (gen : BitVec 16) (s : State) : Res := .next (commitBlock .mgmt w gen [] checkMgmt s)

/-! ## What a set changes when it becomes active -/

/-- Offsets of the staged fields that the configuration in the management flash holds (R434). -/
def configOffs : List Nat :=
  [0x300000, 0xB0000C] ++ ((List.range 6).map portBase) ++ ((List.range 64).map fun i => 0xA00400 + 4 * i)
    ++ ((List.range 7).map fun i => 0xB00104 + 4 * i)

/-- The configuration is written to the flash where it changed (R394, R434). -/
def saveConfig (s : State) : State :=
  let c : Table Word := configOffs.foldl (fun t o => match tget s.regs.act o with
    | some v => tset t o v
    | none => t) []
  if c = s.mgmt.config then s
  else emit (.flash 0 (c.flatMap fun (o, v) => leBytes 4 o ++ leBytes 4 v.toNat)) { s with mgmt := { s.mgmt with config := c } }

/-- RINGS of every partition shows its rings (R368). -/
def showRings (s : State) : State :=
  let as := ((s.regs.act.filterMap fun (o, _) => ringOff o).map (·.1)).eraseDups.map (ringAssign s)
  forEach (List.range 64) (fun p s => setValBits (0xA01000 + 0x80 * p) 16 8 ((as.filter (· == 128 + p)).length) s) s

/-- A ring after a HOST commit: FAULT cleared where the set says so, and EN taken or given (R314 to R316, R327). -/
def swapRing (was : Bool) (clear : Bool) (imgs : List RingImage) (ring : Nat) (s : State) : State :=
  let r := getRing s ring
  let c := ringCfg s ring
  if c.en ∧ !was then
    if !c.resume then
      startFetch ring (setRing ring { known := true, running := true }
        { s with rma := { s.rma with oot := s.rma.oot.filter fun e => e.key / 2 ^ 32 != ring } })
    else match imgs.find? fun i => i.ring == ring with
      | some i => rebuildRing r.known i (setRing ring { r with fault := false } s)
      | none => post (fnEvent s (ringFn s ring) 7 5) (setRing ring { r with fault := true } (clearEn ring s))
  else
    let s1 := if clear ∧ r.fault then
        let s2 := setRing ring { r with fault := false } s
        match r.last with
        | some b =>
          writeRecord ring (emit (.dmaWrite (ringFn s ring) (c.cqBase + 32 * ((r.completed - 1).toNat % 2 ^ c.log2)) b) s2)
        | none => writeRecord ring s2
      else s
    if c.en then startFetch ring s1
    else if was then
      setRing ring { getRing s1 ring with fetch := .idle, running := tany s1.cmds fun _ e => e.ring == ring } s1
    else s1

/-- A function's event ring after its HOST commit: it runs again, the record that failed is written again, and what is held
follows (R314, R339). -/
def swapEv (fn : Nat) (s : State) : State :=
  let r := evRing s fn
  let s1 := if r.fault then
      let s2 := setEv fn { r with fault := false } s
      match r.last with
      | some (a, b) => signalVec fn (evCfg s fn).vec (emit (.dmaWrite fn a b) s2)
      | none => s2
    else s
  flushEv fn 260 s1

/-- The HOST set of a function becomes active. -/
def swapHost (fn : Nat) (old : Nat → Word) (t : Table Word) (imgs : List RingImage) (s : State) : State :=
  let clear (r : Nat) : Bool := match tget t (0x110038 + 0x40 * r) with
    | some v => bit v.toNat 17
    | none => false
  let s1 := forEach (setRings t) (fun r s => swapRing (bit (old (0x110018 + 0x40 * r)).toNat 16) (clear r) imgs r s) s
  swapEv fn (showRings s1)

/-- A partition becomes ACTIVE (R370, R413). -/
def activate (p : Nat) (s : State) : State :=
  let s1 := setPstate p 1 (setVal (0xA01004 + 0x80 * p) (valW s (0xA01004 + 0x80 * p) + 1) s)
  let s2 : State := { s1 with sec := { s1.sec with
      memKeys := tset s1.sec.memKeys p (pinst s1 p)
      slots := tfilter s1.sec.slots fun k _ => slotPart k != p } }
  tapPut 3 p 0 (pinst s2 p) (showKeys p s2)

/-- Fuses burn (R398). -/
def burnFuses (old : Nat → Word) (s : State) : State :=
  let s1 := forEach ((List.range 7).map (· + 1)) (fun c s =>
    let a := advanceOf (actW s) c
    let f := fuseSvn s c
    if f < a then
      logMgmt 0x83 1 .ok { b0 := c, b1 := a, h0 := f } (setValBits (0xA00600 + 4 * c) 0 7 a
        (emitAll ((List.range (a - f)).map fun i => .fuse "ARB" (64 * c + f + i)) s))
    else s) s
  let o := (old 0xA00640).toNat % 16
  let n := (actW s1 0xA00640).toNat % 16
  if o = n then s1
  else logMgmt 0x83 2 .ok { b0 := n, b1 := o }
    (emitAll (((List.range 4).filter fun k => bit n k && !bit o k).map fun k => .fuse "KEY" k) s1)

/-- The lifecycle moves on (R399); RETURNED destroys every key but the firmware keys. -/
def moveLifecycle (s : State) : State :=
  let req := (actW s 0xA00648).toNat
  let cur := valBits s 0xA00644 0 8
  if req = cur ∨ req < 3 then s
  else
    let s1 := logMgmt 0x83 3 .ok { b0 := cur, b1 := req } (emit (.fuse "LIFECYCLE" req) (setVal 0xA00644 (BitVec.ofNat 32 req) s))
    if req ≠ 3 then s1
    else
      let s2 : State := { s1 with
        sec := { s1.sec with slots := [], memKeys := [], keysGone := true, idRevoked := true }
        regs := { s1.regs with act := tfilter s1.regs.act fun k _ => !(decide (0xA00400 ≤ k) && decide (k < 0xA00500)) } }
      emit (.fuse "IDENTITY" 0) (forEach (List.range 64) (fun p s => showKeys p s) s2)

/-- The SEC set becomes active: partitions, keys, fuses, lifecycle. -/
def swapSec (old : Nat → Word) (s : State) : State :=
  let new := newParts s (actW s)
  let grown := (activeParts s).filter fun p => levelOf s p != sumN ((runsOf fun off => (old (0xA01000 + 0x80 * p + off)).toNat
    + 2 ^ 32 * (old (0xA01004 + 0x80 * p + off)).toNat).map (·.2))
  let s1 := forEach new activate s
  saveConfig (moveLifecycle (burnFuses old (forEach (new ++ grown) levelChanged s1)))

/-- The FAB set becomes active. -/
def swapFab (old : Nat → Word) (t : Table Word) (s : State) : State :=
  let one (p : Nat) (s : State) : State :=
    let b := portBase p
    let was := bit (old b).toNat 0
    let is_ := portCfg s p 0
    let x := getPort s p
    let s1 := if was ∧ !is_ then (if x.link = .down then s else linkDown p s)
      else if is_ ∧ !was then setLink p .detect (setPort p { x with attempts := 0, again := false } s) else s
    let touched := (tget t (b + 0x20)).isSome || (tget t (b + 0x24)).isSome
    let s2 := if touched then modPort p (fun x => { x with draws := 0, oneShotDone := false }) s1 else s1
    if touched ∧ actBits s2 (b + 0x20) 26 1 = 1 then setValBits 0xA00128 (8 + p) 1 1 s2 else s2
  let s1 := forEach (List.range 6) one s
  let role (bank : Nat → Word) : Nat := bits (bank 0x300010).toNat 0 5
  let s2 : State := if role old = role (actW s1) then s1
    else setValBits 0x300014 0 2 0 (setValBits 0x300014 3 5 0 { s1 with fab := { s1.fab with time := {} } })
  saveConfig s2

/-- The RMA set becomes active: a counter that becomes VALID starts at zero (R283). -/
def swapRma (old : Nat → Word) (t : Table Word) (s : State) : State :=
  forEach (setCounters t) (fun i s =>
    if bit (cntCfg s i) 6 ∧ !bit (old (0x480000 + 8 * i)).toNat 6 then { s with rma := { s.rma with counters := tdel s.rma.counters i } } else s) s

/-- The MEM set becomes active: image loads start, and a unit that runs keeps its bank group until it is IDLE (R156, R160). -/
def swapMem (old : Nat → Word) (s : State) : State :=
  let s1 := forEach (newImages old (actW s)) (fun p s => showImg p { s with mem := { s.mem with switching := s.mem.switching ++ [p] } }) s
  forEach ((List.range 128).filter fun d => old (0x602200 + 4 * d) != actW s (0x602200 + 4 * d)) (fun d s =>
    let runs := (List.range 9).any fun i => !unitFree (getUnit s (9 * d + i))
    if runs ∧ (tget s.mem.remapOld d).isNone then { s with mem := { s.mem with remapOld := tset s.mem.remapOld d (old (0x602200 + 4 * d)).toNat } }
    else s) s1

/-- Engines of a microcode class, by number (R392): merge engines follow the tiles; ladle, pattern, encoder engines and expanders;
walkers; ports and the RMA engine; memory controllers. -/
def classEngines (c : Nat) : Nat :=
  match c with
  | 2 => 20
  | 3 => 26
  | 4 => 32
  | 5 => 7
  | _ => 4

/-- The MSS stops, to restart for a cause of R433 (R363, R436). -/
def mssStops (cause : Nat) (s : State) : State :=
  if s.mgmt.mssRunning then { s with mgmt := { s.mgmt with mssRunning := false, mssCause := cause, pausedAt := s.clk.mss } } else s

/-- A slot of a class is activated (R436). -/
def activateFw (c : Nat) (s : State) : State :=
  let f := fwSlot s c (actSlot s c)
  let s1 := logMgmt 0x82 2 .ok { b0 := c, b1 := actSlot s c, w0 := f.version } s
  if c = 1 then mssStops 2 s1
  else if c = 7 then s1
  else setValBits (0xB00100 + 4 * c) 1 1 0 { s1 with mgmt := { s1.mgmt with fences := tset s1.mgmt.fences c (List.range (classEngines c)) } }

/-- The MGMT set becomes active. -/
def swapMgmt (old : Nat → Word) (s : State) : State :=
  let s1 := forEach (newTargets old (actW s)) pkgTarget s
  saveConfig (forEach (newSlots old (actW s)) activateFw s1)

/-- A set's effects beside the values themselves. -/
def swapEffects (b : Block) (vf : Nat) (old : Nat → Word) (t : Table Word) (imgs : List RingImage) (s : State) : State :=
  match b with
  | .node => showRemap (noteSwitches old (actW s) [1, 2, 3, 4] s)
  | .host => swapHost vf old t imgs s
  | .fab => swapFab old t s
  | .rma => swapRma old t s
  | .mem => swapMem old s
  | .tile => showRemap (noteSwitches old (actW s) [0] s)
  | .walk => swapWalk old s
  | .sec => swapSec old s
  | .mgmt => swapMgmt old s
  | _ => s

/-- A staged 1 in STS.FAULT of a ring record is a command, no value (R315). -/
def isStsOff (off : Nat) : Bool := match ringOff off with
  | some (_, k) => k == 56
  | none => false

/-- An activation has no tap entry for its OPEN record any more: the swap waits (R409). -/
def swapWaits (b : Block) (t : Table Word) (s : State) : Bool :=
  b == .sec && decide (tapSize < s.tap.queue.length + (newParts s (withSet s t)).length)

/-- COMMIT_SAFE_POINT_SWAP (R329): the checked set of a block, or of a VF, becomes active between two admissions, or at a round
boundary while a deck runs; pending is active again, and the generation moves on. -/
def execCommitSafePointSwap (b : Block) (vf : Nat) (s : State) : Res :=
  .next (
    let k := if b = .host ∧ vf ≠ 0 then 64 + vf else blockNo b
    let c := ctlOf s k
    match c.checked with
    | none => s
    | some (t, imgs) =>
      if !serving s ∨ !atBoundary s ∨ 64 < vf ∨ (vf ≠ 0 ∧ b ≠ .host) ∨ swapWaits b t s then s
      else
        let old := actW s
        let s1 : State := { s with regs := { s.regs with act := (tfilter t fun o _ => !isStsOff o).foldl (fun a (o, v) => tset a o v) s.regs.act } }
        let s2 := if vf = 0 then discardBlock b s1 else discardVf vf s1
        swapEffects b vf old t imgs (setCtl k { c with gen := c.gen + 1, checked := none } s2))

/-- MICROCODE_FENCE_LOAD (R436): outside a deck an engine loads its class's new version at an idle point; the last ends the fence. -/
def execMicrocodeFenceLoad (cls : Nat) (engine : Nat) (s : State) : Res :=
  .next (
    match tget s.mgmt.fences cls with
    | none => s
    | some l =>
      if deckRuns s ∨ !mainOn s ∨ !l.contains engine then s
      else
        let rest := l.erase engine
        if !rest.isEmpty then { s with mgmt := { s.mgmt with fences := tset s.mgmt.fences cls rest } }
        else
          logMgmt 0x82 4 .ok { b0 := cls, b1 := actSlot s cls, w0 := (fwSlot s cls (actSlot s cls)).version }
            (setValBits (0xB00100 + 4 * cls) 1 1 1 { s with mgmt := { s.mgmt with fences := tdel s.mgmt.fences cls } }))

end Sys2Proof.Machine
end

