-- ==== Sys2Proof/Machine/Power.lean ====
section
/-! DEFINITION. Node states and their changes (R421 to R428), resets and what each keeps (R326, R327, R439), bring-up (R437, R438), the
power inputs, pins and clocks (R452, R461, R466), JTAG (R426) and the sensors (R427, R428). -/

namespace Sys2Proof.Machine

open Sys2Proof

/-! ## The event log in flash (R432, R433) -/

/-- The 64 bytes of a log entry. -/
def entryBytes : LogEntry → List Byte
  | .event seq e => eventBytes seq 0 e
  | .mgmt seq cls code t st m =>
    leBytes 4 seq ++ leBytes 1 cls ++ leBytes 1 code ++ zeros 2 ++ leBytes 8 t ++ zeros 12 ++ leBytes 2 st.code ++ zeros 2
      ++ leBytes 1 m.b0 ++ leBytes 1 m.b1 ++ leBytes 2 m.h0 ++ leBytes 4 m.w0 ++ zeros 24

/-- The MSS writes what it batched; the log keeps its newest 65,536 entries. -/
def flushLog (s : State) : State :=
  if s.mgmt.logBatch.isEmpty ∨ !s.mgmt.mssRunning then s
  else
    let l := s.mgmt.log ++ s.mgmt.logBatch
    emit (.flash 2 (s.mgmt.logBatch.flatMap entryBytes)) { s with mgmt := { s.mgmt with log := l.drop (l.length - 65536), logBatch := [] } }

/-- EVENT_LOG_FLUSH (R432). -/
def execEventLogFlush (s : State) : Res := .next (if s.mgmt.st = .off then s else flushLog s)

/-! ## Cold reset (R13, R326) -/

/-- Registers outside the banks that a cold reset leaves: ownership, the fuses and the lifecycle, the challenge, the sensors. -/
def keptOff (o : Nat) : Bool :=
  o == 0x40 || o == 0x4C || inRange o 0xA00100 0xA0010F || inRange o 0xA00604 0xA0061F || o == 0xA00644 || inRange o 0xB01000 0xB010FF

/-- The registers after a cold reset: what the configuration in the flash and the fuses give, and reset values. -/
def coldRegs (s : State) : RegFile :=
  let arb := ((List.range 7).map (· + 1)).foldl (fun t c =>
    if fuseSvn s c = 0 then t else tset t (0xA00600 + 4 * c) (BitVec.ofNat 32 (256 * fuseSvn s c))) s.mgmt.config
  { act := match tget s.regs.act 0xA00640 with
      | some v => tset arb 0xA00640 v
      | none => arb
    val := tfilter s.regs.val fun o _ => keptOff o }

/-- The data path and its registers after a cold reset. Ownership, MSS time, the log, the flash, the fuses and the Assay go on. -/
def coldData (s : State) : State :=
  { s with
    clk := { mss := s.clk.mss }
    regs := coldRegs s
    host := { perst := s.host.perst }
    cmds := [], seqs := [], shards := [], parts := {}, retained := []
    tap := { ready := s.tap.ready, beat := s.tap.beat }
    mem := {}, walk := {}, fab := {}, rma := {}, rmx := {}, deck := {}
    sec := { s.sec with slots := [], memKeys := [], trace := [], traceNext := 0, releases := []
                        coldResets := s.sec.coldResets + 1, keyGen := s.sec.coldResets + 1, warmResets := 0 }
    mgmt := { s.mgmt with stepNo := 0, held := false, warm := false, jtagDriven := false, ringDescs := [], ringComps := [], tags := []
                          upd := none, updBuf := [], fences := [], ptpGood := 0 } }

/-- A state with main power is left for STANDBY (R422). -/
def coldReset (cause : Nat) (s : State) : State := showState (coldData (enterState .standby cause 0 s))

/-! ## Bring-up starts and goes on (R437) -/

/-- HOLD_AT of MGMT_CFG. -/
def holdAt (s : State) : Nat := actBits s 0xB0000C 1 3

/-- Bring-up stands before step `n`, and is held there where HOLD_AT says so. -/
def toStep (n : Nat) (s : State) : State :=
  showState { s with mgmt := { s.mgmt with stepNo := n, held := n != 0 && holdAt s == n } }

/-- Bring-up starts from STANDBY, for a cause of R433. -/
def startBoot (cause : Nat) (s : State) : State := toStep 1 { s with mgmt := { s.mgmt with bootCause := cause, warm := false } }

/-- With AUTO_ON, bring-up starts on reaching STANDBY, where it may (R422, R444). -/
def autoBoot (s : State) : State :=
  if actBits s 0xB0000C 0 1 = 1 ∧ s.mgmt.st = .standby ∧ s.mgmt.stepNo = 0 ∧ s.pins.vin48 ∧ s.pins.oscGood then startBoot 3 s else s

/-- The main rails go down for a cause: a cold reset, or the end of a bring-up that has not left STANDBY. -/
def railsDown (cause : Nat) (s : State) : State := if mainOn s then coldReset cause s else if s.mgmt.stepNo = 0 then s else toStep 0 s

/-! ## Commands that a reset ends -/

/-- Commands of the rings named go, with every trace of them in the node (R326). What they committed stays. -/
def forget (dead : Nat → Bool) (s : State) : State :=
  let dk (k : Nat) : Bool := dead (k / 2 ^ 32)
  let gone := (s.cmds.filter fun (k, _) => dk k).map (·.2)
  let freeing (n : Nat) : Bool := gone.any fun c => c.op == 0x19 && c.phase == .running && seqOf c == n
  let stream (x : Stream) : Stream :=
    { x with auto := x.auto.filter (fun a => !dead a.ring), selQ := x.selQ.filter (fun e => !dead e.ring)
             flipReaders := x.flipReaders.filter fun k => !dk k }
  let seq (n : Nat) (q : Seq) : Seq :=
    { q with readers := q.readers.filter (fun r => !dk r.key), ladles := q.ladles.filter (fun k => !dk k)
             oldReaders := q.oldReaders.filter (fun k => !dk k), freeAdm := q.freeAdm && !freeing n, streams := q.streams.map stream }
  let publishing (n : Nat) : Bool := gone.any fun c => c.op == 0x23 && c.phase == .running && idxOf c == n
  let s1 : State := { s with
    cmds := s.cmds.filter fun (k, _) => !dk k
    seqs := tmap s.seqs seq
    walk := { s.walk with indexes := tmap s.walk.indexes fun n x => { x with applying := x.applying && !publishing n } }
    rma := { s.rma with
      conns := tmap s.rma.conns fun _ x => { x with ops := x.ops.filter fun o => match o.key with
        | some k => !dk k
        | none => true }
      waiters := s.rma.waiters.filter fun w => match w.key with
        | some k => !dk k
        | none => true }
    deck := { s.deck with swap := s.deck.swap.filter fun q => !dk q.key }
    sec := { s.sec with releases := tfilter s.sec.releases fun _ r => !dk r.key } }
  match s1.rmx.writing with
  | none => s1
  | some w =>
    if !dk w.key then s1
    else
      let ents := tmap (tfilter s1.rmx.ents fun _ e => !e.born) fun _ e => { e with dying := false }
      showRmx { s1 with rmx := { s1.rmx with ents := ents, writing := none } }

/-! ## Warm reset (R326, R327, R438, R439) -/

/-- A command of the management ring that is not complete runs again from its slot (R327, R431). -/
def runAgain (s : State) (c : Cmd) : Cmd :=
  newCmd { s with mgmt := { s.mgmt with ringDescs := [(c.master, c.desc)] } } mgmtRing c.rseq (.ok c.desc) true

/-- What a ring keeps while the node is in reset. -/
def ringInReset (en : Bool) (r : Ring) : Ring := { r with used := 0, running := false, resuming := en, fetch := .idle, unsig := 0 }

/-- The node after the save of R439: register values, ring records, memory, contexts, regions, counters, the map, keys, the tap and held
events are kept; commands, decks, waits, retention records, units, links and everything else under way is lost. -/
def warmData (s : State) : State :=
  let again := ((s.cmds.filter fun (_, c) => c.ring == mgmtRing).map fun (k, c) => (k, runAgain s c))
  let s1 := forget (fun _ => true) s
  let conn (x : Conn) : Conn :=
    { x with held := none, reading := none, waiting := [], fetching := false, resendAt := none, txHeld := false }
  let s2 : State := { s1 with
    cmds := again
    retained := []
    host := { s1.host with
      rings := tmap s1.host.rings fun n r => if n = mgmtRing then { r with used := sumN (again.map (·.2.units)), fetch := .idle }
        else ringInReset (ringCfg s n).en r
      msix := [], drr := {}, linkUp := false }
    parts := { s1.parts with switching := [], loading := [] }
    mem := { s1.mem with units := [], owed := [], imgLoaded := [], switching := [], finished := [], remapOld := [] }
    walk := { s1.walk with caches := [], indexes := tmap s1.walk.indexes fun _ x => { x with applying := false } }
    fab := { ports := tmap s1.fab.ports fun _ x => { draws := x.draws, oneShotDone := x.oneShotDone } }
    rma := { s1.rma with conns := tmap s1.rma.conns fun _ x => conn x, cache := [], waiters := [] }
    rmx := { s1.rmx with held := [] }
    deck := {}
    sec := { s1.sec with trace := [], traceNext := 0, releases := [], warmResets := s1.sec.warmResets + 1 } }
  let s3 := if s2.rmx.retiring.isSome then retireEpoch s2 else s2
  let s4 := setValBits 0x300014 0 3 0 (showDeck (showTrace (showRmx s3)))
  forEach [0, 1, 2, 3, 4, 5] settleShares (forEach (List.range 16) showImg (forEach (List.range 6) showPort s4))

/-- A warm reset for a cause of R433: 1 PERST#, 2 hot reset, 3 link down, 4 the owner. After a JTAG instruction has driven pins, it is
carried out as a cold reset (R426). Bring-up that has not filled memory starts afresh at step 2. -/
def warmReset (w0 : Nat) (s : State) : State :=
  if s.mgmt.jtagDriven then startBoot 12 (coldReset 12 s)
  else
    let fresh := s.mgmt.st == .bringup && !s.mgmt.warm
    let s1 := enterState .bringup 10 w0 (warmData s)
    toStep 2 { s1 with mgmt := { s1.mgmt with warm := !fresh } }

/-- The PCIe link is gone, for a cause of R433: a warm reset, but for one that is under way already. -/
def linkLost (w0 : Nat) (s : State) : State :=
  let s1 : State := { s with host := { s.host with linkUp := false } }
  match s.mgmt.st with
  | .ready => warmReset w0 s1
  | .degraded => warmReset w0 s1
  | .test => warmReset w0 s1
  | .bringup => if s.mgmt.warm then s1 else warmReset w0 s1
  | _ => s1

/-! ## Function-level resets (R326) -/

/-- Rings of a function that are enabled or still hold commands. -/
def flrRings (s : State) (mine : Nat → Bool) : List Nat := (s.host.rings.map (·.1)).filter fun n => n != mgmtRing && mine n

/-- A function-level reset: the rings' EN clears, their commands are dropped for a rebuild by RESUME, and MSI-X resets. -/
def flr (fn : Nat) (mine : Nat → Bool) (s : State) : State :=
  let rs := flrRings s mine
  let s1 := forget (fun r => rs.contains r) s
  let s2 := forEach rs (fun n s => setRing n { ringInReset false (getRing s n) with resuming := false } (clearEn n s)) s1
  let s3 : State := { s2 with host := { s2.host with msix := tfilter s2.host.msix fun k _ => k / 64 != fn } }
  mapTurn 5000 (forEach (s3.cmds.filter fun (_, c) => c.op == 0x62 && c.phase == .running && (tget s3.sec.releases c.part).isNone)
    (fun (_, c) s => if (tget s.sec.releases c.part).isSome then s else checkRelease c s) s3)

/-- FLR_VF (R326). -/
def execFlrVf (vf : Nat) (s : State) : Res :=
  .next (if vf = 0 ∨ 64 < vf ∨ !serving s then s else flr vf (fun n => ringAssign s n == 128 + (vf - 1)) s)

/-- FLR_PF (R326): partitions and their rings go on. -/
def execFlrPf (s : State) : Res := .next (if serving s then flr 0 (ownerRing s) s else s)

/-! ## Requests (R424) -/

/-- A write of MGMT_REQ: a master that is not the owner, or a state that is not listed, changes nothing. -/
def request (w : Writer) (ok : NodeState → Bool) (f : State → State) (s : State) : State :=
  match masterOf w with
  | none => if serving s then rejectWrite w 0xB00004 .accessViolation s else s
  | some m =>
    if !servedWrite s 0xB00004 ∨ (w = .pf ∧ !mainOn s) then s
    else if !ownerIs s m then setReq .notOwner (rejectWrite w 0xB00004 .notOwner s)
    else if !ok s.mgmt.st then setReq .wrongState s
    else f s

/-- Some sensor stands at WARN. -/
def anyWarn (s : State) : Bool := (List.range 64).any fun i => valBits s (0xB01000 + 4 * i) 17 1 == 1

/-- A state of R422 with main power. -/
def poweredState (st : NodeState) : Bool := st == .bringup || st == .ready || st == .degraded || st == .test

/-- POWER_ON: ST_POWER_ABSENT without 48 V, and not before every sensor is below WARN after a trip (R466). -/
def reqPowerOn (w : Writer) (s : State) : State :=
  request w (· == .standby) (fun s =>
    if !s.pins.vin48 then setReq .powerAbsent s
    else if s.mgmt.stepNo ≠ 0 ∨ (s.pins.thermTrip ∧ anyWarn s) then setReq .wrongState s
    else
      let s1 := setReq .ok { s with pins := { s.pins with thermTrip := false } }
      startBoot 2 (if s.pins.thermTrip then emit (.pin "THERM_TRIP#" true) s1 else s1)) s

/-- POWER_ON (R424). -/
def execPowerOn (w : Writer) (s : State) : Res := .next (reqPowerOn w s)

/-- POWER_OFF: the main rails go off. -/
def reqPowerOff (w : Writer) (s : State) : State := request w poweredState (fun s => setReq .ok (coldReset 11 s)) s

/-- POWER_OFF (R424). -/
def execPowerOff (w : Writer) (s : State) : Res := .next (reqPowerOff w s)

/-- WARM_RESET. -/
def reqWarmReset (w : Writer) (s : State) : State :=
  request w (fun st => st == .ready || st == .degraded || st == .test) (fun s => setReq .ok (warmReset 4 s)) s

/-- WARM_RESET (R424). -/
def execWarmReset (w : Writer) (s : State) : Res := .next (reqWarmReset w s)

/-- COLD_RESET: through STANDBY, and on to BRINGUP at once (R422). -/
def reqColdReset (w : Writer) (s : State) : State := request w poweredState (fun s => setReq .ok (startBoot 12 (coldReset 12 s))) s

/-- COLD_RESET (R424). -/
def execColdReset (w : Writer) (s : State) : Res := .next (reqColdReset w s)

/-- ENTER_TEST: TEST_ENTERED is set, and every ACTIVE partition is touched (R385, R387, R426). -/
def reqEnterTest (w : Writer) (s : State) : State :=
  request w (fun st => st == .ready || st == .degraded) (fun s =>
    touch (activeParts s) (setValBits 0xA00128 2 1 1 (setReq .ok (enterState .test 8 0 s)))) s

/-- ENTER_TEST (R424). -/
def execEnterTest (w : Writer) (s : State) : Res := .next (reqEnterTest w s)

/-- READY, or DEGRADED while a cause of it stands. -/
def servingState (s : State) : NodeState := if s.parts.degraded.isEmpty then .ready else .degraded

/-- LEAVE_TEST; a cold reset after a JTAG instruction has driven pins (R426). -/
def reqLeaveTest (w : Writer) (s : State) : State :=
  request w (· == .test) (fun s =>
    setReq .ok (if s.mgmt.jtagDriven then startBoot 12 (coldReset 12 s) else enterState (servingState s) 9 0 s)) s

/-- LEAVE_TEST (R424). -/
def execLeaveTest (w : Writer) (s : State) : Res := .next (reqLeaveTest w s)

/-- RECOVERY. -/
def reqRecovery (w : Writer) (s : State) : State :=
  request w (fun st => st == .standby || st == .recovery) (fun s => setReq .ok (enterState .recovery 15 0 (railsDown 15 s))) s

/-- RECOVERY (R424). -/
def execRecovery (w : Writer) (s : State) : Res := .next (reqRecovery w s)

/-- CONTINUE: a bring-up that is held goes on. -/
def reqContinue (w : Writer) (s : State) : State :=
  request w (fun st => st == .bringup || st == .standby) (fun s =>
    if s.mgmt.held then setReq .ok (showState { s with mgmt := { s.mgmt with held := false } }) else setReq .wrongState s) s

/-- CONTINUE (R424). -/
def execContinueReq (w : Writer) (s : State) : Res := .next (reqContinue w s)

/-! ## Bring-up steps (R437, R438) -/

/-- Step 4: packages whose channels failed training go offline; a new package state shows the others ONLINE. -/
def trainPackages (mask : Nat) (s : State) : State := forEach ((List.range 16).filter (bit mask)) (fun p s => pkgDown p 3 5 s) s

/-- Step 5: MEM_CRU_CTL.EN is set, and every unit of a package takes the image that VERSION_PEND names, where the store has it. -/
def loadCrucibles (s : State) : State :=
  let s1 := setAct 0x602000 (BitVec.ofNat 32 (putBits (actW s 0x602000).toNat 0 1 1)) s
  forEach (List.range 16) (fun p s =>
    match crucImage s (imgVersion s p) with
    | none => s
    | some i =>
      showImg p (forEach (List.range 72) (fun k s =>
        let u := 72 * p + k
        let s1 := setUnit u { getUnit s u with prog := imageProg i.words, imgver := imgVersion s p } s
        { s1 with mem := { s1.mem with imgLoaded := tset s1.mem.imgLoaded u (imgVersion s p) } }) s)) s1

/-- Step 6: memory is filled (R383), but not at a warm reset; the enabled ports start to train. -/
def fillAndTrain (s : State) : State :=
  let s1 : State := if s.mgmt.warm then s else { s with mem := { s.mem with cells := [], err := [] } }
  forEach ((List.range 6).filter fun p => portCfg s p 0) (fun p s => setLink p .detect s) s1

/-- Rings whose EN is set, ascending. -/
def enabledRings (s : State) : List Nat := (s.host.rings.map (·.1)).filter fun n => n != mgmtRing && (ringCfg s n).en

/-- After a warm reset every ring with EN set is rebuilt from what the node reads back; one that it cannot read stops with FAULT (R327). -/
def rebuildAll (imgs : List RingImage) (s : State) : State :=
  forEach (enabledRings s) (fun n s =>
    match imgs.find? fun i => i.ring == n with
    | some i => rebuildRing true i s
    | none => post (fnEvent s (ringFn s n) 7 5) (setRing n { getRing s n with fault := true, resuming := false } (clearEn n s))) s

/-- The management ring is rebuilt in its SRAM (R431). -/
def rebuildMgmtRing (s : State) : State := setRing mgmtRing { getRing s mgmtRing with resets := (getRing s mgmtRing).resets + 1 } s

/-- Region 65,535: management messages by remote write (R429). -/
def mgmtRegionOf (r : Region) : Region := { used := true, gen := r.gen, part := 64, access := 2, len := 17168 }

/-- Step 7: region 65,535, the management ring, and after a warm reset the host rings; READY or DEGRADED. -/
def finishBoot (imgs : List RingImage) (s : State) : State :=
  let s1 : State := { s with
    rma := { s.rma with regions := tset s.rma.regions mgmtRegion (mgmtRegionOf (getRegion s mgmtRegion)) }
    mgmt := { s.mgmt with stepNo := 0, held := false, warm := false } }
  let s2 := enterState (servingState s) 4 0 (rebuildMgmtRing s1)
  if s.mgmt.warm then rebuildAll imgs s2 else s2

/-- BRINGUP_STEP_DONE (R437): the step in progress ends. `imgs` is what the node reads back of its rings at step 7 of a warm reset. -/
def execBringupStepDone (res : BringupResult) (imgs : List RingImage) (s : State) : Res :=
  .next (
    if s.mgmt.held ∨ s.mgmt.st = .off then s
    else match s.mgmt.stepNo, res with
      | 1, _ => if s.pins.vin48 then toStep 2 s else s
      | 2, _ =>
        if !s.pins.oscGood then s
        else toStep 3 (if s.mgmt.st = .standby then enterState .bringup s.mgmt.bootCause 0 s else s)
      | 3, .microcodeFailed => coldReset 5 s
      | 3, _ => toStep 4 s
      | 4, .packagesFailed mask =>
        let s1 := trainPackages mask.toNat s
        if (List.range 16).all fun p => pkgState s1 p == 3 then coldReset 5 s1 else toStep 5 s1
      | 4, _ => toStep 5 s
      | 5, _ =>
        let s1 := loadCrucibles s
        if s.mgmt.warm then toStep 7 (fillAndTrain s1) else toStep 6 s1
      | 6, _ => toStep 7 (fillAndTrain s)
      | 7, _ => finishBoot imgs s
      | _, _ => s)

/-! ## Power inputs, pins and clocks (R422, R452, R461, R466) -/

/-- 48 V is lost: a cold reset of the data path. -/
def lose48 (s : State) : State := railsDown 13 { s with pins := { s.pins with vin48 := false } }

/-- MAIN_POWER_LOSS (R452). -/
def execMainPowerLoss (s : State) : Res := .next (lose48 s)

/-- VIN48_DIP (R452): at most 100 µs above 30 V is ridden through; a longer or deeper dip is a loss of 48 V. -/
def execVin48Dip (us : Nat) (minMv : Nat) (s : State) : Res := .next (if us ≤ 100 ∧ 30000 < minMv then s else lose48 s)

/-- VIN48_RETURN (R422). -/
def execVin48Return (s : State) : Res := .next (autoBoot { s with pins := { s.pins with vin48 := true } })

/-- STANDBY_POWER_LOSS (R401, R422): OFF. Log entries that are not written are lost, and so are ownership and sessions. -/
def execStandbyPowerLoss (s : State) : Res :=
  .next (
    if s.mgmt.st = .off then s
    else
      let s1 := coldData { s with own := {} }
      showState { s1 with
        clk := {}
        mgmt := { s1.mgmt with st := .off, prev := s.mgmt.st, mssRunning := false, mssCause := 0, sessions := [], logBatch := [], logHw := [], logLost := 0
                               eid := 0, msgSeq := 0, bootCause := 0, pausedAt := 0 }
        pins := { s1.pins with vstby := false, nodeReady := false, thermTrip := false }
        tap := { s1.tap with ready := false, beat := false }
        assay := { s1.assay with nvm := s1.assay.cnt, ring := [], ringNext := 0, level := [], acc := [], active := [], lastSeq := none } })

/-- Where the boot ROM goes with standby power: RECOVERY for a scrapped module, by the strap, or with no MSS slot to boot; else the slot
to boot (R397, R399, R422). -/
def bootMss (s : State) : State :=
  let a := actSlot s 1
  if valBits s 0xA00644 0 8 = 4 then enterState .recovery 18 0 s
  else if !s.pins.recoveryN then enterState .recovery 15 0 s
  else if (fwSlot s 1 a).loadable then enterState .standby 1 0 s
  else if (fwSlot s 1 (1 - a)).loadable then
    enterState .standby 1 0 (logMgmt 0x82 3 .ok { b0 := 1, b1 := 1 - a, w0 := (fwSlot s 1 a).version }
      (saveConfig (setAct 0xB00104 (BitVec.ofNat 32 (1 - a)) s)))
  else enterState .recovery 16 0 s

/-- STANDBY_POWER_GOOD (R422, R462). -/
def execStandbyPowerGood (recoveryN : Bool) (sris : Bool) (smbAddr : BitVec 2) (s : State) : Res :=
  .next (
    if s.mgmt.st ≠ .off then s
    else
      let s1 : State := { s with
        pins := { s.pins with vstby := true, recoveryN := recoveryN, sris := sris, smbAddr := smbAddr }
        mgmt := { s.mgmt with mssRunning := true }
        tap := { s.tap with ready := true, beat := true } }
      autoBoot (bootMss (drawChallenge s1)))

/-- PERST_ASSERT (R461, R466): a warm reset in READY, DEGRADED and TEST. -/
def execPerstAssert (s : State) : Res :=
  .next (
    let s1 : State := { s with host := { s.host with perst := true, linkUp := false } }
    if s.mgmt.st = .ready ∨ s.mgmt.st = .degraded ∨ s.mgmt.st = .test then warmReset 1 s1 else s1)

/-- PERST_DEASSERT (R437). -/
def execPerstDeassert (s : State) : Res := .next { s with host := { s.host with perst := false } }

/-- PCIE_LINK_DOWN (R326). -/
def execPcieLinkDown (hotReset : Bool) (s : State) : Res :=
  .next (if s.host.linkUp then linkLost (if hotReset then 2 else 3) s else s)

/-- PCIE_LINK_UP (R437). -/
def execPcieLinkUp (s : State) : Res :=
  .next (
    if mainOn s ∧ !s.host.perst then { s with host := { s.host with linkUp := true }, pins := { s.pins with refclk := true } } else s)

/-- REFCLK_LOSS (R466): in common-clock mode the link goes down. -/
def execRefclkLoss (s : State) : Res :=
  .next (
    let s1 : State := { s with pins := { s.pins with refclk := false } }
    if !s.pins.sris ∧ s.host.linkUp then linkLost 3 s1 else s1)

/-- NODE_OSC_FAILURE (R466). -/
def execNodeOscFailure (s : State) : Res :=
  .next (
    let s1 : State := { s with pins := { s.pins with oscGood := false } }
    if mainOn s then coldReset 20 s1 else s1)

/-- NODE_OSC_RECOVERY (R466). -/
def execNodeOscRecovery (s : State) : Res := .next (autoBoot { s with pins := { s.pins with oscGood := true } })

/-! ## JTAG (R426) -/

/-- JTAG_BYPASS: the bit that TDI gave. -/
def execJtagBypass (s : State) : Res := .next (if s.mgmt.st = .off then s else emit (.jtag 0) s)

/-- JTAG_IDCODE. -/
def execJtagIdcode (s : State) : Res := .next (if s.mgmt.st = .off then s else emit (.jtag Config.idcode.toNat) s)

/-- JTAG_SAMPLE_PRELOAD: in TEST, what the pins hold. -/
def execJtagSamplePreload (s : State) : Res :=
  .next (if s.mgmt.st = .test then stepFree (emit (.jtag (Config.freeNat s.freeCnt)) s) else s)

/-- An instruction that drives pins: in TEST the first ends the data path as a cold reset does, and the node stays in TEST. -/
def driveJtag (s : State) : State :=
  if s.mgmt.st ≠ .test ∨ s.mgmt.jtagDriven then s
  else
    let dbg := valW s 0xA00128
    let s1 := coldData (logMgmt 0x80 1 .ok { b0 := s.mgmt.st.code, b1 := s.mgmt.st.code, h0 := 19 } s)
    showState (setVal 0xA00128 dbg { s1 with mgmt := { s1.mgmt with jtagDriven := true } })

/-- JTAG_EXTEST (R426). -/
def execJtagExtest (s : State) : Res := .next (driveJtag s)

/-- JTAG_CLAMP (R426). -/
def execJtagClamp (s : State) : Res := .next (driveJtag s)

/-- JTAG_INTEST (R426). -/
def execJtagIntest (s : State) : Res := .next (driveJtag s)

/-! ## Sensors (R427, R428) -/

/-- WARN, LIMIT and TRIP of a sensor, and how far below a threshold its bit clears. With a VCORE phase lost, the power limit is 600 W
(R363). -/
def thresholds (s : State) (i : Nat) : Option (Nat × Nat × Nat × Nat) :=
  if i < 4 then some (800, 840, 880, 24)
  else if i < 20 then some (720, 760, 800, 24)
  else if i = 23 then some (6200, if s.parts.phasesLost = 0 then 6500 else 6000, 7200, 100)
  else none

/-- A threshold bit after a reading: set at the threshold, cleared the given distance below it. -/
def threshBit (was : Bool) (v : Int) (t h : Nat) : Bool := decide ((t : Int) ≤ v) || (was && decide ((t : Int) - h < v))

/-- A reading of a sensor. -/
def sensorRead (x : SensorVal) (s : State) : State :=
  if 30 ≤ x.idx then s
  else
    let o := 0xB01000 + 4 * x.idx
    match thresholds s x.idx with
    | none => setVal o (BitVec.ofNat 32 (x.val.toNat + 65536)) s
    | some (w, l, _, h) =>
      let ow := valBits s o 17 1 == 1
      let ol := valBits s o 18 1 == 1
      let nw := threshBit ow x.val.toInt w h
      let nl := threshBit ol x.val.toInt l h
      let log (code b1 t : Nat) (s : State) : State := logMgmt 0x84 code .ok { b0 := x.idx, b1 := b1, h0 := x.val.toNat, w0 := t } s
      let s1 := setVal o (BitVec.ofNat 32 (x.val.toNat + 65536 + 2 ^ 17 * b2n nw + 2 ^ 18 * b2n nl)) s
      let s2 := if nw = ow then s1 else if nw then log 1 0 w s1 else log 4 1 w s1
      if nl = ol then s2 else if nl then log 2 0 l s2 else log 4 2 l s2

/-- TELEMETRY_SAMPLE (R427): one millisecond ends. -/
def execTelemetrySample (vals : List SensorVal) (s : State) : Res :=
  .next (if s.mgmt.st = .off then s else forEach vals sensorRead (advanceMss ((s.clk.mss / 1000000 + 1) * 1000000) s))

/-- THERMAL_TRIP (R428): hardware writes the log and takes the rails off. -/
def execThermalTrip (sensor : Nat) (val : BitVec 16) (s : State) : Res :=
  .next (
    match thresholds s sensor with
    | none => s
    | some (_, l, t, _) =>
      let passed := if sensor = 23 then decide (l < val.toNat) else decide ((t : Int) ≤ val.toInt)
      if !passed ∨ (!mainOn s ∧ s.mgmt.stepNo = 0) then s
      else
        let s1 := flushLog (logMgmt 0x84 3 .ok { b0 := sensor, h0 := val.toNat, w0 := t } s)
        let s2 := railsDown 14 s1
        emit (.pin "THERM_TRIP#" false) { s2 with pins := { s2.pins with thermTrip := true } })

/-- RETRAINING_PIECE (R441): one channel is retrained. A deadline that passes under a deck strikes the card that holds the channel's
controller. -/
def execRetrainingPiece (ch : Nat) (late : Bool) (s : State) : Res :=
  .next (if late ∧ deckRuns s ∧ serving s ∧ ch < 64 then strikeCards 7 (ch / 16) s else s)

end Sys2Proof.Machine
end

