-- ==== Sys2Proof/Machine/Faults.lean ====
section
/-! DEFINITION. Faults of single parts and what replaces them (R350 to R352, R363, R468), buffer and memory errors (R147, R354), and the
step and part watchdogs (R358). -/

namespace Sys2Proof.Machine

open Sys2Proof

/-! ## Replaceable parts (R351, R352, R468) -/

/-- PHYS of a logical number takes a value that the node writes. -/
def setPhys (k l p : Nat) (s : State) : State :=
  let (o, lo, w) := physField k l
  setAct o (BitVec.ofNat 32 (putBits (actW s o).toNat lo w p)) s

/-- An instance in service that serves no logical number and is named by none: the lowest. -/
def freePhys (s : State) (k : Nat) : Option Nat :=
  (List.range (physicals k)).find? fun p => !(failedOf s k).contains p && (servedBy s k p).isEmpty
    && (List.range (logicals k)).all fun l => physOf (actW s) k l != p

/-- The survivor that serves the fewest logical numbers; among equals, the lowest. -/
def survivor (s : State) (k : Nat) : Option Nat :=
  ((List.range (physicals k)).filter fun p => !(failedOf s k).contains p).foldl (fun best p => match best with
    | none => some p
    | some b => if (servedBy s k p).length < (servedBy s k b).length then some p else some b) none

/-- A switch of a logical number that was under way is over. -/
def dropSwitch (k l : Nat) (s : State) : State :=
  { s with parts := { s.parts with switching := s.parts.switching.filter fun (a, b, _) => !(a == k && b == l) } }

/-- The instance that takes a logical number over gets ready (R351). -/
def startLoading (k l : Nat) (s : State) : State :=
  { s with parts := { s.parts with loading := if s.parts.loading.contains (k, l) then s.parts.loading else s.parts.loading ++ [(k, l)] } }

/-- Instance `old` serves logical number `l` no longer; another takes it: the one that a switch under way names, a joker, or a survivor.
The last flag says whether one was found. -/
def takeOver (k l old cause steps : Nat) (s : State) : Bool × State :=
  let named := physOf (actW s) k l
  let s1 := dropSwitch k l s
  let next := if named != old && !(failedOf s k).contains named then some named else freePhys s1 k
  match next with
  | some p =>
    let s2 := startLoading k l (setPhys k l p s1)
    if 1 < (servedBy s2 k p).length then (true, post (partEvent 2 k l old p cause steps) s2)
    else (true, cntAdd 0x188 1 (post (partEvent 1 k l old p cause steps) s2))
  | none => match survivor s1 k with
    | some p => (true, post (partEvent 2 k l old p cause steps) (startLoading k l (setPhys k l p s1)))
    | none => (false, s1)

/-- The name of an offline kind's cause of DEGRADED. -/
def kindCause (k : Nat) : String := "offline " ++ toString k

/-- No instance of a kind remains: every logical number of it is offline. -/
def kindOffline (k old cause steps : Nat) (s : State) : State :=
  let s1 := forEach (List.range (max 1 (logicals k))) (fun l s => post (partEvent 4 k l (if servingPhys s k l = old then old else servingPhys s k l) 0xFF cause steps) s)
    { s with parts := { s.parts with offline := s.parts.offline ++ [k], loading := s.parts.loading.filter fun (a, _) => a != k } }
  degrade (kindCause k) s1

/-- Running steps that cannot end without a kind that is offline: they end with cause 16, without a replay (R468). -/
def endWithout (k : Nat) (ks : List Nat) (s : State) : State :=
  let walks (c : Cmd) : Bool := match c.work with
    | .search r => r.hands.any fun h => !h.done
    | .insert _ => true
    | _ => false
  let all := ks ++ if k = 5 then (s.cmds.filter fun (n, c) => c.phase == .running && c.ring != deckRing && walks c && !ks.contains n).map (·.1) else []
  forEach all (fun n s => match tget s.cmds n with
    | some c => if c.phase = .running then faultStep { c with faulted := true } 16 k s else s
    | none => s) s

/-- A tile, merge, ladle, pattern or encoder engine or a walker, by its physical number, is declared faulted. -/
def failPart (k inst cause : Nat) (s : State) : State :=
  if physicals k ≤ inst ∨ (failedOf s k).contains inst then s
  else
    let ls := servedBy s k inst
    let ks := if ls.isEmpty then [] else struckKeys s (kindOps k)
    let s1 := cntAdd 0x180 1 { s with parts := { s.parts with failed := tset s.parts.failed k ((failedOf s k) ++ [inst]) } }
    -- a committed switch to the instance is undone
    let back := s1.parts.switching.filter fun (a, l, old) => a == k && old != inst && physOf (actW s1) k l == inst
    let s2 := forEach back (fun (_, l, old) s => dropSwitch k l (setPhys k l old s)) s1
    if (List.range (physicals k)).all fun p => (failedOf s2 k).contains p then
      settleShares k (endWithout k ks (strikeSteps [] k ls (kindOffline k inst cause ks.length s2)))
    else
      let s3 := forEach ls (fun l s => (takeOver k l inst cause ks.length s).2) s2
      settleShares k (strikeSteps ks k ls s3)

/-- JOKER_SWITCH_DONE (R351): the instance that took over logical number `inst` is ready. -/
def execJokerSwitchDone (k : PartKind) (inst : Nat) (s : State) : Res :=
  .next (
    if mainOn s then { s with parts := { s.parts with loading := s.parts.loading.filter fun x => x != (k.code, inst) } } else s)

/-! ## Parts without jokers (R363) -/

/-- A context of a walker is retired (R351); its query is replayed on another. A walker without contexts has failed. -/
def retireContext (walker ctx cause : Nat) (s : State) : State :=
  let m := tgetD s.parts.retiredCtx walker 0
  if physicals 5 ≤ walker ∨ bit m ctx ∨ (failedOf s 5).contains walker then s
  else
    let ks := if (servedBy s 5 walker).isEmpty then [] else struckKeys s (kindOps 5)
    let s1 := strikeSteps ks 5 (servedBy s 5 walker) (cntAdd 0x180 1
      { s with parts := { s.parts with retiredCtx := tset s.parts.retiredCtx walker (m + 2 ^ ctx) } })
    if m + 2 ^ ctx = 2 ^ 64 - 1 then failPart 5 walker cause s1 else s1

/-- A part without a spare is gone: counted, reported OFFLINE, and a cause of DEGRADED. -/
def partGone (k inst cause : Nat) (steps : Nat) (s : State) : State :=
  degrade (kindCause k ++ " " ++ toString inst) (post (partEvent 4 k inst inst 0xFF cause steps) (cntAdd 0x180 1 s))

/-- Every opcode whose step may hold work on a part that no opcode names. -/
def anyOps : List Nat := kindOps 255

/-- A shared-buffer slice is retired (R354): the steps whose state lay there are replayed. -/
def retireSlice (n cause : Nat) (s : State) : State :=
  if 64 ≤ n ∨ s.parts.slicesOff.contains n then s
  else
    let ks := struckKeys s anyOps
    strikeSteps ks 17 [n] (partGone 17 n cause ks.length { s with parts := { s.parts with slicesOff := s.parts.slicesOff ++ [n] } })

/-- A memory package fails (R363): it goes offline, and steps that read it are struck. -/
def failPackage (p cause : Nat) (s : State) : State :=
  if 16 ≤ p ∨ !mainOn s ∨ pkgState s p = 3 then s
  else
    let ks := struckKeys s anyOps
    strikeSteps ks 7 [p / 4] (pkgDown p 3 cause (cntAdd 0x180 1 s))

/-- A memory controller complex fails: its four packages go offline. -/
def failMcc (m cause : Nat) (s : State) : State :=
  if 4 ≤ m ∨ !mainOn s then s
  else forEach (List.range 4) (fun i s => failPackage (4 * m + i) cause s)
    (post (partEvent 4 19 m m 0xFF cause 0) (cntAdd 0x180 1 s))

/-- A VCORE phase is lost (R363): of 16 (R453). -/
def losePhase (cause : Nat) (s : State) : State :=
  if !mainOn s ∨ 16 ≤ s.parts.phasesLost then s
  else partGone 23 s.parts.phasesLost cause 0 { s with parts := { s.parts with phasesLost := s.parts.phasesLost + 1 } }

/-- The deck sequencer, the only one of its kind, fails: the running deck halts, and the swap that waits ends. -/
def failSequencer (cause : Nat) (s : State) : State :=
  if offline s 8 then s
  else
    let s1 := kindOffline 8 0 cause 0 (cntAdd 0x180 1 s)
    let s2 := match s1.deck.active with
      | some d => if s1.deck.state = 1 then haltDeck d .stepFault s1 else s1
      | none => s1
    match s2.deck.swap with
    | none => s2
    | some q =>
      let s3 := modDeck (fun d => { d with swap := none }) s2
      match tget s3.cmds q.key with
      | some c => faultStep c 16 8 s3
      | none => s3

/-- Code of a cause of form P (R349). -/
def causeCode : PartCause → Nat
  | .parity => 1
  | .ecc => 2
  | .watchdog => 3
  | .unitFault => 4
  | .training => 5
  | .errorRate => 6
  | .ownerCommand => 7

/-- A part is declared faulted (R350, R363). `inst` is its physical number; a walker context is 64 times its walker plus its own
number. -/
def declareFault (k : PartKind) (inst cause : Nat) (s : State) : State :=
  match k with
  | .walkerCtx => retireContext (inst / 64) (inst % 64) cause s
  | .crucible => if inst < 1152 ∧ mainOn s then unitFault inst (stopUnit inst 7 s) else s
  | .port => if inst < 6 ∧ (getPort s inst).link ≠ .down then linkDown inst (cntAdd 0x180 1 s) else s
  | .mcc => failMcc inst cause s
  | .mccComplex => failMcc inst cause s
  | .slice => retireSlice inst cause s
  | .package => failPackage inst cause s
  | .powerStage => losePhase cause s
  | .mss => mssStops 1 s
  | .assay => { s with tap := { s.tap with beat := false } }
  | .pcie => if s.host.linkUp then linkLost 3 (cntAdd 0x180 1 s) else s
  | .seqr => failSequencer cause s
  | k => failPart k.code inst cause s

/-- PART_FAULT (R350). -/
def execPartFault (k : PartKind) (inst : Nat) (cause : PartCause) (s : State) : Res :=
  .next (if serving s then declareFault k inst (causeCode cause) s else s)

/-- PACKAGE_FAULT (R363). -/
def execPackageFault (pkg : Nat) (s : State) : Res := .next (failPackage pkg 5 s)

/-- MCC_FAULT (R363). -/
def execMccFault (mcc : Nat) (s : State) : Res := .next (failMcc mcc 1 s)

/-- POWER_PHASE_LOSS (R363). -/
def execPowerPhaseLoss (s : State) : Res := .next (losePhase 4 s)

/-- MSS_WATCHDOG (R363): management pauses; the data path runs on. -/
def execMssWatchdog (s : State) : Res := .next (if s.mgmt.st = .off ∨ s.mgmt.st = .recovery then s else mssStops 1 s)

/-! ## Watchdogs (R358) -/

/-- An engine with a physical number may hold work. -/
def partHere (s : State) (k : PartKind) (inst : Nat) : Bool :=
  match k with
  | .walkerCtx => decide (inst / 64 < physicals 5) && !bit (tgetD s.parts.retiredCtx (inst / 64) 0) (inst % 64)
  | .crucible => decide (inst < 1152)
  | .port => decide (inst < 6)
  | .mcc => decide (inst < 4)
  | .seqr => inst == 0 && !offline s 8
  | k => decide (inst < physicals k.code) && !(failedOf s k.code).contains inst

/-- PART_WATCHDOG (R358): 10 µs without progress. -/
def execPartWatchdog (k : PartKind) (inst : Nat) (s : State) : Res :=
  .next (
    if !serving s ∨ !partHere s k inst then s
    else
      let kc := if k = .walkerCtx then 5 else k.code
      let p := if k = .walkerCtx then inst / 64 else inst
      let l := if kc < 6 then ((servedBy s kc p).head?).getD p else p
      declareFault k inst 3 (post { partEvent 1 kc l p 0xFF 3 0 with cls := 5 } (cntAdd 0x1B8 1 s)))

/-- The step watchdog's limit in ns: max(STEP_MS, twice the cost). -/
def stepLimit (s : State) (c : Cmd) : Nat := max (1000000 * actBits s 0x100 0 16) (2 * descCost s c.desc)

/-- When the watchdog of a step began to count: at admission, or for a loan-mode step at its FIRST card. -/
def stepSince (s : State) (c : Cmd) : Option Nat :=
  if c.ring ≠ deckRing then some c.admT
  else match openStep s c.step.toNat with
    | some x => if x.loan then some x.firstT else none
    | none => none

/-- STEP_WATCHDOG (R358). -/
def execStepWatchdog (ring : Nat) (rseq : BitVec 32) (s : State) : Res :=
  .next (
    match runningCmd s ring rseq with
    | none => s
    | some c => match stepSince s c with
      | none => s
      | some t =>
        if c.faulted ∨ !serving s ∨ !([0x10, 0x11, 0x18, 0x1A, 0x20, 0x21, 0x22, 0x23].contains c.op) then s
        else
          let s1 := cntAdd 0x1A8 1 (advanceTo (t + stepLimit s c) s)
          strikeCmd c 17 (post { cls := 5, code := 2, part := some c.part, step := c.step, detail := stepDetail c 17 0xFFFF 0 } s1))

/-! ## Buffer errors (R354) -/

/-- A double error in a slice: the sixteenth within 1 s retires it. -/
def countDouble (n : Nat) (s : State) : State :=
  let l := ((tgetD s.parts.sliceErr n []).filter fun t => decide (now s < t + 1000000000)) ++ [now s]
  let s1 : State := { s with parts := { s.parts with sliceErr := tset s.parts.sliceErr n l } }
  if 16 ≤ l.length then retireSlice n 6 s1 else s1

/-- SHARED_BUFFER_ECC_ERROR (R354). -/
def execSharedBufferEccError (slice : Nat) (e : EccEvent) (s : State) : Res :=
  .next (
    if 64 ≤ slice ∨ !serving s ∨ s.parts.slicesOff.contains slice then s
    else match e with
      | .corrected => s
      | .mirrored => countDouble slice s
      | .cachedCopy => countDouble slice s
      | .deckBank => countDouble slice { s with deck := { s.deck with bankBad := s.deck.active.isSome || s.deck.bankBad } }
      | .stepWord ring rseq input =>
        match runningCmd s ring rseq with
        | none => countDouble slice s
        | some c => countDouble slice (if input then faultStep { c with faulted := true } 20 255 s else strikeCmd c 16 s))

/-! ## Uncorrectable memory errors (R53, R96, R126, R147, R191, R363) -/

/-- An uncorrectable burst is counted against its package: more than 16 within 1 s take it offline. -/
def countUe (p : Nat) (s : State) : State :=
  let l := ((tgetD s.mem.uePkg p []).filter fun t => decide (now s < t + 1000000000)) ++ [now s]
  let s1 : State := { s with mem := { s.mem with uePkg := tset s.mem.uePkg p l } }
  if 16 < l.length then failPackage p 6 s1 else s1

/-- MEMORY/UE_PAGE or MEMORY/UE_RECORD of a sequence. -/
def ueEvent (code n st item addr : Nat) (s : State) : State :=
  post { cls := 1, code := code, part := some (getSeq s n).part, detail := .l n st 0 item addr } s

/-- Change one stream of a sequence that is there. -/
def modStream (n st : Nat) (f : Stream → Stream) (s : State) : State :=
  match tget s.seqs n with
  | none => s
  | some q => if st < q.streams.length then setSeq n { q with streams := q.streams.set st (f (q.streams.getD st {})) } s else s

/-- A unit that reads a crucible page stops at the burst (R147). -/
def unitStops (a : Nat) (s : State) : State :=
  match physUnit s (a / 2 ^ 18 % 1024) with
  | none => s
  | some u => showLast u 1 (setUnit u { getUnit s u with erraddr := errAddrOf (a / 2 ^ 28 * 2 ^ 18 + a % 2 ^ 18) } (cntAdd 0x602408 1 s))

/-- A page that a PDE names holds the burst: DMG, where no replica has the page. -/
def uePage (n st page a : Nat) (s : State) : State :=
  match tget s.seqs n with
  | none => s
  | some q =>
    let x := q.streams.getD st {}
    match tget x.pdes page with
    | none => s
    | some d =>
      let hurt (x : Stream) : Stream :=
        if d.sealed_ then { x with badCopies := if x.badCopies.contains page then x.badCopies else x.badCopies ++ [page] }
        else { x with ring := tmap x.ring fun _ e => if e.page = page then { e with bad := true } else e }
      let s1 := ueEvent 1 n st page a (modStream n st hurt s)
      let s2 := if d.cru ∧ unitServes s a then unitStops a s1 else s1
      let spare := replicaHas s q (st, page) || (!d.sealed_ && replicaHas s q (st, page + 2 ^ 26))
      if spare then s2 else markDmg n st page s2

/-- What an uncorrectable burst does to the object that it lies in. -/
def ueObject (w : UeWhere) (a : Nat) (s : State) : State :=
  match w with
  | .page n st page => uePage n st page a s
  | .tableRec n st =>
    let whole := (getSeq s n).repl == 2 && !(getSeq s n).replDegraded
    ueEvent 2 n st 0 a (modStream n st (fun x => { x with tableBad := x.tableBad || (!whole && x.table.isSome) }) s)
  | .retained n st page => ueEvent 1 n st page a (modStream n st (fun x => { x with retained := tmod x.retained page fun r => { r with bad := true } }) s)
  | .staging n st copy => ueEvent 1 n st ((getSeq s n).len / 64) a (modStream n st (fun x =>
      if copy = 0 then { x with stage0 := { x.stage0 with bad := true } } else { x with stage1 := { x.stage1 with bad := true } }) s)
  | .pin n st page => ueEvent 1 n st page a (modStream n st (fun x =>
      { x with pinBad := if x.pinBad.contains page ∨ 4 ≤ page then x.pinBad else x.pinBad ++ [page] }) s)
  | .summary n st page => ueEvent 2 n st page a (modStream n st (fun x => { x with pdes := tmod x.pdes page fun d => { d with sumv := false } }) s)
  | .item i item what =>
    let mark (x : Item) : Item := match what with
      | 0 => { x with badVec := true }
      | 1 => { x with badList := true }
      | _ => { x with badState := true }
    post { cls := 1, code := 2, part := some (idxCfg s i).part, detail := .l i 0xFFFF 0 item a }
      { s with walk := { s.walk with indexes := tmod s.walk.indexes i fun x => { x with items := tmod x.items item mark } } }
  | .other => post { cls := 1, code := 2, part := granulePart s (a / 2 ^ 18), detail := .l 0 0xFFFF 0 0 a } s

/-- UE_BURST (R147): no value in memory is marked, and a later read of the burst fails again. -/
def execUeBurst (addr : Nat) (where_ : UeWhere) (s : State) : Res :=
  .next (
    if !serving s ∨ memSize ≤ addr then s
    else
      let s1 : State := { s with mem := { s.mem with err := tset s.mem.err (addr / 32) twoErrors } }
      countUe (pkgOfAddr addr) (ueObject where_ addr s1))

end Sys2Proof.Machine
end

