-- ==== Sys2Proof/Machine/Mgmt.lean ====
section
/-! DEFINITION. Management: reading registers (R12, R329, R330, R337, R423), management messages (R429 to R431), updates and restarts of
the MSS (R435, R436), and the node's MCTP control messages (R429). -/

namespace Sys2Proof.Machine

open Sys2Proof

/-! ## Reading a register -/

/-- Rings that count toward the bound of a ring: those of the same partition (R323). -/
def ringMates (s : State) (ring : Nat) : List Nat :=
  (((s.regs.act.filterMap fun (o, _) => ringOff o).map (·.1)).eraseDups).filter fun r => bit (ringAssign s r) 7 && drrPart s r == drrPart s ring

/-- BOUND_US of a ring (R323): all ones in a partition of weight 0. -/
def boundUs (s : State) (ring : Nat) : Nat :=
  let c := ringCfg s ring
  if drrWeight s (drrPart s ring) = 0 then 2 ^ 64 - 1
  else c.qunits * c.svc + maxN (c.svc :: (ringMates s ring).map fun r => (ringCfg s r).svc)

/-- The words of a ring record that the node keeps (R315). -/
def ringRo (s : State) (ring k : Nat) : Nat :=
  let r := getRing s ring
  match k with
  | 40 => boundUs s ring % 2 ^ 32
  | 44 => boundUs s ring / 2 ^ 32
  | 48 => r.accepted.toNat
  | 52 => r.completed.toNat
  | 56 => r.used % 2 ^ 16 + 2 ^ 16 * (b2n r.running + 2 * b2n r.fault + 4 * b2n r.resuming)
  | _ => 0

/-- The words of an event-ring record that the node keeps (R339). -/
def evRo (s : State) (fn k : Nat) : Nat :=
  let r := evRing s fn
  match k with
  | 12 => r.produced.toNat
  | 16 => r.lost.toNat % 2 ^ 32
  | 20 => r.lost.toNat / 2 ^ 32
  | _ => 0

/-- RMA_CONN_STS of the selected connection (R291). -/
def connSts (s : State) : Nat :=
  let n := valBits s 0x400040 0 20
  let x := getConn s n
  x.state.code + 8 * b2n (s.rma.cache.contains n) + 16 * b2n x.held.isSome + 32 * b2n x.enc + 64 * x.part + 2 ^ 12 * x.txPsn.toNat
    + 2 ^ 36 * x.rxPsn.toNat + 2 ^ 60 * (x.retries % 16)

/-- Word `k` of a list of bytes. -/
def wordAt (b : List Byte) (k : Nat) : Nat := fld b (4 * k) 4

/-- Words that stand in no bank: they show a unit's state. None where the register is not of this kind. -/
def shownWord (s : State) (off : Nat) : Option Nat :=
  match ringOff off, evOff off with
  | some (ring, k), _ => if 40 ≤ k then some (ringRo s ring k) else none
  | none, some fn => if 12 ≤ (off - 0x100200) % 0x20 then some (evRo s fn ((off - 0x100200) % 0x20)) else none
  | none, none =>
    let c := getCnt s (valBits s 0x400020 0 16)
    if off % 0x100000 = 0xF0 ∧ off < 0xC00000 then
      let x := ctlOf s (off / 0x100000)
      some (x.gen.toNat + 2 ^ 16 * b2n x.checked.isSome)
    else if off % 0x100000 = 0xF4 ∧ off < 0xC00000 then
      let x := ctlOf s (off / 0x100000)
      some (x.stsStatus.code + 2 ^ 16 * x.stsGen.toNat)
    else if 0x400028 ≤ off ∧ off < 0x400038 then some (wordAt (leBytes 8 c.value ++ leBytes 8 c.acked) ((off - 0x400028) / 4))
    else if 0x400048 ≤ off ∧ off < 0x400050 then some (wordAt (leBytes 8 (connSts s)) ((off - 0x400048) / 4))
    else if 0x500080 ≤ off ∧ off < 0x5000A0 then some (wordAt (entBytes (tget s.rmx.ents (valBits s 0x500040 0 16))) ((off - 0x500080) / 4))
    else if 0xB08000 ≤ off ∧ off < 0xB0A000 then
      some (wordAt (tgetD s.mgmt.ringComps ((off - 0xB08000) / 32) []) ((off - 0xB08000) % 32 / 4))
    else if off = 0xB0A000 then some (getRing s mgmtRing).accepted.toNat
    else if off = 0xB0A004 then some (getRing s mgmtRing).completed.toNat
    else none

/-- A word of a register in the bank given: staged bits from the bank, the others as they stand, and the counters. -/
def bankWord (s : State) (bank : Nat → Word) (off : Nat) : Nat :=
  match shownWord s off with
  | some v => if (regSpec off).st = 0 then v else (v &&& (allBits - (regSpec off).st)) ||| ((bank off).toNat &&& (regSpec off).st)
  | none =>
    let r := regSpec off
    let c := (cnt s (off - off % 8)).toNat / 2 ^ (8 * (off % 8)) % 2 ^ 32
    ((bank off).toNat &&& r.st) ||| ((valW s off).toNat &&& (allBits - r.wo)) ||| c

/-- The Assay's mirror (R415), at an offset in it. -/
def mirrorWord (s : State) (o : Nat) : Nat :=
  let cert := Config.blob 3 0
  let pair (base v : Nat) : Nat := wordAt (leBytes 8 v) ((o - base) / 4)
  if o = 0 then assaySts s
  else if o = 4 then s.tap.queue.length
  else if o = 0x20 then s.assay.ringNext
  else if 0x28 ≤ o ∧ o < 0x30 then pair 0x28 (((s.assay.ring.getLast?).map (·.aseq)).getD 0)
  else if 0x30 ≤ o ∧ o < 0x38 then pair 0x30 cert.length
  else if 0x40 ≤ o ∧ o < 0x48 then pair 0x40 s.tap.halts.toNat
  else if 0x1000 ≤ o ∧ o < 0x1000 + 0x60 * 64 then pair (0x1000 + (o - 0x1000) / 8 * 8) (tgetD s.assay.cnt ((o - 0x1000) / 8) 0)
  else if 0x8000 ≤ o ∧ o < 0x10000 then wordAt cert ((o - 0x8000) / 4)
  else if 0x10000 ≤ o ∧ o < 0x10000 + 48 * 0x5000 then
    let slot := (o - 0x10000) / 0x5000
    let n := s.assay.ring.length
    match s.assay.ring.zipIdx.find? fun (_, i) => (s.assay.ringNext + 48 - n + i) % 48 == slot with
    | some (x, _) => wordAt (x.body ++ x.sig) ((o - 0x10000) % 0x5000 / 4)
    | none => 0
  else 0

/-- The registers that the MSS island holds (R423): the MGMT block, ownership, the challenge, operator keys and fuses, and the debug
path's own. -/
def mssIsland (off : Nat) : Bool :=
  ownReg off || dbgReg off || inRange off 0xA00100 0xA0010F || inRange off 0xA00400 0xA004FF || inRange off 0xA00600 0xA0064F
    || inRange off 0xB00000 0xBFFFFF

/-- LEASE_MS: the remaining lease (R337). -/
def leaseMs (s : State) : Nat := if hasOwner s then min 2000 ((s.own.lease - s.clk.mss) / 1000000) else 0

/-- A 32-bit word of BAR0 as master `m` reads it. Registers outside the MSS island read zero in STANDBY and RECOVERY. The EXPERT window is
open where it is served. -/
def readWord (s : State) (m off : Nat) : Nat :=
  let dark := !mainOn s
  if 0xC00000 ≤ off ∧ off < 0xD00000 then (if dark then 0 else mirrorWord s (off - 0xC00000))
  else if 0xD00000 ≤ off ∧ off < 0xE00000 then
    (if ownerIs s m ∧ (s.mgmt.st = .bringup ∨ s.mgmt.st = .test ∨ s.mgmt.st = .recovery) then
      fld ((List.range 4).map fun i => Config.freeByte s.freeCnt (off + i)) 0 4
    else 0)
  else if 0xE00000 ≤ off ∨ (dark ∧ !mssIsland off) then 0
  else if off = 0x40 then bankWord s (pendW s) 0x40 + 2 ^ 10 * b2n (ownerIs s m) + 2 ^ 16 * leaseMs s
  else if off % 0x100000 = 0xFC then
    let o := off - 0xFC + (valW s (off - 4)).toNat
    if o % 0x100000 = 0xFC then 0 else bankWord s (actW s) o
  else bankWord s (pendW s) off

/-! ## Receiving a message (R429, R430) -/

/-- RESULT to a master: the status, then data. -/
def answer (h : MsgHdr) (st : Status) (data : List Byte) (s : State) : State := sendMgmt h.master 0x81 h.tag (leBytes 2 st.code ++ data) s

/-- The master has a path: the BMC's is always there, the others' are opened (R429). -/
def hasPath (s : State) (m : Nat) : Bool := m == 9 || (tget s.mgmt.sessions m).isSome

/-- A message reaches the MSS: no master but 1 to 15, none while the MSS restarts (R436). Its session is heard of. -/
def receive (h : MsgHdr) (f : State → State) (s : State) : State :=
  if s.mgmt.st = .off ∨ !s.mgmt.mssRunning ∨ h.master = 0 ∨ 15 < h.master then s
  else f { s with mgmt := { s.mgmt with sessions := tmod s.mgmt.sessions h.master fun x => { x with lastHeard := s.clk.mss } } }

/-- A message of a type other than OPEN: without a path there is no master that sends it. -/
def fromMaster (h : MsgHdr) (lenOk : Bool) (f : State → State) (s : State) : State :=
  receive h (fun s =>
    if !hasPath s h.master then s
    else if !lenOk then answer h .illegalValue [] s
    else f s) s

/-- MGMT_OPEN (R430): a session, or the answer region of a fabric controller. -/
def execMgmtOpen (h : MsgHdr) (ans : Option AnswerRegion) (s : State) : Res :=
  .next (receive h (fun s =>
    let fits := ans.isSome == decide (10 ≤ h.master)
    if !fits then (if hasPath s h.master then answer h .illegalValue [] s else s)
    else
      let s1 : State := if h.master = 9 then s
        else { s with mgmt := { s.mgmt with sessions := tset s.mgmt.sessions h.master { lastHeard := s.clk.mss, answer := ans } } }
      answer h .ok [] s1) s)

/-- A session is over. -/
def dropSession (m : Nat) (s : State) : State := { s with mgmt := { s.mgmt with sessions := tdel s.mgmt.sessions m } }

/-- MGMT_CLOSE (R430). -/
def execMgmtClose (h : MsgHdr) (s : State) : Res :=
  .next (fromMaster h true (fun s => dropSession h.master (answer h .ok [] s)) s)

/-- MGMT_SESSION_TIMEOUT (R429): an Ethernet session is silent for 10 s. -/
def execMgmtSessionTimeout (m : Nat) (s : State) : Res :=
  .next (
    match tget s.mgmt.sessions m with
    | none => s
    | some x => if 8 < m ∨ !s.mgmt.mssRunning then s else dropSession m (advanceMss (x.lastHeard + 10000000000) s))

/-- A length that a READ or WRITE may have at an offset of BAR0. -/
def spanOk (off n : Nat) : Bool := inRange n 4 256 && n % 4 == 0 && off % 4 == 0 && decide (off + n ≤ 2 ^ 26)

/-- MGMT_READ (R430). A use of the EXPERT window leaves its marks. -/
def execMgmtRead (h : MsgHdr) (off : BitVec 32) (len : Nat) (s : State) : Res :=
  .next (fromMaster h (spanOk off.toNat len) (fun s =>
    let os := (List.range (len / 4)).map fun i => off.toNat + 4 * i
    let data := os.flatMap fun o => leBytes 4 (readWord s h.master o)
    let expert := os.filter fun o => inRange o 0xD00000 0xDFFFFF
    let s1 := forEach expert (fun o s => expertAccess (.mgmt h.master) (o - 0xD00000) false s) s
    answer h .ok data (if expert.isEmpty then s1 else stepFree s1)) s)

/-! ## Updates (R435) -/

/-- MGMT_UPD_STS. -/
def updStatus (st : Status) (done busy : Bool) (s : State) : State :=
  setVal 0xB00020 (BitVec.ofNat 32 (st.code + 2 ^ 16 * b2n done + 2 ^ 17 * b2n busy)) s

/-- Set a flash slot of a class. -/
def setSlot (cls slot : Nat) (f : FwSlot) (s : State) : State :=
  if slot = 0 then { s with mgmt := { s.mgmt with slotsA := tset s.mgmt.slotsA cls f } }
  else { s with mgmt := { s.mgmt with slotsB := tset s.mgmt.slotsB cls f } }

/-- Bytes that the flash holds for a slot of a class (R434). -/
def flashRoom (cls : Nat) : Nat := if cls = 1 then 0x800000 else if cls = 7 then 0x100000 else 0x400000

/-- The inactive store holds 16 versions already, and not this one. -/
def storeFull (s : State) (cls slot version : Nat) : Bool :=
  let st := tgetD s.mgmt.crucStore slot []
  cls == 7 && decide (16 ≤ st.length) && (tget st version).isNone

/-- An image that passed its checks goes to the inactive slot: that slot is not loadable until it is written and read back. -/
def startUpdate (cls : Nat) (img : List Byte) (s : State) : State :=
  let slot := 1 - actSlot s cls
  if storeFull s cls slot (fld img 4 2) then updStatus .illegalCombination true false s
  else
    let s1 := setSlot cls slot { fwSlot s cls slot with loadable := false } s
    updStatus .ok false true (emit (.flash (16 + 2 * cls + slot) img)
      { s1 with mgmt := { s1.mgmt with upd := some { cls := cls, slot := slot, image := img } } })

/-- A write of GO: the image is gathered, from the PF's DMA space or from the UPDATE messages, and checked. In RECOVERY only class 1 is
served (R423). -/
def updGo (w : Writer) (cls : Nat) (image : List Byte) (s : State) : State :=
  match masterOf w with
  | none => if serving s then rejectWrite w 0xB0001C .accessViolation s else s
  | some m =>
    if !servedWrite s 0xB0001C then (if s.mgmt.st = .bringup then rejectWrite w 0xB0001C .wrongState s else s)
    else if s.mgmt.st = .recovery ∧ (cls ≠ 1 ∨ w = .pf) then s
    else if !ownerIs s m then rejectWrite w 0xB0001C .notOwner s
    else if cls = 0 ∨ 7 < cls then rejectWrite w 0xB0001C .illegalValue s
    else if s.mgmt.upd.isSome then updStatus .busy true true s
    else
      let s1 := setVal 0xB0001C (BitVec.ofNat 32 (2 * cls)) s
      let n := valBits s 0xB00018 0 24
      let img := slice (if val64 s 0xB00010 = 0 then s.mgmt.updBuf else image) 0 n
      match imageStatus s cls img with
      | .ok => startUpdate cls img s1
      | st => updStatus st true false s1

/-- MGMT_UPD_GO (R435). `image` is what the node reads at MGMT_UPD_SRC. -/
def execMgmtUpdGo (w : Writer) (cls : BitVec 4) (image : List Byte) (s : State) : Res := .next (updGo w cls.toNat image s)

/-- The slot that an update wrote, loadable; an image of class 7 joins its store. -/
def slotWritten (u : Update) (s : State) : State :=
  let b := u.image
  let f : FwSlot := { loadable := true, version := fld b 4 2, svn := fld b 8 1, key := fld b 9 1, digest := Config.sha256 (fwBody b) }
  let s1 := setSlot u.cls u.slot f s
  if u.cls ≠ 7 then s1
  else
    let i : CrucImage := { svn := f.svn, key := f.key, digest := f.digest, words := (chunks 4 (slice b 128 (fld b 12 4))).map leVal }
    { s1 with mgmt := { s1.mgmt with crucStore := tset s1.mgmt.crucStore u.slot (tset (tgetD s1.mgmt.crucStore u.slot []) f.version i) } }

/-- The slot is empty after an erase, a write or a read-back that failed. -/
def slotEmptied (u : Update) (s : State) : State :=
  let s1 := setSlot u.cls u.slot {} s
  if u.cls = 7 then { s1 with mgmt := { s1.mgmt with crucStore := tdel s1.mgmt.crucStore u.slot } } else s1

/-- A valid MSS image in RECOVERY: the slot is active, the state STANDBY, and the MSS restarts (R422). A scrapped module stays (R399). -/
def leaveRecovery (u : Update) (s : State) : State :=
  if s.mgmt.st ≠ .recovery ∨ u.cls ≠ 1 ∨ valBits s 0xA00644 0 8 = 4 then s
  else autoBoot (mssStops 4 (enterState .standby 17 0 (saveConfig (setAct 0xB00104 (BitVec.ofNat 32 u.slot) s))))

/-- MGMT_UPDATE_DONE (R435). -/
def execMgmtUpdateDone (ok : Bool) (s : State) : Res :=
  .next (
    match s.mgmt.upd with
    | none => s
    | some u =>
      if s.mgmt.st = .off ∨ !s.mgmt.mssRunning then s
      else
        let ok := ok && decide (u.image.length ≤ flashRoom u.cls)
        let st : Status := if ok then .ok else .flashFault
        let s1 : State := { s with mgmt := { s.mgmt with upd := none } }
        let s2 := updStatus st true false ((if ok then slotWritten else slotEmptied) u s1)
        let s3 := logMgmt 0x82 1 st { b0 := u.cls, b1 := u.slot, w0 := fld u.image 4 2 } s2
        if ok then leaveRecovery u s3 else s3)

/-- MGMT_UPDATE (R430): a chunk of an image, from the owner. -/
def execMgmtUpdate (h : MsgHdr) (off : BitVec 32) (data : List Byte) (s : State) : Res :=
  .next (fromMaster h (decide (data.length ≤ 16384)) (fun s =>
    if !ownerIs s h.master then answer h .notOwner [] s
    else if 2 ^ 24 < off.toNat + data.length then answer h .illegalValue [] s
    else
      let b := s.mgmt.updBuf
      let room := b ++ zeros (off.toNat + data.length - b.length)
      answer h .ok [] { s with mgmt := { s.mgmt with updBuf := patch room off.toNat data } }) s)

/-! ## WRITE messages -/

/-- A write of a COMMIT register. -/
def writeCommit (w : Writer) (b : Block) (v : Nat) (s : State) : Res :=
  let gen := BitVec.ofNat 16 v
  if bit v 17 then execCommitDiscard w b s
  else match b with
    | .node => execNodeCommit w gen s
    | .host => execHostCommit w gen [] s
    | .deck => execDeckCommit w gen s
    | .fab => execFabCommit w gen s
    | .rma => execRmaCommit w gen s
    | .rmx => .next (plainWrite w 0x5000F0 false v s)
    | .mem => execMemCommit w gen s
    | .tile => execTileCommit w gen s
    | .walk => execWalkCommit w gen s
    | .cast => execCastCommit w gen s
    | .sec => execSecCommit w gen s
    | .mgmt => execMgmtCommit w gen s

/-- The state that an outcome leaves; every write goes on. -/
def after (r : Res) (s : State) : State := match r with
  | .next t => t
  | _ => s

/-- A request of MGMT_REQ (R424). -/
def writeReq (w : Writer) (v : Nat) (s : State) : State :=
  match v with
  | 1 => reqPowerOn w s
  | 2 => reqPowerOff w s
  | 3 => reqWarmReset w s
  | 4 => reqColdReset w s
  | 5 => reqEnterTest w s
  | 6 => reqLeaveTest w s
  | 7 => reqRecovery w s
  | 8 => reqContinue w s
  | _ => plainWrite w 0xB00004 false v s

/-- The status of one word of a WRITE message: why it changes nothing, or ST_OK. -/
def wordStatus (s : State) (m off v : Nat) : Status :=
  let w : Writer := .mgmt m
  if !servedWrite s off ∨ (s.mgmt.st = .recovery ∧ off = 0xB0001C ∧ bits v 1 4 ≠ 1) then .wrongState
  else if !ownerIs s m then .notOwner
  else if (off % 0x100000 = 0xF0 ∧ off < 0xC00000) ∨ inRange off 0xC00000 0xCFFFFF then .ok
  else if inRange off 0xD00000 0xDFFFFF then (if s.mgmt.st = .ready ∨ s.mgmt.st = .degraded then .accessViolation else .ok)
  else if off = 0x50 ∨ off = 0x54 then .accessViolation
  else if off = 0xB00004 ∧ inRange v 1 8 then .ok
  else (writeError s w off v).getD .ok

/-- The effect of one word. An image in the PF's DMA space is not seen from here, so its bytes are free. -/
def wordEffect (m off v : Nat) (s : State) : State :=
  let w : Writer := .mgmt m
  if off % 0x100000 = 0xF0 ∧ off < 0xC00000 then
    match blockOf off with
    | some b => after (writeCommit w b v s) s
    | none => s
  else if inRange off 0xD00000 0xDFFFFF then expertAccess w (off - 0xD00000) true s
  else match off with
    | 0x44 => writeHb w s
    | 0x48 => if 32 ≤ v then rejectWrite w off .illegalValue s else if bit v 4 then writePassCancel w s else writePass w (v % 16) s
    | 0x50 => writeClaim w [] s
    | 0x54 => writeClaim w [] s
    | 0xB00004 => writeReq w v s
    | 0xB0001C =>
      if !bit v 0 then plainWrite w off false v s
      else if 32 ≤ v then rejectWrite w off .illegalValue s
      else stepFree (updGo w (bits v 1 4) ((List.range (valBits s 0xB00018 0 24)).map (Config.freeByte s.freeCnt)) s)
    | 0xA00208 =>
      if !bit v 0 then plainWrite w off false v s
      else if 2 ^ 19 ≤ v then rejectWrite w off .illegalValue s
      else dbgAccess w (bit v 1) s
    | 0xA00210 => writeTraceCtl w v s
    | 0x500028 =>
      if v % 4 = 0 then plainWrite w off false v s
      else if 8 ≤ v then rejectWrite w off .illegalValue s
      else if bit v 0 then after (execRmxLookupGo w (bit v 2) s) s
      else after (execRmxLookupStep w s) s
    | _ => plainWrite w off false v s

/-- MGMT_WRITE (R430): the words in ascending order; RESULT carries the first status that is not ST_OK. In STANDBY and RECOVERY a write
that is not served changes nothing (R423). -/
def execMgmtWrite (h : MsgHdr) (off : BitVec 32) (data : List Byte) (s : State) : Res :=
  .next (fromMaster h (spanOk off.toNat data.length) (fun s =>
    let one (x : Status × State) (i : Nat) : Status × State :=
      let o := off.toNat + 4 * i
      let v := fld data (4 * i) 4
      (if x.1 = .ok then wordStatus x.2 h.master o v else x.1, wordEffect h.master o v x.2)
    let r := (List.range (data.length / 4)).foldl one (.ok, s)
    answer h r.1 [] r.2) s)

/-! ## Ownership, the management ring and the log -/

/-- MGMT_CLAIM (R333, R430): RESULT follows when the claim is decided. -/
def execMgmtClaim (h : MsgHdr) (cred : List Byte) (s : State) : Res :=
  .next (fromMaster h (cred.length == 17152) (claim h.master h.tag cred) s)

/-- MGMT_HEARTBEAT (R334, R430). -/
def execMgmtHeartbeat (h : MsgHdr) (s : State) : Res :=
  .next (fromMaster h true (fun s => if ownerIs s h.master then answer h .ok [] (renewLease s) else answer h .notOwner [] s) s)

/-- Descriptors of the management ring that are not complete: accepted, or waiting in its slots. -/
def mgmtWaiting (s : State) : Nat :=
  let r := getRing s mgmtRing
  ahead r.completed r.accepted + s.mgmt.ringDescs.length

/-- MGMT_SUBMIT (R431): the ring sequence goes into the descriptor and to the sender; a TAG that is kept is not placed again. -/
def execMgmtSubmit (h : MsgHdr) (desc : List Byte) (s : State) : Res :=
  .next (fromMaster h (desc.length == 64) (fun s =>
    let kept := tgetD s.mgmt.tags h.master []
    match kept.find? fun (t, _) => t == h.tag with
    | some (_, q) => answer h .ok (leBytes 4 q) s
    | none =>
      if !serving s then answer h .wrongState [] s
      else if 256 ≤ mgmtWaiting s then answer h .busy [] s
      else
        let q := ((getRing s mgmtRing).accepted + BitVec.ofNat 32 s.mgmt.ringDescs.length).toNat
        let tags := (kept ++ [(h.tag, q)]).drop (kept.length + 1 - 256)
        answer h .ok (leBytes 4 q) { s with mgmt := { s.mgmt with
          ringDescs := s.mgmt.ringDescs ++ [(h.master, patch desc 4 (leBytes 4 q))], tags := tset s.mgmt.tags h.master tags } }) s)

/-- The log sequence of an entry. -/
def entrySeq : LogEntry → Nat
  | .event q _ => q
  | .mgmt q _ _ _ _ _ => q

/-- MGMT_LOG_READ (R430): the entries from the sequence named on. -/
def execMgmtLogRead (h : MsgHdr) (first : BitVec 64) (count : Nat) (s : State) : Res :=
  .next (fromMaster h (inRange count 1 64) (fun s =>
    let es := ((s.mgmt.log ++ s.mgmt.logBatch).filter fun e => decide (first.toNat ≤ entrySeq e)).take count
    sendMgmt h.master 0x84 h.tag (es.flatMap entryBytes) s) s)

/-! ## The MSS restarts (R363, R397, R436) -/

/-- Set the log sequence of an entry. -/
def reseq (q : Nat) : LogEntry → LogEntry
  | .event _ e => .event q e
  | .mgmt _ c k t st m => .mgmt q c k t st m

/-- The entries that waited in the hardware queue join the log, then one LOST entry for those that did not fit (R432). -/
def drainHw (s : State) : State :=
  let m := s.mgmt
  let es := m.logHw.zipIdx.map fun (e, i) => reseq (m.logSeq + i) e
  let s1 : State := { s with mgmt := { m with logBatch := m.logBatch ++ es, logSeq := m.logSeq + es.length, logHw := [], logLost := 0 } }
  if m.logLost = 0 then s1 else logMgmt 0x85 2 .ok { w0 := m.logLost } s1

/-- The management ring after a restart: its commands that are not complete run again (R327, R431). -/
def rerunMgmtRing (s : State) : State :=
  let again := (s.cmds.filter fun (_, c) => c.ring == mgmtRing).map fun (k, c) => (k, runAgain s c)
  let s1 := forget (· == mgmtRing) s
  let s2 := forEach again (fun (_, c) s => setCmd c s) s1
  rebuildMgmtRing (setRing mgmtRing { getRing s2 mgmtRing with used := sumN (again.map (·.2.units)), fetch := .idle } s2)

/-- The MSS runs again: the lease goes on from where it stood. -/
def mssUp (s : State) : State :=
  let slot := actSlot s 1
  let pause := s.clk.mss - s.mgmt.pausedAt
  let s1 : State := { s with
    mgmt := { s.mgmt with mssRunning := true, mssCause := 0, pausedAt := 0 }
    own := { s.own with lease := if hasOwner s then s.own.lease + pause else s.own.lease } }
  let s2 := logMgmt 0x85 1 .ok { b0 := s.mgmt.mssCause, b1 := slot, w0 := (fwSlot s 1 slot).version } (drainHw s1)
  rerunMgmtRing s2

/-- The MSS does not start: the other slot is next, where it is loadable; with both failed, RECOVERY (R397, R436). -/
def mssFails (s : State) : State :=
  let a := actSlot s 1
  if s.mgmt.mssCause = 3 ∨ !(fwSlot s 1 (1 - a)).loadable then
    let s1 := enterState .recovery 16 0 (railsDown 16 s)
    drainHw { s1 with mgmt := { s1.mgmt with mssRunning := true, mssCause := 0, pausedAt := 0 } }
  else
    let s1 := saveConfig (setAct 0xB00104 (BitVec.ofNat 32 (1 - a)) s)
    logMgmt 0x82 3 .ok { b0 := 1, b1 := 1 - a, w0 := (fwSlot s 1 a).version } { s1 with mgmt := { s1.mgmt with mssCause := 3 } }

/-- MSS_RESTART (R436). -/
def execMssRestart (started : Bool) (s : State) : Res :=
  .next (if s.mgmt.st = .off ∨ s.mgmt.mssRunning then s else if started then mssUp s else mssFails s)

/-! ## MCTP control messages (R429) -/

/-- An MCTP control message on the SMBus path. -/
def mctp (f : State → State) (s : State) : State := if s.mgmt.st = .off ∨ !s.mgmt.mssRunning then s else f s

/-- SET_ENDPOINT_ID (R429). -/
def execSetEndpointId (eid : BitVec 8) (s : State) : Res :=
  .next (mctp (fun s =>
    emit (.mctp false 1 (setEidAnswer eid)) (if eidOk eid then { s with mgmt := { s.mgmt with eid := eid } } else s)) s)

/-- GET_ENDPOINT_ID (R429). -/
def execGetEndpointId (s : State) : Res := .next (mctp (fun s => emit (.mctp false 2 [0, s.mgmt.eid, 0, 0]) s) s)

/-- GET_MCTP_VERSION_SUPPORT (R429). -/
def execGetMctpVersionSupport (s : State) : Res := .next (mctp (fun s => stepFree (emit (.mctp false 4 (versionAnswer s)) s)) s)

/-- GET_MESSAGE_TYPE_SUPPORT (R429): vendor-defined messages of type 0x7F. -/
def execGetMessageTypeSupport (s : State) : Res := .next (mctp (fun s => emit (.mctp false 5 [0, 1, 0x7F]) s) s)

end Sys2Proof.Machine
end

