-- ==== Sys2Proof/Machine/Remote.lean ====
section
/-! DEFINITION. What reaches a command from outside after its admission: DMA answers (R314, R340), CALL_RESP packets (R93, R178, R361),
contexts (R270), deferred admission (R320), replays (R355), the wait watchdog (R358) and the completion (R321). -/

namespace Sys2Proof.Machine

open Sys2Proof

/-! ## Input data -/

/-- A piece of a command's input is here, or cannot be had: its own chapter goes on. -/
def resumeInput (c : Cmd) (g : Got) (s : State) : State :=
  let block (f : Cmd → List Byte → State → State) : State := match g with
    | .now b => f c b s
    | .fail st => finish c st 0 s
    | .wait => s
  match c.op with
  | 0x10 => attendInput c g s
  | 0x11 => selectInput c g s
  | 0x18 => ladleInput c g s
  | 0x20 => searchInput c g s
  | 0x21 => insertInput c g s
  | 0x23 => publishInput c g s
  | 0x30 => (match rmaMode c with
    | 1 => rmaWriteInput c g s
    | 3 => block connOpenInput
    | 5 => block mrRegInput
    | _ => s)
  | 0x40 => deckInput c g s
  | 0x50 => mapInput c g s
  | 0x61 => keyInput c g s
  | _ => s

/-- The range that a running command has asked PCIe for, where it awaits one. -/
def inputRange (s : State) (c : Cmd) : Option (Nat × Nat) :=
  let r : Option (Nat × Nat) :=
    match c.op, c.work with
    | 0x10, .attend r =>
      let m := slotOf s r.snap.mslot
      if !r.haveIn then some (fld c.desc 40 8, (blockLayout m c r.hooks).2.2)
      else if attendKvCount c ≠ 0 ∧ !r.haveKv then some (fld c.desc 56 8, posBytes m (attendKvCount c))
      else none
    | 0x11, .select r =>
      if r.started then none
      else some (fld c.desc 24 8, queryBytes (slotOf s (getSeq s (seqOf c)).mslot) (attendLayers c) (attendRows c) (selectFlag c 1))
    | 0x18, .ladle r => if r.have_ then none else some (ladlePiece (slotOf s (getSeq s (seqOf c)).mslot) c r)
    | 0x20, .search r => if r.started then none else some (fld c.desc 32 8, searchCount c * queryStep (idxCfg s r.idx))
    | 0x21, .insert r => some (fld c.desc 24 8, vecBytes (idxCfg s r.idx))
    | 0x23, .publish r => if r.haveIn then none else some (fld c.desc 16 8, 8192 * pubCount c)
    | 0x30, .rma r =>
      if r.mode = 3 ∨ r.mode = 5 then some (rmaLaddr c, 64)
      else if r.mode = 1 then some (rmaLaddr c, rmaLen c)
      else none
    | 0x40, _ => some (fld c.desc 16 8, fld c.desc 12 4)
    | 0x50, .map _ false => some (fld c.desc 16 8, 64 * mapCount c)
    | 0x61, _ => if keyKind c = 0 then none else some (keySrc c, 1184)
    | _, _ => none
  r.filter fun (a, _) => !isScratch c a && !isGfa a

/-! ## DMA reads (R314, R340) -/

/-- A failed DMA: counted, and ACCESS/DMA_ERROR to the function. -/
def dmaFailed (fn : Nat) (s : State) : State := post (fnEvent s fn 7 5) (cntAdd 0x100C28 1 s)

/-- Bytes that came before a failure, and its status. -/
def failOf : DmaResult → Nat × Status
  | .poisoned n => (n, .dataDamaged)
  | .unsupported n => (n, .accessViolation)
  | .aborted n => (n, .accessViolation)
  | .data b => (b.length, .ok)

/-- The descriptor that a ring reads is here, or cannot be had. -/
def descRead (ring : Nat) (r : DmaResult) (s : State) : State :=
  let x := getRing s ring
  if x.fetch ≠ .reading then s
  else
    let probe (d : List Byte) : Cmd := { ring := ring, rseq := x.accepted, desc := d }
    match r with
    | .data b =>
      let d := slice b 0 64
      meterRing (probe d) resPcieIn 64 (setRing ring { x with fetch := .here d } s)
    | _ =>
      let (n, st) := failOf r
      let s1 := dmaFailed (ringFn s ring) (setRing ring { x with fetch := .failed st } s)
      if ownerRing s ring then s1 else meterRing (probe []) resPcieIn n s1

/-- A command's input data is here, or cannot be had. -/
def inputRead (ring : Nat) (rseq : BitVec 32) (r : DmaResult) (s : State) : State :=
  match runningCmd s ring rseq with
  | none => s
  | some c => match inputRange s c with
    | none => s
    | some (a, n) => match r with
      | .data b => resumeInput c (.now (windowOpen s c.part a (slice b 0 n))) (meterData c resPcieIn n s)
      | _ =>
        let (k, st) := failOf r
        resumeInput c (.fail st) (dmaFailed (cmdFn s c) (meterData c resPcieIn k s))

/-! ## Packets by their TOP -/

/-- An answer comes up for a sub-request: it is recorded once. -/
def setAnswer (c : Cmd) (i : Nat) (m : RespMsg) (s : State) : Cmd × State :=
  match c.subs[i]? with
  | none => (c, s)
  | some u =>
    let c1 := { c with subs := c.subs.set i { u with answer := some m, busy := false } }
    (c1, setCmd c1 s)

/-- The command that awaits an answer of sub-request `i` of step `step` on a half. -/
def awaiting (s : State) (conn : Nat) (step : BitVec 64) (i : Nat) : Option Cmd :=
  ((s.cmds.map (·.2)).find? fun c => c.step == step && c.phase == .running && match c.subs[i]? with
    | some u => u.conn == conn && u.answer.isNone && !u.lost
    | none => false)

/-- An access by CALL has answered: the input goes on when every piece is here, a destination is done when all have answered. -/
def pieceAnswered (c : Cmd) (s : State) : State :=
  match c.work with
  | .block => if c.subs.any writesPiece then deliverDone c s else (match gatherParts s c c.parts with
      | .wait => s
      | g => resumeInput c g s)
  | _ => match gatherParts s c c.parts with
    | .wait => s
    | g => resumeInput c g s

/-- A partial whose page could not be read there comes from the replica, where that covers the sub-request (R96). -/
def toReplica (c : Cmd) (i : Nat) (fails : List (Nat × Nat × Nat)) (s : State) : Option (Nat × Sub) :=
  match c.subs[i]? with
  | none => none
  | some u => match u.call with
    | .attendSub _ _ _ r =>
      let q := getSeq s r.seq
      if (fails.any fun f => f.2.2 == 0) ∧ coveredByReplica q r ∧ u.node ≠ q.peerNode then
        (serviceConn s c.part q.peerNode).map fun k => (k, { u with node := q.peerNode, conn := k })
      else none
    | _ => none

/-- The answer of sub-request `i`. -/
def subAnswer (c : Cmd) (i : Nat) (m : RespMsg) (s : State) : State :=
  match m with
  | .partials _ _ fails _ _ =>
    (match toReplica c i fails s with
    | some (k, u) => sendCall k u.call (setCmd { c with subs := c.subs.set i u } s)
    | none => (setAnswer c i m s).2)
  | .busy _ _ =>
    (match c.subs[i]? with
    | some u => setCmd { c with subs := c.subs.set i { u with busy := true, due := now s + 10000 } } s
    | none => s)
  | .absent _ _ => loseSub c i s
  | .gfaDone _ _ _ _ =>
    let isPiece := match (c.subs[i]?).map (·.call) with
      | some (.gfa ..) => true
      | _ => false
    let (c1, s1) := setAnswer c i m s
    if isPiece then pieceAnswered c1 s1 else s1
  | _ => (setAnswer c i m s).2

/-- The call of a sub-request is one that such an answer may answer. -/
def answers (m : RespMsg) (u : Sub) : Bool :=
  match m, u.call with
  | .migrateOk _, .migratePages _ => true
  | .migrateOk _, .migrateSeq .. => true
  | .migrateBusy _, .migratePages _ => true
  | .migrateBusy _, .migrateSeq .. => true
  | .pages n _, .fetchPages k _ => n == k
  | _, _ => false

/-- An answer that names no step: the first sub-request on the half that awaits one of its kind. -/
def kindAnswer (conn : Nat) (m : RespMsg) (s : State) : State :=
  let want (u : Sub) : Bool := u.conn == conn && u.answer.isNone && !u.lost && answers m u
  match (s.cmds.map (·.2)).find? fun c => c.phase == .running && c.subs.any want with
  | none => s
  | some c => match c.subs.findIdx? want with
    | some i => (setAnswer c i m s).2
    | none => s

/-- An acknowledgement of the replica: the positions before `b` are committed there (R62). -/
def replicaAck (conn n b : Nat) (s : State) : State :=
  forEach ((s.cmds.map (·.2)).filter fun c => c.op == 0x18 && c.phase == .running && seqOf c == n) (fun c s =>
    match c.work with
    | .ladle r =>
      let mark (u : Sub) : Sub := match u.call with
        | .replicate q => if u.conn = conn ∧ q.b ≤ b then { u with answer := some (.replAck n b) } else u
        | _ => u
      setCmd { c with work := .ladle { r with acked := max r.acked b }, subs := c.subs.map mark } s
    | _ => s) s

/-- A CALL_RESP's content. What no sub-request awaits is discarded (R360). -/
def takeResp (conn : Nat) (m : RespMsg) (s : State) : State :=
  let one (step : BitVec 64) (i : Nat) : State := match awaiting s conn step i with
    | some c => subAnswer c i m s
    | none => s
  match m with
  | .partials step i _ _ _ => one step i
  | .lists step i _ _ _ _ => one step i
  | .busy step i => one step i
  | .absent step i => one step i
  | .gfaDone step i _ _ => one step i
  | .replAck n b => replicaAck conn n b s
  | m => kindAnswer conn m s

/-- Process a CALL_RESP packet: the CALL is complete, and its answer goes to the command that awaits it. -/
def rxRespPkt (port : Nat) (cg : Cargo) (s : State) : State :=
  rxOn port cg false (fun c cg s =>
    match cg with
    | .resp p m =>
      let s1 := match (getConn s c).ops.find? fun o => o.kind == .call && o.sentPkts != 0 && o.psn == p.tr.psn with
        | some o => progress c (dropOp c o s)
        | none => s
      takeResp c m s1
    | _ => s) s

/-- RX_CALL_RESP (R93). -/
def execRxCallResp (port : Nat) (pkt : Packet) (m : RespMsg) (s : State) : Res :=
  .next (if topIs pkt 0x11 then rxRespPkt port (.resp pkt m) s else s)

/-- Process a packet of a half by its TOP. -/
def rxCargo (port : Nat) (cg : Cargo) (s : State) : State :=
  match cg with
  | .pkt p =>
    if p.tr.cl then s
    else match p.tr.top.toNat with
      | 0x01 => rxWritePkt port cg s
      | 0x02 => rxReadPkt port cg s
      | 0x03 => rxReadRespPkt port cg s
      | 0x04 => rxReadPkt port cg s
      | 0x05 => rxAddRespPkt port cg s
      | 0x06 => rxSignalPkt port cg s
      | 0x08 => rxAckPkt port cg s
      | 0x09 => rxNakPkt port cg s
      | 0x0A => rxHoldPkt port cg s
      | 0x0B => rxRetryPkt port cg s
      | _ => s
  | .call _ _ => rxCallPkt port cg s
  | .resp _ _ => rxRespPkt port cg s
  | _ => s

/-! ## Reads of a region in host memory (R277) -/

/-- The read is over: what waited behind it on the half is processed. -/
def endTarget (conn : Nat) (s : State) : State :=
  let l := (getConn s conn).waiting
  forEach l (fun (port, cg) s => rxCargo port cg s) (modConn conn (fun x => { x with waiting := [] }) s)

/-- A bus range of a target read is here, or cannot be had. -/
def targetRead (conn : Nat) (r : DmaResult) (s : State) : State :=
  match (getConn s conn).reading with
  | none => s
  | some t => match t.todo with
    | [] => s
    | (a, n) :: rest =>
      let p := t.cargo.packet
      let part := (getRegion s (p.tr.rkey.toNat % 65536)).part
      match r with
      | .data b =>
        let got := t.got ++ windowOpen s part a (slice b 0 n)
        let s1 := tapAdd part resPcieIn n s
        if rest.isEmpty then endTarget conn (answerRead conn p got t.dup (modConn conn (fun x => { x with reading := none }) s1))
        else askTarget conn part { t with todo := rest, got := got } s1
      | _ =>
        let (k, st) := failOf r
        let code := if st = .dataDamaged then nakDamaged else nakAccess
        let s1 := dmaFailed (part + 1) (tapAdd part resPcieIn k (modConn conn (fun x => { x with reading := none }) s))
        endTarget conn (answerBad conn p code t.dup s1)

/-- A DMA read ends. -/
def dmaRead (t : DmaTag) (r : DmaResult) (s : State) : State :=
  match t with
  | .desc ring => descRead ring r s
  | .input ring rseq => inputRead ring rseq r s
  | .target conn => targetRead conn r s

/-- DMA_READ_COMPLETION (R314). -/
def execDmaReadCompletion (t : DmaTag) (r : DmaResult) (s : State) : Res := .next (if serving s then dmaRead t r s else s)

/-- DMA_READ_TIMEOUT (R314): 50 ms without an answer fail the read as an aborted one does, with no byte received. -/
def execDmaReadTimeout (t : DmaTag) (s : State) : Res := .next (if serving s then dmaRead t (.aborted 0) s else s)

/-- DMA_WRITE_FAILURE (R314): a command's destination, or a ring, which stops with FAULT. -/
def execDmaWriteFailure (t : DmaWTag) (s : State) : Res :=
  .next (
    if !serving s then s
    else match t with
      | .dest ring rseq =>
        (match getCmd s ring rseq with
        | some c => if c.phase = .finished ∧ c.wrote ≠ 0 then dmaFailed (cmdFn s c) (destFailed c s) else s
        | none => s)
      | .ringWrite ring =>
        let r := getRing s ring
        if ring = mgmtRing ∨ (tget s.host.rings ring).isNone ∨ r.fault then s
        else dmaFailed (ringFn s ring) (setRing ring { r with fault := true } s)
      | .eventRing fn =>
        let r := evRing s fn
        if r.last.isNone ∨ r.fault then s else dmaFailed fn (setEv fn { r with fault := true } s))

/-! ## Contexts (R270) -/

/-- A port's miss queue holds 32 entries or fewer again: the credits withheld are returned. MISSQ_FULL_NS counts the time with some
port's queue full. -/
def missResume (port : Nat) (s : State) : State :=
  let x := getPort s port
  if !x.missFull ∨ 32 < x.missq.length then s
  else
    let granted := (x.granted.zip x.withheld).map fun (a, b) => (a + b) % 65536
    let s1 := setPort port { x with missFull := false, granted := granted, withheld := List.replicate 7 0 } s
    match (List.range 6).find? fun p => (getPort s1 p).missFull with
    | some p => modPort p (fun y => { y with missFullFrom := min y.missFullFrom x.missFullFrom }) s1
    | none => rmaCnt cMissqFullNs (now s - x.missFullFrom) s1

/-- The parked packets of a half leave a port's miss queue and are processed in order. -/
def unpark (conn port : Nat) (s : State) : State :=
  let l := ((getPort s port).missq.filter fun e => e.1 == conn).map (·.2)
  let s1 := modPort port (fun x => { x with missq := x.missq.filter fun e => e.1 != conn }) s
  missResume port (forEach l (rxCargo port) s1)

/-- CONTEXT_FETCH_DONE (R270). -/
def execContextFetchDone (conn : Nat) (s : State) : Res :=
  .next (
    if !(getConn s conn).fetching ∨ !serving s then s
    else
      let s1 := touchCtx conn (modConn conn (fun x => { x with fetching := false }) s)
      let s2 := forEach (List.range 6) (unpark conn) s1
      let own := s2.fab.loop.filter fun cg => !cg.packet.tr.cl && cg.packet.tr.dconn % 2 ^ 20 == conn
      pump conn (forEach own (rxCargo 6) s2))

/-! ## Deferred admission (R320) -/

/-- A command is admitted by its own chapter's rules, whatever its opcode. -/
def admitAny (c : Cmd) (s : State) : State :=
  match c.op with
  | 0x19 => (match seqMode c with
    | 1 => admitFree c s
    | 2 => admitRead c s
    | _ => admitFreeze c s)
  | 0x1A => if seqMode c = 4 then admitPromote c s else admitMigrate c s
  | 0x23 => admitPublish c s
  | 0x32 => admitWait c s
  | 0x40 => admitDeckLoad c s
  | 0x41 => admitSwap c s
  | 0x50 => admitMap c s
  | 0x60 => admitAttest c s
  | 0x61 => if keyKind c = 0 then admitErase c s else admitImport c s
  | 0x62 => admitRelease c s
  | _ => admitByOp c s

/-- The command was deferred. -/
def isDeferred (c : Cmd) : Bool := match c.phase with
  | .deferred _ => true
  | _ => false

/-- COMMAND_DEFERRED_ADMIT (R320). A deck's task is admitted whatever metering says: its step has started (R253). -/
def execCommandDeferredAdmit (ring : Nat) (rseq : BitVec 32) (s : State) : Res :=
  .next (
    if ring = deckRing then
      (match getCmd s ring rseq with
      | some c => if serving s ∧ isDeferred c then admitByOp c s else s
      | none => s)
    else admitting ring rseq isDeferred admitAny s)

/-- RETENTION_BUSY_RETRY (R360): 10 µs after ST_BUSY the sub-request is repeated. -/
def execRetentionBusyRetry (ring : Nat) (rseq : BitVec 32) (sub : Nat) (s : State) : Res :=
  .next (
    match runningCmd s ring rseq with
    | none => s
    | some c => match c.subs[sub]? with
      | none => s
      | some u =>
        if !u.busy ∨ u.lost ∨ u.answer.isSome ∨ !serving s then s
        else
          let c1 := { c with subs := c.subs.set sub { u with busy := false } }
          sendCall u.conn u.call (setCmd c1 (advanceTo u.due s)))

/-! ## Replay (R355, R361) -/

/-- The parts of an access with the entry of sub-request `i` replaced. -/
def replacePart (i : Nat) (new : List (Nat × Nat × Option Nat)) (l : List (Nat × Nat × Option Nat)) : List (Nat × Nat × Option Nat) :=
  l.flatMap fun x => if x.2.2 = some i then new else [x]

/-- A lost access by CALL is resolved anew under the command's stamp. -/
def redoGfa (c : Cmd) (i : Nat) (s : State) : State :=
  match (c.subs[i]?).map (fun u : Sub => u.call) with
  | some (CallMsg.gfa step _ _ addr len write data) =>
    let r := resolveGfa s c.stamp c.part addr.toNat len write
    let s1 := countResolved r s
    (match r.res with
    | .error st => finish c st 0 s1
    | .ok ps =>
      let (c1, calls, ok) := askPieces { c with parts := [] } addr.toNat write data s ps
      if !ok then finish c .illegalCombination 0 s1
      else
        let s2 := if write then
            forEach (ps.filter fun p => p.node.toNat == nodeId s) (fun p s => writeMem p.addr (slice data p.off p.len) s) s1
          else s1
        let c2 := { c1 with
          parts := replacePart i c1.parts c.parts
          subs := c1.subs.zipIdx.map fun (u, j) => if j = i then { u with lost := false, answer := some (.gfaDone step i 0 []) } else u }
        forEach calls (fun (k, m) s => sendCall k m s) (setCmd c2 s2))
  | _ => s

/-- An unanswered sub-request whose CALL is still on its way. -/
def callOut (s : State) (u : Sub) : Bool := (getConn s u.conn).ops.any fun o => o.msg == some u.call

/-- A sub-request of a step that runs again: a lost shard goes to its new node, a lost access is resolved anew, and what is not answered
is asked for again. -/
def redoSub (ring : Nat) (rseq : BitVec 32) (i : Nat) (s : State) : State :=
  match runningCmd s ring rseq with
  | none => s
  | some c => match c.subs[i]? with
    | none => s
    | some u =>
      if u.answer.isSome then s
      else match u.lost, u.call with
        | true, .searchSub _ j _ q =>
          let n := shardNode s q.idx j
          if n = u.node then s
          else
            let v : Sub := { u with node := n, conn := (serviceConn s c.part n).getD noConn, lost := false }
            let s1 := setCmd { c with subs := c.subs.set i v } s
            if v.conn = noConn then loseOn noConn s1 else sendCall v.conn v.call s1
        | true, .gfa .. => redoGfa c i s
        | true, _ => s
        | false, _ => if callOut s u ∨ u.conn = noConn then s else sendCall u.conn u.call s

/-- The hands of a SEARCH start afresh; hops that were metered already are not metered again (R190, R357). -/
def restartHands (s : State) (w : Work) : Work :=
  match w with
  | .search r =>
    if !r.started then w
    else
      let x := idxCfg s r.idx
      .search { r with hands := (r.queries.zip r.hands).map fun (q, h) =>
        { startHand x (limitsOf x r) (getIndex s r.idx) r.entry q with counted := max h.hops h.counted } }
  | w => w

/-- STEP_REPLAY_START (R355): the joker or the shared instance is ready, and the step runs again from its recorded inputs. -/
def execStepReplayStart (ring : Nat) (rseq : BitVec 32) (s : State) : Res :=
  .next (
    match runningCmd s ring rseq with
    | none => s
    | some c =>
      if !c.faulted ∨ !serving s ∨ (s.parts.loading.any fun (k, _) => (kindOps k).contains c.op) then s
      else
        let c1 := { c with faulted := false, replays := c.replays + 1, admT := now s, work := restartHands s c.work }
        let s1 := setCmd c1 (cntAdd 0x190 1 s)
        if c.op = 0x20 ∧ offline s 5 then faultStep c1 16 5 s1
        else
          let s2 := forEach (List.range c.subs.length) (redoSub ring rseq) s1
          match runningCmd s2 ring rseq with
          | some c2 => if c2.parts.isEmpty ∨ !(c.subs.any fun u => u.lost) then s2 else pieceAnswered c2 s2
          | none => s2)

/-! ## The wait watchdog (R358, R361) -/

/-- A lost access by CALL that the map did not bring back. -/
def lostPiece (c : Cmd) : Option Sub := c.subs.find? fun u => u.lost && u.answer.isNone && match u.call with
  | .gfa .. => true
  | _ => false

/-- The command is a deck's, outside loan mode: its card's span watches it (R358). -/
def slotWatched (s : State) (c : Cmd) : Bool :=
  c.ring == deckRing && !(match openStep s c.step.toNat with
    | some x => x.loan
    | none => false)

/-- WAIT_WATCHDOG (R358): every producer that has not answered is lost; an access whose REROUTE_MS has passed is ST_DATA_LOST. -/
def execWaitWatchdog (ring : Nat) (rseq : BitVec 32) (s : State) : Res :=
  .next (
    match runningCmd s ring rseq with
    | none => s
    | some c =>
      let open_ := (c.subs.zipIdx.filter fun (u, _) => u.answer.isNone && !u.lost && !u.busy).map (·.2)
      if c.faulted ∨ !serving s ∨ slotWatched s c then s
      else if !open_.isEmpty then
        let s1 := cntAdd 0x1B0 1 (advanceTo (c.admT + waitNs s) s)
        let s2 := post { cls := 5, code := 3, part := some c.part, step := c.step, detail := stepDetail c 18 0xFFFF 0 } s1
        forEach open_ (fun i s => match runningCmd s ring rseq with
          | some x => loseSub x i s
          | none => s) s2
      else match lostPiece c with
        | some u =>
          let s1 := advanceTo u.due s
          finish c .dataLost 0 (dataLostEvent c u.node 0 s1)
        | none => s)

/-! ## The completion (R321) -/

/-- COMPLETION_WRITE (R321): the next completion of a ring, and then the producers of its step let their records go (R360). -/
def execCompletionWrite (ring : Nat) (s : State) : Res :=
  .next (
    if !serving s then s
    else match nextCompletion s ring with
      | none => s
      | some c => forEach (releaseCalls c) (fun (k, m) s => sendCall k m s) (writeCompletion c s))

end Sys2Proof.Machine
end

