-- ==== Sys2Proof/Machine/Dispatch.lean ====
section
/-! DEFINITION. The dispatch of a command to its meaning: one arm for each row of the table. -/

namespace Sys2Proof.Machine

open Sys2Proof

def exec (i : Instr) (s : State) : Host.Outcome State Fault Refusal :=
  match i with
  | .registerWrite w off wide v => Sys2Proof.Machine.execRegisterWrite w off wide v s
  | .castCommit w gen => Sys2Proof.Machine.execCastCommit w gen s
  | .tileCommit w gen => Sys2Proof.Machine.execTileCommit w gen s
  | .walkCommit w gen => Sys2Proof.Machine.execWalkCommit w gen s
  | .hostCommit w gen imgs => Sys2Proof.Machine.execHostCommit w gen imgs s
  | .vfCommit vf gen imgs => Sys2Proof.Machine.execVfCommit vf gen imgs s
  | .secCommit w gen => Sys2Proof.Machine.execSecCommit w gen s
  | .fabCommit w gen => Sys2Proof.Machine.execFabCommit w gen s
  | .rmaCommit w gen => Sys2Proof.Machine.execRmaCommit w gen s
  | .memCommit w gen => Sys2Proof.Machine.execMemCommit w gen s
  | .deckCommit w gen => Sys2Proof.Machine.execDeckCommit w gen s
  | .nodeCommit w gen => Sys2Proof.Machine.execNodeCommit w gen s
  | .mgmtCommit w gen => Sys2Proof.Machine.execMgmtCommit w gen s
  | .commitDiscard w b => Sys2Proof.Machine.execCommitDiscard w b s
  | .commitSafePointSwap b vf => Sys2Proof.Machine.execCommitSafePointSwap b vf s
  | .remapSwitch k l => Sys2Proof.Machine.execRemapSwitch k l s
  | .crucibleImageLoad pkg unit => Sys2Proof.Machine.execCrucibleImageLoad pkg unit s
  | .microcodeFenceLoad cls engine => Sys2Proof.Machine.execMicrocodeFenceLoad cls engine s
  | .doorbellSqTail pg v => Sys2Proof.Machine.execDoorbellSqTail pg v s
  | .doorbellCqHead pg v => Sys2Proof.Machine.execDoorbellCqHead pg v s
  | .doorbellEventRing fn v => Sys2Proof.Machine.execDoorbellEventRing fn v s
  | .descriptorAccept ring => Sys2Proof.Machine.execDescriptorAccept ring s
  | .commandDeferredAdmit ring rseq => Sys2Proof.Machine.execCommandDeferredAdmit ring rseq s
  | .completionWrite ring => Sys2Proof.Machine.execCompletionWrite ring s
  | .interruptCoalTimeout ring => Sys2Proof.Machine.execInterruptCoalTimeout ring s
  | .dmaReadCompletion t r => Sys2Proof.Machine.execDmaReadCompletion t r s
  | .dmaReadTimeout t => Sys2Proof.Machine.execDmaReadTimeout t s
  | .dmaWriteFailure t => Sys2Proof.Machine.execDmaWriteFailure t s
  | .nodeOwnClaim w addr cred => Sys2Proof.Machine.execNodeOwnClaim w addr cred s
  | .claimWindowClose => Sys2Proof.Machine.execClaimWindowClose s
  | .nodeOwnHb w => Sys2Proof.Machine.execNodeOwnHb w s
  | .nodeOwnPass w target => Sys2Proof.Machine.execNodeOwnPass w target s
  | .nodeOwnPassCancel w => Sys2Proof.Machine.execNodeOwnPassCancel w s
  | .ownerLeaseLapse => Sys2Proof.Machine.execOwnerLeaseLapse s
  | .passTimeout => Sys2Proof.Machine.execPassTimeout s
  | .secChallengeRefresh => Sys2Proof.Machine.execSecChallengeRefresh s
  | .secDbgRead w => Sys2Proof.Machine.execSecDbgRead w s
  | .secDbgWrite w => Sys2Proof.Machine.execSecDbgWrite w s
  | .secTraceCtlWrite w v => Sys2Proof.Machine.execSecTraceCtlWrite w v s
  | .expertWindowAccess w off wr => Sys2Proof.Machine.execExpertWindowAccess w off wr s
  | .rmxLookupGo w useRetiring => Sys2Proof.Machine.execRmxLookupGo w useRetiring s
  | .rmxLookupStep w => Sys2Proof.Machine.execRmxLookupStep w s
  | .powerOn w => Sys2Proof.Machine.execPowerOn w s
  | .powerOff w => Sys2Proof.Machine.execPowerOff w s
  | .warmReset w => Sys2Proof.Machine.execWarmReset w s
  | .coldReset w => Sys2Proof.Machine.execColdReset w s
  | .enterTest w => Sys2Proof.Machine.execEnterTest w s
  | .leaveTest w => Sys2Proof.Machine.execLeaveTest w s
  | .recovery w => Sys2Proof.Machine.execRecovery w s
  | .continueReq w => Sys2Proof.Machine.execContinueReq w s
  | .mgmtUpdGo w cls image => Sys2Proof.Machine.execMgmtUpdGo w cls image s
  | .mgmtUpdateDone ok => Sys2Proof.Machine.execMgmtUpdateDone ok s
  | .mssRestart started => Sys2Proof.Machine.execMssRestart started s
  | .pkgRecalDone pkg stored => Sys2Proof.Machine.execPkgRecalDone pkg stored s
  | .ladle ring rseq => Sys2Proof.Machine.execLadle ring rseq s
  | .ladleCommit ring rseq => Sys2Proof.Machine.execLadleCommit ring rseq s
  | .attendNeedLenTimeout ring rseq => Sys2Proof.Machine.execAttendNeedLenTimeout ring rseq s
  | .sealFreeze ring rseq => Sys2Proof.Machine.execSealFreeze ring rseq s
  | .sealFree ring rseq => Sys2Proof.Machine.execSealFree ring rseq s
  | .sealRead ring rseq => Sys2Proof.Machine.execSealRead ring rseq s
  | .sealFreezeEffect ring rseq => Sys2Proof.Machine.execSealFreezeEffect ring rseq s
  | .sealFreeEffect ring rseq => Sys2Proof.Machine.execSealFreeEffect ring rseq s
  | .migrateMoveHome ring rseq => Sys2Proof.Machine.execMigrateMoveHome ring rseq s
  | .migrateReplicate ring rseq => Sys2Proof.Machine.execMigrateReplicate ring rseq s
  | .migrateShardOut ring rseq => Sys2Proof.Machine.execMigrateShardOut ring rseq s
  | .migrateShardIn ring rseq => Sys2Proof.Machine.execMigrateShardIn ring rseq s
  | .migratePromote ring rseq => Sys2Proof.Machine.execMigratePromote ring rseq s
  | .migrateSwitch ring rseq => Sys2Proof.Machine.execMigrateSwitch ring rseq s
  | .oldCopyFree seq => Sys2Proof.Machine.execOldCopyFree seq s
  | .attend ring rseq => Sys2Proof.Machine.execAttend ring rseq s
  | .attendRootMerge ring rseq => Sys2Proof.Machine.execAttendRootMerge ring rseq s
  | .autoSelection seq stream => Sys2Proof.Machine.execAutoSelection seq stream s
  | .selectPages ring rseq => Sys2Proof.Machine.execSelectPages ring rseq s
  | .selectFlip seq stream => Sys2Proof.Machine.execSelectFlip seq stream s
  | .search ring rseq => Sys2Proof.Machine.execSearch ring rseq s
  | .walkerBatchReadDone ring rseq q => Sys2Proof.Machine.execWalkerBatchReadDone ring rseq q s
  | .searchMerge ring rseq => Sys2Proof.Machine.execSearchMerge ring rseq s
  | .insert ring rseq => Sys2Proof.Machine.execInsert ring rseq s
  | .delete ring rseq => Sys2Proof.Machine.execDelete ring rseq s
  | .publishEpoch ring rseq => Sys2Proof.Machine.execPublishEpoch ring rseq s
  | .publishCommit ring rseq => Sys2Proof.Machine.execPublishCommit ring rseq s
  | .publishFloorTimeout ring rseq => Sys2Proof.Machine.execPublishFloorTimeout ring rseq s
  | .slagSweep idx => Sys2Proof.Machine.execSlagSweep idx s
  | .rmaRead ring rseq => Sys2Proof.Machine.execRmaRead ring rseq s
  | .rmaWrite ring rseq => Sys2Proof.Machine.execRmaWrite ring rseq s
  | .rmaAdd ring rseq => Sys2Proof.Machine.execRmaAdd ring rseq s
  | .connOpen ring rseq => Sys2Proof.Machine.execConnOpen ring rseq s
  | .connClose ring rseq => Sys2Proof.Machine.execConnClose ring rseq s
  | .connCloseDone conn => Sys2Proof.Machine.execConnCloseDone conn s
  | .mrReg ring rseq => Sys2Proof.Machine.execMrReg ring rseq s
  | .mrDereg ring rseq => Sys2Proof.Machine.execMrDereg ring rseq s
  | .mrDeregDone ring rseq => Sys2Proof.Machine.execMrDeregDone ring rseq s
  | .pageResume ring rseq => Sys2Proof.Machine.execPageResume ring rseq s
  | .signalLocal ring rseq => Sys2Proof.Machine.execSignalLocal ring rseq s
  | .signalRemote ring rseq => Sys2Proof.Machine.execSignalRemote ring rseq s
  | .wait ring rseq => Sys2Proof.Machine.execWait ring rseq s
  | .waitTimeout ring rseq => Sys2Proof.Machine.execWaitTimeout ring rseq s
  | .deckLoad ring rseq => Sys2Proof.Machine.execDeckLoad ring rseq s
  | .deckSwap ring rseq => Sys2Proof.Machine.execDeckSwap ring rseq s
  | .deckSwapStop ring rseq => Sys2Proof.Machine.execDeckSwapStop ring rseq s
  | .deckSwapRestart ring rseq => Sys2Proof.Machine.execDeckSwapRestart ring rseq s
  | .deckStart => Sys2Proof.Machine.execDeckStart s
  | .roundBoundary rcMax => Sys2Proof.Machine.execRoundBoundary rcMax s
  | .cardExec card => Sys2Proof.Machine.execCardExec card s
  | .cardHold card => Sys2Proof.Machine.execCardHold card s
  | .cardSend card => Sys2Proof.Machine.execCardSend card s
  | .cardRecv card => Sys2Proof.Machine.execCardRecv card s
  | .cardPost card => Sys2Proof.Machine.execCardPost card s
  | .cardCheck card => Sys2Proof.Machine.execCardCheck card s
  | .cardWait card => Sys2Proof.Machine.execCardWait card s
  | .cardRelease card => Sys2Proof.Machine.execCardRelease card s
  | .loanThreshold card => Sys2Proof.Machine.execLoanThreshold card s
  | .cardSpanEnd card cause => Sys2Proof.Machine.execCardSpanEnd card cause s
  | .noticeTake => Sys2Proof.Machine.execNoticeTake s
  | .stepRelease step => Sys2Proof.Machine.execStepRelease step s
  | .marginReading rc => Sys2Proof.Machine.execMarginReading rc s
  | .mapUpdate ring rseq => Sys2Proof.Machine.execMapUpdate ring rseq s
  | .mapCommit => Sys2Proof.Machine.execMapCommit s
  | .epochRetire => Sys2Proof.Machine.execEpochRetire s
  | .epochForcedRetire => Sys2Proof.Machine.execEpochForcedRetire s
  | .stampHoldTimeout held => Sys2Proof.Machine.execStampHoldTimeout held s
  | .keyImportFabric ring rseq => Sys2Proof.Machine.execKeyImportFabric ring rseq s
  | .keyImportWindow ring rseq => Sys2Proof.Machine.execKeyImportWindow ring rseq s
  | .keyErase ring rseq => Sys2Proof.Machine.execKeyErase ring rseq s
  | .attest ring rseq => Sys2Proof.Machine.execAttest ring rseq s
  | .release ring rseq => Sys2Proof.Machine.execRelease ring rseq s
  | .releaseProceed p => Sys2Proof.Machine.execReleaseProceed p s
  | .releaseFillDone p failures => Sys2Proof.Machine.execReleaseFillDone p failures s
  | .rxWrite port pkt => Sys2Proof.Machine.execRxWrite port pkt s
  | .rxReadReq port pkt => Sys2Proof.Machine.execRxReadReq port pkt s
  | .rxReadResp port pkt => Sys2Proof.Machine.execRxReadResp port pkt s
  | .rxAddReq port pkt => Sys2Proof.Machine.execRxAddReq port pkt s
  | .rxAddResp port pkt => Sys2Proof.Machine.execRxAddResp port pkt s
  | .rxSignal port pkt => Sys2Proof.Machine.execRxSignal port pkt s
  | .rxAck port pkt => Sys2Proof.Machine.execRxAck port pkt s
  | .rxNak port pkt => Sys2Proof.Machine.execRxNak port pkt s
  | .rxHold port pkt => Sys2Proof.Machine.execRxHold port pkt s
  | .rxRetryAfter port pkt => Sys2Proof.Machine.execRxRetryAfter port pkt s
  | .rxCall port pkt m => Sys2Proof.Machine.execRxCall port pkt m s
  | .rxCallResp port pkt m => Sys2Proof.Machine.execRxCallResp port pkt m s
  | .rxNotice port n => Sys2Proof.Machine.execRxNotice port n s
  | .rxDemote port src seq newHome => Sys2Proof.Machine.execRxDemote port src seq newHome s
  | .rxDemoteAck port src seq newHome => Sys2Proof.Machine.execRxDemoteAck port src seq newHome s
  | .contextFetchDone conn => Sys2Proof.Machine.execContextFetchDone conn s
  | .ackDelayTimeout conn => Sys2Proof.Machine.execAckDelayTimeout conn s
  | .retransmitTimeout conn => Sys2Proof.Machine.execRetransmitTimeout conn s
  | .holdRepeatTimer conn => Sys2Proof.Machine.execHoldRepeatTimer conn s
  | .stallLimitExpiry conn => Sys2Proof.Machine.execStallLimitExpiry conn s
  | .resendDelayExpiry conn => Sys2Proof.Machine.execResendDelayExpiry conn s
  | .demoteRepeatTimer seq => Sys2Proof.Machine.execDemoteRepeatTimer seq s
  | .retentionExpiry home step sub => Sys2Proof.Machine.execRetentionExpiry home step sub s
  | .retentionBusyRetry ring rseq sub => Sys2Proof.Machine.execRetentionBusyRetry ring rseq sub s
  | .blockReceive port b => Sys2Proof.Machine.execBlockReceive port b s
  | .alignmentBlockReceive port skewNs => Sys2Proof.Machine.execAlignmentBlockReceive port skewNs s
  | .blockTransmit port => Sys2Proof.Machine.execBlockTransmit port s
  | .rxLctl port f => Sys2Proof.Machine.execRxLctl port f s
  | .rxTsync port f replayed rxFrac => Sys2Proof.Machine.execRxTsync port f replayed rxFrac s
  | .rxCap port f => Sys2Proof.Machine.execRxCap port f s
  | .rxRetrain port => Sys2Proof.Machine.execRxRetrain port s
  | .replayAckTimeout port => Sys2Proof.Machine.execReplayAckTimeout port s
  | .signalDetect port => Sys2Proof.Machine.execSignalDetect port s
  | .trainLowDone port lanes => Sys2Proof.Machine.execTrainLowDone port lanes s
  | .trainHighDone port lanes => Sys2Proof.Machine.execTrainHighDone port lanes s
  | .creditExchangeDone port limits => Sys2Proof.Machine.execCreditExchangeDone port limits s
  | .retrainDone port ok lanes partnerLanes => Sys2Proof.Machine.execRetrainDone port ok lanes partnerLanes s
  | .laneFailure port lane => Sys2Proof.Machine.execLaneFailure port lane s
  | .tsyncDue => Sys2Proof.Machine.execTsyncDue s
  | .holdoverEnter => Sys2Proof.Machine.execHoldoverEnter s
  | .timeLost => Sys2Proof.Machine.execTimeLost s
  | .ptpMessage domain offsetNs => Sys2Proof.Machine.execPtpMessage domain offsetNs s
  | .partFault k inst cause => Sys2Proof.Machine.execPartFault k inst cause s
  | .jokerSwitchDone k inst => Sys2Proof.Machine.execJokerSwitchDone k inst s
  | .stepReplayStart ring rseq => Sys2Proof.Machine.execStepReplayStart ring rseq s
  | .partWatchdog k inst => Sys2Proof.Machine.execPartWatchdog k inst s
  | .stepWatchdog ring rseq => Sys2Proof.Machine.execStepWatchdog ring rseq s
  | .waitWatchdog ring rseq => Sys2Proof.Machine.execWaitWatchdog ring rseq s
  | .sharedBufferEccError slice e => Sys2Proof.Machine.execSharedBufferEccError slice e s
  | .ueBurst addr where_ => Sys2Proof.Machine.execUeBurst addr where_ s
  | .rowRetireCopy unit src dst => Sys2Proof.Machine.execRowRetireCopy unit src dst s
  | .packageFault pkg => Sys2Proof.Machine.execPackageFault pkg s
  | .mccFault mcc => Sys2Proof.Machine.execMccFault mcc s
  | .powerPhaseLoss => Sys2Proof.Machine.execPowerPhaseLoss s
  | .mssWatchdog => Sys2Proof.Machine.execMssWatchdog s
  | .crw u col data bad => Sys2Proof.Machine.execCrw u col data bad s
  | .crucibleGo u entry => Sys2Proof.Machine.execCrucibleGo u entry s
  | .crucibleAbort u => Sys2Proof.Machine.execCrucibleAbort u s
  | .crucibleSuspend u => Sys2Proof.Machine.execCrucibleSuspend u s
  | .crr u col bad => Sys2Proof.Machine.execCrr u col bad s
  | .opw u h col data bad => Sys2Proof.Machine.execOpw u h col data bad s
  | .rbr u h col bad => Sys2Proof.Machine.execRbr u h col bad s
  | .imw u col data bad => Sys2Proof.Machine.execImw u col data bad s
  | .cruStop u => Sys2Proof.Machine.execCruStop u s
  | .cruYield u => Sys2Proof.Machine.execCruYield u s
  | .yieldRelease u => Sys2Proof.Machine.execYieldRelease u s
  | .cruSeti u => Sys2Proof.Machine.execCruSeti u s
  | .cruAddi u => Sys2Proof.Machine.execCruAddi u s
  | .cruAdd u => Sys2Proof.Machine.execCruAdd u s
  | .cruLoop u => Sys2Proof.Machine.execCruLoop u s
  | .cruJump u => Sys2Proof.Machine.execCruJump u s
  | .cruBz u => Sys2Proof.Machine.execCruBz u s
  | .cruRstr u => Sys2Proof.Machine.execCruRstr u s
  | .cruLds u => Sys2Proof.Machine.execCruLds u s
  | .cruDot u => Sys2Proof.Machine.execCruDot u s
  | .cruAcc u => Sys2Proof.Machine.execCruAcc u s
  | .cruScale u => Sys2Proof.Machine.execCruScale u s
  | .cruHook u => Sys2Proof.Machine.execCruHook u s
  | .cruCsel u => Sys2Proof.Machine.execCruCsel u s
  | .cruMax u => Sys2Proof.Machine.execCruMax u s
  | .cruExp2 u => Sys2Proof.Machine.execCruExp2 u s
  | .cruStoreResult u => Sys2Proof.Machine.execCruStoreResult u s
  | .cruStoreCopy u => Sys2Proof.Machine.execCruStoreCopy u s
  | .cruStoreZero u => Sys2Proof.Machine.execCruStoreZero u s
  | .cruStoreRewrite u => Sys2Proof.Machine.execCruStoreRewrite u s
  | .cruSscore u => Sys2Proof.Machine.execCruSscore u s
  | .cruPost u => Sys2Proof.Machine.execCruPost u s
  | .cruResultRead u => Sys2Proof.Machine.execCruResultRead u s
  | .cruStallTimeout u => Sys2Proof.Machine.execCruStallTimeout u s
  | .cruClockBound u => Sys2Proof.Machine.execCruClockBound u s
  | .refreshDue u bank => Sys2Proof.Machine.execRefreshDue u bank s
  | .cruRowBoundarySuspend u => Sys2Proof.Machine.execCruRowBoundarySuspend u s
  | .cruSuspendResume u => Sys2Proof.Machine.execCruSuspendResume u s
  | .scrubLaunch u granule => Sys2Proof.Machine.execScrubLaunch u granule s
  | .castAuditPiece => Sys2Proof.Machine.execCastAuditPiece s
  | .retrainingPiece ch late => Sys2Proof.Machine.execRetrainingPiece ch late s
  | .telemetrySample vals => Sys2Proof.Machine.execTelemetrySample vals s
  | .thermalTrip sensor val => Sys2Proof.Machine.execThermalTrip sensor val s
  | .eventLogFlush => Sys2Proof.Machine.execEventLogFlush s
  | .tapFlush => Sys2Proof.Machine.execTapFlush s
  | .meteringResume => Sys2Proof.Machine.execMeteringResume s
  | .assayRxCount => Sys2Proof.Machine.execAssayRxCount s
  | .assayRxLevel t => Sys2Proof.Machine.execAssayRxLevel t s
  | .assayRxOpen t => Sys2Proof.Machine.execAssayRxOpen t s
  | .assayRxClose => Sys2Proof.Machine.execAssayRxClose s
  | .assayRxHalt => Sys2Proof.Machine.execAssayRxHalt s
  | .assayRxResume => Sys2Proof.Machine.execAssayRxResume s
  | .assayRxRestart t => Sys2Proof.Machine.execAssayRxRestart t s
  | .assayHeartbeatLoss => Sys2Proof.Machine.execAssayHeartbeatLoss s
  | .assayReadyChange ready => Sys2Proof.Machine.execAssayReadyChange ready s
  | .assayPeriodicStatement => Sys2Proof.Machine.execAssayPeriodicStatement s
  | .assayNvmSave => Sys2Proof.Machine.execAssayNvmSave s
  | .assaySealBreach => Sys2Proof.Machine.execAssaySealBreach s
  | .getStatement p => Sys2Proof.Machine.execGetStatement p s
  | .getByAseq aseq => Sys2Proof.Machine.execGetByAseq aseq s
  | .getCert => Sys2Proof.Machine.execGetCert s
  | .getStatus => Sys2Proof.Machine.execGetStatus s
  | .patchChunk off data => Sys2Proof.Machine.execPatchChunk off data s
  | .patchCommit len => Sys2Proof.Machine.execPatchCommit len s
  | .assayPatchRestart => Sys2Proof.Machine.execAssayPatchRestart s
  | .assaySetEndpointId eid => Sys2Proof.Machine.execAssaySetEndpointId eid s
  | .assayGetEndpointId => Sys2Proof.Machine.execAssayGetEndpointId s
  | .assayGetMctpVersion => Sys2Proof.Machine.execAssayGetMctpVersion s
  | .assayGetMessageTypes => Sys2Proof.Machine.execAssayGetMessageTypes s
  | .setEndpointId eid => Sys2Proof.Machine.execSetEndpointId eid s
  | .getEndpointId => Sys2Proof.Machine.execGetEndpointId s
  | .getMctpVersionSupport => Sys2Proof.Machine.execGetMctpVersionSupport s
  | .getMessageTypeSupport => Sys2Proof.Machine.execGetMessageTypeSupport s
  | .mgmtOpen h ans => Sys2Proof.Machine.execMgmtOpen h ans s
  | .mgmtClose h => Sys2Proof.Machine.execMgmtClose h s
  | .mgmtRead h off len => Sys2Proof.Machine.execMgmtRead h off len s
  | .mgmtWrite h off data => Sys2Proof.Machine.execMgmtWrite h off data s
  | .mgmtClaim h cred => Sys2Proof.Machine.execMgmtClaim h cred s
  | .mgmtHeartbeat h => Sys2Proof.Machine.execMgmtHeartbeat h s
  | .mgmtSubmit h desc => Sys2Proof.Machine.execMgmtSubmit h desc s
  | .mgmtUpdate h off data => Sys2Proof.Machine.execMgmtUpdate h off data s
  | .mgmtLogRead h first count => Sys2Proof.Machine.execMgmtLogRead h first count s
  | .mgmtSessionTimeout m => Sys2Proof.Machine.execMgmtSessionTimeout m s
  | .jtagBypass => Sys2Proof.Machine.execJtagBypass s
  | .jtagIdcode => Sys2Proof.Machine.execJtagIdcode s
  | .jtagSamplePreload => Sys2Proof.Machine.execJtagSamplePreload s
  | .jtagExtest => Sys2Proof.Machine.execJtagExtest s
  | .jtagClamp => Sys2Proof.Machine.execJtagClamp s
  | .jtagIntest => Sys2Proof.Machine.execJtagIntest s
  | .standbyPowerGood recoveryN sris smbAddr => Sys2Proof.Machine.execStandbyPowerGood recoveryN sris smbAddr s
  | .standbyPowerLoss => Sys2Proof.Machine.execStandbyPowerLoss s
  | .mainPowerLoss => Sys2Proof.Machine.execMainPowerLoss s
  | .vin48Dip us minMv => Sys2Proof.Machine.execVin48Dip us minMv s
  | .bringupStepDone res imgs => Sys2Proof.Machine.execBringupStepDone res imgs s
  | .perstAssert => Sys2Proof.Machine.execPerstAssert s
  | .perstDeassert => Sys2Proof.Machine.execPerstDeassert s
  | .pcieLinkDown hotReset => Sys2Proof.Machine.execPcieLinkDown hotReset s
  | .pcieLinkUp => Sys2Proof.Machine.execPcieLinkUp s
  | .flrVf vf => Sys2Proof.Machine.execFlrVf vf s
  | .flrPf => Sys2Proof.Machine.execFlrPf s
  | .refclkLoss => Sys2Proof.Machine.execRefclkLoss s
  | .nodeOscFailure => Sys2Proof.Machine.execNodeOscFailure s
  | .vin48Return => Sys2Proof.Machine.execVin48Return s
  | .nodeOscRecovery => Sys2Proof.Machine.execNodeOscRecovery s
  | .assayHeartbeatReturn => Sys2Proof.Machine.execAssayHeartbeatReturn s
  | .msixVectorUnmask fn vec => Sys2Proof.Machine.execMsixVectorUnmask fn vec s

end Sys2Proof.Machine
end

