-- ==== Sys2Proof/WellFormed.lean ====
section
/-! DEFINITION. Well-formed commands: every number that a command carries lies in the range that the spec gives the thing
it names, and every list has a length that its packet, message or transfer can carry. The meanings are total and do not rely
on it. -/

namespace Sys2Proof

/-- The PF, one of 64 VFs, or one of 15 management masters (R310, R333). -/
def okWriter : Writer → Bool
  | .pf => true
  | .vf n => decide (1 ≤ n) && decide (n ≤ 64)
  | .mgmt m => decide (1 ≤ m) && decide (m ≤ 15)

/-- A VF (R310). -/
def okVf (n : Nat) : Bool := decide (1 ≤ n) && decide (n ≤ 64)

/-- The PF, 0, or a VF (R310). -/
def okFn (n : Nat) : Bool := decide (n ≤ 64)

/-- A host ring, the management ring 4,096 or the deck's 4,097 (R315, R239, R431). -/
def okRing (n : Nat) : Bool := decide (n < 4098)

/-- A host ring (R315). -/
def okHostRing (n : Nat) : Bool := decide (n < 4096)

/-- A doorbell page: one of 4,096 in the PF's BAR2, or one of 64 in a VF's (R311). -/
def okPage : DbPage → Bool
  | .pf n => okHostRing n
  | .vf v j => okVf v && decide (j < 64)

/-- What the node reads back of a ring: descriptors of 64 bytes (R317, R327). -/
def okImage (x : RingImage) : Bool := okHostRing x.ring && x.descs.all fun d => d.length == 64

/-- A connection: 20 bits (R262). -/
def okConn (n : Nat) : Bool := decide (n < 1048576)

/-- The command of a DMA read exists by its number. -/
def okTag : DmaTag → Bool
  | .desc r => okHostRing r
  | .input r _ => okRing r
  | .target c => okConn c

/-- The command, ring or function of a DMA write exists by its number. -/
def okWTag : DmaWTag → Bool
  | .dest r _ => okRing r
  | .ringWrite r => okHostRing r
  | .eventRing fn => okFn fn

/-- A memory package (R130). -/
def okPackage (n : Nat) : Bool := decide (n < 16)

/-- A physical crucible unit: nine on each of eight dies of 16 packages (R130). -/
def okUnit (n : Nat) : Bool := decide (n < 1152)

/-- A physical crucible unit by its number in its package (R130). -/
def okPkgUnit (n : Nat) : Bool := decide (n < 72)

/-- An operand or result half (R134). -/
def okHalf (n : Nat) : Bool := decide (n < 2)

/-- A bank of a bank group (R149). -/
def okBank (n : Nat) : Bool := decide (n < 4)

/-- A column of the command path: 32 bytes (R133). -/
def okColumn (d : List Byte) : Bool := d.length == 32

/-- A granule of local memory (R131). -/
def okGranule (n : Nat) : Bool := decide (n < 6291456)

/-- A row of a bank group, by its number across the group's banks (R131). -/
def okRow (n : Nat) : Bool := decide (n < 393216)

/-- An address of local memory (R131). -/
def okAddr (n : Nat) : Bool := decide (n < 1649267441664)

/-- A sequence: 20 bits (R31). -/
def okSeq (n : Nat) : Bool := decide (n < 1048576)

/-- A stream of a sequence: at most 4,096 (R28). -/
def okStream (n : Nat) : Bool := decide (n < 4096)

/-- An index (R163). -/
def okIndex (n : Nat) : Bool := decide (n < 64)

/-- A partition (R368). -/
def okPart (n : Nat) : Bool := decide (n < 64)

/-- A torus port (R196). -/
def okPort (n : Nat) : Bool := decide (n < 6)

/-- A lane of a port (R196). -/
def okLane (n : Nat) : Bool := decide (n < 8)

/-- A packet carries at most 4,096 bytes, and a tag of 16 bytes or none (R262). -/
def okPacket (p : Packet) : Bool := decide (p.payload.length ≤ 4096) && (p.tag.length == 16 || p.tag.isEmpty) && okConn p.tr.dconn

/-- The header fields of a block fit their bits (R200). -/
def okBlockShape (b : RxBlock) : Bool := decide (b.dataFlits < 32) && decide (b.ctlSlot < 32)

/-- A flit of credits names seven buffers (R204, R214). -/
def okLctl (f : Lctl) : Bool := f.climit.length == 7

/-- Initial credits of seven buffers (R212, R214). -/
def okLimits (l : List (BitVec 16)) : Bool := l.length == 7

/-- A fraction of a ns in 16 bits (R223). -/
def okFrac (n : Nat) : Bool := decide (n < 65536)

/-- A slice of the shared buffer (R354). -/
def okSlice (n : Nat) : Bool := decide (n < 64)

/-- A memory controller complex: each serves four packages (R363). -/
def okMcc (n : Nat) : Bool := decide (n < 4)

/-- A DRAM channel (R441). -/
def okChannel (n : Nat) : Bool := decide (n < 64)

/-- A card of a deck, by its number in the deck (R235). -/
def okCard (n : Nat) : Bool := decide (n < 131072)

/-- A sensor (R427). -/
def okSensor (n : Nat) : Bool := decide (n < 30)

/-- A reading of a sensor (R427). -/
def okSensorVal (v : SensorVal) : Bool := okSensor v.idx

/-- A management master (R333). -/
def okMaster (n : Nat) : Bool := decide (1 ≤ n) && decide (n ≤ 15)

/-- A management message names its master (R429). -/
def okMsg (h : MsgHdr) : Bool := okMaster h.master

/-- The answers' connection on the fabric path (R430). -/
def okAnswer (a : Option AnswerRegion) : Bool := a.all fun x => okConn x.conn

/-- A vector of a function (R310). -/
def okVector (fn vec : Nat) : Bool := decide (vec < if fn = 0 then 64 else 31)

/-- A register access is aligned to its width (R11, R331). -/
def okWord (n : Nat) : Bool := decide (n % 4 = 0)

/-- A register access of 32 or 64 bits, aligned (R11, R331). -/
def okOffset (off : BitVec 26) (wide : Bool) : Bool := decide (off.toNat % (if wide then 8 else 4) = 0)

/-- The operands are ones that the hardware's numbering and its messages can carry. -/
def Instr.wf : Instr → Bool
  | .registerWrite w off wide _ => okWriter w && okOffset off wide
  | .castCommit w _ => okWriter w
  | .tileCommit w _ => okWriter w
  | .walkCommit w _ => okWriter w
  | .hostCommit w _ imgs => okWriter w && imgs.all okImage
  | .vfCommit vf _ imgs => okVf vf && imgs.all okImage
  | .secCommit w _ => okWriter w
  | .fabCommit w _ => okWriter w
  | .rmaCommit w _ => okWriter w
  | .memCommit w _ => okWriter w
  | .deckCommit w _ => okWriter w
  | .nodeCommit w _ => okWriter w
  | .mgmtCommit w _ => okWriter w
  | .commitDiscard w _ => okWriter w
  | .commitSafePointSwap _ fn => okFn fn
  | .remapSwitch _ _ => true
  | .crucibleImageLoad pkg unit => okPackage pkg && okPkgUnit unit
  | .microcodeFenceLoad _ _ => true
  | .doorbellSqTail pg _ => okPage pg
  | .doorbellCqHead pg _ => okPage pg
  | .doorbellEventRing fn _ => okFn fn
  | .descriptorAccept ring => okRing ring
  | .commandDeferredAdmit ring _ => okRing ring
  | .completionWrite ring => okRing ring
  | .interruptCoalTimeout ring => okRing ring
  | .dmaReadCompletion t _ => okTag t
  | .dmaReadTimeout t => okTag t
  | .dmaWriteFailure t => okWTag t
  | .nodeOwnClaim w _ _ => okWriter w
  | .claimWindowClose => true
  | .nodeOwnHb w => okWriter w
  | .nodeOwnPass w _ => okWriter w
  | .nodeOwnPassCancel w => okWriter w
  | .ownerLeaseLapse => true
  | .passTimeout => true
  | .secChallengeRefresh => true
  | .secDbgRead w => okWriter w
  | .secDbgWrite w => okWriter w
  | .secTraceCtlWrite w _ => okWriter w
  | .expertWindowAccess w off _ => okWriter w && okWord off.toNat
  | .rmxLookupGo w _ => okWriter w
  | .rmxLookupStep w => okWriter w
  | .powerOn w => okWriter w
  | .powerOff w => okWriter w
  | .warmReset w => okWriter w
  | .coldReset w => okWriter w
  | .enterTest w => okWriter w
  | .leaveTest w => okWriter w
  | .recovery w => okWriter w
  | .continueReq w => okWriter w
  | .mgmtUpdGo w _ _ => okWriter w
  | .mgmtUpdateDone _ => true
  | .mssRestart _ => true
  | .pkgRecalDone pkg _ => okPackage pkg
  | .ladle ring _ => okRing ring
  | .ladleCommit ring _ => okRing ring
  | .attendNeedLenTimeout ring _ => okRing ring
  | .sealFreeze ring _ => okRing ring
  | .sealFree ring _ => okRing ring
  | .sealRead ring _ => okRing ring
  | .sealFreezeEffect ring _ => okRing ring
  | .sealFreeEffect ring _ => okRing ring
  | .migrateMoveHome ring _ => okRing ring
  | .migrateReplicate ring _ => okRing ring
  | .migrateShardOut ring _ => okRing ring
  | .migrateShardIn ring _ => okRing ring
  | .migratePromote ring _ => okRing ring
  | .migrateSwitch ring _ => okRing ring
  | .oldCopyFree seq => okSeq seq
  | .attend ring _ => okRing ring
  | .attendRootMerge ring _ => okRing ring
  | .autoSelection seq stream => okSeq seq && okStream stream
  | .selectPages ring _ => okRing ring
  | .selectFlip seq stream => okSeq seq && okStream stream
  | .search ring _ => okRing ring
  | .walkerBatchReadDone ring _ _ => okRing ring
  | .searchMerge ring _ => okRing ring
  | .insert ring _ => okRing ring
  | .delete ring _ => okRing ring
  | .publishEpoch ring _ => okRing ring
  | .publishCommit ring _ => okRing ring
  | .publishFloorTimeout ring _ => okRing ring
  | .slagSweep idx => okIndex idx
  | .rmaRead ring _ => okRing ring
  | .rmaWrite ring _ => okRing ring
  | .rmaAdd ring _ => okRing ring
  | .connOpen ring _ => okRing ring
  | .connClose ring _ => okRing ring
  | .connCloseDone conn => okConn conn
  | .mrReg ring _ => okRing ring
  | .mrDereg ring _ => okRing ring
  | .mrDeregDone ring _ => okRing ring
  | .pageResume ring _ => okRing ring
  | .signalLocal ring _ => okRing ring
  | .signalRemote ring _ => okRing ring
  | .wait ring _ => okRing ring
  | .waitTimeout ring _ => okRing ring
  | .deckLoad ring _ => okRing ring
  | .deckSwap ring _ => okRing ring
  | .deckSwapStop ring _ => okRing ring
  | .deckSwapRestart ring _ => okRing ring
  | .deckStart => true
  | .roundBoundary _ => true
  | .cardExec card => okCard card
  | .cardHold card => okCard card
  | .cardSend card => okCard card
  | .cardRecv card => okCard card
  | .cardPost card => okCard card
  | .cardCheck card => okCard card
  | .cardWait card => okCard card
  | .cardRelease card => okCard card
  | .loanThreshold _ => true
  | .cardSpanEnd card _ => okCard card
  | .noticeTake => true
  | .stepRelease _ => true
  | .marginReading _ => true
  | .mapUpdate ring _ => okRing ring
  | .mapCommit => true
  | .epochRetire => true
  | .epochForcedRetire => true
  | .stampHoldTimeout _ => true
  | .keyImportFabric ring _ => okRing ring
  | .keyImportWindow ring _ => okRing ring
  | .keyErase ring _ => okRing ring
  | .attest ring _ => okRing ring
  | .release ring _ => okRing ring
  | .releaseProceed p => okPart p
  | .releaseFillDone p _ => okPart p
  | .rxWrite port pkt => okPort port && okPacket pkt
  | .rxReadReq port pkt => okPort port && okPacket pkt
  | .rxReadResp port pkt => okPort port && okPacket pkt
  | .rxAddReq port pkt => okPort port && okPacket pkt
  | .rxAddResp port pkt => okPort port && okPacket pkt
  | .rxSignal port pkt => okPort port && okPacket pkt
  | .rxAck port pkt => okPort port && okPacket pkt
  | .rxNak port pkt => okPort port && okPacket pkt
  | .rxHold port pkt => okPort port && okPacket pkt
  | .rxRetryAfter port pkt => okPort port && okPacket pkt
  | .rxCall port pkt _ => okPort port && okPacket pkt
  | .rxCallResp port pkt _ => okPort port && okPacket pkt
  | .rxNotice port _ => okPort port
  | .rxDemote port _ seq _ => okPort port && okSeq seq
  | .rxDemoteAck port _ seq _ => okPort port && okSeq seq
  | .contextFetchDone conn => okConn conn
  | .ackDelayTimeout conn => okConn conn
  | .retransmitTimeout conn => okConn conn
  | .holdRepeatTimer conn => okConn conn
  | .stallLimitExpiry conn => okConn conn
  | .resendDelayExpiry conn => okConn conn
  | .demoteRepeatTimer seq => okSeq seq
  | .retentionExpiry _ _ _ => true
  | .retentionBusyRetry ring _ _ => okRing ring
  | .blockReceive port b => okPort port && okBlockShape b
  | .alignmentBlockReceive port _ => okPort port
  | .blockTransmit port => okPort port
  | .rxLctl port f => okPort port && okLctl f
  | .rxTsync port _ _ rxFrac => okPort port && okFrac rxFrac
  | .rxCap port _ => okPort port
  | .rxRetrain port => okPort port
  | .replayAckTimeout port => okPort port
  | .signalDetect port => okPort port
  | .trainLowDone port _ => okPort port
  | .trainHighDone port _ => okPort port
  | .creditExchangeDone port limits => okPort port && okLimits limits
  | .retrainDone port _ _ _ => okPort port
  | .laneFailure port lane => okPort port && okLane lane
  | .tsyncDue => true
  | .holdoverEnter => true
  | .timeLost => true
  | .ptpMessage _ _ => true
  | .partFault _ _ _ => true
  | .jokerSwitchDone _ _ => true
  | .stepReplayStart ring _ => okRing ring
  | .partWatchdog _ _ => true
  | .stepWatchdog ring _ => okRing ring
  | .waitWatchdog ring _ => okRing ring
  | .sharedBufferEccError slice _ => okSlice slice
  | .ueBurst addr _ => okAddr addr
  | .rowRetireCopy unit src dst => okUnit unit && okRow src && okRow dst
  | .packageFault pkg => okPackage pkg
  | .mccFault mcc => okMcc mcc
  | .powerPhaseLoss => true
  | .mssWatchdog => true
  | .crw u _ data _ => okUnit u && okColumn data
  | .crucibleGo u _ => okUnit u
  | .crucibleAbort u => okUnit u
  | .crucibleSuspend u => okUnit u
  | .crr u _ _ => okUnit u
  | .opw u h _ data _ => okUnit u && okHalf h && okColumn data
  | .rbr u h _ _ => okUnit u && okHalf h
  | .imw u _ data _ => okUnit u && okColumn data
  | .cruStop u => okUnit u
  | .cruYield u => okUnit u
  | .yieldRelease u => okUnit u
  | .cruSeti u => okUnit u
  | .cruAddi u => okUnit u
  | .cruAdd u => okUnit u
  | .cruLoop u => okUnit u
  | .cruJump u => okUnit u
  | .cruBz u => okUnit u
  | .cruRstr u => okUnit u
  | .cruLds u => okUnit u
  | .cruDot u => okUnit u
  | .cruAcc u => okUnit u
  | .cruScale u => okUnit u
  | .cruHook u => okUnit u
  | .cruCsel u => okUnit u
  | .cruMax u => okUnit u
  | .cruExp2 u => okUnit u
  | .cruStoreResult u => okUnit u
  | .cruStoreCopy u => okUnit u
  | .cruStoreZero u => okUnit u
  | .cruStoreRewrite u => okUnit u
  | .cruSscore u => okUnit u
  | .cruPost u => okUnit u
  | .cruResultRead u => okUnit u
  | .cruStallTimeout u => okUnit u
  | .cruClockBound u => okUnit u
  | .refreshDue u bank => okUnit u && okBank bank
  | .cruRowBoundarySuspend u => okUnit u
  | .cruSuspendResume u => okUnit u
  | .scrubLaunch u granule => okUnit u && okGranule granule
  | .castAuditPiece => true
  | .retrainingPiece ch _ => okChannel ch
  | .telemetrySample vals => vals.all okSensorVal
  | .thermalTrip sensor _ => okSensor sensor
  | .eventLogFlush => true
  | .tapFlush => true
  | .meteringResume => true
  | .assayRxCount => true
  | .assayRxLevel _ => true
  | .assayRxOpen _ => true
  | .assayRxClose => true
  | .assayRxHalt => true
  | .assayRxResume => true
  | .assayRxRestart _ => true
  | .assayHeartbeatLoss => true
  | .assayReadyChange _ => true
  | .assayPeriodicStatement => true
  | .assayNvmSave => true
  | .assaySealBreach => true
  | .getStatement p => okPart p
  | .getByAseq _ => true
  | .getCert => true
  | .getStatus => true
  | .patchChunk _ _ => true
  | .patchCommit _ => true
  | .assayPatchRestart => true
  | .assaySetEndpointId _ => true
  | .assayGetEndpointId => true
  | .assayGetMctpVersion => true
  | .assayGetMessageTypes => true
  | .setEndpointId _ => true
  | .getEndpointId => true
  | .getMctpVersionSupport => true
  | .getMessageTypeSupport => true
  | .mgmtOpen h ans => okMsg h && okAnswer ans
  | .mgmtClose h => okMsg h
  | .mgmtRead h _ _ => okMsg h
  | .mgmtWrite h _ _ => okMsg h
  | .mgmtClaim h _ => okMsg h
  | .mgmtHeartbeat h => okMsg h
  | .mgmtSubmit h _ => okMsg h
  | .mgmtUpdate h _ _ => okMsg h
  | .mgmtLogRead h _ _ => okMsg h
  | .mgmtSessionTimeout m => okMaster m
  | .jtagBypass => true
  | .jtagIdcode => true
  | .jtagSamplePreload => true
  | .jtagExtest => true
  | .jtagClamp => true
  | .jtagIntest => true
  | .standbyPowerGood _ _ _ => true
  | .standbyPowerLoss => true
  | .mainPowerLoss => true
  | .vin48Dip _ _ => true
  | .bringupStepDone _ imgs => imgs.all okImage
  | .perstAssert => true
  | .perstDeassert => true
  | .pcieLinkDown _ => true
  | .pcieLinkUp => true
  | .flrVf vf => okVf vf
  | .flrPf => true
  | .refclkLoss => true
  | .nodeOscFailure => true
  | .vin48Return => true
  | .nodeOscRecovery => true
  | .assayHeartbeatReturn => true
  | .msixVectorUnmask fn vec => okFn fn && okVector fn vec

end Sys2Proof
end

