-- ==== Sys2Proof/Safety.lean ====
section
/-! DEFINITION. The terms in which claims about the node are made: the areas of the state and what it means that a command
changes only some of them, the canonical form of memory, the state without standby power, and what it takes for a command to be
admitted, to run, to end and to hear a packet. -/

namespace Sys2Proof.Machine

open Sys2Proof

/-- The areas of the state. `cells` are the bytes of local memory inside `mem`, `act` the active bank of the registers inside
`regs`, `st` the node state inside `mgmt`. -/
inductive Area where
  | out | freeCnt | clk | regs | own | host | cmds | seqs | shards | parts | retained | mgmt | pins | tap | assay | mem | walk
  | fab | rma | rmx | deck | sec | cells | act | st
  deriving DecidableEq, Repr

/-- `t` differs from `s` in the areas of `l` alone; the queue of waiting commands is the same in both. -/
structure OnlyIn (l : List Area) (s t : State) : Prop where
  pending : t.pending = s.pending
  out : .out ∈ l ∨ t.out = s.out
  freeCnt : .freeCnt ∈ l ∨ t.freeCnt = s.freeCnt
  clk : .clk ∈ l ∨ t.clk = s.clk
  regs : .regs ∈ l ∨ t.regs = s.regs
  own : .own ∈ l ∨ t.own = s.own
  host : .host ∈ l ∨ t.host = s.host
  cmds : .cmds ∈ l ∨ t.cmds = s.cmds
  seqs : .seqs ∈ l ∨ t.seqs = s.seqs
  shards : .shards ∈ l ∨ t.shards = s.shards
  parts : .parts ∈ l ∨ t.parts = s.parts
  retained : .retained ∈ l ∨ t.retained = s.retained
  mgmt : .mgmt ∈ l ∨ t.mgmt = s.mgmt
  pins : .pins ∈ l ∨ t.pins = s.pins
  tap : .tap ∈ l ∨ t.tap = s.tap
  assay : .assay ∈ l ∨ t.assay = s.assay
  mem : .mem ∈ l ∨ t.mem = s.mem
  walk : .walk ∈ l ∨ t.walk = s.walk
  fab : .fab ∈ l ∨ t.fab = s.fab
  rma : .rma ∈ l ∨ t.rma = s.rma
  rmx : .rmx ∈ l ∨ t.rmx = s.rmx
  deck : .deck ∈ l ∨ t.deck = s.deck
  sec : .sec ∈ l ∨ t.sec = s.sec
  cells : .cells ∈ l ∨ t.mem.cells = s.mem.cells
  act : .act ∈ l ∨ t.regs.act = s.regs.act
  st : .st ∈ l ∨ t.mgmt.st = s.mgmt.st

/-- Local memory is in its canonical form (log entry 4). -/
def memOk (s : State) : Prop := Memory.wf s.mem.cells = true

/-- The node has no standby power: state OFF (R421). -/
def isOff (s : State) : Prop := s.mgmt.st = .off

/-! ## Terms of the statements -/

/-- The commit command of a block that has a row for it. -/
def commitCmd (b : Block) (w : Writer) (gen : BitVec 16) (imgs : List RingImage) : Option Instr :=
  match b with
  | .cast => some (.castCommit w gen)
  | .tile => some (.tileCommit w gen)
  | .walk => some (.walkCommit w gen)
  | .host => some (.hostCommit w gen imgs)
  | .sec => some (.secCommit w gen)
  | .fab => some (.fabCommit w gen)
  | .rma => some (.rmaCommit w gen)
  | .mem => some (.memCommit w gen)
  | .deck => some (.deckCommit w gen)
  | .node => some (.nodeCommit w gen)
  | .mgmt => some (.mgmtCommit w gen)
  | .rmx => none

/-- What a block's commit makes of its pending words: ST_OK, or the status with which it refuses them. -/
def blockCheck (b : Block) (s : State) : Status :=
  let t := inBlock b s.regs.pend
  let r (st : Status) : Status := if stagesReserved t then .illegalValue else st
  match b with
  | .cast => checkCast t s
  | .host => checkHost t s
  | .tile => r (checkTile s)
  | .walk => checkWalk s
  | .sec => r (checkSec s)
  | .fab => r (checkFab s)
  | .rma => r (checkRma s)
  | .mem => r (checkMem s)
  | .deck => r (failIf (!(inRange (pendBits s 0x200000 0 6) 2 25 && inRange (pendBits s 0x200000 8 14) 1 10000)) .illegalValue)
  | .node => r (checkNode s)
  | .mgmt => r (checkMgmt s)
  | .rmx => .ok

/-- What a block's commit reads of resuming rings: the HOST block's alone. -/
def commitImgs (b : Block) (imgs : List RingImage) : List RingImage := if b = .host then imgs else []

/-- The rows of MGMT_REQ by a writer, with the states that take each (R424). -/
def requestRows (w : Writer) : List (Instr × (NodeState → Bool)) :=
  [(.powerOn w, (· == .standby)), (.powerOff w, poweredState), (.warmReset w, fun st => st == .ready || st == .degraded || st == .test),
   (.coldReset w, poweredState), (.enterTest w, fun st => st == .ready || st == .degraded), (.leaveTest w, (· == .test)),
   (.recovery w, fun st => st == .standby || st == .recovery), (.continueReq w, fun st => st == .bringup || st == .standby)]

/-- What a cold reset leaves: STANDBY with the data path as after power-on, and what lies outside the data path as it stood (R326). -/
def coldState (s t : State) : Prop :=
  t.mgmt.st = .standby ∧ t.mgmt.prev = s.mgmt.st ∧ t.mem = {} ∧ t.cmds = [] ∧ t.seqs = [] ∧ t.shards = [] ∧ t.retained = [] ∧ t.walk = {} ∧ t.fab = {} ∧
    t.rma = {} ∧ t.rmx = {} ∧ t.deck = {} ∧ t.host = { perst := s.host.perst } ∧ t.sec.slots = [] ∧ t.sec.memKeys = [] ∧
    t.sec.coldResets = s.sec.coldResets + 1 ∧ t.own = s.own ∧ t.clk.mss = s.clk.mss ∧ t.clk.node = 0 ∧ t.assay = s.assay ∧
    (∀ c, fuseSvn t c = fuseSvn s c ∨ c = 0 ∨ 7 < c)

/-- Command `c` of a ring of the host or of the management ring may be admitted: the node serves, no WAIT or MAP_UPDATE before it is
unfinished, and metering does not turn it away (R286, R301, R320, R410). -/
structure MayAdmit (s : State) (ring : Nat) (rseq : BitVec 32) (c : Cmd) : Prop where
  found : getCmd s ring rseq = some c
  ringIs : c.ring = ring
  rseqIs : c.rseq = rseq
  host : ring ≠ deckRing
  serves : serving s = true
  waits : admissible c = true
  free : fenced s c = false
  metered : s.tap.halted = false ∨ meteredWork c = false

/-- Command `c` of a ring of the host or of the management ring runs, the node serves, and no fault has struck its step. -/
structure Runs (s : State) (ring : Nat) (rseq : BitVec 32) (c : Cmd) : Prop where
  found : getCmd s ring rseq = some c
  ringIs : c.ring = ring
  rseqIs : c.rseq = rseq
  host : ring ≠ deckRing
  serves : serving s = true
  phase : c.phase = .running
  whole : c.faulted = false

/-- The command stands in `t` as it was, but finished with this status and result. -/
def EndsWith (t : State) (c : Cmd) (st : Status) (result : Nat) : Prop :=
  ∃ d, getCmd t c.ring c.rseq = some d ∧ d.desc = c.desc ∧ d.phase = .finished ∧ d.status = st ∧ d.result = BitVec.ofNat 64 result

/-- The areas that the end of a command touches: its own record, the trace buffer, events, counters and what leaves the node. -/
def endAreas : List Area := [.out, .freeCnt, .regs, .host, .cmds, .mgmt, .sec]

/-- The rows of the packets that no message accompanies, by TOP (R263). -/
def packetRows (port : Nat) (p : Packet) : List (Nat × Instr) :=
  [(0x01, .rxWrite port p), (0x02, .rxReadReq port p), (0x03, .rxReadResp port p), (0x04, .rxAddReq port p), (0x05, .rxAddResp port p),
   (0x06, .rxSignal port p), (0x08, .rxAck port p), (0x09, .rxNak port p), (0x0A, .rxHold port p), (0x0B, .rxRetryAfter port p)]

/-- The rows of the requests among them. -/
def requestRx (port : Nat) (p : Packet) : List (Nat × Instr) :=
  [(0x01, .rxWrite port p), (0x02, .rxReadReq port p), (0x04, .rxAddReq port p), (0x06, .rxSignal port p)]

/-- Half `c` hears a packet: the node serves, the half is OPEN without encryption, the packet comes from its peer, its context is in the
cache, and no packet is held or in process there (R277). -/
structure Hears (s : State) (p : Packet) (c : Nat) : Prop where
  conn : c = p.tr.dconn % 2 ^ 20
  withConn : p.tr.cl = false
  serves : serving s = true
  isOpen : (getConn s c).state = .open_
  peer : p.fab.src = (getConn s c).peerNode
  cache : cached s c = true
  plain : (getConn s c).enc = false
  idle : (getConn s c).reading = none
  free : (getConn s c).held = none

/-- The state once a packet that a half hears is taken in: its buffer is free, its bytes are counted, its context is the most recent, and
what its CPSN has passed is forgotten (R222, R270, R277). -/
def arrived (port : Nat) (cg : Cargo) (c : Nat) (s : State) : State :=
  purgeRecs c cg.packet.tr.cpsn (touchCtx c (meterRx (connPart (getConn s c)) cg.packet (takeInbox port cg s)))

/-- The areas of a request's arrival that stores nothing. -/
def rxAreas : List Area := [.rma, .fab, .tap, .regs]

/-- No span holds address `b`. -/
def outside (sp : List (Nat × Nat)) (b : Nat) : Prop := ∀ e ∈ sp, b < e.1 ∨ e.1 + e.2 ≤ b

/-- The rows of the crucible's instructions by opcode (R139). -/
def cruRows (u : Nat) : List (Nat × Instr) :=
  [(0x00, .cruStop u), (0x01, .cruYield u), (0x02, .cruSeti u), (0x03, .cruAddi u), (0x04, .cruAdd u), (0x05, .cruLoop u), (0x06, .cruJump u),
   (0x07, .cruBz u), (0x08, .cruRstr u), (0x09, .cruLds u), (0x0A, .cruDot u), (0x0B, .cruAcc u), (0x0C, .cruScale u), (0x0D, .cruHook u),
   (0x0E, .cruCsel u), (0x0F, .cruMax u), (0x10, .cruExp2 u), (0x11, .cruStoreResult u), (0x11, .cruStoreCopy u), (0x11, .cruStoreZero u),
   (0x11, .cruStoreRewrite u), (0x12, .cruSscore u), (0x13, .cruPost u)]

/-- Unit `u` stands as `x`, runs, and its next word is `w`, which is in order and has opcode `op` (R136, R139). -/
structure AtWord (s : State) (u op : Nat) (x : CruUnit) (w : Word) : Prop where
  power : mainOn s = true
  unit : x = getUnit s u
  runs : x.st = .run
  inside : x.pc < imageLen x
  word : w = tgetD x.prog x.pc 0
  order : wordOk w = true
  opcode : wOp w = op

end Sys2Proof.Machine
end

