-- ==== Sys2Proof/Certificates/Slice0/Obligations.lean ====
section
/-! DEFINITION. The statements for the provers: what the commands of the node do, family by family, and what every step keeps. -/

open Sys2Proof Sys2Proof.Machine

/-- A step takes the command at the front of the queue and answers what the command answers on the state with the queue's rest. -/
def Obligations.StepRunsFrontCommand : Prop :=
  ∀ (c : Instr) (rest : List Instr) (s : State), s.pending = c :: rest → step s = exec c { s with pending := rest }

/-- On an empty queue a step lets one nanosecond of MSS time pass and changes nothing else but the clocks: node time runs on main power unless
it is held (the model's choice, log entry 5). -/
def Obligations.IdleStepOnlyMovesClocks : Prop :=
  ∀ s : State, s.pending = [] → ∃ t, step s = .next t ∧ OnlyIn [.clk] s t ∧ t.clk.mss = s.clk.mss + 1 ∧
    t.clk.node = (if s.clk.held = false ∧ mainOn s = true then s.clk.node + 1 else s.clk.node)

/-- Every step answers a next state: no command is refused and none stops the node with a fault. No command changes the queue of the commands
that wait behind it. -/
def Obligations.StepsAnswerNextAndTakeOneCommand : Prop :=
  (∀ s : State, ∃ t, step s = .next t) ∧
  (∀ (c : Instr) (s t : State), exec c s = .next t → t.pending = s.pending)

/-- Local memory stays in its canonical form: addresses strictly rising inside memory, no entry equal to what an unlisted address reads as
(log entry 4). -/
def Obligations.StepKeepsMemoryCanonical : Prop :=
  ∀ s t : State, memOk s → step s = .next t → memOk t

/-- The state right after a cold reset: STANDBY with main power off, no owner, every commit generation zero, no command, no object and nothing
waiting; local memory lists nothing, and is in its canonical form. -/
def Obligations.ResetStateIsStandby : Prop :=
  State.reset.mgmt.st = .standby ∧ mainOn State.reset = false ∧ hasOwner State.reset = false ∧ State.reset.pending = [] ∧
    State.reset.cmds = [] ∧ State.reset.seqs = [] ∧ State.reset.mem.cells = [] ∧ memOk State.reset ∧
    (∀ b : Block, (ctlOf State.reset (blockNo b)).gen = 0) ∧ (∀ p, p < 64 → pstate State.reset p = 0)

/-- A master that owns the node, or the PF for its own registers, writes a register of 32 bits: the staged bits go to the pending bank, the
other bits are written at once under their access codes, and nothing else changes. -/
def Obligations.RegisterWriteTakesEffect : Prop :=
  ∀ (w : Writer) (off : BitVec 26) (v : BitVec 64) (s : State),
    masterOf w ≠ none → serving s = true → isOwner s w = true → off.toNat % 4 = 0 → off.toNat < 0xC00000 → v.toNat < 2 ^ 32 →
    ringOff off.toNat = none → evOff off.toNat = none → hasRow off.toNat v.toNat = false → off.toNat ≠ 0x5000F0 →
    v.toNat &&& reservedBits off.toNat = 0 → illegalRw off.toNat v.toNat = false →
    ∃ t, exec (.registerWrite w off false v) s = .next t ∧ OnlyIn [.regs] s t ∧ t.regs.act = s.regs.act ∧
      ((regSpec off.toNat).st ≠ 0 → pendW t off.toNat = BitVec.ofNat 32 (v.toNat &&& (regSpec off.toNat).st)) ∧
      ((regSpec off.toNat).rw ≠ 0 → (regSpec off.toNat).w1c = 0 → (regSpec off.toNat).w1s = 0 →
        valW t off.toNat = BitVec.ofNat 32 (((valW s off.toNat).toNat &&& (allBits - (regSpec off.toNat).rw)) ||| (v.toNat &&& (regSpec off.toNat).rw))) ∧
      ∀ o, o ≠ off.toNat → pendW t o = pendW s o ∧ valW t o = valW s o

/-- A commit of the next generation by the owner, with no set of the block waiting and every check passed, keeps the pending words as the
checked set and records ST_OK with GEN; nothing is active before the safe point. VF n commits its own staged records under its own
control, number 64 + n. -/
def Obligations.CommitKeepsCheckedSet : Prop :=
  (∀ (b : Block) (c : Instr) (w : Writer) (imgs : List RingImage) (s : State),
     commitCmd b w ((ctlOf s (blockNo b)).gen + 1) imgs = some c → serving s = true → isOwner s w = true →
     (ctlOf s (blockNo b)).checked = none → blockCheck b s = .ok →
     exec c s = .next (setCtl (blockNo b) { ctlOf s (blockNo b) with
       checked := some (inBlock b s.regs.pend, commitImgs b imgs), stsStatus := .ok, stsGen := (ctlOf s (blockNo b)).gen + 1 } s)) ∧
  (∀ (n : Nat) (imgs : List RingImage) (s : State), 1 ≤ n → n ≤ 64 → serving s = true → (ctlOf s (64 + n)).checked = none →
     checkHost (vfSet s n) s = .ok →
     exec (.vfCommit n ((ctlOf s (64 + n)).gen + 1) imgs) s = .next (setCtl (64 + n) { ctlOf s (64 + n) with
       checked := some (vfSet s n, imgs), stsStatus := .ok, stsGen := (ctlOf s (64 + n)).gen + 1 } s))

/-- A commit by the owner that fails changes nothing but COMMIT_STS: another generation is ST_WRONG_STATE, a set that waits ST_BUSY, else the
check's own status. A commit or a discard by a master that is not the owner is rejected as ST_NOT_OWNER: REG_ERR takes it and the banks
stay. -/
def Obligations.RefusedCommitChangesOnlyStatus : Prop :=
  (∀ (b : Block) (c : Instr) (w : Writer) (gen : BitVec 16) (imgs : List RingImage) (s : State),
     commitCmd b w gen imgs = some c → serving s = true → isOwner s w = true →
     (gen ≠ (ctlOf s (blockNo b)).gen + 1 → exec c s = .next (setSts (blockNo b) .wrongState gen s)) ∧
     (gen = (ctlOf s (blockNo b)).gen + 1 → (ctlOf s (blockNo b)).checked ≠ none → exec c s = .next (setSts (blockNo b) .busy gen s)) ∧
     (gen = (ctlOf s (blockNo b)).gen + 1 → (ctlOf s (blockNo b)).checked = none → blockCheck b s ≠ .ok →
       exec c s = .next (setSts (blockNo b) (blockCheck b s) gen s))) ∧
  (∀ (b : Block) (c : Instr) (w : Writer) (gen : BitVec 16) (imgs : List RingImage) (s : State),
     (commitCmd b w gen imgs = some c ∨ c = .commitDiscard w b) → masterOf w ≠ none → serving s = true → isOwner s w = false →
     exec c s = .next (rejectWrite w (blockBase b + 0xF0) .notOwner s) ∧
       OnlyIn [.regs] s (rejectWrite w (blockBase b + 0xF0) .notOwner s) ∧
       (rejectWrite w (blockBase b + 0xF0) .notOwner s).regs.pend = s.regs.pend)

/-- COMMIT_DISCARD by the owner gives the block's pending bank the active values again, and no other block's. At a safe point the checked set
of CAST or DECK becomes active as one, its pending bank shows the active values, and the generation moves on by one; nothing else changes. -/
def Obligations.DiscardAndSwapSettleBanks : Prop :=
  (∀ (b : Block) (w : Writer) (s : State), serving s = true → isOwner s w = true →
     ∃ t, exec (.commitDiscard w b) s = .next t ∧ OnlyIn [.regs] s t ∧ t.regs.act = s.regs.act ∧
       (∀ o, blockBase b ≤ o → o < blockBase b + 0x100000 → pendW t o = actW s o) ∧
       (∀ o, (o < blockBase b ∨ blockBase b + 0x100000 ≤ o) → pendW t o = pendW s o) ∧ ∀ o, valW t o = valW s o) ∧
  (∀ (b : Block) (t : Table Word) (s : State), b = .cast ∨ b = .deck → serving s = true → atBoundary s = true →
     (ctlOf s (blockNo b)).checked = some (t, []) → (∀ e ∈ t, blockBase b ≤ e.1 ∧ e.1 < blockBase b + 0x100000) →
     ∃ u, exec (.commitSafePointSwap b 0) s = .next u ∧ OnlyIn [.regs, .act] s u ∧
       u.regs.act = t.foldl (fun a e => tset a e.1 e.2) s.regs.act ∧
       (∀ o, blockBase b ≤ o → o < blockBase b + 0x100000 → pendW u o = actW u o) ∧
       (ctlOf u (blockNo b)).gen = (ctlOf s (blockNo b)).gen + 1 ∧ (ctlOf u (blockNo b)).checked = none ∧ (∀ o, valW u o = valW s o))

/-- A doorbell of a ring's page takes a sequence that does not move backwards and lies at most 2^SIZE_LOG2 past COMPLETED; any other value is
dropped and counted, with DOORBELL_ERROR to the ring's function. An event-ring doorbell between CONSUMED and PRODUCED moves CONSUMED
there; with no event held, nothing else changes. -/
def Obligations.DoorbellsMoveTheirIndices : Prop :=
  (∀ (pg : DbPage) (ring : Nat) (v : BitVec 32) (s : State), serving s = true → pageRing s pg = some ring →
     (doorbellOk (getRing s ring).sqTail (getRing s ring).completed v (ringCfg s ring).log2 = true →
       exec (.doorbellSqTail pg v) s = .next (startFetch ring (setRing ring { getRing s ring with sqTail := v } s))) ∧
     (doorbellOk (getRing s ring).cqHead (getRing s ring).completed v (ringCfg s ring).log2 = true →
       exec (.doorbellCqHead pg v) s = .next (startFetch ring (setRing ring { getRing s ring with cqHead := v } s))) ∧
     (doorbellOk (getRing s ring).sqTail (getRing s ring).completed v (ringCfg s ring).log2 = false →
       exec (.doorbellSqTail pg v) s = .next (badDoorbell (ringFn s ring) s)) ∧
     (doorbellOk (getRing s ring).cqHead (getRing s ring).completed v (ringCfg s ring).log2 = false →
       exec (.doorbellCqHead pg v) s = .next (badDoorbell (ringFn s ring) s))) ∧
  (∀ (fn : Nat) (v : BitVec 32) (s : State), serving s = true → fn ≤ 64 →
     serialLe (evRing s fn).consumed v = true → serialLe v (evRing s fn).produced = true →
     (evRing s fn).held = [] → (evRing s fn).lostDue = false →
     exec (.doorbellEventRing fn v) s = .next (setEv fn { evRing s fn with consumed := v } s))

/-- The descriptor that a ring reads is here: it waits in the ring, and its 64 bytes count as PCIe input of the ring's partition, or of the
partition it names in an owner ring unless the command is of the owner domain. A failed or timed-out read is counted, posted as DMA_ERROR
to the ring's function, and leaves its status in place of the descriptor. The ring that wins acceptance gives its next descriptor:
ACCEPTED moves on by one, its units are charged, and the command waits under its ring sequence with the status of the header checks. A
command that its own chapter's checks turn away at admission ends with the next step number, which is then used up (log entry 39). -/
def Obligations.DescriptorsAreReadAndAccepted : Prop :=
  (∀ (ring : Nat) (b : List Byte) (s : State), serving s = true → (getRing s ring).fetch = .reading →
     (∃ t, exec (.dmaReadCompletion (.desc ring) (.data b)) s = .next t ∧ OnlyIn [.host, .tap] s t ∧
       t.host = { s.host with rings := tset s.host.rings ring { getRing s ring with fetch := .here (slice b 0 64) } } ∧
       (ownerRing s ring = false → t.tap = (tapAdd (ringAssign s ring % 64) resPcieIn 64 s).tap)) ∧
     (∃ t, exec (.dmaReadTimeout (.desc ring)) s = .next t ∧ (getRing t ring).fetch = .failed .accessViolation ∧
       cnt t 0x100C28 = cnt s 0x100C28 + 1 ∧ t.mem = s.mem ∧ t.cmds = s.cmds ∧ t.seqs = s.seqs)) ∧
  (∀ (ring : Nat) (d : Drr) (b : List Byte) (s : State), serving s = true → ring ≠ mgmtRing → drrPick s = some (ring, d) →
     nextDesc s ring = some (.ok b) →
     ∃ t c, exec (.descriptorAccept ring) s = .next t ∧ OnlyIn [.host, .cmds, .out, .tap, .regs] s t ∧ t.regs.act = s.regs.act ∧
       (getRing t ring).accepted = (getRing s ring).accepted + 1 ∧ (getRing t ring).used = (getRing s ring).used + c.units ∧
       getCmd t ring (getRing s ring).accepted = some c ∧ c.desc = slice b 0 64 ∧
       (headerStatus s ring (getRing s ring).accepted b = .ok → descUnits s ring b ≤ (ringCfg s ring).qunits →
         c.phase = .accepted ∧ c.units = descUnits s ring b) ∧
       (headerStatus s ring (getRing s ring).accepted b ≠ .ok →
         c.phase = .finished ∧ c.status = headerStatus s ring (getRing s ring).accepted b)) ∧
  (∀ (c : Cmd) (st : Status) (result : Nat) (s : State), c.ring ≠ deckRing →
     EndsWith (endAtAdmission c st result s) c st result ∧
     (getCmd (endAtAdmission c st result s) c.ring c.rseq).map (·.step) = some (BitVec.ofNat 64 (2 ^ 63 + val64 s 0x110 % 2 ^ 63)) ∧
     val64 (endAtAdmission c st result s) 0x110 = (val64 s 0x110 + 1) % 2 ^ 63)

/-- R24: whichever ring's descriptor is accepted, one whose version byte is not 0x02 completes with ST_VERSION and result 0 and changes
nothing but its ring; only one with 0x02 stays to be admitted. -/
def Obligations.OtherVersionChangesNothing : Prop :=
  ∀ (ring : Nat) (d : Drr) (b : List Byte) (s : State), serving s = true → drrPick s = some (ring, d) → nextDesc s ring = some (.ok b) →
    ∃ t c, exec (.descriptorAccept ring) s = .next t ∧ OnlyIn [.host, .cmds, .out, .tap, .regs, .mgmt] s t ∧ t.regs.act = s.regs.act ∧
      getCmd t ring (getRing s ring).accepted = some c ∧
      (fld b 0 1 ≠ 2 → c.phase = .finished ∧ c.status = .version ∧ c.result = 0) ∧ (c.phase = .accepted → fld b 0 1 = 2)

/-- The next completion of a ring is written once its command has ended and a slot is free: COMPLETED moves on by one, the command is gone,
and its units are free again. COAL_US after the first completion that is not signalled, the ring's vector is signalled and coalescing
starts afresh. Unmasking a vector with its pending bit set sends the one message held and clears the bit; without it nothing is sent. A
failed DMA write of a ring's completions or of an event ring stops that ring with FAULT; one of a command's destination turns the status
it waits with into ST_ACCESS_VIOLATION and takes its bytes back out of the tap count. Each is counted. -/
def Obligations.CompletionsSignalTheHost : Prop :=
  (∀ (ring : Nat) (c : Cmd) (s : State), serving s = true → ring ≠ mgmtRing → nextCompletion s ring = some c → c.ring = ring →
     c.rseq = (getRing s ring).completed → c.cause ≠ waitExpired → c.subs = [] →
     ∃ t, exec (.completionWrite ring) s = .next t ∧ (getRing t ring).completed = (getRing s ring).completed + 1 ∧
       (getRing t ring).used = (getRing s ring).used - c.units ∧ getCmd t ring c.rseq = none ∧ t.mem = s.mem ∧ t.seqs = s.seqs ∧
       .dmaWrite (ringFn s ring) ((ringCfg s ring).cqBase + 32 * (c.rseq.toNat % 2 ^ (ringCfg s ring).log2))
         (completionBytes c (ringCfg s ring).log2 (now s)) ∈ t.out) ∧
  (∀ (ring : Nat) (s : State), serving s = true → ring ≠ mgmtRing → (getRing s ring).unsig ≠ 0 →
     exec (.interruptCoalTimeout ring) s =
       .next (signalRing ring (advanceTo ((getRing s ring).firstUnsig + 1000 * (ringCfg s ring).coalUs) s))) ∧
  (∀ (fn vec : Nat) (s : State), mainOn s = true → fn ≤ 64 → vec < vecCount fn →
     exec (.msixVectorUnmask fn vec) s = .next
       { s with host := { s.host with msix := tset s.host.msix (vecKey fn vec) { masked := false, pending := false } }
                out := s.out ++ if (tgetD s.host.msix (vecKey fn vec) {}).pending then [.msix fn vec] else [] }) ∧
  (∀ (s : State), serving s = true →
     (∀ ring r, ring ≠ mgmtRing → tget s.host.rings ring = some r → r.fault = false →
       ∃ t, exec (.dmaWriteFailure (.ringWrite ring)) s = .next t ∧ (getRing t ring).fault = true ∧ cnt t 0x100C28 = cnt s 0x100C28 + 1 ∧
         t.cmds = s.cmds ∧ t.mem = s.mem) ∧
     (∀ fn, (evRing s fn).last ≠ none → (evRing s fn).fault = false →
       ∃ t, exec (.dmaWriteFailure (.eventRing fn)) s = .next t ∧ (evRing t fn).fault = true ∧ cnt t 0x100C28 = cnt s 0x100C28 + 1 ∧
         t.cmds = s.cmds ∧ t.mem = s.mem) ∧
     (∀ ring rseq c, getCmd s ring rseq = some c → c.ring = ring → c.rseq = rseq → c.phase = .finished → c.wrote ≠ 0 →
       ∃ t d, exec (.dmaWriteFailure (.dest ring rseq)) s = .next t ∧ getCmd t ring rseq = some d ∧ d.status = .accessViolation ∧
         d.phase = .finished ∧ cnt t 0x100C28 = cnt s 0x100C28 + 1 ∧ t.mem = s.mem ∧ t.seqs = s.seqs))

/-- The owner renews its lease for 2 s by NODE_OWN_HB; another master's heartbeat is rejected as ST_NOT_OWNER and the lease stays. A verified
claim of the PF with no owner joins the 100 µs window, which the first such claim opens; a credential that does not verify leaves the
ownership as it stands and ST_ACCESS_VIOLATION in NODE_OWN_RES. A verified claim while an owner stands renews the owner's lease, and is
ST_NOT_OWNER from any other master. The claim window closes on the verified claim whose class has the highest PRIO, and among equals on
the lowest master number: that master owns the node with a lease of 2 s, and every pending set of the PF bank is discarded. -/
def Obligations.OwnershipIsClaimedAndRenewed : Prop :=
  (∀ (w : Writer) (m : Nat) (s : State), masterOf w = some m → servedWrite s 0x44 = true → mainOn s = true →
     (ownerIs s m = true → exec (.nodeOwnHb w) s = .next { s with own := { s.own with lease := s.clk.mss + 2000000000 } }) ∧
     (ownerIs s m = false → exec (.nodeOwnHb w) s = .next (rejectWrite w 0x44 .notOwner s) ∧ (rejectWrite w 0x44 .notOwner s).own = s.own)) ∧
  (∀ (a : BitVec 64) (cred : List Byte) (s : State), serving s = true →
     (credentialOk s 0 cred = true → s.own.state = .none →
       ∃ t, exec (.nodeOwnClaim .pf a cred) s = .next t ∧ OnlyIn [.own, .regs, .sec, .freeCnt] s t ∧ t.regs.act = s.regs.act ∧
         t.own = { s.own with claims := s.own.claims.filter (·.1 != 0) ++ [(0, 0)], window := some (s.own.window.getD (s.clk.mss + 100000)) } ∧
         t.sec.prevChallenge = challenge s ∧ t.sec.slots = s.sec.slots) ∧
     (credentialOk s 0 cred = false →
       ∃ t, exec (.nodeOwnClaim .pf a cred) s = .next t ∧ OnlyIn [.regs, .mgmt] s t ∧ t.regs.act = s.regs.act ∧ t.mgmt.st = s.mgmt.st ∧
         valW t 0x58 = BitVec.ofNat 32 (Status.accessViolation.code + 2 ^ 16))) ∧
  (∀ (a : BitVec 64) (cred : List Byte) (s : State), serving s = true → credentialOk s 0 cred = true → s.own.state = .owned →
     ∃ t, exec (.nodeOwnClaim .pf a cred) s = .next t ∧ OnlyIn [.own, .regs, .sec, .freeCnt, .mgmt] s t ∧ t.mgmt.st = s.mgmt.st ∧
       (s.own.owner = 0 → t.own = { s.own with lease := s.clk.mss + 2000000000 } ∧ valW t 0x58 = BitVec.ofNat 32 (2 ^ 16)) ∧
       (s.own.owner ≠ 0 → t.own = s.own ∧ valW t 0x58 = BitVec.ofNat 32 (Status.notOwner.code + 2 ^ 16))) ∧
  (∀ (T : Nat) (s : State), s.own.window = some T → s.own.claims ≠ [] →
     ∃ t m, exec .claimWindowClose s = .next t ∧ m ∈ s.own.claims.map (·.1) ∧
       (∀ k ∈ s.own.claims.map (·.1), masterPrio s k < masterPrio s m ∨ (masterPrio s k = masterPrio s m ∧ m ≤ k)) ∧
       t.own = { state := .owned, owner := m, lease := max s.clk.mss T + 2000000000 } ∧ t.regs.pend = [] ∧ t.regs.act = s.regs.act ∧
       t.mem = s.mem ∧ t.cmds = s.cmds)

/-- Passing the deal: the owner offers it for 2 s and stays owner; CANCEL or the timeout leave it the owner. A master that is not the owner is
rejected. A pass that its target does not take in time ends, and the old owner keeps the node; a lease that lapses leaves no owner and
discards the PF bank's pending sets. Commands, maps and memory go on. SEC_CHALLENGE is drawn again 60 s after the last draw; the former
challenge stays valid as the previous one. -/
def Obligations.OwnershipIsPassedAndLapses : Prop :=
  (∀ (w : Writer) (m : Nat) (target : BitVec 4) (s : State), masterOf w = some m → servedWrite s 0x48 = true → mainOn s = true →
     (ownerIs s m = true →
       (∃ t, exec (.nodeOwnPass w target) s = .next t ∧ OnlyIn [.own, .regs, .mgmt] s t ∧ t.mgmt.st = s.mgmt.st ∧ t.regs.act = s.regs.act ∧
         t.own = { s.own with state := .passing, passTo := target.toNat, passDue := s.clk.mss + 2000000000 }) ∧
       (s.own.state = .passing →
         ∃ t, exec (.nodeOwnPassCancel w) s = .next t ∧ OnlyIn [.own, .regs, .mgmt] s t ∧ t.mgmt.st = s.mgmt.st ∧ t.regs.act = s.regs.act ∧
           t.own = { s.own with state := .owned, passTo := 0, passDue := 0 })) ∧
     (ownerIs s m = false →
       (∃ t, exec (.nodeOwnPass w target) s = .next t ∧ OnlyIn [.regs] s t ∧ t.regs.act = s.regs.act) ∧
       ∃ t, exec (.nodeOwnPassCancel w) s = .next t ∧ OnlyIn [.regs] s t ∧ t.regs.act = s.regs.act)) ∧
  (∀ s : State,
     (s.own.state = .passing → ∃ t, exec .passTimeout s = .next t ∧ OnlyIn [.clk, .own, .regs, .mgmt] s t ∧ t.mgmt.st = s.mgmt.st ∧
       t.own = { s.own with state := .owned, passTo := 0, passDue := 0 }) ∧
     (hasOwner s = true → s.mgmt.mssRunning = true →
       ∃ t, exec .ownerLeaseLapse s = .next t ∧ t.own = {} ∧ t.regs.pend = [] ∧ t.regs.act = s.regs.act ∧
         s.own.lease ≤ t.clk.mss ∧ t.mem = s.mem ∧ t.cmds = s.cmds ∧ t.rmx = s.rmx ∧ t.deck = s.deck)) ∧
  (∀ s : State, s.mgmt.st ≠ .off →
     ∃ t, exec .secChallengeRefresh s = .next t ∧ OnlyIn [.clk, .regs, .sec, .freeCnt] s t ∧ t.regs.act = s.regs.act ∧
       t.sec.prevChallenge = challenge s ∧ t.sec.drawn = max s.clk.mss (s.sec.drawn + 60000000000) ∧ t.sec.slots = s.sec.slots)

/-- The owner's debug read: an access outside the space is ST_ILLEGAL_VALUE, one that reaches a RELEASING partition ST_WRONG_STATE, and
neither reads anything; any other marks DEBUG_USED and the partitions reached, and gives the 64 bytes in SEC_DBG_DATA. The owner's debug
write of local memory by SPACE 0: the 64 bytes of SEC_DBG_DATA are stored at the address, and every other byte of memory reads as before.
Setting EN of SEC_TRACE_CTL from 0 empties the trace buffer; the owner's other writes leave it. The EXPERT window's use in BRINGUP, TEST
or RECOVERY leaves EXPERT_USED and a TOUCHED bit for every ACTIVE partition, and nothing else of the node changes. -/
def Obligations.DebugPathLeavesItsMarks : Prop :=
  (∀ (w : Writer) (m space a : Nat) (s : State), masterOf w = some m → mainOn s = true → ownerIs s m = true →
     a = val64 s 0xA00200 % 2 ^ 48 → space = bits (val64 s 0xA00200) 48 4 →
     (dbgAddrOk space a = false → exec (.secDbgRead w) s = .next (dbgDone false .illegalValue s)) ∧
     (dbgAddrOk space a = true → (∃ p ∈ dbgParts s space a, pstate s p = 2) →
       exec (.secDbgRead w) s = .next (dbgDone false .wrongState (stepFree s))) ∧
     (dbgAddrOk space a = true → (∀ p ∈ dbgParts s space a, pstate s p ≠ 2) →
       ∃ t, exec (.secDbgRead w) s = .next t ∧ OnlyIn [.regs, .freeCnt] s t ∧ t.regs.act = s.regs.act ∧ t.regs.pend = s.regs.pend ∧
         valW t 0xA00208 = 4 ∧ valBits t 0xA00128 0 1 = 1 ∧
         ∀ i, i < 16 → valW t (0xA00240 + 4 * i) =
           BitVec.ofNat 32 (fld (dbgBytes (setValBits 0xA00128 0 1 1 (touch (dbgParts s space a) s)) space a) (4 * i) 4))) ∧
  (∀ (w : Writer) (m a : Nat) (s : State), masterOf w = some m → mainOn s = true → ownerIs s m = true → memOk s →
     val64 s 0xA00200 = a → a % 64 = 0 → a < memSize → (∀ p ∈ dbgParts s 0 a, pstate s p ≠ 2) →
     ∃ t, exec (.secDbgWrite w) s = .next t ∧ OnlyIn [.regs, .freeCnt, .mem, .cells] s t ∧ t.regs.act = s.regs.act ∧
       valW t 0xA00208 = 6 ∧ valBits t 0xA00128 0 1 = 1 ∧
       (∀ i, i < 64 → readByte t (a + i) = (bankBytes (valW s) 0xA00240 16).getD i 0) ∧
       ∀ b, (b < a ∨ a + 64 ≤ b) → readByte t b = readByte s b) ∧
  (∀ (w : Writer) (m : Nat) (s : State), masterOf w = some m → mainOn s = true → ownerIs s m = true →
     (∀ v : BitVec 32, v.toNat < 2 ^ 26 →
       ∃ t, exec (.secTraceCtlWrite w v) s = .next t ∧ OnlyIn [.regs, .sec] s t ∧ t.regs.act = s.regs.act ∧ valW t 0xA00210 = v ∧
         t.sec.trace = (if bit v.toNat 0 = true ∧ valBits s 0xA00210 0 1 = 0 then [] else s.sec.trace)) ∧
     (∀ (off : BitVec 20) (wr : Option (BitVec 32)), s.mgmt.st = .bringup ∨ s.mgmt.st = .test →
       ∃ t, exec (.expertWindowAccess w off wr) s = .next t ∧ OnlyIn [.regs] s t ∧ t.regs.act = s.regs.act ∧ t.regs.pend = s.regs.pend ∧
         valBits t 0xA00128 1 1 = 1 ∧ ∀ p, p < 64 → bit (val64 t 0xA00120) p = (bit (val64 s 0xA00120) p || partActive s p)))

/-- MAP_UPDATE reads its list; its commit makes the new epoch the current one as a whole, and the former epoch retires when no reference is
left, or 1 ms later by force: DYING entries go then, and the others stay. RMX_LK_GO finds the entries that match the key under the current
epoch: the one ranked first stands in RMX_LK_RES with the number of matches, and the map stays. LK_STEP goes on to the entry ranked next
after it. -/
def Obligations.RangeMapMovesByEpochs : Prop :=
  (∀ s : State, serving s = true →
     (∀ ring rseq c, MayAdmit s ring rseq c → c.op = 0x50 → mapDescOk c = true → checkAddr s c (fld c.desc 16 8) (64 * mapCount c) = .ok →
       isGfa (fld c.desc 16 8) = false →
       exec (.mapUpdate ring rseq) s = .next (emit (.dmaRead (ringFn s ring) (fld c.desc 16 8) (64 * mapCount c) (.input ring rseq))
         (admitCmd c (.map [] false) s))) ∧
     (∀ w c, s.rmx.writing = some w → getCmd s c.ring c.rseq = some c → w.key = cmdKey c.ring c.rseq → c.phase = .running → c.ring ≠ deckRing →
       s.rmx.held = [] → (∀ e ∈ s.cmds, ∀ u ∈ e.2.subs, u.lost = false) →
       ∃ t, exec .mapCommit s = .next t ∧ OnlyIn (.rmx :: endAreas) s t ∧ t.regs.act = s.regs.act ∧ t.rmx.epoch = w.epoch ∧ t.rmx.ents = s.rmx.ents ∧
         t.rmx.retiring = some (now s + 1000000) ∧ t.rmx.writing = none ∧ EndsWith t c .ok (mapResult w)) ∧
     (∀ due, s.rmx.retiring = some due → firstUpdate s = none →
       (oldRefs s = 0 → ∃ t, exec .epochRetire s = .next t ∧ OnlyIn [.rmx, .regs] s t ∧ t.regs.act = s.regs.act ∧ t.rmx.ents = retireEnts s.rmx.ents ∧
         t.rmx.epoch = s.rmx.epoch ∧ t.rmx.retiring = none ∧ ∀ i e, tget t.rmx.ents i = some e →
           e.born = false ∧ ∃ e0, (i, e0) ∈ s.rmx.ents ∧ e0.dying = false ∧ e = { e0 with born := false }) ∧
       (∃ t, exec .epochForcedRetire s = .next t ∧ t.rmx.ents = retireEnts s.rmx.ents ∧ t.rmx.epoch = s.rmx.epoch ∧ t.rmx.retiring = none ∧ due ≤ now t ∧
         cnt t rmxForced = cnt s rmxForced + 1 ∧ t.mem = s.mem ∧ t.seqs = s.seqs))) ∧
  (∀ (w : Writer) (s : State), servedWrite s 0x500028 = true → isOwner s w = true →
     (∃ t, exec (.rmxLookupGo w false) s = .next t ∧ OnlyIn [.regs, .rmx] s t ∧ t.regs.act = s.regs.act ∧ t.rmx.ents = s.rmx.ents ∧
       t.rmx.epoch = s.rmx.epoch ∧ t.rmx.lkLast = (rmxMatches s.rmx s.rmx.epoch (val64 s 0x500020)).head? ∧
       (∀ e, (rmxMatches s.rmx s.rmx.epoch (val64 s 0x500020)).head? = some e → e.1 < 65536 →
         valBits t 0x500030 0 16 = e.1 ∧ valBits t 0x500030 16 1 = 1 ∧ (valW t 0x500040).toNat = e.1)) ∧
     (∀ e d, s.rmx.lkEpoch = s.rmx.epoch → s.rmx.lkLast = some e →
       ((rmxMatches s.rmx s.rmx.epoch s.rmx.lkKey).filter fun x => ranksBefore e.1 e.2 x.1 x.2).head? = some d → d.1 < 65536 →
       ∃ t, exec (.rmxLookupStep w) s = .next t ∧ OnlyIn [.regs, .rmx] s t ∧ t.rmx = { s.rmx with lkLast := some d } ∧
         valBits t 0x500030 0 16 = d.1 ∧ (valW t 0x500040).toNat = d.1))

/-- A request of MGMT_REQ by a master that is not the owner is rejected as ST_NOT_OWNER, one that the state does not take is ST_WRONG_STATE;
the node state, memory and the commands stay. ENTER_TEST marks TEST_ENTERED and every ACTIVE partition; LEAVE_TEST, with no pin driven by
JTAG, returns to READY, or to DEGRADED while a cause of it stands; RECOVERY from STANDBY stays without main power; CONTINUE lets a held
bring-up go on. POWER_ON in STANDBY by the owner starts bring-up at step 1, and is ST_POWER_ABSENT without 48 V. -/
def Obligations.OwnerRequestsMoveTheState : Prop :=
  (∀ (w : Writer) (m : Nat) (c : Instr) (ok : NodeState → Bool) (s : State), (c, ok) ∈ requestRows w →
     masterOf w = some m → servedWrite s 0xB00004 = true → (w = .pf → mainOn s = true) →
     (ownerIs s m = false → exec c s = .next (setReq .notOwner (rejectWrite w 0xB00004 .notOwner s))) ∧
     (ownerIs s m = true → ok s.mgmt.st = false → exec c s = .next (setReq .wrongState s))) ∧
  (∀ (w : Writer) (m : Nat) (s : State), masterOf w = some m → ownerIs s m = true →
     (s.mgmt.st = .ready ∨ s.mgmt.st = .degraded → ∃ t, exec (.enterTest w) s = .next t ∧ OnlyIn [.regs, .mgmt, .pins, .st] s t ∧ t.mgmt.st = .test ∧
       t.mgmt.prev = s.mgmt.st ∧ valBits t 0xA00128 2 1 = 1 ∧ (∀ p, p < 64 → bit (val64 t 0xA00120) p = (bit (val64 s 0xA00120) p || partActive s p)) ∧
       t.regs.act = s.regs.act) ∧
     (s.mgmt.st = .test → s.mgmt.jtagDriven = false → ∃ t, exec (.leaveTest w) s = .next t ∧ OnlyIn [.regs, .mgmt, .pins, .st] s t ∧
       t.mgmt.st = servingState s ∧ t.mgmt.prev = .test ∧ t.regs.act = s.regs.act) ∧
     (s.mgmt.st = .standby → s.mgmt.stepNo = 0 → w ≠ .pf → ∃ t, exec (.recovery w) s = .next t ∧ OnlyIn [.regs, .mgmt, .pins, .st] s t ∧
       t.mgmt.st = .recovery ∧ t.mgmt.prev = .standby ∧ t.regs.act = s.regs.act) ∧
     (s.mgmt.st = .bringup → s.mgmt.held = true → ∃ t, exec (.continueReq w) s = .next t ∧ OnlyIn [.regs, .mgmt] s t ∧
       t.mgmt = { s.mgmt with held := false } ∧ t.regs.act = s.regs.act)) ∧
  (∀ (m : Nat) (s : State), ownerIs s m = true → s.mgmt.st = .standby →
     (s.pins.vin48 = false → exec (.powerOn (.mgmt m)) s = .next (setReq .powerAbsent s)) ∧
     (s.pins.vin48 = true → s.mgmt.stepNo = 0 → s.pins.thermTrip = false →
       ∃ t, exec (.powerOn (.mgmt m)) s = .next t ∧ OnlyIn [.regs, .mgmt] s t ∧ t.mgmt.st = .standby ∧
         t.mgmt = { s.mgmt with stepNo := 1, held := holdAt s == 1, bootCause := 2, warm := false } ∧
         (valW t 0xB00008).toNat = 2 ^ 16))

/-- POWER_OFF, and COLD_RESET on its way back to bring-up, lose the data path: local memory, rings, commands, sequences and the map are as
after power-on, and ownership, MSS time, the fuses and the Assay are kept. WARM_RESET: the node is in BRINGUP before step 2; register
banks, memory, regions, counters, keys and the map's entries are kept, and host commands, retention records and the deck are lost. -/
def Obligations.ResetsClearOrKeep : Prop :=
  (∀ (w : Writer) (m : Nat) (s : State), masterOf w = some m → mainOn s = true → ownerIs s m = true →
     (∃ t, exec (.powerOff w) s = .next t ∧ coldState s t ∧ t.mgmt.stepNo = 0) ∧
     (∃ t, exec (.coldReset w) s = .next t ∧ coldState s t ∧ t.mgmt.stepNo = 1)) ∧
  (∀ (w : Writer) (m : Nat) (s : State), masterOf w = some m → serving s = true → ownerIs s m = true → s.rmx.retiring = none →
     s.rmx.writing = none →
     ∃ t, exec (.warmReset w) s = .next t ∧ t.mgmt.st = .bringup ∧ t.mgmt.stepNo = 2 ∧ t.mgmt.warm = true ∧
       t.regs.act = s.regs.act ∧ t.regs.pend = s.regs.pend ∧ t.mem.cells = s.mem.cells ∧ t.mem.err = s.mem.err ∧ t.rma.regions = s.rma.regions ∧
       t.rma.counters = s.rma.counters ∧ t.rmx.ents = s.rmx.ents ∧ t.rmx.epoch = s.rmx.epoch ∧ t.sec.slots = s.sec.slots ∧ t.own = s.own ∧
       t.retained = [] ∧ t.deck = {} ∧ (∀ e ∈ t.cmds, e.2.ring = mgmtRing) ∧ t.assay = s.assay)

/-- R452: a dip of at most 100 µs above 30.0 V changes nothing; a longer or deeper one is a loss of 48 V: the node is in STANDBY with the data
path as after a cold reset. -/
def Obligations.ShortDipIsRiddenThrough : Prop :=
  ∀ (us mv : Nat) (s : State),
    (us ≤ 100 → 30000 < mv → exec (.vin48Dip us mv) s = .next s) ∧
    ((100 < us ∨ mv ≤ 30000) → mainOn s = true →
      ∃ t, exec (.vin48Dip us mv) s = .next t ∧ coldState s t ∧ t.pins.vin48 = false ∧ t.mgmt.stepNo = 0)

/-- An update by the owner: an image that passes its checks is written to the inactive slot of its class, which is not loadable until the
write is done, and the slot in force stays; an image that fails its checks changes only MGMT_UPD_STS. The write of an update ends: read
back, the slot is loadable with the image's version and SVN; failed, it is empty and the status is ST_FLASH_FAULT. The slot in force
stays, and the update is over. -/
def Obligations.UpdatesGoToTheInactiveSlot : Prop :=
  (∀ (w : Writer) (m : Nat) (cls : BitVec 4) (image img : List Byte) (s : State), masterOf w = some m → serving s = true → ownerIs s m = true →
     1 ≤ cls.toNat → cls.toNat ≤ 7 → s.mgmt.upd = none →
     img = slice (if val64 s 0xB00010 = 0 then s.mgmt.updBuf else image) 0 (valBits s 0xB00018 0 24) →
     (imageStatus s cls.toNat img = .ok → storeFull s cls.toNat (1 - actSlot s cls.toNat) (fld img 4 2) = false →
       ∃ t, exec (.mgmtUpdGo w cls image) s = .next t ∧ OnlyIn [.regs, .mgmt, .out] s t ∧ t.mgmt.st = s.mgmt.st ∧ t.regs.act = s.regs.act ∧
         t.mgmt.upd = some { cls := cls.toNat, slot := 1 - actSlot s cls.toNat, image := img } ∧
         (fwSlot t cls.toNat (1 - actSlot s cls.toNat)).loadable = false ∧
         fwSlot t cls.toNat (actSlot s cls.toNat) = fwSlot s cls.toNat (actSlot s cls.toNat) ∧ valBits t 0xB00020 17 1 = 1) ∧
     (imageStatus s cls.toNat img ≠ .ok →
       ∃ t, exec (.mgmtUpdGo w cls image) s = .next t ∧ OnlyIn [.regs] s t ∧ t.regs.act = s.regs.act ∧
         (valW t 0xB00020).toNat = (imageStatus s cls.toNat img).code + 2 ^ 16)) ∧
  (∀ (u : Update) (s : State), s.mgmt.upd = some u → s.mgmt.st ≠ .off → s.mgmt.st ≠ .recovery → s.mgmt.mssRunning = true →
     (u.image.length ≤ flashRoom u.cls → ∃ t, exec (.mgmtUpdateDone true) s = .next t ∧ OnlyIn [.regs, .mgmt] s t ∧ t.mgmt.st = s.mgmt.st ∧
       t.regs.act = s.regs.act ∧ t.mgmt.upd = none ∧ (fwSlot t u.cls u.slot).loadable = true ∧ (fwSlot t u.cls u.slot).version = fld u.image 4 2 ∧
       (fwSlot t u.cls u.slot).svn = fld u.image 8 1 ∧ (valW t 0xB00020).toNat = 2 ^ 16) ∧
     (∃ t, exec (.mgmtUpdateDone false) s = .next t ∧ OnlyIn [.regs, .mgmt] s t ∧ t.mgmt.st = s.mgmt.st ∧ t.regs.act = s.regs.act ∧
       t.mgmt.upd = none ∧ (fwSlot t u.cls u.slot).loadable = false ∧ (valW t 0xB00020).toNat = Status.flashFault.code + 2 ^ 16))

/-- The MSS runs again after a restart: the owner's lease goes on from where it stood, and the entries that waited in the hardware queue join
the log in order. A slot that does not start gives way to the other one where that is loadable. OPEN makes a session for an Ethernet
master, or keeps the answer region of a fabric controller; CLOSE ends it; ten seconds of silence end an Ethernet master's. -/
def Obligations.MssRestartsAndSessions : Prop :=
  (∀ s : State, s.mgmt.st ≠ .off → s.mgmt.mssRunning = false →
     (∃ t, exec (.mssRestart true) s = .next t ∧ t.mgmt.mssRunning = true ∧ t.mgmt.st = s.mgmt.st ∧
       (hasOwner s = true → t.own = { s.own with lease := s.own.lease + (s.clk.mss - s.mgmt.pausedAt) }) ∧
       t.mgmt.log = s.mgmt.log ∧ (∃ l, t.mgmt.logBatch = s.mgmt.logBatch ++ (s.mgmt.logHw.zipIdx.map fun x => reseq (s.mgmt.logSeq + x.2) x.1) ++ l) ∧
       t.mgmt.logHw = [] ∧ t.mem = s.mem) ∧
     (s.mgmt.mssCause ≠ 3 → (fwSlot s 1 (1 - actSlot s 1)).loadable = true → actSlot s 1 ≤ 1 →
       ∃ t, exec (.mssRestart false) s = .next t ∧ t.mgmt.mssRunning = false ∧ t.mgmt.st = s.mgmt.st ∧ actSlot t 1 = 1 - actSlot s 1 ∧
         t.mgmt.mssCause = 3 ∧ t.own = s.own ∧ t.mem = s.mem)) ∧
  (∀ (h : MsgHdr) (ans : Option AnswerRegion) (s : State), s.mgmt.st ≠ .off → s.mgmt.mssRunning = true →
     1 ≤ h.master → h.master ≤ 15 → h.master ≠ 9 →
     (ans.isSome = decide (10 ≤ h.master) → ∃ t, exec (.mgmtOpen h ans) s = .next t ∧ OnlyIn [.mgmt, .out] s t ∧ t.mgmt.st = s.mgmt.st ∧
       tget t.mgmt.sessions h.master = some { lastHeard := s.clk.mss, answer := ans } ∧
       ∀ k, k ≠ h.master → tget t.mgmt.sessions k = tget s.mgmt.sessions k) ∧
     (hasPath s h.master = true → ∃ t, exec (.mgmtClose h) s = .next t ∧ OnlyIn [.mgmt, .out] s t ∧ t.mgmt.st = s.mgmt.st ∧
       tget t.mgmt.sessions h.master = none ∧ ∀ k, k ≠ h.master → tget t.mgmt.sessions k = tget s.mgmt.sessions k) ∧
     (h.master ≤ 8 → hasPath s h.master = true → ∃ t, exec (.mgmtSessionTimeout h.master) s = .next t ∧ OnlyIn [.mgmt, .clk] s t ∧
       tget t.mgmt.sessions h.master = none ∧ ∀ k, k ≠ h.master → tget t.mgmt.sessions k = tget s.mgmt.sessions k))

/-- READ answers RESULT with ST_OK and the words asked for, and changes no register; LOG_READ answers the entries from the sequence asked for
on. A length that the message may not have is answered ST_ILLEGAL_VALUE. A WRITE message of one word by the owner to a register without a
command of its own makes the change of a register write, and RESULT carries ST_OK. -/
def Obligations.ManagementReadsAndWrites : Prop :=
  (∀ (h : MsgHdr) (s s1 : State), s.mgmt.st ≠ .off → s.mgmt.mssRunning = true → 1 ≤ h.master → h.master ≤ 15 → hasPath s h.master = true →
     s1 = { s with mgmt := { s.mgmt with sessions := tmod s.mgmt.sessions h.master fun x => { x with lastHeard := s.clk.mss } } } →
     (∀ (off : BitVec 32) (len : Nat), spanOk off.toNat len = true → (off.toNat + len ≤ 0xD00000 ∨ 0xE00000 ≤ off.toNat) →
       exec (.mgmtRead h off len) s =
         .next (answer h .ok ((List.range (len / 4)).flatMap fun i => leBytes 4 (readWord s1 h.master (off.toNat + 4 * i))) s1)) ∧
     (∀ (off : BitVec 32) (len : Nat), spanOk off.toNat len = false → exec (.mgmtRead h off len) s = .next (answer h .illegalValue [] s1)) ∧
     (∀ (first : BitVec 64) (count : Nat), 1 ≤ count → count ≤ 64 →
       exec (.mgmtLogRead h first count) s = .next (sendMgmt h.master 0x84 h.tag
         ((((s.mgmt.log ++ s.mgmt.logBatch).filter fun e => decide (first.toNat ≤ entrySeq e)).take count).flatMap entryBytes) s1))) ∧
  (∀ (h : MsgHdr) (off : BitVec 32) (v : Nat) (s s1 : State), serving s = true → s.mgmt.mssRunning = true → 1 ≤ h.master → h.master ≤ 15 →
     hasPath s h.master = true → ownerIs s h.master = true → v < 2 ^ 32 → off.toNat % 4 = 0 → off.toNat < 0xC00000 →
     s1 = { s with mgmt := { s.mgmt with sessions := tmod s.mgmt.sessions h.master fun x => { x with lastHeard := s.clk.mss } } } →
     hasRow off.toNat v = false → off.toNat ≠ 0xB00004 → off.toNat ≠ 0xB0001C → off.toNat ≠ 0xA00208 → off.toNat ≠ 0x500028 →
     writeError s (.mgmt h.master) off.toNat v = none →
     exec (.mgmtWrite h off (leBytes 4 v)) s = .next (answer h .ok [] (applyWrite (.mgmt h.master) off.toNat v s1)))

/-- A management master's CLAIM without an owner joins the window, and RESULT waits for the election; its HEARTBEAT renews its lease only as
the owner. SUBMIT places a descriptor in the next slot of the management ring with its ring sequence and answers that sequence; the same
TAG again places nothing and gives the same answer. UPDATE stores the owner's chunk in the image buffer. -/
def Obligations.ManagementClaimsSubmitsUpdates : Prop :=
  (∀ (h : MsgHdr) (s s1 : State), s.mgmt.st ≠ .off → s.mgmt.mssRunning = true → 1 ≤ h.master → h.master ≤ 15 → hasPath s h.master = true →
     s1 = { s with mgmt := { s.mgmt with sessions := tmod s.mgmt.sessions h.master fun x => { x with lastHeard := s.clk.mss } } } →
     (∀ cred, credentialOk s h.master cred = true → s.own.state = .none →
       ∃ t, exec (.mgmtClaim h cred) s = .next t ∧ OnlyIn [.own, .regs, .sec, .freeCnt, .mgmt] s t ∧ t.mgmt = s1.mgmt ∧
         t.own = { s.own with claims := s.own.claims.filter (·.1 != h.master) ++ [(h.master, h.tag)],
                              window := some (s.own.window.getD (s.clk.mss + 100000)) }) ∧
     (ownerIs s h.master = true →
       exec (.mgmtHeartbeat h) s = .next (answer h .ok [] { s1 with own := { s.own with lease := s.clk.mss + 2000000000 } })) ∧
     (ownerIs s h.master = false → exec (.mgmtHeartbeat h) s = .next (answer h .notOwner [] s1))) ∧
  (∀ (h : MsgHdr) (s s1 : State), serving s = true → s.mgmt.mssRunning = true → 1 ≤ h.master → h.master ≤ 15 → hasPath s h.master = true →
     s1 = { s with mgmt := { s.mgmt with sessions := tmod s.mgmt.sessions h.master fun x => { x with lastHeard := s.clk.mss } } } →
     (∀ (desc : List Byte) (q : Nat), desc.length = 64 → (tgetD s.mgmt.tags h.master []).find? (fun e => e.1 == h.tag) = none →
       mgmtWaiting s < 256 → q = ((getRing s mgmtRing).accepted + BitVec.ofNat 32 s.mgmt.ringDescs.length).toNat →
       ∃ t, exec (.mgmtSubmit h desc) s = .next t ∧ OnlyIn [.mgmt, .out] s t ∧ t.mgmt.st = s.mgmt.st ∧
         t.mgmt.ringDescs = s.mgmt.ringDescs ++ [(h.master, patch desc 4 (leBytes 4 q))]) ∧
     (∀ (desc : List Byte) (q : Nat), desc.length = 64 → (tgetD s.mgmt.tags h.master []).find? (fun e => e.1 == h.tag) = some (h.tag, q) →
       exec (.mgmtSubmit h desc) s = .next (answer h .ok (leBytes 4 q) s1)) ∧
     (∀ (off : BitVec 32) (data : List Byte), data.length ≤ 16384 → off.toNat + data.length ≤ 2 ^ 24 → ownerIs s h.master = true →
       ∃ t, exec (.mgmtUpdate h off data) s = .next t ∧ OnlyIn [.mgmt, .out] s t ∧ t.mgmt.st = s.mgmt.st ∧
         ∀ i, i < data.length → t.mgmt.updBuf[off.toNat + i]? = data[i]?))

/-- A LADLE that fails a check completes with its status and commits nothing; one whose positions are all committed already completes with
ST_OK and LEN and changes nothing, so that it may be posted again. A LADLE that appends is admitted: it stands last in its sequence's
order and asks PCIe for its first piece; nothing is committed before the source is read. A LADLE commits its segment when it is its turn
and no reader stands in the way: LEN moves to the segment's end for every stream at once, and with the last segment the command ends with
ST_OK and LEN. No other sequence changes. -/
def Obligations.LadleAppendsPositions : Prop :=
  (∀ (ring : Nat) (rseq : BitVec 32) (c : Cmd) (q : Seq) (s : State), MayAdmit s ring rseq c → c.op = 0x18 → q = getSeq s (seqOf c) →
     (ladleStatus s c ≠ .ok → exec (.ladle ring rseq) s = .next (endAtAdmission c (ladleStatus s c) 0 s)) ∧
     (∀ st, ladleStatus s c = .ok → ladleCase c q = .stop st → exec (.ladle ring rseq) s = .next (endAtAdmission c st q.len s)) ∧
     (ladleStatus s c = .ok → ladleCase c q = .nothing → exec (.ladle ring rseq) s = .next (endAtAdmission c .ok q.len s) ∧
       (endAtAdmission c .ok q.len s).seqs = s.seqs ∧ (endAtAdmission c .ok q.len s).mem = s.mem)) ∧
  (∀ (ring : Nat) (rseq : BitVec 32) (c : Cmd) (q : Seq) (m : Slot) (r : LadleRun) (s : State), MayAdmit s ring rseq c → c.op = 0x18 →
     q = getSeq s (seqOf c) → m = slotOf s q.mslot → 0 < m.streams →
     ladleStatus s c = .ok → ladleCase c q = .appends → q.state ≠ .free → checkAddr s c (ladleSrc c) (posBytes m (ladleN c)) = .ok →
     r = ladleSegment q.len { p := ladleP c, n := ladleN c, next := 0, upto := 0 } →
     isGfa (ladlePiece m c r).1 = false → checkAddr s c (ladlePiece m c r).1 (ladlePiece m c r).2 = .ok →
     ∃ t d, exec (.ladle ring rseq) s = .next t ∧ OnlyIn [.regs, .cmds, .seqs, .out] s t ∧ t.regs.act = s.regs.act ∧
       getCmd t ring rseq = some d ∧ d.phase = .running ∧ d.work = .ladle r ∧
       t.out = s.out ++ [.dmaRead (ringFn s ring) (ladlePiece m c r).1 (ladlePiece m c r).2 (.input ring rseq)] ∧
       (getSeq t (seqOf c)).len = q.len ∧ (getSeq t (seqOf c)).streams = q.streams ∧ (getSeq t (seqOf c)).ladles.getLast? = some (cmdKey ring rseq) ∧
       ∀ n, n ≠ seqOf c → getSeq t n = getSeq s n) ∧
  (∀ (ring : Nat) (rseq : BitVec 32) (c : Cmd) (r : LadleRun) (q : Seq) (s : State), Runs s ring rseq c → c.work = .ladle r →
     q = getSeq s (seqOf c) → myTurn s (seqOf c) (cmdKey ring rseq) = true → q.state = .open_ → q.len = r.next → r.next < r.upto →
     r.upto = r.p + r.n → r.have_ = true → commitFree s q r.next r.upto (ladleBit c 21) = true → replicaWhole q = false →
     missingKind s (commitKinds (slotOf s q.mslot) q r.upto) = none →
     (commitAllocates q r.upto = false ∨ Config.allocFits s.freeCnt q.part (posBytes (slotOf s q.mslot) 64) = true) →
     ∃ t, exec (.ladleCommit ring rseq) s = .next t ∧ (getSeq t (seqOf c)).len = r.upto ∧ (getSeq t (seqOf c)).step = c.step ∧
       (getSeq t (seqOf c)).streams.length = q.streams.length ∧
       (getSeq t (seqOf c)).pins = (if ladleBit c 21 then q.pins ++ (List.range (r.upto - r.next)).map (r.next + ·) else q.pins) ∧
       EndsWith t c .ok r.upto ∧ (∀ n, n ≠ seqOf c → getSeq t n = getSeq s n) ∧ t.mem = s.mem ∧ t.rma = s.rma ∧ t.walk = s.walk)

/-- SEAL: FREEZE, FREE and READ are checked in order; FREEZE and FREE take their place in the sequence's order, and READ writes the 128-byte
descriptor once no earlier command of the sequence is unfinished. FREEZE takes effect behind the LADLEs before it: the state is FROZEN,
LEN and every page stay. FREE takes effect when no reader is left: the sequence is FREE and only GEN is kept. No other sequence changes. -/
def Obligations.SealFreezesFreesReads : Prop :=
  (∀ (ring : Nat) (rseq : BitVec 32) (c : Cmd) (q : Seq) (s : State), MayAdmit s ring rseq c → c.op = 0x19 → q = getSeq s (seqOf c) →
     (seqMode c = 0 → sealStatus s c = .ok → q.state ≠ .frozen → exec (.sealFreeze ring rseq) s = .next (admitTurn c s)) ∧
     (seqMode c = 0 → sealStatus s c = .ok → q.state = .frozen → exec (.sealFreeze ring rseq) s = .next (endAtAdmission c .ok 0 s)) ∧
     (seqMode c = 0 → sealStatus s c ≠ .ok → exec (.sealFreeze ring rseq) s = .next (endAtAdmission c (sealStatus s c) 0 s)) ∧
     (seqMode c = 1 → sealStatus s c = .ok →
       exec (.sealFree ring rseq) s = .next (modSeq (seqOf c) (fun q => { q with freeAdm := true }) (admitTurn c s))) ∧
     (seqMode c = 1 → sealStatus s c ≠ .ok → exec (.sealFree ring rseq) s = .next (endAtAdmission c (sealStatus s c) 0 s)) ∧
     (seqMode c = 2 → sealStatus s c = .ok → liveTurns s q = [] → checkAddr s c (fld c.desc 16 8) 128 = .ok → isGfa (fld c.desc 16 8) = false →
       ∃ t, exec (.sealRead ring rseq) s = .next t ∧ EndsWith t c .ok 0 ∧ t.seqs = s.seqs ∧ t.mem = s.mem ∧
         .dmaWrite (ringFn s ring) (fld c.desc 16 8) (windowSeal s c.part (fld c.desc 16 8) (seqImage s (seqOf c))) ∈ t.out)) ∧
  (∀ (ring : Nat) (rseq : BitVec 32) (c : Cmd) (q : Seq) (s : State), Runs s ring rseq c → c.op = 0x19 → q = getSeq s (seqOf c) →
     myTurn s (seqOf c) (cmdKey ring rseq) = true →
     (seqMode c = 0 → q.state = .open_ → ∃ t, exec (.sealFreezeEffect ring rseq) s = .next t ∧ OnlyIn (.seqs :: endAreas) s t ∧ EndsWith t c .ok 0 ∧
       getSeq t (seqOf c) = { freezeStages q with state := .frozen, step := c.step } ∧ (getSeq t (seqOf c)).len = q.len ∧
       ∀ n, n ≠ seqOf c → getSeq t n = getSeq s n) ∧
     (seqMode c = 1 → liveReaders s q = [] → q.state ≠ .free → q.repl ≠ 2 →
       ∃ t, exec (.sealFreeEffect ring rseq) s = .next t ∧ OnlyIn (.seqs :: endAreas) s t ∧ EndsWith t c .ok 0 ∧
       getSeq t (seqOf c) = { gen := q.gen } ∧ ∀ n, n ≠ seqOf c → getSeq t n = getSeq s n))

/-- A MIGRATE that copies is a reader and stands in its sequence's order; when no other command stands before it, the copy of its mode goes
out. One that fails a check changes nothing. The switch of a MIGRATE is one update of the descriptor when every target has answered:
MOVE_HOME leaves the sequence MOVED, REPLICATE leaves it with REPL 2 and its replica whole, SHARD_OUT names the shard, SHARD_IN brings the
pages back; LEN stays. -/
def Obligations.MigrateCopiesAndSwitches : Prop :=
  (∀ (ring : Nat) (rseq : BitVec 32) (c c1 : Cmd) (i : Instr) (mode : Nat) (s s1 : State), MayAdmit s ring rseq c → c.op = 0x1A → seqMode c = mode →
     (mode, i) ∈ [(0, Instr.migrateMoveHome ring rseq), (1, .migrateReplicate ring rseq), (2, .migrateShardOut ring rseq), (3, .migrateShardIn ring rseq)] →
     s1 = addReader (seqOf c) (cmdKey ring rseq) (getSeq s (seqOf c)).len (addTurn (seqOf c) (cmdKey ring rseq) (admitCmd c (.migrate { mode := mode }) s)) →
     getCmd s1 ring rseq = some c1 →
     (migStatus s c = .ok → liveTurns s (getSeq s (seqOf c)) = [] → exec i s = .next (migCopy c1 s1)) ∧
     (migStatus s c = .ok → liveTurns s (getSeq s (seqOf c)) ≠ [] → cmdKey ring rseq ∉ (getSeq s (seqOf c)).ladles → exec i s = .next s1) ∧
     (migStatus s c ≠ .ok → exec i s = .next (endAtAdmission c (migStatus s c) 0 s))) ∧
  (∀ (ring : Nat) (rseq : BitVec 32) (c : Cmd) (r : MigrateRun) (q : Seq) (s : State), Runs s ring rseq c → c.work = .migrate r → q = getSeq s (seqOf c) →
     myTurn s (seqOf c) (cmdKey ring rseq) = true → stateCheck q = .ok → r.sent = true → migBusy c = false →
     (∀ u ∈ c.subs, u.answer ≠ none) →
     ∃ t, exec (.migrateSwitch ring rseq) s = .next t ∧ OnlyIn (.seqs :: endAreas) s t ∧ EndsWith t c .ok 0 ∧
       (getSeq t (seqOf c)) = migSwitched s c q ∧ (seqMode c = 0 → (getSeq t (seqOf c)).state = .moved) ∧
       (seqMode c = 1 → (getSeq t (seqOf c)).repl = 2 ∧ (getSeq t (seqOf c)).replDegraded = false ∧ (getSeq t (seqOf c)).peerNode = migTarget c) ∧
       ∀ n, n ≠ seqOf c → getSeq t n = getSeq s n)

/-- PROMOTE makes a replica the home: it is OPEN without a replica, in the current map epoch, and DEMOTE goes to the former home. The old
copies of a migration are freed when the last reader from before the switch has ended. DEMOTE makes an OPEN or FROZEN sequence MOVED and
is answered whatever the state; the answer stops the repeats; without one DEMOTE goes out again every millisecond, and after 100 tries the
node posts its event and gives up. -/
def Obligations.PromoteAndDemoteSettle : Prop :=
  (∀ (s : State), serving s = true →
     (∀ (ring : Nat) (rseq : BitVec 32) (c : Cmd) (q : Seq), MayAdmit s ring rseq c → c.op = 0x1A → seqMode c = 4 → q = getSeq s (seqOf c) →
       migStatus s c = .ok → liveTurns s q = [] →
       ∃ t, exec (.migratePromote ring rseq) s = .next t ∧ EndsWith t c .ok 0 ∧ (getSeq t (seqOf c)).state = .open_ ∧
         (getSeq t (seqOf c)).repl = 1 ∧ (getSeq t (seqOf c)).mapEpoch = s.rmx.epoch ∧ (getSeq t (seqOf c)).len = q.len ∧
         (getSeq t (seqOf c)).streams = q.streams ∧ ((getSeq t (seqOf c)).demote.map fun d => (d.oldHome, d.oldSeq, d.tries)) = some (q.peerNode, q.peerSeq, 1) ∧
         t.mem = s.mem ∧ ∀ n, n ≠ seqOf c → getSeq t n = getSeq s n) ∧
     (∀ n, (getSeq s n).oldCopies ≠ [] → (∀ k ∈ (getSeq s n).oldReaders, isRunning s k = false) →
       ∃ t, exec (.oldCopyFree n) s = .next t ∧ OnlyIn [.seqs] s t ∧ (getSeq t n).oldCopies = [] ∧ (getSeq t n).state = (getSeq s n).state ∧
         (getSeq t n).len = (getSeq s n).len ∧ ((getSeq s n).state = .moved → ∀ x ∈ (getSeq t n).streams, x = {}) ∧
         ∀ k, k ≠ n → getSeq t k = getSeq s k)) ∧
  (∀ (s : State), serving s = true →
     (∀ port src seq newHome, ((getSeq (takeDemote port src seq newHome false s) (seq % 2 ^ 20)).state = .open_ ∨
         (getSeq (takeDemote port src seq newHome false s) (seq % 2 ^ 20)).state = .frozen) →
       ∃ t, exec (.rxDemote port src seq newHome) s = .next t ∧ (getSeq t (seq % 2 ^ 20)).state = .moved ∧ t.mem = s.mem ∧ t.cmds = s.cmds ∧
         ∀ n, n ≠ seq % 2 ^ 20 → getSeq t n = getSeq s n) ∧
     (∀ port src seq (d : Demote) n, (getSeq s n).demote = some d → d.oldHome = src.toNat → d.oldSeq = seq →
       ∃ t, exec (.rxDemoteAck port src seq (BitVec.ofNat 16 (nodeId s))) s = .next t ∧ (getSeq t n).demote = none ∧ t.mem = s.mem ∧ t.cmds = s.cmds) ∧
     (∀ n d, (getSeq s n).demote = some d → d.done = false → d.tries < 100 →
       ∃ t, exec (.demoteRepeatTimer n) s = .next t ∧ ((getSeq t n).demote.map (·.tries)) = some (d.tries + 1) ∧ d.due ≤ t.clk.node ∧
         t.mem = s.mem ∧ t.cmds = s.cmds) ∧
     (∀ n d, (getSeq s n).demote = some d → d.done = false → 100 ≤ d.tries →
       ∃ t, exec (.demoteRepeatTimer n) s = .next t ∧ ((getSeq t n).demote.map (·.done)) = some true ∧ t.mem = s.mem ∧ t.cmds = s.cmds))

/-- ATTEND that fails a check completes with its status; one whose NEED_LEN lies past LEN waits, but in a FROZEN sequence it is ST_WRONG_STATE
at once, and when its time is over ST_TIMEOUT. The sequence and memory stay. ATTEND is admitted with a snapshot of its sequence: it is a
reader with the snapshot's length, runs, and asks PCIe for its input block; LEN and every page stay. ATTEND ends when every leaf is there:
with no page that cannot be read, the merged result goes to DEST and RESULT is the snapshot's length; no sequence and no byte of local
memory changes. -/
def Obligations.AttendWorksOnItsSnapshot : Prop :=
  (∀ (ring : Nat) (rseq : BitVec 32) (c : Cmd) (q : Seq) (s : State), q = getSeq s (seqOf c) →
     (MayAdmit s ring rseq c → c.op = 0x10 →
       (attendStatus s c ≠ .ok → needsLen s c = false → exec (.attend ring rseq) s = .next (endAtAdmission c (attendStatus s c) 0 s)) ∧
       (attendStatus s c ≠ .ok → needsLen s c = true → exec (.attend ring rseq) s = .next (finish c (attendStatus s c) 0 s)) ∧
       (attendStatus s c = .ok → q.len < attendNeed c → q.state = .frozen → exec (.attend ring rseq) s = .next (finish c .wrongState 0 s)) ∧
       (attendStatus s c = .ok → q.len < attendNeed c → q.state ≠ .frozen → c.phase = .accepted →
         exec (.attend ring rseq) s = .next (setCmd { c with phase := .deferred (.needLen (now s + 1000000)) } s))) ∧
     (∀ due, getCmd s ring rseq = some c → c.phase = .deferred (.needLen due) → serving s = true →
       exec (.attendNeedLenTimeout ring rseq) s = .next (finish c .timeout 0 (advanceTo due s)))) ∧
  (∀ (ring : Nat) (rseq : BitVec 32) (c : Cmd) (q : Seq) (r : AttendRun) (s : State), MayAdmit s ring rseq c → c.op = 0x10 →
     q = getSeq s (seqOf c) → attendStatus s c = .ok → attendNeed c ≤ q.len →
     r = { snap := q, len := q.len, hooks := hookList s (fld c.desc 28 1) } → attendLate s c r = .ok → isGfa (fld c.desc 40 8) = false →
     ∃ t d, exec (.attend ring rseq) s = .next t ∧ OnlyIn [.regs, .cmds, .seqs, .out] s t ∧ t.regs.act = s.regs.act ∧
       getCmd t ring rseq = some d ∧ d.phase = .running ∧ d.work = .attend r ∧
       t.out = s.out ++ [.dmaRead (ringFn s ring) (fld c.desc 40 8) (blockLayout (slotOf s q.mslot) c r.hooks).2.2 (.input ring rseq)] ∧
       (getSeq t (seqOf c)).readers.getLast? = some { key := cmdKey ring rseq, len := q.len } ∧ (getSeq t (seqOf c)).len = q.len ∧
       ((getSeq t (seqOf c)).streams.map fun x => (x.pdes, x.copies, x.ring, x.retr)) = (q.streams.map fun x => (x.pdes, x.copies, x.ring, x.retr)) ∧
       ∀ n, n ≠ seqOf c → getSeq t n = getSeq s n) ∧
  (∀ (ring : Nat) (rseq : BitVec 32) (c : Cmd) (r : AttendRun) (k : AttendSpec) (srcs : List (List LeafSrc)) (b : List Byte) (s : State),
     Runs s ring rseq c → c.work = .attend r → r.started = true → (∀ u ∈ c.subs, u.answer ≠ none) →
     k = attendSpec (slotOf s r.snap.mslot) c r → badReads k (slotOf s r.snap.mslot) c r (getSeq s (seqOf c)) = [] →
     srcs = (coveredStreams (slotOf s r.snap.mslot) c).map (fun st =>
       leafSources s k c r r.snap [] st (awayParts c r (k.rows * (slotOf s r.snap.mslot).group) st)) →
     (∀ l ∈ srcs, ∀ x ∈ l, x.isHurt = false) → offline s 0 = false → offline s 1 = false →
     b = attendBytes k c r.input (attendHeads (slotOf s r.snap.mslot) c r) srcs → b ≠ [] →
     isGfa (fld c.desc 48 8) = false → checkAddr s c (fld c.desc 48 8) b.length = .ok →
     ∃ t, exec (.attendRootMerge ring rseq) s = .next t ∧ OnlyIn (.tap :: endAreas) s t ∧ EndsWith t c .ok r.len ∧
       .dmaWrite (ringFn s ring) (fld c.desc 48 8) (windowSeal s c.part (fld c.desc 48 8) b) ∈ t.out)

/-- SELECT_PAGES is checked; in a sequence without retrieved pages it ends at once, else it is a reader with a place in the order of each
stream and asks PCIe for its queries. A selection flips its stream's retrieved set as a whole when no reader from before the previous flip
is left: the set it found becomes current with the length it was made at, and the other copy stays. An automatic selection scores its
stream's candidates: the best pages by score stand ready to flip, the selection in progress is over, and the current set stays until the
flip. -/
def Obligations.SelectPagesSwapsRetrievedSets : Prop :=
  (∀ (ring : Nat) (rseq : BitVec 32) (c : Cmd) (q : Seq) (m : Slot) (s : State), MayAdmit s ring rseq c → c.op = 0x11 →
     q = getSeq s (seqOf c) → m = slotOf s q.mslot →
     (selectStatus s c ≠ .ok → exec (.selectPages ring rseq) s = .next (endAtAdmission c (selectStatus s c) 0 s)) ∧
     (selectStatus s c = .ok → q.retrMax = 0 → exec (.selectPages ring rseq) s = .next (endAtAdmission c .ok 0 s)) ∧
     (selectStatus s c = .ok → q.retrMax ≠ 0 → isGfa (fld c.desc 24 8) = false →
       ∃ t d, exec (.selectPages ring rseq) s = .next t ∧ OnlyIn [.regs, .cmds, .seqs, .out] s t ∧ t.regs.act = s.regs.act ∧
         getCmd t ring rseq = some d ∧ d.phase = .running ∧ d.work = .select { len := q.len, left := coveredStreams m c } ∧
         t.out = s.out ++ [.dmaRead (ringFn s ring) (fld c.desc 24 8) (queryBytes m (attendLayers c) (attendRows c) (selectFlag c 1)) (.input ring rseq)] ∧
         (getSeq t (seqOf c)).len = q.len ∧ ((getSeq t (seqOf c)).streams.map fun x => x.retr) = (q.streams.map fun x => x.retr) ∧
         ∀ n, n ≠ seqOf c → getSeq t n = getSeq s n)) ∧
  (∀ (n st : Nat) (x : Stream) (e : SelPending) (rest : List SelPending) (s : State), serving s = true → (getSeq s n).streams[st]? = some x →
     x.selQ = e :: rest → e.ready = true → (∀ k ∈ x.flipReaders, isRunning s k = false) →
     ∃ t y, exec (.selectFlip n st) s = .next t ∧ OnlyIn (.seqs :: endAreas) s t ∧ (getSeq t n).streams[st]? = some y ∧
       y.retr = flipSet e.len e.set x.retr ∧ y.retr.cur = e.set ∧ y.selQ = rest ∧ y.pdes = x.pdes ∧
       (∀ i, i ≠ st → (getSeq t n).streams[i]? = (getSeq s n).streams[i]?) ∧ ∀ k, k ≠ n → getSeq t k = getSeq s k) ∧
  (∀ (n st : Nat) (x : Stream) (a : AutoSel) (s : State), serving s = true → (getSeq s n).streams[st]? = some x → x.auto = some a → a.ready = true →
     offline s 5 = false →
     ∃ t y, exec (.autoSelection n st) s = .next t ∧ OnlyIn [.seqs, .regs, .tap] s t ∧ t.regs.act = s.regs.act ∧ (getSeq t n).streams[st]? = some y ∧
       y.auto = none ∧ y.retr = x.retr ∧ y.pdes = x.pdes ∧
       (∀ e ∈ y.selQ, e.auto = true → e.ring = a.ring → e.rseq = a.rseq →
         e.ready = true ∧ e.set = selectSet (slotOf s (getSeq s n).mslot) (getSeq s n) a.len a.queries x) ∧
       ∀ k, k ≠ n → getSeq t k = getSeq s k)

/-- SEARCH is checked, waits behind a publish that applies an ordered index's log, and else runs under the epoch it resolves at admission and
asks PCIe for its queries. A walker's batch moves one query of a SEARCH on by its best-first rule and leaves the others; the index stays.
The merge ends a sharded SEARCH when every list is there: damage, a stale shard and a missing shard take precedence in this order over the
merged results. -/
def Obligations.SearchWalksAndMerges : Prop :=
  (∀ (ring : Nat) (rseq : BitVec 32) (c : Cmd) (s : State), MayAdmit s ring rseq c → c.op = 0x20 →
     (searchStatus s c ≠ .ok → exec (.search ring rseq) s = .next (endAtAdmission c (searchStatus s c) 0 s)) ∧
     (searchStatus s c = .ok → offline s 5 = true → exec (.search ring rseq) s = .next (faultAtAdmission c 16 5 s)) ∧
     (searchStatus s c = .ok → offline s 5 = false → offline s 1 = false → (getIndex s (idxOf c)).applying = true →
       exec (.search ring rseq) s = .next (setCmd { c with phase := .deferred .nothing } s)) ∧
     (searchStatus s c = .ok → offline s 5 = false → offline s 1 = false → (getIndex s (idxOf c)).applying = false → isGfa (fld c.desc 32 8) = false →
       ∃ t d r, exec (.search ring rseq) s = .next t ∧ OnlyIn [.regs, .cmds, .out] s t ∧ t.regs.act = s.regs.act ∧
         getCmd t ring rseq = some d ∧ d.phase = .running ∧ d.work = .search r ∧ r.epoch = searchEpoch s c ∧ r.k = searchK c ∧ r.started = false ∧
         t.out = s.out ++ [.dmaRead (ringFn s ring) (fld c.desc 32 8) (searchCount c * queryStep (idxCfg s (idxOf c))) (.input ring rseq)])) ∧
  (∀ (ring : Nat) (rseq : BitVec 32) (c : Cmd) (r : SearchRun) (s : State), Runs s ring rseq c → c.work = .search r →
     (∀ q h, r.hands[q]? = some h → h.done = false → offline s 5 = false →
       handsDone { r with hands := r.hands.set q (searchBatch (idxCfg s r.idx) (limitsOf (idxCfg s r.idx) r) (getIndex s r.idx) h).1 } = false →
       ∃ t d, exec (.walkerBatchReadDone ring rseq q) s = .next t ∧ OnlyIn [.cmds, .regs, .tap, .deck] s t ∧ t.regs.act = s.regs.act ∧
         getCmd t ring rseq = some d ∧
         d.work = .search { r with hands := r.hands.set q (searchBatch (idxCfg s r.idx) (limitsOf (idxCfg s r.idx) r) (getIndex s r.idx) h).1 }) ∧
     (handsDone r = true → c.subs ≠ [] → listsIn c = true →
       exec (.searchMerge ring rseq) s = .next (endSearch c r (advanceTo (maxN (c.subs.map fun u => if u.lost then u.due else 0)) s)) ∧
       ((∀ u ∈ c.subs, ∃ a b sk st hs, u.answer = some (.lists a b false sk st hs)) → (∃ h ∈ r.hands, h.damaged = true) →
         endSearch c r s = finish c .dataDamaged 0 s)))

/-- INSERT decided by the table (already made, another count, no room) completes with that status and result and changes no index; DELETE
marks its item from the next epoch on and logs it, once. -/
def Obligations.InsertAndDeleteDecide : Prop :=
  ∀ (ring : Nat) (rseq : BitVec 32) (c : Cmd) (x : Index) (s : State), MayAdmit s ring rseq c → x = getIndex s (idxOf c) → offline s 5 = false →
    (c.op = 0x21 → insertStatus s c ≠ .ok → exec (.insert ring rseq) s = .next (endAtAdmission c (insertStatus s c) 0 s)) ∧
    (∀ st res, c.op = 0x21 → insertStatus s c = .ok → insertOutcome s c = some (st, res) →
      ∃ t, exec (.insert ring rseq) s = .next t ∧ OnlyIn endAreas s t ∧ EndsWith t c st res) ∧
    (c.op = 0x21 → insertStatus s c = .ok → insertOutcome s c = none → isGfa (fld c.desc 24 8) = false →
      ∃ t d, exec (.insert ring rseq) s = .next t ∧ OnlyIn [.regs, .cmds, .out] s t ∧ getCmd t ring rseq = some d ∧ d.phase = .running ∧
        t.out = s.out ++ [.dmaRead (ringFn s ring) (fld c.desc 24 8) (vecBytes (idxCfg s (idxOf c))) (.input ring rseq)]) ∧
    (∀ item gen, c.op = 0x22 → idxCheck s c = .ok → fld c.desc 8 4 < 64 → fld c.desc 12 4 = 0 → allZero (slice c.desc 24 40) = true →
      idxLost s (idxOf c) = false → fld c.desc 16 8 = item + 2 ^ 35 * gen → item < 2 ^ 35 → gen < 32 → item < x.hwm →
      (getItem x item).st.live = true → (getItem x item).st.gen = gen → (getItem x item).st.delSet = false → x.dlog.length < dlogSize →
      ∃ t, exec (.delete ring rseq) s = .next t ∧ OnlyIn (.walk :: endAreas) s t ∧ EndsWith t c .ok (x.published + 1).toNat ∧
        (getItem (getIndex t (idxOf c)) item).st.delSet = true ∧ (getItem (getIndex t (idxOf c)) item).st.del = x.published + 1 ∧
        (getIndex t (idxOf c)).dlog = x.dlog ++ [{ item := item, gen := gen, del := x.published + 1 }] ∧
        (getIndex t (idxOf c)).published = x.published ∧ ∀ k, k ≠ idxOf c → getIndex t k = getIndex s k)

/-- PUBLISH_EPOCH already made completes with ST_OK and the epochs; one that runs commits when its waits have ended: the published epoch moves
on by one, and the floor to the one asked for. Searches below the new floor that do not end in 10 ms end it with ST_TIMEOUT. A sweep frees
dead entries of a VALID index while its write log has room; the published epoch and floor stay. -/
def Obligations.PublishMovesEpochAndSweep : Prop :=
  (∀ (ring : Nat) (rseq : BitVec 32) (c : Cmd) (s : State),
     (∀ st, MayAdmit s ring rseq c → c.op = 0x23 → idxCheck s c = .ok → fld c.desc 8 4 < 64 → allZero (slice c.desc 28 36) = true →
       idxLost s (idxOf c) = false → pubOutcome s c = some st →
       ∃ t, exec (.publishEpoch ring rseq) s = .next t ∧ OnlyIn endAreas s t ∧
         EndsWith t c st (if st = .ok then pubResult (getIndex s (idxOf c)) else 0)) ∧
     (∀ r, Runs s ring rseq c → c.work = .publish r → r.idx = idxOf c → publishReady s r = true → pubOutcome s c = none →
       ∃ t, exec (.publishCommit ring rseq) s = .next t ∧ OnlyIn (.walk :: endAreas) s t ∧
         (getIndex t r.idx).published = (getIndex s r.idx).published + 1 ∧
         (getIndex t r.idx).floor = r.floor.getD (getIndex s r.idx).floor ∧ (getIndex t r.idx).applying = false ∧
         EndsWith t c .ok (pubResult (getIndex t r.idx)) ∧ ∀ k, k ≠ r.idx → getIndex t k = getIndex s k) ∧
     (∀ r, Runs s ring rseq c → c.work = .publish r → floorWaits s r = true →
       exec (.publishFloorTimeout ring rseq) s = .next (finish c .timeout 0 (endApplying r.idx (advanceTo r.due s))))) ∧
  (∀ (n : Nat) (s : State), n < 64 → (idxCfg s n).valid = true → serving s = true → ((getIndex s n).dlog.any fun d => d.st == .dead) = true →
     (getIndex s n).wlog.length + sweepWrites (idxCfg s n) (getIndex s n) ≤ wlogSize →
     ∃ t, exec (.slagSweep n) s = .next t ∧ OnlyIn [.walk, .regs] s t ∧ t.regs.act = s.regs.act ∧ getIndex t n = sweepIndex (idxCfg s n) (getIndex s n) ∧
       (getIndex t n).published = (getIndex s n).published ∧ (getIndex t n).floor = (getIndex s n).floor ∧
       ∀ k, k ≠ n → getIndex t k = getIndex s k)

/-- READ, WRITE and ADD of RMA_POST are checked (fields and length, connection, state), wait for room, and else run: the operation goes behind
the others of its connection with its PSNs, and a WRITE's bytes are asked for over PCIe. -/
def Obligations.RmaOperationsArePosted : Prop :=
  ∀ (ring : Nat) (rseq : BitVec 32) (c : Cmd) (i : Instr) (mode k n : Nat) (o : Op) (s : State),
    MayAdmit s ring rseq c → c.op = 0x30 → rmaMode c = mode → k = rmaConnOf c → n = rmaLen c →
    (mode, i) ∈ [(0, Instr.rmaRead ring rseq), (1, .rmaWrite ring rseq), (2, .rmaAdd ring rseq)] →
    o = { kind := rmaKind mode, psn := 0, psns := opPsns (rmaKind mode) n, total := n, fence := fldBits c.desc 8 4 24 1 == 1, raddr := rmaRaddr c
          rkey := rmaRkey c, data := if mode = 2 then slice c.desc 40 8 else [], key := some (cmdKey ring rseq) } →
    ((rmaClean c = false ∨ (if mode = 2 then n ≠ 8 else n = 0 ∨ 4194304 < n)) → exec i s = .next (endAtAdmission c .illegalValue 0 s)) ∧
    (rmaClean c = true → (if mode = 2 then n = 8 else 1 ≤ n ∧ n ≤ 4194304) →
      (mayUseConn s c k = false → exec i s = .next (endAtAdmission c .accessViolation 0 s)) ∧
      (mayUseConn s c k = true → (getConn s k).state ≠ .open_ → exec i s = .next (endAtAdmission c .wrongState 0 s)) ∧
      (mayUseConn s c k = true → (getConn s k).state = .open_ → (mode ≠ 2 → checkAddr s c (rmaLaddr c) n = .ok) →
        (rmaRoom s k (rmaKind mode) n = false → exec i s = .next (setCmd { c with phase := .deferred .rmaRoom } s)) ∧
        (rmaRoom s k (rmaKind mode) n = true → recordedPsn s c k = none → mode ≠ 1 →
          exec i s = .next (postOp k o (admitCmd c (.rma { conn := k, mode := mode }) s))) ∧
        (rmaRoom s k (rmaKind mode) n = true → recordedPsn s c k = none → mode = 1 → isGfa (rmaLaddr c) = false →
          exec i s = .next (postOp k o (emit (.dmaRead (ringFn s ring) (rmaLaddr c) n (.input ring rseq))
            (admitCmd c (.rma { conn := k, mode := mode }) s))))))

/-- CONN_OPEN and MR_REG ask for a parameter block of 64 bytes. With the block here, CONN_OPEN makes the connection OPEN as the block says
where every check passes, and MR_REG registers the region under the next generation and gives its key. CONN_CLOSE makes the connection
CLOSING, and its end frees the connection once no operation is left. MR_DEREG runs until no access to its region is in process, and then
leaves the index unused with its generation. PAGE_RESUME ends at once where no packet is held. -/
def Obligations.ConnectionsAndRegionsOpenAndClose : Prop :=
  (∀ (ring : Nat) (rseq : BitVec 32) (c : Cmd) (s : State), c.op = 0x30 →
     (∀ mode i, (mode, i) ∈ [(3, Instr.connOpen ring rseq), (5, .mrReg ring rseq)] → MayAdmit s ring rseq c → rmaMode c = mode →
       ((rmaClean c = false ∨ rmaLen c ≠ 64) → exec i s = .next (endAtAdmission c .illegalValue 0 s)) ∧
       (rmaClean c = true → rmaLen c = 64 → checkAddr s c (rmaLaddr c) 64 = .ok → isGfa (rmaLaddr c) = false →
         exec i s = .next (emit (.dmaRead (ringFn s ring) (rmaLaddr c) 64 (.input ring rseq))
           (admitCmd c (.rma { conn := rmaConnOf c, mode := mode }) s)))) ∧
     (∀ b id, Runs s ring rseq c → rmaMode c = 3 → c.work = .rma { conn := rmaConnOf c, mode := 3 } → isGfa (rmaLaddr c) = false → b.length = 64 →
       windowsOf s c.part = [] → c.metered = false → id = fld b 0 4 % 2 ^ 20 →
       (connOpenStatus s c b ≠ .ok → exec (.dmaReadCompletion (.input ring rseq) (.data b)) s = .next (finish c (connOpenStatus s c b) 0 s)) ∧
       (connOpenStatus s c b = .ok → ∃ t, exec (.dmaReadCompletion (.input ring rseq) (.data b)) s = .next t ∧ OnlyIn (.rma :: endAreas) s t ∧
         EndsWith t c .ok id ∧ getConn t id = connOfBlock c b ∧ (s.rma.cache.length < 16384 → cached t id = true) ∧ ∀ j, j ≠ id → getConn t j = getConn s j)) ∧
     (∀ b i, Runs s ring rseq c → rmaMode c = 5 → c.work = .rma { conn := rmaConnOf c, mode := 5 } → isGfa (rmaLaddr c) = false → b.length = 64 →
       windowsOf s c.part = [] → c.metered = false → i = fld b 0 2 →
       ((getRegion s i).used = true → exec (.dmaReadCompletion (.input ring rseq) (.data b)) s = .next (finish c .wrongState 0 s)) ∧
       ((getRegion s i).used = false → (getRegion s i).gen ≠ 0xFFFFFFFF → fld b 2 1 < 8 → fld b 3 1 = 0 → fld b 4 1 = 1 → fld b 6 2 = 0 →
         fld b 8 8 % 64 = 0 → fld b 8 8 + fld b 16 8 ≤ 2 ^ 62 → 64 ≤ fld b 16 8 → fld b 16 8 ≤ 2 ^ 40 → isGfa (fld b 8 8) = false →
         allZero (slice b 32 32) = true →
         ∃ t, exec (.dmaReadCompletion (.input ring rseq) (.data b)) s = .next t ∧ OnlyIn (.rma :: endAreas) s t ∧
           EndsWith t c .ok (i + 2 ^ 32 * ((getRegion s i).gen + 1).toNat) ∧ (getRegion t i).used = true ∧ (getRegion t i).gen = (getRegion s i).gen + 1 ∧
           (getRegion t i).part = c.part ∧ (getRegion t i).base = fld b 8 8 ∧ (getRegion t i).len = fld b 16 8 ∧
           ∀ j, j ≠ i → getRegion t j = getRegion s j))) ∧
  (∀ (ring : Nat) (rseq : BitVec 32) (c : Cmd) (s : State), c.op = 0x30 →
     (MayAdmit s ring rseq c → rmaMode c = 4 → rmaClean c = true → mayUseConn s c (rmaConnOf c) = true → (getConn s (rmaConnOf c)).state = .open_ →
       exec (.connClose ring rseq) s = .next (connLeft (rmaConnOf c) (modConn (rmaConnOf c)
         (fun x => { x with state := .closing, closer := some (cmdKey ring rseq) }) (admitCmd c (.rma { conn := rmaConnOf c, mode := 4 }) s)))) ∧
     (∀ k, Runs s ring rseq c → (getConn s k).state = .closing → (getConn s k).ops = [] → (getConn s k).closer = some (cmdKey ring rseq) →
       ∃ t, exec (.connCloseDone k) s = .next t ∧ OnlyIn (.rma :: endAreas) s t ∧ EndsWith t c .ok 0 ∧ (getConn t k).state = .free ∧
         ∀ j, j ≠ k → getConn t j = getConn s j) ∧
     (MayAdmit s ring rseq c → rmaMode c = 6 → rmaClean c = true →
       (localKeyStatus s c ≠ .ok → exec (.mrDereg ring rseq) s = .next (endAtAdmission c (localKeyStatus s c) 0 s)) ∧
       (localKeyStatus s c = .ok → exec (.mrDereg ring rseq) s = .next (admitCmd c (.rma { conn := 0, mode := 6 }) s))) ∧
     (∀ i, Runs s ring rseq c → rmaMode c = 6 → i = (rmaRkey c).toNat % 65536 → regionBusy s i = false → localKeyStatus s c = .ok →
       ∃ t, exec (.mrDeregDone ring rseq) s = .next t ∧ OnlyIn (.rma :: endAreas) s t ∧ EndsWith t c .ok 0 ∧
         getRegion t i = { gen := (getRegion s i).gen } ∧ ∀ j, j ≠ i → getRegion t j = getRegion s j) ∧
     (MayAdmit s ring rseq c → rmaMode c = 7 → rmaClean c = true → localKeyStatus s c = .ok → (∀ e ∈ s.rma.conns, e.2.held = none) →
       ∃ t, exec (.pageResume ring rseq) s = .next t ∧ OnlyIn endAreas s t ∧ EndsWith t c .ok 0))

/-- A SIGNAL in the node adds AMOUNT to the counter that its partition owns, or is refused where the counter is another's or its bound would
be passed; with REMOTE it goes behind the operations of its connection. A WAIT whose counter has its value ends at once with the value;
else it is listed, the commands behind it wait, and TIMEOUT_US later it ends with ST_TIMEOUT. -/
def Obligations.SignalsCountAndWaitsEnd : Prop :=
  (∀ (ring : Nat) (rseq : BitVec 32) (c : Cmd) (i n : Nat) (s : State), MayAdmit s ring rseq c → c.op = 0x31 →
     i = fld c.desc 8 4 % 65536 → n = fld c.desc 16 8 →
     (signalRemote c = false → signalClean c = false → exec (.signalLocal ring rseq) s = .next (endAtAdmission c .illegalValue 0 s)) ∧
     (signalRemote c = false → signalClean c = true → bit (fld c.desc 8 4) 17 = false → (∀ e ∈ s.rma.oot, e.key ≠ cmdKey ring rseq) →
       (∀ w ∈ s.rma.waiters, w.counter ≠ i) →
       (cntOwned s c.part i = true → (getCnt s i).value + n - (getCnt s i).acked ≤ cntBound s i →
         ∃ t, exec (.signalLocal ring rseq) s = .next t ∧ OnlyIn (.rma :: endAreas) s t ∧ EndsWith t c .ok 0 ∧
           getCnt t i = { getCnt s i with value := (getCnt s i).value + n } ∧ t.rma.conns = s.rma.conns ∧ t.rma.regions = s.rma.regions ∧
           ∀ j, j ≠ i → getCnt t j = getCnt s j) ∧
       (cntOwned s c.part i = true → cntBound s i < (getCnt s i).value + n - (getCnt s i).acked →
         ∃ t, exec (.signalLocal ring rseq) s = .next t ∧ OnlyIn endAreas s t ∧ EndsWith t c .illegalValue 0) ∧
       (cntOwned s c.part i = false →
         ∃ t, exec (.signalLocal ring rseq) s = .next t ∧ OnlyIn endAreas s t ∧ EndsWith t c .accessViolation 0)) ∧
     (∀ k, signalRemote c = true → signalClean c = true → k = fld c.desc 12 4 % 2 ^ 20 → mayUseConn s c k = true → (getConn s k).state = .open_ →
       rmaRoom s k .signal 0 = true → recordedPsn s c k = none →
       exec (.signalRemote ring rseq) s = .next (postOp k {
         kind := .signal, psn := 0, psns := 1, total := 0, counter := i, toAcked := bit (fld c.desc 8 4) 17
         data := slice c.desc 16 8, key := some (cmdKey ring rseq) } (admitCmd c (.rma { conn := k, mode := 8 }) s)))) ∧
  (∀ (ring : Nat) (rseq : BitVec 32) (c : Cmd) (i us : Nat) (s : State), c.op = 0x32 → i = fld c.desc 8 4 % 65536 → us = fld c.desc 12 4 →
     (MayAdmit s ring rseq c → fld c.desc 8 4 < 65536 → us ≤ 1000000 → allZero (slice c.desc 24 40) = true →
       (cntOwned s c.part i = false → exec (.wait ring rseq) s = .next (endAtAdmission c .accessViolation 0 s)) ∧
       (cntOwned s c.part i = true → fld c.desc 16 8 ≤ (getCnt s i).value →
         ∃ t, exec (.wait ring rseq) s = .next t ∧ OnlyIn endAreas s t ∧ EndsWith t c .ok (getCnt s i).value) ∧
       (cntOwned s c.part i = true → (getCnt s i).value < fld c.desc 16 8 → s.rma.waiters.length < 4096 → us ≠ 0 →
         ∃ t d, exec (.wait ring rseq) s = .next t ∧ OnlyIn [.regs, .cmds, .rma] s t ∧ t.regs.act = s.regs.act ∧ getCmd t ring rseq = some d ∧
           d.phase = .running ∧ t.rma = { s.rma with waiters := s.rma.waiters ++ [{
             key := some (cmdKey ring rseq), counter := i, onAcked := false
             target := fld c.desc 16 8, due := now s + 1000 * us }] } ∧
           ∀ e, e.ring = ring → serialLt rseq e.rseq = true → fenced t e = true)) ∧
     (∀ w, Runs s ring rseq c → (s.rma.waiters.find? fun w => w.key == some (cmdKey ring rseq)) = some w →
       ∃ t, exec (.waitTimeout ring rseq) s = .next t ∧ OnlyIn (.rma :: .clk :: endAreas) s t ∧ EndsWith t c .timeout 0 ∧ w.due ≤ now t ∧
         t.rma = { s.rma with waiters := s.rma.waiters.erase w }))

/-- A packet for a connection that is FREE or whose peer did not send it is counted in STRAY and gone; one whose context is not in the cache
parks until the context is fetched. No memory, command or sequence changes. A request that is not the expected one, or may not be applied:
one further ahead is answered with one NAK of the sequence, an earlier one as a duplicate; while metering is halted, and where the key or
the range is wrong, the operation is passed over with a NAK. -/
def Obligations.WrongPacketsAreTurnedAway : Prop :=
  (∀ (top port c : Nat) (i : Instr) (p : Packet) (s : State), (top, i) ∈ packetRows port p → topIs p top = true → serving s = true →
     c = p.tr.dconn % 2 ^ 20 →
     ((getConn s c).state = .free ∨ p.fab.src ≠ (getConn s c).peerNode →
       exec i s = .next (rmaCnt cStray 1 (takeInbox port (.pkt p) s)) ∧
       (rmaCnt cStray 1 (takeInbox port (.pkt p) s)).rma = s.rma ∧ (rmaCnt cStray 1 (takeInbox port (.pkt p) s)).mem = s.mem) ∧
     ((getConn s c).state ≠ .free → p.fab.src = (getConn s c).peerNode → cached s c = false →
       exec i s = .next (parkPacket port c (.pkt p) s) ∧
       (port < 6 → (getPort s port).missq.length < 64 →
         (getPort (parkPacket port c (.pkt p) s) port).missq.getLast? = some (c, .pkt p) ∧ (getConn (parkPacket port c (.pkt p) s) c).fetching = true))) ∧
  (∀ (top port c d : Nat) (i : Instr) (p : Packet) (a s : State), (top, i) ∈ requestRx port p → p.tr.top.toNat = top → Hears s p c →
     a = arrived port (.pkt p) c s → d = (p.tr.psn - (getConn s c).rxPsn).toNat →
     (0 < d → d < 2 ^ 23 → (getConn s c).nakSeqSent = true → exec i s = .next a) ∧
     (0 < d → d < 2 ^ 23 → (getConn s c).nakSeqSent = false →
       exec i s = .next (sendAck c 0x09 ((getConn s c).rxPsn - 1) nakSeq 0
         (rmaCnt cSeqNaks 1 (modConn c (fun x => { x with nakSeqSent := true, unacked := 0 }) a)))) ∧
     (2 ^ 23 ≤ d → exec i s = .next (duplicate port c (.pkt p) a)) ∧
     (d = 0 → (top = 0x01 → p.tr.first = true) → s.tap.halted = true → exec i s = .next (reject c p.tr.psn (pktPsns p) nakMetering a)) ∧
     (d = 0 → top ≠ 0x06 → (top = 0x01 → p.tr.first = true) → s.tap.halted = false → keyCheck s (getConn s c) p ≠ 0 → (getConn a c).errRecs.length < 8 →
       exec i s = .next (violation c p (keyCheck s (getConn s c) p) (reject c p.tr.psn (pktPsns p) (keyCheck s (getConn s c) p) a)) ∧
       (violation c p (keyCheck s (getConn s c) p) (reject c p.tr.psn (pktPsns p) (keyCheck s (getConn s c) p) a)).mem = s.mem))

/-- The packet that a connection expects is applied: the expected PSN passes it, a WRITE stores its bytes in its region's memory and nowhere
else, a READ_REQ is answered with the region's bytes, an ADD_REQ adds and remembers the old value, and a SIGNAL adds to its counter. -/
def Obligations.ExpectedRequestsAreApplied : Prop :=
  ∀ (port c : Nat) (p : Packet) (r : Region) (a s : State), Hears s p c → p.tr.psn = (getConn s c).rxPsn → s.tap.halted = false →
    a = arrived port (.pkt p) c s → r = getRegion s (p.tr.rkey.toNat % 65536) →
    (p.tr.top = 0x01 → p.tr.first = true → memOk s → keyCheck s (getConn s c) p = 0 → r.paging = 0 → r.space = 0 →
      ∃ t, exec (.rxWrite port p) s = .next t ∧ OnlyIn (.mem :: .cells :: rxAreas) s t ∧ t.regs.act = s.regs.act ∧
        (getConn t c).rxPsn = p.tr.psn + 1 ∧
        (∀ b, outside (regionSpans s r p.tr.raddr.toNat (min p.payload.length p.tr.total.toNat)) b → readByte t b = readByte s b) ∧
        (∀ d n, regionSpans s r p.tr.raddr.toNat (min p.payload.length p.tr.total.toNat) = [(d, n)] → n = min p.payload.length p.tr.total.toNat →
          d + n ≤ memSize → ∀ i, i < n → readByte t (d + i) = p.payload.getD i 0)) ∧
    (∀ bs, p.tr.top = 0x02 → keyCheck s (getConn s c) p = 0 → r.paging = 0 → r.space = 0 →
      readSpans a (regionSpans a r p.tr.raddr.toNat p.tr.total.toNat) = .data bs →
      exec (.rxReadReq port p) s = .next (applied c p (respondRead c p bs (advanceRx c (pktPsns p) a))) ∧
      ∃ t, exec (.rxReadReq port p) s = .next t ∧ OnlyIn rxAreas s t ∧ t.regs.act = s.regs.act ∧
        (getConn t c).rxPsn = p.tr.psn + BitVec.ofNat 24 (pktPsns p)) ∧
    (∀ bs, p.tr.top = 0x04 → memOk s → keyCheck s (getConn s c) p = 0 → r.paging = 0 → r.space = 0 → (getConn a c).addRecs.length < 16 →
      readSpans a (regionSpans a r p.tr.raddr.toNat 8) = .data bs →
      ∃ t, exec (.rxAddReq port p) s = .next t ∧ OnlyIn (.mem :: .cells :: rxAreas) s t ∧ t.regs.act = s.regs.act ∧
        (getConn t c).rxPsn = p.tr.psn + 1 ∧ (p.tr.psn, BitVec.ofNat 64 (fld bs 0 8)) ∈ (getConn t c).addRecs ∧
        (∀ b, outside (regionSpans s r p.tr.raddr.toNat 8) b → readByte t b = readByte s b) ∧
        (∀ d, regionSpans s r p.tr.raddr.toNat 8 = [(d, 8)] → d + 8 ≤ memSize →
          ∀ i, i < 8 → readByte t (d + i) = (leBytes 8 (BitVec.ofNat 64 (fld bs 0 8) + BitVec.ofNat 64 (fld p.payload 0 8)).toNat).getD i 0)) ∧
    (∀ i n part, p.tr.top = 0x06 → i = p.tr.total.toNat % 65536 → n = fld p.payload 0 8 → part = (if (getConn s c).mgmt then 64 else (getConn s c).part) →
      bit p.tr.total.toNat 16 = false → addStatus s part i n false = .ok → (∀ w ∈ s.rma.waiters, w.counter ≠ i) →
      ∃ t, exec (.rxSignal port p) s = .next t ∧ OnlyIn rxAreas s t ∧ t.regs.act = s.regs.act ∧ (getConn t c).rxPsn = p.tr.psn + 1 ∧
        getCnt t i = { getCnt s i with value := (getCnt s i).value + n } ∧ ∀ j, j ≠ i → getCnt t j = getCnt s j)

/-- What a requester hears: ACK covers the operations up to its PSN, a NAK ends the one that it names with its status or resends from the next
PSN, HOLD and RETRY_AFTER hold the sending, READ_RESP and ADD_RESP bring their operation's data, and CALL_RESP ends its CALL. -/
def Obligations.AnswersReachTheirOperation : Prop :=
  ∀ (port c : Nat) (p : Packet) (s : State), Hears s p c →
    (p.tr.top = 0x08 → exec (.rxAck port p) s = .next (ackUpTo c p.tr.psn (arrived port (.pkt p) c s))) ∧
    (p.tr.top = 0x09 → p.tr.raddr.toNat % 256 = nakSeq → exec (.rxNak port p) s =
      .next (pump c (resendFrom c (p.tr.psn + 1) (modConn c (fun x => { x with txHeld := false }) (ackUpTo c p.tr.psn (arrived port (.pkt p) c s)))))) ∧
    (∀ o s1, p.tr.top = 0x09 → p.tr.raddr.toNat % 256 ≠ nakSeq → s1 = ackUpTo c (p.tr.psn - 1) (arrived port (.pkt p) c s) →
      ((getConn s1 c).ops.find? fun o => o.sentPkts != 0 && o.psn == p.tr.psn) = some o → o.msg = none →
      exec (.rxNak port p) s = .next (progress c (opDone c o (nakStatus (p.tr.raddr.toNat % 256)) 0 s1))) ∧
    (p.tr.top = 0x0A → ∃ t, exec (.rxHold port p) s = .next t ∧ OnlyIn [.rma, .fab, .tap] s t ∧ (getConn t c).txHeld = true ∧
      (getConn t c).timerAt = now s ∧ (getConn t c).retries = (getConn s c).retries ∧ (getConn t c).ops = (getConn s c).ops) ∧
    (∀ o ∈ (getConn s c).ops, p.tr.top = 0x0B → o.sentPkts ≠ 0 → (p.tr.psn - o.psn).toNat < o.psns →
      ∃ t, exec (.rxRetryAfter port p) s = .next t ∧ OnlyIn [.rma, .fab, .tap] s t ∧
        (getConn t c).resendAt = some (now s + 1000 * bits p.tr.raddr.toNat 16 16, p.tr.psn) ∧ (getConn t c).ops = (getConn s c).ops) ∧
    (∀ o, p.tr.top = 0x03 → ((getConn s c).ops.find? fun o => o.kind == .read && o.sentPkts != 0 && decide ((p.tr.psn - o.psn).toNat < o.psns)) = some o →
      (tset o.got (p.tr.psn - o.psn).toNat p.payload).length ≠ o.psns →
      exec (.rxReadResp port p) s = .next (progress c (modConn c (fun x => { x with ops := x.ops.map fun y =>
        if y = o then { o with got := tset o.got (p.tr.psn - o.psn).toNat p.payload } else y }) (arrived port (.pkt p) c s)))) ∧
    (∀ o, p.tr.top = 0x05 → ((getConn s c).ops.find? fun o => o.kind == .add && o.sentPkts != 0 && o.psn == p.tr.psn) = some o →
      exec (.rxAddResp port p) s = .next (progress c (opDone c o .ok (fld p.payload 0 8) (arrived port (.pkt p) c s)))) ∧
    (∀ o m, p.tr.top = 0x11 → ((getConn s c).ops.find? fun o => o.kind == .call && o.sentPkts != 0 && o.psn == p.tr.psn) = some o →
      exec (.rxCallResp port p m) s = .next (takeResp c m (progress c (dropOp c o (arrived port (.resp p m) c s)))))

/-- CALL_RESP's counterpart: an expected CALL is served once, its answer is kept until its step is released or RETAIN_MS have passed, and an
access under a stamp newer than the map waits for at most 1 ms. -/
def Obligations.CallsAreServedOnce : Prop :=
  ∀ s : State, serving s = true →
    (∀ port p c step, Hears s p c → p.tr.top = 0x10 → p.tr.psn = (getConn s c).rxPsn → (getConn s c).mgmt = false → s.tap.halted = false →
      ∃ t, exec (.rxCall port p (.releaseStep step)) s = .next t ∧ OnlyIn (.retained :: rxAreas) s t ∧
        t.retained = s.retained.filter (fun r => !(r.home == (getConn s c).peerNode && r.step == step)) ∧ (getConn t c).rxPsn = p.tr.psn + 1) ∧
    (∀ port p c step i stamp q r, Hears s p c → p.tr.top = 0x10 → p.tr.psn = (getConn s c).rxPsn → (getConn s c).mgmt = false →
      retainedOf s (getConn s c).peerNode step i = some r →
      ∃ t, exec (.rxCall port p (.searchSub step i stamp q)) s = .next t ∧ OnlyIn rxAreas s t ∧ t.retained = s.retained ∧ (getConn t c).rxPsn = p.tr.psn + 1) ∧
    (∀ home step i r, retainedOf s home step i = some r →
      ∃ t, exec (.retentionExpiry home step i) s = .next t ∧ OnlyIn [.retained, .clk, .regs, .out, .host, .mgmt] s t ∧ t.regs.act = s.regs.act ∧
        t.retained = s.retained.erase r ∧ cnt t 0x1C0 = cnt s 0x1C0 + 1 ∧ r.born + retainNs s ≤ now t) ∧
    (∀ k h, tget s.rmx.held k = some h →
      ∃ t, exec (.stampHoldTimeout k) s = .next t ∧ tget t.rmx.held k = none ∧ cnt t rmxStale = cnt s rmxStale + 1 ∧ h.due ≤ now t ∧
        t.rmx.ents = s.rmx.ents ∧ t.mem = s.mem ∧ t.cmds = s.cmds) ∧
    (∀ ring rseq sub c u, Runs s ring rseq c → c.subs[sub]? = some u → u.busy = true → u.lost = false → u.answer = none →
      exec (.retentionBusyRetry ring rseq sub) s =
        .next (sendCall u.conn u.call (setCmd { c with subs := c.subs.set sub { u with busy := false } } (advanceTo u.due s))))

/-- The timers of a connection: the delayed ACK goes out after 500 ns, RTO_US without an answer resend the oldest packets or, past the limit
of retries, put the connection in ERROR; HOLD repeats every 10 µs; and STALL_LIMIT_US or a RETRY_AFTER delay end as they say. -/
def Obligations.ConnectionTimersFire : Prop :=
  ∀ (k : Nat) (x : Conn) (s : State), serving s = true → x = getConn s k →
    (x.unacked ≠ 0 → x.state = .open_ →
      ∃ t, exec (.ackDelayTimeout k) s = .next t ∧ OnlyIn (.clk :: rxAreas) s t ∧ (getConn t k).unacked = 0 ∧ x.unackedAt + 500 ≤ now t) ∧
    (∀ psn limit, oldestUnacked x = some psn → x.state = .open_ → x.resendAt = none →
      limit = (if x.retryLimit = 0 then actBits s 0x400010 10 4 else x.retryLimit) →
      (x.retries < limit → exec (.retransmitTimeout k) s =
        .next (resendFrom k psn (modConn k (fun x => { x with retries := x.retries + 1 }) (advanceTo (x.timerAt + rtoNs s x) s)))) ∧
      (limit ≤ x.retries → ∃ t, exec (.retransmitTimeout k) s = .next t ∧ (getConn t k).state = .error ∧ (getConn t k).ops = [] ∧
        x.timerAt + rtoNs s x ≤ now t)) ∧
    (∀ h, x.held = some h →
      (∃ t g, exec (.holdRepeatTimer k) s = .next t ∧ OnlyIn (.clk :: rxAreas) s t ∧ (getConn t k).held = some g ∧ g.lastHold = now t ∧
        g.cargo = h.cargo ∧ h.lastHold + 10000 ≤ now t) ∧
      (x.errRecs.length < 8 → x.rest = none → ∃ t, exec (.stallLimitExpiry k) s = .next t ∧ (getConn t k).held = none ∧
        (h.cargo.packet.tr.psn, pktPsns h.cargo.packet, nakTimeout) ∈ (getConn t k).errRecs ∧ t.mem = s.mem ∧ h.since + stallNs s ≤ now t)) ∧
    (∀ due psn o, x.resendAt = some (due, psn) → (x.ops.find? fun o => o.sentPkts != 0 && decide ((psn - o.psn).toNat < o.psns)) = some o →
      (o.tries < 255 → exec (.resendDelayExpiry k) s = .next (pump k (resendFrom k psn (modConn k (fun x => { x with resendAt := none }) (advanceTo due s))))) ∧
      (255 ≤ o.tries → exec (.resendDelayExpiry k) s = .next (pump k (opDone k o .timeout 0 (modConn k (fun x => { x with resendAt := none }) (advanceTo due s)))))) ∧
    (x.fetching = true → (∀ q, q < 6 → ∀ e ∈ (getPort s q).missq, e.1 ≠ k) → (∀ q, q < 6 → (getPort s q).missFull = false) →
      (∀ cg ∈ s.fab.loop, cg.packet.tr.dconn % 2 ^ 20 ≠ k) → (∀ o ∈ x.ops, o.sentPkts ≠ 0) →
      ∃ t, exec (.contextFetchDone k) s = .next t ∧ OnlyIn [.rma, .fab] s t ∧ (getConn t k).fetching = false ∧ (s.rma.cache.length < 16384 → cached t k = true))

/-- Training: a signal on an enabled port that is DOWN starts TRAIN_LOW; TRAIN_LOW_DONE enters NEGOTIATE with the lanes that trained; the
partner's CAP is recorded, and one with this node's own ID or without a common level puts the port in NEG_FAIL; TRAIN_HIGH_DONE with all
lanes enters CREDIT at level 2 with both counts of flits at their start; the partner's limits bring the port UP. Retraining keeps the
replay buffer: a lane failure, the partner's request or more than 20 ns of skew start it, RETRAIN_DONE with all lanes returns to UP and
resends from the oldest block, and a failed one is followed by full training. -/
def Obligations.PortsTrainAndRetrain : Prop :=
  (∀ (q : Nat) (x : Port) (s : State), q < 6 → x = getPort s q →
     (mainOn s = true → portCfg s q 0 = true → x.link = .down →
       ∃ t, exec (.signalDetect q) s = .next t ∧ OnlyIn [.fab, .regs, .out] s t ∧ t.regs.act = s.regs.act ∧ (getPort t q).link = .trainLow ∧
         ∀ k, k ≠ q → getPort t k = getPort s k) ∧
     (∀ lanes, x.link = .trainLow → ∃ t, exec (.trainLowDone q lanes) s = .next t ∧ OnlyIn [.fab, .regs, .out] s t ∧ (getPort t q).link = .negotiate ∧
       (getPort t q).lanesOk = lanes ∧ (getPort t q).seenIn = false ∧ (getPort t q).seenOut = false ∧ ∀ k, k ≠ q → getPort t k = getPort s k) ∧
     (∀ f : Cap, x.link = .negotiate →
       ((f.nodeId ≠ 0xFFFF ∧ f.nodeId = BitVec.ofNat 16 (nodeId s)) ∨ f.levels &&& levelsOf s q = 0 →
         exec (.rxCap q f) s = .next (setLink q .negFail s) ∧ (getPort (setLink q .negFail s) q).link = .negFail) ∧
       (f.nodeId ≠ BitVec.ofNat 16 (nodeId s) → f.levels &&& levelsOf s q ≠ 0 → (x.seenIn = false ∧ f.seen = false ∨ x.seenOut = false) →
         ∃ t, exec (.rxCap q f) s = .next t ∧ OnlyIn [.fab, .regs] s t ∧ (getPort t q).link = .negotiate ∧ (getPort t q).partner = f.nodeId ∧
           (getPort t q).capIn = true ∧ (getPort t q).pickLevel = (if f.levels &&& levelsOf s q &&& 0x04 ≠ 0 then 2 else 1) ∧
           ∀ k, k ≠ q → getPort t k = getPort s k)) ∧
     (x.link = .trainHigh → x.partnerLanes = 0xFF → x.inbox = [] →
       ∃ t, exec (.trainHighDone q 0xFF) s = .next t ∧ (getPort t q).link = .credit ∧ (getPort t q).level = 2 ∧ (getPort t q).narrow = false ∧
         (getPort t q).sent = List.replicate 7 0 ∧ (getPort t q).climit = List.replicate 7 0 ∧
         (getPort t q).granted = [2048, 3072, 1024, 512, 512, 512, 512] ∧ t.mem = s.mem ∧ t.cmds = s.cmds) ∧
     (∀ limits, x.link = .credit → (∀ e ∈ s.seqs, e.2.demote = none) →
       ∃ t, exec (.creditExchangeDone q limits) s = .next t ∧ OnlyIn [.fab, .regs, .out] s t ∧ (getPort t q).link = .up ∧
         (getPort t q).climit = (List.range 7).map (fun i => (limits.getD i 0).toNat) ∧ ∀ k, k ≠ q → getPort t k = getPort s k)) ∧
  (∀ (q : Nat) (x : Port) (s : State), q < 6 → x = getPort s q →
     (x.link = .up →
       (∀ lane, lane < 8 → ∃ t, exec (.laneFailure q lane) s = .next t ∧ OnlyIn [.fab, .regs, .out] s t ∧ (getPort t q).link = .retrain ∧
         (getPort t q).lanesOk = x.lanesOk &&& ~~~(BitVec.ofNat 8 (2 ^ lane)) ∧ (getPort t q).replayBuf = x.replayBuf) ∧
       (∃ t, exec (.rxRetrain q) s = .next t ∧ OnlyIn [.fab, .regs, .out] s t ∧ (getPort t q).link = .retrain ∧ (getPort t q).replayBuf = x.replayBuf) ∧
       (∀ ns, (ns ≤ 20 → exec (.alignmentBlockReceive q ns) s = .next s) ∧
         (20 < ns → ∃ t, exec (.alignmentBlockReceive q ns) s = .next t ∧ OnlyIn [.fab, .regs, .out] s t ∧ (getPort t q).link = .retrain ∧
           cnt t (portBase q + 0x80 + 8 * cRetrains) = cnt s (portBase q + 0x80 + 8 * cRetrains) + 1 ∧ (getPort t q).replayBuf = x.replayBuf))) ∧
     (x.link = .retrain → (∀ e ∈ s.seqs, e.2.demote = none) →
       (x.again = false → x.narrow = false → ∃ t, exec (.retrainDone q true 0xFF 0xFF) s = .next t ∧ OnlyIn [.fab, .regs, .out] s t ∧
         (getPort t q).link = .up ∧ (getPort t q).replayBuf.map (fun b => (b.bsn, b.cargo)) = x.replayBuf.map (fun b => (b.bsn, b.cargo)) ∧
         (getPort t q).resendAt = (if x.replayBuf = [] then none else some 0) ∧ (getPort t q).attempts = 0) ∧
       (x.attempts < 2 → ∀ l m, ∃ t, exec (.retrainDone q false l m) s = .next t ∧ OnlyIn [.fab, .regs, .out] s t ∧ (getPort t q).link = .trainLow ∧
         (getPort t q).attempts = x.attempts + 1 ∧ (getPort t q).replayBuf = x.replayBuf)))

/-- Blocks: the expected one is accepted and the next is expected; one out of order is ignored; a bad one asks for a resend. Every 8,192nd
block sent is an alignment block, a resend goes before new blocks, and LCTL frees what it acknowledges; 4 µs without one start a resend. -/
def Obligations.BlocksAreReplayed : Prop :=
  ∀ (q : Nat) (x : Port) (s : State), q < 6 → serving s = true → x = getPort s q → x.link = .up →
    (∀ b n, b.fec = .ok n → badBlock b = false → misdealBits s q 0 3 = 0 → (b.bsn = x.expect → b.cargo = []) →
      ∃ t, exec (.blockReceive q b) s = .next t ∧ OnlyIn [.fab, .regs] s t ∧ t.regs.act = s.regs.act ∧
        (getPort t q).expect = (if b.bsn = x.expect then x.expect + 1 else x.expect) ∧ (getPort t q).nakDue = x.nakDue ∧
        (b.bsn = x.expect → cnt t (portBase q + 0x80 + 8 * cRxFlits) = cnt s (portBase q + 0x80 + 8 * cRxFlits) + BitVec.ofNat 64 b.dataFlits)) ∧
    (∀ b, badBlock b = true → ∃ t, exec (.blockReceive q b) s = .next t ∧ OnlyIn [.fab, .regs] s t ∧ t.regs.act = s.regs.act ∧
      (getPort t q).nakDue = true ∧ (getPort t q).expect = x.expect ∧
      cnt t (portBase q + 0x80 + 8 * cBadBlocks) = cnt s (portBase q + 0x80 + 8 * cBadBlocks) + 1) ∧
    (8191 ≤ x.sinceAlign → exec (.blockTransmit q) s = .next (emit (.align q) (setPort q { x with sinceAlign := 0 } s))) ∧
    (∀ i b, x.sinceAlign < 8191 → x.resendAt = some i → x.replayBuf[i]? = some b → misdealBits s q 0 3 ≠ 3 →
      ∃ t, exec (.blockTransmit q) s = .next t ∧ OnlyIn [.fab, .regs, .out] s t ∧ t.out = s.out ++ [.block q b.bsn true b.flits b.cargo b.ctl none] ∧
        (getPort t q).replayBuf.length = x.replayBuf.length ∧ (getPort t q).nextBsn = x.nextBsn) ∧
    (∀ f : Lctl, f.nak = false → ∃ t, exec (.rxLctl q f) s = .next t ∧ OnlyIn [.fab] s t ∧
      (getPort t q).replayBuf = (if f.ackValid then ackBlocks f.ack x.replayBuf else x.replayBuf) ∧
      (getPort t q).climit = (x.climit.zip (f.climit.map (·.toNat))).map (fun (a, b) => if serial16Le a b then b else a)) ∧
    (∀ b l, x.replayBuf = b :: l → ∃ t, exec (.replayAckTimeout q) s = .next t ∧ OnlyIn [.fab, .clk] s t ∧ b.sentAt + 4000 ≤ now t ∧
      (b.resends < 8 → (getPort t q).resendAt = some 0 ∧ (getPort t q).retrainDue = x.retrainDue) ∧
      (8 ≤ b.resends → (getPort t q).retrainDue = true) ∧ (getPort t q).replayBuf = x.replayBuf)

/-- R207: a TSYNC of a replayed block is ignored; an LCTL in any good block takes each CLIMIT as the later of the held and the received value
in 16-bit serial order, and no other port changes. -/
def Obligations.LimitsOnlyMoveForward : Prop :=
  ∀ (q : Nat) (s : State),
    (∀ f frac, exec (.rxTsync q f true frac) s = .next s) ∧
    (∀ f : Lctl, q < 6 → carries (getPort s q) = true →
      ∃ t, exec (.rxLctl q f) s = .next t ∧ OnlyIn [.fab] s t ∧
        (getPort t q).climit = ((getPort s q).climit.zip (f.climit.map (·.toNat))).map (fun (a, b) => if serial16Le a b then b else a) ∧
        ∀ k, k ≠ q → getPort t k = getPort s k)

/-- Fabric time: every 1,000 ns each port that is UP is due a time flit; a parent's flit that echoes none of this node's keeps its receipt and
ends HOLDOVER; 8 µs without one enter HOLDOVER, and 5 ms of it lose the time: LOCKED is clear and TIME_LOST is set. -/
def Obligations.FabricTimeIsLostInHoldover : Prop :=
  ∀ s : State, serving s = true →
    (∃ t, exec .tsyncDue s = .next t ∧ OnlyIn [.fab, .clk] s t ∧ (now s / 1000 + 1) * 1000 ≤ now t ∧
      ∀ q, q < 6 → (getPort t q).tsyncDue = ((getPort s q).tsyncDue || (getPort s q).link == .up)) ∧
    (∀ q f frac, q < 6 → (getPort s q).link = .up → frac < 65536 →
      (exec (.rxTsync q f true frac) s = .next s) ∧
      (timeRole s = 2 → actBits s 0x300010 2 3 = q → tget (getPort s q).txTimes f.tseqEcho.toNat = none →
        ∃ t, exec (.rxTsync q f false frac) s = .next t ∧ OnlyIn [.fab, .regs] s t ∧ t.regs.act = s.regs.act ∧ valBits t 0x300014 1 1 = 0 ∧
          t.fab.time.lastTsync = now s ∧ (getPort t q).tseqEcho = f.tseq ∧ (getPort t q).tRxLast = BitVec.ofNat 80 (now s * 65536 + frac))) ∧
    (timeRole s = 2 → valBits s 0x300014 1 1 = 0 →
      ∃ t, exec .holdoverEnter s = .next t ∧ OnlyIn [.fab, .regs, .clk] s t ∧ t.regs.act = s.regs.act ∧ valBits t 0x300014 1 1 = 1 ∧
        s.fab.time.lastTsync + 8000 ≤ t.fab.time.holdoverAt ∧ t.fab.time.lost = false) ∧
    (timeRole s = 2 → valBits s 0x300014 1 1 = 1 → s.fab.time.lost = false → s.deck.state = 0 →
      ∃ t, exec .timeLost s = .next t ∧ OnlyIn [.fab, .regs, .clk, .out, .host, .mgmt] s t ∧ t.regs.act = s.regs.act ∧ valBits t 0x300014 0 1 = 0 ∧
        valBits t 0x300014 2 1 = 1 ∧ t.fab.time.lost = true ∧ s.fab.time.holdoverAt + 5000000 ≤ now t) ∧
    (∀ dom off, bit (actW s 0xB00300).toNat 0 = true → bits (actW s 0xB00300).toNat 1 8 = dom.toNat → -50 ≤ off → off ≤ 50 →
      ∃ t, exec (.ptpMessage dom off) s = .next t ∧ OnlyIn [.mgmt, .regs, .fab] s t ∧ t.mgmt.ptpGood = min 16 (s.mgmt.ptpGood + 1) ∧
        valBits t 0xB00304 0 1 = (if 15 ≤ s.mgmt.ptpGood then 1 else 0) ∧ valBits t 0xB00304 1 31 = toTwos off 31)

/-- DECK_LOAD reads its image; an image that passes the checks becomes the pending deck and its ID is the result; one that fails leaves no
pending deck, and the result names the first check that failed. The running deck goes on. DECK_SWAP, with STOP and with RESTART, is
checked and waits for START; at START with no deck running it takes effect: the pending deck is the active one, STOP leaves none, and the
command ends with the time. -/
def Obligations.DecksLoadAndSwap : Prop :=
  (∀ (ring : Nat) (rseq : BitVec 32) (c : Cmd) (n : Nat) (s : State), c.op = 0x40 → n = fld c.desc 12 4 →
     (MayAdmit s ring rseq c → fld c.desc 8 4 = 0 → allZero (slice c.desc 24 40) = true → 128 ≤ n → n ≤ 8388608 →
       (s.deck.swap ≠ none → exec (.deckLoad ring rseq) s = .next (endAtAdmission c .busy 0 s)) ∧
       (s.deck.swap = none → checkAddr s c (fld c.desc 16 8) n = .ok → isGfa (fld c.desc 16 8) = false →
         exec (.deckLoad ring rseq) s = .next (emit (.dmaRead (ringFn s ring) (fld c.desc 16 8) n (.input ring rseq)) (admitCmd c .block s)))) ∧
     (∀ b, Runs s ring rseq c → c.work = .block → isGfa (fld c.desc 16 8) = false → isScratch c (fld c.desc 16 8) = false → b.length = n →
       windowsOf s c.part = [] → c.metered = false → (fld b 32 2 = 0 ∨ sroutePending s = false) →
       (imageFail b = none → ∃ t, exec (.dmaReadCompletion (.input ring rseq) (.data b)) s = .next t ∧ OnlyIn (.deck :: endAreas) s t ∧
         EndsWith t c .ok (fld b 4 4) ∧ t.deck = { s.deck with pend := some (readImage b) }) ∧
       (∀ k j, imageFail b = some (k, j) → ∃ t, exec (.dmaReadCompletion (.input ring rseq) (.data b)) s = .next t ∧ OnlyIn (.deck :: endAreas) s t ∧
         EndsWith t c (Status.ofCode (checkFail k)) (j + 2 ^ 32 * k) ∧ t.deck = { s.deck with pend := none }))) ∧
  (∀ (ring : Nat) (rseq : BitVec 32) (c : Cmd) (s : State), c.op = 0x41 →
     (∀ i stop restart, (i, stop, restart) ∈ [(Instr.deckSwap ring rseq, false, false), (.deckSwapStop ring rseq, true, false), (.deckSwapRestart ring rseq, false, true)] →
       MayAdmit s ring rseq c → swapStop c = stop → swapRestart c = restart →
       (swapStatus s c ≠ .ok → exec i s = .next (endAtAdmission c (swapStatus s c) 0 s)) ∧
       (swapStatus s c = .ok → offline s 8 = true → exec i s = .next (faultAtAdmission c 16 8 s)) ∧
       (swapStatus s c = .ok → offline s 8 = false →
         ∃ t, exec i s = .next t ∧ OnlyIn [.regs, .cmds, .deck] s t ∧ t.regs.act = s.regs.act ∧ t.deck = { s.deck with
           swap := some { key := cmdKey ring rseq, stop := stop, restart := restart, cring := fld c.desc 12 2, start := fld c.desc 16 8, stepBase := fld c.desc 24 8 } })) ∧
     (∀ q d, Runs s ring rseq c → s.deck.swap = some q → q.key = cmdKey ring rseq → q.stop = false → q.restart = false → s.deck.active = none →
       s.deck.pend = some d → d.routes = [] → s.mgmt.fences = [] → d.roundNs ≠ 0 →
       ∃ t T, exec .deckStart s = .next t ∧ T % d.roundNs = 0 ∧ q.start ≤ T ∧ now s ≤ T ∧ T ≤ now t ∧ EndsWith t c .ok T ∧ t.deck.active = some d ∧
         t.deck.pend = none ∧ t.deck.swap = none ∧ t.deck.state = 1 ∧ t.deck.cur = 0 ∧ t.deck.stepBase = q.stepBase ∧ t.deck.disp = 0 ∧
         t.mem = s.mem ∧ t.seqs = s.seqs) ∧
     (∀ q d, Runs s ring rseq c → s.deck.swap = some q → q.key = cmdKey ring rseq → q.stop = true → s.deck.active = some d → s.deck.state = 1 →
       boundaryReady s d = true → swapDue s d = true → s.deck.steps = [] → s.mgmt.fences = [] →
       ∃ t, exec .deckStart s = .next t ∧ EndsWith t c .ok (roundEnd s d) ∧ roundEnd s d ≤ now t ∧ t.deck.active = none ∧ t.deck.state = 0 ∧
         t.deck.disp = 0 ∧ t.mem = s.mem ∧ t.seqs = s.seqs))

/-- A card of the running deck acts in its slot: it is issued and counted; HOLD does nothing else, POST keeps its addition for the step's
release, CHECK marks a counter that is short, WAIT waits in the wait table, SEND and RECV move scratch bytes, and RELEASE completes its
step. EXEC admits its task as a command of the deck, with the addresses of its cycle, under the checks of the command's own chapter. -/
def Obligations.CardsActInTheirSlot : Prop :=
  (∀ (i k cyc n : Nat) (d : DeckImage) (c : Card) (s u : State), runningDeck s = some d → issuable s d i k = some (c, cyc) →
     n = stepNumber s d cyc c.step → u = issueCard d i c cyc s →
     (OnlyIn [.deck, .regs, .clk] s u ∧ u.regs.act = s.regs.act ∧ cnt u 0x200100 = cnt s 0x200100 + 1 ∧
       ((∀ x ∈ s.deck.carried, x.1 ≠ i) → u.deck.issued = s.deck.issued ++ [i] ∧ d.slotAt s.deck.round c.slot ≤ now u)) ∧
     (k = 2 → exec (.cardHold i) s = .next u) ∧
     (k = 3 → exec (.cardSend i) s = .next (forEach (schedPackets u c) (fun p s => routeSched 6 none (.pkt p) (countSched d c n p.fab.flits s)) u)) ∧
     (k = 4 → i ∉ s.deck.received → ((recvPackets u c).flatMap fun e => e.2.payload).length < c.arg2 → exec (.cardRecv i) s = .next u) ∧
     (∀ b, k = 4 → i ∉ s.deck.received → b = ((recvPackets u c).flatMap fun e => e.2.payload) → c.arg2 ≤ b.length →
       ∃ t, exec (.cardRecv i) s = .next t ∧ t.deck.received = s.deck.received ++ [i] ∧ OnlyIn [.deck, .regs, .clk, .fab] s t ∧
         t.fab.sched.length + (recvPackets u c).length = s.fab.sched.length) ∧
     (k = 5 → exec (.cardPost i) s = .next (modStep n (fun x => { x with posts := x.posts ++ [(c.arg0 % 65536, c.arg1)] }) u)) ∧
     (k = 6 → exec (.cardCheck i) s = .next (if (getCnt s (c.arg0 % 65536)).value < checkValue c cyc ∧ d.loan = false then
       setDeck { u.deck with short := u.deck.short ++ [i] } u else u)) ∧
     (k = 7 → s.rma.waiters.length < 4096 → (getCnt s (c.arg0 % 65536)).value < checkValue c cyc →
       ∃ t, exec (.cardWait i) s = .next t ∧ OnlyIn [.deck, .regs, .clk, .rma] s t ∧ tget t.deck.waits (waitKey i cyc) = some (now u) ∧
         t.rma = { s.rma with waiters := s.rma.waiters ++ [{
           key := none, card := some (waitKey i cyc), counter := c.arg0 % 65536, onAcked := false, target := checkValue c cyc, due := now u + waitNs s }] }) ∧
     (k = 7 → s.rma.waiters.length < 4096 → checkValue c cyc ≤ (getCnt s (c.arg0 % 65536)).value → exec (.cardWait i) s = .next u) ∧
     (k = 8 → d.loan = false → (∀ x ∈ u.deck.steps, x.loan = false) → exec (.cardRelease i) s = .next (modStep n (fun x => { x with complete := true }) u))) ∧
  (∀ (i cyc n : Nat) (d : DeckImage) (c : Card) (tk : Task) (x : Cmd) (s u : State), runningDeck s = some d → issuable s d i 1 = some (c, cyc) →
     n = stepNumber s d cyc c.step → u = issueCard d i c cyc s → d.tasks[c.arg0]? = some tk →
     x = { ring := deckRing, rseq := u.deck.nextCmd, desc := taskDesc tk cyc, acceptT := now u, step := BitVec.ofNat 64 n } →
     (fld x.desc 0 1 = 2 → fld x.desc 2 2 &&& 0xFEC0 = 0 → exec (.cardExec i) s =
       .next (admitByOp x (modStep n (fun y => { y with tasks := tset y.tasks i (cmdKey x.ring x.rseq) }) (setCmd x (setDeck { u.deck with nextCmd := u.deck.nextCmd + 1 } u))))) ∧
     (fld x.desc 0 1 ≠ 2 → exec (.cardExec i) s =
       .next (finish x .version 0 (modStep n (fun y => { y with tasks := tset y.tasks i (cmdKey x.ring x.rseq) }) (setCmd x (setDeck { u.deck with nextCmd := u.deck.nextCmd + 1 } u))))))

/-- The end of a span fails the card whose work is not complete, and no other; the end of a round takes the notices of the round before,
releases the steps that are due, and begins the next round at its position. A halted deck counts its displacement. A notice counts once:
its first copy is recorded and goes on to the other torus ports that are UP, and with the active deck's ID it stands among the deck's
notices; a second copy changes nothing. A WAIT of loan mode past LOAN_US is lent once. -/
def Obligations.RoundsEndAndLoansCount : Prop :=
  (∀ (d : DeckImage) (s : State), serving s = true → s.deck.active = some d →
     (∀ i c u, s.deck.state = 1 → d.cards[i]? = some c → i ∈ s.deck.issued → i ∉ s.deck.ended → c.kind ≠ 4 →
       u = advanceTo (d.slotAt s.deck.round (c.slot + c.spanM1 + 1)) s →
       (∀ cause, failCause u d i c (stepNumber s d (curCycle s d) c.step) cause = none →
         exec (.cardSpanEnd i cause) s = .next (setDeck { u.deck with ended := u.deck.ended ++ [i] } u)) ∧
       (∀ cause k, failCause u d i c (stepNumber s d (curCycle s d) c.step) cause = some k →
         ∃ t, exec (.cardSpanEnd i cause) s = .next t ∧ i ∈ t.deck.ended ∧ t.mem = s.mem)) ∧
     (∀ x, s.deck.state = 1 → (dueSteps s).head? = some x → x.loan = false → roundDone s d = true →
       exec (.stepRelease x.number) s = .next (endMetering (releaseStep x (advanceTo (roundEnd s d) s)))) ∧
     (∀ x, x.tasks = [] → x.ops = [] → x.posts = [] → x.counts = [] →
       (releaseStep x s).out = s.out ++ x.outs ∧ x.number ∈ (releaseStep x s).deck.released ∧ (∀ y ∈ (releaseStep x s).deck.steps, y.number ≠ x.number) ∧
       (getRing (releaseStep x s) x.cring).accepted = (getRing s x.cring).accepted + 1 ∧ (releaseStep x s).mem = s.mem) ∧
     (s.deck.state = 1 → dueNotices s ≠ [] → roundDone s d = true → s.deck.cur ≠ 0 → s.deck.rewindTo = none →
       exec .noticeTake s = .next (takeNotices d (dueNotices s) s)) ∧
     (∀ rc, s.deck.state = 1 → boundaryReady s d = true → swapDue s d = false →
       ∃ t, exec (.roundBoundary rc) s = .next t ∧ t.deck.round = s.deck.round + 1 ∧ t.deck.cur = s.deck.rewindTo.getD (s.deck.cur + 1) ∧
         t.deck.issued = [] ∧ t.deck.ended = [] ∧ roundEnd s d ≤ now t ∧ t.mem = s.mem ∧ t.cmds = s.cmds) ∧
     (∀ rc, s.deck.state = 2 → ∃ t, exec (.roundBoundary rc) s = .next t ∧ OnlyIn [.deck, .regs, .clk] s t ∧ t.deck.round = s.deck.round + 1 ∧
       t.deck.disp = s.deck.disp + 1 ∧ t.deck.active = s.deck.active) ∧
     (∀ rc, s.deck.state = 1 → marginBelow d rc 2 = true → vcore s < 880 → 620 ≤ vcore s →
       ∃ t, exec (.marginReading rc) s = .next t ∧ OnlyIn [.regs] s t ∧ t.regs.act = s.regs.act ∧ vcore t = min 880 (vcore s + 25))) ∧
  (∀ s : State, serving s = true →
     (∀ port n, (getPort s port).inbox = [] → noticeKey n ∈ s.deck.seen → exec (.rxNotice port n) s = .next s) ∧
     (∀ port n d, (getPort s port).inbox = [] → noticeKey n ∉ s.deck.seen → s.deck.state = 1 → s.deck.active = some d → d.id = n.deckId.toNat →
       n.ntype = 1 ∨ n.ntype = 2 →
       ∃ t, exec (.rxNotice port n) s = .next t ∧ OnlyIn [.deck, .fab] s t ∧ t.deck = { s.deck with seen := s.deck.seen ++ [noticeKey n], notices := s.deck.notices ++ [n] } ∧
         ∀ q, q < 6 → (getPort t q).queue.length = (getPort s q).queue.length + b2n (q != port && torusUp s q)) ∧
     (∀ k T d, runningDeck s = some d → tget s.deck.waits k = some T → k ∉ s.deck.loaned →
       ∃ t, exec (.loanThreshold k) s = .next t ∧ OnlyIn [.deck, .regs, .clk] s t ∧ t.deck.loaned = s.deck.loaned ++ [k] ∧ T + loanNs s ≤ now t ∧
         cnt t 0x200130 = cnt s 0x200130 + 1))

/-- A running unit whose next word lies past the image, or is not in order, takes a program fault 3, whatever command steps it. The scalar and
control words do what R139 says: they change their register, the PC, DONE or the unit's state, and nothing else of the node but the
correction count at STOP. -/
def Obligations.CrucibleControlWordsCompute : Prop :=
  ∀ (u : Nat) (x : CruUnit) (w : Word) (s : State), x = getUnit s u → mainOn s = true → x.st = .run →
    ((imageLen x ≤ x.pc ∨ wordOk (tgetD x.prog x.pc 0) = false) → ∀ e ∈ cruRows u, exec e.2 s = .next (programFault u 3 s)) ∧
    (AtWord s u 0x00 x w → exec (.cruStop u) s = .next (stopUnit u (wImm w) (cntAdd 0x602400 x.corr s)) ∧
      (wImm w = 0 → OnlyIn [.mem, .regs] s (stopUnit u (wImm w) (cntAdd 0x602400 x.corr s)) ∧
        getUnit (stopUnit u (wImm w) (cntAdd 0x602400 x.corr s)) u = { x with st := .done, code := 0, openRow := none, suspendReq := false })) ∧
    (AtWord s u 0x01 x w → exec (.cruYield u) s =
      .next (setUnit u { x with pc := x.pc + 1, st := .yielded, rowcyc := 0, openRow := none, suspendReq := false } s)) ∧
    (AtWord s u 0x02 x w → exec (.cruSeti u) s = .next (setUnit u { x.setReg (wX w) (immWord w) with pc := x.pc + 1 } s)) ∧
    (AtWord s u 0x03 x w → exec (.cruAddi u) s = .next (setUnit u { x.setReg (wX w) (x.reg (wY w) + immWord w) with pc := x.pc + 1 } s)) ∧
    (AtWord s u 0x04 x w → exec (.cruAdd u) s = .next (setUnit u { x.setReg (wX w) (x.reg (wY w) + x.reg (wZ w)) with pc := x.pc + 1 } s)) ∧
    (AtWord s u 0x05 x w →
      (x.reg (wX w) = 1 → exec (.cruLoop u) s = .next (setUnit u { x.setReg (wX w) 0 with pc := x.pc + 1 } s)) ∧
      (x.reg (wX w) ≠ 1 → wImm w < imageLen x → exec (.cruLoop u) s = .next (setUnit u { x.setReg (wX w) (x.reg (wX w) - 1) with pc := wImm w } s))) ∧
    (AtWord s u 0x06 x w → (wImm w < imageLen x → exec (.cruJump u) s = .next (setUnit u { x with pc := wImm w } s)) ∧
      (imageLen x ≤ wImm w → exec (.cruJump u) s = .next (programFault u 3 s))) ∧
    (AtWord s u 0x07 x w →
      (x.reg (wX w) ≠ 0 → exec (.cruBz u) s = .next (setUnit u { x with pc := x.pc + 1 } s)) ∧
      (x.reg (wX w) = 0 → wImm w < imageLen x → exec (.cruBz u) s = .next (setUnit u { x with pc := wImm w } s))) ∧
    (AtWord s u 0x13 x w → exec (.cruPost u) s = .next (setUnit u { x with pc := x.pc + 1, done := (x.done + wImm w) % 2 ^ 32 } s))

/-- RSTR reads its columns into the stream under the grant, and counts the rows that it opens; outside the grant it is a fault 4, past 512
rows a fault 2. STORE_RESULT, STORE_COPY, STORE_ZERO and STORE_REWRITE store the record, the stream, zeros and the marked columns; memory
changes nowhere else. -/
def Obligations.CrucibleStoresStayInGrant : Prop :=
  ∀ (u : Nat) (x : CruUnit) (w : Word) (a n : Nat) (s : State), a = (x.reg (wY w)).toNat / 32 * 32 → n = 32 * (x.reg (wZ w)).toNat → memOk s →
    (AtWord s u 0x08 x w →
      ((n ≠ 0 ∧ (a < x.rdLo ∨ x.rdHi < a + n ∨ ulaEnd < a + n)) → exec (.cruRstr u) s = .next (programFault u 4 s)) ∧
      ((n = 0 ∨ (x.rdLo ≤ a ∧ a + n ≤ x.rdHi ∧ a + n ≤ ulaEnd)) →
        (512 < x.rowcyc + activations x a n → exec (.cruRstr u) s = .next (programFault u 2 (setUnit u { x with rowcyc := 512 } s))) ∧
        (x.rowcyc + activations x a n ≤ 512 → ∃ t, exec (.cruRstr u) s = .next t ∧ OnlyIn [.mem] s t ∧ t.mem.err = s.mem.err ∧
          (getUnit t u).pc = x.pc + 1 ∧ (getUnit t u).rowcyc = x.rowcyc + activations x a n ∧ (getUnit t u).lane.ula = a ∧
          (getUnit t u).lane.bytes = (List.range n).map (fun i => eccByte s (ulaAddr s u a + i)) ∧ (getUnit t u).lane.bad = (columnMarks s (ulaAddr s u a) (n / 32)).2 ∧
          ∀ v, v ≠ u → getUnit t v = getUnit s v))) ∧
    (AtWord s u 0x11 x w → wImm w % 8 = 0 → ∃ t, exec (.cruStoreResult u) s = .next t ∧ OnlyIn [.mem] s t ∧ t.mem.err = s.mem.err ∧
      getUnit t u = { x.writeResult (bits (wImm w) 3 1) 0 (resultRecord x) with pc := x.pc + 1, resHalf := bits (wImm w) 3 1 } ∧
      ∀ v, v ≠ u → getUnit t v = getUnit s v) ∧
    (AtWord s u 0x11 x w → (wImm w % 8 = 1 ∨ wImm w % 8 = 2) → x.lane.bad = none →
      ((n ≠ 0 ∧ (a < x.stLo ∨ x.stHi < a + n ∨ ulaEnd < a + n)) → (wImm w % 8 = 1 → n ≤ x.lane.bytes.length) →
        exec (if wImm w % 8 = 1 then .cruStoreCopy u else .cruStoreZero u) s = .next (programFault u 4 s)) ∧
      ((wImm w % 8 = 1 → n ≤ x.lane.bytes.length) → (n = 0 ∨ (x.stLo ≤ a ∧ a + n ≤ x.stHi ∧ a + n ≤ ulaEnd)) → x.rowcyc + activations x a n ≤ 512 →
        ∃ t, exec (if wImm w % 8 = 1 then .cruStoreCopy u else .cruStoreZero u) s = .next t ∧ OnlyIn [.mem, .cells] s t ∧
          (getUnit t u).pc = x.pc + 1 ∧ (getUnit t u).rowcyc = x.rowcyc + activations x a n ∧
          (∀ b, (b < ulaAddr s u a ∨ ulaAddr s u a + n ≤ b) → readByte t b = readByte s b) ∧
          ∀ i, i < n → ulaAddr s u a + n ≤ memSize → readByte t (ulaAddr s u a + i) = (if wImm w % 8 = 1 then x.lane.bytes.getD i 0 else 0))) ∧
    (AtWord s u 0x11 x w → wImm w % 8 = 3 → x.lane.bad = none →
      ((x.lane.check = false ∨ x.lane.marks = []) → exec (.cruStoreRewrite u) s =
        .next (setUnit u { x with pc := x.pc + 1, lane := { x.lane with marks := [] } } s)) ∧
      (∀ m, x.lane.check = true → x.lane.marks = [m] → x.stLo ≤ x.lane.ula + 32 * m → x.lane.ula + 32 * m + 32 ≤ x.stHi → 32 * m + 32 ≤ x.lane.bytes.length →
        ∃ t, exec (.cruStoreRewrite u) s = .next t ∧ OnlyIn [.mem, .cells] s t ∧ (getUnit t u).lane.marks = [] ∧
          (∀ b, (b < ulaAddr s u (x.lane.ula + 32 * m) ∨ ulaAddr s u (x.lane.ula + 32 * m) + 32 ≤ b) → readByte t b = readByte s b) ∧
          ∀ i, i < 32 → ulaAddr s u (x.lane.ula + 32 * m) + 32 ≤ memSize →
            readByte t (ulaAddr s u (x.lane.ula + 32 * m) + i) = x.lane.bytes.getD (32 * m + i) 0))

/-- The words of the datapath work on the unit alone: LDS takes the scales of the page header, DOT and SSCORE score codes, SCALE, HOOK and
CSEL change scores, MAX and EXP2 make maxima, weights and their sums, ACC adds weighted codes. The lines below nv change, the others stay;
a shape out of range is a program fault 3. -/
def Obligations.CrucibleDatapathWordsCompute : Prop :=
  ∀ (u : Nat) (x : CruUnit) (w : Word) (nv d n : Nat) (h : List Byte) (s : State), nv = (x.reg (wX w)).toNat → d = (x.reg (wY w)).toNat → x.lane.bad = none →
    h = x.opnd (bits (wImm w) 9 1) →
    (AtWord s u 0x09 x w → ((d % 32 ≠ 0 ∨ d = 0 ∨ 576 < d) → exec (.cruLds u) s = .next (programFault u 3 s)) ∧
      (d % 32 = 0 → d ≠ 0 → d ≤ 576 → ∃ t, exec (.cruLds u) s = .next t ∧ OnlyIn [.mem] s t ∧ (getUnit t u).pc = x.pc + 1 ∧
        (getUnit t u).sk = (List.range (d / 32)).map (fun g => fld x.lane.bytes (16 + 2 * g) 2) ∧ (getUnit t u).pageNo = fld x.lane.bytes 0 4)) ∧
    (AtWord s u 0x0A x w → n = wImm w % 128 →
      ((shapeOk nv d = false ∨ n = 0 ∨ 64 < n) → exec (.cruDot u) s = .next (programFault u 3 s)) ∧
      (shapeOk nv d = true → 1 ≤ n → n ≤ 64 → bits (wImm w) 7 2 ≠ 2 → ∃ t, exec (.cruDot u) s = .next t ∧ OnlyIn [.mem] s t ∧
        (getUnit t u).pc = x.pc + 1 ∧ (getUnit t u).nv = nv ∧ (getUnit t u).d = d ∧ (getUnit t u).ops = (x.ops + 2 * nv * d * n) % 2 ^ 64 ∧
        ∀ v i, v < 16 → i < 64 → sbOf (getUnit t u) v i = (if v < nv ∧ i < n then
          scaledDot x.sk (queryCodes h d v) ((List.range d).map fun c => laneCode x.lane.bytes 64 (bits (wImm w) 7 2) d i c) else sbOf x v i))) ∧
    (AtWord s u 0x0B x w → n = wImm w % 128 → shapeOk nv d = true → 1 ≤ n → n ≤ 64 → bit (wImm w) 9 = true →
      ∃ t, exec (.cruAcc u) s = .next t ∧ OnlyIn [.mem] s t ∧ (getUnit t u).pc = x.pc + 1 ∧ (getUnit t u).ops = (x.ops + 2 * nv * d * n) % 2 ^ 64 ∧
        ∀ v c, v < nv → c < d → accOf (getUnit t u) v c = (BitVec.ofInt 32 ((List.range n).foldl (fun t i => t + (wbOf x v i : Int) * laneCode x.lane.bytes
          (if 32 * x.lane.cols < 64 + 2 * planeBytes (bits (wImm w) 7 2) d then 64 else 64 + planeBytes (bits (wImm w) 7 2) d) (bits (wImm w) 7 2) d i c) 0)).toInt) ∧
    (nvOk nv = false →
      (AtWord s u 0x0C x w → exec (.cruScale u) s = .next (programFault u 3 s)) ∧ (AtWord s u 0x0D x w → exec (.cruHook u) s = .next (programFault u 3 s)) ∧
      (AtWord s u 0x0E x w → exec (.cruCsel u) s = .next (programFault u 3 s)) ∧ (AtWord s u 0x0F x w → exec (.cruMax u) s = .next (programFault u 3 s)) ∧
      (AtWord s u 0x10 x w → exec (.cruExp2 u) s = .next (programFault u 3 s))) ∧
    (nvOk nv = true →
      (AtWord s u 0x0C x w → exec (.cruScale u) s = .next (setUnit u (mapScores nv (fun v i =>
        fMul (ctOf (x.opnd x.half) (if wImm w = 0 then (x.reg (wZ w)).toNat + v else (x.reg (wZ w)).toNat)) (sbOf x v i)) x).next s)) ∧
      (∀ z op arg, AtWord s u 0x0D x w → z = (x.reg (wZ w)).toNat → z < 16 → op = fld h (2368 + 8 * z) 1 → arg = BitVec.ofNat 32 (fld h (2372 + 8 * z) 4) →
        (op ∉ [0, 1, 2, 6, 7, 8, 9] → exec (.cruHook u) s = .next (programFault u 3 s)) ∧
        (op = 0 → exec (.cruHook u) s = .next (setUnit u { x with pc := x.pc + 1, half := bits (wImm w) 9 1 } s)) ∧
        (op ∈ [1, 2, 6, 7, 8, 9] → ∃ t, exec (.cruHook u) s = .next t ∧ OnlyIn [.mem] s t ∧ (getUnit t u).pc = x.pc + 1 ∧
          ∀ v i, v < 16 → i < 64 → sbOf (getUnit t u) v i = (if v < nv then
            hookOp op arg (ctOf h (32 + v)) ((qpOf h v : Int) - ((64 * x.pageNo + i : Nat) : Int)) (sbOf x v i) else sbOf x v i))) ∧
      (AtWord s u 0x0E x w → ∃ t, exec (.cruCsel u) s = .next t ∧ OnlyIn [.mem] s t ∧ (getUnit t u).pc = x.pc + 1 ∧
        ∀ v i, v < nv → i < 64 → sbOf (getUnit t u) v i =
          (if (if wImm w = 0 then qpOf (x.opnd x.half) v < (x.reg (wZ w)).toNat + i else (x.reg (wZ w)).toNat ≤ i) then fNegInf else sbOf x v i)) ∧
      (AtWord s u 0x0F x w → ∃ t, exec (.cruMax u) s = .next t ∧ OnlyIn [.mem] s t ∧ (getUnit t u).pc = x.pc + 1 ∧
        ∀ v, v < nv → (getUnit t u).m.getD v 0 = maxScore ((List.range 64).map (sbOf x v))) ∧
      (AtWord s u 0x10 x w → ∃ t, exec (.cruExp2 u) s = .next t ∧ OnlyIn [.mem] s t ∧ (getUnit t u).pc = x.pc + 1 ∧
        ∀ v, v < nv → (∀ i, i < 64 → wbOf (getUnit t u) v i = exp2Weight (x.m.getD v 0) (sbOf x v i)) ∧
          (getUnit t u).ps.getD v 0 = sumN ((List.range 64).map (fun i => exp2Weight (x.m.getD v 0) (sbOf x v i))))) ∧
    (AtWord s u 0x12 x w → n = (x.reg (wZ w)).toNat →
      ((shapeOk nv d = false ∨ 2048 < n) → exec (.cruSscore u) s = .next (programFault u 3 s)) ∧
      (shapeOk nv d = true → n ≤ 2048 → ∃ t, exec (.cruSscore u) s = .next t ∧ OnlyIn [.mem] s t ∧ (getUnit t u).pc = x.pc + 1 ∧
        (getUnit t u).ops = (x.ops + 4 * nv * d * n) % 2 ^ 64 ∧ (getUnit t u).resHalf = bits (wImm w) 9 1))

/-- The command path of a unit: a column written or read is retried once, and the second failure is a unit fault 7. CRW of column 0 may start,
abort or suspend the program; OPW and IMW fill the operand half and the program store of a unit that runs none; CRR and RBR read a column
and change no unit. A unit that yields goes on when released; one asked to suspend stops at a row boundary and resumes where it stood with
one refresh done; a bank that the unit holds owes its refresh, and at 7 the unit is asked to suspend. A stall, and more than CLKBOUND
clocks, are unit faults 7 and 5. After DONE the partials are read and the unit is IDLE. -/
def Obligations.UnitsAreCommandedAndBounded : Prop :=
  (∀ (u col : Nat) (x : CruUnit) (s : State), mainOn s = true → u < 1152 → x = getUnit s u →
     (∀ h data bad c, 2 ≤ bad → c ∈ [Instr.crw u col data bad, .crr u col bad, .opw u h col data bad, .rbr u h col bad, .imw u col data bad] →
       exec c s = .next (unitFault u (stopUnit u 7 s))) ∧
     (∀ data bad, bad < 2 → col ≠ 0 → exec (.crw u col data bad) s = .next (setUnit u (writeColumn col data x) s)) ∧
     (∀ data bad, bad < 2 → bit (fld data 0 4) 11 = false → bit (fld data 0 4) 12 = false →
       exec (.crw u 0 data bad) s = .next (if bit (fld data 0 4) 10 then goUnit (fld data 0 4 % 1024) u (setUnit u (writeColumn 0 data x) s)
         else setUnit u (writeColumn 0 data x) s)) ∧
     (∀ entry, unitFree x = true → exec (.crucibleGo u entry) s = .next (setUnit u { startUnit entry.toNat x with reruns := 0 } s)) ∧
     (∀ entry, unitFree x = false → exec (.crucibleGo u entry) s = .next s) ∧
     (unitFree x = false → exec (.crucibleAbort u) s = .next (stopUnit u 6 s)) ∧
     (unitFree x = true → exec (.crucibleAbort u) s = .next s) ∧
     (x.st = .run → exec (.crucibleSuspend u) s = .next (setUnit u { x with suspendReq := true } s)) ∧
     (∀ bad, bad < 2 → exec (.crr u col bad) s = .next (gotColumn ((registerArea x s.freeCnt).drop (32 * col)) (stepFree s))) ∧
     (∀ h bad, bad < 2 → exec (.rbr u h col bad) s = .next (gotColumn ((if h = 0 then x.res0 else x.res1).drop (32 * col)) s)) ∧
     (∀ h data bad, bad < 2 → h < 2 → col < 78 → data.length = 32 → ∃ t, exec (.opw u h col data bad) s = .next t ∧ OnlyIn [.mem] s t ∧
       slice ((getUnit t u).opnd h) (32 * col) 32 = data ∧ (getUnit t u).opnd (1 - h) = x.opnd (1 - h) ∧ ∀ v, v ≠ u → getUnit t v = getUnit s v) ∧
     (∀ data bad, bad < 2 → unitFree x = true → col < 128 → ∃ t, exec (.imw u col data bad) s = .next t ∧ OnlyIn [.mem] s t ∧
       (∀ i, i < 8 → tget (getUnit t u).prog (8 * col + i) = some (BitVec.ofNat 32 (fld data (4 * i) 4))) ∧
       (∀ j, (j < 8 * col ∨ 8 * col + 8 ≤ j) → tget (getUnit t u).prog j = tget x.prog j) ∧ ∀ v, v ≠ u → getUnit t v = getUnit s v)) ∧
  (∀ (u : Nat) (x : CruUnit) (s : State), mainOn s = true → u < 1152 → x = getUnit s u →
     (x.st = .yielded → ∃ t, exec (.yieldRelease u) s = .next t ∧ OnlyIn [.mem] s t ∧ getUnit t u = { x with st := .run } ∧ ∀ b, b < 4 → owedBy t u b = 0) ∧
     (∀ b, b < 4 → (holdsBank x b = false → ∃ t, exec (.refreshDue u b) s = .next t ∧ OnlyIn [.mem] s t ∧ owedBy t u b = 0 ∧ getUnit t u = x) ∧
       (holdsBank x b = true → ∃ t, exec (.refreshDue u b) s = .next t ∧ OnlyIn [.mem] s t ∧ owedBy t u b = min 8 (owedBy s u b + 1) ∧
         (getUnit t u).suspendReq = (x.suspendReq || decide (6 ≤ owedBy s u b)) ∧ (getUnit t u).pc = x.pc)) ∧
     (x.st = .run → x.suspendReq = true → ∃ t, exec (.cruRowBoundarySuspend u) s = .next t ∧ OnlyIn [.mem, .regs] s t ∧ (getUnit t u).st = .suspended ∧
       (getUnit t u).savePc = x.pc ∧ (getUnit t u).saveRow = x.openRow ∧ cnt t 0x602410 = cnt s 0x602410 + 1) ∧
     (x.st = .suspended → ∃ t, exec (.cruSuspendResume u) s = .next t ∧ OnlyIn [.mem] s t ∧ (getUnit t u).st = .run ∧ (getUnit t u).pc = x.savePc ∧
       (getUnit t u).openRow = x.saveRow ∧ (getUnit t u).s = x.s ∧ owedBy t u (owingBank s u) = owedBy s u (owingBank s u) - 1) ∧
     (x.st = .run → exec (.cruStallTimeout u) s = .next (unitFault u (stopUnit u 7 s))) ∧
     (x.st = .run → x.clkbound ≠ 0 → exec (.cruClockBound u) s = .next (unitFault u (stopUnit u 5 s))) ∧
     (x.st = .done → ∃ t, exec (.cruResultRead u) s = .next t ∧ OnlyIn [.mem] s t ∧ getUnit t u = { x with st := .idle } ∧
       tget t.mem.finished u = some ((List.range x.nv).map (finishRecord (if x.resHalf = 0 then x.res0 else x.res1) x.d))))

/-- A replaceable part that faults goes out of service, is counted, and serves no logical number any more while another of its kind remains;
the steps that held work on it are struck after that. The part watchdog counts and declares the fault; a joker that is ready is no longer
waited for. Parts without spares: a package that fails is FAILED, a VCORE phase that is lost is counted, and each fault adds one to
PART_FAULTS; the MSS watchdog stops management alone. A failed controller takes its four packages with it. -/
def Obligations.FailedPartsAreReplacedOrOffline : Prop :=
  (∀ (k : PartKind) (inst : Nat) (s : State), k ∈ [.tile, .mrg, .ldl, .pat, .cen, .gw] → mainOn s = true →
     exec (.jokerSwitchDone k inst) s =
       .next { s with parts := { s.parts with loading := s.parts.loading.filter fun x => x != (k.code, inst) } } ∧
     (serving s = true → inst < physicals k.code → (failedOf s k.code).contains inst = false →
       (∃ u, exec (.partWatchdog k inst) s = .next (declareFault k inst 3 u) ∧ OnlyIn [.out, .host, .mgmt, .regs] s u ∧ u.regs.act = s.regs.act ∧
         cnt u 0x1B8 = cnt s 0x1B8 + 1) ∧
       (∀ cause, (∃ p, p < physicals k.code ∧ p ≠ inst ∧ (failedOf s k.code).contains p = false) →
         ∃ u, exec (.partFault k inst cause) s = .next (settleShares k.code (strikeSteps
             (if (servedBy s k.code inst).isEmpty then [] else struckKeys s (kindOps k.code)) k.code (servedBy s k.code inst) u)) ∧
           OnlyIn [.out, .host, .mgmt, .regs, .act, .parts] s u ∧ failedOf u k.code = failedOf s k.code ++ [inst] ∧ cnt u 0x180 = cnt s 0x180 + 1 ∧
           ∀ l, l < logicals k.code → servingPhys u k.code l ≠ inst))) ∧
  (∀ s : State, mainOn s = true →
     (∀ p, p < 16 → pkgState s p ≠ 3 →
       exec (.packageFault p) s = .next (strikeSteps (struckKeys s anyOps) 7 [p / 4] (pkgDown p 3 5 (cntAdd 0x180 1 s))) ∧
       (pkgState s p ≠ 0 → pkgState (pkgDown p 3 5 (cntAdd 0x180 1 s)) p = 3 ∧
         OnlyIn [.regs, .mgmt] s (pkgDown p 3 5 (cntAdd 0x180 1 s)) ∧ (pkgDown p 3 5 (cntAdd 0x180 1 s)).regs.act = s.regs.act)) ∧
     (∀ m, m < 4 → ∃ u, exec (.mccFault m) s = .next (failPackage (4 * m + 3) 1 (failPackage (4 * m + 2) 1 (failPackage (4 * m + 1) 1 (failPackage (4 * m) 1 u)))) ∧
       OnlyIn [.out, .host, .mgmt, .regs] s u ∧ u.regs.act = s.regs.act ∧ cnt u 0x180 = cnt s 0x180 + 1) ∧
     (s.parts.phasesLost < 16 → ∃ t, exec .powerPhaseLoss s = .next t ∧ OnlyIn [.out, .host, .mgmt, .regs, .parts, .pins, .st] s t ∧
       t.parts.phasesLost = s.parts.phasesLost + 1 ∧ cnt t 0x180 = cnt s 0x180 + 1 ∧ t.mgmt.st ≠ .ready) ∧
     (s.mgmt.st ≠ .recovery → s.mgmt.st ≠ .off → s.mgmt.mssRunning = true →
       exec .mssWatchdog s = .next { s with mgmt := { s.mgmt with mssRunning := false, mssCause := 1, pausedAt := s.clk.mss } }))

/-- The step watchdog counts and strikes its step at its limit; the wait watchdog counts and loses every producer that has not answered; the
replay that follows runs the step again from its recorded inputs and counts. Memory errors: an uncorrectable burst lies at its address
with no byte of memory changed; a corrected buffer error does nothing; a retrained channel that is in time does nothing; an audit without
pages wraps. Scrub and retirement: a scrub of a granule without an error changes nothing but the place it has reached; a row is copied
byte for byte, both rows read as the old one did, and the copy serves in its place. -/
def Obligations.StepsAreReplayedAndErrorsMet : Prop :=
  (∀ (ring : Nat) (rseq : BitVec 32) (c : Cmd) (s : State), Runs s ring rseq c →
     (c.op ∈ [0x10, 0x11, 0x18, 0x1A, 0x20, 0x21, 0x22, 0x23] →
       ∃ u, exec (.stepWatchdog ring rseq) s = .next (strikeCmd c 17 u) ∧ OnlyIn [.out, .host, .mgmt, .regs, .clk] s u ∧ u.regs.act = s.regs.act ∧
         cnt u 0x1A8 = cnt s 0x1A8 + 1 ∧ c.admT + stepLimit s c ≤ now u) ∧
     (∀ x, c.subs = [x] → x.answer = none → x.lost = false → x.busy = false →
       ∃ u, exec (.waitWatchdog ring rseq) s = .next (loseSub c 0 u) ∧ OnlyIn [.out, .host, .mgmt, .regs, .clk] s u ∧ u.regs.act = s.regs.act ∧
         cnt u 0x1B0 = cnt s 0x1B0 + 1 ∧ c.admT + waitNs s ≤ now u) ∧
     (∀ b : Cmd, b = { c with faulted := true } → c.subs = [] → c.op ≠ 0x20 → s.parts.loading = [] →
       exec (.stepReplayStart ring rseq) (setCmd b s) =
         .next (setCmd { b with faulted := false, replays := b.replays + 1, admT := now s, work := restartHands (setCmd b s) b.work }
           (cntAdd 0x190 1 (setCmd b s))))) ∧
  (∀ s : State, serving s = true →
     (∀ a, a < memSize → ∃ u, exec (.ueBurst a .other) s = .next (countUe (pkgOfAddr a) u) ∧ OnlyIn [.out, .host, .mgmt, .mem] s u ∧
       u.mem = { s.mem with err := tset s.mem.err (a / 32) twoErrors }) ∧
     (∀ n, n < 64 → s.parts.slicesOff.contains n = false →
       exec (.sharedBufferEccError n .corrected) s = .next s ∧
       (((tgetD s.parts.sliceErr n []).filter fun t => decide (now s < t + 1000000000)).length < 15 →
         exec (.sharedBufferEccError n .mirrored) s = .next { s with parts := { s.parts with
           sliceErr := tset s.parts.sliceErr n (((tgetD s.parts.sliceErr n []).filter fun t => decide (now s < t + 1000000000)) ++ [now s]) } })) ∧
     (∀ ch, ch < 64 → exec (.retrainingPiece ch false) s = .next s ∧
       (deckRuns s = true → exec (.retrainingPiece ch true) s = .next (strikeCards 7 (ch / 16) s))) ∧
     (actBits s 0x900100 0 1 = 1 → auditPages s = [] → exec .castAuditPiece s = .next (setValBits 0x900104 31 1 1 s))) ∧
  (∀ (u : Nat) (s : State), mainOn s = true → u < 1152 → memOk s →
     (∀ g, g < 6291456 → g % 1024 = logicalUnit s u → errBursts s (8192 * g) 8192 = [] →
       exec (.scrubLaunch u g) s = .next { s with mem := { s.mem with scrubPos := g } }) ∧
     (∀ src dst, src < 393216 → dst < 393216 → src ≠ dst → errBursts s (rowAddr s u src / 32) 128 = [] →
       ∃ t, exec (.rowRetireCopy u src dst) s = .next t ∧ OnlyIn [.out, .host, .mgmt, .regs, .mem, .cells] s t ∧ t.regs.act = s.regs.act ∧
         tget t.mem.retiredRows (2 ^ 20 * u + src) = some dst ∧
         (∀ i, i < 4096 → readByte t (rowAddr s u dst + i) = readByte s (rowAddr s u src + i) ∧
           readByte t (rowAddr s u src + i) = readByte s (rowAddr s u src + i)) ∧
         ∀ a, (a < rowAddr s u dst ∨ rowAddr s u dst + 4096 ≤ a) → readByte t a = readByte s a))

/-- Images, fences and switches end at their last part: a free unit takes the image that VERSION_PEND names; the last engine of a class ends
its fence; a remap takes effect when both instances are idle; a package recalibrated is OFFLINE. -/
def Obligations.SwitchesEndAtAnIdlePoint : Prop :=
  ∀ s : State, mainOn s = true →
    (∀ pkg unit i, pkg < 16 → unit < 72 → s.mem.switching.contains pkg = true → unitFree (getUnit s (72 * pkg + unit)) = true →
      crucImage s (imgVersion s pkg) = some i →
      ∃ t, exec (.crucibleImageLoad pkg unit) s = .next t ∧ OnlyIn [.mem, .regs] s t ∧ t.regs.act = s.regs.act ∧
        (getUnit t (72 * pkg + unit)).prog = imageProg i.words ∧ (getUnit t (72 * pkg + unit)).imgver = imgVersion s pkg ∧
        tget t.mem.imgLoaded (72 * pkg + unit) = some (imgVersion s pkg) ∧ t.mem.cells = s.mem.cells ∧
        ∀ v, v ≠ 72 * pkg + unit → getUnit t v = getUnit s v) ∧
    (∀ cls e l, tget s.mgmt.fences cls = some l → l.contains e = true → deckRuns s = false →
      (l.erase e ≠ [] → exec (.microcodeFenceLoad cls e) s = .next { s with mgmt := { s.mgmt with fences := tset s.mgmt.fences cls (l.erase e) } }) ∧
      (l.erase e = [] → ∃ t, exec (.microcodeFenceLoad cls e) s = .next t ∧ OnlyIn [.mgmt, .regs] s t ∧ t.regs.act = s.regs.act ∧
        tget t.mgmt.fences cls = none ∧ valBits t (0xB00100 + 4 * cls) 1 1 = 1)) ∧
    (∀ l, (tget s.mem.remapOld l).isSome = true → (∀ i, i < 9 → (getUnit s (9 * l + i)).st = .idle) →
      exec (.remapSwitch .crucible l) s = .next { s with mem := { s.mem with remapOld := tdel s.mem.remapOld l } }) ∧
    (∀ k l old, k ≠ .crucible → s.parts.switching = [(k.code, l, old)] → atBoundary s = true →
      (servedBy { s with parts := { s.parts with switching := [] } } k.code (physOf (actW s) k.code l)).length ≤ 1 →
      exec (.remapSwitch k l) s = .next (settleShares k.code { s with parts := { s.parts with switching := [] } })) ∧
    (∀ p, p < 16 → pkgState s p = 2 →
      (actBits s (0xB00200 + 4 * p) 0 2 = 2 → ∃ t, exec (.pkgRecalDone p true) s = .next t ∧ OnlyIn [.mgmt, .regs] s t ∧ t.regs.act = s.regs.act ∧
        pkgState t p = 1) ∧
      (actBits s (0xB00200 + 4 * p) 0 2 = 1 → ∃ t, exec (.pkgRecalDone p false) s = .next t ∧ OnlyIn [.mgmt, .regs] s t ∧ t.regs.act = s.regs.act ∧
        pkgState t p = 1))

/-- Bring-up: a step that ends starts the next; step 2 leaves STANDBY, a microcode failure returns there; the last step of a cold bring-up
serves, and region 65,535 is there. Power and clock inputs: the loss of 48 V is a cold reset with cause 13, a short shallow dip is ridden
through, the loss of the oscillator is a cold reset with cause 20, and the loss of standby power leaves OFF with ownership gone; each
return alone starts nothing without AUTO_ON. Standby power boots the MSS from its active slot. -/
def Obligations.BringupAndPowerSetTheState : Prop :=
  (∀ (imgs : List RingImage) (s : State), s.mgmt.held = false → s.mgmt.st ≠ .off →
     (s.mgmt.stepNo = 1 → s.pins.vin48 = true → exec (.bringupStepDone .ok imgs) s = .next (toStep 2 s)) ∧
     (s.mgmt.stepNo = 2 → s.pins.oscGood = true → s.mgmt.st = .standby →
       ∃ t, exec (.bringupStepDone .ok imgs) s = .next t ∧ OnlyIn [.regs, .mgmt, .pins, .st] s t ∧ t.mgmt.st = .bringup ∧ t.mgmt.stepNo = 3) ∧
     (s.mgmt.stepNo = 3 → exec (.bringupStepDone .ok imgs) s = .next (toStep 4 s) ∧
       exec (.bringupStepDone .microcodeFailed imgs) s = .next (coldReset 5 s)) ∧
     (s.mgmt.stepNo = 4 → exec (.bringupStepDone .ok imgs) s = .next (toStep 5 s)) ∧
     (s.mgmt.stepNo = 5 → exec (.bringupStepDone .ok imgs) s =
       .next (if s.mgmt.warm then toStep 7 (fillAndTrain (loadCrucibles s)) else toStep 6 (loadCrucibles s))) ∧
     (s.mgmt.stepNo = 6 → s.mgmt.warm = false → ∃ t, exec (.bringupStepDone .ok imgs) s = .next t ∧ t.mem.cells = [] ∧ t.mgmt.stepNo = 7 ∧
       OnlyIn [.mem, .cells, .fab, .regs, .out, .mgmt] s t) ∧
     (s.mgmt.stepNo = 7 → s.mgmt.st = .bringup → s.mgmt.warm = false → ∃ t, exec (.bringupStepDone .ok imgs) s = .next t ∧
       OnlyIn [.rma, .mgmt, .regs, .pins, .host, .st] s t ∧ t.mgmt.st = servingState s ∧ t.mgmt.stepNo = 0 ∧
       (getRegion t mgmtRegion).used = true ∧ (getRegion t mgmtRegion).len = 17168)) ∧
  (∀ s : State,
     (mainOn s = true → exec .mainPowerLoss s = .next (coldReset 13 { s with pins := { s.pins with vin48 := false } }) ∧
       exec .nodeOscFailure s = .next (coldReset 20 { s with pins := { s.pins with oscGood := false } })) ∧
     (∀ us mv, us ≤ 100 → 30000 < mv → exec (.vin48Dip us mv) s = .next s) ∧
     (∀ us mv, 100 < us ∨ mv ≤ 30000 → exec (.vin48Dip us mv) s = exec .mainPowerLoss s) ∧
     (actBits s 0xB0000C 0 1 = 0 → exec .vin48Return s = .next { s with pins := { s.pins with vin48 := true } } ∧
       exec .nodeOscRecovery s = .next { s with pins := { s.pins with oscGood := true } }) ∧
     (s.mgmt.st ≠ .off → ∃ t, exec .standbyPowerLoss s = .next t ∧ t.mgmt.st = .off ∧ t.own = {} ∧ t.clk = {} ∧ t.mem = {} ∧ t.cmds = [] ∧
       t.mgmt.sessions = [] ∧ t.mgmt.log = s.mgmt.log ∧ t.mgmt.logBatch = [] ∧ t.assay.cnt = s.assay.cnt ∧ t.pins.vstby = false) ∧
     (∀ sris smb, s.mgmt.st = .off → actBits s 0xB0000C 0 1 = 0 → (fwSlot s 1 (actSlot s 1)).loadable = true → valBits s 0xA00644 0 8 ≠ 4 →
       ∃ t, exec (.standbyPowerGood true sris smb) s = .next t ∧ OnlyIn [.pins, .mgmt, .tap, .regs, .sec, .freeCnt, .st] s t ∧ t.mgmt.st = .standby ∧
         t.pins.vstby = true ∧ t.mgmt.mssRunning = true))

/-- PCIe pins: PERST#, a hot reset, a link down and a lost reference clock in common-clock mode are a warm reset of a node that serves, with
their causes; FLR of a VF ends the commands of its rings and clears their EN. JTAG: BYPASS, IDCODE and, in TEST, SAMPLE answer and change
nothing else; the first EXTEST, CLAMP or INTEST in TEST ends the data path as a cold reset does, and the node stays in TEST. Sensors: a
sample ends a millisecond of MSS time, shows the reading with its bit 16, and sets WARN and LIMIT at their thresholds; a trip takes the
rails off with cause 14 and drives THERM_TRIP#. The MSS writes the log that it batched. -/
def Obligations.LinksPinsAndSensorsAct : Prop :=
  (∀ s : State, s.mgmt.st = .ready →
     exec .perstAssert s = .next (warmReset 1 { s with host := { s.host with perst := true, linkUp := false } }) ∧
     exec .perstDeassert s = .next { s with host := { s.host with perst := false } } ∧
     (s.host.linkUp = true →
       exec (.pcieLinkDown true) s = .next (warmReset 2 { s with host := { s.host with linkUp := false } }) ∧
       exec (.pcieLinkDown false) s = .next (warmReset 3 { s with host := { s.host with linkUp := false } }) ∧
       (s.pins.sris = false → ∃ u, exec .refclkLoss s = .next (warmReset 3 u) ∧ u.host.linkUp = false ∧ u.pins.refclk = false ∧ u.cmds = s.cmds)) ∧
     (s.host.perst = false → exec .pcieLinkUp s =
       .next { s with host := { s.host with linkUp := true }, pins := { s.pins with refclk := true } }) ∧
     (∀ i fn mine, (i = .flrPf ∧ fn = 0 ∧ mine = ownerRing s) ∨ (∃ v, 1 ≤ v ∧ v ≤ 64 ∧ i = .flrVf v ∧ fn = v ∧ mine = fun n => ringAssign s n == 128 + (v - 1)) →
       (∀ e ∈ s.cmds, e.2.op ≠ 0x50 ∧ e.2.op ≠ 0x62) →
       ∃ t, exec i s = .next t ∧ t.mem = s.mem ∧ t.mgmt.st = .ready ∧ t.own = s.own ∧ t.tap = s.tap ∧
         t.cmds = s.cmds.filter (fun (k, _) => !(flrRings s mine).contains (k / 2 ^ 32)) ∧
         t.host.msix = tfilter s.host.msix (fun k _ => k / 64 != fn) ∧
         ∀ n ∈ flrRings s mine, (ringCfg t n).en = false ∧ (getRing t n).used = 0)) ∧
  (∀ s : State,
     (s.mgmt.st ≠ .off → exec .jtagBypass s = .next (emit (.jtag 0) s) ∧ exec .jtagIdcode s = .next (emit (.jtag Config.idcode.toNat) s)) ∧
     (s.mgmt.st = .test → ∃ t v, exec .jtagSamplePreload s = .next t ∧ OnlyIn [.out, .freeCnt] s t ∧ t.out = s.out ++ [.jtag v]) ∧
     (∀ i ∈ [Instr.jtagExtest, .jtagClamp, .jtagIntest],
       (s.mgmt.st ≠ .test → exec i s = .next s) ∧
       (s.mgmt.st = .test → s.mgmt.jtagDriven = false → ∃ t, exec i s = .next t ∧ t.mgmt.st = .test ∧ t.mgmt.jtagDriven = true ∧ t.mem = {} ∧
         t.cmds = [] ∧ t.seqs = [] ∧ t.deck = {} ∧ t.own = s.own ∧ valW t 0xA00128 = valW s 0xA00128))) ∧
  (∀ s : State, s.mgmt.st ≠ .off →
     (∀ x : SensorVal, x.idx < 30 → ∃ t, exec (.telemetrySample [x]) s = .next t ∧ OnlyIn [.clk, .regs, .mgmt, .sec, .freeCnt] s t ∧
       t.regs.act = s.regs.act ∧ s.clk.mss < t.clk.mss ∧ valBits t (0xB01000 + 4 * x.idx) 0 16 = x.val.toNat ∧
       valBits t (0xB01000 + 4 * x.idx) 16 1 = 1 ∧
       (x.idx < 4 → valBits t (0xB01000 + 4 * x.idx) 17 1 =
         b2n (threshBit (valBits s (0xB01000 + 4 * x.idx) 17 1 == 1) x.val.toInt 800 24))) ∧
     (∀ i (v : BitVec 16), i < 4 → 880 ≤ v.toInt → mainOn s = true → ∃ u, exec (.thermalTrip i v) s =
         .next (emit (.pin "THERM_TRIP#" false) { coldReset 14 u with pins := { (coldReset 14 u).pins with thermTrip := true } }) ∧
       OnlyIn [.mgmt, .out] s u) ∧
     (s.mgmt.mssRunning = true → s.mgmt.logBatch ≠ [] → ∃ t, exec .eventLogFlush s = .next t ∧ OnlyIn [.out, .mgmt] s t ∧ t.mgmt.logBatch = [] ∧
       t.mgmt.log = (s.mgmt.log ++ s.mgmt.logBatch).drop ((s.mgmt.log ++ s.mgmt.logBatch).length - 65536)))

/-- The Assay takes the first record of the tap: a COUNT adds to its counter modulo 2^64, OPEN and CLOSE sign statements and set ACTIVE, HALT
and RESUME sign one for each ACTIVE partition, RESTART ends all; a record that is not new is discarded. The tap: a flush places one COUNT
record for each accumulator that is not zero and empties it; metering resumes at 1,024 entries or fewer with a RESUME record. -/
def Obligations.AssayTakesRecordsInOrder : Prop :=
  (∀ (r : TapRec) (l : List TapRec) (s : State), s.tap.queue = r :: l → assayAvail s = true → mainOn s = true → s.tap.heldHalt = [] → s.tap.heldLevel = [] →
     s.sec.releases = [] →
     (∀ q i, s.assay.lastSeq = some q → serialLe r.seq q = true →
       (r.typ, i) ∈ [(1, Instr.assayRxCount), (3, .assayRxOpen 0), (4, .assayRxClose), (5, .assayRxHalt), (6, .assayRxResume)] →
       exec i s = .next (emit (.tapRec (tapBytes r)) { s with tap := { s.tap with queue := l } })) ∧
     (s.assay.lastSeq = some (r.seq - 1) →
       (r.typ = 1 → ∃ t, exec .assayRxCount s = .next t ∧ OnlyIn [.tap, .assay, .out] s t ∧ t.tap.queue = l ∧ t.assay.lastSeq = some r.seq ∧
         t.assay.lost = s.assay.lost % 2 ^ 32 ∧
         t.assay.cnt = tset s.assay.cnt (12 * r.part + r.res) ((tgetD s.assay.cnt (12 * r.part + r.res) 0 + r.value) % 2 ^ 64)) ∧
       (∀ t0, r.typ = 2 → ∃ t, exec (.assayRxLevel t0) s = .next t ∧ OnlyIn [.tap, .assay, .out] s t ∧ tgetD t.assay.level r.part 0 = r.value ∧
         tgetD t.assay.cnt (12 * r.part) 0 = (tgetD s.assay.cnt (12 * r.part) 0 +
           (tgetD s.assay.acc r.part 0 + tgetD s.assay.level r.part 0 * min (t0 - tgetD s.assay.lastT r.part t0) 2000) / 1000) % 2 ^ 64) ∧
       (∀ t0, r.typ = 3 → ∃ t, exec (.assayRxOpen t0) s = .next t ∧ OnlyIn [.tap, .assay, .out] s t ∧ t.assay.aseq = s.assay.aseq + 1 ∧
         t.assay.active.contains r.part = true ∧ tgetD t.assay.level r.part 1 = 0 ∧ t.assay.cnt = s.assay.cnt) ∧
       (r.typ = 4 → ∃ t, exec .assayRxClose s = .next t ∧ OnlyIn [.tap, .assay, .out] s t ∧ t.assay.aseq = s.assay.aseq + 1 ∧
         t.assay.active = s.assay.active.filter (· != r.part) ∧ t.assay.cnt = s.assay.cnt) ∧
       (r.typ = 5 → ∃ t, exec .assayRxHalt s = .next t ∧ OnlyIn [.tap, .assay, .out] s t ∧ t.assay.aseq = s.assay.aseq + s.assay.active.length ∧
         t.assay.cnt = s.assay.cnt) ∧
       (r.typ = 6 → ∃ t, exec .assayRxResume s = .next t ∧ OnlyIn [.tap, .assay, .out] s t ∧ t.assay.aseq = s.assay.aseq + s.assay.active.length ∧
         t.assay.cnt = s.assay.cnt)) ∧
     (∀ t0, r.typ = 7 → ∃ t, exec (.assayRxRestart t0) s = .next t ∧ OnlyIn [.tap, .assay, .out] s t ∧ t.assay.restartFlag = List.range 64 ∧
       t.assay.active = [] ∧ t.assay.lastSeq = some r.seq)) ∧
  (∀ s : State, mainOn s = true →
     (∀ p r, flushList s = [(p, some r)] → s.tap.queue.length < 3968 →
       ∃ t, exec .tapFlush s = .next t ∧ OnlyIn [.tap] s t ∧ t.tap.acc = tdel s.tap.acc (12 * p + r) ∧ t.tap.seq = s.tap.seq + 1 ∧
         t.tap.queue = s.tap.queue ++
           [{ typ := 1, part := p, res := r, seq := s.tap.seq, value := tgetD s.tap.acc (12 * p + r) 0 % 2 ^ 64 }]) ∧
     (s.tap.halted = true → s.tap.queue.length ≤ 1024 →
       ∃ t, exec .meteringResume s = .next t ∧ OnlyIn [.tap, .out, .host, .mgmt] s t ∧ t.tap.halted = false ∧
         t.tap.queue = s.tap.queue ++ [{ typ := 6, part := 0, res := 0, seq := s.tap.seq, value := 0 }]))

/-- The Assay by itself: its ready and heartbeat lines, a periodic statement for each ACTIVE partition, the save of its counters, and the fuse
that a breach of its seal burns once. The Assay's port: statements, the certificate and the status are answers that change no counter; a
patch is taken in pieces and, where it verifies, announced and held for the restart. MCTP control messages at the node's port and at the
Assay's: an endpoint ID other than 0 and 0xFF is kept and told; the other answers change nothing. -/
def Obligations.AssayAnswersAtItsPort : Prop :=
  (∀ s : State, s.pins.vstby = true →
     exec .assayHeartbeatLoss s = .next { s with tap := { s.tap with beat := false } } ∧
     exec .assayHeartbeatReturn s = .next { s with tap := { s.tap with beat := true } } ∧
     (∀ b, exec (.assayReadyChange b) s = .next { s with tap := { s.tap with ready := b } }) ∧
     exec .assayNvmSave s = .next { s with assay := { s.assay with nvm := s.assay.cnt } } ∧
     (s.assay.sealBroken = false → exec .assaySealBreach s =
       .next (emit (.fuse "SEAL_BROKEN" 0) { s with assay := { s.assay with sealBroken := true } })) ∧
     (s.assay.sealBroken = true → exec .assaySealBreach s = .next s) ∧
     (s.assay.patchPend = none → ∃ t, exec .assayPeriodicStatement s = .next t ∧ OnlyIn [.assay] s t ∧ t.assay.aseq = s.assay.aseq + s.assay.active.length ∧
       s.assay.stmtAt + 1000 * s.assay.stmtS ≤ t.assay.atime ∧ t.assay.cnt = s.assay.cnt) ∧
     (∀ ver svn, s.assay.patchPend = some (ver, svn) → ∃ t, exec .assayPatchRestart s = .next t ∧ OnlyIn [.assay, .tap, .out, .freeCnt] s t ∧
       t.assay.patchPend = none ∧ t.assay.patchVer = ver ∧ t.assay.fuseSvn = max s.assay.fuseSvn svn ∧ t.tap.ready = true ∧
       t.assay.cnt = s.assay.cnt)) ∧
  (∀ s : State, assayRuns s = true →
     (∀ p, p < 64 → ∃ t x, exec (.getStatement p) s = .next t ∧ OnlyIn [.assay, .out] s t ∧ t.assay.cnt = s.assay.cnt ∧
       t.assay.aseq = s.assay.aseq + 1 ∧ t.assay.ring.getLast? = some x ∧ x.aseq = s.assay.aseq + 1 ∧ x.part = p ∧ x.kind = 6 ∧
       t.out = s.out ++ [.pin "ASY_ALERT#" false, .assayMsg 0x81 (x.body ++ x.sig), .pin "ASY_ALERT#" true]) ∧
     (∀ a x, s.assay.ring.find? (fun x => x.aseq == a.toNat) = some x → exec (.getByAseq a) s = .next (assayAnswer 0x81 (x.body ++ x.sig) s)) ∧
     (∀ a, s.assay.ring.find? (fun x => x.aseq == a.toNat) = none → exec (.getByAseq a) s = .next (assayResult .wrongState s)) ∧
     exec .getCert s = .next (assayAnswer 0x82 ((Config.blob 3 0).take 32768) s) ∧
     exec .getStatus s = .next (assayAnswer 0x83 (leBytes 4 (assaySts s) ++ leBytes 4 s.assay.lost ++ leBytes 8 s.assay.aseq) s) ∧
     (∀ off d, d.length ≤ 1024 → off.toNat + d.length ≤ 65536 →
       ∃ t, exec (.patchChunk off d) s = .next t ∧ OnlyIn [.assay, .out] s t ∧ slice t.assay.patchBuf off.toNat d.length = d) ∧
     (∀ n, s.pins.asyPatchEn = false → exec (.patchCommit n) s = .next (assayResult .wrongState s)) ∧
     (∀ n, s.pins.asyPatchEn = true → patchStatus s (slice s.assay.patchBuf 0 (min 65537 n.toNat)) ≠ .ok →
       exec (.patchCommit n) s = .next (assayResult (patchStatus s (slice s.assay.patchBuf 0 (min 65537 n.toNat))) s)) ∧
     (∀ n, s.pins.asyPatchEn = true → patchStatus s (slice s.assay.patchBuf 0 (min 65537 n.toNat)) = .ok →
       ∃ t, exec (.patchCommit n) s = .next t ∧ OnlyIn [.assay, .tap, .out] s t ∧ t.assay.patchPend.isSome = true ∧ t.tap.ready = false ∧
         t.assay.cnt = s.assay.cnt)) ∧
  (∀ (eid : BitVec 8) (s : State), s.mgmt.st ≠ .off → s.mgmt.mssRunning = true → assayRuns s = true →
     (eidOk eid = true →
       exec (.setEndpointId eid) s = .next (emit (.mctp false 1 [0, 0, eid, 0]) { s with mgmt := { s.mgmt with eid := eid } }) ∧
       exec (.assaySetEndpointId eid) s = .next (emit (.mctp true 1 [0, 0, eid, 0]) { s with assay := { s.assay with eid := eid } })) ∧
     (eidOk eid = false → exec (.setEndpointId eid) s = .next (emit (.mctp false 1 [2]) s) ∧
       exec (.assaySetEndpointId eid) s = .next (emit (.mctp true 1 [2]) s)) ∧
     exec .getEndpointId s = .next (emit (.mctp false 2 [0, s.mgmt.eid, 0, 0]) s) ∧
     exec .assayGetEndpointId s = .next (emit (.mctp true 2 [0, s.assay.eid, 0, 0]) s) ∧
     (∃ t, exec .getMctpVersionSupport s = .next t ∧ OnlyIn [.out, .freeCnt] s t) ∧
     (∃ t, exec .assayGetMctpVersion s = .next t ∧ OnlyIn [.out, .freeCnt] s t) ∧
     exec .getMessageTypeSupport s = .next (emit (.mctp false 5 [0, 1, 0x7F]) s) ∧
     exec .assayGetMessageTypes s = .next (emit (.mctp true 5 [0, 1, 0x7F]) s))

/-- Keys: an import with a bad field ends with its status and changes no slot, one from host memory reads its 1,184 bytes; an erase empties
its slot alone and clears its KEYS bit. A command that metering or a fence deferred is admitted later as its own row admits it.
Attestation captures its report at admission and delivers it at DEST. A release of a partition that is FREE succeeds, one that may not
start ends with its status, and one that starts makes the partition RELEASING. A release goes on when nothing of the partition runs: its
objects, records and halves are cleared; when its fills end, its memory reads zero, its keys are gone, it is FREE, and CLOSE is told to
the Assay. Every byte outside its memory reads as before. -/
def Obligations.KeysAttestationAndRelease : Prop :=
  (∀ (ring : Nat) (rseq : BitVec 32) (c : Cmd) (s : State), MayAdmit s ring rseq c → c.op = 0x61 →
     (∀ i, (i = .keyImportFabric ring rseq ∧ keyKind c = 1) ∨ (i = .keyImportWindow ring rseq ∧ keyKind c = 2) →
       (keyStatus s c ≠ .ok → exec i s = .next (endAtAdmission c (keyStatus s c) 0 s) ∧ (endAtAdmission c (keyStatus s c) 0 s).sec.slots = s.sec.slots) ∧
       (keyStatus s c = .ok → isGfa (keySrc c) = false →
         exec i s = .next (emit (.dmaRead (ringFn s ring) (keySrc c) 1184 (.input ring rseq)) (admitCmd c .none s)))) ∧
     (keyKind c = 0 → keyStatus s c = .ok → ∃ t, exec (.keyErase ring rseq) s = .next t ∧ OnlyIn endAreas s t ∧ EndsWith t c .ok (keySlotOf c) ∧
       tget t.sec.slots (keySlotOf c) = none ∧ (∀ k, k ≠ keySlotOf c → tget t.sec.slots k = tget s.sec.slots k) ∧
       (slotPart (keySlotOf c) < 64 → bit (valW t (0xA01024 + 0x80 * slotPart (keySlotOf c))).toNat (keySlotOf c % 16) = false))) ∧
  (∀ (ring : Nat) (rseq : BitVec 32) (c : Cmd) (s : State), MayAdmit s ring rseq c → isDeferred c = true →
     (c.op = 0x61 → keyKind c = 0 → exec (.commandDeferredAdmit ring rseq) s = exec (.keyErase ring rseq) s) ∧
     (c.op = 0x62 → exec (.commandDeferredAdmit ring rseq) s = exec (.release ring rseq) s)) ∧
  (∀ (ring : Nat) (rseq : BitVec 32) (c : Cmd) (s : State), MayAdmit s ring rseq c →
     (c.op = 0x60 → attestNode c = false → fld c.desc 8 4 < 2 → allZero (slice c.desc 12 4) = true → allZero (slice c.desc 56 8) = true →
       checkAddr s c (fld c.desc 48 8) 40960 = .ok → partActive s c.part = true →
       ∃ c1, getCmd (admitCmd c .none s) ring rseq = some c1 ∧ c1.desc = c.desc ∧
         exec (.attest ring rseq) s = .next (deliver c1 (fld c.desc 48 8) (reportBytes s c false) .ok 0 (admitCmd c .none s))) ∧
     (c.op = 0x62 → tget s.sec.releases c.part = none →
       (releaseStatus s c = none → ∃ t, exec (.release ring rseq) s = .next t ∧ OnlyIn endAreas s t ∧ EndsWith t c .ok 0) ∧
       (∀ st, releaseStatus s c = some st → st ≠ .ok → ∃ t, exec (.release ring rseq) s = .next t ∧ OnlyIn endAreas s t ∧ EndsWith t c st 0) ∧
       (releaseStatus s c = some .ok → ∃ t, exec (.release ring rseq) s = .next t ∧ OnlyIn endAreas s t ∧ pstate t c.part = 2 ∧
         tget t.sec.releases c.part = some { key := cmdKey ring rseq, verify := bit (fld c.desc 8 4) 0 }))) ∧
  (∀ (p : Nat) (r : RelRun) (s : State), p < 64 → serving s = true → memOk s → tget s.sec.releases p = some r →
     (r.filling = false → (∀ e ∈ s.cmds, e.2.phase = .running → actsFor s p e.2 = false) → connsOf s p = [] →
       ∃ t, exec (.releaseProceed p) s = .next t ∧ tget t.sec.releases p = some { r with filling := true } ∧ t.mem.cells = s.mem.cells ∧
         (∀ q, q ∈ t.shards → q.1 ≠ p) ∧ (∀ x ∈ t.retained, x.part ≠ p) ∧ (∀ i, i < 65535 → (getRegion t i).used = true → (getRegion t i).part ≠ p)) ∧
     (r.filling = true → r.ended = none → r.verify = false → actBits s 0x602000 2 1 = 0 → releaseRoom s p = true →
       ∀ c, tsorted s.cmds = true → c.ring ≠ deckRing → tget s.cmds r.key = some c → r.key = cmdKey c.ring c.rseq → (∀ e ∈ s.cmds, e.2.op = 0x62 → e.1 = r.key) →
       ∃ t, exec (.releaseFillDone p 0) s = .next t ∧ EndsWith t c .ok (partGranules s p % 2 ^ 32) ∧ tget t.sec.releases p = none ∧ pstate t p = 0 ∧ tget t.sec.memKeys p = none ∧
         (∀ k v, tget t.sec.slots k = some v → slotPart k ≠ p) ∧
         t.tap.queue.getLast? = some { typ := 4, part := p, res := 0, seq := t.tap.seq - 1, value := pinst s p % 2 ^ 64 } ∧
         (∀ a, ((∃ f n, (f, n) ∈ partRuns s p ∧ f * 2 ^ 18 ≤ a ∧ a < (f + n) * 2 ^ 18) → readByte t a = 0) ∧
           ((∀ f n, (f, n) ∈ partRuns s p → a < f * 2 ^ 18 ∨ (f + n) * 2 ^ 18 ≤ a) → readByte t a = readByte s a))))
end

