-- ==== Sys2Proof/Laws/Frame.lean ====
section
/-! SUPPORT. How frames combine: what is changed only in some areas of the state, step after step. -/

namespace Sys2Proof.Machine

open Sys2Proof

theorem OnlyIn.refl (l : List Area) (s : State) : OnlyIn l s s := by
  constructor <;> first | (with_reducible rfl) | (with_reducible exact .inr rfl)

theorem OnlyIn.andThen {l m : List Area} {s t u : State} (h : OnlyIn l s t) (g : OnlyIn m t u) (hm : m ⊆ l) : OnlyIn l s u where
  pending := g.pending.trans h.pending
  out := h.out.elim .inl fun e => g.out.imp (hm ·) (·.trans e)
  freeCnt := h.freeCnt.elim .inl fun e => g.freeCnt.imp (hm ·) (·.trans e)
  clk := h.clk.elim .inl fun e => g.clk.imp (hm ·) (·.trans e)
  regs := h.regs.elim .inl fun e => g.regs.imp (hm ·) (·.trans e)
  own := h.own.elim .inl fun e => g.own.imp (hm ·) (·.trans e)
  host := h.host.elim .inl fun e => g.host.imp (hm ·) (·.trans e)
  cmds := h.cmds.elim .inl fun e => g.cmds.imp (hm ·) (·.trans e)
  seqs := h.seqs.elim .inl fun e => g.seqs.imp (hm ·) (·.trans e)
  shards := h.shards.elim .inl fun e => g.shards.imp (hm ·) (·.trans e)
  parts := h.parts.elim .inl fun e => g.parts.imp (hm ·) (·.trans e)
  retained := h.retained.elim .inl fun e => g.retained.imp (hm ·) (·.trans e)
  mgmt := h.mgmt.elim .inl fun e => g.mgmt.imp (hm ·) (·.trans e)
  pins := h.pins.elim .inl fun e => g.pins.imp (hm ·) (·.trans e)
  tap := h.tap.elim .inl fun e => g.tap.imp (hm ·) (·.trans e)
  assay := h.assay.elim .inl fun e => g.assay.imp (hm ·) (·.trans e)
  mem := h.mem.elim .inl fun e => g.mem.imp (hm ·) (·.trans e)
  walk := h.walk.elim .inl fun e => g.walk.imp (hm ·) (·.trans e)
  fab := h.fab.elim .inl fun e => g.fab.imp (hm ·) (·.trans e)
  rma := h.rma.elim .inl fun e => g.rma.imp (hm ·) (·.trans e)
  rmx := h.rmx.elim .inl fun e => g.rmx.imp (hm ·) (·.trans e)
  deck := h.deck.elim .inl fun e => g.deck.imp (hm ·) (·.trans e)
  sec := h.sec.elim .inl fun e => g.sec.imp (hm ·) (·.trans e)
  cells := h.cells.elim .inl fun e => g.cells.imp (hm ·) (·.trans e)
  act := h.act.elim .inl fun e => g.act.imp (hm ·) (·.trans e)
  st := h.st.elim .inl fun e => g.st.imp (hm ·) (·.trans e)

theorem OnlyIn.ite' {l : List Area} {s a b : State} {c : Prop} [Decidable c] (ha : OnlyIn l s a) (hb : OnlyIn l s b) :
    OnlyIn l s (if c then a else b) := by
  split <;> assumption

theorem OnlyIn.forEach {α : Type} {m : List Area} {f : α → State → State} (l : List α) (s : State) (h : ∀ a s, OnlyIn m s (f a s)) :
    OnlyIn m s (Machine.forEach l f s) := by
  induction l generalizing s with
  | nil => exact .refl _ _
  | cons a l ih => exact (h a s).andThen (ih (f a s)) (List.Subset.refl _)

theorem OnlyIn.upd {l : List Area} {s e : State} {a_out} {a_freeCnt} {a_clk} {a_regs} {a_own} {a_host} {a_cmds} {a_seqs} {a_shards} {a_parts} {a_retained} {a_mgmt} {a_pins} {a_tap} {a_assay} {a_mem} {a_walk} {a_fab} {a_rma} {a_rmx} {a_deck} {a_sec} (h : OnlyIn l s e)
    (g : OnlyIn l e ⟨e.pending, a_out, a_freeCnt, a_clk, a_regs, a_own, a_host, a_cmds, a_seqs, a_shards, a_parts, a_retained, a_mgmt, a_pins, a_tap, a_assay, a_mem, a_walk, a_fab, a_rma, a_rmx, a_deck, a_sec⟩) : OnlyIn l s ⟨e.pending, a_out, a_freeCnt, a_clk, a_regs, a_own, a_host, a_cmds, a_seqs, a_shards, a_parts, a_retained, a_mgmt, a_pins, a_tap, a_assay, a_mem, a_walk, a_fab, a_rma, a_rmx, a_deck, a_sec⟩ :=
  h.andThen g (List.Subset.refl _)

theorem OnlyIn.upd_out {l : List Area} {s e : State} {x} (h : OnlyIn l s e) (hm : .out ∈ l) : OnlyIn l s ⟨e.pending, x, e.freeCnt, e.clk, e.regs, e.own, e.host, e.cmds, e.seqs, e.shards, e.parts, e.retained, e.mgmt, e.pins, e.tap, e.assay, e.mem, e.walk, e.fab, e.rma, e.rmx, e.deck, e.sec⟩ :=
  h.andThen ⟨rfl, .inl hm, .inr rfl, .inr rfl, .inr rfl, .inr rfl, .inr rfl, .inr rfl, .inr rfl, .inr rfl, .inr rfl, .inr rfl, .inr rfl, .inr rfl, .inr rfl, .inr rfl, .inr rfl, .inr rfl, .inr rfl, .inr rfl, .inr rfl, .inr rfl, .inr rfl, .inr rfl, .inr rfl, .inr rfl⟩ (List.Subset.refl _)

theorem OnlyIn.upd_freeCnt {l : List Area} {s e : State} {x} (h : OnlyIn l s e) (hm : .freeCnt ∈ l) : OnlyIn l s ⟨e.pending, e.out, x, e.clk, e.regs, e.own, e.host, e.cmds, e.seqs, e.shards, e.parts, e.retained, e.mgmt, e.pins, e.tap, e.assay, e.mem, e.walk, e.fab, e.rma, e.rmx, e.deck, e.sec⟩ :=
  h.andThen ⟨rfl, .inr rfl, .inl hm, .inr rfl, .inr rfl, .inr rfl, .inr rfl, .inr rfl, .inr rfl, .inr rfl, .inr rfl, .inr rfl, .inr rfl, .inr rfl, .inr rfl, .inr rfl, .inr rfl, .inr rfl, .inr rfl, .inr rfl, .inr rfl, .inr rfl, .inr rfl, .inr rfl, .inr rfl, .inr rfl⟩ (List.Subset.refl _)

theorem OnlyIn.upd_clk {l : List Area} {s e : State} {x} (h : OnlyIn l s e) (hm : .clk ∈ l) : OnlyIn l s ⟨e.pending, e.out, e.freeCnt, x, e.regs, e.own, e.host, e.cmds, e.seqs, e.shards, e.parts, e.retained, e.mgmt, e.pins, e.tap, e.assay, e.mem, e.walk, e.fab, e.rma, e.rmx, e.deck, e.sec⟩ :=
  h.andThen ⟨rfl, .inr rfl, .inr rfl, .inl hm, .inr rfl, .inr rfl, .inr rfl, .inr rfl, .inr rfl, .inr rfl, .inr rfl, .inr rfl, .inr rfl, .inr rfl, .inr rfl, .inr rfl, .inr rfl, .inr rfl, .inr rfl, .inr rfl, .inr rfl, .inr rfl, .inr rfl, .inr rfl, .inr rfl, .inr rfl⟩ (List.Subset.refl _)

theorem OnlyIn.upd_regs {l : List Area} {s e : State} {x} (h : OnlyIn l s e) (hm : .regs ∈ l) (hc : .act ∈ l ∨ x.act = e.regs.act) : OnlyIn l s ⟨e.pending, e.out, e.freeCnt, e.clk, x, e.own, e.host, e.cmds, e.seqs, e.shards, e.parts, e.retained, e.mgmt, e.pins, e.tap, e.assay, e.mem, e.walk, e.fab, e.rma, e.rmx, e.deck, e.sec⟩ :=
  h.andThen ⟨rfl, .inr rfl, .inr rfl, .inr rfl, .inl hm, .inr rfl, .inr rfl, .inr rfl, .inr rfl, .inr rfl, .inr rfl, .inr rfl, .inr rfl, .inr rfl, .inr rfl, .inr rfl, .inr rfl, .inr rfl, .inr rfl, .inr rfl, .inr rfl, .inr rfl, .inr rfl, .inr rfl, hc, .inr rfl⟩ (List.Subset.refl _)

theorem OnlyIn.upd_own {l : List Area} {s e : State} {x} (h : OnlyIn l s e) (hm : .own ∈ l) : OnlyIn l s ⟨e.pending, e.out, e.freeCnt, e.clk, e.regs, x, e.host, e.cmds, e.seqs, e.shards, e.parts, e.retained, e.mgmt, e.pins, e.tap, e.assay, e.mem, e.walk, e.fab, e.rma, e.rmx, e.deck, e.sec⟩ :=
  h.andThen ⟨rfl, .inr rfl, .inr rfl, .inr rfl, .inr rfl, .inl hm, .inr rfl, .inr rfl, .inr rfl, .inr rfl, .inr rfl, .inr rfl, .inr rfl, .inr rfl, .inr rfl, .inr rfl, .inr rfl, .inr rfl, .inr rfl, .inr rfl, .inr rfl, .inr rfl, .inr rfl, .inr rfl, .inr rfl, .inr rfl⟩ (List.Subset.refl _)

theorem OnlyIn.upd_host {l : List Area} {s e : State} {x} (h : OnlyIn l s e) (hm : .host ∈ l) : OnlyIn l s ⟨e.pending, e.out, e.freeCnt, e.clk, e.regs, e.own, x, e.cmds, e.seqs, e.shards, e.parts, e.retained, e.mgmt, e.pins, e.tap, e.assay, e.mem, e.walk, e.fab, e.rma, e.rmx, e.deck, e.sec⟩ :=
  h.andThen ⟨rfl, .inr rfl, .inr rfl, .inr rfl, .inr rfl, .inr rfl, .inl hm, .inr rfl, .inr rfl, .inr rfl, .inr rfl, .inr rfl, .inr rfl, .inr rfl, .inr rfl, .inr rfl, .inr rfl, .inr rfl, .inr rfl, .inr rfl, .inr rfl, .inr rfl, .inr rfl, .inr rfl, .inr rfl, .inr rfl⟩ (List.Subset.refl _)

theorem OnlyIn.upd_cmds {l : List Area} {s e : State} {x} (h : OnlyIn l s e) (hm : .cmds ∈ l) : OnlyIn l s ⟨e.pending, e.out, e.freeCnt, e.clk, e.regs, e.own, e.host, x, e.seqs, e.shards, e.parts, e.retained, e.mgmt, e.pins, e.tap, e.assay, e.mem, e.walk, e.fab, e.rma, e.rmx, e.deck, e.sec⟩ :=
  h.andThen ⟨rfl, .inr rfl, .inr rfl, .inr rfl, .inr rfl, .inr rfl, .inr rfl, .inl hm, .inr rfl, .inr rfl, .inr rfl, .inr rfl, .inr rfl, .inr rfl, .inr rfl, .inr rfl, .inr rfl, .inr rfl, .inr rfl, .inr rfl, .inr rfl, .inr rfl, .inr rfl, .inr rfl, .inr rfl, .inr rfl⟩ (List.Subset.refl _)

theorem OnlyIn.upd_seqs {l : List Area} {s e : State} {x} (h : OnlyIn l s e) (hm : .seqs ∈ l) : OnlyIn l s ⟨e.pending, e.out, e.freeCnt, e.clk, e.regs, e.own, e.host, e.cmds, x, e.shards, e.parts, e.retained, e.mgmt, e.pins, e.tap, e.assay, e.mem, e.walk, e.fab, e.rma, e.rmx, e.deck, e.sec⟩ :=
  h.andThen ⟨rfl, .inr rfl, .inr rfl, .inr rfl, .inr rfl, .inr rfl, .inr rfl, .inr rfl, .inl hm, .inr rfl, .inr rfl, .inr rfl, .inr rfl, .inr rfl, .inr rfl, .inr rfl, .inr rfl, .inr rfl, .inr rfl, .inr rfl, .inr rfl, .inr rfl, .inr rfl, .inr rfl, .inr rfl, .inr rfl⟩ (List.Subset.refl _)

theorem OnlyIn.upd_shards {l : List Area} {s e : State} {x} (h : OnlyIn l s e) (hm : .shards ∈ l) : OnlyIn l s ⟨e.pending, e.out, e.freeCnt, e.clk, e.regs, e.own, e.host, e.cmds, e.seqs, x, e.parts, e.retained, e.mgmt, e.pins, e.tap, e.assay, e.mem, e.walk, e.fab, e.rma, e.rmx, e.deck, e.sec⟩ :=
  h.andThen ⟨rfl, .inr rfl, .inr rfl, .inr rfl, .inr rfl, .inr rfl, .inr rfl, .inr rfl, .inr rfl, .inl hm, .inr rfl, .inr rfl, .inr rfl, .inr rfl, .inr rfl, .inr rfl, .inr rfl, .inr rfl, .inr rfl, .inr rfl, .inr rfl, .inr rfl, .inr rfl, .inr rfl, .inr rfl, .inr rfl⟩ (List.Subset.refl _)

theorem OnlyIn.upd_parts {l : List Area} {s e : State} {x} (h : OnlyIn l s e) (hm : .parts ∈ l) : OnlyIn l s ⟨e.pending, e.out, e.freeCnt, e.clk, e.regs, e.own, e.host, e.cmds, e.seqs, e.shards, x, e.retained, e.mgmt, e.pins, e.tap, e.assay, e.mem, e.walk, e.fab, e.rma, e.rmx, e.deck, e.sec⟩ :=
  h.andThen ⟨rfl, .inr rfl, .inr rfl, .inr rfl, .inr rfl, .inr rfl, .inr rfl, .inr rfl, .inr rfl, .inr rfl, .inl hm, .inr rfl, .inr rfl, .inr rfl, .inr rfl, .inr rfl, .inr rfl, .inr rfl, .inr rfl, .inr rfl, .inr rfl, .inr rfl, .inr rfl, .inr rfl, .inr rfl, .inr rfl⟩ (List.Subset.refl _)

theorem OnlyIn.upd_retained {l : List Area} {s e : State} {x} (h : OnlyIn l s e) (hm : .retained ∈ l) : OnlyIn l s ⟨e.pending, e.out, e.freeCnt, e.clk, e.regs, e.own, e.host, e.cmds, e.seqs, e.shards, e.parts, x, e.mgmt, e.pins, e.tap, e.assay, e.mem, e.walk, e.fab, e.rma, e.rmx, e.deck, e.sec⟩ :=
  h.andThen ⟨rfl, .inr rfl, .inr rfl, .inr rfl, .inr rfl, .inr rfl, .inr rfl, .inr rfl, .inr rfl, .inr rfl, .inr rfl, .inl hm, .inr rfl, .inr rfl, .inr rfl, .inr rfl, .inr rfl, .inr rfl, .inr rfl, .inr rfl, .inr rfl, .inr rfl, .inr rfl, .inr rfl, .inr rfl, .inr rfl⟩ (List.Subset.refl _)

theorem OnlyIn.upd_mgmt {l : List Area} {s e : State} {x} (h : OnlyIn l s e) (hm : .mgmt ∈ l) (hc : .st ∈ l ∨ x.st = e.mgmt.st) : OnlyIn l s ⟨e.pending, e.out, e.freeCnt, e.clk, e.regs, e.own, e.host, e.cmds, e.seqs, e.shards, e.parts, e.retained, x, e.pins, e.tap, e.assay, e.mem, e.walk, e.fab, e.rma, e.rmx, e.deck, e.sec⟩ :=
  h.andThen ⟨rfl, .inr rfl, .inr rfl, .inr rfl, .inr rfl, .inr rfl, .inr rfl, .inr rfl, .inr rfl, .inr rfl, .inr rfl, .inr rfl, .inl hm, .inr rfl, .inr rfl, .inr rfl, .inr rfl, .inr rfl, .inr rfl, .inr rfl, .inr rfl, .inr rfl, .inr rfl, .inr rfl, .inr rfl, hc⟩ (List.Subset.refl _)

theorem OnlyIn.upd_pins {l : List Area} {s e : State} {x} (h : OnlyIn l s e) (hm : .pins ∈ l) : OnlyIn l s ⟨e.pending, e.out, e.freeCnt, e.clk, e.regs, e.own, e.host, e.cmds, e.seqs, e.shards, e.parts, e.retained, e.mgmt, x, e.tap, e.assay, e.mem, e.walk, e.fab, e.rma, e.rmx, e.deck, e.sec⟩ :=
  h.andThen ⟨rfl, .inr rfl, .inr rfl, .inr rfl, .inr rfl, .inr rfl, .inr rfl, .inr rfl, .inr rfl, .inr rfl, .inr rfl, .inr rfl, .inr rfl, .inl hm, .inr rfl, .inr rfl, .inr rfl, .inr rfl, .inr rfl, .inr rfl, .inr rfl, .inr rfl, .inr rfl, .inr rfl, .inr rfl, .inr rfl⟩ (List.Subset.refl _)

theorem OnlyIn.upd_tap {l : List Area} {s e : State} {x} (h : OnlyIn l s e) (hm : .tap ∈ l) : OnlyIn l s ⟨e.pending, e.out, e.freeCnt, e.clk, e.regs, e.own, e.host, e.cmds, e.seqs, e.shards, e.parts, e.retained, e.mgmt, e.pins, x, e.assay, e.mem, e.walk, e.fab, e.rma, e.rmx, e.deck, e.sec⟩ :=
  h.andThen ⟨rfl, .inr rfl, .inr rfl, .inr rfl, .inr rfl, .inr rfl, .inr rfl, .inr rfl, .inr rfl, .inr rfl, .inr rfl, .inr rfl, .inr rfl, .inr rfl, .inl hm, .inr rfl, .inr rfl, .inr rfl, .inr rfl, .inr rfl, .inr rfl, .inr rfl, .inr rfl, .inr rfl, .inr rfl, .inr rfl⟩ (List.Subset.refl _)

theorem OnlyIn.upd_assay {l : List Area} {s e : State} {x} (h : OnlyIn l s e) (hm : .assay ∈ l) : OnlyIn l s ⟨e.pending, e.out, e.freeCnt, e.clk, e.regs, e.own, e.host, e.cmds, e.seqs, e.shards, e.parts, e.retained, e.mgmt, e.pins, e.tap, x, e.mem, e.walk, e.fab, e.rma, e.rmx, e.deck, e.sec⟩ :=
  h.andThen ⟨rfl, .inr rfl, .inr rfl, .inr rfl, .inr rfl, .inr rfl, .inr rfl, .inr rfl, .inr rfl, .inr rfl, .inr rfl, .inr rfl, .inr rfl, .inr rfl, .inr rfl, .inl hm, .inr rfl, .inr rfl, .inr rfl, .inr rfl, .inr rfl, .inr rfl, .inr rfl, .inr rfl, .inr rfl, .inr rfl⟩ (List.Subset.refl _)

theorem OnlyIn.upd_mem {l : List Area} {s e : State} {x} (h : OnlyIn l s e) (hm : .mem ∈ l) (hc : .cells ∈ l ∨ x.cells = e.mem.cells) : OnlyIn l s ⟨e.pending, e.out, e.freeCnt, e.clk, e.regs, e.own, e.host, e.cmds, e.seqs, e.shards, e.parts, e.retained, e.mgmt, e.pins, e.tap, e.assay, x, e.walk, e.fab, e.rma, e.rmx, e.deck, e.sec⟩ :=
  h.andThen ⟨rfl, .inr rfl, .inr rfl, .inr rfl, .inr rfl, .inr rfl, .inr rfl, .inr rfl, .inr rfl, .inr rfl, .inr rfl, .inr rfl, .inr rfl, .inr rfl, .inr rfl, .inr rfl, .inl hm, .inr rfl, .inr rfl, .inr rfl, .inr rfl, .inr rfl, .inr rfl, hc, .inr rfl, .inr rfl⟩ (List.Subset.refl _)

theorem OnlyIn.upd_walk {l : List Area} {s e : State} {x} (h : OnlyIn l s e) (hm : .walk ∈ l) : OnlyIn l s ⟨e.pending, e.out, e.freeCnt, e.clk, e.regs, e.own, e.host, e.cmds, e.seqs, e.shards, e.parts, e.retained, e.mgmt, e.pins, e.tap, e.assay, e.mem, x, e.fab, e.rma, e.rmx, e.deck, e.sec⟩ :=
  h.andThen ⟨rfl, .inr rfl, .inr rfl, .inr rfl, .inr rfl, .inr rfl, .inr rfl, .inr rfl, .inr rfl, .inr rfl, .inr rfl, .inr rfl, .inr rfl, .inr rfl, .inr rfl, .inr rfl, .inr rfl, .inl hm, .inr rfl, .inr rfl, .inr rfl, .inr rfl, .inr rfl, .inr rfl, .inr rfl, .inr rfl⟩ (List.Subset.refl _)

theorem OnlyIn.upd_fab {l : List Area} {s e : State} {x} (h : OnlyIn l s e) (hm : .fab ∈ l) : OnlyIn l s ⟨e.pending, e.out, e.freeCnt, e.clk, e.regs, e.own, e.host, e.cmds, e.seqs, e.shards, e.parts, e.retained, e.mgmt, e.pins, e.tap, e.assay, e.mem, e.walk, x, e.rma, e.rmx, e.deck, e.sec⟩ :=
  h.andThen ⟨rfl, .inr rfl, .inr rfl, .inr rfl, .inr rfl, .inr rfl, .inr rfl, .inr rfl, .inr rfl, .inr rfl, .inr rfl, .inr rfl, .inr rfl, .inr rfl, .inr rfl, .inr rfl, .inr rfl, .inr rfl, .inl hm, .inr rfl, .inr rfl, .inr rfl, .inr rfl, .inr rfl, .inr rfl, .inr rfl⟩ (List.Subset.refl _)

theorem OnlyIn.upd_rma {l : List Area} {s e : State} {x} (h : OnlyIn l s e) (hm : .rma ∈ l) : OnlyIn l s ⟨e.pending, e.out, e.freeCnt, e.clk, e.regs, e.own, e.host, e.cmds, e.seqs, e.shards, e.parts, e.retained, e.mgmt, e.pins, e.tap, e.assay, e.mem, e.walk, e.fab, x, e.rmx, e.deck, e.sec⟩ :=
  h.andThen ⟨rfl, .inr rfl, .inr rfl, .inr rfl, .inr rfl, .inr rfl, .inr rfl, .inr rfl, .inr rfl, .inr rfl, .inr rfl, .inr rfl, .inr rfl, .inr rfl, .inr rfl, .inr rfl, .inr rfl, .inr rfl, .inr rfl, .inl hm, .inr rfl, .inr rfl, .inr rfl, .inr rfl, .inr rfl, .inr rfl⟩ (List.Subset.refl _)

theorem OnlyIn.upd_rmx {l : List Area} {s e : State} {x} (h : OnlyIn l s e) (hm : .rmx ∈ l) : OnlyIn l s ⟨e.pending, e.out, e.freeCnt, e.clk, e.regs, e.own, e.host, e.cmds, e.seqs, e.shards, e.parts, e.retained, e.mgmt, e.pins, e.tap, e.assay, e.mem, e.walk, e.fab, e.rma, x, e.deck, e.sec⟩ :=
  h.andThen ⟨rfl, .inr rfl, .inr rfl, .inr rfl, .inr rfl, .inr rfl, .inr rfl, .inr rfl, .inr rfl, .inr rfl, .inr rfl, .inr rfl, .inr rfl, .inr rfl, .inr rfl, .inr rfl, .inr rfl, .inr rfl, .inr rfl, .inr rfl, .inl hm, .inr rfl, .inr rfl, .inr rfl, .inr rfl, .inr rfl⟩ (List.Subset.refl _)

theorem OnlyIn.upd_deck {l : List Area} {s e : State} {x} (h : OnlyIn l s e) (hm : .deck ∈ l) : OnlyIn l s ⟨e.pending, e.out, e.freeCnt, e.clk, e.regs, e.own, e.host, e.cmds, e.seqs, e.shards, e.parts, e.retained, e.mgmt, e.pins, e.tap, e.assay, e.mem, e.walk, e.fab, e.rma, e.rmx, x, e.sec⟩ :=
  h.andThen ⟨rfl, .inr rfl, .inr rfl, .inr rfl, .inr rfl, .inr rfl, .inr rfl, .inr rfl, .inr rfl, .inr rfl, .inr rfl, .inr rfl, .inr rfl, .inr rfl, .inr rfl, .inr rfl, .inr rfl, .inr rfl, .inr rfl, .inr rfl, .inr rfl, .inl hm, .inr rfl, .inr rfl, .inr rfl, .inr rfl⟩ (List.Subset.refl _)

theorem OnlyIn.upd_sec {l : List Area} {s e : State} {x} (h : OnlyIn l s e) (hm : .sec ∈ l) : OnlyIn l s ⟨e.pending, e.out, e.freeCnt, e.clk, e.regs, e.own, e.host, e.cmds, e.seqs, e.shards, e.parts, e.retained, e.mgmt, e.pins, e.tap, e.assay, e.mem, e.walk, e.fab, e.rma, e.rmx, e.deck, x⟩ :=
  h.andThen ⟨rfl, .inr rfl, .inr rfl, .inr rfl, .inr rfl, .inr rfl, .inr rfl, .inr rfl, .inr rfl, .inr rfl, .inr rfl, .inr rfl, .inr rfl, .inr rfl, .inr rfl, .inr rfl, .inr rfl, .inr rfl, .inr rfl, .inr rfl, .inr rfl, .inr rfl, .inl hm, .inr rfl, .inr rfl, .inr rfl⟩ (List.Subset.refl _)

theorem OnlyIn.sub {l m : List Area} {s t : State} (g : OnlyIn m s t) (hm : m ⊆ l) : OnlyIn l s t := (OnlyIn.refl l s).andThen g hm

theorem after_only {l : List Area} {r : Res} {s : State} (h : ∀ t, r = .next t → OnlyIn l s t) : OnlyIn l s (after r s) := by
  unfold after
  split
  · exact h _ rfl
  · exact .refl _ _

theorem OnlyIn.forEachMem {α : Type} {m : List Area} {f : α → State → State} (l : List α) (s : State)
    (h : ∀ a ∈ l, ∀ s, OnlyIn m s (f a s)) : OnlyIn m s (Machine.forEach l f s) := by
  induction l generalizing s with
  | nil => exact .refl _ _
  | cons a l ih =>
    exact (h a (.head _) s).andThen (ih (f a s) fun b hb => h b (.tail _ hb)) (List.Subset.refl _)

theorem OnlyIn.foldlSnd {α β : Type} {m : List Area} {f : α × State → β → α × State} (l : List β) (x : α × State)
    (h : ∀ x b, OnlyIn m x.2 (f x b).2) : OnlyIn m x.2 (l.foldl f x).2 := by
  induction l generalizing x with
  | nil => exact .refl _ _
  | cons a l ih => exact (h x a).andThen (ih (f x a)) (List.Subset.refl _)

theorem OnlyIn.via {l m : List Area} {s t u : State} (g : OnlyIn m t u) (hm : m ⊆ l) (h : OnlyIn l s t) : OnlyIn l s u :=
  h.andThen g hm

theorem OnlyIn.memOf {a b : List Area} {x : Area} (h : a ⊆ b) (hx : x ∈ a) : x ∈ b := h hx

theorem OnlyIn.ofPair {α : Type} {l : List Area} {s t : State} {p : α × State} {a : α} (e : p = (a, t)) (h : OnlyIn l s p.2) : OnlyIn l s t := by
  subst e; exact h

end Sys2Proof.Machine
end

