-- ==== Sys2Proof/Laws/FrameRings.lean ====
section
/-! SUPPORT. The areas of the state that each function may change: registers, rings and the range map. -/

namespace Sys2Proof.Machine

open Sys2Proof

theorem setVal_only (off : ℕ) (v : Word) (s : State) :
    OnlyIn [.regs] s (setVal off v s) := by
  unfold setVal
  try dsimp only
  repeat' (first | (with_reducible exact OnlyIn.refl _ _) | (with_reducible refine OnlyIn.ite' ?_ ?_) | split | (with_reducible refine OnlyIn.upd_regs ?_ (by decide) (by first | (with_reducible exact .inr rfl))))

theorem setVal64_only (off : ℕ) (v : ℕ) (s : State) :
    OnlyIn [.regs] s (setVal64 off v s) := by
  unfold setVal64
  try dsimp only
  repeat' (first | (with_reducible exact OnlyIn.refl _ _) | (with_reducible refine OnlyIn.ite' ?_ ?_) | (with_reducible apply OnlyIn.via; (first | apply setVal_only); on_goal 1 => decide))

theorem setValBits_only (off : ℕ) (lo : ℕ) (w : ℕ) (x : ℕ) (s : State) :
    OnlyIn [.regs] s (setValBits off lo w x s) := by
  unfold setValBits
  try dsimp only
  repeat' (first | (with_reducible exact OnlyIn.refl _ _) | (with_reducible refine OnlyIn.ite' ?_ ?_) | (with_reducible apply OnlyIn.via; (first | apply setVal_only); on_goal 1 => decide))

theorem setAct_only (off : ℕ) (v : Word) (s : State) :
    OnlyIn [.regs, .act] s (setAct off v s) := by
  unfold setAct
  try dsimp only
  repeat' (first | (with_reducible exact OnlyIn.refl _ _) | (with_reducible refine OnlyIn.ite' ?_ ?_) | split | (with_reducible refine OnlyIn.upd_regs ?_ (by decide) (by first | (with_reducible exact .inr rfl) | exact .inl (by decide))))

theorem cntAdd_only (off : ℕ) (n : ℕ) (s : State) :
    OnlyIn [.regs] s (cntAdd off n s) := by
  unfold cntAdd
  try dsimp only
  repeat' (first | (with_reducible exact OnlyIn.refl _ _) | (with_reducible refine OnlyIn.ite' ?_ ?_) | split | (with_reducible refine OnlyIn.upd_regs ?_ (by decide) (by first | (with_reducible exact .inr rfl))))

theorem countEnd_only (st : Status) (s : State) :
    OnlyIn [.regs] s (countEnd st s) := by
  unfold countEnd
  try dsimp only
  repeat' (first | (with_reducible exact OnlyIn.refl _ _) | (with_reducible refine OnlyIn.ite' ?_ ?_) | (with_reducible apply OnlyIn.via; (first | apply cntAdd_only); on_goal 1 => decide))

theorem delCmd_only (c : Cmd) (s : State) :
    OnlyIn [.cmds] s (delCmd c s) := by
  unfold delCmd
  try dsimp only
  repeat' (first | (with_reducible exact OnlyIn.refl _ _) | (with_reducible refine OnlyIn.ite' ?_ ?_) | split | (with_reducible refine OnlyIn.upd_cmds ?_ (by decide)))

theorem setCmd_only (c : Cmd) (s : State) :
    OnlyIn [.cmds] s (setCmd c s) := by
  unfold setCmd
  try dsimp only
  repeat' (first | (with_reducible exact OnlyIn.refl _ _) | (with_reducible refine OnlyIn.ite' ?_ ?_) | split | (with_reducible refine OnlyIn.upd_cmds ?_ (by decide)))

theorem keepFinished_only (c : Cmd) (s : State) :
    OnlyIn [.cmds] s (keepFinished c s) := by
  unfold keepFinished
  try dsimp only
  repeat' (first | (with_reducible exact OnlyIn.refl _ _) | (with_reducible refine OnlyIn.ite' ?_ ?_) | (with_reducible apply OnlyIn.via; (first | apply delCmd_only | apply setCmd_only); on_goal 1 => decide))

theorem addTrace_only (r : List Byte) (s : State) :
    OnlyIn [.sec] s (addTrace r s) := by
  unfold addTrace
  try dsimp only
  repeat' (first | (with_reducible exact OnlyIn.refl _ _) | (with_reducible refine OnlyIn.ite' ?_ ?_) | split | (with_reducible refine OnlyIn.upd_sec ?_ (by decide)))

theorem stepFree_only (s : State) :
    OnlyIn [.freeCnt] s (stepFree s) := by
  unfold stepFree
  try dsimp only
  repeat' (first | (with_reducible exact OnlyIn.refl _ _) | (with_reducible refine OnlyIn.ite' ?_ ?_) | split | (with_reducible refine OnlyIn.upd_freeCnt ?_ (by decide)))

theorem showTrace_only (s : State) :
    OnlyIn [.regs] s (showTrace s) := by
  unfold showTrace
  try dsimp only
  repeat' (first | (with_reducible exact OnlyIn.refl _ _) | (with_reducible refine OnlyIn.ite' ?_ ?_) | (with_reducible apply OnlyIn.via; (first | apply setVal64_only | apply setVal_only); on_goal 1 => decide))

theorem traceWork_only (c : Cmd) (s : State) :
    OnlyIn [.freeCnt, .regs, .sec] s (traceWork c s) := by
  unfold traceWork
  try dsimp only
  repeat' (first | exact List.Subset.refl _ | decide | (with_reducible exact OnlyIn.refl _ _) | (with_reducible refine OnlyIn.ite' ?_ ?_) | (with_reducible apply OnlyIn.via; (first | apply addTrace_only | apply stepFree_only | apply showTrace_only); on_goal 1 => decide) | ((with_reducible apply OnlyIn.andThen (m := [.freeCnt, .regs, .sec])); (on_goal 2 => (with_reducible apply forEach_only))) | ((with_reducible apply OnlyIn.andThen (m := [.freeCnt, .regs, .sec])); (on_goal 2 => (with_reducible apply OnlyIn.forEach; intro _ _)); (on_goal 3 => exact List.Subset.refl _)))

theorem addLog_only (mk : ℕ → LogEntry) (s : State) :
    OnlyIn [.mgmt] s (addLog mk s) := by
  unfold addLog
  try dsimp only
  repeat' (first | (with_reducible exact OnlyIn.refl _ _) | (with_reducible refine OnlyIn.ite' ?_ ?_) | split | (with_reducible refine OnlyIn.upd_mgmt ?_ (by decide) (by first | (with_reducible exact .inr rfl))))

theorem emit_only (o : Out) (s : State) :
    OnlyIn [.out] s (emit o s) := by
  unfold emit
  try dsimp only
  repeat' (first | (with_reducible exact OnlyIn.refl _ _) | (with_reducible refine OnlyIn.ite' ?_ ?_) | split | (with_reducible refine OnlyIn.upd_out ?_ (by decide)))

theorem signalVec_only (fn : ℕ) (v : ℕ) (s : State) :
    OnlyIn [.out, .host] s (signalVec fn v s) := by
  unfold signalVec
  try dsimp only
  repeat' (first | (with_reducible exact OnlyIn.refl _ _) | (with_reducible refine OnlyIn.ite' ?_ ?_) | (with_reducible apply OnlyIn.via; (first | apply emit_only); on_goal 1 => decide) | split | (with_reducible refine OnlyIn.upd_host ?_ (by decide)))

theorem setEv_only (fn : ℕ) (r : EvRing) (s : State) :
    OnlyIn [.host] s (setEv fn r s) := by
  unfold setEv
  try dsimp only
  repeat' (first | (with_reducible exact OnlyIn.refl _ _) | (with_reducible refine OnlyIn.ite' ?_ ?_) | split | (with_reducible refine OnlyIn.upd_host ?_ (by decide)))

theorem writeEv_only (fn : ℕ) (e : Event) (s : State) :
    OnlyIn [.out, .host] s (writeEv fn e s) := by
  unfold writeEv
  try dsimp only
  repeat' (first | (with_reducible exact OnlyIn.refl _ _) | (with_reducible refine OnlyIn.ite' ?_ ?_) | (with_reducible apply OnlyIn.via; (first | apply signalVec_only | apply emit_only | apply setEv_only); on_goal 1 => decide))

theorem deliverEv_only (fn : ℕ) (e : Event) (s : State) :
    OnlyIn [.out, .host] s (deliverEv fn e s) := by
  unfold deliverEv
  try dsimp only
  repeat' (first | (with_reducible exact OnlyIn.refl _ _) | (with_reducible refine OnlyIn.ite' ?_ ?_) | (with_reducible apply OnlyIn.via; (first | apply writeEv_only | apply setEv_only); on_goal 1 => decide))

theorem emitAll_only (os : List Out) (s : State) :
    OnlyIn [.out] s (emitAll os s) := by
  unfold emitAll
  try dsimp only
  repeat' (first | (with_reducible exact OnlyIn.refl _ _) | (with_reducible refine OnlyIn.ite' ?_ ?_) | split | (with_reducible refine OnlyIn.upd_out ?_ (by decide)))

theorem sendMgmt_only (master : ℕ) (mtype : ℕ) (tag : BitVec 32) (data : List Byte) (s : State) :
    OnlyIn [.out, .mgmt] s (sendMgmt master mtype tag data s) := by
  unfold sendMgmt
  try dsimp only
  repeat' (first | (with_reducible exact OnlyIn.refl _ _) | (with_reducible refine OnlyIn.ite' ?_ ?_) | (with_reducible apply OnlyIn.via; (first | apply emitAll_only); on_goal 1 => decide) | split | (with_reducible refine OnlyIn.upd_mgmt ?_ (by decide) (by first | (with_reducible exact .inr rfl))))

theorem postOwner_only (e : Event) (s : State) :
    OnlyIn [.out, .host, .mgmt] s (postOwner e s) := by
  unfold postOwner
  try dsimp only
  repeat' (first | (with_reducible exact OnlyIn.refl _ _) | (with_reducible refine OnlyIn.ite' ?_ ?_) | (with_reducible apply OnlyIn.via; (first | apply addLog_only | apply deliverEv_only | apply sendMgmt_only); on_goal 1 => decide))

theorem post_only (e : Event) (s : State) :
    OnlyIn [.out, .host, .mgmt] s (post e s) := by
  unfold post
  try dsimp only
  repeat' (first | (with_reducible exact OnlyIn.refl _ _) | (with_reducible refine OnlyIn.ite' ?_ ?_) | (with_reducible apply OnlyIn.via; (first | apply postOwner_only | apply deliverEv_only); on_goal 1 => decide) | split)

theorem replayedEvent_only (c : Cmd) (s : State) :
    OnlyIn [.out, .host, .mgmt] s (replayedEvent c s) := by
  unfold replayedEvent
  try dsimp only
  repeat' (first | (with_reducible exact OnlyIn.refl _ _) | (with_reducible refine OnlyIn.ite' ?_ ?_) | (with_reducible apply OnlyIn.via; (first | apply post_only); on_goal 1 => decide))

theorem reportEnd_only (c : Cmd) (s : State) :
    OnlyIn [.out, .freeCnt, .regs, .host, .mgmt, .sec] s (reportEnd c s) := by
  unfold reportEnd
  try dsimp only
  repeat' (first | (with_reducible exact OnlyIn.refl _ _) | (with_reducible refine OnlyIn.ite' ?_ ?_) | (with_reducible apply OnlyIn.via; (first | apply traceWork_only | apply replayedEvent_only); on_goal 1 => decide))

theorem finish_only (c : Cmd) (st : Status) (result : ℕ) (s : State) :
    OnlyIn [.out, .freeCnt, .regs, .host, .cmds, .mgmt, .sec] s (finish c st result s) := by
  unfold finish
  try dsimp only
  repeat' (first | (with_reducible exact OnlyIn.refl _ _) | (with_reducible refine OnlyIn.ite' ?_ ?_) | (with_reducible apply OnlyIn.via; (first | apply countEnd_only | apply keepFinished_only | apply reportEnd_only); on_goal 1 => decide))

theorem postFn_only (fn : ℕ) (e : Event) (s : State) :
    OnlyIn [.out, .host] s (postFn fn e s) := by
  unfold postFn
  try dsimp only
  repeat' (first | (with_reducible exact OnlyIn.refl _ _) | (with_reducible refine OnlyIn.ite' ?_ ?_) | (with_reducible apply OnlyIn.via; (first | apply deliverEv_only); on_goal 1 => decide))

theorem stepFaultEvent_only (c : Cmd) (cause : ℕ) (kind : ℕ) (aux : ℕ) (s : State) :
    OnlyIn [.out, .host, .mgmt] s (stepFaultEvent c cause kind aux s) := by
  unfold stepFaultEvent
  try dsimp only
  repeat' (first | (with_reducible exact OnlyIn.refl _ _) | (with_reducible refine OnlyIn.ite' ?_ ?_) | (with_reducible apply OnlyIn.via; (first | apply post_only); on_goal 1 => decide))

theorem faultStep_only (c : Cmd) (cause : ℕ) (kind : ℕ) (s : State) :
    OnlyIn [.out, .freeCnt, .regs, .host, .cmds, .mgmt, .sec] s (faultStep c cause kind s) := by
  unfold faultStep
  try dsimp only
  repeat' (first | (with_reducible exact OnlyIn.refl _ _) | (with_reducible refine OnlyIn.ite' ?_ ?_) | (with_reducible apply OnlyIn.via; (first | apply finish_only | apply stepFaultEvent_only); on_goal 1 => decide))

theorem strikeCmd_only (c : Cmd) (cause : ℕ) (s : State) :
    OnlyIn [.out, .freeCnt, .regs, .host, .cmds, .mgmt, .sec] s (strikeCmd c cause s) := by
  unfold strikeCmd
  try dsimp only
  repeat' (first | (with_reducible exact OnlyIn.refl _ _) | (with_reducible refine OnlyIn.ite' ?_ ?_) | (with_reducible apply OnlyIn.via; (first | apply setCmd_only | apply replayedEvent_only | apply faultStep_only); on_goal 1 => decide))

theorem tapAdd_only (p : ℕ) (r : ℕ) (n : ℕ) (s : State) :
    OnlyIn [.tap] s (tapAdd p r n s) := by
  unfold tapAdd
  try dsimp only
  repeat' (first | (with_reducible exact OnlyIn.refl _ _) | (with_reducible refine OnlyIn.ite' ?_ ?_) | split | (with_reducible refine OnlyIn.upd_tap ?_ (by decide)))

theorem takeStep_only (s : State) :
    OnlyIn [.regs] s (takeStep s).2 := by
  unfold takeStep
  try dsimp only
  repeat' (first | (with_reducible exact OnlyIn.refl _ _) | (with_reducible refine OnlyIn.ite' ?_ ?_) | (with_reducible apply OnlyIn.via; (first | apply setVal64_only); on_goal 1 => decide))

theorem admitCmd_only (c : Cmd) (w : Work) (s : State) :
    OnlyIn [.regs, .cmds] s (admitCmd c w s) := by
  unfold admitCmd
  try dsimp only
  repeat' (first | (with_reducible exact OnlyIn.refl _ _) | (with_reducible refine OnlyIn.ite' ?_ ?_) | (with_reducible apply OnlyIn.via; (first | apply takeStep_only | apply setCmd_only); on_goal 1 => decide) | (with_reducible apply OnlyIn.via; (on_goal 1 => (with_reducible refine .ofPair (by assumption) (takeStep_only ..))); on_goal 1 => decide) | split)

theorem numbered_only (c : Cmd) (s : State) :
    OnlyIn [.regs] s (numbered c s).2 := by
  unfold numbered
  split
  · exact OnlyIn.refl _ _
  · exact takeStep_only s

theorem endAtAdmission_only (c : Cmd) (st : Status) (result : ℕ) (s : State) :
    OnlyIn [.out, .freeCnt, .regs, .host, .cmds, .mgmt, .sec] s (endAtAdmission c st result s) := by
  unfold endAtAdmission
  exact OnlyIn.andThen (OnlyIn.andThen (OnlyIn.refl _ _) (numbered_only c s) (by decide)) (finish_only ..) (List.Subset.refl _)

theorem faultAtAdmission_only (c : Cmd) (cause : ℕ) (kind : ℕ) (s : State) :
    OnlyIn [.out, .freeCnt, .regs, .host, .cmds, .mgmt, .sec] s (faultAtAdmission c cause kind s) := by
  unfold faultAtAdmission
  exact OnlyIn.andThen (OnlyIn.andThen (OnlyIn.refl _ _) (numbered_only c s) (by decide)) (faultStep_only ..) (List.Subset.refl _)

theorem advanceTo_only (t : ℕ) (s : State) :
    OnlyIn [.clk] s (advanceTo t s) := by
  unfold advanceTo
  try dsimp only
  repeat' (first | (with_reducible exact OnlyIn.refl _ _) | (with_reducible refine OnlyIn.ite' ?_ ?_) | split | (with_reducible refine OnlyIn.upd_clk ?_ (by decide)))

theorem modStep_only (n : ℕ) (f : StepRun → StepRun) (s : State) :
    OnlyIn [.deck] s (modStep n f s) := by
  unfold modStep
  try dsimp only
  repeat' (first | (with_reducible exact OnlyIn.refl _ _) | (with_reducible refine OnlyIn.ite' ?_ ?_) | split | (with_reducible refine OnlyIn.upd_deck ?_ (by decide)))

theorem meter_only (c : Cmd) (p : ℕ) (r : ℕ) (n : ℕ) (s : State) :
    OnlyIn [.tap, .deck] s (meter c p r n s) := by
  unfold meter
  try dsimp only
  repeat' (first | (with_reducible exact OnlyIn.refl _ _) | (with_reducible refine OnlyIn.ite' ?_ ?_) | (with_reducible apply OnlyIn.via; (first | apply modStep_only | apply tapAdd_only); on_goal 1 => decide))

theorem clearErr_only (a : ℕ) (n : ℕ) (s : State) :
    OnlyIn [.mem] s (clearErr a n s) := by
  unfold clearErr
  try dsimp only
  repeat' (first | (with_reducible exact OnlyIn.refl _ _) | (with_reducible refine OnlyIn.ite' ?_ ?_) | split | (with_reducible refine OnlyIn.upd_mem ?_ (by decide) (by first | (with_reducible exact .inr rfl))))

theorem writeByte_only (a : ℕ) (b : Byte) (s : State) :
    OnlyIn [.mem, .cells] s (writeByte a b s) := by
  unfold writeByte
  try dsimp only
  repeat' (first | (with_reducible exact OnlyIn.refl _ _) | (with_reducible refine OnlyIn.ite' ?_ ?_) | split | (with_reducible refine OnlyIn.upd_mem ?_ (by decide) (by first | (with_reducible exact .inr rfl) | exact .inl (by decide))))

theorem writeBytes_only (a : ℕ) (x1 : List Byte) (x2 : State) :
    OnlyIn [.mem, .cells] x2 (writeBytes a x1 x2) := by
  induction x1 generalizing a x2 with
  | nil => exact OnlyIn.refl _ _
  | cons a l ih =>
  unfold writeBytes
  try lift_lets
  repeat' (first | ((with_reducible apply OnlyIn.andThen (m := [.mem, .cells])); (on_goal 2 => (with_reducible apply ih)); (on_goal 2 => exact List.Subset.refl _)) | (intro x; have hx : OnlyIn [.mem, .cells] x2 x := (by repeat' (first | ((with_reducible apply OnlyIn.andThen (m := [.mem, .cells])); (on_goal 2 => (with_reducible apply ih)); (on_goal 2 => exact List.Subset.refl _)) | (with_reducible exact OnlyIn.refl _ _) | assumption | (with_reducible refine OnlyIn.ite' ?_ ?_) | (with_reducible apply OnlyIn.via; (first | ((with_reducible apply OnlyIn.andThen (m := [.mem, .cells])); (on_goal 2 => (with_reducible apply ih)); (on_goal 2 => exact List.Subset.refl _)) | apply writeByte_only); on_goal 1 => decide) | split)); clear_value x) | (intro x) | lift_lets | (with_reducible exact OnlyIn.refl _ _) | assumption | (with_reducible refine OnlyIn.ite' ?_ ?_) | (with_reducible apply OnlyIn.via; (first | ((with_reducible apply OnlyIn.andThen (m := [.mem, .cells])); (on_goal 2 => (with_reducible apply ih)); (on_goal 2 => exact List.Subset.refl _)) | apply writeByte_only); on_goal 1 => decide))

theorem writeMem_only (a : ℕ) (bs : List Byte) (s : State) :
    OnlyIn [.mem, .cells] s (writeMem a bs s) := by
  unfold writeMem
  try dsimp only
  repeat' (first | (with_reducible exact OnlyIn.refl _ _) | (with_reducible refine OnlyIn.ite' ?_ ?_) | (with_reducible apply OnlyIn.via; (first | apply clearErr_only | apply writeBytes_only); on_goal 1 => decide))

theorem emitC_only (c : Cmd) (o : Out) (s : State) :
    OnlyIn [.out, .deck] s (emitC c o s) := by
  unfold emitC
  try dsimp only
  repeat' (first | (with_reducible exact OnlyIn.refl _ _) | (with_reducible refine OnlyIn.ite' ?_ ?_) | (with_reducible apply OnlyIn.via; (first | apply modStep_only | apply emit_only); on_goal 1 => decide))

theorem meterData_only (c : Cmd) (res : ℕ) (n : ℕ) (s : State) :
    OnlyIn [.tap, .deck] s (meterData c res n s) := by
  unfold meterData
  try dsimp only
  repeat' (first | (with_reducible exact OnlyIn.refl _ _) | (with_reducible refine OnlyIn.ite' ?_ ?_) | (with_reducible apply OnlyIn.via; (first | apply meter_only); on_goal 1 => decide))

theorem setCtl_only (b : ℕ) (c : CommitCtl) (s : State) :
    OnlyIn [.regs] s (setCtl b c s) := by
  unfold setCtl
  try dsimp only
  repeat' (first | (with_reducible exact OnlyIn.refl _ _) | (with_reducible refine OnlyIn.ite' ?_ ?_) | split | (with_reducible refine OnlyIn.upd_regs ?_ (by decide) (by first | (with_reducible exact .inr rfl))))

theorem flushEv_only (fn : ℕ) (x1 : ℕ) (x2 : State) :
    OnlyIn [.out, .host] x2 (flushEv fn x1 x2) := by
  induction x1 generalizing fn x2 with
  | zero => exact OnlyIn.refl _ _
  | succ n ih =>
  unfold flushEv
  try lift_lets
  repeat' (first | ((with_reducible apply OnlyIn.andThen (m := [.out, .host])); (on_goal 2 => (with_reducible apply ih)); (on_goal 2 => exact List.Subset.refl _)) | (intro x; have hx : OnlyIn [.out, .host] x2 x := (by repeat' (first | ((with_reducible apply OnlyIn.andThen (m := [.out, .host])); (on_goal 2 => (with_reducible apply ih)); (on_goal 2 => exact List.Subset.refl _)) | (with_reducible exact OnlyIn.refl _ _) | assumption | (with_reducible refine OnlyIn.ite' ?_ ?_) | (with_reducible apply OnlyIn.via; (first | ((with_reducible apply OnlyIn.andThen (m := [.out, .host])); (on_goal 2 => (with_reducible apply ih)); (on_goal 2 => exact List.Subset.refl _)) | apply writeEv_only | apply setEv_only); on_goal 1 => decide) | split)); clear_value x) | (intro x) | lift_lets | (with_reducible exact OnlyIn.refl _ _) | assumption | (with_reducible refine OnlyIn.ite' ?_ ?_) | (with_reducible apply OnlyIn.via; (first | ((with_reducible apply OnlyIn.andThen (m := [.out, .host])); (on_goal 2 => (with_reducible apply ih)); (on_goal 2 => exact List.Subset.refl _)) | apply writeEv_only | apply setEv_only); on_goal 1 => decide) | split)

theorem logMgmt_only (cls : ℕ) (code : ℕ) (st : Status) (m : DetailM) (s : State) :
    OnlyIn [.mgmt] s (logMgmt cls code st m s) := by
  unfold logMgmt
  try dsimp only
  repeat' (first | (with_reducible exact OnlyIn.refl _ _) | (with_reducible refine OnlyIn.ite' ?_ ?_) | (with_reducible apply OnlyIn.via; (first | apply addLog_only); on_goal 1 => decide))

theorem showState_only (s : State) :
    OnlyIn [.regs] s (showState s) := by
  unfold showState
  try dsimp only
  repeat' (first | (with_reducible exact OnlyIn.refl _ _) | (with_reducible refine OnlyIn.ite' ?_ ?_) | (with_reducible apply OnlyIn.via; (first | apply setVal_only); on_goal 1 => decide))

theorem enterState_only (st : NodeState) (cause : ℕ) (w0 : ℕ) (s : State) :
    OnlyIn [.regs, .mgmt, .pins, .st] s (enterState st cause w0 s) := by
  unfold enterState
  try dsimp only
  repeat' (first | (with_reducible exact OnlyIn.refl _ _) | (with_reducible refine OnlyIn.ite' ?_ ?_) | (with_reducible apply OnlyIn.via; (first | apply logMgmt_only | apply showState_only); on_goal 1 => decide) | split | (with_reducible refine OnlyIn.upd_mgmt ?_ (by decide) (by first | (with_reducible exact .inr rfl) | exact .inl (by decide))) | (with_reducible refine OnlyIn.upd_pins ?_ (by decide)) | (with_reducible refine OnlyIn.upd ?_ (by constructor <;> first | (with_reducible rfl) | (with_reducible exact .inr rfl) | exact .inl (by decide))))

theorem repair_only (what : String) (s : State) :
    OnlyIn [.regs, .parts, .mgmt, .pins, .st] s (repair what s) := by
  unfold repair
  try dsimp only
  repeat' (first | (with_reducible exact OnlyIn.refl _ _) | (with_reducible refine OnlyIn.ite' ?_ ?_) | (with_reducible apply OnlyIn.via; (first | apply enterState_only); on_goal 1 => decide) | split | (with_reducible refine OnlyIn.upd_parts ?_ (by decide)))

theorem skipFree_only (n : ℕ) (s : State) :
    OnlyIn [.freeCnt] s (skipFree n s) := by
  unfold skipFree
  try dsimp only
  repeat' (first | (with_reducible exact OnlyIn.refl _ _) | (with_reducible refine OnlyIn.ite' ?_ ?_) | split | (with_reducible refine OnlyIn.upd_freeCnt ?_ (by decide)))

theorem addCause_only (what : String) (s : State) :
    OnlyIn [.parts] s (addCause what s) := by
  unfold addCause
  try dsimp only
  repeat' (first | (with_reducible exact OnlyIn.refl _ _) | (with_reducible refine OnlyIn.ite' ?_ ?_) | split | (with_reducible refine OnlyIn.upd_parts ?_ (by decide)))

theorem degrade_only (what : String) (s : State) :
    OnlyIn [.regs, .parts, .mgmt, .pins, .st] s (degrade what s) := by
  unfold degrade
  try dsimp only
  repeat' (first | (with_reducible exact OnlyIn.refl _ _) | (with_reducible refine OnlyIn.ite' ?_ ?_) | (with_reducible apply OnlyIn.via; (first | apply addCause_only | apply enterState_only); on_goal 1 => decide))

theorem meterRing_only (c : Cmd) (res : ℕ) (n : ℕ) (s : State) :
    OnlyIn [.tap] s (meterRing c res n s) := by
  unfold meterRing
  try dsimp only
  repeat' (first | (with_reducible exact OnlyIn.refl _ _) | (with_reducible refine OnlyIn.ite' ?_ ?_) | (with_reducible apply OnlyIn.via; (first | apply tapAdd_only); on_goal 1 => decide))

theorem advanceMss_only (t : ℕ) (s : State) :
    OnlyIn [.clk] s (advanceMss t s) := by
  unfold advanceMss
  try dsimp only
  repeat' (first | (with_reducible exact OnlyIn.refl _ _) | (with_reducible refine OnlyIn.ite' ?_ ?_) | split | (with_reducible refine OnlyIn.upd_clk ?_ (by decide)))

theorem tick_only (s : State) :
    OnlyIn [.clk] s (tick s) := by
  unfold tick
  try dsimp only
  repeat' (first | (with_reducible exact OnlyIn.refl _ _) | (with_reducible refine OnlyIn.ite' ?_ ?_) | split | (with_reducible refine OnlyIn.upd_clk ?_ (by decide)))

theorem setVfErr_only (n : ℕ) (v : ℕ) (s : State) :
    OnlyIn [.regs] s (setVfErr n v s) := by
  unfold setVfErr
  try dsimp only
  repeat' (first | (with_reducible exact OnlyIn.refl _ _) | (with_reducible refine OnlyIn.ite' ?_ ?_) | split | (with_reducible refine OnlyIn.upd_regs ?_ (by decide) (by first | (with_reducible exact .inr rfl))))

theorem rejectWrite_only (w : Writer) (off : ℕ) (st : Status) (s : State) :
    OnlyIn [.regs] s (rejectWrite w off st s) := by
  unfold rejectWrite
  try dsimp only
  repeat' (first | (with_reducible exact OnlyIn.refl _ _) | (with_reducible refine OnlyIn.ite' ?_ ?_) | (with_reducible apply OnlyIn.via; (first | apply cntAdd_only | apply setVfErr_only | apply setVal64_only); on_goal 1 => decide) | split)

theorem setSts_only (k : ℕ) (st : Status) (gen : BitVec 16) (s : State) :
    OnlyIn [.regs] s (setSts k st gen s) := by
  unfold setSts
  try dsimp only
  repeat' (first | (with_reducible exact OnlyIn.refl _ _) | (with_reducible refine OnlyIn.ite' ?_ ?_) | (with_reducible apply OnlyIn.via; (first | apply setCtl_only); on_goal 1 => decide))

theorem commitSet_only (k : ℕ) (gen : BitVec 16) (t : Table Word) (imgs : List RingImage) (check : Status) (s : State) :
    OnlyIn [.regs] s (commitSet k gen t imgs check s) := by
  unfold commitSet
  try dsimp only
  repeat' (first | (with_reducible exact OnlyIn.refl _ _) | (with_reducible refine OnlyIn.ite' ?_ ?_) | (with_reducible apply OnlyIn.via; (first | apply setSts_only | apply setCtl_only); on_goal 1 => decide))

theorem commitBlockBy_only (b : Block) (w : Writer) (gen : BitVec 16) (imgs : List RingImage) (check : Table Word → State → Status) (s : State) :
    OnlyIn [.regs] s (commitBlockBy b w gen imgs check s) := by
  unfold commitBlockBy
  try dsimp only
  repeat' (first | (with_reducible exact OnlyIn.refl _ _) | (with_reducible refine OnlyIn.ite' ?_ ?_) | (with_reducible apply OnlyIn.via; (first | apply rejectWrite_only | apply commitSet_only); on_goal 1 => decide))

theorem commitBlock_only (b : Block) (w : Writer) (gen : BitVec 16) (imgs : List RingImage) (check : State → Status) (s : State) :
    OnlyIn [.regs] s (commitBlock b w gen imgs check s) := by
  unfold commitBlock
  try dsimp only
  repeat' (first | (with_reducible exact OnlyIn.refl _ _) | (with_reducible refine OnlyIn.ite' ?_ ?_) | (with_reducible apply OnlyIn.via; (first | apply commitBlockBy_only); on_goal 1 => decide))

theorem discardBlock_only (b : Block) (s : State) :
    OnlyIn [.regs] s (discardBlock b s) := by
  unfold discardBlock
  try dsimp only
  repeat' (first | (with_reducible exact OnlyIn.refl _ _) | (with_reducible refine OnlyIn.ite' ?_ ?_) | split | (with_reducible refine OnlyIn.upd_regs ?_ (by decide) (by first | (with_reducible exact .inr rfl))))

theorem discardVf_only (n : ℕ) (s : State) :
    OnlyIn [.regs] s (discardVf n s) := by
  unfold discardVf
  try dsimp only
  repeat' (first | (with_reducible exact OnlyIn.refl _ _) | (with_reducible refine OnlyIn.ite' ?_ ?_) | split | (with_reducible refine OnlyIn.upd_regs ?_ (by decide) (by first | (with_reducible exact .inr rfl))))

theorem setPend_only (w : Writer) (off : ℕ) (v : Word) (s : State) :
    OnlyIn [.regs] s (setPend w off v s) := by
  unfold setPend
  try dsimp only
  repeat' (first | (with_reducible exact OnlyIn.refl _ _) | (with_reducible refine OnlyIn.ite' ?_ ?_) | split | (with_reducible refine OnlyIn.upd_regs ?_ (by decide) (by first | (with_reducible exact .inr rfl))))

theorem applyWrite_only (w : Writer) (off : ℕ) (v : ℕ) (s : State) :
    OnlyIn [.regs] s (applyWrite w off v s) := by
  unfold applyWrite
  try dsimp only
  repeat' (first | (with_reducible exact OnlyIn.refl _ _) | (with_reducible refine OnlyIn.ite' ?_ ?_) | (with_reducible apply OnlyIn.via; (first | apply setPend_only | apply setVal_only); on_goal 1 => decide))

theorem vfWrite_only (n : ℕ) (off : ℕ) (words : List ℕ) (s : State) : OnlyIn [.regs] s (vfWrite n off words s) := by
  unfold vfWrite
  dsimp only
  split
  · exact rejectWrite_only ..
  · refine OnlyIn.forEachMem _ _ fun r hr s => ?_
    obtain ⟨⟨v, k⟩, -, rfl⟩ := List.mem_map.1 hr
    split
    · exact .refl _ _
    split
    · refine .ite' ((setVfErr_only ..).sub (by decide)) (.refl _ _)
    split
    · constructor <;> first | exact .inl (by decide) | exact .inr rfl | rfl
    split
    · exact applyWrite_only ..
    · exact .refl _ _

theorem setReq_only (st : Status) (s : State) :
    OnlyIn [.regs] s (setReq st s) := by
  unfold setReq
  try dsimp only
  repeat' (first | (with_reducible exact OnlyIn.refl _ _) | (with_reducible refine OnlyIn.ite' ?_ ?_) | (with_reducible apply OnlyIn.via; (first | apply setVal_only); on_goal 1 => decide))

theorem pfWrite_only (w : Writer) (off : ℕ) (words : List ℕ) (s : State) :
    OnlyIn [.regs] s (pfWrite w off words s) := by
  unfold pfWrite
  try dsimp only
  repeat' (first | exact List.Subset.refl _ | decide | (with_reducible exact OnlyIn.refl _ _) | (with_reducible refine OnlyIn.ite' ?_ ?_) | (with_reducible apply OnlyIn.via; (first | apply rejectWrite_only | apply setReq_only | apply applyWrite_only); on_goal 1 => decide) | ((with_reducible apply OnlyIn.andThen (m := [.regs])); (on_goal 2 => (with_reducible apply forEach_only))) | ((with_reducible apply OnlyIn.andThen (m := [.regs])); (on_goal 2 => (with_reducible apply OnlyIn.forEach; intro _ _)); (on_goal 3 => exact List.Subset.refl _)) | split)

theorem busWrite_only (w : Writer) (off : ℕ) (wide : Bool) (v : ℕ) (s : State) :
    OnlyIn [.regs] s (busWrite w off wide v s) := by
  unfold busWrite
  try dsimp only
  repeat' (first | (with_reducible exact OnlyIn.refl _ _) | (with_reducible refine OnlyIn.ite' ?_ ?_) | (with_reducible apply OnlyIn.via; (first | apply vfWrite_only | apply rejectWrite_only | apply pfWrite_only); on_goal 1 => decide) | split)

theorem plainWrite_only (w : Writer) (off : ℕ) (wide : Bool) (v : ℕ) (s : State) :
    OnlyIn [.regs] s (plainWrite w off wide v s) := by
  unfold plainWrite
  try dsimp only
  repeat' (first | (with_reducible exact OnlyIn.refl _ _) | (with_reducible refine OnlyIn.ite' ?_ ?_) | (with_reducible apply OnlyIn.via; (first | apply commitBlockBy_only | apply busWrite_only); on_goal 1 => decide))

theorem execRegisterWrite_only (w : Writer) (off : BitVec 26) (wide : Bool) (v : BitVec 64) (s : State) {t' : State} (h : (execRegisterWrite w off wide v s) = .next t') :
    OnlyIn [.regs] s t' := by
  unfold execRegisterWrite at h
  try dsimp only at h
  repeat' (first | cases h | split at h)
  all_goals repeat' (first | (with_reducible exact OnlyIn.refl _ _) | (with_reducible refine OnlyIn.ite' ?_ ?_) | (with_reducible apply OnlyIn.via; (first | apply plainWrite_only); on_goal 1 => decide))

theorem execCommitDiscard_only (w : Writer) (b : Block) (s : State) {t' : State} (h : (execCommitDiscard w b s) = .next t') :
    OnlyIn [.regs] s t' := by
  unfold execCommitDiscard at h
  try dsimp only at h
  repeat' (first | cases h | split at h)
  all_goals repeat' (first | (with_reducible exact OnlyIn.refl _ _) | (with_reducible refine OnlyIn.ite' ?_ ?_) | (with_reducible apply OnlyIn.via; (first | apply discardVf_only | apply rejectWrite_only | apply discardBlock_only); on_goal 1 => decide) | split)

theorem admitting_only {l : List Area} {ring : ℕ} {rseq : BitVec 32} {pick : Cmd → Bool} {f : Cmd → State → State} {s : State} (hf : ∀ a0 t, OnlyIn l t (f a0 t)) (hl : [.out, .freeCnt, .regs, .host, .cmds, .mgmt, .sec] ⊆ l) :
    OnlyIn l s (admitting ring rseq pick f s) := by
  unfold admitting
  repeat' (first | (intro x) | (with_reducible exact OnlyIn.refl _ _) | assumption | (with_reducible refine OnlyIn.ite' ?_ ?_) | ((with_reducible apply OnlyIn.andThen (m := l)); (on_goal 2 => (apply hf)); (on_goal 2 => exact List.Subset.refl _)) | ((with_reducible apply OnlyIn.andThen (m := [.cmds])); (on_goal 2 => (with_reducible apply setCmd_only)); (on_goal 2 => (first | decide | exact List.Subset.trans (by decide) hl))) | ((with_reducible apply OnlyIn.andThen (m := [.out, .freeCnt, .regs, .host, .cmds, .mgmt, .sec])); (on_goal 2 => (with_reducible first | apply endAtAdmission_only | apply finish_only)); (on_goal 2 => (first | decide | exact List.Subset.trans (by decide) hl))) | split)

theorem setRing_only (ring : ℕ) (r : Ring) (s : State) :
    OnlyIn [.host] s (setRing ring r s) := by
  unfold setRing
  try dsimp only
  repeat' (first | (with_reducible exact OnlyIn.refl _ _) | (with_reducible refine OnlyIn.ite' ?_ ?_) | split | (with_reducible refine OnlyIn.upd_host ?_ (by decide)))

theorem startFetch_only (ring : ℕ) (s : State) :
    OnlyIn [.out, .host] s (startFetch ring s) := by
  unfold startFetch
  try dsimp only
  repeat' (first | (with_reducible exact OnlyIn.refl _ _) | (with_reducible refine OnlyIn.ite' ?_ ?_) | (with_reducible apply OnlyIn.via; (first | apply emit_only | apply setRing_only); on_goal 1 => decide))

theorem clearEn_only (ring : ℕ) (s : State) :
    OnlyIn [.regs, .act] s (clearEn ring s) := by
  unfold clearEn
  try dsimp only
  repeat' (first | (with_reducible exact OnlyIn.refl _ _) | (with_reducible refine OnlyIn.ite' ?_ ?_) | (with_reducible apply OnlyIn.via; (first | apply setAct_only); on_goal 1 => decide))

theorem writeRecord_only (ring : ℕ) (s : State) :
    OnlyIn [.out] s (writeRecord ring s) := by
  unfold writeRecord
  try dsimp only
  repeat' (first | (with_reducible exact OnlyIn.refl _ _) | (with_reducible refine OnlyIn.ite' ?_ ?_) | (with_reducible apply OnlyIn.via; (first | apply emit_only); on_goal 1 => decide))

theorem rebuildRing_only (warm : Bool) (i : RingImage) (s : State) :
    OnlyIn [.out, .regs, .host, .cmds, .mgmt, .act] s (rebuildRing warm i s) := by
  unfold rebuildRing
  try dsimp only
  repeat' (first | exact List.Subset.refl _ | decide | (with_reducible exact OnlyIn.refl _ _) | (with_reducible refine OnlyIn.ite' ?_ ?_) | (with_reducible apply OnlyIn.via; (first | apply post_only | apply setRing_only | apply clearEn_only | apply writeRecord_only | apply startFetch_only | apply setCmd_only); on_goal 1 => decide) | ((with_reducible apply OnlyIn.andThen (m := [.out, .regs, .host, .cmds, .mgmt, .act])); (on_goal 2 => (with_reducible apply forEach_only))) | ((with_reducible apply OnlyIn.andThen (m := [.out, .regs, .host, .cmds, .mgmt, .act])); (on_goal 2 => (with_reducible apply OnlyIn.forEach; intro _ _)); (on_goal 3 => exact List.Subset.refl _)))

theorem badDoorbell_only (fn : ℕ) (s : State) :
    OnlyIn [.out, .regs, .host, .mgmt] s (badDoorbell fn s) := by
  unfold badDoorbell
  try dsimp only
  repeat' (first | (with_reducible exact OnlyIn.refl _ _) | (with_reducible refine OnlyIn.ite' ?_ ?_) | (with_reducible apply OnlyIn.via; (first | apply post_only | apply cntAdd_only); on_goal 1 => decide))

theorem ringDoorbell_only (pg : DbPage) (v : BitVec 32) (tail : Bool) (s : State) :
    OnlyIn [.out, .regs, .host, .mgmt] s (ringDoorbell pg v tail s) := by
  unfold ringDoorbell
  try dsimp only
  repeat' (first | (with_reducible exact OnlyIn.refl _ _) | (with_reducible refine OnlyIn.ite' ?_ ?_) | (with_reducible apply OnlyIn.via; (first | apply badDoorbell_only | apply startFetch_only | apply setRing_only); on_goal 1 => decide) | split)

theorem execDoorbellSqTail_only (pg : DbPage) (v : BitVec 32) (s : State) {t' : State} (h : (execDoorbellSqTail pg v s) = .next t') :
    OnlyIn [.out, .regs, .host, .mgmt] s t' := by
  unfold execDoorbellSqTail at h
  try dsimp only at h
  repeat' (first | cases h | split at h)
  all_goals repeat' (first | (with_reducible exact OnlyIn.refl _ _) | (with_reducible refine OnlyIn.ite' ?_ ?_) | (with_reducible apply OnlyIn.via; (first | apply ringDoorbell_only); on_goal 1 => decide))

theorem execDoorbellCqHead_only (pg : DbPage) (v : BitVec 32) (s : State) {t' : State} (h : (execDoorbellCqHead pg v s) = .next t') :
    OnlyIn [.out, .regs, .host, .mgmt] s t' := by
  unfold execDoorbellCqHead at h
  try dsimp only at h
  repeat' (first | cases h | split at h)
  all_goals repeat' (first | (with_reducible exact OnlyIn.refl _ _) | (with_reducible refine OnlyIn.ite' ?_ ?_) | (with_reducible apply OnlyIn.via; (first | apply ringDoorbell_only); on_goal 1 => decide))

theorem execDoorbellEventRing_only (fn : ℕ) (v : BitVec 32) (s : State) {t' : State} (h : (execDoorbellEventRing fn v s) = .next t') :
    OnlyIn [.out, .regs, .host, .mgmt] s t' := by
  unfold execDoorbellEventRing at h
  try dsimp only at h
  repeat' (first | cases h | split at h)
  all_goals repeat' (first | (with_reducible exact OnlyIn.refl _ _) | (with_reducible refine OnlyIn.ite' ?_ ?_) | (with_reducible apply OnlyIn.via; (first | apply flushEv_only | apply setEv_only | apply badDoorbell_only); on_goal 1 => decide))

theorem acceptNext_only (ring : ℕ) (s : State) :
    OnlyIn [.out, .regs, .host, .cmds, .mgmt, .tap] s (acceptNext ring s) := by
  unfold acceptNext
  try dsimp only
  repeat' (first | (with_reducible exact OnlyIn.refl _ _) | (with_reducible refine OnlyIn.ite' ?_ ?_) | (with_reducible apply OnlyIn.via; (first | apply setRing_only | apply meterRing_only | apply writeRecord_only | apply setCmd_only | apply startFetch_only | apply cntAdd_only); on_goal 1 => decide) | split | (with_reducible refine OnlyIn.upd_mgmt ?_ (by decide) (by first | (with_reducible exact .inr rfl))))

theorem execDescriptorAccept_only (ring : ℕ) (s : State) {t' : State} (h : (execDescriptorAccept ring s) = .next t') :
    OnlyIn [.out, .regs, .host, .cmds, .mgmt, .tap] s t' := by
  unfold execDescriptorAccept at h
  try dsimp only at h
  repeat' (first | cases h | split at h)
  all_goals repeat' (first | (with_reducible exact OnlyIn.refl _ _) | (with_reducible refine OnlyIn.ite' ?_ ?_) | (with_reducible apply OnlyIn.via; (first | apply acceptNext_only); on_goal 1 => decide) | split | (with_reducible refine OnlyIn.upd_host ?_ (by decide)))

theorem emitCompletion_only (c : Cmd) (s : State) :
    OnlyIn [.out, .mgmt] s (emitCompletion c s) := by
  unfold emitCompletion
  try dsimp only
  repeat' (first | (with_reducible exact OnlyIn.refl _ _) | (with_reducible refine OnlyIn.ite' ?_ ?_) | (with_reducible apply OnlyIn.via; (first | apply sendMgmt_only | apply emit_only); on_goal 1 => decide) | split | (with_reducible refine OnlyIn.upd_mgmt ?_ (by decide) (by first | (with_reducible exact .inr rfl))))

theorem signalRing_only (ring : ℕ) (s : State) :
    OnlyIn [.out, .host] s (signalRing ring s) := by
  unfold signalRing
  try dsimp only
  repeat' (first | (with_reducible exact OnlyIn.refl _ _) | (with_reducible refine OnlyIn.ite' ?_ ?_) | (with_reducible apply OnlyIn.via; (first | apply signalVec_only | apply setRing_only); on_goal 1 => decide))

theorem coalesce_only (ring : ℕ) (notify : Bool) (s : State) :
    OnlyIn [.out, .host] s (coalesce ring notify s) := by
  unfold coalesce
  try dsimp only
  repeat' (first | (with_reducible exact OnlyIn.refl _ _) | (with_reducible refine OnlyIn.ite' ?_ ?_) | (with_reducible apply OnlyIn.via; (first | apply setRing_only | apply signalRing_only); on_goal 1 => decide))

theorem writeCompletion_only (c : Cmd) (s : State) :
    OnlyIn [.out, .freeCnt, .regs, .host, .cmds, .mgmt, .tap, .rma, .sec] s (writeCompletion c s) := by
  unfold writeCompletion
  try dsimp only
  repeat' (first | exact List.Subset.refl _ | decide | (with_reducible exact OnlyIn.refl _ _) | (with_reducible refine OnlyIn.ite' ?_ ?_) | (with_reducible apply OnlyIn.via; (first | apply emitCompletion_only | apply setRing_only | apply meterRing_only | apply writeRecord_only | apply endAtAdmission_only | apply finish_only | apply cntAdd_only | apply coalesce_only); on_goal 1 => decide) | ((with_reducible apply OnlyIn.andThen (m := [.out, .freeCnt, .regs, .host, .cmds, .mgmt, .tap, .rma, .sec])); (on_goal 2 => (with_reducible apply forEach_only))) | ((with_reducible apply OnlyIn.andThen (m := [.out, .freeCnt, .regs, .host, .cmds, .mgmt, .tap, .rma, .sec])); (on_goal 2 => (with_reducible apply OnlyIn.forEach; intro _ _)); (on_goal 3 => exact List.Subset.refl _)) | split | (with_reducible refine OnlyIn.upd_cmds ?_ (by decide)) | (with_reducible refine OnlyIn.upd_rma ?_ (by decide)) | (with_reducible refine OnlyIn.upd ?_ (by constructor <;> first | (with_reducible rfl) | (with_reducible exact .inr rfl) | exact .inl (by decide))))

theorem execInterruptCoalTimeout_only (ring : ℕ) (s : State) {t' : State} (h : (execInterruptCoalTimeout ring s) = .next t') :
    OnlyIn [.out, .clk, .host] s t' := by
  unfold execInterruptCoalTimeout at h
  try dsimp only at h
  repeat' (first | cases h | split at h)
  all_goals repeat' (first | (with_reducible exact OnlyIn.refl _ _) | (with_reducible refine OnlyIn.ite' ?_ ?_) | (with_reducible apply OnlyIn.via; (first | apply signalRing_only | apply advanceTo_only); on_goal 1 => decide))

theorem execMsixVectorUnmask_only (fn : ℕ) (vec : ℕ) (s : State) {t' : State} (h : (execMsixVectorUnmask fn vec s) = .next t') :
    OnlyIn [.out, .host] s t' := by
  unfold execMsixVectorUnmask at h
  try dsimp only at h
  repeat' (first | cases h | split at h)
  all_goals repeat' (first | (with_reducible exact OnlyIn.refl _ _) | (with_reducible refine OnlyIn.ite' ?_ ?_) | (with_reducible apply OnlyIn.via; (first | apply emit_only); on_goal 1 => decide) | split | (with_reducible refine OnlyIn.upd_host ?_ (by decide)))

theorem showRemap_only (s : State) :
    OnlyIn [.regs] s (showRemap s) := by
  unfold showRemap
  try dsimp only
  repeat' (first | exact List.Subset.refl _ | decide | (with_reducible exact OnlyIn.refl _ _) | (with_reducible refine OnlyIn.ite' ?_ ?_) | (with_reducible apply OnlyIn.via; (first | apply setVal_only | apply setVal64_only | apply setValBits_only); on_goal 1 => decide) | ((with_reducible apply OnlyIn.andThen (m := [.regs])); (on_goal 2 => (with_reducible apply forEach_only))) | ((with_reducible apply OnlyIn.andThen (m := [.regs])); (on_goal 2 => (with_reducible apply OnlyIn.forEach; intro _ _)); (on_goal 3 => exact List.Subset.refl _)))

theorem noteSwitches_only (old : ℕ → Word) (new : ℕ → Word) (kinds : List ℕ) (s : State) :
    OnlyIn [.parts] s (noteSwitches old new kinds s) := by
  unfold noteSwitches
  try dsimp only
  repeat' (first | (with_reducible exact OnlyIn.refl _ _) | (with_reducible refine OnlyIn.ite' ?_ ?_) | split | (with_reducible refine OnlyIn.upd_parts ?_ (by decide)))

theorem strikeKeys_only (ks : List ℕ) (cause : ℕ) (s : State) :
    OnlyIn [.out, .freeCnt, .regs, .host, .cmds, .mgmt, .sec] s (strikeKeys ks cause s) := by
  unfold strikeKeys
  try dsimp only
  repeat' (first | exact List.Subset.refl _ | decide | (with_reducible exact OnlyIn.refl _ _) | (with_reducible refine OnlyIn.ite' ?_ ?_) | (with_reducible apply OnlyIn.via; (first | apply strikeCmd_only); on_goal 1 => decide) | ((with_reducible apply OnlyIn.andThen (m := [.out, .freeCnt, .regs, .host, .cmds, .mgmt, .sec])); (on_goal 2 => (with_reducible apply forEach_only))) | ((with_reducible apply OnlyIn.andThen (m := [.out, .freeCnt, .regs, .host, .cmds, .mgmt, .sec])); (on_goal 2 => (with_reducible apply OnlyIn.forEach; intro _ _)); (on_goal 3 => exact List.Subset.refl _)) | split)

theorem strikeCards_only (k : ℕ) (inst : ℕ) (s : State) :
    OnlyIn [.out, .freeCnt, .regs, .host, .cmds, .mgmt, .deck, .sec] s (strikeCards k inst s) := by
  unfold strikeCards
  try dsimp only
  repeat' (first | (with_reducible exact OnlyIn.refl _ _) | (with_reducible refine OnlyIn.ite' ?_ ?_) | (with_reducible apply OnlyIn.via; (first | apply strikeKeys_only); on_goal 1 => decide) | split | (with_reducible refine OnlyIn.upd_deck ?_ (by decide)))

theorem strikeSteps_only (ks : List ℕ) (k : ℕ) (ls : List ℕ) (s : State) :
    OnlyIn [.out, .freeCnt, .regs, .host, .cmds, .mgmt, .deck, .sec] s (strikeSteps ks k ls s) := by
  unfold strikeSteps
  try dsimp only
  repeat' (first | exact List.Subset.refl _ | decide | (with_reducible exact OnlyIn.refl _ _) | (with_reducible refine OnlyIn.ite' ?_ ?_) | (with_reducible apply OnlyIn.via; (first | apply strikeCards_only | apply strikeKeys_only | apply skipFree_only); on_goal 1 => decide) | ((with_reducible apply OnlyIn.andThen (m := [.out, .freeCnt, .regs, .host, .cmds, .mgmt, .deck, .sec])); (on_goal 2 => (with_reducible apply forEach_only))) | ((with_reducible apply OnlyIn.andThen (m := [.out, .freeCnt, .regs, .host, .cmds, .mgmt, .deck, .sec])); (on_goal 2 => (with_reducible apply OnlyIn.forEach; intro _ _)); (on_goal 3 => exact List.Subset.refl _)))

theorem settleShares_only (k : ℕ) (s : State) :
    OnlyIn [.regs, .parts, .mgmt, .pins, .st] s (settleShares k s) := by
  unfold settleShares
  try dsimp only
  repeat' (first | exact List.Subset.refl _ | decide | (with_reducible exact OnlyIn.refl _ _) | (with_reducible refine OnlyIn.ite' ?_ ?_) | (with_reducible apply OnlyIn.via; (first | apply degrade_only | apply repair_only | apply showRemap_only); on_goal 1 => decide) | ((with_reducible apply OnlyIn.andThen (m := [.regs, .parts, .mgmt, .pins, .st])); (on_goal 2 => (with_reducible apply forEach_only))) | ((with_reducible apply OnlyIn.andThen (m := [.regs, .parts, .mgmt, .pins, .st])); (on_goal 2 => (with_reducible apply OnlyIn.forEach; intro _ _)); (on_goal 3 => exact List.Subset.refl _)))

theorem execRemapSwitch_only (k : RemapKind) (l : ℕ) (s : State) {t' : State} (h : (execRemapSwitch k l s) = .next t') :
    OnlyIn [.out, .regs, .host, .parts, .mgmt, .pins, .mem, .st] s t' := by
  unfold execRemapSwitch at h
  try dsimp only at h
  repeat' (first | cases h | split at h)
  all_goals repeat' (first | (with_reducible exact OnlyIn.refl _ _) | (with_reducible refine OnlyIn.ite' ?_ ?_) | (with_reducible apply OnlyIn.via; (first | apply post_only | apply settleShares_only); on_goal 1 => decide) | split | (with_reducible refine OnlyIn.upd_parts ?_ (by decide)) | (with_reducible refine OnlyIn.upd_mem ?_ (by decide) (by first | (with_reducible exact .inr rfl))))

theorem countResolved_only (r : Resolved) (s : State) :
    OnlyIn [.regs] s (countResolved r s) := by
  unfold countResolved
  try dsimp only
  repeat' (first | (with_reducible exact OnlyIn.refl _ _) | (with_reducible refine OnlyIn.ite' ?_ ?_) | (with_reducible apply OnlyIn.via; (first | apply cntAdd_only); on_goal 1 => decide) | split)

theorem showRmx_only (s : State) :
    OnlyIn [.regs] s (showRmx s) := by
  unfold showRmx
  try dsimp only
  repeat' (first | (with_reducible exact OnlyIn.refl _ _) | (with_reducible refine OnlyIn.ite' ?_ ?_) | (with_reducible apply OnlyIn.via; (first | apply setVal_only | apply setValBits_only); on_goal 1 => decide))

theorem ownerWrite_only {l : List Area} {w : Writer} {off : ℕ} {f : State → State} {s : State} (hf : ∀  t, OnlyIn l t (f  t)) (hl : [.regs] ⊆ l) :
    OnlyIn l s (ownerWrite w off f s) := by
  unfold ownerWrite
  repeat' (first | (intro x) | (with_reducible exact OnlyIn.refl _ _) | assumption | (with_reducible refine OnlyIn.ite' ?_ ?_) | ((with_reducible apply OnlyIn.andThen (m := l)); (on_goal 2 => (apply hf)); (on_goal 2 => exact List.Subset.refl _)) | ((with_reducible apply OnlyIn.andThen (m := [.regs])); (on_goal 2 => (with_reducible apply rejectWrite_only)); (on_goal 2 => (first | decide | exact List.Subset.trans (by decide) hl))))

theorem showLk_only (hit : Option ℕ) (multi : Bool) (done : Bool) (stale : Bool) (n : ℕ) (s : State) :
    OnlyIn [.regs] s (showLk hit multi done stale n s) := by
  unfold showLk
  try dsimp only
  repeat' (first | (with_reducible exact OnlyIn.refl _ _) | (with_reducible refine OnlyIn.ite' ?_ ?_) | (with_reducible apply OnlyIn.via; (first | apply setVal64_only | apply setVal_only); on_goal 1 => decide) | split)

theorem execRmxLookupGo_only (w : Writer) (useRetiring : Bool) (s : State) {t' : State} (h : (execRmxLookupGo w useRetiring s) = .next t') :
    OnlyIn [.regs, .rmx] s t' := by
  unfold execRmxLookupGo at h
  try dsimp only at h
  repeat' (first | cases h | split at h)
  all_goals repeat' (first | exact List.Subset.refl _ | decide | (with_reducible exact OnlyIn.refl _ _) | (with_reducible refine OnlyIn.ite' ?_ ?_) | (with_reducible apply OnlyIn.via; (first | apply setValBits_only | apply showLk_only | apply countResolved_only); on_goal 1 => decide) | ((with_reducible apply OnlyIn.andThen (m := [.regs, .rmx])); (on_goal 2 => (with_reducible apply ownerWrite_only))) | split | (with_reducible refine OnlyIn.upd_rmx ?_ (by decide)) | (with_reducible refine OnlyIn.upd ?_ (by constructor <;> first | (with_reducible rfl) | (with_reducible exact .inr rfl))) | intro x)

theorem execRmxLookupStep_only (w : Writer) (s : State) {t' : State} (h : (execRmxLookupStep w s) = .next t') :
    OnlyIn [.regs, .rmx] s t' := by
  unfold execRmxLookupStep at h
  try dsimp only at h
  repeat' (first | cases h | split at h)
  all_goals repeat' (first | exact List.Subset.refl _ | decide | (with_reducible exact OnlyIn.refl _ _) | (with_reducible refine OnlyIn.ite' ?_ ?_) | (with_reducible apply OnlyIn.via; (first | apply showLk_only); on_goal 1 => decide) | ((with_reducible apply OnlyIn.andThen (m := [.regs, .rmx])); (on_goal 2 => (with_reducible apply ownerWrite_only))) | split | (with_reducible refine OnlyIn.upd_rmx ?_ (by decide)) | (with_reducible refine OnlyIn.upd ?_ (by constructor <;> first | (with_reducible rfl) | (with_reducible exact .inr rfl))) | intro x)

end Sys2Proof.Machine
end

