-- ==== Sys2Proof/Laws/FrameFabric.lean ====
section
/-! SUPPORT. The areas of the state that each function may change: the fabric and the transport. -/

namespace Sys2Proof.Machine

open Sys2Proof

theorem setPort_only (p : ℕ) (x : Port) (s : State) :
    OnlyIn [.fab] s (setPort p x s) := by
  unfold setPort
  try dsimp only
  repeat' (first | (with_reducible exact OnlyIn.refl _ _) | (with_reducible refine OnlyIn.ite' ?_ ?_) | split | (with_reducible refine OnlyIn.upd_fab ?_ (by decide)))

theorem modPort_only (p : ℕ) (f : Port → Port) (s : State) :
    OnlyIn [.fab] s (modPort p f s) := by
  unfold modPort
  try dsimp only
  repeat' (first | (with_reducible exact OnlyIn.refl _ _) | (with_reducible refine OnlyIn.ite' ?_ ?_) | (with_reducible apply OnlyIn.via; (first | apply setPort_only); on_goal 1 => decide))

theorem linkEvent_only (p : ℕ) (newPhys : ℕ) (s : State) :
    OnlyIn [.out, .host, .mgmt] s (linkEvent p newPhys s) := by
  unfold linkEvent
  try dsimp only
  repeat' (first | (with_reducible exact OnlyIn.refl _ _) | (with_reducible refine OnlyIn.ite' ?_ ?_) | (with_reducible apply OnlyIn.via; (first | apply post_only); on_goal 1 => decide))

theorem returnCredit_only (p : ℕ) (buf : ℕ) (n : ℕ) (s : State) :
    OnlyIn [.fab] s (returnCredit p buf n s) := by
  unfold returnCredit
  try dsimp only
  repeat' (first | (with_reducible exact OnlyIn.refl _ _) | (with_reducible refine OnlyIn.ite' ?_ ?_) | (with_reducible apply OnlyIn.via; (first | apply modPort_only); on_goal 1 => decide))

theorem leaveBuffer_only (src : ℕ) (inBuf : Option ℕ) (c : Cargo) (s : State) :
    OnlyIn [.fab] s (leaveBuffer src inBuf c s) := by
  unfold leaveBuffer
  try dsimp only
  repeat' (first | (with_reducible exact OnlyIn.refl _ _) | (with_reducible refine OnlyIn.ite' ?_ ?_) | (with_reducible apply OnlyIn.via; (first | apply returnCredit_only); on_goal 1 => decide) | split)

theorem portCnt_only (p : ℕ) (i : ℕ) (n : ℕ) (s : State) :
    OnlyIn [.regs] s (portCnt p i n s) := by
  unfold portCnt
  try dsimp only
  repeat' (first | (with_reducible exact OnlyIn.refl _ _) | (with_reducible refine OnlyIn.ite' ?_ ?_) | (with_reducible apply OnlyIn.via; (first | apply cntAdd_only); on_goal 1 => decide))

theorem schedDiscard_only (src : ℕ) (inBuf : Option ℕ) (port : ℕ) (c : Cargo) (s : State) :
    OnlyIn [.out, .regs, .host, .mgmt, .fab] s (schedDiscard src inBuf port c s) := by
  unfold schedDiscard
  try dsimp only
  repeat' (first | (with_reducible exact OnlyIn.refl _ _) | (with_reducible refine OnlyIn.ite' ?_ ?_) | (with_reducible apply OnlyIn.via; (first | apply linkEvent_only | apply leaveBuffer_only | apply portCnt_only); on_goal 1 => decide))

theorem routeSched_only (src : ℕ) (inBuf : Option ℕ) (c : Cargo) (s : State) :
    OnlyIn [.out, .regs, .host, .mgmt, .fab] s (routeSched src inBuf c s) := by
  unfold routeSched
  try dsimp only
  repeat' (first | (with_reducible exact OnlyIn.refl _ _) | (with_reducible refine OnlyIn.ite' ?_ ?_) | (with_reducible apply OnlyIn.via; (first | apply schedDiscard_only | apply leaveBuffer_only | apply modPort_only); on_goal 1 => decide) | split | (with_reducible refine OnlyIn.upd_fab ?_ (by decide)))

theorem misdeal_only (p : ℕ) (mode : ℕ) (s : State) :
    OnlyIn [.regs, .fab, .act] s (misdeal p mode s).2 := by
  unfold misdeal
  try dsimp only
  repeat' (first | (with_reducible exact OnlyIn.refl _ _) | (with_reducible refine OnlyIn.ite' ?_ ?_) | (with_reducible apply OnlyIn.via; (first | apply setPort_only | apply portCnt_only | apply setVal64_only | apply setAct_only); on_goal 1 => decide) | split)

theorem toInbox_only (src : ℕ) (inBuf : Option ℕ) (c : Cargo) (s : State) :
    OnlyIn [.regs, .fab] s (toInbox src inBuf c s) := by
  unfold toInbox
  try dsimp only
  repeat' (first | (with_reducible exact OnlyIn.refl _ _) | (with_reducible refine OnlyIn.ite' ?_ ?_) | (with_reducible apply OnlyIn.via; (first | apply leaveBuffer_only | apply cntAdd_only | apply modPort_only); on_goal 1 => decide) | split | (with_reducible refine OnlyIn.upd_fab ?_ (by decide)))

theorem deliverHere_only (src : ℕ) (inBuf : Option ℕ) (c : Cargo) (s : State) :
    OnlyIn [.regs, .fab, .act] s (deliverHere src inBuf c s) := by
  unfold deliverHere
  try dsimp only
  repeat' (first | exact List.Subset.refl _ | decide | (with_reducible exact OnlyIn.refl _ _) | (with_reducible refine OnlyIn.ite' ?_ ?_) | (with_reducible apply OnlyIn.via; (first | apply misdeal_only | apply toInbox_only | apply modPort_only | apply setPort_only); on_goal 1 => decide) | (with_reducible apply OnlyIn.via; (on_goal 1 => (with_reducible refine .ofPair (by assumption) (misdeal_only ..))); on_goal 1 => decide) | ((with_reducible apply OnlyIn.andThen (m := [.regs, .fab, .act])); (on_goal 2 => (with_reducible apply forEach_only))) | ((with_reducible apply OnlyIn.andThen (m := [.regs, .fab, .act])); (on_goal 2 => (with_reducible apply OnlyIn.forEach; intro _ _)); (on_goal 3 => exact List.Subset.refl _)) | split)

theorem routePacket_only (src : ℕ) (inBuf : Option ℕ) (c : Cargo) (s : State) :
    OnlyIn [.regs, .fab, .act] s (routePacket src inBuf c s) := by
  unfold routePacket
  try dsimp only
  repeat' (first | (with_reducible exact OnlyIn.refl _ _) | (with_reducible refine OnlyIn.ite' ?_ ?_) | (with_reducible apply OnlyIn.via; (first | apply deliverHere_only | apply leaveBuffer_only | apply portCnt_only | apply modPort_only); on_goal 1 => decide) | split)

theorem sendCargo_only (part : Option ℕ) (c : Cargo) (s : State) :
    OnlyIn [.out, .regs, .host, .mgmt, .tap, .fab, .act] s (sendCargo part c s) := by
  unfold sendCargo
  try dsimp only
  repeat' (first | (with_reducible exact OnlyIn.refl _ _) | (with_reducible refine OnlyIn.ite' ?_ ?_) | (with_reducible apply OnlyIn.via; (first | apply tapAdd_only | apply routeSched_only | apply routePacket_only); on_goal 1 => decide) | split)

theorem showPort_only (p : ℕ) (s : State) :
    OnlyIn [.regs] s (showPort p s) := by
  unfold showPort
  try dsimp only
  repeat' (first | (with_reducible exact OnlyIn.refl _ _) | (with_reducible refine OnlyIn.ite' ?_ ?_) | (with_reducible apply OnlyIn.via; (first | apply setVal_only); on_goal 1 => decide))

theorem setLink_only (p : ℕ) (st : LinkState) (s : State) :
    OnlyIn [.out, .regs, .host, .mgmt, .fab] s (setLink p st s) := by
  unfold setLink
  try dsimp only
  repeat' (first | (with_reducible exact OnlyIn.refl _ _) | (with_reducible refine OnlyIn.ite' ?_ ?_) | (with_reducible apply OnlyIn.via; (first | apply showPort_only | apply emit_only | apply modPort_only | apply linkEvent_only); on_goal 1 => decide))

theorem takeInbox_only (port : ℕ) (c : Cargo) (s : State) :
    OnlyIn [.fab] s (takeInbox port c s) := by
  unfold takeInbox
  try dsimp only
  repeat' (first | (with_reducible exact OnlyIn.refl _ _) | (with_reducible refine OnlyIn.ite' ?_ ?_) | (with_reducible apply OnlyIn.via; (first | apply leaveBuffer_only | apply setPort_only); on_goal 1 => decide) | split | (with_reducible refine OnlyIn.upd_fab ?_ (by decide)))

theorem meterRx_only (part : Option ℕ) (pkt : Packet) (s : State) :
    OnlyIn [.tap] s (meterRx part pkt s) := by
  unfold meterRx
  try dsimp only
  repeat' (first | (with_reducible exact OnlyIn.refl _ _) | (with_reducible refine OnlyIn.ite' ?_ ?_) | (with_reducible apply OnlyIn.via; (first | apply tapAdd_only); on_goal 1 => decide) | split)

theorem takeCargo_only (p : ℕ) (c : Cargo) (s : State) :
    OnlyIn [.out, .regs, .host, .mgmt, .fab, .act] s (takeCargo p c s) := by
  unfold takeCargo
  try dsimp only
  repeat' (first | (with_reducible exact OnlyIn.refl _ _) | (with_reducible refine OnlyIn.ite' ?_ ?_) | (with_reducible apply OnlyIn.via; (first | apply misdeal_only | apply leaveBuffer_only | apply routeSched_only | apply routePacket_only); on_goal 1 => decide) | (with_reducible apply OnlyIn.via; (on_goal 1 => (with_reducible refine .ofPair (by assumption) (misdeal_only ..))); on_goal 1 => decide) | split)

theorem receiveBlock_only (p : ℕ) (b : RxBlock) (s : State) :
    OnlyIn [.out, .freeCnt, .regs, .host, .mgmt, .fab, .act] s (receiveBlock p b s) := by
  unfold receiveBlock
  try dsimp only
  repeat' (first | exact List.Subset.refl _ | decide | (with_reducible exact OnlyIn.refl _ _) | (with_reducible refine OnlyIn.ite' ?_ ?_) | (with_reducible apply OnlyIn.via; (first | apply portCnt_only | apply misdeal_only | apply stepFree_only | apply modPort_only | apply takeCargo_only); on_goal 1 => decide) | (with_reducible apply OnlyIn.via; (on_goal 1 => (with_reducible refine .ofPair (by assumption) (misdeal_only ..))); on_goal 1 => decide) | ((with_reducible apply OnlyIn.andThen (m := [.out, .freeCnt, .regs, .host, .mgmt, .fab, .act])); (on_goal 2 => (with_reducible apply forEach_only))) | ((with_reducible apply OnlyIn.andThen (m := [.out, .freeCnt, .regs, .host, .mgmt, .fab, .act])); (on_goal 2 => (with_reducible apply OnlyIn.forEach; intro _ _)); (on_goal 3 => exact List.Subset.refl _)) | split)

theorem execBlockReceive_only (port : ℕ) (b : RxBlock) (s : State) {t' : State} (h : (execBlockReceive port b s) = .next t') :
    OnlyIn [.out, .freeCnt, .regs, .host, .mgmt, .fab, .act] s t' := by
  unfold execBlockReceive at h
  try dsimp only at h
  repeat' (first | cases h | split at h)
  all_goals repeat' (first | (with_reducible exact OnlyIn.refl _ _) | (with_reducible refine OnlyIn.ite' ?_ ?_) | (with_reducible apply OnlyIn.via; (first | apply receiveBlock_only); on_goal 1 => decide))

theorem enterRetrain_only (p : ℕ) (s : State) :
    OnlyIn [.out, .regs, .host, .mgmt, .fab] s (enterRetrain p s) := by
  unfold enterRetrain
  try dsimp only
  repeat' (first | (with_reducible exact OnlyIn.refl _ _) | (with_reducible refine OnlyIn.ite' ?_ ?_) | (with_reducible apply OnlyIn.via; (first | apply setLink_only | apply portCnt_only | apply modPort_only); on_goal 1 => decide))

theorem execAlignmentBlockReceive_only (port : ℕ) (skewNs : ℕ) (s : State) {t' : State} (h : (execAlignmentBlockReceive port skewNs s) = .next t') :
    OnlyIn [.out, .regs, .host, .mgmt, .fab] s t' := by
  unfold execAlignmentBlockReceive at h
  try dsimp only at h
  repeat' (first | cases h | split at h)
  all_goals repeat' (first | (with_reducible exact OnlyIn.refl _ _) | (with_reducible refine OnlyIn.ite' ?_ ?_) | (with_reducible apply OnlyIn.via; (first | apply enterRetrain_only); on_goal 1 => decide))

theorem flipPre_only (p : ℕ) (s : State) :
    OnlyIn [.regs, .fab, .act] s (flipPre p s).2 := by
  unfold flipPre
  try dsimp only
  repeat' (first | (with_reducible exact OnlyIn.refl _ _) | (with_reducible refine OnlyIn.ite' ?_ ?_) | (with_reducible apply OnlyIn.via; (first | apply misdeal_only); on_goal 1 => decide) | (with_reducible apply OnlyIn.via; (on_goal 1 => (with_reducible refine .ofPair (by assumption) (misdeal_only ..))); on_goal 1 => decide) | split)

theorem resendBlock_only (p : ℕ) (i : ℕ) (s : State) :
    OnlyIn [.out, .regs, .fab, .act] s (resendBlock p i s) := by
  unfold resendBlock
  try dsimp only
  repeat' (first | (with_reducible exact OnlyIn.refl _ _) | (with_reducible refine OnlyIn.ite' ?_ ?_) | (with_reducible apply OnlyIn.via; (first | apply setPort_only | apply flipPre_only | apply emit_only | apply portCnt_only); on_goal 1 => decide) | (with_reducible apply OnlyIn.via; (on_goal 1 => (with_reducible refine .ofPair (by assumption) (flipPre_only ..))); on_goal 1 => decide) | split)

theorem creditWait_only (p : ℕ) (s : State) :
    OnlyIn [.regs, .fab] s (creditWait p s) := by
  unfold creditWait
  try dsimp only
  repeat' (first | (with_reducible exact OnlyIn.refl _ _) | (with_reducible refine OnlyIn.ite' ?_ ?_) | (with_reducible apply OnlyIn.via; (first | apply setPort_only | apply portCnt_only); on_goal 1 => decide) | split)

theorem newBlock_only (p : ℕ) (s : State) :
    OnlyIn [.out, .regs, .host, .mgmt, .fab, .act] s (newBlock p s) := by
  unfold newBlock
  try dsimp only
  repeat' (first | exact List.Subset.refl _ | decide | (with_reducible exact OnlyIn.refl _ _) | (with_reducible refine OnlyIn.ite' ?_ ?_) | (with_reducible apply OnlyIn.via; (first | apply portCnt_only | apply setPort_only | apply leaveBuffer_only | apply flipPre_only | apply creditWait_only | apply emit_only | apply enterRetrain_only); on_goal 1 => decide) | (with_reducible apply OnlyIn.via; (on_goal 1 => (with_reducible refine .ofPair (by assumption) (flipPre_only ..))); on_goal 1 => decide) | ((with_reducible apply OnlyIn.andThen (m := [.out, .regs, .host, .mgmt, .fab, .act])); (on_goal 2 => (with_reducible apply forEach_only))) | ((with_reducible apply OnlyIn.andThen (m := [.out, .regs, .host, .mgmt, .fab, .act])); (on_goal 2 => (with_reducible apply OnlyIn.forEach; intro _ _)); (on_goal 3 => exact List.Subset.refl _)))

theorem transmitBlock_only (p : ℕ) (s : State) :
    OnlyIn [.out, .regs, .host, .mgmt, .fab, .act] s (transmitBlock p s) := by
  unfold transmitBlock
  try dsimp only
  repeat' (first | (with_reducible exact OnlyIn.refl _ _) | (with_reducible refine OnlyIn.ite' ?_ ?_) | (with_reducible apply OnlyIn.via; (first | apply emit_only | apply setPort_only | apply resendBlock_only | apply enterRetrain_only | apply newBlock_only); on_goal 1 => decide) | split)

theorem execBlockTransmit_only (port : ℕ) (s : State) {t' : State} (h : (execBlockTransmit port s) = .next t') :
    OnlyIn [.out, .regs, .host, .mgmt, .fab, .act] s t' := by
  unfold execBlockTransmit at h
  try dsimp only at h
  repeat' (first | cases h | split at h)
  all_goals repeat' (first | (with_reducible exact OnlyIn.refl _ _) | (with_reducible refine OnlyIn.ite' ?_ ?_) | (with_reducible apply OnlyIn.via; (first | apply transmitBlock_only); on_goal 1 => decide))

theorem execRxLctl_only (port : ℕ) (f : Lctl) (s : State) {t' : State} (h : (execRxLctl port f s) = .next t') :
    OnlyIn [.fab] s t' := by
  unfold execRxLctl at h
  try dsimp only at h
  repeat' (first | cases h | split at h)
  all_goals repeat' (first | (with_reducible exact OnlyIn.refl _ _) | (with_reducible refine OnlyIn.ite' ?_ ?_) | (with_reducible apply OnlyIn.via; (first | apply modPort_only); on_goal 1 => decide))

theorem showOffset_only (o : ℤ) (s : State) :
    OnlyIn [.freeCnt, .regs] s (showOffset o s) := by
  unfold showOffset
  try dsimp only
  repeat' (first | (with_reducible exact OnlyIn.refl _ _) | (with_reducible refine OnlyIn.ite' ?_ ?_) | (with_reducible apply OnlyIn.via; (first | apply setValBits_only | apply stepFree_only); on_goal 1 => decide))

theorem useOffset_only (o : ℤ) (s : State) :
    OnlyIn [.freeCnt, .clk, .regs, .fab] s (useOffset o s) := by
  unfold useOffset
  try dsimp only
  repeat' (first | (with_reducible exact OnlyIn.refl _ _) | (with_reducible refine OnlyIn.ite' ?_ ?_) | (with_reducible apply OnlyIn.via; (first | apply showOffset_only | apply setValBits_only); on_goal 1 => decide) | split | (with_reducible refine OnlyIn.upd_clk ?_ (by decide)) | (with_reducible refine OnlyIn.upd_fab ?_ (by decide)) | (with_reducible refine OnlyIn.upd ?_ (by constructor <;> first | (with_reducible rfl) | (with_reducible exact .inr rfl) | exact .inl (by decide))))

theorem execRxTsync_only (port : ℕ) (f : Tsync) (replayed : Bool) (rxFrac : ℕ) (s : State) {t' : State} (h : (execRxTsync port f replayed rxFrac s) = .next t') :
    OnlyIn [.freeCnt, .clk, .regs, .fab] s t' := by
  unfold execRxTsync at h
  try dsimp only at h
  repeat' (first | cases h | split at h)
  all_goals repeat' (first | (with_reducible exact OnlyIn.refl _ _) | (with_reducible refine OnlyIn.ite' ?_ ?_) | (with_reducible apply OnlyIn.via; (first | apply setPort_only | apply setValBits_only | apply useOffset_only); on_goal 1 => decide) | split | (with_reducible refine OnlyIn.upd_fab ?_ (by decide)))

theorem enterCredit_only (p : ℕ) (s : State) :
    OnlyIn [.out, .regs, .host, .mgmt, .fab] s (enterCredit p s) := by
  unfold enterCredit
  try dsimp only
  repeat' (first | (with_reducible exact OnlyIn.refl _ _) | (with_reducible refine OnlyIn.ite' ?_ ?_) | (with_reducible apply OnlyIn.via; (first | apply setLink_only | apply modPort_only); on_goal 1 => decide))

theorem setWidth_only (p : ℕ) (w : Bool × Bool) (s : State) :
    OnlyIn [.out, .regs, .host, .mgmt, .fab] s (setWidth p w s) := by
  unfold setWidth
  try dsimp only
  repeat' (first | (with_reducible exact OnlyIn.refl _ _) | (with_reducible refine OnlyIn.ite' ?_ ?_) | (with_reducible apply OnlyIn.via; (first | apply showPort_only | apply modPort_only | apply linkEvent_only); on_goal 1 => decide))

theorem execRxRetrain_only (port : ℕ) (s : State) {t' : State} (h : (execRxRetrain port s) = .next t') :
    OnlyIn [.out, .regs, .host, .mgmt, .fab] s t' := by
  unfold execRxRetrain at h
  try dsimp only at h
  repeat' (first | cases h | split at h)
  all_goals repeat' (first | (with_reducible exact OnlyIn.refl _ _) | (with_reducible refine OnlyIn.ite' ?_ ?_) | (with_reducible apply OnlyIn.via; (first | apply enterRetrain_only); on_goal 1 => decide))

theorem execReplayAckTimeout_only (port : ℕ) (s : State) {t' : State} (h : (execReplayAckTimeout port s) = .next t') :
    OnlyIn [.clk, .fab] s t' := by
  unfold execReplayAckTimeout at h
  try dsimp only at h
  repeat' (first | cases h | split at h)
  all_goals repeat' (first | (with_reducible exact OnlyIn.refl _ _) | (with_reducible refine OnlyIn.ite' ?_ ?_) | (with_reducible apply OnlyIn.via; (first | apply modPort_only | apply advanceTo_only); on_goal 1 => decide) | split)

theorem execSignalDetect_only (port : ℕ) (s : State) {t' : State} (h : (execSignalDetect port s) = .next t') :
    OnlyIn [.out, .regs, .host, .mgmt, .fab] s t' := by
  unfold execSignalDetect at h
  try dsimp only at h
  repeat' (first | cases h | split at h)
  all_goals repeat' (first | (with_reducible exact OnlyIn.refl _ _) | (with_reducible refine OnlyIn.ite' ?_ ?_) | (with_reducible apply OnlyIn.via; (first | apply setLink_only | apply setPort_only); on_goal 1 => decide))

theorem enterNegotiate_only (p : ℕ) (lanes : BitVec 8) (s : State) :
    OnlyIn [.out, .regs, .host, .mgmt, .fab] s (enterNegotiate p lanes s) := by
  unfold enterNegotiate
  try dsimp only
  repeat' (first | (with_reducible exact OnlyIn.refl _ _) | (with_reducible refine OnlyIn.ite' ?_ ?_) | (with_reducible apply OnlyIn.via; (first | apply setLink_only | apply modPort_only); on_goal 1 => decide))

theorem execTrainLowDone_only (port : ℕ) (lanes : BitVec 8) (s : State) {t' : State} (h : (execTrainLowDone port lanes s) = .next t') :
    OnlyIn [.out, .regs, .host, .mgmt, .fab] s t' := by
  unfold execTrainLowDone at h
  try dsimp only at h
  repeat' (first | cases h | split at h)
  all_goals repeat' (first | (with_reducible exact OnlyIn.refl _ _) | (with_reducible refine OnlyIn.ite' ?_ ?_) | (with_reducible apply OnlyIn.via; (first | apply enterNegotiate_only); on_goal 1 => decide))

theorem execLaneFailure_only (port : ℕ) (lane : ℕ) (s : State) {t' : State} (h : (execLaneFailure port lane s) = .next t') :
    OnlyIn [.out, .regs, .host, .mgmt, .fab] s t' := by
  unfold execLaneFailure at h
  try dsimp only at h
  repeat' (first | cases h | split at h)
  all_goals repeat' (first | (with_reducible exact OnlyIn.refl _ _) | (with_reducible refine OnlyIn.ite' ?_ ?_) | (with_reducible apply OnlyIn.via; (first | apply enterRetrain_only | apply setPort_only); on_goal 1 => decide))

theorem execTsyncDue_only (s : State) {t' : State} (h : (execTsyncDue s) = .next t') :
    OnlyIn [.clk, .fab] s t' := by
  unfold execTsyncDue at h
  try dsimp only at h
  repeat' (first | cases h | split at h)
  all_goals repeat' (first | exact List.Subset.refl _ | decide | (with_reducible exact OnlyIn.refl _ _) | (with_reducible refine OnlyIn.ite' ?_ ?_) | (with_reducible apply OnlyIn.via; (first | apply advanceTo_only | apply modPort_only); on_goal 1 => decide) | ((with_reducible apply OnlyIn.andThen (m := [.clk, .fab])); (on_goal 2 => (with_reducible apply forEach_only))) | ((with_reducible apply OnlyIn.andThen (m := [.clk, .fab])); (on_goal 2 => (with_reducible apply OnlyIn.forEach; intro _ _)); (on_goal 3 => exact List.Subset.refl _)))

theorem execHoldoverEnter_only (s : State) {t' : State} (h : (execHoldoverEnter s) = .next t') :
    OnlyIn [.clk, .regs, .fab] s t' := by
  unfold execHoldoverEnter at h
  try dsimp only at h
  repeat' (first | cases h | split at h)
  all_goals repeat' (first | (with_reducible exact OnlyIn.refl _ _) | (with_reducible refine OnlyIn.ite' ?_ ?_) | (with_reducible apply OnlyIn.via; (first | apply advanceTo_only | apply setValBits_only); on_goal 1 => decide) | split | (with_reducible refine OnlyIn.upd_fab ?_ (by decide)))

theorem execPtpMessage_only (domain : BitVec 8) (offsetNs : ℤ) (s : State) {t' : State} (h : (execPtpMessage domain offsetNs s) = .next t') :
    OnlyIn [.freeCnt, .regs, .mgmt, .fab] s t' := by
  unfold execPtpMessage at h
  try dsimp only at h
  repeat' (first | cases h | split at h)
  all_goals repeat' (first | (with_reducible exact OnlyIn.refl _ _) | (with_reducible refine OnlyIn.ite' ?_ ?_) | (with_reducible apply OnlyIn.via; (first | apply setVal_only | apply stepFree_only); on_goal 1 => decide) | split | (with_reducible refine OnlyIn.upd_mgmt ?_ (by decide) (by first | (with_reducible exact .inr rfl))) | (with_reducible refine OnlyIn.upd_fab ?_ (by decide)))

theorem rmaCnt_only (i : ℕ) (n : ℕ) (s : State) :
    OnlyIn [.regs] s (rmaCnt i n s) := by
  unfold rmaCnt
  try dsimp only
  repeat' (first | (with_reducible exact OnlyIn.refl _ _) | (with_reducible refine OnlyIn.ite' ?_ ?_) | (with_reducible apply OnlyIn.via; (first | apply cntAdd_only); on_goal 1 => decide))

theorem setConn_only (c : ℕ) (x : Conn) (s : State) :
    OnlyIn [.rma] s (setConn c x s) := by
  unfold setConn
  try dsimp only
  repeat' (first | (with_reducible exact OnlyIn.refl _ _) | (with_reducible refine OnlyIn.ite' ?_ ?_) | split | (with_reducible refine OnlyIn.upd_rma ?_ (by decide)))

theorem modConn_only (c : ℕ) (f : Conn → Conn) (s : State) :
    OnlyIn [.rma] s (modConn c f s) := by
  unfold modConn
  try dsimp only
  repeat' (first | (with_reducible exact OnlyIn.refl _ _) | (with_reducible refine OnlyIn.ite' ?_ ?_) | (with_reducible apply OnlyIn.via; (first | apply setConn_only); on_goal 1 => decide))

theorem fetchCtx_only (c : ℕ) (s : State) :
    OnlyIn [.regs, .rma] s (fetchCtx c s) := by
  unfold fetchCtx
  try dsimp only
  repeat' (first | (with_reducible exact OnlyIn.refl _ _) | (with_reducible refine OnlyIn.ite' ?_ ?_) | (with_reducible apply OnlyIn.via; (first | apply rmaCnt_only | apply modConn_only); on_goal 1 => decide))

theorem lostProducer_only (c : Cmd) (node : ℕ) (s : State) :
    OnlyIn [.out, .host, .mgmt] s (lostProducer c node s) := by
  unfold lostProducer
  try dsimp only
  repeat' (first | (with_reducible exact OnlyIn.refl _ _) | (with_reducible refine OnlyIn.ite' ?_ ?_) | (with_reducible apply OnlyIn.via; (first | apply post_only); on_goal 1 => decide))

theorem dataLostEvent_only (c : Cmd) (node : ℕ) (aux : ℕ) (s : State) :
    OnlyIn [.out, .host, .mgmt] s (dataLostEvent c node aux s) := by
  unfold dataLostEvent
  try dsimp only
  repeat' (first | (with_reducible exact OnlyIn.refl _ _) | (with_reducible refine OnlyIn.ite' ?_ ?_) | (with_reducible apply OnlyIn.via; (first | apply post_only); on_goal 1 => decide))

theorem replDegrade_only (n : ℕ) (s : State) :
    OnlyIn [.out, .host, .seqs, .mgmt] s (replDegrade n s) := by
  unfold replDegrade
  try dsimp only
  repeat' (first | (with_reducible exact OnlyIn.refl _ _) | (with_reducible refine OnlyIn.ite' ?_ ?_) | (with_reducible apply OnlyIn.via; (first | apply post_only); on_goal 1 => decide) | split | (with_reducible refine OnlyIn.upd_seqs ?_ (by decide)))

theorem loseSub_only (c : Cmd) (i : ℕ) (s : State) :
    OnlyIn [.out, .freeCnt, .regs, .host, .cmds, .seqs, .mgmt, .sec] s (loseSub c i s) := by
  unfold loseSub
  try dsimp only
  repeat' (first | (with_reducible exact OnlyIn.refl _ _) | (with_reducible refine OnlyIn.ite' ?_ ?_) | (with_reducible apply OnlyIn.via; (first | apply lostProducer_only | apply setCmd_only | apply strikeCmd_only | apply endAtAdmission_only | apply finish_only | apply dataLostEvent_only | apply replDegrade_only); on_goal 1 => decide) | split)

theorem loseOn_only (conn : ℕ) (s : State) :
    OnlyIn [.out, .freeCnt, .regs, .host, .cmds, .seqs, .mgmt, .sec] s (loseOn conn s) := by
  unfold loseOn
  try dsimp only
  repeat' (first | exact List.Subset.refl _ | decide | (with_reducible exact OnlyIn.refl _ _) | (with_reducible refine OnlyIn.ite' ?_ ?_) | (with_reducible apply OnlyIn.via; (first | apply loseSub_only); on_goal 1 => decide) | ((with_reducible apply OnlyIn.andThen (m := [.out, .freeCnt, .regs, .host, .cmds, .seqs, .mgmt, .sec])); (on_goal 2 => (with_reducible apply forEach_only))) | ((with_reducible apply OnlyIn.andThen (m := [.out, .freeCnt, .regs, .host, .cmds, .seqs, .mgmt, .sec])); (on_goal 2 => (with_reducible apply OnlyIn.forEach; intro _ _)); (on_goal 3 => exact List.Subset.refl _)) | split)

theorem connLeft_only (c : ℕ) (s : State) :
    OnlyIn [.out, .freeCnt, .regs, .host, .cmds, .seqs, .mgmt, .sec] s (connLeft c s) := by
  unfold connLeft
  try dsimp only
  repeat' (first | exact List.Subset.refl _ | decide | (with_reducible exact OnlyIn.refl _ _) | (with_reducible refine OnlyIn.ite' ?_ ?_) | (with_reducible apply OnlyIn.via; (first | apply loseOn_only | apply replDegrade_only); on_goal 1 => decide) | ((with_reducible apply OnlyIn.andThen (m := [.out, .freeCnt, .regs, .host, .cmds, .seqs, .mgmt, .sec])); (on_goal 2 => (with_reducible apply forEach_only))) | ((with_reducible apply OnlyIn.andThen (m := [.out, .freeCnt, .regs, .host, .cmds, .seqs, .mgmt, .sec])); (on_goal 2 => (with_reducible apply OnlyIn.forEach; intro _ _)); (on_goal 3 => exact List.Subset.refl _)))

theorem connError_only (c : ℕ) (s : State) :
    OnlyIn [.out, .freeCnt, .regs, .host, .cmds, .seqs, .mgmt, .rma, .sec] s (connError c s) := by
  unfold connError
  try dsimp only
  repeat' (first | exact List.Subset.refl _ | decide | (with_reducible exact OnlyIn.refl _ _) | (with_reducible refine OnlyIn.ite' ?_ ?_) | (with_reducible apply OnlyIn.via; (first | apply setConn_only | apply endAtAdmission_only | apply finish_only | apply connLeft_only | apply post_only); on_goal 1 => decide) | ((with_reducible apply OnlyIn.andThen (m := [.out, .freeCnt, .regs, .host, .cmds, .seqs, .mgmt, .rma, .sec])); (on_goal 2 => (with_reducible apply forEach_only))) | ((with_reducible apply OnlyIn.andThen (m := [.out, .freeCnt, .regs, .host, .cmds, .seqs, .mgmt, .rma, .sec])); (on_goal 2 => (with_reducible apply OnlyIn.forEach; intro _ _)); (on_goal 3 => exact List.Subset.refl _)) | split)

theorem sendConn_only (c : ℕ) (t : TrHdr) (payload : List Byte) (wrap : Packet → Cargo) (s : State) :
    OnlyIn [.out, .regs, .host, .mgmt, .tap, .fab, .act] s (sendConn c t payload wrap s) := by
  unfold sendConn
  try dsimp only
  repeat' (first | (with_reducible exact OnlyIn.refl _ _) | (with_reducible refine OnlyIn.ite' ?_ ?_) | (with_reducible apply OnlyIn.via; (first | apply sendCargo_only); on_goal 1 => decide))

theorem sendOpFrom_only (c : ℕ) (o : Op) (k : ℕ) (s : State) :
    OnlyIn [.out, .regs, .host, .mgmt, .tap, .fab, .act] s (sendOpFrom c o k s) := by
  unfold sendOpFrom
  try dsimp only
  repeat' (first | exact List.Subset.refl _ | decide | (with_reducible exact OnlyIn.refl _ _) | (with_reducible refine OnlyIn.ite' ?_ ?_) | (with_reducible apply OnlyIn.via; (first | apply sendConn_only); on_goal 1 => decide) | ((with_reducible apply OnlyIn.andThen (m := [.out, .regs, .host, .mgmt, .tap, .fab, .act])); (on_goal 2 => (with_reducible apply forEach_only))) | ((with_reducible apply OnlyIn.andThen (m := [.out, .regs, .host, .mgmt, .tap, .fab, .act])); (on_goal 2 => (with_reducible apply OnlyIn.forEach; intro _ _)); (on_goal 3 => exact List.Subset.refl _)))

theorem startOp_only (c : ℕ) (i : ℕ) (o : Op) (s : State) :
    OnlyIn [.out, .freeCnt, .regs, .host, .cmds, .seqs, .mgmt, .tap, .fab, .rma, .sec, .act] s (startOp c i o s) := by
  unfold startOp
  try dsimp only
  repeat' (first | (with_reducible exact OnlyIn.refl _ _) | (with_reducible refine OnlyIn.ite' ?_ ?_) | (with_reducible apply OnlyIn.via; (first | apply connError_only | apply setConn_only | apply sendOpFrom_only | apply rmaCnt_only); on_goal 1 => decide) | split | (with_reducible refine OnlyIn.upd_rma ?_ (by decide)))

theorem pumpAux_only (c : ℕ) (x1 : ℕ) (x2 : State) :
    OnlyIn [.out, .freeCnt, .regs, .host, .cmds, .seqs, .mgmt, .tap, .fab, .rma, .sec, .act] x2 (pumpAux c x1 x2) := by
  induction x1 generalizing c x2 with
  | zero => exact OnlyIn.refl _ _
  | succ n ih =>
  unfold pumpAux
  try lift_lets
  repeat' (first | ((with_reducible apply OnlyIn.andThen (m := [.out, .freeCnt, .regs, .host, .cmds, .seqs, .mgmt, .tap, .fab, .rma, .sec, .act])); (on_goal 2 => (with_reducible apply ih)); (on_goal 2 => exact List.Subset.refl _)) | (intro x; have hx : OnlyIn [.out, .freeCnt, .regs, .host, .cmds, .seqs, .mgmt, .tap, .fab, .rma, .sec, .act] x2 x := (by repeat' (first | ((with_reducible apply OnlyIn.andThen (m := [.out, .freeCnt, .regs, .host, .cmds, .seqs, .mgmt, .tap, .fab, .rma, .sec, .act])); (on_goal 2 => (with_reducible apply ih)); (on_goal 2 => exact List.Subset.refl _)) | (with_reducible exact OnlyIn.refl _ _) | assumption | (with_reducible refine OnlyIn.ite' ?_ ?_) | (with_reducible apply OnlyIn.via; (first | ((with_reducible apply OnlyIn.andThen (m := [.out, .freeCnt, .regs, .host, .cmds, .seqs, .mgmt, .tap, .fab, .rma, .sec, .act])); (on_goal 2 => (with_reducible apply ih)); (on_goal 2 => exact List.Subset.refl _)) | apply startOp_only); on_goal 1 => decide) | split)); clear_value x) | (intro x) | lift_lets | (with_reducible exact OnlyIn.refl _ _) | assumption | (with_reducible refine OnlyIn.ite' ?_ ?_) | (with_reducible apply OnlyIn.via; (first | ((with_reducible apply OnlyIn.andThen (m := [.out, .freeCnt, .regs, .host, .cmds, .seqs, .mgmt, .tap, .fab, .rma, .sec, .act])); (on_goal 2 => (with_reducible apply ih)); (on_goal 2 => exact List.Subset.refl _)) | apply startOp_only); on_goal 1 => decide) | split)

theorem touchCtx_only (c : ℕ) (s : State) :
    OnlyIn [.rma] s (touchCtx c s) := by
  unfold touchCtx
  try dsimp only
  repeat' (first | (with_reducible exact OnlyIn.refl _ _) | (with_reducible refine OnlyIn.ite' ?_ ?_) | split | (with_reducible refine OnlyIn.upd_rma ?_ (by decide)))

theorem pump_only (c : ℕ) (s : State) :
    OnlyIn [.out, .freeCnt, .regs, .host, .cmds, .seqs, .mgmt, .tap, .fab, .rma, .sec, .act] s (pump c s) := by
  unfold pump
  try dsimp only
  repeat' (first | (with_reducible exact OnlyIn.refl _ _) | (with_reducible refine OnlyIn.ite' ?_ ?_) | (with_reducible apply OnlyIn.via; (first | apply fetchCtx_only | apply pumpAux_only | apply touchCtx_only); on_goal 1 => decide))

theorem postOp_only (c : ℕ) (o : Op) (s : State) :
    OnlyIn [.out, .freeCnt, .regs, .host, .cmds, .seqs, .mgmt, .tap, .fab, .rma, .sec, .act] s (postOp c o s) := by
  unfold postOp
  try dsimp only
  repeat' (first | (with_reducible exact OnlyIn.refl _ _) | (with_reducible refine OnlyIn.ite' ?_ ?_) | (with_reducible apply OnlyIn.via; (first | apply pump_only | apply modConn_only); on_goal 1 => decide))

theorem sendCall_only (c : ℕ) (m : CallMsg) (s : State) :
    OnlyIn [.out, .freeCnt, .regs, .host, .cmds, .seqs, .mgmt, .tap, .fab, .rma, .sec, .act] s (sendCall c m s) := by
  unfold sendCall
  try dsimp only
  repeat' (first | (with_reducible exact OnlyIn.refl _ _) | (with_reducible refine OnlyIn.ite' ?_ ?_) | (with_reducible apply OnlyIn.via; (first | apply postOp_only); on_goal 1 => decide))

theorem sendSubs_only (c : Cmd) (subs : List Sub) (s : State) :
    OnlyIn [.out, .freeCnt, .regs, .host, .cmds, .seqs, .mgmt, .tap, .fab, .rma, .sec, .act] s (sendSubs c subs s) := by
  unfold sendSubs
  try dsimp only
  repeat' (first | exact List.Subset.refl _ | decide | (with_reducible exact OnlyIn.refl _ _) | (with_reducible refine OnlyIn.ite' ?_ ?_) | (with_reducible apply OnlyIn.via; (first | apply sendCall_only | apply setCmd_only | apply loseOn_only); on_goal 1 => decide) | ((with_reducible apply OnlyIn.andThen (m := [.out, .freeCnt, .regs, .host, .cmds, .seqs, .mgmt, .tap, .fab, .rma, .sec, .act])); (on_goal 2 => (with_reducible apply forEach_only))) | ((with_reducible apply OnlyIn.andThen (m := [.out, .freeCnt, .regs, .host, .cmds, .seqs, .mgmt, .tap, .fab, .rma, .sec, .act])); (on_goal 2 => (with_reducible apply OnlyIn.forEach; intro _ _)); (on_goal 3 => exact List.Subset.refl _)))

theorem sendAck_only (c : ℕ) (top : BitVec 8) (psn : BitVec 24) (code : ℕ) (delay : ℕ) (s : State) :
    OnlyIn [.out, .regs, .host, .mgmt, .tap, .fab, .act] s (sendAck c top psn code delay s) := by
  unfold sendAck
  try dsimp only
  repeat' (first | (with_reducible exact OnlyIn.refl _ _) | (with_reducible refine OnlyIn.ite' ?_ ?_) | (with_reducible apply OnlyIn.via; (first | apply sendConn_only); on_goal 1 => decide))

theorem progress_only (c : ℕ) (s : State) :
    OnlyIn [.out, .freeCnt, .regs, .host, .cmds, .seqs, .mgmt, .tap, .fab, .rma, .sec, .act] s (progress c s) := by
  unfold progress
  try dsimp only
  repeat' (first | (with_reducible exact OnlyIn.refl _ _) | (with_reducible refine OnlyIn.ite' ?_ ?_) | (with_reducible apply OnlyIn.via; (first | apply pump_only | apply modConn_only); on_goal 1 => decide))

theorem dropOp_only (c : ℕ) (o : Op) (s : State) :
    OnlyIn [.rma] s (dropOp c o s) := by
  unfold dropOp
  try dsimp only
  repeat' (first | (with_reducible exact OnlyIn.refl _ _) | (with_reducible refine OnlyIn.ite' ?_ ?_) | (with_reducible apply OnlyIn.via; (first | apply modConn_only); on_goal 1 => decide))

theorem resendFrom_only (c : ℕ) (from_ : BitVec 24) (s : State) :
    OnlyIn [.out, .regs, .host, .mgmt, .tap, .fab, .rma, .act] s (resendFrom c from_ s) := by
  unfold resendFrom
  try dsimp only
  repeat' (first | exact List.Subset.refl _ | decide | (with_reducible exact OnlyIn.refl _ _) | (with_reducible refine OnlyIn.ite' ?_ ?_) | (with_reducible apply OnlyIn.via; (first | apply setConn_only | apply rmaCnt_only | apply sendOpFrom_only); on_goal 1 => decide) | ((with_reducible apply OnlyIn.andThen (m := [.out, .regs, .host, .mgmt, .tap, .fab, .rma, .act])); (on_goal 2 => (with_reducible apply forEach_only))) | ((with_reducible apply OnlyIn.andThen (m := [.out, .regs, .host, .mgmt, .tap, .fab, .rma, .act])); (on_goal 2 => (with_reducible apply OnlyIn.forEach; intro _ _)); (on_goal 3 => exact List.Subset.refl _)) | split)

theorem startRead_only (c : Cmd) (a : ℕ) (n : ℕ) (s : State) :
    OnlyIn [.out, .freeCnt, .regs, .host, .cmds, .seqs, .mgmt, .tap, .fab, .rma, .sec, .act] s (startRead c a n s).2 := by
  unfold startRead
  try dsimp only
  repeat' (first | exact List.Subset.refl _ | decide | (with_reducible exact OnlyIn.refl _ _) | (with_reducible refine OnlyIn.ite' ?_ ?_) | (with_reducible apply OnlyIn.via; (first | apply countResolved_only | apply sendCall_only | apply setCmd_only | apply emit_only); on_goal 1 => decide) | ((with_reducible apply OnlyIn.andThen (m := [.out, .freeCnt, .regs, .host, .cmds, .seqs, .mgmt, .tap, .fab, .rma, .sec, .act])); (on_goal 2 => (with_reducible apply forEach_only))) | ((with_reducible apply OnlyIn.andThen (m := [.out, .freeCnt, .regs, .host, .cmds, .seqs, .mgmt, .tap, .fab, .rma, .sec, .act])); (on_goal 2 => (with_reducible apply OnlyIn.forEach; intro _ _)); (on_goal 3 => exact List.Subset.refl _)) | split)

theorem scratchWrite_only (a : ℕ) (x1 : List Byte) (x2 : State) :
    OnlyIn [.deck] x2 (scratchWrite a x1 x2) := by
  induction x1 generalizing a x2 with
  | nil => exact OnlyIn.refl _ _
  | cons a l ih =>
  unfold scratchWrite
  try lift_lets
  repeat' (first | ((with_reducible apply OnlyIn.andThen (m := [.deck])); (on_goal 2 => (with_reducible apply ih)); (on_goal 2 => exact List.Subset.refl _)) | (intro x; have hx : OnlyIn [.deck] x2 x := (by repeat' (first | ((with_reducible apply OnlyIn.andThen (m := [.deck])); (on_goal 2 => (with_reducible apply ih)); (on_goal 2 => exact List.Subset.refl _)) | (with_reducible exact OnlyIn.refl _ _) | assumption | (with_reducible refine OnlyIn.ite' ?_ ?_) | split | (with_reducible refine OnlyIn.upd_deck ?_ (by decide)) | (with_reducible refine OnlyIn.upd ?_ (by constructor <;> first | (with_reducible rfl) | (with_reducible exact .inr rfl) | exact .inl (by decide))))); clear_value x) | (intro x) | lift_lets | (with_reducible exact OnlyIn.refl _ _) | assumption | (with_reducible refine OnlyIn.ite' ?_ ?_) | split | (with_reducible refine OnlyIn.upd_deck ?_ (by decide)))

theorem deliver_only (c : Cmd) (a : ℕ) (bs : List Byte) (st : Status) (result : ℕ) (s : State) :
    OnlyIn [.out, .freeCnt, .regs, .host, .cmds, .seqs, .mgmt, .tap, .mem, .fab, .rma, .deck, .sec, .cells, .act] s (deliver c a bs st result s) := by
  unfold deliver
  try dsimp only
  repeat' (first | exact List.Subset.refl _ | decide | (with_reducible exact OnlyIn.refl _ _) | (with_reducible refine OnlyIn.ite' ?_ ?_) | (with_reducible apply OnlyIn.via; (first | apply endAtAdmission_only | apply finish_only | apply scratchWrite_only | apply countResolved_only | apply writeMem_only | apply modStep_only | apply sendCall_only | apply setCmd_only | apply emitC_only | apply meterData_only); on_goal 1 => decide) | ((with_reducible apply OnlyIn.andThen (m := [.out, .freeCnt, .regs, .host, .cmds, .seqs, .mgmt, .tap, .mem, .fab, .rma, .deck, .sec, .cells, .act])); (on_goal 2 => (with_reducible apply forEach_only))) | ((with_reducible apply OnlyIn.andThen (m := [.out, .freeCnt, .regs, .host, .cmds, .seqs, .mgmt, .tap, .mem, .fab, .rma, .deck, .sec, .cells, .act])); (on_goal 2 => (with_reducible apply OnlyIn.forEach; intro _ _)); (on_goal 3 => exact List.Subset.refl _)) | split)

theorem deliverDone_only (c : Cmd) (s : State) :
    OnlyIn [.out, .freeCnt, .regs, .host, .cmds, .mgmt, .sec] s (deliverDone c s) := by
  unfold deliverDone
  try dsimp only
  repeat' (first | (with_reducible exact OnlyIn.refl _ _) | (with_reducible refine OnlyIn.ite' ?_ ?_) | (with_reducible apply OnlyIn.via; (first | apply endAtAdmission_only | apply finish_only); on_goal 1 => decide) | split)

theorem destFailed_only (c : Cmd) (s : State) :
    OnlyIn [.cmds, .tap] s (destFailed c s) := by
  unfold destFailed
  try dsimp only
  repeat' (first | (with_reducible exact OnlyIn.refl _ _) | (with_reducible refine OnlyIn.ite' ?_ ?_) | (with_reducible apply OnlyIn.via; (first | apply setCmd_only); on_goal 1 => decide) | split | (with_reducible refine OnlyIn.upd_tap ?_ (by decide)))

end Sys2Proof.Machine
end

