-- ==== Sys2Proof/Laws/FrameSeqs.lean ====
section
/-! SUPPORT. The areas of the state that each function may change: sequences: LADLE, SEAL, MIGRATE and ATTEND. -/

namespace Sys2Proof.Machine

open Sys2Proof

theorem setSeq_only (n : ℕ) (q : Seq) (s : State) :
    OnlyIn [.seqs] s (setSeq n q s) := by
  unfold setSeq
  try dsimp only
  repeat' (first | (with_reducible exact OnlyIn.refl _ _) | (with_reducible refine OnlyIn.ite' ?_ ?_) | split | (with_reducible refine OnlyIn.upd_seqs ?_ (by decide)))

theorem modSeq_only (n : ℕ) (f : Seq → Seq) (s : State) :
    OnlyIn [.seqs] s (modSeq n f s) := by
  unfold modSeq
  try dsimp only
  repeat' (first | (with_reducible exact OnlyIn.refl _ _) | (with_reducible refine OnlyIn.ite' ?_ ?_) | (with_reducible apply OnlyIn.via; (first | apply setSeq_only); on_goal 1 => decide))

theorem addReader_only (n : ℕ) (key : ℕ) (len : ℕ) (s : State) :
    OnlyIn [.seqs] s (addReader n key len s) := by
  unfold addReader
  try dsimp only
  repeat' (first | (with_reducible exact OnlyIn.refl _ _) | (with_reducible refine OnlyIn.ite' ?_ ?_) | (with_reducible apply OnlyIn.via; (first | apply modSeq_only); on_goal 1 => decide))

theorem askReplica_only (n : ℕ) (pages : List (ℕ × ℕ)) (c : Cmd) (s : State) :
    OnlyIn [.out, .freeCnt, .regs, .host, .cmds, .seqs, .mgmt, .tap, .fab, .rma, .sec, .act] s (askReplica n pages c s) := by
  unfold askReplica
  try dsimp only
  repeat' (first | (with_reducible exact OnlyIn.refl _ _) | (with_reducible refine OnlyIn.ite' ?_ ?_) | (with_reducible apply OnlyIn.via; (first | apply sendCall_only | apply setCmd_only); on_goal 1 => decide))

theorem addTurn_only (n : ℕ) (key : ℕ) (s : State) :
    OnlyIn [.seqs] s (addTurn n key s) := by
  unfold addTurn
  try dsimp only
  repeat' (first | (with_reducible exact OnlyIn.refl _ _) | (with_reducible refine OnlyIn.ite' ?_ ?_) | (with_reducible apply OnlyIn.via; (first | apply modSeq_only); on_goal 1 => decide))

theorem showRefs_only (n : ℕ) (s : State) :
    OnlyIn [.regs] s (showRefs n s) := by
  unfold showRefs
  try dsimp only
  repeat' (first | (with_reducible exact OnlyIn.refl _ _) | (with_reducible refine OnlyIn.ite' ?_ ?_) | (with_reducible apply OnlyIn.via; (first | apply setVal_only); on_goal 1 => decide))

theorem damageEvents_only (n : ℕ) (part : ℕ) (pages : List (ℕ × ℕ)) (s : State) :
    OnlyIn [.out, .host, .mgmt] s (damageEvents n part pages s) := by
  unfold damageEvents
  try dsimp only
  repeat' (first | exact List.Subset.refl _ | decide | (with_reducible exact OnlyIn.refl _ _) | (with_reducible refine OnlyIn.ite' ?_ ?_) | (with_reducible apply OnlyIn.via; (first | apply post_only); on_goal 1 => decide) | ((with_reducible apply OnlyIn.andThen (m := [.out, .host, .mgmt])); (on_goal 2 => (with_reducible apply forEach_only))) | ((with_reducible apply OnlyIn.andThen (m := [.out, .host, .mgmt])); (on_goal 2 => (with_reducible apply OnlyIn.forEach; intro _ _)); (on_goal 3 => exact List.Subset.refl _)))

theorem commitSeq_only (n : ℕ) (a : ℕ) (b : ℕ) (pin : Bool) (step : BitVec 64) (rows : List (List (List ℕ × List ℕ))) (s : State) :
    OnlyIn [.out, .freeCnt, .regs, .host, .seqs, .mgmt] s (commitSeq n a b pin step rows s).2 := by
  unfold commitSeq
  try dsimp only
  repeat' (first | (with_reducible exact OnlyIn.refl _ _) | (with_reducible refine OnlyIn.ite' ?_ ?_) | (with_reducible apply OnlyIn.via; (first | apply damageEvents_only | apply setSeq_only | apply stepFree_only | apply cntAdd_only); on_goal 1 => decide))

theorem freeSeq_only (n : ℕ) (s : State) :
    OnlyIn [.regs, .seqs] s (freeSeq n s) := by
  unfold freeSeq
  try dsimp only
  repeat' (first | (with_reducible exact OnlyIn.refl _ _) | (with_reducible refine OnlyIn.ite' ?_ ?_) | (with_reducible apply OnlyIn.via; (first | apply showRefs_only | apply setSeq_only); on_goal 1 => decide))

theorem sendReplicate_only (c : Cmd) (r : LadleRun) (s : State) :
    OnlyIn [.out, .freeCnt, .regs, .host, .cmds, .seqs, .mgmt, .tap, .fab, .rma, .sec, .act] s (sendReplicate c r s) := by
  unfold sendReplicate
  try dsimp only
  repeat' (first | (with_reducible exact OnlyIn.refl _ _) | (with_reducible refine OnlyIn.ite' ?_ ?_) | (with_reducible apply OnlyIn.via; (first | apply sendCall_only | apply setCmd_only); on_goal 1 => decide))

theorem ladleFetch_only (x0 : ℕ) (x1 : Cmd) (x2 : LadleRun) (x3 : State) :
    OnlyIn [.out, .freeCnt, .regs, .host, .cmds, .seqs, .mgmt, .tap, .fab, .rma, .sec, .act] x3 (ladleFetch x0 x1 x2 x3) := by
  induction x0 generalizing x1 x2 x3 with
  | zero => exact OnlyIn.refl _ _
  | succ n ih =>
  unfold ladleFetch
  try lift_lets
  repeat' (first | ((with_reducible apply OnlyIn.andThen (m := [.out, .freeCnt, .regs, .host, .cmds, .seqs, .mgmt, .tap, .fab, .rma, .sec, .act])); (on_goal 2 => (with_reducible apply ih)); (on_goal 2 => exact List.Subset.refl _)) | (intro x; have hx : OnlyIn [.out, .freeCnt, .regs, .host, .cmds, .seqs, .mgmt, .tap, .fab, .rma, .sec, .act] x3 x := (by repeat' (first | ((with_reducible apply OnlyIn.andThen (m := [.out, .freeCnt, .regs, .host, .cmds, .seqs, .mgmt, .tap, .fab, .rma, .sec, .act])); (on_goal 2 => (with_reducible apply ih)); (on_goal 2 => exact List.Subset.refl _)) | (with_reducible exact OnlyIn.refl _ _) | assumption | (with_reducible refine OnlyIn.ite' ?_ ?_) | (with_reducible apply OnlyIn.via; (first | ((with_reducible apply OnlyIn.andThen (m := [.out, .freeCnt, .regs, .host, .cmds, .seqs, .mgmt, .tap, .fab, .rma, .sec, .act])); (on_goal 2 => (with_reducible apply ih)); (on_goal 2 => exact List.Subset.refl _)) | apply setCmd_only | apply sendReplicate_only | apply startRead_only | apply endAtAdmission_only | apply finish_only); on_goal 1 => decide) | (with_reducible apply OnlyIn.via; (on_goal 1 => (with_reducible refine .ofPair (by assumption) (startRead_only ..))); on_goal 1 => decide) | split)); clear_value x) | (intro x) | lift_lets | (with_reducible exact OnlyIn.refl _ _) | assumption | (with_reducible refine OnlyIn.ite' ?_ ?_) | (with_reducible apply OnlyIn.via; (first | ((with_reducible apply OnlyIn.andThen (m := [.out, .freeCnt, .regs, .host, .cmds, .seqs, .mgmt, .tap, .fab, .rma, .sec, .act])); (on_goal 2 => (with_reducible apply ih)); (on_goal 2 => exact List.Subset.refl _)) | apply setCmd_only | apply sendReplicate_only | apply startRead_only | apply endAtAdmission_only | apply finish_only); on_goal 1 => decide) | (with_reducible apply OnlyIn.via; (on_goal 1 => (with_reducible refine .ofPair (by assumption) (startRead_only ..))); on_goal 1 => decide) | split)

theorem ladleGo_only (c : Cmd) (r : LadleRun) (s : State) :
    OnlyIn [.out, .freeCnt, .regs, .host, .cmds, .seqs, .mgmt, .tap, .fab, .rma, .sec, .act] s (ladleGo c r s) := by
  unfold ladleGo
  try dsimp only
  repeat' (first | (with_reducible exact OnlyIn.refl _ _) | (with_reducible refine OnlyIn.ite' ?_ ?_) | (with_reducible apply OnlyIn.via; (first | apply ladleFetch_only); on_goal 1 => decide))

theorem runLadle_only (c : Cmd) (opening : Bool) (s : State) :
    OnlyIn [.out, .freeCnt, .regs, .host, .cmds, .seqs, .mgmt, .tap, .fab, .rma, .sec, .act] s (runLadle c opening s) := by
  unfold runLadle
  try dsimp only
  repeat' (first | (with_reducible exact OnlyIn.refl _ _) | (with_reducible refine OnlyIn.ite' ?_ ?_) | (with_reducible apply OnlyIn.via; (first | apply addTurn_only | apply admitCmd_only | apply ladleGo_only | apply modSeq_only); on_goal 1 => decide))

theorem admitLadle_only (c : Cmd) (s : State) :
    OnlyIn [.out, .freeCnt, .regs, .host, .cmds, .seqs, .mgmt, .tap, .fab, .rma, .sec, .act] s (admitLadle c s) := by
  unfold admitLadle
  try dsimp only
  repeat' (first | (with_reducible exact OnlyIn.refl _ _) | (with_reducible refine OnlyIn.ite' ?_ ?_) | (with_reducible apply OnlyIn.via; (first | apply endAtAdmission_only | apply finish_only | apply runLadle_only | apply stepFree_only | apply showRefs_only | apply setSeq_only); on_goal 1 => decide) | split | (with_reducible refine OnlyIn.upd_freeCnt ?_ (by decide)))

theorem admitSeal_only {l : List Area} {f : Cmd → Seq → State → State} {c : Cmd} {s : State} (hf : ∀ a0 a1 t, OnlyIn l t (f a0 a1 t)) (hl : [.out, .freeCnt, .regs, .host, .cmds, .mgmt, .sec] ⊆ l) :
    OnlyIn l s (admitSeal f c s) := by
  unfold admitSeal
  repeat' (first | (intro x) | (with_reducible exact OnlyIn.refl _ _) | assumption | (with_reducible refine OnlyIn.ite' ?_ ?_) | ((with_reducible apply OnlyIn.andThen (m := l)); (on_goal 2 => (apply hf)); (on_goal 2 => exact List.Subset.refl _)) | ((with_reducible apply OnlyIn.andThen (m := [.out, .freeCnt, .regs, .host, .cmds, .mgmt, .sec])); (on_goal 2 => (with_reducible first | apply endAtAdmission_only | apply finish_only)); (on_goal 2 => (first | decide | exact List.Subset.trans (by decide) hl))) | split)

theorem admitTurn_only (c : Cmd) (s : State) :
    OnlyIn [.regs, .cmds, .seqs] s (admitTurn c s) := by
  unfold admitTurn
  try dsimp only
  repeat' (first | (with_reducible exact OnlyIn.refl _ _) | (with_reducible refine OnlyIn.ite' ?_ ?_) | (with_reducible apply OnlyIn.via; (first | apply addTurn_only | apply admitCmd_only); on_goal 1 => decide))

theorem admitFree_only (x0 : Cmd) (x1 : State) :
    OnlyIn [.out, .freeCnt, .regs, .host, .cmds, .seqs, .mgmt, .sec] x1 (admitFree x0 x1) := by
  unfold admitFree
  try dsimp only
  repeat' (first | exact List.Subset.refl _ | decide | (with_reducible exact OnlyIn.refl _ _) | (with_reducible refine OnlyIn.ite' ?_ ?_) | (with_reducible apply OnlyIn.via; (first | apply modSeq_only | apply admitTurn_only); on_goal 1 => decide) | ((with_reducible apply OnlyIn.andThen (m := [.out, .freeCnt, .regs, .host, .cmds, .seqs, .mgmt, .sec])); (on_goal 2 => (with_reducible apply admitSeal_only))) | split | intro x)

theorem admitRead_only (x0 : Cmd) (x1 : State) :
    OnlyIn [.out, .freeCnt, .regs, .host, .cmds, .seqs, .mgmt, .tap, .mem, .fab, .rma, .deck, .sec, .cells, .act] x1 (admitRead x0 x1) := by
  unfold admitRead
  try dsimp only
  repeat' (first | exact List.Subset.refl _ | decide | (with_reducible exact OnlyIn.refl _ _) | (with_reducible refine OnlyIn.ite' ?_ ?_) | (with_reducible apply OnlyIn.via; (first | apply setCmd_only | apply admitCmd_only | apply deliver_only | apply endAtAdmission_only | apply finish_only); on_goal 1 => decide) | ((with_reducible apply OnlyIn.andThen (m := [.out, .freeCnt, .regs, .host, .cmds, .seqs, .mgmt, .tap, .mem, .fab, .rma, .deck, .sec, .cells, .act])); (on_goal 2 => (with_reducible apply admitSeal_only))) | split | intro x)

theorem admitFreeze_only (x0 : Cmd) (x1 : State) :
    OnlyIn [.out, .freeCnt, .regs, .host, .cmds, .seqs, .mgmt, .sec] x1 (admitFreeze x0 x1) := by
  unfold admitFreeze
  try dsimp only
  repeat' (first | exact List.Subset.refl _ | decide | (with_reducible exact OnlyIn.refl _ _) | (with_reducible refine OnlyIn.ite' ?_ ?_) | (with_reducible apply OnlyIn.via; (first | apply endAtAdmission_only | apply finish_only | apply admitTurn_only); on_goal 1 => decide) | ((with_reducible apply OnlyIn.andThen (m := [.out, .freeCnt, .regs, .host, .cmds, .seqs, .mgmt, .sec])); (on_goal 2 => (with_reducible apply admitSeal_only))) | split | intro x)

theorem ladleInput_only (c : Cmd) (g : Got) (s : State) :
    OnlyIn [.out, .freeCnt, .regs, .host, .cmds, .seqs, .mgmt, .tap, .fab, .rma, .sec, .act] s (ladleInput c g s) := by
  unfold ladleInput
  try dsimp only
  repeat' (first | (with_reducible exact OnlyIn.refl _ _) | (with_reducible refine OnlyIn.ite' ?_ ?_) | (with_reducible apply OnlyIn.via; (first | apply ladleFetch_only | apply endAtAdmission_only | apply finish_only); on_goal 1 => decide) | split)

theorem execLadle_only (ring : ℕ) (rseq : BitVec 32) (s : State) {t' : State} (h : (execLadle ring rseq s) = .next t') :
    OnlyIn [.out, .freeCnt, .regs, .host, .cmds, .seqs, .mgmt, .tap, .fab, .rma, .sec, .act] s t' := by
  unfold execLadle at h
  try dsimp only at h
  repeat' (first | cases h | split at h)
  all_goals repeat' (first | exact List.Subset.refl _ | decide | (with_reducible exact OnlyIn.refl _ _) | (with_reducible refine OnlyIn.ite' ?_ ?_) | (with_reducible apply OnlyIn.via; (first | apply admitLadle_only); on_goal 1 => decide) | ((with_reducible apply OnlyIn.andThen (m := [.out, .freeCnt, .regs, .host, .cmds, .seqs, .mgmt, .tap, .fab, .rma, .sec, .act])); (on_goal 2 => (with_reducible apply admitting_only))) | split | intro x)

theorem ladleEnds_only (c : Cmd) (q : Seq) (s : State) :
    OnlyIn [.out, .freeCnt, .regs, .host, .cmds, .mgmt, .sec] s (ladleEnds c q s) := by
  unfold ladleEnds
  try dsimp only
  repeat' (first | (with_reducible exact OnlyIn.refl _ _) | (with_reducible refine OnlyIn.ite' ?_ ?_) | (with_reducible apply OnlyIn.via; (first | apply endAtAdmission_only | apply finish_only); on_goal 1 => decide) | split)

theorem poolFull_only (n : ℕ) (part : ℕ) (s : State) :
    OnlyIn [.out, .host, .mgmt] s (poolFull n part s) := by
  unfold poolFull
  try dsimp only
  repeat' (first | (with_reducible exact OnlyIn.refl _ _) | (with_reducible refine OnlyIn.ite' ?_ ?_) | (with_reducible apply OnlyIn.via; (first | apply post_only); on_goal 1 => decide))

theorem ladleDoCommit_only (c : Cmd) (r : LadleRun) (s : State) :
    OnlyIn [.out, .freeCnt, .regs, .host, .cmds, .seqs, .mgmt, .tap, .fab, .rma, .deck, .sec, .act] s (ladleDoCommit c r s) := by
  unfold ladleDoCommit
  try dsimp only
  repeat' (first | (with_reducible exact OnlyIn.refl _ _) | (with_reducible refine OnlyIn.ite' ?_ ?_) | (with_reducible apply OnlyIn.via; (first | apply commitSeq_only | apply meter_only | apply endAtAdmission_only | apply finish_only | apply ladleGo_only); on_goal 1 => decide))

theorem ladleStep_only (c : Cmd) (r : LadleRun) (s : State) :
    OnlyIn [.out, .freeCnt, .regs, .host, .cmds, .seqs, .mgmt, .tap, .fab, .rma, .deck, .sec, .act] s (ladleStep c r s) := by
  unfold ladleStep
  try dsimp only
  repeat' (first | (with_reducible exact OnlyIn.refl _ _) | (with_reducible refine OnlyIn.ite' ?_ ?_) | (with_reducible apply OnlyIn.via; (first | apply ladleEnds_only | apply endAtAdmission_only | apply finish_only | apply ladleGo_only | apply faultAtAdmission_only | apply faultStep_only | apply poolFull_only | apply stepFree_only | apply ladleDoCommit_only | apply askReplica_only | apply setSeq_only); on_goal 1 => decide) | split)

theorem execLadleCommit_only (ring : ℕ) (rseq : BitVec 32) (s : State) {t' : State} (h : (execLadleCommit ring rseq s) = .next t') :
    OnlyIn [.out, .freeCnt, .regs, .host, .cmds, .seqs, .mgmt, .tap, .fab, .rma, .deck, .sec, .act] s t' := by
  unfold execLadleCommit at h
  try dsimp only at h
  repeat' (first | cases h | split at h)
  all_goals repeat' (first | (with_reducible exact OnlyIn.refl _ _) | (with_reducible refine OnlyIn.ite' ?_ ?_) | (with_reducible apply OnlyIn.via; (first | apply ladleStep_only); on_goal 1 => decide) | split)

theorem execSealFreeze_only (ring : ℕ) (rseq : BitVec 32) (s : State) {t' : State} (h : (execSealFreeze ring rseq s) = .next t') :
    OnlyIn [.out, .freeCnt, .regs, .host, .cmds, .seqs, .mgmt, .sec] s t' := by
  unfold execSealFreeze at h
  unfold sealRow at h
  try dsimp only at h
  repeat' (first | cases h | split at h)
  all_goals repeat' (first | exact List.Subset.refl _ | decide | (with_reducible exact OnlyIn.refl _ _) | (with_reducible refine OnlyIn.ite' ?_ ?_) | (with_reducible apply OnlyIn.via; (first | apply admitFreeze_only); on_goal 1 => decide) | ((with_reducible apply OnlyIn.andThen (m := [.out, .freeCnt, .regs, .host, .cmds, .seqs, .mgmt, .sec])); (on_goal 2 => (with_reducible apply admitting_only))) | split | intro x)

theorem execSealFree_only (ring : ℕ) (rseq : BitVec 32) (s : State) {t' : State} (h : (execSealFree ring rseq s) = .next t') :
    OnlyIn [.out, .freeCnt, .regs, .host, .cmds, .seqs, .mgmt, .sec] s t' := by
  unfold execSealFree at h
  unfold sealRow at h
  try dsimp only at h
  repeat' (first | cases h | split at h)
  all_goals repeat' (first | exact List.Subset.refl _ | decide | (with_reducible exact OnlyIn.refl _ _) | (with_reducible refine OnlyIn.ite' ?_ ?_) | (with_reducible apply OnlyIn.via; (first | apply admitFree_only); on_goal 1 => decide) | ((with_reducible apply OnlyIn.andThen (m := [.out, .freeCnt, .regs, .host, .cmds, .seqs, .mgmt, .sec])); (on_goal 2 => (with_reducible apply admitting_only))) | split | intro x)

theorem execSealRead_only (ring : ℕ) (rseq : BitVec 32) (s : State) {t' : State} (h : (execSealRead ring rseq s) = .next t') :
    OnlyIn [.out, .freeCnt, .regs, .host, .cmds, .seqs, .mgmt, .tap, .mem, .fab, .rma, .deck, .sec, .cells, .act] s t' := by
  unfold execSealRead at h
  unfold sealRow at h
  try dsimp only at h
  repeat' (first | cases h | split at h)
  all_goals repeat' (first | exact List.Subset.refl _ | decide | (with_reducible exact OnlyIn.refl _ _) | (with_reducible refine OnlyIn.ite' ?_ ?_) | (with_reducible apply OnlyIn.via; (first | apply admitRead_only); on_goal 1 => decide) | ((with_reducible apply OnlyIn.andThen (m := [.out, .freeCnt, .regs, .host, .cmds, .seqs, .mgmt, .tap, .mem, .fab, .rma, .deck, .sec, .cells, .act])); (on_goal 2 => (with_reducible apply admitting_only))) | split | intro x)

theorem execSealFreezeEffect_only (ring : ℕ) (rseq : BitVec 32) (s : State) {t' : State} (h : (execSealFreezeEffect ring rseq s) = .next t') :
    OnlyIn [.out, .freeCnt, .regs, .host, .cmds, .seqs, .mgmt, .sec] s t' := by
  unfold execSealFreezeEffect at h
  try dsimp only at h
  repeat' (first | cases h | split at h)
  all_goals repeat' (first | (with_reducible exact OnlyIn.refl _ _) | (with_reducible refine OnlyIn.ite' ?_ ?_) | (with_reducible apply OnlyIn.via; (first | apply endAtAdmission_only | apply finish_only | apply setSeq_only); on_goal 1 => decide) | split)

theorem execSealFreeEffect_only (ring : ℕ) (rseq : BitVec 32) (s : State) {t' : State} (h : (execSealFreeEffect ring rseq s) = .next t') :
    OnlyIn [.out, .freeCnt, .regs, .host, .cmds, .seqs, .mgmt, .tap, .fab, .rma, .sec, .act] s t' := by
  unfold execSealFreeEffect at h
  try dsimp only at h
  repeat' (first | cases h | split at h)
  all_goals repeat' (first | (with_reducible exact OnlyIn.refl _ _) | (with_reducible refine OnlyIn.ite' ?_ ?_) | (with_reducible apply OnlyIn.via; (first | apply endAtAdmission_only | apply finish_only | apply freeSeq_only | apply sendCall_only); on_goal 1 => decide) | split)

theorem sendDemote_only (dst : ℕ) (seq : ℕ) (newHome : BitVec 16) (ack : Bool) (s : State) :
    OnlyIn [.out, .regs, .host, .mgmt, .tap, .fab, .act] s (sendDemote dst seq newHome ack s) := by
  unfold sendDemote
  try dsimp only
  repeat' (first | (with_reducible exact OnlyIn.refl _ _) | (with_reducible refine OnlyIn.ite' ?_ ?_) | (with_reducible apply OnlyIn.via; (first | apply sendCargo_only); on_goal 1 => decide))

theorem demoteFormer_only (n : ℕ) (s : State) :
    OnlyIn [.out, .regs, .host, .seqs, .mgmt, .tap, .fab, .act] s (demoteFormer n s) := by
  unfold demoteFormer
  try dsimp only
  repeat' (first | (with_reducible exact OnlyIn.refl _ _) | (with_reducible refine OnlyIn.ite' ?_ ?_) | (with_reducible apply OnlyIn.via; (first | apply sendDemote_only | apply modSeq_only); on_goal 1 => decide) | split)

theorem admitPromote_only (c : Cmd) (s : State) :
    OnlyIn [.out, .freeCnt, .regs, .host, .cmds, .seqs, .mgmt, .tap, .fab, .sec, .act] s (admitPromote c s) := by
  unfold admitPromote
  try dsimp only
  repeat' (first | (with_reducible exact OnlyIn.refl _ _) | (with_reducible refine OnlyIn.ite' ?_ ?_) | (with_reducible apply OnlyIn.via; (first | apply setCmd_only | apply admitCmd_only | apply endAtAdmission_only | apply finish_only | apply demoteFormer_only | apply setSeq_only); on_goal 1 => decide) | split)

theorem migCopy_only (c : Cmd) (s : State) :
    OnlyIn [.out, .freeCnt, .regs, .host, .cmds, .seqs, .mgmt, .tap, .fab, .rma, .sec, .act] s (migCopy c s) := by
  unfold migCopy
  try dsimp only
  repeat' (first | (with_reducible exact OnlyIn.refl _ _) | (with_reducible refine OnlyIn.ite' ?_ ?_) | (with_reducible apply OnlyIn.via; (first | apply sendSubs_only); on_goal 1 => decide) | split)

theorem admitMigrate_only (c : Cmd) (s : State) :
    OnlyIn [.out, .freeCnt, .regs, .host, .cmds, .seqs, .mgmt, .tap, .fab, .rma, .sec, .act] s (admitMigrate c s) := by
  unfold admitMigrate
  try dsimp only
  repeat' (first | (with_reducible exact OnlyIn.refl _ _) | (with_reducible refine OnlyIn.ite' ?_ ?_) | (with_reducible apply OnlyIn.via; (first | apply addReader_only | apply addTurn_only | apply admitCmd_only | apply migCopy_only | apply endAtAdmission_only | apply finish_only); on_goal 1 => decide) | split)

theorem replicaCommit_only (src : BitVec 16) (conn : ℕ) (part : ℕ) (r : ReplReq) (s : State) :
    OnlyIn [.out, .freeCnt, .regs, .host, .seqs, .mgmt, .tap] s (replicaCommit src conn part r s).2 := by
  unfold replicaCommit
  try dsimp only
  repeat' (first | (with_reducible exact OnlyIn.refl _ _) | (with_reducible refine OnlyIn.ite' ?_ ?_) | (with_reducible apply OnlyIn.via; (first | apply showRefs_only | apply setSeq_only | apply commitSeq_only | apply tapAdd_only); on_goal 1 => decide) | (with_reducible apply OnlyIn.via; (on_goal 1 => (with_reducible refine .ofPair (by assumption) (commitSeq_only ..))); on_goal 1 => decide) | split | (with_reducible refine OnlyIn.upd_freeCnt ?_ (by decide)))

theorem takePage_only (part : ℕ) (h : HeldPage) (s : State) :
    OnlyIn [.seqs, .shards] s (takePage part h s) := by
  unfold takePage
  try dsimp only
  repeat' (first | (with_reducible exact OnlyIn.refl _ _) | (with_reducible refine OnlyIn.ite' ?_ ?_) | (with_reducible apply OnlyIn.via; (first | apply setSeq_only); on_goal 1 => decide) | split | (with_reducible refine OnlyIn.upd_shards ?_ (by decide)))

theorem takeSeq_only (n : ℕ) (part : ℕ) (image : List Byte) (need : ℕ) (s : State) :
    OnlyIn [.freeCnt, .regs, .seqs] s (takeSeq n part image need s).2 := by
  unfold takeSeq
  try dsimp only
  repeat' (first | (with_reducible exact OnlyIn.refl _ _) | (with_reducible refine OnlyIn.ite' ?_ ?_) | (with_reducible apply OnlyIn.via; (first | apply setSeq_only | apply stepFree_only | apply showRefs_only); on_goal 1 => decide) | split | (with_reducible refine OnlyIn.upd_freeCnt ?_ (by decide)))

theorem freeReplicaOf_only (src : BitVec 16) (seq : ℕ) (s : State) :
    OnlyIn [.regs, .seqs] s (freeReplicaOf src seq s) := by
  unfold freeReplicaOf
  try dsimp only
  repeat' (first | (with_reducible exact OnlyIn.refl _ _) | (with_reducible refine OnlyIn.ite' ?_ ?_) | (with_reducible apply OnlyIn.via; (first | apply freeSeq_only); on_goal 1 => decide))

theorem execMigrateMoveHome_only (ring : ℕ) (rseq : BitVec 32) (s : State) {t' : State} (h : (execMigrateMoveHome ring rseq s) = .next t') :
    OnlyIn [.out, .freeCnt, .regs, .host, .cmds, .seqs, .mgmt, .tap, .fab, .rma, .sec, .act] s t' := by
  unfold execMigrateMoveHome at h
  unfold migRow at h
  try dsimp only at h
  repeat' (first | cases h | split at h)
  all_goals repeat' (first | exact List.Subset.refl _ | decide | (with_reducible exact OnlyIn.refl _ _) | (with_reducible refine OnlyIn.ite' ?_ ?_) | (with_reducible apply OnlyIn.via; (first | apply admitMigrate_only); on_goal 1 => decide) | ((with_reducible apply OnlyIn.andThen (m := [.out, .freeCnt, .regs, .host, .cmds, .seqs, .mgmt, .tap, .fab, .rma, .sec, .act])); (on_goal 2 => (with_reducible apply admitting_only))) | split | intro x)

theorem execMigrateReplicate_only (ring : ℕ) (rseq : BitVec 32) (s : State) {t' : State} (h : (execMigrateReplicate ring rseq s) = .next t') :
    OnlyIn [.out, .freeCnt, .regs, .host, .cmds, .seqs, .mgmt, .tap, .fab, .rma, .sec, .act] s t' := by
  unfold execMigrateReplicate at h
  unfold migRow at h
  try dsimp only at h
  repeat' (first | cases h | split at h)
  all_goals repeat' (first | exact List.Subset.refl _ | decide | (with_reducible exact OnlyIn.refl _ _) | (with_reducible refine OnlyIn.ite' ?_ ?_) | (with_reducible apply OnlyIn.via; (first | apply admitMigrate_only); on_goal 1 => decide) | ((with_reducible apply OnlyIn.andThen (m := [.out, .freeCnt, .regs, .host, .cmds, .seqs, .mgmt, .tap, .fab, .rma, .sec, .act])); (on_goal 2 => (with_reducible apply admitting_only))) | split | intro x)

theorem execMigrateShardOut_only (ring : ℕ) (rseq : BitVec 32) (s : State) {t' : State} (h : (execMigrateShardOut ring rseq s) = .next t') :
    OnlyIn [.out, .freeCnt, .regs, .host, .cmds, .seqs, .mgmt, .tap, .fab, .rma, .sec, .act] s t' := by
  unfold execMigrateShardOut at h
  unfold migRow at h
  try dsimp only at h
  repeat' (first | cases h | split at h)
  all_goals repeat' (first | exact List.Subset.refl _ | decide | (with_reducible exact OnlyIn.refl _ _) | (with_reducible refine OnlyIn.ite' ?_ ?_) | (with_reducible apply OnlyIn.via; (first | apply admitMigrate_only); on_goal 1 => decide) | ((with_reducible apply OnlyIn.andThen (m := [.out, .freeCnt, .regs, .host, .cmds, .seqs, .mgmt, .tap, .fab, .rma, .sec, .act])); (on_goal 2 => (with_reducible apply admitting_only))) | split | intro x)

theorem execMigrateShardIn_only (ring : ℕ) (rseq : BitVec 32) (s : State) {t' : State} (h : (execMigrateShardIn ring rseq s) = .next t') :
    OnlyIn [.out, .freeCnt, .regs, .host, .cmds, .seqs, .mgmt, .tap, .fab, .rma, .sec, .act] s t' := by
  unfold execMigrateShardIn at h
  unfold migRow at h
  try dsimp only at h
  repeat' (first | cases h | split at h)
  all_goals repeat' (first | exact List.Subset.refl _ | decide | (with_reducible exact OnlyIn.refl _ _) | (with_reducible refine OnlyIn.ite' ?_ ?_) | (with_reducible apply OnlyIn.via; (first | apply admitMigrate_only); on_goal 1 => decide) | ((with_reducible apply OnlyIn.andThen (m := [.out, .freeCnt, .regs, .host, .cmds, .seqs, .mgmt, .tap, .fab, .rma, .sec, .act])); (on_goal 2 => (with_reducible apply admitting_only))) | split | intro x)

theorem execMigratePromote_only (ring : ℕ) (rseq : BitVec 32) (s : State) {t' : State} (h : (execMigratePromote ring rseq s) = .next t') :
    OnlyIn [.out, .freeCnt, .regs, .host, .cmds, .seqs, .mgmt, .tap, .fab, .sec, .act] s t' := by
  unfold execMigratePromote at h
  unfold migRow at h
  try dsimp only at h
  repeat' (first | cases h | split at h)
  all_goals repeat' (first | exact List.Subset.refl _ | decide | (with_reducible exact OnlyIn.refl _ _) | (with_reducible refine OnlyIn.ite' ?_ ?_) | (with_reducible apply OnlyIn.via; (first | apply admitPromote_only); on_goal 1 => decide) | ((with_reducible apply OnlyIn.andThen (m := [.out, .freeCnt, .regs, .host, .cmds, .seqs, .mgmt, .tap, .fab, .sec, .act])); (on_goal 2 => (with_reducible apply admitting_only))) | split | intro x)

theorem execMigrateSwitch_only (ring : ℕ) (rseq : BitVec 32) (s : State) {t' : State} (h : (execMigrateSwitch ring rseq s) = .next t') :
    OnlyIn [.out, .freeCnt, .regs, .host, .cmds, .seqs, .mgmt, .tap, .fab, .rma, .sec, .act] s t' := by
  unfold execMigrateSwitch at h
  try dsimp only at h
  repeat' (first | cases h | split at h)
  all_goals repeat' (first | (with_reducible exact OnlyIn.refl _ _) | (with_reducible refine OnlyIn.ite' ?_ ?_) | (with_reducible apply OnlyIn.via; (first | apply endAtAdmission_only | apply finish_only | apply migCopy_only | apply setSeq_only | apply stepFree_only); on_goal 1 => decide) | split)

theorem execOldCopyFree_only (seq : ℕ) (s : State) {t' : State} (h : (execOldCopyFree seq s) = .next t') :
    OnlyIn [.seqs] s t' := by
  unfold execOldCopyFree at h
  try dsimp only at h
  repeat' (first | cases h | split at h)
  all_goals repeat' (first | (with_reducible exact OnlyIn.refl _ _) | (with_reducible refine OnlyIn.ite' ?_ ?_) | (with_reducible apply OnlyIn.via; (first | apply setSeq_only); on_goal 1 => decide))

theorem takeDemote_only (port : ℕ) (src : BitVec 16) (seq : ℕ) (newHome : BitVec 16) (ack : Bool) (s : State) :
    OnlyIn [.fab] s (takeDemote port src seq newHome ack s) := by
  unfold takeDemote
  try dsimp only
  repeat' (first | (with_reducible exact OnlyIn.refl _ _) | (with_reducible refine OnlyIn.ite' ?_ ?_) | (with_reducible apply OnlyIn.via; (first | apply takeInbox_only); on_goal 1 => decide) | split)

theorem execRxDemote_only (port : ℕ) (src : BitVec 16) (seq : ℕ) (newHome : BitVec 16) (s : State) {t' : State} (h : (execRxDemote port src seq newHome s) = .next t') :
    OnlyIn [.out, .regs, .host, .seqs, .mgmt, .tap, .fab, .act] s t' := by
  unfold execRxDemote at h
  try dsimp only at h
  repeat' (first | cases h | split at h)
  all_goals repeat' (first | (with_reducible exact OnlyIn.refl _ _) | (with_reducible refine OnlyIn.ite' ?_ ?_) | (with_reducible apply OnlyIn.via; (first | apply takeDemote_only | apply setSeq_only | apply sendDemote_only); on_goal 1 => decide))

theorem execRxDemoteAck_only (port : ℕ) (src : BitVec 16) (seq : ℕ) (newHome : BitVec 16) (s : State) {t' : State} (h : (execRxDemoteAck port src seq newHome s) = .next t') :
    OnlyIn [.seqs, .fab] s t' := by
  unfold execRxDemoteAck at h
  try dsimp only at h
  repeat' (first | cases h | split at h)
  all_goals repeat' (first | (with_reducible exact OnlyIn.refl _ _) | (with_reducible refine OnlyIn.ite' ?_ ?_) | (with_reducible apply OnlyIn.via; (first | apply takeDemote_only); on_goal 1 => decide) | split | (with_reducible refine OnlyIn.upd_seqs ?_ (by decide)))

theorem execDemoteRepeatTimer_only (seq : ℕ) (s : State) {t' : State} (h : (execDemoteRepeatTimer seq s) = .next t') :
    OnlyIn [.out, .clk, .regs, .host, .seqs, .mgmt, .tap, .fab, .act] s t' := by
  unfold execDemoteRepeatTimer at h
  try dsimp only at h
  repeat' (first | cases h | split at h)
  all_goals repeat' (first | (with_reducible exact OnlyIn.refl _ _) | (with_reducible refine OnlyIn.ite' ?_ ?_) | (with_reducible apply OnlyIn.via; (first | apply advanceTo_only | apply demoteFormer_only | apply post_only | apply modSeq_only); on_goal 1 => decide) | split)

theorem redemote_only (s : State) :
    OnlyIn [.out, .regs, .host, .seqs, .mgmt, .tap, .fab, .act] s (redemote s) := by
  unfold redemote
  try dsimp only
  repeat' (first | exact List.Subset.refl _ | decide | (with_reducible exact OnlyIn.refl _ _) | (with_reducible refine OnlyIn.ite' ?_ ?_) | (with_reducible apply OnlyIn.via; (first | apply demoteFormer_only | apply modSeq_only); on_goal 1 => decide) | ((with_reducible apply OnlyIn.andThen (m := [.out, .regs, .host, .seqs, .mgmt, .tap, .fab, .act])); (on_goal 2 => (with_reducible apply forEach_only))) | ((with_reducible apply OnlyIn.andThen (m := [.out, .regs, .host, .seqs, .mgmt, .tap, .fab, .act])); (on_goal 2 => (with_reducible apply OnlyIn.forEach; intro _ _)); (on_goal 3 => exact List.Subset.refl _)))

theorem attendStart_only (c : Cmd) (r : AttendRun) (s : State) :
    OnlyIn [.out, .freeCnt, .regs, .host, .cmds, .seqs, .mgmt, .tap, .fab, .rma, .sec, .act] s (attendStart c r s) := by
  unfold attendStart
  try dsimp only
  repeat' (first | (with_reducible exact OnlyIn.refl _ _) | (with_reducible refine OnlyIn.ite' ?_ ?_) | (with_reducible apply OnlyIn.via; (first | apply sendSubs_only | apply modSeq_only); on_goal 1 => decide))

theorem dropAutos_only (c : Cmd) (s : State) :
    OnlyIn [.seqs] s (dropAutos c s) := by
  unfold dropAutos
  try dsimp only
  repeat' (first | (with_reducible exact OnlyIn.refl _ _) | (with_reducible refine OnlyIn.ite' ?_ ?_) | (with_reducible apply OnlyIn.via; (first | apply modSeq_only); on_goal 1 => decide))

theorem attendInput_only (c : Cmd) (g : Got) (s : State) :
    OnlyIn [.out, .freeCnt, .regs, .host, .cmds, .seqs, .mgmt, .tap, .fab, .rma, .sec, .act] s (attendInput c g s) := by
  unfold attendInput
  try dsimp only
  repeat' (first | (with_reducible exact OnlyIn.refl _ _) | (with_reducible refine OnlyIn.ite' ?_ ?_) | (with_reducible apply OnlyIn.via; (first | apply endAtAdmission_only | apply finish_only | apply dropAutos_only | apply attendStart_only | apply startRead_only | apply setCmd_only); on_goal 1 => decide) | (with_reducible apply OnlyIn.via; (on_goal 1 => (with_reducible refine .ofPair (by assumption) (startRead_only ..))); on_goal 1 => decide) | split)

theorem runAttend_only (c : Cmd) (r : AttendRun) (s : State) :
    OnlyIn [.out, .freeCnt, .regs, .host, .cmds, .seqs, .mgmt, .tap, .fab, .rma, .sec, .act] s (runAttend c r s) := by
  unfold runAttend
  try dsimp only
  repeat' (first | (with_reducible exact OnlyIn.refl _ _) | (with_reducible refine OnlyIn.ite' ?_ ?_) | (with_reducible apply OnlyIn.via; (first | apply addReader_only | apply admitCmd_only | apply modSeq_only | apply startRead_only | apply attendInput_only); on_goal 1 => decide) | (with_reducible apply OnlyIn.via; (on_goal 1 => (with_reducible refine .ofPair (by assumption) (startRead_only ..))); on_goal 1 => decide) | split)

theorem admitAttend_only (c : Cmd) (s : State) :
    OnlyIn [.out, .freeCnt, .regs, .host, .cmds, .seqs, .mgmt, .tap, .fab, .rma, .sec, .act] s (admitAttend c s) := by
  unfold admitAttend
  try dsimp only
  repeat' (first | (with_reducible exact OnlyIn.refl _ _) | (with_reducible refine OnlyIn.ite' ?_ ?_) | (with_reducible apply OnlyIn.via; (first | apply endAtAdmission_only | apply finish_only | apply setCmd_only | apply runAttend_only); on_goal 1 => decide) | split)

theorem execAttend_only (ring : ℕ) (rseq : BitVec 32) (s : State) {t' : State} (h : (execAttend ring rseq s) = .next t') :
    OnlyIn [.out, .freeCnt, .regs, .host, .cmds, .seqs, .mgmt, .tap, .fab, .rma, .sec, .act] s t' := by
  unfold execAttend at h
  try dsimp only at h
  repeat' (first | cases h | split at h)
  all_goals repeat' (first | exact List.Subset.refl _ | decide | (with_reducible exact OnlyIn.refl _ _) | (with_reducible refine OnlyIn.ite' ?_ ?_) | (with_reducible apply OnlyIn.via; (first | apply admitAttend_only); on_goal 1 => decide) | ((with_reducible apply OnlyIn.andThen (m := [.out, .freeCnt, .regs, .host, .cmds, .seqs, .mgmt, .tap, .fab, .rma, .sec, .act])); (on_goal 2 => (with_reducible apply admitting_only))) | split | intro x)

theorem execAttendNeedLenTimeout_only (ring : ℕ) (rseq : BitVec 32) (s : State) {t' : State} (h : (execAttendNeedLenTimeout ring rseq s) = .next t') :
    OnlyIn [.out, .freeCnt, .clk, .regs, .host, .cmds, .mgmt, .sec] s t' := by
  unfold execAttendNeedLenTimeout at h
  try dsimp only at h
  repeat' (first | cases h | split at h)
  all_goals repeat' (first | (with_reducible exact OnlyIn.refl _ _) | (with_reducible refine OnlyIn.ite' ?_ ?_) | (with_reducible apply OnlyIn.via; (first | apply endAtAdmission_only | apply finish_only | apply advanceTo_only); on_goal 1 => decide) | split)

theorem castDamage_only (seq : ℕ) (st : ℕ) (page : ℕ) (cls : ℕ) (part : ℕ) (step : BitVec 64) (s : State) :
    OnlyIn [.out, .regs, .host, .mgmt] s (castDamage seq st page cls part step s) := by
  unfold castDamage
  try dsimp only
  repeat' (first | (with_reducible exact OnlyIn.refl _ _) | (with_reducible refine OnlyIn.ite' ?_ ?_) | (with_reducible apply OnlyIn.via; (first | apply post_only | apply setVal64_only | apply cntAdd_only); on_goal 1 => decide))

theorem markDmg_only (n : ℕ) (st : ℕ) (page : ℕ) (s : State) :
    OnlyIn [.seqs] s (markDmg n st page s) := by
  unfold markDmg
  try dsimp only
  repeat' (first | (with_reducible exact OnlyIn.refl _ _) | (with_reducible refine OnlyIn.ite' ?_ ?_) | (with_reducible apply OnlyIn.via; (first | apply setSeq_only); on_goal 1 => decide) | split)

theorem hurtEffect_only (c : Cmd) (q : Seq) (st : ℕ) (skip : Bool) (src : LeafSrc) (s : State) :
    OnlyIn [.out, .regs, .host, .seqs, .mgmt] s (hurtEffect c q st skip src s) := by
  unfold hurtEffect
  try dsimp only
  repeat' (first | (with_reducible exact OnlyIn.refl _ _) | (with_reducible refine OnlyIn.ite' ?_ ?_) | (with_reducible apply OnlyIn.via; (first | apply post_only | apply markDmg_only | apply castDamage_only); on_goal 1 => decide) | split)

theorem attendMerge_only (c : Cmd) (r : AttendRun) (heal : List HeldPage) (bad : List (ℕ × ℕ)) (s : State) :
    OnlyIn [.out, .freeCnt, .regs, .host, .cmds, .seqs, .mgmt, .tap, .mem, .fab, .rma, .deck, .sec, .cells, .act] s (attendMerge c r heal bad s) := by
  unfold attendMerge
  try dsimp only
  repeat' (first | exact List.Subset.refl _ | decide | (with_reducible exact OnlyIn.refl _ _) | (with_reducible refine OnlyIn.ite' ?_ ?_) | (with_reducible apply OnlyIn.via; (first | apply faultAtAdmission_only | apply faultStep_only | apply post_only | apply modSeq_only | apply endAtAdmission_only | apply finish_only | apply hurtEffect_only | apply meter_only | apply deliver_only); on_goal 1 => decide) | ((with_reducible apply OnlyIn.andThen (m := [.out, .freeCnt, .regs, .host, .cmds, .seqs, .mgmt, .tap, .mem, .fab, .rma, .deck, .sec, .cells, .act])); (on_goal 2 => (with_reducible apply forEach_only))) | ((with_reducible apply OnlyIn.andThen (m := [.out, .freeCnt, .regs, .host, .cmds, .seqs, .mgmt, .tap, .mem, .fab, .rma, .deck, .sec, .cells, .act])); (on_goal 2 => (with_reducible apply OnlyIn.forEach; intro _ _)); (on_goal 3 => exact List.Subset.refl _)) | split)

theorem execAttendRootMerge_only (ring : ℕ) (rseq : BitVec 32) (s : State) {t' : State} (h : (execAttendRootMerge ring rseq s) = .next t') :
    OnlyIn [.out, .freeCnt, .regs, .host, .cmds, .seqs, .mgmt, .tap, .mem, .fab, .rma, .deck, .sec, .cells, .act] s t' := by
  unfold execAttendRootMerge at h
  try dsimp only at h
  repeat' (first | cases h | split at h)
  all_goals repeat' (first | (with_reducible exact OnlyIn.refl _ _) | (with_reducible refine OnlyIn.ite' ?_ ?_) | (with_reducible apply OnlyIn.via; (first | apply attendMerge_only | apply askReplica_only); on_goal 1 => decide) | split)

theorem serveAttend_only (home : ℕ) (step : BitVec 64) (sub : ℕ) (q : AttendReq) (s : State) :
    OnlyIn [.out, .regs, .host, .mgmt] s (serveAttend home step sub q s).2 := by
  unfold serveAttend
  try dsimp only
  repeat' (first | exact List.Subset.refl _ | decide | (with_reducible exact OnlyIn.refl _ _) | (with_reducible refine OnlyIn.ite' ?_ ?_) | (with_reducible apply OnlyIn.via; (first | apply castDamage_only); on_goal 1 => decide) | ((with_reducible apply OnlyIn.andThen (m := [.out, .regs, .host, .mgmt])); (on_goal 2 => (with_reducible apply forEach_only))) | ((with_reducible apply OnlyIn.andThen (m := [.out, .regs, .host, .mgmt])); (on_goal 2 => (with_reducible apply OnlyIn.forEach; intro _ _)); (on_goal 3 => exact List.Subset.refl _)))

end Sys2Proof.Machine
end

