-- ==== Sys2Proof/Laws/FrameCrucible.lean ====
section
/-! SUPPORT. The areas of the state that each function may change: the crucible. -/

namespace Sys2Proof.Machine

open Sys2Proof

theorem showImg_only (pkg : ℕ) (s : State) :
    OnlyIn [.regs] s (showImg pkg s) := by
  unfold showImg
  try dsimp only
  repeat' (first | (with_reducible exact OnlyIn.refl _ _) | (with_reducible refine OnlyIn.ite' ?_ ?_) | (with_reducible apply OnlyIn.via; (first | apply setValBits_only); on_goal 1 => decide))

theorem setUnit_only (u : ℕ) (x : CruUnit) (s : State) :
    OnlyIn [.mem] s (setUnit u x s) := by
  unfold setUnit
  try dsimp only
  repeat' (first | (with_reducible exact OnlyIn.refl _ _) | (with_reducible refine OnlyIn.ite' ?_ ?_) | split | (with_reducible refine OnlyIn.upd_mem ?_ (by decide) (by first | (with_reducible exact .inr rfl))))

theorem showLast_only (u : ℕ) (code : ℕ) (s : State) :
    OnlyIn [.regs] s (showLast u code s) := by
  unfold showLast
  try dsimp only
  repeat' (first | (with_reducible exact OnlyIn.refl _ _) | (with_reducible refine OnlyIn.ite' ?_ ?_) | (with_reducible apply OnlyIn.via; (first | apply setVal64_only); on_goal 1 => decide))

theorem stopUnit_only (u : ℕ) (code : ℕ) (s : State) :
    OnlyIn [.regs, .mem] s (stopUnit u code s) := by
  unfold stopUnit
  try dsimp only
  repeat' (first | (with_reducible exact OnlyIn.refl _ _) | (with_reducible refine OnlyIn.ite' ?_ ?_) | (with_reducible apply OnlyIn.via; (first | apply setUnit_only | apply showLast_only); on_goal 1 => decide))

theorem unitFault_only (u : ℕ) (s : State) :
    OnlyIn [.out, .freeCnt, .regs, .host, .cmds, .mgmt, .mem, .deck, .sec, .act] s (unitFault u s) := by
  unfold unitFault
  try dsimp only
  repeat' (first | (with_reducible exact OnlyIn.refl _ _) | (with_reducible refine OnlyIn.ite' ?_ ?_) | (with_reducible apply OnlyIn.via; (first | apply cntAdd_only | apply setValBits_only | apply strikeSteps_only | apply post_only | apply setAct_only | apply setUnit_only); on_goal 1 => decide) | split | (with_reducible refine OnlyIn.upd_mem ?_ (by decide) (by first | (with_reducible exact .inr rfl))))

theorem transfer_only {l : List Area} {u : ℕ} {bad : ℕ} {f : State → State} {s : State} (hf : ∀  t, OnlyIn l t (f  t)) (hl : [.out, .freeCnt, .regs, .host, .cmds, .mgmt, .mem, .deck, .sec, .act] ⊆ l) :
    OnlyIn l s (transfer u bad f s) := by
  unfold transfer
  repeat' (first | (intro x) | (with_reducible exact OnlyIn.refl _ _) | assumption | (with_reducible refine OnlyIn.ite' ?_ ?_) | ((with_reducible apply OnlyIn.andThen (m := l)); (on_goal 2 => (apply hf)); (on_goal 2 => exact List.Subset.refl _)) | ((with_reducible apply OnlyIn.andThen (m := [.out, .freeCnt, .regs, .host, .cmds, .mgmt, .mem, .deck, .sec, .act])); (on_goal 2 => (with_reducible apply unitFault_only)); (on_goal 2 => (first | decide | exact List.Subset.trans (by decide) hl))) | ((with_reducible apply OnlyIn.andThen (m := [.regs, .mem])); (on_goal 2 => (with_reducible apply stopUnit_only)); (on_goal 2 => (first | decide | exact List.Subset.trans (by decide) hl))))

theorem unitUncorrectable_only (u : ℕ) (ula : ℕ) (s : State) :
    OnlyIn [.out, .regs, .host, .mgmt, .mem] s (unitUncorrectable u ula s) := by
  unfold unitUncorrectable
  try dsimp only
  repeat' (first | (with_reducible exact OnlyIn.refl _ _) | (with_reducible refine OnlyIn.ite' ?_ ?_) | (with_reducible apply OnlyIn.via; (first | apply stopUnit_only | apply setUnit_only | apply post_only | apply cntAdd_only); on_goal 1 => decide))

theorem programFault_only (u : ℕ) (code : ℕ) (s : State) :
    OnlyIn [.out, .regs, .host, .mgmt, .mem] s (programFault u code s) := by
  unfold programFault
  try dsimp only
  repeat' (first | (with_reducible exact OnlyIn.refl _ _) | (with_reducible refine OnlyIn.ite' ?_ ?_) | (with_reducible apply OnlyIn.via; (first | apply cntAdd_only | apply stopUnit_only | apply setUnit_only | apply post_only); on_goal 1 => decide))

theorem goUnit_only (entry : ℕ) (u : ℕ) (s : State) :
    OnlyIn [.mem] s (goUnit entry u s) := by
  unfold goUnit
  try dsimp only
  repeat' (first | (with_reducible exact OnlyIn.refl _ _) | (with_reducible refine OnlyIn.ite' ?_ ?_) | (with_reducible apply OnlyIn.via; (first | apply setUnit_only); on_goal 1 => decide))

theorem abortUnit_only (u : ℕ) (s : State) :
    OnlyIn [.regs, .mem] s (abortUnit u s) := by
  unfold abortUnit
  try dsimp only
  repeat' (first | (with_reducible exact OnlyIn.refl _ _) | (with_reducible refine OnlyIn.ite' ?_ ?_) | (with_reducible apply OnlyIn.via; (first | apply stopUnit_only); on_goal 1 => decide))

theorem suspendUnit_only (u : ℕ) (s : State) :
    OnlyIn [.mem] s (suspendUnit u s) := by
  unfold suspendUnit
  try dsimp only
  repeat' (first | (with_reducible exact OnlyIn.refl _ _) | (with_reducible refine OnlyIn.ite' ?_ ?_) | (with_reducible apply OnlyIn.via; (first | apply setUnit_only); on_goal 1 => decide))

theorem execCrw_only (u : ℕ) (col : ℕ) (data : List Byte) (bad : ℕ) (s : State) {t' : State} (h : (execCrw u col data bad s) = .next t') :
    OnlyIn [.out, .freeCnt, .regs, .host, .cmds, .mgmt, .mem, .deck, .sec, .act] s t' := by
  unfold execCrw at h
  try dsimp only at h
  repeat' (first | cases h | split at h)
  all_goals repeat' (first | exact List.Subset.refl _ | decide | (with_reducible exact OnlyIn.refl _ _) | (with_reducible refine OnlyIn.ite' ?_ ?_) | (with_reducible apply OnlyIn.via; (first | apply setUnit_only | apply abortUnit_only | apply goUnit_only | apply suspendUnit_only); on_goal 1 => decide) | ((with_reducible apply OnlyIn.andThen (m := [.out, .freeCnt, .regs, .host, .cmds, .mgmt, .mem, .deck, .sec, .act])); (on_goal 2 => (with_reducible apply transfer_only))) | split | intro x)

theorem execCrucibleGo_only (u : ℕ) (entry : BitVec 10) (s : State) {t' : State} (h : (execCrucibleGo u entry s) = .next t') :
    OnlyIn [.out, .freeCnt, .regs, .host, .cmds, .mgmt, .mem, .deck, .sec, .act] s t' := by
  unfold execCrucibleGo at h
  try dsimp only at h
  repeat' (first | cases h | split at h)
  all_goals repeat' (first | exact List.Subset.refl _ | decide | (with_reducible exact OnlyIn.refl _ _) | (with_reducible refine OnlyIn.ite' ?_ ?_) | (with_reducible apply OnlyIn.via; (first | apply goUnit_only); on_goal 1 => decide) | ((with_reducible apply OnlyIn.andThen (m := [.out, .freeCnt, .regs, .host, .cmds, .mgmt, .mem, .deck, .sec, .act])); (on_goal 2 => (with_reducible apply transfer_only))) | split | intro x)

theorem execCrucibleAbort_only (u : ℕ) (s : State) {t' : State} (h : (execCrucibleAbort u s) = .next t') :
    OnlyIn [.out, .freeCnt, .regs, .host, .cmds, .mgmt, .mem, .deck, .sec, .act] s t' := by
  unfold execCrucibleAbort at h
  try dsimp only at h
  repeat' (first | cases h | split at h)
  all_goals repeat' (first | exact List.Subset.refl _ | decide | (with_reducible exact OnlyIn.refl _ _) | (with_reducible refine OnlyIn.ite' ?_ ?_) | (with_reducible apply OnlyIn.via; (first | apply abortUnit_only); on_goal 1 => decide) | ((with_reducible apply OnlyIn.andThen (m := [.out, .freeCnt, .regs, .host, .cmds, .mgmt, .mem, .deck, .sec, .act])); (on_goal 2 => (with_reducible apply transfer_only))) | split | intro x)

theorem execCrucibleSuspend_only (u : ℕ) (s : State) {t' : State} (h : (execCrucibleSuspend u s) = .next t') :
    OnlyIn [.out, .freeCnt, .regs, .host, .cmds, .mgmt, .mem, .deck, .sec, .act] s t' := by
  unfold execCrucibleSuspend at h
  try dsimp only at h
  repeat' (first | cases h | split at h)
  all_goals repeat' (first | exact List.Subset.refl _ | decide | (with_reducible exact OnlyIn.refl _ _) | (with_reducible refine OnlyIn.ite' ?_ ?_) | (with_reducible apply OnlyIn.via; (first | apply suspendUnit_only); on_goal 1 => decide) | ((with_reducible apply OnlyIn.andThen (m := [.out, .freeCnt, .regs, .host, .cmds, .mgmt, .mem, .deck, .sec, .act])); (on_goal 2 => (with_reducible apply transfer_only))) | split | intro x)

theorem gotColumn_only (d : List Byte) (s : State) :
    OnlyIn [.mem] s (gotColumn d s) := by
  unfold gotColumn
  try dsimp only
  repeat' (first | (with_reducible exact OnlyIn.refl _ _) | (with_reducible refine OnlyIn.ite' ?_ ?_) | split | (with_reducible refine OnlyIn.upd_mem ?_ (by decide) (by first | (with_reducible exact .inr rfl))))

theorem execCrr_only (u : ℕ) (col : ℕ) (bad : ℕ) (s : State) {t' : State} (h : (execCrr u col bad s) = .next t') :
    OnlyIn [.out, .freeCnt, .regs, .host, .cmds, .mgmt, .mem, .deck, .sec, .act] s t' := by
  unfold execCrr at h
  try dsimp only at h
  repeat' (first | cases h | split at h)
  all_goals repeat' (first | exact List.Subset.refl _ | decide | (with_reducible exact OnlyIn.refl _ _) | (with_reducible refine OnlyIn.ite' ?_ ?_) | (with_reducible apply OnlyIn.via; (first | apply gotColumn_only | apply stepFree_only); on_goal 1 => decide) | ((with_reducible apply OnlyIn.andThen (m := [.out, .freeCnt, .regs, .host, .cmds, .mgmt, .mem, .deck, .sec, .act])); (on_goal 2 => (with_reducible apply transfer_only))) | split | intro x)

theorem execOpw_only (u : ℕ) (h : ℕ) (col : ℕ) (data : List Byte) (bad : ℕ) (s : State) {t' : State} (h : (execOpw u h col data bad s) = .next t') :
    OnlyIn [.out, .freeCnt, .regs, .host, .cmds, .mgmt, .mem, .deck, .sec, .act] s t' := by
  unfold execOpw at h
  try dsimp only at h
  repeat' (first | cases h | split at h)
  all_goals repeat' (first | exact List.Subset.refl _ | decide | (with_reducible exact OnlyIn.refl _ _) | (with_reducible refine OnlyIn.ite' ?_ ?_) | (with_reducible apply OnlyIn.via; (first | apply setUnit_only); on_goal 1 => decide) | ((with_reducible apply OnlyIn.andThen (m := [.out, .freeCnt, .regs, .host, .cmds, .mgmt, .mem, .deck, .sec, .act])); (on_goal 2 => (with_reducible apply transfer_only))) | split | intro x)

theorem execRbr_only (u : ℕ) (h : ℕ) (col : ℕ) (bad : ℕ) (s : State) {t' : State} (h : (execRbr u h col bad s) = .next t') :
    OnlyIn [.out, .freeCnt, .regs, .host, .cmds, .mgmt, .mem, .deck, .sec, .act] s t' := by
  unfold execRbr at h
  try dsimp only at h
  repeat' (first | cases h | split at h)
  all_goals repeat' (first | exact List.Subset.refl _ | decide | (with_reducible exact OnlyIn.refl _ _) | (with_reducible refine OnlyIn.ite' ?_ ?_) | (with_reducible apply OnlyIn.via; (first | apply gotColumn_only); on_goal 1 => decide) | ((with_reducible apply OnlyIn.andThen (m := [.out, .freeCnt, .regs, .host, .cmds, .mgmt, .mem, .deck, .sec, .act])); (on_goal 2 => (with_reducible apply transfer_only))) | split | intro x)

theorem execImw_only (u : ℕ) (col : ℕ) (data : List Byte) (bad : ℕ) (s : State) {t' : State} (h : (execImw u col data bad s) = .next t') :
    OnlyIn [.out, .freeCnt, .regs, .host, .cmds, .mgmt, .mem, .deck, .sec, .act] s t' := by
  unfold execImw at h
  try dsimp only at h
  repeat' (first | cases h | split at h)
  all_goals repeat' (first | exact List.Subset.refl _ | decide | (with_reducible exact OnlyIn.refl _ _) | (with_reducible refine OnlyIn.ite' ?_ ?_) | (with_reducible apply OnlyIn.via; (first | apply setUnit_only); on_goal 1 => decide) | ((with_reducible apply OnlyIn.andThen (m := [.out, .freeCnt, .regs, .host, .cmds, .mgmt, .mem, .deck, .sec, .act])); (on_goal 2 => (with_reducible apply transfer_only))) | split | intro x)

theorem execCruStop_only (u : ℕ) (s : State) {t' : State} (h : (execCruStop u s) = .next t') :
    OnlyIn [.out, .regs, .host, .mgmt, .mem] s t' := by
  unfold execCruStop at h
  unfold cruStep at h
  try dsimp only at h
  repeat' (first | cases h | split at h)
  all_goals repeat' (first | (with_reducible exact OnlyIn.refl _ _) | (with_reducible refine OnlyIn.ite' ?_ ?_) | (with_reducible apply OnlyIn.via; (first | apply stopUnit_only | apply cntAdd_only | apply programFault_only); on_goal 1 => decide))

theorem execCruYield_only (u : ℕ) (s : State) {t' : State} (h : (execCruYield u s) = .next t') :
    OnlyIn [.out, .regs, .host, .mgmt, .mem] s t' := by
  unfold execCruYield at h
  unfold cruStep at h
  try dsimp only at h
  repeat' (first | cases h | split at h)
  all_goals repeat' (first | (with_reducible exact OnlyIn.refl _ _) | (with_reducible refine OnlyIn.ite' ?_ ?_) | (with_reducible apply OnlyIn.via; (first | apply setUnit_only | apply programFault_only); on_goal 1 => decide))

theorem clearOwed_only (u : ℕ) (s : State) :
    OnlyIn [.mem] s (clearOwed u s) := by
  unfold clearOwed
  try dsimp only
  repeat' (first | (with_reducible exact OnlyIn.refl _ _) | (with_reducible refine OnlyIn.ite' ?_ ?_) | split | (with_reducible refine OnlyIn.upd_mem ?_ (by decide) (by first | (with_reducible exact .inr rfl))))

theorem execYieldRelease_only (u : ℕ) (s : State) {t' : State} (h : (execYieldRelease u s) = .next t') :
    OnlyIn [.mem] s t' := by
  unfold execYieldRelease at h
  try dsimp only at h
  repeat' (first | cases h | split at h)
  all_goals repeat' (first | (with_reducible exact OnlyIn.refl _ _) | (with_reducible refine OnlyIn.ite' ?_ ?_) | (with_reducible apply OnlyIn.via; (first | apply clearOwed_only | apply setUnit_only); on_goal 1 => decide))

theorem execCruSeti_only (u : ℕ) (s : State) {t' : State} (h : (execCruSeti u s) = .next t') :
    OnlyIn [.out, .regs, .host, .mgmt, .mem] s t' := by
  unfold execCruSeti at h
  unfold cruStep at h
  try dsimp only at h
  repeat' (first | cases h | split at h)
  all_goals repeat' (first | (with_reducible exact OnlyIn.refl _ _) | (with_reducible refine OnlyIn.ite' ?_ ?_) | (with_reducible apply OnlyIn.via; (first | apply setUnit_only | apply programFault_only); on_goal 1 => decide))

theorem execCruAddi_only (u : ℕ) (s : State) {t' : State} (h : (execCruAddi u s) = .next t') :
    OnlyIn [.out, .regs, .host, .mgmt, .mem] s t' := by
  unfold execCruAddi at h
  unfold cruStep at h
  try dsimp only at h
  repeat' (first | cases h | split at h)
  all_goals repeat' (first | (with_reducible exact OnlyIn.refl _ _) | (with_reducible refine OnlyIn.ite' ?_ ?_) | (with_reducible apply OnlyIn.via; (first | apply setUnit_only | apply programFault_only); on_goal 1 => decide))

theorem execCruAdd_only (u : ℕ) (s : State) {t' : State} (h : (execCruAdd u s) = .next t') :
    OnlyIn [.out, .regs, .host, .mgmt, .mem] s t' := by
  unfold execCruAdd at h
  unfold cruStep at h
  try dsimp only at h
  repeat' (first | cases h | split at h)
  all_goals repeat' (first | (with_reducible exact OnlyIn.refl _ _) | (with_reducible refine OnlyIn.ite' ?_ ?_) | (with_reducible apply OnlyIn.via; (first | apply setUnit_only | apply programFault_only); on_goal 1 => decide))

theorem jumpTo_only (u : ℕ) (x : CruUnit) (w : Word) (s : State) :
    OnlyIn [.out, .regs, .host, .mgmt, .mem] s (jumpTo u x w s) := by
  unfold jumpTo
  try dsimp only
  repeat' (first | (with_reducible exact OnlyIn.refl _ _) | (with_reducible refine OnlyIn.ite' ?_ ?_) | (with_reducible apply OnlyIn.via; (first | apply programFault_only | apply setUnit_only); on_goal 1 => decide))

theorem execCruLoop_only (u : ℕ) (s : State) {t' : State} (h : (execCruLoop u s) = .next t') :
    OnlyIn [.out, .regs, .host, .mgmt, .mem] s t' := by
  unfold execCruLoop at h
  unfold cruStep at h
  try dsimp only at h
  repeat' (first | cases h | split at h)
  all_goals repeat' (first | (with_reducible exact OnlyIn.refl _ _) | (with_reducible refine OnlyIn.ite' ?_ ?_) | (with_reducible apply OnlyIn.via; (first | apply setUnit_only | apply jumpTo_only | apply programFault_only); on_goal 1 => decide))

theorem execCruJump_only (u : ℕ) (s : State) {t' : State} (h : (execCruJump u s) = .next t') :
    OnlyIn [.out, .regs, .host, .mgmt, .mem] s t' := by
  unfold execCruJump at h
  unfold cruStep at h
  try dsimp only at h
  repeat' (first | cases h | split at h)
  all_goals repeat' (first | (with_reducible exact OnlyIn.refl _ _) | (with_reducible refine OnlyIn.ite' ?_ ?_) | (with_reducible apply OnlyIn.via; (first | apply jumpTo_only | apply programFault_only); on_goal 1 => decide))

theorem execCruBz_only (u : ℕ) (s : State) {t' : State} (h : (execCruBz u s) = .next t') :
    OnlyIn [.out, .regs, .host, .mgmt, .mem] s t' := by
  unfold execCruBz at h
  unfold cruStep at h
  try dsimp only at h
  repeat' (first | cases h | split at h)
  all_goals repeat' (first | (with_reducible exact OnlyIn.refl _ _) | (with_reducible refine OnlyIn.ite' ?_ ?_) | (with_reducible apply OnlyIn.via; (first | apply jumpTo_only | apply setUnit_only | apply programFault_only); on_goal 1 => decide))

theorem execCruPost_only (u : ℕ) (s : State) {t' : State} (h : (execCruPost u s) = .next t') :
    OnlyIn [.out, .regs, .host, .mgmt, .mem] s t' := by
  unfold execCruPost at h
  unfold cruStep at h
  try dsimp only at h
  repeat' (first | cases h | split at h)
  all_goals repeat' (first | (with_reducible exact OnlyIn.refl _ _) | (with_reducible refine OnlyIn.ite' ?_ ?_) | (with_reducible apply OnlyIn.via; (first | apply setUnit_only | apply programFault_only); on_goal 1 => decide))

theorem execCruRstr_only (u : ℕ) (s : State) {t' : State} (h : (execCruRstr u s) = .next t') :
    OnlyIn [.out, .regs, .host, .mgmt, .mem] s t' := by
  unfold execCruRstr at h
  unfold cruStep at h
  try dsimp only at h
  repeat' (first | cases h | split at h)
  all_goals repeat' (first | (with_reducible exact OnlyIn.refl _ _) | (with_reducible refine OnlyIn.ite' ?_ ?_) | (with_reducible apply OnlyIn.via; (first | apply programFault_only | apply setUnit_only); on_goal 1 => decide))

theorem useLane_only {l : List Area} {u : ℕ} {n : ℕ} {x : CruUnit} {f : State → State} {s : State} (hf : ∀  t, OnlyIn l t (f  t)) (hl : [.out, .regs, .host, .mgmt, .mem] ⊆ l) :
    OnlyIn l s (useLane u n x f s) := by
  unfold useLane
  repeat' (first | (intro x) | (with_reducible exact OnlyIn.refl _ _) | assumption | (with_reducible refine OnlyIn.ite' ?_ ?_) | ((with_reducible apply OnlyIn.andThen (m := l)); (on_goal 2 => (apply hf)); (on_goal 2 => exact List.Subset.refl _)) | ((with_reducible apply OnlyIn.andThen (m := [.out, .regs, .host, .mgmt, .mem])); (on_goal 2 => (with_reducible apply unitUncorrectable_only)); (on_goal 2 => (first | decide | exact List.Subset.trans (by decide) hl))) | split)

theorem execCruLds_only (u : ℕ) (s : State) {t' : State} (h : (execCruLds u s) = .next t') :
    OnlyIn [.out, .regs, .host, .mgmt, .mem] s t' := by
  unfold execCruLds at h
  unfold cruStep at h
  try dsimp only at h
  repeat' (first | cases h | split at h)
  all_goals repeat' (first | exact List.Subset.refl _ | decide | (with_reducible exact OnlyIn.refl _ _) | (with_reducible refine OnlyIn.ite' ?_ ?_) | (with_reducible apply OnlyIn.via; (first | apply programFault_only | apply setUnit_only); on_goal 1 => decide) | ((with_reducible apply OnlyIn.andThen (m := [.out, .regs, .host, .mgmt, .mem])); (on_goal 2 => (with_reducible apply useLane_only))) | split | intro x)

theorem execCruDot_only (u : ℕ) (s : State) {t' : State} (h : (execCruDot u s) = .next t') :
    OnlyIn [.out, .regs, .host, .mgmt, .mem] s t' := by
  unfold execCruDot at h
  unfold cruStep at h
  try dsimp only at h
  repeat' (first | cases h | split at h)
  all_goals repeat' (first | exact List.Subset.refl _ | decide | (with_reducible exact OnlyIn.refl _ _) | (with_reducible refine OnlyIn.ite' ?_ ?_) | (with_reducible apply OnlyIn.via; (first | apply programFault_only | apply setUnit_only); on_goal 1 => decide) | ((with_reducible apply OnlyIn.andThen (m := [.out, .regs, .host, .mgmt, .mem])); (on_goal 2 => (with_reducible apply useLane_only))) | split | intro x)

theorem execCruAcc_only (u : ℕ) (s : State) {t' : State} (h : (execCruAcc u s) = .next t') :
    OnlyIn [.out, .regs, .host, .mgmt, .mem] s t' := by
  unfold execCruAcc at h
  unfold cruStep at h
  try dsimp only at h
  repeat' (first | cases h | split at h)
  all_goals repeat' (first | exact List.Subset.refl _ | decide | (with_reducible exact OnlyIn.refl _ _) | (with_reducible refine OnlyIn.ite' ?_ ?_) | (with_reducible apply OnlyIn.via; (first | apply programFault_only | apply setUnit_only); on_goal 1 => decide) | ((with_reducible apply OnlyIn.andThen (m := [.out, .regs, .host, .mgmt, .mem])); (on_goal 2 => (with_reducible apply useLane_only))) | split | intro x)

theorem execCruScale_only (u : ℕ) (s : State) {t' : State} (h : (execCruScale u s) = .next t') :
    OnlyIn [.out, .regs, .host, .mgmt, .mem] s t' := by
  unfold execCruScale at h
  unfold cruStep at h
  try dsimp only at h
  repeat' (first | cases h | split at h)
  all_goals repeat' (first | (with_reducible exact OnlyIn.refl _ _) | (with_reducible refine OnlyIn.ite' ?_ ?_) | (with_reducible apply OnlyIn.via; (first | apply programFault_only | apply setUnit_only); on_goal 1 => decide))

theorem execCruHook_only (u : ℕ) (s : State) {t' : State} (h : (execCruHook u s) = .next t') :
    OnlyIn [.out, .regs, .host, .mgmt, .mem] s t' := by
  unfold execCruHook at h
  unfold cruStep at h
  try dsimp only at h
  repeat' (first | cases h | split at h)
  all_goals repeat' (first | (with_reducible exact OnlyIn.refl _ _) | (with_reducible refine OnlyIn.ite' ?_ ?_) | (with_reducible apply OnlyIn.via; (first | apply programFault_only | apply setUnit_only); on_goal 1 => decide))

theorem execCruCsel_only (u : ℕ) (s : State) {t' : State} (h : (execCruCsel u s) = .next t') :
    OnlyIn [.out, .regs, .host, .mgmt, .mem] s t' := by
  unfold execCruCsel at h
  unfold cruStep at h
  try dsimp only at h
  repeat' (first | cases h | split at h)
  all_goals repeat' (first | (with_reducible exact OnlyIn.refl _ _) | (with_reducible refine OnlyIn.ite' ?_ ?_) | (with_reducible apply OnlyIn.via; (first | apply programFault_only | apply setUnit_only); on_goal 1 => decide))

theorem execCruMax_only (u : ℕ) (s : State) {t' : State} (h : (execCruMax u s) = .next t') :
    OnlyIn [.out, .regs, .host, .mgmt, .mem] s t' := by
  unfold execCruMax at h
  unfold cruStep at h
  try dsimp only at h
  repeat' (first | cases h | split at h)
  all_goals repeat' (first | (with_reducible exact OnlyIn.refl _ _) | (with_reducible refine OnlyIn.ite' ?_ ?_) | (with_reducible apply OnlyIn.via; (first | apply programFault_only | apply setUnit_only); on_goal 1 => decide))

theorem execCruExp2_only (u : ℕ) (s : State) {t' : State} (h : (execCruExp2 u s) = .next t') :
    OnlyIn [.out, .regs, .host, .mgmt, .mem] s t' := by
  unfold execCruExp2 at h
  unfold cruStep at h
  try dsimp only at h
  repeat' (first | cases h | split at h)
  all_goals repeat' (first | (with_reducible exact OnlyIn.refl _ _) | (with_reducible refine OnlyIn.ite' ?_ ?_) | (with_reducible apply OnlyIn.via; (first | apply programFault_only | apply setUnit_only); on_goal 1 => decide))

theorem execCruStoreResult_only (u : ℕ) (s : State) {t' : State} (h : (execCruStoreResult u s) = .next t') :
    OnlyIn [.out, .regs, .host, .mgmt, .mem] s t' := by
  unfold execCruStoreResult at h
  unfold storeRow cruStep at h
  try dsimp only at h
  repeat' (first | cases h | split at h)
  all_goals repeat' (first | (with_reducible exact OnlyIn.refl _ _) | (with_reducible refine OnlyIn.ite' ?_ ?_) | (with_reducible apply OnlyIn.via; (first | apply setUnit_only | apply programFault_only); on_goal 1 => decide))

theorem storeColumns_only (u : ℕ) (ula : ℕ) (x : CruUnit) (d : List Byte) (s : State) :
    OnlyIn [.out, .regs, .host, .mgmt, .mem, .cells] s (storeColumns u ula x d s) := by
  unfold storeColumns
  try dsimp only
  repeat' (first | (with_reducible exact OnlyIn.refl _ _) | (with_reducible refine OnlyIn.ite' ?_ ?_) | (with_reducible apply OnlyIn.via; (first | apply programFault_only | apply setUnit_only | apply writeMem_only); on_goal 1 => decide))

theorem execCruStoreCopy_only (u : ℕ) (s : State) {t' : State} (h : (execCruStoreCopy u s) = .next t') :
    OnlyIn [.out, .regs, .host, .mgmt, .mem, .cells] s t' := by
  unfold execCruStoreCopy at h
  unfold storeRow cruStep at h
  try dsimp only at h
  repeat' (first | cases h | split at h)
  all_goals repeat' (first | exact List.Subset.refl _ | decide | (with_reducible exact OnlyIn.refl _ _) | (with_reducible refine OnlyIn.ite' ?_ ?_) | (with_reducible apply OnlyIn.via; (first | apply storeColumns_only | apply programFault_only); on_goal 1 => decide) | ((with_reducible apply OnlyIn.andThen (m := [.out, .regs, .host, .mgmt, .mem, .cells])); (on_goal 2 => (with_reducible apply useLane_only))) | split | intro x)

theorem execCruStoreZero_only (u : ℕ) (s : State) {t' : State} (h : (execCruStoreZero u s) = .next t') :
    OnlyIn [.out, .regs, .host, .mgmt, .mem, .cells] s t' := by
  unfold execCruStoreZero at h
  unfold storeRow cruStep at h
  try dsimp only at h
  repeat' (first | cases h | split at h)
  all_goals repeat' (first | (with_reducible exact OnlyIn.refl _ _) | (with_reducible refine OnlyIn.ite' ?_ ?_) | (with_reducible apply OnlyIn.via; (first | apply storeColumns_only | apply programFault_only); on_goal 1 => decide))

theorem execCruStoreRewrite_only (u : ℕ) (s : State) {t' : State} (h : (execCruStoreRewrite u s) = .next t') :
    OnlyIn [.out, .regs, .host, .mgmt, .mem, .cells] s t' := by
  unfold execCruStoreRewrite at h
  unfold storeRow cruStep at h
  try dsimp only at h
  repeat' (first | cases h | split at h)
  all_goals repeat' (first | exact List.Subset.refl _ | decide | (with_reducible exact OnlyIn.refl _ _) | (with_reducible refine OnlyIn.ite' ?_ ?_) | (with_reducible apply OnlyIn.via; (first | apply programFault_only | apply setUnit_only | apply writeMem_only); on_goal 1 => decide) | ((with_reducible apply OnlyIn.andThen (m := [.out, .regs, .host, .mgmt, .mem, .cells])); (on_goal 2 => (with_reducible apply useLane_only))) | ((with_reducible apply OnlyIn.andThen (m := [.out, .regs, .host, .mgmt, .mem, .cells])); (on_goal 2 => (with_reducible apply forEach_only))) | ((with_reducible apply OnlyIn.andThen (m := [.out, .regs, .host, .mgmt, .mem, .cells])); (on_goal 2 => (with_reducible apply OnlyIn.forEach; intro _ _)); (on_goal 3 => exact List.Subset.refl _)) | split | intro x)

theorem execCruSscore_only (u : ℕ) (s : State) {t' : State} (h : (execCruSscore u s) = .next t') :
    OnlyIn [.out, .regs, .host, .mgmt, .mem] s t' := by
  unfold execCruSscore at h
  unfold cruStep at h
  try dsimp only at h
  repeat' (first | cases h | split at h)
  all_goals repeat' (first | exact List.Subset.refl _ | decide | (with_reducible exact OnlyIn.refl _ _) | (with_reducible refine OnlyIn.ite' ?_ ?_) | (with_reducible apply OnlyIn.via; (first | apply programFault_only | apply setUnit_only); on_goal 1 => decide) | ((with_reducible apply OnlyIn.andThen (m := [.out, .regs, .host, .mgmt, .mem])); (on_goal 2 => (with_reducible apply useLane_only))) | split | intro x)

theorem execCruResultRead_only (u : ℕ) (s : State) {t' : State} (h : (execCruResultRead u s) = .next t') :
    OnlyIn [.mem] s t' := by
  unfold execCruResultRead at h
  try dsimp only at h
  repeat' (first | cases h | split at h)
  all_goals repeat' (first | (with_reducible exact OnlyIn.refl _ _) | (with_reducible refine OnlyIn.ite' ?_ ?_) | (with_reducible apply OnlyIn.via; (first | apply setUnit_only); on_goal 1 => decide) | split | (with_reducible refine OnlyIn.upd_mem ?_ (by decide) (by first | (with_reducible exact .inr rfl))))

theorem execCruStallTimeout_only (u : ℕ) (s : State) {t' : State} (h : (execCruStallTimeout u s) = .next t') :
    OnlyIn [.out, .freeCnt, .regs, .host, .cmds, .mgmt, .mem, .deck, .sec, .act] s t' := by
  unfold execCruStallTimeout at h
  try dsimp only at h
  repeat' (first | cases h | split at h)
  all_goals repeat' (first | (with_reducible exact OnlyIn.refl _ _) | (with_reducible refine OnlyIn.ite' ?_ ?_) | (with_reducible apply OnlyIn.via; (first | apply unitFault_only | apply stopUnit_only); on_goal 1 => decide))

theorem execCruClockBound_only (u : ℕ) (s : State) {t' : State} (h : (execCruClockBound u s) = .next t') :
    OnlyIn [.out, .freeCnt, .regs, .host, .cmds, .mgmt, .mem, .deck, .sec, .act] s t' := by
  unfold execCruClockBound at h
  try dsimp only at h
  repeat' (first | cases h | split at h)
  all_goals repeat' (first | (with_reducible exact OnlyIn.refl _ _) | (with_reducible refine OnlyIn.ite' ?_ ?_) | (with_reducible apply OnlyIn.via; (first | apply unitFault_only | apply stopUnit_only); on_goal 1 => decide))

theorem setOwed_only (u : ℕ) (bank : ℕ) (n : ℕ) (s : State) :
    OnlyIn [.mem] s (setOwed u bank n s) := by
  unfold setOwed
  try dsimp only
  repeat' (first | (with_reducible exact OnlyIn.refl _ _) | (with_reducible refine OnlyIn.ite' ?_ ?_) | split | (with_reducible refine OnlyIn.upd_mem ?_ (by decide) (by first | (with_reducible exact .inr rfl))))

theorem execRefreshDue_only (u : ℕ) (bank : ℕ) (s : State) {t' : State} (h : (execRefreshDue u bank s) = .next t') :
    OnlyIn [.mem] s t' := by
  unfold execRefreshDue at h
  try dsimp only at h
  repeat' (first | cases h | split at h)
  all_goals repeat' (first | (with_reducible exact OnlyIn.refl _ _) | (with_reducible refine OnlyIn.ite' ?_ ?_) | (with_reducible apply OnlyIn.via; (first | apply setOwed_only | apply suspendUnit_only); on_goal 1 => decide))

theorem execCruRowBoundarySuspend_only (u : ℕ) (s : State) {t' : State} (h : (execCruRowBoundarySuspend u s) = .next t') :
    OnlyIn [.regs, .mem] s t' := by
  unfold execCruRowBoundarySuspend at h
  try dsimp only at h
  repeat' (first | cases h | split at h)
  all_goals repeat' (first | (with_reducible exact OnlyIn.refl _ _) | (with_reducible refine OnlyIn.ite' ?_ ?_) | (with_reducible apply OnlyIn.via; (first | apply cntAdd_only | apply setUnit_only); on_goal 1 => decide))

theorem execCruSuspendResume_only (u : ℕ) (s : State) {t' : State} (h : (execCruSuspendResume u s) = .next t') :
    OnlyIn [.mem] s t' := by
  unfold execCruSuspendResume at h
  try dsimp only at h
  repeat' (first | cases h | split at h)
  all_goals repeat' (first | (with_reducible exact OnlyIn.refl _ _) | (with_reducible refine OnlyIn.ite' ?_ ?_) | (with_reducible apply OnlyIn.via; (first | apply setOwed_only | apply setUnit_only); on_goal 1 => decide))

theorem execCrucibleImageLoad_only (pkg : ℕ) (unit : ℕ) (s : State) {t' : State} (h : (execCrucibleImageLoad pkg unit s) = .next t') :
    OnlyIn [.regs, .mem] s t' := by
  unfold execCrucibleImageLoad at h
  try dsimp only at h
  repeat' (first | cases h | split at h)
  all_goals repeat' (first | (with_reducible exact OnlyIn.refl _ _) | (with_reducible refine OnlyIn.ite' ?_ ?_) | (with_reducible apply OnlyIn.via; (first | apply setUnit_only | apply showImg_only); on_goal 1 => decide) | split | (with_reducible refine OnlyIn.upd_mem ?_ (by decide) (by first | (with_reducible exact .inr rfl))))

theorem burstEvent_only (u : ℕ) (burst : ℕ) (s : State) :
    OnlyIn [.out, .regs, .host, .mgmt, .mem] s (burstEvent u burst s) := by
  unfold burstEvent
  try dsimp only
  repeat' (first | (with_reducible exact OnlyIn.refl _ _) | (with_reducible refine OnlyIn.ite' ?_ ?_) | (with_reducible apply OnlyIn.via; (first | apply showLast_only | apply setUnit_only | apply post_only | apply cntAdd_only); on_goal 1 => decide))

theorem scrubBursts_only (u : ℕ) (b : ℕ) (n : ℕ) (s : State) :
    OnlyIn [.out, .regs, .host, .mgmt, .mem, .cells] s (scrubBursts u b n s) := by
  unfold scrubBursts
  try dsimp only
  repeat' (first | exact List.Subset.refl _ | decide | (with_reducible exact OnlyIn.refl _ _) | (with_reducible refine OnlyIn.ite' ?_ ?_) | (with_reducible apply OnlyIn.via; (first | apply cntAdd_only | apply writeMem_only | apply burstEvent_only); on_goal 1 => decide) | ((with_reducible apply OnlyIn.andThen (m := [.out, .regs, .host, .mgmt, .mem, .cells])); (on_goal 2 => (with_reducible apply forEach_only))) | ((with_reducible apply OnlyIn.andThen (m := [.out, .regs, .host, .mgmt, .mem, .cells])); (on_goal 2 => (with_reducible apply OnlyIn.forEach; intro _ _)); (on_goal 3 => exact List.Subset.refl _)) | split)

theorem execScrubLaunch_only (u : ℕ) (granule : ℕ) (s : State) {t' : State} (h : (execScrubLaunch u granule s) = .next t') :
    OnlyIn [.out, .regs, .host, .mgmt, .mem, .cells] s t' := by
  unfold execScrubLaunch at h
  try dsimp only at h
  repeat' (first | cases h | split at h)
  all_goals repeat' (first | (with_reducible exact OnlyIn.refl _ _) | (with_reducible refine OnlyIn.ite' ?_ ?_) | (with_reducible apply OnlyIn.via; (first | apply scrubBursts_only); on_goal 1 => decide) | split | (with_reducible refine OnlyIn.upd_mem ?_ (by decide) (by first | (with_reducible exact .inr rfl))))

theorem execRowRetireCopy_only (unit : ℕ) (src : ℕ) (dst : ℕ) (s : State) {t' : State} (h : (execRowRetireCopy unit src dst s) = .next t') :
    OnlyIn [.out, .regs, .host, .mgmt, .mem, .cells] s t' := by
  unfold execRowRetireCopy at h
  cases h
  refine .ite' (.refl _ _) ?_
  dsimp only
  generalize rowAddr s unit src = a
  split
  · exact (burstEvent_only ..).sub (by decide)
  · refine .via (post_only ..) (by decide) ?_
    refine OnlyIn.upd_mem ?_ (by decide) (.inl (by decide))
    refine .via (cntAdd_only ..) (by decide) ?_
    refine .via (writeMem_only ..) (by decide) ?_
    exact (writeMem_only ..).sub (by decide)

theorem execCastAuditPiece_only (s : State) {t' : State} (h : (execCastAuditPiece s) = .next t') :
    OnlyIn [.out, .regs, .host, .mgmt, .mem] s t' := by
  unfold execCastAuditPiece at h
  try dsimp only at h
  repeat' (first | cases h | split at h)
  all_goals repeat' (first | (with_reducible exact OnlyIn.refl _ _) | (with_reducible refine OnlyIn.ite' ?_ ?_) | (with_reducible apply OnlyIn.via; (first | apply setValBits_only | apply castDamage_only); on_goal 1 => decide) | split | (with_reducible refine OnlyIn.upd_mem ?_ (by decide) (by first | (with_reducible exact .inr rfl))))

end Sys2Proof.Machine
end

