-- ==== Sys2Proof/Laws/FrameRma.lean ====
section
/-! SUPPORT. The areas of the state that each function may change: RMA: packets and commands. -/

namespace Sys2Proof.Machine

open Sys2Proof

theorem wakeOne_only (w : Waiter) (s : State) :
    OnlyIn [.out, .freeCnt, .regs, .host, .cmds, .mgmt, .rma, .deck, .sec] s (wakeOne w s) := by
  unfold wakeOne
  try dsimp only
  repeat' (first | (with_reducible exact OnlyIn.refl _ _) | (with_reducible refine OnlyIn.ite' ?_ ?_) | (with_reducible apply OnlyIn.via; (first | apply endAtAdmission_only | apply finish_only); on_goal 1 => decide) | split | (with_reducible refine OnlyIn.upd_rma ?_ (by decide)) | (with_reducible refine OnlyIn.upd_deck ?_ (by decide)) | (with_reducible refine OnlyIn.upd ?_ (by constructor <;> first | (with_reducible rfl) | (with_reducible exact .inr rfl) | exact .inl (by decide))))

theorem wakeWaiters_only (i : ℕ) (s : State) :
    OnlyIn [.out, .freeCnt, .regs, .host, .cmds, .mgmt, .rma, .deck, .sec] s (wakeWaiters i s) := by
  unfold wakeWaiters
  try dsimp only
  repeat' (first | exact List.Subset.refl _ | decide | (with_reducible exact OnlyIn.refl _ _) | (with_reducible refine OnlyIn.ite' ?_ ?_) | (with_reducible apply OnlyIn.via; (first | apply wakeOne_only); on_goal 1 => decide) | ((with_reducible apply OnlyIn.andThen (m := [.out, .freeCnt, .regs, .host, .cmds, .mgmt, .rma, .deck, .sec])); (on_goal 2 => (with_reducible apply forEach_only))) | ((with_reducible apply OnlyIn.andThen (m := [.out, .freeCnt, .regs, .host, .cmds, .mgmt, .rma, .deck, .sec])); (on_goal 2 => (with_reducible apply OnlyIn.forEach; intro _ _)); (on_goal 3 => exact List.Subset.refl _)))

theorem addCounter_only (part : ℕ) (i : ℕ) (amount : ℕ) (toAcked : Bool) (conn : ℕ) (peer : ℕ) (s : State) :
    OnlyIn [.out, .freeCnt, .regs, .host, .cmds, .mgmt, .rma, .deck, .sec] s (addCounter part i amount toAcked conn peer s) := by
  unfold addCounter
  try dsimp only
  repeat' (first | (with_reducible exact OnlyIn.refl _ _) | (with_reducible refine OnlyIn.ite' ?_ ?_) | (with_reducible apply OnlyIn.via; (first | apply wakeWaiters_only | apply post_only | apply rmaCnt_only); on_goal 1 => decide) | split | (with_reducible refine OnlyIn.upd_rma ?_ (by decide)))

theorem pageRequest_only (c : ℕ) (r : Region) (p : Packet) (page : ℕ) (s : State) :
    OnlyIn [.out, .host, .mgmt] s (pageRequest c r p page s) := by
  unfold pageRequest
  try dsimp only
  repeat' (first | (with_reducible exact OnlyIn.refl _ _) | (with_reducible refine OnlyIn.ite' ?_ ?_) | (with_reducible apply OnlyIn.via; (first | apply post_only); on_goal 1 => decide))

theorem advanceRx_only (c : ℕ) (n : ℕ) (s : State) :
    OnlyIn [.rma] s (advanceRx c n s) := by
  unfold advanceRx
  try dsimp only
  repeat' (first | (with_reducible exact OnlyIn.refl _ _) | (with_reducible refine OnlyIn.ite' ?_ ?_) | (with_reducible apply OnlyIn.via; (first | apply modConn_only); on_goal 1 => decide))

theorem reject_only (c : ℕ) (first : BitVec 24) (n : ℕ) (code : ℕ) (s : State) :
    OnlyIn [.out, .regs, .host, .mgmt, .tap, .fab, .rma, .act] s (reject c first n code s) := by
  unfold reject
  try dsimp only
  repeat' (first | (with_reducible exact OnlyIn.refl _ _) | (with_reducible refine OnlyIn.ite' ?_ ?_) | (with_reducible apply OnlyIn.via; (first | apply modConn_only | apply advanceRx_only | apply sendAck_only); on_goal 1 => decide))

theorem pageMiss_only (port : ℕ) (c : ℕ) (cg : Cargo) (first : BitVec 24) (n : ℕ) (r : Region) (ri : ℕ) (page : ℕ) (s : State) :
    OnlyIn [.out, .regs, .host, .mgmt, .tap, .fab, .rma, .act] s (pageMiss port c cg first n r ri page s) := by
  unfold pageMiss
  try dsimp only
  repeat' (first | (with_reducible exact OnlyIn.refl _ _) | (with_reducible refine OnlyIn.ite' ?_ ?_) | (with_reducible apply OnlyIn.via; (first | apply pageRequest_only | apply modConn_only | apply sendAck_only | apply rmaCnt_only | apply reject_only); on_goal 1 => decide))

theorem writeSpans_only (r : Region) (x1 : List (ℕ × ℕ)) (x2 : List Byte) (x3 : State) :
    OnlyIn [.out, .tap, .mem, .cells] x3 (writeSpans r x1 x2 x3) := by
  induction x1 generalizing r x2 x3 with
  | nil => exact OnlyIn.refl _ _
  | cons a l ih =>
  unfold writeSpans
  try lift_lets
  repeat' (first | ((with_reducible apply OnlyIn.andThen (m := [.out, .tap, .mem, .cells])); (on_goal 2 => (with_reducible apply ih)); (on_goal 2 => exact List.Subset.refl _)) | (intro x; have hx : OnlyIn [.out, .tap, .mem, .cells] x3 x := (by repeat' (first | ((with_reducible apply OnlyIn.andThen (m := [.out, .tap, .mem, .cells])); (on_goal 2 => (with_reducible apply ih)); (on_goal 2 => exact List.Subset.refl _)) | (with_reducible exact OnlyIn.refl _ _) | assumption | (with_reducible refine OnlyIn.ite' ?_ ?_) | (with_reducible apply OnlyIn.via; (first | ((with_reducible apply OnlyIn.andThen (m := [.out, .tap, .mem, .cells])); (on_goal 2 => (with_reducible apply ih)); (on_goal 2 => exact List.Subset.refl _)) | apply writeMem_only | apply tapAdd_only | apply emit_only); on_goal 1 => decide) | split)); clear_value x) | (intro x) | lift_lets | (with_reducible exact OnlyIn.refl _ _) | assumption | (with_reducible refine OnlyIn.ite' ?_ ?_) | (with_reducible apply OnlyIn.via; (first | ((with_reducible apply OnlyIn.andThen (m := [.out, .tap, .mem, .cells])); (on_goal 2 => (with_reducible apply ih)); (on_goal 2 => exact List.Subset.refl _)) | apply writeMem_only | apply tapAdd_only | apply emit_only); on_goal 1 => decide))

theorem ackNow_only (c : ℕ) (s : State) :
    OnlyIn [.out, .regs, .host, .mgmt, .tap, .fab, .rma, .act] s (ackNow c s) := by
  unfold ackNow
  try dsimp only
  repeat' (first | (with_reducible exact OnlyIn.refl _ _) | (with_reducible refine OnlyIn.ite' ?_ ?_) | (with_reducible apply OnlyIn.via; (first | apply sendAck_only | apply modConn_only); on_goal 1 => decide))

theorem applied_only (c : ℕ) (p : Packet) (s : State) :
    OnlyIn [.out, .regs, .host, .mgmt, .tap, .fab, .rma, .act] s (applied c p s) := by
  unfold applied
  try dsimp only
  repeat' (first | (with_reducible exact OnlyIn.refl _ _) | (with_reducible refine OnlyIn.ite' ?_ ?_) | (with_reducible apply OnlyIn.via; (first | apply modConn_only | apply ackNow_only); on_goal 1 => decide))

theorem serveWrite_only (port : ℕ) (c : ℕ) (cg : Cargo) (o : Rest) (s : State) :
    OnlyIn [.out, .regs, .host, .mgmt, .tap, .mem, .fab, .rma, .cells, .act] s (serveWrite port c cg o s) := by
  unfold serveWrite
  try dsimp only
  repeat' (first | (with_reducible exact OnlyIn.refl _ _) | (with_reducible refine OnlyIn.ite' ?_ ?_) | (with_reducible apply OnlyIn.via; (first | apply pageMiss_only | apply reject_only | apply advanceRx_only | apply writeSpans_only | apply applied_only | apply modConn_only); on_goal 1 => decide) | split)

theorem answerBad_only (c : ℕ) (p : Packet) (code : ℕ) (dup : Bool) (s : State) :
    OnlyIn [.out, .regs, .host, .mgmt, .tap, .fab, .rma, .act] s (answerBad c p code dup s) := by
  unfold answerBad
  try dsimp only
  repeat' (first | (with_reducible exact OnlyIn.refl _ _) | (with_reducible refine OnlyIn.ite' ?_ ?_) | (with_reducible apply OnlyIn.via; (first | apply sendAck_only | apply reject_only); on_goal 1 => decide))

theorem askTarget_only (c : ℕ) (part : ℕ) (t : TargetRead) (s : State) :
    OnlyIn [.out, .rma] s (askTarget c part t s) := by
  unfold askTarget
  try dsimp only
  repeat' (first | (with_reducible exact OnlyIn.refl _ _) | (with_reducible refine OnlyIn.ite' ?_ ?_) | (with_reducible apply OnlyIn.via; (first | apply emit_only | apply modConn_only); on_goal 1 => decide) | split)

theorem respondRead_only (c : ℕ) (p : Packet) (data : List Byte) (s : State) :
    OnlyIn [.out, .regs, .host, .mgmt, .tap, .fab, .act] s (respondRead c p data s) := by
  unfold respondRead
  try dsimp only
  repeat' (first | exact List.Subset.refl _ | decide | (with_reducible exact OnlyIn.refl _ _) | (with_reducible refine OnlyIn.ite' ?_ ?_) | (with_reducible apply OnlyIn.via; (first | apply sendConn_only); on_goal 1 => decide) | ((with_reducible apply OnlyIn.andThen (m := [.out, .regs, .host, .mgmt, .tap, .fab, .act])); (on_goal 2 => (with_reducible apply forEach_only))) | ((with_reducible apply OnlyIn.andThen (m := [.out, .regs, .host, .mgmt, .tap, .fab, .act])); (on_goal 2 => (with_reducible apply OnlyIn.forEach; intro _ _)); (on_goal 3 => exact List.Subset.refl _)))

theorem respondAdd_only (c : ℕ) (psn : BitVec 24) (try_ : BitVec 8) (old : BitVec 64) (s : State) :
    OnlyIn [.out, .regs, .host, .mgmt, .tap, .fab, .act] s (respondAdd c psn try_ old s) := by
  unfold respondAdd
  try dsimp only
  repeat' (first | (with_reducible exact OnlyIn.refl _ _) | (with_reducible refine OnlyIn.ite' ?_ ?_) | (with_reducible apply OnlyIn.via; (first | apply sendConn_only); on_goal 1 => decide))

theorem answerRead_only (c : ℕ) (p : Packet) (data : List Byte) (dup : Bool) (s : State) :
    OnlyIn [.out, .regs, .host, .mgmt, .tap, .mem, .fab, .rma, .cells, .act] s (answerRead c p data dup s) := by
  unfold answerRead
  try dsimp only
  repeat' (first | (with_reducible exact OnlyIn.refl _ _) | (with_reducible refine OnlyIn.ite' ?_ ?_) | (with_reducible apply OnlyIn.via; (first | apply respondRead_only | apply applied_only | apply advanceRx_only | apply writeSpans_only | apply modConn_only | apply respondAdd_only); on_goal 1 => decide))

theorem serveRead_only (port : ℕ) (c : ℕ) (cg : Cargo) (dup : Bool) (s : State) :
    OnlyIn [.out, .regs, .host, .mgmt, .tap, .mem, .fab, .rma, .cells, .act] s (serveRead port c cg dup s) := by
  unfold serveRead
  try dsimp only
  repeat' (first | (with_reducible exact OnlyIn.refl _ _) | (with_reducible refine OnlyIn.ite' ?_ ?_) | (with_reducible apply OnlyIn.via; (first | apply pageMiss_only | apply answerBad_only | apply askTarget_only | apply answerRead_only); on_goal 1 => decide) | split)

theorem parkPacket_only (port : ℕ) (c : ℕ) (cg : Cargo) (s : State) :
    OnlyIn [.regs, .fab, .rma] s (parkPacket port c cg s) := by
  unfold parkPacket
  try dsimp only
  repeat' (first | (with_reducible exact OnlyIn.refl _ _) | (with_reducible refine OnlyIn.ite' ?_ ?_) | (with_reducible apply OnlyIn.via; (first | apply fetchCtx_only | apply modPort_only | apply takeInbox_only); on_goal 1 => decide) | split | (with_reducible refine OnlyIn.upd_fab ?_ (by decide)))

theorem authFail_only (c : ℕ) (p : Packet) (s : State) :
    OnlyIn [.out, .regs, .host, .mgmt] s (authFail c p s) := by
  unfold authFail
  try dsimp only
  repeat' (first | (with_reducible exact OnlyIn.refl _ _) | (with_reducible refine OnlyIn.ite' ?_ ?_) | (with_reducible apply OnlyIn.via; (first | apply post_only | apply rmaCnt_only); on_goal 1 => decide))

theorem purgeRecs_only (c : ℕ) (cpsn : BitVec 24) (s : State) :
    OnlyIn [.rma] s (purgeRecs c cpsn s) := by
  unfold purgeRecs
  try dsimp only
  repeat' (first | (with_reducible exact OnlyIn.refl _ _) | (with_reducible refine OnlyIn.ite' ?_ ?_) | (with_reducible apply OnlyIn.via; (first | apply modConn_only); on_goal 1 => decide))

theorem rxOn_only {l : List Area} {port : ℕ} {cg : Cargo} {queue : Bool} {act : ℕ → Cargo → State → State} {s : State} (hact : ∀ a0 a1 t, OnlyIn l t (act a0 a1 t)) (hl : [.out, .regs, .host, .mgmt, .tap, .fab, .rma] ⊆ l) :
    OnlyIn l s (rxOn port cg queue act s) := by
  unfold rxOn
  try lift_lets
  repeat' (first | (intro x) | lift_lets | (with_reducible exact OnlyIn.refl _ _) | assumption | (with_reducible refine OnlyIn.ite' ?_ ?_) | ((with_reducible apply OnlyIn.andThen (m := l)); (on_goal 2 => (apply hact)); (on_goal 2 => exact List.Subset.refl _)) | ((with_reducible apply OnlyIn.andThen (m := [.regs])); (on_goal 2 => (with_reducible apply rmaCnt_only)); (on_goal 2 => (first | decide | exact List.Subset.trans (by decide) hl))) | ((with_reducible apply OnlyIn.andThen (m := [.fab])); (on_goal 2 => (with_reducible apply takeInbox_only)); (on_goal 2 => (first | decide | exact List.Subset.trans (by decide) hl))) | ((with_reducible apply OnlyIn.andThen (m := [.regs, .fab, .rma])); (on_goal 2 => (with_reducible apply parkPacket_only)); (on_goal 2 => (first | decide | exact List.Subset.trans (by decide) hl))) | ((with_reducible apply OnlyIn.andThen (m := [.rma])); (on_goal 2 => (with_reducible apply modConn_only)); (on_goal 2 => (first | decide | exact List.Subset.trans (by decide) hl))) | ((with_reducible apply OnlyIn.andThen (m := [.rma])); (on_goal 2 => (with_reducible apply touchCtx_only)); (on_goal 2 => (first | decide | exact List.Subset.trans (by decide) hl))) | ((with_reducible apply OnlyIn.andThen (m := [.tap])); (on_goal 2 => (with_reducible apply meterRx_only)); (on_goal 2 => (first | decide | exact List.Subset.trans (by decide) hl))) | ((with_reducible apply OnlyIn.andThen (m := [.out, .regs, .host, .mgmt])); (on_goal 2 => (with_reducible apply authFail_only)); (on_goal 2 => (first | decide | exact List.Subset.trans (by decide) hl))) | ((with_reducible apply OnlyIn.andThen (m := [.rma])); (on_goal 2 => (with_reducible apply purgeRecs_only)); (on_goal 2 => (first | decide | exact List.Subset.trans (by decide) hl))) | split)

theorem duplicate_only (port : ℕ) (c : ℕ) (cg : Cargo) (s : State) :
    OnlyIn [.out, .regs, .host, .mgmt, .tap, .mem, .fab, .rma, .cells, .act] s (duplicate port c cg s) := by
  unfold duplicate
  try dsimp only
  repeat' (first | (with_reducible exact OnlyIn.refl _ _) | (with_reducible refine OnlyIn.ite' ?_ ?_) | (with_reducible apply OnlyIn.via; (first | apply rmaCnt_only | apply sendAck_only | apply respondAdd_only | apply serveRead_only | apply ackNow_only); on_goal 1 => decide) | split)

theorem rxRequest_only {l : List Area} {port : ℕ} {cg : Cargo} {fresh : ℕ → Cargo → State → State} {s : State} (hfresh : ∀ a0 a1 t, OnlyIn l t (fresh a0 a1 t)) (hl : [.out, .regs, .host, .mgmt, .tap, .mem, .fab, .rma, .cells, .act] ⊆ l) :
    OnlyIn l s (rxRequest port cg fresh s) := by
  unfold rxRequest
  refine rxOn_only (fun _ _ t => ?_) (List.Subset.trans (by decide) hl)
  repeat' (first | (intro x) | (with_reducible exact OnlyIn.refl _ _) | assumption | (with_reducible refine OnlyIn.ite' ?_ ?_) | ((with_reducible apply OnlyIn.andThen (m := l)); (on_goal 2 => (apply hfresh)); (on_goal 2 => exact List.Subset.refl _)) | ((with_reducible apply OnlyIn.andThen (m := [.out, .regs, .host, .mgmt, .tap, .fab, .rma])); (on_goal 2 => (with_reducible apply rxOn_only)); (on_goal 2 => (first | decide | exact List.Subset.trans (by decide) hl | exact OnlyIn.memOf hl (by decide)))) | ((with_reducible apply OnlyIn.andThen (m := [.out, .regs, .host, .mgmt, .tap, .fab, .rma, .act])); (on_goal 2 => (with_reducible apply reject_only)); (on_goal 2 => (first | decide | exact List.Subset.trans (by decide) hl))) | ((with_reducible apply OnlyIn.andThen (m := [.out, .regs, .host, .mgmt, .tap, .fab, .act])); (on_goal 2 => (with_reducible apply sendAck_only)); (on_goal 2 => (first | decide | exact List.Subset.trans (by decide) hl))) | ((with_reducible apply OnlyIn.andThen (m := [.regs])); (on_goal 2 => (with_reducible apply rmaCnt_only)); (on_goal 2 => (first | decide | exact List.Subset.trans (by decide) hl))) | ((with_reducible apply OnlyIn.andThen (m := [.rma])); (on_goal 2 => (with_reducible apply modConn_only)); (on_goal 2 => (first | decide | exact List.Subset.trans (by decide) hl))) | ((with_reducible apply OnlyIn.andThen (m := [.out, .regs, .host, .mgmt, .tap, .mem, .fab, .rma, .cells, .act])); (on_goal 2 => (with_reducible apply duplicate_only)); (on_goal 2 => (first | decide | exact List.Subset.trans (by decide) hl))) | split)

theorem violation_only (c : ℕ) (p : Packet) (code : ℕ) (s : State) :
    OnlyIn [.out, .regs, .host, .mgmt] s (violation c p code s) := by
  unfold violation
  try dsimp only
  repeat' (first | (with_reducible exact OnlyIn.refl _ _) | (with_reducible refine OnlyIn.ite' ?_ ?_) | (with_reducible apply OnlyIn.via; (first | apply post_only | apply rmaCnt_only); on_goal 1 => decide))

theorem freshWrite_only (port : ℕ) (c : ℕ) (cg : Cargo) (s : State) :
    OnlyIn [.out, .regs, .host, .mgmt, .tap, .mem, .fab, .rma, .cells, .act] s (freshWrite port c cg s) := by
  unfold freshWrite
  try dsimp only
  repeat' (first | (with_reducible exact OnlyIn.refl _ _) | (with_reducible refine OnlyIn.ite' ?_ ?_) | (with_reducible apply OnlyIn.via; (first | apply reject_only | apply serveWrite_only | apply violation_only); on_goal 1 => decide) | split)

theorem rxWritePkt_only (port : ℕ) (cg : Cargo) (s : State) :
    OnlyIn [.out, .regs, .host, .mgmt, .tap, .mem, .fab, .rma, .cells, .act] s (rxWritePkt port cg s) := by
  unfold rxWritePkt
  try dsimp only
  repeat' (first | exact List.Subset.refl _ | decide | (with_reducible exact OnlyIn.refl _ _) | (with_reducible refine OnlyIn.ite' ?_ ?_) | (with_reducible apply OnlyIn.via; (first | apply freshWrite_only); on_goal 1 => decide) | ((with_reducible apply OnlyIn.andThen (m := [.out, .regs, .host, .mgmt, .tap, .mem, .fab, .rma, .cells, .act])); (on_goal 2 => (with_reducible apply rxRequest_only))) | split | intro x)

theorem freshRead_only (port : ℕ) (c : ℕ) (cg : Cargo) (s : State) :
    OnlyIn [.out, .regs, .host, .mgmt, .tap, .mem, .fab, .rma, .cells, .act] s (freshRead port c cg s) := by
  unfold freshRead
  try dsimp only
  repeat' (first | (with_reducible exact OnlyIn.refl _ _) | (with_reducible refine OnlyIn.ite' ?_ ?_) | (with_reducible apply OnlyIn.via; (first | apply reject_only | apply serveRead_only | apply violation_only); on_goal 1 => decide) | split)

theorem rxReadPkt_only (port : ℕ) (cg : Cargo) (s : State) :
    OnlyIn [.out, .regs, .host, .mgmt, .tap, .mem, .fab, .rma, .cells, .act] s (rxReadPkt port cg s) := by
  unfold rxReadPkt
  try dsimp only
  repeat' (first | exact List.Subset.refl _ | decide | (with_reducible exact OnlyIn.refl _ _) | (with_reducible refine OnlyIn.ite' ?_ ?_) | (with_reducible apply OnlyIn.via; (first | apply freshRead_only); on_goal 1 => decide) | ((with_reducible apply OnlyIn.andThen (m := [.out, .regs, .host, .mgmt, .tap, .mem, .fab, .rma, .cells, .act])); (on_goal 2 => (with_reducible apply rxRequest_only))) | split | intro x)

theorem opDone_only (c : ℕ) (o : Op) (st : Status) (result : ℕ) (s : State) :
    OnlyIn [.out, .freeCnt, .regs, .host, .cmds, .seqs, .mgmt, .tap, .mem, .fab, .rma, .deck, .sec, .cells, .act] s (opDone c o st result s) := by
  unfold opDone
  try dsimp only
  repeat' (first | (with_reducible exact OnlyIn.refl _ _) | (with_reducible refine OnlyIn.ite' ?_ ?_) | (with_reducible apply OnlyIn.via; (first | apply dropOp_only | apply deliver_only | apply endAtAdmission_only | apply finish_only); on_goal 1 => decide) | split)

theorem rxReadRespPkt_only (port : ℕ) (cg : Cargo) (s : State) :
    OnlyIn [.out, .freeCnt, .regs, .host, .cmds, .seqs, .mgmt, .tap, .mem, .fab, .rma, .deck, .sec, .cells, .act] s (rxReadRespPkt port cg s) := by
  unfold rxReadRespPkt
  try dsimp only
  repeat' (first | exact List.Subset.refl _ | decide | (with_reducible exact OnlyIn.refl _ _) | (with_reducible refine OnlyIn.ite' ?_ ?_) | (with_reducible apply OnlyIn.via; (first | apply modConn_only | apply progress_only | apply opDone_only); on_goal 1 => decide) | ((with_reducible apply OnlyIn.andThen (m := [.out, .freeCnt, .regs, .host, .cmds, .seqs, .mgmt, .tap, .mem, .fab, .rma, .deck, .sec, .cells, .act])); (on_goal 2 => (with_reducible apply rxOn_only))) | split | intro x)

theorem rxAddRespPkt_only (port : ℕ) (cg : Cargo) (s : State) :
    OnlyIn [.out, .freeCnt, .regs, .host, .cmds, .seqs, .mgmt, .tap, .mem, .fab, .rma, .deck, .sec, .cells, .act] s (rxAddRespPkt port cg s) := by
  unfold rxAddRespPkt
  try dsimp only
  repeat' (first | exact List.Subset.refl _ | decide | (with_reducible exact OnlyIn.refl _ _) | (with_reducible refine OnlyIn.ite' ?_ ?_) | (with_reducible apply OnlyIn.via; (first | apply progress_only | apply opDone_only); on_goal 1 => decide) | ((with_reducible apply OnlyIn.andThen (m := [.out, .freeCnt, .regs, .host, .cmds, .seqs, .mgmt, .tap, .mem, .fab, .rma, .deck, .sec, .cells, .act])); (on_goal 2 => (with_reducible apply rxOn_only))) | split | intro x)

theorem freshSignal_only (c : ℕ) (cg : Cargo) (s : State) :
    OnlyIn [.out, .freeCnt, .regs, .host, .cmds, .mgmt, .tap, .fab, .rma, .deck, .sec, .act] s (freshSignal c cg s) := by
  unfold freshSignal
  try dsimp only
  repeat' (first | (with_reducible exact OnlyIn.refl _ _) | (with_reducible refine OnlyIn.ite' ?_ ?_) | (with_reducible apply OnlyIn.via; (first | apply reject_only | apply applied_only | apply advanceRx_only | apply addCounter_only); on_goal 1 => decide) | split)

theorem rxSignalPkt_only (port : ℕ) (cg : Cargo) (s : State) :
    OnlyIn [.out, .freeCnt, .regs, .host, .cmds, .mgmt, .tap, .mem, .fab, .rma, .deck, .sec, .cells, .act] s (rxSignalPkt port cg s) := by
  unfold rxSignalPkt
  try dsimp only
  repeat' (first | exact List.Subset.refl _ | decide | (with_reducible exact OnlyIn.refl _ _) | (with_reducible refine OnlyIn.ite' ?_ ?_) | (with_reducible apply OnlyIn.via; (first | apply freshSignal_only); on_goal 1 => decide) | ((with_reducible apply OnlyIn.andThen (m := [.out, .freeCnt, .regs, .host, .cmds, .mgmt, .tap, .mem, .fab, .rma, .deck, .sec, .cells, .act])); (on_goal 2 => (with_reducible apply rxRequest_only))) | split | intro x)

theorem ackUpTo_only (c : ℕ) (a : BitVec 24) (s : State) :
    OnlyIn [.out, .freeCnt, .regs, .host, .cmds, .seqs, .mgmt, .tap, .mem, .fab, .rma, .deck, .sec, .cells, .act] s (ackUpTo c a s) := by
  unfold ackUpTo
  try dsimp only
  repeat' (first | exact List.Subset.refl _ | decide | (with_reducible exact OnlyIn.refl _ _) | (with_reducible refine OnlyIn.ite' ?_ ?_) | (with_reducible apply OnlyIn.via; (first | apply modConn_only | apply opDone_only | apply progress_only); on_goal 1 => decide) | ((with_reducible apply OnlyIn.andThen (m := [.out, .freeCnt, .regs, .host, .cmds, .seqs, .mgmt, .tap, .mem, .fab, .rma, .deck, .sec, .cells, .act])); (on_goal 2 => (with_reducible apply forEach_only))) | ((with_reducible apply OnlyIn.andThen (m := [.out, .freeCnt, .regs, .host, .cmds, .seqs, .mgmt, .tap, .mem, .fab, .rma, .deck, .sec, .cells, .act])); (on_goal 2 => (with_reducible apply OnlyIn.forEach; intro _ _)); (on_goal 3 => exact List.Subset.refl _)))

theorem rxAckPkt_only (port : ℕ) (cg : Cargo) (s : State) :
    OnlyIn [.out, .freeCnt, .regs, .host, .cmds, .seqs, .mgmt, .tap, .mem, .fab, .rma, .deck, .sec, .cells, .act] s (rxAckPkt port cg s) := by
  unfold rxAckPkt
  try dsimp only
  repeat' (first | exact List.Subset.refl _ | decide | (with_reducible exact OnlyIn.refl _ _) | (with_reducible refine OnlyIn.ite' ?_ ?_) | (with_reducible apply OnlyIn.via; (first | apply ackUpTo_only); on_goal 1 => decide) | ((with_reducible apply OnlyIn.andThen (m := [.out, .freeCnt, .regs, .host, .cmds, .seqs, .mgmt, .tap, .mem, .fab, .rma, .deck, .sec, .cells, .act])); (on_goal 2 => (with_reducible apply rxOn_only))) | split | intro x)

theorem callRefused_only (c : ℕ) (m : CallMsg) (st : Status) (s : State) :
    OnlyIn [.out, .freeCnt, .regs, .host, .cmds, .seqs, .mgmt, .sec] s (callRefused c m st s) := by
  unfold callRefused
  try dsimp only
  repeat' (first | (with_reducible exact OnlyIn.refl _ _) | (with_reducible refine OnlyIn.ite' ?_ ?_) | (with_reducible apply OnlyIn.via; (first | apply loseSub_only | apply endAtAdmission_only | apply finish_only); on_goal 1 => decide) | split)

theorem rxNakPkt_only (port : ℕ) (cg : Cargo) (s : State) :
    OnlyIn [.out, .freeCnt, .regs, .host, .cmds, .seqs, .mgmt, .tap, .mem, .fab, .rma, .deck, .sec, .cells, .act] s (rxNakPkt port cg s) := by
  unfold rxNakPkt
  try dsimp only
  repeat' (first | exact List.Subset.refl _ | decide | (with_reducible exact OnlyIn.refl _ _) | (with_reducible refine OnlyIn.ite' ?_ ?_) | (with_reducible apply OnlyIn.via; (first | apply modConn_only | apply ackUpTo_only | apply pump_only | apply resendFrom_only | apply opDone_only | apply progress_only | apply callRefused_only); on_goal 1 => decide) | ((with_reducible apply OnlyIn.andThen (m := [.out, .freeCnt, .regs, .host, .cmds, .seqs, .mgmt, .tap, .mem, .fab, .rma, .deck, .sec, .cells, .act])); (on_goal 2 => (with_reducible apply rxOn_only))) | split | intro x)

theorem rxHoldPkt_only (port : ℕ) (cg : Cargo) (s : State) :
    OnlyIn [.out, .regs, .host, .mgmt, .tap, .fab, .rma] s (rxHoldPkt port cg s) := by
  unfold rxHoldPkt
  try dsimp only
  repeat' (first | exact List.Subset.refl _ | decide | (with_reducible exact OnlyIn.refl _ _) | (with_reducible refine OnlyIn.ite' ?_ ?_) | (with_reducible apply OnlyIn.via; (first | apply modConn_only); on_goal 1 => decide) | ((with_reducible apply OnlyIn.andThen (m := [.out, .regs, .host, .mgmt, .tap, .fab, .rma])); (on_goal 2 => (with_reducible apply rxOn_only))) | split | intro x)

theorem rxRetryPkt_only (port : ℕ) (cg : Cargo) (s : State) :
    OnlyIn [.out, .regs, .host, .mgmt, .tap, .fab, .rma] s (rxRetryPkt port cg s) := by
  unfold rxRetryPkt
  try dsimp only
  repeat' (first | exact List.Subset.refl _ | decide | (with_reducible exact OnlyIn.refl _ _) | (with_reducible refine OnlyIn.ite' ?_ ?_) | (with_reducible apply OnlyIn.via; (first | apply modConn_only); on_goal 1 => decide) | ((with_reducible apply OnlyIn.andThen (m := [.out, .regs, .host, .mgmt, .tap, .fab, .rma])); (on_goal 2 => (with_reducible apply rxOn_only))) | split | intro x)

theorem execRxWrite_only (port : ℕ) (pkt : Packet) (s : State) {t' : State} (h : (execRxWrite port pkt s) = .next t') :
    OnlyIn [.out, .regs, .host, .mgmt, .tap, .mem, .fab, .rma, .cells, .act] s t' := by
  unfold execRxWrite at h
  unfold rxRow at h
  try dsimp only at h
  repeat' (first | cases h | split at h)
  all_goals repeat' (first | (with_reducible exact OnlyIn.refl _ _) | (with_reducible refine OnlyIn.ite' ?_ ?_) | (with_reducible apply OnlyIn.via; (first | apply rxWritePkt_only); on_goal 1 => decide))

theorem execRxReadReq_only (port : ℕ) (pkt : Packet) (s : State) {t' : State} (h : (execRxReadReq port pkt s) = .next t') :
    OnlyIn [.out, .regs, .host, .mgmt, .tap, .mem, .fab, .rma, .cells, .act] s t' := by
  unfold execRxReadReq at h
  unfold rxRow at h
  try dsimp only at h
  repeat' (first | cases h | split at h)
  all_goals repeat' (first | (with_reducible exact OnlyIn.refl _ _) | (with_reducible refine OnlyIn.ite' ?_ ?_) | (with_reducible apply OnlyIn.via; (first | apply rxReadPkt_only); on_goal 1 => decide))

theorem execRxReadResp_only (port : ℕ) (pkt : Packet) (s : State) {t' : State} (h : (execRxReadResp port pkt s) = .next t') :
    OnlyIn [.out, .freeCnt, .regs, .host, .cmds, .seqs, .mgmt, .tap, .mem, .fab, .rma, .deck, .sec, .cells, .act] s t' := by
  unfold execRxReadResp at h
  unfold rxRow at h
  try dsimp only at h
  repeat' (first | cases h | split at h)
  all_goals repeat' (first | (with_reducible exact OnlyIn.refl _ _) | (with_reducible refine OnlyIn.ite' ?_ ?_) | (with_reducible apply OnlyIn.via; (first | apply rxReadRespPkt_only); on_goal 1 => decide))

theorem execRxAddReq_only (port : ℕ) (pkt : Packet) (s : State) {t' : State} (h : (execRxAddReq port pkt s) = .next t') :
    OnlyIn [.out, .regs, .host, .mgmt, .tap, .mem, .fab, .rma, .cells, .act] s t' := by
  unfold execRxAddReq at h
  unfold rxRow at h
  try dsimp only at h
  repeat' (first | cases h | split at h)
  all_goals repeat' (first | (with_reducible exact OnlyIn.refl _ _) | (with_reducible refine OnlyIn.ite' ?_ ?_) | (with_reducible apply OnlyIn.via; (first | apply rxReadPkt_only); on_goal 1 => decide))

theorem execRxAddResp_only (port : ℕ) (pkt : Packet) (s : State) {t' : State} (h : (execRxAddResp port pkt s) = .next t') :
    OnlyIn [.out, .freeCnt, .regs, .host, .cmds, .seqs, .mgmt, .tap, .mem, .fab, .rma, .deck, .sec, .cells, .act] s t' := by
  unfold execRxAddResp at h
  unfold rxRow at h
  try dsimp only at h
  repeat' (first | cases h | split at h)
  all_goals repeat' (first | (with_reducible exact OnlyIn.refl _ _) | (with_reducible refine OnlyIn.ite' ?_ ?_) | (with_reducible apply OnlyIn.via; (first | apply rxAddRespPkt_only); on_goal 1 => decide))

theorem execRxSignal_only (port : ℕ) (pkt : Packet) (s : State) {t' : State} (h : (execRxSignal port pkt s) = .next t') :
    OnlyIn [.out, .freeCnt, .regs, .host, .cmds, .mgmt, .tap, .mem, .fab, .rma, .deck, .sec, .cells, .act] s t' := by
  unfold execRxSignal at h
  unfold rxRow at h
  try dsimp only at h
  repeat' (first | cases h | split at h)
  all_goals repeat' (first | (with_reducible exact OnlyIn.refl _ _) | (with_reducible refine OnlyIn.ite' ?_ ?_) | (with_reducible apply OnlyIn.via; (first | apply rxSignalPkt_only); on_goal 1 => decide))

theorem execRxAck_only (port : ℕ) (pkt : Packet) (s : State) {t' : State} (h : (execRxAck port pkt s) = .next t') :
    OnlyIn [.out, .freeCnt, .regs, .host, .cmds, .seqs, .mgmt, .tap, .mem, .fab, .rma, .deck, .sec, .cells, .act] s t' := by
  unfold execRxAck at h
  unfold rxRow at h
  try dsimp only at h
  repeat' (first | cases h | split at h)
  all_goals repeat' (first | (with_reducible exact OnlyIn.refl _ _) | (with_reducible refine OnlyIn.ite' ?_ ?_) | (with_reducible apply OnlyIn.via; (first | apply rxAckPkt_only); on_goal 1 => decide))

theorem execRxNak_only (port : ℕ) (pkt : Packet) (s : State) {t' : State} (h : (execRxNak port pkt s) = .next t') :
    OnlyIn [.out, .freeCnt, .regs, .host, .cmds, .seqs, .mgmt, .tap, .mem, .fab, .rma, .deck, .sec, .cells, .act] s t' := by
  unfold execRxNak at h
  unfold rxRow at h
  try dsimp only at h
  repeat' (first | cases h | split at h)
  all_goals repeat' (first | (with_reducible exact OnlyIn.refl _ _) | (with_reducible refine OnlyIn.ite' ?_ ?_) | (with_reducible apply OnlyIn.via; (first | apply rxNakPkt_only); on_goal 1 => decide))

theorem execRxHold_only (port : ℕ) (pkt : Packet) (s : State) {t' : State} (h : (execRxHold port pkt s) = .next t') :
    OnlyIn [.out, .regs, .host, .mgmt, .tap, .fab, .rma] s t' := by
  unfold execRxHold at h
  unfold rxRow at h
  try dsimp only at h
  repeat' (first | cases h | split at h)
  all_goals repeat' (first | (with_reducible exact OnlyIn.refl _ _) | (with_reducible refine OnlyIn.ite' ?_ ?_) | (with_reducible apply OnlyIn.via; (first | apply rxHoldPkt_only); on_goal 1 => decide))

theorem execRxRetryAfter_only (port : ℕ) (pkt : Packet) (s : State) {t' : State} (h : (execRxRetryAfter port pkt s) = .next t') :
    OnlyIn [.out, .regs, .host, .mgmt, .tap, .fab, .rma] s t' := by
  unfold execRxRetryAfter at h
  unfold rxRow at h
  try dsimp only at h
  repeat' (first | cases h | split at h)
  all_goals repeat' (first | (with_reducible exact OnlyIn.refl _ _) | (with_reducible refine OnlyIn.ite' ?_ ?_) | (with_reducible apply OnlyIn.via; (first | apply rxRetryPkt_only); on_goal 1 => decide))

theorem execAckDelayTimeout_only (conn : ℕ) (s : State) {t' : State} (h : (execAckDelayTimeout conn s) = .next t') :
    OnlyIn [.out, .clk, .regs, .host, .mgmt, .tap, .fab, .rma, .act] s t' := by
  unfold execAckDelayTimeout at h
  try dsimp only at h
  repeat' (first | cases h | split at h)
  all_goals repeat' (first | (with_reducible exact OnlyIn.refl _ _) | (with_reducible refine OnlyIn.ite' ?_ ?_) | (with_reducible apply OnlyIn.via; (first | apply ackNow_only | apply advanceTo_only); on_goal 1 => decide))

theorem execRetransmitTimeout_only (conn : ℕ) (s : State) {t' : State} (h : (execRetransmitTimeout conn s) = .next t') :
    OnlyIn [.out, .freeCnt, .clk, .regs, .host, .cmds, .seqs, .mgmt, .tap, .fab, .rma, .sec, .act] s t' := by
  unfold execRetransmitTimeout at h
  try dsimp only at h
  repeat' (first | cases h | split at h)
  all_goals repeat' (first | (with_reducible exact OnlyIn.refl _ _) | (with_reducible refine OnlyIn.ite' ?_ ?_) | (with_reducible apply OnlyIn.via; (first | apply advanceTo_only | apply connError_only | apply resendFrom_only | apply modConn_only); on_goal 1 => decide) | split)

theorem execHoldRepeatTimer_only (conn : ℕ) (s : State) {t' : State} (h : (execHoldRepeatTimer conn s) = .next t') :
    OnlyIn [.out, .clk, .regs, .host, .mgmt, .tap, .fab, .rma, .act] s t' := by
  unfold execHoldRepeatTimer at h
  try dsimp only at h
  repeat' (first | cases h | split at h)
  all_goals repeat' (first | (with_reducible exact OnlyIn.refl _ _) | (with_reducible refine OnlyIn.ite' ?_ ?_) | (with_reducible apply OnlyIn.via; (first | apply advanceTo_only | apply sendAck_only | apply modConn_only); on_goal 1 => decide) | split)

theorem execStallLimitExpiry_only (conn : ℕ) (s : State) {t' : State} (h : (execStallLimitExpiry conn s) = .next t') :
    OnlyIn [.out, .clk, .regs, .host, .mgmt, .tap, .fab, .rma, .act] s t' := by
  unfold execStallLimitExpiry at h
  try dsimp only at h
  repeat' (first | cases h | split at h)
  all_goals repeat' (first | (with_reducible exact OnlyIn.refl _ _) | (with_reducible refine OnlyIn.ite' ?_ ?_) | (with_reducible apply OnlyIn.via; (first | apply reject_only | apply advanceTo_only | apply post_only); on_goal 1 => decide) | split)

theorem execResendDelayExpiry_only (conn : ℕ) (s : State) {t' : State} (h : (execResendDelayExpiry conn s) = .next t') :
    OnlyIn [.out, .freeCnt, .clk, .regs, .host, .cmds, .seqs, .mgmt, .tap, .mem, .fab, .rma, .deck, .sec, .cells, .act] s t' := by
  unfold execResendDelayExpiry at h
  try dsimp only at h
  repeat' (first | cases h | split at h)
  all_goals repeat' (first | (with_reducible exact OnlyIn.refl _ _) | (with_reducible refine OnlyIn.ite' ?_ ?_) | (with_reducible apply OnlyIn.via; (first | apply modConn_only | apply advanceTo_only | apply pump_only | apply opDone_only | apply resendFrom_only); on_goal 1 => decide) | split)

theorem enqueueOp_only (c : Cmd) (k : ℕ) (o : Op) (s : State) :
    OnlyIn [.out, .freeCnt, .regs, .host, .cmds, .seqs, .mgmt, .tap, .fab, .rma, .deck, .sec, .act] s (enqueueOp c k o s) := by
  unfold enqueueOp
  try dsimp only
  repeat' (first | (with_reducible exact OnlyIn.refl _ _) | (with_reducible refine OnlyIn.ite' ?_ ?_) | (with_reducible apply OnlyIn.via; (first | apply modStep_only | apply postOp_only); on_goal 1 => decide))

theorem admitSignalRemote_only (c : Cmd) (s : State) :
    OnlyIn [.out, .freeCnt, .regs, .host, .cmds, .seqs, .mgmt, .tap, .fab, .rma, .deck, .sec, .act] s (admitSignalRemote c s) := by
  unfold admitSignalRemote
  try dsimp only
  repeat' (first | (with_reducible exact OnlyIn.refl _ _) | (with_reducible refine OnlyIn.ite' ?_ ?_) | (with_reducible apply OnlyIn.via; (first | apply endAtAdmission_only | apply finish_only | apply setCmd_only | apply admitCmd_only | apply enqueueOp_only); on_goal 1 => decide))

theorem admitSignalLocal_only (c : Cmd) (s : State) :
    OnlyIn [.out, .freeCnt, .regs, .host, .cmds, .mgmt, .rma, .deck, .sec] s (admitSignalLocal c s) := by
  unfold admitSignalLocal
  try dsimp only
  repeat' (first | (with_reducible exact OnlyIn.refl _ _) | (with_reducible refine OnlyIn.ite' ?_ ?_) | (with_reducible apply OnlyIn.via; (first | apply endAtAdmission_only | apply finish_only | apply admitCmd_only | apply addCounter_only); on_goal 1 => decide) | split | (with_reducible refine OnlyIn.upd_rma ?_ (by decide)))

theorem admitBlock_only {l : List Area} {c : Cmd} {f : Cmd → List Byte → State → State} {s : State} (hf : ∀ a0 a1 t, OnlyIn l t (f a0 a1 t)) (hl : [.out, .freeCnt, .regs, .host, .cmds, .seqs, .mgmt, .tap, .fab, .rma, .sec, .act] ⊆ l) :
    OnlyIn l s (admitBlock c f s) := by
  unfold admitBlock
  try lift_lets
  repeat' (first | (intro x) | lift_lets | (with_reducible exact OnlyIn.refl _ _) | assumption | (with_reducible refine OnlyIn.ite' ?_ ?_) | ((with_reducible apply OnlyIn.andThen (m := l)); (on_goal 2 => (apply hf)); (on_goal 2 => exact List.Subset.refl _)) | (refine OnlyIn.ofPair (by assumption) ?_; apply hf) | ((with_reducible apply OnlyIn.andThen (m := [.out, .freeCnt, .regs, .host, .cmds, .mgmt, .sec])); (on_goal 2 => (with_reducible first | apply endAtAdmission_only | apply finish_only)); (on_goal 2 => (first | decide | exact List.Subset.trans (by decide) hl))) | ((with_reducible apply OnlyIn.andThen (m := [.regs, .cmds])); (on_goal 2 => (with_reducible apply admitCmd_only)); (on_goal 2 => (first | decide | exact List.Subset.trans (by decide) hl))) | ((with_reducible apply OnlyIn.andThen (m := [.out, .freeCnt, .regs, .host, .cmds, .seqs, .mgmt, .tap, .fab, .rma, .sec, .act])); (on_goal 2 => (with_reducible apply startRead_only)); (on_goal 2 => (first | decide | exact List.Subset.trans (by decide) hl | exact OnlyIn.memOf hl (by decide)))) | ((with_reducible apply OnlyIn.andThen (m := [.out, .freeCnt, .regs, .host, .cmds, .seqs, .mgmt, .tap, .fab, .rma, .sec, .act])); (on_goal 2 => (with_reducible refine OnlyIn.ofPair (by assumption) (startRead_only ..))); (on_goal 2 => (first | decide | exact List.Subset.trans (by decide) hl))) | split)

theorem connOpenInput_only (c : Cmd) (b : List Byte) (s : State) :
    OnlyIn [.out, .freeCnt, .regs, .host, .cmds, .mgmt, .rma, .sec] s (connOpenInput c b s) := by
  unfold connOpenInput
  try dsimp only
  repeat' (first | (with_reducible exact OnlyIn.refl _ _) | (with_reducible refine OnlyIn.ite' ?_ ?_) | (with_reducible apply OnlyIn.via; (first | apply endAtAdmission_only | apply finish_only | apply touchCtx_only | apply setConn_only); on_goal 1 => decide) | split)

theorem admitConnClose_only (c : Cmd) (s : State) :
    OnlyIn [.out, .freeCnt, .regs, .host, .cmds, .seqs, .mgmt, .rma, .sec] s (admitConnClose c s) := by
  unfold admitConnClose
  try dsimp only
  repeat' (first | (with_reducible exact OnlyIn.refl _ _) | (with_reducible refine OnlyIn.ite' ?_ ?_) | (with_reducible apply OnlyIn.via; (first | apply endAtAdmission_only | apply finish_only | apply admitCmd_only | apply connLeft_only | apply modConn_only); on_goal 1 => decide))

theorem mrRegInput_only (c : Cmd) (b : List Byte) (s : State) :
    OnlyIn [.out, .freeCnt, .regs, .host, .cmds, .mgmt, .rma, .sec] s (mrRegInput c b s) := by
  unfold mrRegInput
  try dsimp only
  repeat' (first | (with_reducible exact OnlyIn.refl _ _) | (with_reducible refine OnlyIn.ite' ?_ ?_) | (with_reducible apply OnlyIn.via; (first | apply endAtAdmission_only | apply finish_only); on_goal 1 => decide) | split | (with_reducible refine OnlyIn.upd_rma ?_ (by decide)))

theorem admitMrDereg_only (c : Cmd) (s : State) :
    OnlyIn [.out, .freeCnt, .regs, .host, .cmds, .mgmt, .sec] s (admitMrDereg c s) := by
  unfold admitMrDereg
  try dsimp only
  repeat' (first | (with_reducible exact OnlyIn.refl _ _) | (with_reducible refine OnlyIn.ite' ?_ ?_) | (with_reducible apply OnlyIn.via; (first | apply endAtAdmission_only | apply finish_only | apply admitCmd_only); on_goal 1 => decide))

theorem resumeHeld_only (k : ℕ) (h : Held) (s : State) :
    OnlyIn [.out, .regs, .host, .mgmt, .tap, .mem, .fab, .rma, .cells, .act] s (resumeHeld k h s) := by
  unfold resumeHeld
  try dsimp only
  repeat' (first | (with_reducible exact OnlyIn.refl _ _) | (with_reducible refine OnlyIn.ite' ?_ ?_) | (with_reducible apply OnlyIn.via; (first | apply serveWrite_only | apply serveRead_only | apply sendAck_only | apply rmaCnt_only | apply modConn_only); on_goal 1 => decide) | split)

theorem admitPageResume_only (c : Cmd) (s : State) :
    OnlyIn [.out, .freeCnt, .regs, .host, .cmds, .mgmt, .tap, .mem, .fab, .rma, .sec, .cells, .act] s (admitPageResume c s) := by
  unfold admitPageResume
  try dsimp only
  repeat' (first | exact List.Subset.refl _ | decide | (with_reducible exact OnlyIn.refl _ _) | (with_reducible refine OnlyIn.ite' ?_ ?_) | (with_reducible apply OnlyIn.via; (first | apply endAtAdmission_only | apply finish_only | apply admitCmd_only | apply resumeHeld_only); on_goal 1 => decide) | ((with_reducible apply OnlyIn.andThen (m := [.out, .freeCnt, .regs, .host, .cmds, .mgmt, .tap, .mem, .fab, .rma, .sec, .cells, .act])); (on_goal 2 => (with_reducible apply forEach_only))) | ((with_reducible apply OnlyIn.andThen (m := [.out, .freeCnt, .regs, .host, .cmds, .mgmt, .tap, .mem, .fab, .rma, .sec, .cells, .act])); (on_goal 2 => (with_reducible apply OnlyIn.forEach; intro _ _)); (on_goal 3 => exact List.Subset.refl _)))

theorem admitRmaOp_only (c : Cmd) (s : State) :
    OnlyIn [.out, .freeCnt, .regs, .host, .cmds, .seqs, .mgmt, .tap, .fab, .rma, .deck, .sec, .act] s (admitRmaOp c s) := by
  unfold admitRmaOp
  try dsimp only
  repeat' (first | (with_reducible exact OnlyIn.refl _ _) | (with_reducible refine OnlyIn.ite' ?_ ?_) | (with_reducible apply OnlyIn.via; (first | apply endAtAdmission_only | apply finish_only | apply setCmd_only | apply admitCmd_only | apply enqueueOp_only | apply startRead_only); on_goal 1 => decide) | (with_reducible apply OnlyIn.via; (on_goal 1 => (with_reducible refine .ofPair (by assumption) (startRead_only ..))); on_goal 1 => decide) | split)

theorem admitWait_only (c : Cmd) (s : State) :
    OnlyIn [.out, .freeCnt, .regs, .host, .cmds, .mgmt, .rma, .sec] s (admitWait c s) := by
  unfold admitWait
  try dsimp only
  repeat' (first | (with_reducible exact OnlyIn.refl _ _) | (with_reducible refine OnlyIn.ite' ?_ ?_) | (with_reducible apply OnlyIn.via; (first | apply endAtAdmission_only | apply finish_only | apply setCmd_only | apply admitCmd_only); on_goal 1 => decide) | split | (with_reducible refine OnlyIn.upd_rma ?_ (by decide)))

theorem rmaWriteInput_only (c : Cmd) (r : Got) (s : State) :
    OnlyIn [.out, .freeCnt, .regs, .host, .cmds, .seqs, .mgmt, .tap, .fab, .rma, .deck, .sec, .act] s (rmaWriteInput c r s) := by
  unfold rmaWriteInput
  try dsimp only
  repeat' (first | (with_reducible exact OnlyIn.refl _ _) | (with_reducible refine OnlyIn.ite' ?_ ?_) | (with_reducible apply OnlyIn.via; (first | apply modStep_only | apply pump_only | apply modConn_only | apply endAtAdmission_only | apply finish_only); on_goal 1 => decide) | split)

theorem execRmaRead_only (ring : ℕ) (rseq : BitVec 32) (s : State) {t' : State} (h : (execRmaRead ring rseq s) = .next t') :
    OnlyIn [.out, .freeCnt, .regs, .host, .cmds, .seqs, .mgmt, .tap, .fab, .rma, .deck, .sec, .act] s t' := by
  unfold execRmaRead at h
  unfold rmaRow at h
  try dsimp only at h
  repeat' (first | cases h | split at h)
  all_goals repeat' (first | exact List.Subset.refl _ | decide | (with_reducible exact OnlyIn.refl _ _) | (with_reducible refine OnlyIn.ite' ?_ ?_) | (with_reducible apply OnlyIn.via; (first | apply admitRmaOp_only); on_goal 1 => decide) | ((with_reducible apply OnlyIn.andThen (m := [.out, .freeCnt, .regs, .host, .cmds, .seqs, .mgmt, .tap, .fab, .rma, .deck, .sec, .act])); (on_goal 2 => (with_reducible apply admitting_only))) | split | intro x)

theorem execRmaWrite_only (ring : ℕ) (rseq : BitVec 32) (s : State) {t' : State} (h : (execRmaWrite ring rseq s) = .next t') :
    OnlyIn [.out, .freeCnt, .regs, .host, .cmds, .seqs, .mgmt, .tap, .fab, .rma, .deck, .sec, .act] s t' := by
  unfold execRmaWrite at h
  unfold rmaRow at h
  try dsimp only at h
  repeat' (first | cases h | split at h)
  all_goals repeat' (first | exact List.Subset.refl _ | decide | (with_reducible exact OnlyIn.refl _ _) | (with_reducible refine OnlyIn.ite' ?_ ?_) | (with_reducible apply OnlyIn.via; (first | apply admitRmaOp_only); on_goal 1 => decide) | ((with_reducible apply OnlyIn.andThen (m := [.out, .freeCnt, .regs, .host, .cmds, .seqs, .mgmt, .tap, .fab, .rma, .deck, .sec, .act])); (on_goal 2 => (with_reducible apply admitting_only))) | split | intro x)

theorem execRmaAdd_only (ring : ℕ) (rseq : BitVec 32) (s : State) {t' : State} (h : (execRmaAdd ring rseq s) = .next t') :
    OnlyIn [.out, .freeCnt, .regs, .host, .cmds, .seqs, .mgmt, .tap, .fab, .rma, .deck, .sec, .act] s t' := by
  unfold execRmaAdd at h
  unfold rmaRow at h
  try dsimp only at h
  repeat' (first | cases h | split at h)
  all_goals repeat' (first | exact List.Subset.refl _ | decide | (with_reducible exact OnlyIn.refl _ _) | (with_reducible refine OnlyIn.ite' ?_ ?_) | (with_reducible apply OnlyIn.via; (first | apply admitRmaOp_only); on_goal 1 => decide) | ((with_reducible apply OnlyIn.andThen (m := [.out, .freeCnt, .regs, .host, .cmds, .seqs, .mgmt, .tap, .fab, .rma, .deck, .sec, .act])); (on_goal 2 => (with_reducible apply admitting_only))) | split | intro x)

theorem execConnOpen_only (ring : ℕ) (rseq : BitVec 32) (s : State) {t' : State} (h : (execConnOpen ring rseq s) = .next t') :
    OnlyIn [.out, .freeCnt, .regs, .host, .cmds, .seqs, .mgmt, .tap, .fab, .rma, .sec, .act] s t' := by
  unfold execConnOpen at h
  unfold rmaRow at h
  try dsimp only at h
  repeat' (first | cases h | split at h)
  all_goals repeat' (first | exact List.Subset.refl _ | decide | (with_reducible exact OnlyIn.refl _ _) | (with_reducible refine OnlyIn.ite' ?_ ?_) | (with_reducible apply OnlyIn.via; (first | apply connOpenInput_only); on_goal 1 => decide) | ((with_reducible apply OnlyIn.andThen (m := [.out, .freeCnt, .regs, .host, .cmds, .seqs, .mgmt, .tap, .fab, .rma, .sec, .act])); (on_goal 2 => (with_reducible apply admitBlock_only))) | ((with_reducible apply OnlyIn.andThen (m := [.out, .freeCnt, .regs, .host, .cmds, .seqs, .mgmt, .tap, .fab, .rma, .sec, .act])); (on_goal 2 => (with_reducible apply admitting_only))) | split | intro x)

theorem execConnClose_only (ring : ℕ) (rseq : BitVec 32) (s : State) {t' : State} (h : (execConnClose ring rseq s) = .next t') :
    OnlyIn [.out, .freeCnt, .regs, .host, .cmds, .seqs, .mgmt, .rma, .sec] s t' := by
  unfold execConnClose at h
  unfold rmaRow at h
  try dsimp only at h
  repeat' (first | cases h | split at h)
  all_goals repeat' (first | exact List.Subset.refl _ | decide | (with_reducible exact OnlyIn.refl _ _) | (with_reducible refine OnlyIn.ite' ?_ ?_) | (with_reducible apply OnlyIn.via; (first | apply admitConnClose_only); on_goal 1 => decide) | ((with_reducible apply OnlyIn.andThen (m := [.out, .freeCnt, .regs, .host, .cmds, .seqs, .mgmt, .rma, .sec])); (on_goal 2 => (with_reducible apply admitting_only))) | split | intro x)

theorem freeConn_only (k : ℕ) (s : State) :
    OnlyIn [.rma] s (freeConn k s) := by
  unfold freeConn
  try dsimp only
  repeat' (first | (with_reducible exact OnlyIn.refl _ _) | (with_reducible refine OnlyIn.ite' ?_ ?_) | split | (with_reducible refine OnlyIn.upd_rma ?_ (by decide)))

theorem execConnCloseDone_only (conn : ℕ) (s : State) {t' : State} (h : (execConnCloseDone conn s) = .next t') :
    OnlyIn [.out, .freeCnt, .regs, .host, .cmds, .mgmt, .rma, .sec] s t' := by
  unfold execConnCloseDone at h
  try dsimp only at h
  repeat' (first | cases h | split at h)
  all_goals repeat' (first | (with_reducible exact OnlyIn.refl _ _) | (with_reducible refine OnlyIn.ite' ?_ ?_) | (with_reducible apply OnlyIn.via; (first | apply freeConn_only | apply endAtAdmission_only | apply finish_only); on_goal 1 => decide) | split)

theorem execMrReg_only (ring : ℕ) (rseq : BitVec 32) (s : State) {t' : State} (h : (execMrReg ring rseq s) = .next t') :
    OnlyIn [.out, .freeCnt, .regs, .host, .cmds, .seqs, .mgmt, .tap, .fab, .rma, .sec, .act] s t' := by
  unfold execMrReg at h
  unfold rmaRow at h
  try dsimp only at h
  repeat' (first | cases h | split at h)
  all_goals repeat' (first | exact List.Subset.refl _ | decide | (with_reducible exact OnlyIn.refl _ _) | (with_reducible refine OnlyIn.ite' ?_ ?_) | (with_reducible apply OnlyIn.via; (first | apply mrRegInput_only); on_goal 1 => decide) | ((with_reducible apply OnlyIn.andThen (m := [.out, .freeCnt, .regs, .host, .cmds, .seqs, .mgmt, .tap, .fab, .rma, .sec, .act])); (on_goal 2 => (with_reducible apply admitBlock_only))) | ((with_reducible apply OnlyIn.andThen (m := [.out, .freeCnt, .regs, .host, .cmds, .seqs, .mgmt, .tap, .fab, .rma, .sec, .act])); (on_goal 2 => (with_reducible apply admitting_only))) | split | intro x)

theorem execMrDereg_only (ring : ℕ) (rseq : BitVec 32) (s : State) {t' : State} (h : (execMrDereg ring rseq s) = .next t') :
    OnlyIn [.out, .freeCnt, .regs, .host, .cmds, .mgmt, .sec] s t' := by
  unfold execMrDereg at h
  unfold rmaRow at h
  try dsimp only at h
  repeat' (first | cases h | split at h)
  all_goals repeat' (first | exact List.Subset.refl _ | decide | (with_reducible exact OnlyIn.refl _ _) | (with_reducible refine OnlyIn.ite' ?_ ?_) | (with_reducible apply OnlyIn.via; (first | apply admitMrDereg_only); on_goal 1 => decide) | ((with_reducible apply OnlyIn.andThen (m := [.out, .freeCnt, .regs, .host, .cmds, .mgmt, .sec])); (on_goal 2 => (with_reducible apply admitting_only))) | split | intro x)

theorem execMrDeregDone_only (ring : ℕ) (rseq : BitVec 32) (s : State) {t' : State} (h : (execMrDeregDone ring rseq s) = .next t') :
    OnlyIn [.out, .freeCnt, .regs, .host, .cmds, .mgmt, .rma, .sec] s t' := by
  unfold execMrDeregDone at h
  try dsimp only at h
  repeat' (first | cases h | split at h)
  all_goals repeat' (first | (with_reducible exact OnlyIn.refl _ _) | (with_reducible refine OnlyIn.ite' ?_ ?_) | (with_reducible apply OnlyIn.via; (first | apply endAtAdmission_only | apply finish_only); on_goal 1 => decide) | split | (with_reducible refine OnlyIn.upd_rma ?_ (by decide)))

theorem execPageResume_only (ring : ℕ) (rseq : BitVec 32) (s : State) {t' : State} (h : (execPageResume ring rseq s) = .next t') :
    OnlyIn [.out, .freeCnt, .regs, .host, .cmds, .mgmt, .tap, .mem, .fab, .rma, .sec, .cells, .act] s t' := by
  unfold execPageResume at h
  unfold rmaRow at h
  try dsimp only at h
  repeat' (first | cases h | split at h)
  all_goals repeat' (first | exact List.Subset.refl _ | decide | (with_reducible exact OnlyIn.refl _ _) | (with_reducible refine OnlyIn.ite' ?_ ?_) | (with_reducible apply OnlyIn.via; (first | apply admitPageResume_only); on_goal 1 => decide) | ((with_reducible apply OnlyIn.andThen (m := [.out, .freeCnt, .regs, .host, .cmds, .mgmt, .tap, .mem, .fab, .rma, .sec, .cells, .act])); (on_goal 2 => (with_reducible apply admitting_only))) | split | intro x)

theorem execSignalLocal_only (ring : ℕ) (rseq : BitVec 32) (s : State) {t' : State} (h : (execSignalLocal ring rseq s) = .next t') :
    OnlyIn [.out, .freeCnt, .regs, .host, .cmds, .mgmt, .rma, .deck, .sec] s t' := by
  unfold execSignalLocal at h
  try dsimp only at h
  repeat' (first | cases h | split at h)
  all_goals repeat' (first | exact List.Subset.refl _ | decide | (with_reducible exact OnlyIn.refl _ _) | (with_reducible refine OnlyIn.ite' ?_ ?_) | (with_reducible apply OnlyIn.via; (first | apply admitSignalLocal_only); on_goal 1 => decide) | ((with_reducible apply OnlyIn.andThen (m := [.out, .freeCnt, .regs, .host, .cmds, .mgmt, .rma, .deck, .sec])); (on_goal 2 => (with_reducible apply admitting_only))) | split | intro x)

theorem execSignalRemote_only (ring : ℕ) (rseq : BitVec 32) (s : State) {t' : State} (h : (execSignalRemote ring rseq s) = .next t') :
    OnlyIn [.out, .freeCnt, .regs, .host, .cmds, .seqs, .mgmt, .tap, .fab, .rma, .deck, .sec, .act] s t' := by
  unfold execSignalRemote at h
  try dsimp only at h
  repeat' (first | cases h | split at h)
  all_goals repeat' (first | exact List.Subset.refl _ | decide | (with_reducible exact OnlyIn.refl _ _) | (with_reducible refine OnlyIn.ite' ?_ ?_) | (with_reducible apply OnlyIn.via; (first | apply admitSignalRemote_only); on_goal 1 => decide) | ((with_reducible apply OnlyIn.andThen (m := [.out, .freeCnt, .regs, .host, .cmds, .seqs, .mgmt, .tap, .fab, .rma, .deck, .sec, .act])); (on_goal 2 => (with_reducible apply admitting_only))) | split | intro x)

theorem execWait_only (ring : ℕ) (rseq : BitVec 32) (s : State) {t' : State} (h : (execWait ring rseq s) = .next t') :
    OnlyIn [.out, .freeCnt, .regs, .host, .cmds, .mgmt, .rma, .sec] s t' := by
  unfold execWait at h
  try dsimp only at h
  repeat' (first | cases h | split at h)
  all_goals repeat' (first | exact List.Subset.refl _ | decide | (with_reducible exact OnlyIn.refl _ _) | (with_reducible refine OnlyIn.ite' ?_ ?_) | (with_reducible apply OnlyIn.via; (first | apply admitWait_only); on_goal 1 => decide) | ((with_reducible apply OnlyIn.andThen (m := [.out, .freeCnt, .regs, .host, .cmds, .mgmt, .rma, .sec])); (on_goal 2 => (with_reducible apply admitting_only))) | split | intro x)

theorem execWaitTimeout_only (ring : ℕ) (rseq : BitVec 32) (s : State) {t' : State} (h : (execWaitTimeout ring rseq s) = .next t') :
    OnlyIn [.out, .freeCnt, .clk, .regs, .host, .cmds, .mgmt, .rma, .sec] s t' := by
  unfold execWaitTimeout at h
  try dsimp only at h
  repeat' (first | cases h | split at h)
  all_goals repeat' (first | (with_reducible exact OnlyIn.refl _ _) | (with_reducible refine OnlyIn.ite' ?_ ?_) | (with_reducible apply OnlyIn.via; (first | apply advanceTo_only | apply endAtAdmission_only | apply finish_only | apply rmaCnt_only); on_goal 1 => decide) | split | (with_reducible refine OnlyIn.upd_rma ?_ (by decide)))

end Sys2Proof.Machine
end

