-- ==== Sys2Proof/Laws/FrameRecall.lean ====
section
/-! SUPPORT. The areas of the state that each function may change: the indexes and page selection. -/

namespace Sys2Proof.Machine

open Sys2Proof

theorem showIndex_only (n : ℕ) (s : State) :
    OnlyIn [.regs] s (showIndex n s) := by
  unfold showIndex
  try dsimp only
  repeat' (first | (with_reducible exact OnlyIn.refl _ _) | (with_reducible refine OnlyIn.ite' ?_ ?_) | (with_reducible apply OnlyIn.via; (first | apply setVal_only | apply setVal64_only); on_goal 1 => decide))

theorem setIndex_only (n : ℕ) (x : Index) (s : State) :
    OnlyIn [.regs, .walk] s (setIndex n x s) := by
  unfold setIndex
  try dsimp only
  repeat' (first | (with_reducible exact OnlyIn.refl _ _) | (with_reducible refine OnlyIn.ite' ?_ ?_) | (with_reducible apply OnlyIn.via; (first | apply showIndex_only); on_goal 1 => decide) | split | (with_reducible refine OnlyIn.upd_walk ?_ (by decide)))

theorem replayMoved_only (s : State) :
    OnlyIn [.out, .freeCnt, .regs, .host, .cmds, .mgmt, .sec] s (replayMoved s) := by
  unfold replayMoved
  try dsimp only
  repeat' (first | exact List.Subset.refl _ | decide | (with_reducible exact OnlyIn.refl _ _) | (with_reducible refine OnlyIn.ite' ?_ ?_) | (with_reducible apply OnlyIn.via; (first | apply strikeCmd_only); on_goal 1 => decide) | ((with_reducible apply OnlyIn.andThen (m := [.out, .freeCnt, .regs, .host, .cmds, .mgmt, .sec])); (on_goal 2 => (with_reducible apply forEach_only))) | ((with_reducible apply OnlyIn.andThen (m := [.out, .freeCnt, .regs, .host, .cmds, .mgmt, .sec])); (on_goal 2 => (with_reducible apply OnlyIn.forEach; intro _ _)); (on_goal 3 => exact List.Subset.refl _)))

theorem swapWalk_only (old : ℕ → Word) (s : State) :
    OnlyIn [.out, .freeCnt, .regs, .host, .cmds, .parts, .mgmt, .walk, .sec] s (swapWalk old s) := by
  unfold swapWalk
  try dsimp only
  repeat' (first | exact List.Subset.refl _ | decide | (with_reducible exact OnlyIn.refl _ _) | (with_reducible refine OnlyIn.ite' ?_ ?_) | (with_reducible apply OnlyIn.via; (first | apply setIndex_only | apply replayMoved_only | apply showRemap_only | apply noteSwitches_only); on_goal 1 => decide) | ((with_reducible apply OnlyIn.andThen (m := [.out, .freeCnt, .regs, .host, .cmds, .parts, .mgmt, .walk, .sec])); (on_goal 2 => (with_reducible apply forEach_only))) | ((with_reducible apply OnlyIn.andThen (m := [.out, .freeCnt, .regs, .host, .cmds, .parts, .mgmt, .walk, .sec])); (on_goal 2 => (with_reducible apply OnlyIn.forEach; intro _ _)); (on_goal 3 => exact List.Subset.refl _)) | split | (with_reducible refine OnlyIn.upd_walk ?_ (by decide)))

theorem useFilter_only (n : ℕ) (copy : ℕ) (b : ℕ) (s : State) :
    OnlyIn [.freeCnt, .regs, .walk] s (useFilter n copy b s) := by
  unfold useFilter
  try dsimp only
  repeat' (first | (with_reducible exact OnlyIn.refl _ _) | (with_reducible refine OnlyIn.ite' ?_ ?_) | (with_reducible apply OnlyIn.via; (first | apply cntAdd_only | apply stepFree_only); on_goal 1 => decide) | split | (with_reducible refine OnlyIn.upd_walk ?_ (by decide)))

theorem endSearch_only (c : Cmd) (r : SearchRun) (s : State) :
    OnlyIn [.out, .freeCnt, .regs, .host, .cmds, .seqs, .mgmt, .tap, .mem, .fab, .rma, .deck, .sec, .cells, .act] s (endSearch c r s) := by
  unfold endSearch
  try dsimp only
  repeat' (first | (with_reducible exact OnlyIn.refl _ _) | (with_reducible refine OnlyIn.ite' ?_ ?_) | (with_reducible apply OnlyIn.via; (first | apply endAtAdmission_only | apply finish_only | apply deliver_only); on_goal 1 => decide))

theorem startSearch_only (c : Cmd) (r : SearchRun) (qs : List (List Byte)) (s : State) :
    OnlyIn [.out, .freeCnt, .regs, .host, .cmds, .seqs, .mgmt, .tap, .mem, .walk, .fab, .rma, .deck, .sec, .cells, .act] s (startSearch c r qs s) := by
  unfold startSearch
  try dsimp only
  repeat' (first | exact List.Subset.refl _ | decide | (with_reducible exact OnlyIn.refl _ _) | (with_reducible refine OnlyIn.ite' ?_ ?_) | (with_reducible apply OnlyIn.via; (first | apply useFilter_only | apply sendSubs_only | apply endSearch_only); on_goal 1 => decide) | ((with_reducible apply OnlyIn.andThen (m := [.out, .freeCnt, .regs, .host, .cmds, .seqs, .mgmt, .tap, .mem, .walk, .fab, .rma, .deck, .sec, .cells, .act])); (on_goal 2 => (with_reducible apply forEach_only))) | ((with_reducible apply OnlyIn.andThen (m := [.out, .freeCnt, .regs, .host, .cmds, .seqs, .mgmt, .tap, .mem, .walk, .fab, .rma, .deck, .sec, .cells, .act])); (on_goal 2 => (with_reducible apply OnlyIn.forEach; intro _ _)); (on_goal 3 => exact List.Subset.refl _)) | split)

theorem searchInput_only (c : Cmd) (g : Got) (s : State) :
    OnlyIn [.out, .freeCnt, .regs, .host, .cmds, .seqs, .mgmt, .tap, .mem, .walk, .fab, .rma, .deck, .sec, .cells, .act] s (searchInput c g s) := by
  unfold searchInput
  try dsimp only
  repeat' (first | (with_reducible exact OnlyIn.refl _ _) | (with_reducible refine OnlyIn.ite' ?_ ?_) | (with_reducible apply OnlyIn.via; (first | apply startSearch_only | apply endAtAdmission_only | apply finish_only); on_goal 1 => decide) | split)

theorem admitSearch_only (c : Cmd) (s : State) :
    OnlyIn [.out, .freeCnt, .regs, .host, .cmds, .seqs, .mgmt, .tap, .mem, .walk, .fab, .rma, .deck, .sec, .cells, .act] s (admitSearch c s) := by
  unfold admitSearch
  try dsimp only
  repeat' (first | (with_reducible exact OnlyIn.refl _ _) | (with_reducible refine OnlyIn.ite' ?_ ?_) | (with_reducible apply OnlyIn.via; (first | apply faultAtAdmission_only | apply faultStep_only | apply setCmd_only | apply admitCmd_only | apply startRead_only | apply searchInput_only | apply endAtAdmission_only | apply finish_only); on_goal 1 => decide) | (with_reducible apply OnlyIn.via; (on_goal 1 => (with_reducible refine .ofPair (by assumption) (startRead_only ..))); on_goal 1 => decide) | split)

theorem countHops_only (c : Cmd) (n : HopCounts) (metered : ℕ) (s : State) :
    OnlyIn [.regs, .tap, .deck] s (countHops c n metered s) := by
  unfold countHops
  try dsimp only
  repeat' (first | (with_reducible exact OnlyIn.refl _ _) | (with_reducible refine OnlyIn.ite' ?_ ?_) | (with_reducible apply OnlyIn.via; (first | apply meterData_only | apply cntAdd_only); on_goal 1 => decide))

theorem insertInput_only (c : Cmd) (g : Got) (s : State) :
    OnlyIn [.out, .freeCnt, .regs, .host, .cmds, .mgmt, .tap, .walk, .deck, .sec] s (insertInput c g s) := by
  unfold insertInput
  try dsimp only
  repeat' (first | (with_reducible exact OnlyIn.refl _ _) | (with_reducible refine OnlyIn.ite' ?_ ?_) | (with_reducible apply OnlyIn.via; (first | apply endAtAdmission_only | apply finish_only | apply countHops_only | apply setIndex_only); on_goal 1 => decide) | split)

theorem admitInsert_only (c : Cmd) (s : State) :
    OnlyIn [.out, .freeCnt, .regs, .host, .cmds, .seqs, .mgmt, .tap, .walk, .fab, .rma, .deck, .sec, .act] s (admitInsert c s) := by
  unfold admitInsert
  try dsimp only
  repeat' (first | (with_reducible exact OnlyIn.refl _ _) | (with_reducible refine OnlyIn.ite' ?_ ?_) | (with_reducible apply OnlyIn.via; (first | apply faultAtAdmission_only | apply faultStep_only | apply admitCmd_only | apply endAtAdmission_only | apply finish_only | apply startRead_only | apply insertInput_only); on_goal 1 => decide) | (with_reducible apply OnlyIn.via; (on_goal 1 => (with_reducible refine .ofPair (by assumption) (startRead_only ..))); on_goal 1 => decide) | split)

theorem admitDelete_only (c : Cmd) (s : State) :
    OnlyIn [.out, .freeCnt, .regs, .host, .cmds, .mgmt, .walk, .sec] s (admitDelete c s) := by
  unfold admitDelete
  try dsimp only
  repeat' (first | (with_reducible exact OnlyIn.refl _ _) | (with_reducible refine OnlyIn.ite' ?_ ?_) | (with_reducible apply OnlyIn.via; (first | apply endAtAdmission_only | apply finish_only | apply admitCmd_only | apply setIndex_only); on_goal 1 => decide))

theorem execWalkCommit_only (w : Writer) (gen : BitVec 16) (s : State) {t' : State} (h : (execWalkCommit w gen s) = .next t') :
    OnlyIn [.regs] s t' := by
  unfold execWalkCommit at h
  try dsimp only at h
  repeat' (first | cases h | split at h)
  all_goals repeat' (first | (with_reducible exact OnlyIn.refl _ _) | (with_reducible refine OnlyIn.ite' ?_ ?_) | (with_reducible apply OnlyIn.via; (first | apply commitBlockBy_only); on_goal 1 => decide))

theorem admitPublish_only (c : Cmd) (s : State) :
    OnlyIn [.out, .freeCnt, .regs, .host, .cmds, .seqs, .mgmt, .tap, .walk, .fab, .rma, .sec, .act] s (admitPublish c s) := by
  unfold admitPublish
  try dsimp only
  repeat' (first | (with_reducible exact OnlyIn.refl _ _) | (with_reducible refine OnlyIn.ite' ?_ ?_) | (with_reducible apply OnlyIn.via; (first | apply endAtAdmission_only | apply finish_only | apply admitCmd_only | apply setIndex_only | apply startRead_only | apply setCmd_only); on_goal 1 => decide) | (with_reducible apply OnlyIn.via; (on_goal 1 => (with_reducible refine .ofPair (by assumption) (startRead_only ..))); on_goal 1 => decide) | split)

theorem endApplying_only (n : ℕ) (s : State) :
    OnlyIn [.regs, .walk] s (endApplying n s) := by
  unfold endApplying
  try dsimp only
  repeat' (first | (with_reducible exact OnlyIn.refl _ _) | (with_reducible refine OnlyIn.ite' ?_ ?_) | (with_reducible apply OnlyIn.via; (first | apply setIndex_only); on_goal 1 => decide))

theorem publishInput_only (c : Cmd) (g : Got) (s : State) :
    OnlyIn [.out, .freeCnt, .regs, .host, .cmds, .mgmt, .walk, .sec] s (publishInput c g s) := by
  unfold publishInput
  try dsimp only
  repeat' (first | (with_reducible exact OnlyIn.refl _ _) | (with_reducible refine OnlyIn.ite' ?_ ?_) | (with_reducible apply OnlyIn.via; (first | apply setCmd_only | apply endAtAdmission_only | apply finish_only | apply endApplying_only); on_goal 1 => decide) | split)

theorem execSearch_only (ring : ℕ) (rseq : BitVec 32) (s : State) {t' : State} (h : (execSearch ring rseq s) = .next t') :
    OnlyIn [.out, .freeCnt, .regs, .host, .cmds, .seqs, .mgmt, .tap, .mem, .walk, .fab, .rma, .deck, .sec, .cells, .act] s t' := by
  unfold execSearch at h
  try dsimp only at h
  repeat' (first | cases h | split at h)
  all_goals repeat' (first | exact List.Subset.refl _ | decide | (with_reducible exact OnlyIn.refl _ _) | (with_reducible refine OnlyIn.ite' ?_ ?_) | (with_reducible apply OnlyIn.via; (first | apply admitSearch_only); on_goal 1 => decide) | ((with_reducible apply OnlyIn.andThen (m := [.out, .freeCnt, .regs, .host, .cmds, .seqs, .mgmt, .tap, .mem, .walk, .fab, .rma, .deck, .sec, .cells, .act])); (on_goal 2 => (with_reducible apply admitting_only))) | split | intro x)

theorem execWalkerBatchReadDone_only (ring : ℕ) (rseq : BitVec 32) (q : ℕ) (s : State) {t' : State} (h : (execWalkerBatchReadDone ring rseq q s) = .next t') :
    OnlyIn [.out, .freeCnt, .regs, .host, .cmds, .seqs, .mgmt, .tap, .mem, .fab, .rma, .deck, .sec, .cells, .act] s t' := by
  unfold execWalkerBatchReadDone at h
  try dsimp only at h
  repeat' (first | cases h | split at h)
  all_goals repeat' (first | (with_reducible exact OnlyIn.refl _ _) | (with_reducible refine OnlyIn.ite' ?_ ?_) | (with_reducible apply OnlyIn.via; (first | apply countHops_only | apply setCmd_only | apply endSearch_only); on_goal 1 => decide) | split)

theorem execSearchMerge_only (ring : ℕ) (rseq : BitVec 32) (s : State) {t' : State} (h : (execSearchMerge ring rseq s) = .next t') :
    OnlyIn [.out, .freeCnt, .clk, .regs, .host, .cmds, .seqs, .mgmt, .tap, .mem, .fab, .rma, .deck, .sec, .cells, .act] s t' := by
  unfold execSearchMerge at h
  try dsimp only at h
  repeat' (first | cases h | split at h)
  all_goals repeat' (first | (with_reducible exact OnlyIn.refl _ _) | (with_reducible refine OnlyIn.ite' ?_ ?_) | (with_reducible apply OnlyIn.via; (first | apply endSearch_only | apply advanceTo_only); on_goal 1 => decide) | split)

theorem execInsert_only (ring : ℕ) (rseq : BitVec 32) (s : State) {t' : State} (h : (execInsert ring rseq s) = .next t') :
    OnlyIn [.out, .freeCnt, .regs, .host, .cmds, .seqs, .mgmt, .tap, .walk, .fab, .rma, .deck, .sec, .act] s t' := by
  unfold execInsert at h
  try dsimp only at h
  repeat' (first | cases h | split at h)
  all_goals repeat' (first | exact List.Subset.refl _ | decide | (with_reducible exact OnlyIn.refl _ _) | (with_reducible refine OnlyIn.ite' ?_ ?_) | (with_reducible apply OnlyIn.via; (first | apply admitInsert_only); on_goal 1 => decide) | ((with_reducible apply OnlyIn.andThen (m := [.out, .freeCnt, .regs, .host, .cmds, .seqs, .mgmt, .tap, .walk, .fab, .rma, .deck, .sec, .act])); (on_goal 2 => (with_reducible apply admitting_only))) | split | intro x)

theorem execDelete_only (ring : ℕ) (rseq : BitVec 32) (s : State) {t' : State} (h : (execDelete ring rseq s) = .next t') :
    OnlyIn [.out, .freeCnt, .regs, .host, .cmds, .mgmt, .walk, .sec] s t' := by
  unfold execDelete at h
  try dsimp only at h
  repeat' (first | cases h | split at h)
  all_goals repeat' (first | exact List.Subset.refl _ | decide | (with_reducible exact OnlyIn.refl _ _) | (with_reducible refine OnlyIn.ite' ?_ ?_) | (with_reducible apply OnlyIn.via; (first | apply admitDelete_only); on_goal 1 => decide) | ((with_reducible apply OnlyIn.andThen (m := [.out, .freeCnt, .regs, .host, .cmds, .mgmt, .walk, .sec])); (on_goal 2 => (with_reducible apply admitting_only))) | split | intro x)

theorem execPublishEpoch_only (ring : ℕ) (rseq : BitVec 32) (s : State) {t' : State} (h : (execPublishEpoch ring rseq s) = .next t') :
    OnlyIn [.out, .freeCnt, .regs, .host, .cmds, .seqs, .mgmt, .tap, .walk, .fab, .rma, .sec, .act] s t' := by
  unfold execPublishEpoch at h
  try dsimp only at h
  repeat' (first | cases h | split at h)
  all_goals repeat' (first | exact List.Subset.refl _ | decide | (with_reducible exact OnlyIn.refl _ _) | (with_reducible refine OnlyIn.ite' ?_ ?_) | (with_reducible apply OnlyIn.via; (first | apply admitPublish_only); on_goal 1 => decide) | ((with_reducible apply OnlyIn.andThen (m := [.out, .freeCnt, .regs, .host, .cmds, .seqs, .mgmt, .tap, .walk, .fab, .rma, .sec, .act])); (on_goal 2 => (with_reducible apply admitting_only))) | split | intro x)

theorem execPublishCommit_only (ring : ℕ) (rseq : BitVec 32) (s : State) {t' : State} (h : (execPublishCommit ring rseq s) = .next t') :
    OnlyIn [.out, .freeCnt, .regs, .host, .cmds, .mgmt, .walk, .sec] s t' := by
  unfold execPublishCommit at h
  try dsimp only at h
  repeat' (first | cases h | split at h)
  all_goals repeat' (first | (with_reducible exact OnlyIn.refl _ _) | (with_reducible refine OnlyIn.ite' ?_ ?_) | (with_reducible apply OnlyIn.via; (first | apply endAtAdmission_only | apply finish_only | apply endApplying_only | apply setIndex_only); on_goal 1 => decide) | split)

theorem execPublishFloorTimeout_only (ring : ℕ) (rseq : BitVec 32) (s : State) {t' : State} (h : (execPublishFloorTimeout ring rseq s) = .next t') :
    OnlyIn [.out, .freeCnt, .clk, .regs, .host, .cmds, .mgmt, .walk, .sec] s t' := by
  unfold execPublishFloorTimeout at h
  try dsimp only at h
  repeat' (first | cases h | split at h)
  all_goals repeat' (first | (with_reducible exact OnlyIn.refl _ _) | (with_reducible refine OnlyIn.ite' ?_ ?_) | (with_reducible apply OnlyIn.via; (first | apply endAtAdmission_only | apply finish_only | apply endApplying_only | apply advanceTo_only); on_goal 1 => decide) | split)

theorem execSlagSweep_only (idx : ℕ) (s : State) {t' : State} (h : (execSlagSweep idx s) = .next t') :
    OnlyIn [.regs, .walk] s t' := by
  unfold execSlagSweep at h
  try dsimp only at h
  repeat' (first | cases h | split at h)
  all_goals repeat' (first | (with_reducible exact OnlyIn.refl _ _) | (with_reducible refine OnlyIn.ite' ?_ ?_) | (with_reducible apply OnlyIn.via; (first | apply cntAdd_only | apply setIndex_only); on_goal 1 => decide))

theorem dropSelections_only (c : Cmd) (s : State) :
    OnlyIn [.seqs] s (dropSelections c s) := by
  unfold dropSelections
  try dsimp only
  repeat' (first | (with_reducible exact OnlyIn.refl _ _) | (with_reducible refine OnlyIn.ite' ?_ ?_) | (with_reducible apply OnlyIn.via; (first | apply modSeq_only); on_goal 1 => decide))

theorem selectInput_only (c : Cmd) (g : Got) (s : State) :
    OnlyIn [.out, .freeCnt, .regs, .host, .cmds, .seqs, .mgmt, .tap, .deck, .sec] s (selectInput c g s) := by
  unfold selectInput
  try dsimp only
  repeat' (first | (with_reducible exact OnlyIn.refl _ _) | (with_reducible refine OnlyIn.ite' ?_ ?_) | (with_reducible apply OnlyIn.via; (first | apply endAtAdmission_only | apply finish_only | apply dropSelections_only | apply faultAtAdmission_only | apply faultStep_only | apply cntAdd_only | apply setSeq_only | apply meter_only | apply setCmd_only); on_goal 1 => decide) | split)

theorem admitSelect_only (c : Cmd) (s : State) :
    OnlyIn [.out, .freeCnt, .regs, .host, .cmds, .seqs, .mgmt, .tap, .fab, .rma, .deck, .sec, .act] s (admitSelect c s) := by
  unfold admitSelect
  try dsimp only
  repeat' (first | (with_reducible exact OnlyIn.refl _ _) | (with_reducible refine OnlyIn.ite' ?_ ?_) | (with_reducible apply OnlyIn.via; (first | apply endAtAdmission_only | apply finish_only | apply addReader_only | apply admitCmd_only | apply startRead_only | apply modSeq_only | apply selectInput_only); on_goal 1 => decide) | (with_reducible apply OnlyIn.via; (on_goal 1 => (with_reducible refine .ofPair (by assumption) (startRead_only ..))); on_goal 1 => decide) | split)

theorem execAutoSelection_only (seq : ℕ) (stream : ℕ) (s : State) {t' : State} (h : (execAutoSelection seq stream s) = .next t') :
    OnlyIn [.regs, .seqs, .tap] s t' := by
  unfold execAutoSelection at h
  try dsimp only at h
  repeat' (first | cases h | split at h)
  all_goals repeat' (first | (with_reducible exact OnlyIn.refl _ _) | (with_reducible refine OnlyIn.ite' ?_ ?_) | (with_reducible apply OnlyIn.via; (first | apply setSeq_only | apply tapAdd_only | apply cntAdd_only); on_goal 1 => decide) | split)

theorem execSelectPages_only (ring : ℕ) (rseq : BitVec 32) (s : State) {t' : State} (h : (execSelectPages ring rseq s) = .next t') :
    OnlyIn [.out, .freeCnt, .regs, .host, .cmds, .seqs, .mgmt, .tap, .fab, .rma, .deck, .sec, .act] s t' := by
  unfold execSelectPages at h
  try dsimp only at h
  repeat' (first | cases h | split at h)
  all_goals repeat' (first | exact List.Subset.refl _ | decide | (with_reducible exact OnlyIn.refl _ _) | (with_reducible refine OnlyIn.ite' ?_ ?_) | (with_reducible apply OnlyIn.via; (first | apply admitSelect_only); on_goal 1 => decide) | ((with_reducible apply OnlyIn.andThen (m := [.out, .freeCnt, .regs, .host, .cmds, .seqs, .mgmt, .tap, .fab, .rma, .deck, .sec, .act])); (on_goal 2 => (with_reducible apply admitting_only))) | split | intro x)

theorem selectStreamDone_only (e : SelPending) (st : ℕ) (s : State) :
    OnlyIn [.out, .freeCnt, .regs, .host, .cmds, .mgmt, .sec] s (selectStreamDone e st s) := by
  unfold selectStreamDone
  try dsimp only
  repeat' (first | (with_reducible exact OnlyIn.refl _ _) | (with_reducible refine OnlyIn.ite' ?_ ?_) | (with_reducible apply OnlyIn.via; (first | apply endAtAdmission_only | apply finish_only | apply setCmd_only); on_goal 1 => decide) | split)

theorem execSelectFlip_only (seq : ℕ) (stream : ℕ) (s : State) {t' : State} (h : (execSelectFlip seq stream s) = .next t') :
    OnlyIn [.out, .freeCnt, .regs, .host, .cmds, .seqs, .mgmt, .sec] s t' := by
  unfold execSelectFlip at h
  try dsimp only at h
  repeat' (first | cases h | split at h)
  all_goals repeat' (first | (with_reducible exact OnlyIn.refl _ _) | (with_reducible refine OnlyIn.ite' ?_ ?_) | (with_reducible apply OnlyIn.via; (first | apply selectStreamDone_only | apply setSeq_only); on_goal 1 => decide) | split)

end Sys2Proof.Machine
end

