-- ==== Sys2Proof/Laws/FrameDeck.lean ====
section
/-! SUPPORT. The areas of the state that each function may change: decks, the serving of calls and the range map. -/

namespace Sys2Proof.Machine

open Sys2Proof

theorem sendOnPort_only (port : ℕ) (c : Cargo) (s : State) :
    OnlyIn [.fab] s (sendOnPort port c s) := by
  unfold sendOnPort
  try dsimp only
  repeat' (first | (with_reducible exact OnlyIn.refl _ _) | (with_reducible refine OnlyIn.ite' ?_ ?_) | (with_reducible apply OnlyIn.via; (first | apply modPort_only); on_goal 1 => decide))

theorem floodNotice_only (n : Notice) (ports : List ℕ) (s : State) :
    OnlyIn [.fab] s (floodNotice n ports s) := by
  unfold floodNotice
  try dsimp only
  repeat' (first | exact List.Subset.refl _ | decide | (with_reducible exact OnlyIn.refl _ _) | (with_reducible refine OnlyIn.ite' ?_ ?_) | (with_reducible apply OnlyIn.via; (first | apply sendOnPort_only); on_goal 1 => decide) | ((with_reducible apply OnlyIn.andThen (m := [.fab])); (on_goal 2 => (with_reducible apply forEach_only))) | ((with_reducible apply OnlyIn.andThen (m := [.fab])); (on_goal 2 => (with_reducible apply OnlyIn.forEach; intro _ _)); (on_goal 3 => exact List.Subset.refl _)))

theorem setDeck_only (d : Deck) (s : State) :
    OnlyIn [.deck] s (setDeck d s) := by
  unfold setDeck
  try dsimp only
  repeat' (first | (with_reducible exact OnlyIn.refl _ _) | (with_reducible refine OnlyIn.ite' ?_ ?_) | split | (with_reducible refine OnlyIn.upd_deck ?_ (by decide)))

theorem raiseFor_only (cause : ℕ) (step : ℕ) (round : ℕ) (pos : ℕ) (s : State) :
    OnlyIn [.fab, .deck] s (raiseFor cause step round pos s) := by
  unfold raiseFor
  try dsimp only
  repeat' (first | (with_reducible exact OnlyIn.refl _ _) | (with_reducible refine OnlyIn.ite' ?_ ?_) | (with_reducible apply OnlyIn.via; (first | apply floodNotice_only | apply setDeck_only); on_goal 1 => decide))

theorem raiseNotice_only (cause : ℕ) (step : ℕ) (s : State) :
    OnlyIn [.fab, .deck] s (raiseNotice cause step s) := by
  unfold raiseNotice
  try dsimp only
  repeat' (first | (with_reducible exact OnlyIn.refl _ _) | (with_reducible refine OnlyIn.ite' ?_ ?_) | (with_reducible apply OnlyIn.via; (first | apply raiseFor_only); on_goal 1 => decide) | split)

theorem deckCause_only (cause : ℕ) (s : State) :
    OnlyIn [.fab, .deck] s (deckCause cause s) := by
  unfold deckCause
  try dsimp only
  repeat' (first | (with_reducible exact OnlyIn.refl _ _) | (with_reducible refine OnlyIn.ite' ?_ ?_) | (with_reducible apply OnlyIn.via; (first | apply raiseNotice_only); on_goal 1 => decide))

theorem deckCnt_only (i : ℕ) (n : ℕ) (s : State) :
    OnlyIn [.regs] s (deckCnt i n s) := by
  unfold deckCnt
  try dsimp only
  repeat' (first | (with_reducible exact OnlyIn.refl _ _) | (with_reducible refine OnlyIn.ite' ?_ ?_) | (with_reducible apply OnlyIn.via; (first | apply cntAdd_only); on_goal 1 => decide))

theorem showDeck_only (s : State) :
    OnlyIn [.regs] s (showDeck s) := by
  unfold showDeck
  try dsimp only
  repeat' (first | (with_reducible exact OnlyIn.refl _ _) | (with_reducible refine OnlyIn.ite' ?_ ?_) | (with_reducible apply OnlyIn.via; (first | apply setVal64_only | apply setVal_only); on_goal 1 => decide))

theorem modDeck_only (f : Deck → Deck) (s : State) :
    OnlyIn [.regs, .deck] s (modDeck f s) := by
  unfold modDeck
  try dsimp only
  repeat' (first | (with_reducible exact OnlyIn.refl _ _) | (with_reducible refine OnlyIn.ite' ?_ ?_) | (with_reducible apply OnlyIn.via; (first | apply showDeck_only | apply setDeck_only); on_goal 1 => decide))

theorem deckInput_only (c : Cmd) (g : Got) (s : State) :
    OnlyIn [.out, .freeCnt, .regs, .host, .cmds, .mgmt, .deck, .sec] s (deckInput c g s) := by
  unfold deckInput
  try dsimp only
  repeat' (first | (with_reducible exact OnlyIn.refl _ _) | (with_reducible refine OnlyIn.ite' ?_ ?_) | (with_reducible apply OnlyIn.via; (first | apply endAtAdmission_only | apply finish_only | apply modDeck_only); on_goal 1 => decide) | split)

theorem admitDeckLoad_only (c : Cmd) (s : State) :
    OnlyIn [.out, .freeCnt, .regs, .host, .cmds, .seqs, .mgmt, .tap, .fab, .rma, .deck, .sec, .act] s (admitDeckLoad c s) := by
  unfold admitDeckLoad
  try dsimp only
  repeat' (first | (with_reducible exact OnlyIn.refl _ _) | (with_reducible refine OnlyIn.ite' ?_ ?_) | (with_reducible apply OnlyIn.via; (first | apply endAtAdmission_only | apply finish_only | apply admitCmd_only | apply startRead_only | apply deckInput_only); on_goal 1 => decide) | (with_reducible apply OnlyIn.via; (on_goal 1 => (with_reducible refine .ofPair (by assumption) (startRead_only ..))); on_goal 1 => decide) | split)

theorem execDeckLoad_only (ring : ℕ) (rseq : BitVec 32) (s : State) {t' : State} (h : (execDeckLoad ring rseq s) = .next t') :
    OnlyIn [.out, .freeCnt, .regs, .host, .cmds, .seqs, .mgmt, .tap, .fab, .rma, .deck, .sec, .act] s t' := by
  unfold execDeckLoad at h
  try dsimp only at h
  repeat' (first | cases h | split at h)
  all_goals repeat' (first | exact List.Subset.refl _ | decide | (with_reducible exact OnlyIn.refl _ _) | (with_reducible refine OnlyIn.ite' ?_ ?_) | (with_reducible apply OnlyIn.via; (first | apply admitDeckLoad_only); on_goal 1 => decide) | ((with_reducible apply OnlyIn.andThen (m := [.out, .freeCnt, .regs, .host, .cmds, .seqs, .mgmt, .tap, .fab, .rma, .deck, .sec, .act])); (on_goal 2 => (with_reducible apply admitting_only))) | split | intro x)

theorem admitSwap_only (c : Cmd) (s : State) :
    OnlyIn [.out, .freeCnt, .regs, .host, .cmds, .mgmt, .deck, .sec] s (admitSwap c s) := by
  unfold admitSwap
  try dsimp only
  repeat' (first | (with_reducible exact OnlyIn.refl _ _) | (with_reducible refine OnlyIn.ite' ?_ ?_) | (with_reducible apply OnlyIn.via; (first | apply faultAtAdmission_only | apply faultStep_only | apply modDeck_only | apply admitCmd_only | apply endAtAdmission_only | apply finish_only); on_goal 1 => decide) | split)

theorem execDeckSwap_only (ring : ℕ) (rseq : BitVec 32) (s : State) {t' : State} (h : (execDeckSwap ring rseq s) = .next t') :
    OnlyIn [.out, .freeCnt, .regs, .host, .cmds, .mgmt, .deck, .sec] s t' := by
  unfold execDeckSwap at h
  try dsimp only at h
  repeat' (first | cases h | split at h)
  all_goals repeat' (first | exact List.Subset.refl _ | decide | (with_reducible exact OnlyIn.refl _ _) | (with_reducible refine OnlyIn.ite' ?_ ?_) | (with_reducible apply OnlyIn.via; (first | apply admitSwap_only); on_goal 1 => decide) | ((with_reducible apply OnlyIn.andThen (m := [.out, .freeCnt, .regs, .host, .cmds, .mgmt, .deck, .sec])); (on_goal 2 => (with_reducible apply admitting_only))) | split | intro x)

theorem execDeckSwapStop_only (ring : ℕ) (rseq : BitVec 32) (s : State) {t' : State} (h : (execDeckSwapStop ring rseq s) = .next t') :
    OnlyIn [.out, .freeCnt, .regs, .host, .cmds, .mgmt, .deck, .sec] s t' := by
  unfold execDeckSwapStop at h
  try dsimp only at h
  repeat' (first | cases h | split at h)
  all_goals repeat' (first | exact List.Subset.refl _ | decide | (with_reducible exact OnlyIn.refl _ _) | (with_reducible refine OnlyIn.ite' ?_ ?_) | (with_reducible apply OnlyIn.via; (first | apply admitSwap_only); on_goal 1 => decide) | ((with_reducible apply OnlyIn.andThen (m := [.out, .freeCnt, .regs, .host, .cmds, .mgmt, .deck, .sec])); (on_goal 2 => (with_reducible apply admitting_only))) | split | intro x)

theorem execDeckSwapRestart_only (ring : ℕ) (rseq : BitVec 32) (s : State) {t' : State} (h : (execDeckSwapRestart ring rseq s) = .next t') :
    OnlyIn [.out, .freeCnt, .regs, .host, .cmds, .mgmt, .deck, .sec] s t' := by
  unfold execDeckSwapRestart at h
  try dsimp only at h
  repeat' (first | cases h | split at h)
  all_goals repeat' (first | exact List.Subset.refl _ | decide | (with_reducible exact OnlyIn.refl _ _) | (with_reducible refine OnlyIn.ite' ?_ ?_) | (with_reducible apply OnlyIn.via; (first | apply admitSwap_only); on_goal 1 => decide) | ((with_reducible apply OnlyIn.andThen (m := [.out, .freeCnt, .regs, .host, .cmds, .mgmt, .deck, .sec])); (on_goal 2 => (with_reducible apply admitting_only))) | split | intro x)

theorem execRxNotice_only (port : ℕ) (n : Notice) (s : State) {t' : State} (h : (execRxNotice port n s) = .next t') :
    OnlyIn [.fab, .deck] s t' := by
  unfold execRxNotice at h
  try dsimp only at h
  repeat' (first | cases h | split at h)
  all_goals repeat' (first | (with_reducible exact OnlyIn.refl _ _) | (with_reducible refine OnlyIn.ite' ?_ ?_) | (with_reducible apply OnlyIn.via; (first | apply takeInbox_only | apply floodNotice_only | apply setDeck_only); on_goal 1 => decide) | split)

theorem completeStep_only (cring : ℕ) (number : ℕ) (st : Status) (s : State) :
    OnlyIn [.host, .cmds] s (completeStep cring number st s) := by
  unfold completeStep
  try dsimp only
  repeat' (first | (with_reducible exact OnlyIn.refl _ _) | (with_reducible refine OnlyIn.ite' ?_ ?_) | (with_reducible apply OnlyIn.via; (first | apply setCmd_only | apply setRing_only); on_goal 1 => decide))

theorem dropTask_only (key : ℕ) (s : State) :
    OnlyIn [.cmds, .seqs, .rma, .deck] s (dropTask key s) := by
  unfold dropTask
  try dsimp only
  repeat' (first | (with_reducible exact OnlyIn.refl _ _) | (with_reducible refine OnlyIn.ite' ?_ ?_) | (with_reducible apply OnlyIn.via; (first | apply dropAutos_only | apply modStep_only); on_goal 1 => decide) | split | (with_reducible refine OnlyIn.upd_cmds ?_ (by decide)) | (with_reducible refine OnlyIn.upd_seqs ?_ (by decide)) | (with_reducible refine OnlyIn.upd_rma ?_ (by decide)) | (with_reducible refine OnlyIn.upd ?_ (by constructor <;> first | (with_reducible rfl) | (with_reducible exact .inr rfl) | exact .inl (by decide))))

theorem resetStep_only (x : StepRun) (s : State) :
    OnlyIn [.cmds, .seqs, .rma, .deck] s (resetStep x s) := by
  unfold resetStep
  try dsimp only
  repeat' (first | exact List.Subset.refl _ | decide | (with_reducible exact OnlyIn.refl _ _) | (with_reducible refine OnlyIn.ite' ?_ ?_) | (with_reducible apply OnlyIn.via; (first | apply modStep_only | apply dropTask_only); on_goal 1 => decide) | ((with_reducible apply OnlyIn.andThen (m := [.cmds, .seqs, .rma, .deck])); (on_goal 2 => (with_reducible apply forEach_only))) | ((with_reducible apply OnlyIn.andThen (m := [.cmds, .seqs, .rma, .deck])); (on_goal 2 => (with_reducible apply OnlyIn.forEach; intro _ _)); (on_goal 3 => exact List.Subset.refl _)))

theorem closeStep_only (x : StepRun) (s : State) :
    OnlyIn [.cmds, .deck] s (closeStep x s) := by
  unfold closeStep
  try dsimp only
  repeat' (first | (with_reducible exact OnlyIn.refl _ _) | (with_reducible refine OnlyIn.ite' ?_ ?_) | split | (with_reducible refine OnlyIn.upd_cmds ?_ (by decide)) | (with_reducible refine OnlyIn.upd_deck ?_ (by decide)) | (with_reducible refine OnlyIn.upd ?_ (by constructor <;> first | (with_reducible rfl) | (with_reducible exact .inr rfl) | exact .inl (by decide))))

theorem releaseStep_only (x : StepRun) (s : State) :
    OnlyIn [.out, .freeCnt, .regs, .host, .cmds, .seqs, .mgmt, .tap, .fab, .rma, .deck, .sec, .act] s (releaseStep x s) := by
  unfold releaseStep
  try dsimp only
  repeat' (first | exact List.Subset.refl _ | decide | (with_reducible exact OnlyIn.refl _ _) | (with_reducible refine OnlyIn.ite' ?_ ?_) | (with_reducible apply OnlyIn.via; (first | apply closeStep_only | apply postOp_only | apply emitAll_only | apply addCounter_only | apply tapAdd_only | apply completeStep_only | apply setVal64_only | apply sendCall_only); on_goal 1 => decide) | ((with_reducible apply OnlyIn.andThen (m := [.out, .freeCnt, .regs, .host, .cmds, .seqs, .mgmt, .tap, .fab, .rma, .deck, .sec, .act])); (on_goal 2 => (with_reducible apply forEach_only))) | ((with_reducible apply OnlyIn.andThen (m := [.out, .freeCnt, .regs, .host, .cmds, .seqs, .mgmt, .tap, .fab, .rma, .deck, .sec, .act])); (on_goal 2 => (with_reducible apply OnlyIn.forEach; intro _ _)); (on_goal 3 => exact List.Subset.refl _)) | split | (with_reducible refine OnlyIn.upd_deck ?_ (by decide)))

theorem haltDeck_only (d : DeckImage) (st : Status) (s : State) :
    OnlyIn [.regs, .host, .cmds, .seqs, .rma, .deck] s (haltDeck d st s) := by
  unfold haltDeck
  try dsimp only
  repeat' (first | exact List.Subset.refl _ | decide | (with_reducible exact OnlyIn.refl _ _) | (with_reducible refine OnlyIn.ite' ?_ ?_) | (with_reducible apply OnlyIn.via; (first | apply resetStep_only | apply modDeck_only | apply completeStep_only); on_goal 1 => decide) | ((with_reducible apply OnlyIn.andThen (m := [.regs, .host, .cmds, .seqs, .rma, .deck])); (on_goal 2 => (with_reducible apply forEach_only))) | ((with_reducible apply OnlyIn.andThen (m := [.regs, .host, .cmds, .seqs, .rma, .deck])); (on_goal 2 => (with_reducible apply OnlyIn.forEach; intro _ _)); (on_goal 3 => exact List.Subset.refl _)) | split | (with_reducible refine OnlyIn.upd_rma ?_ (by decide)))

theorem endMetering_only (s : State) :
    OnlyIn [.regs, .host, .cmds, .seqs, .rma, .deck] s (endMetering s) := by
  unfold endMetering
  try dsimp only
  repeat' (first | (with_reducible exact OnlyIn.refl _ _) | (with_reducible refine OnlyIn.ite' ?_ ?_) | (with_reducible apply OnlyIn.via; (first | apply haltDeck_only); on_goal 1 => decide) | split)

theorem execStepRelease_only (step : ℕ) (s : State) {t' : State} (h : (execStepRelease step s) = .next t') :
    OnlyIn [.out, .freeCnt, .clk, .regs, .host, .cmds, .seqs, .mgmt, .tap, .fab, .rma, .deck, .sec, .act] s t' := by
  unfold execStepRelease at h
  try dsimp only at h
  repeat' (first | cases h | split at h)
  all_goals repeat' (first | (with_reducible exact OnlyIn.refl _ _) | (with_reducible refine OnlyIn.ite' ?_ ?_) | (with_reducible apply OnlyIn.via; (first | apply endMetering_only | apply releaseStep_only | apply advanceTo_only); on_goal 1 => decide) | split)

theorem issueCard_only (d : DeckImage) (i : ℕ) (c : Card) (cyc : ℕ) (s : State) :
    OnlyIn [.clk, .regs, .deck] s (issueCard d i c cyc s) := by
  unfold issueCard
  try dsimp only
  repeat' (first | (with_reducible exact OnlyIn.refl _ _) | (with_reducible refine OnlyIn.ite' ?_ ?_) | (with_reducible apply OnlyIn.via; (first | apply advanceTo_only | apply deckCnt_only | apply setDeck_only | apply modStep_only); on_goal 1 => decide))

theorem admitByOp_only (c : Cmd) (s : State) :
    OnlyIn [.out, .freeCnt, .regs, .host, .cmds, .seqs, .mgmt, .tap, .mem, .walk, .fab, .rma, .deck, .sec, .cells, .act] s (admitByOp c s) := by
  unfold admitByOp
  try dsimp only
  repeat' (first | exact List.Subset.refl _ | decide | (with_reducible exact OnlyIn.refl _ _) | (with_reducible refine OnlyIn.ite' ?_ ?_) | (with_reducible apply OnlyIn.via; (first | apply admitAttend_only | apply admitSelect_only | apply admitLadle_only | apply admitSearch_only | apply admitInsert_only | apply admitDelete_only | apply admitSignalRemote_only | apply admitSignalLocal_only | apply connOpenInput_only | apply admitConnClose_only | apply mrRegInput_only | apply admitMrDereg_only | apply admitPageResume_only | apply admitRmaOp_only); on_goal 1 => decide) | ((with_reducible apply OnlyIn.andThen (m := [.out, .freeCnt, .regs, .host, .cmds, .seqs, .mgmt, .tap, .mem, .walk, .fab, .rma, .deck, .sec, .cells, .act])); (on_goal 2 => (with_reducible apply admitBlock_only))) | split | intro x)

theorem execCardExec_only (card : ℕ) (s : State) {t' : State} (h : (execCardExec card s) = .next t') :
    OnlyIn [.out, .freeCnt, .clk, .regs, .host, .cmds, .seqs, .mgmt, .tap, .mem, .walk, .fab, .rma, .deck, .sec, .cells, .act] s t' := by
  unfold execCardExec at h
  unfold cardRow at h
  try dsimp only at h
  repeat' (first | cases h | split at h)
  all_goals repeat' (first | (with_reducible exact OnlyIn.refl _ _) | (with_reducible refine OnlyIn.ite' ?_ ?_) | (with_reducible apply OnlyIn.via; (first | apply modStep_only | apply setCmd_only | apply setDeck_only | apply endAtAdmission_only | apply finish_only | apply admitByOp_only | apply issueCard_only); on_goal 1 => decide) | split)

theorem execCardHold_only (card : ℕ) (s : State) {t' : State} (h : (execCardHold card s) = .next t') :
    OnlyIn [.clk, .regs, .deck] s t' := by
  unfold execCardHold at h
  unfold cardRow at h
  try dsimp only at h
  repeat' (first | cases h | split at h)
  all_goals repeat' (first | (with_reducible exact OnlyIn.refl _ _) | (with_reducible refine OnlyIn.ite' ?_ ?_) | (with_reducible apply OnlyIn.via; (first | apply issueCard_only); on_goal 1 => decide) | split)

theorem countSched_only (d : DeckImage) (c : Card) (n : ℕ) (flits : ℕ) (s : State) :
    OnlyIn [.deck] s (countSched d c n flits s) := by
  unfold countSched
  try dsimp only
  repeat' (first | (with_reducible exact OnlyIn.refl _ _) | (with_reducible refine OnlyIn.ite' ?_ ?_) | (with_reducible apply OnlyIn.via; (first | apply modStep_only); on_goal 1 => decide) | split)

theorem execCardSend_only (card : ℕ) (s : State) {t' : State} (h : (execCardSend card s) = .next t') :
    OnlyIn [.out, .clk, .regs, .host, .mgmt, .fab, .deck] s t' := by
  unfold execCardSend at h
  unfold cardRow at h
  try dsimp only at h
  repeat' (first | cases h | split at h)
  all_goals repeat' (first | exact List.Subset.refl _ | decide | (with_reducible exact OnlyIn.refl _ _) | (with_reducible refine OnlyIn.ite' ?_ ?_) | (with_reducible apply OnlyIn.via; (first | apply routeSched_only | apply countSched_only | apply issueCard_only); on_goal 1 => decide) | ((with_reducible apply OnlyIn.andThen (m := [.out, .clk, .regs, .host, .mgmt, .fab, .deck])); (on_goal 2 => (with_reducible apply forEach_only))) | ((with_reducible apply OnlyIn.andThen (m := [.out, .clk, .regs, .host, .mgmt, .fab, .deck])); (on_goal 2 => (with_reducible apply OnlyIn.forEach; intro _ _)); (on_goal 3 => exact List.Subset.refl _)) | split)

theorem takeSched_only (d : DeckImage) (c : Card) (n : ℕ) (s : State) :
    OnlyIn [.fab, .deck] s (takeSched d c n s).2 := by
  unfold takeSched
  try dsimp only
  repeat' (first | (with_reducible exact OnlyIn.refl _ _) | (with_reducible refine OnlyIn.ite' ?_ ?_) | (with_reducible apply OnlyIn.via; (first | apply countSched_only | apply scratchWrite_only); on_goal 1 => decide) | split | (with_reducible refine OnlyIn.upd_fab ?_ (by decide)))

theorem tryRecv_only (d : DeckImage) (i : ℕ) (c : Card) (n : ℕ) (s : State) :
    OnlyIn [.fab, .deck] s (tryRecv d i c n s) := by
  unfold tryRecv
  try dsimp only
  repeat' (first | (with_reducible exact OnlyIn.refl _ _) | (with_reducible refine OnlyIn.ite' ?_ ?_) | (with_reducible apply OnlyIn.via; (first | apply takeSched_only | apply setDeck_only); on_goal 1 => decide) | (with_reducible apply OnlyIn.via; (on_goal 1 => (with_reducible refine .ofPair (by assumption) (takeSched_only ..))); on_goal 1 => decide) | split)

theorem execCardRecv_only (card : ℕ) (s : State) {t' : State} (h : (execCardRecv card s) = .next t') :
    OnlyIn [.clk, .regs, .fab, .deck] s t' := by
  unfold execCardRecv at h
  unfold cardRow at h
  try dsimp only at h
  repeat' (first | cases h | split at h)
  all_goals repeat' (first | (with_reducible exact OnlyIn.refl _ _) | (with_reducible refine OnlyIn.ite' ?_ ?_) | (with_reducible apply OnlyIn.via; (first | apply tryRecv_only | apply issueCard_only); on_goal 1 => decide) | split)

theorem execCardPost_only (card : ℕ) (s : State) {t' : State} (h : (execCardPost card s) = .next t') :
    OnlyIn [.clk, .regs, .deck] s t' := by
  unfold execCardPost at h
  unfold cardRow at h
  try dsimp only at h
  repeat' (first | cases h | split at h)
  all_goals repeat' (first | (with_reducible exact OnlyIn.refl _ _) | (with_reducible refine OnlyIn.ite' ?_ ?_) | (with_reducible apply OnlyIn.via; (first | apply modStep_only | apply issueCard_only); on_goal 1 => decide) | split)

theorem execCardCheck_only (card : ℕ) (s : State) {t' : State} (h : (execCardCheck card s) = .next t') :
    OnlyIn [.clk, .regs, .deck] s t' := by
  unfold execCardCheck at h
  unfold cardRow at h
  try dsimp only at h
  repeat' (first | cases h | split at h)
  all_goals repeat' (first | (with_reducible exact OnlyIn.refl _ _) | (with_reducible refine OnlyIn.ite' ?_ ?_) | (with_reducible apply OnlyIn.via; (first | apply setDeck_only | apply issueCard_only); on_goal 1 => decide) | split)

theorem execCardWait_only (card : ℕ) (s : State) {t' : State} (h : (execCardWait card s) = .next t') :
    OnlyIn [.clk, .regs, .rma, .deck] s t' := by
  unfold execCardWait at h
  unfold cardRow at h
  try dsimp only at h
  repeat' (first | cases h | split at h)
  all_goals repeat' (first | (with_reducible exact OnlyIn.refl _ _) | (with_reducible refine OnlyIn.ite' ?_ ?_) | (with_reducible apply OnlyIn.via; (first | apply setDeck_only | apply issueCard_only); on_goal 1 => decide) | split | (with_reducible refine OnlyIn.upd_rma ?_ (by decide)))

theorem execCardRelease_only (card : ℕ) (s : State) {t' : State} (h : (execCardRelease card s) = .next t') :
    OnlyIn [.out, .freeCnt, .clk, .regs, .host, .cmds, .seqs, .mgmt, .tap, .fab, .rma, .deck, .sec, .act] s t' := by
  unfold execCardRelease at h
  unfold cardRow at h
  try dsimp only at h
  repeat' (first | cases h | split at h)
  all_goals repeat' (first | (with_reducible exact OnlyIn.refl _ _) | (with_reducible refine OnlyIn.ite' ?_ ?_) | (with_reducible apply OnlyIn.via; (first | apply modStep_only | apply endMetering_only | apply releaseStep_only | apply issueCard_only); on_goal 1 => decide) | split)

theorem execLoanThreshold_only (card : ℕ) (s : State) {t' : State} (h : (execLoanThreshold card s) = .next t') :
    OnlyIn [.clk, .regs, .deck] s t' := by
  unfold execLoanThreshold at h
  try dsimp only at h
  repeat' (first | cases h | split at h)
  all_goals repeat' (first | (with_reducible exact OnlyIn.refl _ _) | (with_reducible refine OnlyIn.ite' ?_ ?_) | (with_reducible apply OnlyIn.via; (first | apply deckCnt_only | apply setDeck_only | apply advanceTo_only); on_goal 1 => decide) | split)

theorem abortCard_only (i : ℕ) (c : Card) (n : ℕ) (s : State) :
    OnlyIn [.cmds, .seqs, .fab, .rma, .deck] s (abortCard i c n s) := by
  unfold abortCard
  try dsimp only
  repeat' (first | exact List.Subset.refl _ | decide | (with_reducible exact OnlyIn.refl _ _) | (with_reducible refine OnlyIn.ite' ?_ ?_) | (with_reducible apply OnlyIn.via; (first | apply dropTask_only | apply modPort_only); on_goal 1 => decide) | ((with_reducible apply OnlyIn.andThen (m := [.cmds, .seqs, .fab, .rma, .deck])); (on_goal 2 => (with_reducible apply forEach_only))) | ((with_reducible apply OnlyIn.andThen (m := [.cmds, .seqs, .fab, .rma, .deck])); (on_goal 2 => (with_reducible apply OnlyIn.forEach; intro _ _)); (on_goal 3 => exact List.Subset.refl _)) | split)

theorem failCard_only (d : DeckImage) (i : ℕ) (c : Card) (n : ℕ) (cause : ℕ) (s : State) :
    OnlyIn [.out, .freeCnt, .regs, .host, .cmds, .seqs, .mgmt, .fab, .rma, .deck, .sec] s (failCard d i c n cause s) := by
  unfold failCard
  try dsimp only
  repeat' (first | (with_reducible exact OnlyIn.refl _ _) | (with_reducible refine OnlyIn.ite' ?_ ?_) | (with_reducible apply OnlyIn.via; (first | apply deckCnt_only | apply post_only | apply strikeCmd_only | apply deckCause_only | apply raiseNotice_only | apply abortCard_only); on_goal 1 => decide) | split)

theorem execCardSpanEnd_only (card : ℕ) (cause : Option FailCause) (s : State) {t' : State} (h : (execCardSpanEnd card cause s) = .next t') :
    OnlyIn [.out, .freeCnt, .clk, .regs, .host, .cmds, .seqs, .mgmt, .fab, .rma, .deck, .sec] s t' := by
  unfold execCardSpanEnd at h
  try dsimp only at h
  repeat' (first | cases h | split at h)
  all_goals repeat' (first | (with_reducible exact OnlyIn.refl _ _) | (with_reducible refine OnlyIn.ite' ?_ ?_) | (with_reducible apply OnlyIn.via; (first | apply advanceTo_only | apply tryRecv_only | apply failCard_only | apply setDeck_only | apply takeSched_only); on_goal 1 => decide) | (with_reducible apply OnlyIn.via; (on_goal 1 => (with_reducible refine .ofPair (by assumption) (takeSched_only ..))); on_goal 1 => decide) | split)

theorem rewindDeck_only (d : DeckImage) (wLin : ℕ) (aLin : ℕ) (set : List ℕ) (s : State) :
    OnlyIn [.regs, .cmds, .seqs, .fab, .rma, .deck] s (rewindDeck d wLin aLin set s) := by
  unfold rewindDeck
  try dsimp only
  repeat' (first | exact List.Subset.refl _ | decide | (with_reducible exact OnlyIn.refl _ _) | (with_reducible refine OnlyIn.ite' ?_ ?_) | (with_reducible apply OnlyIn.via; (first | apply resetStep_only | apply deckCnt_only | apply modDeck_only); on_goal 1 => decide) | ((with_reducible apply OnlyIn.andThen (m := [.regs, .cmds, .seqs, .fab, .rma, .deck])); (on_goal 2 => (with_reducible apply forEach_only))) | ((with_reducible apply OnlyIn.andThen (m := [.regs, .cmds, .seqs, .fab, .rma, .deck])); (on_goal 2 => (with_reducible apply OnlyIn.forEach; intro _ _)); (on_goal 3 => exact List.Subset.refl _)) | split | (with_reducible refine OnlyIn.upd_fab ?_ (by decide)))

theorem takeNotices_only (d : DeckImage) (due : List Notice) (s : State) :
    OnlyIn [.out, .clk, .regs, .host, .cmds, .seqs, .mgmt, .fab, .rma, .deck] s (takeNotices d due s) := by
  unfold takeNotices
  try dsimp only
  repeat' (first | (with_reducible exact OnlyIn.refl _ _) | (with_reducible refine OnlyIn.ite' ?_ ?_) | (with_reducible apply OnlyIn.via; (first | apply setDeck_only | apply advanceTo_only | apply deckCnt_only | apply post_only | apply endMetering_only | apply modDeck_only | apply rewindDeck_only | apply haltDeck_only | apply raiseFor_only); on_goal 1 => decide) | split)

theorem execNoticeTake_only (s : State) {t' : State} (h : (execNoticeTake s) = .next t') :
    OnlyIn [.out, .clk, .regs, .host, .cmds, .seqs, .mgmt, .fab, .rma, .deck] s t' := by
  unfold execNoticeTake at h
  try dsimp only at h
  repeat' (first | cases h | split at h)
  all_goals repeat' (first | (with_reducible exact OnlyIn.refl _ _) | (with_reducible refine OnlyIn.ite' ?_ ?_) | (with_reducible apply OnlyIn.via; (first | apply takeNotices_only); on_goal 1 => decide) | split)

theorem marginLow_only (s : State) :
    OnlyIn [.out, .regs, .host, .mgmt] s (marginLow s) := by
  unfold marginLow
  try dsimp only
  repeat' (first | (with_reducible exact OnlyIn.refl _ _) | (with_reducible refine OnlyIn.ite' ?_ ?_) | (with_reducible apply OnlyIn.via; (first | apply post_only | apply setValBits_only); on_goal 1 => decide))

theorem moveVcore_only (up : ℕ) (down : ℕ) (s : State) :
    OnlyIn [.regs] s (moveVcore up down s) := by
  unfold moveVcore
  try dsimp only
  repeat' (first | (with_reducible exact OnlyIn.refl _ _) | (with_reducible refine OnlyIn.ite' ?_ ?_) | (with_reducible apply OnlyIn.via; (first | apply setValBits_only); on_goal 1 => decide))

theorem adjustMargin_only (d : DeckImage) (rc : ℕ) (s : State) :
    OnlyIn [.out, .freeCnt, .regs, .host, .mgmt, .deck] s (adjustMargin d rc s) := by
  unfold adjustMargin
  try dsimp only
  repeat' (first | (with_reducible exact OnlyIn.refl _ _) | (with_reducible refine OnlyIn.ite' ?_ ?_) | (with_reducible apply OnlyIn.via; (first | apply setValBits_only | apply stepFree_only | apply setDeck_only | apply marginLow_only | apply moveVcore_only); on_goal 1 => decide))

theorem nextRound_only (d : DeckImage) (s : State) :
    OnlyIn [.regs, .deck] s (nextRound d s) := by
  unfold nextRound
  try dsimp only
  repeat' (first | (with_reducible exact OnlyIn.refl _ _) | (with_reducible refine OnlyIn.ite' ?_ ?_) | (with_reducible apply OnlyIn.via; (first | apply modDeck_only); on_goal 1 => decide))

theorem execRoundBoundary_only (rcMax : ℕ) (s : State) {t' : State} (h : (execRoundBoundary rcMax s) = .next t') :
    OnlyIn [.out, .freeCnt, .clk, .regs, .host, .mgmt, .deck] s t' := by
  unfold execRoundBoundary at h
  try dsimp only at h
  repeat' (first | cases h | split at h)
  all_goals repeat' (first | (with_reducible exact OnlyIn.refl _ _) | (with_reducible refine OnlyIn.ite' ?_ ?_) | (with_reducible apply OnlyIn.via; (first | apply modDeck_only | apply advanceTo_only | apply nextRound_only | apply adjustMargin_only); on_goal 1 => decide) | split)

theorem execMarginReading_only (rc : ℕ) (s : State) {t' : State} (h : (execMarginReading rc s) = .next t') :
    OnlyIn [.out, .regs, .host, .mgmt] s t' := by
  unfold execMarginReading at h
  try dsimp only at h
  repeat' (first | cases h | split at h)
  all_goals repeat' (first | (with_reducible exact OnlyIn.refl _ _) | (with_reducible refine OnlyIn.ite' ?_ ?_) | (with_reducible apply OnlyIn.via; (first | apply deckCnt_only | apply marginLow_only | apply moveVcore_only); on_goal 1 => decide) | split)

theorem loadFences_only (s : State) :
    OnlyIn [.regs, .mgmt] s (loadFences s) := by
  unfold loadFences
  try dsimp only
  repeat' (first | exact List.Subset.refl _ | decide | (with_reducible exact OnlyIn.refl _ _) | (with_reducible refine OnlyIn.ite' ?_ ?_) | (with_reducible apply OnlyIn.via; (first | apply logMgmt_only | apply setValBits_only); on_goal 1 => decide) | ((with_reducible apply OnlyIn.andThen (m := [.regs, .mgmt])); (on_goal 2 => (with_reducible apply forEach_only))) | ((with_reducible apply OnlyIn.andThen (m := [.regs, .mgmt])); (on_goal 2 => (with_reducible apply OnlyIn.forEach; intro _ _)); (on_goal 3 => exact List.Subset.refl _)) | split | (with_reducible refine OnlyIn.upd_mgmt ?_ (by decide) (by first | (with_reducible exact .inr rfl))))

theorem commitRoutes_only (routes : List ℕ) (s : State) :
    OnlyIn [.regs, .act] s (commitRoutes routes s) := by
  unfold commitRoutes
  try dsimp only
  repeat' (first | exact List.Subset.refl _ | decide | (with_reducible exact OnlyIn.refl _ _) | (with_reducible refine OnlyIn.ite' ?_ ?_) | (with_reducible apply OnlyIn.via; (first | apply setAct_only | apply setCtl_only); on_goal 1 => decide) | ((with_reducible apply OnlyIn.andThen (m := [.regs, .act])); (on_goal 2 => (with_reducible apply forEach_only))) | ((with_reducible apply OnlyIn.andThen (m := [.regs, .act])); (on_goal 2 => (with_reducible apply OnlyIn.forEach; intro _ _)); (on_goal 3 => exact List.Subset.refl _)) | split | (with_reducible refine OnlyIn.upd_regs ?_ (by decide) (by first | (with_reducible exact .inr rfl))))

theorem endSwap_only (q : SwapReq) (t : ℕ) (s : State) :
    OnlyIn [.out, .freeCnt, .regs, .host, .cmds, .mgmt, .sec] s (endSwap q t s) := by
  unfold endSwap
  try dsimp only
  repeat' (first | (with_reducible exact OnlyIn.refl _ _) | (with_reducible refine OnlyIn.ite' ?_ ?_) | (with_reducible apply OnlyIn.via; (first | apply endAtAdmission_only | apply finish_only); on_goal 1 => decide) | split)

theorem startDeck_only (q : SwapReq) (t : ℕ) (s : State) :
    OnlyIn [.out, .freeCnt, .clk, .regs, .host, .cmds, .seqs, .mgmt, .rma, .deck, .sec, .act] s (startDeck q t s) := by
  unfold startDeck
  try dsimp only
  repeat' (first | exact List.Subset.refl _ | decide | (with_reducible exact OnlyIn.refl _ _) | (with_reducible refine OnlyIn.ite' ?_ ?_) | (with_reducible apply OnlyIn.via; (first | apply loadFences_only | apply advanceTo_only | apply resetStep_only | apply endSwap_only | apply modDeck_only | apply commitRoutes_only); on_goal 1 => decide) | ((with_reducible apply OnlyIn.andThen (m := [.out, .freeCnt, .clk, .regs, .host, .cmds, .seqs, .mgmt, .rma, .deck, .sec, .act])); (on_goal 2 => (with_reducible apply forEach_only))) | ((with_reducible apply OnlyIn.andThen (m := [.out, .freeCnt, .clk, .regs, .host, .cmds, .seqs, .mgmt, .rma, .deck, .sec, .act])); (on_goal 2 => (with_reducible apply OnlyIn.forEach; intro _ _)); (on_goal 3 => exact List.Subset.refl _)) | split)

theorem execDeckStart_only (s : State) {t' : State} (h : (execDeckStart s) = .next t') :
    OnlyIn [.out, .freeCnt, .clk, .regs, .host, .cmds, .seqs, .mgmt, .rma, .deck, .sec, .act] s t' := by
  unfold execDeckStart at h
  try dsimp only at h
  repeat' (first | cases h | split at h)
  all_goals repeat' (first | (with_reducible exact OnlyIn.refl _ _) | (with_reducible refine OnlyIn.ite' ?_ ?_) | (with_reducible apply OnlyIn.via; (first | apply startDeck_only); on_goal 1 => decide) | split)

theorem retain_only (part : ℕ) (home : BitVec 16) (step : BitVec 64) (sub : ℕ) (m : RespMsg) (s : State) :
    OnlyIn [.retained] s (retain part home step sub m s) := by
  unfold retain
  try dsimp only
  repeat' (first | (with_reducible exact OnlyIn.refl _ _) | (with_reducible refine OnlyIn.ite' ?_ ?_) | split | (with_reducible refine OnlyIn.upd_retained ?_ (by decide)))

theorem keepOnce_only {l : List Area} {part : ℕ} {home : BitVec 16} {step : BitVec 64} {sub : ℕ} {f : State → Option RespMsg × State} {s : State} (hf : ∀  t, OnlyIn l t (f  t).2) (hl : [.retained] ⊆ l) :
    OnlyIn l s (keepOnce part home step sub f s).2 := by
  unfold keepOnce
  repeat' (first | (intro x) | (with_reducible exact OnlyIn.refl _ _) | assumption | (with_reducible refine OnlyIn.ite' ?_ ?_) | ((with_reducible apply OnlyIn.andThen (m := l)); (on_goal 2 => (apply hf)); (on_goal 2 => exact List.Subset.refl _)) | (refine OnlyIn.ofPair (by assumption) ?_; apply hf) | ((with_reducible apply OnlyIn.andThen (m := [.retained])); (on_goal 2 => (with_reducible apply retain_only)); (on_goal 2 => (first | decide | exact List.Subset.trans (by decide) hl))) | split)

theorem holdGfa_only (port : ℕ) (p : Packet) (m : CallMsg) (s : State) :
    OnlyIn [.rmx] s (holdGfa port p m s) := by
  unfold holdGfa
  try dsimp only
  repeat' (first | (with_reducible exact OnlyIn.refl _ _) | (with_reducible refine OnlyIn.ite' ?_ ?_) | split | (with_reducible refine OnlyIn.upd_rmx ?_ (by decide)))

theorem serveGfa_only (part : ℕ) (step : BitVec 64) (sub : ℕ) (stamp : BitVec 16) (addr : BitVec 64) (len : ℕ) (write : Bool) (data : List Byte) (s : State) :
    OnlyIn [.regs, .mem, .cells] s (serveGfa part step sub stamp addr len write data s).2 := by
  unfold serveGfa
  try dsimp only
  repeat' (first | exact List.Subset.refl _ | decide | (with_reducible exact OnlyIn.refl _ _) | (with_reducible refine OnlyIn.ite' ?_ ?_) | (with_reducible apply OnlyIn.via; (first | apply countResolved_only | apply cntAdd_only | apply writeMem_only); on_goal 1 => decide) | ((with_reducible apply OnlyIn.andThen (m := [.regs, .mem, .cells])); (on_goal 2 => (with_reducible apply forEach_only))) | ((with_reducible apply OnlyIn.andThen (m := [.regs, .mem, .cells])); (on_goal 2 => (with_reducible apply OnlyIn.forEach; intro _ _)); (on_goal 3 => exact List.Subset.refl _)) | split)

theorem releaseRecords_only (home : BitVec 16) (step : BitVec 64) (s : State) :
    OnlyIn [.retained] s (releaseRecords home step s) := by
  unfold releaseRecords
  try dsimp only
  repeat' (first | (with_reducible exact OnlyIn.refl _ _) | (with_reducible refine OnlyIn.ite' ?_ ?_) | split | (with_reducible refine OnlyIn.upd_retained ?_ (by decide)))

theorem serveCall_only (port : ℕ) (conn : ℕ) (p : Packet) (m : CallMsg) (s : State) :
    OnlyIn [.out, .freeCnt, .regs, .host, .seqs, .shards, .retained, .mgmt, .tap, .mem, .rmx, .cells] s (serveCall port conn p m s).2 := by
  unfold serveCall
  try dsimp only
  repeat' (first | exact List.Subset.refl _ | decide | (with_reducible exact OnlyIn.refl _ _) | (with_reducible refine OnlyIn.ite' ?_ ?_) | (with_reducible apply OnlyIn.via; (first | apply serveAttend_only | apply tapAdd_only | apply cntAdd_only | apply replicaCommit_only | apply stepFree_only | apply takePage_only | apply takeSeq_only | apply freeReplicaOf_only | apply holdGfa_only | apply serveGfa_only | apply releaseRecords_only); on_goal 1 => decide) | (with_reducible apply OnlyIn.via; (on_goal 1 => (with_reducible refine .ofPair (by assumption) (keepOnce_only ..))); on_goal 1 => decide) | (with_reducible apply OnlyIn.via; (on_goal 1 => (with_reducible refine .ofPair (by assumption) (serveAttend_only ..))); on_goal 1 => decide) | (with_reducible apply OnlyIn.via; (on_goal 1 => (with_reducible refine .ofPair (by assumption) (replicaCommit_only ..))); on_goal 1 => decide) | (with_reducible apply OnlyIn.via; (on_goal 1 => (with_reducible refine .ofPair (by assumption) (takeSeq_only ..))); on_goal 1 => decide) | (with_reducible apply OnlyIn.via; (on_goal 1 => (with_reducible refine .ofPair (by assumption) (serveGfa_only ..))); on_goal 1 => decide) | ((with_reducible apply OnlyIn.andThen (m := [.out, .freeCnt, .regs, .host, .seqs, .shards, .retained, .mgmt, .tap, .mem, .rmx, .cells])); (on_goal 2 => (with_reducible apply keepOnce_only))) | ((with_reducible apply OnlyIn.andThen (m := [.out, .freeCnt, .regs, .host, .seqs, .shards, .retained, .mgmt, .tap, .mem, .rmx, .cells])); (on_goal 2 => (with_reducible apply forEach_only))) | ((with_reducible apply OnlyIn.andThen (m := [.out, .freeCnt, .regs, .host, .seqs, .shards, .retained, .mgmt, .tap, .mem, .rmx, .cells])); (on_goal 2 => (with_reducible apply OnlyIn.forEach; intro _ _)); (on_goal 3 => exact List.Subset.refl _)) | split | intro x)

theorem sendResp_only (conn : ℕ) (psn : BitVec 24) (try_ : BitVec 8) (m : RespMsg) (s : State) :
    OnlyIn [.out, .regs, .host, .mgmt, .tap, .fab, .act] s (sendResp conn psn try_ m s) := by
  unfold sendResp
  try dsimp only
  repeat' (first | (with_reducible exact OnlyIn.refl _ _) | (with_reducible refine OnlyIn.ite' ?_ ?_) | (with_reducible apply OnlyIn.via; (first | apply sendConn_only); on_goal 1 => decide))

theorem sendAnswer_only (conn : ℕ) (p : Packet) (m : Option RespMsg) (s : State) :
    OnlyIn [.out, .regs, .host, .mgmt, .tap, .fab, .act] s (sendAnswer conn p m s) := by
  unfold sendAnswer
  try dsimp only
  repeat' (first | (with_reducible exact OnlyIn.refl _ _) | (with_reducible refine OnlyIn.ite' ?_ ?_) | (with_reducible apply OnlyIn.via; (first | apply sendResp_only); on_goal 1 => decide) | split)

theorem freshCall_only (port : ℕ) (c : ℕ) (m : CallMsg) (cg : Cargo) (s : State) :
    OnlyIn [.out, .freeCnt, .regs, .host, .seqs, .shards, .retained, .mgmt, .tap, .mem, .fab, .rma, .rmx, .cells, .act] s (freshCall port c m cg s) := by
  unfold freshCall
  try dsimp only
  repeat' (first | (with_reducible exact OnlyIn.refl _ _) | (with_reducible refine OnlyIn.ite' ?_ ?_) | (with_reducible apply OnlyIn.via; (first | apply reject_only | apply serveCall_only | apply applied_only | apply sendAnswer_only | apply advanceRx_only); on_goal 1 => decide))

theorem rxCallPkt_only (port : ℕ) (cg : Cargo) (s : State) :
    OnlyIn [.out, .freeCnt, .regs, .host, .seqs, .shards, .retained, .mgmt, .tap, .mem, .fab, .rma, .rmx, .cells, .act] s (rxCallPkt port cg s) := by
  unfold rxCallPkt
  try dsimp only
  repeat' (first | exact List.Subset.refl _ | decide | (with_reducible exact OnlyIn.refl _ _) | (with_reducible refine OnlyIn.ite' ?_ ?_) | (with_reducible apply OnlyIn.via; (first | apply freshCall_only); on_goal 1 => decide) | ((with_reducible apply OnlyIn.andThen (m := [.out, .freeCnt, .regs, .host, .seqs, .shards, .retained, .mgmt, .tap, .mem, .fab, .rma, .rmx, .cells, .act])); (on_goal 2 => (with_reducible apply rxRequest_only))) | split | intro x)

theorem answerHeld_only (h : HeldGfa) (s : State) :
    OnlyIn [.out, .regs, .host, .mgmt, .tap, .mem, .fab, .cells, .act] s (answerHeld h s) := by
  unfold answerHeld
  try dsimp only
  repeat' (first | (with_reducible exact OnlyIn.refl _ _) | (with_reducible refine OnlyIn.ite' ?_ ?_) | (with_reducible apply OnlyIn.via; (first | apply serveGfa_only | apply sendResp_only); on_goal 1 => decide) | (with_reducible apply OnlyIn.via; (on_goal 1 => (with_reducible refine .ofPair (by assumption) (serveGfa_only ..))); on_goal 1 => decide) | split)

theorem serveHeld_only (s : State) :
    OnlyIn [.out, .regs, .host, .mgmt, .tap, .mem, .fab, .rmx, .cells, .act] s (serveHeld s) := by
  unfold serveHeld
  try dsimp only
  repeat' (first | exact List.Subset.refl _ | decide | (with_reducible exact OnlyIn.refl _ _) | (with_reducible refine OnlyIn.ite' ?_ ?_) | (with_reducible apply OnlyIn.via; (first | apply answerHeld_only); on_goal 1 => decide) | ((with_reducible apply OnlyIn.andThen (m := [.out, .regs, .host, .mgmt, .tap, .mem, .fab, .rmx, .cells, .act])); (on_goal 2 => (with_reducible apply forEach_only))) | ((with_reducible apply OnlyIn.andThen (m := [.out, .regs, .host, .mgmt, .tap, .mem, .fab, .rmx, .cells, .act])); (on_goal 2 => (with_reducible apply OnlyIn.forEach; intro _ _)); (on_goal 3 => exact List.Subset.refl _)) | split | (with_reducible refine OnlyIn.upd_rmx ?_ (by decide)))

theorem execStampHoldTimeout_only (held : ℕ) (s : State) {t' : State} (h : (execStampHoldTimeout held s) = .next t') :
    OnlyIn [.out, .clk, .regs, .host, .mgmt, .tap, .fab, .rmx, .act] s t' := by
  unfold execStampHoldTimeout at h
  try dsimp only at h
  repeat' (first | cases h | split at h)
  all_goals repeat' (first | (with_reducible exact OnlyIn.refl _ _) | (with_reducible refine OnlyIn.ite' ?_ ?_) | (with_reducible apply OnlyIn.via; (first | apply cntAdd_only | apply advanceTo_only | apply sendResp_only); on_goal 1 => decide) | split | (with_reducible refine OnlyIn.upd_rmx ?_ (by decide)))

theorem execRxCall_only (port : ℕ) (pkt : Packet) (m : CallMsg) (s : State) {t' : State} (h : (execRxCall port pkt m s) = .next t') :
    OnlyIn [.out, .freeCnt, .regs, .host, .seqs, .shards, .retained, .mgmt, .tap, .mem, .fab, .rma, .rmx, .cells, .act] s t' := by
  unfold execRxCall at h
  try dsimp only at h
  repeat' (first | cases h | split at h)
  all_goals repeat' (first | (with_reducible exact OnlyIn.refl _ _) | (with_reducible refine OnlyIn.ite' ?_ ?_) | (with_reducible apply OnlyIn.via; (first | apply rxCallPkt_only); on_goal 1 => decide))

theorem execRetentionExpiry_only (home : BitVec 16) (step : BitVec 64) (sub : ℕ) (s : State) {t' : State} (h : (execRetentionExpiry home step sub s) = .next t') :
    OnlyIn [.out, .clk, .regs, .host, .retained, .mgmt] s t' := by
  unfold execRetentionExpiry at h
  try dsimp only at h
  repeat' (first | cases h | split at h)
  all_goals repeat' (first | (with_reducible exact OnlyIn.refl _ _) | (with_reducible refine OnlyIn.ite' ?_ ?_) | (with_reducible apply OnlyIn.via; (first | apply cntAdd_only | apply advanceTo_only | apply post_only); on_goal 1 => decide) | split | (with_reducible refine OnlyIn.upd_retained ?_ (by decide)))

theorem mapWrite_only (c : Cmd) (b : List Byte) (s : State) :
    OnlyIn [.regs, .rmx] s (mapWrite c b s) := by
  unfold mapWrite
  try dsimp only
  repeat' (first | (with_reducible exact OnlyIn.refl _ _) | (with_reducible refine OnlyIn.ite' ?_ ?_) | (with_reducible apply OnlyIn.via; (first | apply showRmx_only | apply cntAdd_only); on_goal 1 => decide) | split | (with_reducible refine OnlyIn.upd_rmx ?_ (by decide)))

theorem mapTurn_only (x0 : ℕ) (x1 : State) :
    OnlyIn [.out, .freeCnt, .regs, .host, .cmds, .mgmt, .rmx, .sec] x1 (mapTurn x0 x1) := by
  induction x0 generalizing x1 with
  | zero => exact OnlyIn.refl _ _
  | succ n ih =>
  unfold mapTurn
  try lift_lets
  repeat' (first | ((with_reducible apply OnlyIn.andThen (m := [.out, .freeCnt, .regs, .host, .cmds, .mgmt, .rmx, .sec])); (on_goal 2 => (with_reducible apply ih)); (on_goal 2 => exact List.Subset.refl _)) | (intro x; have hx : OnlyIn [.out, .freeCnt, .regs, .host, .cmds, .mgmt, .rmx, .sec] x1 x := (by repeat' (first | ((with_reducible apply OnlyIn.andThen (m := [.out, .freeCnt, .regs, .host, .cmds, .mgmt, .rmx, .sec])); (on_goal 2 => (with_reducible apply ih)); (on_goal 2 => exact List.Subset.refl _)) | (with_reducible exact OnlyIn.refl _ _) | assumption | (with_reducible refine OnlyIn.ite' ?_ ?_) | (with_reducible apply OnlyIn.via; (first | ((with_reducible apply OnlyIn.andThen (m := [.out, .freeCnt, .regs, .host, .cmds, .mgmt, .rmx, .sec])); (on_goal 2 => (with_reducible apply ih)); (on_goal 2 => exact List.Subset.refl _)) | apply endAtAdmission_only | apply finish_only | apply mapWrite_only); on_goal 1 => decide) | split)); clear_value x) | (intro x) | lift_lets | (with_reducible exact OnlyIn.refl _ _) | assumption | (with_reducible refine OnlyIn.ite' ?_ ?_) | (with_reducible apply OnlyIn.via; (first | ((with_reducible apply OnlyIn.andThen (m := [.out, .freeCnt, .regs, .host, .cmds, .mgmt, .rmx, .sec])); (on_goal 2 => (with_reducible apply ih)); (on_goal 2 => exact List.Subset.refl _)) | apply endAtAdmission_only | apply finish_only | apply mapWrite_only); on_goal 1 => decide) | split)

theorem mapInput_only (c : Cmd) (g : Got) (s : State) :
    OnlyIn [.out, .freeCnt, .regs, .host, .cmds, .mgmt, .rmx, .sec] s (mapInput c g s) := by
  unfold mapInput
  try dsimp only
  repeat' (first | (with_reducible exact OnlyIn.refl _ _) | (with_reducible refine OnlyIn.ite' ?_ ?_) | (with_reducible apply OnlyIn.via; (first | apply mapTurn_only | apply setCmd_only | apply endAtAdmission_only | apply finish_only); on_goal 1 => decide) | split)

theorem admitMap_only (c : Cmd) (s : State) :
    OnlyIn [.out, .freeCnt, .regs, .host, .cmds, .seqs, .mgmt, .tap, .fab, .rma, .rmx, .sec, .act] s (admitMap c s) := by
  unfold admitMap
  try dsimp only
  repeat' (first | (with_reducible exact OnlyIn.refl _ _) | (with_reducible refine OnlyIn.ite' ?_ ?_) | (with_reducible apply OnlyIn.via; (first | apply admitCmd_only | apply mapInput_only | apply startRead_only); on_goal 1 => decide) | (with_reducible apply OnlyIn.via; (on_goal 1 => (with_reducible refine .ofPair (by assumption) (startRead_only ..))); on_goal 1 => decide) | split)

theorem retireEpoch_only (s : State) :
    OnlyIn [.out, .freeCnt, .regs, .host, .cmds, .mgmt, .rmx, .sec] s (retireEpoch s) := by
  unfold retireEpoch
  try dsimp only
  repeat' (first | (with_reducible exact OnlyIn.refl _ _) | (with_reducible refine OnlyIn.ite' ?_ ?_) | (with_reducible apply OnlyIn.via; (first | apply mapTurn_only | apply showRmx_only | apply cntAdd_only); on_goal 1 => decide) | split | (with_reducible refine OnlyIn.upd_rmx ?_ (by decide)))

theorem execMapUpdate_only (ring : ℕ) (rseq : BitVec 32) (s : State) {t' : State} (h : (execMapUpdate ring rseq s) = .next t') :
    OnlyIn [.out, .freeCnt, .regs, .host, .cmds, .seqs, .mgmt, .tap, .fab, .rma, .rmx, .sec, .act] s t' := by
  unfold execMapUpdate at h
  try dsimp only at h
  repeat' (first | cases h | split at h)
  all_goals repeat' (first | exact List.Subset.refl _ | decide | (with_reducible exact OnlyIn.refl _ _) | (with_reducible refine OnlyIn.ite' ?_ ?_) | (with_reducible apply OnlyIn.via; (first | apply admitMap_only); on_goal 1 => decide) | ((with_reducible apply OnlyIn.andThen (m := [.out, .freeCnt, .regs, .host, .cmds, .seqs, .mgmt, .tap, .fab, .rma, .rmx, .sec, .act])); (on_goal 2 => (with_reducible apply admitting_only))) | split | intro x)

theorem replayLostGfa_only (s : State) :
    OnlyIn [.out, .freeCnt, .regs, .host, .cmds, .mgmt, .sec] s (replayLostGfa s) := by
  unfold replayLostGfa
  try dsimp only
  repeat' (first | exact List.Subset.refl _ | decide | (with_reducible exact OnlyIn.refl _ _) | (with_reducible refine OnlyIn.ite' ?_ ?_) | (with_reducible apply OnlyIn.via; (first | apply strikeCmd_only); on_goal 1 => decide) | ((with_reducible apply OnlyIn.andThen (m := [.out, .freeCnt, .regs, .host, .cmds, .mgmt, .sec])); (on_goal 2 => (with_reducible apply forEach_only))) | ((with_reducible apply OnlyIn.andThen (m := [.out, .freeCnt, .regs, .host, .cmds, .mgmt, .sec])); (on_goal 2 => (with_reducible apply OnlyIn.forEach; intro _ _)); (on_goal 3 => exact List.Subset.refl _)))

theorem execMapCommit_only (s : State) {t' : State} (h : (execMapCommit s) = .next t') :
    OnlyIn [.out, .freeCnt, .regs, .host, .cmds, .mgmt, .tap, .mem, .fab, .rmx, .sec, .cells, .act] s t' := by
  unfold execMapCommit at h
  try dsimp only at h
  repeat' (first | cases h | split at h)
  all_goals repeat' (first | (with_reducible exact OnlyIn.refl _ _) | (with_reducible refine OnlyIn.ite' ?_ ?_) | (with_reducible apply OnlyIn.via; (first | apply endAtAdmission_only | apply finish_only | apply showRmx_only | apply replayLostGfa_only | apply serveHeld_only); on_goal 1 => decide) | split | (with_reducible refine OnlyIn.upd_rmx ?_ (by decide)))

theorem execEpochRetire_only (s : State) {t' : State} (h : (execEpochRetire s) = .next t') :
    OnlyIn [.out, .freeCnt, .regs, .host, .cmds, .mgmt, .rmx, .sec] s t' := by
  unfold execEpochRetire at h
  try dsimp only at h
  repeat' (first | cases h | split at h)
  all_goals repeat' (first | (with_reducible exact OnlyIn.refl _ _) | (with_reducible refine OnlyIn.ite' ?_ ?_) | (with_reducible apply OnlyIn.via; (first | apply retireEpoch_only); on_goal 1 => decide))

theorem execEpochForcedRetire_only (s : State) {t' : State} (h : (execEpochForcedRetire s) = .next t') :
    OnlyIn [.out, .freeCnt, .clk, .regs, .host, .cmds, .mgmt, .rmx, .sec] s t' := by
  unfold execEpochForcedRetire at h
  try dsimp only at h
  repeat' (first | cases h | split at h)
  all_goals repeat' (first | (with_reducible exact OnlyIn.refl _ _) | (with_reducible refine OnlyIn.ite' ?_ ?_) | (with_reducible apply OnlyIn.via; (first | apply setValBits_only | apply retireEpoch_only | apply advanceTo_only | apply post_only | apply cntAdd_only); on_goal 1 => decide) | split)

end Sys2Proof.Machine
end

