-- ==== Sys2Proof/Laws/FrameSec.lean ====
section
/-! SUPPORT. The areas of the state that each function may change: ownership, metering, SEC and the Assay. -/

namespace Sys2Proof.Machine

open Sys2Proof

theorem ownWrite_only {l : List Area} {w : Writer} {off : ℕ} {f : ℕ → State → State} {s : State} (hf : ∀ a0 t, OnlyIn l t (f a0 t)) (hl : [.regs] ⊆ l) :
    OnlyIn l s (ownWrite w off f s) := by
  unfold ownWrite
  repeat' (first | (intro x) | (with_reducible exact OnlyIn.refl _ _) | assumption | (with_reducible refine OnlyIn.ite' ?_ ?_) | ((with_reducible apply OnlyIn.andThen (m := l)); (on_goal 2 => (apply hf)); (on_goal 2 => exact List.Subset.refl _)) | ((with_reducible apply OnlyIn.andThen (m := [.regs])); (on_goal 2 => (with_reducible apply rejectWrite_only)); (on_goal 2 => (first | decide | exact List.Subset.trans (by decide) hl))) | split)

theorem setOwnRes_only (st : Status) (s : State) :
    OnlyIn [.regs] s (setOwnRes st s) := by
  unfold setOwnRes
  try dsimp only
  repeat' (first | (with_reducible exact OnlyIn.refl _ _) | (with_reducible refine OnlyIn.ite' ?_ ?_) | (with_reducible apply OnlyIn.via; (first | apply setVal_only); on_goal 1 => decide))

theorem answerClaim_only (m : ℕ) (tag : BitVec 32) (st : Status) (s : State) :
    OnlyIn [.out, .regs, .mgmt] s (answerClaim m tag st s) := by
  unfold answerClaim
  try dsimp only
  repeat' (first | (with_reducible exact OnlyIn.refl _ _) | (with_reducible refine OnlyIn.ite' ?_ ?_) | (with_reducible apply OnlyIn.via; (first | apply setOwnRes_only | apply sendMgmt_only); on_goal 1 => decide))

theorem logClaim_only (m : ℕ) (how : ℕ) (st : Status) (s : State) :
    OnlyIn [.mgmt] s (logClaim m how st s) := by
  unfold logClaim
  try dsimp only
  repeat' (first | (with_reducible exact OnlyIn.refl _ _) | (with_reducible refine OnlyIn.ite' ?_ ?_) | (with_reducible apply OnlyIn.via; (first | apply logMgmt_only); on_goal 1 => decide))

theorem drawChallenge_only (s : State) :
    OnlyIn [.freeCnt, .regs, .sec] s (drawChallenge s) := by
  unfold drawChallenge
  try dsimp only
  repeat' (first | exact List.Subset.refl _ | decide | (with_reducible exact OnlyIn.refl _ _) | (with_reducible refine OnlyIn.ite' ?_ ?_) | (with_reducible apply OnlyIn.via; (first | apply stepFree_only | apply setVal_only); on_goal 1 => decide) | ((with_reducible apply OnlyIn.andThen (m := [.freeCnt, .regs, .sec])); (on_goal 2 => (with_reducible apply forEach_only))) | ((with_reducible apply OnlyIn.andThen (m := [.freeCnt, .regs, .sec])); (on_goal 2 => (with_reducible apply OnlyIn.forEach; intro _ _)); (on_goal 3 => exact List.Subset.refl _)) | split | (with_reducible refine OnlyIn.upd_sec ?_ (by decide)))

theorem renewLease_only (s : State) :
    OnlyIn [.own] s (renewLease s) := by
  unfold renewLease
  try dsimp only
  repeat' (first | (with_reducible exact OnlyIn.refl _ _) | (with_reducible refine OnlyIn.ite' ?_ ?_) | split | (with_reducible refine OnlyIn.upd_own ?_ (by decide)))

theorem postOwnerChange_only (s : State) :
    OnlyIn [.out, .host, .mgmt] s (postOwnerChange s) := by
  unfold postOwnerChange
  try dsimp only
  repeat' (first | exact List.Subset.refl _ | decide | (with_reducible exact OnlyIn.refl _ _) | (with_reducible refine OnlyIn.ite' ?_ ?_) | (with_reducible apply OnlyIn.via; (first | apply deliverEv_only | apply addLog_only | apply sendMgmt_only); on_goal 1 => decide) | ((with_reducible apply OnlyIn.andThen (m := [.out, .host, .mgmt])); (on_goal 2 => (with_reducible apply forEach_only))) | ((with_reducible apply OnlyIn.andThen (m := [.out, .host, .mgmt])); (on_goal 2 => (with_reducible apply OnlyIn.forEach; intro _ _)); (on_goal 3 => exact List.Subset.refl _)))

theorem showOwn_only (s : State) :
    OnlyIn [.regs] s (showOwn s) := by
  unfold showOwn
  try dsimp only
  repeat' (first | (with_reducible exact OnlyIn.refl _ _) | (with_reducible refine OnlyIn.ite' ?_ ?_) | (with_reducible apply OnlyIn.via; (first | apply setVal_only); on_goal 1 => decide))

theorem changeOwner_only (o : Ownership) (s : State) :
    OnlyIn [.out, .regs, .own, .host, .mgmt] s (changeOwner o s) := by
  unfold changeOwner
  try dsimp only
  repeat' (first | (with_reducible exact OnlyIn.refl _ _) | (with_reducible refine OnlyIn.ite' ?_ ?_) | (with_reducible apply OnlyIn.via; (first | apply postOwnerChange_only | apply showOwn_only); on_goal 1 => decide) | split | (with_reducible refine OnlyIn.upd_regs ?_ (by decide) (by first | (with_reducible exact .inr rfl) | exact .inl (by decide))) | (with_reducible refine OnlyIn.upd_own ?_ (by decide)) | (with_reducible refine OnlyIn.upd ?_ (by constructor <;> first | (with_reducible rfl) | (with_reducible exact .inr rfl) | exact .inl (by decide))))

theorem takeDeal_only (m : ℕ) (s : State) :
    OnlyIn [.out, .regs, .own, .host, .mgmt] s (takeDeal m s) := by
  unfold takeDeal
  try dsimp only
  repeat' (first | (with_reducible exact OnlyIn.refl _ _) | (with_reducible refine OnlyIn.ite' ?_ ?_) | (with_reducible apply OnlyIn.via; (first | apply changeOwner_only); on_goal 1 => decide))

theorem logPass_only (how : ℕ) (s : State) :
    OnlyIn [.mgmt] s (logPass how s) := by
  unfold logPass
  try dsimp only
  repeat' (first | (with_reducible exact OnlyIn.refl _ _) | (with_reducible refine OnlyIn.ite' ?_ ?_) | (with_reducible apply OnlyIn.via; (first | apply logMgmt_only); on_goal 1 => decide))

theorem claim_only (m : ℕ) (tag : BitVec 32) (cred : List Byte) (s : State) :
    OnlyIn [.out, .freeCnt, .regs, .own, .host, .mgmt, .sec] s (claim m tag cred s) := by
  unfold claim
  try dsimp only
  repeat' (first | (with_reducible exact OnlyIn.refl _ _) | (with_reducible refine OnlyIn.ite' ?_ ?_) | (with_reducible apply OnlyIn.via; (first | apply answerClaim_only | apply logClaim_only | apply drawChallenge_only | apply setVal_only | apply renewLease_only | apply takeDeal_only | apply logPass_only); on_goal 1 => decide) | split | (with_reducible refine OnlyIn.upd_own ?_ (by decide)))

theorem writeClaim_only (w : Writer) (cred : List Byte) (s : State) :
    OnlyIn [.out, .freeCnt, .regs, .own, .host, .mgmt, .sec] s (writeClaim w cred s) := by
  unfold writeClaim
  try dsimp only
  repeat' (first | exact List.Subset.refl _ | decide | (with_reducible exact OnlyIn.refl _ _) | (with_reducible refine OnlyIn.ite' ?_ ?_) | (with_reducible apply OnlyIn.via; (first | apply claim_only | apply rejectWrite_only); on_goal 1 => decide) | ((with_reducible apply OnlyIn.andThen (m := [.out, .freeCnt, .regs, .own, .host, .mgmt, .sec])); (on_goal 2 => (with_reducible apply ownWrite_only))) | split | intro x)

theorem execNodeOwnClaim_only (w : Writer) (_addr : BitVec 64) (cred : List Byte) (s : State) {t' : State} (h : (execNodeOwnClaim w _addr cred s) = .next t') :
    OnlyIn [.out, .freeCnt, .regs, .own, .host, .mgmt, .sec] s t' := by
  unfold execNodeOwnClaim at h
  try dsimp only at h
  repeat' (first | cases h | split at h)
  all_goals repeat' (first | (with_reducible exact OnlyIn.refl _ _) | (with_reducible refine OnlyIn.ite' ?_ ?_) | (with_reducible apply OnlyIn.via; (first | apply writeClaim_only); on_goal 1 => decide))

theorem closeWindow_only (s : State) :
    OnlyIn [.out, .clk, .regs, .own, .host, .mgmt] s (closeWindow s) := by
  unfold closeWindow
  try dsimp only
  repeat' (first | exact List.Subset.refl _ | decide | (with_reducible exact OnlyIn.refl _ _) | (with_reducible refine OnlyIn.ite' ?_ ?_) | (with_reducible apply OnlyIn.via; (first | apply advanceMss_only | apply answerClaim_only | apply logClaim_only | apply takeDeal_only); on_goal 1 => decide) | ((with_reducible apply OnlyIn.andThen (m := [.out, .clk, .regs, .own, .host, .mgmt])); (on_goal 2 => (with_reducible apply forEach_only))) | ((with_reducible apply OnlyIn.andThen (m := [.out, .clk, .regs, .own, .host, .mgmt])); (on_goal 2 => (with_reducible apply OnlyIn.forEach; intro _ _)); (on_goal 3 => exact List.Subset.refl _)) | split | (with_reducible refine OnlyIn.upd_own ?_ (by decide)))

theorem execClaimWindowClose_only (s : State) {t' : State} (h : (execClaimWindowClose s) = .next t') :
    OnlyIn [.out, .clk, .regs, .own, .host, .mgmt] s t' := by
  unfold execClaimWindowClose at h
  try dsimp only at h
  repeat' (first | cases h | split at h)
  all_goals repeat' (first | (with_reducible exact OnlyIn.refl _ _) | (with_reducible refine OnlyIn.ite' ?_ ?_) | (with_reducible apply OnlyIn.via; (first | apply closeWindow_only); on_goal 1 => decide))

theorem refuseOwn_only (w : Writer) (off : ℕ) (s : State) :
    OnlyIn [.regs] s (refuseOwn w off s) := by
  unfold refuseOwn
  try dsimp only
  repeat' (first | (with_reducible exact OnlyIn.refl _ _) | (with_reducible refine OnlyIn.ite' ?_ ?_) | (with_reducible apply OnlyIn.via; (first | apply rejectWrite_only); on_goal 1 => decide))

theorem writeHb_only (w : Writer) (s : State) :
    OnlyIn [.regs, .own] s (writeHb w s) := by
  unfold writeHb
  try dsimp only
  repeat' (first | exact List.Subset.refl _ | decide | (with_reducible exact OnlyIn.refl _ _) | (with_reducible refine OnlyIn.ite' ?_ ?_) | (with_reducible apply OnlyIn.via; (first | apply renewLease_only | apply refuseOwn_only); on_goal 1 => decide) | ((with_reducible apply OnlyIn.andThen (m := [.regs, .own])); (on_goal 2 => (with_reducible apply ownWrite_only))) | split | intro x)

theorem execNodeOwnHb_only (w : Writer) (s : State) {t' : State} (h : (execNodeOwnHb w s) = .next t') :
    OnlyIn [.regs, .own] s t' := by
  unfold execNodeOwnHb at h
  try dsimp only at h
  repeat' (first | cases h | split at h)
  all_goals repeat' (first | (with_reducible exact OnlyIn.refl _ _) | (with_reducible refine OnlyIn.ite' ?_ ?_) | (with_reducible apply OnlyIn.via; (first | apply writeHb_only); on_goal 1 => decide))

theorem passRes_only (w : Writer) (st : Status) (s : State) :
    OnlyIn [.regs] s (passRes w st s) := by
  unfold passRes
  try dsimp only
  repeat' (first | (with_reducible exact OnlyIn.refl _ _) | (with_reducible refine OnlyIn.ite' ?_ ?_) | (with_reducible apply OnlyIn.via; (first | apply setOwnRes_only); on_goal 1 => decide))

theorem writePass_only (w : Writer) (target : ℕ) (s : State) :
    OnlyIn [.regs, .own, .mgmt] s (writePass w target s) := by
  unfold writePass
  try dsimp only
  repeat' (first | exact List.Subset.refl _ | decide | (with_reducible exact OnlyIn.refl _ _) | (with_reducible refine OnlyIn.ite' ?_ ?_) | (with_reducible apply OnlyIn.via; (first | apply passRes_only | apply refuseOwn_only | apply showOwn_only | apply logPass_only); on_goal 1 => decide) | ((with_reducible apply OnlyIn.andThen (m := [.regs, .own, .mgmt])); (on_goal 2 => (with_reducible apply ownWrite_only))) | split | (with_reducible refine OnlyIn.upd_own ?_ (by decide)) | (with_reducible refine OnlyIn.upd ?_ (by constructor <;> first | (with_reducible rfl) | (with_reducible exact .inr rfl))) | intro x)

theorem execNodeOwnPass_only (w : Writer) (target : BitVec 4) (s : State) {t' : State} (h : (execNodeOwnPass w target s) = .next t') :
    OnlyIn [.regs, .own, .mgmt] s t' := by
  unfold execNodeOwnPass at h
  try dsimp only at h
  repeat' (first | cases h | split at h)
  all_goals repeat' (first | (with_reducible exact OnlyIn.refl _ _) | (with_reducible refine OnlyIn.ite' ?_ ?_) | (with_reducible apply OnlyIn.via; (first | apply writePass_only); on_goal 1 => decide))

theorem endPass_only (how : ℕ) (s : State) :
    OnlyIn [.regs, .own, .mgmt] s (endPass how s) := by
  unfold endPass
  try dsimp only
  repeat' (first | (with_reducible exact OnlyIn.refl _ _) | (with_reducible refine OnlyIn.ite' ?_ ?_) | (with_reducible apply OnlyIn.via; (first | apply showOwn_only | apply logPass_only); on_goal 1 => decide) | split | (with_reducible refine OnlyIn.upd_own ?_ (by decide)))

theorem writePassCancel_only (w : Writer) (s : State) :
    OnlyIn [.regs, .own, .mgmt] s (writePassCancel w s) := by
  unfold writePassCancel
  try dsimp only
  repeat' (first | exact List.Subset.refl _ | decide | (with_reducible exact OnlyIn.refl _ _) | (with_reducible refine OnlyIn.ite' ?_ ?_) | (with_reducible apply OnlyIn.via; (first | apply passRes_only | apply refuseOwn_only | apply endPass_only); on_goal 1 => decide) | ((with_reducible apply OnlyIn.andThen (m := [.regs, .own, .mgmt])); (on_goal 2 => (with_reducible apply ownWrite_only))) | split | intro x)

theorem execNodeOwnPassCancel_only (w : Writer) (s : State) {t' : State} (h : (execNodeOwnPassCancel w s) = .next t') :
    OnlyIn [.regs, .own, .mgmt] s t' := by
  unfold execNodeOwnPassCancel at h
  try dsimp only at h
  repeat' (first | cases h | split at h)
  all_goals repeat' (first | (with_reducible exact OnlyIn.refl _ _) | (with_reducible refine OnlyIn.ite' ?_ ?_) | (with_reducible apply OnlyIn.via; (first | apply writePassCancel_only); on_goal 1 => decide))

theorem execOwnerLeaseLapse_only (s : State) {t' : State} (h : (execOwnerLeaseLapse s) = .next t') :
    OnlyIn [.out, .clk, .regs, .own, .host, .mgmt] s t' := by
  unfold execOwnerLeaseLapse at h
  try dsimp only at h
  repeat' (first | cases h | split at h)
  all_goals repeat' (first | (with_reducible exact OnlyIn.refl _ _) | (with_reducible refine OnlyIn.ite' ?_ ?_) | (with_reducible apply OnlyIn.via; (first | apply advanceMss_only | apply changeOwner_only | apply logMgmt_only); on_goal 1 => decide))

theorem execPassTimeout_only (s : State) {t' : State} (h : (execPassTimeout s) = .next t') :
    OnlyIn [.clk, .regs, .own, .mgmt] s t' := by
  unfold execPassTimeout at h
  try dsimp only at h
  repeat' (first | cases h | split at h)
  all_goals repeat' (first | (with_reducible exact OnlyIn.refl _ _) | (with_reducible refine OnlyIn.ite' ?_ ?_) | (with_reducible apply OnlyIn.via; (first | apply endPass_only | apply advanceMss_only); on_goal 1 => decide))

theorem execSecChallengeRefresh_only (s : State) {t' : State} (h : (execSecChallengeRefresh s) = .next t') :
    OnlyIn [.freeCnt, .clk, .regs, .sec] s t' := by
  unfold execSecChallengeRefresh at h
  try dsimp only at h
  repeat' (first | cases h | split at h)
  all_goals repeat' (first | (with_reducible exact OnlyIn.refl _ _) | (with_reducible refine OnlyIn.ite' ?_ ?_) | (with_reducible apply OnlyIn.via; (first | apply drawChallenge_only | apply advanceMss_only); on_goal 1 => decide))

theorem tapPut_only (typ : ℕ) (part : ℕ) (res : ℕ) (value : ℕ) (s : State) :
    OnlyIn [.tap] s (tapPut typ part res value s) := by
  unfold tapPut
  try dsimp only
  repeat' (first | (with_reducible exact OnlyIn.refl _ _) | (with_reducible refine OnlyIn.ite' ?_ ?_) | split | (with_reducible refine OnlyIn.upd_tap ?_ (by decide)))

theorem flushCount_only (p : ℕ) (r : ℕ) (s : State) :
    OnlyIn [.tap] s (flushCount p r s) := by
  unfold flushCount
  try dsimp only
  repeat' (first | (with_reducible exact OnlyIn.refl _ _) | (with_reducible refine OnlyIn.ite' ?_ ?_) | (with_reducible apply OnlyIn.via; (first | apply tapPut_only); on_goal 1 => decide) | split | (with_reducible refine OnlyIn.upd_tap ?_ (by decide)))

theorem placeHeld_only (x0 : ℕ) (x1 : State) :
    OnlyIn [.tap] x1 (placeHeld x0 x1) := by
  induction x0 generalizing x1 with
  | zero => exact OnlyIn.refl _ _
  | succ n ih =>
  unfold placeHeld
  try lift_lets
  repeat' (first | ((with_reducible apply OnlyIn.andThen (m := [.tap])); (on_goal 2 => (with_reducible apply ih)); (on_goal 2 => exact List.Subset.refl _)) | (intro x; have hx : OnlyIn [.tap] x1 x := (by repeat' (first | ((with_reducible apply OnlyIn.andThen (m := [.tap])); (on_goal 2 => (with_reducible apply ih)); (on_goal 2 => exact List.Subset.refl _)) | (with_reducible exact OnlyIn.refl _ _) | assumption | (with_reducible refine OnlyIn.ite' ?_ ?_) | (with_reducible apply OnlyIn.via; (first | ((with_reducible apply OnlyIn.andThen (m := [.tap])); (on_goal 2 => (with_reducible apply ih)); (on_goal 2 => exact List.Subset.refl _)) | apply tapPut_only); on_goal 1 => decide) | split | (with_reducible refine OnlyIn.upd_tap ?_ (by decide)) | (with_reducible refine OnlyIn.upd ?_ (by constructor <;> first | (with_reducible rfl) | (with_reducible exact .inr rfl) | exact .inl (by decide))))); clear_value x) | (intro x) | lift_lets | (with_reducible exact OnlyIn.refl _ _) | assumption | (with_reducible refine OnlyIn.ite' ?_ ?_) | (with_reducible apply OnlyIn.via; (first | ((with_reducible apply OnlyIn.andThen (m := [.tap])); (on_goal 2 => (with_reducible apply ih)); (on_goal 2 => exact List.Subset.refl _)) | apply tapPut_only); on_goal 1 => decide) | split | (with_reducible refine OnlyIn.upd_tap ?_ (by decide)))

theorem putHalt_only (typ : ℕ) (s : State) :
    OnlyIn [.tap] s (putHalt typ s) := by
  unfold putHalt
  try dsimp only
  repeat' (first | (with_reducible exact OnlyIn.refl _ _) | (with_reducible refine OnlyIn.ite' ?_ ?_) | (with_reducible apply OnlyIn.via; (first | apply tapPut_only); on_goal 1 => decide) | split | (with_reducible refine OnlyIn.upd_tap ?_ (by decide)))

theorem putLevel_only (p : ℕ) (n : ℕ) (s : State) :
    OnlyIn [.tap] s (putLevel p n s) := by
  unfold putLevel
  try dsimp only
  repeat' (first | (with_reducible exact OnlyIn.refl _ _) | (with_reducible refine OnlyIn.ite' ?_ ?_) | (with_reducible apply OnlyIn.via; (first | apply tapPut_only); on_goal 1 => decide) | split | (with_reducible refine OnlyIn.upd_tap ?_ (by decide)))

theorem levelChanged_only (p : ℕ) (s : State) :
    OnlyIn [.tap] s (levelChanged p s) := by
  unfold levelChanged
  try dsimp only
  repeat' (first | (with_reducible exact OnlyIn.refl _ _) | (with_reducible refine OnlyIn.ite' ?_ ?_) | (with_reducible apply OnlyIn.via; (first | apply putLevel_only); on_goal 1 => decide))

theorem showKeys_only (p : ℕ) (s : State) :
    OnlyIn [.regs] s (showKeys p s) := by
  unfold showKeys
  try dsimp only
  repeat' (first | (with_reducible exact OnlyIn.refl _ _) | (with_reducible refine OnlyIn.ite' ?_ ?_) | (with_reducible apply OnlyIn.via; (first | apply setValBits_only); on_goal 1 => decide))

theorem setPstate_only (p : ℕ) (st : ℕ) (s : State) :
    OnlyIn [.regs] s (setPstate p st s) := by
  unfold setPstate
  try dsimp only
  repeat' (first | (with_reducible exact OnlyIn.refl _ _) | (with_reducible refine OnlyIn.ite' ?_ ?_) | (with_reducible apply OnlyIn.via; (first | apply setValBits_only); on_goal 1 => decide))

theorem beginRelease_only (c : Cmd) (s : State) :
    OnlyIn [.out, .freeCnt, .regs, .host, .cmds, .mgmt, .sec] s (beginRelease c s) := by
  unfold beginRelease
  try dsimp only
  repeat' (first | exact List.Subset.refl _ | decide | (with_reducible exact OnlyIn.refl _ _) | (with_reducible refine OnlyIn.ite' ?_ ?_) | (with_reducible apply OnlyIn.via; (first | apply setPstate_only | apply endAtAdmission_only | apply finish_only); on_goal 1 => decide) | ((with_reducible apply OnlyIn.andThen (m := [.out, .freeCnt, .regs, .host, .cmds, .mgmt, .sec])); (on_goal 2 => (with_reducible apply forEach_only))) | ((with_reducible apply OnlyIn.andThen (m := [.out, .freeCnt, .regs, .host, .cmds, .mgmt, .sec])); (on_goal 2 => (with_reducible apply OnlyIn.forEach; intro _ _)); (on_goal 3 => exact List.Subset.refl _)) | split | (with_reducible refine OnlyIn.upd_sec ?_ (by decide)))

theorem checkRelease_only (c : Cmd) (s : State) :
    OnlyIn [.out, .freeCnt, .regs, .host, .cmds, .mgmt, .sec] s (checkRelease c s) := by
  unfold checkRelease
  try dsimp only
  repeat' (first | (with_reducible exact OnlyIn.refl _ _) | (with_reducible refine OnlyIn.ite' ?_ ?_) | (with_reducible apply OnlyIn.via; (first | apply endAtAdmission_only | apply finish_only | apply beginRelease_only); on_goal 1 => decide) | split)

theorem endRelease_only (p : ℕ) (failures : ℕ) (r : RelRun) (s : State) :
    OnlyIn [.out, .freeCnt, .regs, .host, .cmds, .mgmt, .tap, .sec, .act] s (endRelease p failures r s) := by
  unfold endRelease
  try dsimp only
  repeat' (first | exact List.Subset.refl _ | decide | (with_reducible exact OnlyIn.refl _ _) | (with_reducible refine OnlyIn.ite' ?_ ?_) | (with_reducible apply OnlyIn.via; (first | apply setVal64_only | apply showKeys_only | apply flushCount_only | apply tapPut_only | apply setAct_only | apply setPstate_only | apply endAtAdmission_only | apply finish_only | apply checkRelease_only); on_goal 1 => decide) | ((with_reducible apply OnlyIn.andThen (m := [.out, .freeCnt, .regs, .host, .cmds, .mgmt, .tap, .sec, .act])); (on_goal 2 => (with_reducible apply forEach_only))) | ((with_reducible apply OnlyIn.andThen (m := [.out, .freeCnt, .regs, .host, .cmds, .mgmt, .tap, .sec, .act])); (on_goal 2 => (with_reducible apply OnlyIn.forEach; intro _ _)); (on_goal 3 => exact List.Subset.refl _)) | split | (with_reducible refine OnlyIn.upd_tap ?_ (by decide)) | (with_reducible refine OnlyIn.upd_sec ?_ (by decide)))

theorem finishRelease_only (p : ℕ) (s : State) :
    OnlyIn [.out, .freeCnt, .regs, .host, .cmds, .mgmt, .tap, .sec, .act] s (finishRelease p s) := by
  unfold finishRelease
  try dsimp only
  repeat' (first | (with_reducible exact OnlyIn.refl _ _) | (with_reducible refine OnlyIn.ite' ?_ ?_) | (with_reducible apply OnlyIn.via; (first | apply endRelease_only); on_goal 1 => decide) | split)

theorem finishReleases_only (s : State) :
    OnlyIn [.out, .freeCnt, .regs, .host, .cmds, .mgmt, .tap, .sec, .act] s (finishReleases s) := by
  unfold finishReleases
  try dsimp only
  repeat' (first | exact List.Subset.refl _ | decide | (with_reducible exact OnlyIn.refl _ _) | (with_reducible refine OnlyIn.ite' ?_ ?_) | (with_reducible apply OnlyIn.via; (first | apply finishRelease_only); on_goal 1 => decide) | ((with_reducible apply OnlyIn.andThen (m := [.out, .freeCnt, .regs, .host, .cmds, .mgmt, .tap, .sec, .act])); (on_goal 2 => (with_reducible apply forEach_only))) | ((with_reducible apply OnlyIn.andThen (m := [.out, .freeCnt, .regs, .host, .cmds, .mgmt, .tap, .sec, .act])); (on_goal 2 => (with_reducible apply OnlyIn.forEach; intro _ _)); (on_goal 3 => exact List.Subset.refl _)))

theorem admitErase_only (c : Cmd) (s : State) :
    OnlyIn [.out, .freeCnt, .regs, .host, .cmds, .mgmt, .sec] s (admitErase c s) := by
  unfold admitErase
  try dsimp only
  repeat' (first | (with_reducible exact OnlyIn.refl _ _) | (with_reducible refine OnlyIn.ite' ?_ ?_) | (with_reducible apply OnlyIn.via; (first | apply admitCmd_only | apply endAtAdmission_only | apply finish_only | apply showKeys_only); on_goal 1 => decide) | split | (with_reducible refine OnlyIn.upd_sec ?_ (by decide)))

theorem keyInput_only (c : Cmd) (g : Got) (s : State) :
    OnlyIn [.out, .freeCnt, .regs, .host, .cmds, .mgmt, .sec] s (keyInput c g s) := by
  unfold keyInput
  try dsimp only
  repeat' (first | (with_reducible exact OnlyIn.refl _ _) | (with_reducible refine OnlyIn.ite' ?_ ?_) | (with_reducible apply OnlyIn.via; (first | apply endAtAdmission_only | apply finish_only | apply showKeys_only); on_goal 1 => decide) | split | (with_reducible refine OnlyIn.upd_sec ?_ (by decide)))

theorem admitImport_only (c : Cmd) (s : State) :
    OnlyIn [.out, .freeCnt, .regs, .host, .cmds, .seqs, .mgmt, .tap, .fab, .rma, .sec, .act] s (admitImport c s) := by
  unfold admitImport
  try dsimp only
  repeat' (first | (with_reducible exact OnlyIn.refl _ _) | (with_reducible refine OnlyIn.ite' ?_ ?_) | (with_reducible apply OnlyIn.via; (first | apply admitCmd_only | apply startRead_only | apply keyInput_only | apply endAtAdmission_only | apply finish_only); on_goal 1 => decide) | (with_reducible apply OnlyIn.via; (on_goal 1 => (with_reducible refine .ofPair (by assumption) (startRead_only ..))); on_goal 1 => decide) | split)

theorem admitAttest_only (c : Cmd) (s : State) :
    OnlyIn [.out, .freeCnt, .regs, .host, .cmds, .seqs, .mgmt, .tap, .mem, .fab, .rma, .deck, .sec, .cells, .act] s (admitAttest c s) := by
  unfold admitAttest
  try dsimp only
  repeat' (first | (with_reducible exact OnlyIn.refl _ _) | (with_reducible refine OnlyIn.ite' ?_ ?_) | (with_reducible apply OnlyIn.via; (first | apply endAtAdmission_only | apply finish_only | apply admitCmd_only | apply deliver_only); on_goal 1 => decide))

theorem admitRelease_only (c : Cmd) (s : State) :
    OnlyIn [.out, .freeCnt, .regs, .host, .cmds, .mgmt, .sec] s (admitRelease c s) := by
  unfold admitRelease
  try dsimp only
  repeat' (first | (with_reducible exact OnlyIn.refl _ _) | (with_reducible refine OnlyIn.ite' ?_ ?_) | (with_reducible apply OnlyIn.via; (first | apply admitCmd_only | apply endAtAdmission_only | apply finish_only | apply checkRelease_only); on_goal 1 => decide))

theorem dbgDone_only (write : Bool) (st : Status) (s : State) :
    OnlyIn [.regs] s (dbgDone write st s) := by
  unfold dbgDone
  try dsimp only
  repeat' (first | (with_reducible exact OnlyIn.refl _ _) | (with_reducible refine OnlyIn.ite' ?_ ?_) | (with_reducible apply OnlyIn.via; (first | apply setVal_only); on_goal 1 => decide))

theorem touch_only (ps : List ℕ) (s : State) :
    OnlyIn [.regs] s (touch ps s) := by
  unfold touch
  try dsimp only
  repeat' (first | (with_reducible exact OnlyIn.refl _ _) | (with_reducible refine OnlyIn.ite' ?_ ?_) | (with_reducible apply OnlyIn.via; (first | apply setVal64_only); on_goal 1 => decide))

theorem dbgStore_only (space : ℕ) (a : ℕ) (d : List Byte) (s : State) :
    OnlyIn [.mem, .sec, .cells] s (dbgStore space a d s) := by
  unfold dbgStore
  try dsimp only
  repeat' (first | (with_reducible exact OnlyIn.refl _ _) | (with_reducible refine OnlyIn.ite' ?_ ?_) | (with_reducible apply OnlyIn.via; (first | apply writeMem_only | apply setUnit_only); on_goal 1 => decide) | split | (with_reducible refine OnlyIn.upd_sec ?_ (by decide)))

theorem dbgAccess_only (w : Writer) (write : Bool) (s : State) :
    OnlyIn [.freeCnt, .regs, .mem, .sec, .cells] s (dbgAccess w write s) := by
  unfold dbgAccess
  try dsimp only
  repeat' (first | exact List.Subset.refl _ | decide | (with_reducible exact OnlyIn.refl _ _) | (with_reducible refine OnlyIn.ite' ?_ ?_) | (with_reducible apply OnlyIn.via; (first | apply rejectWrite_only | apply dbgDone_only | apply stepFree_only | apply setValBits_only | apply touch_only | apply dbgStore_only | apply setVal_only); on_goal 1 => decide) | ((with_reducible apply OnlyIn.andThen (m := [.freeCnt, .regs, .mem, .sec, .cells])); (on_goal 2 => (with_reducible apply forEach_only))) | ((with_reducible apply OnlyIn.andThen (m := [.freeCnt, .regs, .mem, .sec, .cells])); (on_goal 2 => (with_reducible apply OnlyIn.forEach; intro _ _)); (on_goal 3 => exact List.Subset.refl _)) | split)

theorem execSecDbgRead_only (w : Writer) (s : State) {t' : State} (h : (execSecDbgRead w s) = .next t') :
    OnlyIn [.freeCnt, .regs, .mem, .sec, .cells] s t' := by
  unfold execSecDbgRead at h
  try dsimp only at h
  repeat' (first | cases h | split at h)
  all_goals repeat' (first | (with_reducible exact OnlyIn.refl _ _) | (with_reducible refine OnlyIn.ite' ?_ ?_) | (with_reducible apply OnlyIn.via; (first | apply dbgAccess_only); on_goal 1 => decide))

theorem execSecDbgWrite_only (w : Writer) (s : State) {t' : State} (h : (execSecDbgWrite w s) = .next t') :
    OnlyIn [.freeCnt, .regs, .mem, .sec, .cells] s t' := by
  unfold execSecDbgWrite at h
  try dsimp only at h
  repeat' (first | cases h | split at h)
  all_goals repeat' (first | (with_reducible exact OnlyIn.refl _ _) | (with_reducible refine OnlyIn.ite' ?_ ?_) | (with_reducible apply OnlyIn.via; (first | apply dbgAccess_only); on_goal 1 => decide))

theorem writeTraceCtl_only (w : Writer) (v : ℕ) (s : State) :
    OnlyIn [.regs, .sec] s (writeTraceCtl w v s) := by
  unfold writeTraceCtl
  try dsimp only
  repeat' (first | (with_reducible exact OnlyIn.refl _ _) | (with_reducible refine OnlyIn.ite' ?_ ?_) | (with_reducible apply OnlyIn.via; (first | apply rejectWrite_only | apply setVal_only | apply showTrace_only); on_goal 1 => decide) | split | (with_reducible refine OnlyIn.upd_sec ?_ (by decide)))

theorem execSecTraceCtlWrite_only (w : Writer) (v : BitVec 32) (s : State) {t' : State} (h : (execSecTraceCtlWrite w v s) = .next t') :
    OnlyIn [.regs, .sec] s t' := by
  unfold execSecTraceCtlWrite at h
  try dsimp only at h
  repeat' (first | cases h | split at h)
  all_goals repeat' (first | (with_reducible exact OnlyIn.refl _ _) | (with_reducible refine OnlyIn.ite' ?_ ?_) | (with_reducible apply OnlyIn.via; (first | apply writeTraceCtl_only); on_goal 1 => decide))

theorem expertAccess_only (w : Writer) (off : ℕ) (write : Bool) (s : State) :
    OnlyIn [.regs] s (expertAccess w off write s) := by
  unfold expertAccess
  try dsimp only
  repeat' (first | (with_reducible exact OnlyIn.refl _ _) | (with_reducible refine OnlyIn.ite' ?_ ?_) | (with_reducible apply OnlyIn.via; (first | apply rejectWrite_only | apply touch_only | apply setValBits_only); on_goal 1 => decide) | split)

theorem execExpertWindowAccess_only (w : Writer) (off : BitVec 20) (wr : Option (BitVec 32)) (s : State) {t' : State} (h : (execExpertWindowAccess w off wr s) = .next t') :
    OnlyIn [.regs] s t' := by
  unfold execExpertWindowAccess at h
  try dsimp only at h
  repeat' (first | cases h | split at h)
  all_goals repeat' (first | (with_reducible exact OnlyIn.refl _ _) | (with_reducible refine OnlyIn.ite' ?_ ?_) | (with_reducible apply OnlyIn.via; (first | apply expertAccess_only); on_goal 1 => decide))

theorem execKeyImportFabric_only (ring : ℕ) (rseq : BitVec 32) (s : State) {t' : State} (h : (execKeyImportFabric ring rseq s) = .next t') :
    OnlyIn [.out, .freeCnt, .regs, .host, .cmds, .seqs, .mgmt, .tap, .fab, .rma, .sec, .act] s t' := by
  unfold execKeyImportFabric at h
  try dsimp only at h
  repeat' (first | cases h | split at h)
  all_goals repeat' (first | exact List.Subset.refl _ | decide | (with_reducible exact OnlyIn.refl _ _) | (with_reducible refine OnlyIn.ite' ?_ ?_) | (with_reducible apply OnlyIn.via; (first | apply admitImport_only); on_goal 1 => decide) | ((with_reducible apply OnlyIn.andThen (m := [.out, .freeCnt, .regs, .host, .cmds, .seqs, .mgmt, .tap, .fab, .rma, .sec, .act])); (on_goal 2 => (with_reducible apply admitting_only))) | split | intro x)

theorem execKeyImportWindow_only (ring : ℕ) (rseq : BitVec 32) (s : State) {t' : State} (h : (execKeyImportWindow ring rseq s) = .next t') :
    OnlyIn [.out, .freeCnt, .regs, .host, .cmds, .seqs, .mgmt, .tap, .fab, .rma, .sec, .act] s t' := by
  unfold execKeyImportWindow at h
  try dsimp only at h
  repeat' (first | cases h | split at h)
  all_goals repeat' (first | exact List.Subset.refl _ | decide | (with_reducible exact OnlyIn.refl _ _) | (with_reducible refine OnlyIn.ite' ?_ ?_) | (with_reducible apply OnlyIn.via; (first | apply admitImport_only); on_goal 1 => decide) | ((with_reducible apply OnlyIn.andThen (m := [.out, .freeCnt, .regs, .host, .cmds, .seqs, .mgmt, .tap, .fab, .rma, .sec, .act])); (on_goal 2 => (with_reducible apply admitting_only))) | split | intro x)

theorem execKeyErase_only (ring : ℕ) (rseq : BitVec 32) (s : State) {t' : State} (h : (execKeyErase ring rseq s) = .next t') :
    OnlyIn [.out, .freeCnt, .regs, .host, .cmds, .mgmt, .sec] s t' := by
  unfold execKeyErase at h
  try dsimp only at h
  repeat' (first | cases h | split at h)
  all_goals repeat' (first | exact List.Subset.refl _ | decide | (with_reducible exact OnlyIn.refl _ _) | (with_reducible refine OnlyIn.ite' ?_ ?_) | (with_reducible apply OnlyIn.via; (first | apply admitErase_only); on_goal 1 => decide) | ((with_reducible apply OnlyIn.andThen (m := [.out, .freeCnt, .regs, .host, .cmds, .mgmt, .sec])); (on_goal 2 => (with_reducible apply admitting_only))) | split | intro x)

theorem execAttest_only (ring : ℕ) (rseq : BitVec 32) (s : State) {t' : State} (h : (execAttest ring rseq s) = .next t') :
    OnlyIn [.out, .freeCnt, .regs, .host, .cmds, .seqs, .mgmt, .tap, .mem, .fab, .rma, .deck, .sec, .cells, .act] s t' := by
  unfold execAttest at h
  try dsimp only at h
  repeat' (first | cases h | split at h)
  all_goals repeat' (first | exact List.Subset.refl _ | decide | (with_reducible exact OnlyIn.refl _ _) | (with_reducible refine OnlyIn.ite' ?_ ?_) | (with_reducible apply OnlyIn.via; (first | apply admitAttest_only); on_goal 1 => decide) | ((with_reducible apply OnlyIn.andThen (m := [.out, .freeCnt, .regs, .host, .cmds, .seqs, .mgmt, .tap, .mem, .fab, .rma, .deck, .sec, .cells, .act])); (on_goal 2 => (with_reducible apply admitting_only))) | split | intro x)

theorem execRelease_only (ring : ℕ) (rseq : BitVec 32) (s : State) {t' : State} (h : (execRelease ring rseq s) = .next t') :
    OnlyIn [.out, .freeCnt, .regs, .host, .cmds, .mgmt, .sec] s t' := by
  unfold execRelease at h
  try dsimp only at h
  repeat' (first | cases h | split at h)
  all_goals repeat' (first | exact List.Subset.refl _ | decide | (with_reducible exact OnlyIn.refl _ _) | (with_reducible refine OnlyIn.ite' ?_ ?_) | (with_reducible apply OnlyIn.via; (first | apply admitRelease_only); on_goal 1 => decide) | ((with_reducible apply OnlyIn.andThen (m := [.out, .freeCnt, .regs, .host, .cmds, .mgmt, .sec])); (on_goal 2 => (with_reducible apply admitting_only))) | split | intro x)

theorem closeConns_only (p : ℕ) (s : State) :
    OnlyIn [.out, .freeCnt, .regs, .host, .cmds, .seqs, .mgmt, .rma, .sec] s (closeConns p s) := by
  unfold closeConns
  try dsimp only
  repeat' (first | exact List.Subset.refl _ | decide | (with_reducible exact OnlyIn.refl _ _) | (with_reducible refine OnlyIn.ite' ?_ ?_) | (with_reducible apply OnlyIn.via; (first | apply connLeft_only | apply modConn_only | apply freeConn_only); on_goal 1 => decide) | ((with_reducible apply OnlyIn.andThen (m := [.out, .freeCnt, .regs, .host, .cmds, .seqs, .mgmt, .rma, .sec])); (on_goal 2 => (with_reducible apply forEach_only))) | ((with_reducible apply OnlyIn.andThen (m := [.out, .freeCnt, .regs, .host, .cmds, .seqs, .mgmt, .rma, .sec])); (on_goal 2 => (with_reducible apply OnlyIn.forEach; intro _ _)); (on_goal 3 => exact List.Subset.refl _)))

theorem invalidate_only (p : ℕ) (s : State) :
    OnlyIn [.regs, .mem, .sec] s (invalidate p s) := by
  unfold invalidate
  try dsimp only
  repeat' (first | (with_reducible exact OnlyIn.refl _ _) | (with_reducible refine OnlyIn.ite' ?_ ?_) | (with_reducible apply OnlyIn.via; (first | apply showTrace_only); on_goal 1 => decide) | split | (with_reducible refine OnlyIn.upd_mem ?_ (by decide) (by first | (with_reducible exact .inr rfl) | exact .inl (by decide))) | (with_reducible refine OnlyIn.upd_sec ?_ (by decide)) | (with_reducible refine OnlyIn.upd ?_ (by constructor <;> first | (with_reducible rfl) | (with_reducible exact .inr rfl) | exact .inl (by decide))))

theorem clearObjects_only (p : ℕ) (s : State) :
    OnlyIn [.regs, .seqs, .shards, .retained, .walk, .rma, .act] s (clearObjects p s) := by
  unfold clearObjects
  try dsimp only
  repeat' (first | exact List.Subset.refl _ | decide | (with_reducible exact OnlyIn.refl _ _) | (with_reducible refine OnlyIn.ite' ?_ ?_) | (with_reducible apply OnlyIn.via; (first | apply setAct_only | apply showIndex_only | apply freeSeq_only); on_goal 1 => decide) | ((with_reducible apply OnlyIn.andThen (m := [.regs, .seqs, .shards, .retained, .walk, .rma, .act])); (on_goal 2 => (with_reducible apply forEach_only))) | ((with_reducible apply OnlyIn.andThen (m := [.regs, .seqs, .shards, .retained, .walk, .rma, .act])); (on_goal 2 => (with_reducible apply OnlyIn.forEach; intro _ _)); (on_goal 3 => exact List.Subset.refl _)) | split | (with_reducible refine OnlyIn.upd_shards ?_ (by decide)) | (with_reducible refine OnlyIn.upd_retained ?_ (by decide)) | (with_reducible refine OnlyIn.upd_walk ?_ (by decide)) | (with_reducible refine OnlyIn.upd_rma ?_ (by decide)) | (with_reducible refine OnlyIn.upd ?_ (by constructor <;> first | (with_reducible rfl) | (with_reducible exact .inr rfl) | exact .inl (by decide))))

theorem execReleaseProceed_only (p : ℕ) (s : State) {t' : State} (h : (execReleaseProceed p s) = .next t') :
    OnlyIn [.out, .freeCnt, .regs, .host, .cmds, .seqs, .shards, .retained, .mgmt, .mem, .walk, .rma, .sec, .act] s t' := by
  unfold execReleaseProceed at h
  try dsimp only at h
  repeat' (first | cases h | split at h)
  all_goals repeat' (first | (with_reducible exact OnlyIn.refl _ _) | (with_reducible refine OnlyIn.ite' ?_ ?_) | (with_reducible apply OnlyIn.via; (first | apply closeConns_only | apply invalidate_only | apply clearObjects_only); on_goal 1 => decide) | split | (with_reducible refine OnlyIn.upd_sec ?_ (by decide)))

theorem fillEvent_only (p : ℕ) (i : ℕ) (s : State) :
    OnlyIn [.out, .host, .mgmt] s (fillEvent p i s) := by
  unfold fillEvent
  try dsimp only
  repeat' (first | (with_reducible exact OnlyIn.refl _ _) | (with_reducible refine OnlyIn.ite' ?_ ?_) | (with_reducible apply OnlyIn.via; (first | apply post_only); on_goal 1 => decide))

theorem fillMemory_only (runs : List (ℕ × ℕ)) (s : State) :
    OnlyIn [.mem, .cells] s (fillMemory runs s) := by
  unfold fillMemory
  try dsimp only
  repeat' (first | (with_reducible exact OnlyIn.refl _ _) | (with_reducible refine OnlyIn.ite' ?_ ?_) | split | (with_reducible refine OnlyIn.upd_mem ?_ (by decide) (by first | (with_reducible exact .inr rfl) | exact .inl (by decide))))

theorem execReleaseFillDone_only (p : ℕ) (failures : ℕ) (s : State) {t' : State} (h : (execReleaseFillDone p failures s) = .next t') :
    OnlyIn [.out, .freeCnt, .regs, .host, .cmds, .mgmt, .tap, .mem, .sec, .cells, .act] s t' := by
  unfold execReleaseFillDone at h
  try dsimp only at h
  repeat' (first | cases h | split at h)
  all_goals repeat' (first | exact List.Subset.refl _ | decide | (with_reducible exact OnlyIn.refl _ _) | (with_reducible refine OnlyIn.ite' ?_ ?_) | (with_reducible apply OnlyIn.via; (first | apply fillEvent_only | apply fillMemory_only | apply finishRelease_only | apply skipFree_only); on_goal 1 => decide) | ((with_reducible apply OnlyIn.andThen (m := [.out, .freeCnt, .regs, .host, .cmds, .mgmt, .tap, .mem, .sec, .cells, .act])); (on_goal 2 => (with_reducible apply forEach_only))) | ((with_reducible apply OnlyIn.andThen (m := [.out, .freeCnt, .regs, .host, .cmds, .mgmt, .tap, .mem, .sec, .cells, .act])); (on_goal 2 => (with_reducible apply OnlyIn.forEach; intro _ _)); (on_goal 3 => exact List.Subset.refl _)) | split | (with_reducible refine OnlyIn.upd_sec ?_ (by decide)))

theorem signStmt_only (kind : ℕ) (p : ℕ) (s : State) :
    OnlyIn [.assay] s (signStmt kind p s) := by
  unfold signStmt
  try dsimp only
  repeat' (first | (with_reducible exact OnlyIn.refl _ _) | (with_reducible refine OnlyIn.ite' ?_ ?_) | split | (with_reducible refine OnlyIn.upd_assay ?_ (by decide)))

theorem signActive_only (kind : ℕ) (s : State) :
    OnlyIn [.assay] s (signActive kind s) := by
  unfold signActive
  try dsimp only
  repeat' (first | exact List.Subset.refl _ | decide | (with_reducible exact OnlyIn.refl _ _) | (with_reducible refine OnlyIn.ite' ?_ ?_) | (with_reducible apply OnlyIn.via; (first | apply signStmt_only); on_goal 1 => decide) | ((with_reducible apply OnlyIn.andThen (m := [.assay])); (on_goal 2 => (with_reducible apply forEach_only))) | ((with_reducible apply OnlyIn.andThen (m := [.assay])); (on_goal 2 => (with_reducible apply OnlyIn.forEach; intro _ _)); (on_goal 3 => exact List.Subset.refl _)))

theorem tapFreed_only (s : State) :
    OnlyIn [.out, .freeCnt, .regs, .host, .cmds, .mgmt, .tap, .sec, .act] s (tapFreed s) := by
  unfold tapFreed
  try dsimp only
  repeat' (first | (with_reducible exact OnlyIn.refl _ _) | (with_reducible refine OnlyIn.ite' ?_ ?_) | (with_reducible apply OnlyIn.via; (first | apply finishReleases_only | apply placeHeld_only); on_goal 1 => decide))

theorem assayClock_only (t : ℕ) (s : State) :
    OnlyIn [.assay] s (assayClock t s) := by
  unfold assayClock
  try dsimp only
  repeat' (first | (with_reducible exact OnlyIn.refl _ _) | (with_reducible refine OnlyIn.ite' ?_ ?_) | split | (with_reducible refine OnlyIn.upd_assay ?_ (by decide)))

theorem execAssayRxCount_only (s : State) {t' : State} (h : (execAssayRxCount s) = .next t') :
    OnlyIn [.out, .freeCnt, .regs, .host, .cmds, .mgmt, .tap, .assay, .sec, .act] s t' := by
  unfold execAssayRxCount at h
  unfold assayTake at h
  try dsimp only at h
  repeat' (first | cases h | split at h)
  all_goals repeat' (first | (with_reducible exact OnlyIn.refl _ _) | (with_reducible refine OnlyIn.ite' ?_ ?_) | (with_reducible apply OnlyIn.via; (first | apply emit_only | apply tapFreed_only); on_goal 1 => decide) | split | (with_reducible refine OnlyIn.upd_tap ?_ (by decide)) | (with_reducible refine OnlyIn.upd_assay ?_ (by decide)))

theorem accrue_only (p : ℕ) (level : ℕ) (t : ℕ) (s : State) :
    OnlyIn [.assay] s (accrue p level t s) := by
  unfold accrue
  try dsimp only
  repeat' (first | (with_reducible exact OnlyIn.refl _ _) | (with_reducible refine OnlyIn.ite' ?_ ?_) | split | (with_reducible refine OnlyIn.upd_assay ?_ (by decide)))

theorem execAssayRxLevel_only (t : ℕ) (s : State) {t' : State} (h : (execAssayRxLevel t s) = .next t') :
    OnlyIn [.out, .freeCnt, .regs, .host, .cmds, .mgmt, .tap, .assay, .sec, .act] s t' := by
  unfold execAssayRxLevel at h
  unfold assayTake at h
  try dsimp only at h
  repeat' (first | cases h | split at h)
  all_goals repeat' (first | (with_reducible exact OnlyIn.refl _ _) | (with_reducible refine OnlyIn.ite' ?_ ?_) | (with_reducible apply OnlyIn.via; (first | apply accrue_only | apply assayClock_only | apply emit_only | apply tapFreed_only); on_goal 1 => decide) | split | (with_reducible refine OnlyIn.upd_tap ?_ (by decide)) | (with_reducible refine OnlyIn.upd_assay ?_ (by decide)))

theorem execAssayRxOpen_only (t : ℕ) (s : State) {t' : State} (h : (execAssayRxOpen t s) = .next t') :
    OnlyIn [.out, .freeCnt, .regs, .host, .cmds, .mgmt, .tap, .assay, .sec, .act] s t' := by
  unfold execAssayRxOpen at h
  unfold assayTake at h
  try dsimp only at h
  repeat' (first | cases h | split at h)
  all_goals repeat' (first | (with_reducible exact OnlyIn.refl _ _) | (with_reducible refine OnlyIn.ite' ?_ ?_) | (with_reducible apply OnlyIn.via; (first | apply assayClock_only | apply signStmt_only | apply emit_only | apply tapFreed_only); on_goal 1 => decide) | split | (with_reducible refine OnlyIn.upd_tap ?_ (by decide)) | (with_reducible refine OnlyIn.upd_assay ?_ (by decide)))

theorem execAssayRxClose_only (s : State) {t' : State} (h : (execAssayRxClose s) = .next t') :
    OnlyIn [.out, .freeCnt, .regs, .host, .cmds, .mgmt, .tap, .assay, .sec, .act] s t' := by
  unfold execAssayRxClose at h
  unfold assayTake at h
  try dsimp only at h
  repeat' (first | cases h | split at h)
  all_goals repeat' (first | (with_reducible exact OnlyIn.refl _ _) | (with_reducible refine OnlyIn.ite' ?_ ?_) | (with_reducible apply OnlyIn.via; (first | apply signStmt_only | apply emit_only | apply tapFreed_only); on_goal 1 => decide) | split | (with_reducible refine OnlyIn.upd_tap ?_ (by decide)) | (with_reducible refine OnlyIn.upd_assay ?_ (by decide)))

theorem execAssayRxHalt_only (s : State) {t' : State} (h : (execAssayRxHalt s) = .next t') :
    OnlyIn [.out, .freeCnt, .regs, .host, .cmds, .mgmt, .tap, .assay, .sec, .act] s t' := by
  unfold execAssayRxHalt at h
  unfold assayTake at h
  try dsimp only at h
  repeat' (first | cases h | split at h)
  all_goals repeat' (first | (with_reducible exact OnlyIn.refl _ _) | (with_reducible refine OnlyIn.ite' ?_ ?_) | (with_reducible apply OnlyIn.via; (first | apply signActive_only | apply emit_only | apply tapFreed_only); on_goal 1 => decide) | split | (with_reducible refine OnlyIn.upd_tap ?_ (by decide)) | (with_reducible refine OnlyIn.upd_assay ?_ (by decide)))

theorem execAssayRxResume_only (s : State) {t' : State} (h : (execAssayRxResume s) = .next t') :
    OnlyIn [.out, .freeCnt, .regs, .host, .cmds, .mgmt, .tap, .assay, .sec, .act] s t' := by
  unfold execAssayRxResume at h
  unfold assayTake at h
  try dsimp only at h
  repeat' (first | cases h | split at h)
  all_goals repeat' (first | (with_reducible exact OnlyIn.refl _ _) | (with_reducible refine OnlyIn.ite' ?_ ?_) | (with_reducible apply OnlyIn.via; (first | apply signActive_only | apply emit_only | apply tapFreed_only); on_goal 1 => decide) | split | (with_reducible refine OnlyIn.upd_tap ?_ (by decide)) | (with_reducible refine OnlyIn.upd_assay ?_ (by decide)))

theorem execAssayRxRestart_only (t : ℕ) (s : State) {t' : State} (h : (execAssayRxRestart t s) = .next t') :
    OnlyIn [.out, .freeCnt, .regs, .host, .cmds, .mgmt, .tap, .assay, .sec, .act] s t' := by
  unfold execAssayRxRestart at h
  unfold assayTake at h
  try dsimp only at h
  repeat' (first | cases h | split at h)
  all_goals repeat' (first | exact List.Subset.refl _ | decide | (with_reducible exact OnlyIn.refl _ _) | (with_reducible refine OnlyIn.ite' ?_ ?_) | (with_reducible apply OnlyIn.via; (first | apply accrue_only | apply assayClock_only | apply emit_only | apply tapFreed_only); on_goal 1 => decide) | ((with_reducible apply OnlyIn.andThen (m := [.out, .freeCnt, .regs, .host, .cmds, .mgmt, .tap, .assay, .sec, .act])); (on_goal 2 => (with_reducible apply forEach_only))) | ((with_reducible apply OnlyIn.andThen (m := [.out, .freeCnt, .regs, .host, .cmds, .mgmt, .tap, .assay, .sec, .act])); (on_goal 2 => (with_reducible apply OnlyIn.forEach; intro _ _)); (on_goal 3 => exact List.Subset.refl _)) | split | (with_reducible refine OnlyIn.upd_tap ?_ (by decide)) | (with_reducible refine OnlyIn.upd_assay ?_ (by decide)))

theorem execAssayHeartbeatLoss_only (s : State) {t' : State} (h : (execAssayHeartbeatLoss s) = .next t') :
    OnlyIn [.tap] s t' := by
  unfold execAssayHeartbeatLoss at h
  try dsimp only at h
  repeat' (first | cases h | split at h)
  all_goals repeat' (first | (with_reducible exact OnlyIn.refl _ _) | (with_reducible refine OnlyIn.ite' ?_ ?_) | split | (with_reducible refine OnlyIn.upd_tap ?_ (by decide)))

theorem execAssayHeartbeatReturn_only (s : State) {t' : State} (h : (execAssayHeartbeatReturn s) = .next t') :
    OnlyIn [.tap] s t' := by
  unfold execAssayHeartbeatReturn at h
  try dsimp only at h
  repeat' (first | cases h | split at h)
  all_goals repeat' (first | (with_reducible exact OnlyIn.refl _ _) | (with_reducible refine OnlyIn.ite' ?_ ?_) | split | (with_reducible refine OnlyIn.upd_tap ?_ (by decide)))

theorem execAssayReadyChange_only (ready : Bool) (s : State) {t' : State} (h : (execAssayReadyChange ready s) = .next t') :
    OnlyIn [.tap] s t' := by
  unfold execAssayReadyChange at h
  try dsimp only at h
  repeat' (first | cases h | split at h)
  all_goals repeat' (first | (with_reducible exact OnlyIn.refl _ _) | (with_reducible refine OnlyIn.ite' ?_ ?_) | split | (with_reducible refine OnlyIn.upd_tap ?_ (by decide)))

theorem execAssayPeriodicStatement_only (s : State) {t' : State} (h : (execAssayPeriodicStatement s) = .next t') :
    OnlyIn [.assay] s t' := by
  unfold execAssayPeriodicStatement at h
  try dsimp only at h
  repeat' (first | cases h | split at h)
  all_goals repeat' (first | (with_reducible exact OnlyIn.refl _ _) | (with_reducible refine OnlyIn.ite' ?_ ?_) | (with_reducible apply OnlyIn.via; (first | apply signActive_only); on_goal 1 => decide) | split | (with_reducible refine OnlyIn.upd_assay ?_ (by decide)))

theorem execAssayNvmSave_only (s : State) {t' : State} (h : (execAssayNvmSave s) = .next t') :
    OnlyIn [.assay] s t' := by
  unfold execAssayNvmSave at h
  try dsimp only at h
  repeat' (first | cases h | split at h)
  all_goals repeat' (first | (with_reducible exact OnlyIn.refl _ _) | (with_reducible refine OnlyIn.ite' ?_ ?_) | split | (with_reducible refine OnlyIn.upd_assay ?_ (by decide)))

theorem execAssaySealBreach_only (s : State) {t' : State} (h : (execAssaySealBreach s) = .next t') :
    OnlyIn [.out, .assay] s t' := by
  unfold execAssaySealBreach at h
  try dsimp only at h
  repeat' (first | cases h | split at h)
  all_goals repeat' (first | (with_reducible exact OnlyIn.refl _ _) | (with_reducible refine OnlyIn.ite' ?_ ?_) | (with_reducible apply OnlyIn.via; (first | apply emit_only); on_goal 1 => decide) | split | (with_reducible refine OnlyIn.upd_assay ?_ (by decide)))

theorem assayAnswer_only (typ : ℕ) (data : List Byte) (s : State) :
    OnlyIn [.out] s (assayAnswer typ data s) := by
  unfold assayAnswer
  try dsimp only
  repeat' (first | (with_reducible exact OnlyIn.refl _ _) | (with_reducible refine OnlyIn.ite' ?_ ?_) | (with_reducible apply OnlyIn.via; (first | apply emitAll_only); on_goal 1 => decide))

theorem assayResult_only (st : Status) (s : State) :
    OnlyIn [.out] s (assayResult st s) := by
  unfold assayResult
  try dsimp only
  repeat' (first | (with_reducible exact OnlyIn.refl _ _) | (with_reducible refine OnlyIn.ite' ?_ ?_) | (with_reducible apply OnlyIn.via; (first | apply assayAnswer_only); on_goal 1 => decide))

theorem execGetStatement_only (p : ℕ) (s : State) {t' : State} (h : (execGetStatement p s) = .next t') :
    OnlyIn [.out, .assay] s t' := by
  unfold execGetStatement at h
  unfold assayMsg at h
  try dsimp only at h
  repeat' (first | cases h | split at h)
  all_goals repeat' (first | (with_reducible exact OnlyIn.refl _ _) | (with_reducible refine OnlyIn.ite' ?_ ?_) | (with_reducible apply OnlyIn.via; (first | apply assayResult_only | apply signStmt_only | apply assayAnswer_only); on_goal 1 => decide) | split)

theorem execGetByAseq_only (aseq : BitVec 64) (s : State) {t' : State} (h : (execGetByAseq aseq s) = .next t') :
    OnlyIn [.out] s t' := by
  unfold execGetByAseq at h
  unfold assayMsg at h
  try dsimp only at h
  repeat' (first | cases h | split at h)
  all_goals repeat' (first | (with_reducible exact OnlyIn.refl _ _) | (with_reducible refine OnlyIn.ite' ?_ ?_) | (with_reducible apply OnlyIn.via; (first | apply assayAnswer_only | apply assayResult_only); on_goal 1 => decide) | split)

theorem execGetCert_only (s : State) {t' : State} (h : (execGetCert s) = .next t') :
    OnlyIn [.out] s t' := by
  unfold execGetCert at h
  unfold assayMsg at h
  try dsimp only at h
  repeat' (first | cases h | split at h)
  all_goals repeat' (first | (with_reducible exact OnlyIn.refl _ _) | (with_reducible refine OnlyIn.ite' ?_ ?_) | (with_reducible apply OnlyIn.via; (first | apply assayAnswer_only); on_goal 1 => decide))

theorem execGetStatus_only (s : State) {t' : State} (h : (execGetStatus s) = .next t') :
    OnlyIn [.out] s t' := by
  unfold execGetStatus at h
  unfold assayMsg at h
  try dsimp only at h
  repeat' (first | cases h | split at h)
  all_goals repeat' (first | (with_reducible exact OnlyIn.refl _ _) | (with_reducible refine OnlyIn.ite' ?_ ?_) | (with_reducible apply OnlyIn.via; (first | apply assayAnswer_only); on_goal 1 => decide))

theorem execPatchChunk_only (off : BitVec 32) (data : List Byte) (s : State) {t' : State} (h : (execPatchChunk off data s) = .next t') :
    OnlyIn [.out, .assay] s t' := by
  unfold execPatchChunk at h
  unfold assayMsg at h
  try dsimp only at h
  repeat' (first | cases h | split at h)
  all_goals repeat' (first | (with_reducible exact OnlyIn.refl _ _) | (with_reducible refine OnlyIn.ite' ?_ ?_) | (with_reducible apply OnlyIn.via; (first | apply assayResult_only); on_goal 1 => decide) | split | (with_reducible refine OnlyIn.upd_assay ?_ (by decide)))

theorem execPatchCommit_only (len : BitVec 32) (s : State) {t' : State} (h : (execPatchCommit len s) = .next t') :
    OnlyIn [.out, .tap, .assay] s t' := by
  unfold execPatchCommit at h
  unfold assayMsg at h
  try dsimp only at h
  repeat' (first | cases h | split at h)
  all_goals repeat' (first | (with_reducible exact OnlyIn.refl _ _) | (with_reducible refine OnlyIn.ite' ?_ ?_) | (with_reducible apply OnlyIn.via; (first | apply assayResult_only | apply signActive_only); on_goal 1 => decide) | split | (with_reducible refine OnlyIn.upd_tap ?_ (by decide)) | (with_reducible refine OnlyIn.upd_assay ?_ (by decide)) | (with_reducible refine OnlyIn.upd ?_ (by constructor <;> first | (with_reducible rfl) | (with_reducible exact .inr rfl) | exact .inl (by decide))))

theorem execAssayPatchRestart_only (s : State) {t' : State} (h : (execAssayPatchRestart s) = .next t') :
    OnlyIn [.out, .freeCnt, .tap, .assay] s t' := by
  unfold execAssayPatchRestart at h
  try dsimp only at h
  repeat' (first | cases h | split at h)
  all_goals repeat' (first | (with_reducible exact OnlyIn.refl _ _) | (with_reducible refine OnlyIn.ite' ?_ ?_) | (with_reducible apply OnlyIn.via; (first | apply emitAll_only | apply stepFree_only); on_goal 1 => decide) | split | (with_reducible refine OnlyIn.upd_tap ?_ (by decide)) | (with_reducible refine OnlyIn.upd_assay ?_ (by decide)) | (with_reducible refine OnlyIn.upd ?_ (by constructor <;> first | (with_reducible rfl) | (with_reducible exact .inr rfl) | exact .inl (by decide))))

theorem execAssaySetEndpointId_only (eid : BitVec 8) (s : State) {t' : State} (h : (execAssaySetEndpointId eid s) = .next t') :
    OnlyIn [.out, .assay] s t' := by
  unfold execAssaySetEndpointId at h
  unfold assayMsg at h
  try dsimp only at h
  repeat' (first | cases h | split at h)
  all_goals repeat' (first | (with_reducible exact OnlyIn.refl _ _) | (with_reducible refine OnlyIn.ite' ?_ ?_) | (with_reducible apply OnlyIn.via; (first | apply emit_only); on_goal 1 => decide) | split | (with_reducible refine OnlyIn.upd_assay ?_ (by decide)))

theorem execAssayGetEndpointId_only (s : State) {t' : State} (h : (execAssayGetEndpointId s) = .next t') :
    OnlyIn [.out] s t' := by
  unfold execAssayGetEndpointId at h
  unfold assayMsg at h
  try dsimp only at h
  repeat' (first | cases h | split at h)
  all_goals repeat' (first | (with_reducible exact OnlyIn.refl _ _) | (with_reducible refine OnlyIn.ite' ?_ ?_) | (with_reducible apply OnlyIn.via; (first | apply emit_only); on_goal 1 => decide))

theorem execAssayGetMctpVersion_only (s : State) {t' : State} (h : (execAssayGetMctpVersion s) = .next t') :
    OnlyIn [.out, .freeCnt] s t' := by
  unfold execAssayGetMctpVersion at h
  unfold assayMsg at h
  try dsimp only at h
  repeat' (first | cases h | split at h)
  all_goals repeat' (first | (with_reducible exact OnlyIn.refl _ _) | (with_reducible refine OnlyIn.ite' ?_ ?_) | (with_reducible apply OnlyIn.via; (first | apply stepFree_only | apply emit_only); on_goal 1 => decide))

theorem execAssayGetMessageTypes_only (s : State) {t' : State} (h : (execAssayGetMessageTypes s) = .next t') :
    OnlyIn [.out] s t' := by
  unfold execAssayGetMessageTypes at h
  unfold assayMsg at h
  try dsimp only at h
  repeat' (first | cases h | split at h)
  all_goals repeat' (first | (with_reducible exact OnlyIn.refl _ _) | (with_reducible refine OnlyIn.ite' ?_ ?_) | (with_reducible apply OnlyIn.via; (first | apply emit_only); on_goal 1 => decide))

theorem meteringEvents_only (st : Status) (s : State) :
    OnlyIn [.out, .host, .mgmt] s (meteringEvents st s) := by
  unfold meteringEvents
  try dsimp only
  repeat' (first | exact List.Subset.refl _ | decide | (with_reducible exact OnlyIn.refl _ _) | (with_reducible refine OnlyIn.ite' ?_ ?_) | (with_reducible apply OnlyIn.via; (first | apply postFn_only | apply postOwner_only); on_goal 1 => decide) | ((with_reducible apply OnlyIn.andThen (m := [.out, .host, .mgmt])); (on_goal 2 => (with_reducible apply forEach_only))) | ((with_reducible apply OnlyIn.andThen (m := [.out, .host, .mgmt])); (on_goal 2 => (with_reducible apply OnlyIn.forEach; intro _ _)); (on_goal 3 => exact List.Subset.refl _)))

theorem haltMetering_only (s : State) :
    OnlyIn [.out, .host, .mgmt, .tap, .fab, .deck] s (haltMetering s) := by
  unfold haltMetering
  try dsimp only
  repeat' (first | (with_reducible exact OnlyIn.refl _ _) | (with_reducible refine OnlyIn.ite' ?_ ?_) | (with_reducible apply OnlyIn.via; (first | apply putHalt_only | apply deckCause_only | apply meteringEvents_only); on_goal 1 => decide) | split | (with_reducible refine OnlyIn.upd_tap ?_ (by decide)))

theorem flushAll_only (x0 : List (ℕ × Option ℕ)) (x1 : State) :
    OnlyIn [.out, .host, .mgmt, .tap, .fab, .deck] x1 (flushAll x0 x1) := by
  induction x0 generalizing x1 with
  | nil => exact OnlyIn.refl _ _
  | cons a l ih =>
  unfold flushAll
  try lift_lets
  repeat' (first | ((with_reducible apply OnlyIn.andThen (m := [.out, .host, .mgmt, .tap, .fab, .deck])); (on_goal 2 => (with_reducible apply ih)); (on_goal 2 => exact List.Subset.refl _)) | (intro x; have hx : OnlyIn [.out, .host, .mgmt, .tap, .fab, .deck] x1 x := (by repeat' (first | ((with_reducible apply OnlyIn.andThen (m := [.out, .host, .mgmt, .tap, .fab, .deck])); (on_goal 2 => (with_reducible apply ih)); (on_goal 2 => exact List.Subset.refl _)) | (with_reducible exact OnlyIn.refl _ _) | assumption | (with_reducible refine OnlyIn.ite' ?_ ?_) | (with_reducible apply OnlyIn.via; (first | ((with_reducible apply OnlyIn.andThen (m := [.out, .host, .mgmt, .tap, .fab, .deck])); (on_goal 2 => (with_reducible apply ih)); (on_goal 2 => exact List.Subset.refl _)) | apply haltMetering_only | apply flushCount_only | apply tapPut_only); on_goal 1 => decide) | split)); clear_value x) | (intro x) | lift_lets | (with_reducible exact OnlyIn.refl _ _) | assumption | (with_reducible refine OnlyIn.ite' ?_ ?_) | (with_reducible apply OnlyIn.via; (first | ((with_reducible apply OnlyIn.andThen (m := [.out, .host, .mgmt, .tap, .fab, .deck])); (on_goal 2 => (with_reducible apply ih)); (on_goal 2 => exact List.Subset.refl _)) | apply haltMetering_only | apply flushCount_only | apply tapPut_only); on_goal 1 => decide) | split)

theorem execTapFlush_only (s : State) {t' : State} (h : (execTapFlush s) = .next t') :
    OnlyIn [.out, .host, .mgmt, .tap, .fab, .deck] s t' := by
  unfold execTapFlush at h
  try dsimp only at h
  repeat' (first | cases h | split at h)
  all_goals repeat' (first | (with_reducible exact OnlyIn.refl _ _) | (with_reducible refine OnlyIn.ite' ?_ ?_) | (with_reducible apply OnlyIn.via; (first | apply flushAll_only); on_goal 1 => decide))

theorem execMeteringResume_only (s : State) {t' : State} (h : (execMeteringResume s) = .next t') :
    OnlyIn [.out, .host, .mgmt, .tap] s t' := by
  unfold execMeteringResume at h
  try dsimp only at h
  repeat' (first | cases h | split at h)
  all_goals repeat' (first | (with_reducible exact OnlyIn.refl _ _) | (with_reducible refine OnlyIn.ite' ?_ ?_) | (with_reducible apply OnlyIn.via; (first | apply meteringEvents_only | apply putHalt_only); on_goal 1 => decide) | split | (with_reducible refine OnlyIn.upd_tap ?_ (by decide)))

end Sys2Proof.Machine
end

