-- ==== Sys2Proof/Laws/FramePower.lean ====
section
/-! SUPPORT. The areas of the state that each function may change: links, commits and the node states. -/

namespace Sys2Proof.Machine

open Sys2Proof

theorem loseUnrouted_only (s : State) :
    OnlyIn [.out, .freeCnt, .regs, .host, .cmds, .seqs, .mgmt, .sec] s (loseUnrouted s) := by
  unfold loseUnrouted
  try dsimp only
  repeat' (first | exact List.Subset.refl _ | decide | (with_reducible exact OnlyIn.refl _ _) | (with_reducible refine OnlyIn.ite' ?_ ?_) | (with_reducible apply OnlyIn.via; (first | apply loseOn_only); on_goal 1 => decide) | ((with_reducible apply OnlyIn.andThen (m := [.out, .freeCnt, .regs, .host, .cmds, .seqs, .mgmt, .sec])); (on_goal 2 => (with_reducible apply forEach_only))) | ((with_reducible apply OnlyIn.andThen (m := [.out, .freeCnt, .regs, .host, .cmds, .seqs, .mgmt, .sec])); (on_goal 2 => (with_reducible apply OnlyIn.forEach; intro _ _)); (on_goal 3 => exact List.Subset.refl _)))

theorem requeue_only (p : ℕ) (q : QPkt) (s : State) :
    OnlyIn [.out, .regs, .host, .mgmt, .fab, .act] s (requeue p q s) := by
  unfold requeue
  try dsimp only
  repeat' (first | (with_reducible exact OnlyIn.refl _ _) | (with_reducible refine OnlyIn.ite' ?_ ?_) | (with_reducible apply OnlyIn.via; (first | apply schedDiscard_only | apply routePacket_only); on_goal 1 => decide))

theorem linkDown_only (p : ℕ) (s : State) :
    OnlyIn [.out, .freeCnt, .regs, .host, .cmds, .seqs, .mgmt, .fab, .sec, .act] s (linkDown p s) := by
  unfold linkDown
  try dsimp only
  repeat' (first | exact List.Subset.refl _ | decide | (with_reducible exact OnlyIn.refl _ _) | (with_reducible refine OnlyIn.ite' ?_ ?_) | (with_reducible apply OnlyIn.via; (first | apply setPort_only | apply leaveBuffer_only | apply setLink_only | apply loseUnrouted_only | apply requeue_only); on_goal 1 => decide) | ((with_reducible apply OnlyIn.andThen (m := [.out, .freeCnt, .regs, .host, .cmds, .seqs, .mgmt, .fab, .sec, .act])); (on_goal 2 => (with_reducible apply forEach_only))) | ((with_reducible apply OnlyIn.andThen (m := [.out, .freeCnt, .regs, .host, .cmds, .seqs, .mgmt, .fab, .sec, .act])); (on_goal 2 => (with_reducible apply OnlyIn.forEach; intro _ _)); (on_goal 3 => exact List.Subset.refl _)) | split | (with_reducible refine OnlyIn.upd_fab ?_ (by decide)))

theorem leaveNegotiate_only (p : ℕ) (s : State) :
    OnlyIn [.out, .freeCnt, .regs, .host, .cmds, .seqs, .mgmt, .fab, .sec, .act] s (leaveNegotiate p s) := by
  unfold leaveNegotiate
  try dsimp only
  repeat' (first | (with_reducible exact OnlyIn.refl _ _) | (with_reducible refine OnlyIn.ite' ?_ ?_) | (with_reducible apply OnlyIn.via; (first | apply setLink_only | apply enterCredit_only | apply setWidth_only | apply modPort_only | apply linkDown_only); on_goal 1 => decide) | split)

theorem execRxCap_only (port : ℕ) (f : Cap) (s : State) {t' : State} (h : (execRxCap port f s) = .next t') :
    OnlyIn [.out, .freeCnt, .regs, .host, .cmds, .seqs, .mgmt, .fab, .sec, .act] s t' := by
  unfold execRxCap at h
  try dsimp only at h
  repeat' (first | cases h | split at h)
  all_goals repeat' (first | (with_reducible exact OnlyIn.refl _ _) | (with_reducible refine OnlyIn.ite' ?_ ?_) | (with_reducible apply OnlyIn.via; (first | apply enterRetrain_only | apply setPort_only | apply setLink_only | apply leaveNegotiate_only | apply showPort_only); on_goal 1 => decide))

theorem execTrainHighDone_only (port : ℕ) (lanes : BitVec 8) (s : State) {t' : State} (h : (execTrainHighDone port lanes s) = .next t') :
    OnlyIn [.out, .freeCnt, .regs, .host, .cmds, .seqs, .mgmt, .fab, .sec, .act] s t' := by
  unfold execTrainHighDone at h
  try dsimp only at h
  repeat' (first | cases h | split at h)
  all_goals repeat' (first | (with_reducible exact OnlyIn.refl _ _) | (with_reducible refine OnlyIn.ite' ?_ ?_) | (with_reducible apply OnlyIn.via; (first | apply setPort_only | apply enterCredit_only | apply setWidth_only | apply linkDown_only); on_goal 1 => decide) | split)

theorem linkUp_only (p : ℕ) (s : State) :
    OnlyIn [.out, .regs, .host, .seqs, .mgmt, .tap, .fab, .act] s (linkUp p s) := by
  unfold linkUp
  try dsimp only
  repeat' (first | (with_reducible exact OnlyIn.refl _ _) | (with_reducible refine OnlyIn.ite' ?_ ?_) | (with_reducible apply OnlyIn.via; (first | apply redemote_only | apply setLink_only | apply modPort_only); on_goal 1 => decide))

theorem execCreditExchangeDone_only (port : ℕ) (limits : List (BitVec 16)) (s : State) {t' : State} (h : (execCreditExchangeDone port limits s) = .next t') :
    OnlyIn [.out, .regs, .host, .seqs, .mgmt, .tap, .fab, .act] s t' := by
  unfold execCreditExchangeDone at h
  try dsimp only at h
  repeat' (first | cases h | split at h)
  all_goals repeat' (first | (with_reducible exact OnlyIn.refl _ _) | (with_reducible refine OnlyIn.ite' ?_ ?_) | (with_reducible apply OnlyIn.via; (first | apply linkUp_only | apply modPort_only); on_goal 1 => decide))

theorem execRetrainDone_only (port : ℕ) (ok : Bool) (lanes : BitVec 8) (partnerLanes : BitVec 8) (s : State) {t' : State} (h : (execRetrainDone port ok lanes partnerLanes s) = .next t') :
    OnlyIn [.out, .freeCnt, .regs, .host, .cmds, .seqs, .mgmt, .tap, .fab, .sec, .act] s t' := by
  unfold execRetrainDone at h
  try dsimp only at h
  repeat' (first | cases h | split at h)
  all_goals repeat' (first | (with_reducible exact OnlyIn.refl _ _) | (with_reducible refine OnlyIn.ite' ?_ ?_) | (with_reducible apply OnlyIn.via; (first | apply linkDown_only | apply setPort_only | apply setLink_only | apply enterNegotiate_only | apply linkUp_only | apply setWidth_only); on_goal 1 => decide) | split)

theorem execTimeLost_only (s : State) {t' : State} (h : (execTimeLost s) = .next t') :
    OnlyIn [.out, .clk, .regs, .host, .mgmt, .fab, .deck] s t' := by
  unfold execTimeLost at h
  try dsimp only at h
  repeat' (first | cases h | split at h)
  all_goals repeat' (first | (with_reducible exact OnlyIn.refl _ _) | (with_reducible refine OnlyIn.ite' ?_ ?_) | (with_reducible apply OnlyIn.via; (first | apply advanceTo_only | apply setValBits_only | apply deckCause_only | apply post_only); on_goal 1 => decide) | split | (with_reducible refine OnlyIn.upd_fab ?_ (by decide)))

theorem setPkg_only (p : ℕ) (st : ℕ) (status : Status) (s : State) :
    OnlyIn [.regs, .mgmt] s (setPkg p st status s) := by
  unfold setPkg
  try dsimp only
  repeat' (first | (with_reducible exact OnlyIn.refl _ _) | (with_reducible refine OnlyIn.ite' ?_ ?_) | (with_reducible apply OnlyIn.via; (first | apply logMgmt_only | apply setValBits_only); on_goal 1 => decide))

theorem pkgUp_only (p : ℕ) (s : State) :
    OnlyIn [.regs, .parts, .mgmt, .pins, .mem, .cells, .act, .st] s (pkgUp p s) := by
  unfold pkgUp
  try dsimp only
  repeat' (first | exact List.Subset.refl _ | decide | (with_reducible exact OnlyIn.refl _ _) | (with_reducible refine OnlyIn.ite' ?_ ?_) | (with_reducible apply OnlyIn.via; (first | apply setAct_only | apply repair_only | apply setPkg_only); on_goal 1 => decide) | ((with_reducible apply OnlyIn.andThen (m := [.regs, .parts, .mgmt, .pins, .mem, .cells, .act, .st])); (on_goal 2 => (with_reducible apply forEach_only))) | ((with_reducible apply OnlyIn.andThen (m := [.regs, .parts, .mgmt, .pins, .mem, .cells, .act, .st])); (on_goal 2 => (with_reducible apply OnlyIn.forEach; intro _ _)); (on_goal 3 => exact List.Subset.refl _)) | split | (with_reducible refine OnlyIn.upd_mem ?_ (by decide) (by first | (with_reducible exact .inr rfl) | exact .inl (by decide))))

theorem stepDataLost_only (c : Cmd) (aux : ℕ) (s : State) :
    OnlyIn [.out, .freeCnt, .regs, .host, .cmds, .mgmt, .sec] s (stepDataLost c aux s) := by
  unfold stepDataLost
  try dsimp only
  repeat' (first | (with_reducible exact OnlyIn.refl _ _) | (with_reducible refine OnlyIn.ite' ?_ ?_) | (with_reducible apply OnlyIn.via; (first | apply endAtAdmission_only | apply finish_only | apply post_only); on_goal 1 => decide))

theorem pkgDown_only (p : ℕ) (st : ℕ) (cause : ℕ) (s : State) :
    OnlyIn [.out, .freeCnt, .regs, .host, .cmds, .seqs, .parts, .mgmt, .pins, .mem, .sec, .act, .st] s (pkgDown p st cause s) := by
  unfold pkgDown
  try dsimp only
  repeat' (first | exact List.Subset.refl _ | decide | (with_reducible exact OnlyIn.refl _ _) | (with_reducible refine OnlyIn.ite' ?_ ?_) | (with_reducible apply OnlyIn.via; (first | apply setPkg_only | apply setAct_only | apply stopUnit_only | apply skipFree_only | apply stepDataLost_only | apply degrade_only | apply post_only); on_goal 1 => decide) | ((with_reducible apply OnlyIn.andThen (m := [.out, .freeCnt, .regs, .host, .cmds, .seqs, .parts, .mgmt, .pins, .mem, .sec, .act, .st])); (on_goal 2 => (with_reducible apply forEach_only))) | ((with_reducible apply OnlyIn.andThen (m := [.out, .freeCnt, .regs, .host, .cmds, .seqs, .parts, .mgmt, .pins, .mem, .sec, .act, .st])); (on_goal 2 => (with_reducible apply OnlyIn.forEach; intro _ _)); (on_goal 3 => exact List.Subset.refl _)) | split | (with_reducible refine OnlyIn.upd_seqs ?_ (by decide)) | (with_reducible refine OnlyIn.upd_mem ?_ (by decide) (by first | (with_reducible exact .inr rfl))))

theorem pkgTarget_only (p : ℕ) (s : State) :
    OnlyIn [.out, .freeCnt, .regs, .host, .cmds, .seqs, .parts, .mgmt, .pins, .mem, .sec, .cells, .act, .st] s (pkgTarget p s) := by
  unfold pkgTarget
  try dsimp only
  repeat' (first | (with_reducible exact OnlyIn.refl _ _) | (with_reducible refine OnlyIn.ite' ?_ ?_) | (with_reducible apply OnlyIn.via; (first | apply pkgUp_only | apply pkgDown_only | apply setPkg_only); on_goal 1 => decide) | split)

theorem execPkgRecalDone_only (pkg : ℕ) (stored : Bool) (s : State) {t' : State} (h : (execPkgRecalDone pkg stored s) = .next t') :
    OnlyIn [.out, .freeCnt, .regs, .host, .cmds, .seqs, .parts, .mgmt, .pins, .mem, .sec, .cells, .act, .st] s t' := by
  unfold execPkgRecalDone at h
  try dsimp only at h
  repeat' (first | cases h | split at h)
  all_goals repeat' (first | (with_reducible exact OnlyIn.refl _ _) | (with_reducible refine OnlyIn.ite' ?_ ?_) | (with_reducible apply OnlyIn.via; (first | apply setPkg_only | apply pkgTarget_only); on_goal 1 => decide))

theorem execCastCommit_only (w : Writer) (gen : BitVec 16) (s : State) {t' : State} (h : (execCastCommit w gen s) = .next t') :
    OnlyIn [.regs] s t' := by
  unfold execCastCommit at h
  try dsimp only at h
  repeat' (first | cases h | split at h)
  all_goals repeat' (first | (with_reducible exact OnlyIn.refl _ _) | (with_reducible refine OnlyIn.ite' ?_ ?_) | (with_reducible apply OnlyIn.via; (first | apply commitBlockBy_only); on_goal 1 => decide))

theorem execTileCommit_only (w : Writer) (gen : BitVec 16) (s : State) {t' : State} (h : (execTileCommit w gen s) = .next t') :
    OnlyIn [.regs] s t' := by
  unfold execTileCommit at h
  try dsimp only at h
  repeat' (first | cases h | split at h)
  all_goals repeat' (first | (with_reducible exact OnlyIn.refl _ _) | (with_reducible refine OnlyIn.ite' ?_ ?_) | (with_reducible apply OnlyIn.via; (first | apply commitBlock_only); on_goal 1 => decide))

theorem execHostCommit_only (w : Writer) (gen : BitVec 16) (imgs : List RingImage) (s : State) {t' : State} (h : (execHostCommit w gen imgs s) = .next t') :
    OnlyIn [.regs] s t' := by
  unfold execHostCommit at h
  try dsimp only at h
  repeat' (first | cases h | split at h)
  all_goals repeat' (first | (with_reducible exact OnlyIn.refl _ _) | (with_reducible refine OnlyIn.ite' ?_ ?_) | (with_reducible apply OnlyIn.via; (first | apply commitBlockBy_only); on_goal 1 => decide))

theorem execVfCommit_only (vf : ℕ) (gen : BitVec 16) (imgs : List RingImage) (s : State) {t' : State} (h : (execVfCommit vf gen imgs s) = .next t') :
    OnlyIn [.regs] s t' := by
  unfold execVfCommit at h
  try dsimp only at h
  repeat' (first | cases h | split at h)
  all_goals repeat' (first | (with_reducible exact OnlyIn.refl _ _) | (with_reducible refine OnlyIn.ite' ?_ ?_) | (with_reducible apply OnlyIn.via; (first | apply rejectWrite_only | apply commitSet_only); on_goal 1 => decide))

theorem execSecCommit_only (w : Writer) (gen : BitVec 16) (s : State) {t' : State} (h : (execSecCommit w gen s) = .next t') :
    OnlyIn [.regs] s t' := by
  unfold execSecCommit at h
  try dsimp only at h
  repeat' (first | cases h | split at h)
  all_goals repeat' (first | (with_reducible exact OnlyIn.refl _ _) | (with_reducible refine OnlyIn.ite' ?_ ?_) | (with_reducible apply OnlyIn.via; (first | apply commitBlock_only); on_goal 1 => decide))

theorem execFabCommit_only (w : Writer) (gen : BitVec 16) (s : State) {t' : State} (h : (execFabCommit w gen s) = .next t') :
    OnlyIn [.regs] s t' := by
  unfold execFabCommit at h
  try dsimp only at h
  repeat' (first | cases h | split at h)
  all_goals repeat' (first | (with_reducible exact OnlyIn.refl _ _) | (with_reducible refine OnlyIn.ite' ?_ ?_) | (with_reducible apply OnlyIn.via; (first | apply commitBlock_only); on_goal 1 => decide))

theorem execRmaCommit_only (w : Writer) (gen : BitVec 16) (s : State) {t' : State} (h : (execRmaCommit w gen s) = .next t') :
    OnlyIn [.regs] s t' := by
  unfold execRmaCommit at h
  try dsimp only at h
  repeat' (first | cases h | split at h)
  all_goals repeat' (first | (with_reducible exact OnlyIn.refl _ _) | (with_reducible refine OnlyIn.ite' ?_ ?_) | (with_reducible apply OnlyIn.via; (first | apply commitBlock_only); on_goal 1 => decide))

theorem execMemCommit_only (w : Writer) (gen : BitVec 16) (s : State) {t' : State} (h : (execMemCommit w gen s) = .next t') :
    OnlyIn [.regs] s t' := by
  unfold execMemCommit at h
  try dsimp only at h
  repeat' (first | cases h | split at h)
  all_goals repeat' (first | (with_reducible exact OnlyIn.refl _ _) | (with_reducible refine OnlyIn.ite' ?_ ?_) | (with_reducible apply OnlyIn.via; (first | apply commitBlock_only); on_goal 1 => decide))

theorem execDeckCommit_only (w : Writer) (gen : BitVec 16) (s : State) {t' : State} (h : (execDeckCommit w gen s) = .next t') :
    OnlyIn [.regs] s t' := by
  unfold execDeckCommit at h
  try dsimp only at h
  repeat' (first | cases h | split at h)
  all_goals repeat' (first | (with_reducible exact OnlyIn.refl _ _) | (with_reducible refine OnlyIn.ite' ?_ ?_) | (with_reducible apply OnlyIn.via; (first | apply commitBlock_only); on_goal 1 => decide))

theorem execNodeCommit_only (w : Writer) (gen : BitVec 16) (s : State) {t' : State} (h : (execNodeCommit w gen s) = .next t') :
    OnlyIn [.regs] s t' := by
  unfold execNodeCommit at h
  try dsimp only at h
  repeat' (first | cases h | split at h)
  all_goals repeat' (first | (with_reducible exact OnlyIn.refl _ _) | (with_reducible refine OnlyIn.ite' ?_ ?_) | (with_reducible apply OnlyIn.via; (first | apply commitBlock_only); on_goal 1 => decide))

theorem execMgmtCommit_only (w : Writer) (gen : BitVec 16) (s : State) {t' : State} (h : (execMgmtCommit w gen s) = .next t') :
    OnlyIn [.regs] s t' := by
  unfold execMgmtCommit at h
  try dsimp only at h
  repeat' (first | cases h | split at h)
  all_goals repeat' (first | (with_reducible exact OnlyIn.refl _ _) | (with_reducible refine OnlyIn.ite' ?_ ?_) | (with_reducible apply OnlyIn.via; (first | apply commitBlock_only); on_goal 1 => decide))

theorem saveConfig_only (s : State) :
    OnlyIn [.out, .mgmt] s (saveConfig s) := by
  unfold saveConfig
  try dsimp only
  repeat' (first | (with_reducible exact OnlyIn.refl _ _) | (with_reducible refine OnlyIn.ite' ?_ ?_) | (with_reducible apply OnlyIn.via; (first | apply emit_only); on_goal 1 => decide) | split | (with_reducible refine OnlyIn.upd_mgmt ?_ (by decide) (by first | (with_reducible exact .inr rfl))))

theorem showRings_only (s : State) :
    OnlyIn [.regs] s (showRings s) := by
  unfold showRings
  try dsimp only
  repeat' (first | exact List.Subset.refl _ | decide | (with_reducible exact OnlyIn.refl _ _) | (with_reducible refine OnlyIn.ite' ?_ ?_) | (with_reducible apply OnlyIn.via; (first | apply setValBits_only); on_goal 1 => decide) | ((with_reducible apply OnlyIn.andThen (m := [.regs])); (on_goal 2 => (with_reducible apply forEach_only))) | ((with_reducible apply OnlyIn.andThen (m := [.regs])); (on_goal 2 => (with_reducible apply OnlyIn.forEach; intro _ _)); (on_goal 3 => exact List.Subset.refl _)))

theorem swapRing_only (was : Bool) (clear : Bool) (imgs : List RingImage) (ring : ℕ) (s : State) :
    OnlyIn [.out, .regs, .host, .cmds, .mgmt, .rma, .act] s (swapRing was clear imgs ring s) := by
  unfold swapRing
  try dsimp only
  repeat' (first | (with_reducible exact OnlyIn.refl _ _) | (with_reducible refine OnlyIn.ite' ?_ ?_) | (with_reducible apply OnlyIn.via; (first | apply startFetch_only | apply setRing_only | apply rebuildRing_only | apply post_only | apply clearEn_only | apply writeRecord_only | apply emit_only); on_goal 1 => decide) | split | (with_reducible refine OnlyIn.upd_rma ?_ (by decide)))

theorem swapEv_only (fn : ℕ) (s : State) :
    OnlyIn [.out, .host] s (swapEv fn s) := by
  unfold swapEv
  try dsimp only
  repeat' (first | (with_reducible exact OnlyIn.refl _ _) | (with_reducible refine OnlyIn.ite' ?_ ?_) | (with_reducible apply OnlyIn.via; (first | apply setEv_only | apply signalVec_only | apply emit_only | apply flushEv_only); on_goal 1 => decide) | split)

theorem swapHost_only (fn : ℕ) (old : ℕ → Word) (t : Table Word) (imgs : List RingImage) (s : State) :
    OnlyIn [.out, .regs, .host, .cmds, .mgmt, .rma, .act] s (swapHost fn old t imgs s) := by
  unfold swapHost
  try dsimp only
  repeat' (first | exact List.Subset.refl _ | decide | (with_reducible exact OnlyIn.refl _ _) | (with_reducible refine OnlyIn.ite' ?_ ?_) | (with_reducible apply OnlyIn.via; (first | apply swapRing_only | apply swapEv_only | apply showRings_only); on_goal 1 => decide) | ((with_reducible apply OnlyIn.andThen (m := [.out, .regs, .host, .cmds, .mgmt, .rma, .act])); (on_goal 2 => (with_reducible apply forEach_only))) | ((with_reducible apply OnlyIn.andThen (m := [.out, .regs, .host, .cmds, .mgmt, .rma, .act])); (on_goal 2 => (with_reducible apply OnlyIn.forEach; intro _ _)); (on_goal 3 => exact List.Subset.refl _)))

theorem activate_only (p : ℕ) (s : State) :
    OnlyIn [.regs, .tap, .sec] s (activate p s) := by
  unfold activate
  try dsimp only
  repeat' (first | (with_reducible exact OnlyIn.refl _ _) | (with_reducible refine OnlyIn.ite' ?_ ?_) | (with_reducible apply OnlyIn.via; (first | apply setPstate_only | apply setVal_only | apply tapPut_only | apply showKeys_only); on_goal 1 => decide) | split | (with_reducible refine OnlyIn.upd_sec ?_ (by decide)))

theorem burnFuses_only (old : ℕ → Word) (s : State) :
    OnlyIn [.out, .regs, .mgmt] s (burnFuses old s) := by
  unfold burnFuses
  try dsimp only
  repeat' (first | exact List.Subset.refl _ | decide | (with_reducible exact OnlyIn.refl _ _) | (with_reducible refine OnlyIn.ite' ?_ ?_) | (with_reducible apply OnlyIn.via; (first | apply logMgmt_only | apply setValBits_only | apply emitAll_only); on_goal 1 => decide) | ((with_reducible apply OnlyIn.andThen (m := [.out, .regs, .mgmt])); (on_goal 2 => (with_reducible apply forEach_only))) | ((with_reducible apply OnlyIn.andThen (m := [.out, .regs, .mgmt])); (on_goal 2 => (with_reducible apply OnlyIn.forEach; intro _ _)); (on_goal 3 => exact List.Subset.refl _)))

theorem moveLifecycle_only (s : State) :
    OnlyIn [.out, .regs, .mgmt, .sec, .act] s (moveLifecycle s) := by
  unfold moveLifecycle
  try dsimp only
  repeat' (first | exact List.Subset.refl _ | decide | (with_reducible exact OnlyIn.refl _ _) | (with_reducible refine OnlyIn.ite' ?_ ?_) | (with_reducible apply OnlyIn.via; (first | apply logMgmt_only | apply emit_only | apply setVal_only | apply showKeys_only); on_goal 1 => decide) | ((with_reducible apply OnlyIn.andThen (m := [.out, .regs, .mgmt, .sec, .act])); (on_goal 2 => (with_reducible apply forEach_only))) | ((with_reducible apply OnlyIn.andThen (m := [.out, .regs, .mgmt, .sec, .act])); (on_goal 2 => (with_reducible apply OnlyIn.forEach; intro _ _)); (on_goal 3 => exact List.Subset.refl _)) | split | (with_reducible refine OnlyIn.upd_regs ?_ (by decide) (by first | (with_reducible exact .inr rfl) | exact .inl (by decide))) | (with_reducible refine OnlyIn.upd_sec ?_ (by decide)) | (with_reducible refine OnlyIn.upd ?_ (by constructor <;> first | (with_reducible rfl) | (with_reducible exact .inr rfl) | exact .inl (by decide))))

theorem swapSec_only (old : ℕ → Word) (s : State) :
    OnlyIn [.out, .regs, .mgmt, .tap, .sec, .act] s (swapSec old s) := by
  unfold swapSec
  try dsimp only
  repeat' (first | exact List.Subset.refl _ | decide | (with_reducible exact OnlyIn.refl _ _) | (with_reducible refine OnlyIn.ite' ?_ ?_) | (with_reducible apply OnlyIn.via; (first | apply activate_only | apply saveConfig_only | apply moveLifecycle_only | apply burnFuses_only | apply levelChanged_only); on_goal 1 => decide) | ((with_reducible apply OnlyIn.andThen (m := [.out, .regs, .mgmt, .tap, .sec, .act])); (on_goal 2 => (with_reducible apply forEach_only))) | ((with_reducible apply OnlyIn.andThen (m := [.out, .regs, .mgmt, .tap, .sec, .act])); (on_goal 2 => (with_reducible apply OnlyIn.forEach; intro _ _)); (on_goal 3 => exact List.Subset.refl _)))

theorem swapFab_only (old : ℕ → Word) (t : Table Word) (s : State) :
    OnlyIn [.out, .freeCnt, .regs, .host, .cmds, .seqs, .mgmt, .fab, .sec, .act] s (swapFab old t s) := by
  unfold swapFab
  try dsimp only
  repeat' (first | exact List.Subset.refl _ | decide | (with_reducible exact OnlyIn.refl _ _) | (with_reducible refine OnlyIn.ite' ?_ ?_) | (with_reducible apply OnlyIn.via; (first | apply linkDown_only | apply setLink_only | apply setPort_only | apply modPort_only | apply setValBits_only | apply saveConfig_only); on_goal 1 => decide) | ((with_reducible apply OnlyIn.andThen (m := [.out, .freeCnt, .regs, .host, .cmds, .seqs, .mgmt, .fab, .sec, .act])); (on_goal 2 => (with_reducible apply forEach_only))) | ((with_reducible apply OnlyIn.andThen (m := [.out, .freeCnt, .regs, .host, .cmds, .seqs, .mgmt, .fab, .sec, .act])); (on_goal 2 => (with_reducible apply OnlyIn.forEach; intro _ _)); (on_goal 3 => exact List.Subset.refl _)) | split | (with_reducible refine OnlyIn.upd_fab ?_ (by decide)))

theorem swapRma_only (old : ℕ → Word) (t : Table Word) (s : State) :
    OnlyIn [.rma] s (swapRma old t s) := by
  unfold swapRma
  try dsimp only
  repeat' (first | exact List.Subset.refl _ | decide | (with_reducible exact OnlyIn.refl _ _) | (with_reducible refine OnlyIn.ite' ?_ ?_) | ((with_reducible apply OnlyIn.andThen (m := [.rma])); (on_goal 2 => (with_reducible apply forEach_only))) | ((with_reducible apply OnlyIn.andThen (m := [.rma])); (on_goal 2 => (with_reducible apply OnlyIn.forEach; intro _ _)); (on_goal 3 => exact List.Subset.refl _)) | split | (with_reducible refine OnlyIn.upd_rma ?_ (by decide)))

theorem swapMem_only (old : ℕ → Word) (s : State) :
    OnlyIn [.regs, .mem] s (swapMem old s) := by
  unfold swapMem
  try dsimp only
  repeat' (first | exact List.Subset.refl _ | decide | (with_reducible exact OnlyIn.refl _ _) | (with_reducible refine OnlyIn.ite' ?_ ?_) | (with_reducible apply OnlyIn.via; (first | apply showImg_only); on_goal 1 => decide) | ((with_reducible apply OnlyIn.andThen (m := [.regs, .mem])); (on_goal 2 => (with_reducible apply forEach_only))) | ((with_reducible apply OnlyIn.andThen (m := [.regs, .mem])); (on_goal 2 => (with_reducible apply OnlyIn.forEach; intro _ _)); (on_goal 3 => exact List.Subset.refl _)) | split | (with_reducible refine OnlyIn.upd_mem ?_ (by decide) (by first | (with_reducible exact .inr rfl))))

theorem mssStops_only (cause : ℕ) (s : State) :
    OnlyIn [.mgmt] s (mssStops cause s) := by
  unfold mssStops
  try dsimp only
  repeat' (first | (with_reducible exact OnlyIn.refl _ _) | (with_reducible refine OnlyIn.ite' ?_ ?_) | split | (with_reducible refine OnlyIn.upd_mgmt ?_ (by decide) (by first | (with_reducible exact .inr rfl))))

theorem activateFw_only (c : ℕ) (s : State) :
    OnlyIn [.regs, .mgmt] s (activateFw c s) := by
  unfold activateFw
  try dsimp only
  repeat' (first | (with_reducible exact OnlyIn.refl _ _) | (with_reducible refine OnlyIn.ite' ?_ ?_) | (with_reducible apply OnlyIn.via; (first | apply logMgmt_only | apply mssStops_only | apply setValBits_only); on_goal 1 => decide) | split | (with_reducible refine OnlyIn.upd_mgmt ?_ (by decide) (by first | (with_reducible exact .inr rfl))))

theorem swapMgmt_only (old : ℕ → Word) (s : State) :
    OnlyIn [.out, .freeCnt, .regs, .host, .cmds, .seqs, .parts, .mgmt, .pins, .mem, .sec, .cells, .act, .st] s (swapMgmt old s) := by
  unfold swapMgmt
  try dsimp only
  repeat' (first | exact List.Subset.refl _ | decide | (with_reducible exact OnlyIn.refl _ _) | (with_reducible refine OnlyIn.ite' ?_ ?_) | (with_reducible apply OnlyIn.via; (first | apply pkgTarget_only | apply saveConfig_only | apply activateFw_only); on_goal 1 => decide) | ((with_reducible apply OnlyIn.andThen (m := [.out, .freeCnt, .regs, .host, .cmds, .seqs, .parts, .mgmt, .pins, .mem, .sec, .cells, .act, .st])); (on_goal 2 => (with_reducible apply forEach_only))) | ((with_reducible apply OnlyIn.andThen (m := [.out, .freeCnt, .regs, .host, .cmds, .seqs, .parts, .mgmt, .pins, .mem, .sec, .cells, .act, .st])); (on_goal 2 => (with_reducible apply OnlyIn.forEach; intro _ _)); (on_goal 3 => exact List.Subset.refl _)))

theorem swapEffects_only (b : Block) (vf : ℕ) (old : ℕ → Word) (t : Table Word) (imgs : List RingImage) (s : State) :
    OnlyIn [.out, .freeCnt, .regs, .host, .cmds, .seqs, .parts, .mgmt, .pins, .tap, .mem, .walk, .fab, .rma, .sec, .cells, .act, .st] s (swapEffects b vf old t imgs s) := by
  unfold swapEffects
  try dsimp only
  repeat' (first | (with_reducible exact OnlyIn.refl _ _) | (with_reducible refine OnlyIn.ite' ?_ ?_) | (with_reducible apply OnlyIn.via; (first | apply showRemap_only | apply noteSwitches_only | apply swapHost_only | apply swapFab_only | apply swapRma_only | apply swapMem_only | apply swapWalk_only | apply swapSec_only | apply swapMgmt_only); on_goal 1 => decide) | split)

theorem execCommitSafePointSwap_only (b : Block) (vf : ℕ) (s : State) {t' : State} (h : (execCommitSafePointSwap b vf s) = .next t') :
    OnlyIn [.out, .freeCnt, .regs, .host, .cmds, .seqs, .parts, .mgmt, .pins, .tap, .mem, .walk, .fab, .rma, .sec, .cells, .act, .st] s t' := by
  unfold execCommitSafePointSwap at h
  try dsimp only at h
  repeat' (first | cases h | split at h)
  all_goals repeat' (first | (with_reducible exact OnlyIn.refl _ _) | (with_reducible refine OnlyIn.ite' ?_ ?_) | (with_reducible apply OnlyIn.via; (first | apply discardBlock_only | apply discardVf_only | apply swapEffects_only | apply setCtl_only); on_goal 1 => decide) | split | (with_reducible refine OnlyIn.upd_regs ?_ (by decide) (by first | (with_reducible exact .inr rfl) | exact .inl (by decide))))

theorem execMicrocodeFenceLoad_only (cls : ℕ) (engine : ℕ) (s : State) {t' : State} (h : (execMicrocodeFenceLoad cls engine s) = .next t') :
    OnlyIn [.regs, .mgmt] s t' := by
  unfold execMicrocodeFenceLoad at h
  try dsimp only at h
  repeat' (first | cases h | split at h)
  all_goals repeat' (first | (with_reducible exact OnlyIn.refl _ _) | (with_reducible refine OnlyIn.ite' ?_ ?_) | (with_reducible apply OnlyIn.via; (first | apply logMgmt_only | apply setValBits_only); on_goal 1 => decide) | split | (with_reducible refine OnlyIn.upd_mgmt ?_ (by decide) (by first | (with_reducible exact .inr rfl))))

theorem request_only {l : List Area} {w : Writer} {ok : NodeState → Bool} {f : State → State} {s : State} (hf : ∀  t, OnlyIn l t (f  t)) (hl : [.regs] ⊆ l) :
    OnlyIn l s (request w ok f s) := by
  unfold request
  repeat' (first | (intro x) | (with_reducible exact OnlyIn.refl _ _) | assumption | (with_reducible refine OnlyIn.ite' ?_ ?_) | ((with_reducible apply OnlyIn.andThen (m := l)); (on_goal 2 => (apply hf)); (on_goal 2 => exact List.Subset.refl _)) | ((with_reducible apply OnlyIn.andThen (m := [.regs])); (on_goal 2 => (with_reducible apply rejectWrite_only)); (on_goal 2 => (first | decide | exact List.Subset.trans (by decide) hl))) | ((with_reducible apply OnlyIn.andThen (m := [.regs])); (on_goal 2 => (with_reducible apply setReq_only)); (on_goal 2 => (first | decide | exact List.Subset.trans (by decide) hl))) | split)

theorem toStep_only (n : ℕ) (s : State) :
    OnlyIn [.regs, .mgmt] s (toStep n s) := by
  unfold toStep
  try dsimp only
  repeat' (first | (with_reducible exact OnlyIn.refl _ _) | (with_reducible refine OnlyIn.ite' ?_ ?_) | (with_reducible apply OnlyIn.via; (first | apply showState_only); on_goal 1 => decide) | split | (with_reducible refine OnlyIn.upd_mgmt ?_ (by decide) (by first | (with_reducible exact .inr rfl))))

theorem startBoot_only (cause : ℕ) (s : State) :
    OnlyIn [.regs, .mgmt] s (startBoot cause s) := by
  unfold startBoot
  try dsimp only
  repeat' (first | (with_reducible exact OnlyIn.refl _ _) | (with_reducible refine OnlyIn.ite' ?_ ?_) | (with_reducible apply OnlyIn.via; (first | apply toStep_only); on_goal 1 => decide) | split | (with_reducible refine OnlyIn.upd_mgmt ?_ (by decide) (by first | (with_reducible exact .inr rfl))))

theorem reqPowerOn_only (w : Writer) (s : State) :
    OnlyIn [.out, .regs, .mgmt, .pins] s (reqPowerOn w s) := by
  unfold reqPowerOn
  try dsimp only
  repeat' (first | exact List.Subset.refl _ | decide | (with_reducible exact OnlyIn.refl _ _) | (with_reducible refine OnlyIn.ite' ?_ ?_) | (with_reducible apply OnlyIn.via; (first | apply setReq_only | apply startBoot_only | apply emit_only); on_goal 1 => decide) | ((with_reducible apply OnlyIn.andThen (m := [.out, .regs, .mgmt, .pins])); (on_goal 2 => (with_reducible apply request_only))) | split | (with_reducible refine OnlyIn.upd_pins ?_ (by decide)) | (with_reducible refine OnlyIn.upd ?_ (by constructor <;> first | (with_reducible rfl) | (with_reducible exact .inr rfl))) | intro x)

theorem execPowerOn_only (w : Writer) (s : State) {t' : State} (h : (execPowerOn w s) = .next t') :
    OnlyIn [.out, .regs, .mgmt, .pins] s t' := by
  unfold execPowerOn at h
  try dsimp only at h
  repeat' (first | cases h | split at h)
  all_goals repeat' (first | (with_reducible exact OnlyIn.refl _ _) | (with_reducible refine OnlyIn.ite' ?_ ?_) | (with_reducible apply OnlyIn.via; (first | apply reqPowerOn_only); on_goal 1 => decide))

theorem coldData_only (s : State) :
    OnlyIn [.clk, .regs, .host, .cmds, .seqs, .shards, .parts, .retained, .mgmt, .tap, .mem, .walk, .fab, .rma, .rmx, .deck, .sec, .cells, .act] s (coldData s) := by
  unfold coldData
  try dsimp only
  repeat' (first | (with_reducible exact OnlyIn.refl _ _) | (with_reducible refine OnlyIn.ite' ?_ ?_) | split | (with_reducible refine OnlyIn.upd_clk ?_ (by decide)) | (with_reducible refine OnlyIn.upd_regs ?_ (by decide) (by first | (with_reducible exact .inr rfl) | exact .inl (by decide))) | (with_reducible refine OnlyIn.upd_host ?_ (by decide)) | (with_reducible refine OnlyIn.upd_cmds ?_ (by decide)) | (with_reducible refine OnlyIn.upd_seqs ?_ (by decide)) | (with_reducible refine OnlyIn.upd_shards ?_ (by decide)) | (with_reducible refine OnlyIn.upd_parts ?_ (by decide)) | (with_reducible refine OnlyIn.upd_retained ?_ (by decide)) | (with_reducible refine OnlyIn.upd_mgmt ?_ (by decide) (by first | (with_reducible exact .inr rfl) | exact .inl (by decide))) | (with_reducible refine OnlyIn.upd_tap ?_ (by decide)) | (with_reducible refine OnlyIn.upd_mem ?_ (by decide) (by first | (with_reducible exact .inr rfl) | exact .inl (by decide))) | (with_reducible refine OnlyIn.upd_walk ?_ (by decide)) | (with_reducible refine OnlyIn.upd_fab ?_ (by decide)) | (with_reducible refine OnlyIn.upd_rma ?_ (by decide)) | (with_reducible refine OnlyIn.upd_rmx ?_ (by decide)) | (with_reducible refine OnlyIn.upd_deck ?_ (by decide)) | (with_reducible refine OnlyIn.upd_sec ?_ (by decide)) | (with_reducible refine OnlyIn.upd ?_ (by constructor <;> first | (with_reducible rfl) | (with_reducible exact .inr rfl) | exact .inl (by decide))))

theorem coldReset_only (cause : ℕ) (s : State) :
    OnlyIn [.clk, .regs, .host, .cmds, .seqs, .shards, .parts, .retained, .mgmt, .pins, .tap, .mem, .walk, .fab, .rma, .rmx, .deck, .sec, .cells, .act, .st] s (coldReset cause s) := by
  unfold coldReset
  try dsimp only
  repeat' (first | (with_reducible exact OnlyIn.refl _ _) | (with_reducible refine OnlyIn.ite' ?_ ?_) | (with_reducible apply OnlyIn.via; (first | apply showState_only | apply coldData_only | apply enterState_only); on_goal 1 => decide))

theorem reqPowerOff_only (w : Writer) (s : State) :
    OnlyIn [.clk, .regs, .host, .cmds, .seqs, .shards, .parts, .retained, .mgmt, .pins, .tap, .mem, .walk, .fab, .rma, .rmx, .deck, .sec, .cells, .act, .st] s (reqPowerOff w s) := by
  unfold reqPowerOff
  try dsimp only
  repeat' (first | exact List.Subset.refl _ | decide | (with_reducible exact OnlyIn.refl _ _) | (with_reducible refine OnlyIn.ite' ?_ ?_) | (with_reducible apply OnlyIn.via; (first | apply setReq_only | apply coldReset_only); on_goal 1 => decide) | ((with_reducible apply OnlyIn.andThen (m := [.clk, .regs, .host, .cmds, .seqs, .shards, .parts, .retained, .mgmt, .pins, .tap, .mem, .walk, .fab, .rma, .rmx, .deck, .sec, .cells, .act, .st])); (on_goal 2 => (with_reducible apply request_only))) | split | intro x)

theorem execPowerOff_only (w : Writer) (s : State) {t' : State} (h : (execPowerOff w s) = .next t') :
    OnlyIn [.clk, .regs, .host, .cmds, .seqs, .shards, .parts, .retained, .mgmt, .pins, .tap, .mem, .walk, .fab, .rma, .rmx, .deck, .sec, .cells, .act, .st] s t' := by
  unfold execPowerOff at h
  try dsimp only at h
  repeat' (first | cases h | split at h)
  all_goals repeat' (first | (with_reducible exact OnlyIn.refl _ _) | (with_reducible refine OnlyIn.ite' ?_ ?_) | (with_reducible apply OnlyIn.via; (first | apply reqPowerOff_only); on_goal 1 => decide))

theorem forget_only (dead : ℕ → Bool) (s : State) :
    OnlyIn [.regs, .cmds, .seqs, .walk, .rma, .rmx, .deck, .sec] s (forget dead s) := by
  unfold forget
  try dsimp only
  repeat' (first | (with_reducible exact OnlyIn.refl _ _) | (with_reducible refine OnlyIn.ite' ?_ ?_) | (with_reducible apply OnlyIn.via; (first | apply showRmx_only); on_goal 1 => decide) | split | (with_reducible refine OnlyIn.upd_cmds ?_ (by decide)) | (with_reducible refine OnlyIn.upd_seqs ?_ (by decide)) | (with_reducible refine OnlyIn.upd_walk ?_ (by decide)) | (with_reducible refine OnlyIn.upd_rma ?_ (by decide)) | (with_reducible refine OnlyIn.upd_rmx ?_ (by decide)) | (with_reducible refine OnlyIn.upd_deck ?_ (by decide)) | (with_reducible refine OnlyIn.upd_sec ?_ (by decide)) | (with_reducible refine OnlyIn.upd ?_ (by constructor <;> first | (with_reducible rfl) | (with_reducible exact .inr rfl) | exact .inl (by decide))))

theorem warmData_only (s : State) :
    OnlyIn [.out, .freeCnt, .regs, .host, .cmds, .seqs, .parts, .retained, .mgmt, .pins, .mem, .walk, .fab, .rma, .rmx, .deck, .sec, .st] s (warmData s) := by
  unfold warmData
  try dsimp only
  repeat' (first | exact List.Subset.refl _ | decide | (with_reducible exact OnlyIn.refl _ _) | (with_reducible refine OnlyIn.ite' ?_ ?_) | (with_reducible apply OnlyIn.via; (first | apply forget_only | apply retireEpoch_only | apply setValBits_only | apply showDeck_only | apply showTrace_only | apply showRmx_only | apply settleShares_only | apply showImg_only | apply showPort_only); on_goal 1 => decide) | ((with_reducible apply OnlyIn.andThen (m := [.out, .freeCnt, .regs, .host, .cmds, .seqs, .parts, .retained, .mgmt, .pins, .mem, .walk, .fab, .rma, .rmx, .deck, .sec, .st])); (on_goal 2 => (with_reducible apply forEach_only))) | ((with_reducible apply OnlyIn.andThen (m := [.out, .freeCnt, .regs, .host, .cmds, .seqs, .parts, .retained, .mgmt, .pins, .mem, .walk, .fab, .rma, .rmx, .deck, .sec, .st])); (on_goal 2 => (with_reducible apply OnlyIn.forEach; intro _ _)); (on_goal 3 => exact List.Subset.refl _)) | split | (with_reducible refine OnlyIn.upd_host ?_ (by decide)) | (with_reducible refine OnlyIn.upd_cmds ?_ (by decide)) | (with_reducible refine OnlyIn.upd_parts ?_ (by decide)) | (with_reducible refine OnlyIn.upd_retained ?_ (by decide)) | (with_reducible refine OnlyIn.upd_mem ?_ (by decide) (by first | (with_reducible exact .inr rfl) | exact .inl (by decide))) | (with_reducible refine OnlyIn.upd_walk ?_ (by decide)) | (with_reducible refine OnlyIn.upd_fab ?_ (by decide)) | (with_reducible refine OnlyIn.upd_rma ?_ (by decide)) | (with_reducible refine OnlyIn.upd_rmx ?_ (by decide)) | (with_reducible refine OnlyIn.upd_deck ?_ (by decide)) | (with_reducible refine OnlyIn.upd_sec ?_ (by decide)) | (with_reducible refine OnlyIn.upd ?_ (by constructor <;> first | (with_reducible rfl) | (with_reducible exact .inr rfl) | exact .inl (by decide))))

theorem warmReset_only (w0 : ℕ) (s : State) :
    OnlyIn [.out, .freeCnt, .clk, .regs, .host, .cmds, .seqs, .shards, .parts, .retained, .mgmt, .pins, .tap, .mem, .walk, .fab, .rma, .rmx, .deck, .sec, .cells, .act, .st] s (warmReset w0 s) := by
  unfold warmReset
  try dsimp only
  repeat' (first | (with_reducible exact OnlyIn.refl _ _) | (with_reducible refine OnlyIn.ite' ?_ ?_) | (with_reducible apply OnlyIn.via; (first | apply startBoot_only | apply coldReset_only | apply enterState_only | apply warmData_only | apply toStep_only); on_goal 1 => decide) | split | (with_reducible refine OnlyIn.upd_mgmt ?_ (by decide) (by first | (with_reducible exact .inr rfl))))

theorem reqWarmReset_only (w : Writer) (s : State) :
    OnlyIn [.out, .freeCnt, .clk, .regs, .host, .cmds, .seqs, .shards, .parts, .retained, .mgmt, .pins, .tap, .mem, .walk, .fab, .rma, .rmx, .deck, .sec, .cells, .act, .st] s (reqWarmReset w s) := by
  unfold reqWarmReset
  try dsimp only
  repeat' (first | exact List.Subset.refl _ | decide | (with_reducible exact OnlyIn.refl _ _) | (with_reducible refine OnlyIn.ite' ?_ ?_) | (with_reducible apply OnlyIn.via; (first | apply setReq_only | apply warmReset_only); on_goal 1 => decide) | ((with_reducible apply OnlyIn.andThen (m := [.out, .freeCnt, .clk, .regs, .host, .cmds, .seqs, .shards, .parts, .retained, .mgmt, .pins, .tap, .mem, .walk, .fab, .rma, .rmx, .deck, .sec, .cells, .act, .st])); (on_goal 2 => (with_reducible apply request_only))) | split | intro x)

theorem execWarmReset_only (w : Writer) (s : State) {t' : State} (h : (execWarmReset w s) = .next t') :
    OnlyIn [.out, .freeCnt, .clk, .regs, .host, .cmds, .seqs, .shards, .parts, .retained, .mgmt, .pins, .tap, .mem, .walk, .fab, .rma, .rmx, .deck, .sec, .cells, .act, .st] s t' := by
  unfold execWarmReset at h
  try dsimp only at h
  repeat' (first | cases h | split at h)
  all_goals repeat' (first | (with_reducible exact OnlyIn.refl _ _) | (with_reducible refine OnlyIn.ite' ?_ ?_) | (with_reducible apply OnlyIn.via; (first | apply reqWarmReset_only); on_goal 1 => decide))

theorem reqColdReset_only (w : Writer) (s : State) :
    OnlyIn [.clk, .regs, .host, .cmds, .seqs, .shards, .parts, .retained, .mgmt, .pins, .tap, .mem, .walk, .fab, .rma, .rmx, .deck, .sec, .cells, .act, .st] s (reqColdReset w s) := by
  unfold reqColdReset
  try dsimp only
  repeat' (first | exact List.Subset.refl _ | decide | (with_reducible exact OnlyIn.refl _ _) | (with_reducible refine OnlyIn.ite' ?_ ?_) | (with_reducible apply OnlyIn.via; (first | apply setReq_only | apply startBoot_only | apply coldReset_only); on_goal 1 => decide) | ((with_reducible apply OnlyIn.andThen (m := [.clk, .regs, .host, .cmds, .seqs, .shards, .parts, .retained, .mgmt, .pins, .tap, .mem, .walk, .fab, .rma, .rmx, .deck, .sec, .cells, .act, .st])); (on_goal 2 => (with_reducible apply request_only))) | split | intro x)

theorem execColdReset_only (w : Writer) (s : State) {t' : State} (h : (execColdReset w s) = .next t') :
    OnlyIn [.clk, .regs, .host, .cmds, .seqs, .shards, .parts, .retained, .mgmt, .pins, .tap, .mem, .walk, .fab, .rma, .rmx, .deck, .sec, .cells, .act, .st] s t' := by
  unfold execColdReset at h
  try dsimp only at h
  repeat' (first | cases h | split at h)
  all_goals repeat' (first | (with_reducible exact OnlyIn.refl _ _) | (with_reducible refine OnlyIn.ite' ?_ ?_) | (with_reducible apply OnlyIn.via; (first | apply reqColdReset_only); on_goal 1 => decide))

theorem reqEnterTest_only (w : Writer) (s : State) :
    OnlyIn [.regs, .mgmt, .pins, .st] s (reqEnterTest w s) := by
  unfold reqEnterTest
  try dsimp only
  repeat' (first | exact List.Subset.refl _ | decide | (with_reducible exact OnlyIn.refl _ _) | (with_reducible refine OnlyIn.ite' ?_ ?_) | (with_reducible apply OnlyIn.via; (first | apply touch_only | apply setValBits_only | apply setReq_only | apply enterState_only); on_goal 1 => decide) | ((with_reducible apply OnlyIn.andThen (m := [.regs, .mgmt, .pins, .st])); (on_goal 2 => (with_reducible apply request_only))) | split | intro x)

theorem execEnterTest_only (w : Writer) (s : State) {t' : State} (h : (execEnterTest w s) = .next t') :
    OnlyIn [.regs, .mgmt, .pins, .st] s t' := by
  unfold execEnterTest at h
  try dsimp only at h
  repeat' (first | cases h | split at h)
  all_goals repeat' (first | (with_reducible exact OnlyIn.refl _ _) | (with_reducible refine OnlyIn.ite' ?_ ?_) | (with_reducible apply OnlyIn.via; (first | apply reqEnterTest_only); on_goal 1 => decide))

theorem reqLeaveTest_only (w : Writer) (s : State) :
    OnlyIn [.clk, .regs, .host, .cmds, .seqs, .shards, .parts, .retained, .mgmt, .pins, .tap, .mem, .walk, .fab, .rma, .rmx, .deck, .sec, .cells, .act, .st] s (reqLeaveTest w s) := by
  unfold reqLeaveTest
  try dsimp only
  repeat' (first | exact List.Subset.refl _ | decide | (with_reducible exact OnlyIn.refl _ _) | (with_reducible refine OnlyIn.ite' ?_ ?_) | (with_reducible apply OnlyIn.via; (first | apply setReq_only | apply startBoot_only | apply coldReset_only | apply enterState_only); on_goal 1 => decide) | ((with_reducible apply OnlyIn.andThen (m := [.clk, .regs, .host, .cmds, .seqs, .shards, .parts, .retained, .mgmt, .pins, .tap, .mem, .walk, .fab, .rma, .rmx, .deck, .sec, .cells, .act, .st])); (on_goal 2 => (with_reducible apply request_only))) | split | intro x)

theorem execLeaveTest_only (w : Writer) (s : State) {t' : State} (h : (execLeaveTest w s) = .next t') :
    OnlyIn [.clk, .regs, .host, .cmds, .seqs, .shards, .parts, .retained, .mgmt, .pins, .tap, .mem, .walk, .fab, .rma, .rmx, .deck, .sec, .cells, .act, .st] s t' := by
  unfold execLeaveTest at h
  try dsimp only at h
  repeat' (first | cases h | split at h)
  all_goals repeat' (first | (with_reducible exact OnlyIn.refl _ _) | (with_reducible refine OnlyIn.ite' ?_ ?_) | (with_reducible apply OnlyIn.via; (first | apply reqLeaveTest_only); on_goal 1 => decide))

theorem railsDown_only (cause : ℕ) (s : State) :
    OnlyIn [.clk, .regs, .host, .cmds, .seqs, .shards, .parts, .retained, .mgmt, .pins, .tap, .mem, .walk, .fab, .rma, .rmx, .deck, .sec, .cells, .act, .st] s (railsDown cause s) := by
  unfold railsDown
  try dsimp only
  repeat' (first | (with_reducible exact OnlyIn.refl _ _) | (with_reducible refine OnlyIn.ite' ?_ ?_) | (with_reducible apply OnlyIn.via; (first | apply coldReset_only | apply toStep_only); on_goal 1 => decide))

theorem reqRecovery_only (w : Writer) (s : State) :
    OnlyIn [.clk, .regs, .host, .cmds, .seqs, .shards, .parts, .retained, .mgmt, .pins, .tap, .mem, .walk, .fab, .rma, .rmx, .deck, .sec, .cells, .act, .st] s (reqRecovery w s) := by
  unfold reqRecovery
  try dsimp only
  repeat' (first | exact List.Subset.refl _ | decide | (with_reducible exact OnlyIn.refl _ _) | (with_reducible refine OnlyIn.ite' ?_ ?_) | (with_reducible apply OnlyIn.via; (first | apply setReq_only | apply enterState_only | apply railsDown_only); on_goal 1 => decide) | ((with_reducible apply OnlyIn.andThen (m := [.clk, .regs, .host, .cmds, .seqs, .shards, .parts, .retained, .mgmt, .pins, .tap, .mem, .walk, .fab, .rma, .rmx, .deck, .sec, .cells, .act, .st])); (on_goal 2 => (with_reducible apply request_only))) | split | intro x)

theorem execRecovery_only (w : Writer) (s : State) {t' : State} (h : (execRecovery w s) = .next t') :
    OnlyIn [.clk, .regs, .host, .cmds, .seqs, .shards, .parts, .retained, .mgmt, .pins, .tap, .mem, .walk, .fab, .rma, .rmx, .deck, .sec, .cells, .act, .st] s t' := by
  unfold execRecovery at h
  try dsimp only at h
  repeat' (first | cases h | split at h)
  all_goals repeat' (first | (with_reducible exact OnlyIn.refl _ _) | (with_reducible refine OnlyIn.ite' ?_ ?_) | (with_reducible apply OnlyIn.via; (first | apply reqRecovery_only); on_goal 1 => decide))

theorem reqContinue_only (w : Writer) (s : State) :
    OnlyIn [.regs, .mgmt] s (reqContinue w s) := by
  unfold reqContinue
  try dsimp only
  repeat' (first | exact List.Subset.refl _ | decide | (with_reducible exact OnlyIn.refl _ _) | (with_reducible refine OnlyIn.ite' ?_ ?_) | (with_reducible apply OnlyIn.via; (first | apply setReq_only | apply showState_only); on_goal 1 => decide) | ((with_reducible apply OnlyIn.andThen (m := [.regs, .mgmt])); (on_goal 2 => (with_reducible apply request_only))) | split | (with_reducible refine OnlyIn.upd_mgmt ?_ (by decide) (by first | (with_reducible exact .inr rfl))) | (with_reducible refine OnlyIn.upd ?_ (by constructor <;> first | (with_reducible rfl) | (with_reducible exact .inr rfl))) | intro x)

theorem execContinueReq_only (w : Writer) (s : State) {t' : State} (h : (execContinueReq w s) = .next t') :
    OnlyIn [.regs, .mgmt] s t' := by
  unfold execContinueReq at h
  try dsimp only at h
  repeat' (first | cases h | split at h)
  all_goals repeat' (first | (with_reducible exact OnlyIn.refl _ _) | (with_reducible refine OnlyIn.ite' ?_ ?_) | (with_reducible apply OnlyIn.via; (first | apply reqContinue_only); on_goal 1 => decide))

theorem autoBoot_only (s : State) :
    OnlyIn [.regs, .mgmt] s (autoBoot s) := by
  unfold autoBoot
  try dsimp only
  repeat' (first | (with_reducible exact OnlyIn.refl _ _) | (with_reducible refine OnlyIn.ite' ?_ ?_) | (with_reducible apply OnlyIn.via; (first | apply startBoot_only); on_goal 1 => decide))

theorem rebuildMgmtRing_only (s : State) :
    OnlyIn [.host] s (rebuildMgmtRing s) := by
  unfold rebuildMgmtRing
  try dsimp only
  repeat' (first | (with_reducible exact OnlyIn.refl _ _) | (with_reducible refine OnlyIn.ite' ?_ ?_) | (with_reducible apply OnlyIn.via; (first | apply setRing_only); on_goal 1 => decide))

theorem linkLost_only (w0 : ℕ) (s : State) :
    OnlyIn [.out, .freeCnt, .clk, .regs, .host, .cmds, .seqs, .shards, .parts, .retained, .mgmt, .pins, .tap, .mem, .walk, .fab, .rma, .rmx, .deck, .sec, .cells, .act, .st] s (linkLost w0 s) := by
  unfold linkLost
  try dsimp only
  repeat' (first | (with_reducible exact OnlyIn.refl _ _) | (with_reducible refine OnlyIn.ite' ?_ ?_) | (with_reducible apply OnlyIn.via; (first | apply warmReset_only); on_goal 1 => decide) | split | (with_reducible refine OnlyIn.upd_host ?_ (by decide)))

theorem execRetrainingPiece_only (ch : ℕ) (late : Bool) (s : State) {t' : State} (h : (execRetrainingPiece ch late s) = .next t') :
    OnlyIn [.out, .freeCnt, .regs, .host, .cmds, .mgmt, .deck, .sec] s t' := by
  unfold execRetrainingPiece at h
  try dsimp only at h
  repeat' (first | cases h | split at h)
  all_goals repeat' (first | (with_reducible exact OnlyIn.refl _ _) | (with_reducible refine OnlyIn.ite' ?_ ?_) | (with_reducible apply OnlyIn.via; (first | apply strikeCards_only); on_goal 1 => decide))

theorem sensorRead_only (x : SensorVal) (s : State) :
    OnlyIn [.regs, .mgmt] s (sensorRead x s) := by
  unfold sensorRead
  try dsimp only
  repeat' (first | (with_reducible exact OnlyIn.refl _ _) | (with_reducible refine OnlyIn.ite' ?_ ?_) | (with_reducible apply OnlyIn.via; (first | apply setVal_only | apply logMgmt_only); on_goal 1 => decide) | split)

theorem execTelemetrySample_only (vals : List SensorVal) (s : State) {t' : State} (h : (execTelemetrySample vals s) = .next t') :
    OnlyIn [.clk, .regs, .mgmt] s t' := by
  unfold execTelemetrySample at h
  try dsimp only at h
  repeat' (first | cases h | split at h)
  all_goals repeat' (first | exact List.Subset.refl _ | decide | (with_reducible exact OnlyIn.refl _ _) | (with_reducible refine OnlyIn.ite' ?_ ?_) | (with_reducible apply OnlyIn.via; (first | apply sensorRead_only | apply advanceMss_only); on_goal 1 => decide) | ((with_reducible apply OnlyIn.andThen (m := [.clk, .regs, .mgmt])); (on_goal 2 => (with_reducible apply forEach_only))) | ((with_reducible apply OnlyIn.andThen (m := [.clk, .regs, .mgmt])); (on_goal 2 => (with_reducible apply OnlyIn.forEach; intro _ _)); (on_goal 3 => exact List.Subset.refl _)))

theorem flushLog_only (s : State) :
    OnlyIn [.out, .mgmt] s (flushLog s) := by
  unfold flushLog
  try dsimp only
  repeat' (first | (with_reducible exact OnlyIn.refl _ _) | (with_reducible refine OnlyIn.ite' ?_ ?_) | (with_reducible apply OnlyIn.via; (first | apply emit_only); on_goal 1 => decide) | split | (with_reducible refine OnlyIn.upd_mgmt ?_ (by decide) (by first | (with_reducible exact .inr rfl))))

theorem execThermalTrip_only (sensor : ℕ) (val : BitVec 16) (s : State) {t' : State} (h : (execThermalTrip sensor val s) = .next t') :
    OnlyIn [.out, .clk, .regs, .host, .cmds, .seqs, .shards, .parts, .retained, .mgmt, .pins, .tap, .mem, .walk, .fab, .rma, .rmx, .deck, .sec, .cells, .act, .st] s t' := by
  unfold execThermalTrip at h
  try dsimp only at h
  repeat' (first | cases h | split at h)
  all_goals repeat' (first | (with_reducible exact OnlyIn.refl _ _) | (with_reducible refine OnlyIn.ite' ?_ ?_) | (with_reducible apply OnlyIn.via; (first | apply flushLog_only | apply logMgmt_only | apply railsDown_only | apply emit_only); on_goal 1 => decide) | split | (with_reducible refine OnlyIn.upd_pins ?_ (by decide)))

theorem execEventLogFlush_only (s : State) {t' : State} (h : (execEventLogFlush s) = .next t') :
    OnlyIn [.out, .mgmt] s t' := by
  unfold execEventLogFlush at h
  try dsimp only at h
  repeat' (first | cases h | split at h)
  all_goals repeat' (first | (with_reducible exact OnlyIn.refl _ _) | (with_reducible refine OnlyIn.ite' ?_ ?_) | (with_reducible apply OnlyIn.via; (first | apply flushLog_only); on_goal 1 => decide))

theorem execJtagBypass_only (s : State) {t' : State} (h : (execJtagBypass s) = .next t') :
    OnlyIn [.out] s t' := by
  unfold execJtagBypass at h
  try dsimp only at h
  repeat' (first | cases h | split at h)
  all_goals repeat' (first | (with_reducible exact OnlyIn.refl _ _) | (with_reducible refine OnlyIn.ite' ?_ ?_) | (with_reducible apply OnlyIn.via; (first | apply emit_only); on_goal 1 => decide))

theorem execJtagIdcode_only (s : State) {t' : State} (h : (execJtagIdcode s) = .next t') :
    OnlyIn [.out] s t' := by
  unfold execJtagIdcode at h
  try dsimp only at h
  repeat' (first | cases h | split at h)
  all_goals repeat' (first | (with_reducible exact OnlyIn.refl _ _) | (with_reducible refine OnlyIn.ite' ?_ ?_) | (with_reducible apply OnlyIn.via; (first | apply emit_only); on_goal 1 => decide))

theorem execJtagSamplePreload_only (s : State) {t' : State} (h : (execJtagSamplePreload s) = .next t') :
    OnlyIn [.out, .freeCnt] s t' := by
  unfold execJtagSamplePreload at h
  try dsimp only at h
  repeat' (first | cases h | split at h)
  all_goals repeat' (first | (with_reducible exact OnlyIn.refl _ _) | (with_reducible refine OnlyIn.ite' ?_ ?_) | (with_reducible apply OnlyIn.via; (first | apply stepFree_only | apply emit_only); on_goal 1 => decide))

theorem driveJtag_only (s : State) :
    OnlyIn [.clk, .regs, .host, .cmds, .seqs, .shards, .parts, .retained, .mgmt, .tap, .mem, .walk, .fab, .rma, .rmx, .deck, .sec, .cells, .act] s (driveJtag s) := by
  unfold driveJtag
  try dsimp only
  repeat' (first | (with_reducible exact OnlyIn.refl _ _) | (with_reducible refine OnlyIn.ite' ?_ ?_) | (with_reducible apply OnlyIn.via; (first | apply coldData_only | apply logMgmt_only | apply showState_only | apply setVal_only); on_goal 1 => decide) | split | (with_reducible refine OnlyIn.upd_mgmt ?_ (by decide) (by first | (with_reducible exact .inr rfl))))

theorem execJtagExtest_only (s : State) {t' : State} (h : (execJtagExtest s) = .next t') :
    OnlyIn [.clk, .regs, .host, .cmds, .seqs, .shards, .parts, .retained, .mgmt, .tap, .mem, .walk, .fab, .rma, .rmx, .deck, .sec, .cells, .act] s t' := by
  unfold execJtagExtest at h
  try dsimp only at h
  repeat' (first | cases h | split at h)
  all_goals repeat' (first | (with_reducible exact OnlyIn.refl _ _) | (with_reducible refine OnlyIn.ite' ?_ ?_) | (with_reducible apply OnlyIn.via; (first | apply driveJtag_only); on_goal 1 => decide))

theorem execJtagClamp_only (s : State) {t' : State} (h : (execJtagClamp s) = .next t') :
    OnlyIn [.clk, .regs, .host, .cmds, .seqs, .shards, .parts, .retained, .mgmt, .tap, .mem, .walk, .fab, .rma, .rmx, .deck, .sec, .cells, .act] s t' := by
  unfold execJtagClamp at h
  try dsimp only at h
  repeat' (first | cases h | split at h)
  all_goals repeat' (first | (with_reducible exact OnlyIn.refl _ _) | (with_reducible refine OnlyIn.ite' ?_ ?_) | (with_reducible apply OnlyIn.via; (first | apply driveJtag_only); on_goal 1 => decide))

theorem execJtagIntest_only (s : State) {t' : State} (h : (execJtagIntest s) = .next t') :
    OnlyIn [.clk, .regs, .host, .cmds, .seqs, .shards, .parts, .retained, .mgmt, .tap, .mem, .walk, .fab, .rma, .rmx, .deck, .sec, .cells, .act] s t' := by
  unfold execJtagIntest at h
  try dsimp only at h
  repeat' (first | cases h | split at h)
  all_goals repeat' (first | (with_reducible exact OnlyIn.refl _ _) | (with_reducible refine OnlyIn.ite' ?_ ?_) | (with_reducible apply OnlyIn.via; (first | apply driveJtag_only); on_goal 1 => decide))

theorem bootMss_only (s : State) :
    OnlyIn [.out, .regs, .mgmt, .pins, .act, .st] s (bootMss s) := by
  unfold bootMss
  try dsimp only
  repeat' (first | (with_reducible exact OnlyIn.refl _ _) | (with_reducible refine OnlyIn.ite' ?_ ?_) | (with_reducible apply OnlyIn.via; (first | apply enterState_only | apply logMgmt_only | apply saveConfig_only | apply setAct_only); on_goal 1 => decide))

theorem execStandbyPowerGood_only (recoveryN : Bool) (sris : Bool) (smbAddr : BitVec 2) (s : State) {t' : State} (h : (execStandbyPowerGood recoveryN sris smbAddr s) = .next t') :
    OnlyIn [.out, .freeCnt, .regs, .mgmt, .pins, .tap, .sec, .act, .st] s t' := by
  unfold execStandbyPowerGood at h
  try dsimp only at h
  repeat' (first | cases h | split at h)
  all_goals repeat' (first | (with_reducible exact OnlyIn.refl _ _) | (with_reducible refine OnlyIn.ite' ?_ ?_) | (with_reducible apply OnlyIn.via; (first | apply autoBoot_only | apply bootMss_only | apply drawChallenge_only); on_goal 1 => decide) | split | (with_reducible refine OnlyIn.upd_mgmt ?_ (by decide) (by first | (with_reducible exact .inr rfl) | exact .inl (by decide))) | (with_reducible refine OnlyIn.upd_pins ?_ (by decide)) | (with_reducible refine OnlyIn.upd_tap ?_ (by decide)) | (with_reducible refine OnlyIn.upd ?_ (by constructor <;> first | (with_reducible rfl) | (with_reducible exact .inr rfl) | exact .inl (by decide))))

theorem execStandbyPowerLoss_only (s : State) {t' : State} (h : (execStandbyPowerLoss s) = .next t') :
    OnlyIn [.clk, .regs, .own, .host, .cmds, .seqs, .shards, .parts, .retained, .mgmt, .pins, .tap, .assay, .mem, .walk, .fab, .rma, .rmx, .deck, .sec, .cells, .act, .st] s t' := by
  unfold execStandbyPowerLoss at h
  try dsimp only at h
  repeat' (first | cases h | split at h)
  all_goals repeat' (first | (with_reducible exact OnlyIn.refl _ _) | (with_reducible refine OnlyIn.ite' ?_ ?_) | (with_reducible apply OnlyIn.via; (first | apply coldData_only | apply showState_only); on_goal 1 => decide) | split | (with_reducible refine OnlyIn.upd_clk ?_ (by decide)) | (with_reducible refine OnlyIn.upd_own ?_ (by decide)) | (with_reducible refine OnlyIn.upd_mgmt ?_ (by decide) (by first | (with_reducible exact .inr rfl) | exact .inl (by decide))) | (with_reducible refine OnlyIn.upd_pins ?_ (by decide)) | (with_reducible refine OnlyIn.upd_tap ?_ (by decide)) | (with_reducible refine OnlyIn.upd_assay ?_ (by decide)) | (with_reducible refine OnlyIn.upd ?_ (by constructor <;> first | (with_reducible rfl) | (with_reducible exact .inr rfl) | exact .inl (by decide))))

theorem lose48_only (s : State) :
    OnlyIn [.clk, .regs, .host, .cmds, .seqs, .shards, .parts, .retained, .mgmt, .pins, .tap, .mem, .walk, .fab, .rma, .rmx, .deck, .sec, .cells, .act, .st] s (lose48 s) := by
  unfold lose48
  try dsimp only
  repeat' (first | (with_reducible exact OnlyIn.refl _ _) | (with_reducible refine OnlyIn.ite' ?_ ?_) | (with_reducible apply OnlyIn.via; (first | apply railsDown_only); on_goal 1 => decide) | split | (with_reducible refine OnlyIn.upd_pins ?_ (by decide)))

theorem execMainPowerLoss_only (s : State) {t' : State} (h : (execMainPowerLoss s) = .next t') :
    OnlyIn [.clk, .regs, .host, .cmds, .seqs, .shards, .parts, .retained, .mgmt, .pins, .tap, .mem, .walk, .fab, .rma, .rmx, .deck, .sec, .cells, .act, .st] s t' := by
  unfold execMainPowerLoss at h
  try dsimp only at h
  repeat' (first | cases h | split at h)
  all_goals repeat' (first | (with_reducible exact OnlyIn.refl _ _) | (with_reducible refine OnlyIn.ite' ?_ ?_) | (with_reducible apply OnlyIn.via; (first | apply lose48_only); on_goal 1 => decide))

theorem execVin48Dip_only (us : ℕ) (minMv : ℕ) (s : State) {t' : State} (h : (execVin48Dip us minMv s) = .next t') :
    OnlyIn [.clk, .regs, .host, .cmds, .seqs, .shards, .parts, .retained, .mgmt, .pins, .tap, .mem, .walk, .fab, .rma, .rmx, .deck, .sec, .cells, .act, .st] s t' := by
  unfold execVin48Dip at h
  try dsimp only at h
  repeat' (first | cases h | split at h)
  all_goals repeat' (first | (with_reducible exact OnlyIn.refl _ _) | (with_reducible refine OnlyIn.ite' ?_ ?_) | (with_reducible apply OnlyIn.via; (first | apply lose48_only); on_goal 1 => decide))

theorem trainPackages_only (mask : ℕ) (s : State) :
    OnlyIn [.out, .freeCnt, .regs, .host, .cmds, .seqs, .parts, .mgmt, .pins, .mem, .sec, .act, .st] s (trainPackages mask s) := by
  unfold trainPackages
  try dsimp only
  repeat' (first | exact List.Subset.refl _ | decide | (with_reducible exact OnlyIn.refl _ _) | (with_reducible refine OnlyIn.ite' ?_ ?_) | (with_reducible apply OnlyIn.via; (first | apply pkgDown_only); on_goal 1 => decide) | ((with_reducible apply OnlyIn.andThen (m := [.out, .freeCnt, .regs, .host, .cmds, .seqs, .parts, .mgmt, .pins, .mem, .sec, .act, .st])); (on_goal 2 => (with_reducible apply forEach_only))) | ((with_reducible apply OnlyIn.andThen (m := [.out, .freeCnt, .regs, .host, .cmds, .seqs, .parts, .mgmt, .pins, .mem, .sec, .act, .st])); (on_goal 2 => (with_reducible apply OnlyIn.forEach; intro _ _)); (on_goal 3 => exact List.Subset.refl _)))

theorem loadCrucibles_only (s : State) :
    OnlyIn [.regs, .mem, .act] s (loadCrucibles s) := by
  unfold loadCrucibles
  try dsimp only
  repeat' (first | exact List.Subset.refl _ | decide | (with_reducible exact OnlyIn.refl _ _) | (with_reducible refine OnlyIn.ite' ?_ ?_) | (with_reducible apply OnlyIn.via; (first | apply setAct_only | apply showImg_only | apply setUnit_only); on_goal 1 => decide) | ((with_reducible apply OnlyIn.andThen (m := [.regs, .mem, .act])); (on_goal 2 => (with_reducible apply forEach_only))) | ((with_reducible apply OnlyIn.andThen (m := [.regs, .mem, .act])); (on_goal 2 => (with_reducible apply OnlyIn.forEach; intro _ _)); (on_goal 3 => exact List.Subset.refl _)) | split | (with_reducible refine OnlyIn.upd_mem ?_ (by decide) (by first | (with_reducible exact .inr rfl))))

theorem fillAndTrain_only (s : State) :
    OnlyIn [.out, .regs, .host, .mgmt, .mem, .fab, .cells] s (fillAndTrain s) := by
  unfold fillAndTrain
  try dsimp only
  repeat' (first | exact List.Subset.refl _ | decide | (with_reducible exact OnlyIn.refl _ _) | (with_reducible refine OnlyIn.ite' ?_ ?_) | (with_reducible apply OnlyIn.via; (first | apply setLink_only); on_goal 1 => decide) | ((with_reducible apply OnlyIn.andThen (m := [.out, .regs, .host, .mgmt, .mem, .fab, .cells])); (on_goal 2 => (with_reducible apply forEach_only))) | ((with_reducible apply OnlyIn.andThen (m := [.out, .regs, .host, .mgmt, .mem, .fab, .cells])); (on_goal 2 => (with_reducible apply OnlyIn.forEach; intro _ _)); (on_goal 3 => exact List.Subset.refl _)) | split | (with_reducible refine OnlyIn.upd_mem ?_ (by decide) (by first | (with_reducible exact .inr rfl) | exact .inl (by decide))))

theorem rebuildAll_only (imgs : List RingImage) (s : State) :
    OnlyIn [.out, .regs, .host, .cmds, .mgmt, .act] s (rebuildAll imgs s) := by
  unfold rebuildAll
  try dsimp only
  repeat' (first | exact List.Subset.refl _ | decide | (with_reducible exact OnlyIn.refl _ _) | (with_reducible refine OnlyIn.ite' ?_ ?_) | (with_reducible apply OnlyIn.via; (first | apply rebuildRing_only | apply post_only | apply setRing_only | apply clearEn_only); on_goal 1 => decide) | ((with_reducible apply OnlyIn.andThen (m := [.out, .regs, .host, .cmds, .mgmt, .act])); (on_goal 2 => (with_reducible apply forEach_only))) | ((with_reducible apply OnlyIn.andThen (m := [.out, .regs, .host, .cmds, .mgmt, .act])); (on_goal 2 => (with_reducible apply OnlyIn.forEach; intro _ _)); (on_goal 3 => exact List.Subset.refl _)) | split)

theorem finishBoot_only (imgs : List RingImage) (s : State) :
    OnlyIn [.out, .regs, .host, .cmds, .mgmt, .pins, .rma, .act, .st] s (finishBoot imgs s) := by
  unfold finishBoot
  try dsimp only
  repeat' (first | (with_reducible exact OnlyIn.refl _ _) | (with_reducible refine OnlyIn.ite' ?_ ?_) | (with_reducible apply OnlyIn.via; (first | apply enterState_only | apply rebuildMgmtRing_only | apply rebuildAll_only); on_goal 1 => decide) | split | (with_reducible refine OnlyIn.upd_mgmt ?_ (by decide) (by first | (with_reducible exact .inr rfl) | exact .inl (by decide))) | (with_reducible refine OnlyIn.upd_rma ?_ (by decide)) | (with_reducible refine OnlyIn.upd ?_ (by constructor <;> first | (with_reducible rfl) | (with_reducible exact .inr rfl) | exact .inl (by decide))))

theorem execBringupStepDone_only (res : BringupResult) (imgs : List RingImage) (s : State) {t' : State} (h : (execBringupStepDone res imgs s) = .next t') :
    OnlyIn [.out, .freeCnt, .clk, .regs, .host, .cmds, .seqs, .shards, .parts, .retained, .mgmt, .pins, .tap, .mem, .walk, .fab, .rma, .rmx, .deck, .sec, .cells, .act, .st] s t' := by
  unfold execBringupStepDone at h
  try dsimp only at h
  repeat' (first | cases h | split at h)
  all_goals repeat' (first | (with_reducible exact OnlyIn.refl _ _) | (with_reducible refine OnlyIn.ite' ?_ ?_) | (with_reducible apply OnlyIn.via; (first | apply toStep_only | apply enterState_only | apply coldReset_only | apply trainPackages_only | apply loadCrucibles_only | apply fillAndTrain_only | apply finishBoot_only); on_goal 1 => decide) | split)

theorem execPerstAssert_only (s : State) {t' : State} (h : (execPerstAssert s) = .next t') :
    OnlyIn [.out, .freeCnt, .clk, .regs, .host, .cmds, .seqs, .shards, .parts, .retained, .mgmt, .pins, .tap, .mem, .walk, .fab, .rma, .rmx, .deck, .sec, .cells, .act, .st] s t' := by
  unfold execPerstAssert at h
  try dsimp only at h
  repeat' (first | cases h | split at h)
  all_goals repeat' (first | (with_reducible exact OnlyIn.refl _ _) | (with_reducible refine OnlyIn.ite' ?_ ?_) | (with_reducible apply OnlyIn.via; (first | apply warmReset_only); on_goal 1 => decide) | split | (with_reducible refine OnlyIn.upd_host ?_ (by decide)))

theorem execPerstDeassert_only (s : State) {t' : State} (h : (execPerstDeassert s) = .next t') :
    OnlyIn [.host] s t' := by
  unfold execPerstDeassert at h
  try dsimp only at h
  repeat' (first | cases h | split at h)
  all_goals repeat' (first | (with_reducible exact OnlyIn.refl _ _) | (with_reducible refine OnlyIn.ite' ?_ ?_) | split | (with_reducible refine OnlyIn.upd_host ?_ (by decide)))

theorem execPcieLinkDown_only (hotReset : Bool) (s : State) {t' : State} (h : (execPcieLinkDown hotReset s) = .next t') :
    OnlyIn [.out, .freeCnt, .clk, .regs, .host, .cmds, .seqs, .shards, .parts, .retained, .mgmt, .pins, .tap, .mem, .walk, .fab, .rma, .rmx, .deck, .sec, .cells, .act, .st] s t' := by
  unfold execPcieLinkDown at h
  try dsimp only at h
  repeat' (first | cases h | split at h)
  all_goals repeat' (first | (with_reducible exact OnlyIn.refl _ _) | (with_reducible refine OnlyIn.ite' ?_ ?_) | (with_reducible apply OnlyIn.via; (first | apply linkLost_only); on_goal 1 => decide))

theorem execPcieLinkUp_only (s : State) {t' : State} (h : (execPcieLinkUp s) = .next t') :
    OnlyIn [.host, .pins] s t' := by
  unfold execPcieLinkUp at h
  try dsimp only at h
  repeat' (first | cases h | split at h)
  all_goals repeat' (first | (with_reducible exact OnlyIn.refl _ _) | (with_reducible refine OnlyIn.ite' ?_ ?_) | split | (with_reducible refine OnlyIn.upd_host ?_ (by decide)) | (with_reducible refine OnlyIn.upd_pins ?_ (by decide)) | (with_reducible refine OnlyIn.upd ?_ (by constructor <;> first | (with_reducible rfl) | (with_reducible exact .inr rfl) | exact .inl (by decide))))

theorem flr_only (fn : ℕ) (mine : ℕ → Bool) (s : State) :
    OnlyIn [.out, .freeCnt, .regs, .host, .cmds, .seqs, .mgmt, .walk, .rma, .rmx, .deck, .sec, .act] s (flr fn mine s) := by
  unfold flr
  try dsimp only
  repeat' (first | exact List.Subset.refl _ | decide | (with_reducible exact OnlyIn.refl _ _) | (with_reducible refine OnlyIn.ite' ?_ ?_) | (with_reducible apply OnlyIn.via; (first | apply forget_only | apply setRing_only | apply clearEn_only | apply mapTurn_only | apply checkRelease_only); on_goal 1 => decide) | ((with_reducible apply OnlyIn.andThen (m := [.out, .freeCnt, .regs, .host, .cmds, .seqs, .mgmt, .walk, .rma, .rmx, .deck, .sec, .act])); (on_goal 2 => (with_reducible apply forEach_only))) | ((with_reducible apply OnlyIn.andThen (m := [.out, .freeCnt, .regs, .host, .cmds, .seqs, .mgmt, .walk, .rma, .rmx, .deck, .sec, .act])); (on_goal 2 => (with_reducible apply OnlyIn.forEach; intro _ _)); (on_goal 3 => exact List.Subset.refl _)) | split | (with_reducible refine OnlyIn.upd_host ?_ (by decide)))

theorem execFlrVf_only (vf : ℕ) (s : State) {t' : State} (h : (execFlrVf vf s) = .next t') :
    OnlyIn [.out, .freeCnt, .regs, .host, .cmds, .seqs, .mgmt, .walk, .rma, .rmx, .deck, .sec, .act] s t' := by
  unfold execFlrVf at h
  try dsimp only at h
  repeat' (first | cases h | split at h)
  all_goals repeat' (first | (with_reducible exact OnlyIn.refl _ _) | (with_reducible refine OnlyIn.ite' ?_ ?_) | (with_reducible apply OnlyIn.via; (first | apply flr_only); on_goal 1 => decide))

theorem execFlrPf_only (s : State) {t' : State} (h : (execFlrPf s) = .next t') :
    OnlyIn [.out, .freeCnt, .regs, .host, .cmds, .seqs, .mgmt, .walk, .rma, .rmx, .deck, .sec, .act] s t' := by
  unfold execFlrPf at h
  try dsimp only at h
  repeat' (first | cases h | split at h)
  all_goals repeat' (first | (with_reducible exact OnlyIn.refl _ _) | (with_reducible refine OnlyIn.ite' ?_ ?_) | (with_reducible apply OnlyIn.via; (first | apply flr_only); on_goal 1 => decide))

theorem execRefclkLoss_only (s : State) {t' : State} (h : (execRefclkLoss s) = .next t') :
    OnlyIn [.out, .freeCnt, .clk, .regs, .host, .cmds, .seqs, .shards, .parts, .retained, .mgmt, .pins, .tap, .mem, .walk, .fab, .rma, .rmx, .deck, .sec, .cells, .act, .st] s t' := by
  unfold execRefclkLoss at h
  try dsimp only at h
  repeat' (first | cases h | split at h)
  all_goals repeat' (first | (with_reducible exact OnlyIn.refl _ _) | (with_reducible refine OnlyIn.ite' ?_ ?_) | (with_reducible apply OnlyIn.via; (first | apply linkLost_only); on_goal 1 => decide) | split | (with_reducible refine OnlyIn.upd_pins ?_ (by decide)))

theorem execNodeOscFailure_only (s : State) {t' : State} (h : (execNodeOscFailure s) = .next t') :
    OnlyIn [.clk, .regs, .host, .cmds, .seqs, .shards, .parts, .retained, .mgmt, .pins, .tap, .mem, .walk, .fab, .rma, .rmx, .deck, .sec, .cells, .act, .st] s t' := by
  unfold execNodeOscFailure at h
  try dsimp only at h
  repeat' (first | cases h | split at h)
  all_goals repeat' (first | (with_reducible exact OnlyIn.refl _ _) | (with_reducible refine OnlyIn.ite' ?_ ?_) | (with_reducible apply OnlyIn.via; (first | apply coldReset_only); on_goal 1 => decide) | split | (with_reducible refine OnlyIn.upd_pins ?_ (by decide)))

theorem execVin48Return_only (s : State) {t' : State} (h : (execVin48Return s) = .next t') :
    OnlyIn [.regs, .mgmt, .pins] s t' := by
  unfold execVin48Return at h
  try dsimp only at h
  repeat' (first | cases h | split at h)
  all_goals repeat' (first | (with_reducible exact OnlyIn.refl _ _) | (with_reducible refine OnlyIn.ite' ?_ ?_) | (with_reducible apply OnlyIn.via; (first | apply autoBoot_only); on_goal 1 => decide) | split | (with_reducible refine OnlyIn.upd_pins ?_ (by decide)))

theorem execNodeOscRecovery_only (s : State) {t' : State} (h : (execNodeOscRecovery s) = .next t') :
    OnlyIn [.regs, .mgmt, .pins] s t' := by
  unfold execNodeOscRecovery at h
  try dsimp only at h
  repeat' (first | cases h | split at h)
  all_goals repeat' (first | (with_reducible exact OnlyIn.refl _ _) | (with_reducible refine OnlyIn.ite' ?_ ?_) | (with_reducible apply OnlyIn.via; (first | apply autoBoot_only); on_goal 1 => decide) | split | (with_reducible refine OnlyIn.upd_pins ?_ (by decide)))

end Sys2Proof.Machine
end

