-- ==== Sys2Proof/Laws/FrameMgmt.lean ====
section
/-! SUPPORT. The areas of the state that each function may change: faults, management and remote requests. -/

namespace Sys2Proof.Machine

open Sys2Proof

theorem dropSwitch_only (k : ℕ) (l : ℕ) (s : State) :
    OnlyIn [.parts] s (dropSwitch k l s) := by
  unfold dropSwitch
  try dsimp only
  repeat' (first | (with_reducible exact OnlyIn.refl _ _) | (with_reducible refine OnlyIn.ite' ?_ ?_) | split | (with_reducible refine OnlyIn.upd_parts ?_ (by decide)))

theorem setPhys_only (k : ℕ) (l : ℕ) (p : ℕ) (s : State) :
    OnlyIn [.regs, .act] s (setPhys k l p s) := by
  unfold setPhys
  try dsimp only
  repeat' (first | (with_reducible exact OnlyIn.refl _ _) | (with_reducible refine OnlyIn.ite' ?_ ?_) | (with_reducible apply OnlyIn.via; (first | apply setAct_only); on_goal 1 => decide))

theorem endWithout_only (k : ℕ) (ks : List ℕ) (s : State) :
    OnlyIn [.out, .freeCnt, .regs, .host, .cmds, .mgmt, .sec] s (endWithout k ks s) := by
  unfold endWithout
  try dsimp only
  repeat' (first | exact List.Subset.refl _ | decide | (with_reducible exact OnlyIn.refl _ _) | (with_reducible refine OnlyIn.ite' ?_ ?_) | (with_reducible apply OnlyIn.via; (first | apply faultAtAdmission_only | apply faultStep_only); on_goal 1 => decide) | ((with_reducible apply OnlyIn.andThen (m := [.out, .freeCnt, .regs, .host, .cmds, .mgmt, .sec])); (on_goal 2 => (with_reducible apply forEach_only))) | ((with_reducible apply OnlyIn.andThen (m := [.out, .freeCnt, .regs, .host, .cmds, .mgmt, .sec])); (on_goal 2 => (with_reducible apply OnlyIn.forEach; intro _ _)); (on_goal 3 => exact List.Subset.refl _)) | split)

theorem kindOffline_only (k : ℕ) (old : ℕ) (cause : ℕ) (steps : ℕ) (s : State) :
    OnlyIn [.out, .regs, .host, .parts, .mgmt, .pins, .st] s (kindOffline k old cause steps s) := by
  unfold kindOffline
  try dsimp only
  repeat' (first | exact List.Subset.refl _ | decide | (with_reducible exact OnlyIn.refl _ _) | (with_reducible refine OnlyIn.ite' ?_ ?_) | (with_reducible apply OnlyIn.via; (first | apply post_only | apply degrade_only); on_goal 1 => decide) | ((with_reducible apply OnlyIn.andThen (m := [.out, .regs, .host, .parts, .mgmt, .pins, .st])); (on_goal 2 => (with_reducible apply forEach_only))) | ((with_reducible apply OnlyIn.andThen (m := [.out, .regs, .host, .parts, .mgmt, .pins, .st])); (on_goal 2 => (with_reducible apply OnlyIn.forEach; intro _ _)); (on_goal 3 => exact List.Subset.refl _)) | split | (with_reducible refine OnlyIn.upd_parts ?_ (by decide)))

theorem startLoading_only (k : ℕ) (l : ℕ) (s : State) :
    OnlyIn [.parts] s (startLoading k l s) := by
  unfold startLoading
  try dsimp only
  repeat' (first | (with_reducible exact OnlyIn.refl _ _) | (with_reducible refine OnlyIn.ite' ?_ ?_) | split | (with_reducible refine OnlyIn.upd_parts ?_ (by decide)))

theorem takeOver_only (k : ℕ) (l : ℕ) (old : ℕ) (cause : ℕ) (steps : ℕ) (s : State) :
    OnlyIn [.out, .regs, .host, .parts, .mgmt, .act] s (takeOver k l old cause steps s).2 := by
  unfold takeOver
  try dsimp only
  repeat' (first | (with_reducible exact OnlyIn.refl _ _) | (with_reducible refine OnlyIn.ite' ?_ ?_) | (with_reducible apply OnlyIn.via; (first | apply dropSwitch_only | apply startLoading_only | apply setPhys_only | apply post_only | apply cntAdd_only); on_goal 1 => decide) | split)

theorem failPart_only (k : ℕ) (inst : ℕ) (cause : ℕ) (s : State) :
    OnlyIn [.out, .freeCnt, .regs, .host, .cmds, .parts, .mgmt, .pins, .deck, .sec, .act, .st] s (failPart k inst cause s) := by
  unfold failPart
  try dsimp only
  repeat' (first | exact List.Subset.refl _ | decide | (with_reducible exact OnlyIn.refl _ _) | (with_reducible refine OnlyIn.ite' ?_ ?_) | (with_reducible apply OnlyIn.via; (first | apply cntAdd_only | apply dropSwitch_only | apply setPhys_only | apply settleShares_only | apply endWithout_only | apply strikeSteps_only | apply kindOffline_only | apply takeOver_only); on_goal 1 => decide) | (with_reducible apply OnlyIn.via; (on_goal 1 => (with_reducible refine .ofPair (by assumption) (takeOver_only ..))); on_goal 1 => decide) | ((with_reducible apply OnlyIn.andThen (m := [.out, .freeCnt, .regs, .host, .cmds, .parts, .mgmt, .pins, .deck, .sec, .act, .st])); (on_goal 2 => (with_reducible apply forEach_only))) | ((with_reducible apply OnlyIn.andThen (m := [.out, .freeCnt, .regs, .host, .cmds, .parts, .mgmt, .pins, .deck, .sec, .act, .st])); (on_goal 2 => (with_reducible apply OnlyIn.forEach; intro _ _)); (on_goal 3 => exact List.Subset.refl _)) | split | (with_reducible refine OnlyIn.upd_parts ?_ (by decide)))

theorem retireContext_only (walker : ℕ) (ctx : ℕ) (cause : ℕ) (s : State) :
    OnlyIn [.out, .freeCnt, .regs, .host, .cmds, .parts, .mgmt, .pins, .deck, .sec, .act, .st] s (retireContext walker ctx cause s) := by
  unfold retireContext
  try dsimp only
  repeat' (first | (with_reducible exact OnlyIn.refl _ _) | (with_reducible refine OnlyIn.ite' ?_ ?_) | (with_reducible apply OnlyIn.via; (first | apply strikeSteps_only | apply cntAdd_only | apply failPart_only); on_goal 1 => decide) | split | (with_reducible refine OnlyIn.upd_parts ?_ (by decide)))

theorem failPackage_only (p : ℕ) (cause : ℕ) (s : State) :
    OnlyIn [.out, .freeCnt, .regs, .host, .cmds, .seqs, .parts, .mgmt, .pins, .mem, .deck, .sec, .act, .st] s (failPackage p cause s) := by
  unfold failPackage
  try dsimp only
  repeat' (first | (with_reducible exact OnlyIn.refl _ _) | (with_reducible refine OnlyIn.ite' ?_ ?_) | (with_reducible apply OnlyIn.via; (first | apply strikeSteps_only | apply pkgDown_only | apply cntAdd_only); on_goal 1 => decide))

theorem failMcc_only (m : ℕ) (cause : ℕ) (s : State) :
    OnlyIn [.out, .freeCnt, .regs, .host, .cmds, .seqs, .parts, .mgmt, .pins, .mem, .deck, .sec, .act, .st] s (failMcc m cause s) := by
  unfold failMcc
  try dsimp only
  repeat' (first | exact List.Subset.refl _ | decide | (with_reducible exact OnlyIn.refl _ _) | (with_reducible refine OnlyIn.ite' ?_ ?_) | (with_reducible apply OnlyIn.via; (first | apply failPackage_only | apply post_only | apply cntAdd_only); on_goal 1 => decide) | ((with_reducible apply OnlyIn.andThen (m := [.out, .freeCnt, .regs, .host, .cmds, .seqs, .parts, .mgmt, .pins, .mem, .deck, .sec, .act, .st])); (on_goal 2 => (with_reducible apply forEach_only))) | ((with_reducible apply OnlyIn.andThen (m := [.out, .freeCnt, .regs, .host, .cmds, .seqs, .parts, .mgmt, .pins, .mem, .deck, .sec, .act, .st])); (on_goal 2 => (with_reducible apply OnlyIn.forEach; intro _ _)); (on_goal 3 => exact List.Subset.refl _)))

theorem partGone_only (k : ℕ) (inst : ℕ) (cause : ℕ) (steps : ℕ) (s : State) :
    OnlyIn [.out, .regs, .host, .parts, .mgmt, .pins, .st] s (partGone k inst cause steps s) := by
  unfold partGone
  try dsimp only
  repeat' (first | (with_reducible exact OnlyIn.refl _ _) | (with_reducible refine OnlyIn.ite' ?_ ?_) | (with_reducible apply OnlyIn.via; (first | apply degrade_only | apply post_only | apply cntAdd_only); on_goal 1 => decide))

theorem retireSlice_only (n : ℕ) (cause : ℕ) (s : State) :
    OnlyIn [.out, .freeCnt, .regs, .host, .cmds, .parts, .mgmt, .pins, .deck, .sec, .st] s (retireSlice n cause s) := by
  unfold retireSlice
  try dsimp only
  repeat' (first | (with_reducible exact OnlyIn.refl _ _) | (with_reducible refine OnlyIn.ite' ?_ ?_) | (with_reducible apply OnlyIn.via; (first | apply strikeSteps_only | apply partGone_only); on_goal 1 => decide) | split | (with_reducible refine OnlyIn.upd_parts ?_ (by decide)))

theorem losePhase_only (cause : ℕ) (s : State) :
    OnlyIn [.out, .regs, .host, .parts, .mgmt, .pins, .st] s (losePhase cause s) := by
  unfold losePhase
  try dsimp only
  repeat' (first | (with_reducible exact OnlyIn.refl _ _) | (with_reducible refine OnlyIn.ite' ?_ ?_) | (with_reducible apply OnlyIn.via; (first | apply partGone_only); on_goal 1 => decide) | split | (with_reducible refine OnlyIn.upd_parts ?_ (by decide)))

theorem failSequencer_only (cause : ℕ) (s : State) :
    OnlyIn [.out, .freeCnt, .regs, .host, .cmds, .seqs, .parts, .mgmt, .pins, .rma, .deck, .sec, .st] s (failSequencer cause s) := by
  unfold failSequencer
  try dsimp only
  repeat' (first | (with_reducible exact OnlyIn.refl _ _) | (with_reducible refine OnlyIn.ite' ?_ ?_) | (with_reducible apply OnlyIn.via; (first | apply kindOffline_only | apply cntAdd_only | apply haltDeck_only | apply modDeck_only | apply faultAtAdmission_only | apply faultStep_only); on_goal 1 => decide) | split)

theorem declareFault_only (k : PartKind) (inst : ℕ) (cause : ℕ) (s : State) :
    OnlyIn [.out, .freeCnt, .clk, .regs, .host, .cmds, .seqs, .shards, .parts, .retained, .mgmt, .pins, .tap, .mem, .walk, .fab, .rma, .rmx, .deck, .sec, .cells, .act, .st] s (declareFault k inst cause s) := by
  unfold declareFault
  try dsimp only
  repeat' (first | (with_reducible exact OnlyIn.refl _ _) | (with_reducible refine OnlyIn.ite' ?_ ?_) | (with_reducible apply OnlyIn.via; (first | apply retireContext_only | apply unitFault_only | apply stopUnit_only | apply linkDown_only | apply cntAdd_only | apply failMcc_only | apply retireSlice_only | apply failPackage_only | apply losePhase_only | apply mssStops_only | apply linkLost_only | apply failSequencer_only | apply failPart_only); on_goal 1 => decide) | split | (with_reducible refine OnlyIn.upd_tap ?_ (by decide)))

theorem execPartFault_only (k : PartKind) (inst : ℕ) (cause : PartCause) (s : State) {t' : State} (h : (execPartFault k inst cause s) = .next t') :
    OnlyIn [.out, .freeCnt, .clk, .regs, .host, .cmds, .seqs, .shards, .parts, .retained, .mgmt, .pins, .tap, .mem, .walk, .fab, .rma, .rmx, .deck, .sec, .cells, .act, .st] s t' := by
  unfold execPartFault at h
  try dsimp only at h
  repeat' (first | cases h | split at h)
  all_goals repeat' (first | (with_reducible exact OnlyIn.refl _ _) | (with_reducible refine OnlyIn.ite' ?_ ?_) | (with_reducible apply OnlyIn.via; (first | apply declareFault_only); on_goal 1 => decide))

theorem execJokerSwitchDone_only (k : PartKind) (inst : ℕ) (s : State) {t' : State} (h : (execJokerSwitchDone k inst s) = .next t') :
    OnlyIn [.parts] s t' := by
  unfold execJokerSwitchDone at h
  try dsimp only at h
  repeat' (first | cases h | split at h)
  all_goals repeat' (first | (with_reducible exact OnlyIn.refl _ _) | (with_reducible refine OnlyIn.ite' ?_ ?_) | split | (with_reducible refine OnlyIn.upd_parts ?_ (by decide)))

theorem execPartWatchdog_only (k : PartKind) (inst : ℕ) (s : State) {t' : State} (h : (execPartWatchdog k inst s) = .next t') :
    OnlyIn [.out, .freeCnt, .clk, .regs, .host, .cmds, .seqs, .shards, .parts, .retained, .mgmt, .pins, .tap, .mem, .walk, .fab, .rma, .rmx, .deck, .sec, .cells, .act, .st] s t' := by
  unfold execPartWatchdog at h
  try dsimp only at h
  repeat' (first | cases h | split at h)
  all_goals repeat' (first | (with_reducible exact OnlyIn.refl _ _) | (with_reducible refine OnlyIn.ite' ?_ ?_) | (with_reducible apply OnlyIn.via; (first | apply declareFault_only | apply post_only | apply cntAdd_only); on_goal 1 => decide))

theorem execStepWatchdog_only (ring : ℕ) (rseq : BitVec 32) (s : State) {t' : State} (h : (execStepWatchdog ring rseq s) = .next t') :
    OnlyIn [.out, .freeCnt, .clk, .regs, .host, .cmds, .mgmt, .sec] s t' := by
  unfold execStepWatchdog at h
  try dsimp only at h
  repeat' (first | cases h | split at h)
  all_goals repeat' (first | (with_reducible exact OnlyIn.refl _ _) | (with_reducible refine OnlyIn.ite' ?_ ?_) | (with_reducible apply OnlyIn.via; (first | apply cntAdd_only | apply advanceTo_only | apply strikeCmd_only | apply post_only); on_goal 1 => decide) | split)

theorem countDouble_only (n : ℕ) (s : State) :
    OnlyIn [.out, .freeCnt, .regs, .host, .cmds, .parts, .mgmt, .pins, .deck, .sec, .st] s (countDouble n s) := by
  unfold countDouble
  try dsimp only
  repeat' (first | (with_reducible exact OnlyIn.refl _ _) | (with_reducible refine OnlyIn.ite' ?_ ?_) | (with_reducible apply OnlyIn.via; (first | apply retireSlice_only); on_goal 1 => decide) | split | (with_reducible refine OnlyIn.upd_parts ?_ (by decide)))

theorem execSharedBufferEccError_only (slice : ℕ) (e : EccEvent) (s : State) {t' : State} (h : (execSharedBufferEccError slice e s) = .next t') :
    OnlyIn [.out, .freeCnt, .regs, .host, .cmds, .parts, .mgmt, .pins, .deck, .sec, .st] s t' := by
  unfold execSharedBufferEccError at h
  try dsimp only at h
  repeat' (first | cases h | split at h)
  all_goals repeat' (first | (with_reducible exact OnlyIn.refl _ _) | (with_reducible refine OnlyIn.ite' ?_ ?_) | (with_reducible apply OnlyIn.via; (first | apply countDouble_only | apply faultAtAdmission_only | apply faultStep_only | apply strikeCmd_only); on_goal 1 => decide) | split | (with_reducible refine OnlyIn.upd_deck ?_ (by decide)))

theorem countUe_only (p : ℕ) (s : State) :
    OnlyIn [.out, .freeCnt, .regs, .host, .cmds, .seqs, .parts, .mgmt, .pins, .mem, .deck, .sec, .act, .st] s (countUe p s) := by
  unfold countUe
  try dsimp only
  repeat' (first | (with_reducible exact OnlyIn.refl _ _) | (with_reducible refine OnlyIn.ite' ?_ ?_) | (with_reducible apply OnlyIn.via; (first | apply failPackage_only); on_goal 1 => decide) | split | (with_reducible refine OnlyIn.upd_mem ?_ (by decide) (by first | (with_reducible exact .inr rfl))))

theorem ueEvent_only (code : ℕ) (n : ℕ) (st : ℕ) (item : ℕ) (addr : ℕ) (s : State) :
    OnlyIn [.out, .host, .mgmt] s (ueEvent code n st item addr s) := by
  unfold ueEvent
  try dsimp only
  repeat' (first | (with_reducible exact OnlyIn.refl _ _) | (with_reducible refine OnlyIn.ite' ?_ ?_) | (with_reducible apply OnlyIn.via; (first | apply post_only); on_goal 1 => decide))

theorem modStream_only (n : ℕ) (st : ℕ) (f : Stream → Stream) (s : State) :
    OnlyIn [.seqs] s (modStream n st f s) := by
  unfold modStream
  try dsimp only
  repeat' (first | (with_reducible exact OnlyIn.refl _ _) | (with_reducible refine OnlyIn.ite' ?_ ?_) | (with_reducible apply OnlyIn.via; (first | apply setSeq_only); on_goal 1 => decide) | split)

theorem unitStops_only (a : ℕ) (s : State) :
    OnlyIn [.regs, .mem] s (unitStops a s) := by
  unfold unitStops
  try dsimp only
  repeat' (first | (with_reducible exact OnlyIn.refl _ _) | (with_reducible refine OnlyIn.ite' ?_ ?_) | (with_reducible apply OnlyIn.via; (first | apply showLast_only | apply setUnit_only | apply cntAdd_only); on_goal 1 => decide) | split)

theorem uePage_only (n : ℕ) (st : ℕ) (page : ℕ) (a : ℕ) (s : State) :
    OnlyIn [.out, .regs, .host, .seqs, .mgmt, .mem] s (uePage n st page a s) := by
  unfold uePage
  try dsimp only
  repeat' (first | (with_reducible exact OnlyIn.refl _ _) | (with_reducible refine OnlyIn.ite' ?_ ?_) | (with_reducible apply OnlyIn.via; (first | apply ueEvent_only | apply modStream_only | apply unitStops_only | apply markDmg_only); on_goal 1 => decide) | split)

theorem ueObject_only (w : UeWhere) (a : ℕ) (s : State) :
    OnlyIn [.out, .regs, .host, .seqs, .mgmt, .mem, .walk] s (ueObject w a s) := by
  unfold ueObject
  try dsimp only
  repeat' (first | (with_reducible exact OnlyIn.refl _ _) | (with_reducible refine OnlyIn.ite' ?_ ?_) | (with_reducible apply OnlyIn.via; (first | apply uePage_only | apply ueEvent_only | apply modStream_only | apply post_only); on_goal 1 => decide) | split | (with_reducible refine OnlyIn.upd_walk ?_ (by decide)))

theorem execUeBurst_only (addr : ℕ) (where_ : UeWhere) (s : State) {t' : State} (h : (execUeBurst addr where_ s) = .next t') :
    OnlyIn [.out, .freeCnt, .regs, .host, .cmds, .seqs, .parts, .mgmt, .pins, .mem, .walk, .deck, .sec, .act, .st] s t' := by
  unfold execUeBurst at h
  try dsimp only at h
  repeat' (first | cases h | split at h)
  all_goals repeat' (first | (with_reducible exact OnlyIn.refl _ _) | (with_reducible refine OnlyIn.ite' ?_ ?_) | (with_reducible apply OnlyIn.via; (first | apply countUe_only | apply ueObject_only); on_goal 1 => decide) | split | (with_reducible refine OnlyIn.upd_mem ?_ (by decide) (by first | (with_reducible exact .inr rfl))))

theorem execPackageFault_only (pkg : ℕ) (s : State) {t' : State} (h : (execPackageFault pkg s) = .next t') :
    OnlyIn [.out, .freeCnt, .regs, .host, .cmds, .seqs, .parts, .mgmt, .pins, .mem, .deck, .sec, .act, .st] s t' := by
  unfold execPackageFault at h
  try dsimp only at h
  repeat' (first | cases h | split at h)
  all_goals repeat' (first | (with_reducible exact OnlyIn.refl _ _) | (with_reducible refine OnlyIn.ite' ?_ ?_) | (with_reducible apply OnlyIn.via; (first | apply failPackage_only); on_goal 1 => decide))

theorem execMccFault_only (mcc : ℕ) (s : State) {t' : State} (h : (execMccFault mcc s) = .next t') :
    OnlyIn [.out, .freeCnt, .regs, .host, .cmds, .seqs, .parts, .mgmt, .pins, .mem, .deck, .sec, .act, .st] s t' := by
  unfold execMccFault at h
  try dsimp only at h
  repeat' (first | cases h | split at h)
  all_goals repeat' (first | (with_reducible exact OnlyIn.refl _ _) | (with_reducible refine OnlyIn.ite' ?_ ?_) | (with_reducible apply OnlyIn.via; (first | apply failMcc_only); on_goal 1 => decide))

theorem execPowerPhaseLoss_only (s : State) {t' : State} (h : (execPowerPhaseLoss s) = .next t') :
    OnlyIn [.out, .regs, .host, .parts, .mgmt, .pins, .st] s t' := by
  unfold execPowerPhaseLoss at h
  try dsimp only at h
  repeat' (first | cases h | split at h)
  all_goals repeat' (first | (with_reducible exact OnlyIn.refl _ _) | (with_reducible refine OnlyIn.ite' ?_ ?_) | (with_reducible apply OnlyIn.via; (first | apply losePhase_only); on_goal 1 => decide))

theorem execMssWatchdog_only (s : State) {t' : State} (h : (execMssWatchdog s) = .next t') :
    OnlyIn [.mgmt] s t' := by
  unfold execMssWatchdog at h
  try dsimp only at h
  repeat' (first | cases h | split at h)
  all_goals repeat' (first | (with_reducible exact OnlyIn.refl _ _) | (with_reducible refine OnlyIn.ite' ?_ ?_) | (with_reducible apply OnlyIn.via; (first | apply mssStops_only); on_goal 1 => decide))

theorem updStatus_only (st : Status) (done : Bool) (busy : Bool) (s : State) :
    OnlyIn [.regs] s (updStatus st done busy s) := by
  unfold updStatus
  try dsimp only
  repeat' (first | (with_reducible exact OnlyIn.refl _ _) | (with_reducible refine OnlyIn.ite' ?_ ?_) | (with_reducible apply OnlyIn.via; (first | apply setVal_only); on_goal 1 => decide))

theorem setSlot_only (cls : ℕ) (slot : ℕ) (f : FwSlot) (s : State) :
    OnlyIn [.mgmt] s (setSlot cls slot f s) := by
  unfold setSlot
  try dsimp only
  repeat' (first | (with_reducible exact OnlyIn.refl _ _) | (with_reducible refine OnlyIn.ite' ?_ ?_) | split | (with_reducible refine OnlyIn.upd_mgmt ?_ (by decide) (by first | (with_reducible exact .inr rfl))))

theorem startUpdate_only (cls : ℕ) (img : List Byte) (s : State) :
    OnlyIn [.out, .regs, .mgmt] s (startUpdate cls img s) := by
  unfold startUpdate
  try dsimp only
  repeat' (first | (with_reducible exact OnlyIn.refl _ _) | (with_reducible refine OnlyIn.ite' ?_ ?_) | (with_reducible apply OnlyIn.via; (first | apply updStatus_only | apply setSlot_only | apply emit_only); on_goal 1 => decide) | split | (with_reducible refine OnlyIn.upd_mgmt ?_ (by decide) (by first | (with_reducible exact .inr rfl))))

theorem updGo_only (w : Writer) (cls : ℕ) (image : List Byte) (s : State) :
    OnlyIn [.out, .regs, .mgmt] s (updGo w cls image s) := by
  unfold updGo
  try dsimp only
  repeat' (first | (with_reducible exact OnlyIn.refl _ _) | (with_reducible refine OnlyIn.ite' ?_ ?_) | (with_reducible apply OnlyIn.via; (first | apply rejectWrite_only | apply updStatus_only | apply setVal_only | apply startUpdate_only); on_goal 1 => decide) | split)

theorem execMgmtUpdGo_only (w : Writer) (cls : BitVec 4) (image : List Byte) (s : State) {t' : State} (h : (execMgmtUpdGo w cls image s) = .next t') :
    OnlyIn [.out, .regs, .mgmt] s t' := by
  unfold execMgmtUpdGo at h
  try dsimp only at h
  repeat' (first | cases h | split at h)
  all_goals repeat' (first | (with_reducible exact OnlyIn.refl _ _) | (with_reducible refine OnlyIn.ite' ?_ ?_) | (with_reducible apply OnlyIn.via; (first | apply updGo_only); on_goal 1 => decide))

theorem slotWritten_only (u : Update) (s : State) :
    OnlyIn [.mgmt] s (slotWritten u s) := by
  unfold slotWritten
  try dsimp only
  repeat' (first | (with_reducible exact OnlyIn.refl _ _) | (with_reducible refine OnlyIn.ite' ?_ ?_) | (with_reducible apply OnlyIn.via; (first | apply setSlot_only); on_goal 1 => decide) | split | (with_reducible refine OnlyIn.upd_mgmt ?_ (by decide) (by first | (with_reducible exact .inr rfl))))

theorem slotEmptied_only (u : Update) (s : State) :
    OnlyIn [.mgmt] s (slotEmptied u s) := by
  unfold slotEmptied
  try dsimp only
  repeat' (first | (with_reducible exact OnlyIn.refl _ _) | (with_reducible refine OnlyIn.ite' ?_ ?_) | (with_reducible apply OnlyIn.via; (first | apply setSlot_only); on_goal 1 => decide) | split | (with_reducible refine OnlyIn.upd_mgmt ?_ (by decide) (by first | (with_reducible exact .inr rfl))))

theorem leaveRecovery_only (u : Update) (s : State) :
    OnlyIn [.out, .regs, .mgmt, .pins, .act, .st] s (leaveRecovery u s) := by
  unfold leaveRecovery
  try dsimp only
  repeat' (first | (with_reducible exact OnlyIn.refl _ _) | (with_reducible refine OnlyIn.ite' ?_ ?_) | (with_reducible apply OnlyIn.via; (first | apply autoBoot_only | apply mssStops_only | apply enterState_only | apply saveConfig_only | apply setAct_only); on_goal 1 => decide))

theorem execMgmtUpdateDone_only (ok : Bool) (s : State) {t' : State} (h : (execMgmtUpdateDone ok s) = .next t') :
    OnlyIn [.out, .regs, .mgmt, .pins, .act, .st] s t' := by
  unfold execMgmtUpdateDone at h
  try dsimp only at h
  repeat' (first | cases h | split at h)
  all_goals repeat' (first | (with_reducible exact OnlyIn.refl _ _) | (with_reducible refine OnlyIn.ite' ?_ ?_) | (with_reducible apply OnlyIn.via; (first | apply updStatus_only | apply slotWritten_only | apply slotEmptied_only | apply logMgmt_only | apply leaveRecovery_only); on_goal 1 => decide) | split | (with_reducible refine OnlyIn.upd_mgmt ?_ (by decide) (by first | (with_reducible exact .inr rfl))))

theorem drainHw_only (s : State) :
    OnlyIn [.mgmt] s (drainHw s) := by
  unfold drainHw
  try dsimp only
  repeat' (first | (with_reducible exact OnlyIn.refl _ _) | (with_reducible refine OnlyIn.ite' ?_ ?_) | (with_reducible apply OnlyIn.via; (first | apply logMgmt_only); on_goal 1 => decide) | split | (with_reducible refine OnlyIn.upd_mgmt ?_ (by decide) (by first | (with_reducible exact .inr rfl))))

theorem rerunMgmtRing_only (s : State) :
    OnlyIn [.regs, .host, .cmds, .seqs, .walk, .rma, .rmx, .deck, .sec] s (rerunMgmtRing s) := by
  unfold rerunMgmtRing
  try dsimp only
  repeat' (first | exact List.Subset.refl _ | decide | (with_reducible exact OnlyIn.refl _ _) | (with_reducible refine OnlyIn.ite' ?_ ?_) | (with_reducible apply OnlyIn.via; (first | apply forget_only | apply setCmd_only | apply rebuildMgmtRing_only | apply setRing_only); on_goal 1 => decide) | ((with_reducible apply OnlyIn.andThen (m := [.regs, .host, .cmds, .seqs, .walk, .rma, .rmx, .deck, .sec])); (on_goal 2 => (with_reducible apply forEach_only))) | ((with_reducible apply OnlyIn.andThen (m := [.regs, .host, .cmds, .seqs, .walk, .rma, .rmx, .deck, .sec])); (on_goal 2 => (with_reducible apply OnlyIn.forEach; intro _ _)); (on_goal 3 => exact List.Subset.refl _)))

theorem mssUp_only (s : State) :
    OnlyIn [.regs, .own, .host, .cmds, .seqs, .mgmt, .walk, .rma, .rmx, .deck, .sec] s (mssUp s) := by
  unfold mssUp
  try dsimp only
  repeat' (first | (with_reducible exact OnlyIn.refl _ _) | (with_reducible refine OnlyIn.ite' ?_ ?_) | (with_reducible apply OnlyIn.via; (first | apply logMgmt_only | apply drainHw_only | apply rerunMgmtRing_only); on_goal 1 => decide) | split | (with_reducible refine OnlyIn.upd_own ?_ (by decide)) | (with_reducible refine OnlyIn.upd_mgmt ?_ (by decide) (by first | (with_reducible exact .inr rfl))) | (with_reducible refine OnlyIn.upd ?_ (by constructor <;> first | (with_reducible rfl) | (with_reducible exact .inr rfl) | exact .inl (by decide))))

theorem mssFails_only (s : State) :
    OnlyIn [.out, .clk, .regs, .host, .cmds, .seqs, .shards, .parts, .retained, .mgmt, .pins, .tap, .mem, .walk, .fab, .rma, .rmx, .deck, .sec, .cells, .act, .st] s (mssFails s) := by
  unfold mssFails
  try dsimp only
  repeat' (first | (with_reducible exact OnlyIn.refl _ _) | (with_reducible refine OnlyIn.ite' ?_ ?_) | (with_reducible apply OnlyIn.via; (first | apply enterState_only | apply railsDown_only | apply drainHw_only | apply saveConfig_only | apply setAct_only | apply logMgmt_only); on_goal 1 => decide) | split | (with_reducible refine OnlyIn.upd_mgmt ?_ (by decide) (by first | (with_reducible exact .inr rfl))))

theorem execMssRestart_only (started : Bool) (s : State) {t' : State} (h : (execMssRestart started s) = .next t') :
    OnlyIn [.out, .clk, .regs, .own, .host, .cmds, .seqs, .shards, .parts, .retained, .mgmt, .pins, .tap, .mem, .walk, .fab, .rma, .rmx, .deck, .sec, .cells, .act, .st] s t' := by
  unfold execMssRestart at h
  try dsimp only at h
  repeat' (first | cases h | split at h)
  all_goals repeat' (first | (with_reducible exact OnlyIn.refl _ _) | (with_reducible refine OnlyIn.ite' ?_ ?_) | (with_reducible apply OnlyIn.via; (first | apply mssUp_only | apply mssFails_only); on_goal 1 => decide))

theorem mctp_only {l : List Area} {f : State → State} {s : State} (hf : ∀  t, OnlyIn l t (f  t)) (hl : [] ⊆ l) :
    OnlyIn l s (mctp f s) := by
  unfold mctp
  repeat' (first | (intro x) | (with_reducible exact OnlyIn.refl _ _) | assumption | (with_reducible refine OnlyIn.ite' ?_ ?_) | ((with_reducible apply OnlyIn.andThen (m := l)); (on_goal 2 => (apply hf)); (on_goal 2 => exact List.Subset.refl _)))

theorem execSetEndpointId_only (eid : BitVec 8) (s : State) {t' : State} (h : (execSetEndpointId eid s) = .next t') :
    OnlyIn [.out, .mgmt] s t' := by
  unfold execSetEndpointId at h
  try dsimp only at h
  repeat' (first | cases h | split at h)
  all_goals repeat' (first | exact List.Subset.refl _ | decide | (with_reducible exact OnlyIn.refl _ _) | (with_reducible refine OnlyIn.ite' ?_ ?_) | (with_reducible apply OnlyIn.via; (first | apply emit_only); on_goal 1 => decide) | ((with_reducible apply OnlyIn.andThen (m := [.out, .mgmt])); (on_goal 2 => (with_reducible apply mctp_only))) | split | (with_reducible refine OnlyIn.upd_mgmt ?_ (by decide) (by first | (with_reducible exact .inr rfl))) | (with_reducible refine OnlyIn.upd ?_ (by constructor <;> first | (with_reducible rfl) | (with_reducible exact .inr rfl))) | intro x)

theorem execGetEndpointId_only (s : State) {t' : State} (h : (execGetEndpointId s) = .next t') :
    OnlyIn [.out] s t' := by
  unfold execGetEndpointId at h
  try dsimp only at h
  repeat' (first | cases h | split at h)
  all_goals repeat' (first | exact List.Subset.refl _ | decide | (with_reducible exact OnlyIn.refl _ _) | (with_reducible refine OnlyIn.ite' ?_ ?_) | (with_reducible apply OnlyIn.via; (first | apply emit_only); on_goal 1 => decide) | ((with_reducible apply OnlyIn.andThen (m := [.out])); (on_goal 2 => (with_reducible apply mctp_only))) | split | intro x)

theorem execGetMctpVersionSupport_only (s : State) {t' : State} (h : (execGetMctpVersionSupport s) = .next t') :
    OnlyIn [.out, .freeCnt] s t' := by
  unfold execGetMctpVersionSupport at h
  try dsimp only at h
  repeat' (first | cases h | split at h)
  all_goals repeat' (first | exact List.Subset.refl _ | decide | (with_reducible exact OnlyIn.refl _ _) | (with_reducible refine OnlyIn.ite' ?_ ?_) | (with_reducible apply OnlyIn.via; (first | apply stepFree_only | apply emit_only); on_goal 1 => decide) | ((with_reducible apply OnlyIn.andThen (m := [.out, .freeCnt])); (on_goal 2 => (with_reducible apply mctp_only))) | split | intro x)

theorem execGetMessageTypeSupport_only (s : State) {t' : State} (h : (execGetMessageTypeSupport s) = .next t') :
    OnlyIn [.out] s t' := by
  unfold execGetMessageTypeSupport at h
  try dsimp only at h
  repeat' (first | cases h | split at h)
  all_goals repeat' (first | exact List.Subset.refl _ | decide | (with_reducible exact OnlyIn.refl _ _) | (with_reducible refine OnlyIn.ite' ?_ ?_) | (with_reducible apply OnlyIn.via; (first | apply emit_only); on_goal 1 => decide) | ((with_reducible apply OnlyIn.andThen (m := [.out])); (on_goal 2 => (with_reducible apply mctp_only))) | split | intro x)

theorem receive_only {l : List Area} {h : MsgHdr} {f : State → State} {s : State} (hf : ∀  t, OnlyIn l t (f  t)) (hl : [.mgmt] ⊆ l) :
    OnlyIn l s (receive h f s) := by
  unfold receive
  repeat' (first | (intro x) | (with_reducible exact OnlyIn.refl _ _) | assumption | (with_reducible refine OnlyIn.ite' ?_ ?_) | ((with_reducible apply OnlyIn.andThen (m := l)); (on_goal 2 => (apply hf)); (on_goal 2 => exact List.Subset.refl _)) | split | (with_reducible refine OnlyIn.upd_mgmt ?_ (by (first | decide | exact List.Subset.trans (by decide) hl | exact OnlyIn.memOf hl (by decide))) (by first | (with_reducible exact .inr rfl))))

theorem answer_only (h : MsgHdr) (st : Status) (data : List Byte) (s : State) :
    OnlyIn [.out, .mgmt] s (answer h st data s) := by
  unfold answer
  try dsimp only
  repeat' (first | (with_reducible exact OnlyIn.refl _ _) | (with_reducible refine OnlyIn.ite' ?_ ?_) | (with_reducible apply OnlyIn.via; (first | apply sendMgmt_only); on_goal 1 => decide))

theorem execMgmtOpen_only (h : MsgHdr) (ans : Option AnswerRegion) (s : State) {t' : State} (h : (execMgmtOpen h ans s) = .next t') :
    OnlyIn [.out, .mgmt] s t' := by
  unfold execMgmtOpen at h
  try dsimp only at h
  repeat' (first | cases h | split at h)
  all_goals try dsimp only
  all_goals repeat' (first | exact List.Subset.refl _ | decide | (with_reducible exact OnlyIn.refl _ _) | (with_reducible refine OnlyIn.ite' ?_ ?_) | (with_reducible apply OnlyIn.via; (first | apply answer_only); on_goal 1 => decide) | ((with_reducible apply OnlyIn.andThen (m := [.out, .mgmt])); (on_goal 2 => (with_reducible apply receive_only))) | split | (with_reducible refine OnlyIn.upd_mgmt ?_ (by decide) (by first | (with_reducible exact .inr rfl))) | (with_reducible refine OnlyIn.upd ?_ (by constructor <;> first | (with_reducible rfl) | (with_reducible exact .inr rfl))) | intro x)

theorem fromMaster_only {l : List Area} {h : MsgHdr} {lenOk : Bool} {f : State → State} {s : State} (hf : ∀  t, OnlyIn l t (f  t)) (hl : [.out, .mgmt] ⊆ l) :
    OnlyIn l s (fromMaster h lenOk f s) := by
  unfold fromMaster
  refine receive_only (fun t => ?_) (List.Subset.trans (by decide) hl)
  repeat' (first | (intro x) | (with_reducible exact OnlyIn.refl _ _) | assumption | (with_reducible refine OnlyIn.ite' ?_ ?_) | ((with_reducible apply OnlyIn.andThen (m := l)); (on_goal 2 => (apply hf)); (on_goal 2 => exact List.Subset.refl _)) | ((with_reducible apply OnlyIn.andThen (m := [.mgmt])); (on_goal 2 => (with_reducible apply receive_only)); (on_goal 2 => (first | decide | exact List.Subset.trans (by decide) hl | exact OnlyIn.memOf hl (by decide)))) | ((with_reducible apply OnlyIn.andThen (m := [.out, .mgmt])); (on_goal 2 => (with_reducible apply answer_only)); (on_goal 2 => (first | decide | exact List.Subset.trans (by decide) hl))))

theorem dropSession_only (m : ℕ) (s : State) :
    OnlyIn [.mgmt] s (dropSession m s) := by
  unfold dropSession
  try dsimp only
  repeat' (first | (with_reducible exact OnlyIn.refl _ _) | (with_reducible refine OnlyIn.ite' ?_ ?_) | split | (with_reducible refine OnlyIn.upd_mgmt ?_ (by decide) (by first | (with_reducible exact .inr rfl))))

theorem execMgmtClose_only (h : MsgHdr) (s : State) {t' : State} (h : (execMgmtClose h s) = .next t') :
    OnlyIn [.out, .mgmt] s t' := by
  unfold execMgmtClose at h
  try dsimp only at h
  repeat' (first | cases h | split at h)
  all_goals try dsimp only
  all_goals repeat' (first | exact List.Subset.refl _ | decide | (with_reducible exact OnlyIn.refl _ _) | (with_reducible refine OnlyIn.ite' ?_ ?_) | (with_reducible apply OnlyIn.via; (first | apply dropSession_only | apply answer_only); on_goal 1 => decide) | ((with_reducible apply OnlyIn.andThen (m := [.out, .mgmt])); (on_goal 2 => (with_reducible apply fromMaster_only))) | split | intro x)

theorem execMgmtRead_only (h : MsgHdr) (off : BitVec 32) (len : ℕ) (s : State) {t' : State} (h : (execMgmtRead h off len s) = .next t') :
    OnlyIn [.out, .freeCnt, .regs, .mgmt] s t' := by
  unfold execMgmtRead at h
  try dsimp only at h
  repeat' (first | cases h | split at h)
  all_goals try dsimp only
  all_goals repeat' (first | exact List.Subset.refl _ | decide | (with_reducible exact OnlyIn.refl _ _) | (with_reducible refine OnlyIn.ite' ?_ ?_) | (with_reducible apply OnlyIn.via; (first | apply expertAccess_only | apply answer_only | apply stepFree_only); on_goal 1 => decide) | ((with_reducible apply OnlyIn.andThen (m := [.out, .freeCnt, .regs, .mgmt])); (on_goal 2 => (with_reducible apply fromMaster_only))) | ((with_reducible apply OnlyIn.andThen (m := [.out, .freeCnt, .regs, .mgmt])); (on_goal 2 => (with_reducible apply forEach_only))) | ((with_reducible apply OnlyIn.andThen (m := [.out, .freeCnt, .regs, .mgmt])); (on_goal 2 => (with_reducible apply OnlyIn.forEach; intro _ _)); (on_goal 3 => exact List.Subset.refl _)) | split | intro x)

theorem writeCommit_only (w : Writer) (b : Block) (v : ℕ) (s : State) {t' : State} (h : (writeCommit w b v s) = .next t') :
    OnlyIn [.regs] s t' := by
  unfold writeCommit at h
  try dsimp only at h
  repeat' (first | (with_reducible exact (execCommitDiscard_only (h := h)).sub (by decide)) | (with_reducible exact (execNodeCommit_only (h := h)).sub (by decide)) | (with_reducible exact (execHostCommit_only (h := h)).sub (by decide)) | (with_reducible exact (execDeckCommit_only (h := h)).sub (by decide)) | (with_reducible exact (execFabCommit_only (h := h)).sub (by decide)) | (with_reducible exact (execRmaCommit_only (h := h)).sub (by decide)) | (with_reducible exact (execMemCommit_only (h := h)).sub (by decide)) | (with_reducible exact (execTileCommit_only (h := h)).sub (by decide)) | (with_reducible exact (execWalkCommit_only (h := h)).sub (by decide)) | (with_reducible exact (execCastCommit_only (h := h)).sub (by decide)) | (with_reducible exact (execSecCommit_only (h := h)).sub (by decide)) | (with_reducible exact (execMgmtCommit_only (h := h)).sub (by decide)) | cases h | split at h)
  all_goals repeat' (first | (with_reducible exact OnlyIn.refl _ _) | (with_reducible refine OnlyIn.ite' ?_ ?_) | (with_reducible apply OnlyIn.via; (first | apply plainWrite_only); on_goal 1 => decide))

theorem writeReq_only (w : Writer) (v : ℕ) (s : State) :
    OnlyIn [.out, .freeCnt, .clk, .regs, .host, .cmds, .seqs, .shards, .parts, .retained, .mgmt, .pins, .tap, .mem, .walk, .fab, .rma, .rmx, .deck, .sec, .cells, .act, .st] s (writeReq w v s) := by
  unfold writeReq
  try dsimp only
  repeat' (first | (with_reducible exact OnlyIn.refl _ _) | (with_reducible refine OnlyIn.ite' ?_ ?_) | (with_reducible apply OnlyIn.via; (first | apply reqPowerOn_only | apply reqPowerOff_only | apply reqWarmReset_only | apply reqColdReset_only | apply reqEnterTest_only | apply reqLeaveTest_only | apply reqRecovery_only | apply reqContinue_only | apply plainWrite_only); on_goal 1 => decide) | split)

theorem wordEffect_only (m : ℕ) (off : ℕ) (v : ℕ) (s : State) :
    OnlyIn [.out, .freeCnt, .clk, .regs, .own, .host, .cmds, .seqs, .shards, .parts, .retained, .mgmt, .pins, .tap, .mem, .walk, .fab, .rma, .rmx, .deck, .sec, .cells, .act, .st] s (wordEffect m off v s) := by
  unfold wordEffect
  try dsimp only
  repeat' (first | (with_reducible exact OnlyIn.refl _ _) | (with_reducible refine OnlyIn.ite' ?_ ?_) | (with_reducible apply OnlyIn.via; (first | apply expertAccess_only | apply writeHb_only | apply rejectWrite_only | apply writePassCancel_only | apply writePass_only | apply writeClaim_only | apply writeReq_only | apply plainWrite_only | apply stepFree_only | apply updGo_only | apply dbgAccess_only | apply writeTraceCtl_only); on_goal 1 => decide) | (with_reducible refine after_only fun t ht => ?_) | (with_reducible exact (writeCommit_only (h := ht)).sub (by decide)) | (with_reducible exact (execRmxLookupGo_only (h := ht)).sub (by decide)) | (with_reducible exact (execRmxLookupStep_only (h := ht)).sub (by decide)) | split)

theorem execMgmtWrite_only (h : MsgHdr) (off : BitVec 32) (data : List Byte) (s : State) {t' : State} (h : (execMgmtWrite h off data s) = .next t') :
    OnlyIn [.out, .freeCnt, .clk, .regs, .own, .host, .cmds, .seqs, .shards, .parts, .retained, .mgmt, .pins, .tap, .mem, .walk, .fab, .rma, .rmx, .deck, .sec, .cells, .act, .st] s t' := by
  unfold execMgmtWrite at h
  dsimp only at h
  cases h
  refine fromMaster_only (fun t => ?_) (by decide)
  refine OnlyIn.via (answer_only ..) (by decide) ?_
  exact OnlyIn.foldlSnd _ (Status.ok, t) fun x i => wordEffect_only ..

theorem execMgmtClaim_only (h : MsgHdr) (cred : List Byte) (s : State) {t' : State} (h : (execMgmtClaim h cred s) = .next t') :
    OnlyIn [.out, .freeCnt, .regs, .own, .host, .mgmt, .sec] s t' := by
  unfold execMgmtClaim at h
  try dsimp only at h
  repeat' (first | cases h | split at h)
  all_goals try dsimp only
  all_goals repeat' (first | exact List.Subset.refl _ | decide | (with_reducible exact OnlyIn.refl _ _) | (with_reducible refine OnlyIn.ite' ?_ ?_) | (with_reducible apply OnlyIn.via; (first | apply claim_only); on_goal 1 => decide) | ((with_reducible apply OnlyIn.andThen (m := [.out, .freeCnt, .regs, .own, .host, .mgmt, .sec])); (on_goal 2 => (with_reducible apply fromMaster_only))) | split | intro x)

theorem execMgmtHeartbeat_only (h : MsgHdr) (s : State) {t' : State} (h : (execMgmtHeartbeat h s) = .next t') :
    OnlyIn [.out, .own, .mgmt] s t' := by
  unfold execMgmtHeartbeat at h
  try dsimp only at h
  repeat' (first | cases h | split at h)
  all_goals try dsimp only
  all_goals repeat' (first | exact List.Subset.refl _ | decide | (with_reducible exact OnlyIn.refl _ _) | (with_reducible refine OnlyIn.ite' ?_ ?_) | (with_reducible apply OnlyIn.via; (first | apply answer_only | apply renewLease_only); on_goal 1 => decide) | ((with_reducible apply OnlyIn.andThen (m := [.out, .own, .mgmt])); (on_goal 2 => (with_reducible apply fromMaster_only))) | split | intro x)

theorem execMgmtSubmit_only (h : MsgHdr) (desc : List Byte) (s : State) {t' : State} (h : (execMgmtSubmit h desc s) = .next t') :
    OnlyIn [.out, .mgmt] s t' := by
  unfold execMgmtSubmit at h
  try dsimp only at h
  repeat' (first | cases h | split at h)
  all_goals try dsimp only
  all_goals repeat' (first | exact List.Subset.refl _ | decide | (with_reducible exact OnlyIn.refl _ _) | (with_reducible refine OnlyIn.ite' ?_ ?_) | (with_reducible apply OnlyIn.via; (first | apply answer_only); on_goal 1 => decide) | ((with_reducible apply OnlyIn.andThen (m := [.out, .mgmt])); (on_goal 2 => (with_reducible apply fromMaster_only))) | split | (with_reducible refine OnlyIn.upd_mgmt ?_ (by decide) (by first | (with_reducible exact .inr rfl))) | (with_reducible refine OnlyIn.upd ?_ (by constructor <;> first | (with_reducible rfl) | (with_reducible exact .inr rfl))) | intro x)

theorem execMgmtUpdate_only (h : MsgHdr) (off : BitVec 32) (data : List Byte) (s : State) {t' : State} (h : (execMgmtUpdate h off data s) = .next t') :
    OnlyIn [.out, .mgmt] s t' := by
  unfold execMgmtUpdate at h
  try dsimp only at h
  repeat' (first | cases h | split at h)
  all_goals try dsimp only
  all_goals repeat' (first | exact List.Subset.refl _ | decide | (with_reducible exact OnlyIn.refl _ _) | (with_reducible refine OnlyIn.ite' ?_ ?_) | (with_reducible apply OnlyIn.via; (first | apply answer_only); on_goal 1 => decide) | ((with_reducible apply OnlyIn.andThen (m := [.out, .mgmt])); (on_goal 2 => (with_reducible apply fromMaster_only))) | split | (with_reducible refine OnlyIn.upd_mgmt ?_ (by decide) (by first | (with_reducible exact .inr rfl))) | (with_reducible refine OnlyIn.upd ?_ (by constructor <;> first | (with_reducible rfl) | (with_reducible exact .inr rfl))) | intro x)

theorem execMgmtLogRead_only (h : MsgHdr) (first : BitVec 64) (count : ℕ) (s : State) {t' : State} (h : (execMgmtLogRead h first count s) = .next t') :
    OnlyIn [.out, .mgmt] s t' := by
  unfold execMgmtLogRead at h
  try dsimp only at h
  repeat' (first | cases h | split at h)
  all_goals try dsimp only
  all_goals repeat' (first | exact List.Subset.refl _ | decide | (with_reducible exact OnlyIn.refl _ _) | (with_reducible refine OnlyIn.ite' ?_ ?_) | (with_reducible apply OnlyIn.via; (first | apply sendMgmt_only); on_goal 1 => decide) | ((with_reducible apply OnlyIn.andThen (m := [.out, .mgmt])); (on_goal 2 => (with_reducible apply fromMaster_only))) | split | intro x)

theorem execMgmtSessionTimeout_only (m : ℕ) (s : State) {t' : State} (h : (execMgmtSessionTimeout m s) = .next t') :
    OnlyIn [.clk, .mgmt] s t' := by
  unfold execMgmtSessionTimeout at h
  try dsimp only at h
  repeat' (first | cases h | split at h)
  all_goals repeat' (first | (with_reducible exact OnlyIn.refl _ _) | (with_reducible refine OnlyIn.ite' ?_ ?_) | (with_reducible apply OnlyIn.via; (first | apply dropSession_only | apply advanceMss_only); on_goal 1 => decide) | split)

theorem admitAny_only (c : Cmd) (s : State) :
    OnlyIn [.out, .freeCnt, .regs, .host, .cmds, .seqs, .mgmt, .tap, .mem, .walk, .fab, .rma, .rmx, .deck, .sec, .cells, .act] s (admitAny c s) := by
  unfold admitAny
  try dsimp only
  repeat' (first | (with_reducible exact OnlyIn.refl _ _) | (with_reducible refine OnlyIn.ite' ?_ ?_) | (with_reducible apply OnlyIn.via; (first | apply admitFree_only | apply admitRead_only | apply admitFreeze_only | apply admitPromote_only | apply admitMigrate_only | apply admitPublish_only | apply admitWait_only | apply admitDeckLoad_only | apply admitSwap_only | apply admitMap_only | apply admitErase_only | apply admitImport_only | apply admitAttest_only | apply admitRelease_only | apply admitByOp_only); on_goal 1 => decide) | split)

theorem execCommandDeferredAdmit_only (ring : ℕ) (rseq : BitVec 32) (s : State) {t' : State} (h : (execCommandDeferredAdmit ring rseq s) = .next t') :
    OnlyIn [.out, .freeCnt, .regs, .host, .cmds, .seqs, .mgmt, .tap, .mem, .walk, .fab, .rma, .rmx, .deck, .sec, .cells, .act] s t' := by
  unfold execCommandDeferredAdmit at h
  try dsimp only at h
  repeat' (first | cases h | split at h)
  all_goals repeat' (first | exact List.Subset.refl _ | decide | (with_reducible exact OnlyIn.refl _ _) | (with_reducible refine OnlyIn.ite' ?_ ?_) | (with_reducible apply OnlyIn.via; (first | apply admitByOp_only | apply admitAny_only); on_goal 1 => decide) | ((with_reducible apply OnlyIn.andThen (m := [.out, .freeCnt, .regs, .host, .cmds, .seqs, .mgmt, .tap, .mem, .walk, .fab, .rma, .rmx, .deck, .sec, .cells, .act])); (on_goal 2 => (with_reducible apply admitting_only))) | split | intro x)

theorem execCompletionWrite_only (ring : ℕ) (s : State) {t' : State} (h : (execCompletionWrite ring s) = .next t') :
    OnlyIn [.out, .freeCnt, .regs, .host, .cmds, .seqs, .mgmt, .tap, .fab, .rma, .sec, .act] s t' := by
  unfold execCompletionWrite at h
  try dsimp only at h
  repeat' (first | cases h | split at h)
  all_goals repeat' (first | exact List.Subset.refl _ | decide | (with_reducible exact OnlyIn.refl _ _) | (with_reducible refine OnlyIn.ite' ?_ ?_) | (with_reducible apply OnlyIn.via; (first | apply sendCall_only | apply writeCompletion_only); on_goal 1 => decide) | ((with_reducible apply OnlyIn.andThen (m := [.out, .freeCnt, .regs, .host, .cmds, .seqs, .mgmt, .tap, .fab, .rma, .sec, .act])); (on_goal 2 => (with_reducible apply forEach_only))) | ((with_reducible apply OnlyIn.andThen (m := [.out, .freeCnt, .regs, .host, .cmds, .seqs, .mgmt, .tap, .fab, .rma, .sec, .act])); (on_goal 2 => (with_reducible apply OnlyIn.forEach; intro _ _)); (on_goal 3 => exact List.Subset.refl _)) | split)

theorem dmaFailed_only (fn : ℕ) (s : State) :
    OnlyIn [.out, .regs, .host, .mgmt] s (dmaFailed fn s) := by
  unfold dmaFailed
  try dsimp only
  repeat' (first | (with_reducible exact OnlyIn.refl _ _) | (with_reducible refine OnlyIn.ite' ?_ ?_) | (with_reducible apply OnlyIn.via; (first | apply post_only | apply cntAdd_only); on_goal 1 => decide))

theorem descRead_only (ring : ℕ) (r : DmaResult) (s : State) :
    OnlyIn [.out, .regs, .host, .mgmt, .tap] s (descRead ring r s) := by
  unfold descRead
  try dsimp only
  repeat' (first | (with_reducible exact OnlyIn.refl _ _) | (with_reducible refine OnlyIn.ite' ?_ ?_) | (with_reducible apply OnlyIn.via; (first | apply meterRing_only | apply setRing_only | apply dmaFailed_only); on_goal 1 => decide) | split)

theorem resumeInput_only (c : Cmd) (g : Got) (s : State) :
    OnlyIn [.out, .freeCnt, .regs, .host, .cmds, .seqs, .mgmt, .tap, .mem, .walk, .fab, .rma, .rmx, .deck, .sec, .cells, .act] s (resumeInput c g s) := by
  unfold resumeInput
  try dsimp only
  repeat' (first | (with_reducible exact OnlyIn.refl _ _) | (with_reducible refine OnlyIn.ite' ?_ ?_) | (with_reducible apply OnlyIn.via; (first | apply endAtAdmission_only | apply finish_only | apply attendInput_only | apply selectInput_only | apply ladleInput_only | apply searchInput_only | apply insertInput_only | apply publishInput_only | apply rmaWriteInput_only | apply connOpenInput_only | apply mrRegInput_only | apply deckInput_only | apply mapInput_only | apply keyInput_only); on_goal 1 => decide) | split)

theorem inputRead_only (ring : ℕ) (rseq : BitVec 32) (r : DmaResult) (s : State) :
    OnlyIn [.out, .freeCnt, .regs, .host, .cmds, .seqs, .mgmt, .tap, .mem, .walk, .fab, .rma, .rmx, .deck, .sec, .cells, .act] s (inputRead ring rseq r s) := by
  unfold inputRead
  try dsimp only
  repeat' (first | (with_reducible exact OnlyIn.refl _ _) | (with_reducible refine OnlyIn.ite' ?_ ?_) | (with_reducible apply OnlyIn.via; (first | apply resumeInput_only | apply meterData_only | apply dmaFailed_only); on_goal 1 => decide) | split)

theorem setAnswer_only (c : Cmd) (i : ℕ) (m : RespMsg) (s : State) :
    OnlyIn [.cmds] s (setAnswer c i m s).2 := by
  unfold setAnswer
  try dsimp only
  repeat' (first | (with_reducible exact OnlyIn.refl _ _) | (with_reducible refine OnlyIn.ite' ?_ ?_) | (with_reducible apply OnlyIn.via; (first | apply setCmd_only); on_goal 1 => decide) | split)

theorem pieceAnswered_only (c : Cmd) (s : State) :
    OnlyIn [.out, .freeCnt, .regs, .host, .cmds, .seqs, .mgmt, .tap, .mem, .walk, .fab, .rma, .rmx, .deck, .sec, .cells, .act] s (pieceAnswered c s) := by
  unfold pieceAnswered
  try dsimp only
  repeat' (first | (with_reducible exact OnlyIn.refl _ _) | (with_reducible refine OnlyIn.ite' ?_ ?_) | (with_reducible apply OnlyIn.via; (first | apply deliverDone_only | apply resumeInput_only); on_goal 1 => decide) | split)

theorem subAnswer_only (c : Cmd) (i : ℕ) (m : RespMsg) (s : State) :
    OnlyIn [.out, .freeCnt, .regs, .host, .cmds, .seqs, .mgmt, .tap, .mem, .walk, .fab, .rma, .rmx, .deck, .sec, .cells, .act] s (subAnswer c i m s) := by
  unfold subAnswer
  try dsimp only
  repeat' (first | (with_reducible exact OnlyIn.refl _ _) | (with_reducible refine OnlyIn.ite' ?_ ?_) | (with_reducible apply OnlyIn.via; (first | apply sendCall_only | apply setCmd_only | apply setAnswer_only | apply loseSub_only | apply pieceAnswered_only); on_goal 1 => decide) | (with_reducible apply OnlyIn.via; (on_goal 1 => (with_reducible refine .ofPair (by assumption) (setAnswer_only ..))); on_goal 1 => decide) | split)

theorem replicaAck_only (conn : ℕ) (n : ℕ) (b : ℕ) (s : State) :
    OnlyIn [.cmds] s (replicaAck conn n b s) := by
  unfold replicaAck
  try dsimp only
  repeat' (first | exact List.Subset.refl _ | decide | (with_reducible exact OnlyIn.refl _ _) | (with_reducible refine OnlyIn.ite' ?_ ?_) | (with_reducible apply OnlyIn.via; (first | apply setCmd_only); on_goal 1 => decide) | ((with_reducible apply OnlyIn.andThen (m := [.cmds])); (on_goal 2 => (with_reducible apply forEach_only))) | ((with_reducible apply OnlyIn.andThen (m := [.cmds])); (on_goal 2 => (with_reducible apply OnlyIn.forEach; intro _ _)); (on_goal 3 => exact List.Subset.refl _)) | split)

theorem kindAnswer_only (conn : ℕ) (m : RespMsg) (s : State) :
    OnlyIn [.cmds] s (kindAnswer conn m s) := by
  unfold kindAnswer
  try dsimp only
  repeat' (first | (with_reducible exact OnlyIn.refl _ _) | (with_reducible refine OnlyIn.ite' ?_ ?_) | (with_reducible apply OnlyIn.via; (first | apply setAnswer_only); on_goal 1 => decide) | (with_reducible apply OnlyIn.via; (on_goal 1 => (with_reducible refine .ofPair (by assumption) (setAnswer_only ..))); on_goal 1 => decide) | split)

theorem takeResp_only (conn : ℕ) (m : RespMsg) (s : State) :
    OnlyIn [.out, .freeCnt, .regs, .host, .cmds, .seqs, .mgmt, .tap, .mem, .walk, .fab, .rma, .rmx, .deck, .sec, .cells, .act] s (takeResp conn m s) := by
  unfold takeResp
  try dsimp only
  repeat' (first | (with_reducible exact OnlyIn.refl _ _) | (with_reducible refine OnlyIn.ite' ?_ ?_) | (with_reducible apply OnlyIn.via; (first | apply subAnswer_only | apply replicaAck_only | apply kindAnswer_only); on_goal 1 => decide) | split)

theorem rxRespPkt_only (port : ℕ) (cg : Cargo) (s : State) :
    OnlyIn [.out, .freeCnt, .regs, .host, .cmds, .seqs, .mgmt, .tap, .mem, .walk, .fab, .rma, .rmx, .deck, .sec, .cells, .act] s (rxRespPkt port cg s) := by
  unfold rxRespPkt
  try dsimp only
  repeat' (first | exact List.Subset.refl _ | decide | (with_reducible exact OnlyIn.refl _ _) | (with_reducible refine OnlyIn.ite' ?_ ?_) | (with_reducible apply OnlyIn.via; (first | apply progress_only | apply dropOp_only | apply takeResp_only); on_goal 1 => decide) | ((with_reducible apply OnlyIn.andThen (m := [.out, .freeCnt, .regs, .host, .cmds, .seqs, .mgmt, .tap, .mem, .walk, .fab, .rma, .rmx, .deck, .sec, .cells, .act])); (on_goal 2 => (with_reducible apply rxOn_only))) | split | intro x)

theorem rxCargo_only (port : ℕ) (cg : Cargo) (s : State) :
    OnlyIn [.out, .freeCnt, .regs, .host, .cmds, .seqs, .shards, .retained, .mgmt, .tap, .mem, .walk, .fab, .rma, .rmx, .deck, .sec, .cells, .act] s (rxCargo port cg s) := by
  unfold rxCargo
  try dsimp only
  repeat' (first | (with_reducible exact OnlyIn.refl _ _) | (with_reducible refine OnlyIn.ite' ?_ ?_) | (with_reducible apply OnlyIn.via; (first | apply rxWritePkt_only | apply rxReadPkt_only | apply rxReadRespPkt_only | apply rxAddRespPkt_only | apply rxSignalPkt_only | apply rxAckPkt_only | apply rxNakPkt_only | apply rxHoldPkt_only | apply rxRetryPkt_only | apply rxCallPkt_only | apply rxRespPkt_only); on_goal 1 => decide) | split)

theorem endTarget_only (conn : ℕ) (s : State) :
    OnlyIn [.out, .freeCnt, .regs, .host, .cmds, .seqs, .shards, .retained, .mgmt, .tap, .mem, .walk, .fab, .rma, .rmx, .deck, .sec, .cells, .act] s (endTarget conn s) := by
  unfold endTarget
  try dsimp only
  repeat' (first | exact List.Subset.refl _ | decide | (with_reducible exact OnlyIn.refl _ _) | (with_reducible refine OnlyIn.ite' ?_ ?_) | (with_reducible apply OnlyIn.via; (first | apply rxCargo_only | apply modConn_only); on_goal 1 => decide) | ((with_reducible apply OnlyIn.andThen (m := [.out, .freeCnt, .regs, .host, .cmds, .seqs, .shards, .retained, .mgmt, .tap, .mem, .walk, .fab, .rma, .rmx, .deck, .sec, .cells, .act])); (on_goal 2 => (with_reducible apply forEach_only))) | ((with_reducible apply OnlyIn.andThen (m := [.out, .freeCnt, .regs, .host, .cmds, .seqs, .shards, .retained, .mgmt, .tap, .mem, .walk, .fab, .rma, .rmx, .deck, .sec, .cells, .act])); (on_goal 2 => (with_reducible apply OnlyIn.forEach; intro _ _)); (on_goal 3 => exact List.Subset.refl _)))

theorem targetRead_only (conn : ℕ) (r : DmaResult) (s : State) :
    OnlyIn [.out, .freeCnt, .regs, .host, .cmds, .seqs, .shards, .retained, .mgmt, .tap, .mem, .walk, .fab, .rma, .rmx, .deck, .sec, .cells, .act] s (targetRead conn r s) := by
  unfold targetRead
  try dsimp only
  repeat' (first | (with_reducible exact OnlyIn.refl _ _) | (with_reducible refine OnlyIn.ite' ?_ ?_) | (with_reducible apply OnlyIn.via; (first | apply tapAdd_only | apply endTarget_only | apply answerRead_only | apply modConn_only | apply askTarget_only | apply dmaFailed_only | apply answerBad_only); on_goal 1 => decide) | split)

theorem dmaRead_only (t : DmaTag) (r : DmaResult) (s : State) :
    OnlyIn [.out, .freeCnt, .regs, .host, .cmds, .seqs, .shards, .retained, .mgmt, .tap, .mem, .walk, .fab, .rma, .rmx, .deck, .sec, .cells, .act] s (dmaRead t r s) := by
  unfold dmaRead
  try dsimp only
  repeat' (first | (with_reducible exact OnlyIn.refl _ _) | (with_reducible refine OnlyIn.ite' ?_ ?_) | (with_reducible apply OnlyIn.via; (first | apply descRead_only | apply inputRead_only | apply targetRead_only); on_goal 1 => decide) | split)

theorem execDmaReadCompletion_only (t : DmaTag) (r : DmaResult) (s : State) {t' : State} (h : (execDmaReadCompletion t r s) = .next t') :
    OnlyIn [.out, .freeCnt, .regs, .host, .cmds, .seqs, .shards, .retained, .mgmt, .tap, .mem, .walk, .fab, .rma, .rmx, .deck, .sec, .cells, .act] s t' := by
  unfold execDmaReadCompletion at h
  try dsimp only at h
  repeat' (first | cases h | split at h)
  all_goals repeat' (first | (with_reducible exact OnlyIn.refl _ _) | (with_reducible refine OnlyIn.ite' ?_ ?_) | (with_reducible apply OnlyIn.via; (first | apply dmaRead_only); on_goal 1 => decide))

theorem execDmaReadTimeout_only (t : DmaTag) (s : State) {t' : State} (h : (execDmaReadTimeout t s) = .next t') :
    OnlyIn [.out, .freeCnt, .regs, .host, .cmds, .seqs, .shards, .retained, .mgmt, .tap, .mem, .walk, .fab, .rma, .rmx, .deck, .sec, .cells, .act] s t' := by
  unfold execDmaReadTimeout at h
  try dsimp only at h
  repeat' (first | cases h | split at h)
  all_goals repeat' (first | (with_reducible exact OnlyIn.refl _ _) | (with_reducible refine OnlyIn.ite' ?_ ?_) | (with_reducible apply OnlyIn.via; (first | apply dmaRead_only); on_goal 1 => decide))

theorem execDmaWriteFailure_only (t : DmaWTag) (s : State) {t' : State} (h : (execDmaWriteFailure t s) = .next t') :
    OnlyIn [.out, .regs, .host, .cmds, .mgmt, .tap] s t' := by
  unfold execDmaWriteFailure at h
  try dsimp only at h
  repeat' (first | cases h | split at h)
  all_goals repeat' (first | (with_reducible exact OnlyIn.refl _ _) | (with_reducible refine OnlyIn.ite' ?_ ?_) | (with_reducible apply OnlyIn.via; (first | apply dmaFailed_only | apply destFailed_only | apply setRing_only | apply setEv_only); on_goal 1 => decide) | split)

theorem execRxCallResp_only (port : ℕ) (pkt : Packet) (m : RespMsg) (s : State) {t' : State} (h : (execRxCallResp port pkt m s) = .next t') :
    OnlyIn [.out, .freeCnt, .regs, .host, .cmds, .seqs, .mgmt, .tap, .mem, .walk, .fab, .rma, .rmx, .deck, .sec, .cells, .act] s t' := by
  unfold execRxCallResp at h
  try dsimp only at h
  repeat' (first | cases h | split at h)
  all_goals repeat' (first | (with_reducible exact OnlyIn.refl _ _) | (with_reducible refine OnlyIn.ite' ?_ ?_) | (with_reducible apply OnlyIn.via; (first | apply rxRespPkt_only); on_goal 1 => decide))

theorem missResume_only (port : ℕ) (s : State) :
    OnlyIn [.regs, .fab] s (missResume port s) := by
  unfold missResume
  try dsimp only
  repeat' (first | (with_reducible exact OnlyIn.refl _ _) | (with_reducible refine OnlyIn.ite' ?_ ?_) | (with_reducible apply OnlyIn.via; (first | apply setPort_only | apply modPort_only | apply rmaCnt_only); on_goal 1 => decide) | split)

theorem unpark_only (conn : ℕ) (port : ℕ) (s : State) :
    OnlyIn [.out, .freeCnt, .regs, .host, .cmds, .seqs, .shards, .retained, .mgmt, .tap, .mem, .walk, .fab, .rma, .rmx, .deck, .sec, .cells, .act] s (unpark conn port s) := by
  unfold unpark
  try dsimp only
  repeat' (first | exact List.Subset.refl _ | decide | (with_reducible exact OnlyIn.refl _ _) | (with_reducible refine OnlyIn.ite' ?_ ?_) | (with_reducible apply OnlyIn.via; (first | apply modPort_only | apply missResume_only | apply rxCargo_only); on_goal 1 => decide) | ((with_reducible apply OnlyIn.andThen (m := [.out, .freeCnt, .regs, .host, .cmds, .seqs, .shards, .retained, .mgmt, .tap, .mem, .walk, .fab, .rma, .rmx, .deck, .sec, .cells, .act])); (on_goal 2 => (with_reducible apply forEach_only))) | ((with_reducible apply OnlyIn.andThen (m := [.out, .freeCnt, .regs, .host, .cmds, .seqs, .shards, .retained, .mgmt, .tap, .mem, .walk, .fab, .rma, .rmx, .deck, .sec, .cells, .act])); (on_goal 2 => (with_reducible apply OnlyIn.forEach; intro _ _)); (on_goal 3 => exact List.Subset.refl _)))

theorem execContextFetchDone_only (conn : ℕ) (s : State) {t' : State} (h : (execContextFetchDone conn s) = .next t') :
    OnlyIn [.out, .freeCnt, .regs, .host, .cmds, .seqs, .shards, .retained, .mgmt, .tap, .mem, .walk, .fab, .rma, .rmx, .deck, .sec, .cells, .act] s t' := by
  unfold execContextFetchDone at h
  try dsimp only at h
  repeat' (first | cases h | split at h)
  all_goals repeat' (first | exact List.Subset.refl _ | decide | (with_reducible exact OnlyIn.refl _ _) | (with_reducible refine OnlyIn.ite' ?_ ?_) | (with_reducible apply OnlyIn.via; (first | apply touchCtx_only | apply modConn_only | apply unpark_only | apply pump_only | apply rxCargo_only); on_goal 1 => decide) | ((with_reducible apply OnlyIn.andThen (m := [.out, .freeCnt, .regs, .host, .cmds, .seqs, .shards, .retained, .mgmt, .tap, .mem, .walk, .fab, .rma, .rmx, .deck, .sec, .cells, .act])); (on_goal 2 => (with_reducible apply forEach_only))) | ((with_reducible apply OnlyIn.andThen (m := [.out, .freeCnt, .regs, .host, .cmds, .seqs, .shards, .retained, .mgmt, .tap, .mem, .walk, .fab, .rma, .rmx, .deck, .sec, .cells, .act])); (on_goal 2 => (with_reducible apply OnlyIn.forEach; intro _ _)); (on_goal 3 => exact List.Subset.refl _)))

theorem execRetentionBusyRetry_only (ring : ℕ) (rseq : BitVec 32) (sub : ℕ) (s : State) {t' : State} (h : (execRetentionBusyRetry ring rseq sub s) = .next t') :
    OnlyIn [.out, .freeCnt, .clk, .regs, .host, .cmds, .seqs, .mgmt, .tap, .fab, .rma, .sec, .act] s t' := by
  unfold execRetentionBusyRetry at h
  try dsimp only at h
  repeat' (first | cases h | split at h)
  all_goals repeat' (first | (with_reducible exact OnlyIn.refl _ _) | (with_reducible refine OnlyIn.ite' ?_ ?_) | (with_reducible apply OnlyIn.via; (first | apply sendCall_only | apply setCmd_only | apply advanceTo_only); on_goal 1 => decide) | split)

theorem redoGfa_only (c : Cmd) (i : ℕ) (s : State) :
    OnlyIn [.out, .freeCnt, .regs, .host, .cmds, .seqs, .mgmt, .tap, .mem, .fab, .rma, .sec, .cells, .act] s (redoGfa c i s) := by
  unfold redoGfa
  try dsimp only
  repeat' (first | exact List.Subset.refl _ | decide | (with_reducible exact OnlyIn.refl _ _) | (with_reducible refine OnlyIn.ite' ?_ ?_) | (with_reducible apply OnlyIn.via; (first | apply countResolved_only | apply endAtAdmission_only | apply finish_only | apply writeMem_only | apply sendCall_only | apply setCmd_only); on_goal 1 => decide) | ((with_reducible apply OnlyIn.andThen (m := [.out, .freeCnt, .regs, .host, .cmds, .seqs, .mgmt, .tap, .mem, .fab, .rma, .sec, .cells, .act])); (on_goal 2 => (with_reducible apply forEach_only))) | ((with_reducible apply OnlyIn.andThen (m := [.out, .freeCnt, .regs, .host, .cmds, .seqs, .mgmt, .tap, .mem, .fab, .rma, .sec, .cells, .act])); (on_goal 2 => (with_reducible apply OnlyIn.forEach; intro _ _)); (on_goal 3 => exact List.Subset.refl _)) | split)

theorem redoSub_only (ring : ℕ) (rseq : BitVec 32) (i : ℕ) (s : State) :
    OnlyIn [.out, .freeCnt, .regs, .host, .cmds, .seqs, .mgmt, .tap, .mem, .fab, .rma, .sec, .cells, .act] s (redoSub ring rseq i s) := by
  unfold redoSub
  try dsimp only
  repeat' (first | (with_reducible exact OnlyIn.refl _ _) | (with_reducible refine OnlyIn.ite' ?_ ?_) | (with_reducible apply OnlyIn.via; (first | apply setCmd_only | apply loseOn_only | apply sendCall_only | apply redoGfa_only); on_goal 1 => decide) | split)

theorem execStepReplayStart_only (ring : ℕ) (rseq : BitVec 32) (s : State) {t' : State} (h : (execStepReplayStart ring rseq s) = .next t') :
    OnlyIn [.out, .freeCnt, .regs, .host, .cmds, .seqs, .mgmt, .tap, .mem, .walk, .fab, .rma, .rmx, .deck, .sec, .cells, .act] s t' := by
  unfold execStepReplayStart at h
  try dsimp only at h
  repeat' (first | cases h | split at h)
  all_goals repeat' (first | exact List.Subset.refl _ | decide | (with_reducible exact OnlyIn.refl _ _) | (with_reducible refine OnlyIn.ite' ?_ ?_) | (with_reducible apply OnlyIn.via; (first | apply setCmd_only | apply cntAdd_only | apply faultAtAdmission_only | apply faultStep_only | apply redoSub_only | apply pieceAnswered_only); on_goal 1 => decide) | ((with_reducible apply OnlyIn.andThen (m := [.out, .freeCnt, .regs, .host, .cmds, .seqs, .mgmt, .tap, .mem, .walk, .fab, .rma, .rmx, .deck, .sec, .cells, .act])); (on_goal 2 => (with_reducible apply forEach_only))) | ((with_reducible apply OnlyIn.andThen (m := [.out, .freeCnt, .regs, .host, .cmds, .seqs, .mgmt, .tap, .mem, .walk, .fab, .rma, .rmx, .deck, .sec, .cells, .act])); (on_goal 2 => (with_reducible apply OnlyIn.forEach; intro _ _)); (on_goal 3 => exact List.Subset.refl _)) | split)

theorem execWaitWatchdog_only (ring : ℕ) (rseq : BitVec 32) (s : State) {t' : State} (h : (execWaitWatchdog ring rseq s) = .next t') :
    OnlyIn [.out, .freeCnt, .clk, .regs, .host, .cmds, .seqs, .mgmt, .sec] s t' := by
  unfold execWaitWatchdog at h
  try dsimp only at h
  repeat' (first | cases h | split at h)
  all_goals repeat' (first | exact List.Subset.refl _ | decide | (with_reducible exact OnlyIn.refl _ _) | (with_reducible refine OnlyIn.ite' ?_ ?_) | (with_reducible apply OnlyIn.via; (first | apply cntAdd_only | apply advanceTo_only | apply post_only | apply loseSub_only | apply endAtAdmission_only | apply finish_only | apply dataLostEvent_only); on_goal 1 => decide) | ((with_reducible apply OnlyIn.andThen (m := [.out, .freeCnt, .clk, .regs, .host, .cmds, .seqs, .mgmt, .sec])); (on_goal 2 => (with_reducible apply forEach_only))) | ((with_reducible apply OnlyIn.andThen (m := [.out, .freeCnt, .clk, .regs, .host, .cmds, .seqs, .mgmt, .sec])); (on_goal 2 => (with_reducible apply OnlyIn.forEach; intro _ _)); (on_goal 3 => exact List.Subset.refl _)) | split)

theorem idle_only (s : State) :
    OnlyIn [.clk] s (idle s) := by
  unfold idle
  try dsimp only
  repeat' (first | (with_reducible exact OnlyIn.refl _ _) | (with_reducible refine OnlyIn.ite' ?_ ?_) | (with_reducible apply OnlyIn.via; (first | apply tick_only); on_goal 1 => decide))

end Sys2Proof.Machine
end

