-- ==== Sys2Proof/Laws/Tables.lean ====
section
/-! SUPPORT. Laws of tables, and what each record reads as after its own update. -/

namespace Sys2Proof.Machine

open Sys2Proof

theorem tget_tset {α : Type} (t : Table α) (k j : Nat) (v : α) : tget (tset t k v) j = if j = k then some v else tget t j := by
  induction t with
  | nil => simp [tset, tget, eq_comm]
  | cons e t ih =>
    obtain ⟨k', v'⟩ := e
    unfold tset
    split
    · simp [tget, eq_comm]
    · split
      · subst_vars; simp [tget, eq_comm]; split <;> rfl
      · simp only [tget, ih]; split <;> (split <;> simp_all)

@[simp] theorem tget_tset_self {α : Type} (t : Table α) (k : Nat) (v : α) : tget (tset t k v) k = some v := by simp [tget_tset]

@[simp] theorem tget_tset_of_ne {α : Type} (t : Table α) {k j : Nat} (v : α) (h : j ≠ k) : tget (tset t k v) j = tget t j := by
  simp [tget_tset, h]

@[simp] theorem tgetD_tset_self {α : Type} (t : Table α) (k : Nat) (v d : α) : tgetD (tset t k v) k d = v := by simp [tgetD]

@[simp] theorem tgetD_tset_of_ne {α : Type} (t : Table α) {k j : Nat} (v d : α) (h : j ≠ k) : tgetD (tset t k v) j d = tgetD t j d := by
  simp [tgetD, h]

theorem tget_tfilter_out {α : Type} (t : Table α) (p : Nat → α → Bool) (o : Nat) (h : ∀ v, p o v = false) : tget (tfilter t p) o = none := by
  induction t with
  | nil => rfl
  | cons e t ih =>
    obtain ⟨k, v⟩ := e
    simp only [tfilter, List.filter] at *
    by_cases hk : k = o
    · subst hk; simp [h, ih]
    · cases p k v <;> simp [tget, hk, ih]

theorem tget_tfilter_keep {α : Type} (t : Table α) (p : Nat → α → Bool) (o : Nat) (h : ∀ v, p o v = true) : tget (tfilter t p) o = tget t o := by
  induction t with
  | nil => rfl
  | cons e t ih =>
    obtain ⟨k, v⟩ := e
    simp only [tfilter, List.filter] at *
    by_cases hk : k = o
    · subst hk; simp [h, tget]
    · cases p k v <;> simp [tget, hk, ih]

theorem tdel_eq_tfilter {α : Type} (t : Table α) (k : Nat) : tdel t k = tfilter t fun j _ => j != k := rfl

@[simp] theorem tget_tdel_self {α : Type} (t : Table α) (k : Nat) : tget (tdel t k) k = none := by
  rw [tdel_eq_tfilter]; exact tget_tfilter_out _ _ _ fun _ => by simp

@[simp] theorem tget_tdel_of_ne {α : Type} (t : Table α) {k j : Nat} (h : j ≠ k) : tget (tdel t k) j = tget t j := by
  rw [tdel_eq_tfilter]; exact tget_tfilter_keep _ _ _ fun _ => by simp [h]

@[simp] theorem tget_tmap {α : Type} (t : Table α) (f : Nat → α → α) (k : Nat) : tget (tmap t f) k = (tget t k).map (f k) := by
  induction t with
  | nil => rfl
  | cons e t ih =>
    obtain ⟨j, v⟩ := e
    simp only [tmap, List.map, tget] at *
    split
    · subst_vars; rfl
    · exact ih

theorem tget_mem {α : Type} {t : Table α} {k : Nat} {v : α} (h : tget t k = some v) : (k, v) ∈ t := by
  induction t with
  | nil => simp [tget] at h
  | cons e t ih =>
    obtain ⟨j, w⟩ := e
    simp only [tget] at h
    split at h
    · simp_all
    · exact List.mem_cons_of_mem _ (ih h)

/-- The head key of a sorted table is below every other. -/
theorem tsorted_head_lt {α : Type} {k : Nat} {v : α} {t : Table α} (h : tsorted ((k, v) :: t) = true) : ∀ e ∈ t, k < e.1 := by
  induction t generalizing k v with
  | nil => simp
  | cons e t ih =>
    obtain ⟨k', v'⟩ := e
    simp only [tsorted, Bool.and_eq_true, decide_eq_true_eq] at h
    intro e he
    rcases List.mem_cons.1 he with rfl | he
    · exact h.1
    · exact h.1.trans (ih h.2 e he)

theorem tsorted_tail {α : Type} {e : Nat × α} {t : Table α} (h : tsorted (e :: t) = true) : tsorted t = true := by
  cases t with
  | nil => rfl
  | cons e' t => simp_all [tsorted]

/-- A key below every key of a sorted table goes in front of it. -/
theorem tsorted_cons {α : Type} {k : Nat} {v : α} {t : Table α} (h : ∀ e ∈ t, k < e.1) (ht : tsorted t = true) : tsorted ((k, v) :: t) = true := by
  cases t with
  | nil => rfl
  | cons e t =>
    obtain ⟨k', v'⟩ := e
    simp only [tsorted, Bool.and_eq_true, decide_eq_true_eq]
    exact ⟨h (k', v') (by simp), ht⟩

theorem tsorted_filter {α : Type} {t : Table α} (p : Nat × α → Bool) (h : tsorted t = true) : tsorted (t.filter p) = true := by
  induction t with
  | nil => rfl
  | cons e t ih =>
    obtain ⟨k, v⟩ := e
    simp only [List.filter]
    split
    · exact tsorted_cons (fun e he => tsorted_head_lt h e (List.mem_filter.1 he).1) (ih (tsorted_tail h))
    · exact ih (tsorted_tail h)

theorem tsorted_tset {α : Type} {t : Table α} (k : Nat) (v : α) (h : tsorted t = true) : tsorted (tset t k v) = true := by
  have mem : ∀ (t : Table α) (e : Nat × α), e ∈ tset t k v → e.1 = k ∨ e ∈ t := by
    intro t
    induction t with
    | nil => intro e he; simp [tset] at he; exact .inl (by rw [he])
    | cons a t ih =>
      obtain ⟨j, w⟩ := a
      intro e he
      unfold tset at he
      split at he
      · rcases List.mem_cons.1 he with rfl | he
        · exact .inl rfl
        · exact .inr he
      · split at he
        · rcases List.mem_cons.1 he with rfl | he
          · exact .inl rfl
          · exact .inr (List.mem_cons_of_mem _ he)
        · rcases List.mem_cons.1 he with rfl | he
          · exact .inr (by simp)
          · exact (ih e he).imp id (List.mem_cons_of_mem _)
  induction t with
  | nil => rfl
  | cons a t ih =>
    obtain ⟨j, w⟩ := a
    unfold tset
    split
    · next hk => exact tsorted_cons (fun e he => (List.mem_cons.1 he).elim (fun h' => h' ▸ hk) (fun h' => hk.trans (tsorted_head_lt h e h'))) h
    · split
      · next hk => subst hk; exact tsorted_cons (tsorted_head_lt h) (tsorted_tail h)
      · next h1 h2 =>
        refine tsorted_cons (fun e he => ?_) (ih (tsorted_tail h))
        rcases mem t e he with rfl | he
        · omega
        · exact tsorted_head_lt h e he

@[simp] theorem getCmd_setCmd (c : Cmd) (s : State) : getCmd (setCmd c s) c.ring c.rseq = some c := by simp [getCmd, setCmd]

@[simp] theorem getRing_setRing (n : Nat) (r : Ring) (s : State) : getRing (setRing n r s) n = r := by simp [getRing, setRing]

theorem getRing_setRing_of_ne {n m : Nat} (r : Ring) (s : State) (h : m ≠ n) : getRing (setRing n r s) m = getRing s m := by
  simp [getRing, setRing, h]

@[simp] theorem getPort_setPort (n : Nat) (x : Port) (s : State) : getPort (setPort n x s) n = x := by simp [getPort, setPort]

theorem getPort_setPort_of_ne {n m : Nat} (x : Port) (s : State) (h : m ≠ n) : getPort (setPort n x s) m = getPort s m := by
  simp [getPort, setPort, h]

@[simp] theorem getConn_setConn (n : Nat) (x : Conn) (s : State) : getConn (setConn n x s) n = x := by simp [getConn, setConn]

theorem getConn_setConn_of_ne {n m : Nat} (x : Conn) (s : State) (h : m ≠ n) : getConn (setConn n x s) m = getConn s m := by
  simp [getConn, setConn, h]

@[simp] theorem getUnit_setUnit (n : Nat) (x : CruUnit) (s : State) : getUnit (setUnit n x s) n = x := by simp [getUnit, setUnit]

theorem getUnit_setUnit_of_ne {n m : Nat} (x : CruUnit) (s : State) (h : m ≠ n) : getUnit (setUnit n x s) m = getUnit s m := by
  simp [getUnit, setUnit, h]

@[simp] theorem getSeq_setSeq (n : Nat) (q : Seq) (s : State) : getSeq (setSeq n q s) n = q := by simp [getSeq, setSeq]

theorem getSeq_setSeq_of_ne {n m : Nat} (q : Seq) (s : State) (h : m ≠ n) : getSeq (setSeq n q s) m = getSeq s m := by
  simp [getSeq, setSeq, h]

@[simp] theorem valW_setVal (o : Nat) (v : Word) (s : State) : valW (setVal o v s) o = v := by simp [valW, setVal]

theorem valW_setVal_of_ne {o p : Nat} (v : Word) (s : State) (h : p ≠ o) : valW (setVal o v s) p = valW s p := by simp [valW, setVal, h]

@[simp] theorem actW_setAct (o : Nat) (v : Word) (s : State) : actW (setAct o v s) o = v := by simp [actW, setAct]

theorem actW_setAct_of_ne {o p : Nat} (v : Word) (s : State) (h : p ≠ o) : actW (setAct o v s) p = actW s p := by simp [actW, setAct, h]

end Sys2Proof.Machine
end

