-- ==== Sys2Proof/Laws/Memory.lean ====
section
/-! SUPPORT. Local memory: a byte reads as what was written last, and every memory operation keeps the canonical form. -/

namespace Sys2Proof.Machine

open Sys2Proof

/-! ## The cell list -/

theorem cellGet_cellSet_self (l : List Host.Cell) (a : Nat) (b : Byte) (hs : tsorted l = true) : cellGet (cellSet l a b) a = b := by
  induction l with
  | nil => unfold cellSet; split <;> simp_all [cellGet]
  | cons e l ih =>
    obtain ⟨k, v⟩ := e
    have hk := tsorted_head_lt hs
    have none_at : ∀ l : List Host.Cell, (∀ e ∈ l, a < e.1) → cellGet l a = memDefault := by
      intro l hl
      cases l with
      | nil => rfl
      | cons e l => obtain ⟨k, v⟩ := e; have := hl (k, v) (by simp); simp only [cellGet]; rw [if_neg (by simp only at this; omega), if_pos (by simpa using this)]
    unfold cellSet
    split
    · next h =>
      split
      · next hb => rw [hb]; exact none_at _ fun e he => (List.mem_cons.1 he).elim (fun h' => h' ▸ h) fun h' => h.trans (hk e h')
      · simp [cellGet]
    · split
      · next h =>
        subst h
        split
        · next hb => rw [hb]; exact none_at _ hk
        · simp [cellGet]
      · simp only [cellGet]
        rw [if_neg (by omega), if_neg (by omega)]
        exact ih (tsorted_tail hs)

theorem cellGet_below {l : List Host.Cell} {a : Nat} (h : ∀ e ∈ l, a < e.1) : cellGet l a = memDefault := by
  cases l with
  | nil => rfl
  | cons e l => obtain ⟨k, v⟩ := e; have := h (k, v) (by simp); simp only [cellGet]; rw [if_neg (by simp only at this; omega), if_pos (by simpa using this)]

theorem cellGet_cellSet_of_ne (l : List Host.Cell) {a c : Nat} (b : Byte) (hs : tsorted l = true) (hc : c ≠ a) :
    cellGet (cellSet l a b) c = cellGet l c := by
  induction l with
  | nil => unfold cellSet; split <;> simp [cellGet, Ne.symm hc]
  | cons e l ih =>
    obtain ⟨k, v⟩ := e
    have hk := tsorted_head_lt hs
    unfold cellSet
    split
    · next h =>
      split
      · rfl
      · simp only [cellGet]
        rw [if_neg (Ne.symm hc)]
        split
        · next h1 => rw [if_neg (by omega), if_pos (by omega)]
        · rfl
    · split
      · next h =>
        subst h
        split
        · simp only [cellGet]
          rw [if_neg (Ne.symm hc)]
          split
          · next h1 => exact cellGet_below fun e he => h1.trans (hk e he)
          · rfl
        · simp only [cellGet]; rw [if_neg (Ne.symm hc), if_neg (Ne.symm hc)]
      · simp only [cellGet, ih (tsorted_tail hs)]

theorem mem_cellSet {l : List Host.Cell} {a : Nat} {b : Byte} {e : Host.Cell} (h : e ∈ cellSet l a b) : (e = (a, b) ∧ b ≠ memDefault) ∨ e ∈ l := by
  induction l with
  | nil => unfold cellSet at h; split at h <;> simp_all
  | cons x l ih =>
    obtain ⟨k, v⟩ := x
    unfold cellSet at h
    split at h
    · split at h
      · exact .inr h
      · next hb => exact (List.mem_cons.1 h).elim (fun h => .inl ⟨h, hb⟩) .inr
    · split at h
      · split at h
        · exact .inr (List.mem_cons_of_mem _ h)
        · next hb => exact (List.mem_cons.1 h).elim (fun h => .inl ⟨h, hb⟩) fun h => .inr (List.mem_cons_of_mem _ h)
      · rcases List.mem_cons.1 h with rfl | h
        · exact .inr (by simp)
        · exact (ih h).imp id (List.mem_cons_of_mem _)

theorem tsorted_cellSet {l : List Host.Cell} (a : Nat) (b : Byte) (h : tsorted l = true) : tsorted (cellSet l a b) = true := by
  induction l with
  | nil => unfold cellSet; split <;> rfl
  | cons e l ih =>
    obtain ⟨k, v⟩ := e
    have hk := tsorted_head_lt h
    unfold cellSet
    split
    · next ha =>
      split
      · exact h
      · exact tsorted_cons (fun e he => (List.mem_cons.1 he).elim (fun h' => h' ▸ ha) fun h' => ha.trans (hk e h')) h
    · split
      · next ha =>
        subst ha
        split
        · exact tsorted_tail h
        · exact tsorted_cons hk (tsorted_tail h)
      · refine tsorted_cons (fun e he => ?_) (ih (tsorted_tail h))
        rcases mem_cellSet he with ⟨rfl, _⟩ | he
        · simp only; omega
        · exact hk e he

/-! ## The canonical form -/

theorem wf_iff (l : List Host.Cell) : Memory.wf l = true ↔ tsorted l = true ∧ ∀ e ∈ l, e.2 ≠ memDefault ∧ e.1 < memSize := by
  simp [Memory.wf, List.all_eq_true]

theorem wf_nil : Memory.wf [] = true := rfl

theorem wf_cellSet {l : List Host.Cell} {a : Nat} (b : Byte) (ha : a < memSize) (h : Memory.wf l = true) : Memory.wf (cellSet l a b) = true := by
  rw [wf_iff] at *
  refine ⟨tsorted_cellSet a b h.1, fun e he => ?_⟩
  rcases mem_cellSet he with ⟨rfl, hb⟩ | he
  · exact ⟨hb, ha⟩
  · exact h.2 e he

theorem wf_filter {l : List Host.Cell} (p : Host.Cell → Bool) (h : Memory.wf l = true) : Memory.wf (l.filter p) = true := by
  rw [wf_iff] at *
  exact ⟨tsorted_filter p h.1, fun e he => h.2 e (List.mem_filter.1 he).1⟩

/-! ## The operations on the state -/

theorem memOk_reset : memOk State.reset := rfl

theorem memOk_of_cells {s t : State} (e : t.mem.cells = s.mem.cells) (h : memOk s) : memOk t := by unfold memOk; rw [e]; exact h

theorem memOk_writeByte (a : Nat) (b : Byte) {s : State} (h : memOk s) : memOk (writeByte a b s) := by
  unfold writeByte
  split
  · next ha => exact wf_cellSet b ha h
  · exact h

theorem memOk_writeBytes (a : Nat) (l : List Byte) {s : State} (h : memOk s) : memOk (writeBytes a l s) := by
  induction l generalizing a s with
  | nil => exact h
  | cons b l ih => exact ih (a + 1) (memOk_writeByte a b h)

theorem memOk_writeMem (a : Nat) (l : List Byte) {s : State} (h : memOk s) : memOk (writeMem a l s) :=
  memOk_of_cells (s := writeBytes a l s) rfl (memOk_writeBytes a l h)

theorem memOk_fillMemory (runs : List (Nat × Nat)) {s : State} (h : memOk s) : memOk (fillMemory runs s) := wf_filter _ h

/-! ## Read after write -/

theorem readByte_writeByte_self (a : Nat) (b : Byte) {s : State} (h : memOk s) (ha : a < memSize) : readByte (writeByte a b s) a = b := by
  simp only [readByte, writeByte, if_pos ha]
  exact cellGet_cellSet_self _ _ _ ((wf_iff _).1 h).1

theorem readByte_writeByte_of_ne {a c : Nat} (b : Byte) {s : State} (h : memOk s) (hc : c ≠ a) : readByte (writeByte a b s) c = readByte s c := by
  unfold writeByte
  split
  · unfold readByte; split
    · exact cellGet_cellSet_of_ne _ _ ((wf_iff _).1 h).1 hc
    · rfl
  · rfl

/-- Writing bytes changes no byte outside them. -/
theorem readByte_writeBytes_of_outside (a : Nat) (l : List Byte) {s : State} {c : Nat} (h : memOk s) (hc : c < a ∨ a + l.length ≤ c) :
    readByte (writeBytes a l s) c = readByte s c := by
  induction l generalizing a s with
  | nil => rfl
  | cons b l ih =>
    simp only [List.length_cons] at hc
    rw [writeBytes, ih (a + 1) (memOk_writeByte a b h) (by omega), readByte_writeByte_of_ne b h (by omega)]

/-- Each byte written reads back. -/
theorem readByte_writeBytes_at (a : Nat) (l : List Byte) {s : State} (i : Nat) (h : memOk s) (hi : i < l.length) (ha : a + l.length ≤ memSize) :
    readByte (writeBytes a l s) (a + i) = l.getD i 0 := by
  induction l generalizing a s i with
  | nil => simp at hi
  | cons b l ih =>
    simp only [List.length_cons] at hi ha
    rw [writeBytes]
    cases i with
    | zero =>
      rw [readByte_writeBytes_of_outside _ _ (memOk_writeByte a b h) (by omega), Nat.add_zero, readByte_writeByte_self a b h (by omega)]
      rfl
    | succ i =>
      have := ih (a + 1) (s := writeByte a b s) i (memOk_writeByte a b h) (by omega) (by omega)
      rw [show a + (i + 1) = a + 1 + i by omega, this]
      rfl

theorem readByte_writeMem_of_outside (a : Nat) (l : List Byte) {s : State} {c : Nat} (h : memOk s) (hc : c < a ∨ a + l.length ≤ c) :
    readByte (writeMem a l s) c = readByte s c := readByte_writeBytes_of_outside a l h hc

theorem readByte_writeMem_at (a : Nat) (l : List Byte) {s : State} (i : Nat) (h : memOk s) (hi : i < l.length) (ha : a + l.length ≤ memSize) :
    readByte (writeMem a l s) (a + i) = l.getD i 0 := readByte_writeBytes_at a l i h hi ha

end Sys2Proof.Machine
end

