-- ==== Sys2Proof/Laws/State.lean ====
section
/-! SUPPORT. What each plain update of the state leaves: one lemma per field, so that no proof unfolds a record update. -/

namespace Sys2Proof.Machine

open Sys2Proof

/-! ## stepFree -/

@[simp] theorem stepFree_pending (s : State) : (stepFree s).pending = s.pending := rfl
@[simp] theorem stepFree_out (s : State) : (stepFree s).out = s.out := rfl
@[simp] theorem stepFree_clk (s : State) : (stepFree s).clk = s.clk := rfl
@[simp] theorem stepFree_regs (s : State) : (stepFree s).regs = s.regs := rfl
@[simp] theorem stepFree_own (s : State) : (stepFree s).own = s.own := rfl
@[simp] theorem stepFree_host (s : State) : (stepFree s).host = s.host := rfl
@[simp] theorem stepFree_cmds (s : State) : (stepFree s).cmds = s.cmds := rfl
@[simp] theorem stepFree_seqs (s : State) : (stepFree s).seqs = s.seqs := rfl
@[simp] theorem stepFree_shards (s : State) : (stepFree s).shards = s.shards := rfl
@[simp] theorem stepFree_parts (s : State) : (stepFree s).parts = s.parts := rfl
@[simp] theorem stepFree_retained (s : State) : (stepFree s).retained = s.retained := rfl
@[simp] theorem stepFree_mgmt (s : State) : (stepFree s).mgmt = s.mgmt := rfl
@[simp] theorem stepFree_pins (s : State) : (stepFree s).pins = s.pins := rfl
@[simp] theorem stepFree_tap (s : State) : (stepFree s).tap = s.tap := rfl
@[simp] theorem stepFree_assay (s : State) : (stepFree s).assay = s.assay := rfl
@[simp] theorem stepFree_mem (s : State) : (stepFree s).mem = s.mem := rfl
@[simp] theorem stepFree_walk (s : State) : (stepFree s).walk = s.walk := rfl
@[simp] theorem stepFree_fab (s : State) : (stepFree s).fab = s.fab := rfl
@[simp] theorem stepFree_rma (s : State) : (stepFree s).rma = s.rma := rfl
@[simp] theorem stepFree_rmx (s : State) : (stepFree s).rmx = s.rmx := rfl
@[simp] theorem stepFree_deck (s : State) : (stepFree s).deck = s.deck := rfl
@[simp] theorem stepFree_sec (s : State) : (stepFree s).sec = s.sec := rfl

/-! ## skipFree -/

@[simp] theorem skipFree_pending (n : Nat) (s : State) : (skipFree n s).pending = s.pending := rfl
@[simp] theorem skipFree_out (n : Nat) (s : State) : (skipFree n s).out = s.out := rfl
@[simp] theorem skipFree_clk (n : Nat) (s : State) : (skipFree n s).clk = s.clk := rfl
@[simp] theorem skipFree_regs (n : Nat) (s : State) : (skipFree n s).regs = s.regs := rfl
@[simp] theorem skipFree_own (n : Nat) (s : State) : (skipFree n s).own = s.own := rfl
@[simp] theorem skipFree_host (n : Nat) (s : State) : (skipFree n s).host = s.host := rfl
@[simp] theorem skipFree_cmds (n : Nat) (s : State) : (skipFree n s).cmds = s.cmds := rfl
@[simp] theorem skipFree_seqs (n : Nat) (s : State) : (skipFree n s).seqs = s.seqs := rfl
@[simp] theorem skipFree_shards (n : Nat) (s : State) : (skipFree n s).shards = s.shards := rfl
@[simp] theorem skipFree_parts (n : Nat) (s : State) : (skipFree n s).parts = s.parts := rfl
@[simp] theorem skipFree_retained (n : Nat) (s : State) : (skipFree n s).retained = s.retained := rfl
@[simp] theorem skipFree_mgmt (n : Nat) (s : State) : (skipFree n s).mgmt = s.mgmt := rfl
@[simp] theorem skipFree_pins (n : Nat) (s : State) : (skipFree n s).pins = s.pins := rfl
@[simp] theorem skipFree_tap (n : Nat) (s : State) : (skipFree n s).tap = s.tap := rfl
@[simp] theorem skipFree_assay (n : Nat) (s : State) : (skipFree n s).assay = s.assay := rfl
@[simp] theorem skipFree_mem (n : Nat) (s : State) : (skipFree n s).mem = s.mem := rfl
@[simp] theorem skipFree_walk (n : Nat) (s : State) : (skipFree n s).walk = s.walk := rfl
@[simp] theorem skipFree_fab (n : Nat) (s : State) : (skipFree n s).fab = s.fab := rfl
@[simp] theorem skipFree_rma (n : Nat) (s : State) : (skipFree n s).rma = s.rma := rfl
@[simp] theorem skipFree_rmx (n : Nat) (s : State) : (skipFree n s).rmx = s.rmx := rfl
@[simp] theorem skipFree_deck (n : Nat) (s : State) : (skipFree n s).deck = s.deck := rfl
@[simp] theorem skipFree_sec (n : Nat) (s : State) : (skipFree n s).sec = s.sec := rfl

/-! ## emit -/

@[simp] theorem emit_pending (o : Out) (s : State) : (emit o s).pending = s.pending := rfl
@[simp] theorem emit_freeCnt (o : Out) (s : State) : (emit o s).freeCnt = s.freeCnt := rfl
@[simp] theorem emit_clk (o : Out) (s : State) : (emit o s).clk = s.clk := rfl
@[simp] theorem emit_regs (o : Out) (s : State) : (emit o s).regs = s.regs := rfl
@[simp] theorem emit_own (o : Out) (s : State) : (emit o s).own = s.own := rfl
@[simp] theorem emit_host (o : Out) (s : State) : (emit o s).host = s.host := rfl
@[simp] theorem emit_cmds (o : Out) (s : State) : (emit o s).cmds = s.cmds := rfl
@[simp] theorem emit_seqs (o : Out) (s : State) : (emit o s).seqs = s.seqs := rfl
@[simp] theorem emit_shards (o : Out) (s : State) : (emit o s).shards = s.shards := rfl
@[simp] theorem emit_parts (o : Out) (s : State) : (emit o s).parts = s.parts := rfl
@[simp] theorem emit_retained (o : Out) (s : State) : (emit o s).retained = s.retained := rfl
@[simp] theorem emit_mgmt (o : Out) (s : State) : (emit o s).mgmt = s.mgmt := rfl
@[simp] theorem emit_pins (o : Out) (s : State) : (emit o s).pins = s.pins := rfl
@[simp] theorem emit_tap (o : Out) (s : State) : (emit o s).tap = s.tap := rfl
@[simp] theorem emit_assay (o : Out) (s : State) : (emit o s).assay = s.assay := rfl
@[simp] theorem emit_mem (o : Out) (s : State) : (emit o s).mem = s.mem := rfl
@[simp] theorem emit_walk (o : Out) (s : State) : (emit o s).walk = s.walk := rfl
@[simp] theorem emit_fab (o : Out) (s : State) : (emit o s).fab = s.fab := rfl
@[simp] theorem emit_rma (o : Out) (s : State) : (emit o s).rma = s.rma := rfl
@[simp] theorem emit_rmx (o : Out) (s : State) : (emit o s).rmx = s.rmx := rfl
@[simp] theorem emit_deck (o : Out) (s : State) : (emit o s).deck = s.deck := rfl
@[simp] theorem emit_sec (o : Out) (s : State) : (emit o s).sec = s.sec := rfl

/-! ## emitAll -/

@[simp] theorem emitAll_pending (l : List Out) (s : State) : (emitAll l s).pending = s.pending := rfl
@[simp] theorem emitAll_freeCnt (l : List Out) (s : State) : (emitAll l s).freeCnt = s.freeCnt := rfl
@[simp] theorem emitAll_clk (l : List Out) (s : State) : (emitAll l s).clk = s.clk := rfl
@[simp] theorem emitAll_regs (l : List Out) (s : State) : (emitAll l s).regs = s.regs := rfl
@[simp] theorem emitAll_own (l : List Out) (s : State) : (emitAll l s).own = s.own := rfl
@[simp] theorem emitAll_host (l : List Out) (s : State) : (emitAll l s).host = s.host := rfl
@[simp] theorem emitAll_cmds (l : List Out) (s : State) : (emitAll l s).cmds = s.cmds := rfl
@[simp] theorem emitAll_seqs (l : List Out) (s : State) : (emitAll l s).seqs = s.seqs := rfl
@[simp] theorem emitAll_shards (l : List Out) (s : State) : (emitAll l s).shards = s.shards := rfl
@[simp] theorem emitAll_parts (l : List Out) (s : State) : (emitAll l s).parts = s.parts := rfl
@[simp] theorem emitAll_retained (l : List Out) (s : State) : (emitAll l s).retained = s.retained := rfl
@[simp] theorem emitAll_mgmt (l : List Out) (s : State) : (emitAll l s).mgmt = s.mgmt := rfl
@[simp] theorem emitAll_pins (l : List Out) (s : State) : (emitAll l s).pins = s.pins := rfl
@[simp] theorem emitAll_tap (l : List Out) (s : State) : (emitAll l s).tap = s.tap := rfl
@[simp] theorem emitAll_assay (l : List Out) (s : State) : (emitAll l s).assay = s.assay := rfl
@[simp] theorem emitAll_mem (l : List Out) (s : State) : (emitAll l s).mem = s.mem := rfl
@[simp] theorem emitAll_walk (l : List Out) (s : State) : (emitAll l s).walk = s.walk := rfl
@[simp] theorem emitAll_fab (l : List Out) (s : State) : (emitAll l s).fab = s.fab := rfl
@[simp] theorem emitAll_rma (l : List Out) (s : State) : (emitAll l s).rma = s.rma := rfl
@[simp] theorem emitAll_rmx (l : List Out) (s : State) : (emitAll l s).rmx = s.rmx := rfl
@[simp] theorem emitAll_deck (l : List Out) (s : State) : (emitAll l s).deck = s.deck := rfl
@[simp] theorem emitAll_sec (l : List Out) (s : State) : (emitAll l s).sec = s.sec := rfl

/-! ## setAct -/

@[simp] theorem setAct_pending (o : Nat) (v : Word) (s : State) : (setAct o v s).pending = s.pending := rfl
@[simp] theorem setAct_out (o : Nat) (v : Word) (s : State) : (setAct o v s).out = s.out := rfl
@[simp] theorem setAct_freeCnt (o : Nat) (v : Word) (s : State) : (setAct o v s).freeCnt = s.freeCnt := rfl
@[simp] theorem setAct_clk (o : Nat) (v : Word) (s : State) : (setAct o v s).clk = s.clk := rfl
@[simp] theorem setAct_own (o : Nat) (v : Word) (s : State) : (setAct o v s).own = s.own := rfl
@[simp] theorem setAct_host (o : Nat) (v : Word) (s : State) : (setAct o v s).host = s.host := rfl
@[simp] theorem setAct_cmds (o : Nat) (v : Word) (s : State) : (setAct o v s).cmds = s.cmds := rfl
@[simp] theorem setAct_seqs (o : Nat) (v : Word) (s : State) : (setAct o v s).seqs = s.seqs := rfl
@[simp] theorem setAct_shards (o : Nat) (v : Word) (s : State) : (setAct o v s).shards = s.shards := rfl
@[simp] theorem setAct_parts (o : Nat) (v : Word) (s : State) : (setAct o v s).parts = s.parts := rfl
@[simp] theorem setAct_retained (o : Nat) (v : Word) (s : State) : (setAct o v s).retained = s.retained := rfl
@[simp] theorem setAct_mgmt (o : Nat) (v : Word) (s : State) : (setAct o v s).mgmt = s.mgmt := rfl
@[simp] theorem setAct_pins (o : Nat) (v : Word) (s : State) : (setAct o v s).pins = s.pins := rfl
@[simp] theorem setAct_tap (o : Nat) (v : Word) (s : State) : (setAct o v s).tap = s.tap := rfl
@[simp] theorem setAct_assay (o : Nat) (v : Word) (s : State) : (setAct o v s).assay = s.assay := rfl
@[simp] theorem setAct_mem (o : Nat) (v : Word) (s : State) : (setAct o v s).mem = s.mem := rfl
@[simp] theorem setAct_walk (o : Nat) (v : Word) (s : State) : (setAct o v s).walk = s.walk := rfl
@[simp] theorem setAct_fab (o : Nat) (v : Word) (s : State) : (setAct o v s).fab = s.fab := rfl
@[simp] theorem setAct_rma (o : Nat) (v : Word) (s : State) : (setAct o v s).rma = s.rma := rfl
@[simp] theorem setAct_rmx (o : Nat) (v : Word) (s : State) : (setAct o v s).rmx = s.rmx := rfl
@[simp] theorem setAct_deck (o : Nat) (v : Word) (s : State) : (setAct o v s).deck = s.deck := rfl
@[simp] theorem setAct_sec (o : Nat) (v : Word) (s : State) : (setAct o v s).sec = s.sec := rfl
@[simp] theorem setAct_regs_pend (o : Nat) (v : Word) (s : State) : (setAct o v s).regs.pend = s.regs.pend := rfl
@[simp] theorem setAct_regs_vfPend (o : Nat) (v : Word) (s : State) : (setAct o v s).regs.vfPend = s.regs.vfPend := rfl
@[simp] theorem setAct_regs_val (o : Nat) (v : Word) (s : State) : (setAct o v s).regs.val = s.regs.val := rfl
@[simp] theorem setAct_regs_cnt (o : Nat) (v : Word) (s : State) : (setAct o v s).regs.cnt = s.regs.cnt := rfl
@[simp] theorem setAct_regs_ctl (o : Nat) (v : Word) (s : State) : (setAct o v s).regs.ctl = s.regs.ctl := rfl
@[simp] theorem setAct_regs_vfVal (o : Nat) (v : Word) (s : State) : (setAct o v s).regs.vfVal = s.regs.vfVal := rfl

/-! ## setVal -/

@[simp] theorem setVal_pending (o : Nat) (v : Word) (s : State) : (setVal o v s).pending = s.pending := rfl
@[simp] theorem setVal_out (o : Nat) (v : Word) (s : State) : (setVal o v s).out = s.out := rfl
@[simp] theorem setVal_freeCnt (o : Nat) (v : Word) (s : State) : (setVal o v s).freeCnt = s.freeCnt := rfl
@[simp] theorem setVal_clk (o : Nat) (v : Word) (s : State) : (setVal o v s).clk = s.clk := rfl
@[simp] theorem setVal_own (o : Nat) (v : Word) (s : State) : (setVal o v s).own = s.own := rfl
@[simp] theorem setVal_host (o : Nat) (v : Word) (s : State) : (setVal o v s).host = s.host := rfl
@[simp] theorem setVal_cmds (o : Nat) (v : Word) (s : State) : (setVal o v s).cmds = s.cmds := rfl
@[simp] theorem setVal_seqs (o : Nat) (v : Word) (s : State) : (setVal o v s).seqs = s.seqs := rfl
@[simp] theorem setVal_shards (o : Nat) (v : Word) (s : State) : (setVal o v s).shards = s.shards := rfl
@[simp] theorem setVal_parts (o : Nat) (v : Word) (s : State) : (setVal o v s).parts = s.parts := rfl
@[simp] theorem setVal_retained (o : Nat) (v : Word) (s : State) : (setVal o v s).retained = s.retained := rfl
@[simp] theorem setVal_mgmt (o : Nat) (v : Word) (s : State) : (setVal o v s).mgmt = s.mgmt := rfl
@[simp] theorem setVal_pins (o : Nat) (v : Word) (s : State) : (setVal o v s).pins = s.pins := rfl
@[simp] theorem setVal_tap (o : Nat) (v : Word) (s : State) : (setVal o v s).tap = s.tap := rfl
@[simp] theorem setVal_assay (o : Nat) (v : Word) (s : State) : (setVal o v s).assay = s.assay := rfl
@[simp] theorem setVal_mem (o : Nat) (v : Word) (s : State) : (setVal o v s).mem = s.mem := rfl
@[simp] theorem setVal_walk (o : Nat) (v : Word) (s : State) : (setVal o v s).walk = s.walk := rfl
@[simp] theorem setVal_fab (o : Nat) (v : Word) (s : State) : (setVal o v s).fab = s.fab := rfl
@[simp] theorem setVal_rma (o : Nat) (v : Word) (s : State) : (setVal o v s).rma = s.rma := rfl
@[simp] theorem setVal_rmx (o : Nat) (v : Word) (s : State) : (setVal o v s).rmx = s.rmx := rfl
@[simp] theorem setVal_deck (o : Nat) (v : Word) (s : State) : (setVal o v s).deck = s.deck := rfl
@[simp] theorem setVal_sec (o : Nat) (v : Word) (s : State) : (setVal o v s).sec = s.sec := rfl
@[simp] theorem setVal_regs_act (o : Nat) (v : Word) (s : State) : (setVal o v s).regs.act = s.regs.act := rfl
@[simp] theorem setVal_regs_pend (o : Nat) (v : Word) (s : State) : (setVal o v s).regs.pend = s.regs.pend := rfl
@[simp] theorem setVal_regs_vfPend (o : Nat) (v : Word) (s : State) : (setVal o v s).regs.vfPend = s.regs.vfPend := rfl
@[simp] theorem setVal_regs_cnt (o : Nat) (v : Word) (s : State) : (setVal o v s).regs.cnt = s.regs.cnt := rfl
@[simp] theorem setVal_regs_ctl (o : Nat) (v : Word) (s : State) : (setVal o v s).regs.ctl = s.regs.ctl := rfl
@[simp] theorem setVal_regs_vfVal (o : Nat) (v : Word) (s : State) : (setVal o v s).regs.vfVal = s.regs.vfVal := rfl

/-! ## setVal64 -/

@[simp] theorem setVal64_pending (o v : Nat) (s : State) : (setVal64 o v s).pending = s.pending := rfl
@[simp] theorem setVal64_out (o v : Nat) (s : State) : (setVal64 o v s).out = s.out := rfl
@[simp] theorem setVal64_freeCnt (o v : Nat) (s : State) : (setVal64 o v s).freeCnt = s.freeCnt := rfl
@[simp] theorem setVal64_clk (o v : Nat) (s : State) : (setVal64 o v s).clk = s.clk := rfl
@[simp] theorem setVal64_own (o v : Nat) (s : State) : (setVal64 o v s).own = s.own := rfl
@[simp] theorem setVal64_host (o v : Nat) (s : State) : (setVal64 o v s).host = s.host := rfl
@[simp] theorem setVal64_cmds (o v : Nat) (s : State) : (setVal64 o v s).cmds = s.cmds := rfl
@[simp] theorem setVal64_seqs (o v : Nat) (s : State) : (setVal64 o v s).seqs = s.seqs := rfl
@[simp] theorem setVal64_shards (o v : Nat) (s : State) : (setVal64 o v s).shards = s.shards := rfl
@[simp] theorem setVal64_parts (o v : Nat) (s : State) : (setVal64 o v s).parts = s.parts := rfl
@[simp] theorem setVal64_retained (o v : Nat) (s : State) : (setVal64 o v s).retained = s.retained := rfl
@[simp] theorem setVal64_mgmt (o v : Nat) (s : State) : (setVal64 o v s).mgmt = s.mgmt := rfl
@[simp] theorem setVal64_pins (o v : Nat) (s : State) : (setVal64 o v s).pins = s.pins := rfl
@[simp] theorem setVal64_tap (o v : Nat) (s : State) : (setVal64 o v s).tap = s.tap := rfl
@[simp] theorem setVal64_assay (o v : Nat) (s : State) : (setVal64 o v s).assay = s.assay := rfl
@[simp] theorem setVal64_mem (o v : Nat) (s : State) : (setVal64 o v s).mem = s.mem := rfl
@[simp] theorem setVal64_walk (o v : Nat) (s : State) : (setVal64 o v s).walk = s.walk := rfl
@[simp] theorem setVal64_fab (o v : Nat) (s : State) : (setVal64 o v s).fab = s.fab := rfl
@[simp] theorem setVal64_rma (o v : Nat) (s : State) : (setVal64 o v s).rma = s.rma := rfl
@[simp] theorem setVal64_rmx (o v : Nat) (s : State) : (setVal64 o v s).rmx = s.rmx := rfl
@[simp] theorem setVal64_deck (o v : Nat) (s : State) : (setVal64 o v s).deck = s.deck := rfl
@[simp] theorem setVal64_sec (o v : Nat) (s : State) : (setVal64 o v s).sec = s.sec := rfl
@[simp] theorem setVal64_regs_act (o v : Nat) (s : State) : (setVal64 o v s).regs.act = s.regs.act := rfl
@[simp] theorem setVal64_regs_pend (o v : Nat) (s : State) : (setVal64 o v s).regs.pend = s.regs.pend := rfl
@[simp] theorem setVal64_regs_vfPend (o v : Nat) (s : State) : (setVal64 o v s).regs.vfPend = s.regs.vfPend := rfl
@[simp] theorem setVal64_regs_cnt (o v : Nat) (s : State) : (setVal64 o v s).regs.cnt = s.regs.cnt := rfl
@[simp] theorem setVal64_regs_ctl (o v : Nat) (s : State) : (setVal64 o v s).regs.ctl = s.regs.ctl := rfl
@[simp] theorem setVal64_regs_vfVal (o v : Nat) (s : State) : (setVal64 o v s).regs.vfVal = s.regs.vfVal := rfl

/-! ## setValBits -/

@[simp] theorem setValBits_pending (o lo w x : Nat) (s : State) : (setValBits o lo w x s).pending = s.pending := rfl
@[simp] theorem setValBits_out (o lo w x : Nat) (s : State) : (setValBits o lo w x s).out = s.out := rfl
@[simp] theorem setValBits_freeCnt (o lo w x : Nat) (s : State) : (setValBits o lo w x s).freeCnt = s.freeCnt := rfl
@[simp] theorem setValBits_clk (o lo w x : Nat) (s : State) : (setValBits o lo w x s).clk = s.clk := rfl
@[simp] theorem setValBits_own (o lo w x : Nat) (s : State) : (setValBits o lo w x s).own = s.own := rfl
@[simp] theorem setValBits_host (o lo w x : Nat) (s : State) : (setValBits o lo w x s).host = s.host := rfl
@[simp] theorem setValBits_cmds (o lo w x : Nat) (s : State) : (setValBits o lo w x s).cmds = s.cmds := rfl
@[simp] theorem setValBits_seqs (o lo w x : Nat) (s : State) : (setValBits o lo w x s).seqs = s.seqs := rfl
@[simp] theorem setValBits_shards (o lo w x : Nat) (s : State) : (setValBits o lo w x s).shards = s.shards := rfl
@[simp] theorem setValBits_parts (o lo w x : Nat) (s : State) : (setValBits o lo w x s).parts = s.parts := rfl
@[simp] theorem setValBits_retained (o lo w x : Nat) (s : State) : (setValBits o lo w x s).retained = s.retained := rfl
@[simp] theorem setValBits_mgmt (o lo w x : Nat) (s : State) : (setValBits o lo w x s).mgmt = s.mgmt := rfl
@[simp] theorem setValBits_pins (o lo w x : Nat) (s : State) : (setValBits o lo w x s).pins = s.pins := rfl
@[simp] theorem setValBits_tap (o lo w x : Nat) (s : State) : (setValBits o lo w x s).tap = s.tap := rfl
@[simp] theorem setValBits_assay (o lo w x : Nat) (s : State) : (setValBits o lo w x s).assay = s.assay := rfl
@[simp] theorem setValBits_mem (o lo w x : Nat) (s : State) : (setValBits o lo w x s).mem = s.mem := rfl
@[simp] theorem setValBits_walk (o lo w x : Nat) (s : State) : (setValBits o lo w x s).walk = s.walk := rfl
@[simp] theorem setValBits_fab (o lo w x : Nat) (s : State) : (setValBits o lo w x s).fab = s.fab := rfl
@[simp] theorem setValBits_rma (o lo w x : Nat) (s : State) : (setValBits o lo w x s).rma = s.rma := rfl
@[simp] theorem setValBits_rmx (o lo w x : Nat) (s : State) : (setValBits o lo w x s).rmx = s.rmx := rfl
@[simp] theorem setValBits_deck (o lo w x : Nat) (s : State) : (setValBits o lo w x s).deck = s.deck := rfl
@[simp] theorem setValBits_sec (o lo w x : Nat) (s : State) : (setValBits o lo w x s).sec = s.sec := rfl
@[simp] theorem setValBits_regs_act (o lo w x : Nat) (s : State) : (setValBits o lo w x s).regs.act = s.regs.act := rfl
@[simp] theorem setValBits_regs_pend (o lo w x : Nat) (s : State) : (setValBits o lo w x s).regs.pend = s.regs.pend := rfl
@[simp] theorem setValBits_regs_vfPend (o lo w x : Nat) (s : State) : (setValBits o lo w x s).regs.vfPend = s.regs.vfPend := rfl
@[simp] theorem setValBits_regs_cnt (o lo w x : Nat) (s : State) : (setValBits o lo w x s).regs.cnt = s.regs.cnt := rfl
@[simp] theorem setValBits_regs_ctl (o lo w x : Nat) (s : State) : (setValBits o lo w x s).regs.ctl = s.regs.ctl := rfl
@[simp] theorem setValBits_regs_vfVal (o lo w x : Nat) (s : State) : (setValBits o lo w x s).regs.vfVal = s.regs.vfVal := rfl

/-! ## cntAdd -/

@[simp] theorem cntAdd_pending (o n : Nat) (s : State) : (cntAdd o n s).pending = s.pending := rfl
@[simp] theorem cntAdd_out (o n : Nat) (s : State) : (cntAdd o n s).out = s.out := rfl
@[simp] theorem cntAdd_freeCnt (o n : Nat) (s : State) : (cntAdd o n s).freeCnt = s.freeCnt := rfl
@[simp] theorem cntAdd_clk (o n : Nat) (s : State) : (cntAdd o n s).clk = s.clk := rfl
@[simp] theorem cntAdd_own (o n : Nat) (s : State) : (cntAdd o n s).own = s.own := rfl
@[simp] theorem cntAdd_host (o n : Nat) (s : State) : (cntAdd o n s).host = s.host := rfl
@[simp] theorem cntAdd_cmds (o n : Nat) (s : State) : (cntAdd o n s).cmds = s.cmds := rfl
@[simp] theorem cntAdd_seqs (o n : Nat) (s : State) : (cntAdd o n s).seqs = s.seqs := rfl
@[simp] theorem cntAdd_shards (o n : Nat) (s : State) : (cntAdd o n s).shards = s.shards := rfl
@[simp] theorem cntAdd_parts (o n : Nat) (s : State) : (cntAdd o n s).parts = s.parts := rfl
@[simp] theorem cntAdd_retained (o n : Nat) (s : State) : (cntAdd o n s).retained = s.retained := rfl
@[simp] theorem cntAdd_mgmt (o n : Nat) (s : State) : (cntAdd o n s).mgmt = s.mgmt := rfl
@[simp] theorem cntAdd_pins (o n : Nat) (s : State) : (cntAdd o n s).pins = s.pins := rfl
@[simp] theorem cntAdd_tap (o n : Nat) (s : State) : (cntAdd o n s).tap = s.tap := rfl
@[simp] theorem cntAdd_assay (o n : Nat) (s : State) : (cntAdd o n s).assay = s.assay := rfl
@[simp] theorem cntAdd_mem (o n : Nat) (s : State) : (cntAdd o n s).mem = s.mem := rfl
@[simp] theorem cntAdd_walk (o n : Nat) (s : State) : (cntAdd o n s).walk = s.walk := rfl
@[simp] theorem cntAdd_fab (o n : Nat) (s : State) : (cntAdd o n s).fab = s.fab := rfl
@[simp] theorem cntAdd_rma (o n : Nat) (s : State) : (cntAdd o n s).rma = s.rma := rfl
@[simp] theorem cntAdd_rmx (o n : Nat) (s : State) : (cntAdd o n s).rmx = s.rmx := rfl
@[simp] theorem cntAdd_deck (o n : Nat) (s : State) : (cntAdd o n s).deck = s.deck := rfl
@[simp] theorem cntAdd_sec (o n : Nat) (s : State) : (cntAdd o n s).sec = s.sec := rfl
@[simp] theorem cntAdd_regs_act (o n : Nat) (s : State) : (cntAdd o n s).regs.act = s.regs.act := rfl
@[simp] theorem cntAdd_regs_pend (o n : Nat) (s : State) : (cntAdd o n s).regs.pend = s.regs.pend := rfl
@[simp] theorem cntAdd_regs_vfPend (o n : Nat) (s : State) : (cntAdd o n s).regs.vfPend = s.regs.vfPend := rfl
@[simp] theorem cntAdd_regs_val (o n : Nat) (s : State) : (cntAdd o n s).regs.val = s.regs.val := rfl
@[simp] theorem cntAdd_regs_ctl (o n : Nat) (s : State) : (cntAdd o n s).regs.ctl = s.regs.ctl := rfl
@[simp] theorem cntAdd_regs_vfVal (o n : Nat) (s : State) : (cntAdd o n s).regs.vfVal = s.regs.vfVal := rfl

/-! ## setCtl -/

@[simp] theorem setCtl_pending (b : Nat) (c : CommitCtl) (s : State) : (setCtl b c s).pending = s.pending := rfl
@[simp] theorem setCtl_out (b : Nat) (c : CommitCtl) (s : State) : (setCtl b c s).out = s.out := rfl
@[simp] theorem setCtl_freeCnt (b : Nat) (c : CommitCtl) (s : State) : (setCtl b c s).freeCnt = s.freeCnt := rfl
@[simp] theorem setCtl_clk (b : Nat) (c : CommitCtl) (s : State) : (setCtl b c s).clk = s.clk := rfl
@[simp] theorem setCtl_own (b : Nat) (c : CommitCtl) (s : State) : (setCtl b c s).own = s.own := rfl
@[simp] theorem setCtl_host (b : Nat) (c : CommitCtl) (s : State) : (setCtl b c s).host = s.host := rfl
@[simp] theorem setCtl_cmds (b : Nat) (c : CommitCtl) (s : State) : (setCtl b c s).cmds = s.cmds := rfl
@[simp] theorem setCtl_seqs (b : Nat) (c : CommitCtl) (s : State) : (setCtl b c s).seqs = s.seqs := rfl
@[simp] theorem setCtl_shards (b : Nat) (c : CommitCtl) (s : State) : (setCtl b c s).shards = s.shards := rfl
@[simp] theorem setCtl_parts (b : Nat) (c : CommitCtl) (s : State) : (setCtl b c s).parts = s.parts := rfl
@[simp] theorem setCtl_retained (b : Nat) (c : CommitCtl) (s : State) : (setCtl b c s).retained = s.retained := rfl
@[simp] theorem setCtl_mgmt (b : Nat) (c : CommitCtl) (s : State) : (setCtl b c s).mgmt = s.mgmt := rfl
@[simp] theorem setCtl_pins (b : Nat) (c : CommitCtl) (s : State) : (setCtl b c s).pins = s.pins := rfl
@[simp] theorem setCtl_tap (b : Nat) (c : CommitCtl) (s : State) : (setCtl b c s).tap = s.tap := rfl
@[simp] theorem setCtl_assay (b : Nat) (c : CommitCtl) (s : State) : (setCtl b c s).assay = s.assay := rfl
@[simp] theorem setCtl_mem (b : Nat) (c : CommitCtl) (s : State) : (setCtl b c s).mem = s.mem := rfl
@[simp] theorem setCtl_walk (b : Nat) (c : CommitCtl) (s : State) : (setCtl b c s).walk = s.walk := rfl
@[simp] theorem setCtl_fab (b : Nat) (c : CommitCtl) (s : State) : (setCtl b c s).fab = s.fab := rfl
@[simp] theorem setCtl_rma (b : Nat) (c : CommitCtl) (s : State) : (setCtl b c s).rma = s.rma := rfl
@[simp] theorem setCtl_rmx (b : Nat) (c : CommitCtl) (s : State) : (setCtl b c s).rmx = s.rmx := rfl
@[simp] theorem setCtl_deck (b : Nat) (c : CommitCtl) (s : State) : (setCtl b c s).deck = s.deck := rfl
@[simp] theorem setCtl_sec (b : Nat) (c : CommitCtl) (s : State) : (setCtl b c s).sec = s.sec := rfl
@[simp] theorem setCtl_regs_act (b : Nat) (c : CommitCtl) (s : State) : (setCtl b c s).regs.act = s.regs.act := rfl
@[simp] theorem setCtl_regs_pend (b : Nat) (c : CommitCtl) (s : State) : (setCtl b c s).regs.pend = s.regs.pend := rfl
@[simp] theorem setCtl_regs_vfPend (b : Nat) (c : CommitCtl) (s : State) : (setCtl b c s).regs.vfPend = s.regs.vfPend := rfl
@[simp] theorem setCtl_regs_val (b : Nat) (c : CommitCtl) (s : State) : (setCtl b c s).regs.val = s.regs.val := rfl
@[simp] theorem setCtl_regs_cnt (b : Nat) (c : CommitCtl) (s : State) : (setCtl b c s).regs.cnt = s.regs.cnt := rfl
@[simp] theorem setCtl_regs_vfVal (b : Nat) (c : CommitCtl) (s : State) : (setCtl b c s).regs.vfVal = s.regs.vfVal := rfl

/-! ## setRing -/

@[simp] theorem setRing_pending (n : Nat) (r : Ring) (s : State) : (setRing n r s).pending = s.pending := rfl
@[simp] theorem setRing_out (n : Nat) (r : Ring) (s : State) : (setRing n r s).out = s.out := rfl
@[simp] theorem setRing_freeCnt (n : Nat) (r : Ring) (s : State) : (setRing n r s).freeCnt = s.freeCnt := rfl
@[simp] theorem setRing_clk (n : Nat) (r : Ring) (s : State) : (setRing n r s).clk = s.clk := rfl
@[simp] theorem setRing_regs (n : Nat) (r : Ring) (s : State) : (setRing n r s).regs = s.regs := rfl
@[simp] theorem setRing_own (n : Nat) (r : Ring) (s : State) : (setRing n r s).own = s.own := rfl
@[simp] theorem setRing_cmds (n : Nat) (r : Ring) (s : State) : (setRing n r s).cmds = s.cmds := rfl
@[simp] theorem setRing_seqs (n : Nat) (r : Ring) (s : State) : (setRing n r s).seqs = s.seqs := rfl
@[simp] theorem setRing_shards (n : Nat) (r : Ring) (s : State) : (setRing n r s).shards = s.shards := rfl
@[simp] theorem setRing_parts (n : Nat) (r : Ring) (s : State) : (setRing n r s).parts = s.parts := rfl
@[simp] theorem setRing_retained (n : Nat) (r : Ring) (s : State) : (setRing n r s).retained = s.retained := rfl
@[simp] theorem setRing_mgmt (n : Nat) (r : Ring) (s : State) : (setRing n r s).mgmt = s.mgmt := rfl
@[simp] theorem setRing_pins (n : Nat) (r : Ring) (s : State) : (setRing n r s).pins = s.pins := rfl
@[simp] theorem setRing_tap (n : Nat) (r : Ring) (s : State) : (setRing n r s).tap = s.tap := rfl
@[simp] theorem setRing_assay (n : Nat) (r : Ring) (s : State) : (setRing n r s).assay = s.assay := rfl
@[simp] theorem setRing_mem (n : Nat) (r : Ring) (s : State) : (setRing n r s).mem = s.mem := rfl
@[simp] theorem setRing_walk (n : Nat) (r : Ring) (s : State) : (setRing n r s).walk = s.walk := rfl
@[simp] theorem setRing_fab (n : Nat) (r : Ring) (s : State) : (setRing n r s).fab = s.fab := rfl
@[simp] theorem setRing_rma (n : Nat) (r : Ring) (s : State) : (setRing n r s).rma = s.rma := rfl
@[simp] theorem setRing_rmx (n : Nat) (r : Ring) (s : State) : (setRing n r s).rmx = s.rmx := rfl
@[simp] theorem setRing_deck (n : Nat) (r : Ring) (s : State) : (setRing n r s).deck = s.deck := rfl
@[simp] theorem setRing_sec (n : Nat) (r : Ring) (s : State) : (setRing n r s).sec = s.sec := rfl
@[simp] theorem setRing_evs (n : Nat) (r : Ring) (s : State) : (setRing n r s).host.evs = s.host.evs := rfl

/-! ## setEv -/

@[simp] theorem setEv_pending (n : Nat) (r : EvRing) (s : State) : (setEv n r s).pending = s.pending := rfl
@[simp] theorem setEv_out (n : Nat) (r : EvRing) (s : State) : (setEv n r s).out = s.out := rfl
@[simp] theorem setEv_freeCnt (n : Nat) (r : EvRing) (s : State) : (setEv n r s).freeCnt = s.freeCnt := rfl
@[simp] theorem setEv_clk (n : Nat) (r : EvRing) (s : State) : (setEv n r s).clk = s.clk := rfl
@[simp] theorem setEv_regs (n : Nat) (r : EvRing) (s : State) : (setEv n r s).regs = s.regs := rfl
@[simp] theorem setEv_own (n : Nat) (r : EvRing) (s : State) : (setEv n r s).own = s.own := rfl
@[simp] theorem setEv_cmds (n : Nat) (r : EvRing) (s : State) : (setEv n r s).cmds = s.cmds := rfl
@[simp] theorem setEv_seqs (n : Nat) (r : EvRing) (s : State) : (setEv n r s).seqs = s.seqs := rfl
@[simp] theorem setEv_shards (n : Nat) (r : EvRing) (s : State) : (setEv n r s).shards = s.shards := rfl
@[simp] theorem setEv_parts (n : Nat) (r : EvRing) (s : State) : (setEv n r s).parts = s.parts := rfl
@[simp] theorem setEv_retained (n : Nat) (r : EvRing) (s : State) : (setEv n r s).retained = s.retained := rfl
@[simp] theorem setEv_mgmt (n : Nat) (r : EvRing) (s : State) : (setEv n r s).mgmt = s.mgmt := rfl
@[simp] theorem setEv_pins (n : Nat) (r : EvRing) (s : State) : (setEv n r s).pins = s.pins := rfl
@[simp] theorem setEv_tap (n : Nat) (r : EvRing) (s : State) : (setEv n r s).tap = s.tap := rfl
@[simp] theorem setEv_assay (n : Nat) (r : EvRing) (s : State) : (setEv n r s).assay = s.assay := rfl
@[simp] theorem setEv_mem (n : Nat) (r : EvRing) (s : State) : (setEv n r s).mem = s.mem := rfl
@[simp] theorem setEv_walk (n : Nat) (r : EvRing) (s : State) : (setEv n r s).walk = s.walk := rfl
@[simp] theorem setEv_fab (n : Nat) (r : EvRing) (s : State) : (setEv n r s).fab = s.fab := rfl
@[simp] theorem setEv_rma (n : Nat) (r : EvRing) (s : State) : (setEv n r s).rma = s.rma := rfl
@[simp] theorem setEv_rmx (n : Nat) (r : EvRing) (s : State) : (setEv n r s).rmx = s.rmx := rfl
@[simp] theorem setEv_deck (n : Nat) (r : EvRing) (s : State) : (setEv n r s).deck = s.deck := rfl
@[simp] theorem setEv_sec (n : Nat) (r : EvRing) (s : State) : (setEv n r s).sec = s.sec := rfl

/-! ## setCmd -/

@[simp] theorem setCmd_pending (c : Cmd) (s : State) : (setCmd c s).pending = s.pending := rfl
@[simp] theorem setCmd_out (c : Cmd) (s : State) : (setCmd c s).out = s.out := rfl
@[simp] theorem setCmd_freeCnt (c : Cmd) (s : State) : (setCmd c s).freeCnt = s.freeCnt := rfl
@[simp] theorem setCmd_clk (c : Cmd) (s : State) : (setCmd c s).clk = s.clk := rfl
@[simp] theorem setCmd_regs (c : Cmd) (s : State) : (setCmd c s).regs = s.regs := rfl
@[simp] theorem setCmd_own (c : Cmd) (s : State) : (setCmd c s).own = s.own := rfl
@[simp] theorem setCmd_host (c : Cmd) (s : State) : (setCmd c s).host = s.host := rfl
@[simp] theorem setCmd_seqs (c : Cmd) (s : State) : (setCmd c s).seqs = s.seqs := rfl
@[simp] theorem setCmd_shards (c : Cmd) (s : State) : (setCmd c s).shards = s.shards := rfl
@[simp] theorem setCmd_parts (c : Cmd) (s : State) : (setCmd c s).parts = s.parts := rfl
@[simp] theorem setCmd_retained (c : Cmd) (s : State) : (setCmd c s).retained = s.retained := rfl
@[simp] theorem setCmd_mgmt (c : Cmd) (s : State) : (setCmd c s).mgmt = s.mgmt := rfl
@[simp] theorem setCmd_pins (c : Cmd) (s : State) : (setCmd c s).pins = s.pins := rfl
@[simp] theorem setCmd_tap (c : Cmd) (s : State) : (setCmd c s).tap = s.tap := rfl
@[simp] theorem setCmd_assay (c : Cmd) (s : State) : (setCmd c s).assay = s.assay := rfl
@[simp] theorem setCmd_mem (c : Cmd) (s : State) : (setCmd c s).mem = s.mem := rfl
@[simp] theorem setCmd_walk (c : Cmd) (s : State) : (setCmd c s).walk = s.walk := rfl
@[simp] theorem setCmd_fab (c : Cmd) (s : State) : (setCmd c s).fab = s.fab := rfl
@[simp] theorem setCmd_rma (c : Cmd) (s : State) : (setCmd c s).rma = s.rma := rfl
@[simp] theorem setCmd_rmx (c : Cmd) (s : State) : (setCmd c s).rmx = s.rmx := rfl
@[simp] theorem setCmd_deck (c : Cmd) (s : State) : (setCmd c s).deck = s.deck := rfl
@[simp] theorem setCmd_sec (c : Cmd) (s : State) : (setCmd c s).sec = s.sec := rfl

/-! ## delCmd -/

@[simp] theorem delCmd_pending (c : Cmd) (s : State) : (delCmd c s).pending = s.pending := rfl
@[simp] theorem delCmd_out (c : Cmd) (s : State) : (delCmd c s).out = s.out := rfl
@[simp] theorem delCmd_freeCnt (c : Cmd) (s : State) : (delCmd c s).freeCnt = s.freeCnt := rfl
@[simp] theorem delCmd_clk (c : Cmd) (s : State) : (delCmd c s).clk = s.clk := rfl
@[simp] theorem delCmd_regs (c : Cmd) (s : State) : (delCmd c s).regs = s.regs := rfl
@[simp] theorem delCmd_own (c : Cmd) (s : State) : (delCmd c s).own = s.own := rfl
@[simp] theorem delCmd_host (c : Cmd) (s : State) : (delCmd c s).host = s.host := rfl
@[simp] theorem delCmd_seqs (c : Cmd) (s : State) : (delCmd c s).seqs = s.seqs := rfl
@[simp] theorem delCmd_shards (c : Cmd) (s : State) : (delCmd c s).shards = s.shards := rfl
@[simp] theorem delCmd_parts (c : Cmd) (s : State) : (delCmd c s).parts = s.parts := rfl
@[simp] theorem delCmd_retained (c : Cmd) (s : State) : (delCmd c s).retained = s.retained := rfl
@[simp] theorem delCmd_mgmt (c : Cmd) (s : State) : (delCmd c s).mgmt = s.mgmt := rfl
@[simp] theorem delCmd_pins (c : Cmd) (s : State) : (delCmd c s).pins = s.pins := rfl
@[simp] theorem delCmd_tap (c : Cmd) (s : State) : (delCmd c s).tap = s.tap := rfl
@[simp] theorem delCmd_assay (c : Cmd) (s : State) : (delCmd c s).assay = s.assay := rfl
@[simp] theorem delCmd_mem (c : Cmd) (s : State) : (delCmd c s).mem = s.mem := rfl
@[simp] theorem delCmd_walk (c : Cmd) (s : State) : (delCmd c s).walk = s.walk := rfl
@[simp] theorem delCmd_fab (c : Cmd) (s : State) : (delCmd c s).fab = s.fab := rfl
@[simp] theorem delCmd_rma (c : Cmd) (s : State) : (delCmd c s).rma = s.rma := rfl
@[simp] theorem delCmd_rmx (c : Cmd) (s : State) : (delCmd c s).rmx = s.rmx := rfl
@[simp] theorem delCmd_deck (c : Cmd) (s : State) : (delCmd c s).deck = s.deck := rfl
@[simp] theorem delCmd_sec (c : Cmd) (s : State) : (delCmd c s).sec = s.sec := rfl

/-! ## setSeq -/

@[simp] theorem setSeq_pending (n : Nat) (q : Seq) (s : State) : (setSeq n q s).pending = s.pending := rfl
@[simp] theorem setSeq_out (n : Nat) (q : Seq) (s : State) : (setSeq n q s).out = s.out := rfl
@[simp] theorem setSeq_freeCnt (n : Nat) (q : Seq) (s : State) : (setSeq n q s).freeCnt = s.freeCnt := rfl
@[simp] theorem setSeq_clk (n : Nat) (q : Seq) (s : State) : (setSeq n q s).clk = s.clk := rfl
@[simp] theorem setSeq_regs (n : Nat) (q : Seq) (s : State) : (setSeq n q s).regs = s.regs := rfl
@[simp] theorem setSeq_own (n : Nat) (q : Seq) (s : State) : (setSeq n q s).own = s.own := rfl
@[simp] theorem setSeq_host (n : Nat) (q : Seq) (s : State) : (setSeq n q s).host = s.host := rfl
@[simp] theorem setSeq_cmds (n : Nat) (q : Seq) (s : State) : (setSeq n q s).cmds = s.cmds := rfl
@[simp] theorem setSeq_shards (n : Nat) (q : Seq) (s : State) : (setSeq n q s).shards = s.shards := rfl
@[simp] theorem setSeq_parts (n : Nat) (q : Seq) (s : State) : (setSeq n q s).parts = s.parts := rfl
@[simp] theorem setSeq_retained (n : Nat) (q : Seq) (s : State) : (setSeq n q s).retained = s.retained := rfl
@[simp] theorem setSeq_mgmt (n : Nat) (q : Seq) (s : State) : (setSeq n q s).mgmt = s.mgmt := rfl
@[simp] theorem setSeq_pins (n : Nat) (q : Seq) (s : State) : (setSeq n q s).pins = s.pins := rfl
@[simp] theorem setSeq_tap (n : Nat) (q : Seq) (s : State) : (setSeq n q s).tap = s.tap := rfl
@[simp] theorem setSeq_assay (n : Nat) (q : Seq) (s : State) : (setSeq n q s).assay = s.assay := rfl
@[simp] theorem setSeq_mem (n : Nat) (q : Seq) (s : State) : (setSeq n q s).mem = s.mem := rfl
@[simp] theorem setSeq_walk (n : Nat) (q : Seq) (s : State) : (setSeq n q s).walk = s.walk := rfl
@[simp] theorem setSeq_fab (n : Nat) (q : Seq) (s : State) : (setSeq n q s).fab = s.fab := rfl
@[simp] theorem setSeq_rma (n : Nat) (q : Seq) (s : State) : (setSeq n q s).rma = s.rma := rfl
@[simp] theorem setSeq_rmx (n : Nat) (q : Seq) (s : State) : (setSeq n q s).rmx = s.rmx := rfl
@[simp] theorem setSeq_deck (n : Nat) (q : Seq) (s : State) : (setSeq n q s).deck = s.deck := rfl
@[simp] theorem setSeq_sec (n : Nat) (q : Seq) (s : State) : (setSeq n q s).sec = s.sec := rfl

/-! ## setPort -/

@[simp] theorem setPort_pending (n : Nat) (x : Port) (s : State) : (setPort n x s).pending = s.pending := rfl
@[simp] theorem setPort_out (n : Nat) (x : Port) (s : State) : (setPort n x s).out = s.out := rfl
@[simp] theorem setPort_freeCnt (n : Nat) (x : Port) (s : State) : (setPort n x s).freeCnt = s.freeCnt := rfl
@[simp] theorem setPort_clk (n : Nat) (x : Port) (s : State) : (setPort n x s).clk = s.clk := rfl
@[simp] theorem setPort_regs (n : Nat) (x : Port) (s : State) : (setPort n x s).regs = s.regs := rfl
@[simp] theorem setPort_own (n : Nat) (x : Port) (s : State) : (setPort n x s).own = s.own := rfl
@[simp] theorem setPort_host (n : Nat) (x : Port) (s : State) : (setPort n x s).host = s.host := rfl
@[simp] theorem setPort_cmds (n : Nat) (x : Port) (s : State) : (setPort n x s).cmds = s.cmds := rfl
@[simp] theorem setPort_seqs (n : Nat) (x : Port) (s : State) : (setPort n x s).seqs = s.seqs := rfl
@[simp] theorem setPort_shards (n : Nat) (x : Port) (s : State) : (setPort n x s).shards = s.shards := rfl
@[simp] theorem setPort_parts (n : Nat) (x : Port) (s : State) : (setPort n x s).parts = s.parts := rfl
@[simp] theorem setPort_retained (n : Nat) (x : Port) (s : State) : (setPort n x s).retained = s.retained := rfl
@[simp] theorem setPort_mgmt (n : Nat) (x : Port) (s : State) : (setPort n x s).mgmt = s.mgmt := rfl
@[simp] theorem setPort_pins (n : Nat) (x : Port) (s : State) : (setPort n x s).pins = s.pins := rfl
@[simp] theorem setPort_tap (n : Nat) (x : Port) (s : State) : (setPort n x s).tap = s.tap := rfl
@[simp] theorem setPort_assay (n : Nat) (x : Port) (s : State) : (setPort n x s).assay = s.assay := rfl
@[simp] theorem setPort_mem (n : Nat) (x : Port) (s : State) : (setPort n x s).mem = s.mem := rfl
@[simp] theorem setPort_walk (n : Nat) (x : Port) (s : State) : (setPort n x s).walk = s.walk := rfl
@[simp] theorem setPort_rma (n : Nat) (x : Port) (s : State) : (setPort n x s).rma = s.rma := rfl
@[simp] theorem setPort_rmx (n : Nat) (x : Port) (s : State) : (setPort n x s).rmx = s.rmx := rfl
@[simp] theorem setPort_deck (n : Nat) (x : Port) (s : State) : (setPort n x s).deck = s.deck := rfl
@[simp] theorem setPort_sec (n : Nat) (x : Port) (s : State) : (setPort n x s).sec = s.sec := rfl

/-! ## setConn -/

@[simp] theorem setConn_pending (n : Nat) (x : Conn) (s : State) : (setConn n x s).pending = s.pending := rfl
@[simp] theorem setConn_out (n : Nat) (x : Conn) (s : State) : (setConn n x s).out = s.out := rfl
@[simp] theorem setConn_freeCnt (n : Nat) (x : Conn) (s : State) : (setConn n x s).freeCnt = s.freeCnt := rfl
@[simp] theorem setConn_clk (n : Nat) (x : Conn) (s : State) : (setConn n x s).clk = s.clk := rfl
@[simp] theorem setConn_regs (n : Nat) (x : Conn) (s : State) : (setConn n x s).regs = s.regs := rfl
@[simp] theorem setConn_own (n : Nat) (x : Conn) (s : State) : (setConn n x s).own = s.own := rfl
@[simp] theorem setConn_host (n : Nat) (x : Conn) (s : State) : (setConn n x s).host = s.host := rfl
@[simp] theorem setConn_cmds (n : Nat) (x : Conn) (s : State) : (setConn n x s).cmds = s.cmds := rfl
@[simp] theorem setConn_seqs (n : Nat) (x : Conn) (s : State) : (setConn n x s).seqs = s.seqs := rfl
@[simp] theorem setConn_shards (n : Nat) (x : Conn) (s : State) : (setConn n x s).shards = s.shards := rfl
@[simp] theorem setConn_parts (n : Nat) (x : Conn) (s : State) : (setConn n x s).parts = s.parts := rfl
@[simp] theorem setConn_retained (n : Nat) (x : Conn) (s : State) : (setConn n x s).retained = s.retained := rfl
@[simp] theorem setConn_mgmt (n : Nat) (x : Conn) (s : State) : (setConn n x s).mgmt = s.mgmt := rfl
@[simp] theorem setConn_pins (n : Nat) (x : Conn) (s : State) : (setConn n x s).pins = s.pins := rfl
@[simp] theorem setConn_tap (n : Nat) (x : Conn) (s : State) : (setConn n x s).tap = s.tap := rfl
@[simp] theorem setConn_assay (n : Nat) (x : Conn) (s : State) : (setConn n x s).assay = s.assay := rfl
@[simp] theorem setConn_mem (n : Nat) (x : Conn) (s : State) : (setConn n x s).mem = s.mem := rfl
@[simp] theorem setConn_walk (n : Nat) (x : Conn) (s : State) : (setConn n x s).walk = s.walk := rfl
@[simp] theorem setConn_fab (n : Nat) (x : Conn) (s : State) : (setConn n x s).fab = s.fab := rfl
@[simp] theorem setConn_rmx (n : Nat) (x : Conn) (s : State) : (setConn n x s).rmx = s.rmx := rfl
@[simp] theorem setConn_deck (n : Nat) (x : Conn) (s : State) : (setConn n x s).deck = s.deck := rfl
@[simp] theorem setConn_sec (n : Nat) (x : Conn) (s : State) : (setConn n x s).sec = s.sec := rfl

/-! ## setUnit -/

@[simp] theorem setUnit_pending (n : Nat) (x : CruUnit) (s : State) : (setUnit n x s).pending = s.pending := rfl
@[simp] theorem setUnit_out (n : Nat) (x : CruUnit) (s : State) : (setUnit n x s).out = s.out := rfl
@[simp] theorem setUnit_freeCnt (n : Nat) (x : CruUnit) (s : State) : (setUnit n x s).freeCnt = s.freeCnt := rfl
@[simp] theorem setUnit_clk (n : Nat) (x : CruUnit) (s : State) : (setUnit n x s).clk = s.clk := rfl
@[simp] theorem setUnit_regs (n : Nat) (x : CruUnit) (s : State) : (setUnit n x s).regs = s.regs := rfl
@[simp] theorem setUnit_own (n : Nat) (x : CruUnit) (s : State) : (setUnit n x s).own = s.own := rfl
@[simp] theorem setUnit_host (n : Nat) (x : CruUnit) (s : State) : (setUnit n x s).host = s.host := rfl
@[simp] theorem setUnit_cmds (n : Nat) (x : CruUnit) (s : State) : (setUnit n x s).cmds = s.cmds := rfl
@[simp] theorem setUnit_seqs (n : Nat) (x : CruUnit) (s : State) : (setUnit n x s).seqs = s.seqs := rfl
@[simp] theorem setUnit_shards (n : Nat) (x : CruUnit) (s : State) : (setUnit n x s).shards = s.shards := rfl
@[simp] theorem setUnit_parts (n : Nat) (x : CruUnit) (s : State) : (setUnit n x s).parts = s.parts := rfl
@[simp] theorem setUnit_retained (n : Nat) (x : CruUnit) (s : State) : (setUnit n x s).retained = s.retained := rfl
@[simp] theorem setUnit_mgmt (n : Nat) (x : CruUnit) (s : State) : (setUnit n x s).mgmt = s.mgmt := rfl
@[simp] theorem setUnit_pins (n : Nat) (x : CruUnit) (s : State) : (setUnit n x s).pins = s.pins := rfl
@[simp] theorem setUnit_tap (n : Nat) (x : CruUnit) (s : State) : (setUnit n x s).tap = s.tap := rfl
@[simp] theorem setUnit_assay (n : Nat) (x : CruUnit) (s : State) : (setUnit n x s).assay = s.assay := rfl
@[simp] theorem setUnit_walk (n : Nat) (x : CruUnit) (s : State) : (setUnit n x s).walk = s.walk := rfl
@[simp] theorem setUnit_fab (n : Nat) (x : CruUnit) (s : State) : (setUnit n x s).fab = s.fab := rfl
@[simp] theorem setUnit_rma (n : Nat) (x : CruUnit) (s : State) : (setUnit n x s).rma = s.rma := rfl
@[simp] theorem setUnit_rmx (n : Nat) (x : CruUnit) (s : State) : (setUnit n x s).rmx = s.rmx := rfl
@[simp] theorem setUnit_deck (n : Nat) (x : CruUnit) (s : State) : (setUnit n x s).deck = s.deck := rfl
@[simp] theorem setUnit_sec (n : Nat) (x : CruUnit) (s : State) : (setUnit n x s).sec = s.sec := rfl
@[simp] theorem setUnit_cells (n : Nat) (x : CruUnit) (s : State) : (setUnit n x s).mem.cells = s.mem.cells := rfl

/-! ## setDeck -/

@[simp] theorem setDeck_pending (d : Deck) (s : State) : (setDeck d s).pending = s.pending := rfl
@[simp] theorem setDeck_out (d : Deck) (s : State) : (setDeck d s).out = s.out := rfl
@[simp] theorem setDeck_freeCnt (d : Deck) (s : State) : (setDeck d s).freeCnt = s.freeCnt := rfl
@[simp] theorem setDeck_clk (d : Deck) (s : State) : (setDeck d s).clk = s.clk := rfl
@[simp] theorem setDeck_regs (d : Deck) (s : State) : (setDeck d s).regs = s.regs := rfl
@[simp] theorem setDeck_own (d : Deck) (s : State) : (setDeck d s).own = s.own := rfl
@[simp] theorem setDeck_host (d : Deck) (s : State) : (setDeck d s).host = s.host := rfl
@[simp] theorem setDeck_cmds (d : Deck) (s : State) : (setDeck d s).cmds = s.cmds := rfl
@[simp] theorem setDeck_seqs (d : Deck) (s : State) : (setDeck d s).seqs = s.seqs := rfl
@[simp] theorem setDeck_shards (d : Deck) (s : State) : (setDeck d s).shards = s.shards := rfl
@[simp] theorem setDeck_parts (d : Deck) (s : State) : (setDeck d s).parts = s.parts := rfl
@[simp] theorem setDeck_retained (d : Deck) (s : State) : (setDeck d s).retained = s.retained := rfl
@[simp] theorem setDeck_mgmt (d : Deck) (s : State) : (setDeck d s).mgmt = s.mgmt := rfl
@[simp] theorem setDeck_pins (d : Deck) (s : State) : (setDeck d s).pins = s.pins := rfl
@[simp] theorem setDeck_tap (d : Deck) (s : State) : (setDeck d s).tap = s.tap := rfl
@[simp] theorem setDeck_assay (d : Deck) (s : State) : (setDeck d s).assay = s.assay := rfl
@[simp] theorem setDeck_mem (d : Deck) (s : State) : (setDeck d s).mem = s.mem := rfl
@[simp] theorem setDeck_walk (d : Deck) (s : State) : (setDeck d s).walk = s.walk := rfl
@[simp] theorem setDeck_fab (d : Deck) (s : State) : (setDeck d s).fab = s.fab := rfl
@[simp] theorem setDeck_rma (d : Deck) (s : State) : (setDeck d s).rma = s.rma := rfl
@[simp] theorem setDeck_rmx (d : Deck) (s : State) : (setDeck d s).rmx = s.rmx := rfl
@[simp] theorem setDeck_sec (d : Deck) (s : State) : (setDeck d s).sec = s.sec := rfl

/-! ## tapPut -/

@[simp] theorem tapPut_pending (typ p r v : Nat) (s : State) : (tapPut typ p r v s).pending = s.pending := rfl
@[simp] theorem tapPut_out (typ p r v : Nat) (s : State) : (tapPut typ p r v s).out = s.out := rfl
@[simp] theorem tapPut_freeCnt (typ p r v : Nat) (s : State) : (tapPut typ p r v s).freeCnt = s.freeCnt := rfl
@[simp] theorem tapPut_clk (typ p r v : Nat) (s : State) : (tapPut typ p r v s).clk = s.clk := rfl
@[simp] theorem tapPut_regs (typ p r v : Nat) (s : State) : (tapPut typ p r v s).regs = s.regs := rfl
@[simp] theorem tapPut_own (typ p r v : Nat) (s : State) : (tapPut typ p r v s).own = s.own := rfl
@[simp] theorem tapPut_host (typ p r v : Nat) (s : State) : (tapPut typ p r v s).host = s.host := rfl
@[simp] theorem tapPut_cmds (typ p r v : Nat) (s : State) : (tapPut typ p r v s).cmds = s.cmds := rfl
@[simp] theorem tapPut_seqs (typ p r v : Nat) (s : State) : (tapPut typ p r v s).seqs = s.seqs := rfl
@[simp] theorem tapPut_shards (typ p r v : Nat) (s : State) : (tapPut typ p r v s).shards = s.shards := rfl
@[simp] theorem tapPut_parts (typ p r v : Nat) (s : State) : (tapPut typ p r v s).parts = s.parts := rfl
@[simp] theorem tapPut_retained (typ p r v : Nat) (s : State) : (tapPut typ p r v s).retained = s.retained := rfl
@[simp] theorem tapPut_mgmt (typ p r v : Nat) (s : State) : (tapPut typ p r v s).mgmt = s.mgmt := rfl
@[simp] theorem tapPut_pins (typ p r v : Nat) (s : State) : (tapPut typ p r v s).pins = s.pins := rfl
@[simp] theorem tapPut_assay (typ p r v : Nat) (s : State) : (tapPut typ p r v s).assay = s.assay := rfl
@[simp] theorem tapPut_mem (typ p r v : Nat) (s : State) : (tapPut typ p r v s).mem = s.mem := rfl
@[simp] theorem tapPut_walk (typ p r v : Nat) (s : State) : (tapPut typ p r v s).walk = s.walk := rfl
@[simp] theorem tapPut_fab (typ p r v : Nat) (s : State) : (tapPut typ p r v s).fab = s.fab := rfl
@[simp] theorem tapPut_rma (typ p r v : Nat) (s : State) : (tapPut typ p r v s).rma = s.rma := rfl
@[simp] theorem tapPut_rmx (typ p r v : Nat) (s : State) : (tapPut typ p r v s).rmx = s.rmx := rfl
@[simp] theorem tapPut_deck (typ p r v : Nat) (s : State) : (tapPut typ p r v s).deck = s.deck := rfl
@[simp] theorem tapPut_sec (typ p r v : Nat) (s : State) : (tapPut typ p r v s).sec = s.sec := rfl

/-! ## clearErr -/

@[simp] theorem clearErr_pending (a n : Nat) (s : State) : (clearErr a n s).pending = s.pending := rfl
@[simp] theorem clearErr_out (a n : Nat) (s : State) : (clearErr a n s).out = s.out := rfl
@[simp] theorem clearErr_freeCnt (a n : Nat) (s : State) : (clearErr a n s).freeCnt = s.freeCnt := rfl
@[simp] theorem clearErr_clk (a n : Nat) (s : State) : (clearErr a n s).clk = s.clk := rfl
@[simp] theorem clearErr_regs (a n : Nat) (s : State) : (clearErr a n s).regs = s.regs := rfl
@[simp] theorem clearErr_own (a n : Nat) (s : State) : (clearErr a n s).own = s.own := rfl
@[simp] theorem clearErr_host (a n : Nat) (s : State) : (clearErr a n s).host = s.host := rfl
@[simp] theorem clearErr_cmds (a n : Nat) (s : State) : (clearErr a n s).cmds = s.cmds := rfl
@[simp] theorem clearErr_seqs (a n : Nat) (s : State) : (clearErr a n s).seqs = s.seqs := rfl
@[simp] theorem clearErr_shards (a n : Nat) (s : State) : (clearErr a n s).shards = s.shards := rfl
@[simp] theorem clearErr_parts (a n : Nat) (s : State) : (clearErr a n s).parts = s.parts := rfl
@[simp] theorem clearErr_retained (a n : Nat) (s : State) : (clearErr a n s).retained = s.retained := rfl
@[simp] theorem clearErr_mgmt (a n : Nat) (s : State) : (clearErr a n s).mgmt = s.mgmt := rfl
@[simp] theorem clearErr_pins (a n : Nat) (s : State) : (clearErr a n s).pins = s.pins := rfl
@[simp] theorem clearErr_tap (a n : Nat) (s : State) : (clearErr a n s).tap = s.tap := rfl
@[simp] theorem clearErr_assay (a n : Nat) (s : State) : (clearErr a n s).assay = s.assay := rfl
@[simp] theorem clearErr_walk (a n : Nat) (s : State) : (clearErr a n s).walk = s.walk := rfl
@[simp] theorem clearErr_fab (a n : Nat) (s : State) : (clearErr a n s).fab = s.fab := rfl
@[simp] theorem clearErr_rma (a n : Nat) (s : State) : (clearErr a n s).rma = s.rma := rfl
@[simp] theorem clearErr_rmx (a n : Nat) (s : State) : (clearErr a n s).rmx = s.rmx := rfl
@[simp] theorem clearErr_deck (a n : Nat) (s : State) : (clearErr a n s).deck = s.deck := rfl
@[simp] theorem clearErr_sec (a n : Nat) (s : State) : (clearErr a n s).sec = s.sec := rfl
@[simp] theorem clearErr_cells (a n : Nat) (s : State) : (clearErr a n s).mem.cells = s.mem.cells := rfl

end Sys2Proof.Machine
end

