-- ==== Sys2Proof/Tests/Base.lean ====
section
/-! SUPPORT. Small states for the tests: the node in service, and what a test adds to it. -/

namespace Sys2Proof.Tests

open Sys2Proof Sys2Proof.Machine

/-- The node in READY with main power on, owned by the PF. -/
def on : State := { mgmt := { st := .ready }, own := { state := .owned } }

/-- The active bank holds the words. -/
def withAct (l : List (Nat × Nat)) (s : State) : State :=
  l.foldl (fun s e => setAct e.1 (BitVec.ofNat 32 e.2) s) s

/-- The other bits hold the words. -/
def withVal (l : List (Nat × Nat)) (s : State) : State :=
  l.foldl (fun s e => setVal e.1 (BitVec.ofNat 32 e.2) s) s

/-- A descriptor of 64 bytes from fields (offset, length, value); bytes 0 and 1 are version 2 and the opcode. -/
def desc (op : Nat) (l : List (Nat × Nat × Nat)) : List Byte :=
  (List.range 64).map fun i =>
    if i = 0 then 2 else if i = 1 then BitVec.ofNat 8 op
    else match l.find? fun e => decide (e.1 ≤ i) && decide (i < e.1 + e.2.1) with
      | some (o, _, v) => BitVec.ofNat 8 (v / 256 ^ (i - o))
      | none => 0

/-- A command of ring 5 with ring sequence 7. -/
def cmd (op : Nat) (l : List (Nat × Nat × Nat)) : Cmd := { ring := 5, rseq := 7, desc := desc op l, metered := false }

/-- The same, running. -/
def run (c : Cmd) (w : Work) : Cmd := { c with phase := .running, work := w }

end Sys2Proof.Tests
end

