-- ==== Sys2Proof/Tests/WitnessCrucible.lean ====
section
/-! SUPPORT. Witnesses: the crucible's words and the command path of its units. -/

namespace Sys2Proof.Tests

open Sys2Proof Sys2Proof.Machine

/-- A word of the crucible from OP, X, Y, Z and IMM. -/
def word (op x y z imm : Nat) : Word := BitVec.ofNat 32 (op * 2 ^ 26 + x * 2 ^ 22 + y * 2 ^ 18 + z * 2 ^ 14 + imm)

/-- A unit that runs at a word: register 1 is 1, register 2 is 32, register 4 is 0x1000, register 5 is 2, the others are 0; it may read and store
below 0x10000; a stream of four columns is loaded. -/
def cruAt (w : Word) : CruUnit :=
  { st := .run, prog := [(0, w), (1, 0)], s := [0, 1, 32, 0, 0x1000, 2], rdHi := 0x10000, stHi := 0x10000
    lane := { ula := 0x2000, cols := 4, bytes := zeros 128 } }

/-- Unit 4 stands as `x`. -/
def cruOn (x : CruUnit) : State := { on with mem := { units := [(4, x)] } }

/-- What makes `AtWord`, as one decidable statement. -/
theorem atWord_of {s : State} {u op : Nat} {x : CruUnit} {w : Word}
    (h : mainOn s = true ∧ x = getUnit s u ∧ x.st = .run ∧ x.pc < imageLen x ∧ w = tgetD x.prog x.pc 0 ∧ wordOk w = true ∧ wOp w = op) : AtWord s u op x w :=
  ⟨h.1, h.2.1, h.2.2.1, h.2.2.2.1, h.2.2.2.2.1, h.2.2.2.2.2.1, h.2.2.2.2.2.2⟩

/-- One word of each kind. -/
def words : List (Nat × Word) :=
  [(0x00, word 0x00 0 0 0 0), (0x01, word 0x01 0 0 0 0), (0x02, word 0x02 3 0 0 0x3FFF), (0x03, word 0x03 3 1 0 5), (0x04, word 0x04 3 1 2 0),
   (0x05, word 0x05 1 0 0 1), (0x05, word 0x05 2 0 0 1), (0x06, word 0x06 0 0 0 1), (0x06, word 0x06 0 0 0 2), (0x07, word 0x07 0 0 0 1), (0x07, word 0x07 1 0 0 1),
   (0x08, word 0x08 0 4 5 1), (0x09, word 0x09 0 2 0 0), (0x0A, word 0x0A 1 2 0 64), (0x0B, word 0x0B 1 2 0 (512 + 1)), (0x0C, word 0x0C 1 0 0 0),
   (0x0D, word 0x0D 1 0 0 0), (0x0E, word 0x0E 1 0 0 0), (0x0F, word 0x0F 1 0 0 0), (0x10, word 0x10 1 0 0 0), (0x11, word 0x11 0 0 0 8),
   (0x11, word 0x11 0 4 5 1), (0x11, word 0x11 0 4 5 2), (0x11, word 0x11 0 0 0 3), (0x12, word 0x12 1 2 5 0x200), (0x13, word 0x13 0 0 0 7)]

theorem witness_CrucibleWords : ∀ e ∈ words, AtWord (cruOn (cruAt e.2)) 4 e.1 (cruAt e.2) e.2 := fun e h =>
  atWord_of ((by decide : ∀ e ∈ words, mainOn (cruOn (cruAt e.2)) = true ∧ cruAt e.2 = getUnit (cruOn (cruAt e.2)) 4 ∧ (cruAt e.2).st = .run ∧
    (cruAt e.2).pc < imageLen (cruAt e.2) ∧ e.2 = tgetD (cruAt e.2).prog (cruAt e.2).pc 0 ∧ wordOk e.2 = true ∧ wOp e.2 = e.1) e h)

/-- The unit's registers that no word of them changes. -/
def cruRegs : CruUnit := cruAt 0

theorem witness_CrucibleControlWordsCompute :
    (mainOn (cruOn cruRegs) = true ∧ (getUnit (cruOn cruRegs) 4).st = .run ∧ imageLen { cruRegs with pc := 2 } ≤ 2 ∧ wordOk (word 0x14 0 0 0 0) = false) ∧
      wImm (word 0x00 0 0 0 0) = 0 ∧
      (cruRegs.reg (wX (word 0x05 1 0 0 1)) = 1 ∧ cruRegs.reg (wX (word 0x05 2 0 0 1)) ≠ 1 ∧ wImm (word 0x05 2 0 0 1) < imageLen cruRegs) ∧
      (wImm (word 0x06 0 0 0 1) < imageLen cruRegs ∧ imageLen cruRegs ≤ wImm (word 0x06 0 0 0 2)) ∧
      (cruRegs.reg (wX (word 0x07 1 0 0 1)) ≠ 0 ∧ cruRegs.reg (wX (word 0x07 0 0 0 1)) = 0) := by decide

theorem witness_CrucibleStoresStayInGrant :
    ((cruRegs.reg (wY (word 0x08 0 4 5 1))).toNat / 32 * 32 = 0x1000 ∧ 32 * (cruRegs.reg (wZ (word 0x08 0 4 5 1))).toNat = 64 ∧
        Memory.wf (cruOn cruRegs).mem.cells = true ∧ cruRegs.rdLo ≤ 0x1000 ∧ 0x1000 + 64 ≤ cruRegs.rdHi ∧ 0x1000 + 64 ≤ ulaEnd ∧
        cruRegs.rowcyc + activations cruRegs 0x1000 64 ≤ 512 ∧ 512 < 512 + activations { cruRegs with rowcyc := 512 } 0x1000 64 ∧
        ({ cruRegs with rdHi := 0x1000 } : CruUnit).rdHi < 0x1000 + 64 ∧ ({ cruRegs with stHi := 0x1000 } : CruUnit).stHi < 0x1000 + 64) ∧
      (wImm (word 0x11 0 0 0 8) % 8 = 0 ∧ wImm (word 0x11 0 4 5 1) % 8 = 1 ∧ wImm (word 0x11 0 4 5 2) % 8 = 2 ∧ wImm (word 0x11 0 0 0 3) % 8 = 3) ∧
      (cruRegs.lane.bad = none ∧ 64 ≤ cruRegs.lane.bytes.length ∧ cruRegs.stLo ≤ 0x1000 ∧ 0x1000 + 64 ≤ cruRegs.stHi ∧
        ulaAddr (cruOn cruRegs) 4 0x1000 + 64 ≤ memSize) ∧
      (cruRegs.lane.check = false ∧
        (let x : CruUnit := { cruRegs with lane := { cruRegs.lane with check := true, marks := [1] } }
         x.lane.check = true ∧ x.lane.marks = [1] ∧ x.stLo ≤ x.lane.ula + 32 ∧ x.lane.ula + 32 + 32 ≤ x.stHi ∧ 32 + 32 ≤ x.lane.bytes.length ∧
           ulaAddr (cruOn x) 4 (x.lane.ula + 32) + 32 ≤ memSize)) := by decide +kernel

/-- HOOK's operation can be any byte: 1 (clip), 6 or 5 (none of R139's). -/
def hookAt (b : Byte) : CruUnit := { cruAt (word 0x0D 1 0 0 0) with opnd0 := List.replicate 2368 0 ++ [b] }

theorem witness_CrucibleDatapathWordsCompute_hook (b : Byte) :
    fld ((hookAt b).opnd 0) 2368 1 = b.toNat ∧ AtWord (cruOn (hookAt b)) 4 0x0D (hookAt b) (word 0x0D 1 0 0 0) := by
  refine ⟨?_, atWord_of ⟨rfl, rfl, rfl, (by decide : 0 < imageLen (cruAt (word 0x0D 1 0 0 0))), rfl, by decide, by decide⟩⟩
  have e : List.drop 2368 (List.replicate 2368 (0 : Byte) ++ [b]) = [b] := by
    rw [List.drop_append_of_le_length (by rw [List.length_replicate]), List.drop_of_length_le (by rw [List.length_replicate])]
    rfl
  simp only [hookAt, CruUnit.opnd, if_true, fld, slice, e]
  simp [leVal]

theorem witness_CrucibleDatapathWordsCompute :
    ((cruRegs.reg (wX (word 0x0A 1 2 0 64))).toNat = 1 ∧ (cruRegs.reg (wY (word 0x0A 1 2 0 64))).toNat = 32 ∧ wImm (word 0x0A 1 2 0 64) % 128 = 64 ∧
        shapeOk 1 32 = true ∧ bits (wImm (word 0x0A 1 2 0 64)) 7 2 ≠ 2 ∧ nvOk 1 = true ∧ nvOk 0 = false ∧ shapeOk 1 33 = false ∧ (33 % 32 ≠ 0)) ∧
      (wImm (word 0x0B 1 2 0 513) % 128 = 1 ∧ bit (wImm (word 0x0B 1 2 0 513)) 9 = true) ∧
      (cruRegs.reg (wZ (word 0x0D 1 0 0 0))).toNat < 16 ∧
      ((cruRegs.reg (wZ (word 0x12 1 2 5 0x200))).toNat ≤ 2048 ∧ 2048 < (4096 : Word).toNat) := by decide +kernel

theorem witness_UnitsAreCommandedAndBounded_path :
    (mainOn (cruOn {}) = true ∧ 4 < 1152) ∧
      (bit (fld (zeros 32) 0 4) 11 = false ∧ bit (fld (zeros 32) 0 4) 12 = false ∧ bit (fld (leBytes 32 (2 ^ 10)) 0 4) 10 = true) ∧
      (unitFree (getUnit (cruOn {}) 4) = true ∧ unitFree (getUnit (cruOn cruRegs) 4) = false ∧ (getUnit (cruOn cruRegs) 4).st = .run) ∧
      (zeros 32).length = 32 := by decide +kernel

theorem witness_UnitsAreCommandedAndBounded_bounds :
    (getUnit (cruOn { cruRegs with st := .yielded }) 4).st = .yielded ∧
      (holdsBank (getUnit (cruOn cruRegs) 4) 1 = false ∧ holdsBank (getUnit (cruOn { cruRegs with openRow := some 5 }) 4) 1 = true) ∧
      (getUnit (cruOn { cruRegs with suspendReq := true }) 4).suspendReq = true ∧
      (getUnit (cruOn { cruRegs with st := .suspended }) 4).st = .suspended ∧
      (getUnit (cruOn { cruRegs with clkbound := 100 }) 4).clkbound ≠ 0 ∧
      (getUnit (cruOn { cruRegs with st := .done }) 4).st = .done := by decide

end Sys2Proof.Tests
end

