-- ==== Sys2Proof/Tests/WitnessRma.lean ====
section
/-! SUPPORT. Witnesses: RMA commands, connections, regions, counters, packets and the timers of a connection. -/

namespace Sys2Proof.Tests

open Sys2Proof Sys2Proof.Machine

/-! ## Operations -/

/-- Partition 0 has the connections 0 to 15 and port 0; RMA takes connections; counter 1 belongs to partition 0 with bound 100. -/
def rmaWords : List (Nat × Nat) := [(0xA01000, 2 ^ 24), (0xA01010, 0), (0xA01014, 16), (0x400000, 1), (0x480008, 64), (0x48000C, 100)]

/-- The node with its halves and regions. -/
def rmaOn (r : Rma) : State := { withAct rmaWords on with rma := r }

/-- The same with a command. -/
def onRma (r : Rma) (c : Cmd) : State := setCmd c (rmaOn r)

/-- An open half toward node 2's half 9. -/
def half : Conn := { state := .open_, peerNode := 2, peerConn := 9 }

/-- Half 3 stands as `x`, with its context in the cache. -/
def halfIs (x : Conn) : Rma := { conns := [(3, x)], cache := [3] }

/-- RMA_POST on half 3. -/
def rmaCmd (mode len : Nat) : Cmd := cmd 0x30 [(8, 4, 3 + 2 ^ 20 * mode), (12, 4, len), (16, 8, 0x1000)]

/-- A half without room. -/
def fullHalf : Conn := { half with ops := [{ kind := .read, psn := 0, psns := 4096 }] }

theorem witness_RmaOperationsArePosted_refused :
    (MayAdmit (onRma {} (rmaCmd 0 0)) 5 7 (rmaCmd 0 0) ∧ (rmaCmd 0 0).op = 0x30 ∧ rmaMode (rmaCmd 0 0) = 0 ∧ rmaLen (rmaCmd 0 0) = 0) ∧
      (MayAdmit (setCmd (rmaCmd 1 64) on) 5 7 (rmaCmd 1 64) ∧ rmaClean (rmaCmd 1 64) = true ∧
        mayUseConn (setCmd (rmaCmd 1 64) on) (rmaCmd 1 64) (rmaConnOf (rmaCmd 1 64)) = false) ∧
      (MayAdmit (onRma {} (rmaCmd 1 64)) 5 7 (rmaCmd 1 64) ∧ mayUseConn (onRma {} (rmaCmd 1 64)) (rmaCmd 1 64) 3 = true ∧
        (getConn (onRma {} (rmaCmd 1 64)) 3).state ≠ .open_) :=
  ⟨⟨by constructor <;> decide, by decide, by decide, by decide⟩, ⟨by constructor <;> decide, by decide, by decide⟩,
    by constructor <;> decide, by decide, by decide⟩

theorem witness_RmaOperationsArePosted_posted (m : Nat) (h : m = 0 ∨ m = 1) :
    let c := rmaCmd m 64
    let s := onRma (halfIs half) c
    MayAdmit s 5 7 c ∧ rmaMode c = m ∧ rmaClean c = true ∧ mayUseConn s c 3 = true ∧ (getConn s 3).state = .open_ ∧
      checkAddr s c (rmaLaddr c) (rmaLen c) = .ok ∧ rmaRoom s 3 (rmaKind m) (rmaLen c) = true ∧ recordedPsn s c 3 = none ∧
      isGfa (rmaLaddr c) = false := by
  rcases h with rfl | rfl <;>
    exact ⟨by constructor <;> decide, by decide, by decide, by decide, by decide, by decide, by decide, by decide, by decide⟩

theorem witness_RmaOperationsArePosted_add :
    let c := rmaCmd 2 8
    let s := onRma (halfIs half) c
    MayAdmit s 5 7 c ∧ rmaMode c = 2 ∧ rmaLen c = 8 ∧ rmaClean c = true ∧ mayUseConn s c 3 = true ∧ (getConn s 3).state = .open_ ∧
      rmaRoom s 3 (rmaKind 2) 8 = true ∧ recordedPsn s c 3 = none :=
  ⟨by constructor <;> decide, by decide, by decide, by decide, by decide, by decide, by decide, by decide⟩

theorem witness_RmaOperationsArePosted_waits :
    let c := rmaCmd 1 64
    let s := onRma (halfIs fullHalf) c
    MayAdmit s 5 7 c ∧ rmaClean c = true ∧ mayUseConn s c 3 = true ∧ (getConn s 3).state = .open_ ∧
      checkAddr s c (rmaLaddr c) (rmaLen c) = .ok ∧ rmaRoom s 3 (rmaKind 1) (rmaLen c) = false :=
  ⟨by constructor <;> decide, by decide, by decide, by decide, by decide, by decide⟩

/-! ## Connections and regions -/

theorem witness_ConnectionsAndRegionsOpenAndClose_blocks (m : Nat) (h : m = 3 ∨ m = 5) :
    (MayAdmit (onRma {} (rmaCmd m 8)) 5 7 (rmaCmd m 8) ∧ rmaMode (rmaCmd m 8) = m ∧ rmaLen (rmaCmd m 8) ≠ 64) ∧
      (MayAdmit (onRma {} (rmaCmd m 64)) 5 7 (rmaCmd m 64) ∧ rmaMode (rmaCmd m 64) = m ∧ rmaClean (rmaCmd m 64) = true ∧ rmaLen (rmaCmd m 64) = 64 ∧
        checkAddr (onRma {} (rmaCmd m 64)) (rmaCmd m 64) (rmaLaddr (rmaCmd m 64)) 64 = .ok ∧ isGfa (rmaLaddr (rmaCmd m 64)) = false) := by
  rcases h with rfl | rfl <;>
    exact ⟨⟨by constructor <;> decide, by decide, by decide⟩, by constructor <;> decide, by decide, by decide, by decide, by decide, by decide⟩

/-- CONN_OPEN or MR_REG, running. -/
def blockCmd (mode : Nat) : Cmd := run (rmaCmd mode 64) (.rma { conn := 3, mode := mode })

/-- A parameter block: 64 bytes. -/
def block (l : List (Nat × Nat × Nat)) : List Byte := (List.range 64).map fun i =>
  match l.find? fun e => decide (e.1 ≤ i) && decide (i < e.1 + e.2.1) with
  | some (o, _, v) => BitVec.ofNat 8 (v / 256 ^ (i - o))
  | none => 0

/-- The block of CONN_OPEN for half 3 toward half 9 of node 0. -/
def connBlock (id : Nat) : List Byte := block [(0, 4, id), (8, 4, 9)]

theorem witness_ConnectionsAndRegionsOpenAndClose_open :
    let c := blockCmd 3
    let s := onRma {} c
    Runs s 5 7 c ∧ c.op = 0x30 ∧ rmaMode c = 3 ∧ c.work = .rma { conn := rmaConnOf c, mode := 3 } ∧ isGfa (rmaLaddr c) = false ∧
      (connBlock 3).length = 64 ∧ windowsOf s c.part = [] ∧ c.metered = false ∧ connOpenStatus s c (connBlock 3) = .ok ∧
      connOpenStatus s c (connBlock 16) ≠ .ok ∧ s.rma.cache.length < 16384 :=
  ⟨by constructor <;> decide, by decide, by decide, by decide, by decide, by decide, by decide, by decide, by decide +kernel, by decide +kernel, by decide⟩

/-- MR_REG's block: region 1, paging off, PCIe space, at 0x10000 for 4096 bytes. -/
def regBlock : List Byte := block [(0, 2, 1), (2, 1, 3), (4, 1, 1), (8, 8, 0x10000), (16, 8, 4096)]

theorem witness_ConnectionsAndRegionsOpenAndClose_reg :
    let c := blockCmd 5
    let s := onRma {} c
    let s2 := onRma { regions := [(1, { used := true })] } c
    (Runs s 5 7 c ∧ rmaMode c = 5 ∧ c.work = .rma { conn := rmaConnOf c, mode := 5 } ∧ windowsOf s c.part = [] ∧ c.metered = false ∧ regBlock.length = 64 ∧
      fld regBlock 0 2 = 1 ∧ (getRegion s 1).used = false ∧ (getRegion s 1).gen ≠ 0xFFFFFFFF ∧ fld regBlock 2 1 < 8 ∧ fld regBlock 3 1 = 0 ∧
      fld regBlock 4 1 = 1 ∧ fld regBlock 6 2 = 0 ∧ fld regBlock 8 8 % 64 = 0 ∧ fld regBlock 8 8 + fld regBlock 16 8 ≤ 2 ^ 62 ∧ 64 ≤ fld regBlock 16 8 ∧
      fld regBlock 16 8 ≤ 2 ^ 40 ∧ isGfa (fld regBlock 8 8) = false ∧ allZero (slice regBlock 32 32) = true) ∧
    (Runs s2 5 7 c ∧ windowsOf s2 c.part = [] ∧ (getRegion s2 1).used = true) :=
  ⟨⟨by constructor <;> decide, by decide, by decide, by decide, by decide, by decide, by decide, by decide, by decide, by decide, by decide, by decide,
    by decide, by decide, by decide, by decide, by decide, by decide, by decide⟩, by constructor <;> decide, by decide, by decide⟩

/-- MR_DEREG or PAGE_RESUME of region 1 under its first generation. -/
def keyCmd (mode : Nat) : Cmd := cmd 0x30 [(8, 4, 2 ^ 20 * mode), (32, 8, 2 ^ 32 + 1)]

/-- Region 1 is registered for partition 0: 4096 bytes at 0x100000. -/
def regionOn : Rma := { regions := [(1, { used := true, access := 7, len := 4096, pieces := [(0, 4096, 0x100000)] })] }

theorem witness_ConnectionsAndRegionsOpenAndClose_close :
    let c := rmaCmd 4 0
    let s := onRma (halfIs half) c
    let d := run c (.rma { conn := 3, mode := 4 })
    let x : Conn := { half with state := .closing, closer := some (cmdKey 5 7) }
    let t := onRma (halfIs x) d
    (MayAdmit s 5 7 c ∧ c.op = 0x30 ∧ rmaMode c = 4 ∧ rmaClean c = true ∧ mayUseConn s c (rmaConnOf c) = true ∧ (getConn s (rmaConnOf c)).state = .open_) ∧
      (Runs t 5 7 d ∧ d.op = 0x30 ∧ (getConn t 3).state = .closing ∧ (getConn t 3).ops = [] ∧ (getConn t 3).closer = some (cmdKey 5 7)) :=
  ⟨⟨by constructor <;> decide, by decide, by decide, by decide, by decide, by decide⟩, by constructor <;> decide, by decide, by decide, by decide, by decide⟩

theorem witness_ConnectionsAndRegionsOpenAndClose_dereg :
    let c := keyCmd 6
    let d := run c (.rma { conn := 0, mode := 6 })
    (MayAdmit (onRma {} c) 5 7 c ∧ rmaMode c = 6 ∧ rmaClean c = true ∧ localKeyStatus (onRma {} c) c ≠ .ok) ∧
      (MayAdmit (onRma regionOn c) 5 7 c ∧ localKeyStatus (onRma regionOn c) c = .ok) ∧
      (Runs (onRma regionOn d) 5 7 d ∧ rmaMode d = 6 ∧ (rmaRkey d).toNat % 65536 = 1 ∧ regionBusy (onRma regionOn d) 1 = false ∧
        localKeyStatus (onRma regionOn d) d = .ok) ∧
      (MayAdmit (onRma regionOn (keyCmd 7)) 5 7 (keyCmd 7) ∧ rmaMode (keyCmd 7) = 7 ∧ rmaClean (keyCmd 7) = true ∧
        localKeyStatus (onRma regionOn (keyCmd 7)) (keyCmd 7) = .ok ∧ ∀ e ∈ (onRma regionOn (keyCmd 7)).rma.conns, e.2.held = none) :=
  ⟨⟨by constructor <;> decide, by decide, by decide, by decide⟩, ⟨by constructor <;> decide, by decide⟩,
    ⟨by constructor <;> decide, by decide, by decide, by decide, by decide⟩, by constructor <;> decide, by decide, by decide, by decide, by decide⟩

/-! ## Counters -/

/-- SIGNAL of counter 1 by an amount; remote ones go over half 3. -/
def signalCmd (w amount conn : Nat) : Cmd := cmd 0x31 [(8, 4, w), (12, 4, conn), (16, 8, amount)]

theorem witness_SignalsCountAndWaitsEnd_signal :
    (MayAdmit (onRma {} (signalCmd 1 0 0)) 5 7 (signalCmd 1 0 0) ∧ (signalCmd 1 0 0).op = 0x31 ∧ signalRemote (signalCmd 1 0 0) = false ∧
        signalClean (signalCmd 1 0 0) = false) ∧
      (∀ n ∈ [100, 101], MayAdmit (onRma {} (signalCmd 1 n 0)) 5 7 (signalCmd 1 n 0) ∧ signalRemote (signalCmd 1 n 0) = false ∧
        signalClean (signalCmd 1 n 0) = true ∧ bit (fld (signalCmd 1 n 0).desc 8 4) 17 = false ∧ cntOwned (onRma {} (signalCmd 1 n 0)) 0 1 = true ∧
        cntBound (onRma {} (signalCmd 1 n 0)) 1 = 100 ∧ fld (signalCmd 1 n 0).desc 16 8 = n ∧ (onRma {} (signalCmd 1 n 0)).rma.oot = [] ∧
        (onRma {} (signalCmd 1 n 0)).rma.waiters = []) ∧
      (MayAdmit (onRma {} (signalCmd 2 1 0)) 5 7 (signalCmd 2 1 0) ∧ signalClean (signalCmd 2 1 0) = true ∧ signalRemote (signalCmd 2 1 0) = false ∧
        bit (fld (signalCmd 2 1 0).desc 8 4) 17 = false ∧ cntOwned (onRma {} (signalCmd 2 1 0)) 0 2 = false) := by
  refine ⟨⟨by constructor <;> decide, by decide, by decide, by decide⟩, ?_, by constructor <;> decide, by decide, by decide, by decide, by decide⟩
  intro n h
  rcases List.mem_cons.mp h with rfl | h
  · exact ⟨by constructor <;> decide, by decide, by decide, by decide, by decide, by decide, by decide, by decide, by decide⟩
  · cases List.mem_singleton.mp h
    exact ⟨by constructor <;> decide, by decide, by decide, by decide, by decide, by decide, by decide, by decide, by decide⟩

theorem witness_SignalsCountAndWaitsEnd_remote :
    let c := signalCmd (1 + 2 ^ 16) 1 3
    let s := onRma (halfIs half) c
    MayAdmit s 5 7 c ∧ c.op = 0x31 ∧ signalRemote c = true ∧ signalClean c = true ∧ fld c.desc 12 4 % 2 ^ 20 = 3 ∧ mayUseConn s c 3 = true ∧
      (getConn s 3).state = .open_ ∧ rmaRoom s 3 .signal 0 = true ∧ recordedPsn s c 3 = none :=
  ⟨by constructor <;> decide, by decide, by decide, by decide, by decide, by decide, by decide, by decide, by decide⟩

/-- WAIT for counter `i` to reach a value, for 10 µs. -/
def waitCmd (i v : Nat) : Cmd := cmd 0x32 [(8, 4, i), (12, 4, 10), (16, 8, v)]

/-- Counter 1 stands at 5. -/
def cntFive : Rma := { counters := [(1, { value := 5 })] }

theorem witness_SignalsCountAndWaitsEnd_wait :
    (∀ v ∈ [5, 6], MayAdmit (onRma cntFive (waitCmd 1 v)) 5 7 (waitCmd 1 v) ∧ (waitCmd 1 v).op = 0x32 ∧ fld (waitCmd 1 v).desc 8 4 = 1 ∧
        fld (waitCmd 1 v).desc 12 4 = 10 ∧ allZero (slice (waitCmd 1 v).desc 24 40) = true ∧ cntOwned (onRma cntFive (waitCmd 1 v)) 0 1 = true ∧
        fld (waitCmd 1 v).desc 16 8 = v ∧ (getCnt (onRma cntFive (waitCmd 1 v)) 1).value = 5 ∧ (onRma cntFive (waitCmd 1 v)).rma.waiters.length < 4096) ∧
      (MayAdmit (onRma cntFive (waitCmd 2 0)) 5 7 (waitCmd 2 0) ∧ cntOwned (onRma cntFive (waitCmd 2 0)) 0 2 = false) := by
  refine ⟨?_, by constructor <;> decide, by decide⟩
  intro v h
  rcases List.mem_cons.mp h with rfl | h
  · exact ⟨by constructor <;> decide, by decide, by decide, by decide, by decide, by decide, by decide, by decide, by decide⟩
  · cases List.mem_singleton.mp h
    exact ⟨by constructor <;> decide, by decide, by decide, by decide, by decide, by decide, by decide, by decide, by decide⟩

/-- The listed WAIT. -/
def listed : Waiter := { key := some (cmdKey 5 7), counter := 1, onAcked := false, target := 6, due := 10000 }

theorem witness_SignalsCountAndWaitsEnd_timeout :
    let c := run (waitCmd 1 6) .none
    let s := onRma { cntFive with waiters := [listed] } c
    Runs s 5 7 c ∧ c.op = 0x32 ∧ (s.rma.waiters.find? fun w => w.key == some (cmdKey 5 7)) = some listed :=
  ⟨by constructor <;> decide, by decide, by decide⟩

/-! ## Packets -/

/-- A packet from node 2 to half 3 with the key of region 1. -/
def pkt (top psn total : Nat) (payload : List Byte) : Packet :=
  { fab := { cls := 0, vc := false, static := false, flits := 1, dst := 0, src := 2, route := 0, hops := 0, plen := payload.length }
    tr := { top := BitVec.ofNat 8 top, first := true, last := true, ackReq := false, enc := false, cl := false, try_ := 0, dconn := 3
            psn := BitVec.ofNat 24 psn, cpsn := 0, raddr := 0, rkey := 2 ^ 32 + 1, total := BitVec.ofNat 32 total }
    payload := payload, tag := [] }

theorem witness_WrongPacketsAreTurnedAway_stray (port : Nat) :
    (0x01, .rxWrite port (pkt 1 0 8 (zeros 8))) ∈ packetRows port (pkt 1 0 8 (zeros 8)) ∧ topIs (pkt 1 0 8 (zeros 8)) 0x01 = true ∧
      serving (rmaOn {}) = true ∧ (getConn (rmaOn {}) 3).state = .free ∧
      (getConn (rmaOn { halfIs half with cache := [] }) 3).state ≠ .free ∧
      (pkt 1 0 8 (zeros 8)).fab.src = (getConn (rmaOn { halfIs half with cache := [] }) 3).peerNode ∧
      cached (rmaOn { halfIs half with cache := [] }) 3 = false ∧ (getPort (rmaOn { halfIs half with cache := [] }) 0).missq.length < 64 :=
  ⟨by simp [packetRows], by decide, by decide, by decide, by decide, by decide, by decide, by decide⟩

/-- Half 3 and region 1. -/
def target (x : Conn) : Rma := { halfIs x with regions := regionOn.regions }

theorem witness_WrongPacketsAreTurnedAway_sequence (port : Nat) :
    (0x01, .rxWrite port (pkt 1 1 8 (zeros 8))) ∈ requestRx port (pkt 1 1 8 (zeros 8)) ∧ (pkt 1 1 8 (zeros 8)).tr.top.toNat = 0x01 ∧
      Hears (rmaOn (target half)) (pkt 1 1 8 (zeros 8)) 3 ∧ Hears (rmaOn (target { half with nakSeqSent := true })) (pkt 1 1 8 (zeros 8)) 3 ∧
      ((pkt 1 1 8 (zeros 8)).tr.psn - (getConn (rmaOn (target half)) 3).rxPsn).toNat = 1 ∧
      2 ^ 23 ≤ ((pkt 1 0 8 (zeros 8)).tr.psn - (getConn (rmaOn (target { half with rxPsn := 1 })) 3).rxPsn).toNat ∧
      Hears (rmaOn (target { half with rxPsn := 1 })) (pkt 1 0 8 (zeros 8)) 3 :=
  ⟨by simp [requestRx], by decide, by constructor <;> decide, by constructor <;> decide, by decide, by decide, by constructor <;> decide⟩

theorem witness_WrongPacketsAreTurnedAway_key :
    let s := rmaOn (target half)
    let h : State := { s with tap := { halted := true } }
    let p := pkt 1 0 8 (zeros 8)
    let q := { p with tr := { p.tr with rkey := 2 ^ 33 + 1 } }
    (Hears h p 3 ∧ p.tr.psn = (getConn h 3).rxPsn ∧ p.tr.first = true ∧ h.tap.halted = true) ∧
      (Hears s q 3 ∧ q.tr.psn = (getConn s 3).rxPsn ∧ s.tap.halted = false ∧ keyCheck s (getConn s 3) q ≠ 0 ∧
        (getConn (arrived 0 (.pkt q) 3 s) 3).errRecs.length < 8) :=
  ⟨⟨by constructor <;> decide, by decide, by decide, by decide⟩, by constructor <;> decide, by decide, by decide, by decide, by decide⟩

theorem witness_ExpectedRequestsAreApplied_write :
    let s := rmaOn (target half)
    let p := pkt 1 0 8 (zeros 8)
    Hears s p 3 ∧ p.tr.psn = (getConn s 3).rxPsn ∧ s.tap.halted = false ∧ p.tr.top = 0x01 ∧ p.tr.first = true ∧ memOk s ∧
      keyCheck s (getConn s 3) p = 0 ∧ (getRegion s 1).paging = 0 ∧ (getRegion s 1).space = 0 ∧
      regionSpans s (getRegion s 1) p.tr.raddr.toNat (min p.payload.length p.tr.total.toNat) = [(0x100000, 8)] ∧ 0x100000 + 8 ≤ memSize :=
  ⟨by constructor <;> decide, by decide, by decide, by decide, by decide, rfl, by decide, by decide, by decide, by decide, by decide⟩

theorem witness_ExpectedRequestsAreApplied_read :
    let s := rmaOn (target half)
    let p := pkt 2 0 8 []
    Hears s p 3 ∧ p.tr.psn = (getConn s 3).rxPsn ∧ p.tr.top = 0x02 ∧ keyCheck s (getConn s 3) p = 0 ∧
      readSpans (arrived 0 (.pkt p) 3 s) (regionSpans (arrived 0 (.pkt p) 3 s) (getRegion s 1) p.tr.raddr.toNat p.tr.total.toNat) = .data (zeros 8) :=
  ⟨by constructor <;> decide, by decide, by decide, by decide, by decide⟩

theorem witness_ExpectedRequestsAreApplied_add :
    let s := rmaOn (target half)
    let p := pkt 4 0 8 (zeros 8)
    Hears s p 3 ∧ p.tr.psn = (getConn s 3).rxPsn ∧ p.tr.top = 0x04 ∧ memOk s ∧ keyCheck s (getConn s 3) p = 0 ∧
      (getConn (arrived 0 (.pkt p) 3 s) 3).addRecs.length < 16 ∧
      readSpans (arrived 0 (.pkt p) 3 s) (regionSpans (arrived 0 (.pkt p) 3 s) (getRegion s 1) p.tr.raddr.toNat 8) = .data (zeros 8) ∧
      regionSpans s (getRegion s 1) p.tr.raddr.toNat 8 = [(0x100000, 8)] :=
  ⟨by constructor <;> decide, by decide, by decide, rfl, by decide, by decide, by decide, by decide⟩

theorem witness_ExpectedRequestsAreApplied_signal :
    let s := rmaOn (target half)
    let p := pkt 6 0 1 (leBytes 8 100)
    Hears s p 3 ∧ p.tr.psn = (getConn s 3).rxPsn ∧ p.tr.top = 0x06 ∧ p.tr.total.toNat % 65536 = 1 ∧ (getConn s 3).mgmt = false ∧ (getConn s 3).part = 0 ∧
      bit p.tr.total.toNat 16 = false ∧ addStatus s 0 1 (fld p.payload 0 8) false = .ok ∧ s.rma.waiters = [] :=
  ⟨by constructor <;> decide, by decide, by decide, by decide, by decide, by decide, by decide, by decide, by decide⟩

/-- An operation of half 3 in flight with PSN 0. -/
def flying (k : OpKind) (n : Nat) : Op := { kind := k, psn := 0, psns := n, total := 8, sentPkts := n }

/-- Half 3 with it. -/
def sender (k : OpKind) (n : Nat) : State := rmaOn (halfIs { half with txPsn := 2, ops := [flying k n] })

theorem witness_AnswersReachTheirOperation :
    (Hears (sender .write 1) (pkt 8 0 0 []) 3 ∧ (pkt 8 0 0 []).tr.top = 0x08) ∧
      (Hears (sender .write 1) { pkt 9 0 0 [] with tr := { (pkt 9 0 0 []).tr with raddr := 1 } } 3 ∧
        ({ pkt 9 0 0 [] with tr := { (pkt 9 0 0 []).tr with raddr := 1 } } : Packet).tr.raddr.toNat % 256 = nakSeq) ∧
      (Hears (sender .write 1) (pkt 9 0 0 []) 3 ∧ (pkt 9 0 0 []).tr.raddr.toNat % 256 ≠ nakSeq ∧
        ((getConn (ackUpTo 3 ((pkt 9 0 0 []).tr.psn - 1) (arrived 0 (.pkt (pkt 9 0 0 [])) 3 (sender .write 1))) 3).ops.find? fun o =>
          o.sentPkts != 0 && o.psn == (pkt 9 0 0 []).tr.psn) = some (flying .write 1) ∧ (flying .write 1).msg = none) ∧
      (Hears (sender .write 1) (pkt 10 0 0 []) 3 ∧ (pkt 10 0 0 []).tr.top = 0x0A) ∧
      (Hears (sender .write 1) (pkt 11 0 0 []) 3 ∧ (pkt 11 0 0 []).tr.top = 0x0B ∧ flying .write 1 ∈ (getConn (sender .write 1) 3).ops ∧
        (flying .write 1).sentPkts ≠ 0 ∧ ((pkt 11 0 0 []).tr.psn - (flying .write 1).psn).toNat < (flying .write 1).psns) :=
  ⟨⟨by constructor <;> decide, by decide⟩, ⟨by constructor <;> decide, by decide⟩, ⟨by constructor <;> decide, by decide, by decide, by decide⟩,
    ⟨by constructor <;> decide, by decide⟩, by constructor <;> decide, by decide, by decide, by decide, by decide⟩

theorem witness_AnswersReachTheirOperation_data :
    (Hears (sender .read 2) (pkt 3 0 8 (zeros 8)) 3 ∧ ((getConn (sender .read 2) 3).ops.find? fun o =>
        o.kind == .read && o.sentPkts != 0 && decide (((pkt 3 0 8 (zeros 8)).tr.psn - o.psn).toNat < o.psns)) = some (flying .read 2) ∧
        (tset (flying .read 2).got ((pkt 3 0 8 (zeros 8)).tr.psn - (flying .read 2).psn).toNat (zeros 8)).length ≠ (flying .read 2).psns) ∧
      (Hears (sender .add 1) (pkt 5 0 8 (zeros 8)) 3 ∧ ((getConn (sender .add 1) 3).ops.find? fun o =>
        o.kind == .add && o.sentPkts != 0 && o.psn == (pkt 5 0 8 (zeros 8)).tr.psn) = some (flying .add 1)) ∧
      (Hears (sender .call 1) (pkt 17 0 8 []) 3 ∧ ((getConn (sender .call 1) 3).ops.find? fun o =>
        o.kind == .call && o.sentPkts != 0 && o.psn == (pkt 17 0 8 []).tr.psn) = some (flying .call 1)) :=
  ⟨⟨by constructor <;> decide, by decide, by decide⟩, ⟨by constructor <;> decide, by decide⟩, by constructor <;> decide, by decide⟩

/-! ## Calls and timers -/

/-- An answer kept for node 2's step 4. -/
def keptAnswer : Retained := { home := 2, step := 4, sub := 0, part := 0, born := 0, answer := .absent 4 0 }

/-- A SEARCH with a sub-request that was answered busy. -/
def busyCmd : Cmd := { run (cmd 0x20 []) .none with
  subs := [{ node := 2, conn := 3, call := .releaseStep 4, busy := true, due := 100000 }] }

theorem witness_CallsAreServedOnce :
    let s : State := { rmaOn (halfIs half) with retained := [keptAnswer], rmx := { held := [(0, { port := 0, pkt := pkt 16 0 0 [], msg := .releaseStep 4, due := 1000000 })] } }
    serving s = true ∧ Hears s (pkt 16 0 0 []) 3 ∧ (pkt 16 0 0 []).tr.top = 0x10 ∧ (pkt 16 0 0 []).tr.psn = (getConn s 3).rxPsn ∧
      (getConn s 3).mgmt = false ∧ s.tap.halted = false ∧ tget s.rmx.held 0 ≠ none ∧ retainedOf s (getConn s 3).peerNode 4 0 = some keptAnswer ∧
      (Runs (onRma (halfIs half) busyCmd) 5 7 busyCmd ∧ ∃ u, busyCmd.subs[0]? = some u ∧ u.busy = true ∧ u.lost = false ∧ u.answer = none) :=
  ⟨by decide, by constructor <;> decide, by decide, by decide, by decide, by decide, by decide, by decide, by constructor <;> decide, _, rfl, by decide, by decide, by decide⟩

/-- Half 3 with what its timers watch. -/
def timed : Conn := { half with unacked := 1, fetching := true, ops := [flying .write 1] }

/-- A packet held for a page. -/
def heldPkt : Held := { port := 0, cargo := .pkt (pkt 1 0 8 (zeros 8)), since := 0, lastHold := 0, region := 1, page := 0 }

theorem witness_ConnectionTimersFire :
    (serving (rmaOn (halfIs timed)) = true ∧ (getConn (rmaOn (halfIs timed)) 3).unacked ≠ 0 ∧ (getConn (rmaOn (halfIs timed)) 3).state = .open_) ∧
      (∀ n ∈ [0, 7], serving (rmaOn (halfIs { timed with retryLimit := 7, retries := n })) = true ∧
        oldestUnacked { timed with retryLimit := 7, retries := n } = some 0 ∧ timed.resendAt = none ∧ timed.state = .open_) ∧
      ((getConn (rmaOn (halfIs { half with held := some heldPkt })) 3).held = some heldPkt ∧ half.errRecs.length < 8 ∧ half.rest = none) ∧
      (∀ n ∈ [0, 255], ([{ flying .write 1 with tries := n }].find? fun o => o.sentPkts != 0 && decide (((0 : BitVec 24) - o.psn).toNat < o.psns)) =
        some { flying .write 1 with tries := n }) ∧
      ((getConn (rmaOn (halfIs timed)) 3).fetching = true ∧ (∀ q, q < 6 → ∀ e ∈ (getPort (rmaOn (halfIs timed)) q).missq, e.1 ≠ 3) ∧
        (∀ q, q < 6 → (getPort (rmaOn (halfIs timed)) q).missFull = false) ∧ (rmaOn (halfIs timed)).fab.loop = [] ∧
        (∀ o ∈ timed.ops, o.sentPkts ≠ 0) ∧ (rmaOn (halfIs timed)).rma.cache.length < 16384) := by decide

end Sys2Proof.Tests
end

