-- ==== Sys2Proof/Tests/Slice0.lean ====
section
/-! SUPPORT. The own tests: an ill-formed command for each check of `Instr.wf`, the worked examples of the spec, and single steps whose
results follow from the spec's rules by hand. -/

namespace Sys2Proof.Tests

open Sys2Proof Sys2Proof.Machine

/-! ## Well-formedness -/

theorem test_wf_writer : Instr.wf (.nodeOwnHb .pf) = true ∧ Instr.wf (.nodeOwnHb (.mgmt 16)) = false ∧ Instr.wf (.nodeOwnHb (.vf 0)) = false := by decide

theorem test_wf_register : Instr.wf (.registerWrite .pf 2 false 0) = false ∧ Instr.wf (.registerWrite .pf 4 true 0) = false ∧
    Instr.wf (.registerWrite .pf 4 false 0) = true ∧ Instr.wf (.expertWindowAccess .pf 2 none) = false := by decide

theorem test_wf_functions : Instr.wf (.flrVf 0) = false ∧ Instr.wf (.flrVf 65) = false ∧ Instr.wf (.doorbellEventRing 65 0) = false ∧
    Instr.wf (.commitSafePointSwap .host 65) = false := by decide

theorem test_wf_rings : Instr.wf (.descriptorAccept 4098) = false ∧ Instr.wf (.doorbellSqTail (.pf 4096) 0) = false ∧
    Instr.wf (.doorbellSqTail (.vf 1 64) 0) = false ∧ Instr.wf (.dmaReadCompletion (.desc 4096) (.data [])) = false ∧
    Instr.wf (.dmaWriteFailure (.ringWrite 4096)) = false ∧ Instr.wf (.dmaReadTimeout (.target 1048576)) = false := by decide

theorem test_wf_images : Instr.wf (.hostCommit .pf 1 [{ ring := 4096, accepted := 0, completed := 0, resets := 0, present := 0, descs := [] }]) = false ∧
    Instr.wf (.vfCommit 1 1 [{ ring := 0, accepted := 0, completed := 0, resets := 0, present := 0, descs := [[]] }]) = false := by decide

theorem test_wf_units : Instr.wf (.cruStop 1152) = false ∧ Instr.wf (.opw 0 2 0 (zeros 32) 0) = false ∧ Instr.wf (.refreshDue 0 4) = false ∧
    Instr.wf (.imw 0 0 (zeros 31) 0) = false ∧ Instr.wf (.crucibleImageLoad 16 0) = false ∧ Instr.wf (.crucibleImageLoad 0 72) = false := by decide

theorem test_wf_memory : Instr.wf (.scrubLaunch 0 6291456) = false ∧ Instr.wf (.rowRetireCopy 0 393216 0) = false ∧
    Instr.wf (.ueBurst 1649267441664 .other) = false ∧ Instr.wf (.retrainingPiece 64 false) = false ∧ Instr.wf (.packageFault 16) = false := by decide

theorem test_wf_objects : Instr.wf (.oldCopyFree 1048576) = false ∧ Instr.wf (.autoSelection 0 4096) = false ∧ Instr.wf (.slagSweep 64) = false ∧
    Instr.wf (.getStatement 64) = false ∧ Instr.wf (.connCloseDone 1048576) = false ∧ Instr.wf (.cardExec 131072) = false := by decide

theorem test_wf_links : Instr.wf (.rxRetrain 6) = false ∧ Instr.wf (.laneFailure 0 8) = false ∧ Instr.wf (.creditExchangeDone 0 []) = false ∧
    Instr.wf (.rxLctl 0 { ackValid := true, nak := false, ack := 0, climit := [] }) = false ∧
    Instr.wf (.rxTsync 0 { locked := true, source := false, tseq := 0, depth := 0, tTx := 0, tRxLast := 0, tseqEcho := 0 } false 65536) = false ∧
    Instr.wf (.blockReceive 0 { bsn := 0, replay := false, dataFlits := 32, ctlSlot := 0, fec := .ok 0, bcrc := 0, bcrcCalc := 0, cargo := [] }) = false := by decide

theorem test_wf_packets : Instr.wf (.rxWrite 0 { pkt 1 0 8 [] with tag := [0] }) = false ∧
    Instr.wf (.rxWrite 0 { pkt 1 0 8 [] with tr := { (pkt 1 0 8 []).tr with dconn := 1048576 } }) = false ∧
    Instr.wf (.rxWrite 0 (pkt 1 0 8 [])) = true := by decide

theorem test_wf_parts : Instr.wf (.sharedBufferEccError 64 .corrected) = false ∧ Instr.wf (.mccFault 4) = false ∧ Instr.wf (.thermalTrip 30 0) = false ∧
    Instr.wf (.telemetrySample [{ idx := 30, val := 0 }]) = false := by decide

theorem test_wf_management : Instr.wf (.mgmtClose { master := 0, mseq := 0, tag := 0 }) = false ∧ Instr.wf (.mgmtSessionTimeout 16) = false ∧
    Instr.wf (.mgmtOpen { master := 1, mseq := 0, tag := 0 } (some { conn := 1048576, rkey := 0, off := 0 })) = false := by decide

theorem test_wf_vector : Instr.wf (.msixVectorUnmask 1 31) = false ∧ Instr.wf (.msixVectorUnmask 0 63) = true := by decide

/-! ## Worked examples -/

/-- Symbol weights of the worked example of 04. -/
def weights : List Nat :=
  [5, 0, 0, 0, 0, 0, 0, 0, 0, 0, 0, 0, 50, 240, 1000, 2900, 8000, 2900, 1000, 240, 50, 4, 0, 0, 0, 0, 0, 0, 0, 0, 0, 0]

/-- 04, Building the table: the code lengths, VMAX and the VLEN bytes. -/
theorem test_cast_table : (codeLens weights).2 = 11 ∧
    lenBytes 16 (codeLens weights).1 = [0x0A, 0, 0, 0, 0, 0, 0x79, 0x35, 0x21, 0x64, 0xB8, 0, 0, 0, 0, 0] := by decide +kernel

/-- The bits of the eight symbols. -/
def exampleBits : List Bool := [16, 17, 14, 16, 21, 11, 16, 15].flatMap (symBits true (codewords (codeLens weights).1))

/-- 04, Encoding: 39 bits, 0x5E, 0x7F, 0xEF, 0xF9 and 0110110. -/
theorem test_cast_encode : exampleBits.length = 39 ∧ packBits exampleBits = [0x5E, 0x7F, 0xEF, 0xF9, 0x6C] := by decide +kernel

/-- 04, Decoding: the symbols come back, the escaped one among them. -/
theorem test_cast_decode : (match decodeSeg true (codeLens weights).1 (codewords (codeLens weights).1) 11 20 8 exampleBits with
    | .ok l => l
    | .error _ => []) = [16, 17, 14, 16, 21, 11, 16, 15] := by decide +kernel

/-- 03: the weights of the window leaf are 127, 64, 22 and 1. -/
theorem test_exp2_weights : [0x40400000#32, 0x40000000#32, 0x3F000000#32, 0xC0800000#32].map (exp2Weight 0x40400000#32) = [127, 64, 22, 1] := by
  decide +kernel

/-- The leaves of 03's example: sink, retrieved, window. -/
def sinkL : Partial := { m := 0x40800000, l := 0x3F800000, o := [0] }
def retrL : Partial := { m := 0x40A00000, l := 0x3FA00000, o := [0x40200000] }
def windL : Partial := { m := 0x40400000, l := 0x3FD7AF5F, o := [0x3FBBF7F0] }

/-- 03: the merges give m = 5.0, l = 2.1712598 and o = 2.8671260. -/
theorem test_merge_tree : rootOf 1 [sinkL, retrL, windL] = { m := 0x40A00000, l := 0x400AF5EC, o := [0x40377EFE] } := by decide +kernel

/-- 03: with the retrieved leaf skipped, m = 4.0, l = 1.8425197 and o = 0.7342520. -/
theorem test_merge_skipped : rootOf 1 [sinkL, emptyPartial 1, windL] = { m := 0x40800000, l := 0x3FEBD7B0, o := [0x3F3BF7F0] } := by decide +kernel

/-- 05: the words of the window-leaf program that the example spells. -/
theorem test_crucible_words : word 0x0A 2 3 0 (64 + 128) = 0x288C00C0 ∧ word 0x13 0 0 0 1 = 0x4C000001 ∧ wordOk 0x288C00C0 = true ∧ wOp 0x288C00C0 = 0x0A ∧
    wX 0x288C00C0 = 2 ∧ wY 0x288C00C0 = 3 ∧ wordOk 0 = true := by decide

/-- 06's index: keys are the items' first byte against the query byte −1. -/
def traceCfg : IdxCfg :=
  { valid := true, ordered := false, part := 0, vfmt := 0, metric := 1, dim := 64, degree := 16, width := 1, beam := 4, buildBeam := 16, alpha := 0
    maxHops := 16, shardNo := 0, shards := [], shardCnt := 0, base := 0, capacity := 64 }

/-- An item of it. -/
def traceItem (key : Nat) (edges : List (Nat × Nat)) (st : ItemState) : Item :=
  { vec := [BitVec.ofNat 8 key], edges := edges.map fun e => { item := e.1, tag := e.2 }, st := { st with live := true } }

/-- The eight items and a filter that passes label 1. -/
def traceIndex : Index :=
  { items := [(0, traceItem 9 [(1, 0), (2, 0)] { label := 1 }), (1, traceItem 7 [(0, 0), (3, 0), (6, 0)] { label := 1 }),
      (2, traceItem 6 [(4, 0), (5, 0), (7, 2)] { label := 1, delSet := true, del := 6 }), (3, traceItem 3 [(5, 0)] { label := 2 }),
      (4, traceItem 2 [(3, 0)] { label := 1, insSet := true, ins := 8 }), (5, traceItem 4 [(6, 0), (3, 0)] { label := 1 }),
      (6, traceItem 5 [(5, 0)] { label := 1 }), (7, traceItem 1 [] { label := 1, gen := 3 })]
    filters := [(0, [2])] }

/-- BEAM 4, WIDTH 1. -/
def traceLimits : Limits := { beam := 4, width := 1, maxHops := 16, metric := 1, skip := false, thru := false }

/-- The search from item 0. -/
def trace : Hand × HopCounts := searchAll traceCfg traceLimits traceIndex 20 (startHand traceCfg traceLimits traceIndex (some { item := 0, tag := 0 }) [0xFF]) {}

/-- 06: 7 hops, one tag miss, and the hand holds 4, 3, 5 and 6. -/
theorem test_search_trace : trace.2.hops = 7 ∧ trace.2.tagMiss = 1 ∧ trace.1.hand.map (·.item) = [4, 3, 5, 6] := by decide +kernel

/-- 06: at e = 7 and 5 the query returns items 5 and 6, at e = 8 items 4 and 5. -/
theorem test_search_epochs : [7, 5, 8].map (fun e : Nat => (handHits 0 traceCfg traceIndex (BitVec.ofNat 16 e) 0 (some 0) false 2 trace.1).map (·.item)) =
    [[5, 6], [5, 6], [4, 5]] := by decide +kernel

/-- 07: t2 is 118 ns after t1, t4 82 ns after t3, ASYM is 4 ns: the offset is 16 ns, shown in 1/16 ns. -/
def offsetOn : State :=
  { withAct [(0x300010, 2 + 2 ^ 8 * 10), (0x301004, 64)] on with
    clk := { node := 5000118 }
    fab := { ports := [(0, { link := .up, txTimes := [(3, BitVec.ofNat 80 (5000400 * 65536))] })] } }

/-- The parent's flit of the example; the times are those of the example in µs. -/
def offsetFlit : Tsync :=
  { locked := true, source := true, tseq := 9, depth := 0, tTx := BitVec.ofNat 80 (5000000 * 65536), tRxLast := BitVec.ofNat 80 (5000482 * 65536)
    tseqEcho := 3 }

theorem test_offset : (match exec (.rxTsync 0 offsetFlit false 0) offsetOn with
    | .next t => valBits t 0x300014 8 24
    | _ => 0) = 16 * 16 := by decide +kernel

/-- 11: a ring with QUNITS 64 and SVC_US 40 in a partition whose largest SVC_US is 40 has a bound of 2,600 µs. -/
theorem test_bound_us : boundUs (withAct [(0x11001C, 64), (0x110020, 40), (0x110018, 128 * 256)] on) 0 = 2600 := by decide +kernel

/-- 10: g matches the third prefix, at local address 0x0000_0100_0000_1000. -/
def prefix3 : RmxEnt := { key := 0x0000010000000000, mask := 0xFFFFFF8000000000, lbase := 0x000000B000000000, node := 1, part := 3, attr := 3 }

theorem test_range_match : entMatches 0x0000015000001000 prefix3 = true ∧ entAddr prefix3 0x0000015000001000 = 0x0000010000001000 := by decide

/-! ## Single steps -/

/-- The state after a command. -/
def after (c : Instr) (s : State) : State := match exec c s with
  | .next t => t
  | _ => s

/-- Register 2 is 32; SETI sign-extends its 14 bits, ADDI and ADD wrap (R139). -/
theorem test_cru_scalars :
    (getUnit (after (.cruSeti 4) (cruOn (cruAt (word 0x02 3 0 0 0x3FFF)))) 4).reg 3 = 0xFFFFFFFF ∧
      (getUnit (after (.cruAddi 4) (cruOn (cruAt (word 0x03 1 1 0 0x3FFF)))) 4).reg 1 = 0 ∧
      (getUnit (after (.cruAdd 4) (cruOn (cruAt (word 0x04 3 2 2 0)))) 4).reg 3 = 64 := by decide

/-- A SIGNAL of 5 on a counter at 5 makes it 10, and its WAITers are woken with that value (R285, R286). -/
theorem test_signal_adds :
    (getCnt (after (.signalLocal 5 7) (onRma cntFive (signalCmd 1 5 0))) 1).value = 10 ∧
      ((getCmd (after (.wait 5 7) (onRma cntFive (waitCmd 1 5))) 5 7).map (·.result)) = some 5 := by decide

/-- A counter in memory at 2^64 − 1: ADD of 1 wraps, and answers the old value (R277). -/
theorem test_add_wraps :
    let s := writeMem 0x100000 (List.replicate 8 0xFF) (rmaOn (target half))
    let t := after (.rxAddReq 0 (pkt 4 0 8 (leBytes 8 1))) s
    readByte t 0x100000 = 0 ∧ readByte t 0x100007 = 0 ∧ (getConn t 3).addRecs = [(0, 0xFFFFFFFFFFFFFFFF)] ∧ (getConn t 3).rxPsn = 1 := by decide +kernel

/-- A WRITE puts its bytes at the region's base, and nothing past them. -/
theorem test_write_stores :
    let t := after (.rxWrite 0 (pkt 1 0 8 [1, 2, 3, 4, 5, 6, 7, 8])) (rmaOn (target half))
    readByte t 0x100000 = 1 ∧ readByte t 0x100007 = 8 ∧ readByte t 0x100008 = 0 := by decide +kernel

/-- A doorbell that moves backwards is counted and dropped (R319). -/
theorem test_doorbell_backwards :
    let s : State := { withAct [(0x110010, 4)] on with host := { rings := [(0, { sqTail := 8, completed := 8 })] } }
    (getRing (after (.doorbellSqTail (.pf 0) 7) s) 0).sqTail = 8 := by decide

/-- An empty queue: a step lets one nanosecond pass (log entry 5). -/
theorem test_idle_step : (match step on with
    | .next t => (t.clk.mss, t.clk.node)
    | _ => (0, 0)) = (1, 1) := by decide

/-- A COUNT of 5 on a counter at 2^64 − 1 wraps to 4 (R410). -/
theorem test_count_wraps :
    let s : State := { on with tap := { queue := [{ typ := 1, part := 3, res := 2, seq := 7, value := 5 }] }, assay := { lastSeq := some 6, cnt := [(38, 2 ^ 64 - 1)] } }
    tgetD (after .assayRxCount s).assay.cnt 38 0 = 4 := by decide

/-- No word spells a command. -/
theorem test_decode_none : decodeTableWord 32 0 = none := rfl

end Sys2Proof.Tests
end

