-- ==== Sys2Proof/Tests/WitnessNode.lean ====
section
/-! SUPPORT. Witnesses: ownership, the debug path, the owner's requests, resets, updates and management messages. A verdict of the
cryptography is a premise here: Lean cannot evaluate it (log entry 17). -/

namespace Sys2Proof.Tests

open Sys2Proof Sys2Proof.Machine

theorem slice_left (h t : List Byte) (off n : Nat) (hl : off + n ≤ h.length) : slice (h ++ t) off n = slice h off n := by
  have e : (List.drop off (h ++ t)).take n = (List.drop off h).take n := by
    rw [List.drop_append_of_le_length (by omega), List.take_append_of_le_length (by simp; omega)]
  simp only [slice, e]

theorem slice_right (h t : List Byte) : slice (h ++ t) h.length t.length = t := by
  simp [slice]

theorem leVal_leBytes8 (n : Nat) (h : n < 2 ^ 64) : leVal (leBytes 8 n) = n := by
  simp [leBytes, leVal]
  omega

/-! ## Ownership -/

/-- Operator key 0 is 01 00 … -/
def keyed : State := withAct [(0xA00400, 1)] { mgmt := { st := .ready } }

/-- The header of a credential of master `m` under that key. -/
def credHead (m : Nat) : List Byte :=
  [2, BitVec.ofNat 8 m, 0, 0, 0, 0, 0, 0] ++ leBytes 8 Config.serial.toNat ++ zeros 16 ++ (1 :: zeros 31)

/-- The credential. -/
def cred (m : Nat) : List Byte := credHead m ++ zeros 17088

theorem cred_ok (m : Nat) (hm : m < 16) (s : State) (hc : challenge s = zeros 16) (hk : opKey s 0 = 1 :: zeros 31)
    (h : Config.slhVerify (1 :: zeros 31) (credHead m) (zeros 17088) = true) : credentialOk s m (cred m) = true := by
  have l : (credHead m).length = 64 := rfl
  have e0 : slice (cred m) 0 64 = credHead m := by rw [cred, slice_left _ _ _ _ (by omega)]; rfl
  have e1 : slice (cred m) 64 17088 = zeros 17088 := by
    have := slice_right (credHead m) (zeros 17088)
    rwa [l, show (zeros 17088).length = 17088 from List.length_replicate ..] at this
  have e2 : slice (cred m) 16 16 = zeros 16 := by rw [cred, slice_left _ _ _ _ (by omega)]; rfl
  have e3 : slice (cred m) 32 32 = 1 :: zeros 31 := by rw [cred, slice_left _ _ _ _ (by omega)]; rfl
  have e4 : slice (cred m) 8 8 = leBytes 8 Config.serial.toNat := by rw [cred, slice_left _ _ _ _ (by omega)]; rfl
  have e5 : slice (cred m) 0 1 = [2] := by rw [cred, slice_left _ _ _ _ (by omega)]; rfl
  have e6 : slice (cred m) 1 1 = [BitVec.ofNat 8 m] := by rw [cred, slice_left _ _ _ _ (by omega)]; rfl
  have len : (cred m).length = 17152 := by
    rw [cred, List.length_append, l, show (zeros 17088).length = 17088 from List.length_replicate ..]
  have any : (List.range 8).any (fun k => opKey s k == (1 :: zeros 31 : List Byte)) = true := by
    rw [List.any_eq_true]; exact ⟨0, by decide, by rw [hk]; decide⟩
  simp only [credentialOk, fld, e0, e1, e2, e3, e4, e5, e6, len, h, hc, any, leVal_leBytes8 _ Config.serial.isLt]
  simp [leVal]
  exact ⟨by omega, by decide⟩

theorem witness_OwnershipIsClaimedAndRenewed_heartbeat :
    masterOf .pf = some 0 ∧ servedWrite on 0x44 = true ∧ mainOn on = true ∧ ownerIs on 0 = true ∧
      masterOf (.mgmt 15) = some 15 ∧ ownerIs on 15 = false := by decide

theorem witness_OwnershipIsClaimedAndRenewed_claim (h : Config.slhVerify (1 :: zeros 31) (credHead 0) (zeros 17088) = true) :
    serving keyed = true ∧ credentialOk keyed 0 (cred 0) = true ∧ keyed.own.state = .none ∧ credentialOk keyed 0 [] = false :=
  ⟨by decide, cred_ok 0 (by decide) _ (by decide) (by decide) h, by decide, by decide⟩

/-- The node owned by master 3. -/
def keyedOwned (m : Nat) : State := { keyed with own := { state := .owned, owner := m } }

theorem witness_OwnershipIsClaimedAndRenewed_owned (h : Config.slhVerify (1 :: zeros 31) (credHead 0) (zeros 17088) = true) :
    serving (keyedOwned 0) = true ∧ credentialOk (keyedOwned 0) 0 (cred 0) = true ∧ (keyedOwned 0).own.state = .owned ∧ (keyedOwned 0).own.owner = 0 ∧
      serving (keyedOwned 3) = true ∧ credentialOk (keyedOwned 3) 0 (cred 0) = true ∧ (keyedOwned 3).own.state = .owned ∧ (keyedOwned 3).own.owner ≠ 0 :=
  ⟨by decide, cred_ok 0 (by decide) _ (by decide) (by decide) h, by decide, by decide, by decide,
    cred_ok 0 (by decide) _ (by decide) (by decide) h, by decide, by decide⟩

theorem witness_OwnershipIsClaimedAndRenewed_close :
    ({ on with own := { window := some 100000, claims := [(0, 0), (9, 5)] } } : State).own.window = some 100000 ∧
      ({ on with own := { window := some 100000, claims := [(0, 0), (9, 5)] } } : State).own.claims ≠ [] := by decide

/-- The PF passes the node to master 2. -/
def passing : State := { on with own := { state := .passing, passTo := 2, passDue := 2000000000, lease := 2000000000 } }

theorem witness_OwnershipIsPassedAndLapses :
    masterOf .pf = some 0 ∧ servedWrite passing 0x48 = true ∧ mainOn passing = true ∧ ownerIs passing 0 = true ∧ passing.own.state = .passing ∧
      masterOf (.mgmt 2) = some 2 ∧ ownerIs passing 2 = false ∧ hasOwner passing = true ∧ passing.mgmt.mssRunning = true ∧
      State.reset.mgmt.st ≠ .off := by decide

/-! ## The debug path -/

/-- Partition 1 is RELEASING and holds granule 16,384; partition 2 is ACTIVE and holds granule 16,385. -/
def dbgParted : State :=
  withVal [(0xA01000 + 0x80, 2), (0xA01000 + 0x100, 1)]
    (withAct [(0xA01000 + 0x80 + 48, 16384 + 2 ^ 23), (0xA01000 + 0x100 + 48, 16385 + 2 ^ 23)] on)

/-- The same with SEC_DBG_ADDR at a byte address of local memory. -/
def dbgAt (a : Nat) : State := withVal [(0xA00200, a % 2 ^ 32), (0xA00204, a / 2 ^ 32)] dbgParted

theorem witness_DebugPathLeavesItsMarks_read :
    masterOf .pf = some 0 ∧ mainOn (dbgAt 0) = true ∧ ownerIs (dbgAt 0) 0 = true ∧
      (dbgAddrOk (bits (val64 (dbgAt 1) 0xA00200) 48 4) (val64 (dbgAt 1) 0xA00200 % 2 ^ 48) = false) ∧
      (dbgAddrOk (bits (val64 (dbgAt 0x100000000) 0xA00200) 48 4) (val64 (dbgAt 0x100000000) 0xA00200 % 2 ^ 48) = true ∧
        ∃ p ∈ dbgParts (dbgAt 0x100000000) (bits (val64 (dbgAt 0x100000000) 0xA00200) 48 4) (val64 (dbgAt 0x100000000) 0xA00200 % 2 ^ 48), pstate (dbgAt 0x100000000) p = 2) ∧
      (dbgAddrOk (bits (val64 (dbgAt 0x100040000) 0xA00200) 48 4) (val64 (dbgAt 0x100040000) 0xA00200 % 2 ^ 48) = true ∧
        ∀ p ∈ dbgParts (dbgAt 0x100040000) (bits (val64 (dbgAt 0x100040000) 0xA00200) 48 4) (val64 (dbgAt 0x100040000) 0xA00200 % 2 ^ 48), pstate (dbgAt 0x100040000) p ≠ 2) := by
  decide +kernel

theorem witness_DebugPathLeavesItsMarks_write :
    memOk (dbgAt (memSize - 64)) ∧ val64 (dbgAt (memSize - 64)) 0xA00200 = memSize - 64 ∧ (memSize - 64) % 64 = 0 ∧ memSize - 64 < memSize ∧
      (∀ p ∈ dbgParts (dbgAt (memSize - 64)) 0 (memSize - 64), pstate (dbgAt (memSize - 64)) p ≠ 2) := by
  refine ⟨rfl, by decide +kernel, by decide, by decide, by decide +kernel⟩

theorem witness_DebugPathLeavesItsMarks_trace : (0x3FFFFFF#32).toNat < 2 ^ 26 ∧ masterOf .pf = some 0 ∧
    ({ on with mgmt := { st := .test } } : State).mgmt.st = .test ∧ mainOn { on with mgmt := { st := .test } } = true ∧
    ownerIs { on with mgmt := { st := .test } } 0 = true := by decide

/-! ## Requests, resets, power -/

/-- The node in a state, owned by master `m`. -/
def inState (st : NodeState) (m : Nat) : State := { mgmt := { st := st }, own := { state := .owned, owner := m } }

theorem witness_OwnerRequestsMoveTheState :
    masterOf .pf = some 0 ∧ servedWrite on 0xB00004 = true ∧ mainOn on = true ∧ ownerIs on 0 = true ∧ ownerIs (inState .ready 4) 0 = false ∧
      (∀ e ∈ requestRows .pf, ∃ st : NodeState, (st = .ready ∨ st = .standby ∨ st = .bringup ∨ st = .recovery) ∧ e.2 st = false) ∧
      (inState .ready 0).mgmt.st = .ready ∧ ownerIs (inState .ready 0) 0 = true ∧ (inState .test 0).mgmt.st = .test ∧
      (inState .test 0).mgmt.jtagDriven = false ∧ (inState .standby 9).mgmt.st = .standby ∧ (inState .standby 9).mgmt.stepNo = 0 ∧
      (.mgmt 9 : Writer) ≠ .pf ∧ ownerIs (inState .standby 9) 9 = true ∧ (inState .standby 9).pins.vin48 = true ∧
      (inState .standby 9).pins.thermTrip = false ∧ ({ inState .standby 9 with pins := { vin48 := false } } : State).pins.vin48 = false := by
  refine ⟨by decide, by decide, by decide, by decide, by decide, ?_, by decide, by decide, by decide, by decide, by decide, by decide,
    by decide, by decide, by decide, by decide, by decide⟩
  intro e he
  simp only [requestRows, List.mem_cons, List.not_mem_nil, or_false] at he
  rcases he with rfl | rfl | rfl | rfl | rfl | rfl | rfl | rfl
  · exact ⟨.ready, by decide, rfl⟩
  · exact ⟨.standby, by decide, rfl⟩
  · exact ⟨.standby, by decide, rfl⟩
  · exact ⟨.standby, by decide, rfl⟩
  · exact ⟨.standby, by decide, rfl⟩
  · exact ⟨.ready, by decide, rfl⟩
  · exact ⟨.ready, by decide, rfl⟩
  · exact ⟨.ready, by decide, rfl⟩

theorem witness_OwnerRequestsMoveTheState_continue :
    masterOf .pf = some 0 ∧ ownerIs { on with mgmt := { st := .bringup, held := true } } 0 = true ∧
      ({ on with mgmt := { st := .bringup, held := true } } : State).mgmt.st = .bringup ∧
      ({ on with mgmt := { st := .bringup, held := true } } : State).mgmt.held = true := by decide

theorem witness_ResetsClearOrKeep :
    masterOf .pf = some 0 ∧ mainOn on = true ∧ ownerIs on 0 = true ∧ serving on = true ∧ on.rmx.retiring = none ∧ on.rmx.writing = none := by
  decide

theorem witness_ShortDipIsRiddenThrough : 100 ≤ 100 ∧ 30000 < 30001 ∧ 100 < 101 ∧ 30000 ≤ 30000 ∧ mainOn on = true := by decide

/-! ## Updates -/

/-- The header of an image of class 1 with a body of 64 bytes and the given digest. -/
def imgHead (dg : List Byte) : List Byte :=
  [2, 1, 0, 0, 7, 0, 0, 0, 0, 0, 0, 0, 64, 0, 0, 0] ++ dg ++ [0xA1, 2, 0, 0] ++ zeros 76

/-- The image. -/
def img (dg : List Byte) : List Byte := imgHead dg ++ (zeros 64 ++ zeros fwSigLen)

/-- The node with the image in the management buffer, for a request of its length. -/
def imgIn (dg : List Byte) : State :=
  withVal [(0xB00018, 8048)] { on with mgmt := { st := .ready, updBuf := img dg } }

theorem witness_UpdatesGoToTheInactiveSlot (dg : List Byte) (hl : dg.length = 32) (hd : Config.sha256 (zeros 64) = dg)
    (hv : Config.slhVerify (Config.blob 5 0) (imgHead dg) (zeros fwSigLen) = true) :
    masterOf .pf = some 0 ∧ serving (imgIn dg) = true ∧ ownerIs (imgIn dg) 0 = true ∧ (imgIn dg).mgmt.upd = none ∧
      img dg = slice (if val64 (imgIn dg) 0xB00010 = 0 then (imgIn dg).mgmt.updBuf else []) 0 (valBits (imgIn dg) 0xB00018 0 24) ∧
      imageStatus (imgIn dg) 1 (img dg) = .ok ∧ storeFull (imgIn dg) 1 (1 - actSlot (imgIn dg) 1) (fld (img dg) 4 2) = false ∧
      imageStatus (imgIn dg) 1 [] ≠ .ok := by
  have l : (imgHead dg).length = 128 := by simp [imgHead, hl, zeros]
  have len : (img dg).length = 8048 := by
    rw [img, List.length_append, List.length_append, l, show (zeros fwSigLen).length = 7856 from List.length_replicate ..]; rfl
  have s (off n : Nat) (h : off + n ≤ 16) : slice (img dg) off n = slice [2, 1, 0, 0, 7, 0, 0, 0, 0, 0, 0, 0, 64, 0, 0, 0] off n := by
    rw [img, slice_left _ _ _ _ (by omega), imgHead, List.append_assoc, List.append_assoc, slice_left _ _ _ _ (by simpa using h)]
  have mid : slice (img dg) 16 32 = dg := by
    rw [img, slice_left _ _ _ _ (by omega), imgHead, List.append_assoc, slice_left _ _ _ _ (by simp [hl])]
    have := slice_right ([2, 1, 0, 0, 7, 0, 0, 0, 0, 0, 0, 0, 64, 0, 0, 0] : List Byte) dg
    rwa [hl] at this
  have back (off n : Nat) (h : off + n ≤ 80) : slice (img dg) (48 + off) n = slice ([0xA1, 2, 0, 0] ++ zeros 76) off n := by
    rw [img, slice_left _ _ _ _ (by omega), imgHead, List.append_assoc]
    simp only [slice, ← List.drop_drop]
    rw [List.drop_left' (by simp [hl])]
  have body : slice (img dg) 128 64 = zeros 64 := by
    simp only [img, slice]
    rw [List.drop_left' l, List.take_left' (show (zeros 64).length = 64 from rfl)]
    rfl
  have sig : (img dg).drop 192 = zeros fwSigLen := by
    rw [img, ← List.append_assoc]
    exact List.drop_left' (by rw [List.length_append, l]; rfl)
  have head : slice (img dg) 0 128 = imgHead dg := by
    simp only [img, slice, List.drop_zero]
    rw [List.take_left' l, l]
    simp
  have f (off n : Nat) (h : off + n ≤ 16) : fld (img dg) off n = fld [2, 1, 0, 0, 7, 0, 0, 0, 0, 0, 0, 0, 64, 0, 0, 0] off n := by
    simp only [fld, s off n h]
  have b0 : fld (img dg) 48 4 = fld ([0xA1, 2, 0, 0] ++ zeros 76) 0 4 := by simp only [fld, back 0 4 (by decide)]
  have ok : imageStatus (imgIn dg) 1 (img dg) = .ok := by
    have h1 : fwHeaderOk 1 64 (img dg) = true := by
      simp only [fwHeaderOk, f 0 1 (by decide), f 1 1 (by decide), f 2 2 (by decide), f 6 2 (by decide), f 8 1 (by decide), f 9 1 (by decide),
        f 10 2 (by decide), f 12 4 (by decide), len, back 4 76 (by decide), b0]
      decide
    have h2 : fwSigned (Config.blob 5 0) (img dg) = true := by
      have e12 : fld (img dg) 12 4 = 64 := (f 12 4 (by decide)).trans (by decide)
      simp only [fwSigned, e12, body, mid, head, hd, sig, hv]
      simp
    have e9 : fld (img dg) 9 1 = 0 := (f 9 1 (by decide)).trans (by decide)
    have e8 : fld (img dg) 8 1 = 0 := (f 8 1 (by decide)).trans (by decide)
    simp only [imageStatus, h1, e9, h2, e8]
    have v : valBits (imgIn dg) (0xA00600 + 4 * 1) 0 7 = valBits (imgIn []) (0xA00600 + 4 * 1) 0 7 := rfl
    have a : actW (imgIn dg) 0xA00640 = actW (imgIn []) 0xA00640 := rfl
    rw [v, a]
    decide
  refine ⟨by decide, rfl, rfl, rfl, ?_, ok, ?_, ?_⟩
  · have e : valBits (imgIn dg) 0xB00018 0 24 = 8048 := (show _ = valBits (imgIn []) 0xB00018 0 24 from rfl).trans (by decide)
    have e' : val64 (imgIn dg) 0xB00010 = 0 := (show _ = val64 (imgIn []) 0xB00010 from rfl).trans (by decide)
    rw [if_pos e', e]
    have := slice_right [] (img dg)
    simp only [len, List.nil_append, List.length_nil] at this
    exact this.symm
  · have e4 : fld (img dg) 4 2 = 7 := (f 4 2 (by decide)).trans (by decide)
    rw [e4]; rfl
  · have : fwHeaderOk 1 64 [] = false := by decide
    simp only [imageStatus, this]
    simp [firstBad, failIf]

theorem witness_UpdatesGoToTheInactiveSlot_done :
    ({ on with mgmt := { st := .ready, upd := some { cls := 7, slot := 1, image := zeros 200 } } } : State).mgmt.upd =
        some { cls := 7, slot := 1, image := zeros 200 } ∧ on.mgmt.st ≠ .off ∧ on.mgmt.st ≠ .recovery ∧ on.mgmt.mssRunning = true ∧
      (zeros 200).length ≤ flashRoom 7 := ⟨rfl, by decide, by decide, by decide, by rw [zeros, List.length_replicate]; decide⟩

/-! ## Management -/

/-- The MSS restarts; slot B of class 1 may be loaded. -/
def mssDown : State := { on with mgmt := { st := .ready, mssRunning := false, slotsB := [(1, { loadable := true })] } }

theorem witness_MssRestartsAndSessions :
    mssDown.mgmt.st ≠ .off ∧ mssDown.mgmt.mssRunning = false ∧ hasOwner mssDown = true ∧ mssDown.mgmt.mssCause ≠ 3 ∧
      (fwSlot mssDown 1 (1 - actSlot mssDown 1)).loadable = true ∧ actSlot mssDown 1 ≤ 1 := by decide

/-- Masters 8 and 10 have sessions. -/
def heard (s : State) : State :=
  { s with mgmt := { s.mgmt with sessions := [(8, {}), (10, { answer := some { conn := 4, rkey := 0, off := 0 } })] } }

theorem witness_MssRestartsAndSessions_sessions :
    on.mgmt.st ≠ .off ∧ on.mgmt.mssRunning = true ∧ 1 ≤ 8 ∧ 8 ≤ 15 ∧ 8 ≠ 9 ∧ ((none : Option AnswerRegion).isSome = decide (10 ≤ 8)) ∧
      10 ≠ 9 ∧ ((some { conn := 4, rkey := 0, off := 0 } : Option AnswerRegion).isSome = decide (10 ≤ 10)) ∧
      hasPath (heard on) 8 = true ∧ hasPath (heard on) 10 = true ∧ 8 ≤ 8 := by decide

theorem witness_ManagementReadsAndWrites :
    (heard on).mgmt.st ≠ .off ∧ (heard on).mgmt.mssRunning = true ∧ hasPath (heard on) 8 = true ∧
      spanOk (0xCFFF00#32).toNat 256 = true ∧ (0xCFFF00#32).toNat + 256 ≤ 0xD00000 ∧ spanOk (0xE00000#32).toNat 4 = true ∧ 0xE00000 ≤ (0xE00000#32).toNat ∧
      spanOk (2#32).toNat 4 = false ∧ spanOk (0#32).toNat 260 = false ∧ 1 ≤ 64 ∧ 64 ≤ 64 := by decide

/-- Master 8 owns the node. -/
def owned8 : State := heard { on with own := { state := .owned, owner := 8 } }

theorem witness_ManagementReadsAndWrites_write :
    serving owned8 = true ∧ owned8.mgmt.mssRunning = true ∧ hasPath owned8 8 = true ∧ ownerIs owned8 8 = true ∧ 0x0102 < 2 ^ 32 ∧
      (0x200000#32).toNat % 4 = 0 ∧ (0x200000#32).toNat < 0xC00000 ∧ hasRow (0x200000#32).toNat 0x0102 = false ∧
      (0x200000#32).toNat ≠ 0xB00004 ∧ (0x200000#32).toNat ≠ 0xB0001C ∧ (0x200000#32).toNat ≠ 0xA00208 ∧ (0x200000#32).toNat ≠ 0x500028 ∧
      writeError owned8 (.mgmt 8) (0x200000#32).toNat 0x0102 = none := by decide

theorem witness_ManagementClaimsSubmitsUpdates_claim (h : Config.slhVerify (1 :: zeros 31) (credHead 8) (zeros 17088) = true) :
    (heard keyed).mgmt.st ≠ .off ∧ (heard keyed).mgmt.mssRunning = true ∧ hasPath (heard keyed) 8 = true ∧
      credentialOk (heard keyed) 8 (cred 8) = true ∧ (heard keyed).own.state = .none ∧ ownerIs owned8 8 = true ∧ ownerIs (heard on) 8 = false :=
  ⟨by decide, by decide, by decide, cred_ok 8 (by decide) _ (by decide) (by decide) h, by decide, by decide, by decide⟩

theorem witness_ManagementClaimsSubmitsUpdates_submit :
    serving owned8 = true ∧ (desc 0x60 []).length = 64 ∧ (tgetD owned8.mgmt.tags 8 []).find? (fun e => e.1 == 5#32) = none ∧
      mgmtWaiting owned8 < 256 ∧ 0 = ((getRing owned8 mgmtRing).accepted + BitVec.ofNat 32 owned8.mgmt.ringDescs.length).toNat ∧
      (tgetD ({ owned8 with mgmt := { owned8.mgmt with tags := [(8, [(5, 0)])] } } : State).mgmt.tags 8 []).find? (fun e => e.1 == 5#32) = some (5, 0) ∧
      (zeros 16384).length ≤ 16384 ∧ (0xFFC000#32).toNat + 16384 ≤ 2 ^ 24 ∧ ownerIs owned8 8 = true := by
  refine ⟨by decide, by decide, by decide, by decide, by decide, by decide, by rw [zeros, List.length_replicate], by decide, by decide⟩

end Sys2Proof.Tests
end

