-- ==== Sys2Proof/Tests/WitnessAssay.lean ====
section
/-! SUPPORT. Witnesses: the Assay, keys, attestation and the release of a partition. -/

namespace Sys2Proof.Tests

open Sys2Proof Sys2Proof.Machine

/-! ## The Assay -/

/-- A record of the tap for partition 3, resource 2. -/
def tapRecOf (typ : Nat) (seq : BitVec 32) : TapRec := { typ := typ, part := 3, res := 2, seq := seq, value := 5 }

/-- The tap holds it, and the Assay took record 6 last. -/
def tapOn (r : TapRec) : State := { on with tap := { queue := [r] }, assay := { lastSeq := some 6, active := [3] } }

theorem witness_AssayTakesRecordsInOrder_records :
    (∀ t ∈ [1, 2, 3, 4, 5, 6, 7], (tapOn (tapRecOf t 7)).tap.queue = tapRecOf t 7 :: [] ∧ assayAvail (tapOn (tapRecOf t 7)) = true ∧
        mainOn (tapOn (tapRecOf t 7)) = true ∧ (tapOn (tapRecOf t 7)).tap.heldHalt = [] ∧ (tapOn (tapRecOf t 7)).tap.heldLevel = [] ∧
        (tapOn (tapRecOf t 7)).sec.releases = [] ∧ (tapOn (tapRecOf t 7)).assay.lastSeq = some ((tapRecOf t 7).seq - 1)) ∧
      ((tapOn (tapRecOf 1 6)).assay.lastSeq = some 6 ∧ serialLe (tapRecOf 1 6).seq 6 = true) := by decide

theorem witness_AssayTakesRecordsInOrder_flush :
    (let s : State := { on with tap := { acc := [(12 * 3 + 2, 9)] } }
     mainOn s = true ∧ flushList s = [(3, some 2)] ∧ s.tap.queue.length < 3968) ∧
      (let s : State := { on with tap := { halted := true } }
       s.tap.halted = true ∧ s.tap.queue.length ≤ 1024) := by decide

/-- A statement in the ring. -/
def stmt : Statement := { aseq := 4, part := 3, kind := 6, body := [], sig := [] }

theorem witness_AssayAnswersAtItsPort :
    (on.pins.vstby = true ∧ on.assay.sealBroken = false ∧ on.assay.patchPend = none ∧
        ({ on with assay := { sealBroken := true, patchPend := some (2, 1) } } : State).assay.patchPend = some (2, 1)) ∧
      (assayRuns on = true ∧ ({ on with assay := { ring := [stmt] } } : State).assay.ring.find? (fun x => x.aseq == (4 : BitVec 64).toNat) = some stmt ∧
        on.assay.ring.find? (fun x => x.aseq == (4 : BitVec 64).toNat) = none ∧ (zeros 8).length ≤ 1024) ∧
      (on.pins.asyPatchEn = false ∧
        patchStatus { on with pins := { asyPatchEn := true } } (slice ({ on with pins := { asyPatchEn := true } } : State).assay.patchBuf 0 (min 65537 0)) ≠ .ok) ∧
      (on.mgmt.st ≠ .off ∧ on.mgmt.mssRunning = true ∧ eidOk 8 = true ∧ eidOk 0xFF = false) := by decide

/-- The header of a patch without a body, whose hash the premise below gives. -/
def patchHead : List Byte := [2, 9] ++ List.replicate 46 0 ++ [0xA1, 0x02] ++ List.replicate 78 0

/-- The patch. -/
def patchImage : List Byte := patchHead ++ zeros 7856

/-- The Assay holds it. -/
def patched : State := { on with pins := { asyPatchEn := true }, assay := { patchBuf := patchImage } }

/-- The verdicts of the cryptography are premises here: Lean cannot evaluate them (log entry 17). -/
theorem witness_AssayAnswersAtItsPort_patch (h1 : Config.sha256 [] = zeros 32)
    (h2 : Config.slhVerify (Config.blob 13 0) patchHead (zeros 7856) = true) :
    patched.pins.asyPatchEn = true ∧ patchStatus patched (slice patched.assay.patchBuf 0 (min 65537 7984)) = .ok := by
  refine ⟨rfl, ?_⟩
  have l : patchHead.length = 128 := rfl
  have z : (zeros 7856).length = 7856 := List.length_replicate ..
  have len : patchImage.length = 7984 := by rw [patchImage, List.length_append, l, z]
  have e : slice patched.assay.patchBuf 0 (min 65537 7984) = patchImage := by
    show slice patchImage 0 7984 = patchImage
    rw [slice, List.drop_zero, List.take_of_length_le (by omega), len]
    exact List.append_nil _
  have f (off n : Nat) (h : off + n ≤ 128) : slice patchImage off n = slice patchHead off n := slice_left _ _ _ _ (by omega)
  have e0 : slice patchImage 128 0 = [] := by simp [slice]
  have e1 : patchImage.drop 128 = zeros 7856 := by
    rw [patchImage, ← l, List.drop_left]
  have n0 : fld patchHead 12 4 = 0 := by decide
  rw [e]
  have a : fwHeaderOk 9 32 patchImage = true := by
    simp only [fwHeaderOk, fld, f 0 1 (by omega), f 1 1 (by omega), f 2 2 (by omega), f 6 2 (by omega), f 8 1 (by omega), f 9 1 (by omega),
      f 10 2 (by omega), f 12 4 (by omega), f 48 4 (by omega), f 52 76 (by omega), len]
    decide
  have b : fwSigned (Config.blob 13 0) patchImage = true := by
    have m : fld patchImage 12 4 = 0 := by rw [fld, f 12 4 (by omega)]; exact n0
    simp only [fwSigned, m, Nat.add_zero, e0, e1, f 16 32 (by omega), f 0 128 (by omega), h1]
    have w : slice patchHead 0 128 = patchHead := by
      rw [slice, List.drop_zero, List.take_of_length_le (by omega), l]
      exact List.append_nil _
    rw [w, h2]
    decide
  have c : fld patchImage 8 1 = 0 := by rw [fld, f 8 1 (by omega)]; decide
  simp only [patchStatus, a, b, c]
  decide

/-! ## Keys -/

/-- KEY_IMPORT or erase of a slot. -/
def keyImport (slot kind src : Nat) : Cmd := cmd 0x61 [(8, 2, slot), (10, 1, kind), (16, 8, src)]

/-- A window of 4,096 bytes. -/
def windowImport : Cmd := cmd 0x61 [(8, 2, 3), (10, 1, 2), (16, 8, 0x1000), (24, 8, 0x10000), (32, 8, 4096)]

theorem witness_KeysAttestationAndRelease_keys :
    (∀ c ∈ [keyImport 3 1 0x1000, windowImport], MayAdmit (setCmd c on) 5 7 c ∧ c.op = 0x61 ∧ keyStatus (setCmd c on) c = .ok ∧ isGfa (keySrc c) = false ∧
        (keyKind c = 1 ∨ keyKind c = 2)) ∧
      (MayAdmit (setCmd (keyImport 16 1 0x1000) on) 5 7 (keyImport 16 1 0x1000) ∧ keyStatus (setCmd (keyImport 16 1 0x1000) on) (keyImport 16 1 0x1000) ≠ .ok) ∧
      (MayAdmit (setCmd (keyImport 3 0 0) on) 5 7 (keyImport 3 0 0) ∧ keyKind (keyImport 3 0 0) = 0 ∧ keyStatus (setCmd (keyImport 3 0 0) on) (keyImport 3 0 0) = .ok) := by
  refine ⟨?_, ⟨by constructor <;> decide, by decide⟩, by constructor <;> decide, by decide, by decide⟩
  intro c h
  simp only [List.mem_cons, List.not_mem_nil, or_false] at h
  rcases h with rfl | rfl <;> exact ⟨by constructor <;> decide, by decide, by decide, by decide, by decide⟩

/-- RELEASE of partition 0 under its instance 9. -/
def releaseCmd (inst : Nat) : Cmd := cmd 0x62 [(12, 4, inst)]

/-- Partition 0 in a state, with one extent of one granule, number 2. -/
def partIn (st : Nat) : State :=
  withAct [(0xA01030, 2 + 2 ^ 23)] (withVal [(0xA01000, st)] on)

theorem witness_KeysAttestationAndRelease_deferred :
    (∀ c ∈ [{ keyImport 3 0 0 with phase := .deferred .rmaRoom }, { releaseCmd 0 with phase := .deferred .rmaRoom }],
      MayAdmit (setCmd c on) 5 7 c ∧ isDeferred c = true) := by
  intro c h
  simp only [List.mem_cons, List.not_mem_nil, or_false] at h
  rcases h with rfl | rfl <;> exact ⟨by constructor <;> decide, by decide⟩

/-- ATTEST of partition 0. -/
def attestCmd : Cmd := cmd 0x60 [(48, 8, 0x1000)]

theorem witness_KeysAttestationAndRelease_attest :
    MayAdmit (setCmd attestCmd (partIn 1)) 5 7 attestCmd ∧ attestCmd.op = 0x60 ∧ attestNode attestCmd = false ∧ fld attestCmd.desc 8 4 < 2 ∧
      allZero (slice attestCmd.desc 12 4) = true ∧ allZero (slice attestCmd.desc 56 8) = true ∧
      checkAddr (setCmd attestCmd (partIn 1)) attestCmd (fld attestCmd.desc 48 8) 40960 = .ok ∧ partActive (setCmd attestCmd (partIn 1)) 0 = true :=
  ⟨by constructor <;> decide, by decide, by decide, by decide, by decide, by decide, by decide, by decide⟩

theorem witness_KeysAttestationAndRelease_release :
    (MayAdmit (setCmd (releaseCmd 0) (partIn 0)) 5 7 (releaseCmd 0) ∧ (releaseCmd 0).op = 0x62 ∧
        tget (setCmd (releaseCmd 0) (partIn 0)).sec.releases 0 = none ∧ releaseStatus (setCmd (releaseCmd 0) (partIn 0)) (releaseCmd 0) = none) ∧
      releaseStatus (setCmd (releaseCmd 1) (partIn 0)) (releaseCmd 1) = some .wrongState ∧
      (MayAdmit (setCmd (releaseCmd 0) (partIn 1)) 5 7 (releaseCmd 0) ∧ releaseStatus (setCmd (releaseCmd 0) (partIn 1)) (releaseCmd 0) = some .ok) :=
  ⟨⟨by constructor <;> decide, by decide, by decide, by decide⟩, by decide, by constructor <;> decide, by decide⟩

/-- A release of partition 0 by the command, its fills launched or not. -/
def releasing (filling : Bool) : State :=
  { setCmd (run (releaseCmd 0) .none) (partIn 2) with sec := { releases := [(0, { key := cmdKey 5 7, verify := false, filling := filling })] } }

theorem witness_KeysAttestationAndRelease_fill :
    (serving (releasing false) = true ∧ Memory.wf (releasing false).mem.cells = true ∧
        tget (releasing false).sec.releases 0 = some { key := cmdKey 5 7, verify := false, filling := false } ∧
        (∀ e ∈ (releasing false).cmds, e.2.phase = .running → actsFor (releasing false) 0 e.2 = false) ∧ connsOf (releasing false) 0 = []) ∧
      (actBits (releasing true) 0x602000 2 1 = 0 ∧ releaseRoom (releasing true) 0 = true ∧ tsorted (releasing true).cmds = true ∧
        tget (releasing true).cmds (cmdKey 5 7) = some (run (releaseCmd 0) .none) ∧
        (∀ e ∈ (releasing true).cmds, e.2.op = 0x62 → e.1 = cmdKey 5 7)) ∧
      partRuns (releasing true) 0 = [(2, 1)] := by decide

end Sys2Proof.Tests
end

