-- ==== Sys2Proof/Tests/WitnessDeck.lean ====
section
/-! SUPPORT. Witnesses: decks and their cards. -/

namespace Sys2Proof.Tests

open Sys2Proof Sys2Proof.Machine

/-! ## Images -/

/-- The image of deck 7 but for its CRC: two positions of 4 µs and one card, which releases step 0. -/
def imageBody (crc : Nat) : List Byte :=
  (List.range 128).map fun i =>
    match [(0, 1, 2), (2, 2, 4), (4, 4, 7), (8, 2, 2), (10, 2, 1), (14, 2, 1000), (16, 8, 2), (24, 4, 1), (34, 2, 1), (36, 4, crc),
      (68, 1, 8), (70, 1, 8), (71, 1, 3)].find? fun e : Nat × Nat × Nat => decide (e.1 ≤ i) && decide (i < e.1 + e.2.1) with
    | some (o, _, v) => BitVec.ofNat 8 (v / 256 ^ (i - o))
    | none => 0

/-- The image with its CRC. -/
def image : List Byte := imageBody (crc32c (imageBody 0))

/-- DECK_LOAD of it. -/
def loadCmd : Cmd := cmd 0x40 [(12, 4, 128), (16, 8, 0x1000)]

theorem witness_DecksLoadAndSwap_load :
    (MayAdmit (setCmd loadCmd on) 5 7 loadCmd ∧ loadCmd.op = 0x40 ∧ fld loadCmd.desc 8 4 = 0 ∧ allZero (slice loadCmd.desc 24 40) = true ∧
        fld loadCmd.desc 12 4 = 128 ∧ (setCmd loadCmd on).deck.swap = none ∧ checkAddr (setCmd loadCmd on) loadCmd (fld loadCmd.desc 16 8) 128 = .ok ∧
        isGfa (fld loadCmd.desc 16 8) = false) ∧
      (Runs (setCmd (run loadCmd .block) on) 5 7 (run loadCmd .block) ∧ isScratch loadCmd (fld loadCmd.desc 16 8) = false ∧ image.length = 128 ∧
        windowsOf (setCmd (run loadCmd .block) on) (run loadCmd .block).part = [] ∧ fld image 32 2 = 0 ∧ imageFail image = none ∧
        fld (imageBody 0) 32 2 = 0 ∧ imageFail (imageBody 0) = some (2, 0)) :=
  ⟨⟨by constructor <;> decide, by decide, by decide, by decide, by decide, by decide, by decide, by decide⟩,
    by constructor <;> decide, by decide, by decide +kernel, by decide, by decide +kernel, by decide +kernel, by decide +kernel, by decide +kernel⟩

/-! ## Swaps -/

/-- A card of position 0 for step 0. -/
def cardOf (kind cls a0 a1 a2 : Nat) : Card :=
  { pos := 0, slot := 0, spanM1 := 0, rclass := cls, rinst := 0, kind := kind, first := true, last := true, step := 0, cost := 0, arg0 := a0, arg1 := a1, arg2 := a2 }

/-- A task that signals counter 1. -/
def task : Task := { desc := desc 0x31 [(8, 4, 1), (16, 8, 1)], stride := 0, rot := 1, amask := 0 }

/-- Deck 7 with one card. -/
def deckOf (c : Card) (loan : Bool) : DeckImage :=
  { dfmt := 2, loan := loan, roundUs := 4, id := 7, cycle := 2, nodes := 1, rcLimit := 1000, house := 2, cards := [c], tasks := [task], steps := 1 }

/-- Its release card. -/
def releaseCard : Card := cardOf 8 8 0 0 0

/-- Ring 6 is an owner ring; counter 1 belongs to partition 0 with bound 100. -/
def deckWords : List (Nat × Nat) := [(0x110018 + 0x40 * 6, 192 * 256), (0x480008, 64), (0x48000C, 100)]

/-- The node with a deck. -/
def deckIn (d : Deck) : State := { withAct deckWords on with deck := d }

/-- DECK_SWAP of deck 7 at 40 µs, its completions on ring 6. -/
def swapCmd (flags : Nat) : Cmd := cmd 0x41 [(8, 4, flags), (12, 2, 6), (16, 8, 40000), (32, 4, 7)]

/-- The deck that releases its step. -/
def small : DeckImage := deckOf releaseCard false

/-- It is halted and pending. -/
def swappable : Deck := { pend := some small, active := some small, state := 2 }

theorem witness_DecksLoadAndSwap_swap :
    (∀ f ∈ [0, 1, 2], MayAdmit (setCmd (swapCmd f) (deckIn swappable)) 5 7 (swapCmd f) ∧ (swapCmd f).op = 0x41 ∧
        swapStop (swapCmd f) = (f == 1) ∧ swapRestart (swapCmd f) = (f == 2) ∧ swapStatus (setCmd (swapCmd f) (deckIn swappable)) (swapCmd f) = .ok ∧
        offline (setCmd (swapCmd f) (deckIn swappable)) 8 = false) ∧
      (swapStatus (setCmd (swapCmd 0) (deckIn {})) (swapCmd 0) ≠ .ok ∧ MayAdmit (setCmd (swapCmd 0) (deckIn {})) 5 7 (swapCmd 0)) ∧
      (offline { setCmd (swapCmd 0) (deckIn swappable) with parts := { offline := [8] } } 8 = true ∧
        swapStatus { setCmd (swapCmd 0) (deckIn swappable) with parts := { offline := [8] } } (swapCmd 0) = .ok) := by
  refine ⟨?_, ⟨by decide, by constructor <;> decide⟩, by decide, by decide⟩
  intro f h
  simp only [List.mem_cons, List.not_mem_nil, or_false] at h
  rcases h with rfl | rfl | rfl <;> exact ⟨by constructor <;> decide, by decide, by decide, by decide, by decide, by decide⟩

/-- The accepted swap. -/
def swapOf (stop : Bool) : SwapReq := { key := cmdKey 5 7, stop := stop, restart := false, cring := 6, start := 40000, stepBase := 100 }

/-- The running swap command. -/
def swapRun (flags : Nat) (d : Deck) : State := setCmd (run (swapCmd flags) .none) (deckIn d)

/-- The deck stands in round 9 at its last position, with everything done. -/
def lastRound : Deck := { active := some small, pend := some small, swap := some (swapOf true), state := 1, cur := 1, round := 9 }

theorem witness_DecksLoadAndSwap_start :
    (Runs (swapRun 0 { pend := some small, swap := some (swapOf false) }) 5 7 (run (swapCmd 0) .none) ∧ (swapOf false).key = cmdKey 5 7 ∧
        small.routes = [] ∧ small.roundNs ≠ 0 ∧ (swapRun 0 {}).mgmt.fences = []) ∧
      (Runs (swapRun 1 lastRound) 5 7 (run (swapCmd 1) .none) ∧ boundaryReady (swapRun 1 lastRound) small = true ∧ swapDue (swapRun 1 lastRound) small = true ∧
        (swapRun 1 lastRound).deck.steps = []) :=
  ⟨⟨by constructor <;> decide, by decide, by decide, by decide, by decide⟩, by constructor <;> decide, by decide +kernel, by decide +kernel, by decide⟩

/-! ## Cards -/

/-- A deck with one card, in its first round. -/
def deckRun (c : Card) (loan : Bool) : Deck := { active := some (deckOf c loan), state := 1 }

/-- The node runs it. -/
def cardOn (c : Card) (loan : Bool) : State := deckIn (deckRun c loan)

theorem witness_CardsActInTheirSlot :
    (∀ e ∈ [(cardOf 2 0 0 0 0), (cardOf 3 6 0 0 64), (cardOf 4 6 0 0 64), (cardOf 5 8 1 3 0), (cardOf 6 8 1 3 0), (cardOf 8 8 0 0 0)],
        runningDeck (cardOn e false) = some (deckOf e false) ∧ issuable (cardOn e false) (deckOf e false) 0 e.kind = some (e, 0) ∧
        (cardOn e false).deck.carried = [] ∧ (deckOf e false).loan = false) ∧
      ((getCnt (cardOn (cardOf 6 8 1 3 0) false) 1).value < checkValue (cardOf 6 8 1 3 0) 0 ∧
        (cardOn (cardOf 4 6 0 0 64) false).deck.received = [] ∧
        ((recvPackets (issueCard (deckOf (cardOf 4 6 0 0 64) false) 0 (cardOf 4 6 0 0 64) 0 (cardOn (cardOf 4 6 0 0 64) false)) (cardOf 4 6 0 0 64)).flatMap
          fun e => e.2.payload).length < 64) ∧
      (∀ v ∈ [0, 3], runningDeck (cardOn (cardOf 7 8 1 v 0) true) = some (deckOf (cardOf 7 8 1 v 0) true) ∧
        issuable (cardOn (cardOf 7 8 1 v 0) true) (deckOf (cardOf 7 8 1 v 0) true) 0 7 = some (cardOf 7 8 1 v 0, 0) ∧
        (cardOn (cardOf 7 8 1 v 0) true).rma.waiters.length < 4096 ∧ (getCnt (cardOn (cardOf 7 8 1 v 0) true) 1).value = 0 ∧
        checkValue (cardOf 7 8 1 v 0) 0 = v) := by decide

/-- A scheduled packet of 64 bytes on route 0 from node 0. -/
def schedPkt : Packet :=
  { fab := { cls := 3, vc := false, static := true, flits := 3, dst := 0, src := 0, route := 0, hops := 0, plen := 64 }
    tr := { top := 0, first := false, last := false, ackReq := false, enc := false, cl := false, try_ := 0, dconn := 0, psn := 0, cpsn := 0, raddr := 0
            rkey := 0, total := 0 }
    payload := zeros 64, tag := [] }

/-- RECV with its bytes here. -/
def recvOn : State := { cardOn (cardOf 4 6 0 0 64) false with fab := { sched := [(0, schedPkt)] } }

theorem witness_CardsActInTheirSlot_recv :
    issuable recvOn (deckOf (cardOf 4 6 0 0 64) false) 0 4 = some (cardOf 4 6 0 0 64, 0) ∧ recvOn.deck.received = [] ∧
      64 ≤ ((recvPackets (issueCard (deckOf (cardOf 4 6 0 0 64) false) 0 (cardOf 4 6 0 0 64) 0 recvOn) (cardOf 4 6 0 0 64)).flatMap fun e => e.2.payload).length := by
  decide

/-- The EXEC card of the task. -/
def execCard : Card := cardOf 1 0 0 0 0

theorem witness_CardsActInTheirSlot_exec :
    runningDeck (cardOn execCard false) = some (deckOf execCard false) ∧ issuable (cardOn execCard false) (deckOf execCard false) 0 1 = some (execCard, 0) ∧
      (deckOf execCard false).tasks[0]? = some task ∧ fld (taskDesc task 0) 0 1 = 2 ∧ fld (taskDesc task 0) 2 2 &&& 0xFEC0 = 0 ∧
      fld (taskDesc { task with desc := 1 :: task.desc.drop 1 } 0) 0 1 ≠ 2 := by decide +kernel

/-! ## Rounds -/

/-- A card whose span ends. -/
def issuedOn (c : Card) : State := deckIn { deckRun c false with issued := [0] }

/-- A step that is due. -/
def dueStep : StepRun := { idx := 0, cycle := 0, number := 0, cring := 6, lastRound := some 0 }

/-- A notice of deck 7, raised by node 4 in a round. -/
def noticeAt (round : Nat) : Notice :=
  { ntype := 1, cause := 1, src := 4, deckId := 7, raised := BitVec.ofNat 64 round, step := 0, pos := 0 }

/-- The deck in round 2, its cards done. -/
def roundTwo : Deck := { deckRun releaseCard false with round := 2, cur := 2, issued := [0], ended := [0] }

theorem witness_RoundsEndAndLoansCount_rounds :
    (serving (issuedOn execCard) = true ∧ (issuedOn execCard).deck.active = some (deckOf execCard false) ∧ (issuedOn execCard).deck.state = 1 ∧
        (deckOf execCard false).cards[0]? = some execCard ∧ 0 ∈ (issuedOn execCard).deck.issued ∧ 0 ∉ (issuedOn execCard).deck.ended ∧ execCard.kind ≠ 4) ∧
      (let u := advanceTo ((deckOf releaseCard false).slotAt 0 1) (issuedOn releaseCard)
       failCause u (deckOf releaseCard false) 0 releaseCard 0 none = none ∧ failCause u (deckOf releaseCard false) 0 releaseCard 0 (some .cardFault) = none ∧
         failCause { u with tap := { halted := true } } (deckOf releaseCard false) 0 releaseCard 0 none = some 7) ∧
      (let s := deckIn { roundTwo with steps := [dueStep] }
       (dueSteps s).head? = some dueStep ∧ dueStep.loan = false ∧ roundDone s (deckOf releaseCard false) = true ∧ dueStep.tasks = [] ∧ dueStep.ops = [] ∧
         dueStep.posts = [] ∧ dueStep.counts = []) ∧
      (let s := deckIn { roundTwo with notices := [noticeAt 1] }
       dueNotices s ≠ [] ∧ roundDone s (deckOf releaseCard false) = true ∧ s.deck.cur ≠ 0 ∧ s.deck.rewindTo = none) ∧
      (boundaryReady (deckIn roundTwo) (deckOf releaseCard false) = true ∧ swapDue (deckIn roundTwo) (deckOf releaseCard false) = false) ∧
      (deckIn swappable).deck.state = 2 ∧
      (marginBelow (deckOf releaseCard false) 999 2 = true ∧ vcore (withVal [(0x200010, 700)] (deckIn roundTwo)) = 700) := by decide +kernel

/-- A WAIT of loan mode that waits since 50. -/
def waitingOn : State := deckIn { deckRun (cardOf 7 8 1 3 0) true with issued := [0], waits := [(waitKey 0 0, 50)] }

theorem witness_RoundsEndAndLoansCount_notices :
    (let s := deckIn { deckRun releaseCard false with seen := [noticeKey (noticeAt 0)] }
     serving s = true ∧ (getPort s 0).inbox = [] ∧ noticeKey (noticeAt 0) ∈ s.deck.seen) ∧
      (let s := deckIn (deckRun releaseCard false)
       (getPort s 0).inbox = [] ∧ noticeKey (noticeAt 0) ∉ s.deck.seen ∧ s.deck.state = 1 ∧ s.deck.active = some (deckOf releaseCard false) ∧
         (deckOf releaseCard false).id = (noticeAt 0).deckId.toNat ∧ ((noticeAt 0).ntype = 1 ∨ (noticeAt 0).ntype = 2)) ∧
      (runningDeck waitingOn = some (deckOf (cardOf 7 8 1 3 0) true) ∧ tget waitingOn.deck.waits (waitKey 0 0) = some 50 ∧
        waitKey 0 0 ∉ waitingOn.deck.loaned) := by decide

end Sys2Proof.Tests
end

