-- ==== Sys2Proof/Tests/WitnessHost.lean ====
section
/-! SUPPORT. Witnesses: for each statement with hypotheses a state and operands that meet them together. Registers, commits, rings,
completions and ownership. -/

namespace Sys2Proof.Tests

open Sys2Proof Sys2Proof.Machine

/-! ## Registers and commits -/

theorem witness_RegisterWriteTakesEffect_staged :
    masterOf .pf ≠ none ∧ serving on = true ∧ isOwner on .pf = true ∧ (0x200000#26).toNat % 4 = 0 ∧ (0x200000#26).toNat < 0xC00000 ∧
      (0x0102#64).toNat < 2 ^ 32 ∧ ringOff (0x200000#26).toNat = none ∧ evOff (0x200000#26).toNat = none ∧
      hasRow (0x200000#26).toNat (0x0102#64).toNat = false ∧ (0x200000#26).toNat ≠ 0x5000F0 ∧
      (0x0102#64).toNat &&& (regSpec (0x200000#26).toNat).res = 0 ∧ illegalRw (0x200000#26).toNat (0x0102#64).toNat = false ∧
      (regSpec (0x200000#26).toNat).st ≠ 0 := by decide

theorem witness_RegisterWriteTakesEffect_atOnce :
    masterOf .pf ≠ none ∧ serving on = true ∧ isOwner on .pf = true ∧ (0xA00200#26).toNat % 4 = 0 ∧ (0xA00200#26).toNat < 0xC00000 ∧
      (0xFFFFFFFF#64).toNat < 2 ^ 32 ∧ ringOff (0xA00200#26).toNat = none ∧ evOff (0xA00200#26).toNat = none ∧
      hasRow (0xA00200#26).toNat (0xFFFFFFFF#64).toNat = false ∧ (0xA00200#26).toNat ≠ 0x5000F0 ∧
      (0xFFFFFFFF#64).toNat &&& (regSpec (0xA00200#26).toNat).res = 0 ∧ illegalRw (0xA00200#26).toNat (0xFFFFFFFF#64).toNat = false ∧
      (regSpec (0xA00200#26).toNat).rw ≠ 0 ∧ (regSpec (0xA00200#26).toNat).w1c = 0 ∧ (regSpec (0xA00200#26).toNat).w1s = 0 := by decide

theorem witness_CommitKeepsCheckedSet :
    commitCmd .mem .pf ((ctlOf on (blockNo .mem)).gen + 1) [] = some (.memCommit .pf 1) ∧ serving on = true ∧ isOwner on .pf = true ∧
      (ctlOf on (blockNo .mem)).checked = none ∧ blockCheck .mem on = .ok := by decide

theorem witness_CommitKeepsCheckedSet_vf :
    1 ≤ 64 ∧ 64 ≤ 64 ∧ serving on = true ∧ (ctlOf on (64 + 64)).checked = none ∧ checkHost (vfSet on 64) on = .ok := by decide

/-- A set of block MEM waits for its safe point. -/
def memWaits : State := setCtl (blockNo .mem) { checked := some ([], []) } on

theorem witness_RefusedCommitChangesOnlyStatus :
    (commitCmd .mem .pf 2 [] = some (.memCommit .pf 2) ∧ serving on = true ∧ isOwner on .pf = true ∧ (2#16) ≠ (ctlOf on (blockNo .mem)).gen + 1) ∧
      ((1#16) = (ctlOf memWaits (blockNo .mem)).gen + 1 ∧ (ctlOf memWaits (blockNo .mem)).checked ≠ none ∧ serving memWaits = true ∧
        isOwner memWaits .pf = true) ∧
      ((1#16) = (ctlOf on (blockNo .fab)).gen + 1 ∧ (ctlOf on (blockNo .fab)).checked = none ∧ blockCheck .fab on ≠ .ok) := by decide

theorem witness_RefusedCommitChangesOnlyStatus_notOwner :
    commitCmd .mem (.mgmt 1) 1 [] = some (.memCommit (.mgmt 1) 1) ∧ masterOf (.mgmt 1) ≠ none ∧ serving on = true ∧
      isOwner on (.mgmt 1) = false := by decide

/-- A set of block DECK waits, and no round is under way. -/
def deckWaits : State := setCtl (blockNo .deck) { checked := some ([(0x200000, 0x0102)], []) } on

theorem witness_DiscardAndSwapSettleBanks :
    serving deckWaits = true ∧ isOwner deckWaits .pf = true ∧ atBoundary deckWaits = true ∧
      (ctlOf deckWaits (blockNo .deck)).checked = some ([(0x200000, 0x0102)], []) ∧
      (∀ e ∈ ([(0x200000, 0x0102)] : Table Word), blockBase .deck ≤ e.1 ∧ e.1 < blockBase .deck + 0x100000) ∧
      blockBase .deck ≤ 0x2FFFFF ∧ 0x2FFFFF < blockBase .deck + 0x100000 ∧ blockBase .deck + 0x100000 ≤ 0x300000 := by decide

/-! ## Rings -/

/-- Ring 5 is an owner ring, enabled with 2^4 slots. -/
def ringOn : State := withAct [(0x110000 + 0x40 * 5 + 24, 0x0001C004), (0x110000 + 0x40 * 5 + 28, 256)] on

theorem witness_DoorbellsMoveTheirIndices :
    serving ringOn = true ∧ pageRing ringOn (.pf 5) = some 5 ∧
      doorbellOk (getRing ringOn 5).sqTail (getRing ringOn 5).completed 16 (ringCfg ringOn 5).log2 = true ∧
      doorbellOk (getRing ringOn 5).cqHead (getRing ringOn 5).completed 16 (ringCfg ringOn 5).log2 = true ∧
      doorbellOk (getRing ringOn 5).sqTail (getRing ringOn 5).completed 17 (ringCfg ringOn 5).log2 = false ∧
      doorbellOk (getRing ringOn 5).cqHead (getRing ringOn 5).completed 17 (ringCfg ringOn 5).log2 = false := by decide

/-- The PF's event ring has produced 9 events and 8 are consumed. -/
def evOn : State := setEv 0 { produced := 9, consumed := 8 } on

theorem witness_DoorbellsMoveTheirIndices_events :
    serving evOn = true ∧ 0 ≤ 64 ∧ serialLe (evRing evOn 0).consumed 9 = true ∧ serialLe 9 (evRing evOn 0).produced = true ∧
      (evRing evOn 0).held = [] ∧ (evRing evOn 0).lostDue = false := by decide

/-- Ring 5 reads its descriptor. -/
def ringReads : State := setRing 5 { sqTail := 1, fetch := .reading } ringOn

theorem witness_DescriptorsAreReadAndAccepted_read :
    serving ringReads = true ∧ (getRing ringReads 5).fetch = .reading := by decide

/-- The same on ring 6 of partition 3. -/
def ringReads6 : State := setRing 6 { sqTail := 1, fetch := .reading } (withAct [(0x110000 + 0x40 * 6 + 24, 0x00018304)] on)

theorem witness_DescriptorsAreReadAndAccepted_metered :
    serving ringReads6 = true ∧ (getRing ringReads6 6).fetch = .reading ∧ ownerRing ringReads6 6 = false := by decide

/-- Ring 5 holds an ATTEST of version 2. -/
def ringHolds (d : List Byte) : State := setRing 5 { sqTail := 1, fetch := .here d } ringOn

theorem witness_DescriptorsAreReadAndAccepted_good :
    serving (ringHolds (desc 0x60 [])) = true ∧ 5 ≠ mgmtRing ∧ ((drrPick (ringHolds (desc 0x60 []))).map (·.1)) = some 5 ∧
      nextDesc (ringHolds (desc 0x60 [])) 5 = some (.ok (desc 0x60 [])) ∧
      headerStatus (ringHolds (desc 0x60 [])) 5 (getRing (ringHolds (desc 0x60 [])) 5).accepted (desc 0x60 []) = .ok ∧
      descUnits (ringHolds (desc 0x60 [])) 5 (desc 0x60 []) ≤ (ringCfg (ringHolds (desc 0x60 [])) 5).qunits := by
  refine ⟨by decide, by decide, by decide +kernel, rfl, by decide, by decide⟩

theorem witness_DescriptorsAreReadAndAccepted_bad :
    ((drrPick (ringHolds (desc 0x61 [(2, 2, 0x40)]))).map (·.1)) = some 5 ∧ nextDesc (ringHolds (desc 0x61 [(2, 2, 0x40)])) 5 = some (.ok (desc 0x61 [(2, 2, 0x40)])) ∧
      headerStatus (ringHolds (desc 0x61 [(2, 2, 0x40)])) 5 (getRing (ringHolds (desc 0x61 [(2, 2, 0x40)])) 5).accepted (desc 0x61 [(2, 2, 0x40)]) ≠ .ok := by
  refine ⟨by decide +kernel, rfl, by decide⟩

/-- A command of ring 5. -/
theorem witness_DescriptorsAreReadAndAccepted_turnedAway : ({ ring := 5, rseq := 7, desc := desc 0x60 [] } : Cmd).ring ≠ deckRing := by decide

/-- Turned away at admission, the first command after reset still takes step number 2^63 (R320, R345). -/
theorem test_turned_away_takes_number :
    (getCmd (endAtAdmission { ring := 5, rseq := 7, desc := desc 0x60 [] } .illegalValue 0 ringOn) 5 7).map (·.step) = some (BitVec.ofNat 64 (2 ^ 63)) := by
  decide

/-- A descriptor of version 1. -/
def oldDesc : List Byte := 1 :: (desc 0x60 []).tail

theorem witness_OtherVersionChangesNothing :
    serving (ringHolds oldDesc) = true ∧ ((drrPick (ringHolds oldDesc)).map (·.1)) = some 5 ∧ nextDesc (ringHolds oldDesc) 5 = some (.ok oldDesc) ∧
      fld oldDesc 0 1 ≠ 2 := by
  refine ⟨by decide, by decide +kernel, rfl, by decide⟩

/-! ## Completions -/

/-- A command of ring 5 that has ended, the next one to complete. -/
def doneCmd : Cmd := { ring := 5, rseq := 0, desc := desc 0x60 [], phase := .finished, units := 1, wrote := 1 }

/-- Ring 5 with it. -/
def ringDone : State := setCmd doneCmd (setRing 5 { sqTail := 1, accepted := 1, used := 1, running := true, unsig := 1 } ringOn)

theorem witness_CompletionsSignalTheHost :
    serving ringDone = true ∧ 5 ≠ mgmtRing ∧ nextCompletion ringDone 5 = some doneCmd ∧ doneCmd.ring = 5 ∧ doneCmd.rseq = (getRing ringDone 5).completed ∧
      doneCmd.cause ≠ waitExpired ∧ doneCmd.subs = [] ∧ (getRing ringDone 5).unsig ≠ 0 := by decide

theorem witness_CompletionsSignalTheHost_vector : mainOn on = true ∧ 0 ≤ 64 ∧ 63 < vecCount 0 ∧ 64 ≤ 64 ∧ 30 < vecCount 64 := by decide

theorem witness_CompletionsSignalTheHost_failures :
    (tget ringDone.host.rings 5).isSome = true ∧ (getRing ringDone 5).fault = false ∧
      (evRing (setEv 0 { last := some (0, []) } on) 0).last ≠ none ∧ (evRing (setEv 0 { last := some (0, []) } on) 0).fault = false ∧
      getCmd ringDone 5 0 = some doneCmd ∧ doneCmd.ring = 5 ∧ doneCmd.rseq = 0 ∧ doneCmd.phase = .finished ∧ doneCmd.wrote ≠ 0 := by decide

end Sys2Proof.Tests
end

