-- ==== Sys2Proof/Tests/WitnessLinks.lean ====
section
/-! SUPPORT. Witnesses: the ports' training, blocks and fabric time. -/

namespace Sys2Proof.Tests

open Sys2Proof Sys2Proof.Machine

/-- Port 1 stands as `x` and is enabled; this node's ID is 3. -/
def portIs (x : Port) : State := { withAct [(0x301100, 1), (0x300000, 3)] on with fab := { ports := [(1, x)] } }

/-- A CAP of node 9 that offers both levels. -/
def capOf (id : Nat) (levels : Nat) : Cap :=
  { seen := false, gcm := false, resend := false, levels := BitVec.ofNat 8 levels, lanesOk := 0xFF, nodeId := BitVec.ofNat 16 id, port := 2 }

theorem witness_PortsTrainAndRetrain_train :
    (1 < 6 ∧ mainOn (portIs {}) = true ∧ portCfg (portIs {}) 1 0 = true ∧ (getPort (portIs {}) 1).link = .down) ∧
      (getPort (portIs { link := .trainLow }) 1).link = .trainLow ∧
      ((getPort (portIs { link := .negotiate }) 1).link = .negotiate ∧ nodeId (portIs { link := .negotiate }) = 3 ∧
        ((capOf 3 6).nodeId ≠ 0xFFFF ∧ (capOf 3 6).nodeId = BitVec.ofNat 16 (nodeId (portIs { link := .negotiate }))) ∧
        (capOf 9 0).levels &&& levelsOf (portIs { link := .negotiate }) 1 = 0 ∧
        (capOf 9 6).nodeId ≠ BitVec.ofNat 16 (nodeId (portIs { link := .negotiate })) ∧ (capOf 9 6).levels &&& levelsOf (portIs { link := .negotiate }) 1 ≠ 0 ∧
        (getPort (portIs { link := .negotiate }) 1).seenOut = false) ∧
      ((getPort (portIs { link := .trainHigh, partnerLanes := 0xFF }) 1).partnerLanes = 0xFF ∧
        (getPort (portIs { link := .trainHigh, partnerLanes := 0xFF }) 1).link = .trainHigh ∧
        (getPort (portIs { link := .trainHigh, partnerLanes := 0xFF }) 1).inbox = []) ∧
      ((getPort (portIs { link := .credit }) 1).link = .credit ∧ (portIs { link := .credit }).seqs = []) := by decide

/-- A block that was sent and not acknowledged. -/
def sentBlock (resends : Nat) : TxBlock := { bsn := 0, flits := 0, cargo := [], ctl := none, sentAt := 0, resends := resends }

/-- Port 1 is UP with that block, and expects block 5. -/
def upPort (resends : Nat) : Port := { link := .up, level := 2, nextBsn := 1, replayBuf := [sentBlock resends], expect := 5, climit := [1, 2, 3, 4, 5, 6, 7] }

theorem witness_PortsTrainAndRetrain_retrain :
    (getPort (portIs (upPort 0)) 1).link = .up ∧
      ((getPort (portIs { upPort 0 with link := .retrain }) 1).link = .retrain ∧ (portIs { upPort 0 with link := .retrain }).seqs = [] ∧
        (getPort (portIs { upPort 0 with link := .retrain }) 1).again = false ∧ (getPort (portIs { upPort 0 with link := .retrain }) 1).narrow = false ∧
        (getPort (portIs { upPort 0 with link := .retrain }) 1).attempts < 2) := by decide

/-- A received block without packets. -/
def rxBlk (bsn : Nat) (fec : FecReport) : RxBlock :=
  { bsn := BitVec.ofNat 10 bsn, replay := false, dataFlits := 0, ctlSlot := 0, fec := fec, bcrc := 0, bcrcCalc := 0, cargo := [] }

theorem witness_BlocksAreReplayed :
    (serving (portIs (upPort 0)) = true ∧ (getPort (portIs (upPort 0)) 1).link = .up ∧ misdealBits (portIs (upPort 0)) 1 0 3 = 0) ∧
      (badBlock (rxBlk 5 (.ok 1)) = false ∧ (rxBlk 5 (.ok 1)).bsn = (getPort (portIs (upPort 0)) 1).expect ∧ badBlock (rxBlk 6 (.ok 0)) = false ∧
        (rxBlk 6 (.ok 0)).bsn ≠ (getPort (portIs (upPort 0)) 1).expect) ∧
      badBlock (rxBlk 5 .uncorrectable) = true ∧
      8191 ≤ (getPort (portIs { upPort 0 with sinceAlign := 8191 }) 1).sinceAlign ∧
      ((getPort (portIs { upPort 0 with resendAt := some 0 }) 1).sinceAlign < 8191 ∧
        (getPort (portIs { upPort 0 with resendAt := some 0 }) 1).replayBuf[0]? = some (sentBlock 0) ∧
        misdealBits (portIs { upPort 0 with resendAt := some 0 }) 1 0 3 ≠ 3) ∧
      (getPort (portIs (upPort 0)) 1).replayBuf = sentBlock 0 :: [] ∧ (sentBlock 0).resends < 8 ∧ 8 ≤ (sentBlock 8).resends := by decide

theorem witness_LimitsOnlyMoveForward :
    1 < 6 ∧ carries (getPort (portIs (upPort 0)) 1) = true ∧ carries (getPort (portIs { link := .negotiate }) 1) = true ∧
      carries (getPort (portIs { link := .down }) 1) = false := by decide

/-- The node is a follower of the parent on port 1. -/
def follower (lost holdover : Nat) : State :=
  withVal [(0x300014, 1 + 2 * holdover + lost)] (withAct [(0x300010, 2 + 4 * 1), (0xB00300, 1 + 2 * 24)] (portIs (upPort 0)))

/-- A time flit of the parent that echoes nothing. -/
def timeFlit : Tsync := { locked := true, source := false, tseq := 4, depth := 0, tTx := 0, tRxLast := 0, tseqEcho := 0 }

theorem witness_FabricTimeIsLostInHoldover :
    serving (follower 0 0) = true ∧ (getPort (follower 0 0) 1).link = .up ∧ timeRole (follower 0 0) = 2 ∧ actBits (follower 0 0) 0x300010 2 3 = 1 ∧
      tget (getPort (follower 0 0) 1).txTimes timeFlit.tseqEcho.toNat = none ∧ valBits (follower 0 0) 0x300014 1 1 = 0 ∧
      (valBits (follower 0 1) 0x300014 1 1 = 1 ∧ (follower 0 1).fab.time.lost = false ∧ (follower 0 1).deck.state = 0 ∧ timeRole (follower 0 1) = 2) ∧
      (bit (actW (follower 0 0) 0xB00300).toNat 0 = true ∧ bits (actW (follower 0 0) 0xB00300).toNat 1 8 = (24 : BitVec 8).toNat) := by decide

end Sys2Proof.Tests
end

