-- ==== Sys2Proof/Tests/WitnessParts.lean ====
section
/-! SUPPORT. Witnesses: parts that fail, watchdogs and memory errors, switches, bring-up, power, pins and sensors. -/

namespace Sys2Proof.Tests

open Sys2Proof Sys2Proof.Machine

/-! ## Parts -/

/-- Each tile is served by the instance of its number. -/
def tileWords : List (Nat × Nat) := (List.range 16).map fun l => (0x702000 + 4 * l, l)

theorem witness_FailedPartsAreReplacedOrOffline_parts :
    ∀ k ∈ [PartKind.tile, .mrg, .ldl, .pat, .cen, .gw], mainOn (withAct tileWords on) = true ∧ serving (withAct tileWords on) = true ∧
      1 < physicals k.code ∧ (failedOf (withAct tileWords on) k.code).contains 1 = false ∧
      (0 < physicals k.code ∧ 0 ≠ 1 ∧ (failedOf (withAct tileWords on) k.code).contains 0 = false) := by decide

theorem witness_FailedPartsAreReplacedOrOffline_units :
    mainOn on = true ∧ pkgState on 5 ≠ 3 ∧ pkgState (withVal [(0xB00214, 4)] on) 5 ≠ 0 ∧ pkgState (withVal [(0xB00214, 4)] on) 5 ≠ 3 ∧
      on.parts.phasesLost < 16 ∧ on.mgmt.st ≠ .recovery ∧ on.mgmt.st ≠ .off ∧ on.mgmt.mssRunning = true := by decide

/-- A step of ring 5 that runs. -/
def stepCmd : Cmd := run (cmd 0x10 []) .none

/-- The same with a sub-request under way, and struck. -/
def subCmd : Cmd := { stepCmd with subs := [{ node := 2, conn := 3, call := .releaseStep 4 }] }

theorem witness_StepsAreReplayedAndErrorsMet_steps :
    (Runs (setCmd stepCmd on) 5 7 stepCmd ∧ stepCmd.op ∈ [0x10, 0x11, 0x18, 0x1A, 0x20, 0x21, 0x22, 0x23] ∧ stepCmd.subs = [] ∧ stepCmd.op ≠ 0x20 ∧
        (setCmd stepCmd on).parts.loading = []) ∧
      (Runs (setCmd subCmd on) 5 7 subCmd ∧ ∃ x, subCmd.subs = [x] ∧ x.answer = none ∧ x.lost = false ∧ x.busy = false) :=
  ⟨⟨by constructor <;> decide, by decide, by decide, by decide, by decide⟩, by constructor <;> decide, _, rfl, by decide, by decide, by decide⟩

theorem witness_StepsAreReplayedAndErrorsMet_errors :
    (serving on = true ∧ 0 < memSize ∧ on.parts.slicesOff.contains 3 = false ∧ (tgetD on.parts.sliceErr 3 []).length < 15 ∧
        deckRuns (withVal [(0x200004, 1)] on) = true) ∧
      (actBits (withAct [(0x900100, 1)] on) 0x900100 0 1 = 1 ∧ auditPages (withAct [(0x900100, 1)] on) = []) ∧
      (mainOn on = true ∧ Memory.wf on.mem.cells = true ∧ logicalUnit on 4 < 6291456 ∧ logicalUnit on 4 % 1024 = logicalUnit on 4 ∧
        errBursts on (8192 * logicalUnit on 4) 8192 = [] ∧ errBursts on (rowAddr on 4 0 / 32) 128 = []) := by decide

/-! ## Switches -/

/-- A crucible image of one word. -/
def oneWord : CrucImage := { svn := 0, key := 0, digest := [], words := [0] }

/-- Package 1 switches to version 5, which the store in force holds. -/
def imageOn : State := { withAct [(0x602110, 5)] on with
  mgmt := { st := .ready, crucStore := [(0, [(5, oneWord)])] }, mem := { switching := [1] } }

theorem witness_SwitchesEndAtAnIdlePoint :
    (mainOn imageOn = true ∧ imageOn.mem.switching.contains 1 = true ∧ unitFree (getUnit imageOn (72 * 1 + 3)) = true ∧
        crucImage imageOn (imgVersion imageOn 1) = some oneWord) ∧
      (∀ l ∈ [[4], [4, 5]], tget ({ on with mgmt := { st := .ready, fences := [(2, l)] } } : State).mgmt.fences 2 = some l ∧ l.contains 4 = true) ∧
      deckRuns on = false ∧
      ((tget ({ on with mem := { remapOld := [(3, 3)] } } : State).mem.remapOld 3).isSome = true ∧
        ∀ i, i < 9 → (getUnit { on with mem := { remapOld := [(3, 3)] } } (9 * 3 + i)).st = .idle) ∧
      (RemapKind.tile ≠ .crucible ∧ ({ withAct tileWords on with parts := { switching := [(0, 2, 17)] } } : State).parts.switching = [(RemapKind.tile.code, 2, 17)] ∧
        atBoundary { withAct tileWords on with parts := { switching := [(0, 2, 17)] } } = true ∧
        (servedBy { withAct tileWords on with parts := { switching := [] } } 0 (physOf (actW (withAct tileWords on)) 0 2)).length ≤ 1) ∧
      (∀ c ∈ [1, 2], pkgState (withAct [(0xB00214, c)] (withVal [(0xB00214, 8)] on)) 5 = 2 ∧
        actBits (withAct [(0xB00214, c)] (withVal [(0xB00214, 8)] on)) (0xB00200 + 4 * 5) 0 2 = c) := by decide

/-! ## Bring-up and power -/

/-- Bring-up at a step. -/
def atStep (n : Nat) (warm : Bool) (st : NodeState) : State := { mgmt := { st := st, stepNo := n, warm := warm } }

theorem witness_BringupAndPowerSetTheState_steps :
    ((atStep 1 false .standby).mgmt.held = false ∧ (atStep 1 false .standby).mgmt.st ≠ .off ∧ (atStep 1 false .standby).mgmt.stepNo = 1 ∧
        (atStep 1 false .standby).pins.vin48 = true) ∧
      ((atStep 2 false .standby).mgmt.stepNo = 2 ∧ (atStep 2 false .standby).pins.oscGood = true ∧ (atStep 2 false .standby).mgmt.st = .standby) ∧
      (∀ n ∈ [3, 4, 5, 6, 7], (atStep n false .bringup).mgmt.held = false ∧ (atStep n false .bringup).mgmt.st ≠ .off ∧
        (atStep n false .bringup).mgmt.stepNo = n ∧ (atStep n false .bringup).mgmt.st = .bringup ∧ (atStep n false .bringup).mgmt.warm = false) := by decide

/-- The node without standby power. -/
def offState : State := { mgmt := { st := .off }, pins := { vstby := false } }

theorem witness_BringupAndPowerSetTheState_power :
    mainOn on = true ∧ actBits on 0xB0000C 0 1 = 0 ∧ on.mgmt.st ≠ .off ∧
      (offState.mgmt.st = .off ∧ actBits offState 0xB0000C 0 1 = 0 ∧ (fwSlot offState 1 (actSlot offState 1)).loadable = true ∧
        valBits offState 0xA00644 0 8 ≠ 4) := by decide

theorem witness_LinksPinsAndSensorsAct_links :
    (on.mgmt.st = .ready ∧ ({ on with host := { linkUp := true, perst := false } } : State).host.linkUp = true ∧ on.pins.sris = false ∧
        ({ on with host := { linkUp := true, perst := false } } : State).host.perst = false ∧
        on.cmds = []) ∧
      (flrRings { withAct [(0x110018, 128 * 256)] on with host := { rings := [(0, {})] } }
        (fun n => ringAssign { withAct [(0x110018, 128 * 256)] on with host := { rings := [(0, {})] } } n == 128 + (1 - 1)) = [0]) := by decide

theorem witness_LinksPinsAndSensorsAct_pins :
    on.mgmt.st ≠ .off ∧ on.mgmt.st ≠ .test ∧ (atStep 0 false .test).mgmt.st = .test ∧ (atStep 0 false .test).mgmt.jtagDriven = false ∧
      (880 ≤ (880 : BitVec 16).toInt ∧ mainOn on = true) ∧
      (({ on with mgmt := { st := .ready, logBatch := [.event 0 { cls := 1, code := 1 }] } } : State).mgmt.logBatch ≠ []) := by decide

end Sys2Proof.Tests
end

