-- ==== Sys2Proof/Tests/WitnessRecall.lean ====
section
/-! SUPPORT. Witnesses: the indexes. -/

namespace Sys2Proof.Tests

open Sys2Proof Sys2Proof.Machine

/-! ## Indexes -/

/-- Index 0 of partition 0 is valid: INT8, dot product, 64 dimensions, degree 16, 64 items. -/
def idxWords : List (Nat × Nat) :=
  [(0x801000, 0x01010001), (0x801004, 0x01100040), (0x801008, 0x00100010), (0x80100C, 0x3F800000), (0x801010, 16), (0x801020, 64)]

/-- The node with index 0 in a state. -/
def idxOn (x : Index) : State := { withAct idxWords on with walk := { indexes := [(0, x)] } }

/-- The same with a command. -/
def onIdx (x : Index) (c : Cmd) : State := setCmd c (idxOn x)

/-- SEARCH for `k` neighbours. -/
def searchCmd (k : Nat) : Cmd := cmd 0x20 [(16, 2, k), (32, 8, 0x1000), (40, 8, 0x2000)]

theorem witness_SearchWalksAndMerges_admitted :
    (MayAdmit (onIdx {} (searchCmd 0)) 5 7 (searchCmd 0) ∧ (searchCmd 0).op = 0x20 ∧ searchStatus (onIdx {} (searchCmd 0)) (searchCmd 0) ≠ .ok) ∧
      (MayAdmit { onIdx {} (searchCmd 1) with parts := { offline := [5] } } 5 7 (searchCmd 1) ∧
        searchStatus { onIdx {} (searchCmd 1) with parts := { offline := [5] } } (searchCmd 1) = .ok ∧
        offline { onIdx {} (searchCmd 1) with parts := { offline := [5] } } 5 = true) ∧
      (MayAdmit (onIdx { applying := true } (searchCmd 1)) 5 7 (searchCmd 1) ∧
        searchStatus (onIdx { applying := true } (searchCmd 1)) (searchCmd 1) = .ok ∧ offline (onIdx { applying := true } (searchCmd 1)) 5 = false ∧
        offline (onIdx { applying := true } (searchCmd 1)) 1 = false ∧ (getIndex (onIdx { applying := true } (searchCmd 1)) (idxOf (searchCmd 1))).applying = true) ∧
      (MayAdmit (onIdx {} (searchCmd 256)) 5 7 (searchCmd 256) ∧ searchStatus (onIdx {} (searchCmd 256)) (searchCmd 256) = .ok ∧
        offline (onIdx {} (searchCmd 256)) 5 = false ∧ offline (onIdx {} (searchCmd 256)) 1 = false ∧
        (getIndex (onIdx {} (searchCmd 256)) (idxOf (searchCmd 256))).applying = false ∧ isGfa (fld (searchCmd 256).desc 32 8) = false) :=
  ⟨⟨by constructor <;> decide, by decide, by decide⟩, ⟨by constructor <;> decide, by decide, by decide⟩,
    ⟨by constructor <;> decide, by decide, by decide, by decide, by decide⟩,
    by constructor <;> decide, by decide, by decide, by decide, by decide, by decide⟩

/-- A SEARCH with one hand. -/
def searchRun (h : Hand) (started : Bool) : SearchRun :=
  { idx := 0, epoch := 0, fsel := 0, k := 1, beam := 16, width := 1, maxHops := 16, hands := [h], started := started }

theorem witness_SearchWalksAndMerges_batch :
    let r := searchRun {} false
    let c := run (searchCmd 1) (.search r)
    let s := onIdx {} c
    Runs s 5 7 c ∧ c.work = .search r ∧ r.hands[0]? = some ({} : Hand) ∧ ({} : Hand).done = false ∧ offline s 5 = false ∧
      handsDone { r with hands := r.hands.set 0 (searchBatch (idxCfg s r.idx) (limitsOf (idxCfg s r.idx) r) (getIndex s r.idx) {}).1 } = false :=
  ⟨by constructor <;> decide, by decide, by decide, by decide, by decide, by decide +kernel⟩

/-- A sharded SEARCH whose one hand is damaged and whose one list is here. -/
def mergeCmd : Cmd :=
  { run (searchCmd 1) (.search (searchRun { damaged := true, done := true } true)) with
    subs := [{ node := 2, conn := 9, call := .releaseStep 0, answer := some (.lists 0 0 false 0 0 []) }] }

theorem witness_SearchWalksAndMerges_merge :
    Runs (onIdx {} mergeCmd) 5 7 mergeCmd ∧ mergeCmd.work = .search (searchRun { damaged := true, done := true } true) ∧
      handsDone (searchRun { damaged := true, done := true } true) = true ∧ mergeCmd.subs ≠ [] ∧ listsIn mergeCmd = true ∧
      (∀ u ∈ mergeCmd.subs, ∃ a b sk st hs, u.answer = some (.lists a b false sk st hs)) ∧
      (∃ h ∈ (searchRun { damaged := true, done := true } true).hands, h.damaged = true) :=
  ⟨by constructor <;> decide, by decide, by decide, by decide, by decide,
    fun u hu => ⟨0, 0, 0, 0, [], by simp only [mergeCmd, List.mem_singleton] at hu; rw [hu]⟩, by decide⟩

/-- INSERT that expects a count. -/
def insertCmd (expect : Nat) : Cmd := cmd 0x21 [(16, 8, expect), (24, 8, 0x1000)]

theorem witness_InsertAndDeleteDecide_insert :
    (MayAdmit (onIdx {} { insertCmd 0 with desc := desc 0x21 [(8, 4, 64)] }) 5 7 { insertCmd 0 with desc := desc 0x21 [(8, 4, 64)] } ∧
        insertStatus (onIdx {} { insertCmd 0 with desc := desc 0x21 [(8, 4, 64)] }) { insertCmd 0 with desc := desc 0x21 [(8, 4, 64)] } ≠ .ok) ∧
      (MayAdmit (onIdx {} (insertCmd 1)) 5 7 (insertCmd 1) ∧ offline (onIdx {} (insertCmd 1)) 5 = false ∧ (insertCmd 1).op = 0x21 ∧
        insertStatus (onIdx {} (insertCmd 1)) (insertCmd 1) = .ok ∧ insertOutcome (onIdx {} (insertCmd 1)) (insertCmd 1) = some (.wrongState, 0)) ∧
      (MayAdmit (onIdx {} (insertCmd (2 ^ 64 - 1))) 5 7 (insertCmd (2 ^ 64 - 1)) ∧
        insertStatus (onIdx {} (insertCmd (2 ^ 64 - 1))) (insertCmd (2 ^ 64 - 1)) = .ok ∧
        insertOutcome (onIdx {} (insertCmd (2 ^ 64 - 1))) (insertCmd (2 ^ 64 - 1)) = none ∧ isGfa (fld (insertCmd (2 ^ 64 - 1)).desc 24 8) = false) :=
  ⟨⟨by constructor <;> decide, by decide⟩, ⟨by constructor <;> decide, by decide, by decide, by decide, by decide +kernel⟩,
    by constructor <;> decide, by decide, by decide +kernel, by decide⟩

/-- DELETE of item 1 in generation 31. -/
def deleteCmd : Cmd := cmd 0x22 [(16, 8, 1 + 2 ^ 35 * 31)]

/-- The index with items 0 and 1. -/
def idxTwo : Index := { hwm := 2, items := [(0, { st := { live := true } }), (1, { st := { live := true, gen := 31 } })] }

theorem witness_InsertAndDeleteDecide_delete :
    let s := onIdx idxTwo deleteCmd
    MayAdmit s 5 7 deleteCmd ∧ deleteCmd.op = 0x22 ∧ idxCheck s deleteCmd = .ok ∧ fld deleteCmd.desc 8 4 < 64 ∧ fld deleteCmd.desc 12 4 = 0 ∧
      allZero (slice deleteCmd.desc 24 40) = true ∧ idxLost s (idxOf deleteCmd) = false ∧ fld deleteCmd.desc 16 8 = 1 + 2 ^ 35 * 31 ∧ 1 < 2 ^ 35 ∧
      31 < 32 ∧ 1 < (getIndex s (idxOf deleteCmd)).hwm ∧ (getItem (getIndex s 0) 1).st.live = true ∧ (getItem (getIndex s 0) 1).st.gen = 31 ∧
      (getItem (getIndex s 0) 1).st.delSet = false ∧ (getIndex s 0).dlog.length < dlogSize ∧ idxOf deleteCmd = 0 :=
  ⟨by constructor <;> decide, by decide, by decide, by decide, by decide, by decide, by decide, by decide, by decide, by decide, by decide, by decide,
    by decide, by decide, by decide, by decide⟩

/-- PUBLISH_EPOCH that expects an epoch. -/
def pubCmd (expect : Nat) : Cmd := cmd 0x23 [(12, 2, expect)]

/-- The publish run. -/
def pubRun : PublishRun := { idx := 0, due := 10000000, floor := none, filters := none, haveIn := true }

theorem witness_PublishMovesEpochAndSweep :
    (MayAdmit (onIdx { published := 1 } (pubCmd 0)) 5 7 (pubCmd 0) ∧ (pubCmd 0).op = 0x23 ∧ idxCheck (onIdx { published := 1 } (pubCmd 0)) (pubCmd 0) = .ok ∧
        fld (pubCmd 0).desc 8 4 < 64 ∧ allZero (slice (pubCmd 0).desc 28 36) = true ∧ idxLost (onIdx { published := 1 } (pubCmd 0)) (idxOf (pubCmd 0)) = false ∧
        pubOutcome (onIdx { published := 1 } (pubCmd 0)) (pubCmd 0) = some .ok) ∧
      (Runs (onIdx {} (run (pubCmd 0) (.publish pubRun))) 5 7 (run (pubCmd 0) (.publish pubRun)) ∧ pubRun.idx = idxOf (pubCmd 0) ∧
        publishReady (onIdx {} (run (pubCmd 0) (.publish pubRun))) pubRun = true ∧
        pubOutcome (onIdx {} (run (pubCmd 0) (.publish pubRun))) (run (pubCmd 0) (.publish pubRun)) = none) :=
  ⟨⟨by constructor <;> decide, by decide, by decide, by decide, by decide, by decide, by decide⟩, by constructor <;> decide, by decide, by decide, by decide⟩

/-- A publish that raises the floor to 1, with a search of epoch 0 under way. -/
def pubWaits : State :=
  let c := run (pubCmd 0) (.publish { pubRun with floor := some 1 })
  let q : Cmd := { run (searchCmd 1) (.search (searchRun {} true)) with rseq := 6 }
  setCmd q (onIdx { published := 1 } c)

theorem witness_PublishMovesEpochAndSweep_timeout :
    Runs pubWaits 5 7 (run (pubCmd 0) (.publish { pubRun with floor := some 1 })) ∧ floorWaits pubWaits { pubRun with floor := some 1 } = true :=
  ⟨by constructor <;> decide, by decide⟩

/-- An index with a dead entry. -/
def idxDead : Index := { idxTwo with dlog := [{ item := 1, gen := 31, del := 1, st := .dead }] }

theorem witness_PublishMovesEpochAndSweep_sweep :
    0 < 64 ∧ (idxCfg (idxOn idxDead) 0).valid = true ∧ serving (idxOn idxDead) = true ∧ ((getIndex (idxOn idxDead) 0).dlog.any fun d => d.st == .dead) = true ∧
      (getIndex (idxOn idxDead) 0).wlog.length + sweepWrites (idxCfg (idxOn idxDead) 0) (getIndex (idxOn idxDead) 0) ≤ wlogSize := by decide

end Sys2Proof.Tests
end

