-- ==== Sys2Proof/Tests/WitnessSeqs.lean ====
section
/-! SUPPORT. Witnesses: the range map, and sequences with LADLE, SEAL, MIGRATE, ATTEND and SELECT_PAGES. -/

namespace Sys2Proof.Tests

open Sys2Proof Sys2Proof.Machine

/-! ## The range map -/

/-- MAP_UPDATE of one operation. -/
def mapCmd : Cmd := cmd 0x50 [(10, 2, 1), (16, 8, 0x1000)]

theorem witness_RangeMapMovesByEpochs_update :
    serving (setCmd mapCmd on) = true ∧ MayAdmit (setCmd mapCmd on) 5 7 mapCmd ∧ mapCmd.op = 0x50 ∧ mapDescOk mapCmd = true ∧
      checkAddr (setCmd mapCmd on) mapCmd (fld mapCmd.desc 16 8) (64 * mapCount mapCmd) = .ok ∧ isGfa (fld mapCmd.desc 16 8) = false :=
  ⟨by decide, by constructor <;> decide, by decide, by decide, by decide, by decide⟩

/-- The update writes its entries. -/
def mapWriting : State :=
  { setCmd (run mapCmd .none) on with rmx := { writing := some { key := cmdKey 5 7, epoch := 1, added := 1, dying := 0 } } }

theorem witness_RangeMapMovesByEpochs_commit :
    mapWriting.rmx.writing = some { key := cmdKey 5 7, epoch := 1, added := 1, dying := 0 } ∧ getCmd mapWriting 5 7 = some (run mapCmd .none) ∧
      cmdKey 5 7 = cmdKey mapCmd.ring mapCmd.rseq ∧ (run mapCmd .none).phase = .running ∧ mapCmd.ring ≠ deckRing ∧ mapWriting.rmx.held = [] ∧
      (∀ e ∈ mapWriting.cmds, ∀ u ∈ e.2.subs, u.lost = false) ∧ serving mapWriting = true := by decide

/-- Two entries, one of them DYING, and an epoch that retires. -/
def mapped : State :=
  { on with rmx := { epoch := 1, retiring := some 1000000, ents := [(0, { key := 0, mask := 0, prio := 1 }), (65535, { dying := true, prio := 2 })] } }

theorem witness_RangeMapMovesByEpochs_retire :
    serving mapped = true ∧ mapped.rmx.retiring = some 1000000 ∧ firstUpdate mapped = none ∧ oldRefs mapped = 0 := by decide

theorem witness_RangeMapMovesByEpochs_lookup :
    servedWrite mapped 0x500028 = true ∧ isOwner mapped .pf = true ∧
      (rmxMatches mapped.rmx mapped.rmx.epoch (val64 mapped 0x500020)).head? = some (0, { key := 0, mask := 0, prio := 1 }) ∧ 0 < 65536 := by decide

/-- A lookup stands at entry 0, and 65,535 ranks after it. -/
def lookedUp : State :=
  { on with rmx := { ents := [(0, { prio := 2 }), (65535, { prio := 1 })], lkLast := some (0, { prio := 2 }) } }

theorem witness_RangeMapMovesByEpochs_step :
    servedWrite lookedUp 0x500028 = true ∧ isOwner lookedUp .pf = true ∧ lookedUp.rmx.lkEpoch = lookedUp.rmx.epoch ∧
      lookedUp.rmx.lkLast = some (0, { prio := 2 }) ∧
      (((rmxMatches lookedUp.rmx lookedUp.rmx.epoch lookedUp.rmx.lkKey).filter fun x => ranksBefore 0 { prio := 2 } x.1 x.2).head?) =
        some (65535, { prio := 1 }) ∧ 65535 < 65536 := by decide

/-! ## Sequences -/

/-- Model slot 0: one layer, one KV head, one query head in the group, D 64, PACKED8 window and retention. Partition 0 holds the sequences
0 to 15. Connection 9 to node 2 is OPEN. -/
def slotOn : State :=
  { withAct [(0x901000, 0x00010000), (0x90100C, 0x02020002), (0x901010, 0x00000100), (0xA01008, 0), (0xA0100C, 16)] on with
    rma := { conns := [(9, { state := .open_, peerNode := 2 })] } }

/-- Sequence 3 OPEN with `n` positions of stream 0. -/
def seq3 (n : Nat) : Seq := { state := .open_, len := n, streams := [{}], dirChunks := [0], hdr := 3 }

/-- A command in a state with sequence 3. -/
def onSeq (q : Seq) (c : Cmd) : State := setCmd c (setSeq 3 q slotOn)

/-- LADLE of `n` positions at `p` of sequence 3. -/
def ladleCmd (p n : Nat) : Cmd := cmd 0x18 [(8, 4, 3), (12, 4, n), (16, 8, p), (24, 8, 0x1000)]

theorem witness_LadleAppendsPositions_ends :
    (MayAdmit (onSeq (seq3 1) (ladleCmd 0 0)) 5 7 (ladleCmd 0 0) ∧ (ladleCmd 0 0).op = 0x18 ∧ ladleStatus (onSeq (seq3 1) (ladleCmd 0 0)) (ladleCmd 0 0) ≠ .ok) ∧
      (MayAdmit (onSeq (seq3 1) (ladleCmd 2 1)) 5 7 (ladleCmd 2 1) ∧ ladleStatus (onSeq (seq3 1) (ladleCmd 2 1)) (ladleCmd 2 1) = .ok ∧
        ladleCase (ladleCmd 2 1) (seq3 1) = .stop .wrongState) ∧
      (MayAdmit (onSeq (seq3 1) (ladleCmd 0 1)) 5 7 (ladleCmd 0 1) ∧ ladleStatus (onSeq (seq3 1) (ladleCmd 0 1)) (ladleCmd 0 1) = .ok ∧
        ladleCase (ladleCmd 0 1) (seq3 1) = .nothing ∧ seq3 1 = getSeq (onSeq (seq3 1) (ladleCmd 0 1)) (seqOf (ladleCmd 0 1))) :=
  ⟨⟨by constructor <;> decide, by decide, by decide⟩, ⟨by constructor <;> decide, by decide, by decide⟩,
    by constructor <;> decide, by decide, by decide, by decide⟩

theorem witness_LadleAppendsPositions_appends :
    let s := onSeq (seq3 63) (ladleCmd 63 65)
    let c := ladleCmd 63 65
    let q := getSeq s (seqOf c)
    let m := slotOf s q.mslot
    let r := ladleSegment q.len { p := ladleP c, n := ladleN c, next := 0, upto := 0 }
    MayAdmit s 5 7 c ∧ c.op = 0x18 ∧ 0 < m.streams ∧ ladleStatus s c = .ok ∧ ladleCase c q = .appends ∧ q.state ≠ .free ∧
      checkAddr s c (ladleSrc c) (posBytes m (ladleN c)) = .ok ∧ isGfa (ladlePiece m c r).1 = false ∧
      checkAddr s c (ladlePiece m c r).1 (ladlePiece m c r).2 = .ok :=
  ⟨by constructor <;> decide, by decide, by decide, by decide, by decide, by decide, by decide, by decide, by decide⟩

/-- The LADLE's last segment, one position, is read. -/
def ladleLast : LadleRun := { p := 0, n := 1, next := 0, upto := 1, have_ := true, rows := [[([0], [0])]] }

/-- The sequence with the LADLE at its turn. -/
def ladleTurn : State := onSeq { seq3 0 with ladles := [cmdKey 5 7] } (run (ladleCmd 0 1) (.ladle ladleLast))

theorem witness_LadleAppendsPositions_commit :
    let s := ladleTurn
    let c := run (ladleCmd 0 1) (.ladle ladleLast)
    let q := getSeq s (seqOf c)
    Runs s 5 7 c ∧ c.work = .ladle ladleLast ∧ myTurn s (seqOf c) (cmdKey 5 7) = true ∧ q.state = .open_ ∧ q.len = ladleLast.next ∧
      ladleLast.next < ladleLast.upto ∧ ladleLast.upto = ladleLast.p + ladleLast.n ∧ ladleLast.have_ = true ∧
      commitFree s q ladleLast.next ladleLast.upto (ladleBit c 21) = true ∧ replicaWhole q = false ∧
      missingKind s (commitKinds (slotOf s q.mslot) q ladleLast.upto) = none ∧ commitAllocates q ladleLast.upto = false :=
  ⟨by constructor <;> decide, by decide, by decide, by decide, by decide, by decide, by decide, by decide, by decide, by decide, by decide, by decide⟩

/-- SEAL of a mode. -/
def sealCmd (mode : Nat) : Cmd := cmd 0x19 [(8, 4, 3 + mode * 2 ^ 20), (16, 8, 0x1000)]

theorem witness_SealFreezesFreesReads :
    (MayAdmit (onSeq (seq3 1) (sealCmd 0)) 5 7 (sealCmd 0) ∧ (sealCmd 0).op = 0x19 ∧ seqMode (sealCmd 0) = 0 ∧
        sealStatus (onSeq (seq3 1) (sealCmd 0)) (sealCmd 0) = .ok ∧ (seq3 1).state ≠ .frozen) ∧
      (sealStatus (onSeq { seq3 1 with state := .frozen } (sealCmd 0)) (sealCmd 0) = .ok ∧ MayAdmit (onSeq { seq3 1 with state := .frozen } (sealCmd 0)) 5 7 (sealCmd 0)) ∧
      (sealStatus (onSeq {} (sealCmd 0)) (sealCmd 0) ≠ .ok ∧ MayAdmit (onSeq {} (sealCmd 0)) 5 7 (sealCmd 0)) ∧
      (MayAdmit (onSeq (seq3 1) (sealCmd 1)) 5 7 (sealCmd 1) ∧ seqMode (sealCmd 1) = 1 ∧ sealStatus (onSeq (seq3 1) (sealCmd 1)) (sealCmd 1) = .ok) ∧
      (MayAdmit (onSeq {} (sealCmd 1)) 5 7 (sealCmd 1) ∧ sealStatus (onSeq {} (sealCmd 1)) (sealCmd 1) ≠ .ok) ∧
      (MayAdmit (onSeq (seq3 1) (sealCmd 2)) 5 7 (sealCmd 2) ∧ seqMode (sealCmd 2) = 2 ∧ sealStatus (onSeq (seq3 1) (sealCmd 2)) (sealCmd 2) = .ok ∧
        liveTurns (onSeq (seq3 1) (sealCmd 2)) (seq3 1) = [] ∧
        checkAddr (onSeq (seq3 1) (sealCmd 2)) (sealCmd 2) (fld (sealCmd 2).desc 16 8) 128 = .ok ∧ isGfa (fld (sealCmd 2).desc 16 8) = false) :=
  ⟨⟨by constructor <;> decide, by decide, by decide, by decide, by decide⟩, ⟨by decide, by constructor <;> decide⟩,
    ⟨by decide, by constructor <;> decide⟩, ⟨by constructor <;> decide, by decide, by decide⟩, ⟨by constructor <;> decide, by decide⟩,
    by constructor <;> decide, by decide, by decide, by decide, by decide, by decide⟩

theorem witness_SealFreezesFreesReads_effect :
    let q := { seq3 1 with ladles := [cmdKey 5 7] }
    (Runs (onSeq q (run (sealCmd 0) .none)) 5 7 (run (sealCmd 0) .none) ∧ myTurn (onSeq q (run (sealCmd 0) .none)) 3 (cmdKey 5 7) = true ∧
        seqOf (sealCmd 0) = 3 ∧ q.state = .open_) ∧
      (Runs (onSeq q (run (sealCmd 1) .none)) 5 7 (run (sealCmd 1) .none) ∧ myTurn (onSeq q (run (sealCmd 1) .none)) 3 (cmdKey 5 7) = true ∧
        liveReaders (onSeq q (run (sealCmd 1) .none)) q = [] ∧ q.state ≠ .free ∧ q.repl ≠ 2) :=
  ⟨⟨by constructor <;> decide, by decide, by decide, by decide⟩, by constructor <;> decide, by decide, by decide, by decide, by decide⟩

/-- MIGRATE of sequence 3 to sequence 4 of node 2 over connection 9. -/
def migCmd (mode : Nat) : Cmd := cmd 0x1A [(8, 4, 3 + mode * 2 ^ 20), (12, 2, 2), (16, 4, 9), (28, 4, 4)]

theorem witness_MigrateCopiesAndSwitches_admitted :
    ∀ mode ∈ [0, 1, 2, 3], MayAdmit (onSeq (seq3 1) (migCmd mode)) 5 7 (migCmd mode) ∧ (migCmd mode).op = 0x1A ∧ seqMode (migCmd mode) = mode ∧
      migStatus (onSeq (seq3 1) (migCmd mode)) (migCmd mode) = .ok ∧ liveTurns (onSeq (seq3 1) (migCmd mode)) (seq3 1) = [] := by
  intro mode h
  simp only [List.mem_cons, List.not_mem_nil, or_false] at h
  rcases h with rfl | rfl | rfl | rfl <;> exact ⟨by constructor <;> decide, by decide, by decide, by decide, by decide⟩

/-- Sequence 3 with another LADLE at its turn. -/
def migBehind (q : Seq) (mode : Nat) : State :=
  setCmd { run (ladleCmd 0 1) .none with rseq := 6 } (onSeq { q with ladles := [cmdKey 5 6] } (migCmd mode))

theorem witness_MigrateCopiesAndSwitches_behind :
    MayAdmit (migBehind (seq3 1) 0) 5 7 (migCmd 0) ∧ migStatus (migBehind (seq3 1) 0) (migCmd 0) = .ok ∧
      liveTurns (migBehind (seq3 1) 0) (getSeq (migBehind (seq3 1) 0) 3) ≠ [] ∧ cmdKey 5 7 ∉ (getSeq (migBehind (seq3 1) 0) 3).ladles ∧
      migStatus (onSeq {} (migCmd 0)) (migCmd 0) ≠ .ok ∧ MayAdmit (onSeq {} (migCmd 0)) 5 7 (migCmd 0) :=
  ⟨by constructor <;> decide, by decide, by decide, by decide, by decide, by constructor <;> decide⟩

/-- The MIGRATE whose target has answered. -/
def migSent (mode : Nat) : Cmd :=
  { run (migCmd mode) (.migrate { mode := mode, sent := true }) with
    subs := [{ node := 2, conn := 9, call := .migratePages [], answer := some (.migrateOk 0) }] }

theorem witness_MigrateCopiesAndSwitches_switch :
    let q := { seq3 1 with ladles := [cmdKey 5 7] }
    ∀ mode ∈ [0, 1, 2, 3], Runs (onSeq q (migSent mode)) 5 7 (migSent mode) ∧ (migSent mode).work = .migrate { mode := mode, sent := true } ∧
      seqOf (migSent mode) = 3 ∧ getSeq (onSeq q (migSent mode)) 3 = q ∧ myTurn (onSeq q (migSent mode)) 3 (cmdKey 5 7) = true ∧ stateCheck q = .ok ∧
      migBusy (migSent mode) = false ∧ (∀ u ∈ (migSent mode).subs, u.answer ≠ none) ∧ seqMode (migSent mode) = mode := by
  intro q mode h
  simp only [List.mem_cons, List.not_mem_nil, or_false] at h
  rcases h with rfl | rfl | rfl | rfl <;>
    exact ⟨by constructor <;> decide, by decide, by decide, by decide, by decide, by decide, by decide, by decide, by decide⟩

/-- Sequence 3 as the replica of sequence 4 of node 2. -/
def replica3 : Seq := { seq3 1 with state := .replica, repl := 2, peerNode := 2, peerSeq := 4, peerConn := 9, homeNode := 2 }

theorem witness_PromoteAndDemoteSettle :
    MayAdmit (onSeq replica3 (migCmd 4)) 5 7 (migCmd 4) ∧ (migCmd 4).op = 0x1A ∧ seqMode (migCmd 4) = 4 ∧
      migStatus (onSeq replica3 (migCmd 4)) (migCmd 4) = .ok ∧ liveTurns (onSeq replica3 (migCmd 4)) replica3 = [] :=
  ⟨by constructor <;> decide, by decide, by decide, by decide, by decide⟩

/-- Sequence 3 in some state of a move. -/
def moved3 (q : Seq) : State := setSeq 3 q slotOn

theorem witness_PromoteAndDemoteSettle_demote :
    serving slotOn = true ∧
      (getSeq (moved3 { seq3 1 with state := .moved, oldCopies := [(0, 0)] }) 3).oldCopies ≠ [] ∧
      (∀ k ∈ (getSeq (moved3 { seq3 1 with state := .moved, oldCopies := [(0, 0)], oldReaders := [cmdKey 5 1] }) 3).oldReaders,
        isRunning (moved3 { seq3 1 with state := .moved, oldCopies := [(0, 0)], oldReaders := [cmdKey 5 1] }) k = false) ∧
      (getSeq (takeDemote 0 2 3 2 false (moved3 (seq3 1))) (3 % 2 ^ 20)).state = .open_ ∧
      (getSeq (takeDemote 0 2 3 2 false (moved3 { seq3 1 with state := .frozen })) (3 % 2 ^ 20)).state = .frozen ∧
      (getSeq (moved3 { seq3 1 with demote := some { oldHome := 2, oldSeq := 4, tries := 99 } }) 3).demote =
        some { oldHome := 2, oldSeq := 4, tries := 99 } ∧ 2 = (2#16).toNat ∧ (99 < 100) ∧
      (getSeq (moved3 { seq3 1 with demote := some { oldHome := 2, oldSeq := 4, tries := 100 } }) 3).demote =
        some { oldHome := 2, oldSeq := 4, tries := 100 } ∧ 100 ≤ 100 := by decide

/-- ATTEND of sequence 3 with NEED_LEN. -/
def attendCmd (need : Nat) : Cmd := cmd 0x10 [(8, 4, 3), (28, 1, 0xFF), (36, 4, need), (40, 8, 0x1000), (48, 8, 0x2000)]

theorem witness_AttendWorksOnItsSnapshot_checks :
    (MayAdmit (onSeq {} (attendCmd 0)) 5 7 (attendCmd 0) ∧ (attendCmd 0).op = 0x10 ∧ attendStatus (onSeq {} (attendCmd 0)) (attendCmd 0) ≠ .ok ∧
      needsLen (onSeq {} (attendCmd 0)) (attendCmd 0) = false) ∧
      (MayAdmit (onSeq { seq3 1 with state := .frozen } (attendCmd 2)) 5 7 (attendCmd 2) ∧
        attendStatus (onSeq { seq3 1 with state := .frozen } (attendCmd 2)) (attendCmd 2) = .ok ∧ (seq3 1).len < attendNeed (attendCmd 2)) ∧
      (MayAdmit (onSeq (seq3 1) (attendCmd 2)) 5 7 (attendCmd 2) ∧ attendStatus (onSeq (seq3 1) (attendCmd 2)) (attendCmd 2) = .ok ∧
        (seq3 1).state ≠ .frozen ∧ (attendCmd 2).phase = .accepted) ∧
      (getCmd (onSeq (seq3 1) { attendCmd 2 with phase := .deferred (.needLen 1000000) }) 5 7 =
        some { attendCmd 2 with phase := .deferred (.needLen 1000000) } ∧ serving (onSeq (seq3 1) (attendCmd 2)) = true) :=
  ⟨⟨by constructor <;> decide, by decide, by decide, by decide⟩, ⟨by constructor <;> decide, by decide, by decide⟩,
    ⟨by constructor <;> decide, by decide, by decide, by decide⟩, by decide, by decide⟩

theorem witness_AttendWorksOnItsSnapshot_waiting :
    let c := { attendCmd 2 with phase := .deferred (.needLen 1000000) }
    MayAdmit (onSeq {} c) 5 7 c ∧ c.op = 0x10 ∧ attendStatus (onSeq {} c) c ≠ .ok ∧ needsLen (onSeq {} c) c = true :=
  ⟨by constructor <;> decide, by decide, by decide, by decide⟩

theorem witness_AttendWorksOnItsSnapshot_admitted :
    let s := onSeq (seq3 1) (attendCmd 1)
    let c := attendCmd 1
    let r : AttendRun := { snap := seq3 1, len := 1, hooks := hookList s (fld c.desc 28 1) }
    MayAdmit s 5 7 c ∧ c.op = 0x10 ∧ seq3 1 = getSeq s (seqOf c) ∧ attendStatus s c = .ok ∧ attendNeed c ≤ (seq3 1).len ∧
      attendLate s c r = .ok ∧ isGfa (fld c.desc 40 8) = false :=
  ⟨by constructor <;> decide, by decide, by decide, by decide, by decide, by decide, by decide⟩

/-- The ATTEND on the empty snapshot, its inputs here. -/
def attendRun : AttendRun := { snap := seq3 0, len := 0, hooks := [], input := zeros 128, haveIn := true, haveKv := true, started := true }

theorem witness_AttendWorksOnItsSnapshot_merge :
    let c := run (attendCmd 0) (.attend attendRun)
    let s := onSeq (seq3 0) c
    let m := slotOf s attendRun.snap.mslot
    let k := attendSpec m c attendRun
    let srcs := (coveredStreams m c).map (fun st => leafSources s k c attendRun attendRun.snap [] st (awayParts c attendRun (k.rows * m.group) st))
    let b := attendBytes k c attendRun.input (attendHeads m c attendRun) srcs
    Runs s 5 7 c ∧ c.work = .attend attendRun ∧ attendRun.started = true ∧ (∀ u ∈ c.subs, u.answer ≠ none) ∧
      badReads k m c attendRun (getSeq s (seqOf c)) = [] ∧ (∀ l ∈ srcs, ∀ x ∈ l, x.isHurt = false) ∧ offline s 0 = false ∧ offline s 1 = false ∧
      b ≠ [] ∧ isGfa (fld c.desc 48 8) = false ∧ checkAddr s c (fld c.desc 48 8) b.length = .ok :=
  ⟨by constructor <;> decide, by decide, by decide, by decide, by decide +kernel, by decide +kernel, by decide, by decide, by decide +kernel,
    by decide, by decide +kernel⟩

/-- SELECT_PAGES of sequence 3. -/
def selCmd : Cmd := cmd 0x11 [(8, 4, 3), (24, 8, 0x1000)]

theorem witness_SelectPagesSwapsRetrievedSets :
    (MayAdmit (onSeq {} selCmd) 5 7 selCmd ∧ selCmd.op = 0x11 ∧ selectStatus (onSeq {} selCmd) selCmd ≠ .ok) ∧
      (MayAdmit (onSeq (seq3 1) selCmd) 5 7 selCmd ∧ selectStatus (onSeq (seq3 1) selCmd) selCmd = .ok ∧ (seq3 1).retrMax = 0) ∧
      (MayAdmit (onSeq { seq3 1 with retrMax := 1 } selCmd) 5 7 selCmd ∧ selectStatus (onSeq { seq3 1 with retrMax := 1 } selCmd) selCmd = .ok ∧
        ({ seq3 1 with retrMax := 1 } : Seq).retrMax ≠ 0 ∧ isGfa (fld selCmd.desc 24 8) = false) :=
  ⟨⟨by constructor <;> decide, by decide, by decide⟩, ⟨by constructor <;> decide, by decide, by decide⟩,
    by constructor <;> decide, by decide, by decide, by decide⟩

/-- A stream whose next selection is ready, and whose automatic selection may score. -/
def selStream : Stream :=
  { selQ := [{ ring := 5, rseq := 7, auto := true, len := 1, ready := true }], auto := some { ring := 5, rseq := 7, len := 1, step := 0, queries := [], ready := true } }

theorem witness_SelectPagesSwapsRetrievedSets_flip :
    let s := moved3 { seq3 1 with streams := [selStream] }
    serving s = true ∧ (getSeq s 3).streams[0]? = some selStream ∧ selStream.selQ = [{ ring := 5, rseq := 7, auto := true, len := 1, ready := true }] ∧
      (∀ k ∈ selStream.flipReaders, isRunning s k = false) ∧
      selStream.auto = some { ring := 5, rseq := 7, len := 1, step := 0, queries := [], ready := true } ∧ offline s 5 = false :=
  ⟨by decide, by decide, by decide, by decide, by decide, by decide⟩

end Sys2Proof.Tests
end

namespace Sys2Proof.Machine

open Sys2Proof

/-! ## Credit limits and replayed time flits (R207) -/

@[simp] theorem getPort_modPort (p : Nat) (g : Port → Port) (s : State) : getPort (modPort p g s) p = g (getPort s p) := by
  simp [modPort]

theorem getPort_modPort_of_ne {p k : Nat} (g : Port → Port) (s : State) (h : k ≠ p) : getPort (modPort p g s) k = getPort s k :=
  getPort_setPort_of_ne _ s h

/-- A resend leaves the credit limits alone, whether it starts, asks for a retrain or has nothing to send. -/
@[simp] theorem startResend_climit (x : Port) : (startResend x).climit = x.climit := by
  unfold startResend
  split
  · rfl
  · split <;> rfl

/-- RX_TSYNC drops the flit of a replayed block before it looks at the port. -/
theorem exec_rxTsync_replayed (q : Nat) (f : Tsync) (frac : Nat) (s : State) : exec (.rxTsync q f true frac) s = .next s := by
  change execRxTsync q f true frac s = .next s
  simp [execRxTsync]

/-- RX_LCTL on a port that carries blocks changes that port alone, and its limits as R207 has it, with or without NAK. -/
theorem exec_rxLctl_of_carries {q : Nat} {s : State} (f : Lctl) (hq : q < 6) (hc : carries (getPort s q) = true) :
    ∃ g : Port → Port, exec (.rxLctl q f) s = .next (modPort q g s) ∧
      ∀ x, (g x).climit = (x.climit.zip (f.climit.map (·.toNat))).map (fun (a, b) => if serial16Le a b then b else a) := by
  have hgo : ¬ (6 ≤ q ∨ (!carries (getPort s q)) = true) := by simp [hc, hq]
  refine ⟨_, congrArg Host.Outcome.next (if_neg hgo), fun x => ?_⟩
  by_cases hn : f.nak = true <;> simp [hn]

/-- Settles O44: a replayed TSYNC is dropped at once, and RX_LCTL is a change of one port whose limits a NAK does not touch. -/
theorem limitsOnlyMoveForward : Obligations.LimitsOnlyMoveForward := by
  intro q s
  refine ⟨fun f frac => exec_rxTsync_replayed q f frac s, fun f hq hc => ?_⟩
  obtain ⟨g, hexec, hlimits⟩ := exec_rxLctl_of_carries f hq hc
  refine ⟨modPort q g s, hexec, modPort_only q g s, ?_, fun k hk => getPort_modPort_of_ne g s hk⟩
  rw [getPort_modPort, hlimits]

end Sys2Proof.Machine

namespace Sys2Proof.Machine

open Sys2Proof

/-! ## Entering a state, and the cold reset (R13, R326, R422) -/

theorem valW_showState_of_ne {o : Nat} (s : State) (h : o ≠ 0xB00000) : valW (showState s) o = valW s o := valW_setVal_of_ne _ _ h

@[simp] theorem enterState_mgmt_st (st : NodeState) (cause w0 : Nat) (s : State) : (enterState st cause w0 s).mgmt.st = st := rfl

@[simp] theorem enterState_mgmt_prev (st : NodeState) (cause w0 : Nat) (s : State) : (enterState st cause w0 s).mgmt.prev = s.mgmt.st := rfl

@[simp] theorem enterState_clk (st : NodeState) (cause w0 : Nat) (s : State) : (enterState st cause w0 s).clk = s.clk :=
  (enterState_only st cause w0 s).clk.resolve_left (by decide)

@[simp] theorem enterState_own (st : NodeState) (cause w0 : Nat) (s : State) : (enterState st cause w0 s).own = s.own :=
  (enterState_only st cause w0 s).own.resolve_left (by decide)

@[simp] theorem enterState_host (st : NodeState) (cause w0 : Nat) (s : State) : (enterState st cause w0 s).host = s.host :=
  (enterState_only st cause w0 s).host.resolve_left (by decide)

@[simp] theorem enterState_assay (st : NodeState) (cause w0 : Nat) (s : State) : (enterState st cause w0 s).assay = s.assay :=
  (enterState_only st cause w0 s).assay.resolve_left (by decide)

@[simp] theorem enterState_sec (st : NodeState) (cause w0 : Nat) (s : State) : (enterState st cause w0 s).sec = s.sec :=
  (enterState_only st cause w0 s).sec.resolve_left (by decide)

/-- Of the pins, entering a state drives NODE_READY alone (R461). -/
@[simp] theorem enterState_pins_vin48 (st : NodeState) (cause w0 : Nat) (s : State) :
    (enterState st cause w0 s).pins.vin48 = s.pins.vin48 := by
  have hlog := (logMgmt_only 0x80 1 .ok { b0 := s.mgmt.st.code, b1 := st.code, h0 := cause, w0 := w0 } s).pins.resolve_left (by decide)
  exact (congrArg Pins.vin48 hlog :)

/-- Of the values, entering a state writes MGMT_STATE alone. -/
theorem valW_enterState_of_ne {o : Nat} (st : NodeState) (cause w0 : Nat) (s : State) (h : o ≠ 0xB00000) :
    valW (enterState st cause w0 s) o = valW s o :=
  calc valW (enterState st cause w0 s) o
      = valW (logMgmt 0x80 1 .ok { b0 := s.mgmt.st.code, b1 := st.code, h0 := cause, w0 := w0 } s) o := valW_showState_of_ne _ h
    _ = valW s o := by unfold valW; rw [(logMgmt_only _ _ _ _ s).regs.resolve_left (by decide)]

theorem valW_coldData_of_kept {o : Nat} (s : State) (h : keptOff o = true) : valW (coldData s) o = valW s o := by
  have hget : tget (coldData s).regs.val o = tget s.regs.val o := tget_tfilter_keep s.regs.val (fun o _ => keptOff o) o fun _ => h
  unfold valW
  rw [hget]

/-- SEC_ARB of classes 1 to 7, which shows the fuse counters, is kept by a cold reset. -/
theorem keptOff_fuse {c : Nat} (h1 : 1 ≤ c) (h7 : c ≤ 7) : keptOff (0xA00600 + 4 * c) = true := by
  interval_cases c <;> decide

theorem fuseSvn_coldReset (cause : Nat) (s : State) {c : Nat} (h1 : 1 ≤ c) (h7 : c ≤ 7) : fuseSvn (coldReset cause s) c = fuseSvn s c := by
  have hne : 0xA00600 + 4 * c ≠ 0xB00000 := by omega
  unfold fuseSvn valBits coldReset
  rw [valW_showState_of_ne _ hne, valW_coldData_of_kept _ (keptOff_fuse h1 h7), valW_enterState_of_ne _ _ _ _ hne]

@[simp] theorem coldReset_mgmt_stepNo (cause : Nat) (s : State) : (coldReset cause s).mgmt.stepNo = 0 := rfl

@[simp] theorem coldReset_pins_vin48 (cause : Nat) (s : State) : (coldReset cause s).pins.vin48 = s.pins.vin48 :=
  enterState_pins_vin48 .standby cause 0 s

/-- A cold reset for any cause leaves the cold state of R326. -/
theorem coldState_coldReset (cause : Nat) (s : State) : coldState s (coldReset cause s) := by
  have hfuse : ∀ c, fuseSvn (coldReset cause s) c = fuseSvn s c ∨ c = 0 ∨ 7 < c := fun c => by
    by_cases hc : 1 ≤ c ∧ c ≤ 7
    · exact .inl (fuseSvn_coldReset cause s hc.1 hc.2)
    · omega
  refine ⟨rfl, rfl, rfl, rfl, rfl, rfl, rfl, rfl, rfl, rfl, rfl, rfl, ?_, rfl, rfl, ?_, ?_, ?_, rfl, ?_, hfuse⟩ <;>
    simp [coldReset, coldData, showState]

/-! ## The loss of 48 V (R452) -/

/-- The cold state speaks of the state before it without its pins. -/
theorem coldState_of_pins {s t : State} {p : Pins} (h : coldState { s with pins := p } t) : coldState s t := h

theorem lose48_of_mainOn {s : State} (h : mainOn s = true) :
    lose48 s = coldReset 13 { s with pins := { s.pins with vin48 := false } } := if_pos h

theorem exec_vin48Dip_of_short {us mv : Nat} (s : State) (hus : us ≤ 100) (hmv : 30000 < mv) : exec (.vin48Dip us mv) s = .next s :=
  congrArg Host.Outcome.next (if_pos ⟨hus, hmv⟩)

theorem exec_vin48Dip_of_long_or_deep {us mv : Nat} (s : State) (h : 100 < us ∨ mv ≤ 30000) :
    exec (.vin48Dip us mv) s = .next (lose48 s) :=
  congrArg Host.Outcome.next (if_neg (by omega))

/-- Settles O20: within both limits the dip leaves the state; beyond one of them 48 V is lost, which with main power on is a cold reset.
The length `us` is read as the time below 40.0 V. -/
theorem shortDipIsRiddenThrough : Obligations.ShortDipIsRiddenThrough := by
  intro us mv s
  refine ⟨exec_vin48Dip_of_short s, fun hdip hon => ⟨lose48 s, exec_vin48Dip_of_long_or_deep s hdip, ?_⟩⟩
  rw [lose48_of_mainOn hon]
  exact ⟨coldState_of_pins (coldState_coldReset 13 _), coldReset_pins_vin48 13 _, coldReset_mgmt_stepNo 13 _⟩

end Sys2Proof.Machine

namespace Sys2Proof.Machine

open Sys2Proof

/-! ## Frames that leave the bytes of memory -/

/-- What changes no byte of local memory keeps its canonical form. -/
theorem OnlyIn.memOk {l : List Area} {s t : State} (h : OnlyIn l s t) (hl : Area.cells ∉ l) (hs : memOk s) : memOk t :=
  memOk_of_cells (h.cells.resolve_left hl) hs

theorem memOk_forEach {α : Type} {f : α → State → State} {l : List α} {s : State} (hf : ∀ a s, memOk s → memOk (f a s)) (hs : memOk s) :
    memOk (forEach l f s) := by
  induction l generalizing s with
  | nil => exact hs
  | cons a l ih => exact ih (hf a s hs)

theorem memOk_of_pair {α : Type} {p : α × State} {a : α} {t : State} (e : p = (a, t)) (h : memOk p.2) : memOk t := by
  subst e; exact h

theorem memOk_ite {p : Prop} [Decidable p] {a b : State} (ha : memOk a) (hb : memOk b) : memOk (if p then a else b) := by
  split <;> assumption

theorem memOk_after {r : Res} {s : State} (h : ∀ t, r = .next t → memOk t) (hs : memOk s) : memOk (after r s) := by
  unfold after
  split
  · exact h _ rfl
  · exact hs

/-- An update of the state that keeps the memory unit. -/
theorem memOk_upd {p} {x_out x_freeCnt x_clk x_regs x_own x_host x_cmds x_seqs x_shards x_parts x_retained x_mgmt x_pins x_tap x_assay x_walk x_fab x_rma x_rmx x_deck x_sec} {e : State} (h : memOk e) :
    memOk ⟨p, x_out, x_freeCnt, x_clk, x_regs, x_own, x_host, x_cmds, x_seqs, x_shards, x_parts, x_retained, x_mgmt, x_pins, x_tap, x_assay, e.mem, x_walk, x_fab, x_rma, x_rmx, x_deck, x_sec⟩ := h

/-- An update of the memory unit that keeps its bytes. -/
theorem memOk_updMem {p} {x_out x_freeCnt x_clk x_regs x_own x_host x_cmds x_seqs x_shards x_parts x_retained x_mgmt x_pins x_tap x_assay x_walk x_fab x_rma x_rmx x_deck x_sec} {y_err y_units y_owed y_imgLoaded y_switching y_finished y_scrubPos y_retiredRows y_remapOld y_auditPos y_uePkg y_column} {e : State} (h : memOk e) :
    memOk ⟨p, x_out, x_freeCnt, x_clk, x_regs, x_own, x_host, x_cmds, x_seqs, x_shards, x_parts, x_retained, x_mgmt, x_pins, x_tap, x_assay, ⟨e.mem.cells, y_err, y_units, y_owed, y_imgLoaded, y_switching, y_finished, y_scrubPos, y_retiredRows, y_remapOld, y_auditPos, y_uePkg, y_column⟩, x_walk, x_fab, x_rma, x_rmx, x_deck, x_sec⟩ := h

theorem memOk_writeSpans (r : Region) (l : List (Nat × Nat)) (bs : List Byte) {s : State} (hs : memOk s) : memOk (writeSpans r l bs s) := by
  induction l generalizing bs s with
  | nil => exact hs
  | cons e l ih =>
    refine ih _ ?_
    split
    · exact memOk_writeMem _ _ hs
    · exact (tapAdd_only ..).memOk (by decide) ((emit_only ..).memOk (by decide) hs)

/-! ## Operations with a part of their own -/

theorem memOk_admitting {ring : Nat} {rseq : BitVec 32} {pick : Cmd → Bool} {f : Cmd → State → State} {s : State}
    (hf : ∀ c s, memOk s → memOk (f c s)) (hs : memOk s) : memOk (admitting ring rseq pick f s) := by
  unfold admitting
  repeat' split
  all_goals first
    | exact hs
    | exact hf _ _ hs
    | exact (setCmd_only ..).memOk (by decide) hs
    | exact (endAtAdmission_only ..).memOk (by decide) hs

theorem memOk_useLane {u n : Nat} {x : CruUnit} {f : State → State} {s : State} (hf : ∀ s, memOk s → memOk (f s)) (hs : memOk s) :
    memOk (useLane u n x f s) := by
  unfold useLane
  repeat' split
  all_goals first | exact hf _ hs | exact (unitUncorrectable_only ..).memOk (by decide) hs

theorem memOk_request {w : Writer} {ok : NodeState → Bool} {f : State → State} {s : State} (hf : ∀ s, memOk s → memOk (f s)) (hs : memOk s) :
    memOk (request w ok f s) := by
  unfold request
  repeat' split
  all_goals first
    | exact hs
    | exact hf _ hs
    | exact (rejectWrite_only ..).memOk (by decide) hs

theorem memOk_receive {h : MsgHdr} {f : State → State} {s : State} (hf : ∀ s, memOk s → memOk (f s)) (hs : memOk s) : memOk (receive h f s) := by
  unfold receive
  dsimp only
  repeat' split
  all_goals first | exact hs | exact hf _ hs

theorem memOk_fromMaster {h : MsgHdr} {lenOk : Bool} {f : State → State} {s : State} (hf : ∀ s, memOk s → memOk (f s)) (hs : memOk s) :
    memOk (fromMaster h lenOk f s) := by
  refine memOk_receive (fun s hs => ?_) hs
  repeat' split
  all_goals first | exact hs | exact hf _ hs | exact (answer_only ..).memOk (by decide) hs

theorem memOk_rxOn {port : Nat} {cg : Cargo} {queue : Bool} {act : Nat → Cargo → State → State} {s : State}
    (hf : ∀ c cg s, memOk s → memOk (act c cg s)) (hs : memOk s) : memOk (rxOn port cg queue act s) := by
  have htake := (takeInbox_only port cg s).memOk (by decide) hs
  have harrived : ∀ c p, memOk (touchCtx c (meterRx (connPart (getConn s c)) p (takeInbox port cg s))) := fun c p =>
    (touchCtx_only ..).memOk (by decide) ((meterRx_only ..).memOk (by decide) htake)
  unfold rxOn
  extract_lets p c x s1
  repeat' split
  all_goals first
    | exact hs
    | exact (rmaCnt_only ..).memOk (by decide) htake
    | exact (parkPacket_only ..).memOk (by decide) hs
    | exact (modConn_only ..).memOk (by decide) htake
    | exact (authFail_only ..).memOk (by decide) (harrived _ _)
    | exact hf _ _ _ ((purgeRecs_only ..).memOk (by decide) (harrived _ _))

theorem memOk_keepOnce {part : Nat} {home : BitVec 16} {step : BitVec 64} {sub : Nat} {f : State → Option RespMsg × State} {s : State}
    (hf : ∀ s, memOk s → memOk (f s).2) (hs : memOk s) : memOk (keepOnce part home step sub f s).2 := by
  unfold keepOnce
  repeat' split
  all_goals first
    | exact hs
    | exact (retain_only ..).memOk (by decide) (memOk_of_pair (by assumption) (hf s hs))
    | exact hf s hs

/-! ## The functions that may write memory -/

theorem memOk_deliver (c : Cmd) (a : Nat) (bs : List Byte) (st : Status) (result : Nat) {s : State} (hs : memOk s) : memOk (deliver c a bs st result s) := by
  unfold deliver
  dsimp only
  repeat' with_reducible first
    | exact hs
    | refine memOk_forEach (fun _ _ hs => ?_) ?_
    | refine (finish_only ..).memOk (by decide) ?_
    | refine (scratchWrite_only ..).memOk (by decide) ?_
    | refine (countResolved_only ..).memOk (by decide) ?_
    | apply memOk_writeMem
    | refine (modStep_only ..).memOk (by decide) ?_
    | refine (sendCall_only ..).memOk (by decide) ?_
    | refine (setCmd_only ..).memOk (by decide) ?_
    | refine (emitC_only ..).memOk (by decide) ?_
    | refine (meterData_only ..).memOk (by decide) ?_
    | split

theorem memOk_admitRead (c : Cmd) {s : State} (hs : memOk s) : memOk (admitRead c s) := by
  unfold admitRead admitSeal
  dsimp only
  repeat' with_reducible first
    | exact hs
    | apply memOk_deliver
    | refine (setCmd_only ..).memOk (by decide) ?_
    | refine (admitCmd_only ..).memOk (by decide) ?_
    | refine (endAtAdmission_only ..).memOk (by decide) ?_
    | split

theorem memOk_execSealRead (ring : Nat) (rseq : BitVec 32) {s t' : State} (h : execSealRead ring rseq s = .next t') (hs : memOk s) : memOk t' := by
  cases h
  exact memOk_admitting (fun c _ hs => memOk_admitRead c hs) hs

theorem memOk_attendMerge (c : Cmd) (r : AttendRun) (heal : List HeldPage) (bad : List (Nat × Nat)) {s : State} (hs : memOk s) : memOk (attendMerge c r heal bad s) := by
  unfold attendMerge
  dsimp only
  repeat' with_reducible first
    | exact hs
    | refine memOk_forEach (fun _ _ hs => ?_) ?_
    | refine (faultStep_only ..).memOk (by decide) ?_
    | refine (post_only ..).memOk (by decide) ?_
    | refine (modSeq_only ..).memOk (by decide) ?_
    | refine (finish_only ..).memOk (by decide) ?_
    | refine (hurtEffect_only ..).memOk (by decide) ?_
    | refine (meter_only ..).memOk (by decide) ?_
    | apply memOk_deliver
    | split

theorem memOk_execAttendRootMerge (ring : Nat) (rseq : BitVec 32) {s t' : State} (h : execAttendRootMerge ring rseq s = .next t') (hs : memOk s) : memOk t' := by
  cases h
  dsimp only
  repeat' with_reducible first
    | exact hs
    | apply memOk_attendMerge
    | refine (askReplica_only ..).memOk (by decide) ?_
    | split

theorem memOk_storeColumns (u : Nat) (ula : Nat) (x : CruUnit) (d : List Byte) {s : State} (hs : memOk s) : memOk (storeColumns u ula x d s) := by
  unfold storeColumns
  dsimp only
  repeat' with_reducible first
    | exact hs
    | refine (programFault_only ..).memOk (by decide) ?_
    | refine (setUnit_only ..).memOk (by decide) ?_
    | apply memOk_writeMem
    | split

/-- The frame of a word that stores: a word out of order is a program fault, and only the store writes memory. -/
theorem memOk_storeRow {u form : Nat} {f : CruUnit → Word → State → State} {s t' : State} (hf : ∀ x w s, memOk s → memOk (f x w s))
    (h : storeRow u form f s = .next t') (hs : memOk s) : memOk t' := by
  cases h
  dsimp only
  repeat' split
  all_goals first | exact hs | exact hf _ _ _ hs | exact (programFault_only ..).memOk (by decide) hs

theorem memOk_execCruStoreCopy (u : Nat) {s t' : State} (h : execCruStoreCopy u s = .next t') (hs : memOk s) : memOk t' := by
  exact memOk_storeRow (fun _ _ _ hs => memOk_useLane (fun _ hs => memOk_storeColumns _ _ _ _ hs) hs) h hs

theorem memOk_execCruStoreZero (u : Nat) {s t' : State} (h : execCruStoreZero u s = .next t') (hs : memOk s) : memOk t' := by
  exact memOk_storeRow (fun _ _ _ hs => memOk_storeColumns _ _ _ _ hs) h hs

theorem memOk_execCruStoreRewrite (u : Nat) {s t' : State} (h : execCruStoreRewrite u s = .next t') (hs : memOk s) : memOk t' := by
  cases h
  dsimp only
  repeat' with_reducible first
    | exact hs
    | refine memOk_forEach (fun _ _ hs => ?_) ?_
    | refine (programFault_only ..).memOk (by decide) ?_
    | refine (setUnit_only ..).memOk (by decide) ?_
    | apply memOk_writeMem
    | refine memOk_useLane (fun _ hs => ?_) hs
    | split

theorem memOk_scrubBursts (u : Nat) (b : Nat) (n : Nat) {s : State} (hs : memOk s) : memOk (scrubBursts u b n s) := by
  unfold scrubBursts
  repeat' with_reducible first
    | exact hs
    | refine memOk_forEach (fun _ _ hs => ?_) ?_
    | refine (cntAdd_only ..).memOk (by decide) ?_
    | apply memOk_writeMem
    | refine (burstEvent_only ..).memOk (by decide) ?_
    | split

theorem memOk_execScrubLaunch (u : Nat) (granule : Nat) {s t' : State} (h : execScrubLaunch u granule s = .next t') (hs : memOk s) : memOk t' := by
  cases h
  dsimp only
  repeat' with_reducible first
    | exact hs
    | apply memOk_scrubBursts
    | split
    | refine memOk_upd ?_
    | refine memOk_updMem ?_

theorem memOk_execRowRetireCopy (unit : Nat) (src : Nat) (dst : Nat) {s t' : State} (h : execRowRetireCopy unit src dst s = .next t') (hs : memOk s) : memOk t' := by
  cases h
  dsimp only
  repeat' with_reducible first
    | exact hs
    | refine (burstEvent_only ..).memOk (by decide) ?_
    | refine (post_only ..).memOk (by decide) ?_
    | refine (cntAdd_only ..).memOk (by decide) ?_
    | apply memOk_writeMem
    | split
    | refine memOk_upd ?_
    | refine memOk_updMem ?_

theorem memOk_serveWrite (port : Nat) (c : Nat) (cg : Cargo) (o : Rest) {s : State} (hs : memOk s) : memOk (serveWrite port c cg o s) := by
  unfold serveWrite
  dsimp only
  repeat' with_reducible first
    | exact hs
    | refine (pageMiss_only ..).memOk (by decide) ?_
    | refine (reject_only ..).memOk (by decide) ?_
    | refine (advanceRx_only ..).memOk (by decide) ?_
    | apply memOk_writeSpans
    | refine (applied_only ..).memOk (by decide) ?_
    | refine (modConn_only ..).memOk (by decide) ?_
    | split

theorem memOk_answerRead (c : Nat) (p : Packet) (data : List Byte) (dup : Bool) {s : State} (hs : memOk s) : memOk (answerRead c p data dup s) := by
  unfold answerRead
  dsimp only
  repeat' with_reducible first
    | exact hs
    | refine (respondRead_only ..).memOk (by decide) ?_
    | refine (applied_only ..).memOk (by decide) ?_
    | refine (advanceRx_only ..).memOk (by decide) ?_
    | apply memOk_writeSpans
    | refine (modConn_only ..).memOk (by decide) ?_
    | refine (respondAdd_only ..).memOk (by decide) ?_
    | split

theorem memOk_serveRead (port : Nat) (c : Nat) (cg : Cargo) (dup : Bool) {s : State} (hs : memOk s) : memOk (serveRead port c cg dup s) := by
  unfold serveRead
  dsimp only
  repeat' with_reducible first
    | exact hs
    | refine (pageMiss_only ..).memOk (by decide) ?_
    | refine (answerBad_only ..).memOk (by decide) ?_
    | refine (askTarget_only ..).memOk (by decide) ?_
    | apply memOk_answerRead
    | split

theorem memOk_duplicate (port : Nat) (c : Nat) (cg : Cargo) {s : State} (hs : memOk s) : memOk (duplicate port c cg s) := by
  unfold duplicate
  dsimp only
  repeat' with_reducible first
    | exact hs
    | refine (rmaCnt_only ..).memOk (by decide) ?_
    | refine (sendAck_only ..).memOk (by decide) ?_
    | refine (respondAdd_only ..).memOk (by decide) ?_
    | apply memOk_serveRead
    | refine (ackNow_only ..).memOk (by decide) ?_
    | split

theorem memOk_rxRequest {port : Nat} {cg : Cargo} {fresh : Nat → Cargo → State → State} {s : State}
    (hf : ∀ c cg s, memOk s → memOk (fresh c cg s)) (hs : memOk s) : memOk (rxRequest port cg fresh s) := by
  refine memOk_rxOn (fun c cg s hs => ?_) hs
  extract_lets p x d
  repeat' split
  all_goals first
    | exact hs
    | exact hf _ _ _ hs
    | exact (reject_only ..).memOk (by decide) hs
    | exact (sendAck_only ..).memOk (by decide) ((rmaCnt_only ..).memOk (by decide) ((modConn_only ..).memOk (by decide) hs))
    | exact memOk_duplicate _ _ _ hs

theorem memOk_freshWrite (port : Nat) (c : Nat) (cg : Cargo) {s : State} (hs : memOk s) : memOk (freshWrite port c cg s) := by
  unfold freshWrite
  dsimp only
  repeat' with_reducible first
    | exact hs
    | refine (reject_only ..).memOk (by decide) ?_
    | apply memOk_serveWrite
    | refine (violation_only ..).memOk (by decide) ?_
    | split

theorem memOk_rxWritePkt (port : Nat) (cg : Cargo) {s : State} (hs : memOk s) : memOk (rxWritePkt port cg s) := by
  exact memOk_rxRequest (fun c cg _ hs => memOk_freshWrite port c cg hs) hs

theorem memOk_freshRead (port : Nat) (c : Nat) (cg : Cargo) {s : State} (hs : memOk s) : memOk (freshRead port c cg s) := by
  unfold freshRead
  dsimp only
  repeat' with_reducible first
    | exact hs
    | refine (reject_only ..).memOk (by decide) ?_
    | apply memOk_serveRead
    | refine (violation_only ..).memOk (by decide) ?_
    | split

theorem memOk_rxReadPkt (port : Nat) (cg : Cargo) {s : State} (hs : memOk s) : memOk (rxReadPkt port cg s) := by
  exact memOk_rxRequest (fun c cg _ hs => memOk_freshRead port c cg hs) hs

theorem memOk_opDone (c : Nat) (o : Op) (st : Status) (result : Nat) {s : State} (hs : memOk s) : memOk (opDone c o st result s) := by
  unfold opDone
  dsimp only
  repeat' with_reducible first
    | exact hs
    | refine (dropOp_only ..).memOk (by decide) ?_
    | apply memOk_deliver
    | refine (finish_only ..).memOk (by decide) ?_
    | split

theorem memOk_rxReadRespPkt (port : Nat) (cg : Cargo) {s : State} (hs : memOk s) : memOk (rxReadRespPkt port cg s) := by
  unfold rxReadRespPkt
  dsimp only
  repeat' with_reducible first
    | exact hs
    | refine (modConn_only ..).memOk (by decide) ?_
    | refine (progress_only ..).memOk (by decide) ?_
    | apply memOk_opDone
    | refine memOk_rxOn (fun _ _ _ hs => ?_) hs
    | split

theorem memOk_rxAddRespPkt (port : Nat) (cg : Cargo) {s : State} (hs : memOk s) : memOk (rxAddRespPkt port cg s) := by
  unfold rxAddRespPkt
  dsimp only
  repeat' with_reducible first
    | exact hs
    | refine (progress_only ..).memOk (by decide) ?_
    | apply memOk_opDone
    | refine memOk_rxOn (fun _ _ _ hs => ?_) hs
    | split

theorem memOk_rxSignalPkt (port : Nat) (cg : Cargo) {s : State} (hs : memOk s) : memOk (rxSignalPkt port cg s) := by
  exact memOk_rxRequest (fun _ _ _ hs => (freshSignal_only ..).memOk (by decide) hs) hs

theorem memOk_ackUpTo (c : Nat) (a : BitVec 24) {s : State} (hs : memOk s) : memOk (ackUpTo c a s) := by
  unfold ackUpTo
  dsimp only
  repeat' with_reducible first
    | exact hs
    | refine memOk_forEach (fun _ _ hs => ?_) ?_
    | refine (modConn_only ..).memOk (by decide) ?_
    | apply memOk_opDone
    | refine (progress_only ..).memOk (by decide) ?_
    | split

theorem memOk_rxAckPkt (port : Nat) (cg : Cargo) {s : State} (hs : memOk s) : memOk (rxAckPkt port cg s) := by
  unfold rxAckPkt
  repeat' with_reducible first
    | exact hs
    | apply memOk_ackUpTo
    | refine memOk_rxOn (fun _ _ _ hs => ?_) hs

theorem memOk_rxNakPkt (port : Nat) (cg : Cargo) {s : State} (hs : memOk s) : memOk (rxNakPkt port cg s) := by
  unfold rxNakPkt
  dsimp only
  repeat' with_reducible first
    | exact hs
    | refine (modConn_only ..).memOk (by decide) ?_
    | apply memOk_ackUpTo
    | refine (pump_only ..).memOk (by decide) ?_
    | refine (resendFrom_only ..).memOk (by decide) ?_
    | apply memOk_opDone
    | refine (progress_only ..).memOk (by decide) ?_
    | refine (callRefused_only ..).memOk (by decide) ?_
    | refine memOk_rxOn (fun _ _ _ hs => ?_) hs
    | split

theorem memOk_execRxWrite (port : Nat) (pkt : Packet) {s t' : State} (h : execRxWrite port pkt s = .next t') (hs : memOk s) : memOk t' := by
  cases h
  repeat' with_reducible first
    | exact hs
    | apply memOk_rxWritePkt
    | split

theorem memOk_execRxReadReq (port : Nat) (pkt : Packet) {s t' : State} (h : execRxReadReq port pkt s = .next t') (hs : memOk s) : memOk t' := by
  cases h
  repeat' with_reducible first
    | exact hs
    | apply memOk_rxReadPkt
    | split

theorem memOk_execRxReadResp (port : Nat) (pkt : Packet) {s t' : State} (h : execRxReadResp port pkt s = .next t') (hs : memOk s) : memOk t' := by
  cases h
  repeat' with_reducible first
    | exact hs
    | apply memOk_rxReadRespPkt
    | split

theorem memOk_execRxAddReq (port : Nat) (pkt : Packet) {s t' : State} (h : execRxAddReq port pkt s = .next t') (hs : memOk s) : memOk t' := by
  cases h
  repeat' with_reducible first
    | exact hs
    | apply memOk_rxReadPkt
    | split

theorem memOk_execRxAddResp (port : Nat) (pkt : Packet) {s t' : State} (h : execRxAddResp port pkt s = .next t') (hs : memOk s) : memOk t' := by
  cases h
  repeat' with_reducible first
    | exact hs
    | apply memOk_rxAddRespPkt
    | split

theorem memOk_execRxSignal (port : Nat) (pkt : Packet) {s t' : State} (h : execRxSignal port pkt s = .next t') (hs : memOk s) : memOk t' := by
  cases h
  repeat' with_reducible first
    | exact hs
    | apply memOk_rxSignalPkt
    | split

theorem memOk_execRxAck (port : Nat) (pkt : Packet) {s t' : State} (h : execRxAck port pkt s = .next t') (hs : memOk s) : memOk t' := by
  cases h
  repeat' with_reducible first
    | exact hs
    | apply memOk_rxAckPkt
    | split

theorem memOk_execRxNak (port : Nat) (pkt : Packet) {s t' : State} (h : execRxNak port pkt s = .next t') (hs : memOk s) : memOk t' := by
  cases h
  repeat' with_reducible first
    | exact hs
    | apply memOk_rxNakPkt
    | split

theorem memOk_execResendDelayExpiry (conn : Nat) {s t' : State} (h : execResendDelayExpiry conn s = .next t') (hs : memOk s) : memOk t' := by
  cases h
  dsimp only
  repeat' with_reducible first
    | exact hs
    | refine (modConn_only ..).memOk (by decide) ?_
    | refine (advanceTo_only ..).memOk (by decide) ?_
    | refine (pump_only ..).memOk (by decide) ?_
    | apply memOk_opDone
    | refine (resendFrom_only ..).memOk (by decide) ?_
    | split

theorem memOk_resumeHeld (k : Nat) (h : Held) {s : State} (hs : memOk s) : memOk (resumeHeld k h s) := by
  unfold resumeHeld
  extract_lets p s1 x again
  have hs1 : memOk s1 := by
    dsimp only [s1]
    repeat' split
    all_goals with_reducible first | exact hs | apply memOk_serveWrite; exact hs | apply memOk_serveRead; exact hs
  clear_value s1
  have hmod : ∀ g, memOk (modConn k g s1) := fun g => (modConn_only k g s1).memOk (by decide) hs1
  repeat' split
  all_goals with_reducible first
    | exact hs1
    | exact hmod _
    | exact (sendAck_only ..).memOk (by decide) ((rmaCnt_only ..).memOk (by decide) (hmod _))

theorem memOk_admitPageResume (c : Cmd) {s : State} (hs : memOk s) : memOk (admitPageResume c s) := by
  unfold admitPageResume
  dsimp only
  repeat' with_reducible first
    | exact hs
    | refine memOk_forEach (fun _ _ hs => ?_) ?_
    | refine (endAtAdmission_only ..).memOk (by decide) ?_
    | refine (finish_only ..).memOk (by decide) ?_
    | refine (admitCmd_only ..).memOk (by decide) ?_
    | apply memOk_resumeHeld
    | split

theorem memOk_execPageResume (ring : Nat) (rseq : BitVec 32) {s t' : State} (h : execPageResume ring rseq s = .next t') (hs : memOk s) : memOk t' := by
  cases h
  exact memOk_admitting (fun c _ hs => memOk_admitPageResume c hs) hs

theorem memOk_endSearch (c : Cmd) (r : SearchRun) {s : State} (hs : memOk s) : memOk (endSearch c r s) := by
  unfold endSearch
  dsimp only
  repeat' with_reducible first
    | exact hs
    | refine (finish_only ..).memOk (by decide) ?_
    | apply memOk_deliver
    | split

theorem memOk_startSearch (c : Cmd) (r : SearchRun) (qs : List (List Byte)) {s : State} (hs : memOk s) : memOk (startSearch c r qs s) := by
  unfold startSearch
  extract_lets x ix lim r1 shards subs c1 s1 s2
  have hs1 : memOk s1 := by
    dsimp only [s1]
    split
    · exact memOk_forEach (fun _ _ hs => (useFilter_only ..).memOk (by decide) hs) hs
    · exact hs
  have hs2 : memOk s2 := (sendSubs_only ..).memOk (by decide) hs1
  split
  · exact memOk_endSearch _ _ hs2
  · exact hs2

theorem memOk_searchInput (c : Cmd) (g : Got) {s : State} (hs : memOk s) : memOk (searchInput c g s) := by
  unfold searchInput
  repeat' with_reducible first
    | exact hs
    | apply memOk_startSearch
    | refine (finish_only ..).memOk (by decide) ?_
    | split

theorem memOk_admitSearch (c : Cmd) {s : State} (hs : memOk s) : memOk (admitSearch c s) := by
  unfold admitSearch
  dsimp only
  repeat' with_reducible first
    | exact hs
    | apply memOk_searchInput
    | refine memOk_of_pair (by assumption) ?_
    | refine (faultAtAdmission_only ..).memOk (by decide) ?_
    | refine (setCmd_only ..).memOk (by decide) ?_
    | refine (startRead_only ..).memOk (by decide) ?_
    | refine (admitCmd_only ..).memOk (by decide) ?_
    | refine (endAtAdmission_only ..).memOk (by decide) ?_
    | split

theorem memOk_execSearch (ring : Nat) (rseq : BitVec 32) {s t' : State} (h : execSearch ring rseq s = .next t') (hs : memOk s) : memOk t' := by
  cases h
  repeat' with_reducible first
    | exact hs
    | apply memOk_admitSearch
    | refine memOk_admitting (fun _ _ hs => ?_) hs

theorem memOk_execWalkerBatchReadDone (ring : Nat) (rseq : BitVec 32) (q : Nat) {s t' : State} (h : execWalkerBatchReadDone ring rseq q s = .next t') (hs : memOk s) : memOk t' := by
  cases h
  dsimp only
  repeat' with_reducible first
    | exact hs
    | refine (countHops_only ..).memOk (by decide) ?_
    | refine (setCmd_only ..).memOk (by decide) ?_
    | apply memOk_endSearch
    | split

theorem memOk_execSearchMerge (ring : Nat) (rseq : BitVec 32) {s t' : State} (h : execSearchMerge ring rseq s = .next t') (hs : memOk s) : memOk t' := by
  cases h
  repeat' with_reducible first
    | exact hs
    | apply memOk_endSearch
    | refine (advanceTo_only ..).memOk (by decide) ?_
    | split

theorem memOk_admitByOp (c : Cmd) {s : State} (hs : memOk s) : memOk (admitByOp c s) := by
  unfold admitByOp
  repeat' split
  all_goals with_reducible first
    | exact memOk_admitSearch c hs
    | exact memOk_admitPageResume c hs
    | exact (admitAttend_only ..).memOk (by decide) hs
    | exact (admitSelect_only ..).memOk (by decide) hs
    | exact (admitLadle_only ..).memOk (by decide) hs
    | exact (admitInsert_only ..).memOk (by decide) hs
    | exact (admitDelete_only ..).memOk (by decide) hs
    | exact (admitSignalRemote_only ..).memOk (by decide) hs
    | exact (admitSignalLocal_only ..).memOk (by decide) hs
    | exact (admitConnClose_only ..).memOk (by decide) hs
    | exact (admitMrDereg_only ..).memOk (by decide) hs
    | exact (admitRmaOp_only ..).memOk (by decide) hs
    | exact (admitBlock_only (fun _ _ _ => (connOpenInput_only ..).sub (by decide)) (by decide)).memOk (l := [.out, .freeCnt, .regs, .host, .cmds, .seqs, .mgmt, .tap, .fab, .rma, .sec, .act]) (by decide) hs
    | exact (admitBlock_only (fun _ _ _ => (mrRegInput_only ..).sub (by decide)) (by decide)).memOk (l := [.out, .freeCnt, .regs, .host, .cmds, .seqs, .mgmt, .tap, .fab, .rma, .sec, .act]) (by decide) hs

theorem memOk_execCardExec (card : Nat) {s t' : State} (h : execCardExec card s = .next t') (hs : memOk s) : memOk t' := by
  cases h
  dsimp only
  repeat' with_reducible first
    | exact hs
    | apply memOk_admitByOp
    | refine (finish_only ..).memOk (by decide) ?_
    | refine (modStep_only ..).memOk (by decide) ?_
    | refine (setCmd_only ..).memOk (by decide) ?_
    | refine (setDeck_only ..).memOk (by decide) ?_
    | refine (issueCard_only ..).memOk (by decide) ?_
    | split

theorem memOk_serveGfa (part : Nat) (step : BitVec 64) (sub : Nat) (stamp : BitVec 16) (addr : BitVec 64) (len : Nat) (write : Bool) (data : List Byte) {s : State} (hs : memOk s) : memOk (serveGfa part step sub stamp addr len write data s).2 := by
  unfold serveGfa
  dsimp only
  repeat' with_reducible first
    | exact hs
    | refine memOk_forEach (fun _ _ hs => ?_) ?_
    | refine (countResolved_only ..).memOk (by decide) ?_
    | refine (cntAdd_only ..).memOk (by decide) ?_
    | apply memOk_writeMem
    | split

theorem memOk_serveCall (port : Nat) (conn : Nat) (p : Packet) (m : CallMsg) {s : State} (hs : memOk s) : memOk (serveCall port conn p m s).2 := by
  unfold serveCall
  dsimp only
  repeat' with_reducible first
    | exact hs
    | refine memOk_forEach (fun _ _ hs => ?_) ?_
    | refine (serveAttend_only ..).memOk (by decide) ?_
    | refine (tapAdd_only ..).memOk (by decide) ?_
    | refine (cntAdd_only ..).memOk (by decide) ?_
    | refine (replicaCommit_only ..).memOk (by decide) ?_
    | refine (stepFree_only ..).memOk (by decide) ?_
    | refine (takePage_only ..).memOk (by decide) ?_
    | refine (takeSeq_only ..).memOk (by decide) ?_
    | refine (freeReplicaOf_only ..).memOk (by decide) ?_
    | refine (holdGfa_only ..).memOk (by decide) ?_
    | apply memOk_serveGfa
    | refine (releaseRecords_only ..).memOk (by decide) ?_
    | refine memOk_keepOnce (fun _ hs => ?_) hs
    | split

theorem memOk_freshCall (port : Nat) (c : Nat) (m : CallMsg) (cg : Cargo) {s : State} (hs : memOk s) : memOk (freshCall port c m cg s) := by
  unfold freshCall
  dsimp only
  repeat' with_reducible first
    | exact hs
    | refine (reject_only ..).memOk (by decide) ?_
    | apply memOk_serveCall
    | refine (applied_only ..).memOk (by decide) ?_
    | refine (sendAnswer_only ..).memOk (by decide) ?_
    | refine (advanceRx_only ..).memOk (by decide) ?_
    | split

theorem memOk_rxCallPkt (port : Nat) (cg : Cargo) {s : State} (hs : memOk s) : memOk (rxCallPkt port cg s) := by
  unfold rxCallPkt
  split
  · exact memOk_rxRequest (fun c cg _ hs => memOk_freshCall port c _ cg hs) hs
  · exact hs

theorem memOk_answerHeld (h : HeldGfa) {s : State} (hs : memOk s) : memOk (answerHeld h s) := by
  unfold answerHeld
  dsimp only
  repeat' with_reducible first
    | exact hs
    | apply memOk_serveGfa
    | refine (sendResp_only ..).memOk (by decide) ?_
    | split

theorem memOk_serveHeld  {s : State} (hs : memOk s) : memOk (serveHeld s) := by
  unfold serveHeld
  dsimp only
  repeat' with_reducible first
    | exact hs
    | refine memOk_forEach (fun _ _ hs => ?_) ?_
    | apply memOk_answerHeld
    | split
    | refine memOk_upd ?_

theorem memOk_execRxCall (port : Nat) (pkt : Packet) (m : CallMsg) {s t' : State} (h : execRxCall port pkt m s = .next t') (hs : memOk s) : memOk t' := by
  cases h
  repeat' with_reducible first
    | exact hs
    | apply memOk_rxCallPkt
    | split

theorem memOk_execMapCommit {s t' : State} (h : execMapCommit s = .next t') (hs : memOk s) : memOk t' := by
  cases h
  cases s.rmx.writing with
  | none => exact hs
  | some w =>
    dsimp only
    split
    · exact hs
    · refine (showRmx_only ..).memOk (by decide) ((replayLostGfa_only ..).memOk (by decide) (memOk_serveHeld ?_))
      split
      · exact (finish_only ..).memOk (by decide) (memOk_upd hs)
      · exact memOk_upd hs

theorem memOk_admitAttest (c : Cmd) {s : State} (hs : memOk s) : memOk (admitAttest c s) := by
  unfold admitAttest
  dsimp only
  repeat' with_reducible first
    | exact hs
    | refine (endAtAdmission_only ..).memOk (by decide) ?_
    | refine (admitCmd_only ..).memOk (by decide) ?_
    | apply memOk_deliver
    | split

theorem memOk_dbgStore (space : Nat) (a : Nat) (d : List Byte) {s : State} (hs : memOk s) : memOk (dbgStore space a d s) := by
  unfold dbgStore
  repeat' split
  all_goals first | exact hs | exact memOk_writeMem _ _ hs

theorem memOk_dbgAccess (w : Writer) (write : Bool) {s : State} (hs : memOk s) : memOk (dbgAccess w write s) := by
  unfold dbgAccess
  dsimp only
  repeat' with_reducible first
    | exact hs
    | refine memOk_forEach (fun _ _ hs => ?_) ?_
    | refine (rejectWrite_only ..).memOk (by decide) ?_
    | refine (dbgDone_only ..).memOk (by decide) ?_
    | refine (stepFree_only ..).memOk (by decide) ?_
    | refine (setValBits_only ..).memOk (by decide) ?_
    | refine (touch_only ..).memOk (by decide) ?_
    | apply memOk_dbgStore
    | refine (setVal_only ..).memOk (by decide) ?_
    | split

theorem memOk_execSecDbgRead (w : Writer) {s t' : State} (h : execSecDbgRead w s = .next t') (hs : memOk s) : memOk t' := by
  cases h
  repeat' with_reducible first
    | exact hs
    | apply memOk_dbgAccess

theorem memOk_execSecDbgWrite (w : Writer) {s t' : State} (h : execSecDbgWrite w s = .next t') (hs : memOk s) : memOk t' := by
  cases h
  repeat' with_reducible first
    | exact hs
    | apply memOk_dbgAccess

theorem memOk_execAttest (ring : Nat) (rseq : BitVec 32) {s t' : State} (h : execAttest ring rseq s = .next t') (hs : memOk s) : memOk t' := by
  cases h
  repeat' with_reducible first
    | exact hs
    | apply memOk_admitAttest
    | refine memOk_admitting (fun _ _ hs => ?_) hs

theorem memOk_execReleaseFillDone (p : Nat) (failures : Nat) {s t' : State} (h : execReleaseFillDone p failures s = .next t') (hs : memOk s) :
    memOk t' := by
  cases h
  split
  · exact hs
  · split
    · exact hs
    · extract_lets n s1
      have hs1 : memOk s1 := memOk_forEach (fun _ _ hs => (fillEvent_only ..).memOk (by decide) hs) (memOk_fillMemory _ hs)
      exact (finishRelease_only ..).memOk (by decide) hs1

theorem memOk_pkgUp (p : Nat) {s : State} (hs : memOk s) : memOk (pkgUp p s) := by
  unfold pkgUp
  extract_lets s1 m s2
  have hs1 : memOk s1 := memOk_forEach (fun _ _ hs => (setAct_only ..).memOk (by decide) hs) hs
  have hs2 : memOk s2 := wf_filter _ hs1
  split
  · exact hs
  · exact (repair_only ..).memOk (by decide) ((setPkg_only ..).memOk (by decide) hs2)

theorem memOk_pkgTarget (p : Nat) {s : State} (hs : memOk s) : memOk (pkgTarget p s) := by
  unfold pkgTarget
  repeat' with_reducible first
    | exact hs
    | apply memOk_pkgUp
    | refine (pkgDown_only ..).memOk (by decide) ?_
    | refine (setPkg_only ..).memOk (by decide) ?_
    | split

theorem memOk_execPkgRecalDone (pkg : Nat) (stored : Bool) {s t' : State} (h : execPkgRecalDone pkg stored s = .next t') (hs : memOk s) : memOk t' := by
  cases h
  dsimp only
  repeat' with_reducible first
    | exact hs
    | refine (setPkg_only ..).memOk (by decide) ?_
    | apply memOk_pkgTarget
    | split

theorem memOk_swapMgmt (old : Nat → Word) {s : State} (hs : memOk s) : memOk (swapMgmt old s) := by
  unfold swapMgmt
  dsimp only
  repeat' with_reducible first
    | exact hs
    | refine memOk_forEach (fun _ _ hs => ?_) ?_
    | apply memOk_pkgTarget
    | refine (saveConfig_only ..).memOk (by decide) ?_
    | refine (activateFw_only ..).memOk (by decide) ?_

theorem memOk_swapEffects (b : Block) (vf : Nat) (old : Nat → Word) (t : Table Word) (imgs : List RingImage) {s : State} (hs : memOk s) : memOk (swapEffects b vf old t imgs s) := by
  unfold swapEffects
  repeat' with_reducible first
    | exact hs
    | refine (showRemap_only ..).memOk (by decide) ?_
    | refine (noteSwitches_only ..).memOk (by decide) ?_
    | refine (swapHost_only ..).memOk (by decide) ?_
    | refine (swapFab_only ..).memOk (by decide) ?_
    | refine (swapRma_only ..).memOk (by decide) ?_
    | refine (swapMem_only ..).memOk (by decide) ?_
    | refine (swapWalk_only ..).memOk (by decide) ?_
    | refine (swapSec_only ..).memOk (by decide) ?_
    | apply memOk_swapMgmt
    | split

theorem memOk_execCommitSafePointSwap (b : Block) (vf : Nat) {s t' : State} (h : execCommitSafePointSwap b vf s = .next t') (hs : memOk s) :
    memOk t' := by
  cases h
  extract_lets k c
  split
  · exact hs
  · split
    · exact hs
    · refine memOk_swapEffects _ _ _ _ _ ((setCtl_only ..).memOk (by decide) ?_)
      split
      · exact (discardBlock_only ..).memOk (by decide) (memOk_upd hs)
      · exact (discardVf_only ..).memOk (by decide) (memOk_upd hs)

theorem memOk_coldData {s : State} : memOk (coldData s) := by
  rfl

theorem memOk_coldReset (cause : Nat) {s : State} (hs : memOk s) : memOk (coldReset cause s) := by
  unfold coldReset
  repeat' with_reducible first
    | exact hs
    | refine (showState_only ..).memOk (by decide) ?_
    | apply memOk_coldData

theorem memOk_reqPowerOff (w : Writer) {s : State} (hs : memOk s) : memOk (reqPowerOff w s) := by
  unfold reqPowerOff
  repeat' with_reducible first
    | exact hs
    | refine (setReq_only ..).memOk (by decide) ?_
    | apply memOk_coldReset
    | refine memOk_request (fun _ hs => ?_) hs

theorem memOk_execPowerOff (w : Writer) {s t' : State} (h : execPowerOff w s = .next t') (hs : memOk s) : memOk t' := by
  cases h
  repeat' with_reducible first
    | exact hs
    | apply memOk_reqPowerOff

theorem memOk_warmReset (w0 : Nat) {s : State} (hs : memOk s) : memOk (warmReset w0 s) := by
  unfold warmReset
  extract_lets fresh s1
  have hs1 : memOk s1 := (enterState_only ..).memOk (by decide) ((warmData_only ..).memOk (by decide) hs)
  clear_value s1
  split
  · exact (startBoot_only ..).memOk (by decide) (memOk_coldReset 12 hs)
  · exact (toStep_only ..).memOk (by decide) (memOk_upd hs1)

theorem memOk_reqWarmReset (w : Writer) {s : State} (hs : memOk s) : memOk (reqWarmReset w s) := by
  unfold reqWarmReset
  repeat' with_reducible first
    | exact hs
    | refine (setReq_only ..).memOk (by decide) ?_
    | apply memOk_warmReset
    | refine memOk_request (fun _ hs => ?_) hs

theorem memOk_execWarmReset (w : Writer) {s t' : State} (h : execWarmReset w s = .next t') (hs : memOk s) : memOk t' := by
  cases h
  repeat' with_reducible first
    | exact hs
    | apply memOk_reqWarmReset

theorem memOk_reqColdReset (w : Writer) {s : State} (hs : memOk s) : memOk (reqColdReset w s) := by
  unfold reqColdReset
  repeat' with_reducible first
    | exact hs
    | refine (setReq_only ..).memOk (by decide) ?_
    | refine (startBoot_only ..).memOk (by decide) ?_
    | apply memOk_coldReset
    | refine memOk_request (fun _ hs => ?_) hs

theorem memOk_execColdReset (w : Writer) {s t' : State} (h : execColdReset w s = .next t') (hs : memOk s) : memOk t' := by
  cases h
  repeat' with_reducible first
    | exact hs
    | apply memOk_reqColdReset

theorem memOk_reqLeaveTest (w : Writer) {s : State} (hs : memOk s) : memOk (reqLeaveTest w s) := by
  unfold reqLeaveTest
  repeat' with_reducible first
    | exact hs
    | refine (setReq_only ..).memOk (by decide) ?_
    | refine (startBoot_only ..).memOk (by decide) ?_
    | apply memOk_coldReset
    | refine (enterState_only ..).memOk (by decide) ?_
    | refine memOk_request (fun _ hs => ?_) hs
    | split

theorem memOk_execLeaveTest (w : Writer) {s t' : State} (h : execLeaveTest w s = .next t') (hs : memOk s) : memOk t' := by
  cases h
  repeat' with_reducible first
    | exact hs
    | apply memOk_reqLeaveTest

theorem memOk_railsDown (cause : Nat) {s : State} (hs : memOk s) : memOk (railsDown cause s) := by
  unfold railsDown
  repeat' with_reducible first
    | exact hs
    | apply memOk_coldReset
    | refine (toStep_only ..).memOk (by decide) ?_
    | split

theorem memOk_reqRecovery (w : Writer) {s : State} (hs : memOk s) : memOk (reqRecovery w s) := by
  unfold reqRecovery
  repeat' with_reducible first
    | exact hs
    | refine (setReq_only ..).memOk (by decide) ?_
    | refine (enterState_only ..).memOk (by decide) ?_
    | apply memOk_railsDown
    | refine memOk_request (fun _ hs => ?_) hs

theorem memOk_execRecovery (w : Writer) {s t' : State} (h : execRecovery w s = .next t') (hs : memOk s) : memOk t' := by
  cases h
  repeat' with_reducible first
    | exact hs
    | apply memOk_reqRecovery

theorem memOk_linkLost (w0 : Nat) {s : State} (hs : memOk s) : memOk (linkLost w0 s) := by
  unfold linkLost
  dsimp only
  repeat' with_reducible first
    | exact hs
    | apply memOk_warmReset
    | split
    | refine memOk_upd ?_

theorem memOk_execThermalTrip (sensor : Nat) (val : BitVec 16) {s t' : State} (h : execThermalTrip sensor val s = .next t') (hs : memOk s) : memOk t' := by
  cases h
  dsimp only
  repeat' with_reducible first
    | exact hs
    | refine (flushLog_only ..).memOk (by decide) ?_
    | refine (logMgmt_only ..).memOk (by decide) ?_
    | apply memOk_railsDown
    | refine (emit_only ..).memOk (by decide) ?_
    | split
    | refine memOk_upd ?_

theorem memOk_driveJtag  {s : State} (hs : memOk s) : memOk (driveJtag s) := by
  unfold driveJtag
  dsimp only
  repeat' with_reducible first
    | exact hs
    | apply memOk_coldData
    | refine (logMgmt_only ..).memOk (by decide) ?_
    | refine (showState_only ..).memOk (by decide) ?_
    | refine (setVal_only ..).memOk (by decide) ?_
    | split
    | refine memOk_upd ?_

theorem memOk_execJtagExtest  {s t' : State} (h : execJtagExtest s = .next t') (hs : memOk s) : memOk t' := by
  cases h
  repeat' with_reducible first
    | exact hs
    | apply memOk_driveJtag

theorem memOk_execJtagClamp  {s t' : State} (h : execJtagClamp s = .next t') (hs : memOk s) : memOk t' := by
  cases h
  repeat' with_reducible first
    | exact hs
    | apply memOk_driveJtag

theorem memOk_execJtagIntest  {s t' : State} (h : execJtagIntest s = .next t') (hs : memOk s) : memOk t' := by
  cases h
  repeat' with_reducible first
    | exact hs
    | apply memOk_driveJtag

theorem memOk_execStandbyPowerLoss  {s t' : State} (h : execStandbyPowerLoss s = .next t') (hs : memOk s) : memOk t' := by
  cases h
  dsimp only
  repeat' with_reducible first
    | exact hs
    | apply memOk_coldData
    | refine (showState_only ..).memOk (by decide) ?_
    | split
    | refine memOk_upd ?_

theorem memOk_lose48  {s : State} (hs : memOk s) : memOk (lose48 s) := by
  unfold lose48
  repeat' with_reducible first
    | exact hs
    | apply memOk_railsDown
    | split
    | refine memOk_upd ?_

theorem memOk_execMainPowerLoss  {s t' : State} (h : execMainPowerLoss s = .next t') (hs : memOk s) : memOk t' := by
  cases h
  repeat' with_reducible first
    | exact hs
    | apply memOk_lose48

theorem memOk_execVin48Dip (us : Nat) (minMv : Nat) {s t' : State} (h : execVin48Dip us minMv s = .next t') (hs : memOk s) : memOk t' := by
  cases h
  repeat' with_reducible first
    | exact hs
    | apply memOk_lose48
    | split

theorem memOk_fillAndTrain {s : State} (hs : memOk s) : memOk (fillAndTrain s) := by
  refine memOk_forEach (fun _ _ hs => (setLink_only ..).memOk (by decide) hs) ?_
  split
  · exact hs
  · exact wf_nil

theorem memOk_execBringupStepDone (res : BringupResult) (imgs : List RingImage) {s t' : State} (h : execBringupStepDone res imgs s = .next t') (hs : memOk s) : memOk t' := by
  cases h
  dsimp only
  repeat' with_reducible first
    | exact hs
    | refine (toStep_only ..).memOk (by decide) ?_
    | refine (enterState_only ..).memOk (by decide) ?_
    | apply memOk_coldReset
    | refine (trainPackages_only ..).memOk (by decide) ?_
    | refine (loadCrucibles_only ..).memOk (by decide) ?_
    | apply memOk_fillAndTrain
    | refine (finishBoot_only ..).memOk (by decide) ?_
    | split

theorem memOk_execPerstAssert  {s t' : State} (h : execPerstAssert s = .next t') (hs : memOk s) : memOk t' := by
  cases h
  dsimp only
  repeat' with_reducible first
    | exact hs
    | apply memOk_warmReset
    | split
    | refine memOk_upd ?_

theorem memOk_execPcieLinkDown (hotReset : Bool) {s t' : State} (h : execPcieLinkDown hotReset s = .next t') (hs : memOk s) : memOk t' := by
  cases h
  repeat' with_reducible first
    | exact hs
    | apply memOk_linkLost
    | split

theorem memOk_execRefclkLoss  {s t' : State} (h : execRefclkLoss s = .next t') (hs : memOk s) : memOk t' := by
  cases h
  dsimp only
  repeat' with_reducible first
    | exact hs
    | apply memOk_linkLost
    | split
    | refine memOk_upd ?_

theorem memOk_execNodeOscFailure  {s t' : State} (h : execNodeOscFailure s = .next t') (hs : memOk s) : memOk t' := by
  cases h
  dsimp only
  repeat' with_reducible first
    | exact hs
    | apply memOk_coldReset
    | split
    | refine memOk_upd ?_

theorem memOk_declareFault (k : PartKind) (inst : Nat) (cause : Nat) {s : State} (hs : memOk s) : memOk (declareFault k inst cause s) := by
  unfold declareFault
  repeat' with_reducible first
    | exact hs
    | refine (retireContext_only ..).memOk (by decide) ?_
    | refine (unitFault_only ..).memOk (by decide) ?_
    | refine (stopUnit_only ..).memOk (by decide) ?_
    | refine (linkDown_only ..).memOk (by decide) ?_
    | refine (cntAdd_only ..).memOk (by decide) ?_
    | refine (failMcc_only ..).memOk (by decide) ?_
    | refine (retireSlice_only ..).memOk (by decide) ?_
    | refine (failPackage_only ..).memOk (by decide) ?_
    | refine (losePhase_only ..).memOk (by decide) ?_
    | refine (mssStops_only ..).memOk (by decide) ?_
    | apply memOk_linkLost
    | refine (failSequencer_only ..).memOk (by decide) ?_
    | refine (failPart_only ..).memOk (by decide) ?_
    | split
    | refine memOk_upd ?_

theorem memOk_execPartFault (k : PartKind) (inst : Nat) (cause : PartCause) {s t' : State} (h : execPartFault k inst cause s = .next t') (hs : memOk s) : memOk t' := by
  cases h
  repeat' with_reducible first
    | exact hs
    | apply memOk_declareFault
    | split

theorem memOk_execPartWatchdog (k : PartKind) (inst : Nat) {s t' : State} (h : execPartWatchdog k inst s = .next t') (hs : memOk s) : memOk t' := by
  cases h
  dsimp only
  repeat' with_reducible first
    | exact hs
    | apply memOk_declareFault
    | refine (post_only ..).memOk (by decide) ?_
    | refine (cntAdd_only ..).memOk (by decide) ?_
    | split

theorem memOk_mssFails  {s : State} (hs : memOk s) : memOk (mssFails s) := by
  unfold mssFails
  dsimp only
  repeat' with_reducible first
    | exact hs
    | refine (enterState_only ..).memOk (by decide) ?_
    | apply memOk_railsDown
    | refine (drainHw_only ..).memOk (by decide) ?_
    | refine (saveConfig_only ..).memOk (by decide) ?_
    | refine (setAct_only ..).memOk (by decide) ?_
    | refine (logMgmt_only ..).memOk (by decide) ?_
    | split
    | refine memOk_upd ?_

theorem memOk_execMssRestart (started : Bool) {s t' : State} (h : execMssRestart started s = .next t') (hs : memOk s) : memOk t' := by
  cases h
  repeat' with_reducible first
    | exact hs
    | refine (mssUp_only ..).memOk (by decide) ?_
    | apply memOk_mssFails
    | split

theorem memOk_writeReq (w : Writer) (v : Nat) {s : State} (hs : memOk s) : memOk (writeReq w v s) := by
  unfold writeReq
  repeat' with_reducible first
    | exact hs
    | refine (reqPowerOn_only ..).memOk (by decide) ?_
    | apply memOk_reqPowerOff
    | apply memOk_reqWarmReset
    | apply memOk_reqColdReset
    | refine (reqEnterTest_only ..).memOk (by decide) ?_
    | apply memOk_reqLeaveTest
    | apply memOk_reqRecovery
    | refine (reqContinue_only ..).memOk (by decide) ?_
    | refine (plainWrite_only ..).memOk (by decide) ?_
    | split

theorem memOk_wordEffect (m : Nat) (off : Nat) (v : Nat) {s : State} (hs : memOk s) : memOk (wordEffect m off v s) := by
  unfold wordEffect
  dsimp only
  repeat' with_reducible first
    | exact hs
    | refine (expertAccess_only ..).memOk (by decide) ?_
    | refine (writeHb_only ..).memOk (by decide) ?_
    | refine (rejectWrite_only ..).memOk (by decide) ?_
    | refine (writePassCancel_only ..).memOk (by decide) ?_
    | refine (writePass_only ..).memOk (by decide) ?_
    | refine (writeClaim_only ..).memOk (by decide) ?_
    | apply memOk_writeReq
    | refine (plainWrite_only ..).memOk (by decide) ?_
    | refine (stepFree_only ..).memOk (by decide) ?_
    | refine (updGo_only ..).memOk (by decide) ?_
    | apply memOk_dbgAccess
    | refine (writeTraceCtl_only ..).memOk (by decide) ?_
    | refine memOk_after (fun _ h => ?_) hs
    | refine (writeCommit_only ..).memOk (by decide) ?_
    | refine (execRmxLookupGo_only ..).memOk (by decide) ?_
    | refine (execRmxLookupStep_only ..).memOk (by decide) ?_
    | exact (writeCommit_only _ _ _ _ ‹_›).memOk (by decide) hs
    | exact (execRmxLookupGo_only _ _ _ ‹_›).memOk (by decide) hs
    | exact (execRmxLookupStep_only _ _ ‹_›).memOk (by decide) hs
    | split

theorem memOk_foldlSnd {α β : Type} {f : α × State → β → α × State} (l : List β) {x : α × State} (hf : ∀ x b, memOk x.2 → memOk (f x b).2)
    (hx : memOk x.2) : memOk (l.foldl f x).2 := by
  induction l generalizing x with
  | nil => exact hx
  | cons b l ih => exact ih (hf x b hx)

theorem memOk_execMgmtWrite (h : MsgHdr) (off : BitVec 32) (data : List Byte) {s t' : State} (he : execMgmtWrite h off data s = .next t')
    (hs : memOk s) : memOk t' := by
  cases he
  refine memOk_fromMaster (fun s hs => ?_) hs
  exact (answer_only ..).memOk (by decide) (memOk_foldlSnd _ (fun _ _ hx => memOk_wordEffect _ _ _ hx) hs)

theorem memOk_admitAny (c : Cmd) {s : State} (hs : memOk s) : memOk (admitAny c s) := by
  unfold admitAny
  repeat' with_reducible first
    | exact hs
    | refine (admitFree_only ..).memOk (by decide) ?_
    | apply memOk_admitRead
    | refine (admitFreeze_only ..).memOk (by decide) ?_
    | refine (admitPromote_only ..).memOk (by decide) ?_
    | refine (admitMigrate_only ..).memOk (by decide) ?_
    | refine (admitPublish_only ..).memOk (by decide) ?_
    | refine (admitWait_only ..).memOk (by decide) ?_
    | refine (admitDeckLoad_only ..).memOk (by decide) ?_
    | refine (admitSwap_only ..).memOk (by decide) ?_
    | refine (admitMap_only ..).memOk (by decide) ?_
    | refine (admitErase_only ..).memOk (by decide) ?_
    | refine (admitImport_only ..).memOk (by decide) ?_
    | apply memOk_admitAttest
    | refine (admitRelease_only ..).memOk (by decide) ?_
    | apply memOk_admitByOp
    | split

theorem memOk_execCommandDeferredAdmit (ring : Nat) (rseq : BitVec 32) {s t' : State} (h : execCommandDeferredAdmit ring rseq s = .next t') (hs : memOk s) : memOk t' := by
  cases h
  repeat' with_reducible first
    | exact hs
    | apply memOk_admitByOp
    | apply memOk_admitAny
    | refine memOk_admitting (fun _ _ hs => ?_) hs
    | split

theorem memOk_resumeInput (c : Cmd) (g : Got) {s : State} (hs : memOk s) : memOk (resumeInput c g s) := by
  unfold resumeInput
  dsimp only
  repeat' with_reducible first
    | exact hs
    | refine (finish_only ..).memOk (by decide) ?_
    | refine (attendInput_only ..).memOk (by decide) ?_
    | refine (selectInput_only ..).memOk (by decide) ?_
    | refine (ladleInput_only ..).memOk (by decide) ?_
    | apply memOk_searchInput
    | refine (insertInput_only ..).memOk (by decide) ?_
    | refine (publishInput_only ..).memOk (by decide) ?_
    | refine (rmaWriteInput_only ..).memOk (by decide) ?_
    | refine (connOpenInput_only ..).memOk (by decide) ?_
    | refine (mrRegInput_only ..).memOk (by decide) ?_
    | refine (deckInput_only ..).memOk (by decide) ?_
    | refine (mapInput_only ..).memOk (by decide) ?_
    | refine (keyInput_only ..).memOk (by decide) ?_
    | split

theorem memOk_inputRead (ring : Nat) (rseq : BitVec 32) (r : DmaResult) {s : State} (hs : memOk s) : memOk (inputRead ring rseq r s) := by
  unfold inputRead
  dsimp only
  repeat' with_reducible first
    | exact hs
    | apply memOk_resumeInput
    | refine (meterData_only ..).memOk (by decide) ?_
    | refine (dmaFailed_only ..).memOk (by decide) ?_
    | split

theorem memOk_pieceAnswered (c : Cmd) {s : State} (hs : memOk s) : memOk (pieceAnswered c s) := by
  unfold pieceAnswered
  repeat' with_reducible first
    | exact hs
    | refine (deliverDone_only ..).memOk (by decide) ?_
    | apply memOk_resumeInput
    | split

theorem memOk_subAnswer (c : Cmd) (i : Nat) (m : RespMsg) {s : State} (hs : memOk s) : memOk (subAnswer c i m s) := by
  unfold subAnswer
  dsimp only
  repeat' with_reducible first
    | exact hs
    | refine (sendCall_only ..).memOk (by decide) ?_
    | refine (setCmd_only ..).memOk (by decide) ?_
    | refine (setAnswer_only ..).memOk (by decide) ?_
    | refine (loseSub_only ..).memOk (by decide) ?_
    | apply memOk_pieceAnswered
    | split

theorem memOk_takeResp (conn : Nat) (m : RespMsg) {s : State} (hs : memOk s) : memOk (takeResp conn m s) := by
  unfold takeResp
  dsimp only
  repeat' with_reducible first
    | exact hs
    | apply memOk_subAnswer
    | refine (replicaAck_only ..).memOk (by decide) ?_
    | refine (kindAnswer_only ..).memOk (by decide) ?_
    | split

theorem memOk_rxRespPkt (port : Nat) (cg : Cargo) {s : State} (hs : memOk s) : memOk (rxRespPkt port cg s) := by
  unfold rxRespPkt
  dsimp only
  repeat' with_reducible first
    | exact hs
    | refine (progress_only ..).memOk (by decide) ?_
    | refine (dropOp_only ..).memOk (by decide) ?_
    | apply memOk_takeResp
    | refine memOk_rxOn (fun _ _ _ hs => ?_) hs
    | split

theorem memOk_rxCargo (port : Nat) (cg : Cargo) {s : State} (hs : memOk s) : memOk (rxCargo port cg s) := by
  unfold rxCargo
  repeat' with_reducible first
    | exact hs
    | apply memOk_rxWritePkt
    | apply memOk_rxReadPkt
    | apply memOk_rxReadRespPkt
    | apply memOk_rxAddRespPkt
    | apply memOk_rxSignalPkt
    | apply memOk_rxAckPkt
    | apply memOk_rxNakPkt
    | refine (rxHoldPkt_only ..).memOk (by decide) ?_
    | refine (rxRetryPkt_only ..).memOk (by decide) ?_
    | apply memOk_rxCallPkt
    | apply memOk_rxRespPkt
    | split

theorem memOk_endTarget (conn : Nat) {s : State} (hs : memOk s) : memOk (endTarget conn s) := by
  unfold endTarget
  dsimp only
  repeat' with_reducible first
    | exact hs
    | refine memOk_forEach (fun _ _ hs => ?_) ?_
    | apply memOk_rxCargo
    | refine (modConn_only ..).memOk (by decide) ?_

theorem memOk_targetRead (conn : Nat) (r : DmaResult) {s : State} (hs : memOk s) : memOk (targetRead conn r s) := by
  unfold targetRead
  dsimp only
  repeat' with_reducible first
    | exact hs
    | refine (tapAdd_only ..).memOk (by decide) ?_
    | apply memOk_endTarget
    | apply memOk_answerRead
    | refine (modConn_only ..).memOk (by decide) ?_
    | refine (askTarget_only ..).memOk (by decide) ?_
    | refine (dmaFailed_only ..).memOk (by decide) ?_
    | refine (answerBad_only ..).memOk (by decide) ?_
    | split

theorem memOk_dmaRead (t : DmaTag) (r : DmaResult) {s : State} (hs : memOk s) : memOk (dmaRead t r s) := by
  unfold dmaRead
  repeat' with_reducible first
    | exact hs
    | refine (descRead_only ..).memOk (by decide) ?_
    | apply memOk_inputRead
    | apply memOk_targetRead
    | split

theorem memOk_execDmaReadCompletion (t : DmaTag) (r : DmaResult) {s t' : State} (h : execDmaReadCompletion t r s = .next t') (hs : memOk s) : memOk t' := by
  cases h
  repeat' with_reducible first
    | exact hs
    | apply memOk_dmaRead
    | split

theorem memOk_execDmaReadTimeout (t : DmaTag) {s t' : State} (h : execDmaReadTimeout t s = .next t') (hs : memOk s) : memOk t' := by
  cases h
  repeat' with_reducible first
    | exact hs
    | apply memOk_dmaRead
    | split

theorem memOk_execRxCallResp (port : Nat) (pkt : Packet) (m : RespMsg) {s t' : State} (h : execRxCallResp port pkt m s = .next t') (hs : memOk s) : memOk t' := by
  cases h
  repeat' with_reducible first
    | exact hs
    | apply memOk_rxRespPkt
    | split

theorem memOk_unpark (conn : Nat) (port : Nat) {s : State} (hs : memOk s) : memOk (unpark conn port s) := by
  unfold unpark
  dsimp only
  repeat' with_reducible first
    | exact hs
    | refine memOk_forEach (fun _ _ hs => ?_) ?_
    | refine (modPort_only ..).memOk (by decide) ?_
    | refine (missResume_only ..).memOk (by decide) ?_
    | apply memOk_rxCargo

theorem memOk_execContextFetchDone (conn : Nat) {s t' : State} (h : execContextFetchDone conn s = .next t') (hs : memOk s) : memOk t' := by
  cases h
  dsimp only
  repeat' with_reducible first
    | exact hs
    | refine memOk_forEach (fun _ _ hs => ?_) ?_
    | refine (touchCtx_only ..).memOk (by decide) ?_
    | refine (modConn_only ..).memOk (by decide) ?_
    | apply memOk_unpark
    | refine (pump_only ..).memOk (by decide) ?_
    | apply memOk_rxCargo
    | split

theorem memOk_redoGfa (c : Cmd) (i : Nat) {s : State} (hs : memOk s) : memOk (redoGfa c i s) := by
  unfold redoGfa
  dsimp only
  repeat' with_reducible first
    | exact hs
    | refine memOk_forEach (fun _ _ hs => ?_) ?_
    | refine (countResolved_only ..).memOk (by decide) ?_
    | refine (finish_only ..).memOk (by decide) ?_
    | apply memOk_writeMem
    | refine (sendCall_only ..).memOk (by decide) ?_
    | refine (setCmd_only ..).memOk (by decide) ?_
    | split

theorem memOk_redoSub (ring : Nat) (rseq : BitVec 32) (i : Nat) {s : State} (hs : memOk s) : memOk (redoSub ring rseq i s) := by
  unfold redoSub
  dsimp only
  repeat' with_reducible first
    | exact hs
    | refine (setCmd_only ..).memOk (by decide) ?_
    | refine (loseOn_only ..).memOk (by decide) ?_
    | refine (sendCall_only ..).memOk (by decide) ?_
    | apply memOk_redoGfa
    | split

theorem memOk_execStepReplayStart (ring : Nat) (rseq : BitVec 32) {s t' : State} (h : execStepReplayStart ring rseq s = .next t') (hs : memOk s) : memOk t' := by
  cases h
  dsimp only
  repeat' with_reducible first
    | exact hs
    | refine memOk_forEach (fun _ _ hs => ?_) ?_
    | refine (setCmd_only ..).memOk (by decide) ?_
    | refine (cntAdd_only ..).memOk (by decide) ?_
    | refine (faultStep_only ..).memOk (by decide) ?_
    | apply memOk_redoSub
    | apply memOk_pieceAnswered
    | split

/-! ## Every command -/

/-- What every command keeps: the queue behind it, and the canonical form of memory. -/
structure Kept (s t : State) : Prop where
  pending : t.pending = s.pending
  mem : memOk s → memOk t

theorem OnlyIn.kept {l : List Area} {s t : State} (h : OnlyIn l s t) (hl : Area.cells ∉ l) : Kept s t := ⟨h.pending, h.memOk hl⟩

/-- Every command keeps the queue and the canonical form: those that write no memory by their frame, the others by their own lemma. -/
theorem exec_kept {i : Instr} {s t : State} (h : exec i s = .next t) : Kept s t := by
  cases i with
  | registerWrite => exact (execRegisterWrite_only _ _ _ _ _ h).kept (by decide)
  | castCommit => exact (execCastCommit_only _ _ _ h).kept (by decide)
  | tileCommit => exact (execTileCommit_only _ _ _ h).kept (by decide)
  | walkCommit => exact (execWalkCommit_only _ _ _ h).kept (by decide)
  | hostCommit => exact (execHostCommit_only _ _ _ _ h).kept (by decide)
  | vfCommit => exact (execVfCommit_only _ _ _ _ h).kept (by decide)
  | secCommit => exact (execSecCommit_only _ _ _ h).kept (by decide)
  | fabCommit => exact (execFabCommit_only _ _ _ h).kept (by decide)
  | rmaCommit => exact (execRmaCommit_only _ _ _ h).kept (by decide)
  | memCommit => exact (execMemCommit_only _ _ _ h).kept (by decide)
  | deckCommit => exact (execDeckCommit_only _ _ _ h).kept (by decide)
  | nodeCommit => exact (execNodeCommit_only _ _ _ h).kept (by decide)
  | mgmtCommit => exact (execMgmtCommit_only _ _ _ h).kept (by decide)
  | commitDiscard => exact (execCommitDiscard_only _ _ _ h).kept (by decide)
  | commitSafePointSwap => exact ⟨(execCommitSafePointSwap_only _ _ _ h).pending, memOk_execCommitSafePointSwap _ _ h⟩
  | remapSwitch => exact (execRemapSwitch_only _ _ _ h).kept (by decide)
  | crucibleImageLoad => exact (execCrucibleImageLoad_only _ _ _ h).kept (by decide)
  | microcodeFenceLoad => exact (execMicrocodeFenceLoad_only _ _ _ h).kept (by decide)
  | doorbellSqTail => exact (execDoorbellSqTail_only _ _ _ h).kept (by decide)
  | doorbellCqHead => exact (execDoorbellCqHead_only _ _ _ h).kept (by decide)
  | doorbellEventRing => exact (execDoorbellEventRing_only _ _ _ h).kept (by decide)
  | descriptorAccept => exact (execDescriptorAccept_only _ _ h).kept (by decide)
  | commandDeferredAdmit => exact ⟨(execCommandDeferredAdmit_only _ _ _ h).pending, memOk_execCommandDeferredAdmit _ _ h⟩
  | completionWrite => exact (execCompletionWrite_only _ _ h).kept (by decide)
  | interruptCoalTimeout => exact (execInterruptCoalTimeout_only _ _ h).kept (by decide)
  | dmaReadCompletion => exact ⟨(execDmaReadCompletion_only _ _ _ h).pending, memOk_execDmaReadCompletion _ _ h⟩
  | dmaReadTimeout => exact ⟨(execDmaReadTimeout_only _ _ h).pending, memOk_execDmaReadTimeout _ h⟩
  | dmaWriteFailure => exact (execDmaWriteFailure_only _ _ h).kept (by decide)
  | nodeOwnClaim w addr cred => exact (execNodeOwnClaim_only w addr cred _ h).kept (by decide)
  | claimWindowClose => exact (execClaimWindowClose_only _ h).kept (by decide)
  | nodeOwnHb => exact (execNodeOwnHb_only _ _ h).kept (by decide)
  | nodeOwnPass => exact (execNodeOwnPass_only _ _ _ h).kept (by decide)
  | nodeOwnPassCancel => exact (execNodeOwnPassCancel_only _ _ h).kept (by decide)
  | ownerLeaseLapse => exact (execOwnerLeaseLapse_only _ h).kept (by decide)
  | passTimeout => exact (execPassTimeout_only _ h).kept (by decide)
  | secChallengeRefresh => exact (execSecChallengeRefresh_only _ h).kept (by decide)
  | secDbgRead => exact ⟨(execSecDbgRead_only _ _ h).pending, memOk_execSecDbgRead _ h⟩
  | secDbgWrite => exact ⟨(execSecDbgWrite_only _ _ h).pending, memOk_execSecDbgWrite _ h⟩
  | secTraceCtlWrite => exact (execSecTraceCtlWrite_only _ _ _ h).kept (by decide)
  | expertWindowAccess => exact (execExpertWindowAccess_only _ _ _ _ h).kept (by decide)
  | rmxLookupGo => exact (execRmxLookupGo_only _ _ _ h).kept (by decide)
  | rmxLookupStep => exact (execRmxLookupStep_only _ _ h).kept (by decide)
  | powerOn => exact (execPowerOn_only _ _ h).kept (by decide)
  | powerOff => exact ⟨(execPowerOff_only _ _ h).pending, memOk_execPowerOff _ h⟩
  | warmReset => exact ⟨(execWarmReset_only _ _ h).pending, memOk_execWarmReset _ h⟩
  | coldReset => exact ⟨(execColdReset_only _ _ h).pending, memOk_execColdReset _ h⟩
  | enterTest => exact (execEnterTest_only _ _ h).kept (by decide)
  | leaveTest => exact ⟨(execLeaveTest_only _ _ h).pending, memOk_execLeaveTest _ h⟩
  | recovery => exact ⟨(execRecovery_only _ _ h).pending, memOk_execRecovery _ h⟩
  | continueReq => exact (execContinueReq_only _ _ h).kept (by decide)
  | mgmtUpdGo => exact (execMgmtUpdGo_only _ _ _ _ h).kept (by decide)
  | mgmtUpdateDone => exact (execMgmtUpdateDone_only _ _ h).kept (by decide)
  | mssRestart => exact ⟨(execMssRestart_only _ _ h).pending, memOk_execMssRestart _ h⟩
  | pkgRecalDone => exact ⟨(execPkgRecalDone_only _ _ _ h).pending, memOk_execPkgRecalDone _ _ h⟩
  | ladle => exact (execLadle_only _ _ _ h).kept (by decide)
  | ladleCommit => exact (execLadleCommit_only _ _ _ h).kept (by decide)
  | attendNeedLenTimeout => exact (execAttendNeedLenTimeout_only _ _ _ h).kept (by decide)
  | sealFreeze => exact (execSealFreeze_only _ _ _ h).kept (by decide)
  | sealFree => exact (execSealFree_only _ _ _ h).kept (by decide)
  | sealRead => exact ⟨(execSealRead_only _ _ _ h).pending, memOk_execSealRead _ _ h⟩
  | sealFreezeEffect => exact (execSealFreezeEffect_only _ _ _ h).kept (by decide)
  | sealFreeEffect => exact (execSealFreeEffect_only _ _ _ h).kept (by decide)
  | migrateMoveHome => exact (execMigrateMoveHome_only _ _ _ h).kept (by decide)
  | migrateReplicate => exact (execMigrateReplicate_only _ _ _ h).kept (by decide)
  | migrateShardOut => exact (execMigrateShardOut_only _ _ _ h).kept (by decide)
  | migrateShardIn => exact (execMigrateShardIn_only _ _ _ h).kept (by decide)
  | migratePromote => exact (execMigratePromote_only _ _ _ h).kept (by decide)
  | migrateSwitch => exact (execMigrateSwitch_only _ _ _ h).kept (by decide)
  | oldCopyFree => exact (execOldCopyFree_only _ _ h).kept (by decide)
  | attend => exact (execAttend_only _ _ _ h).kept (by decide)
  | attendRootMerge => exact ⟨(execAttendRootMerge_only _ _ _ h).pending, memOk_execAttendRootMerge _ _ h⟩
  | autoSelection => exact (execAutoSelection_only _ _ _ h).kept (by decide)
  | selectPages => exact (execSelectPages_only _ _ _ h).kept (by decide)
  | selectFlip => exact (execSelectFlip_only _ _ _ h).kept (by decide)
  | search => exact ⟨(execSearch_only _ _ _ h).pending, memOk_execSearch _ _ h⟩
  | walkerBatchReadDone => exact ⟨(execWalkerBatchReadDone_only _ _ _ _ h).pending, memOk_execWalkerBatchReadDone _ _ _ h⟩
  | searchMerge => exact ⟨(execSearchMerge_only _ _ _ h).pending, memOk_execSearchMerge _ _ h⟩
  | insert => exact (execInsert_only _ _ _ h).kept (by decide)
  | delete => exact (execDelete_only _ _ _ h).kept (by decide)
  | publishEpoch => exact (execPublishEpoch_only _ _ _ h).kept (by decide)
  | publishCommit => exact (execPublishCommit_only _ _ _ h).kept (by decide)
  | publishFloorTimeout => exact (execPublishFloorTimeout_only _ _ _ h).kept (by decide)
  | slagSweep => exact (execSlagSweep_only _ _ h).kept (by decide)
  | rmaRead => exact (execRmaRead_only _ _ _ h).kept (by decide)
  | rmaWrite => exact (execRmaWrite_only _ _ _ h).kept (by decide)
  | rmaAdd => exact (execRmaAdd_only _ _ _ h).kept (by decide)
  | connOpen => exact (execConnOpen_only _ _ _ h).kept (by decide)
  | connClose => exact (execConnClose_only _ _ _ h).kept (by decide)
  | connCloseDone => exact (execConnCloseDone_only _ _ h).kept (by decide)
  | mrReg => exact (execMrReg_only _ _ _ h).kept (by decide)
  | mrDereg => exact (execMrDereg_only _ _ _ h).kept (by decide)
  | mrDeregDone => exact (execMrDeregDone_only _ _ _ h).kept (by decide)
  | pageResume => exact ⟨(execPageResume_only _ _ _ h).pending, memOk_execPageResume _ _ h⟩
  | signalLocal => exact (execSignalLocal_only _ _ _ h).kept (by decide)
  | signalRemote => exact (execSignalRemote_only _ _ _ h).kept (by decide)
  | wait => exact (execWait_only _ _ _ h).kept (by decide)
  | waitTimeout => exact (execWaitTimeout_only _ _ _ h).kept (by decide)
  | deckLoad => exact (execDeckLoad_only _ _ _ h).kept (by decide)
  | deckSwap => exact (execDeckSwap_only _ _ _ h).kept (by decide)
  | deckSwapStop => exact (execDeckSwapStop_only _ _ _ h).kept (by decide)
  | deckSwapRestart => exact (execDeckSwapRestart_only _ _ _ h).kept (by decide)
  | deckStart => exact (execDeckStart_only _ h).kept (by decide)
  | roundBoundary => exact (execRoundBoundary_only _ _ h).kept (by decide)
  | cardExec => exact ⟨(execCardExec_only _ _ h).pending, memOk_execCardExec _ h⟩
  | cardHold => exact (execCardHold_only _ _ h).kept (by decide)
  | cardSend => exact (execCardSend_only _ _ h).kept (by decide)
  | cardRecv => exact (execCardRecv_only _ _ h).kept (by decide)
  | cardPost => exact (execCardPost_only _ _ h).kept (by decide)
  | cardCheck => exact (execCardCheck_only _ _ h).kept (by decide)
  | cardWait => exact (execCardWait_only _ _ h).kept (by decide)
  | cardRelease => exact (execCardRelease_only _ _ h).kept (by decide)
  | loanThreshold => exact (execLoanThreshold_only _ _ h).kept (by decide)
  | cardSpanEnd => exact (execCardSpanEnd_only _ _ _ h).kept (by decide)
  | noticeTake => exact (execNoticeTake_only _ h).kept (by decide)
  | stepRelease => exact (execStepRelease_only _ _ h).kept (by decide)
  | marginReading => exact (execMarginReading_only _ _ h).kept (by decide)
  | mapUpdate => exact (execMapUpdate_only _ _ _ h).kept (by decide)
  | mapCommit => exact ⟨(execMapCommit_only _ h).pending, memOk_execMapCommit h⟩
  | epochRetire => exact (execEpochRetire_only _ h).kept (by decide)
  | epochForcedRetire => exact (execEpochForcedRetire_only _ h).kept (by decide)
  | stampHoldTimeout => exact (execStampHoldTimeout_only _ _ h).kept (by decide)
  | keyImportFabric => exact (execKeyImportFabric_only _ _ _ h).kept (by decide)
  | keyImportWindow => exact (execKeyImportWindow_only _ _ _ h).kept (by decide)
  | keyErase => exact (execKeyErase_only _ _ _ h).kept (by decide)
  | attest => exact ⟨(execAttest_only _ _ _ h).pending, memOk_execAttest _ _ h⟩
  | release => exact (execRelease_only _ _ _ h).kept (by decide)
  | releaseProceed => exact (execReleaseProceed_only _ _ h).kept (by decide)
  | releaseFillDone => exact ⟨(execReleaseFillDone_only _ _ _ h).pending, memOk_execReleaseFillDone _ _ h⟩
  | rxWrite => exact ⟨(execRxWrite_only _ _ _ h).pending, memOk_execRxWrite _ _ h⟩
  | rxReadReq => exact ⟨(execRxReadReq_only _ _ _ h).pending, memOk_execRxReadReq _ _ h⟩
  | rxReadResp => exact ⟨(execRxReadResp_only _ _ _ h).pending, memOk_execRxReadResp _ _ h⟩
  | rxAddReq => exact ⟨(execRxAddReq_only _ _ _ h).pending, memOk_execRxAddReq _ _ h⟩
  | rxAddResp => exact ⟨(execRxAddResp_only _ _ _ h).pending, memOk_execRxAddResp _ _ h⟩
  | rxSignal => exact ⟨(execRxSignal_only _ _ _ h).pending, memOk_execRxSignal _ _ h⟩
  | rxAck => exact ⟨(execRxAck_only _ _ _ h).pending, memOk_execRxAck _ _ h⟩
  | rxNak => exact ⟨(execRxNak_only _ _ _ h).pending, memOk_execRxNak _ _ h⟩
  | rxHold => exact (execRxHold_only _ _ _ h).kept (by decide)
  | rxRetryAfter => exact (execRxRetryAfter_only _ _ _ h).kept (by decide)
  | rxCall => exact ⟨(execRxCall_only _ _ _ _ h).pending, memOk_execRxCall _ _ _ h⟩
  | rxCallResp => exact ⟨(execRxCallResp_only _ _ _ _ h).pending, memOk_execRxCallResp _ _ _ h⟩
  | rxNotice => exact (execRxNotice_only _ _ _ h).kept (by decide)
  | rxDemote => exact (execRxDemote_only _ _ _ _ _ h).kept (by decide)
  | rxDemoteAck => exact (execRxDemoteAck_only _ _ _ _ _ h).kept (by decide)
  | contextFetchDone => exact ⟨(execContextFetchDone_only _ _ h).pending, memOk_execContextFetchDone _ h⟩
  | ackDelayTimeout => exact (execAckDelayTimeout_only _ _ h).kept (by decide)
  | retransmitTimeout => exact (execRetransmitTimeout_only _ _ h).kept (by decide)
  | holdRepeatTimer => exact (execHoldRepeatTimer_only _ _ h).kept (by decide)
  | stallLimitExpiry => exact (execStallLimitExpiry_only _ _ h).kept (by decide)
  | resendDelayExpiry => exact ⟨(execResendDelayExpiry_only _ _ h).pending, memOk_execResendDelayExpiry _ h⟩
  | demoteRepeatTimer => exact (execDemoteRepeatTimer_only _ _ h).kept (by decide)
  | retentionExpiry => exact (execRetentionExpiry_only _ _ _ _ h).kept (by decide)
  | retentionBusyRetry => exact (execRetentionBusyRetry_only _ _ _ _ h).kept (by decide)
  | blockReceive => exact (execBlockReceive_only _ _ _ h).kept (by decide)
  | alignmentBlockReceive => exact (execAlignmentBlockReceive_only _ _ _ h).kept (by decide)
  | blockTransmit => exact (execBlockTransmit_only _ _ h).kept (by decide)
  | rxLctl => exact (execRxLctl_only _ _ _ h).kept (by decide)
  | rxTsync => exact (execRxTsync_only _ _ _ _ _ h).kept (by decide)
  | rxCap => exact (execRxCap_only _ _ _ h).kept (by decide)
  | rxRetrain => exact (execRxRetrain_only _ _ h).kept (by decide)
  | replayAckTimeout => exact (execReplayAckTimeout_only _ _ h).kept (by decide)
  | signalDetect => exact (execSignalDetect_only _ _ h).kept (by decide)
  | trainLowDone => exact (execTrainLowDone_only _ _ _ h).kept (by decide)
  | trainHighDone => exact (execTrainHighDone_only _ _ _ h).kept (by decide)
  | creditExchangeDone => exact (execCreditExchangeDone_only _ _ _ h).kept (by decide)
  | retrainDone => exact (execRetrainDone_only _ _ _ _ _ h).kept (by decide)
  | laneFailure => exact (execLaneFailure_only _ _ _ h).kept (by decide)
  | tsyncDue => exact (execTsyncDue_only _ h).kept (by decide)
  | holdoverEnter => exact (execHoldoverEnter_only _ h).kept (by decide)
  | timeLost => exact (execTimeLost_only _ h).kept (by decide)
  | ptpMessage => exact (execPtpMessage_only _ _ _ h).kept (by decide)
  | partFault => exact ⟨(execPartFault_only _ _ _ _ h).pending, memOk_execPartFault _ _ _ h⟩
  | jokerSwitchDone => exact (execJokerSwitchDone_only _ _ _ h).kept (by decide)
  | stepReplayStart => exact ⟨(execStepReplayStart_only _ _ _ h).pending, memOk_execStepReplayStart _ _ h⟩
  | partWatchdog => exact ⟨(execPartWatchdog_only _ _ _ h).pending, memOk_execPartWatchdog _ _ h⟩
  | stepWatchdog => exact (execStepWatchdog_only _ _ _ h).kept (by decide)
  | waitWatchdog => exact (execWaitWatchdog_only _ _ _ h).kept (by decide)
  | sharedBufferEccError => exact (execSharedBufferEccError_only _ _ _ h).kept (by decide)
  | ueBurst => exact (execUeBurst_only _ _ _ h).kept (by decide)
  | rowRetireCopy => exact ⟨(execRowRetireCopy_only _ _ _ _ h).pending, memOk_execRowRetireCopy _ _ _ h⟩
  | packageFault => exact (execPackageFault_only _ _ h).kept (by decide)
  | mccFault => exact (execMccFault_only _ _ h).kept (by decide)
  | powerPhaseLoss => exact (execPowerPhaseLoss_only _ h).kept (by decide)
  | mssWatchdog => exact (execMssWatchdog_only _ h).kept (by decide)
  | crw => exact (execCrw_only _ _ _ _ _ h).kept (by decide)
  | crucibleGo => exact (execCrucibleGo_only _ _ _ h).kept (by decide)
  | crucibleAbort => exact (execCrucibleAbort_only _ _ h).kept (by decide)
  | crucibleSuspend => exact (execCrucibleSuspend_only _ _ h).kept (by decide)
  | crr => exact (execCrr_only _ _ _ _ h).kept (by decide)
  | opw => exact (execOpw_only _ _ _ _ _ _ h).kept (by decide)
  | rbr => exact (execRbr_only _ _ _ _ _ h).kept (by decide)
  | imw => exact (execImw_only _ _ _ _ _ h).kept (by decide)
  | cruStop => exact (execCruStop_only _ _ h).kept (by decide)
  | cruYield => exact (execCruYield_only _ _ h).kept (by decide)
  | yieldRelease => exact (execYieldRelease_only _ _ h).kept (by decide)
  | cruSeti => exact (execCruSeti_only _ _ h).kept (by decide)
  | cruAddi => exact (execCruAddi_only _ _ h).kept (by decide)
  | cruAdd => exact (execCruAdd_only _ _ h).kept (by decide)
  | cruLoop => exact (execCruLoop_only _ _ h).kept (by decide)
  | cruJump => exact (execCruJump_only _ _ h).kept (by decide)
  | cruBz => exact (execCruBz_only _ _ h).kept (by decide)
  | cruRstr => exact (execCruRstr_only _ _ h).kept (by decide)
  | cruLds => exact (execCruLds_only _ _ h).kept (by decide)
  | cruDot => exact (execCruDot_only _ _ h).kept (by decide)
  | cruAcc => exact (execCruAcc_only _ _ h).kept (by decide)
  | cruScale => exact (execCruScale_only _ _ h).kept (by decide)
  | cruHook => exact (execCruHook_only _ _ h).kept (by decide)
  | cruCsel => exact (execCruCsel_only _ _ h).kept (by decide)
  | cruMax => exact (execCruMax_only _ _ h).kept (by decide)
  | cruExp2 => exact (execCruExp2_only _ _ h).kept (by decide)
  | cruStoreResult => exact (execCruStoreResult_only _ _ h).kept (by decide)
  | cruStoreCopy => exact ⟨(execCruStoreCopy_only _ _ h).pending, memOk_execCruStoreCopy _ h⟩
  | cruStoreZero => exact ⟨(execCruStoreZero_only _ _ h).pending, memOk_execCruStoreZero _ h⟩
  | cruStoreRewrite => exact ⟨(execCruStoreRewrite_only _ _ h).pending, memOk_execCruStoreRewrite _ h⟩
  | cruSscore => exact (execCruSscore_only _ _ h).kept (by decide)
  | cruPost => exact (execCruPost_only _ _ h).kept (by decide)
  | cruResultRead => exact (execCruResultRead_only _ _ h).kept (by decide)
  | cruStallTimeout => exact (execCruStallTimeout_only _ _ h).kept (by decide)
  | cruClockBound => exact (execCruClockBound_only _ _ h).kept (by decide)
  | refreshDue => exact (execRefreshDue_only _ _ _ h).kept (by decide)
  | cruRowBoundarySuspend => exact (execCruRowBoundarySuspend_only _ _ h).kept (by decide)
  | cruSuspendResume => exact (execCruSuspendResume_only _ _ h).kept (by decide)
  | scrubLaunch => exact ⟨(execScrubLaunch_only _ _ _ h).pending, memOk_execScrubLaunch _ _ h⟩
  | castAuditPiece => exact (execCastAuditPiece_only _ h).kept (by decide)
  | retrainingPiece => exact (execRetrainingPiece_only _ _ _ h).kept (by decide)
  | telemetrySample => exact (execTelemetrySample_only _ _ h).kept (by decide)
  | thermalTrip => exact ⟨(execThermalTrip_only _ _ _ h).pending, memOk_execThermalTrip _ _ h⟩
  | eventLogFlush => exact (execEventLogFlush_only _ h).kept (by decide)
  | tapFlush => exact (execTapFlush_only _ h).kept (by decide)
  | meteringResume => exact (execMeteringResume_only _ h).kept (by decide)
  | assayRxCount => exact (execAssayRxCount_only _ h).kept (by decide)
  | assayRxLevel => exact (execAssayRxLevel_only _ _ h).kept (by decide)
  | assayRxOpen => exact (execAssayRxOpen_only _ _ h).kept (by decide)
  | assayRxClose => exact (execAssayRxClose_only _ h).kept (by decide)
  | assayRxHalt => exact (execAssayRxHalt_only _ h).kept (by decide)
  | assayRxResume => exact (execAssayRxResume_only _ h).kept (by decide)
  | assayRxRestart => exact (execAssayRxRestart_only _ _ h).kept (by decide)
  | assayHeartbeatLoss => exact (execAssayHeartbeatLoss_only _ h).kept (by decide)
  | assayReadyChange => exact (execAssayReadyChange_only _ _ h).kept (by decide)
  | assayPeriodicStatement => exact (execAssayPeriodicStatement_only _ h).kept (by decide)
  | assayNvmSave => exact (execAssayNvmSave_only _ h).kept (by decide)
  | assaySealBreach => exact (execAssaySealBreach_only _ h).kept (by decide)
  | getStatement => exact (execGetStatement_only _ _ h).kept (by decide)
  | getByAseq => exact (execGetByAseq_only _ _ h).kept (by decide)
  | getCert => exact (execGetCert_only _ h).kept (by decide)
  | getStatus => exact (execGetStatus_only _ h).kept (by decide)
  | patchChunk => exact (execPatchChunk_only _ _ _ h).kept (by decide)
  | patchCommit => exact (execPatchCommit_only _ _ h).kept (by decide)
  | assayPatchRestart => exact (execAssayPatchRestart_only _ h).kept (by decide)
  | assaySetEndpointId => exact (execAssaySetEndpointId_only _ _ h).kept (by decide)
  | assayGetEndpointId => exact (execAssayGetEndpointId_only _ h).kept (by decide)
  | assayGetMctpVersion => exact (execAssayGetMctpVersion_only _ h).kept (by decide)
  | assayGetMessageTypes => exact (execAssayGetMessageTypes_only _ h).kept (by decide)
  | setEndpointId => exact (execSetEndpointId_only _ _ h).kept (by decide)
  | getEndpointId => exact (execGetEndpointId_only _ h).kept (by decide)
  | getMctpVersionSupport => exact (execGetMctpVersionSupport_only _ h).kept (by decide)
  | getMessageTypeSupport => exact (execGetMessageTypeSupport_only _ h).kept (by decide)
  | mgmtOpen => exact (execMgmtOpen_only _ _ _ h).kept (by decide)
  | mgmtClose => exact (execMgmtClose_only _ _ h).kept (by decide)
  | mgmtRead => exact (execMgmtRead_only _ _ _ _ h).kept (by decide)
  | mgmtWrite => exact ⟨(execMgmtWrite_only _ _ _ _ h).pending, memOk_execMgmtWrite _ _ _ h⟩
  | mgmtClaim => exact (execMgmtClaim_only _ _ _ h).kept (by decide)
  | mgmtHeartbeat => exact (execMgmtHeartbeat_only _ _ h).kept (by decide)
  | mgmtSubmit => exact (execMgmtSubmit_only _ _ _ h).kept (by decide)
  | mgmtUpdate => exact (execMgmtUpdate_only _ _ _ _ h).kept (by decide)
  | mgmtLogRead => exact (execMgmtLogRead_only _ _ _ _ h).kept (by decide)
  | mgmtSessionTimeout => exact (execMgmtSessionTimeout_only _ _ h).kept (by decide)
  | jtagBypass => exact (execJtagBypass_only _ h).kept (by decide)
  | jtagIdcode => exact (execJtagIdcode_only _ h).kept (by decide)
  | jtagSamplePreload => exact (execJtagSamplePreload_only _ h).kept (by decide)
  | jtagExtest => exact ⟨(execJtagExtest_only _ h).pending, memOk_execJtagExtest h⟩
  | jtagClamp => exact ⟨(execJtagClamp_only _ h).pending, memOk_execJtagClamp h⟩
  | jtagIntest => exact ⟨(execJtagIntest_only _ h).pending, memOk_execJtagIntest h⟩
  | standbyPowerGood => exact (execStandbyPowerGood_only _ _ _ _ h).kept (by decide)
  | standbyPowerLoss => exact ⟨(execStandbyPowerLoss_only _ h).pending, memOk_execStandbyPowerLoss h⟩
  | mainPowerLoss => exact ⟨(execMainPowerLoss_only _ h).pending, memOk_execMainPowerLoss h⟩
  | vin48Dip => exact ⟨(execVin48Dip_only _ _ _ h).pending, memOk_execVin48Dip _ _ h⟩
  | bringupStepDone => exact ⟨(execBringupStepDone_only _ _ _ h).pending, memOk_execBringupStepDone _ _ h⟩
  | perstAssert => exact ⟨(execPerstAssert_only _ h).pending, memOk_execPerstAssert h⟩
  | perstDeassert => exact (execPerstDeassert_only _ h).kept (by decide)
  | pcieLinkDown => exact ⟨(execPcieLinkDown_only _ _ h).pending, memOk_execPcieLinkDown _ h⟩
  | pcieLinkUp => exact (execPcieLinkUp_only _ h).kept (by decide)
  | flrVf => exact (execFlrVf_only _ _ h).kept (by decide)
  | flrPf => exact (execFlrPf_only _ h).kept (by decide)
  | refclkLoss => exact ⟨(execRefclkLoss_only _ h).pending, memOk_execRefclkLoss h⟩
  | nodeOscFailure => exact ⟨(execNodeOscFailure_only _ h).pending, memOk_execNodeOscFailure h⟩
  | vin48Return => exact (execVin48Return_only _ h).kept (by decide)
  | nodeOscRecovery => exact (execNodeOscRecovery_only _ h).kept (by decide)
  | assayHeartbeatReturn => exact (execAssayHeartbeatReturn_only _ h).kept (by decide)
  | msixVectorUnmask => exact (execMsixVectorUnmask_only _ _ _ h).kept (by decide)

/-- CARD_WAIT is the one meaning that looks at its card before it answers. -/
theorem execCardWait_next (card : Nat) (s : State) : ∃ t, execCardWait card s = .next t := by
  unfold execCardWait
  repeat' split
  all_goals exact ⟨_, rfl⟩

theorem exec_next (i : Instr) (s : State) : ∃ t, exec i s = .next t := by
  cases i
  case cardWait => exact execCardWait_next _ s
  all_goals exact ⟨_, rfl⟩

/-! ## Steps -/

theorem step_of_front {c : Instr} {rest : List Instr} {s : State} (h : s.pending = c :: rest) : step s = exec c { s with pending := rest } := by
  unfold step
  rw [h]

theorem step_of_empty {s : State} (h : s.pending = []) : step s = .next (tick s) := by
  unfold step
  rw [h]
  rfl

theorem step_next (s : State) : ∃ t, step s = .next t := by
  cases h : s.pending with
  | nil => exact ⟨_, step_of_empty h⟩
  | cons c rest => rw [step_of_front h]; exact exec_next c _

/-- An idle step is a tick, which moves the clocks; a command keeps the canonical form by `exec_kept`. -/
theorem step_memOk {s t : State} (h : step s = .next t) (hs : memOk s) : memOk t := by
  cases hp : s.pending with
  | nil =>
    rw [step_of_empty hp] at h
    cases h
    exact hs
  | cons c rest =>
    rw [step_of_front hp] at h
    exact (exec_kept h).mem hs

theorem tick_node (s : State) : (tick s).clk.node = if s.clk.held = false ∧ mainOn s = true then s.clk.node + 1 else s.clk.node := by
  unfold tick
  cases s.clk.held <;> cases mainOn s <;> rfl

/-- Settles O1: by the definition of a step on a queue that is not empty. -/
theorem stepRunsFrontCommand : Obligations.StepRunsFrontCommand := fun _ _ _ h => step_of_front h

/-- Settles O2: the idle step is one tick of the clocks. -/
theorem idleStepOnlyMovesClocks : Obligations.IdleStepOnlyMovesClocks := fun s h =>
  ⟨tick s, step_of_empty h, tick_only s, rfl, tick_node s⟩

/-- Settles O3: every meaning is a next state, and every frame leaves the queue. -/
theorem stepsAnswerNextAndTakeOneCommand : Obligations.StepsAnswerNextAndTakeOneCommand :=
  ⟨step_next, fun _ _ _ h => (exec_kept h).pending⟩

/-- Settles O4: a step is a tick or a command, and each command keeps the canonical form. -/
theorem stepKeepsMemoryCanonical : Obligations.StepKeepsMemoryCanonical := fun _ _ hs h => step_memOk h hs

theorem pstate_reset {p : Nat} (hp : p < 64) : pstate State.reset p = 0 := by
  have hrow : ∀ p : Fin 64, pstate State.reset p = 0 := by decide
  exact hrow ⟨p, hp⟩

/-- Settles O5: the state after reset holds every field's default. -/
theorem resetStateIsStandby : Obligations.ResetStateIsStandby :=
  ⟨rfl, rfl, rfl, rfl, rfl, rfl, rfl, memOk_reset, fun _ => rfl, fun _ hp => pstate_reset hp⟩

end Sys2Proof.Machine

namespace Sys2Proof.Machine

open Sys2Proof

/-! ## The node serves -/

theorem mainOn_of_serving {s : State} (h : serving s = true) : mainOn s = true := by
  unfold serving at h
  unfold mainOn
  cases hst : s.mgmt.st <;> simp_all

theorem servedWrite_of_serving {s : State} (off : Nat) (h : serving s = true) : servedWrite s off = true := by
  unfold serving at h
  unfold servedWrite
  cases hst : s.mgmt.st <;> simp_all

/-- Only the PF and a management master can own the node. -/
theorem writer_ne_vf_of_master {w : Writer} (h : masterOf w ≠ none) (n : Nat) : w ≠ .vf n := by
  rintro rfl
  exact h rfl

theorem master_of_isOwner {s : State} {w : Writer} (h : isOwner s w = true) : masterOf w ≠ none := by
  intro hn
  simp [isOwner, hn] at h

/-! ## The banks -/

theorem pendW_of_regs {s t : State} (h : t.regs = s.regs) (o : Nat) : pendW t o = pendW s o := by
  simp [pendW, actW, h]

theorem valW_of_regs {s t : State} (h : t.regs = s.regs) (o : Nat) : valW t o = valW s o := by
  simp [valW, h]

@[simp] theorem pendW_setVal (o p : Nat) (v : Word) (s : State) : pendW (setVal o v s) p = pendW s p := rfl

theorem setPend_of_master {w : Writer} (h : masterOf w ≠ none) (off : Nat) (v : Word) (s : State) :
    setPend w off v s = { s with regs := { s.regs with pend := tset s.regs.pend off v } } := by
  cases w with
  | vf n => exact absurd rfl h
  | pf => rfl
  | mgmt m => rfl

theorem pendW_setPend_self {w : Writer} (h : masterOf w ≠ none) (off : Nat) (v : Word) (s : State) : pendW (setPend w off v s) off = v := by
  rw [setPend_of_master h]
  simp [pendW]

theorem pendW_setPend_of_ne {w : Writer} (h : masterOf w ≠ none) {off o : Nat} (v : Word) (s : State) (ho : o ≠ off) :
    pendW (setPend w off v s) o = pendW s o := by
  rw [setPend_of_master h]
  simp [pendW, actW, ho]

theorem valW_setPend {w : Writer} (h : masterOf w ≠ none) (off o : Nat) (v : Word) (s : State) : valW (setPend w off v s) o = valW s o := by
  rw [setPend_of_master h]
  rfl

theorem setPend_act {w : Writer} (off : Nat) (v : Word) (s : State) : (setPend w off v s).regs.act = s.regs.act := by
  cases w <;> rfl

/-! ## A register write (R12) -/

/-- The value of the other bits after a write of `v` over `cur` (R12). -/
def otherBits (r : RegSpec) (cur v : Nat) : Nat :=
  (((cur &&& (allBits - (v &&& r.w1c))) ||| (v &&& r.w1s)) &&& (allBits - r.rw)) ||| (v &&& r.rw)

/-- Outside the ring records a write stages the staged bits, and sets the others where the register has any. -/
theorem applyWrite_of_noRing {off : Nat} (hr : ringOff off = none) (w : Writer) (v : Nat) (s : State) :
    applyWrite w off v s =
      (let s1 := if (regSpec off).st = 0 then s else setPend w off (BitVec.ofNat 32 (v &&& (regSpec off).st)) s
       if (regSpec off).rw = 0 ∧ (regSpec off).w1c = 0 ∧ (regSpec off).w1s = 0 then s1
       else setVal off (BitVec.ofNat 32 (otherBits (regSpec off) (valW s1 off).toNat v)) s1) := by
  unfold applyWrite
  rw [hr]
  rfl

theorem applyWrite_act (w : Writer) (off v : Nat) (s : State) : (applyWrite w off v s).regs.act = s.regs.act := by
  unfold applyWrite
  dsimp only
  repeat' split
  all_goals simp [setPend_act]

theorem pendW_applyWrite_self {w : Writer} {off : Nat} (hw : masterOf w ≠ none) (hr : ringOff off = none) (v : Nat) (s : State)
    (hst : (regSpec off).st ≠ 0) : pendW (applyWrite w off v s) off = BitVec.ofNat 32 (v &&& (regSpec off).st) := by
  rw [applyWrite_of_noRing hr]
  dsimp only
  rw [if_neg hst]
  split <;> simp [pendW_setPend_self hw]

theorem pendW_applyWrite_of_ne {w : Writer} {off o : Nat} (hw : masterOf w ≠ none) (hr : ringOff off = none) (v : Nat) (s : State) (ho : o ≠ off) :
    pendW (applyWrite w off v s) o = pendW s o := by
  rw [applyWrite_of_noRing hr]
  dsimp only
  repeat' split
  all_goals simp [pendW_setPend_of_ne hw _ _ ho]

theorem valW_applyWrite_of_ne {w : Writer} {off o : Nat} (hw : masterOf w ≠ none) (hr : ringOff off = none) (v : Nat) (s : State) (ho : o ≠ off) :
    valW (applyWrite w off v s) o = valW s o := by
  rw [applyWrite_of_noRing hr]
  dsimp only
  repeat' split
  all_goals simp [valW_setVal_of_ne _ _ ho, valW_setPend hw]

theorem and_allBits (x : Word) : x.toNat &&& allBits = x.toNat :=
  (Nat.and_two_pow_sub_one_eq_mod _ 32).trans (Nat.mod_eq_of_lt x.isLt)

/-- A register of RW bits alone takes the bits written in its RW field and keeps the rest. -/
theorem valW_applyWrite_self {w : Writer} {off : Nat} (hw : masterOf w ≠ none) (hr : ringOff off = none) (v : Nat) (s : State)
    (hrw : (regSpec off).rw ≠ 0) (h1c : (regSpec off).w1c = 0) (h1s : (regSpec off).w1s = 0) :
    valW (applyWrite w off v s) off =
      BitVec.ofNat 32 (((valW s off).toNat &&& (allBits - (regSpec off).rw)) ||| (v &&& (regSpec off).rw)) := by
  rw [applyWrite_of_noRing hr]
  dsimp only
  rw [if_neg fun h => hrw h.1, valW_setVal]
  unfold otherBits
  rw [h1c, h1s, Nat.and_zero, Nat.sub_zero, and_allBits, Nat.or_zero]
  split
  · rfl
  · rw [valW_setPend hw]

/-- A legal write by the owner, outside the records of the rings, is not turned away (R331). -/
theorem writeError_eq_none {w : Writer} {s : State} {off v : Nat} (ho : isOwner s w = true) (hr : ringOff off = none) (he : evOff off = none)
    (hres : v &&& reservedBits off = 0) (hill : illegalRw off v = false) : writeError s w off v = none := by
  unfold writeError
  simp [hr, he, ho, hres, hill]

/-- A register write of 32 bits by a master, where the node serves and nothing turns it away, is `applyWrite` (R12). -/
theorem plainWrite_of_legal {w : Writer} {s : State} {off v : Nat} (hw : masterOf w ≠ none) (hs : serving s = true) (hal : off % 4 = 0)
    (hoff : off < 0xC00000) (hv : v < 2 ^ 32) (hrow : hasRow off v = false) (hrmx : off ≠ 0x5000F0) (herr : writeError s w off v = none) :
    plainWrite w off false v s = applyWrite w off v s := by
  have hmod : v % 4294967296 = v := Nat.mod_eq_of_lt hv
  unfold plainWrite
  rw [if_neg fun h => hrmx h.1]
  cases w with
  | vf n => exact absurd rfl hw
  | pf | mgmt m =>
    simp [busWrite, hal, hrow, servedWrite_of_serving _ hs, mainOn_of_serving hs, pfWrite, herr, hmod, forEach, show ¬ 0xC00000 ≤ off by omega]

/-- Settles O6: the write is legal, so it is `applyWrite`, and each bank reads as that leaves it. -/
theorem registerWriteTakesEffect : Obligations.RegisterWriteTakesEffect := by
  intro w off v s hw hs hown hal hoff hv hring hev hrow hrmx hres hill
  have herr := writeError_eq_none hown hring hev hres hill
  refine ⟨applyWrite w off.toNat v.toNat s, congrArg Host.Outcome.next (plainWrite_of_legal hw hs hal hoff hv hrow hrmx herr),
    applyWrite_only .., applyWrite_act .., pendW_applyWrite_self hw hring _ _, valW_applyWrite_self hw hring _ _, fun o ho => ?_⟩
  exact ⟨pendW_applyWrite_of_ne hw hring _ _ ho, valW_applyWrite_of_ne hw hring _ _ ho⟩

/-! ## Commits (R329, R330) -/

theorem commitBlockBy_of_owner {b : Block} {w : Writer} {s : State} (hs : serving s = true) (ho : isOwner s w = true) (gen : BitVec 16)
    (imgs : List RingImage) (check : Table Word → State → Status) :
    commitBlockBy b w gen imgs check s =
      commitSet (blockNo b) gen (inBlock b s.regs.pend) imgs (check (inBlock b s.regs.pend) s) s := by
  simp [commitBlockBy, servedWrite_of_serving _ hs, ho]

theorem commitBlockBy_of_notOwner {b : Block} {w : Writer} {s : State} (hs : serving s = true) (ho : isOwner s w = false) (gen : BitVec 16)
    (imgs : List RingImage) (check : Table Word → State → Status) :
    commitBlockBy b w gen imgs check s = rejectWrite w (blockBase b + 0xF0) .notOwner s := by
  simp [commitBlockBy, servedWrite_of_serving _ hs, ho]

/-- Each commit command is its block's generic commit, with the block's own check. -/
theorem exec_commitCmd {b : Block} {w : Writer} {gen : BitVec 16} {imgs : List RingImage} {c : Instr} (h : commitCmd b w gen imgs = some c) :
    ∃ check : Table Word → State → Status, (∀ s, check (inBlock b s.regs.pend) s = blockCheck b s) ∧
      ∀ s, exec c s = .next (commitBlockBy b w gen (commitImgs b imgs) check s) := by
  cases b <;> cases h <;> exact ⟨_, fun _ => rfl, fun _ => rfl⟩

theorem exec_commitCmd_of_owner {b : Block} {w : Writer} {gen : BitVec 16} {imgs : List RingImage} {c : Instr} {s : State}
    (h : commitCmd b w gen imgs = some c) (hs : serving s = true) (ho : isOwner s w = true) :
    exec c s = .next (commitSet (blockNo b) gen (inBlock b s.regs.pend) (commitImgs b imgs) (blockCheck b s) s) := by
  obtain ⟨check, hcheck, hexec⟩ := exec_commitCmd h
  rw [hexec, commitBlockBy_of_owner hs ho, hcheck]

theorem commitSet_of_good {k : Nat} {t : Table Word} {imgs : List RingImage} {st : Status} {s : State} (hc : (ctlOf s k).checked = none)
    (hst : st = .ok) :
    commitSet k ((ctlOf s k).gen + 1) t imgs st s =
      setCtl k { ctlOf s k with checked := some (t, imgs), stsStatus := .ok, stsGen := (ctlOf s k).gen + 1 } s := by
  simp [commitSet, hc, hst]

theorem commitSet_of_otherGen {k : Nat} {gen : BitVec 16} {t : Table Word} {imgs : List RingImage} {st : Status} {s : State}
    (hg : gen ≠ (ctlOf s k).gen + 1) : commitSet k gen t imgs st s = setSts k .wrongState gen s :=
  if_pos hg

theorem commitSet_of_waiting {k : Nat} {gen : BitVec 16} {t : Table Word} {imgs : List RingImage} {st : Status} {s : State}
    (hg : gen = (ctlOf s k).gen + 1) (hc : (ctlOf s k).checked ≠ none) : commitSet k gen t imgs st s = setSts k .busy gen s := by
  simp [commitSet, hg, Option.isSome_iff_ne_none.2 hc]

theorem commitSet_of_failed {k : Nat} {gen : BitVec 16} {t : Table Word} {imgs : List RingImage} {st : Status} {s : State}
    (hg : gen = (ctlOf s k).gen + 1) (hc : (ctlOf s k).checked = none) (hst : st ≠ .ok) : commitSet k gen t imgs st s = setSts k st gen s := by
  simp [commitSet, hg, hc, hst]

theorem exec_vfCommit {n : Nat} (h1 : 1 ≤ n) (h64 : n ≤ 64) {s : State} (hs : serving s = true) (gen : BitVec 16) (imgs : List RingImage) :
    exec (.vfCommit n gen imgs) s = .next (commitSet (64 + n) gen (vfSet s n) imgs (checkHost (vfSet s n) s) s) := by
  have hn : ¬ (n = 0 ∨ 64 < n) := by omega
  change execVfCommit n gen imgs s = _
  simp [execVfCommit, hn, hs]

/-- Settles O7: every commit is the generic one on its block's control, or on the VF's. -/
theorem commitKeepsCheckedSet : Obligations.CommitKeepsCheckedSet := by
  refine ⟨fun b c w imgs s hcmd hs ho hc hok => ?_, fun n imgs s h1 h64 hs hc hok => ?_⟩
  · rw [exec_commitCmd_of_owner hcmd hs ho, commitSet_of_good hc hok]
  · rw [exec_vfCommit h1 h64 hs, commitSet_of_good hc hok]

theorem exec_commitDiscard {w : Writer} (hw : masterOf w ≠ none) {s : State} (hs : serving s = true) (b : Block) :
    exec (.commitDiscard w b) s =
      .next (if isOwner s w = true then discardBlock b s else rejectWrite w (blockBase b + 0xF0) .notOwner s) := by
  change execCommitDiscard w b s = _
  cases w with
  | vf n => exact absurd rfl hw
  | pf | mgmt m => cases ho : isOwner s _ <;> simp [execCommitDiscard, servedWrite_of_serving _ hs, ho]

theorem exec_commit_of_notOwner {b : Block} {c : Instr} {w : Writer} {gen : BitVec 16} {imgs : List RingImage} {s : State}
    (hcmd : commitCmd b w gen imgs = some c ∨ c = .commitDiscard w b) (hw : masterOf w ≠ none) (hs : serving s = true)
    (ho : isOwner s w = false) : exec c s = .next (rejectWrite w (blockBase b + 0xF0) .notOwner s) := by
  rcases hcmd with hcmd | rfl
  · obtain ⟨check, _, hexec⟩ := exec_commitCmd hcmd
    rw [hexec, commitBlockBy_of_notOwner hs ho]
  · simp [exec_commitDiscard hw hs, ho]

theorem rejectWrite_pend (w : Writer) (off : Nat) (st : Status) (s : State) : (rejectWrite w off st s).regs.pend = s.regs.pend := by
  unfold rejectWrite
  dsimp only
  repeat' split
  all_goals rfl

/-- Settles O8: the three refusals are the three other outcomes of the generic commit; a master that is not the owner is rejected before. -/
theorem refusedCommitChangesOnlyStatus : Obligations.RefusedCommitChangesOnlyStatus := by
  refine ⟨fun b c w gen imgs s hcmd hs ho => ?_, fun b c w gen imgs s hcmd hw hs ho => ?_⟩
  · rw [exec_commitCmd_of_owner hcmd hs ho]
    refine ⟨fun hg => ?_, fun hg hc => ?_, fun hg hc hst => ?_⟩
    · rw [commitSet_of_otherGen hg]
    · rw [commitSet_of_waiting hg hc]
    · rw [commitSet_of_failed hg hc hst]
  · exact ⟨exec_commit_of_notOwner hcmd hw hs ho, rejectWrite_only .., rejectWrite_pend ..⟩

/-! ## Discard and swap (R329, R330) -/

@[simp] theorem discardBlock_act (b : Block) (s : State) : (discardBlock b s).regs.act = s.regs.act := rfl

@[simp] theorem valW_discardBlock (b : Block) (s : State) (o : Nat) : valW (discardBlock b s) o = valW s o := rfl

theorem discardBlock_pend (b : Block) (s : State) : (discardBlock b s).regs.pend =
    tfilter s.regs.pend fun o _ => !(decide (blockBase b ≤ o) && decide (o < blockBase b + 0x100000)) := rfl

theorem pendW_discardBlock_inside {b : Block} {o : Nat} (s : State) (h : blockBase b ≤ o) (h' : o < blockBase b + 0x100000) :
    pendW (discardBlock b s) o = actW s o := by
  have hnone : tget (discardBlock b s).regs.pend o = none := by
    rw [discardBlock_pend]
    exact tget_tfilter_out _ _ _ fun _ => by simp [h, h']
  unfold pendW
  rw [hnone]
  rfl

theorem pendW_discardBlock_outside {b : Block} {o : Nat} (s : State) (h : o < blockBase b ∨ blockBase b + 0x100000 ≤ o) :
    pendW (discardBlock b s) o = pendW s o := by
  have hsame : tget (discardBlock b s).regs.pend o = tget s.regs.pend o := by
    rw [discardBlock_pend]
    exact tget_tfilter_keep _ _ _ fun _ => by simpa using h
  unfold pendW
  rw [hsame]
  rfl

/-- The blocks CAST and DECK hold no word of a ring record. -/
theorem ringOff_of_castOrDeck {b : Block} (hb : b = .cast ∨ b = .deck) {o : Nat} (h : blockBase b ≤ o) : ringOff o = none := by
  have ho : 0x200000 ≤ o := by
    rcases hb with rfl | rfl <;> simp only [blockBase] at h <;> omega
  exact if_neg (by omega)

theorem tfilter_eq_self {α : Type} {t : Table α} {p : Nat → α → Bool} (h : ∀ e ∈ t, p e.1 e.2 = true) : tfilter t p = t :=
  List.filter_eq_self.2 h

/-- The state as the checked set `t` of block `b` makes it: the set is active, pending shows the active values, the generation has moved on. -/
def swapped (b : Block) (t : Table Word) (s : State) : State :=
  setCtl (blockNo b) { ctlOf s (blockNo b) with gen := (ctlOf s (blockNo b)).gen + 1, checked := none }
    (discardBlock b { s with regs := { s.regs with act := t.foldl (fun a e => tset a e.1 e.2) s.regs.act } })

/-- The swap of CAST or DECK at a safe point has no effect beside the values. -/
theorem exec_commitSafePointSwap_plain {b : Block} {t : Table Word} {s : State} (hb : b = .cast ∨ b = .deck) (hs : serving s = true)
    (hsafe : atBoundary s = true) (hc : (ctlOf s (blockNo b)).checked = some (t, []))
    (ht : ∀ e ∈ t, blockBase b ≤ e.1 ∧ e.1 < blockBase b + 0x100000) :
    exec (.commitSafePointSwap b 0) s = .next (swapped b t s) := by
  have hfilter : tfilter t (fun o _ => !isStsOff o) = t :=
    tfilter_eq_self fun e he => by simp [isStsOff, ringOff_of_castOrDeck hb (ht e he).1]
  change execCommitSafePointSwap b 0 s = _
  rcases hb with rfl | rfl <;> simp [execCommitSafePointSwap, hs, hsafe, hc, hfilter, swapWaits, swapEffects, swapped]

theorem swapped_only (b : Block) (t : Table Word) (s : State) : OnlyIn [.regs, .act] s (swapped b t s) := by
  have hset : OnlyIn [.regs, .act] s { s with regs := { s.regs with act := t.foldl (fun a e => tset a e.1 e.2) s.regs.act } } :=
    (OnlyIn.refl _ s).upd_regs (by decide) (.inl (by decide))
  exact (setCtl_only ..).via (by decide) ((discardBlock_only ..).via (by decide) hset)

@[simp] theorem ctlOf_setCtl (k : Nat) (c : CommitCtl) (s : State) : ctlOf (setCtl k c s) k = c := by simp [ctlOf, setCtl]

/-- Settles O9: a discard drops the block's entries of the pending bank; the swap of CAST and DECK is `swapped`. -/
theorem discardAndSwapSettleBanks : Obligations.DiscardAndSwapSettleBanks := by
  refine ⟨fun b w s hs ho => ?_, fun b t s hb hs hsafe hc ht => ?_⟩
  · refine ⟨discardBlock b s, ?_, discardBlock_only .., rfl, fun o => pendW_discardBlock_inside s, fun o => pendW_discardBlock_outside s,
      fun _ => rfl⟩
    rw [exec_commitDiscard (master_of_isOwner ho) hs, if_pos ho]
  · refine ⟨swapped b t s, exec_commitSafePointSwap_plain hb hs hsafe hc ht, swapped_only .., rfl,
      fun o h h' => pendW_discardBlock_inside _ h h', ?_, ?_, fun _ => rfl⟩ <;> simp [swapped]

end Sys2Proof.Machine

namespace Sys2Proof.Machine

open Sys2Proof

/-! ## Reading a frame

What a function of the model leaves as it was is said by its frame; these read one area off it. -/

namespace OnlyIn

variable {l : List Area} {s t : State}

theorem clk_eq (h : OnlyIn l s t) (hl : Area.clk ∉ l) : t.clk = s.clk := h.clk.resolve_left hl
theorem regs_eq (h : OnlyIn l s t) (hl : Area.regs ∉ l) : t.regs = s.regs := h.regs.resolve_left hl
theorem own_eq (h : OnlyIn l s t) (hl : Area.own ∉ l) : t.own = s.own := h.own.resolve_left hl
theorem host_eq (h : OnlyIn l s t) (hl : Area.host ∉ l) : t.host = s.host := h.host.resolve_left hl
theorem cmds_eq (h : OnlyIn l s t) (hl : Area.cmds ∉ l) : t.cmds = s.cmds := h.cmds.resolve_left hl
theorem seqs_eq (h : OnlyIn l s t) (hl : Area.seqs ∉ l) : t.seqs = s.seqs := h.seqs.resolve_left hl
theorem shards_eq (h : OnlyIn l s t) (hl : Area.shards ∉ l) : t.shards = s.shards := h.shards.resolve_left hl
theorem parts_eq (h : OnlyIn l s t) (hl : Area.parts ∉ l) : t.parts = s.parts := h.parts.resolve_left hl
theorem retained_eq (h : OnlyIn l s t) (hl : Area.retained ∉ l) : t.retained = s.retained := h.retained.resolve_left hl
theorem mgmt_eq (h : OnlyIn l s t) (hl : Area.mgmt ∉ l) : t.mgmt = s.mgmt := h.mgmt.resolve_left hl
theorem tap_eq (h : OnlyIn l s t) (hl : Area.tap ∉ l) : t.tap = s.tap := h.tap.resolve_left hl
theorem assay_eq (h : OnlyIn l s t) (hl : Area.assay ∉ l) : t.assay = s.assay := h.assay.resolve_left hl
theorem mem_eq (h : OnlyIn l s t) (hl : Area.mem ∉ l) : t.mem = s.mem := h.mem.resolve_left hl
theorem walk_eq (h : OnlyIn l s t) (hl : Area.walk ∉ l) : t.walk = s.walk := h.walk.resolve_left hl
theorem fab_eq (h : OnlyIn l s t) (hl : Area.fab ∉ l) : t.fab = s.fab := h.fab.resolve_left hl
theorem rma_eq (h : OnlyIn l s t) (hl : Area.rma ∉ l) : t.rma = s.rma := h.rma.resolve_left hl
theorem rmx_eq (h : OnlyIn l s t) (hl : Area.rmx ∉ l) : t.rmx = s.rmx := h.rmx.resolve_left hl
theorem deck_eq (h : OnlyIn l s t) (hl : Area.deck ∉ l) : t.deck = s.deck := h.deck.resolve_left hl
theorem sec_eq (h : OnlyIn l s t) (hl : Area.sec ∉ l) : t.sec = s.sec := h.sec.resolve_left hl
theorem out_eq (h : OnlyIn l s t) (hl : Area.out ∉ l) : t.out = s.out := h.out.resolve_left hl
theorem freeCnt_eq (h : OnlyIn l s t) (hl : Area.freeCnt ∉ l) : t.freeCnt = s.freeCnt := h.freeCnt.resolve_left hl
theorem pins_eq (h : OnlyIn l s t) (hl : Area.pins ∉ l) : t.pins = s.pins := h.pins.resolve_left hl
theorem cells_eq (h : OnlyIn l s t) (hl : Area.cells ∉ l) : t.mem.cells = s.mem.cells := h.cells.resolve_left hl
theorem act_eq (h : OnlyIn l s t) (hl : Area.act ∉ l) : t.regs.act = s.regs.act := h.act.resolve_left hl
theorem st_eq (h : OnlyIn l s t) (hl : Area.st ∉ l) : t.mgmt.st = s.mgmt.st := h.st.resolve_left hl

end OnlyIn

/-! ## Lookups depend on their own table -/

theorem getCmd_of_cmds {s t : State} (h : t.cmds = s.cmds) (ring : Nat) (rseq : BitVec 32) : getCmd t ring rseq = getCmd s ring rseq := by
  simp [getCmd, h]

theorem getRing_of_host {s t : State} (h : t.host = s.host) (n : Nat) : getRing t n = getRing s n := by simp [getRing, h]

theorem getRing_of_rings {s t : State} (h : t.host.rings = s.host.rings) (n : Nat) : getRing t n = getRing s n := by simp [getRing, h]

theorem getSeq_of_seqs {s t : State} (h : t.seqs = s.seqs) (n : Nat) : getSeq t n = getSeq s n := by simp [getSeq, h]

theorem getConn_of_rma {s t : State} (h : t.rma = s.rma) (n : Nat) : getConn t n = getConn s n := by simp [getConn, h]

theorem getUnit_of_mem {s t : State} (h : t.mem = s.mem) (n : Nat) : getUnit t n = getUnit s n := by simp [getUnit, h]

theorem getPort_of_fab {s t : State} (h : t.fab = s.fab) (n : Nat) : getPort t n = getPort s n := by simp [getPort, h]

theorem cnt_of_regs {s t : State} (h : t.regs = s.regs) (o : Nat) : cnt t o = cnt s o := by simp [cnt, h]

theorem actW_of_act {s t : State} (h : t.regs.act = s.regs.act) (o : Nat) : actW t o = actW s o := by simp [actW, h]

theorem readByte_of_cells {s t : State} (h : t.mem.cells = s.mem.cells) (a : Nat) : readByte t a = readByte s a := by simp [readByte, h]

@[simp] theorem cnt_cntAdd_self (o n : Nat) (s : State) : cnt (cntAdd o n s) o = cnt s o + BitVec.ofNat 64 n := by simp [cnt, cntAdd]

theorem cnt_cntAdd_of_ne {o p : Nat} (n : Nat) (s : State) (h : p ≠ o) : cnt (cntAdd o n s) p = cnt s p := by simp [cnt, cntAdd, h]

theorem getCmd_setCmd_of_key {c : Cmd} {ring : Nat} {rseq : BitVec 32} (s : State) (hr : c.ring = ring) (hq : c.rseq = rseq) :
    getCmd (setCmd c s) ring rseq = some c := by
  subst hr hq
  exact getCmd_setCmd c s

theorem val64_setVal64_self (o v : Nat) (s : State) : val64 (setVal64 o v s) o = v % 2 ^ 64 := by
  have hlow : valW (setVal64 o v s) o = BitVec.ofNat 32 v := by
    unfold setVal64
    rw [valW_setVal_of_ne _ _ (by omega), valW_setVal]
  have hhigh : valW (setVal64 o v s) (o + 4) = BitVec.ofNat 32 (v / 2 ^ 32) := by
    unfold setVal64
    rw [valW_setVal]
  rw [val64, hlow, hhigh, BitVec.toNat_ofNat, BitVec.toNat_ofNat]
  omega

theorem valW_setVal64_of_ne {o p : Nat} (v : Nat) (s : State) (h : p ≠ o) (h' : p ≠ o + 4) : valW (setVal64 o v s) p = valW s p := by
  unfold setVal64
  rw [valW_setVal_of_ne _ _ h', valW_setVal_of_ne _ _ h]

theorem val64_of_regs {s t : State} (h : t.regs = s.regs) (o : Nat) : val64 t o = val64 s o := by simp [val64, valW, h]

/-! ## Events: they touch no ring, and stop no event ring -/

/-- What leaves a ring's state and the faults of the event rings alone. -/
structure RingsStay (s t : State) : Prop where
  rings : t.host.rings = s.host.rings
  fault : ∀ fn, (evRing t fn).fault = (evRing s fn).fault

theorem RingsStay.refl (s : State) : RingsStay s s := ⟨rfl, fun _ => rfl⟩

theorem RingsStay.trans {s t u : State} (h : RingsStay s t) (h' : RingsStay t u) : RingsStay s u :=
  ⟨h'.rings.trans h.rings, fun fn => (h'.fault fn).trans (h.fault fn)⟩

theorem RingsStay.of_host {s t : State} (h : t.host = s.host) : RingsStay s t := by
  refine ⟨by rw [h], fun fn => ?_⟩
  simp [evRing, h]

theorem evRing_setEv (fn k : Nat) (r : EvRing) (s : State) : evRing (setEv fn r s) k = if k = fn then r else evRing s k := by
  unfold evRing setEv tgetD
  dsimp only
  rw [tget_tset]
  split <;> rfl

theorem ringsStay_setEv {fn : Nat} {r : EvRing} {s : State} (h : r.fault = (evRing s fn).fault) : RingsStay s (setEv fn r s) := by
  refine ⟨rfl, fun k => ?_⟩
  rw [evRing_setEv]
  split
  next hk => rw [h, hk]
  next => rfl

theorem ringsStay_emit (o : Out) (s : State) : RingsStay s (emit o s) := RingsStay.of_host rfl

theorem ringsStay_signalVec (fn v : Nat) (s : State) : RingsStay s (signalVec fn v s) := by
  unfold signalVec
  dsimp only
  split <;> exact ⟨rfl, fun _ => rfl⟩

theorem ringsStay_writeEv (fn : Nat) (e : Event) (s : State) : RingsStay s (writeEv fn e s) := by
  unfold writeEv
  dsimp only
  refine RingsStay.trans ?_ (ringsStay_signalVec ..)
  refine RingsStay.trans ?_ (ringsStay_emit ..)
  exact ringsStay_setEv (r := { evRing s fn with produced := _, last := _ }) rfl

theorem ringsStay_deliverEv (fn : Nat) (e : Event) (s : State) : RingsStay s (deliverEv fn e s) := by
  unfold deliverEv
  dsimp only
  split
  · exact ringsStay_writeEv ..
  · split <;> exact ringsStay_setEv rfl

theorem ringsStay_postOwner (e : Event) (s : State) : RingsStay s (postOwner e s) := by
  have hlog : RingsStay s (addLog (fun q => .event q e) s) := RingsStay.of_host ((addLog_only ..).host_eq (by decide))
  unfold postOwner
  dsimp only
  split
  · exact hlog
  · split
    · exact hlog.trans (ringsStay_deliverEv ..)
    · exact hlog.trans (RingsStay.of_host ((sendMgmt_only ..).host_eq (by decide)))

theorem ringsStay_post (e : Event) (s : State) : RingsStay s (post e s) := by
  unfold post
  dsimp only
  split
  · exact (ringsStay_deliverEv ..).trans (ringsStay_postOwner ..)
  · exact ringsStay_postOwner ..

@[simp] theorem post_regs (e : Event) (s : State) : (post e s).regs = s.regs := (post_only ..).regs_eq (by decide)
@[simp] theorem post_cmds (e : Event) (s : State) : (post e s).cmds = s.cmds := (post_only ..).cmds_eq (by decide)

theorem ringsStay_dmaFailed (fn : Nat) (s : State) : RingsStay s (dmaFailed fn s) :=
  (RingsStay.of_host (by rfl)).trans (ringsStay_post ..)

theorem cnt_dmaFailed (fn : Nat) (s : State) : cnt (dmaFailed fn s) 0x100C28 = cnt s 0x100C28 + 1 := by
  rw [dmaFailed, cnt_of_regs (post_regs ..), cnt_cntAdd_self]
  rfl

theorem getRing_dmaFailed (fn n : Nat) (s : State) : getRing (dmaFailed fn s) n = getRing s n := getRing_of_rings (ringsStay_dmaFailed ..).rings n

/-! ## Doorbells (R319, R339) -/

theorem ringDoorbell_of_page {pg : DbPage} {ring : Nat} {v : BitVec 32} {tail : Bool} {s : State} (hs : serving s = true)
    (hp : pageRing s pg = some ring) :
    ringDoorbell pg v tail s =
      if doorbellOk (if tail then (getRing s ring).sqTail else (getRing s ring).cqHead) (getRing s ring).completed v (ringCfg s ring).log2 = true then
        startFetch ring (setRing ring (if tail then { getRing s ring with sqTail := v } else { getRing s ring with cqHead := v }) s)
      else badDoorbell (ringFn s ring) s := by
  unfold ringDoorbell
  rw [hp]
  simp only [hs, Bool.not_true, Bool.false_eq_true, if_false]
  cases doorbellOk _ _ v _ <;> rfl

theorem flushEv_of_empty {fn : Nat} {s : State} (fuel : Nat) (hh : (evRing s fn).held = []) (hl : (evRing s fn).lostDue = false) :
    flushEv fn fuel s = s := by
  cases fuel with
  | zero => rfl
  | succ n =>
    unfold flushEv
    dsimp only
    rw [hh]
    simp [hl]

/-- Settles O10: the page's ring decides what its doorbell does; an event ring without held events has nothing to flush. -/
theorem doorbellsMoveTheirIndices : Obligations.DoorbellsMoveTheirIndices := by
  refine ⟨fun pg ring v s hs hp => ⟨fun h => ?_, fun h => ?_, fun h => ?_, fun h => ?_⟩, fun fn v s hs hfn hc hp hh hl => ?_⟩
  · exact congrArg Host.Outcome.next ((ringDoorbell_of_page hs hp).trans (if_pos h))
  · exact congrArg Host.Outcome.next ((ringDoorbell_of_page hs hp).trans (if_pos h))
  · exact congrArg Host.Outcome.next ((ringDoorbell_of_page hs hp).trans (if_neg (by simp [h])))
  · exact congrArg Host.Outcome.next ((ringDoorbell_of_page hs hp).trans (if_neg (by simp [h])))
  · have hflush := flushEv_of_empty (s := setEv fn { evRing s fn with consumed := v } s) (fn := fn) 260
      (by rw [evRing_setEv, if_pos rfl]; exact hh) (by rw [evRing_setEv, if_pos rfl]; exact hl)
    change execDoorbellEventRing fn v s = _
    simp [execDoorbellEventRing, hs, show ¬ 64 < fn by omega, hc, hp, hflush]

/-! ## Commands as they end (R321) -/

@[simp] theorem reportEnd_cmds (c : Cmd) (s : State) : (reportEnd c s).cmds = s.cmds := (reportEnd_only ..).cmds_eq (by decide)

@[simp] theorem countEnd_cmds (st : Status) (s : State) : (countEnd st s).cmds = s.cmds := (countEnd_only ..).cmds_eq (by decide)

theorem keepFinished_of_host {c : Cmd} (h : c.ring ≠ deckRing) (s : State) : keepFinished c s = setCmd c s := if_neg fun hc => h hc.1

/-- A command of a ring of the host stands as it ended. -/
theorem finish_cmds {c : Cmd} (h : c.ring ≠ deckRing) (st : Status) (result : Nat) (s : State) :
    (finish c st result s).cmds = tset s.cmds (cmdKey c.ring c.rseq) (finished c st result) := by
  unfold finish
  rw [countEnd_cmds, keepFinished_of_host (c := finished c st result) h]
  exact congrArg (tset · _ _) (reportEnd_cmds ..)

theorem getCmd_finish {c : Cmd} (h : c.ring ≠ deckRing) (st : Status) (result : Nat) (s : State) :
    getCmd (finish c st result s) c.ring c.rseq = some (finished c st result) := by
  rw [getCmd, finish_cmds h, tget_tset_self]

theorem endsWith_finish {c : Cmd} (h : c.ring ≠ deckRing) (st : Status) (result : Nat) (s : State) :
    EndsWith (finish c st result s) c st result :=
  ⟨_, getCmd_finish h st result s, rfl, rfl, rfl, rfl⟩

/-- A command that ends with the same descriptor under the same key ends what `c` is. -/
theorem EndsWith.of_cmds {t u : State} {c : Cmd} {st : Status} {result : Nat} (h : EndsWith t c st result) (hc : u.cmds = t.cmds) :
    EndsWith u c st result := by
  obtain ⟨d, hd, hrest⟩ := h
  exact ⟨d, (getCmd_of_cmds hc ..).trans hd, hrest⟩

theorem numbered_of_host {c : Cmd} (h : c.ring ≠ deckRing) (s : State) :
    numbered c s = ({ c with step := (takeStep s).1 }, (takeStep s).2) := if_neg h

theorem endAtAdmission_of_host {c : Cmd} (h : c.ring ≠ deckRing) (st : Status) (result : Nat) (s : State) :
    endAtAdmission c st result s = finish { c with step := (takeStep s).1 } st result (takeStep s).2 := by
  rw [endAtAdmission, numbered_of_host h]

theorem getCmd_endAtAdmission {c : Cmd} (h : c.ring ≠ deckRing) (st : Status) (result : Nat) (s : State) :
    getCmd (endAtAdmission c st result s) c.ring c.rseq = some (finished { c with step := (takeStep s).1 } st result) := by
  rw [endAtAdmission_of_host h]
  exact getCmd_finish (c := { c with step := (takeStep s).1 }) h ..

theorem endsWith_endAtAdmission {c : Cmd} (h : c.ring ≠ deckRing) (st : Status) (result : Nat) (s : State) :
    EndsWith (endAtAdmission c st result s) c st result :=
  ⟨_, getCmd_endAtAdmission h st result s, rfl, rfl, rfl, rfl⟩

/-! ## The other bits of the registers as a command ends -/

theorem addTrace_regs (r : List Byte) (s : State) : (addTrace r s).regs = s.regs := (addTrace_only ..).regs_eq (by decide)

/-- Only the words of the trace buffer's own registers are shown anew (R386). -/
theorem valW_showTrace {o : Nat} (s : State) (h : o < 0xA00214) : valW (showTrace s) o = valW s o := by
  unfold showTrace
  dsimp only
  rw [valW_setVal64_of_ne _ _ (by omega) (by omega), valW_setVal_of_ne _ _ (by omega)]

theorem forEach_regs {α : Type} {f : α → State → State} (hf : ∀ a s, (f a s).regs = s.regs) (l : List α) (s : State) :
    (forEach l f s).regs = s.regs := by
  induction l generalizing s with
  | nil => rfl
  | cons a l ih => exact (ih (f a s)).trans (hf a s)

theorem valW_traceWork {o : Nat} (c : Cmd) (s : State) (h : o < 0xA00214) : valW (traceWork c s) o = valW s o := by
  unfold traceWork
  dsimp only
  split
  · rfl
  · rw [valW_showTrace _ h]
    exact valW_of_regs (forEach_regs (fun _ s => addTrace_regs _ (stepFree s)) ..) o

theorem valW_reportEnd {o : Nat} (c : Cmd) (s : State) (h : o < 0xA00214) : valW (reportEnd c s) o = valW s o := by
  have htrace : valW (if c.phase = .running then traceWork c s else s) o = valW s o := by
    split
    · exact valW_traceWork c s h
    · rfl
  unfold reportEnd
  dsimp only
  split
  · exact (valW_of_regs (post_regs ..) o).trans htrace
  · exact htrace

theorem valW_countEnd (st : Status) (s : State) (o : Nat) : valW (countEnd st s) o = valW s o := by
  unfold countEnd
  dsimp only
  repeat' split
  all_goals rfl

theorem keepFinished_regs (c : Cmd) (s : State) : (keepFinished c s).regs = s.regs := (keepFinished_only ..).regs_eq (by decide)

theorem valW_finish {o : Nat} (c : Cmd) (st : Status) (result : Nat) (s : State) (h : o < 0xA00214) : valW (finish c st result s) o = valW s o := by
  unfold finish
  rw [valW_countEnd, valW_of_regs (keepFinished_regs ..), valW_reportEnd _ _ h]

theorem val64_finish {o : Nat} (c : Cmd) (st : Status) (result : Nat) (s : State) (h : o + 4 < 0xA00214) : val64 (finish c st result s) o = val64 s o := by
  rw [val64, valW_finish _ _ _ _ (by omega), valW_finish _ _ _ _ h]
  rfl

theorem val64_endAtAdmission {c : Cmd} (h : c.ring ≠ deckRing) (st : Status) (result : Nat) (s : State) :
    val64 (endAtAdmission c st result s) 0x110 = (val64 s 0x110 + 1) % 2 ^ 63 := by
  rw [endAtAdmission_of_host h, val64_finish _ _ _ _ (by omega), takeStep, val64_setVal64_self]
  omega

/-! ## Descriptors (R314, R320) -/

theorem getRing_startFetch (ring : Nat) (s : State) :
    getRing (startFetch ring s) ring = getRing s ring ∨ getRing (startFetch ring s) ring = { getRing s ring with fetch := .reading } := by
  unfold startFetch
  dsimp only
  split
  · exact .inr (getRing_setRing ..)
  · exact .inl rfl

theorem descRead_of_data {ring : Nat} {b : List Byte} {s : State} (h : (getRing s ring).fetch = .reading) :
    descRead ring (.data b) s = meterRing { ring := ring, rseq := (getRing s ring).accepted, desc := slice b 0 64 } resPcieIn 64
      (setRing ring { getRing s ring with fetch := .here (slice b 0 64) } s) := by
  unfold descRead
  simp [h]

theorem descRead_of_aborted {ring : Nat} {s : State} (h : (getRing s ring).fetch = .reading) :
    ∃ t, descRead ring (.aborted 0) s = t ∧
      OnlyIn [.tap] (dmaFailed (ringFn s ring) (setRing ring { getRing s ring with fetch := .failed .accessViolation } s)) t := by
  refine ⟨_, rfl, ?_⟩
  unfold descRead
  simp only [h, ne_eq, not_true_eq_false, if_false, failOf]
  split
  · exact OnlyIn.refl ..
  · exact meterRing_only ..

theorem meterRing_of_partRing {c : Cmd} {s : State} (hm : c.metered = true) (ho : ownerRing s c.ring = false) (res n : Nat) :
    meterRing c res n s = tapAdd (ringAssign s c.ring % 64) res n s := by
  simp [meterRing, hm, ho]

/-- The ring that has given its next descriptor, once its command `c` is made. -/
def ringAccepted (r : Ring) (c : Cmd) : Ring :=
  { r with accepted := r.accepted + 1, used := r.used + c.units, running := true, fetch := .idle, last := none }

/-- Acceptance of a descriptor on a ring of the host. -/
theorem acceptNext_of_desc {ring : Nat} {b : List Byte} {s : State} (hr : ring ≠ mgmtRing) (hd : nextDesc s ring = some (.ok b)) :
    acceptNext ring s =
      (let c := newCmd s ring (getRing s ring).accepted (.ok b) false
       startFetch ring (cntAdd 0x100C00 1 (meterRing c resPcieOut 64
         (writeRecord ring (setCmd c (setRing ring (ringAccepted (getRing s ring) c) s)))))) := by
  unfold acceptNext
  rw [hd]
  dsimp only
  rw [if_neg hr, if_neg hr]
  rfl

theorem acceptNext_accepts {ring : Nat} {b : List Byte} {s : State} (hr : ring ≠ mgmtRing) (hd : nextDesc s ring = some (.ok b)) :
    let c := newCmd s ring (getRing s ring).accepted (.ok b) false
    (getRing (acceptNext ring s) ring).accepted = (getRing s ring).accepted + 1 ∧
      (getRing (acceptNext ring s) ring).used = (getRing s ring).used + c.units ∧
      getCmd (acceptNext ring s) ring (getRing s ring).accepted = some c := by
  intro c
  have hcmds : (acceptNext ring s).cmds = (setCmd c s).cmds := by
    rw [acceptNext_of_desc hr hd]
    dsimp only
    rw [(startFetch_only ..).cmds_eq (by decide), cntAdd_cmds, (meterRing_only ..).cmds_eq (by decide), (writeRecord_only ..).cmds_eq (by decide)]
    rfl
  have hring : ∀ u, getRing u ring = ringAccepted (getRing s ring) c → acceptNext ring s = startFetch ring u →
      (getRing (acceptNext ring s) ring).accepted = (getRing s ring).accepted + 1 ∧
      (getRing (acceptNext ring s) ring).used = (getRing s ring).used + c.units := by
    intro u hu ht
    rw [ht]
    rcases getRing_startFetch ring u with h | h <;> rw [h, hu] <;> exact ⟨rfl, rfl⟩
  refine ⟨(hring _ ?_ (acceptNext_of_desc hr hd)).1, (hring _ ?_ (acceptNext_of_desc hr hd)).2, ?_⟩
  rotate_left 2
  · rw [getCmd_of_cmds hcmds]
    exact getCmd_setCmd_of_key s rfl rfl
  all_goals
    rw [getRing_of_host (cntAdd_host ..), getRing_of_host ((meterRing_only ..).host_eq (by decide)), getRing_of_host ((writeRecord_only ..).host_eq (by decide)),
      getRing_of_host (setCmd_host ..), getRing_setRing]

theorem acceptNext_frame {ring : Nat} {b : List Byte} {s : State} (hr : ring ≠ mgmtRing) (hd : nextDesc s ring = some (.ok b)) :
    OnlyIn [.host, .cmds, .out, .tap, .regs] s (acceptNext ring s) := by
  rw [acceptNext_of_desc hr hd]
  exact (startFetch_only ..).via (by decide) ((cntAdd_only ..).via (by decide) ((meterRing_only ..).via (by decide)
    ((writeRecord_only ..).via (by decide) ((setCmd_only ..).via (by decide) ((setRing_only ..).sub (by decide))))))

theorem newCmd_desc (s : State) (ring : Nat) (seq : BitVec 32) (b : List Byte) (p : Bool) : (newCmd s ring seq (.ok b) p).desc = slice b 0 64 := rfl

/-- A command whose header is in order, and whose units its ring can ever hold, waits to be admitted. -/
theorem newCmd_of_good {s : State} {ring : Nat} {seq : BitVec 32} {b : List Byte} (p : Bool) (hh : headerStatus s ring seq b = .ok)
    (hu : descUnits s ring b ≤ (ringCfg s ring).qunits) :
    (newCmd s ring seq (.ok b) p).phase = .accepted ∧ (newCmd s ring seq (.ok b) p).units = descUnits s ring b := by
  simp [newCmd, hh, firstBad, failIf, show ¬ (ringCfg s ring).qunits < descUnits s ring b by omega]

theorem newCmd_of_bad {s : State} {ring : Nat} {seq : BitVec 32} {b : List Byte} (p : Bool) (hh : headerStatus s ring seq b ≠ .ok) :
    (newCmd s ring seq (.ok b) p).phase = .finished ∧ (newCmd s ring seq (.ok b) p).status = headerStatus s ring seq b := by
  simp [newCmd, hh, firstBad]

/-- Settles O11: the three ways on which a descriptor goes: into its ring, out of it, and to an end at admission. -/
theorem descriptorsAreReadAndAccepted : Obligations.DescriptorsAreReadAndAccepted := by
  refine ⟨fun ring b s hs hf => ⟨?_, ?_⟩, fun ring d b s hs hr hpick hd => ?_, fun c st result s hc => ?_⟩
  · refine ⟨descRead ring (.data b) s, congrArg Host.Outcome.next (if_pos hs), ?_, ?_, fun ho => ?_⟩ <;> rw [descRead_of_data hf]
    · exact (meterRing_only ..).via (by decide) ((setRing_only ..).sub (by decide))
    · exact (meterRing_only ..).host_eq (by decide)
    · rw [meterRing_of_partRing (by rfl) (by exact ho)]
      rfl
  · obtain ⟨t, ht, hframe⟩ := descRead_of_aborted hf
    have hpost : OnlyIn [.out, .regs, .host, .mgmt, .tap] s t :=
      hframe.via (by decide) ((dmaFailed_only ..).via (by decide) ((setRing_only ..).sub (by decide)))
    refine ⟨t, (congrArg Host.Outcome.next (if_pos hs)).trans (congrArg Host.Outcome.next ht), ?_, ?_, hpost.mem_eq (by decide), hpost.cmds_eq (by decide), hpost.seqs_eq (by decide)⟩
    · rw [getRing_of_host (hframe.host_eq (by decide)), getRing_dmaFailed, getRing_setRing]
    · rw [cnt_of_regs (hframe.regs_eq (by decide)), cnt_dmaFailed]
      rfl
  · have hexec : exec (.descriptorAccept ring) s = .next (acceptNext ring { s with host := { s.host with drr := d } }) := by
      change execDescriptorAccept ring s = _
      simp [execDescriptorAccept, hs, hpick]
    have hdesc : nextDesc { s with host := { s.host with drr := d } } ring = some (.ok b) := hd
    obtain ⟨hacc, hused, hcmd⟩ := acceptNext_accepts hr hdesc
    have hframe := (acceptNext_frame hr hdesc).via (List.Subset.refl _) ((OnlyIn.refl _ s).upd_host (by decide))
    exact ⟨_, _, hexec, hframe, hframe.act_eq (by decide), hacc, hused, hcmd, newCmd_desc .., newCmd_of_good _, newCmd_of_bad _⟩
  · refine ⟨endsWith_endAtAdmission hc .., ?_, val64_endAtAdmission hc ..⟩
    rw [getCmd_endAtAdmission hc]
    rfl

/-! ## Completions (R321, R338) -/

/-- What leaves the node only grows. -/
structure Grows (s t : State) : Prop where
  keeps : ∀ o ∈ s.out, o ∈ t.out

theorem Grows.of_out {s t : State} (h : t.out = s.out) : Grows s t := ⟨fun _ ho => h ▸ ho⟩

theorem Grows.trans {s t u : State} (h : Grows s t) (h' : Grows t u) : Grows s u :=
  ⟨fun o ho => h'.keeps o (h.keeps o ho)⟩

theorem grows_emit (o : Out) (s : State) : Grows s (emit o s) := ⟨fun _ h => List.mem_append_left _ h⟩

theorem grows_signalVec (fn v : Nat) (s : State) : Grows s (signalVec fn v s) := by
  unfold signalVec
  dsimp only
  split
  · exact .of_out rfl
  · exact grows_emit ..

theorem grows_setRing (ring : Nat) (r : Ring) (s : State) : Grows s (setRing ring r s) := .of_out rfl

theorem grows_signalRing (ring : Nat) (s : State) : Grows s (signalRing ring s) := (grows_setRing ..).trans (grows_signalVec ..)

theorem grows_writeRecord (ring : Nat) (s : State) : Grows s (writeRecord ring s) := by
  unfold writeRecord
  split
  · exact .of_out rfl
  · exact grows_emit ..

theorem coalesce_of_host {ring : Nat} (hr : ring ≠ mgmtRing) (notify : Bool) (s : State) :
    ∃ r : Ring, r.completed = (getRing s ring).completed ∧ r.used = (getRing s ring).used ∧
      (coalesce ring notify s = setRing ring r s ∨ coalesce ring notify s = signalRing ring (setRing ring r s)) := by
  unfold coalesce
  rw [if_neg hr]
  dsimp only
  split
  · refine ⟨_, ?_, ?_, .inr rfl⟩ <;> rfl
  · refine ⟨_, ?_, ?_, .inl rfl⟩ <;> rfl

theorem getRing_signalRing (ring : Nat) (s : State) : getRing (signalRing ring s) ring = { getRing s ring with unsig := 0 } := by
  rw [signalRing, getRing_of_rings (ringsStay_signalVec ..).rings, getRing_setRing]

/-- Coalescing counts no completion and frees no unit, and what left the node has left it. -/
theorem coalesce_keeps {ring : Nat} (hr : ring ≠ mgmtRing) (notify : Bool) (s : State) :
    (getRing (coalesce ring notify s) ring).completed = (getRing s ring).completed ∧
      (getRing (coalesce ring notify s) ring).used = (getRing s ring).used ∧ Grows s (coalesce ring notify s) := by
  obtain ⟨r, hc, hu, h | h⟩ := coalesce_of_host hr notify s
  · rw [h, getRing_setRing]
    exact ⟨hc, hu, .of_out rfl⟩
  · rw [h, getRing_signalRing, getRing_setRing]
    exact ⟨hc, hu, (grows_setRing ring r s).trans (grows_signalRing ..)⟩

/-- What a completion is before its interrupt: the entry is out, the ring has moved on, the command is gone. -/
structure Completed (c : Cmd) (s t : State) : Prop where
  entry : Grows (emitCompletion c s) t
  completed : (getRing t c.ring).completed = (getRing s c.ring).completed + 1
  used : (getRing t c.ring).used = (getRing s c.ring).used - c.units
  gone : getCmd t c.ring c.rseq = none

theorem Completed.of_same {c : Cmd} {s t u : State} (h : Completed c s t) (ho : u.out = t.out) (hh : u.host = t.host) (hc : u.cmds = t.cmds) :
    Completed c s u := by
  obtain ⟨hentry, hcompleted, hused, hgone⟩ := h
  exact ⟨hentry.trans (.of_out ho), by rw [getRing_of_host hh, hcompleted], by rw [getRing_of_host hh, hused], by rw [getCmd_of_cmds hc, hgone]⟩

/-- But for a WAIT that expired, writing a completion ends in its interrupt. -/
theorem writeCompletion_of_plain {c : Cmd} (h : c.cause ≠ waitExpired) (s : State) :
    ∃ t, writeCompletion c s = coalesce c.ring (bit (fld c.desc 2 2) 8) t ∧ Completed c s t := by
  unfold writeCompletion
  dsimp only
  rw [if_neg h]
  refine ⟨_, rfl, ?_⟩
  have hcnt : ∀ {u}, Completed c s u → Completed c s (if c.replayed then cntAdd 0x100C10 1 u else u) := by
    intro u hu
    split
    · exact hu.of_same rfl rfl rfl
    · exact hu
  refine hcnt (Completed.of_same ?_ (cntAdd_out ..) (cntAdd_host ..) (cntAdd_cmds ..))
  refine Completed.of_same ?_ ((meterRing_only ..).out_eq (by decide)) ((meterRing_only ..).host_eq (by decide)) ((meterRing_only ..).cmds_eq (by decide))
  have hring : getRing (emitCompletion c s) c.ring = getRing s c.ring := getRing_of_host ((emitCompletion_only ..).host_eq (by decide)) _
  refine ⟨(Grows.of_out (by rfl)).trans (grows_writeRecord ..), ?_, ?_, ?_⟩
  · rw [getRing_of_host ((writeRecord_only ..).host_eq (by decide)), getRing_setRing, hring]
  · rw [getRing_of_host ((writeRecord_only ..).host_eq (by decide)), getRing_setRing, hring]
  · rw [getCmd_of_cmds ((writeRecord_only ..).cmds_eq (by decide))]
    exact tget_tdel_self ..

theorem emitCompletion_of_host {c : Cmd} (h : c.ring ≠ mgmtRing) (s : State) :
    emitCompletion c s = emit (.dmaWrite (ringFn s c.ring) ((ringCfg s c.ring).cqBase + 32 * (c.rseq.toNat % 2 ^ (ringCfg s c.ring).log2))
      (completionBytes c (ringCfg s c.ring).log2 (now s))) s :=
  if_neg h

theorem evRing_of_host {s t : State} (h : t.host = s.host) (fn : Nat) : evRing t fn = evRing s fn := by simp [evRing, h]

/-- A DMA that failed is counted and posted, and touches no command. -/
theorem dmaFailed_frame (fn : Nat) (s : State) : OnlyIn [.out, .regs, .host, .mgmt] s (dmaFailed fn s) := dmaFailed_only ..

theorem dmaFailed_after {u s : State} (h : u.regs = s.regs) (fn : Nat) : cnt (dmaFailed fn u) 0x100C28 = cnt s 0x100C28 + 1 := by
  rw [cnt_dmaFailed, cnt_of_regs h]

/-- Settles O13: the completion with its interrupt, the two interrupts by themselves, and the three failures of a DMA write. -/
theorem completionsSignalTheHost : Obligations.CompletionsSignalTheHost := by
  refine ⟨fun ring c s hs hr hnext hring hseq hcause hsubs => ?_, fun ring s hs hr hu => ?_, fun fn vec s hm hfn hvec => ?_, fun s hs => ⟨?_, ?_, ?_⟩⟩
  · subst hring
    obtain ⟨u, hu, hentry, hcompleted, hused, hgone⟩ := writeCompletion_of_plain hcause s
    obtain ⟨hc, husd, hgrow⟩ := coalesce_keeps hr (bit (fld c.desc 2 2) 8) u
    refine ⟨writeCompletion c s, ?_, ?_, ?_, ?_, (writeCompletion_only ..).mem_eq (by decide), (writeCompletion_only ..).seqs_eq (by decide), ?_⟩
    · change execCompletionWrite c.ring s = _
      simp [execCompletionWrite, hs, hnext, releaseCalls, hsubs, forEach]
    · rw [hu, hc, hcompleted]
    · rw [hu, husd, hused]
    · rw [hu, getCmd_of_cmds ((coalesce_only ..).cmds_eq (by decide)), hgone]
    · rw [hu]
      refine hgrow.keeps _ (hentry.keeps _ ?_)
      rw [emitCompletion_of_host hr]
      exact List.mem_append_right _ (.head _)
  · change execInterruptCoalTimeout ring s = _
    simp [execInterruptCoalTimeout, hu, hr, hs]
  · change execMsixVectorUnmask fn vec s = _
    simp only [execMsixVectorUnmask, hm, show ¬ 64 < fn by omega, show ¬ vecCount fn ≤ vec by omega, Bool.not_true, Bool.false_eq_true,
      or_self, if_false]
    split
    · rfl
    · simp
  · intro ring r hr hget hfault
    have hring : getRing s ring = r := by simp [getRing, tgetD, hget]
    refine ⟨dmaFailed (ringFn s ring) (setRing ring { getRing s ring with fault := true } s), ?_, ?_, dmaFailed_after rfl _,
      ((dmaFailed_only ..).cmds_eq (by decide)), (dmaFailed_only ..).mem_eq (by decide)⟩
    · change execDmaWriteFailure (.ringWrite ring) s = _
      simp [execDmaWriteFailure, hs, hr, hget, hring, hfault]
    · rw [getRing_dmaFailed, getRing_setRing]
  · intro fn hlast hfault
    refine ⟨dmaFailed fn (setEv fn { evRing s fn with fault := true } s), ?_, ?_, dmaFailed_after rfl _,
      ((dmaFailed_only ..).cmds_eq (by decide)), (dmaFailed_only ..).mem_eq (by decide)⟩
    · change execDmaWriteFailure (.eventRing fn) s = _
      simp [execDmaWriteFailure, hs, hlast, hfault]
    · rw [(ringsStay_dmaFailed ..).fault, evRing_setEv, if_pos rfl]
  · intro ring rseq c hget hring hseq hphase hwrote
    have hframe := destFailed_only c s
    refine ⟨dmaFailed (cmdFn s c) (destFailed c s), { c with status := .accessViolation, result := 0, wrote := 0 }, ?_, ?_, rfl, hphase,
      dmaFailed_after (hframe.regs_eq (by decide)) _, ((dmaFailed_only ..).mem_eq (by decide)).trans (hframe.mem_eq (by decide)), ((dmaFailed_only ..).seqs_eq (by decide)).trans (hframe.seqs_eq (by decide))⟩
    · change execDmaWriteFailure (.dest ring rseq) s = _
      simp [execDmaWriteFailure, hs, hget, hphase, hwrote]
    · exact (getCmd_of_cmds ((dmaFailed_only ..).cmds_eq (by decide)) ..).trans (getCmd_setCmd_of_key _ hring hseq)

end Sys2Proof.Machine

namespace Sys2Proof.Machine

open Sys2Proof

/-! ## Writes of the ownership registers (R332, R423) -/

theorem ownWrite_of_master {w : Writer} {m off : Nat} {s : State} (hw : masterOf w = some m) (hserved : servedWrite s off = true)
    (hm : mainOn s = true) (f : Nat → State → State) : ownWrite w off f s = f m s := by
  simp [ownWrite, hw, hserved, hm]

theorem rejectWrite_own (w : Writer) (off : Nat) (st : Status) (s : State) : (rejectWrite w off st s).own = s.own := (rejectWrite_only ..).own_eq (by decide)

/-! ## Challenges and claims (R333, R393) -/

theorem drawChallenge_sec (s : State) : (drawChallenge s).sec = { s.sec with prevChallenge := challenge s, drawn := s.clk.mss } := rfl

theorem drawChallenge_act (s : State) : (drawChallenge s).regs.act = s.regs.act := rfl

theorem challenge_of_regs {s t : State} (h : t.regs = s.regs) : challenge t = challenge s := by simp [challenge, valW, h]

/-- The state in which the claim of master `m` has joined the window, which the first such claim opens. -/
def claimJoined (m : Nat) (tag : BitVec 32) (s : State) : State :=
  { drawChallenge s with
    own := { s.own with claims := s.own.claims.filter (·.1 != m) ++ [(m, tag)], window := some (s.own.window.getD (s.clk.mss + 100000)) } }

theorem claimJoined_only (m : Nat) (tag : BitVec 32) (s : State) : OnlyIn [.own, .regs, .sec, .freeCnt] s (claimJoined m tag s) :=
  ((drawChallenge_only s).sub (by decide)).upd_own (by decide)

/-- A verified claim while nobody owns the node. -/
theorem claim_of_none {m : Nat} {tag : BitVec 32} {cred : List Byte} {s : State} (hc : credentialOk s m cred = true) (ho : s.own.state = .none) :
    claim m tag cred s = if m = 0 then setVal 0x58 0 (claimJoined m tag s) else claimJoined m tag s := by
  have hown : (drawChallenge s).own = s.own := (drawChallenge_only s).own_eq (by decide)
  have hclk : (drawChallenge s).clk = s.clk := (drawChallenge_only s).clk_eq (by decide)
  simp only [claim, hc, Bool.not_true, Bool.false_eq_true, if_false, hown, hclk]
  split
  next => rfl
  all_goals simp_all

theorem claim_of_bad {m : Nat} {tag : BitVec 32} {cred : List Byte} {s : State} (hc : credentialOk s m cred = false) :
    claim m tag cred s = answerClaim m tag .accessViolation (logClaim m 3 .accessViolation s) := by
  simp [claim, hc]

/-- A claim while an owner stands renews the owner's lease, and is refused to any other master. -/
theorem claim_of_owned {m : Nat} {tag : BitVec 32} {cred : List Byte} {s : State} (hc : credentialOk s m cred = true) (ho : s.own.state = .owned) :
    claim m tag cred s =
      if m = s.own.owner then answerClaim m tag .ok (logClaim m 2 .ok (renewLease (drawChallenge s)))
      else answerClaim m tag .notOwner (logClaim m 3 .notOwner (drawChallenge s)) := by
  have hown : (drawChallenge s).own = s.own := (drawChallenge_only s).own_eq (by decide)
  simp only [claim, hc, Bool.not_true, Bool.false_eq_true, if_false, hown, ho]

theorem exec_nodeOwnClaim_pf {a : BitVec 64} {cred : List Byte} {s : State} (hs : serving s = true) :
    exec (.nodeOwnClaim .pf a cred) s = .next (claim 0 0 cred s) :=
  congrArg Host.Outcome.next
    ((ownWrite_of_master (m := 0) rfl (servedWrite_of_serving _ hs) (mainOn_of_serving hs) _).trans (if_pos rfl))

theorem answerClaim_pf (tag : BitVec 32) (st : Status) (s : State) : answerClaim 0 tag st s = setVal 0x58 (BitVec.ofNat 32 (st.code + 2 ^ 16)) s := rfl

/-- A claim's outcome of the PF stands in NODE_OWN_RES. -/
theorem answerClaim_logClaim_only (how : Nat) (st st' : Status) (s : State) :
    OnlyIn [.regs, .mgmt] s (answerClaim 0 0 st (logClaim 0 how st' s)) := by
  rw [answerClaim_pf]
  exact (setVal_only ..).via (by decide) ((logClaim_only ..).sub (by decide))

/-! ## The election (R333) -/

/-- Master `b` goes before master `m`: its class has the higher PRIO, or the same and it has the lower number. -/
def goesBefore (s : State) (b m : Nat) : Prop := masterPrio s m < masterPrio s b ∨ (masterPrio s m = masterPrio s b ∧ b ≤ m)

theorem goesBefore_refl (s : State) (b : Nat) : goesBefore s b b := .inr ⟨rfl, le_rfl⟩

theorem goesBefore_trans {s : State} {a b c : Nat} (h : goesBefore s a b) (h' : goesBefore s b c) : goesBefore s a c := by
  unfold goesBefore at *
  omega

/-- One comparison of the election keeps the one that goes before the other. -/
def better (s : State) (b m : Nat) : Nat := if masterPrio s b < masterPrio s m ∨ (masterPrio s b = masterPrio s m ∧ m < b) then m else b

theorem better_spec (s : State) (b m : Nat) :
    goesBefore s (better s b m) b ∧ goesBefore s (better s b m) m ∧ (better s b m = b ∨ better s b m = m) := by
  unfold better goesBefore
  split
  · exact ⟨by omega, by omega, .inr rfl⟩
  · exact ⟨by omega, by omega, .inl rfl⟩

/-- The election of at least one master is a fold of comparisons. -/
theorem electMaster_cons (s : State) (b : Nat) (ms : List Nat) : electMaster s (b :: ms) = some (ms.foldl (better s) b) := by
  change ms.foldl _ (some b) = _
  induction ms generalizing b with
  | nil => rfl
  | cons m ms ih =>
    rw [List.foldl_cons, List.foldl_cons, ← ih]
    congr 1
    exact (apply_ite some _ _ _).symm

theorem foldl_better_spec (s : State) (ms : List Nat) (b : Nat) :
    goesBefore s (ms.foldl (better s) b) b ∧ (∀ m ∈ ms, goesBefore s (ms.foldl (better s) b) m) ∧ ms.foldl (better s) b ∈ b :: ms := by
  induction ms generalizing b with
  | nil => exact ⟨goesBefore_refl s b, by simp, by simp⟩
  | cons m ms ih =>
    obtain ⟨hfirst, hrest, hmem⟩ := ih (better s b m)
    obtain ⟨hb, hm, hor⟩ := better_spec s b m
    refine ⟨goesBefore_trans hfirst hb, ?_, ?_⟩
    · intro k hk
      rcases List.mem_cons.1 hk with rfl | hk
      · exact goesBefore_trans hfirst hm
      · exact hrest k hk
    · rw [List.foldl_cons]
      rcases List.mem_cons.1 hmem with h | h
      · rw [h]
        rcases hor with h | h <;> rw [h] <;> simp
      · exact .tail _ (.tail _ h)

/-- The winner is a claimant that goes before every other. -/
theorem electMaster_spec {s : State} {ms : List Nat} (h : ms ≠ []) :
    ∃ m, electMaster s ms = some m ∧ m ∈ ms ∧ ∀ k ∈ ms, goesBefore s m k := by
  obtain ⟨b, ms, rfl⟩ := List.exists_cons_of_ne_nil h
  obtain ⟨hfirst, hrest, hmem⟩ := foldl_better_spec s ms b
  refine ⟨_, electMaster_cons s b ms, hmem, ?_⟩
  intro k hk
  rcases List.mem_cons.1 hk with rfl | hk
  · exact hfirst
  · exact hrest k hk

/-! ## A change of owner (R336) -/

/-- Nothing that a change of owner sends touches the ownership, or stages anything. -/
structure OwnStays (s t : State) : Prop where
  own : t.own = s.own
  pend : t.regs.pend = s.regs.pend
  act : t.regs.act = s.regs.act

theorem OwnStays.trans {s t u : State} (h : OwnStays s t) (h' : OwnStays t u) : OwnStays s u :=
  ⟨h'.own.trans h.own, h'.pend.trans h.pend, h'.act.trans h.act⟩

theorem OwnStays.of_frame {l : List Area} {s t : State} (h : OnlyIn l s t) (ho : Area.own ∉ l) (hr : Area.regs ∉ l) :
    OwnStays s t :=
  ⟨h.own_eq ho, by rw [h.regs_eq hr], by rw [h.regs_eq hr]⟩

theorem ownStays_setVal (o : Nat) (v : Word) (s : State) : OwnStays s (setVal o v s) := ⟨rfl, rfl, rfl⟩

theorem OwnStays.forEach {α : Type} {f : α → State → State} (h : ∀ a s, OwnStays s (f a s)) (l : List α) (s : State) :
    OwnStays s (Machine.forEach l f s) := by
  induction l generalizing s with
  | nil => exact ⟨rfl, rfl, rfl⟩
  | cons a l ih => exact (h a s).trans (ih (f a s))

theorem ownStays_answerClaim (m : Nat) (tag : BitVec 32) (st : Status) (s : State) : OwnStays s (answerClaim m tag st s) := by
  unfold answerClaim
  split
  · exact ownStays_setVal ..
  · exact .of_frame (sendMgmt_only ..) (by decide) (by decide)

theorem ownStays_logClaim (m how : Nat) (st : Status) (s : State) : OwnStays s (logClaim m how st s) := .of_frame (logClaim_only ..) (by decide) (by decide)

theorem ownStays_postOwnerChange (s : State) : OwnStays s (postOwnerChange s) := .of_frame (postOwnerChange_only ..) (by decide) (by decide)

theorem changeOwner_own (o : Ownership) (s : State) : (changeOwner o s).own = o := (ownStays_postOwnerChange _).own

theorem changeOwner_pend (o : Ownership) (s : State) : (changeOwner o s).regs.pend = [] := (ownStays_postOwnerChange _).pend

theorem changeOwner_act (o : Ownership) (s : State) : (changeOwner o s).regs.act = s.regs.act := (ownStays_postOwnerChange _).act

/-- The window closes on the winner, and what the others are answered changes no owner. -/
theorem closeWindow_of_winner {T m : Nat} {s : State} (hT : s.own.window = some T)
    (hm : electMaster (advanceMss T s) (s.own.claims.map (·.1)) = some m) :
    OwnStays (takeDeal m (advanceMss T s)) (closeWindow s) := by
  have hm' : electMaster (advanceMss T s) ((advanceMss T s).own.claims.map (·.1)) = some m := hm
  unfold closeWindow
  rw [hT]
  dsimp only
  rw [hm']
  refine OwnStays.forEach (fun a s => ?_) _ _
  split <;> exact (ownStays_logClaim ..).trans (ownStays_answerClaim ..)

/-- Settles O14: the heartbeat, the PF's claim in each state of ownership, and the election. -/
theorem ownershipIsClaimedAndRenewed : Obligations.OwnershipIsClaimedAndRenewed := by
  refine ⟨fun w m s hw hserved hmain => ?_, fun a cred s hs => ⟨fun hc ho => ?_, fun hc => ?_⟩, fun a cred s hs hc ho => ?_, fun T s hT hcl => ?_⟩
  · have hexec : exec (.nodeOwnHb w) s = .next (if ownerIs s m = true then renewLease s else refuseOwn w 0x44 s) :=
      congrArg Host.Outcome.next (ownWrite_of_master hw hserved hmain _)
    exact ⟨fun ho => by rw [hexec, if_pos ho]; rfl, fun ho => ⟨by rw [hexec, if_neg (by simp [ho])]; rfl, rejectWrite_own ..⟩⟩
  · have hframe : OnlyIn [.own, .regs, .sec, .freeCnt] s (claim 0 0 cred s) := by
      rw [claim_of_none hc ho, if_pos rfl]
      exact (setVal_only ..).via (by decide) (claimJoined_only ..)
    refine ⟨_, exec_nodeOwnClaim_pf hs, hframe, hframe.act_eq (by decide), ?_⟩
    rw [claim_of_none hc ho, if_pos rfl]
    exact ⟨rfl, rfl, rfl⟩
  · have hframe := answerClaim_logClaim_only 3 .accessViolation .accessViolation s
    rw [exec_nodeOwnClaim_pf hs, claim_of_bad hc]
    exact ⟨_, rfl, hframe, hframe.act_eq (by decide), hframe.st_eq (by decide), by rw [answerClaim_pf, valW_setVal]⟩
  · have hdraw : OnlyIn [.own, .regs, .sec, .freeCnt, .mgmt] s (drawChallenge s) := (drawChallenge_only s).sub (by decide)
    rw [exec_nodeOwnClaim_pf hs, claim_of_owned hc ho]
    split
    next h0 =>
      have hframe := (answerClaim_logClaim_only 2 .ok .ok (renewLease (drawChallenge s))).via (by decide)
        ((renewLease_only ..).via (by decide) hdraw)
      refine ⟨_, rfl, hframe, hframe.st_eq (by decide), fun _ => ⟨?_, by rw [answerClaim_pf, valW_setVal]; rfl⟩, fun h => absurd h0.symm h⟩
      rw [(answerClaim_logClaim_only ..).own_eq (by decide)]
      rfl
    next h0 =>
      have hframe := (answerClaim_logClaim_only 3 .notOwner .notOwner (drawChallenge s)).via (by decide) hdraw
      refine ⟨_, rfl, hframe, hframe.st_eq (by decide), fun h => absurd h.symm h0, fun _ => ⟨?_, by rw [answerClaim_pf, valW_setVal]⟩⟩
      rw [(answerClaim_logClaim_only ..).own_eq (by decide), (drawChallenge_only s).own_eq (by decide)]
  · obtain ⟨m, hm, hmem, hbest⟩ := electMaster_spec (s := advanceMss T s) (ms := s.own.claims.map (·.1)) (by simpa using hcl)
    obtain ⟨hown, hpend, hact⟩ := closeWindow_of_winner hT hm
    have hframe := closeWindow_only s
    exact ⟨closeWindow s, m, rfl, hmem, hbest, hown.trans (changeOwner_own ..), hpend.trans (changeOwner_pend ..),
      hact.trans (changeOwner_act ..), hframe.mem_eq (by decide), hframe.cmds_eq (by decide)⟩

/-! ## Passing the deal, the lease and the challenge (R334, R335, R394) -/

theorem exec_ownerLeaseLapse {s : State} (ho : hasOwner s = true) (hrun : s.mgmt.mssRunning = true) :
    exec .ownerLeaseLapse s = .next (changeOwner {} (logMgmt 0x81 3 .ok { b0 := s.own.owner } (advanceMss s.own.lease s))) :=
  congrArg Host.Outcome.next (if_pos ⟨ho, hrun⟩)

/-- Settles O15: each end of a pass, the lapse of the lease, and the next challenge. -/
theorem ownershipIsPassedAndLapses : Obligations.OwnershipIsPassedAndLapses := by
  refine ⟨fun w m target s hw hserved hmain => ⟨fun ho => ⟨?_, fun hp => ?_⟩, fun ho => ⟨?_, ?_⟩⟩, fun s => ⟨fun hp => ?_, fun ho hrun => ?_⟩,
    fun s hst => ?_⟩
  · refine ⟨_, congrArg Host.Outcome.next ((ownWrite_of_master hw hserved hmain _).trans (if_neg (by simp [ho]))), ?_⟩
    have hframe : OnlyIn [.own, .regs, .mgmt] s (passRes w .ok (showOwn (logPass 1
        { s with own := { s.own with state := .passing, passTo := target.toNat, passDue := s.clk.mss + leaseNs } }))) :=
      (passRes_only ..).via (by decide) ((showOwn_only ..).via (by decide) ((logPass_only ..).via (by decide)
        ((OnlyIn.refl _ s).upd_own (by decide))))
    exact ⟨hframe, hframe.st_eq (by decide), hframe.act_eq (by decide), (((passRes_only ..).own_eq (by decide)).trans ((showOwn_only ..).own_eq (by decide))).trans ((logPass_only ..).own_eq (by decide))⟩
  · refine ⟨_, congrArg Host.Outcome.next (((ownWrite_of_master hw hserved hmain _).trans (if_neg (by simp [ho]))).trans
      (congrArg (passRes w .ok) (if_pos hp))), ?_⟩
    have hframe : OnlyIn [.own, .regs, .mgmt] s (passRes w .ok (endPass 3 s)) :=
      (passRes_only ..).via (by decide) ((endPass_only ..).sub (by decide))
    exact ⟨hframe, hframe.st_eq (by decide), hframe.act_eq (by decide), (passRes_only ..).own_eq (by decide)⟩
  · refine ⟨_, congrArg Host.Outcome.next ((ownWrite_of_master hw hserved hmain _).trans (if_pos (by simp [ho]))), ?_⟩
    have hframe := (passRes_only w .notOwner _).via (List.Subset.refl _) (refuseOwn_only w 0x48 s)
    exact ⟨hframe, hframe.act_eq (by decide)⟩
  · refine ⟨_, congrArg Host.Outcome.next ((ownWrite_of_master hw hserved hmain _).trans (if_pos (by simp [ho]))), ?_⟩
    have hframe := (passRes_only w .notOwner _).via (List.Subset.refl _) (refuseOwn_only w 0x48 s)
    exact ⟨hframe, hframe.act_eq (by decide)⟩
  · have hframe : OnlyIn [.clk, .own, .regs, .mgmt] s (endPass 4 (advanceMss s.own.passDue s)) :=
      (endPass_only ..).via (by decide) ((advanceMss_only ..).sub (by decide))
    exact ⟨_, congrArg Host.Outcome.next (if_pos hp), hframe, hframe.st_eq (by decide), rfl⟩
  · have hlog : OnlyIn [.clk, .mgmt] s (logMgmt 0x81 3 .ok { b0 := s.own.owner } (advanceMss s.own.lease s)) :=
      (logMgmt_only ..).via (by decide) ((advanceMss_only ..).sub (by decide))
    have hframe : OnlyIn [.out, .regs, .own, .host, .mgmt, .clk] s
        (changeOwner {} (logMgmt 0x81 3 .ok { b0 := s.own.owner } (advanceMss s.own.lease s))) :=
      (changeOwner_only ..).via (by decide) (hlog.sub (by decide))
    refine ⟨_, exec_ownerLeaseLapse ho hrun, changeOwner_own .., changeOwner_pend .., (changeOwner_act ..).trans (hlog.act_eq (by decide)), ?_,
      (hframe.mem_eq (by decide)), hframe.cmds_eq (by decide), hframe.rmx_eq (by decide), hframe.deck_eq (by decide)⟩
    rw [(changeOwner_only ..).clk_eq (by decide), (logMgmt_only ..).clk_eq (by decide)]
    exact le_max_right ..
  · have hadv := advanceMss_only (s.sec.drawn + 60000000000) s
    have hframe : OnlyIn [.clk, .regs, .sec, .freeCnt] s (drawChallenge (advanceMss (s.sec.drawn + 60000000000) s)) :=
      (drawChallenge_only ..).via (by decide) (hadv.sub (by decide))
    exact ⟨_, congrArg Host.Outcome.next (if_neg hst), hframe, hframe.act_eq (by decide), challenge_of_regs (hadv.regs_eq (by decide)), rfl, rfl⟩

/-! ## Bits of a word -/

theorem bits_putBits_self (v lo w x : Nat) : bits (putBits v lo w x) lo w = x % 2 ^ w := by
  have hlow : v % 2 ^ lo < 2 ^ lo := Nat.mod_lt _ (by positivity)
  have hsum : putBits v lo w x = v % 2 ^ lo + 2 ^ lo * (x % 2 ^ w + 2 ^ w * (v / 2 ^ (lo + w))) := by
    rw [putBits, pow_add]
    ring
  rw [bits, hsum, Nat.add_mul_div_left _ _ (by positivity), Nat.div_eq_of_lt hlow, Nat.zero_add, Nat.add_mul_mod_self_left, Nat.mod_mod]

theorem add_mul_lt {a b A B : Nat} (ha : a < A) (hb : b < B) : a + b * A < A * B :=
  calc a + b * A < A + b * A := Nat.add_lt_add_right ha _
    _ = A * (b + 1) := by ring
    _ ≤ A * B := Nat.mul_le_mul_left _ hb

theorem putBits_lt {v lo w n : Nat} (x : Nat) (hv : v < 2 ^ n) (h : lo + w ≤ n) : putBits v lo w x < 2 ^ n := by
  obtain ⟨k, rfl⟩ := Nat.exists_eq_add_of_le h
  have hdiv : v / 2 ^ (lo + w) < 2 ^ k := Nat.div_lt_of_lt_mul (by rwa [← pow_add])
  have hlow : v % 2 ^ lo < 2 ^ lo := Nat.mod_lt _ (by positivity)
  have hmid : x % 2 ^ w < 2 ^ w := Nat.mod_lt _ (by positivity)
  have hin : v % 2 ^ lo + x % 2 ^ w * 2 ^ lo < 2 ^ (lo + w) := by
    rw [pow_add]
    exact add_mul_lt hlow hmid
  rw [putBits, pow_add _ (lo + w)]
  exact add_mul_lt hin hdiv

/-- A field of a register that the node writes reads as what was put there. -/
theorem valBits_setValBits_self {lo w : Nat} (h : lo + w ≤ 32) (o x : Nat) (s : State) :
    valBits (setValBits o lo w x s) o lo w = x % 2 ^ w := by
  rw [valBits, setValBits, valW_setVal, BitVec.toNat_ofNat, Nat.mod_eq_of_lt (putBits_lt x (valW s o).isLt h), bits_putBits_self]

theorem bit_eq_testBit (v i : Nat) : bit v i = v.testBit i := by
  rw [bit, Nat.testBit_eq_decide_div_mod_eq]
  rfl

theorem testBit_foldl_or (ps : List Nat) (m q : Nat) : (ps.foldl (fun m p => m ||| 2 ^ p) m).testBit q = (m.testBit q || ps.contains q) := by
  induction ps generalizing m with
  | nil => simp
  | cons p ps ih =>
    rw [List.foldl_cons, ih, Nat.testBit_or, Nat.testBit_two_pow, List.contains_cons, Bool.or_assoc]
    congr 2
    exact decide_eq_decide.2 eq_comm

/-! ## The debug path (R384, R385) -/

theorem val64_touch (ps : List Nat) (s : State) :
    val64 (touch ps s) 0xA00120 = (ps.foldl (fun m p => m ||| 2 ^ p) (val64 s 0xA00120)) % 2 ^ 64 := val64_setVal64_self ..

theorem valW_touch_of_ne {o : Nat} (ps : List Nat) (s : State) (h : o ≠ 0xA00120) (h' : o ≠ 0xA00124) : valW (touch ps s) o = valW s o :=
  valW_setVal64_of_ne _ _ h h'

/-- The TOUCHED bit of a partition, once partitions `ps` were touched. -/
theorem bit_touch (ps : List Nat) (s : State) {p : Nat} (hp : p < 64) :
    bit (val64 (touch ps s) 0xA00120) p = (bit (val64 s 0xA00120) p || ps.contains p) := by
  rw [val64_touch, bit_eq_testBit, bit_eq_testBit, Nat.testBit_mod_two_pow, testBit_foldl_or]
  simp [hp]

theorem contains_activeParts (s : State) {p : Nat} (hp : p < 64) : (activeParts s).contains p = partActive s p := by
  rw [Bool.eq_iff_iff, List.contains_iff_mem, activeParts, List.mem_filter, List.mem_range]
  exact and_iff_right hp

theorem ne_off_of_mainOn {s : State} (h : mainOn s = true) : s.mgmt.st ≠ .off := by
  intro hst
  simp [mainOn, hst] at h

/-- The words shown from offset `o` on, four bytes apart: each reads as what was put there, and the others as before. -/
theorem valW_forEach_setVal (o : Nat) (f : Nat → Word) (n : Nat) (s : State) (p : Nat) :
    valW (forEach (List.range n) (fun i t => setVal (o + 4 * i) (f i) t) s) p =
      if o ≤ p ∧ p < o + 4 * n ∧ (p - o) % 4 = 0 then f ((p - o) / 4) else valW s p := by
  induction n with
  | zero => rw [if_neg (by omega)]; rfl
  | succ n ih =>
    rw [forEach, List.range_succ, List.foldl_append]
    change valW (setVal _ _ (forEach (List.range n) _ s)) p = _
    by_cases hp : p = o + 4 * n
    · subst hp
      rw [valW_setVal, if_pos (by omega)]
      congr 1
      omega
    · rw [valW_setVal_of_ne _ _ hp, ih]
      by_cases hin : o ≤ p ∧ p < o + 4 * n ∧ (p - o) % 4 = 0
      · rw [if_pos hin, if_pos (by omega)]
      · rw [if_neg hin, if_neg (by omega)]

theorem forEach_setVal_only (o : Nat) (f : Nat → Word) (n : Nat) (s : State) :
    OnlyIn [.regs] s (forEach (List.range n) (fun i t => setVal (o + 4 * i) (f i) t) s) :=
  .forEach _ _ fun _ _ => setVal_only ..

theorem forEach_setVal_pend (o : Nat) (f : Nat → Word) (n : Nat) (s : State) :
    (forEach (List.range n) (fun i t => setVal (o + 4 * i) (f i) t) s).regs.pend = s.regs.pend := by
  induction n with
  | zero => rfl
  | succ n ih =>
    rw [forEach, List.range_succ, List.foldl_append]
    exact ih

theorem length_leBytes (n v : Nat) : (leBytes n v).length = n := by
  induction n generalizing v with
  | zero => rfl
  | succ n ih => rw [leBytes, List.length_cons, ih]

theorem length_bankBytes (bank : Nat → Word) (off n : Nat) : (bankBytes bank off n).length = 4 * n := by
  simp [bankBytes, length_leBytes, List.length_flatMap, Nat.mul_comm]

theorem bankBytes_congr {bank bank' : Nat → Word} {off n : Nat} (h : ∀ i < n, bank (off + 4 * i) = bank' (off + 4 * i)) :
    bankBytes bank off n = bankBytes bank' off n := by
  unfold bankBytes
  refine congrArg List.flatten (List.map_congr_left fun i hi => ?_)
  rw [h i (List.mem_range.1 hi)]

/-- The state in which an access of the owner's debug path acts: its use is marked (R385). -/
def dbgMarked (ps : List Nat) (s : State) : State := setValBits 0xA00128 0 1 1 (touch ps s)

theorem dbgMarked_only (ps : List Nat) (s : State) : OnlyIn [.regs] s (dbgMarked ps s) :=
  (setValBits_only ..).via (by decide) (touch_only ..)

theorem valW_dbgMarked {o : Nat} (ps : List Nat) (s : State) (h : 0xA00128 < o) : valW (dbgMarked ps s) o = valW s o := by
  rw [dbgMarked, setValBits, valW_setVal_of_ne _ _ (by omega), valW_touch_of_ne _ _ (by omega) (by omega)]

theorem debugUsed_dbgMarked (ps : List Nat) (s : State) : valBits (dbgMarked ps s) 0xA00128 0 1 = 1 := valBits_setValBits_self (by omega) ..

theorem dbgDone_pend (write : Bool) (st : Status) (s : State) : (dbgDone write st s).regs.pend = s.regs.pend := rfl

theorem dbgMarked_pend (ps : List Nat) (s : State) : (dbgMarked ps s).regs.pend = s.regs.pend := rfl

theorem valW_stepFree (s : State) (o : Nat) : valW (stepFree s) o = valW s o := rfl

theorem valW_dbgDone_self (write : Bool) (st : Status) (s : State) :
    valW (dbgDone write st s) 0xA00208 = BitVec.ofNat 32 (2 * b2n write + 4 + 8 * st.code) := valW_setVal ..

theorem valW_dbgDone_of_ne {o : Nat} (write : Bool) (st : Status) (s : State) (h : o ≠ 0xA00208) : valW (dbgDone write st s) o = valW s o :=
  valW_setVal_of_ne _ _ h

/-- The owner's debug read of a good address that reaches no RELEASING partition. -/
def dbgReadDone (space a : Nat) (s : State) : State :=
  let s1 := dbgMarked (dbgParts s space a) s
  dbgDone false .ok (stepFree (forEach (List.range 16) (fun i t =>
    setVal (0xA00240 + 4 * i) (BitVec.ofNat 32 (fld (dbgBytes s1 space a) (4 * i) 4)) t) s1))

/-- The owner's debug write of a good address that reaches no RELEASING partition. -/
def dbgWriteDone (space a : Nat) (s : State) : State :=
  let s1 := dbgMarked (dbgParts s space a) s
  dbgDone true .ok (stepFree (dbgStore space a (bankBytes (valW s1) 0xA00240 16) s1))

section

variable {w : Writer} {m space a : Nat} {s : State}

theorem dbgAccess_of_badAddr (hw : masterOf w = some m) (hm : mainOn s = true) (ho : ownerIs s m = true)
    (ha : a = val64 s 0xA00200 % 2 ^ 48) (hsp : space = bits (val64 s 0xA00200) 48 4) (write : Bool) (hbad : dbgAddrOk space a = false) :
    dbgAccess w write s = dbgDone write .illegalValue s := by
  unfold dbgAccess
  rw [hw]
  dsimp only
  rw [← hsp, ← ha]
  simp [hm, ho, ne_off_of_mainOn hm, hbad]

theorem dbgAccess_of_releasing (hw : masterOf w = some m) (hm : mainOn s = true) (ho : ownerIs s m = true)
    (ha : a = val64 s 0xA00200 % 2 ^ 48) (hsp : space = bits (val64 s 0xA00200) 48 4) (write : Bool) (hok : dbgAddrOk space a = true)
    (hrel : ∃ p ∈ dbgParts s space a, pstate s p = 2) : dbgAccess w write s = dbgDone write .wrongState (stepFree s) := by
  have hany : ((dbgParts s space a).any fun p => pstate s p == 2) = true := by simpa using hrel
  unfold dbgAccess
  rw [hw]
  dsimp only
  rw [← hsp, ← ha]
  simp only [hm, ho, ne_off_of_mainOn hm, hok, hany, Bool.not_true, Bool.false_eq_true, and_false, or_self, if_false, if_true]

theorem dbgAccess_of_good (hw : masterOf w = some m) (hm : mainOn s = true) (ho : ownerIs s m = true)
    (ha : a = val64 s 0xA00200 % 2 ^ 48) (hsp : space = bits (val64 s 0xA00200) 48 4) (write : Bool) (hok : dbgAddrOk space a = true)
    (hrel : ∀ p ∈ dbgParts s space a, pstate s p ≠ 2) :
    dbgAccess w write s = if write = true then dbgWriteDone space a s else dbgReadDone space a s := by
  have hany : ((dbgParts s space a).any fun p => pstate s p == 2) = false := by simpa using hrel
  unfold dbgAccess
  rw [hw]
  dsimp only
  rw [← hsp, ← ha]
  simp only [hm, ho, ne_off_of_mainOn hm, hok, hany, Bool.not_true, Bool.false_eq_true, and_false, or_self, if_false]
  unfold dbgReadDone dbgWriteDone dbgMarked
  cases write <;> simp only [Bool.false_eq_true, if_false, if_true]

end

theorem dbgReadDone_pend (space a : Nat) (s : State) : (dbgReadDone space a s).regs.pend = s.regs.pend := by
  unfold dbgReadDone
  dsimp only
  rw [dbgDone_pend, stepFree_regs, forEach_setVal_pend, dbgMarked_pend]

theorem valW_dbgReadDone (space a : Nat) (s : State) (o : Nat) :
    valW (dbgReadDone space a s) o =
      if o = 0xA00208 then 4
      else if 0xA00240 ≤ o ∧ o < 0xA00280 ∧ (o - 0xA00240) % 4 = 0 then
        BitVec.ofNat 32 (fld (dbgBytes (dbgMarked (dbgParts s space a) s) space a) (4 * ((o - 0xA00240) / 4)) 4)
      else valW (dbgMarked (dbgParts s space a) s) o := by
  unfold dbgReadDone
  dsimp only
  split
  next h => rw [h]; exact valW_dbgDone_self ..
  next h => rw [valW_dbgDone_of_ne _ _ _ h, valW_stepFree, valW_forEach_setVal]

theorem dbgReadDone_only (space a : Nat) (s : State) : OnlyIn [.regs, .freeCnt] s (dbgReadDone space a s) :=
  (dbgDone_only ..).via (by decide) ((stepFree_only ..).via (by decide) ((forEach_setVal_only ..).via (by decide) ((dbgMarked_only ..).sub (by decide))))

theorem mainOn_dbgMarked (ps : List Nat) (s : State) : mainOn (dbgMarked ps s) = mainOn s := rfl

/-- What the debug path stores in local memory at `a`: the bytes of SEC_DBG_DATA. -/
def dbgStored (a : Nat) (s : State) : State := writeMem a (bankBytes (valW s) 0xA00240 16) (dbgMarked (dbgParts s 0 a) s)

theorem dbgWriteDone_of_memory {a : Nat} {s : State} (hm : mainOn s = true) :
    dbgWriteDone 0 a s = dbgDone true .ok (stepFree (dbgStored a s)) := by
  have hbytes : bankBytes (valW (dbgMarked (dbgParts s 0 a) s)) 0xA00240 16 = bankBytes (valW s) 0xA00240 16 :=
    bankBytes_congr fun i _ => valW_dbgMarked _ _ (by omega)
  have hstore (d : List Byte) (t : State) (ht : mainOn t = true) : dbgStore 0 a d t = writeMem a d t := if_pos ht
  unfold dbgWriteDone
  dsimp only
  rw [hstore _ (dbgMarked _ s) hm, hbytes, dbgStored]

theorem memOk_dbgMarked {ps : List Nat} {s : State} (h : memOk s) : memOk (dbgMarked ps s) := (dbgMarked_only ..).memOk (by decide) h

theorem readByte_dbgMarked (ps : List Nat) (s : State) (b : Nat) : readByte (dbgMarked ps s) b = readByte s b :=
  readByte_of_cells ((dbgMarked_only ..).cells_eq (by decide)) b

theorem readByte_dbgDone (write : Bool) (st : Status) (s : State) (b : Nat) : readByte (dbgDone write st (stepFree s)) b = readByte s b :=
  readByte_of_cells (((dbgDone_only ..).cells_eq (by decide)).trans ((stepFree_only ..).cells_eq (by decide))) b

theorem dbgStored_only (a : Nat) (s : State) : OnlyIn [.regs, .mem, .cells] s (dbgStored a s) :=
  (writeMem_only ..).via (by decide) ((dbgMarked_only ..).sub (by decide))

theorem readByte_dbgStored_at {a i : Nat} {s : State} (h : memOk s) (hi : i < 64) (ha : a + 64 ≤ memSize) :
    readByte (dbgStored a s) (a + i) = (bankBytes (valW s) 0xA00240 16).getD i 0 := by
  have hlen := length_bankBytes (valW s) 0xA00240 16
  rw [dbgStored, readByte_writeMem_at a _ i (memOk_dbgMarked h) (by omega) (by omega)]

theorem readByte_dbgStored_outside {a b : Nat} {s : State} (h : memOk s) (hb : b < a ∨ a + 64 ≤ b) :
    readByte (dbgStored a s) b = readByte s b := by
  have hlen := length_bankBytes (valW s) 0xA00240 16
  rw [dbgStored, readByte_writeMem_of_outside a _ (memOk_dbgMarked h) (by omega), readByte_dbgMarked]

/-- The owner's write of SEC_TRACE_CTL. -/
theorem writeTraceCtl_of_owner {w : Writer} {m : Nat} {s : State} {v : Nat} (hw : masterOf w = some m) (hm : mainOn s = true)
    (ho : ownerIs s m = true) (hv : v < 2 ^ 26) :
    writeTraceCtl w v s =
      (let s1 := setVal 0xA00210 (BitVec.ofNat 32 v) s
       if bit v 0 = true ∧ valBits s 0xA00210 0 1 = 0 then showTrace { s1 with sec := { s1.sec with trace := [], traceNext := 0 } } else s1) := by
  have hv' : ¬ 67108864 ≤ v := by omega
  simp [writeTraceCtl, hw, hm, ho, ne_off_of_mainOn hm, hv']

theorem expertAccess_of_owner {w : Writer} {m : Nat} {s : State} (off : Nat) (write : Bool) (hw : masterOf w = some m) (ho : ownerIs s m = true)
    (hst : s.mgmt.st = .bringup ∨ s.mgmt.st = .test) :
    expertAccess w off write s = touch (activeParts s) (setValBits 0xA00128 1 1 1 s) := by
  have hm : mainOn s = true := by rcases hst with h | h <;> simp [mainOn, h]
  rcases hst with h | h <;> simp [expertAccess, hw, ho, hm, h]

/-- Settles O16: each access of the debug path in turn, the trace control, and the EXPERT window. -/
theorem debugPathLeavesItsMarks : Obligations.DebugPathLeavesItsMarks := by
  refine ⟨fun w m space a s hw hm ho ha hsp => ⟨fun hbad => ?_, fun hok hrel => ?_, fun hok hrel => ?_⟩, ?_, fun w m s hw hm ho => ⟨?_, ?_⟩⟩
  · exact congrArg Host.Outcome.next (dbgAccess_of_badAddr hw hm ho ha hsp false hbad)
  · exact congrArg Host.Outcome.next (dbgAccess_of_releasing hw hm ho ha hsp false hok hrel)
  · have hframe := dbgReadDone_only space a s
    refine ⟨dbgReadDone space a s, congrArg Host.Outcome.next (dbgAccess_of_good hw hm ho ha hsp false hok hrel), hframe, hframe.act_eq (by decide),
      dbgReadDone_pend .., valW_dbgReadDone .., ?_, fun i hi => ?_⟩
    · rw [valBits, valW_dbgReadDone, if_neg (by omega), if_neg (by omega)]
      exact debugUsed_dbgMarked ..
    · have hindex : (0xA00240 + 4 * i - 0xA00240) / 4 = i := by omega
      rw [valW_dbgReadDone, if_neg (by omega), if_pos (by omega), hindex]
      rfl
  · intro w m a s hw hm ho hok ha halign hlt hrel
    have hsize : memSize = 1649267441664 := rfl
    have haddr : dbgAddrOk 0 a = true := by simp [dbgAddrOk, halign, hlt]
    have hexec := dbgAccess_of_good (a := a) (space := 0) hw hm ho (by omega) (by rw [bits]; omega) true haddr hrel
    rw [if_pos rfl, dbgWriteDone_of_memory hm] at hexec
    have hframe : OnlyIn [.regs, .freeCnt, .mem, .cells] s (dbgDone true .ok (stepFree (dbgStored a s))) :=
      (dbgDone_only ..).via (by decide) ((stepFree_only ..).via (by decide) ((dbgStored_only ..).sub (by decide)))
    refine ⟨_, congrArg Host.Outcome.next hexec, hframe, hframe.act_eq (by decide), valW_dbgDone_self .., ?_, fun i hi => ?_, fun b hb => ?_⟩
    · rw [valBits, valW_dbgDone_of_ne _ _ _ (by omega), valW_stepFree, dbgStored, valW_of_regs ((writeMem_only ..).regs_eq (by decide))]
      exact debugUsed_dbgMarked ..
    · rw [readByte_dbgDone, readByte_dbgStored_at hok hi (by omega)]
    · rw [readByte_dbgDone, readByte_dbgStored_outside hok hb]
  · intro v hv
    have hexec := writeTraceCtl_of_owner hw hm ho hv
    dsimp only at hexec
    split at hexec
    next hen =>
      refine ⟨_, congrArg Host.Outcome.next hexec, (showTrace_only ..).via (by decide) (((setVal_only ..).sub (by decide)).upd_sec (by decide)),
        rfl, ?_, (if_pos hen).symm⟩
      rw [valW_showTrace _ (by omega)]
      exact (valW_setVal ..).trans (by simp)
    next hen =>
      exact ⟨_, congrArg Host.Outcome.next hexec, (setVal_only ..).sub (by decide), rfl, (valW_setVal ..).trans (by simp), (if_neg hen).symm⟩
  · intro off wr hst
    have hframe : OnlyIn [.regs] s (touch (activeParts s) (setValBits 0xA00128 1 1 1 s)) :=
      (touch_only ..).via (by decide) (setValBits_only ..)
    refine ⟨_, congrArg Host.Outcome.next (expertAccess_of_owner off.toNat wr.isSome hw ho hst), hframe, hframe.act_eq (by decide), rfl, ?_, fun p hp => ?_⟩
    · unfold valBits
      rw [valW_touch_of_ne _ _ (by omega) (by omega)]
      exact valBits_setValBits_self (by omega) ..
    · have hsame : val64 (setValBits 0xA00128 1 1 1 s) 0xA00120 = val64 s 0xA00120 := by
        simp [val64, setValBits, valW_setVal_of_ne]
      rw [bit_touch _ _ hp, contains_activeParts _ hp, hsame]

end Sys2Proof.Machine

namespace Sys2Proof.Machine

open Sys2Proof

/-! ## Admission (R320, R345) -/

/-- The command of a ring of the host as it is admitted. -/
def admitted (c : Cmd) (w : Work) (s : State) : Cmd :=
  { c with phase := .running, step := (takeStep s).1, admT := now s, work := w, stamp := s.rmx.epoch }

theorem admitCmd_of_host {c : Cmd} (h : c.ring ≠ deckRing) (w : Work) (s : State) : admitCmd c w s = setCmd (admitted c w s) (takeStep s).2 := by
  simp [admitCmd, h, admitted]

theorem getCmd_admitCmd {c : Cmd} (h : c.ring ≠ deckRing) (w : Work) (s : State) :
    getCmd (admitCmd c w s) c.ring c.rseq = some (admitted c w s) := by
  rw [admitCmd_of_host h]
  exact getCmd_setCmd_of_key _ rfl rfl

/-- A command that may be admitted, and that the row picks, is admitted as the row says. -/
theorem admitting_of_mayAdmit {s : State} {ring : Nat} {rseq : BitVec 32} {c : Cmd} (h : MayAdmit s ring rseq c) {pick : Cmd → Bool}
    (hp : pick c = true) (f : Cmd → State → State) : admitting ring rseq pick f s = f c s := by
  obtain ⟨hfound, -, -, -, hserves, hwaits, hfree, hmetered⟩ := h
  rcases hmetered with hm | hm <;> simp [admitting, hfound, hserves, hwaits, hp, hfree, hm]

theorem runningCmd_of_runs {s : State} {ring : Nat} {rseq : BitVec 32} {c : Cmd} (h : Runs s ring rseq c) : runningCmd s ring rseq = some c := by
  simp [runningCmd, h.found, h.phase]

/-- An address in the host's memory that passes its check is asked for over PCIe. -/
theorem startRead_of_host {c : Cmd} {a n : Nat} {s : State} (hr : c.ring ≠ deckRing) (hok : checkAddr s c a n = .ok) (hg : isGfa a = false) :
    startRead c a n s = (.wait, emit (.dmaRead (ringFn s c.ring) a n (.input c.ring c.rseq)) s) := by
  simp [startRead, hok, isScratch, hr, hg, cmdFn]

/-- An admitted command reads as its descriptor did. -/
theorem startRead_admitCmd {c : Cmd} {a n : Nat} {s : State} (hr : c.ring ≠ deckRing) (w : Work) (hok : checkAddr s c a n = .ok)
    (hg : isGfa a = false) :
    startRead (admitted c w s) a n (admitCmd c w s) =
      (.wait, emit (.dmaRead (ringFn s c.ring) a n (.input c.ring c.rseq)) (admitCmd c w s)) := by
  have hcheck : checkAddr (admitCmd c w s) (admitted c w s) a n = checkAddr s c a n := by
    rw [admitCmd_of_host hr]
    rfl
  have hfn : ringFn (admitCmd c w s) c.ring = ringFn s c.ring := by
    rw [admitCmd_of_host hr]
    rfl
  rw [startRead_of_host (c := admitted c w s) hr (hcheck.trans hok) hg]
  exact congrArg (fun k => (Got.wait, emit (.dmaRead k a n (.input c.ring c.rseq)) (admitCmd c w s))) hfn

/-! ## The range matcher (R301 to R305) -/

theorem admitMap_of_good {c : Cmd} {s : State} (hr : c.ring ≠ deckRing) (hd : mapDescOk c = true)
    (hok : checkAddr s c (fld c.desc 16 8) (64 * mapCount c) = .ok) (hg : isGfa (fld c.desc 16 8) = false) :
    admitMap c s = emit (.dmaRead (ringFn s c.ring) (fld c.desc 16 8) (64 * mapCount c) (.input c.ring c.rseq)) (admitCmd c (.map [] false) s) := by
  unfold admitMap
  dsimp only
  rw [getCmd_admitCmd hr, hd, Option.getD_some, startRead_admitCmd hr _ hok hg]
  rfl

theorem rmx_held_self {x : Rmx} (h : x.held = []) : { x with held := [] } = x := by
  rw [← h]

theorem serveHeld_of_none {s : State} (h : s.rmx.held = []) : serveHeld s = s := by
  unfold serveHeld
  simp only [h, List.filter_nil, forEach, List.foldl_nil, rmx_held_self h]

/-- No access that was lost waits for another map. -/
theorem replayLostGfa_of_none {s : State} (h : ∀ e ∈ s.cmds, e.2.phase = .running → ∀ u ∈ e.2.subs, u.lost = false) : replayLostGfa s = s := by
  unfold replayLostGfa
  rw [List.filter_eq_nil_iff.2]
  · rfl
  · intro e he
    simp only [Bool.and_eq_true, beq_iff_eq, List.any_eq_true]
    rintro ⟨⟨hp, -⟩, u, hu, ⟨hl, -⟩, -⟩
    simp [h e he hp u hu] at hl

theorem mem_tset {α : Type} {t : Table α} {k : Nat} {v : α} {e : Nat × α} (h : e ∈ tset t k v) : e = (k, v) ∨ e ∈ t := by
  induction t with
  | nil => simpa [tset] using h
  | cons x t ih =>
    obtain ⟨j, w⟩ := x
    unfold tset at h
    split at h
    · simpa using h
    · split at h
      · rcases List.mem_cons.1 h with h | h
        · exact .inl h
        · exact .inr (.tail _ h)
      · rcases List.mem_cons.1 h with h | h
        · exact .inr (h ▸ .head _)
        · exact (ih h).imp id (.tail _)

/-- The state once an epoch has retired and no update waits for its turn. -/
theorem mapTurn_of_none {s : State} (h : firstUpdate s = none) (fuel : Nat) : mapTurn fuel s = s := by
  cases fuel with
  | zero => rfl
  | succ n =>
    unfold mapTurn
    rw [h]
    exact ite_self _

theorem firstUpdate_of_cmds {s t : State} (h : t.cmds = s.cmds) : firstUpdate t = firstUpdate s := by simp [firstUpdate, h]

/-- The retirement of an epoch, where no update waits. -/
theorem retireEpoch_of_none {s : State} (h : firstUpdate s = none) :
    retireEpoch s =
      showRmx (cntAdd rmxBorrowed 1 (cntAdd rmxRetires 1 { s with rmx := { s.rmx with ents := retireEnts s.rmx.ents, retiring := none } })) := by
  unfold retireEpoch
  dsimp only
  rw [mapTurn_of_none]
  exact (firstUpdate_of_cmds ((showRmx_only ..).cmds_eq (by decide))).trans h

/-- Every entry after a retirement is an entry before it that was not DYING, and is BORN no more. -/
theorem retireEnts_spec {t : Table RmxEnt} {i : Nat} {e : RmxEnt} (h : tget (retireEnts t) i = some e) :
    e.born = false ∧ ∃ e0, (i, e0) ∈ t ∧ e0.dying = false ∧ e = { e0 with born := false } := by
  rw [retireEnts, tget_tmap] at h
  obtain ⟨e0, h0, rfl⟩ := Option.map_eq_some_iff.1 h
  have hmem := tget_mem h0
  rw [tfilter, List.mem_filter] at hmem
  exact ⟨rfl, e0, hmem.1, by simpa using hmem.2, rfl⟩

theorem cnt_setVal (o p : Nat) (v : Word) (s : State) : cnt (setVal o v s) p = cnt s p := rfl

theorem cnt_showRmx (s : State) (p : Nat) : cnt (showRmx s) p = cnt s p := rfl

/-! ## Lookups (R308) -/

theorem ownerWrite_of_owner {w : Writer} {off : Nat} {s : State} (hserved : servedWrite s off = true) (ho : isOwner s w = true) (f : State → State) :
    ownerWrite w off f s = f s := by
  simp [ownerWrite, hserved, ho]

theorem valW_setVal64_low (o v : Nat) (s : State) : valW (setVal64 o v s) o = BitVec.ofNat 32 v := by
  unfold setVal64
  rw [valW_setVal_of_ne _ _ (by omega), valW_setVal]

/-- A lookup's hit stands in RMX_LK_RES and selects the entry. -/
theorem showLk_hit {i : Nat} (hi : i < 65536) (multi done stale : Bool) (n : Nat) (s : State) :
    valBits (showLk (some i) multi done stale n s) 0x500030 0 16 = i ∧ valBits (showLk (some i) multi done stale n s) 0x500030 16 1 = 1 ∧
      (valW (showLk (some i) multi done stale n s) 0x500040).toNat = i := by
  unfold showLk valBits
  dsimp only
  rw [valW_setVal_of_ne _ _ (by omega), valW_setVal64_low, valW_setVal, BitVec.toNat_ofNat, BitVec.toNat_ofNat]
  have hm : b2n multi ≤ 1 := by cases multi <;> decide
  simp only [Option.getD_some, Option.isSome_some, b2n, if_true, bits]
  omega

/-- The commit of a map epoch, where the update's command is there and nothing waits for the epoch. -/
theorem exec_mapCommit {s : State} {w : MapWrite} {c : Cmd} (hs : serving s = true) (hw : s.rmx.writing = some w)
    (hget : getCmd s c.ring c.rseq = some c) (hkey : w.key = cmdKey c.ring c.rseq) (hr : c.ring ≠ deckRing) (hheld : s.rmx.held = [])
    (hlost : ∀ e ∈ s.cmds, ∀ u ∈ e.2.subs, u.lost = false) :
    exec .mapCommit s = .next (showRmx (finish c .ok (mapResult w)
      { s with rmx := { s.rmx with epoch := w.epoch, retiring := some (now s + 1000000), writing := none } })) := by
  have hget' : tget s.cmds w.key = some c := hkey ▸ hget
  change execMapCommit s = _
  unfold execMapCommit
  simp only [hw, hs, Bool.not_true, Bool.false_eq_true, if_false, hget']
  rw [serveHeld_of_none, replayLostGfa_of_none]
  · intro e he hp u hu
    rw [finish_cmds hr] at he
    rcases mem_tset he with rfl | he
    · simp [finished] at hp
    · exact hlost e he u hu
  · exact (congrArg Rmx.held ((finish_only ..).rmx_eq (by decide))).trans hheld

/-- The commit's state: its command has ended, and the map stands at the new epoch. -/
theorem exec_epochForcedRetire {s : State} {due : Nat} (hs : serving s = true) (hret : s.rmx.retiring = some due) :
    exec .epochForcedRetire s =
      .next (post { cls := 8, code := 3 } (cntAdd rmxForced 1 (setValBits 0x500004 2 1 1 (retireEpoch (advanceTo due s))))) := by
  change execEpochForcedRetire s = _
  simp [execEpochForcedRetire, hret, hs]

theorem retireEpoch_rmx {s : State} (h : firstUpdate s = none) :
    (retireEpoch s).rmx = { s.rmx with ents := retireEnts s.rmx.ents, retiring := none } := by
  rw [retireEpoch_of_none h, (showRmx_only ..).rmx_eq (by decide)]
  rfl

theorem retireEpoch_frame {s : State} (h : firstUpdate s = none) : OnlyIn [.rmx, .regs] s (retireEpoch s) := by
  rw [retireEpoch_of_none h]
  exact (showRmx_only ..).via (by decide) ((cntAdd_only ..).via (by decide) ((cntAdd_only ..).via (by decide)
    ((OnlyIn.refl _ s).upd_rmx (by decide))))

theorem cnt_retireEpoch {s : State} (h : firstUpdate s = none) : cnt (retireEpoch s) rmxForced = cnt s rmxForced := by
  rw [retireEpoch_of_none h, cnt_showRmx, cnt_cntAdd_of_ne _ _ (by decide), cnt_cntAdd_of_ne _ _ (by decide)]
  rfl

/-- A lookup under the current epoch. -/
def lookedUp (s : State) : State :=
  let ms := rmxMatches s.rmx s.rmx.epoch (val64 s 0x500020)
  let s1 := countResolved { res := .ok [], lookups := 1, misses := b2n ms.isEmpty, multis := b2n (decide (1 < ms.length)) }
    (setValBits 0x500028 2 1 0 s)
  { s1 with rmx := { s1.rmx with lkEpoch := s.rmx.epoch, lkKey := val64 s 0x500020, lkLast := ms.head? } }

/-- The state that RMX_LK_GO leaves under the current epoch. -/
def lookupDone (s : State) : State :=
  let ms := rmxMatches s.rmx s.rmx.epoch (val64 s 0x500020)
  showLk ((ms.head?).map (·.1)) (decide (1 < ms.length)) ms.isEmpty false ms.length (lookedUp s)

theorem exec_rmxLookupGo {w : Writer} {s : State} (hserved : servedWrite s 0x500028 = true) (ho : isOwner s w = true) :
    exec (.rmxLookupGo w false) s = .next (lookupDone s) := by
  have hkey : val64 (setValBits 0x500028 2 1 0 s) 0x500020 = val64 s 0x500020 := by simp [val64, setValBits, valW_setVal_of_ne]
  refine congrArg Host.Outcome.next ((ownerWrite_of_owner hserved ho _).trans ?_)
  simp only [Bool.false_eq_true, false_and, if_false, b2n, hkey]
  rfl

theorem lookupDone_only (s : State) : OnlyIn [.regs, .rmx] s (lookupDone s) :=
  (showLk_only ..).via (by decide)
    (((countResolved_only ..).via (by decide) ((setValBits_only ..).sub (by decide))).upd_rmx (by decide))

theorem lookupDone_rmx (s : State) : (lookupDone s).rmx =
    { s.rmx with lkEpoch := s.rmx.epoch, lkKey := val64 s 0x500020, lkLast := (rmxMatches s.rmx s.rmx.epoch (val64 s 0x500020)).head? } :=
  ((showLk_only ..).rmx_eq (by decide))

/-- The entry that RMX_LK_STEP goes on to. -/
theorem exec_rmxLookupStep {w : Writer} {s : State} {e d : Nat × RmxEnt} (hserved : servedWrite s 0x500028 = true) (ho : isOwner s w = true)
    (hepoch : s.rmx.lkEpoch = s.rmx.epoch) (hlast : s.rmx.lkLast = some e)
    (hnext : ((rmxMatches s.rmx s.rmx.epoch s.rmx.lkKey).filter fun x => ranksBefore e.1 e.2 x.1 x.2).head? = some d) :
    ∃ multi n, exec (.rmxLookupStep w) s = .next (showLk (some d.1) multi false false n { s with rmx := { s.rmx with lkLast := some d } }) := by
  have hage : stampAge s.rmx s.rmx.lkEpoch = .now := if_pos hepoch
  obtain ⟨rest, hrest⟩ := List.head?_eq_some_iff.1 hnext
  refine ⟨valBits s 0x500030 17 1 == 1, valBits s 0x500034 0 17, congrArg Host.Outcome.next ((ownerWrite_of_owner hserved ho _).trans ?_)⟩
  dsimp only
  rw [hage, hlast, hepoch]
  dsimp only
  rw [hrest]

/-- Settles O17: the list that is asked for, the commit, the two retirements, and the two lookups. -/
theorem rangeMapMovesByEpochs : Obligations.RangeMapMovesByEpochs := by
  refine ⟨fun s hs => ⟨fun ring rseq c hc hop hd hok hg => ?_, fun w c hw hget hkey hphase hr hheld hlost => ?_,
    fun due hret hnone => ⟨fun hrefs => ?_, ?_⟩⟩, fun w s hserved ho => ⟨?_, fun e d hepoch hlast hnext hlt => ?_⟩⟩
  · have hr : c.ring ≠ deckRing := hc.ringIs ▸ hc.host
    refine congrArg Host.Outcome.next ((admitting_of_mayAdmit hc (by simpa using hop) admitMap).trans ?_)
    rw [admitMap_of_good hr hd hok hg, hc.ringIs, hc.rseqIs]
  · have hframe : OnlyIn (.rmx :: endAreas) s (showRmx (finish c .ok (mapResult w)
        { s with rmx := { s.rmx with epoch := w.epoch, retiring := some (now s + 1000000), writing := none } })) :=
      (showRmx_only ..).via (by decide) ((finish_only ..).via (by decide) ((OnlyIn.refl _ s).upd_rmx (by decide)))
    have hrmx := ((showRmx_only (finish c .ok (mapResult w)
        { s with rmx := { s.rmx with epoch := w.epoch, retiring := some (now s + 1000000), writing := none } })).rmx_eq (by decide)).trans ((finish_only ..).rmx_eq (by decide))
    refine ⟨_, exec_mapCommit hs hw hget hkey hr hheld hlost, hframe, hframe.act_eq (by decide), ?_, ?_, ?_, ?_,
      (endsWith_finish hr ..).of_cmds ((showRmx_only ..).cmds_eq (by decide))⟩ <;> rw [hrmx]
  · have hexec : exec .epochRetire s = .next (retireEpoch s) := by
      change execEpochRetire s = _
      simp [execEpochRetire, hret, hrefs, hs]
    have hframe := retireEpoch_frame hnone
    refine ⟨_, hexec, hframe, hframe.act_eq (by decide), ?_, ?_, ?_, ?_⟩ <;> rw [retireEpoch_rmx hnone]
    exact fun i e h => retireEnts_spec h
  · have hnone' : firstUpdate (advanceTo due s) = none := hnone
    have hpost := post_only { cls := 8, code := 3 } (cntAdd rmxForced 1 (setValBits 0x500004 2 1 1 (retireEpoch (advanceTo due s))))
    have hretire := retireEpoch_frame hnone'
    refine ⟨_, exec_epochForcedRetire hs hret, ?_, ?_, ?_, ?_, ?_, (hpost.mem_eq (by decide)).trans (hretire.mem_eq (by decide)), (hpost.seqs_eq (by decide)).trans (hretire.seqs_eq (by decide))⟩
    · rw [hpost.rmx_eq (by decide), cntAdd_rmx, setValBits_rmx, retireEpoch_rmx hnone']
      rfl
    · rw [hpost.rmx_eq (by decide), cntAdd_rmx, setValBits_rmx, retireEpoch_rmx hnone']
      rfl
    · rw [hpost.rmx_eq (by decide), cntAdd_rmx, setValBits_rmx, retireEpoch_rmx hnone']
    · rw [now, hpost.clk_eq (by decide), cntAdd_clk, setValBits_clk, hretire.clk_eq (by decide)]
      exact le_max_right ..
    · rw [cnt_of_regs (hpost.regs_eq (by decide)), cnt_cntAdd_self, setValBits, cnt_setVal, cnt_retireEpoch hnone']
      rfl
  · have hframe := lookupDone_only s
    refine ⟨_, exec_rmxLookupGo hserved ho, hframe, hframe.act_eq (by decide), ?_, ?_, ?_, fun e he hlt => ?_⟩
    iterate 3 rw [lookupDone_rmx]
    unfold lookupDone
    dsimp only
    rw [he]
    exact showLk_hit hlt ..
  · obtain ⟨multi, n, hexec⟩ := exec_rmxLookupStep hserved ho hepoch hlast hnext
    obtain ⟨hindex, -, hsel⟩ := showLk_hit hlt multi false false n { s with rmx := { s.rmx with lkLast := some d } }
    exact ⟨_, hexec, (showLk_only ..).via (by decide) ((OnlyIn.refl _ s).upd_rmx (by decide)), (showLk_only ..).rmx_eq (by decide), hindex, hsel⟩

end Sys2Proof.Machine

namespace Sys2Proof.Machine

open Sys2Proof

/-! ## Requests (R424) -/

theorem masterOf_pf_or_mgmt {w : Writer} {m : Nat} (h : masterOf w = some m) : w = .pf ∨ w = .mgmt m := by
  cases w with
  | pf => exact .inl rfl
  | mgmt k => cases h; exact .inr rfl
  | vf n => cases h

/-- Each row of MGMT_REQ is a request, with the states that take it. -/
theorem exec_requestRow {w : Writer} {c : Instr} {ok : NodeState → Bool} (h : (c, ok) ∈ requestRows w) :
    ∃ f, ∀ s, exec c s = .next (request w ok f s) := by
  simp only [requestRows, List.mem_cons, Prod.mk.injEq, List.not_mem_nil, or_false] at h
  rcases h with ⟨rfl, rfl⟩ | ⟨rfl, rfl⟩ | ⟨rfl, rfl⟩ | ⟨rfl, rfl⟩ | ⟨rfl, rfl⟩ | ⟨rfl, rfl⟩ | ⟨rfl, rfl⟩ | ⟨rfl, rfl⟩ <;>
    exact ⟨_, fun _ => rfl⟩

section

variable {w : Writer} {m : Nat} {ok : NodeState → Bool} {f : State → State} {s : State}

theorem request_of_notOwner (hw : masterOf w = some m) (hserved : servedWrite s 0xB00004 = true) (hpf : w = .pf → mainOn s = true)
    (ho : ownerIs s m = false) : request w ok f s = setReq .notOwner (rejectWrite w 0xB00004 .notOwner s) := by
  have hgate : ¬ (w = .pf ∧ mainOn s = false) := fun ⟨h, h'⟩ => by simp [hpf h] at h'
  simp [request, hw, hserved, hgate, ho]

theorem request_of_otherState (hw : masterOf w = some m) (hserved : servedWrite s 0xB00004 = true) (hpf : w = .pf → mainOn s = true)
    (ho : ownerIs s m = true) (hok : ok s.mgmt.st = false) : request w ok f s = setReq .wrongState s := by
  have hgate : ¬ (w = .pf ∧ mainOn s = false) := fun ⟨h, h'⟩ => by simp [hpf h] at h'
  simp [request, hw, hserved, hgate, ho, hok]

theorem request_of_good (hw : masterOf w = some m) (hserved : servedWrite s 0xB00004 = true) (hpf : w = .pf → mainOn s = true)
    (ho : ownerIs s m = true) (hok : ok s.mgmt.st = true) : request w ok f s = f s := by
  have hgate : ¬ (w = .pf ∧ mainOn s = false) := fun ⟨h, h'⟩ => by simp [hpf h] at h'
  simp [request, hw, hserved, hgate, ho, hok]

end

/-- MGMT_REQ is served in every state but OFF. -/
theorem servedWrite_request {s : State} (h : s.mgmt.st ≠ .off) : servedWrite s 0xB00004 = true := by
  unfold servedWrite
  cases hst : s.mgmt.st <;> first | rfl | exact absurd hst h

theorem mainOn_iff (s : State) : mainOn s = true ↔ s.mgmt.st = .bringup ∨ s.mgmt.st = .ready ∨ s.mgmt.st = .degraded ∨ s.mgmt.st = .test := by
  unfold mainOn
  cases s.mgmt.st <;> decide

theorem valW_setReq_of_ne {o : Nat} (st : Status) (s : State) (h : o ≠ 0xB00008) : valW (setReq st s) o = valW s o := valW_setVal_of_ne _ _ h

theorem val64_setReq_enterState (st : Status) (n : NodeState) (cause w0 : Nat) (s : State) :
    val64 (setReq st (enterState n cause w0 s)) 0xA00120 = val64 s 0xA00120 := by
  simp [val64, valW_setReq_of_ne, valW_enterState_of_ne]

theorem val64_setValBits_of_ne {o p : Nat} (lo w x : Nat) (s : State) (h : p ≠ o) (h' : p + 4 ≠ o) : val64 (setValBits o lo w x s) p = val64 s p := by
  simp [val64, setValBits, valW_setVal_of_ne _ _ h, valW_setVal_of_ne _ _ h']

theorem enterState_frame (st : NodeState) (cause w0 : Nat) (s : State) : OnlyIn [.regs, .mgmt, .pins, .st] s (enterState st cause w0 s) :=
  enterState_only ..

/-- What enters a state under a request. -/
theorem setReq_enterState_only (r : Status) (st : NodeState) (cause w0 : Nat) (s : State) :
    OnlyIn [.regs, .mgmt, .pins, .st] s (setReq r (enterState st cause w0 s)) :=
  (setReq_only ..).via (by decide) (enterState_only ..)

/-- Settles O18: the two refusals of every request, and the effect of each kept form. -/
theorem ownerRequestsMoveTheState : Obligations.OwnerRequestsMoveTheState := by
  refine ⟨fun w m c ok s hrow hw hserved hpf => ?_, fun w m s hw ho => ⟨fun hst => ?_, fun hst hj => ?_, fun hst hstep hnpf => ?_, fun hst hheld => ?_⟩,
    fun m s ho hst => ⟨fun hv => ?_, fun hv hstep htherm => ?_⟩⟩
  · obtain ⟨f, hexec⟩ := exec_requestRow hrow
    exact ⟨fun ho => by rw [hexec, request_of_notOwner hw hserved hpf ho], fun ho hok => by rw [hexec, request_of_otherState hw hserved hpf ho hok]⟩
  · have hmain : mainOn s = true := (mainOn_iff s).2 (by tauto)
    have hframe : OnlyIn [.regs, .mgmt, .pins, .st] s
        (touch (activeParts s) (setValBits 0xA00128 2 1 1 (setReq .ok (enterState .test 8 0 s)))) :=
      (touch_only ..).via (by decide) ((setValBits_only ..).via (by decide) (setReq_enterState_only ..))
    refine ⟨_, congrArg Host.Outcome.next (request_of_good hw (servedWrite_request (ne_off_of_mainOn hmain)) (fun _ => hmain) ho ?_), hframe,
      rfl, rfl, ?_, fun p hp => ?_, hframe.act_eq (by decide)⟩
    · rcases hst with h | h <;> rw [h] <;> rfl
    · rw [valBits, valW_touch_of_ne _ _ (by omega) (by omega)]
      exact valBits_setValBits_self (by omega) ..
    · rw [bit_touch _ _ hp, contains_activeParts _ hp, val64_setValBits_of_ne _ _ _ _ (by omega) (by omega), val64_setReq_enterState]
  · have hmain : mainOn s = true := (mainOn_iff s).2 (by tauto)
    have hframe := setReq_enterState_only .ok (servingState s) 9 0 s
    refine ⟨_, congrArg Host.Outcome.next ((request_of_good hw (servedWrite_request (ne_off_of_mainOn hmain)) (fun _ => hmain) ho ?_).trans
      (congrArg (setReq .ok) (if_neg (by simp [hj])))), hframe, rfl, hst, hframe.act_eq (by decide)⟩
    rw [hst]
    rfl
  · have hrails : railsDown 15 s = s := by
      have hoff : mainOn s = false := by simp [mainOn, hst]
      simp [railsDown, hoff, hstep]
    have hframe := setReq_enterState_only .ok .recovery 15 0 s
    refine ⟨_, congrArg Host.Outcome.next ((request_of_good hw (servedWrite_request (by simp [hst])) (fun h => absurd h hnpf) ho ?_).trans
      (congrArg (fun u => setReq .ok (enterState .recovery 15 0 u)) hrails)), hframe, rfl, hst, hframe.act_eq (by decide)⟩
    rw [hst]
    rfl
  · have hmain : mainOn s = true := (mainOn_iff s).2 (by tauto)
    have hframe : OnlyIn [.regs, .mgmt] s (setReq .ok (showState { s with mgmt := { s.mgmt with held := false } })) :=
      (setReq_only ..).via (by decide) ((showState_only ..).via (by decide) ((OnlyIn.refl _ s).upd_mgmt (by decide) (.inr rfl)))
    refine ⟨_, congrArg Host.Outcome.next ((request_of_good hw (servedWrite_request (ne_off_of_mainOn hmain)) (fun _ => hmain) ho ?_).trans
      (if_pos hheld)), hframe, rfl, hframe.act_eq (by decide)⟩
    rw [hst]
    rfl
  · refine congrArg Host.Outcome.next ((request_of_good (w := .mgmt m) rfl (servedWrite_request (by simp [hst])) (by simp) ho ?_).trans ?_)
    · rw [hst]
      rfl
    · rw [hv]
      rfl
  · have hpins : { s.pins with thermTrip := false } = s.pins := by rw [← htherm]
    have hreq : reqPowerOn (.mgmt m) s = startBoot 2 (setReq .ok s) := by
      refine (request_of_good (w := .mgmt m) rfl (servedWrite_request (by simp [hst])) (by simp) ho ?_).trans ?_
      · rw [hst]
        rfl
      · rw [hv, hstep, htherm, hpins]
        simp
    have hframe : OnlyIn [.regs, .mgmt] s (startBoot 2 (setReq .ok s)) := (startBoot_only ..).via (by decide) ((setReq_only ..).sub (by decide))
    refine ⟨_, congrArg Host.Outcome.next hreq, hframe, (hframe.st_eq (by decide)).trans hst, rfl, ?_⟩
    have hval : valW (startBoot 2 (setReq .ok s)) 0xB00008 = BitVec.ofNat 32 (2 ^ 16) := by
      unfold startBoot toStep
      rw [valW_showState_of_ne _ (by omega)]
      exact valW_setVal ..
    rw [hval]
    rfl

/-! ## Resets (R326, R327, R422, R439) -/

/-- A cold state stays one while only registers and the management unit move on, but for the fuses. -/
theorem coldState_of_frame {s t u : State} (h : coldState s t) (hf : OnlyIn [.regs, .mgmt] t u) (hprev : u.mgmt.prev = t.mgmt.prev)
    (hval : ∀ o, 0xA00600 ≤ o → o < 0xA00620 → valW u o = valW t o) : coldState s u := by
  obtain ⟨hst, hpv, hmem, hcmds, hseqs, hshards, hret, hwalk, hfab, hrma, hrmx, hdeck, hhost, hslots, hkeys, hcold, hown, hmss, hnode, hassay, hfuse⟩ := h
  refine ⟨(hf.st_eq (by decide)).trans hst, hprev.trans hpv, (hf.mem_eq (by decide)).trans hmem, (hf.cmds_eq (by decide)).trans hcmds, (hf.seqs_eq (by decide)).trans hseqs, (hf.shards_eq (by decide)).trans hshards,
    (hf.retained_eq (by decide)).trans hret, (hf.walk_eq (by decide)).trans hwalk, (hf.fab_eq (by decide)).trans hfab, (hf.rma_eq (by decide)).trans hrma, (hf.rmx_eq (by decide)).trans hrmx, (hf.deck_eq (by decide)).trans hdeck,
    (hf.host_eq (by decide)).trans hhost, ?_, ?_, ?_, (hf.own_eq (by decide)).trans hown, ?_, ?_, (hf.assay_eq (by decide)).trans hassay, fun c => ?_⟩
  · rw [hf.sec_eq (by decide), hslots]
  · rw [hf.sec_eq (by decide), hkeys]
  · rw [hf.sec_eq (by decide), hcold]
  · rw [hf.clk_eq (by decide), hmss]
  · rw [hf.clk_eq (by decide), hnode]
  · by_cases hc : c = 0 ∨ 7 < c
    · exact .inr hc
    · have hsame : fuseSvn u c = fuseSvn t c := by
        unfold fuseSvn valBits
        rw [hval _ (by omega) (by omega)]
      rw [hsame]
      exact hfuse c

theorem valW_toStep_of_ne {o : Nat} (n : Nat) (s : State) (h : o ≠ 0xB00000) : valW (toStep n s) o = valW s o := valW_showState_of_ne _ h

theorem valW_startBoot_of_ne {o : Nat} (cause : Nat) (s : State) (h : o ≠ 0xB00000) : valW (startBoot cause s) o = valW s o := valW_toStep_of_ne _ _ h

theorem coldState_setReq {s t : State} (st : Status) (h : coldState s t) : coldState s (setReq st t) :=
  coldState_of_frame h ((setReq_only ..).sub (by decide)) rfl fun _ _ _ => valW_setReq_of_ne _ _ (by omega)

theorem coldState_startBoot {s t : State} (cause : Nat) (h : coldState s t) : coldState s (startBoot cause t) :=
  coldState_of_frame h (startBoot_only ..) rfl fun _ _ _ => valW_startBoot_of_ne _ _ (by omega)

/-- What a warm reset's save keeps before the registers are shown anew (R439). -/
structure Saved (s t : State) : Prop where
  regs : t.regs = s.regs
  cells : t.mem.cells = s.mem.cells
  err : t.mem.err = s.mem.err
  regions : t.rma.regions = s.rma.regions
  counters : t.rma.counters = s.rma.counters
  ents : t.rmx.ents = s.rmx.ents
  epoch : t.rmx.epoch = s.rmx.epoch
  slots : t.sec.slots = s.sec.slots
  retained : t.retained = []
  deck : t.deck = {}
  cmds : ∀ e ∈ t.cmds, e.2.ring = mgmtRing

/-- No pending set changes while registers are shown. -/
structure ShowsOnly (s t : State) : Prop where
  frame : OnlyIn [.regs, .parts, .mgmt, .pins, .st] s t
  pend : t.regs.pend = s.regs.pend

theorem ShowsOnly.refl (s : State) : ShowsOnly s s := ⟨.refl _ _, rfl⟩

theorem ShowsOnly.trans {s t u : State} (h : ShowsOnly s t) (h' : ShowsOnly t u) : ShowsOnly s u :=
  ⟨h'.frame.via (List.Subset.refl _) h.frame, h'.pend.trans h.pend⟩

theorem ShowsOnly.forEach {α : Type} {f : α → State → State} (h : ∀ a s, ShowsOnly s (f a s)) (l : List α) (s : State) :
    ShowsOnly s (Machine.forEach l f s) := by
  induction l generalizing s with
  | nil => exact .refl s
  | cons a l ih => exact (h a s).trans (ih (f a s))

theorem showsOnly_setVal (o : Nat) (v : Word) (s : State) : ShowsOnly s (setVal o v s) := ⟨(setVal_only ..).sub (by decide), rfl⟩

theorem showsOnly_setVal64 (o v : Nat) (s : State) : ShowsOnly s (setVal64 o v s) := (showsOnly_setVal ..).trans (showsOnly_setVal ..)

theorem showsOnly_setValBits (o lo w x : Nat) (s : State) : ShowsOnly s (setValBits o lo w x s) := showsOnly_setVal ..

theorem showsOnly_showRmx (s : State) : ShowsOnly s (showRmx s) := ⟨(showRmx_only ..).sub (by decide), rfl⟩

theorem showsOnly_showTrace (s : State) : ShowsOnly s (showTrace s) := ⟨(showTrace_only ..).sub (by decide), rfl⟩

theorem showsOnly_showDeck (s : State) : ShowsOnly s (showDeck s) := ⟨(showDeck_only ..).sub (by decide), rfl⟩

theorem showsOnly_showPort (p : Nat) (s : State) : ShowsOnly s (showPort p s) := ⟨(showPort_only ..).sub (by decide), rfl⟩

theorem showsOnly_showImg (pkg : Nat) (s : State) : ShowsOnly s (showImg pkg s) := by
  refine ⟨(showImg_only ..).sub (by decide), ?_⟩
  unfold showImg
  dsimp only
  split <;> rfl

theorem showsOnly_enterState (st : NodeState) (cause w0 : Nat) (s : State) : ShowsOnly s (enterState st cause w0 s) := by
  refine ⟨(enterState_only ..).sub (by decide), ?_⟩
  have hlog := (logMgmt_only 0x80 1 .ok { b0 := s.mgmt.st.code, b1 := st.code, h0 := cause, w0 := w0 } s).regs_eq (by decide)
  exact (congrArg RegFile.pend hlog :)

theorem showsOnly_degrade (what : String) (s : State) : ShowsOnly s (degrade what s) := by
  have hcause : ShowsOnly s (addCause what s) := ⟨(addCause_only ..).sub (by decide), congrArg RegFile.pend ((addCause_only ..).regs_eq (by decide))⟩
  unfold degrade
  dsimp only
  split
  · exact hcause.trans (showsOnly_enterState ..)
  · exact hcause

theorem showsOnly_repair (what : String) (s : State) : ShowsOnly s (repair what s) := by
  have hcause : ShowsOnly s { s with parts := { s.parts with degraded := s.parts.degraded.filter fun x => x != what } } :=
    ⟨(OnlyIn.refl _ s).upd_parts (by decide), rfl⟩
  unfold repair
  dsimp only
  split
  · exact hcause.trans (showsOnly_enterState ..)
  · exact hcause

theorem showsOnly_showRemap (s : State) : ShowsOnly s (showRemap s) := by
  unfold showRemap
  dsimp only
  refine ShowsOnly.trans ?_ (.forEach (fun _ _ => showsOnly_setValBits ..) _ _)
  refine ShowsOnly.trans ?_ (.forEach (fun _ _ => showsOnly_setValBits ..) _ _)
  exact ((showsOnly_setVal ..).trans (showsOnly_setVal64 ..)).trans (showsOnly_setVal ..)

theorem showsOnly_settleShares (k : Nat) (s : State) : ShowsOnly s (settleShares k s) := by
  unfold settleShares
  refine (showsOnly_showRemap s).trans (.forEach (fun p s => ?_) _ _)
  split
  · exact showsOnly_degrade ..
  · exact showsOnly_repair ..

/-- The save of a warm reset, where no map epoch retires or is being written. -/
theorem warmData_saved {s : State} (hret : s.rmx.retiring = none) (hw : s.rmx.writing = none) : ∃ u, Saved s u ∧ ShowsOnly u (warmData s) := by
  unfold warmData forget
  dsimp only
  rw [hw]
  dsimp only
  rw [hret, if_neg (by simp)]
  refine ⟨?_, ?_, ?_⟩
  rotate_left 2
  · refine ShowsOnly.trans ?_ (.forEach showsOnly_settleShares _ _)
    refine ShowsOnly.trans ?_ (.forEach showsOnly_showImg _ _)
    refine ShowsOnly.trans ?_ (.forEach showsOnly_showPort _ _)
    refine ShowsOnly.trans ?_ (showsOnly_setValBits ..)
    refine ShowsOnly.trans ?_ (showsOnly_showDeck _)
    refine ShowsOnly.trans ?_ (showsOnly_showTrace _)
    refine ShowsOnly.trans ?_ (showsOnly_showRmx _)
    exact ShowsOnly.refl _
  · refine ⟨rfl, rfl, rfl, rfl, rfl, rfl, rfl, rfl, rfl, rfl, fun e he => ?_⟩
    obtain ⟨x, -, rfl⟩ := List.mem_map.1 he
    rfl

theorem warmReset_of_serving {s : State} (w0 : Nat) (hs : serving s = true) :
    ∃ u, u = enterState .bringup 10 w0 (warmData s) ∧ warmReset w0 s = toStep 2 { u with mgmt := { u.mgmt with warm := true } } := by
  have hjtag : s.mgmt.jtagDriven = false := by
    cases h : s.mgmt.jtagDriven
    · rfl
    · simp [serving, h] at hs
  have hst : (s.mgmt.st == .bringup) = false := by
    unfold serving at hs
    cases h : s.mgmt.st <;> simp [h] at hs ⊢
  refine ⟨_, rfl, ?_⟩
  simp [warmReset, hjtag, hst]

/-- Settles O19: the two cold resets on request, and the warm reset. -/
theorem resetsClearOrKeep : Obligations.ResetsClearOrKeep := by
  refine ⟨fun w m s hw hm ho => ⟨?_, ?_⟩, fun w m s hw hs ho hret hwr => ?_⟩
  · have hst : poweredState s.mgmt.st = true := hm
    exact ⟨_, congrArg Host.Outcome.next (request_of_good hw (servedWrite_request (ne_off_of_mainOn hm)) (fun _ => hm) ho hst),
      coldState_setReq _ (coldState_coldReset 11 s), rfl⟩
  · have hst : poweredState s.mgmt.st = true := hm
    exact ⟨_, congrArg Host.Outcome.next (request_of_good hw (servedWrite_request (ne_off_of_mainOn hm)) (fun _ => hm) ho hst),
      coldState_setReq _ (coldState_startBoot _ (coldState_coldReset 12 s)), rfl⟩
  · have hm := mainOn_of_serving hs
    have hst : (s.mgmt.st == .ready || s.mgmt.st == .degraded || s.mgmt.st == .test) = true := by
      rw [serving, Bool.and_eq_true] at hs
      exact hs.1
    obtain ⟨d, hsaved, hshown⟩ := warmData_saved hret hwr
    obtain ⟨u, hu, hwarm⟩ := warmReset_of_serving 4 hs
    have hentered : ShowsOnly d u := hu ▸ hshown.trans (showsOnly_enterState ..)
    have hframe : OnlyIn [.regs, .parts, .mgmt, .pins, .st] d (setReq .ok (toStep 2 { u with mgmt := { u.mgmt with warm := true } })) :=
      (setReq_only ..).via (by decide) ((toStep_only ..).via (by decide) (hentered.frame.upd_mgmt (by decide) (.inl (by decide))))
    have hreset := warmReset_only 4 s
    rw [hwarm] at hreset
    have hwarmst : u.mgmt.st = .bringup := hu ▸ rfl
    refine ⟨_, congrArg Host.Outcome.next ((request_of_good hw (servedWrite_request (ne_off_of_mainOn hm)) (fun _ => hm) ho hst).trans
      (congrArg (setReq .ok) hwarm)), hwarmst, rfl, rfl, (hframe.act_eq (by decide)).trans (congrArg RegFile.act hsaved.regs),
      hentered.pend.trans (congrArg RegFile.pend hsaved.regs), ?_⟩
    rw [hframe.mem_eq (by decide), hframe.rma_eq (by decide), hframe.rmx_eq (by decide), hframe.sec_eq (by decide), hframe.retained_eq (by decide), hframe.deck_eq (by decide), hframe.cmds_eq (by decide)]
    exact ⟨hsaved.cells, hsaved.err, hsaved.regions, hsaved.counters, hsaved.ents, hsaved.epoch, hsaved.slots, hreset.own_eq (by decide), hsaved.retained, hsaved.deck,
      hsaved.cmds, hreset.assay_eq (by decide)⟩


end Sys2Proof.Machine

namespace Sys2Proof.Machine

open Sys2Proof

/-! ## Slots of the flash (R434) -/

theorem fwSlot_setSlot_self (cls slot : Nat) (f : FwSlot) (s : State) : fwSlot (setSlot cls slot f s) cls slot = f := by
  unfold setSlot fwSlot
  split <;> simp

/-- The other slot of a class stays: slot A where another than A is set, and the others where A is. -/
theorem fwSlot_setSlot_other {slot other : Nat} (cls k : Nat) (f : FwSlot) (s : State) (h : slot = 0 ↔ other ≠ 0) :
    fwSlot (setSlot cls slot f s) k other = fwSlot s k other := by
  unfold setSlot fwSlot
  by_cases h0 : slot = 0
  · simp [h0, h.1 h0]
  · have hother : other = 0 := by_contra fun hne => h0 (h.2 hne)
    simp [h0, hother]

theorem fwSlot_of_slots {s t : State} (hA : t.mgmt.slotsA = s.mgmt.slotsA) (hB : t.mgmt.slotsB = s.mgmt.slotsB) (cls slot : Nat) :
    fwSlot t cls slot = fwSlot s cls slot := by
  simp [fwSlot, hA, hB]

theorem actSlot_le (s : State) (cls : Nat) : actSlot s cls ≤ 1 := by
  have : actSlot s cls < 2 ^ 1 := Nat.mod_lt _ (by decide)
  omega

/-! ## Updates (R435) -/

/-- The image that a write of GO gathers: from the UPDATE messages, or from the PF's DMA space. -/
def gathered (s : State) (image : List Byte) : List Byte :=
  slice (if val64 s 0xB00010 = 0 then s.mgmt.updBuf else image) 0 (valBits s 0xB00018 0 24)

/-- GO by the owner, with no update under way: the image starts the update, or its own status refuses it. -/
theorem updGo_of_owner {w : Writer} {m cls : Nat} {image : List Byte} {s : State} (hw : masterOf w = some m) (hs : serving s = true)
    (ho : ownerIs s m = true) (h1 : 1 ≤ cls) (h7 : cls ≤ 7) (hupd : s.mgmt.upd = none) :
    updGo w cls image s =
      if imageStatus s cls (gathered s image) = .ok then startUpdate cls (gathered s image) (setVal 0xB0001C (BitVec.ofNat 32 (2 * cls)) s)
      else updStatus (imageStatus s cls (gathered s image)) true false (setVal 0xB0001C (BitVec.ofNat 32 (2 * cls)) s) := by
  have hst : s.mgmt.st ≠ .recovery := by
    intro h
    simp [serving, h] at hs
  unfold updGo
  rw [hw]
  simp only [servedWrite_of_serving _ hs, hst, ho, hupd, Bool.not_true, Bool.false_eq_true, false_and, if_false, Option.isSome_none,
    show ¬ (cls = 0 ∨ 7 < cls) by omega]
  change (match imageStatus s cls (gathered s image) with
    | .ok => _
    | st => _) = _
  cases imageStatus s cls (gathered s image) <;> rfl

/-- An update that has started: its slot is not loadable, and the write goes to the flash. -/
def updStarted (cls : Nat) (img : List Byte) (s : State) : State :=
  let slot := 1 - actSlot s cls
  let s1 := setSlot cls slot { fwSlot s cls slot with loadable := false } s
  updStatus .ok false true (emit (.flash (16 + 2 * cls + slot) img)
    { s1 with mgmt := { s1.mgmt with upd := some { cls := cls, slot := slot, image := img } } })

theorem startUpdate_of_room {cls : Nat} {img : List Byte} {s : State} (h : storeFull s cls (1 - actSlot s cls) (fld img 4 2) = false) :
    startUpdate cls img s = updStarted cls img s := by
  unfold startUpdate
  dsimp only
  rw [if_neg (by simp [h])]
  rfl

theorem updStarted_only (cls : Nat) (img : List Byte) (s : State) : OnlyIn [.regs, .mgmt, .out] s (updStarted cls img s) :=
  (updStatus_only ..).via (by decide) ((emit_only ..).via (by decide)
    (((setSlot_only ..).sub (by decide)).upd_mgmt (by decide) (.inr rfl)))

theorem fwSlot_updStarted (cls k : Nat) (img : List Byte) (slot : Nat) (s : State) :
    fwSlot (updStarted cls img s) k slot =
      fwSlot (setSlot cls (1 - actSlot s cls) { fwSlot s cls (1 - actSlot s cls) with loadable := false } s) k slot :=
  fwSlot_of_slots rfl rfl ..

theorem valW_updStatus (st : Status) (done busy : Bool) (s : State) :
    valW (updStatus st done busy s) 0xB00020 = BitVec.ofNat 32 (st.code + 2 ^ 16 * b2n done + 2 ^ 17 * b2n busy) := valW_setVal ..

theorem code_lt (st : Status) : st.code < 2 ^ 16 := by cases st <;> decide

theorem valW_updStatus_done (st : Status) (s : State) : (valW (updStatus st true false s) 0xB00020).toNat = st.code + 2 ^ 16 := by
  have hcode := code_lt st
  rw [valW_updStatus, BitVec.toNat_ofNat]
  simp only [b2n, if_true, Bool.false_eq_true, if_false]
  omega

/-- The end of an update outside RECOVERY, with the slot as the write left it. -/
def updEnded (u : Update) (ok : Bool) (s : State) : State :=
  let st : Status := if ok then .ok else .flashFault
  logMgmt 0x82 1 st { b0 := u.cls, b1 := u.slot, w0 := fld u.image 4 2 }
    (updStatus st true false ((if ok then slotWritten else slotEmptied) u { s with mgmt := { s.mgmt with upd := none } }))

theorem updEnded_only (u : Update) (ok : Bool) (s : State) : OnlyIn [.regs, .mgmt] s (updEnded u ok s) := by
  have hover : OnlyIn [.regs, .mgmt] s { s with mgmt := { s.mgmt with upd := none } } := (OnlyIn.refl _ s).upd_mgmt (by decide) (.inr rfl)
  refine (logMgmt_only ..).via (by decide) ((updStatus_only ..).via (by decide) ?_)
  cases ok
  · exact (slotEmptied_only ..).via (by decide) hover
  · exact (slotWritten_only ..).via (by decide) hover

theorem exec_mgmtUpdateDone {u : Update} {s : State} (hu : s.mgmt.upd = some u) (hoff : s.mgmt.st ≠ .off) (hrec : s.mgmt.st ≠ .recovery)
    (hrun : s.mgmt.mssRunning = true) (ok : Bool) :
    exec (.mgmtUpdateDone ok) s = .next (updEnded u (ok && decide (u.image.length ≤ flashRoom u.cls)) s) := by
  change execMgmtUpdateDone ok s = _
  unfold execMgmtUpdateDone
  rw [hu]
  dsimp only
  rw [if_neg (by simp [hoff, hrun])]
  generalize (ok && decide (u.image.length ≤ flashRoom u.cls)) = b
  have hst : (updEnded u b s).mgmt.st ≠ .recovery := by
    rw [(updEnded_only ..).st_eq (by decide)]
    exact hrec
  have hstay : leaveRecovery u (updEnded u b s) = updEnded u b s := if_pos (.inl hst)
  cases b
  · rfl
  · exact congrArg Host.Outcome.next hstay

theorem setSlot_upd (cls slot : Nat) (f : FwSlot) (s : State) : (setSlot cls slot f s).mgmt.upd = s.mgmt.upd := by
  unfold setSlot
  split <;> rfl

theorem slotWritten_spec (u : Update) (s : State) : (slotWritten u s).mgmt.upd = s.mgmt.upd ∧
    fwSlot (slotWritten u s) u.cls u.slot =
      { loadable := true, version := fld u.image 4 2, svn := fld u.image 8 1, key := fld u.image 9 1, digest := Config.sha256 (fwBody u.image) } := by
  unfold slotWritten
  dsimp only
  split
  · exact ⟨setSlot_upd .., fwSlot_setSlot_self ..⟩
  · exact ⟨setSlot_upd .., (fwSlot_of_slots (by rfl) (by rfl) ..).trans (fwSlot_setSlot_self ..)⟩

theorem slotEmptied_spec (u : Update) (s : State) :
    (slotEmptied u s).mgmt.upd = s.mgmt.upd ∧ fwSlot (slotEmptied u s) u.cls u.slot = {} := by
  unfold slotEmptied
  dsimp only
  split
  · exact ⟨setSlot_upd .., (fwSlot_of_slots (by rfl) (by rfl) ..).trans (fwSlot_setSlot_self ..)⟩
  · exact ⟨setSlot_upd .., fwSlot_setSlot_self ..⟩

/-- A log entry leaves the update as it stands. -/
theorem logMgmt_upd (cls code : Nat) (st : Status) (m : DetailM) (s : State) : (logMgmt cls code st m s).mgmt.upd = s.mgmt.upd := by
  unfold logMgmt addLog
  split
  · rfl
  · split <;> rfl

theorem fwSlot_logMgmt (cls code : Nat) (st : Status) (m : DetailM) (s : State) (k slot : Nat) :
    fwSlot (logMgmt cls code st m s) k slot = fwSlot s k slot := by
  unfold logMgmt addLog
  split
  · rfl
  · split <;> rfl

/-- What an update's end shows: no update is under way, its slot stands as the write left it, and the status is there. -/
theorem updEnded_spec (u : Update) (ok : Bool) (s : State) :
    (updEnded u ok s).mgmt.upd = none ∧
      fwSlot (updEnded u ok s) u.cls u.slot = (if ok then
        { loadable := true, version := fld u.image 4 2, svn := fld u.image 8 1, key := fld u.image 9 1, digest := Config.sha256 (fwBody u.image) }
        else {}) ∧
      (valW (updEnded u ok s) 0xB00020).toNat = (if ok then Status.ok else .flashFault).code + 2 ^ 16 := by
  unfold updEnded
  refine ⟨(logMgmt_upd ..).trans ?_, (fwSlot_logMgmt ..).trans ?_, ?_⟩
  · cases ok
    · exact (slotEmptied_spec ..).1
    · exact (slotWritten_spec ..).1
  · cases ok
    · exact (slotEmptied_spec ..).2
    · exact (slotWritten_spec ..).2
  · rw [valW_of_regs ((logMgmt_only ..).regs_eq (by decide)), valW_updStatus_done]

/-- Settles O21: what GO starts, and the two ends of its write. -/
theorem updatesGoToTheInactiveSlot : Obligations.UpdatesGoToTheInactiveSlot := by
  refine ⟨fun w m cls image img s hw hs ho h1 h7 hupd himg => ⟨fun hok hroom => ?_, fun hbad => ?_⟩,
    fun u s hu hoff hrec hrun => ⟨fun hlen => ?_, ?_⟩⟩
  · subst himg
    have hframe : OnlyIn [.regs, .mgmt, .out] s (updStarted cls.toNat (gathered s image) (setVal 0xB0001C (BitVec.ofNat 32 (2 * cls.toNat)) s)) :=
      (updStarted_only ..).via (by decide) ((setVal_only ..).sub (by decide))
    have hact := actSlot_le s cls.toNat
    refine ⟨_, congrArg Host.Outcome.next ((updGo_of_owner hw hs ho h1 h7 hupd).trans ((if_pos hok).trans (startUpdate_of_room hroom))),
      hframe, hframe.st_eq (by decide), hframe.act_eq (by decide), rfl, ?_, ?_, ?_⟩
    · rw [fwSlot_updStarted]
      exact congrArg FwSlot.loadable (fwSlot_setSlot_self ..)
    · rw [fwSlot_updStarted]
      exact fwSlot_setSlot_other _ _ _ _ (show 1 - actSlot s cls.toNat = 0 ↔ actSlot s cls.toNat ≠ 0 by omega)
    · rw [valBits, updStarted, valW_updStatus]
      decide
  · subst himg
    have hframe : OnlyIn [.regs] s (updStatus (imageStatus s cls.toNat (gathered s image)) true false
        (setVal 0xB0001C (BitVec.ofNat 32 (2 * cls.toNat)) s)) := (updStatus_only ..).via (by decide) (setVal_only ..)
    exact ⟨_, congrArg Host.Outcome.next ((updGo_of_owner hw hs ho h1 h7 hupd).trans (if_neg hbad)), hframe, hframe.act_eq (by decide),
      valW_updStatus_done ..⟩
  · have hframe := updEnded_only u true s
    obtain ⟨hnone, hslot, hsts⟩ := updEnded_spec u true s
    refine ⟨updEnded u true s, ?_, hframe, hframe.st_eq (by decide), hframe.act_eq (by decide), hnone, ?_, ?_, ?_, hsts⟩
    · rw [exec_mgmtUpdateDone hu hoff hrec hrun, decide_eq_true hlen]
      rfl
    all_goals rw [hslot]; rfl
  · have hframe := updEnded_only u false s
    obtain ⟨hnone, hslot, hsts⟩ := updEnded_spec u false s
    refine ⟨updEnded u false s, exec_mgmtUpdateDone hu hoff hrec hrun false, hframe, hframe.st_eq (by decide), hframe.act_eq (by decide), hnone, ?_, hsts⟩
    rw [hslot]
    rfl

/-! ## Restarts of the MSS (R436) -/

/-- An entry joins the log's batch while the MSS runs. -/
theorem logMgmt_of_running {s : State} (h : s.mgmt.mssRunning = true) (cls code : Nat) (st : Status) (m : DetailM) :
    ∃ e, (logMgmt cls code st m s).mgmt = { s.mgmt with logBatch := s.mgmt.logBatch ++ [e], logSeq := s.mgmt.logSeq + 1 } := by
  unfold logMgmt addLog
  rw [if_pos h]
  exact ⟨_, rfl⟩

/-- The batch once the hardware queue has joined it. -/
def drained (m : Mgmt) : List LogEntry := m.logBatch ++ m.logHw.zipIdx.map fun x => reseq (m.logSeq + x.2) x.1

/-- What the hardware queue leaves as it joins the log while the MSS runs. -/
theorem drainHw_of_running {s : State} (h : s.mgmt.mssRunning = true) :
    ∃ l q, (drainHw s).mgmt = { s.mgmt with logBatch := drained s.mgmt ++ l, logSeq := q, logHw := [], logLost := 0 } := by
  unfold drainHw
  dsimp only
  split
  · exact ⟨[], _, by rw [List.append_nil]; rfl⟩
  · obtain ⟨e, he⟩ := logMgmt_of_running (s := { s with mgmt := { s.mgmt with
      logBatch := s.mgmt.logBatch ++ s.mgmt.logHw.zipIdx.map (fun (e, i) => reseq (s.mgmt.logSeq + i) e)
      logSeq := s.mgmt.logSeq + (s.mgmt.logHw.zipIdx.map (fun (e, i) => reseq (s.mgmt.logSeq + i) e)).length, logHw := [], logLost := 0 } })
      h 0x85 2 .ok { w0 := s.mgmt.logLost }
    exact ⟨[e], _, he⟩

/-- The state in which the MSS runs again: the lease goes on from where it stood. -/
def mssResumed (s : State) : State :=
  { s with mgmt := { s.mgmt with mssRunning := true, mssCause := 0, pausedAt := 0 }
           own := { s.own with lease := if hasOwner s then s.own.lease + (s.clk.mss - s.mgmt.pausedAt) else s.own.lease } }

theorem mssUp_mgmt (s : State) : ∃ l q, (mssUp s).mgmt =
    { s.mgmt with mssRunning := true, mssCause := 0, pausedAt := 0, logBatch := drained s.mgmt ++ l, logSeq := q, logHw := [], logLost := 0 } := by
  obtain ⟨l, q, hd⟩ := drainHw_of_running (s := mssResumed s) rfl
  obtain ⟨e, he⟩ := logMgmt_of_running (s := drainHw (mssResumed s)) (congrArg Mgmt.mssRunning hd) 0x85 1 .ok
    { b0 := s.mgmt.mssCause, b1 := actSlot s 1, w0 := (fwSlot s 1 (actSlot s 1)).version }
  refine ⟨l ++ [e], q + 1, ((rerunMgmtRing_only ..).mgmt_eq (by decide)).trans (he.trans ?_)⟩
  rw [hd, ← List.append_assoc]
  rfl

theorem mssUp_own (s : State) : (mssUp s).own = (mssResumed s).own :=
  ((rerunMgmtRing_only ..).own_eq (by decide)).trans (((logMgmt_only ..).own_eq (by decide)).trans ((drainHw_only ..).own_eq (by decide)))

/-- A slot that does not start gives way to the other one. -/
def mssOther (s : State) : State :=
  let a := actSlot s 1
  let s1 := saveConfig (setAct 0xB00104 (BitVec.ofNat 32 (1 - a)) s)
  logMgmt 0x82 3 .ok { b0 := 1, b1 := 1 - a, w0 := (fwSlot s 1 a).version } { s1 with mgmt := { s1.mgmt with mssCause := 3 } }

theorem mssFails_of_other {s : State} (hc : s.mgmt.mssCause ≠ 3) (hl : (fwSlot s 1 (1 - actSlot s 1)).loadable = true) :
    mssFails s = mssOther s := by
  unfold mssFails
  dsimp only
  rw [if_neg (by simp [hc, hl])]
  rfl

theorem saveConfig_mgmt (s : State) : ∃ c, (saveConfig s).mgmt = { s.mgmt with config := c } := by
  unfold saveConfig
  dsimp only
  split
  · exact ⟨_, rfl⟩
  · exact ⟨_, rfl⟩

theorem logMgmt_mssCause (cls code : Nat) (st : Status) (m : DetailM) (s : State) :
    (logMgmt cls code st m s).mgmt.mssRunning = s.mgmt.mssRunning ∧ (logMgmt cls code st m s).mgmt.mssCause = s.mgmt.mssCause := by
  unfold logMgmt addLog
  split
  · exact ⟨rfl, rfl⟩
  · split <;> exact ⟨rfl, rfl⟩

theorem mssOther_mgmt (s : State) : (mssOther s).mgmt.mssRunning = s.mgmt.mssRunning ∧ (mssOther s).mgmt.mssCause = 3 := by
  obtain ⟨c, hc⟩ := saveConfig_mgmt (setAct 0xB00104 (BitVec.ofNat 32 (1 - actSlot s 1)) s)
  unfold mssOther
  dsimp only
  rw [(logMgmt_mssCause ..).1, (logMgmt_mssCause ..).2, hc]
  exact ⟨rfl, rfl⟩

theorem mssOther_only (s : State) : OnlyIn [.mgmt, .regs, .act, .out] s (mssOther s) :=
  (logMgmt_only ..).via (by decide) (((saveConfig_only ..).via (by decide) ((setAct_only ..).sub (by decide))).upd_mgmt (by decide) (.inr rfl))

theorem actSlot_mssOther {s : State} : actSlot (mssOther s) 1 = 1 - actSlot s 1 := by
  have hregs : (mssOther s).regs = (setAct 0xB00104 (BitVec.ofNat 32 (1 - actSlot s 1)) s).regs :=
    ((logMgmt_only ..).regs_eq (by decide)).trans ((saveConfig_only ..).regs_eq (by decide))
  unfold actSlot actBits
  rw [actW_of_act (congrArg RegFile.act hregs), actW_setAct, BitVec.toNat_ofNat, bits]
  change _ = 1 - actSlot s 1
  have := actSlot_le s 1
  omega

/-! ## Sessions (R429, R430) -/

theorem tget_tmod {α : Type} (t : Table α) (k j : Nat) (f : α → α) : tget (tmod t k f) j = if j = k then (tget t k).map f else tget t j := by
  unfold tmod
  cases h : tget t k with
  | none =>
    by_cases hj : j = k
    · rw [if_pos hj, hj, h]
      rfl
    · rw [if_neg hj]
  | some v =>
    rw [tget_tset]
    rfl

/-- The state in which a message of `h` has been heard. -/
def heard (h : MsgHdr) (s : State) : State :=
  { s with mgmt := { s.mgmt with sessions := tmod s.mgmt.sessions h.master fun x => { x with lastHeard := s.clk.mss } } }

theorem heard_only (h : MsgHdr) (s : State) : OnlyIn [.mgmt] s (heard h s) := (OnlyIn.refl _ s).upd_mgmt (by decide) (.inr rfl)

theorem receive_of_running {h : MsgHdr} {s : State} (hoff : s.mgmt.st ≠ .off) (hrun : s.mgmt.mssRunning = true) (h1 : 1 ≤ h.master)
    (h15 : h.master ≤ 15) (f : State → State) : receive h f s = f (heard h s) := by
  unfold receive
  rw [if_neg (by simp [hoff, hrun]; omega)]
  rfl

theorem hasPath_heard (h : MsgHdr) (s : State) (m : Nat) : hasPath (heard h s) m = hasPath s m := by
  unfold hasPath heard
  dsimp only
  rw [tget_tmod]
  split
  next hm => rw [hm, Option.isSome_map]
  next => rfl

/-- A message of a master with a path, and of a good length, has its effect. -/
theorem fromMaster_of_path {h : MsgHdr} {s : State} (hoff : s.mgmt.st ≠ .off) (hrun : s.mgmt.mssRunning = true) (h1 : 1 ≤ h.master)
    (h15 : h.master ≤ 15) (hp : hasPath s h.master = true) (lenOk : Bool) (f : State → State) :
    fromMaster h lenOk f s = if lenOk then f (heard h s) else answer h .illegalValue [] (heard h s) := by
  unfold fromMaster
  rw [receive_of_running hoff hrun h1 h15, hasPath_heard, hp]
  cases lenOk <;> rfl

theorem sendMgmt_sessions (master mtype : Nat) (tag : BitVec 32) (data : List Byte) (s : State) :
    (sendMgmt master mtype tag data s).mgmt.sessions = s.mgmt.sessions := by
  unfold sendMgmt
  split <;> rfl

theorem answer_sessions (h : MsgHdr) (st : Status) (data : List Byte) (s : State) : (answer h st data s).mgmt.sessions = s.mgmt.sessions :=
  sendMgmt_sessions ..

/-- The session that OPEN makes. -/
def sessionOpened (h : MsgHdr) (ans : Option AnswerRegion) (s : State) : State :=
  { heard h s with mgmt := { (heard h s).mgmt with sessions := tset (heard h s).mgmt.sessions h.master { lastHeard := s.clk.mss, answer := ans } } }

/-- Settles O22: the two ends of a restart, and each change of a session. -/
theorem mssRestartsAndSessions : Obligations.MssRestartsAndSessions := by
  refine ⟨fun s hoff hrun => ⟨?_, fun hc hl _ => ?_⟩, fun h ans s hoff hrun h1 h15 h9 => ⟨fun hfits => ?_, fun hp => ?_, fun h8 hp => ?_⟩⟩
  · obtain ⟨l, q, hm⟩ := mssUp_mgmt s
    have hexec : exec (.mssRestart true) s = .next (mssUp s) := by
      change execMssRestart true s = _
      simp [execMssRestart, hoff, hrun]
    refine ⟨mssUp s, hexec, ?_, ?_, fun ho => ?_, ?_, ⟨l, ?_⟩, ?_, (mssUp_only s).mem_eq (by decide)⟩
    · rw [hm]
    · rw [hm]
    · rw [mssUp_own, mssResumed, if_pos ho]
    · rw [hm]
    · rw [hm]
      rfl
    · rw [hm]
  · have hframe := mssOther_only s
    obtain ⟨hrun', hcause⟩ := mssOther_mgmt s
    refine ⟨mssOther s, ?_, hrun'.trans hrun, hframe.st_eq (by decide), actSlot_mssOther, hcause, hframe.own_eq (by decide), hframe.mem_eq (by decide)⟩
    change execMssRestart false s = _
    simp [execMssRestart, hoff, hrun, mssFails_of_other hc hl]
  · have hexec : exec (.mgmtOpen h ans) s = .next (answer h .ok [] (sessionOpened h ans s)) := by
      refine congrArg Host.Outcome.next ((receive_of_running hoff hrun h1 h15 _).trans ?_)
      rw [hfits, beq_self_eq_true]
      dsimp only
      rw [if_neg (by simp), if_neg h9]
      rfl
    have hframe : OnlyIn [.mgmt, .out] s (answer h .ok [] (sessionOpened h ans s)) :=
      (answer_only ..).via (by decide) (((heard_only h s).sub (by decide)).upd_mgmt (by decide) (.inr rfl))
    refine ⟨_, hexec, hframe, hframe.st_eq (by decide), ?_, fun k hk => ?_⟩ <;> rw [answer_sessions, sessionOpened]
    · exact tget_tset_self ..
    · rw [tget_tset_of_ne _ _ hk, heard, tget_tmod, if_neg hk]
  · have hexec : exec (.mgmtClose h) s = .next (dropSession h.master (answer h .ok [] (heard h s))) :=
      congrArg Host.Outcome.next (fromMaster_of_path hoff hrun h1 h15 hp true _)
    have hframe : OnlyIn [.mgmt, .out] s (dropSession h.master (answer h .ok [] (heard h s))) :=
      (dropSession_only ..).via (by decide) ((answer_only ..).via (by decide) ((heard_only h s).sub (by decide)))
    refine ⟨_, hexec, hframe, hframe.st_eq (by decide), tget_tdel_self .., fun k hk => ?_⟩
    rw [dropSession, tget_tdel_of_ne _ hk, answer_sessions, heard, tget_tmod, if_neg hk]
  · have hsome : (tget s.mgmt.sessions h.master).isSome = true := by simpa [hasPath, h9] using hp
    obtain ⟨x, hx⟩ := Option.isSome_iff_exists.1 hsome
    have hexec : exec (.mgmtSessionTimeout h.master) s = .next (dropSession h.master (advanceMss (x.lastHeard + 10000000000) s)) := by
      change execMgmtSessionTimeout h.master s = _
      simp [execMgmtSessionTimeout, hx, show ¬ 8 < h.master by omega, hrun]
    exact ⟨_, hexec, (dropSession_only ..).via (by decide) ((advanceMss_only ..).sub (by decide)), tget_tdel_self ..,
      fun k hk => tget_tdel_of_ne _ hk⟩

/-! ## Reads and writes by message (R430) -/

theorem leVal_slice_leBytes4 {v : Nat} (h : v < 2 ^ 32) : fld (leBytes 4 v) 0 4 = v := by
  have hslice : slice (leBytes 4 v) 0 4 = leBytes 4 v := by simp [slice, leBytes]
  rw [fld, hslice]
  simp only [leBytes, leVal, BitVec.toNat_ofNat]
  omega

theorem exec_mgmtRead {h : MsgHdr} {s : State} (hoff : s.mgmt.st ≠ .off) (hrun : s.mgmt.mssRunning = true) (h1 : 1 ≤ h.master)
    (h15 : h.master ≤ 15) (hp : hasPath s h.master = true) {off : BitVec 32} {len : Nat} (hspan : spanOk off.toNat len = true)
    (hplain : off.toNat + len ≤ 0xD00000 ∨ 0xE00000 ≤ off.toNat) :
    exec (.mgmtRead h off len) s =
      .next (answer h .ok ((List.range (len / 4)).flatMap fun i => leBytes 4 (readWord (heard h s) h.master (off.toNat + 4 * i))) (heard h s)) := by
  have hexpert : (((List.range (len / 4)).map fun i => off.toNat + 4 * i).filter fun o => inRange o 0xD00000 0xDFFFFF) = [] := by
    rw [List.filter_eq_nil_iff]
    intro o ho
    obtain ⟨i, hi, rfl⟩ := List.mem_map.1 ho
    have := List.mem_range.1 hi
    simp only [inRange, Bool.and_eq_true, decide_eq_true_eq]
    omega
  refine congrArg Host.Outcome.next ((fromMaster_of_path hoff hrun h1 h15 hp _ _).trans ?_)
  rw [hspan, if_pos rfl]
  dsimp only
  rw [hexpert, List.flatMap_map]
  rfl

/-- A word of a WRITE message whose register has no command of its own, by the owner: it is legal, and it is `applyWrite`. -/
theorem word_of_plain {m off v : Nat} {s : State} (hs : serving s = true) (ho : ownerIs s m = true) (hv : v < 2 ^ 32) (hal : off % 4 = 0)
    (hlt : off < 0xC00000) (hrow : hasRow off v = false) (hreq : off ≠ 0xB00004) (hgo : off ≠ 0xB0001C) (hdbg : off ≠ 0xA00208)
    (hlk : off ≠ 0x500028) (herr : writeError s (.mgmt m) off v = none) :
    wordStatus s m off v = .ok ∧ wordEffect m off v s = applyWrite (.mgmt m) off v s := by
  have hcommit : off % 0x100000 ≠ 0xF0 := by
    intro h
    simp [hasRow, h] at hrow
  have hlist : off ≠ 0x44 ∧ off ≠ 0x48 ∧ off ≠ 0x50 ∧ off ≠ 0x54 ∧ off ≠ 0xA00210 := by
    refine ⟨?_, ?_, ?_, ?_, ?_⟩ <;> rintro rfl <;> simp [hasRow] at hrow
  obtain ⟨h44, h48, h50, h54, h210⟩ := hlist
  have hst : s.mgmt.st ≠ .recovery := by
    intro h
    simp [serving, h] at hs
  constructor
  · simp [wordStatus, servedWrite_of_serving _ hs, hst, ho, hcommit, inRange, show ¬ 0xC00000 ≤ off by omega, show ¬ 0xD00000 ≤ off by omega, h50, h54,
      hreq, herr]
  · have hplain := plainWrite_of_legal (w := .mgmt m) (by simp [masterOf]) hs hal hlt hv hrow (by omega) herr
    unfold wordEffect
    dsimp only
    rw [if_neg (fun h => hcommit h.1), if_neg (by simp [inRange]; omega)]
    split <;> first | contradiction | exact hplain

theorem exec_mgmtWrite_one {h : MsgHdr} {s : State} (hoff : s.mgmt.st ≠ .off) (hrun : s.mgmt.mssRunning = true) (h1 : 1 ≤ h.master)
    (h15 : h.master ≤ 15) (hp : hasPath s h.master = true) {off : BitVec 32} {v : Nat} (hv : v < 2 ^ 32) (hal : off.toNat % 4 = 0)
    (hlt : off.toNat < 0xC00000) :
    exec (.mgmtWrite h off (leBytes 4 v)) s =
      .next (answer h (wordStatus (heard h s) h.master off.toNat v) [] (wordEffect h.master off.toNat v (heard h s))) := by
  have hspan : spanOk off.toNat (leBytes 4 v).length = true := by
    rw [length_leBytes]
    simp [spanOk, inRange, hal]
    omega
  refine congrArg Host.Outcome.next ((fromMaster_of_path hoff hrun h1 h15 hp _ _).trans ?_)
  rw [hspan, if_pos rfl, length_leBytes]
  simp [leVal_slice_leBytes4 hv, List.range_succ]

/-- Settles O23: a message of good length reads, or writes its one word; any other is refused. -/
theorem managementReadsAndWrites : Obligations.ManagementReadsAndWrites := by
  refine ⟨?_, ?_⟩
  · rintro h s s1 hoff hrun h1 h15 hp rfl
    refine ⟨fun off len hspan hplain => exec_mgmtRead hoff hrun h1 h15 hp hspan hplain, fun off len hspan => ?_, fun first count hc1 hc64 => ?_⟩
    · refine congrArg Host.Outcome.next ((fromMaster_of_path hoff hrun h1 h15 hp _ _).trans ?_)
      rw [hspan]
      rfl
    · refine congrArg Host.Outcome.next ((fromMaster_of_path hoff hrun h1 h15 hp _ _).trans ?_)
      rw [show inRange count 1 64 = true by simp [inRange, hc1, hc64], if_pos rfl]
      rfl
  · rintro h off v s s1 hs hrun h1 h15 hp ho hv hal hlt rfl hrow hreq hgo hdbg hlk herr
    have hoff := ne_off_of_mainOn (mainOn_of_serving hs)
    obtain ⟨hstatus, heffect⟩ := word_of_plain (s := heard h s) hs ho hv hal hlt hrow hreq hgo hdbg hlk herr
    rw [exec_mgmtWrite_one hoff hrun h1 h15 hp hv hal hlt, hstatus, heffect]
    rfl

/-! ## Claims, descriptors and images by message (R430, R431, R435) -/

theorem length_slice (b : List Byte) (o n : Nat) : (slice b o n).length = n := by
  simp only [slice, List.length_append, List.length_replicate, List.length_take]
  omega

/-- A chunk that is put into a buffer stands there. -/
theorem getElem?_patch {b v : List Byte} {o i : Nat} (hi : i < v.length) : (patch b o v)[o + i]? = v[i]? := by
  unfold patch
  rw [List.append_assoc, List.getElem?_append_right (by rw [length_slice]; omega), length_slice, Nat.add_sub_cancel_left,
    List.getElem?_append_left hi]

/-- The descriptor of a new SUBMIT in the management ring, and its TAG kept. -/
def submitted (h : MsgHdr) (desc : List Byte) (q : Nat) (s : State) : State :=
  let kept := tgetD s.mgmt.tags h.master []
  { s with mgmt := { s.mgmt with
      ringDescs := s.mgmt.ringDescs ++ [(h.master, patch desc 4 (leBytes 4 q))]
      tags := tset s.mgmt.tags h.master ((kept ++ [(h.tag, q)]).drop (kept.length + 1 - 256)) } }

theorem submitted_only (h : MsgHdr) (desc : List Byte) (q : Nat) (s : State) : OnlyIn [.mgmt] s (submitted h desc q s) :=
  (OnlyIn.refl _ s).upd_mgmt (by decide) (.inr rfl)

theorem answer_ringDescs (h : MsgHdr) (st : Status) (data : List Byte) (s : State) : (answer h st data s).mgmt.ringDescs = s.mgmt.ringDescs := by
  unfold answer sendMgmt
  split <;> rfl

theorem answer_updBuf (h : MsgHdr) (st : Status) (data : List Byte) (s : State) : (answer h st data s).mgmt.updBuf = s.mgmt.updBuf := by
  unfold answer sendMgmt
  split <;> rfl

/-- Settles O24: each message finds its path, and has the effect that its row says. -/
theorem managementClaimsSubmitsUpdates : Obligations.ManagementClaimsSubmitsUpdates := by
  refine ⟨?_, ?_⟩
  · rintro h s s1 hoff hrun h1 h15 hp rfl
    refine ⟨fun cred hc ho => ?_, fun ho => ?_, fun ho => ?_⟩
    · have hlen : (cred.length == 17152) = true := by
        simp only [credentialOk, Bool.and_eq_true] at hc
        tauto
      have hclaim := claim_of_none (s := heard h s) (tag := h.tag) hc ho
      rw [if_neg (by omega)] at hclaim
      refine ⟨claimJoined h.master h.tag (heard h s), ?_, (claimJoined_only ..).via (by decide) ((heard_only h s).sub (by decide)),
        ((claimJoined_only ..).mgmt_eq (by decide)), rfl⟩
      refine congrArg Host.Outcome.next ((fromMaster_of_path hoff hrun h1 h15 hp _ _).trans ?_)
      rw [hlen, if_pos rfl, hclaim]
    · refine congrArg Host.Outcome.next ((fromMaster_of_path hoff hrun h1 h15 hp true _).trans ?_)
      exact if_pos ho
    · refine congrArg Host.Outcome.next ((fromMaster_of_path hoff hrun h1 h15 hp true _).trans ?_)
      have ho' : ownerIs (heard h s) h.master = false := ho
      rw [if_pos rfl, ho']
      rfl
  · rintro h s s1 hs hrun h1 h15 hp rfl
    have hoff := ne_off_of_mainOn (mainOn_of_serving hs)
    refine ⟨fun desc q hlen hnew hroom hq => ?_, fun desc q hlen hold => ?_, fun off data hlen hend ho => ?_⟩
    · have hexec : exec (.mgmtSubmit h desc) s = .next (answer h .ok (leBytes 4 q) (submitted h desc q (heard h s))) := by
        refine congrArg Host.Outcome.next ((fromMaster_of_path hoff hrun h1 h15 hp _ _).trans ?_)
        have hnew' : (tgetD (heard h s).mgmt.tags h.master []).find? (fun e => e.1 == h.tag) = none := hnew
        have hs' : serving (heard h s) = true := hs
        have hroom' : ¬ 256 ≤ mgmtWaiting (heard h s) := Nat.not_le.2 hroom
        rw [hlen, if_pos (by rfl)]
        dsimp only
        rw [hnew']
        dsimp only
        rw [hs', if_neg (by simp), if_neg hroom', hq]
        rfl
      have hframe : OnlyIn [.mgmt, .out] s (answer h .ok (leBytes 4 q) (submitted h desc q (heard h s))) :=
        (answer_only ..).via (by decide) ((submitted_only ..).via (by decide) ((heard_only h s).sub (by decide)))
      exact ⟨_, hexec, hframe, hframe.st_eq (by decide), answer_ringDescs ..⟩
    · refine congrArg Host.Outcome.next ((fromMaster_of_path hoff hrun h1 h15 hp _ _).trans ?_)
      have hold' : (tgetD (heard h s).mgmt.tags h.master []).find? (fun e => e.1 == h.tag) = some (h.tag, q) := hold
      rw [hlen, if_pos (by rfl)]
      dsimp only
      rw [hold']
      rfl
    · have hexec : exec (.mgmtUpdate h off data) s = .next (answer h .ok [] { heard h s with mgmt := { (heard h s).mgmt with
          updBuf := patch (s.mgmt.updBuf ++ zeros (off.toNat + data.length - s.mgmt.updBuf.length)) off.toNat data } }) := by
        refine congrArg Host.Outcome.next ((fromMaster_of_path hoff hrun h1 h15 hp _ _).trans ?_)
        have ho' : ownerIs (heard h s) h.master = true := ho
        rw [decide_eq_true hlen, if_pos rfl]
        dsimp only
        rw [ho', if_neg (by simp), if_neg (by omega)]
        rfl
      have hframe : OnlyIn [.mgmt, .out] s (answer h .ok [] { heard h s with mgmt := { (heard h s).mgmt with
          updBuf := patch (s.mgmt.updBuf ++ zeros (off.toNat + data.length - s.mgmt.updBuf.length)) off.toNat data } }) :=
        (answer_only ..).via (by decide) (((heard_only h s).sub (by decide)).upd_mgmt (by decide) (.inr rfl))
      refine ⟨_, hexec, hframe, hframe.st_eq (by decide), fun i hi => ?_⟩
      rw [answer_updBuf]
      exact getElem?_patch hi

end Sys2Proof.Machine

namespace Sys2Proof.Machine

open Sys2Proof

/-! ## What left the node stays gone -/

theorem Grows.refl (s : State) : Grows s s := .of_out rfl

theorem Grows.of_frame {l : List Area} {s t : State} (h : OnlyIn l s t) (ho : Area.out ∉ l) : Grows s t := .of_out (h.out_eq ho)

theorem grows_emitAll (os : List Out) (s : State) : Grows s (emitAll os s) := ⟨fun _ h => List.mem_append_left _ h⟩

theorem grows_writeEv (fn : Nat) (e : Event) (s : State) : Grows s (writeEv fn e s) := by
  unfold writeEv
  dsimp only
  exact (Grows.of_out (by rfl)).trans ((grows_emit ..).trans (grows_signalVec ..))

theorem grows_deliverEv (fn : Nat) (e : Event) (s : State) : Grows s (deliverEv fn e s) := by
  unfold deliverEv
  dsimp only
  split
  · exact grows_writeEv ..
  · split <;> exact .of_out rfl

theorem grows_sendMgmt (master mtype : Nat) (tag : BitVec 32) (data : List Byte) (s : State) : Grows s (sendMgmt master mtype tag data s) := by
  unfold sendMgmt
  dsimp only
  split
  · exact (Grows.of_out (by rfl)).trans (grows_emitAll ..)
  · exact .refl s

theorem grows_postOwner (e : Event) (s : State) : Grows s (postOwner e s) := by
  have hlog : Grows s (addLog (fun q => .event q e) s) := .of_frame (addLog_only ..) (by decide)
  unfold postOwner
  dsimp only
  split
  · exact hlog
  · split
    · exact hlog.trans (grows_deliverEv ..)
    · exact hlog.trans (grows_sendMgmt ..)

theorem grows_post (e : Event) (s : State) : Grows s (post e s) := by
  unfold post
  dsimp only
  split
  · exact (grows_deliverEv ..).trans (grows_postOwner ..)
  · exact grows_postOwner ..

theorem forEach_out {α : Type} {f : α → State → State} (hf : ∀ a s, (f a s).out = s.out) (l : List α) (s : State) : (forEach l f s).out = s.out := by
  induction l generalizing s with
  | nil => rfl
  | cons a l ih => exact (ih (f a s)).trans (hf a s)

theorem traceWork_out (c : Cmd) (s : State) : (traceWork c s).out = s.out := by
  unfold traceWork
  dsimp only
  split
  · rfl
  · rw [(showTrace_only ..).out_eq (by decide), forEach_out]
    · rfl
    · exact fun _ s => (addTrace_only ..).out_eq (by decide)

theorem grows_reportEnd (c : Cmd) (s : State) : Grows s (reportEnd c s) := by
  have htrace : Grows s (if c.phase = .running then traceWork c s else s) := by
    split
    · exact .of_out (traceWork_out ..)
    · exact .refl s
  unfold reportEnd
  dsimp only
  split
  · exact htrace.trans (grows_post ..)
  · exact htrace

theorem countEnd_out (st : Status) (s : State) : (countEnd st s).out = s.out := by
  unfold countEnd
  dsimp only
  repeat' split
  all_goals rfl

theorem grows_finish (c : Cmd) (st : Status) (result : Nat) (s : State) : Grows s (finish c st result s) :=
  (grows_reportEnd ..).trans ((Grows.of_out ((keepFinished_only ..).out_eq (by decide))).trans (.of_out (countEnd_out ..)))

/-! ## Sequences and commands of the host's rings -/

@[simp] theorem getSeq_modSeq (n : Nat) (f : Seq → Seq) (s : State) : getSeq (modSeq n f s) n = f (getSeq s n) := getSeq_setSeq ..

theorem getSeq_modSeq_of_ne {n k : Nat} (f : Seq → Seq) (s : State) (h : k ≠ n) : getSeq (modSeq n f s) k = getSeq s k := getSeq_setSeq_of_ne _ _ h

theorem getSeq_finish (c : Cmd) (st : Status) (result : Nat) (s : State) (n : Nat) : getSeq (finish c st result s) n = getSeq s n :=
  getSeq_of_seqs ((finish_only ..).seqs_eq (by decide)) n

theorem getSeq_admitCmd (c : Cmd) (w : Work) (s : State) (n : Nat) : getSeq (admitCmd c w s) n = getSeq s n :=
  getSeq_of_seqs ((admitCmd_only ..).seqs_eq (by decide)) n

theorem MayAdmit.ring_ne {s : State} {ring : Nat} {rseq : BitVec 32} {c : Cmd} (h : MayAdmit s ring rseq c) : c.ring ≠ deckRing := h.ringIs ▸ h.host

theorem Runs.ring_ne {s : State} {ring : Nat} {rseq : BitVec 32} {c : Cmd} (h : Runs s ring rseq c) : c.ring ≠ deckRing := h.ringIs ▸ h.host

theorem MayAdmit.key {s : State} {ring : Nat} {rseq : BitVec 32} {c : Cmd} (h : MayAdmit s ring rseq c) : cmdKey c.ring c.rseq = cmdKey ring rseq := by
  rw [h.ringIs, h.rseqIs]

theorem Runs.key {s : State} {ring : Nat} {rseq : BitVec 32} {c : Cmd} (h : Runs s ring rseq c) : cmdKey c.ring c.rseq = cmdKey ring rseq := by
  rw [h.ringIs, h.rseqIs]

/-- A command's address is checked against its ring and the key slots of its partition alone. -/
theorem checkAddr_congr {s t : State} {c d : Cmd} (hsec : t.sec = s.sec) (hring : d.ring = c.ring) (hpart : d.part = c.part) (a n : Nat) :
    checkAddr t d a n = checkAddr s c a n := by
  simp [checkAddr, isScratch, windowBad, windowsOf, hsec, hring, hpart]

theorem windowSeal_congr {s t : State} (hsec : t.sec = s.sec) (p a : Nat) (bs : List Byte) : windowSeal t p a bs = windowSeal s p a bs := by
  simp [windowSeal, throughWindows, windowsOf, hsec]

theorem ringFn_congr {s t : State} (hact : t.regs.act = s.regs.act) (ring : Nat) : ringFn t ring = ringFn s ring := by
  simp [ringFn, ownerRing, ringAssign, actBits, actW, hact]

theorem slotOf_congr {s t : State} (hact : t.regs.act = s.regs.act) (n : Nat) : slotOf t n = slotOf s n := by
  rw [slotOf, slotOf, show actW t = actW s from funext (actW_of_act hact)]

/-- A command that has been admitted reads as its descriptor would have before. -/
theorem startRead_congr {s t : State} {c d : Cmd} (hr : c.ring ≠ deckRing) (hsec : t.sec = s.sec) (hact : t.regs.act = s.regs.act) (hring : d.ring = c.ring)
    (hrseq : d.rseq = c.rseq) (hpart : d.part = c.part) {a n : Nat} (hok : checkAddr s c a n = .ok) (hg : isGfa a = false) :
    startRead d a n t = (.wait, emit (.dmaRead (ringFn s c.ring) a n (.input c.ring c.rseq)) t) := by
  rw [startRead_of_host (hring ▸ hr) ((checkAddr_congr hsec hring hpart a n).trans hok) hg, ringFn_congr hact, hring, hrseq]

/-- The work of a command on a ring of the host is metered in the tap alone. -/
theorem meter_only_of_host {c : Cmd} (hr : c.ring ≠ deckRing) (p r n : Nat) (s : State) : OnlyIn [.tap] s (meter c p r n s) := by
  unfold meter
  rw [show staging s c = false by simp [staging, hr]]
  split
  · exact .refl ..
  · exact tapAdd_only ..

theorem meterData_only_of_host {c : Cmd} (hr : c.ring ≠ deckRing) (res n : Nat) (s : State) : OnlyIn [.tap] s (meterData c res n s) := by
  unfold meterData
  split
  · exact .refl ..
  · exact meter_only_of_host hr ..

/-! ## A LADLE that appends (R58, R59) -/

/-- A command that is admitted and stands in its sequence's order. -/
def queued (c : Cmd) (w : Work) (s : State) : State := addTurn (seqOf c) (cmdKey c.ring c.rseq) (admitCmd c w s)

theorem queued_only (c : Cmd) (w : Work) (s : State) : OnlyIn [.regs, .cmds, .seqs] s (queued c w s) :=
  (addTurn_only ..).via (by decide) ((admitCmd_only ..).sub (by decide))

theorem getSeq_queued (c : Cmd) (w : Work) (s : State) :
    getSeq (queued c w s) (seqOf c) =
      { getSeq s (seqOf c) with ladles := liveTurns (admitCmd c w s) (getSeq s (seqOf c)) ++ [cmdKey c.ring c.rseq] } := by
  rw [queued, addTurn, getSeq_modSeq, getSeq_admitCmd]

theorem getSeq_queued_of_ne {n : Nat} (c : Cmd) (w : Work) (s : State) (h : n ≠ seqOf c) : getSeq (queued c w s) n = getSeq s n := by
  rw [queued, addTurn, getSeq_modSeq_of_ne _ _ h, getSeq_admitCmd]

theorem getCmd_queued {c : Cmd} (hr : c.ring ≠ deckRing) (w : Work) (s : State) : getCmd (queued c w s) c.ring c.rseq = some (admitted c w s) :=
  (getCmd_of_cmds ((addTurn_only ..).cmds_eq (by decide)) ..).trans (getCmd_admitCmd hr ..)

/-- A LADLE as it sets out. -/
def ladleStart (c : Cmd) : LadleRun := { p := ladleP c, n := ladleN c, next := 0, upto := 0 }

/-- The state in which an appending LADLE waits for the first piece of its segment `r`. -/
def ladleAsked (c : Cmd) (a len : Nat) (r : LadleRun) (s : State) : State :=
  emit (.dmaRead (ringFn s c.ring) a len (.input c.ring c.rseq))
    (setCmd { admitted c (.ladle (ladleStart c)) s with work := .ladle r } (queued c (.ladle (ladleStart c)) s))

theorem ladleAsked_only (c : Cmd) (a len : Nat) (r : LadleRun) (s : State) : OnlyIn [.regs, .cmds, .seqs, .out] s (ladleAsked c a len r s) :=
  (emit_only ..).via (by decide) ((setCmd_only ..).via (by decide) ((queued_only ..).sub (by decide)))

theorem ladleAsked_out (c : Cmd) (a len : Nat) (r : LadleRun) (s : State) :
    (ladleAsked c a len r s).out = s.out ++ [.dmaRead (ringFn s c.ring) a len (.input c.ring c.rseq)] :=
  congrArg (· ++ _) ((queued_only c (.ladle (ladleStart c)) s).out_eq (by decide))

theorem getSeq_ladleAsked (c : Cmd) (a len : Nat) (r : LadleRun) (s : State) (n : Nat) :
    getSeq (ladleAsked c a len r s) n = getSeq (queued c (.ladle (ladleStart c)) s) n := rfl

theorem ladleFetch_asks {fuel a len : Nat} {c : Cmd} {r : LadleRun} {s s1 : State} {m : Slot} (hm : slotOf s (getSeq s (seqOf c)).mslot = m)
    (hrows : r.rows = []) (hpos : 0 < m.streams) (hpiece : ladlePiece m c r = (a, len))
    (hread : startRead { c with work := .ladle r } a len (setCmd { c with work := .ladle r } s) = (.wait, s1)) :
    ladleFetch (fuel + 1) c r s = s1 := by
  unfold ladleFetch
  dsimp only
  rw [hm, if_neg (by simp [hrows]; omega), hpiece]
  dsimp only
  rw [hread]

theorem runLadle_appends {c : Cmd} {s : State} {r : LadleRun} {m : Slot} {a len : Nat} (hr : c.ring ≠ deckRing)
    (hm : slotOf s (getSeq s (seqOf c)).mslot = m) (hpos : 0 < m.streams) (hseg : r = ladleSegment (getSeq s (seqOf c)).len (ladleStart c))
    (hpiece : ladlePiece m c r = (a, len)) (hg : isGfa a = false) (hok : checkAddr s c a len = .ok) :
    runLadle c false s = ladleAsked c a len r s := by
  have hframe := queued_only c (.ladle (ladleStart c)) s
  unfold runLadle
  dsimp only
  rw [if_neg (by decide)]
  change ladleGo ((getCmd (queued c (.ladle (ladleStart c)) s) c.ring c.rseq).getD c) (ladleStart c) (queued c (.ladle (ladleStart c)) s) = _
  rw [getCmd_queued hr, Option.getD_some]
  have hseq : getSeq (queued c (.ladle (ladleStart c)) s) (seqOf (admitted c (.ladle (ladleStart c)) s)) = _ := getSeq_queued ..
  unfold ladleGo
  rw [hseq, ← hseg]
  refine ladleFetch_asks (a := a) (len := len) (m := m) ?_ (by rw [hseg]; rfl) hpos hpiece ?_
  · rw [hseq]
    exact (slotOf_congr (hframe.act_eq (by decide)) _).trans hm
  · exact startRead_congr (c := c) hr (by exact hframe.sec_eq (by decide)) (by exact hframe.act_eq (by decide)) (by rfl) (by rfl) (by rfl) hok hg

theorem admitLadle_of_bad {c : Cmd} {s : State} (h : ladleStatus s c ≠ .ok) : admitLadle c s = endAtAdmission c (ladleStatus s c) 0 s := by
  unfold admitLadle
  dsimp only
  split
  next hok => exact absurd hok h
  next => rfl

/-- The state once the last segment of a LADLE has been committed, but for the end of its command. -/
def ladleCommitted (c : Cmd) (r : LadleRun) (s : State) : State :=
  meter c c.part resCast (commitSeq (seqOf c) r.next r.upto (ladleBit c 21) c.step r.rows s).1.castBytes
    (meter c c.part resLadle (posBytes (slotOf s (getSeq s (seqOf c)).mslot) (r.upto - r.next))
      (commitSeq (seqOf c) r.next r.upto (ladleBit c 21) c.step r.rows s).2)

theorem ladleDoCommit_last {c : Cmd} {r : LadleRun} {s : State} (h : r.upto = r.p + r.n) :
    ladleDoCommit c r s = finish c .ok r.upto (ladleCommitted c r s) := if_pos h.ge

theorem ladleCommitted_only (c : Cmd) (r : LadleRun) (s : State) :
    OnlyIn [.out, .freeCnt, .regs, .host, .seqs, .mgmt, .tap, .deck] s (ladleCommitted c r s) :=
  (meter_only ..).via (by decide) ((meter_only ..).via (by decide) ((commitSeq_only ..).sub (by decide)))

theorem ladleCommitted_seqs (c : Cmd) (r : LadleRun) (s : State) :
    (ladleCommitted c r s).seqs = (commitSeq (seqOf c) r.next r.upto (ladleBit c 21) c.step r.rows s).2.seqs :=
  ((meter_only ..).seqs_eq (by decide)).trans ((meter_only ..).seqs_eq (by decide))

/-- Growing the directory changes the directory alone. -/
theorem growDir_spec (b : Nat) (q : Seq) : ∃ chunks size, growDir b q = { q with dirChunks := chunks, dirSize := size } := by
  unfold growDir
  dsimp only
  split
  · exact ⟨q.dirChunks, q.dirSize, rfl⟩
  · exact ⟨_, _, rfl⟩

theorem length_foldl_append {α β γ : Type} (f : γ → α → β × γ) (l : List α) (acc : List β) (n : γ) :
    (l.foldl (fun (x : List β × γ) a => (x.1 ++ [(f x.2 a).1], (f x.2 a).2)) (acc, n)).1.length = acc.length + l.length := by
  induction l generalizing acc n with
  | nil => rfl
  | cons a l ih =>
    rw [List.foldl_cons, ih, List.length_append, List.length_cons, List.length_cons, List.length_nil]
    dsimp only
    omega

theorem length_commitStreams (k : CommitCtx) (q : Seq) (cru : Nat → Bool) (rows : List (List (List Nat × List Nat))) :
    (commitStreams k q cru rows).1.length = q.streams.length := by
  unfold commitStreams
  have h := length_foldl_append (fun (n : CommitCounts) (x : Stream × Nat) =>
    ((commitStream k q x.2 (cru x.2) (rows.getD x.2 []) x.1).1, n.add (commitStream k q x.2 (cru x.2) (rows.getD x.2 []) x.1).2)) q.streams.zipIdx [] {}
  rw [List.length_zipIdx, List.length_nil, Nat.zero_add] at h
  exact h

/-- What one commit of a LADLE leaves of its sequence. -/
structure Committed (q q' : Seq) (a b : Nat) (pin : Bool) (step : BitVec 64) : Prop where
  len : q'.len = b
  step : q'.step = step
  streams : q'.streams.length = q.streams.length
  pins : q'.pins = if pin then q.pins ++ (List.range (b - a)).map (a + ·) else q.pins

theorem commitSeq_seqs (n a b : Nat) (pin : Bool) (step : BitVec 64) (rows : List (List (List Nat × List Nat))) (s : State) :
    ∃ q', (commitSeq n a b pin step rows s).2.seqs = (setSeq n q' s).seqs ∧ Committed (getSeq s n) q' a b pin step := by
  unfold commitSeq
  dsimp only
  rw [cntAdd_seqs, cntAdd_seqs, cntAdd_seqs, (damageEvents_only ..).seqs_eq (by decide)]
  refine ⟨_, rfl, ?_⟩
  obtain ⟨chunks, size, h⟩ := growDir_spec b _
  rw [h]
  exact ⟨rfl, rfl, length_commitStreams .., rfl⟩

/-- A LADLE whose turn it is, with its segment here and nothing in its way, commits. -/
theorem ladleStep_commits {c : Cmd} {r : LadleRun} {q : Seq} {s : State} (hq : q = getSeq s (seqOf c))
    (hturn : myTurn s (seqOf c) (cmdKey c.ring c.rseq) = true) (hopen : q.state = .open_) (hlen : q.len = r.next) (hlt : r.next < r.upto)
    (hlast : r.upto = r.p + r.n) (hhave : r.have_ = true) (hfree : commitFree s q r.next r.upto (ladleBit c 21) = true) (hrep : replicaWhole q = false)
    (hkind : missingKind s (commitKinds (slotOf s q.mslot) q r.upto) = none)
    (halloc : commitAllocates q r.upto = false ∨ Config.allocFits s.freeCnt q.part (posBytes (slotOf s q.mslot) 64) = true) :
    ladleStep c r s = ladleDoCommit c r s := by
  unfold ladleStep
  dsimp only
  rw [← hq]
  simp only [hturn, hopen, hhave, hfree, hrep, hkind, Bool.not_true, Bool.false_eq_true, if_false, ne_eq, not_true_eq_false, hlen,
    show ¬ r.p + r.n ≤ r.next by omega, false_and, Bool.not_false, or_true, if_true]
  rcases halloc with h | h <;> simp [h]

/-- Settles O25: the checks, the admission and the last commit of a LADLE. -/
theorem ladleAppendsPositions : Obligations.LadleAppendsPositions := by
  refine ⟨fun ring rseq c q s hc hop hq => ?_, fun ring rseq c q m r s hc hop hq hm hpos hst hcase hfree hsrc hr hg hok => ?_,
    fun ring rseq c r q s hc hwork hq hturn hopen hlen hlt hlast hhave hfree hrep hkind halloc => ?_⟩
  · have hexec : exec (.ladle ring rseq) s = .next (admitLadle c s) :=
      congrArg Host.Outcome.next (admitting_of_mayAdmit hc (by simpa using hop) admitLadle)
    have hgood : ladleStatus s c = .ok → ∀ st, (ladleCase c q = .stop st → admitLadle c s = endAtAdmission c st q.len s) ∧
        (ladleCase c q = .nothing → admitLadle c s = endAtAdmission c .ok q.len s) := by
      intro hst st
      constructor <;>
      · intro h
        rw [hq] at h
        unfold admitLadle
        simp only [hst, h, hq]
    refine ⟨fun h => hexec.trans (congrArg _ (admitLadle_of_bad h)), fun st hst h => hexec.trans (congrArg _ ((hgood hst st).1 h)),
      fun hst h => ⟨hexec.trans (congrArg _ ((hgood hst .ok).2 h)), (endAtAdmission_only ..).seqs_eq (by decide), (endAtAdmission_only ..).mem_eq (by decide)⟩⟩
  · subst hq hm
    have hexec : exec (.ladle ring rseq) s = .next (ladleAsked c (ladlePiece (slotOf s (getSeq s (seqOf c)).mslot) c r).1
        (ladlePiece (slotOf s (getSeq s (seqOf c)).mslot) c r).2 r s) := by
      refine congrArg Host.Outcome.next ((admitting_of_mayAdmit hc (by simpa using hop) admitLadle).trans ?_)
      unfold admitLadle
      simp only [hst, hcase, hfree, if_false, hsrc, if_true]
      exact runLadle_appends hc.ring_ne rfl hpos hr rfl hg hok
    have hframe := ladleAsked_only c (ladlePiece (slotOf s (getSeq s (seqOf c)).mslot) c r).1 (ladlePiece (slotOf s (getSeq s (seqOf c)).mslot) c r).2 r s
    refine ⟨_, _, hexec, hframe, hframe.act_eq (by decide), getCmd_setCmd_of_key _ hc.ringIs hc.rseqIs, rfl, rfl, ?_, ?_, ?_, ?_, fun n hn => ?_⟩
    · rw [ladleAsked_out, hc.ringIs, hc.rseqIs]
    · rw [getSeq_ladleAsked, getSeq_queued]
    · rw [getSeq_ladleAsked, getSeq_queued]
    · rw [getSeq_ladleAsked, getSeq_queued, ← hc.key]
      exact List.getLast?_concat ..
    · rw [getSeq_ladleAsked, getSeq_queued_of_ne _ _ _ hn]
  · have hturn' : myTurn s (seqOf c) (cmdKey c.ring c.rseq) = true := by
      rw [hc.key]
      exact hturn
    have hexec : exec (.ladleCommit ring rseq) s = .next (finish c .ok r.upto (ladleCommitted c r s)) := by
      change execLadleCommit ring rseq s = _
      unfold execLadleCommit
      simp only [runningCmd_of_runs hc, hwork, hc.whole, hc.serves, Bool.not_true, Bool.false_eq_true, or_self, if_false]
      rw [ladleStep_commits hq hturn' hopen hlen hlt hlast hhave hfree hrep hkind halloc, ladleDoCommit_last hlast]
    obtain ⟨q', hseqs, hcommitted⟩ := commitSeq_seqs (seqOf c) r.next r.upto (ladleBit c 21) c.step r.rows s
    have hall : ∀ n, getSeq (finish c .ok r.upto (ladleCommitted c r s)) n = getSeq (setSeq (seqOf c) q' s) n := fun n => by
      rw [getSeq_finish, getSeq_of_seqs ((ladleCommitted_seqs c r s).trans hseqs)]
    rw [← hq] at hcommitted
    have hself := (hall (seqOf c)).trans (getSeq_setSeq ..)
    have hframe := ladleCommitted_only c r s
    refine ⟨_, hexec, ?_, ?_, ?_, ?_, endsWith_finish hc.ring_ne .., fun n hn => ?_, ((finish_only ..).mem_eq (by decide)).trans (hframe.mem_eq (by decide)),
      ((finish_only ..).rma_eq (by decide)).trans (hframe.rma_eq (by decide)), ((finish_only ..).walk_eq (by decide)).trans (hframe.walk_eq (by decide))⟩
    · exact (congrArg Seq.len hself).trans hcommitted.len
    · exact (congrArg Seq.step hself).trans hcommitted.step
    · exact (congrArg (fun q => q.streams.length) hself).trans hcommitted.streams
    · exact (congrArg Seq.pins hself).trans hcommitted.pins
    · exact (hall n).trans (getSeq_setSeq_of_ne _ _ hn)

/-! ## SEAL (R65) -/

theorem length_seqImage (s : State) (n : Nat) : (seqImage s n).length = 128 := by
  unfold seqImage
  simp [length_leBytes, List.length_flatMap]

theorem admitSeal_of_good {c : Cmd} {s : State} (f : Cmd → Seq → State → State) (h : sealStatus s c = .ok) :
    admitSeal f c s = f c (getSeq s (seqOf c)) s := by
  unfold admitSeal
  rw [h]

theorem admitSeal_of_bad {c : Cmd} {s : State} (f : Cmd → Seq → State → State) (h : sealStatus s c ≠ .ok) :
    admitSeal f c s = endAtAdmission c (sealStatus s c) 0 s := by
  unfold admitSeal
  split
  next hok => exact absurd hok h
  next => rfl

/-- A SEAL of mode `mode` is admitted by its own row. -/
theorem sealRow_of_mayAdmit {s : State} {ring : Nat} {rseq : BitVec 32} {c : Cmd} {mode : Nat} (hc : MayAdmit s ring rseq c) (hop : c.op = 0x19)
    (hmode : seqMode c = mode) (f : Cmd → State → State) : sealRow ring rseq mode f s = .next (f c s) :=
  congrArg Host.Outcome.next (admitting_of_mayAdmit hc (by simp [hop, hmode]) f)

/-- Bytes for an address in the host's memory leave by one write, and the command ends. -/
theorem deliver_of_host {c : Cmd} {a result : Nat} {bs : List Byte} {st : Status} {s : State} (hr : c.ring ≠ deckRing) (hlen : bs ≠ [])
    (hok : checkAddr s c a bs.length = .ok) (hg : isGfa a = false) :
    deliver c a bs st result s = finish { c with wrote := bs.length } st result
      (meterData c resPcieOut bs.length (emit (.dmaWrite (ringFn s c.ring) a (windowSeal s c.part a bs)) s)) := by
  simp [deliver, hok, hlen, isScratch, hr, hg, emitC, staging, cmdFn]

/-- What a delivery to the host's memory comes to. -/
theorem delivered_spec {c : Cmd} {a result : Nat} {bs : List Byte} {st : Status} {s : State} (hr : c.ring ≠ deckRing) (hlen : bs ≠ [])
    (hok : checkAddr s c a bs.length = .ok) (hg : isGfa a = false) :
    OnlyIn (.tap :: endAreas) s (deliver c a bs st result s) ∧ EndsWith (deliver c a bs st result s) c st result ∧
      .dmaWrite (ringFn s c.ring) a (windowSeal s c.part a bs) ∈ (deliver c a bs st result s).out := by
  rw [deliver_of_host hr hlen hok hg]
  refine ⟨(finish_only ..).via (by decide) ((meterData_only_of_host hr ..).via (by decide) ((emit_only ..).sub (by decide))), ?_, (grows_finish ..).keeps _ ?_⟩
  · obtain ⟨d, hd, hdesc, hrest⟩ := endsWith_finish (c := { c with wrote := bs.length }) hr st result
      (meterData c resPcieOut bs.length (emit (.dmaWrite (ringFn s c.ring) a (windowSeal s c.part a bs)) s))
    exact ⟨d, hd, hdesc, hrest⟩
  · rw [(meterData_only ..).out_eq (by decide)]
    exact List.mem_append_right _ (.head _)

/-- The descriptor of a sequence goes to DEST once nothing of the sequence is unfinished. -/
theorem admitRead_of_good {c : Cmd} {s : State} (hr : c.ring ≠ deckRing) (hst : sealStatus s c = .ok) (hturns : liveTurns s (getSeq s (seqOf c)) = [])
    (hok : checkAddr s c (fld c.desc 16 8) 128 = .ok) :
    admitRead c s = deliver (admitted c .none s) (fld c.desc 16 8) (seqImage s (seqOf c)) .ok 0 (admitCmd c .none s) := by
  unfold admitRead
  rw [admitSeal_of_good _ hst, hturns]
  simp only [List.isEmpty_nil, Bool.not_true, Bool.false_eq_true, if_false, hok]
  rw [getCmd_admitCmd hr, Option.getD_some]

theorem sealRead_spec {c : Cmd} {s : State} (hr : c.ring ≠ deckRing) (hst : sealStatus s c = .ok) (hturns : liveTurns s (getSeq s (seqOf c)) = [])
    (hok : checkAddr s c (fld c.desc 16 8) 128 = .ok) (hg : isGfa (fld c.desc 16 8) = false) :
    OnlyIn (.tap :: endAreas) s (admitRead c s) ∧ EndsWith (admitRead c s) c .ok 0 ∧
      .dmaWrite (ringFn s c.ring) (fld c.desc 16 8) (windowSeal s c.part (fld c.desc 16 8) (seqImage s (seqOf c))) ∈ (admitRead c s).out := by
  have hframe := admitCmd_only c .none s
  have hbytes : seqImage s (seqOf c) ≠ [] := by
    intro h
    have hlen := length_seqImage s (seqOf c)
    rw [h] at hlen
    exact absurd hlen (by decide)
  have hcheck : checkAddr (admitCmd c .none s) (admitted c .none s) (fld c.desc 16 8) (seqImage s (seqOf c)).length = .ok := by
    rw [length_seqImage]
    exact (checkAddr_congr (by exact hframe.sec_eq (by decide)) rfl rfl _ _).trans hok
  obtain ⟨honly, hend, hout⟩ := delivered_spec (c := admitted c .none s) (st := .ok) (result := 0) hr hbytes hcheck hg
  rw [admitRead_of_good hr hst hturns hok]
  refine ⟨honly.via (by decide) (hframe.sub (by decide)), hend, ?_⟩
  rw [windowSeal_congr (by exact hframe.sec_eq (by decide)), show ringFn (admitCmd c .none s) (admitted c .none s).ring = ringFn s c.ring from
    ringFn_congr (by exact hframe.act_eq (by decide)) _] at hout
  exact hout

/-- SEAL FREEZE takes effect on an OPEN sequence. -/
theorem exec_sealFreezeEffect {s : State} {ring : Nat} {rseq : BitVec 32} {c : Cmd} (hc : Runs s ring rseq c) (hop : c.op = 0x19)
    (hturn : myTurn s (seqOf c) (cmdKey ring rseq) = true) (hmode : seqMode c = 0) (hopen : (getSeq s (seqOf c)).state = .open_) :
    exec (.sealFreezeEffect ring rseq) s =
      .next (finish c .ok 0 (setSeq (seqOf c) { freezeStages (getSeq s (seqOf c)) with state := .frozen, step := c.step } s)) := by
  change execSealFreezeEffect ring rseq s = _
  unfold execSealFreezeEffect
  simp [runningCmd_of_runs hc, hop, hmode, hturn, hc.serves, stateCheck, hopen]

/-- SEAL FREE takes effect on a sequence without readers and without a replica. -/
theorem exec_sealFreeEffect {s : State} {ring : Nat} {rseq : BitVec 32} {c : Cmd} (hc : Runs s ring rseq c) (hop : c.op = 0x19)
    (hturn : myTurn s (seqOf c) (cmdKey ring rseq) = true) (hmode : seqMode c = 1) (hreaders : liveReaders s (getSeq s (seqOf c)) = [])
    (hstate : (getSeq s (seqOf c)).state ≠ .free) (hrepl : (getSeq s (seqOf c)).repl ≠ 2) :
    exec (.sealFreeEffect ring rseq) s = .next (finish c .ok 0 (freeSeq (seqOf c) s)) := by
  change execSealFreeEffect ring rseq s = _
  unfold execSealFreeEffect
  simp [runningCmd_of_runs hc, hop, hmode, hturn, hc.serves, hreaders, hstate, hrepl]

theorem getSeq_freeSeq (n k : Nat) (s : State) : getSeq (freeSeq n s) k = getSeq (setSeq n { gen := (getSeq s n).gen } s) k :=
  getSeq_of_seqs ((showRefs_only ..).seqs_eq (by decide)) k

/-- Settles O26: the three modes at admission, and the effects of FREEZE and FREE. -/
theorem sealFreezesFreesReads : Obligations.SealFreezesFreesReads := by
  refine ⟨fun ring rseq c q s hc hop hq => ?_, fun ring rseq c q s hc hop hq hturn => ⟨fun hmode hopen => ?_, fun hmode hreaders hstate hrepl => ?_⟩⟩
  · subst hq
    refine ⟨fun hmode hst hfrozen => ?_, fun hmode hst hfrozen => ?_, fun hmode hst => ?_, fun hmode hst => ?_, fun hmode hst => ?_,
      fun hmode hst hturns hok hg => ?_⟩
    · refine (sealRow_of_mayAdmit hc hop hmode admitFreeze).trans (congrArg _ ((admitSeal_of_good _ hst).trans ?_))
      exact if_neg hfrozen
    · refine (sealRow_of_mayAdmit hc hop hmode admitFreeze).trans (congrArg _ ((admitSeal_of_good _ hst).trans ?_))
      exact if_pos hfrozen
    · exact (sealRow_of_mayAdmit hc hop hmode admitFreeze).trans (congrArg _ (admitSeal_of_bad _ hst))
    · exact (sealRow_of_mayAdmit hc hop hmode admitFree).trans (congrArg _ (admitSeal_of_good _ hst))
    · exact (sealRow_of_mayAdmit hc hop hmode admitFree).trans (congrArg _ (admitSeal_of_bad _ hst))
    · obtain ⟨hframe, hend, hout⟩ := sealRead_spec hc.ring_ne hst hturns hok hg
      exact ⟨_, sealRow_of_mayAdmit hc hop hmode admitRead, hend, hframe.seqs_eq (by decide), hframe.mem_eq (by decide), hc.ringIs ▸ hout⟩
  · subst hq
    refine ⟨_, exec_sealFreezeEffect hc hop hturn hmode hopen, (finish_only ..).via (by decide) ((setSeq_only ..).sub (by decide)),
      endsWith_finish hc.ring_ne .., ?_, ?_, fun n hn => ?_⟩ <;> rw [getSeq_finish]
    · rw [getSeq_setSeq]
    · rw [getSeq_setSeq]
      rfl
    · rw [getSeq_setSeq_of_ne _ _ hn]
  · subst hq
    refine ⟨_, exec_sealFreeEffect hc hop hturn hmode hreaders hstate hrepl, (finish_only ..).via (by decide) ((freeSeq_only ..).sub (by decide)),
      endsWith_finish hc.ring_ne .., ?_, fun n hn => ?_⟩ <;> rw [getSeq_finish, getSeq_freeSeq]
    · rw [getSeq_setSeq]
    · rw [getSeq_setSeq_of_ne _ _ hn]

end Sys2Proof.Machine

namespace Sys2Proof.Machine

open Sys2Proof

/-! ## MIGRATE that copies (R33, R66) -/

theorem isRunning_of_cmds {s t : State} (h : t.cmds = s.cmds) (k : Nat) : isRunning t k = isRunning s k := by simp [isRunning, h]

/-- An admitted command runs, and the others run as they did. -/
theorem isRunning_admitCmd {c : Cmd} (hr : c.ring ≠ deckRing) (w : Work) (s : State) (k : Nat) :
    isRunning (admitCmd c w s) k = (k == cmdKey c.ring c.rseq || isRunning s k) := by
  rw [admitCmd_of_host hr]
  have hcmds : (setCmd (admitted c w s) (takeStep s).2).cmds = tset s.cmds (cmdKey c.ring c.rseq) (admitted c w s) := by
    rw [setCmd, (takeStep_only s).cmds_eq (by decide)]
    rfl
  unfold isRunning
  rw [hcmds, tget_tset]
  by_cases hk : k = cmdKey c.ring c.rseq
  · simp [hk, admitted]
  · simp [hk]

/-- The turn of a command that has just queued, behind what ran before it. -/
theorem myTurn_queued {c : Cmd} (hr : c.ring ≠ deckRing) (w : Work) (s : State) :
    (liveTurns (queued c w s) (getSeq (queued c w s) (seqOf c))).head? =
      ((getSeq s (seqOf c)).ladles.filter (fun k => k == cmdKey c.ring c.rseq || isRunning s k) ++ [cmdKey c.ring c.rseq]).head? := by
  have hrun : isRunning (queued c w s) = fun k => k == cmdKey c.ring c.rseq || isRunning s k :=
    funext fun k => (isRunning_of_cmds ((addTurn_only ..).cmds_eq (by decide)) k).trans (isRunning_admitCmd hr w s k)
  have hrun' : isRunning (admitCmd c w s) = fun k => k == cmdKey c.ring c.rseq || isRunning s k := funext fun k => isRunning_admitCmd hr w s k
  rw [getSeq_queued]
  unfold liveTurns
  rw [hrun, hrun']
  simp

/-- A MIGRATE that is admitted: a reader of its sequence that stands in its order. -/
def migQueued (c : Cmd) (s : State) : State :=
  addReader (seqOf c) (cmdKey c.ring c.rseq) (getSeq s (seqOf c)).len (queued c (.migrate { mode := seqMode c }) s)

theorem myTurn_migQueued (c : Cmd) (s : State) :
    myTurn (migQueued c s) (seqOf c) (cmdKey c.ring c.rseq) =
      ((liveTurns (queued c (.migrate { mode := seqMode c }) s) (getSeq (queued c (.migrate { mode := seqMode c }) s) (seqOf c))).head? ==
        some (cmdKey c.ring c.rseq)) := by
  rw [myTurn, migQueued, addReader, getSeq_modSeq]
  rfl

theorem myTurn_of_none {c : Cmd} {s : State} (hr : c.ring ≠ deckRing) (h : liveTurns s (getSeq s (seqOf c)) = []) :
    myTurn (migQueued c s) (seqOf c) (cmdKey c.ring c.rseq) = true := by
  rw [myTurn_migQueued, myTurn_queued hr]
  have hall : ∀ k ∈ (getSeq s (seqOf c)).ladles.filter (fun k => k == cmdKey c.ring c.rseq || isRunning s k), k = cmdKey c.ring c.rseq := by
    intro k hk
    obtain ⟨hmem, hor⟩ := List.mem_filter.1 hk
    have hidle : isRunning s k = false := by simpa using List.filter_eq_nil_iff.1 h k hmem
    simpa [hidle] using hor
  cases hl : (getSeq s (seqOf c)).ladles.filter (fun k => k == cmdKey c.ring c.rseq || isRunning s k) with
  | nil => simp
  | cons k l => simp [hall k (by rw [hl]; exact .head _)]

theorem myTurn_of_some {c : Cmd} {s : State} (hr : c.ring ≠ deckRing) (h : liveTurns s (getSeq s (seqOf c)) ≠ [])
    (hnew : cmdKey c.ring c.rseq ∉ (getSeq s (seqOf c)).ladles) : myTurn (migQueued c s) (seqOf c) (cmdKey c.ring c.rseq) = false := by
  rw [myTurn_migQueued, myTurn_queued hr]
  have hsame : (getSeq s (seqOf c)).ladles.filter (fun k => k == cmdKey c.ring c.rseq || isRunning s k) = liveTurns s (getSeq s (seqOf c)) := by
    refine List.filter_congr fun k hk => ?_
    have hne : k ≠ cmdKey c.ring c.rseq := fun e => hnew (e ▸ hk)
    simp [hne]
  rw [hsame]
  cases hl : liveTurns s (getSeq s (seqOf c)) with
  | nil => exact absurd hl h
  | cons k l =>
    have hmem : k ∈ (getSeq s (seqOf c)).ladles := List.mem_of_mem_filter (p := isRunning s) (show k ∈ liveTurns s (getSeq s (seqOf c)) by rw [hl]; exact .head _)
    have hne : k ≠ cmdKey c.ring c.rseq := fun e => hnew (e ▸ hmem)
    simp [hne]

theorem admitMigrate_of_good {c : Cmd} {s : State} (h : migStatus s c = .ok) :
    admitMigrate c s = if myTurn (migQueued c s) (seqOf c) (cmdKey c.ring c.rseq) then migCopy ((getCmd (migQueued c s) c.ring c.rseq).getD c) (migQueued c s)
      else migQueued c s := by
  unfold admitMigrate
  rw [h]
  rfl

theorem admitMigrate_of_bad {c : Cmd} {s : State} (h : migStatus s c ≠ .ok) : admitMigrate c s = endAtAdmission c (migStatus s c) 0 s := by
  unfold admitMigrate
  split
  next hok => exact absurd hok h
  next => rfl

/-- The four rows of a MIGRATE that copies. -/
theorem exec_migrate {s : State} {ring : Nat} {rseq : BitVec 32} {c : Cmd} {mode : Nat} {i : Instr} (hc : MayAdmit s ring rseq c) (hop : c.op = 0x1A)
    (hmode : seqMode c = mode)
    (hi : (mode, i) ∈ [(0, Instr.migrateMoveHome ring rseq), (1, .migrateReplicate ring rseq), (2, .migrateShardOut ring rseq), (3, .migrateShardIn ring rseq)]) :
    exec i s = .next (admitMigrate c s) := by
  have hrow : exec i s = migRow ring rseq mode admitMigrate s := by
    simp only [List.mem_cons, List.not_mem_nil, or_false, Prod.mk.injEq] at hi
    rcases hi with ⟨rfl, rfl⟩ | ⟨rfl, rfl⟩ | ⟨rfl, rfl⟩ | ⟨rfl, rfl⟩ <;> rfl
  rw [hrow]
  exact congrArg Host.Outcome.next (admitting_of_mayAdmit hc (by simp [hop, hmode]) admitMigrate)

/-! ## The switch of a MIGRATE (R66) -/

/-- Editing PDEs changes the streams alone. -/
theorem editPdes_spec (pages : List (Nat × Nat)) (f : Pde → Pde) (q : Seq) : ∃ xs, editPdes pages f q = { q with streams := xs } := by
  unfold editPdes
  induction pages generalizing q with
  | nil => exact ⟨q.streams, rfl⟩
  | cons e pages ih => exact ih _

theorem migSwitched_moved {s : State} {c : Cmd} (q : Seq) (h : seqMode c = 0) : (migSwitched s c q).state = .moved := by
  unfold migSwitched
  dsimp only
  rw [h]
  rfl

theorem migSwitched_replicated {s : State} {c : Cmd} (q : Seq) (h : seqMode c = 1) :
    (migSwitched s c q).repl = 2 ∧ (migSwitched s c q).replDegraded = false ∧ (migSwitched s c q).peerNode = migTarget c := by
  unfold migSwitched
  rw [h]
  obtain ⟨xs, hx⟩ := editPdes_spec (q.streams.zipIdx.flatMap fun x => x.1.copies.map fun e => (x.2, e.1)) (fun d => { d with repl := d.sealed_ || d.repl })
    { q with repl := 2, replDegraded := false, peerNode := migTarget c, peerConn := migConn c, peerSeq := migSeq c, step := c.step }
  refine ⟨(congrArg Seq.repl hx).trans rfl, (congrArg Seq.replDegraded hx).trans rfl, (congrArg Seq.peerNode hx).trans rfl⟩

theorem exec_migrateSwitch {s : State} {ring : Nat} {rseq : BitVec 32} {c : Cmd} {r : MigrateRun} (hc : Runs s ring rseq c) (hwork : c.work = .migrate r)
    (hturn : myTurn s (seqOf c) (cmdKey ring rseq) = true) (hstate : stateCheck (getSeq s (seqOf c)) = .ok) (hsent : r.sent = true)
    (hbusy : migBusy c = false) (hans : ∀ u ∈ c.subs, u.answer ≠ none) :
    exec (.migrateSwitch ring rseq) s =
      .next (finish c .ok 0 (setSeq (seqOf c) (migSwitched s c (getSeq s (seqOf c))) (stepFree s))) := by
  have hall : (c.subs.any fun u => u.answer.isNone) = false := by
    rw [List.any_eq_false]
    intro u hu
    simpa [Option.isNone_iff_eq_none] using hans u hu
  change execMigrateSwitch ring rseq s = _
  unfold execMigrateSwitch
  simp only [runningCmd_of_runs hc, hwork, hturn, hc.whole, hc.serves, hstate, hsent, hbusy, hall, Bool.not_true, Bool.false_eq_true, or_self, if_false,
    bne_self_eq_false]

/-- Settles O27: the admission by the command's turn, and the switch. -/
theorem migrateCopiesAndSwitches : Obligations.MigrateCopiesAndSwitches := by
  refine ⟨fun ring rseq c c1 i mode s s1 hc hop hmode hi hs1 hget => ?_, fun ring rseq c r q s hc hwork hq hturn hstate hsent hbusy hans => ?_⟩
  · have hqueued : s1 = migQueued c s := by
      rw [hs1, ← hc.key, ← hmode]
      rfl
    have hexec := exec_migrate hc hop hmode hi
    refine ⟨fun hst hturns => ?_, fun hst hturns hnew => ?_, fun hst => hexec.trans (congrArg _ (admitMigrate_of_bad hst))⟩
    · rw [hexec, admitMigrate_of_good hst, if_pos (myTurn_of_none hc.ring_ne hturns), ← hqueued, hc.ringIs, hc.rseqIs, hget, Option.getD_some]
    · rw [← hc.key] at hnew
      rw [hexec, admitMigrate_of_good hst, myTurn_of_some hc.ring_ne hturns hnew, hqueued]
      rfl
  · subst hq
    refine ⟨_, exec_migrateSwitch hc hwork hturn hstate hsent hbusy hans, (finish_only ..).via (by decide)
      ((setSeq_only ..).via (by decide) ((stepFree_only s).sub (by decide))), endsWith_finish hc.ring_ne .., ?_, fun hmode => ?_, fun hmode => ?_,
      fun n hn => ?_⟩ <;> rw [getSeq_finish]
    · rw [getSeq_setSeq]
    · rw [getSeq_setSeq]
      exact migSwitched_moved _ hmode
    · rw [getSeq_setSeq]
      exact migSwitched_replicated _ hmode
    · rw [getSeq_setSeq_of_ne _ _ hn]
      rfl

/-! ## Demotion (R66, R264, R362) -/

theorem demoteFormer_of_some {n : Nat} {d : Demote} {s : State} (h : (getSeq s n).demote = some d) :
    demoteFormer n s = sendDemote d.oldHome d.oldSeq (BitVec.ofNat 16 (nodeId s)) false
      (modSeq n (fun q => { q with demote := some { d with tries := d.tries + 1, due := now s + 1000000, done := false } }) s) := by
  unfold demoteFormer
  rw [h]

theorem getSeq_sendDemote (dst seq : Nat) (newHome : BitVec 16) (ack : Bool) (s : State) (n : Nat) :
    getSeq (sendDemote dst seq newHome ack s) n = getSeq s n := getSeq_of_seqs ((sendDemote_only ..).seqs_eq (by decide)) n

theorem getSeq_demoteFormer {n : Nat} {d : Demote} {s : State} (h : (getSeq s n).demote = some d) :
    getSeq (demoteFormer n s) n = { getSeq s n with demote := some { d with tries := d.tries + 1, due := now s + 1000000, done := false } } := by
  rw [demoteFormer_of_some h, getSeq_sendDemote, getSeq_modSeq]

theorem getSeq_demoteFormer_of_ne {n k : Nat} (s : State) (hk : k ≠ n) : getSeq (demoteFormer n s) k = getSeq s k := by
  cases h : (getSeq s n).demote with
  | none =>
    unfold demoteFormer
    rw [h]
  | some d => rw [demoteFormer_of_some h, getSeq_sendDemote, getSeq_modSeq_of_ne _ _ hk]

/-- What PROMOTE makes of a replica. -/
def promoted (s : State) (step : BitVec 64) (q : Seq) : Seq :=
  { q with state := .open_, repl := 1, replDegraded := true, peerNode := 0xFFFF, peerConn := 0, peerSeq := 0, mapEpoch := s.rmx.epoch, step := step
           demote := some { oldHome := q.peerNode, oldSeq := q.peerSeq } }

/-- PROMOTE as it is admitted. -/
def promotion (c : Cmd) (s : State) : State :=
  demoteFormer (seqOf c) (setSeq (seqOf c) (promoted s (admitted c .none s).step (getSeq s (seqOf c))) (admitCmd c .none s))

theorem admitPromote_of_good {c : Cmd} {s : State} (hr : c.ring ≠ deckRing) (hst : migStatus s c = .ok) (hturns : liveTurns s (getSeq s (seqOf c)) = []) :
    admitPromote c s = finish (admitted c .none s) .ok 0 (promotion c s) := by
  unfold admitPromote
  dsimp only
  rw [hst, hturns]
  dsimp only
  rw [getCmd_admitCmd hr, Option.getD_some, getSeq_admitCmd]
  rfl

theorem getSeq_promotion (c : Cmd) (s : State) : ∃ due, getSeq (promotion c s) (seqOf c) =
    { promoted s (admitted c .none s).step (getSeq s (seqOf c)) with
      demote := some { oldHome := (getSeq s (seqOf c)).peerNode, oldSeq := (getSeq s (seqOf c)).peerSeq, tries := 1, due := due } } := by
  have h := getSeq_demoteFormer (n := seqOf c) (d := { oldHome := (getSeq s (seqOf c)).peerNode, oldSeq := (getSeq s (seqOf c)).peerSeq })
    (s := setSeq (seqOf c) (promoted s (admitted c .none s).step (getSeq s (seqOf c))) (admitCmd c .none s)) (by rw [getSeq_setSeq]; rfl)
  rw [getSeq_setSeq] at h
  exact ⟨_, h⟩

theorem promotion_only (c : Cmd) (s : State) :
    OnlyIn [.out, .regs, .host, .seqs, .mgmt, .tap, .fab, .act, .cmds] s (promotion c s) :=
  (demoteFormer_only ..).via (by decide) ((setSeq_only ..).via (by decide) ((admitCmd_only ..).sub (by decide)))

theorem getSeq_promotion_of_ne {n : Nat} (c : Cmd) (s : State) (h : n ≠ seqOf c) : getSeq (promotion c s) n = getSeq s n := by
  rw [promotion, getSeq_demoteFormer_of_ne _ h, getSeq_setSeq_of_ne _ _ h, getSeq_admitCmd]

theorem exec_migratePromote {s : State} {ring : Nat} {rseq : BitVec 32} {c : Cmd} (hc : MayAdmit s ring rseq c) (hop : c.op = 0x1A) (hmode : seqMode c = 4)
    (hst : migStatus s c = .ok) (hturns : liveTurns s (getSeq s (seqOf c)) = []) :
    exec (.migratePromote ring rseq) s = .next (finish (admitted c .none s) .ok 0 (promotion c s)) :=
  congrArg Host.Outcome.next ((admitting_of_mayAdmit hc (by simp [hop, hmode]) admitPromote).trans (admitPromote_of_good hc.ring_ne hst hturns))

/-- What OLD_COPY_FREE leaves of a sequence. -/
def oldFreed (q : Seq) : Seq :=
  { q with
    streams := q.streams.zipIdx.map fun (x, st) =>
      if q.state == .moved then ({} : Stream)
      else { x with copies := tfilter x.copies fun p _ => !q.oldCopies.contains (st, p) || !(tgetD x.pdes p {}).remote }
    oldCopies := [], oldReaders := [] }

theorem exec_oldCopyFree {n : Nat} {s : State} (hs : serving s = true) (hold : (getSeq s n).oldCopies ≠ [])
    (hreaders : ∀ k ∈ (getSeq s n).oldReaders, isRunning s k = false) : exec (.oldCopyFree n) s = .next (setSeq n (oldFreed (getSeq s n)) s) := by
  have hnone : (getSeq s n).oldReaders.any (isRunning s) = false := by
    rw [List.any_eq_false]
    exact fun k hk => by simp [hreaders k hk]
  change execOldCopyFree n s = _
  unfold execOldCopyFree
  simp only [List.isEmpty_eq_false_iff.2 hold, hnone, hs, Bool.not_true, Bool.false_eq_true, or_self, if_false]
  rfl

theorem oldFreed_moved {q : Seq} (h : q.state = .moved) : ∀ x ∈ (oldFreed q).streams, x = {} := by
  intro x hx
  simp only [oldFreed, List.mem_map] at hx
  obtain ⟨e, -, rfl⟩ := hx
  simp [h]

/-- What a DEMOTE_ACK from node `src` for sequence `seq` leaves of a sequence. -/
def demoteAcked (src : BitVec 16) (seq : Nat) (ok : Prop) [Decidable ok] (q : Seq) : Seq :=
  match q.demote with
  | some d => if d.oldHome = src.toNat ∧ d.oldSeq = seq ∧ ok then { q with demote := none } else q
  | none => q

theorem getSeq_tmap (f : Seq → Seq) (h : f {} = {}) (s : State) (n : Nat) :
    getSeq { s with seqs := tmap s.seqs fun _ q => f q } n = f (getSeq s n) := by
  simp only [getSeq, tgetD, tget_tmap]
  cases tget s.seqs n with
  | none => exact h.symm
  | some q => rfl

theorem nodeId_lt (s : State) : nodeId s < 2 ^ 16 := by
  unfold nodeId actBits bits
  exact Nat.mod_lt _ (by decide)

theorem nodeId_congr {s t : State} (h : t.regs.act = s.regs.act) : nodeId t = nodeId s := by simp [nodeId, actBits, actW, h]

theorem exec_rxDemoteAck {port seq : Nat} {src : BitVec 16} {newHome : BitVec 16} {s : State} (hs : serving s = true) :
    exec (.rxDemoteAck port src seq newHome) s =
      .next { takeDemote port src seq newHome true s with
        seqs := tmap (takeDemote port src seq newHome true s).seqs fun _ q =>
          demoteAcked src seq (newHome.toNat = nodeId (takeDemote port src seq newHome true s)) q } := by
  change execRxDemoteAck port src seq newHome s = _
  unfold execRxDemoteAck
  simp only [hs, Bool.not_true, Bool.false_eq_true, if_false]
  rfl

theorem exec_demoteRepeatTimer {n : Nat} {d : Demote} {s : State} (hs : serving s = true) (hd : (getSeq s n).demote = some d) (hdone : d.done = false) :
    exec (.demoteRepeatTimer n) s = .next (if d.tries < 100 then demoteFormer n (advanceTo d.due s)
      else post { cls := 6, code := 6, part := some (getSeq (advanceTo d.due s) n).part, detail := .l n 0xFFFF 0 0 0 }
        (modSeq n (fun q => { q with demote := some { d with done := true } }) (advanceTo d.due s))) := by
  change execDemoteRepeatTimer n s = _
  unfold execDemoteRepeatTimer
  simp only [hd, hdone, hs, Bool.not_true, Bool.false_eq_true, or_self, if_false]

/-- Settles O28: PROMOTE, the old copies, and the four steps of a demotion. -/
theorem promoteAndDemoteSettle : Obligations.PromoteAndDemoteSettle := by
  refine ⟨fun s hs => ⟨fun ring rseq c q hc hop hmode hq hst hturns => ?_, fun n hold hreaders => ?_⟩,
    fun s hs => ⟨fun port src seq newHome hstate => ?_, fun port src seq d n hd hhome hseq => ?_, fun n d hd hdone htries => ?_,
      fun n d hd hdone htries => ?_⟩⟩
  · subst hq
    obtain ⟨due, hself⟩ := getSeq_promotion c s
    rw [← getSeq_finish (admitted c .none s) .ok 0] at hself
    refine ⟨_, exec_migratePromote hc hop hmode hst hturns, endsWith_finish (c := admitted c .none s) hc.ring_ne .., ?_, ?_, ?_, ?_, ?_, ?_,
      ((finish_only ..).mem_eq (by decide)).trans ((promotion_only c s).mem_eq (by decide)), fun n hn => ?_⟩
    iterate 6 rw [hself]; rfl
    rw [getSeq_finish, getSeq_promotion_of_ne _ _ hn]
  · refine ⟨_, exec_oldCopyFree hs hold hreaders, setSeq_only .., ?_, ?_, ?_, fun hm => ?_, fun k hk => getSeq_setSeq_of_ne _ _ hk⟩ <;> rw [getSeq_setSeq]
    iterate 3 rfl
    exact oldFreed_moved hm
  · have hexec : exec (.rxDemote port src seq newHome) s = .next (sendDemote src.toNat seq newHome true
        (setSeq (seq % 2 ^ 20) { getSeq (takeDemote port src seq newHome false s) (seq % 2 ^ 20) with state := .moved }
          (takeDemote port src seq newHome false s))) := by
      change execRxDemote port src seq newHome s = _
      unfold execRxDemote
      simp only [hs, Bool.not_true, Bool.false_eq_true, if_false, hstate, if_true]
    have htake := takeDemote_only port src seq newHome false s
    have hframe := (sendDemote_only src.toNat seq newHome true (setSeq (seq % 2 ^ 20)
      { getSeq (takeDemote port src seq newHome false s) (seq % 2 ^ 20) with state := .moved } (takeDemote port src seq newHome false s)))
    refine ⟨_, hexec, ?_, (hframe.mem_eq (by decide)).trans (htake.mem_eq (by decide)), (hframe.cmds_eq (by decide)).trans (htake.cmds_eq (by decide)), fun n hn => ?_⟩ <;> rw [getSeq_sendDemote]
    · rw [getSeq_setSeq]
    · rw [getSeq_setSeq_of_ne _ _ hn, getSeq_of_seqs (htake.seqs_eq (by decide))]
  · have htake := takeDemote_only port src seq (BitVec.ofNat 16 (nodeId s)) true s
    refine ⟨_, exec_rxDemoteAck hs, ?_, htake.mem_eq (by decide), htake.cmds_eq (by decide)⟩
    have hid : (BitVec.ofNat 16 (nodeId s)).toNat = nodeId (takeDemote port src seq (BitVec.ofNat 16 (nodeId s)) true s) := by
      rw [nodeId_congr (htake.act_eq (by decide)), BitVec.toNat_ofNat, Nat.mod_eq_of_lt (nodeId_lt s)]
    rw [getSeq_tmap _ (by rfl), getSeq_of_seqs (htake.seqs_eq (by decide)), demoteAcked, hd]
    simp only [hhome, hseq, hid, and_self, if_true]
  · rw [exec_demoteRepeatTimer hs hd hdone, if_pos htries]
    have hframe := demoteFormer_only n (advanceTo d.due s)
    refine ⟨_, rfl, ?_, ?_, hframe.mem_eq (by decide), hframe.cmds_eq (by decide)⟩
    · rw [getSeq_demoteFormer (s := advanceTo d.due s) hd]
      rfl
    · rw [hframe.clk_eq (by decide)]
      exact le_max_right ..
  · rw [exec_demoteRepeatTimer hs hd hdone, if_neg (by omega)]
    refine ⟨_, rfl, ?_, (post_only ..).mem_eq (by decide), (post_only ..).cmds_eq (by decide)⟩
    rw [getSeq_of_seqs ((post_only ..).seqs_eq (by decide)), getSeq_modSeq]
    rfl

end Sys2Proof.Machine

namespace Sys2Proof.Machine

open Sys2Proof

/-! ## ATTEND: admission (R82 to R84) -/

/-- Checks that find no fault have each found none. -/
theorem firstBad_ok {l : List Status} (h : firstBad l = .ok) : ∀ st ∈ l, st = .ok := by
  intro st hst
  by_contra hne
  unfold firstBad at h
  cases hf : l.find? (· != .ok) with
  | none => exact hne (by simpa using List.find?_eq_none.1 hf st hst)
  | some x =>
    rw [hf] at h
    exact absurd h (by simpa using List.find?_some hf)

/-- An ATTEND in order, with the length it needs and its addresses checked, runs. -/
theorem admitAttend_of_late {c : Cmd} {r : AttendRun} {s : State} (hst : attendStatus s c = .ok) (hneed : attendNeed c ≤ (getSeq s (seqOf c)).len)
    (hr : r = { snap := getSeq s (seqOf c), len := (getSeq s (seqOf c)).len, hooks := hookList s (fld c.desc 28 1) }) (hlate : attendLate s c r = .ok) :
    admitAttend c s = runAttend c r s := by
  unfold admitAttend
  dsimp only
  rw [hst]
  dsimp only
  rw [if_neg (by omega), ← hr, hlate]

/-- The state in which an ATTEND waits for its input block. -/
def attendAsked (c : Cmd) (r : AttendRun) (s : State) : State :=
  emit (.dmaRead (ringFn s c.ring) (fld c.desc 40 8) (blockLayout (slotOf s r.snap.mslot) c r.hooks).2.2 (.input c.ring c.rseq))
    (modSeq (seqOf c) (triggerAutos (slotOf s r.snap.mslot) (admitted c (.attend r) s) r.len)
      (addReader (seqOf c) (cmdKey c.ring c.rseq) r.len (admitCmd c (.attend r) s)))

theorem attendAsked_only (c : Cmd) (r : AttendRun) (s : State) : OnlyIn [.regs, .cmds, .seqs, .out] s (attendAsked c r s) :=
  (emit_only ..).via (by decide) ((modSeq_only ..).via (by decide) ((addReader_only ..).via (by decide) ((admitCmd_only ..).sub (by decide))))

theorem attendLate_addr {c : Cmd} {r : AttendRun} {s : State} (h : attendLate s c r = .ok) :
    checkAddr s c (fld c.desc 40 8) (blockLayout (slotOf s r.snap.mslot) c r.hooks).2.2 = .ok := by
  unfold attendLate at h
  exact firstBad_ok h _ (.tail _ (.tail _ (.head _)))

theorem runAttend_asks {c : Cmd} {r : AttendRun} {s : State} (hr : c.ring ≠ deckRing) (hlate : attendLate s c r = .ok) (hg : isGfa (fld c.desc 40 8) = false) :
    runAttend c r s = attendAsked c r s := by
  have hget : getCmd (addReader (seqOf c) (cmdKey c.ring c.rseq) r.len (admitCmd c (.attend r) s)) c.ring c.rseq = some (admitted c (.attend r) s) :=
    (getCmd_of_cmds ((addReader_only ..).cmds_eq (by decide)) ..).trans (getCmd_admitCmd hr ..)
  have hframe : OnlyIn [.regs, .cmds, .seqs] s (modSeq (seqOf c) (triggerAutos (slotOf s r.snap.mslot) (admitted c (.attend r) s) r.len)
      (addReader (seqOf c) (cmdKey c.ring c.rseq) r.len (admitCmd c (.attend r) s))) :=
    (modSeq_only ..).via (by decide) ((addReader_only ..).via (by decide) ((admitCmd_only ..).sub (by decide)))
  unfold runAttend
  dsimp only
  rw [hget, Option.getD_some]
  have hread := startRead_congr (c := c) (d := admitted c (.attend r) s) hr (hframe.sec_eq (by decide)) (hframe.act_eq (by decide)) rfl rfl rfl (attendLate_addr hlate) hg
  rw [show blockLayout (slotOf s r.snap.mslot) (admitted c (.attend r) s) r.hooks = blockLayout (slotOf s r.snap.mslot) c r.hooks from rfl, hread]
  rfl

theorem map_zipIdx_congr {α β γ : Type} (f : α × Nat → β) (g : β → γ) (g' : α → γ) (l : List α) (h : ∀ x, g (f x) = g' x.1) (k : Nat) :
    ((l.zipIdx k).map f).map g = l.map g' := by
  induction l generalizing k with
  | nil => rfl
  | cons a l ih => rw [List.zipIdx_cons, List.map_cons, List.map_cons, ih, h, List.map_cons]

/-- The automatic selections of an ATTEND join the streams' orders and touch nothing else of the sequence. -/
theorem triggerAutos_spec (m : Slot) (c : Cmd) (len : Nat) (q : Seq) :
    ∃ xs : List Stream, triggerAutos m c len q = { q with streams := xs } ∧
      (xs.map fun x => (x.pdes, x.copies, x.ring, x.retr)) = (q.streams.map fun x => (x.pdes, x.copies, x.ring, x.retr)) := by
  unfold triggerAutos
  split
  · exact ⟨q.streams, rfl, rfl⟩
  · refine ⟨_, rfl, map_zipIdx_congr _ _ _ _ (fun x => ?_) 0⟩
    dsimp only
    split <;> rfl

theorem getSeq_attendAsked (c : Cmd) (r : AttendRun) (s : State) :
    ∃ xs : List Stream, getSeq (attendAsked c r s) (seqOf c) =
        { getSeq s (seqOf c) with
          readers := liveReaders (admitCmd c (.attend r) s) (getSeq s (seqOf c)) ++ [{ key := cmdKey c.ring c.rseq, len := r.len }], streams := xs } ∧
      (xs.map fun x => (x.pdes, x.copies, x.ring, x.retr)) = ((getSeq s (seqOf c)).streams.map fun x => (x.pdes, x.copies, x.ring, x.retr)) := by
  obtain ⟨xs, hx, hsame⟩ := triggerAutos_spec (slotOf s r.snap.mslot) (admitted c (.attend r) s) r.len
    { getSeq s (seqOf c) with readers := liveReaders (admitCmd c (.attend r) s) (getSeq s (seqOf c)) ++ [{ key := cmdKey c.ring c.rseq, len := r.len }] }
  refine ⟨xs, ?_, hsame⟩
  change getSeq (modSeq (seqOf c) _ (addReader _ _ _ _)) (seqOf c) = _
  rw [getSeq_modSeq, addReader, getSeq_modSeq, getSeq_admitCmd]
  exact hx

theorem getSeq_attendAsked_of_ne {n : Nat} (c : Cmd) (r : AttendRun) (s : State) (h : n ≠ seqOf c) : getSeq (attendAsked c r s) n = getSeq s n := by
  change getSeq (modSeq (seqOf c) _ (addReader _ _ _ _)) n = _
  rw [getSeq_modSeq_of_ne _ _ h, addReader, getSeq_modSeq_of_ne _ _ h, getSeq_admitCmd]

/-! ## ATTEND: the merge (R92, R96) -/

theorem attendMerge_whole {c : Cmd} {r : AttendRun} {s : State} {k : AttendSpec} {srcs : List (List LeafSrc)} {b : List Byte}
    (hk : k = attendSpec (slotOf s r.snap.mslot) c r)
    (hsrcs : srcs = (coveredStreams (slotOf s r.snap.mslot) c).map fun st =>
      leafSources s k c r r.snap [] st (awayParts c r (k.rows * (slotOf s r.snap.mslot).group) st))
    (hwhole : ∀ l ∈ srcs, ∀ x ∈ l, x.isHurt = false) (h0 : offline s 0 = false) (h1 : offline s 1 = false)
    (hb : b = attendBytes k c r.input (attendHeads (slotOf s r.snap.mslot) c r) srcs) :
    ∃ n n', attendMerge c r [] [] s = deliver c (fld c.desc 48 8) b .ok r.len (meter c c.part resCruOps n (meter c c.part resPosHeads n' s)) := by
  have hnone : (((coveredStreams (slotOf s r.snap.mslot) c).zip srcs).flatMap fun e => (e.2.filter (·.isHurt)).map fun x => (e.1, x)) = [] := by
    rw [List.flatMap_eq_nil_iff]
    intro e he
    rw [List.map_eq_nil_iff, List.filter_eq_nil_iff]
    intro x hx
    simp [hwhole e.2 (List.of_mem_zip he).2 x hx]
  have hkinds : ∀ p : Bool, missingKind s ((if p then [0] else []) ++ [1]) = none := by
    intro p
    cases p <;> simp [missingKind, h0, h1]
  unfold attendMerge
  simp only [List.filter_nil, List.foldl_nil, ← hk, ← hsrcs, hnone, hkinds, ← hb, List.length_nil, Nat.min_zero, Nat.mul_zero, Nat.add_zero, forEach, List.foldl_nil]
  exact ⟨_, _, rfl⟩

theorem attendBytes_delivered {c : Cmd} {result : Nat} {b : List Byte} {a n n' : Nat} {s : State} (hr : c.ring ≠ deckRing) (hb : b ≠ [])
    (hg : isGfa a = false) (hok : checkAddr s c a b.length = .ok) :
    OnlyIn (.tap :: endAreas) s (deliver c a b .ok result (meter c c.part resCruOps n (meter c c.part resPosHeads n' s))) ∧
      EndsWith (deliver c a b .ok result (meter c c.part resCruOps n (meter c c.part resPosHeads n' s))) c .ok result ∧
      .dmaWrite (ringFn s c.ring) a (windowSeal s c.part a b) ∈ (deliver c a b .ok result (meter c c.part resCruOps n (meter c c.part resPosHeads n' s))).out := by
  have hframe : OnlyIn [.tap] s (meter c c.part resCruOps n (meter c c.part resPosHeads n' s)) :=
    (meter_only_of_host hr ..).via (by decide) (meter_only_of_host hr ..)
  obtain ⟨honly, hend, hout⟩ := delivered_spec (result := result) (st := .ok) hr hb ((checkAddr_congr (hframe.sec_eq (by decide)) rfl rfl a b.length).trans hok) hg
  rw [windowSeal_congr (hframe.sec_eq (by decide)), ringFn_congr (hframe.act_eq (by decide))] at hout
  exact ⟨honly.via (by decide) (hframe.sub (by decide)), hend, hout⟩

theorem exec_attendRootMerge {s : State} {ring : Nat} {rseq : BitVec 32} {c : Cmd} {r : AttendRun} (hc : Runs s ring rseq c) (hwork : c.work = .attend r)
    (hstart : r.started = true) (hans : ∀ u ∈ c.subs, u.answer ≠ none)
    (hbad : badReads (attendSpec (slotOf s r.snap.mslot) c r) (slotOf s r.snap.mslot) c r (getSeq s (seqOf c)) = []) :
    exec (.attendRootMerge ring rseq) s = .next (attendMerge c r [] [] s) := by
  change execAttendRootMerge ring rseq s = _
  unfold execAttendRootMerge
  simp only [runningCmd_of_runs hc, hwork, hc.whole, hc.serves, hstart, hbad, Bool.not_true, Bool.false_eq_true, or_self, if_false,
    List.filter_nil, List.isEmpty_nil, if_true]
  refine congrArg Host.Outcome.next (if_neg ?_)
  rw [Bool.not_eq_true, List.any_eq_false]
  intro u hu
  split
  · simpa [Option.isNone_iff_eq_none] using hans u hu
  · decide

/-- Settles O29: the checks and the wait for a length, the admission with its snapshot, and the merge. -/
theorem attendWorksOnItsSnapshot : Obligations.AttendWorksOnItsSnapshot := by
  refine ⟨fun ring rseq c q s hq => ⟨fun hc hop => ?_, fun due hget hphase hs => ?_⟩, fun ring rseq c q r s hc hop hq hst hneed hr hlate hg => ?_,
    fun ring rseq c r k srcs b s hc hwork hstart hans hk hbad hsrcs hwhole h0 h1 hb hne hg hok => ?_⟩
  · subst hq
    have hexec : exec (.attend ring rseq) s = .next (admitAttend c s) :=
      congrArg Host.Outcome.next (admitting_of_mayAdmit hc (by simpa using hop) admitAttend)
    have hstop : attendStatus s c ≠ .ok →
        admitAttend c s = if needsLen s c then finish c (attendStatus s c) 0 s else endAtAdmission c (attendStatus s c) 0 s := by
      intro hst
      unfold admitAttend
      dsimp only
      split
      next hok => exact absurd hok hst
      next => rfl
    refine ⟨fun hst hn => ?_, fun hst hn => ?_, fun hst hneed hfrozen => ?_, fun hst hneed hopen hphase => ?_⟩ <;> rw [hexec]
    · rw [hstop hst, if_neg (by rw [hn]; decide)]
    · rw [hstop hst, if_pos hn]
    · unfold admitAttend
      simp only [hst, hneed, hfrozen, if_true]
    · unfold admitAttend
      simp only [hst, hneed, hopen, hphase, if_true, if_false]
  · change execAttendNeedLenTimeout ring rseq s = _
    unfold execAttendNeedLenTimeout
    simp only [hget, hphase, hs, if_true]
  · subst hq
    have hexec : exec (.attend ring rseq) s = .next (attendAsked c r s) :=
      congrArg Host.Outcome.next ((admitting_of_mayAdmit hc (by simpa using hop) admitAttend).trans
        ((admitAttend_of_late hst hneed hr hlate).trans (runAttend_asks hc.ring_ne hlate hg)))
    obtain ⟨xs, hseq, hpages⟩ := getSeq_attendAsked c r s
    have hframe := attendAsked_only c r s
    refine ⟨_, admitted c (.attend r) s, hexec, hframe, hframe.act_eq (by decide), ?_, rfl, rfl, ?_, ?_, ?_, ?_, fun n hn => getSeq_attendAsked_of_ne _ _ _ hn⟩
    · rw [← hc.ringIs, ← hc.rseqIs]
      exact getCmd_admitCmd hc.ring_ne ..
    · rw [← hc.ringIs, ← hc.rseqIs]
      have hout : (modSeq (seqOf c) (triggerAutos (slotOf s r.snap.mslot) (admitted c (.attend r) s) r.len)
        (addReader (seqOf c) (cmdKey c.ring c.rseq) r.len (admitCmd c (.attend r) s))).out = s.out :=
        ((modSeq_only ..).out_eq (by decide)).trans (((addReader_only ..).out_eq (by decide)).trans ((admitCmd_only ..).out_eq (by decide)))
      rw [show getSeq s (seqOf c) = r.snap by rw [hr]]
      exact congrArg (· ++ _) hout
    · rw [hseq, ← hc.key, show (getSeq s (seqOf c)).len = r.len by rw [hr]]
      exact List.getLast?_concat ..
    · rw [hseq]
    · rw [hseq]
      exact hpages
  · obtain ⟨n, n', hmerge⟩ := attendMerge_whole hk hsrcs hwhole h0 h1 hb
    obtain ⟨honly, hend, hout⟩ := attendBytes_delivered (result := r.len) (n := n) (n' := n') hc.ring_ne hne hg hok
    rw [hk] at hbad
    rw [hc.ringIs] at hout
    exact ⟨_, (exec_attendRootMerge hc hwork hstart hans hbad).trans (congrArg Host.Outcome.next hmerge), honly, hend, hout⟩

/-! ## SELECT_PAGES (R99 to R102) -/

theorem admitSelect_of_bad {c : Cmd} {s : State} (h : selectStatus s c ≠ .ok) : admitSelect c s = endAtAdmission c (selectStatus s c) 0 s := by
  unfold admitSelect
  dsimp only
  split
  next hok => exact absurd hok h
  next => rfl

/-- The place of a SELECT_PAGES in the order of each stream that it covers. -/
def queueSelect (c : Cmd) (len : Nat) (sts : List Nat) (q : Seq) : Seq :=
  { q with streams := q.streams.zipIdx.map fun (x, st) =>
      if sts.contains st then { x with selQ := x.selQ ++ [{ ring := c.ring, rseq := c.rseq, auto := false, len := len }] } else x }

theorem queueSelect_retr (c : Cmd) (len : Nat) (sts : List Nat) (q : Seq) :
    ((queueSelect c len sts q).streams.map fun x => x.retr) = (q.streams.map fun x => x.retr) := by
  refine map_zipIdx_congr _ _ _ _ (fun x => ?_) 0
  dsimp only
  split <;> rfl

/-- A SELECT_PAGES that runs, as a reader with its place in the orders. -/
def selectQueued (c : Cmd) (s : State) : State :=
  let q := getSeq s (seqOf c)
  let sts := coveredStreams (slotOf s q.mslot) c
  modSeq (seqOf c) (queueSelect c q.len sts) (addReader (seqOf c) (cmdKey c.ring c.rseq) q.len (admitCmd c (.select { len := q.len, left := sts }) s))

theorem selectQueued_only (c : Cmd) (s : State) : OnlyIn [.regs, .cmds, .seqs] s (selectQueued c s) :=
  (modSeq_only ..).via (by decide) ((addReader_only ..).via (by decide) ((admitCmd_only ..).sub (by decide)))

theorem getSeq_selectQueued (c : Cmd) (s : State) :
    (getSeq (selectQueued c s) (seqOf c)).len = (getSeq s (seqOf c)).len ∧
      ((getSeq (selectQueued c s) (seqOf c)).streams.map fun x => x.retr) = ((getSeq s (seqOf c)).streams.map fun x => x.retr) := by
  rw [selectQueued, getSeq_modSeq, queueSelect_retr, addReader, getSeq_modSeq, getSeq_admitCmd]
  exact ⟨rfl, rfl⟩

theorem getSeq_selectQueued_of_ne {n : Nat} (c : Cmd) (s : State) (h : n ≠ seqOf c) : getSeq (selectQueued c s) n = getSeq s n := by
  rw [selectQueued, getSeq_modSeq_of_ne _ _ h, addReader, getSeq_modSeq_of_ne _ _ h, getSeq_admitCmd]

theorem selectStatus_addr {c : Cmd} {s : State} (h : selectStatus s c = .ok) :
    checkAddr s c (fld c.desc 24 8)
      (queryBytes (slotOf s (getSeq s (seqOf c)).mslot) (attendLayers c) (attendRows c) (selectFlag c 1)) = .ok := by
  unfold selectStatus at h
  exact firstBad_ok h _ (.tail _ (.tail _ (.tail _ (.tail _ (.tail _ (.head _))))))

theorem admitSelect_asks {c : Cmd} {s : State} (hr : c.ring ≠ deckRing) (hst : selectStatus s c = .ok) (hmax : (getSeq s (seqOf c)).retrMax ≠ 0)
    (hg : isGfa (fld c.desc 24 8) = false) :
    admitSelect c s = emit (.dmaRead (ringFn s c.ring) (fld c.desc 24 8)
      (queryBytes (slotOf s (getSeq s (seqOf c)).mslot) (attendLayers c) (attendRows c) (selectFlag c 1)) (.input c.ring c.rseq)) (selectQueued c s) := by
  have hframe := selectQueued_only c s
  have hread := startRead_congr (c := c) (t := selectQueued c s)
    (d := admitted c (.select { len := (getSeq s (seqOf c)).len, left := coveredStreams (slotOf s (getSeq s (seqOf c)).mslot) c }) s)
    hr (hframe.sec_eq (by decide)) (hframe.act_eq (by decide)) rfl rfl rfl (selectStatus_addr hst) hg
  have hget : getCmd (addReader (seqOf c) (cmdKey c.ring c.rseq) (getSeq s (seqOf c)).len
      (admitCmd c (.select { len := (getSeq s (seqOf c)).len, left := coveredStreams (slotOf s (getSeq s (seqOf c)).mslot) c }) s)) c.ring c.rseq = _ :=
    (getCmd_of_cmds ((addReader_only ..).cmds_eq (by decide)) ..).trans (getCmd_admitCmd hr ..)
  unfold admitSelect
  dsimp only
  rw [hst]
  dsimp only
  rw [if_neg hmax, hget, Option.getD_some]
  change (match startRead _ _ _ (selectQueued c s) with | (.wait, s2) => s2 | (g, s2) => selectInput _ g s2) = _
  rw [hread]

/-! ## The flip and the automatic selection (R101, R102) -/

/-- A stream of a sequence as the flip of selection `e` leaves it. -/
def flipped (s : State) (q : Seq) (e : SelPending) (rest : List SelPending) (x : Stream) : Stream :=
  { x with retr := flipSet e.len e.set x.retr, selQ := rest, flipReaders := setReaders s q }

theorem flipSet_cur (len : Nat) (set : List Nat) (r : RetrSet) : (flipSet len set r).cur = set := by
  unfold flipSet
  split <;> rfl

theorem getD_of_getElem? {α : Type} {l : List α} {i : Nat} {x : α} (h : l[i]? = some x) (d : α) : l.getD i d = x := by
  rw [List.getD_eq_getElem?_getD, h, Option.getD_some]

theorem getElem?_set_self {α : Type} {l : List α} {i : Nat} {x : α} (h : l[i]? = some x) (y : α) : (l.set i y)[i]? = some y := by
  obtain ⟨hi, -⟩ := List.getElem?_eq_some_iff.1 h
  rw [List.getElem?_set_self hi]

theorem exec_selectFlip {n st : Nat} {x : Stream} {e : SelPending} {rest : List SelPending} {s : State} (hs : serving s = true)
    (hx : (getSeq s n).streams[st]? = some x) (hq : x.selQ = e :: rest) (he : e.ready = true) (hfree : ∀ k ∈ x.flipReaders, isRunning s k = false) :
    exec (.selectFlip n st) s = .next (selectStreamDone e st (setSeq n
      { getSeq s n with streams := (getSeq s n).streams.set st (flipped s (getSeq s n) e rest x), selNew := some (BitVec.ofNat 32 e.len) } s)) := by
  have hnone : x.flipReaders.any (isRunning s) = false := by
    rw [List.any_eq_false]
    exact fun k hk => by simp [hfree k hk]
  change execSelectFlip n st s = _
  unfold execSelectFlip
  simp only [getD_of_getElem? hx, hq, he, hnone, hs, Bool.not_true, Bool.false_eq_true, or_self, if_false]
  rfl

/-- A stream as its automatic selection leaves it. -/
def autoSettled (m : Slot) (q : Seq) (a : AutoSel) (x : Stream) : Stream :=
  { settleSelection a.ring a.rseq true (selectSet m q a.len a.queries x) x with auto := none }

theorem autoSettled_ready {m : Slot} {q : Seq} {a : AutoSel} {x : Stream} {e : SelPending} (he : e ∈ (autoSettled m q a x).selQ) (hauto : e.auto = true)
    (hring : e.ring = a.ring) (hseq : e.rseq = a.rseq) : e.ready = true ∧ e.set = selectSet m q a.len a.queries x := by
  simp only [autoSettled, settleSelection, List.mem_map] at he
  obtain ⟨e0, -, rfl⟩ := he
  by_cases hm : e0.ring = a.ring ∧ e0.rseq = a.rseq ∧ e0.auto = true
  · rw [if_pos hm]
    exact ⟨rfl, rfl⟩
  · rw [if_neg hm] at hauto hring hseq
    exact absurd ⟨hring, hseq, hauto⟩ hm

/-- What an automatic selection leaves beside the counts of its scan. -/
def autoStored (n st : Nat) (a : AutoSel) (x : Stream) (s : State) : State :=
  setSeq n { getSeq s n with streams := (getSeq s n).streams.set st (autoSettled (slotOf s (getSeq s n).mslot) (getSeq s n) a x) } s

theorem exec_autoSelection {n st : Nat} {x : Stream} {a : AutoSel} {s : State} (hs : serving s = true) (hx : (getSeq s n).streams[st]? = some x)
    (ha : x.auto = some a) (hready : a.ready = true) (hwalk : offline s 5 = false) :
    ∃ t, exec (.autoSelection n st) s = .next t ∧ OnlyIn [.regs, .tap] (autoStored n st a x s) t := by
  let work := scanWork s (slotOf s (getSeq s n).mslot) (getSeq s n) a.len a.queries.length st
  have hexec : exec (.autoSelection n st) s = .next (tapAdd (getSeq s n).part resHops work.2 (tapAdd (getSeq s n).part resCruOps work.1
      (cntAdd walkHops work.2 (autoStored n st a x s)))) := by
    change execAutoSelection n st s = _
    unfold execAutoSelection
    simp only [getD_of_getElem? hx, ha, hready, hs, hwalk, Bool.not_true, Bool.false_eq_true, and_false, or_self, if_false]
    rfl
  exact ⟨_, hexec, (tapAdd_only ..).via (by decide) ((tapAdd_only ..).via (by decide) ((cntAdd_only ..).sub (by decide)))⟩

/-- Settles O30: the admission, the flip and the automatic selection. -/
theorem selectPagesSwapsRetrievedSets : Obligations.SelectPagesSwapsRetrievedSets := by
  refine ⟨fun ring rseq c q m s hc hop hq hm => ⟨fun hst => ?_, fun hst hmax => ?_, fun hst hmax hg => ?_⟩,
    fun n st x e rest s hs hx hselQ he hfree => ?_, fun n st x a s hs hx ha hready hwalk => ?_⟩
  · exact congrArg Host.Outcome.next ((admitting_of_mayAdmit hc (by simpa using hop) admitSelect).trans (admitSelect_of_bad hst))
  · refine congrArg Host.Outcome.next ((admitting_of_mayAdmit hc (by simpa using hop) admitSelect).trans ?_)
    unfold admitSelect
    dsimp only
    rw [hst, ← hq]
    exact if_pos hmax
  · subst hq hm
    have hexec : exec (.selectPages ring rseq) s = _ :=
      congrArg Host.Outcome.next ((admitting_of_mayAdmit hc (by simpa using hop) admitSelect).trans (admitSelect_asks hc.ring_ne hst hmax hg))
    have hframe := selectQueued_only c s
    have honly := (emit_only (.dmaRead (ringFn s c.ring) (fld c.desc 24 8)
      (queryBytes (slotOf s (getSeq s (seqOf c)).mslot) (attendLayers c) (attendRows c) (selectFlag c 1)) (.input c.ring c.rseq)) (selectQueued c s)).via
      (l := [.regs, .cmds, .seqs, .out]) (by decide) (hframe.sub (by decide))
    obtain ⟨hlen, hretr⟩ := getSeq_selectQueued c s
    refine ⟨_, admitted c (.select { len := (getSeq s (seqOf c)).len, left := coveredStreams (slotOf s (getSeq s (seqOf c)).mslot) c }) s, hexec, honly,
      (honly.act_eq (by decide)), ?_, rfl, rfl, ?_, hlen, hretr, fun n hn => getSeq_selectQueued_of_ne c s hn⟩
    · rw [← hc.ringIs, ← hc.rseqIs]
      exact getCmd_admitCmd hc.ring_ne _ s
    · rw [← hc.ringIs, ← hc.rseqIs]
      exact congrArg (· ++ _) (hframe.out_eq (by decide))
  · have hframe := selectStreamDone_only e st (setSeq n
      { getSeq s n with streams := (getSeq s n).streams.set st (flipped s (getSeq s n) e rest x), selNew := some (BitVec.ofNat 32 e.len) } s)
    refine ⟨_, flipped s (getSeq s n) e rest x, exec_selectFlip hs hx hselQ he hfree, hframe.via (by decide) ((setSeq_only ..).sub (by decide)), ?_, rfl,
      flipSet_cur .., rfl, rfl, fun i hi => ?_, fun k hk => ?_⟩ <;> rw [getSeq_of_seqs (hframe.seqs_eq (by decide))]
    · rw [getSeq_setSeq]
      exact getElem?_set_self hx _
    · rw [getSeq_setSeq]
      exact List.getElem?_set_ne (Ne.symm hi)
    · exact getSeq_setSeq_of_ne _ _ hk
  · obtain ⟨t, hexec, hframe⟩ := exec_autoSelection hs hx ha hready hwalk
    have honly := hframe.via (l := [.seqs, .regs, .tap]) (by decide) ((setSeq_only ..).sub (by decide))
    refine ⟨t, autoSettled (slotOf s (getSeq s n).mslot) (getSeq s n) a x, hexec, honly, honly.act_eq (by decide), ?_, rfl, rfl, rfl,
      fun e he hauto hring hseq => autoSettled_ready he hauto hring hseq, fun k hk => ?_⟩ <;> rw [getSeq_of_seqs (hframe.seqs_eq (by decide)), autoStored]
    · rw [getSeq_setSeq]
      exact getElem?_set_self hx _
    · exact getSeq_setSeq_of_ne _ _ hk

end Sys2Proof.Machine

namespace Sys2Proof.Machine

open Sys2Proof

/-! ## Indexes -/

theorem getIndex_of_walk {s t : State} (h : t.walk = s.walk) (n : Nat) : getIndex t n = getIndex s n := by simp [getIndex, h]

theorem getIndex_setIndex (n : Nat) (x : Index) (s : State) : getIndex (setIndex n x s) n = x := by
  rw [setIndex, getIndex_of_walk ((showIndex_only ..).walk_eq (by decide))]
  simp [getIndex]

theorem getIndex_setIndex_of_ne {n k : Nat} (x : Index) (s : State) (h : k ≠ n) : getIndex (setIndex n x s) k = getIndex s k := by
  rw [setIndex, getIndex_of_walk ((showIndex_only ..).walk_eq (by decide))]
  simp [getIndex, h]

theorem getItem_modItem (i : Nat) (f : Item → Item) (x : Index) : getItem (modItem i f x) i = f (getItem x i) := by simp [getItem, modItem]

/-- Both epochs of an index stand as they did. -/
structure EpochsStay (x y : Index) : Prop where
  published : y.published = x.published
  floor : y.floor = x.floor

theorem EpochsStay.refl (x : Index) : EpochsStay x x := ⟨rfl, rfl⟩

theorem EpochsStay.trans {x y z : Index} (h : EpochsStay x y) (h' : EpochsStay y z) : EpochsStay x z :=
  ⟨h'.published.trans h.published, h'.floor.trans h.floor⟩

theorem epochsStay_modItem (i : Nat) (f : Item → Item) (x : Index) : EpochsStay x (modItem i f x) := ⟨rfl, rfl⟩

theorem EpochsStay.foldl {α : Type} {f : Index → α → Index} (h : ∀ x a, EpochsStay x (f x a)) (l : List α) (x : Index) : EpochsStay x (l.foldl f x) := by
  induction l generalizing x with
  | nil => exact .refl x
  | cons a l ih => exact (h x a).trans (ih _)

theorem epochsStay_writeList (c : IdxCfg) (i : Nat) (l : List Edge) (x : Index) : EpochsStay x (writeList c i l x) := by
  unfold writeList
  split <;> exact ⟨rfl, rfl⟩

theorem epochsStay_sweepItem (c : IdxCfg) (dead : List (Nat × Nat)) (x : Index) (i : Nat) : EpochsStay x (sweepItem c dead x i) := by
  unfold sweepItem
  dsimp only
  split
  · exact .refl x
  · split
    · exact epochsStay_writeList ..
    · exact .refl x

theorem epochsStay_sweepIndex (c : IdxCfg) (x : Index) : EpochsStay x (sweepIndex c x) := by
  have hitems := EpochsStay.foldl (epochsStay_sweepItem c ((x.dlog.filter fun d => d.st == .dead).map fun d => (d.item, d.gen))) (x.items.map (·.1)) x
  unfold sweepIndex
  dsimp only
  refine EpochsStay.trans (hitems.trans ?_) (y := (_ : List (Nat × Nat)).foldl _ _) ⟨rfl, rfl⟩
  refine EpochsStay.trans ?_ (EpochsStay.foldl (fun x e => epochsStay_modItem ..) _ _)
  repeat' split
  all_goals exact ⟨rfl, rfl⟩

theorem publishIndex_spec (floor : BitVec 16) (x : Index) :
    (publishIndex floor x).published = x.published + 1 ∧ (publishIndex floor x).floor = floor := by
  have hlog := EpochsStay.foldl (fun x (w : Nat × List Edge) => epochsStay_modItem w.1 (fun t => { t with edges := w.2, badList := false }) x) x.wlog x
  exact ⟨congrArg (· + 1) hlog.published, rfl⟩

theorem epochsStay_writeFilters (r : PublishRun) (x : Index) : EpochsStay x (writeFilters r x) := by
  unfold writeFilters
  split <;> exact ⟨rfl, rfl⟩

/-! ## SEARCH (R173 to R178) -/

theorem admitSearch_of_bad {c : Cmd} {s : State} (h : searchStatus s c ≠ .ok) : admitSearch c s = endAtAdmission c (searchStatus s c) 0 s := by
  unfold admitSearch
  dsimp only
  split
  next hok => exact absurd hok h
  next => rfl

theorem searchStatus_addr {c : Cmd} {s : State} (h : searchStatus s c = .ok) :
    checkAddr s c (fld c.desc 32 8) (searchCount c * queryStep (idxCfg s (idxOf c))) = .ok := by
  unfold searchStatus at h
  exact firstBad_ok h _ (.tail _ (.tail _ (.tail _ (.tail _ (.head _)))))

/-- A SEARCH as it is resolved at its admission. -/
def searchSetOut (c : Cmd) (s : State) : SearchRun :=
  { idx := idxOf c, epoch := searchEpoch s c, fsel := (getIndex s (idxOf c)).fsel, filter := if idxFlag c 9 then some (fld c.desc 14 2) else none
    invert := idxFlag c 10, allowMissing := idxFlag c 12, dmgSkip := idxFlag c 13, entry := (getIndex s (idxOf c)).entry, k := searchK c
    beam := max (searchK c) (searchBeam s c), width := searchWidth s c, maxHops := searchHops s c }

theorem searchKinds_online {s : State} (flag : Bool) (h5 : offline s 5 = false) (h1 : offline s 1 = false) :
    missingKind s ([5] ++ if flag then [1] else []) = none := by
  cases flag <;> simp [missingKind, h5, h1]

theorem searchInput_wait (c : Cmd) (s : State) : searchInput c .wait s = s := by
  unfold searchInput
  split
  · exact ite_self _
  · rfl

theorem admitSearch_asks {c : Cmd} {s : State} (hr : c.ring ≠ deckRing) (hst : searchStatus s c = .ok) (h5 : offline s 5 = false)
    (h1 : offline s 1 = false) (happ : (getIndex s (idxOf c)).applying = false) (hg : isGfa (fld c.desc 32 8) = false) :
    admitSearch c s = emit (.dmaRead (ringFn s c.ring) (fld c.desc 32 8) (searchCount c * queryStep (idxCfg s (idxOf c))) (.input c.ring c.rseq))
      (admitCmd c (.search (searchSetOut c s)) s) := by
  unfold admitSearch
  dsimp only
  rw [hst]
  dsimp only
  rw [searchKinds_online _ h5 h1]
  dsimp only
  rw [if_neg (by rw [happ]; decide)]
  change (match startRead ((getCmd (admitCmd c (.search (searchSetOut c s)) s) c.ring c.rseq).getD c) (fld c.desc 32 8)
      (searchCount c * queryStep (idxCfg s (idxOf c))) (admitCmd c (.search (searchSetOut c s)) s) with
    | (g, s2) => searchInput ((getCmd s2 c.ring c.rseq).getD ((getCmd (admitCmd c (.search (searchSetOut c s)) s) c.ring c.rseq).getD c)) g s2) = _
  rw [getCmd_admitCmd hr, Option.getD_some, startRead_admitCmd hr _ (searchStatus_addr hst) hg]
  exact searchInput_wait ..

/-- One query of a SEARCH after its batch. -/
def batched (r : SearchRun) (q : Nat) (h : Hand) (s : State) : SearchRun :=
  { r with hands := r.hands.set q (searchBatch (idxCfg s r.idx) (limitsOf (idxCfg s r.idx) r) (getIndex s r.idx) h).1 }

theorem exec_walkerBatchReadDone {s : State} {ring : Nat} {rseq : BitVec 32} {c : Cmd} {r : SearchRun} {q : Nat} {h : Hand} (hc : Runs s ring rseq c)
    (hwork : c.work = .search r) (hq : r.hands[q]? = some h) (hd : h.done = false) (h5 : offline s 5 = false)
    (hmore : handsDone (batched r q h s) = false) :
    ∃ n m, exec (.walkerBatchReadDone ring rseq q) s = .next (countHops c n m (setCmd { c with work := .search (batched r q h s) } s)) := by
  let done := searchBatch (idxCfg s r.idx) (limitsOf (idxCfg s r.idx) r) (getIndex s r.idx) h
  refine ⟨done.2, (done.1.hops - h.counted) - (h.hops - h.counted), ?_⟩
  change execWalkerBatchReadDone ring rseq q s = _
  unfold execWalkerBatchReadDone
  simp only [runningCmd_of_runs hc, hwork, hq, hd, hc.whole, hc.serves, h5, Bool.not_true, Bool.false_eq_true, or_self, if_false]
  exact congrArg Host.Outcome.next (if_neg fun hdone => absurd hdone.1 (by rw [batched] at hmore; rw [hmore]; decide))

theorem countHops_only_of_host {c : Cmd} (hr : c.ring ≠ deckRing) (n : HopCounts) (m : Nat) (s : State) : OnlyIn [.regs, .tap] s (countHops c n m s) :=
  (meterData_only_of_host hr ..).via (by decide) ((cntAdd_only ..).via (by decide) ((cntAdd_only ..).via (by decide) ((cntAdd_only ..).sub (by decide))))

/-- Every shard has answered with its list, none of them stale. -/
def allListed (c : Cmd) : Prop := ∀ u ∈ c.subs, ∃ a b sk st hs, u.answer = some (.lists a b false sk st hs)

/-- Damage at home ends a SEARCH whose shards have all answered with lists. -/
theorem endSearch_of_damaged {c : Cmd} {r : SearchRun} {s : State} (hl : allListed c) (hd : ∃ h ∈ r.hands, h.damaged = true) :
    endSearch c r s = finish c .dataDamaged 0 s := by
  have hhome : (r.hands.any fun h => h.damaged) = true := List.any_eq_true.2 hd
  unfold endSearch
  dsimp only
  rw [if_neg, if_pos (.inl hhome)]
  rw [Bool.not_eq_true, List.any_eq_false]
  intro u hu
  obtain ⟨a, b, sk, st, hs, ha⟩ := hl u hu
  rw [ha]
  exact Bool.false_ne_true

/-- Settles O31: the admission in its four outcomes, the batch, and the merge. -/
theorem searchWalksAndMerges : Obligations.SearchWalksAndMerges := by
  refine ⟨fun ring rseq c s hc hop => ?_, fun ring rseq c r s hc hwork => ⟨fun q h hq hd h5 hmore => ?_, fun hdone hsubs hlists => ⟨?_, fun hl hd => ?_⟩⟩⟩
  · have hexec : exec (.search ring rseq) s = .next (admitSearch c s) :=
      congrArg Host.Outcome.next (admitting_of_mayAdmit hc (by simpa using hop) admitSearch)
    refine ⟨fun hst => hexec.trans (congrArg _ (admitSearch_of_bad hst)), fun hst h5 => hexec.trans (congrArg _ ?_),
      fun hst h5 h1 happ => hexec.trans (congrArg _ ?_), fun hst h5 h1 happ hg => ?_⟩
    · unfold admitSearch
      simp only [hst, missingKind, List.cons_append, List.find?_cons, h5]
    · unfold admitSearch
      simp only [hst, searchKinds_online _ h5 h1, happ, if_true]
    · rw [hexec, admitSearch_asks hc.ring_ne hst h5 h1 happ hg, hc.ringIs, hc.rseqIs]
      have hframe := admitCmd_only c (.search (searchSetOut c s)) s
      refine ⟨_, admitted c (.search (searchSetOut c s)) s, searchSetOut c s, rfl, (emit_only ..).via (by decide) (hframe.sub (by decide)), hframe.act_eq (by decide),
        ?_, rfl, rfl, rfl, rfl, rfl, congrArg (· ++ _) (hframe.out_eq (by decide))⟩
      rw [← hc.ringIs, ← hc.rseqIs]
      exact getCmd_admitCmd hc.ring_ne _ s
  · obtain ⟨n, m, hexec⟩ := exec_walkerBatchReadDone hc hwork hq hd h5 hmore
    have hframe := countHops_only_of_host (c := c) hc.ring_ne n m (setCmd { c with work := .search (batched r q h s) } s)
    refine ⟨_, { c with work := .search (batched r q h s) }, hexec, hframe.via (by decide) ((setCmd_only ..).sub (by decide)), hframe.act_eq (by decide), ?_, rfl⟩
    rw [getCmd_of_cmds (hframe.cmds_eq (by decide))]
    exact getCmd_setCmd_of_key _ hc.ringIs hc.rseqIs
  · change execSearchMerge ring rseq s = _
    unfold execSearchMerge
    simp only [runningCmd_of_runs hc, hwork, hdone, List.isEmpty_eq_false_iff.2 hsubs, hlists, hc.whole, hc.serves, Bool.not_false, and_self, if_true]
  · exact endSearch_of_damaged hl hd

/-! ## INSERT and DELETE (R179 to R183) -/

/-- A command that its table decides ends as it is admitted. -/
theorem finish_admitted_only (c : Cmd) (w : Work) (st : Status) (result : Nat) (s : State) :
    OnlyIn endAreas s (finish (admitted c w s) st result (admitCmd c w s)) :=
  (finish_only ..).via (by decide) ((admitCmd_only ..).sub (by decide))

theorem endsWith_finish_admitted {c : Cmd} (hr : c.ring ≠ deckRing) (w : Work) (st : Status) (result : Nat) (s : State) :
    EndsWith (finish (admitted c w s) st result (admitCmd c w s)) c st result := endsWith_finish (c := admitted c w s) hr st result _

/-- An INSERT as it sets out. -/
def insertWork (c : Cmd) : Work := .insert { idx := idxOf c, label := BitVec.ofNat 16 (fld c.desc 12 2) }

theorem admitInsert_of_decided {c : Cmd} {s : State} {st : Status} {res : Nat} (hr : c.ring ≠ deckRing) (hst : insertStatus s c = .ok)
    (h5 : offline s 5 = false) (ho : insertOutcome s c = some (st, res)) :
    admitInsert c s = finish (admitted c (insertWork c) s) st res (admitCmd c (insertWork c) s) := by
  unfold admitInsert
  rw [hst, show missingKind s [5] = none by simp [missingKind, h5]]
  dsimp only
  rw [ho, show admitCmd c (.insert { idx := idxOf c, label := BitVec.ofNat 16 (fld c.desc 12 2) }) s = admitCmd c (insertWork c) s from rfl,
    getCmd_admitCmd hr, Option.getD_some]

theorem insertInput_wait (c : Cmd) (s : State) : insertInput c .wait s = s := by
  unfold insertInput
  cases c.work <;> rfl

theorem admitInsert_asks {c : Cmd} {s : State} (hr : c.ring ≠ deckRing) (hst : insertStatus s c = .ok) (h5 : offline s 5 = false)
    (ho : insertOutcome s c = none) (hg : isGfa (fld c.desc 24 8) = false) :
    admitInsert c s = emit (.dmaRead (ringFn s c.ring) (fld c.desc 24 8) (vecBytes (idxCfg s (idxOf c))) (.input c.ring c.rseq))
      (admitCmd c (insertWork c) s) := by
  have hok : checkAddr s c (fld c.desc 24 8) (vecBytes (idxCfg s (idxOf c))) = .ok := by
    unfold insertStatus at hst
    exact firstBad_ok hst _ (.tail _ (.tail _ (.head _)))
  unfold admitInsert
  rw [hst, show missingKind s [5] = none by simp [missingKind, h5]]
  dsimp only
  rw [ho, show admitCmd c (.insert { idx := idxOf c, label := BitVec.ofNat 16 (fld c.desc 12 2) }) s = admitCmd c (insertWork c) s from rfl,
    getCmd_admitCmd hr, Option.getD_some, startRead_admitCmd hr _ hok hg]
  exact insertInput_wait ..

/-- An index with one live item marked as deleted from the next epoch on. -/
def deleted (item gen : Nat) (x : Index) : Index :=
  { modItem item (fun y => { y with st := { y.st with del := x.published + 1, delSet := true } }) x with
    dlog := x.dlog ++ [{ item := item, gen := gen, del := x.published + 1 }] }

theorem getItem_deleted (item gen : Nat) (x : Index) : (getItem (deleted item gen x) item).st =
    { (getItem x item).st with del := x.published + 1, delSet := true } :=
  congrArg Item.st (getItem_modItem item (fun y => { y with st := { y.st with del := x.published + 1, delSet := true } }) x)

/-- DELETE of an item that lives under its generation and is not deleted yet. -/
theorem admitDelete_marks {c : Cmd} {s : State} {item gen : Nat} (hr : c.ring ≠ deckRing) (hidx : idxCheck s c = .ok) (hw : fld c.desc 8 4 < 64)
    (hz : fld c.desc 12 4 = 0) (hzero : allZero (slice c.desc 24 40) = true) (hlost : idxLost s (idxOf c) = false)
    (hitem : fld c.desc 16 8 = item + 2 ^ 35 * gen) (hi : item < 2 ^ 35) (hgen : gen < 32) (hhwm : item < (getIndex s (idxOf c)).hwm)
    (hlive : (getItem (getIndex s (idxOf c)) item).st.live = true) (hg : (getItem (getIndex s (idxOf c)) item).st.gen = gen)
    (hset : (getItem (getIndex s (idxOf c)) item).st.delSet = false) (hroom : (getIndex s (idxOf c)).dlog.length < dlogSize) :
    admitDelete c s = finish (admitted c .none s) .ok ((getIndex s (idxOf c)).published + 1).toNat
      (setIndex (idxOf c) (deleted item gen (getIndex s (idxOf c))) (admitCmd c .none s)) := by
  have hmod : (item + 2 ^ 35 * gen) % 2 ^ 35 = item := by omega
  have hbits : bits (item + 2 ^ 35 * gen) 35 5 = gen := by
    unfold bits
    omega
  have hstatus : firstBad [idxCheck s c, failIf (decide (64 ≤ fld c.desc 8 4) || fld c.desc 12 4 != 0 || decide (2 ^ 40 ≤ item + 2 ^ 35 * gen)
      || !allZero (slice c.desc 24 40)) .illegalValue, failIf (idxLost s (idxOf c)) .dataLost] = .ok := by
    simp [firstBad, failIf, hidx, hz, hzero, hlost, show ¬ 1099511627776 ≤ item + 34359738368 * gen by omega, show ¬ 64 ≤ fld c.desc 8 4 by omega]
  unfold admitDelete
  dsimp only
  rw [hitem, hmod, hbits, hstatus, if_neg (by decide), getCmd_admitCmd hr, Option.getD_some, getIndex_of_walk ((admitCmd_only c .none s).walk_eq (by decide)),
    if_neg (by rw [hlive]; simp [hg]; omega), if_neg (by rw [hset]; decide), if_neg (by omega)]
  rfl

/-- Settles O32: INSERT in its three outcomes, and DELETE of a live item. -/
theorem insertAndDeleteDecide : Obligations.InsertAndDeleteDecide := by
  intro ring rseq c x s hc hx h5
  subst hx
  refine ⟨fun hop hst => ?_, fun st res hop hst ho => ?_, fun hop hst ho hg => ?_,
    fun item gen hop hidx hw hz hzero hlost hitem hi hgen hhwm hlive hg hset hroom => ?_⟩
  · refine congrArg Host.Outcome.next ((admitting_of_mayAdmit hc (by simpa using hop) admitInsert).trans ?_)
    unfold admitInsert
    split
    next hok => exact absurd hok hst
    next => rfl
  · exact ⟨_, congrArg Host.Outcome.next ((admitting_of_mayAdmit hc (by simpa using hop) admitInsert).trans
      (admitInsert_of_decided hc.ring_ne hst h5 ho)), finish_admitted_only .., endsWith_finish_admitted hc.ring_ne ..⟩
  · have hexec : exec (.insert ring rseq) s = _ :=
      congrArg Host.Outcome.next ((admitting_of_mayAdmit hc (by simpa using hop) admitInsert).trans (admitInsert_asks hc.ring_ne hst h5 ho hg))
    rw [hc.ringIs, hc.rseqIs] at hexec
    have hframe := admitCmd_only c (insertWork c) s
    refine ⟨_, admitted c (insertWork c) s, hexec, (emit_only ..).via (by decide) (hframe.sub (by decide)), ?_, rfl, congrArg (· ++ _) (hframe.out_eq (by decide))⟩
    rw [← hc.ringIs, ← hc.rseqIs]
    exact getCmd_admitCmd hc.ring_ne _ s
  · have hexec : exec (.delete ring rseq) s = _ := congrArg Host.Outcome.next ((admitting_of_mayAdmit hc (by simpa using hop) admitDelete).trans
      (admitDelete_marks hc.ring_ne hidx hw hz hzero hlost hitem hi hgen hhwm hlive hg hset hroom))
    have hself : ∀ k, getIndex (finish (admitted c .none s) .ok ((getIndex s (idxOf c)).published + 1).toNat
        (setIndex (idxOf c) (deleted item gen (getIndex s (idxOf c))) (admitCmd c .none s))) k = _ := fun k => getIndex_of_walk ((finish_only ..).walk_eq (by decide)) k
    refine ⟨_, hexec, (finish_only ..).via (by decide) ((setIndex_only ..).via (by decide) ((admitCmd_only ..).sub (by decide))),
      endsWith_finish (c := admitted c .none s) hc.ring_ne .., ?_, ?_, ?_, ?_, fun k hk => ?_⟩ <;> rw [hself]
    · rw [getIndex_setIndex, getItem_deleted]
    · rw [getIndex_setIndex, getItem_deleted]
    · rw [getIndex_setIndex]
      rfl
    · rw [getIndex_setIndex]
      rfl
    · rw [getIndex_setIndex_of_ne _ _ hk]
      exact getIndex_of_walk ((admitCmd_only ..).walk_eq (by decide)) k

/-! ## PUBLISH_EPOCH and the slag pass (R184 to R189) -/

/-- A PUBLISH_EPOCH without a bitmap, as it sets out. -/
def publishWork (c : Cmd) (s : State) : Work :=
  .publish { idx := idxOf c, due := now s + 10000000, floor := none, filters := none, haveIn := true, before := (runningSearches s (idxOf c)).map (·.1) }

theorem idxFlag_of_small {c : Cmd} {i : Nat} (hw : fld c.desc 8 4 < 64) (hi : 6 ≤ i) : idxFlag c i = false := by
  have h : fldBits c.desc 8 4 i 1 = 0 := by
    unfold fldBits bits
    have hpow : (64 : Nat) ≤ 2 ^ i := by
      calc (64 : Nat) = 2 ^ 6 := rfl
        _ ≤ 2 ^ i := Nat.pow_le_pow_right (by decide) hi
    rw [Nat.div_eq_of_lt (by omega)]
    rfl
  simp [idxFlag, h]

theorem admitPublish_of_decided {c : Cmd} {s : State} {st : Status} (hr : c.ring ≠ deckRing) (hidx : idxCheck s c = .ok) (hw : fld c.desc 8 4 < 64)
    (hzero : allZero (slice c.desc 28 36) = true) (hlost : idxLost s (idxOf c) = false) (ho : pubOutcome s c = some st) :
    admitPublish c s = finish (admitted c (publishWork c s) s) st (if st = .ok then pubResult (getIndex s (idxOf c)) else 0)
      (admitCmd c (publishWork c s) s) := by
  have hstatus : firstBad [idxCheck s c, failIf (decide (2 ^ 10 ≤ fld c.desc 8 4) || bits (fld c.desc 8 4) 6 2 != 0 || !allZero (slice c.desc 28 36)
      || (false && (pubCount c == 0 || decide (4096 < pubCount c) || decide (4096 < fld c.desc 24 2 + pubCount c)))) .illegalValue, .ok,
      failIf (idxLost s (idxOf c)) .dataLost] = .ok := by
    have hbits : bits (fld c.desc 8 4) 6 2 = 0 := by
      unfold bits
      omega
    simp [firstBad, failIf, hidx, hzero, hlost, hbits, show ¬ 1024 ≤ fld c.desc 8 4 by omega]
  unfold admitPublish
  dsimp only
  rw [idxFlag_of_small hw (by decide), idxFlag_of_small hw (by decide)]
  simp only [Bool.false_eq_true, if_false, Bool.not_false]
  rw [hstatus, if_neg (by decide), ho]
  change finish ((getCmd (admitCmd c (publishWork c s) s) c.ring c.rseq).getD c) _ _ _ = _
  rw [getCmd_admitCmd hr, Option.getD_some]
  rfl

/-- The index once its publish has committed. -/
def publishedIndex (r : PublishRun) (x : Index) : Index := { publishIndex (r.floor.getD x.floor) (writeFilters r x) with applying := false }

theorem exec_publishCommit {s : State} {ring : Nat} {rseq : BitVec 32} {c : Cmd} {r : PublishRun} (hc : Runs s ring rseq c) (hwork : c.work = .publish r)
    (hready : publishReady s r = true) (ho : pubOutcome s c = none) :
    exec (.publishCommit ring rseq) s = .next (finish c .ok (pubResult (publishedIndex r (getIndex s r.idx)))
      (setIndex r.idx (publishedIndex r (getIndex s r.idx)) s)) := by
  change execPublishCommit ring rseq s = _
  unfold execPublishCommit
  simp only [runningCmd_of_runs hc, hwork, hready, hc.serves, ho, Bool.not_true, Bool.false_eq_true, or_self, if_false]
  rfl

/-- Settles O33: the publish that is decided, the commit, the timeout, and the sweep. -/
theorem publishMovesEpochAndSweep : Obligations.PublishMovesEpochAndSweep := by
  refine ⟨fun ring rseq c s => ⟨fun st hc hop hidx hw hzero hlost ho => ?_, fun r hc hwork hidx hready ho => ?_, fun r hc hwork hwaits => ?_⟩,
    fun n s hn hv hs hdead hroom => ?_⟩
  · exact ⟨_, congrArg Host.Outcome.next ((admitting_of_mayAdmit hc (by simpa using hop) admitPublish).trans
      (admitPublish_of_decided hc.ring_ne hidx hw hzero hlost ho)), finish_admitted_only .., endsWith_finish_admitted hc.ring_ne ..⟩
  · have hself : ∀ k, getIndex (finish c .ok (pubResult (publishedIndex r (getIndex s r.idx))) (setIndex r.idx (publishedIndex r (getIndex s r.idx)) s)) k = _ :=
      fun k => getIndex_of_walk ((finish_only ..).walk_eq (by decide)) k
    obtain ⟨hpub, hfloor⟩ := publishIndex_spec (r.floor.getD (getIndex s r.idx).floor) (writeFilters r (getIndex s r.idx))
    refine ⟨_, exec_publishCommit hc hwork hready ho, (finish_only ..).via (by decide) ((setIndex_only ..).sub (by decide)), ?_, ?_, ?_, ?_, fun k hk => ?_⟩ <;>
      rw [hself]
    · rw [getIndex_setIndex]
      exact hpub.trans (congrArg (· + 1) (epochsStay_writeFilters ..).published)
    · rw [getIndex_setIndex]
      exact hfloor
    · rw [getIndex_setIndex]
      rfl
    · rw [getIndex_setIndex]
      exact endsWith_finish hc.ring_ne ..
    · exact getIndex_setIndex_of_ne _ _ hk
  · change execPublishFloorTimeout ring rseq s = _
    unfold execPublishFloorTimeout
    simp only [runningCmd_of_runs hc, hwork, hwaits, hc.serves, and_self, if_true]
  · have hexec : exec (.slagSweep n) s = .next (cntAdd walkDmgSkip (sweepMet (getIndex s n)) (setIndex n (sweepIndex (idxCfg s n) (getIndex s n)) s)) := by
      change execSlagSweep n s = _
      unfold execSlagSweep
      simp only [hv, hs, hdead, show ¬ 64 ≤ n by omega, show ¬ wlogSize < (getIndex s n).wlog.length + sweepWrites (idxCfg s n) (getIndex s n) by omega,
        Bool.not_true, Bool.false_eq_true, or_self, if_false]
    have hself : ∀ k, getIndex (cntAdd walkDmgSkip (sweepMet (getIndex s n)) (setIndex n (sweepIndex (idxCfg s n) (getIndex s n)) s)) k = _ :=
      fun k => getIndex_of_walk (cntAdd_walk ..) k
    have hframe : OnlyIn [.walk, .regs] s (cntAdd walkDmgSkip (sweepMet (getIndex s n)) (setIndex n (sweepIndex (idxCfg s n) (getIndex s n)) s)) :=
      (cntAdd_only ..).via (by decide) ((setIndex_only ..).sub (by decide))
    have hepochs := epochsStay_sweepIndex (idxCfg s n) (getIndex s n)
    refine ⟨_, hexec, hframe, hframe.act_eq (by decide), ?_, ?_, ?_, fun k hk => ?_⟩ <;> rw [hself]
    · rw [getIndex_setIndex]
    · rw [getIndex_setIndex]
      exact hepochs.published
    · rw [getIndex_setIndex]
      exact hepochs.floor
    · exact getIndex_setIndex_of_ne _ _ hk

end Sys2Proof.Machine

namespace Sys2Proof.Machine

open Sys2Proof

/-! ## Checks in order -/

theorem firstBad_of_ok (l : List Status) : firstBad (.ok :: l) = firstBad l := rfl

theorem firstBad_of_bad {st : Status} (l : List Status) (h : st ≠ .ok) : firstBad (st :: l) = st := by
  simp [firstBad, h]

theorem failIf_true (st : Status) : failIf true st = st := rfl

theorem failIf_false (st : Status) : failIf false st = .ok := rfl

/-! ## RMA_POST (R273, R274) -/

/-- A command of RMA_POST in one of its modes is admitted by that mode's row. -/
theorem rmaRow_of_mayAdmit {s : State} {ring : Nat} {rseq : BitVec 32} {c : Cmd} {mode : Nat} (hc : MayAdmit s ring rseq c) (hop : c.op = 0x30)
    (hmode : rmaMode c = mode) (f : Cmd → State → State) : rmaRow ring rseq mode f s = .next (f c s) :=
  congrArg Host.Outcome.next (admitting_of_mayAdmit hc (by simp [hop, hmode]) f)

theorem recordedPsn_of_rma {s t : State} (h : t.rma = s.rma) (c : Cmd) (k : Nat) : recordedPsn t c k = recordedPsn s c k := by simp [recordedPsn, h]

theorem enqueueOp_of_host {c : Cmd} {k : Nat} {s : State} (hr : c.ring ≠ deckRing) (hnone : recordedPsn s c k = none) (o : Op) :
    enqueueOp c k o s = postOp k { o with key := some (cmdKey c.ring c.rseq) } s := by
  unfold enqueueOp
  rw [hnone, show staging s c = false by simp [staging, hr]]
  rfl

/-- The checks of a READ, WRITE or ADD, in their order. -/
def rmaOpStatus (s : State) (c : Cmd) : Status :=
  firstBad [failIf (!rmaClean c || decide (2 < rmaMode c)) .illegalValue,
    failIf (if rmaMode c = 2 then rmaLen c != 8 else rmaLen c == 0 || decide (4194304 < rmaLen c)) .illegalValue,
    failIf (!mayUseConn s c (rmaConnOf c)) .accessViolation, failIf ((getConn s (rmaConnOf c)).state != .open_) .wrongState,
    if rmaMode c = 2 then .ok else checkAddr s c (rmaLaddr c) (rmaLen c)]

/-- The operation of a READ, WRITE or ADD as it is posted. -/
def rmaOp (c : Cmd) : Op :=
  { kind := rmaKind (rmaMode c), psn := 0, psns := opPsns (rmaKind (rmaMode c)) (rmaLen c), total := rmaLen c
    fence := fldBits c.desc 8 4 24 1 == 1, raddr := rmaRaddr c, rkey := rmaRkey c, data := if rmaMode c = 2 then slice c.desc 40 8 else []
    key := some (cmdKey c.ring c.rseq) }

theorem admitRmaOp_of_bad {c : Cmd} {s : State} {st : Status} (h : rmaOpStatus s c = st) (hst : st ≠ .ok) : admitRmaOp c s = endAtAdmission c st 0 s := by
  subst h
  exact if_pos hst

theorem admitRmaOp_of_full {c : Cmd} {s : State} (h : rmaOpStatus s c = .ok) (hroom : rmaRoom s (rmaConnOf c) (rmaKind (rmaMode c)) (rmaLen c) = false) :
    admitRmaOp c s = setCmd { c with phase := .deferred .rmaRoom } s := by
  unfold admitRmaOp
  dsimp only
  rw [if_neg (by rw [show firstBad _ = rmaOpStatus s c from rfl, h]; decide), if_pos (by rw [hroom]; decide)]

theorem admitRmaOp_of_room {c : Cmd} {s : State} (hr : c.ring ≠ deckRing) (h : rmaOpStatus s c = .ok)
    (hroom : rmaRoom s (rmaConnOf c) (rmaKind (rmaMode c)) (rmaLen c) = true) (hnone : recordedPsn s c (rmaConnOf c) = none) :
    (rmaMode c ≠ 1 → admitRmaOp c s = postOp (rmaConnOf c) (rmaOp c) (admitCmd c (.rma { conn := rmaConnOf c, mode := rmaMode c }) s)) ∧
      (rmaMode c = 1 → isGfa (rmaLaddr c) = false → checkAddr s c (rmaLaddr c) (rmaLen c) = .ok →
        admitRmaOp c s = postOp (rmaConnOf c) (rmaOp c) (emit (.dmaRead (ringFn s c.ring) (rmaLaddr c) (rmaLen c) (.input c.ring c.rseq))
          (admitCmd c (.rma { conn := rmaConnOf c, mode := rmaMode c }) s))) := by
  have hrec : recordedPsn (admitCmd c (.rma { conn := rmaConnOf c, mode := rmaMode c }) s) c (rmaConnOf c) = none :=
    (recordedPsn_of_rma ((admitCmd_only ..).rma_eq (by decide)) ..).trans hnone
  unfold admitRmaOp
  dsimp only
  rw [if_neg (by rw [show firstBad _ = rmaOpStatus s c from rfl, h]; decide), if_neg (by rw [hroom]; decide)]
  refine ⟨fun hmode => ?_, fun hmode hg hok => ?_⟩
  · rw [if_pos hmode, enqueueOp_of_host hr hrec]
    rfl
  · rw [if_neg (by simp [hmode]), getCmd_admitCmd hr, Option.getD_some, startRead_admitCmd hr _ hok hg]
    dsimp only
    rw [enqueueOp_of_host hr ((recordedPsn_of_rma (by rfl) ..).trans hrec)]
    rfl

/-- The rows of the three operations. -/
theorem exec_rmaOp {s : State} {ring : Nat} {rseq : BitVec 32} {c : Cmd} {mode : Nat} {i : Instr} (hc : MayAdmit s ring rseq c) (hop : c.op = 0x30)
    (hmode : rmaMode c = mode) (hi : (mode, i) ∈ [(0, Instr.rmaRead ring rseq), (1, .rmaWrite ring rseq), (2, .rmaAdd ring rseq)]) :
    exec i s = .next (admitRmaOp c s) ∧ mode ≤ 2 := by
  simp only [List.mem_cons, List.not_mem_nil, or_false, Prod.mk.injEq] at hi
  obtain ⟨rfl, rfl⟩ | ⟨rfl, rfl⟩ | ⟨rfl, rfl⟩ := hi
  · exact ⟨rmaRow_of_mayAdmit hc hop hmode admitRmaOp, by decide⟩
  · exact ⟨rmaRow_of_mayAdmit hc hop hmode admitRmaOp, by decide⟩
  · exact ⟨rmaRow_of_mayAdmit hc hop hmode admitRmaOp, le_rfl⟩

/-- Settles O34: the checks in their order, then the wait for room, then the operation. -/
theorem rmaOperationsArePosted : Obligations.RmaOperationsArePosted := by
  intro ring rseq c i mode k n o s hc hop hmode hk hn hi ho
  subst hk hn
  obtain ⟨hexec, hle⟩ := exec_rmaOp hc hop hmode hi
  subst hmode
  have hop' : o = rmaOp c := by
    rw [ho, rmaOp, hc.key]
  have hfields : rmaClean c = true → (if rmaMode c = 2 then rmaLen c = 8 else 1 ≤ rmaLen c ∧ rmaLen c ≤ 4194304) →
      rmaOpStatus s c = firstBad [failIf (!mayUseConn s c (rmaConnOf c)) .accessViolation, failIf ((getConn s (rmaConnOf c)).state != .open_) .wrongState,
        if rmaMode c = 2 then .ok else checkAddr s c (rmaLaddr c) (rmaLen c)] := by
    intro hclean hlen
    have hgood : (if rmaMode c = 2 then rmaLen c != 8 else rmaLen c == 0 || decide (4194304 < rmaLen c)) = false := by
      split at hlen
      · rw [if_pos ‹_›, hlen]
        rfl
      · rw [if_neg ‹_›]
        simp
        omega
    rw [rmaOpStatus, hclean, hgood, show decide (2 < rmaMode c) = false by simpa using hle]
    rfl
  rw [hexec]
  refine ⟨fun hbad => congrArg _ (admitRmaOp_of_bad ?_ (by decide)), fun hclean hlen => ⟨fun huse => congrArg _ (admitRmaOp_of_bad ?_ (by decide)),
    fun huse hstate => congrArg _ (admitRmaOp_of_bad ?_ (by decide)), fun huse hstate haddr => ?_⟩⟩
  · rw [rmaOpStatus]
    rcases hbad with hb | hb
    · rw [hb]
      rfl
    · cases hclean : rmaClean c with
      | false => rfl
      | true =>
        have hlen : (if rmaMode c = 2 then rmaLen c != 8 else rmaLen c == 0 || decide (4194304 < rmaLen c)) = true := by
          split at hb
          · rw [if_pos ‹_›]
            simpa using hb
          · rw [if_neg ‹_›]
            simpa using hb
        rw [hlen, show decide (2 < rmaMode c) = false by simpa using hle]
        rfl
  · rw [hfields hclean hlen, huse]
    rfl
  · rw [hfields hclean hlen, huse, show ((getConn s (rmaConnOf c)).state != .open_) = true by simpa using hstate]
    rfl
  · have hst : rmaOpStatus s c = .ok := by
      rw [hfields hclean hlen, huse, hstate]
      by_cases h2 : rmaMode c = 2
      · rw [if_pos h2]
        rfl
      · rw [if_neg h2, haddr h2]
        rfl
    refine ⟨fun hroom => congrArg _ (admitRmaOp_of_full hst hroom), fun hroom hnone hm => congrArg _ ?_, fun hroom hnone hm hg => congrArg _ ?_⟩
    · rw [hop']
      exact (admitRmaOp_of_room hc.ring_ne hst hroom hnone).1 hm
    · rw [hop', ← hc.ringIs, ← hc.rseqIs]
      exact (admitRmaOp_of_room hc.ring_ne hst hroom hnone).2 hm hg (haddr (by omega))

/-! ## Parameter blocks (R267, R271) -/

theorem admitBlock_of_bad {c : Cmd} {s : State} (f : Cmd → List Byte → State → State) (h : rmaClean c = false ∨ rmaLen c ≠ 64) :
    admitBlock c f s = endAtAdmission c .illegalValue 0 s := by
  have hbad : (!rmaClean c || rmaLen c != 64) = true := by simpa using h
  unfold admitBlock
  rw [hbad]
  exact if_pos (by rw [failIf_true, firstBad_of_bad _ (by decide)]; decide)

theorem admitBlock_asks {c : Cmd} {s : State} (f : Cmd → List Byte → State → State) (hr : c.ring ≠ deckRing) (hclean : rmaClean c = true)
    (hlen : rmaLen c = 64) (hok : checkAddr s c (rmaLaddr c) 64 = .ok) (hg : isGfa (rmaLaddr c) = false) :
    admitBlock c f s = emit (.dmaRead (ringFn s c.ring) (rmaLaddr c) 64 (.input c.ring c.rseq))
      (admitCmd c (.rma { conn := rmaConnOf c, mode := rmaMode c }) s) := by
  unfold admitBlock
  dsimp only
  rw [hclean, hlen, hok, if_neg (by decide), getCmd_admitCmd hr, Option.getD_some, startRead_admitCmd hr _ hok hg]

theorem slice_self {b : List Byte} {n : Nat} (h : b.length = n) : slice b 0 n = b := by
  subst h
  simp [slice]

/-- The parameter block of an RMA_POST arrives whole, where no window of the partition lies in its way. -/
theorem exec_blockArrives {s : State} {ring : Nat} {rseq : BitVec 32} {c : Cmd} {mode : Nat} {b : List Byte} (hc : Runs s ring rseq c) (hop : c.op = 0x30)
    (hmode : mode = 3 ∨ mode = 5) (hwork : c.work = .rma { conn := rmaConnOf c, mode := mode }) (hg : isGfa (rmaLaddr c) = false) (hb : b.length = 64)
    (hwin : windowsOf s c.part = []) (hm : c.metered = false) :
    exec (.dmaReadCompletion (.input ring rseq) (.data b)) s = .next (resumeInput c (.now b) s) := by
  have hrange : inputRange s c = some (rmaLaddr c, 64) := by
    unfold inputRange
    simp only [hop, hwork, hmode, if_true, Option.filter_some, isScratch, hg, show (c.ring == deckRing) = false by simpa using hc.ring_ne,
      Bool.false_and, Bool.not_false, Bool.and_self]
  have hmeter : meterData c resPcieIn 64 s = s := by
    unfold meterData meter
    rw [hm]
    exact ite_self _
  have hopen : windowOpen s c.part (rmaLaddr c) (slice b 0 64) = b := by
    unfold windowOpen throughWindows
    rw [hwin, List.foldl_nil, slice_self hb]
  refine congrArg Host.Outcome.next ((if_pos hc.serves).trans ?_)
  change inputRead ring rseq (.data b) s = _
  unfold inputRead
  simp only [runningCmd_of_runs hc, hrange, hmeter, hopen]

theorem resumeInput_connOpen {c : Cmd} (b : List Byte) (s : State) (hop : c.op = 0x30) (hmode : rmaMode c = 3) :
    resumeInput c (.now b) s = connOpenInput c b s := by
  unfold resumeInput
  simp only [hop, hmode]

theorem resumeInput_mrReg {c : Cmd} (b : List Byte) (s : State) (hop : c.op = 0x30) (hmode : rmaMode c = 5) :
    resumeInput c (.now b) s = mrRegInput c b s := by
  unfold resumeInput
  simp only [hop, hmode]

theorem connOpenInput_of_bad {c : Cmd} {b : List Byte} {s : State} (h : connOpenStatus s c b ≠ .ok) :
    connOpenInput c b s = finish c (connOpenStatus s c b) 0 s := by
  unfold connOpenInput
  split
  next hok => exact absurd hok h
  next => rfl

theorem connOpenInput_of_good {c : Cmd} {b : List Byte} {s : State} (h : connOpenStatus s c b = .ok) :
    connOpenInput c b s = finish c .ok (fld b 0 4 % 2 ^ 20) (touchCtx (fld b 0 4 % 2 ^ 20) (setConn (fld b 0 4 % 2 ^ 20) (connOfBlock c b) s)) := by
  unfold connOpenInput
  rw [h]

theorem getConn_touchCtx (k n : Nat) (s : State) : getConn (touchCtx k s) n = getConn s n := rfl

/-- The most recent context of a cache with room stands in it. -/
theorem cached_touchCtx {s : State} (k : Nat) (h : s.rma.cache.length < 16384) : cached (touchCtx k s) k = true := by
  have hlen : (k :: s.rma.cache.erase k).length ≤ 16384 := by
    have herase := (List.erase_sublist (l := s.rma.cache) (a := k)).length_le
    rw [List.length_cons]
    omega
  unfold cached touchCtx evict
  rw [if_pos hlen]
  simp

/-- A region of PCIe space that a good block registers. -/
def blockRegion (c : Cmd) (b : List Byte) (r : Region) : Region :=
  { used := true, gen := r.gen + 1, part := c.part, access := fld b 2 1, paging := fld b 3 1, space := 1, pageLog2 := fld b 5 1
    base := fld b 8 8, len := fld b 16 8, ptBase := fld b 24 8 }

theorem getRegion_set (s : State) (i k : Nat) (x : Region) :
    getRegion { s with rma := { s.rma with regions := tset s.rma.regions i x } } k = if k = i then x else getRegion s k := by
  unfold getRegion tgetD
  dsimp only
  rw [tget_tset]
  split <;> rfl

theorem getRegion_of_rma {s t : State} (h : t.rma = s.rma) (k : Nat) : getRegion t k = getRegion s k := by simp [getRegion, h]

theorem mrRegInput_of_bus {c : Cmd} {b : List Byte} {s : State} (hu : (getRegion s (fld b 0 2)).used = false)
    (hgen : (getRegion s (fld b 0 2)).gen ≠ 0xFFFFFFFF) (hacc : fld b 2 1 < 8) (hpag : fld b 3 1 = 0) (hspace : fld b 4 1 = 1) (hz : fld b 6 2 = 0)
    (hal : fld b 8 8 % 64 = 0) (hend : fld b 8 8 + fld b 16 8 ≤ 2 ^ 62) (hmin : 64 ≤ fld b 16 8) (hmax : fld b 16 8 ≤ 2 ^ 40)
    (hg : isGfa (fld b 8 8) = false) (hzero : allZero (slice b 32 32) = true) :
    mrRegInput c b s = finish c .ok (fld b 0 2 + 2 ^ 32 * ((getRegion s (fld b 0 2)).gen + 1).toNat)
      { s with rma := { s.rma with regions := tset s.rma.regions (fld b 0 2) (blockRegion c b (getRegion s (fld b 0 2))) } } := by
  have hbase : fld b 8 8 < 2 ^ 63 := by omega
  unfold mrRegInput
  dsimp only
  rw [hu, hpag, hspace, hz, hal, hzero, hg, if_neg (by decide), if_neg hgen, decide_eq_true hacc, decide_eq_true hbase, decide_eq_true hmin,
    decide_eq_true hmax, decide_eq_true hend]
  simp only [blockRegion, hpag]
  rfl

/-! ## Closing and deregistering (R272, R273) -/

theorem admitConnClose_of_open {c : Cmd} {s : State} (hclean : rmaClean c = true) (huse : mayUseConn s c (rmaConnOf c) = true)
    (hopen : (getConn s (rmaConnOf c)).state = .open_) :
    admitConnClose c s = connLeft (rmaConnOf c) (modConn (rmaConnOf c)
      (fun x => { x with state := .closing, closer := some (cmdKey c.ring c.rseq) }) (admitCmd c (.rma { conn := rmaConnOf c, mode := 4 }) s)) := by
  unfold admitConnClose
  dsimp only
  rw [hclean, huse, hopen]
  rfl

theorem localKey_checks (s : State) (c : Cmd) (h : rmaClean c = true) :
    firstBad [failIf (!rmaClean c) .illegalValue, localKeyStatus s c] = localKeyStatus s c := by
  rw [h]
  by_cases hk : localKeyStatus s c = .ok
  · rw [hk]
    rfl
  · exact firstBad_of_bad _ hk

theorem admitMrDereg_of_clean {c : Cmd} {s : State} (h : rmaClean c = true) :
    admitMrDereg c s = if localKeyStatus s c ≠ .ok then endAtAdmission c (localKeyStatus s c) 0 s else admitCmd c (.rma { conn := 0, mode := 6 }) s := by
  unfold admitMrDereg
  dsimp only
  rw [localKey_checks s c h]

theorem getConn_freeConn (k n : Nat) (s : State) : getConn (freeConn k s) n = if n = k then {} else getConn s n := by
  unfold getConn freeConn tgetD
  dsimp only
  by_cases h : n = k
  · rw [if_pos h, h, tget_tdel_self]
    rfl
  · rw [if_neg h, tget_tdel_of_ne _ h]

theorem exec_connCloseDone {s : State} {ring : Nat} {rseq : BitVec 32} {c : Cmd} {k : Nat} (hc : Runs s ring rseq c)
    (hstate : (getConn s k).state = .closing) (hops : (getConn s k).ops = []) (hcloser : (getConn s k).closer = some (cmdKey ring rseq)) :
    exec (.connCloseDone k) s = .next (finish c .ok 0 (freeConn k s)) := by
  have hget : tget (freeConn k s).cmds (cmdKey ring rseq) = some c := hc.found
  change execConnCloseDone k s = _
  unfold execConnCloseDone
  simp only [hstate, hops, hcloser, hc.serves, ne_eq, not_true_eq_false, List.isEmpty_nil, Bool.not_true, Bool.false_eq_true, or_self, if_false,
    Option.bind_some, hget]

theorem exec_mrDeregDone {s : State} {ring : Nat} {rseq : BitVec 32} {c : Cmd} (hc : Runs s ring rseq c) (hop : c.op = 0x30) (hmode : rmaMode c = 6)
    (hfree : regionBusy s ((rmaRkey c).toNat % 65536) = false) (hkey : localKeyStatus s c = .ok) :
    exec (.mrDeregDone ring rseq) s = .next (finish c .ok 0 { s with rma := { s.rma with
      regions := tset s.rma.regions ((rmaRkey c).toNat % 65536) { gen := (getRegion s ((rmaRkey c).toNat % 65536)).gen } } }) := by
  change execMrDeregDone ring rseq s = _
  unfold execMrDeregDone
  simp only [runningCmd_of_runs hc, hop, hmode, hfree, hkey, hc.serves, ne_eq, not_true_eq_false, Bool.not_true, Bool.false_eq_true, or_self, if_false,
    bne_self_eq_false]

/-- PAGE_RESUME where no packet is held has nothing to apply. -/
theorem admitPageResume_of_none {c : Cmd} {s : State} (hr : c.ring ≠ deckRing) (hclean : rmaClean c = true) (hkey : localKeyStatus s c = .ok)
    (hheld : ∀ e ∈ s.rma.conns, e.2.held = none) :
    admitPageResume c s = finish (admitted c (.rma { conn := 0, mode := 7 }) s) .ok 0 (admitCmd c (.rma { conn := 0, mode := 7 }) s) := by
  unfold admitPageResume
  dsimp only
  rw [localKey_checks s c hclean, hkey, if_neg (by decide), getCmd_admitCmd hr, Option.getD_some, List.filterMap_eq_nil_iff.2]
  · rfl
  · intro e he
    rw [hheld e he]

/-- Settles O35: the blocks as they are asked for and arrive, and the four ways to an end. -/
theorem connectionsAndRegionsOpenAndClose : Obligations.ConnectionsAndRegionsOpenAndClose := by
  refine ⟨fun ring rseq c s hop => ⟨fun mode i hi hc hmode => ?_, fun b id hc hmode hwork hg hb hwin hm hid => ?_,
    fun b i hc hmode hwork hg hb hwin hm hi => ?_⟩, fun ring rseq c s hop => ⟨fun hc hmode hclean huse hopen => ?_, fun k hc hstate hops hcloser => ?_,
    fun hc hmode hclean => ?_, fun i hc hmode hi hfree hkey => ?_, fun hc hmode hclean hkey hheld => ?_⟩⟩
  · obtain ⟨f, hexec⟩ : ∃ f, exec i s = .next (admitBlock c f s) := by
      simp only [List.mem_cons, List.not_mem_nil, or_false, Prod.mk.injEq] at hi
      obtain ⟨rfl, rfl⟩ | ⟨rfl, rfl⟩ := hi
      · exact ⟨_, rmaRow_of_mayAdmit hc hop hmode _⟩
      · exact ⟨_, rmaRow_of_mayAdmit hc hop hmode _⟩
    refine ⟨fun hbad => hexec.trans (congrArg _ (admitBlock_of_bad f hbad)), fun hclean hlen hok hg => ?_⟩
    rw [hexec, admitBlock_asks f hc.ring_ne hclean hlen hok hg, hmode, hc.ringIs, hc.rseqIs]
  · subst hid
    have hexec := (exec_blockArrives hc hop (.inl rfl) hwork hg hb hwin hm).trans (congrArg Host.Outcome.next (resumeInput_connOpen b s hop hmode))
    refine ⟨fun hbad => hexec.trans (congrArg _ (connOpenInput_of_bad hbad)), fun hgood => ?_⟩
    rw [connOpenInput_of_good hgood] at hexec
    have hframe := finish_only c .ok (fld b 0 4 % 2 ^ 20) (touchCtx (fld b 0 4 % 2 ^ 20) (setConn (fld b 0 4 % 2 ^ 20) (connOfBlock c b) s))
    refine ⟨_, hexec, hframe.via (by decide) ((touchCtx_only ..).via (by decide) ((setConn_only ..).sub (by decide))), endsWith_finish hc.ring_ne ..,
      ?_, fun hroom => ?_, fun j hj => ?_⟩
    · rw [getConn_of_rma (hframe.rma_eq (by decide)), getConn_touchCtx, getConn_setConn]
    · rw [cached, hframe.rma_eq (by decide)]
      exact cached_touchCtx _ (by exact hroom)
    · rw [getConn_of_rma (hframe.rma_eq (by decide)), getConn_touchCtx, getConn_setConn_of_ne _ _ hj]
  · subst hi
    have hexec := (exec_blockArrives hc hop (.inr rfl) hwork hg hb hwin hm).trans (congrArg Host.Outcome.next (resumeInput_mrReg b s hop hmode))
    refine ⟨fun hu => hexec.trans (congrArg _ ?_), fun hu hgen hacc hpag hspace hz hal hend hmin hmax hgfa hzero => ?_⟩
    · unfold mrRegInput
      exact if_pos hu
    · rw [mrRegInput_of_bus hu hgen hacc hpag hspace hz hal hend hmin hmax hgfa hzero] at hexec
      have hframe := finish_only c .ok (fld b 0 2 + 2 ^ 32 * ((getRegion s (fld b 0 2)).gen + 1).toNat)
        { s with rma := { s.rma with regions := tset s.rma.regions (fld b 0 2) (blockRegion c b (getRegion s (fld b 0 2))) } }
      have hregion : ∀ k, getRegion (finish c .ok (fld b 0 2 + 2 ^ 32 * ((getRegion s (fld b 0 2)).gen + 1).toNat)
          { s with rma := { s.rma with regions := tset s.rma.regions (fld b 0 2) (blockRegion c b (getRegion s (fld b 0 2))) } }) k =
          if k = fld b 0 2 then blockRegion c b (getRegion s (fld b 0 2)) else getRegion s k := fun k =>
        (getRegion_of_rma (hframe.rma_eq (by decide)) k).trans (getRegion_set ..)
      refine ⟨_, hexec, hframe.via (by decide) ((OnlyIn.refl _ s).upd_rma (by decide)), endsWith_finish hc.ring_ne .., ?_, ?_, ?_, ?_, ?_, fun j hj => ?_⟩
      iterate 5
        rw [hregion, if_pos rfl]
        rfl
      rw [hregion, if_neg hj]
  · rw [← hc.key]
    exact (rmaRow_of_mayAdmit hc hop hmode admitConnClose).trans (congrArg _ (admitConnClose_of_open hclean huse hopen))
  · have hframe := finish_only c .ok 0 (freeConn k s)
    refine ⟨_, exec_connCloseDone hc hstate hops hcloser, hframe.via (by decide) ((freeConn_only ..).sub (by decide)), endsWith_finish hc.ring_ne .., ?_,
      fun j hj => ?_⟩ <;> rw [getConn_of_rma (hframe.rma_eq (by decide)), getConn_freeConn]
    · rw [if_pos rfl]
    · rw [if_neg hj]
  · refine ⟨fun hbad => (rmaRow_of_mayAdmit hc hop hmode admitMrDereg).trans (congrArg _ ?_),
      fun hkey => (rmaRow_of_mayAdmit hc hop hmode admitMrDereg).trans (congrArg _ ?_)⟩
    · rw [admitMrDereg_of_clean hclean, if_pos hbad]
    · rw [admitMrDereg_of_clean hclean, if_neg (not_not.2 hkey)]
  · subst hi
    have hframe := finish_only c .ok 0 { s with rma := { s.rma with
      regions := tset s.rma.regions ((rmaRkey c).toNat % 65536) { gen := (getRegion s ((rmaRkey c).toNat % 65536)).gen } } }
    refine ⟨_, exec_mrDeregDone hc hop hmode hfree hkey, hframe.via (by decide) ((OnlyIn.refl _ s).upd_rma (by decide)), endsWith_finish hc.ring_ne .., ?_,
      fun j hj => ?_⟩ <;> rw [getRegion_of_rma (hframe.rma_eq (by decide)), getRegion_set]
    · rw [if_pos rfl]
    · rw [if_neg hj]
  · exact ⟨_, (rmaRow_of_mayAdmit hc hop hmode admitPageResume).trans (congrArg _ (admitPageResume_of_none hc.ring_ne hclean hkey hheld)),
      finish_admitted_only .., endsWith_finish_admitted hc.ring_ne ..⟩

/-! ## SIGNAL (R284, R285) -/

theorem getCnt_of_rma {s t : State} (h : t.rma = s.rma) (i : Nat) : getCnt t i = getCnt s i := by simp [getCnt, h]

theorem cntBound_of_act {s t : State} (h : t.regs.act = s.regs.act) (i : Nat) : cntBound t i = cntBound s i := by simp [cntBound, actW, h]

theorem cntOwned_of_act {s t : State} (h : t.regs.act = s.regs.act) (part i : Nat) : cntOwned t part i = cntOwned s part i := by
  simp [cntOwned, cntCfg, actW, h]

theorem addStatus_congr {s t : State} (hr : t.rma = s.rma) (ha : t.regs.act = s.regs.act) (part i n : Nat) (acked : Bool) :
    addStatus t part i n acked = addStatus s part i n acked := by
  simp only [addStatus, getCnt_of_rma hr, cntBound_of_act ha, cntOwned_of_act ha]

/-- The outcome of an addition to a counter's value, in its three cases. -/
theorem addStatus_value (s : State) (part i n : Nat) :
    addStatus s part i n false = if cntOwned s part i = false then .accessViolation
      else if cntBound s i < (getCnt s i).value + n - (getCnt s i).acked then .illegalValue else .ok := by
  unfold addStatus
  cases cntOwned s part i <;> rfl

/-- A counter's value grown by `n`, with no waiter to wake. -/
def counted (i n : Nat) (s : State) : State :=
  { s with rma := { s.rma with counters := tset s.rma.counters i { getCnt s i with value := (getCnt s i).value + n } } }

theorem getCnt_counted (i n k : Nat) (s : State) :
    getCnt (counted i n s) k = if k = i then { getCnt s i with value := (getCnt s i).value + n } else getCnt s k := by
  unfold getCnt counted tgetD
  dsimp only
  rw [tget_tset]
  split <;> rfl

theorem wakeWaiters_of_none {s : State} {i : Nat} (h : ∀ w ∈ s.rma.waiters, w.counter ≠ i) : wakeWaiters i s = s := by
  unfold wakeWaiters
  rw [List.filter_eq_nil_iff.2]
  · rfl
  · intro w hw
    simp [h w hw]

theorem addCounter_of_ok {s : State} {part i n conn peer : Nat} (h : addStatus s part i n false = .ok) (hw : ∀ w ∈ s.rma.waiters, w.counter ≠ i) :
    addCounter part i n false conn peer s = counted i n s := by
  unfold addCounter
  rw [h]
  exact wakeWaiters_of_none hw

theorem addCounter_of_bad {s : State} {part i n conn peer : Nat} (h : addStatus s part i n false ≠ .ok) :
    OnlyIn [.out, .regs, .host, .mgmt] s (addCounter part i n false conn peer s) := by
  unfold addCounter
  split
  next hok => exact absurd hok h
  next => exact (post_only ..).via (by decide) ((rmaCnt_only ..).sub (by decide))
  next => exact .refl ..

/-- A SIGNAL within the node that has not been applied yet. -/
theorem admitSignalLocal_of_new {c : Cmd} {s : State} (hr : c.ring ≠ deckRing) (hclean : signalClean c = true) (h17 : bit (fld c.desc 8 4) 17 = false)
    (hnew : ∀ e ∈ s.rma.oot, e.key ≠ cmdKey c.ring c.rseq) :
    (addStatus s c.part (fld c.desc 8 4 % 65536) (fld c.desc 16 8) false = .ok →
      ∃ l, admitSignalLocal c s = finish (admitted c .none s) .ok 0
        { addCounter c.part (fld c.desc 8 4 % 65536) (fld c.desc 16 8) false 0 0 (admitCmd c .none s) with
          rma := { (addCounter c.part (fld c.desc 8 4 % 65536) (fld c.desc 16 8) false 0 0 (admitCmd c .none s)).rma with oot := l } }) ∧
    (addStatus s c.part (fld c.desc 8 4 % 65536) (fld c.desc 16 8) false ≠ .ok →
      admitSignalLocal c s = finish (admitted c .none s) (addStatus s c.part (fld c.desc 8 4 % 65536) (fld c.desc 16 8) false) 0
        (addCounter c.part (fld c.desc 8 4 % 65536) (fld c.desc 16 8) false 0 0 (admitCmd c .none s))) := by
  have hany : (s.rma.oot.any fun e => e.key == cmdKey c.ring c.rseq && e.applied) = false := by
    rw [List.any_eq_false]
    exact fun e he => by simp [hnew e he]
  unfold admitSignalLocal
  simp only [hclean, h17, hany, Bool.not_true, Bool.false_eq_true, if_false, getCmd_admitCmd hr, Option.getD_some]
  refine ⟨fun hok => ?_, fun hbad => ?_⟩
  · rw [hok]
    exact ⟨_, rfl⟩
  · split
    next hok => exact absurd hok hbad
    next => rfl

/-- A SIGNAL that is refused ends with its status, and changes no counter. -/
theorem signal_refused {s : State} {ring : Nat} {rseq : BitVec 32} {c : Cmd} {st : Status} (hc : MayAdmit s ring rseq c) (hclean : signalClean c = true)
    (h17 : bit (fld c.desc 8 4) 17 = false) (hnew : ∀ e ∈ s.rma.oot, e.key ≠ cmdKey c.ring c.rseq)
    (hst : addStatus s c.part (fld c.desc 8 4 % 65536) (fld c.desc 16 8) false = st) (hbad : st ≠ .ok) :
    OnlyIn endAreas s (admitSignalLocal c s) ∧ EndsWith (admitSignalLocal c s) c st 0 := by
  subst hst
  have hframe := admitCmd_only c .none s
  rw [(admitSignalLocal_of_new hc.ring_ne hclean h17 hnew).2 hbad]
  have hst := addStatus_congr (hframe.rma_eq (by decide)) (hframe.act_eq (by decide)) c.part (fld c.desc 8 4 % 65536) (fld c.desc 16 8) false
  have hadd := addCounter_of_bad (s := admitCmd c .none s) (part := c.part) (i := fld c.desc 8 4 % 65536) (n := fld c.desc 16 8) (conn := 0) (peer := 0)
    (by rw [hst]; exact hbad)
  exact ⟨(finish_only ..).via (by decide) (hadd.via (by decide) (hframe.sub (by decide))), endsWith_finish (c := admitted c .none s) hc.ring_ne ..⟩

theorem admitSignalRemote_of_room {c : Cmd} {s : State} (hr : c.ring ≠ deckRing) (hclean : signalClean c = true)
    (huse : mayUseConn s c (fld c.desc 12 4 % 2 ^ 20) = true) (hopen : (getConn s (fld c.desc 12 4 % 2 ^ 20)).state = .open_)
    (hroom : rmaRoom s (fld c.desc 12 4 % 2 ^ 20) .signal 0 = true) (hnone : recordedPsn s c (fld c.desc 12 4 % 2 ^ 20) = none) :
    admitSignalRemote c s = postOp (fld c.desc 12 4 % 2 ^ 20)
      { kind := .signal, psn := 0, psns := 1, total := 0, counter := fld c.desc 8 4 % 65536, toAcked := bit (fld c.desc 8 4) 17
        data := slice c.desc 16 8, key := some (cmdKey c.ring c.rseq) } (admitCmd c (.rma { conn := fld c.desc 12 4 % 2 ^ 20, mode := 8 }) s) := by
  have hrec : recordedPsn (admitCmd c (.rma { conn := fld c.desc 12 4 % 2 ^ 20, mode := 8 }) s) c (fld c.desc 12 4 % 2 ^ 20) = none :=
    (recordedPsn_of_rma ((admitCmd_only ..).rma_eq (by decide)) ..).trans hnone
  unfold admitSignalRemote
  dsimp only
  rw [hclean, huse, hopen, hroom, if_neg (by decide), if_neg (by decide), enqueueOp_of_host hr hrec]

/-! ## WAIT (R286, R287) -/

/-- The checks of a WAIT on a counter's value. -/
theorem waitStatus_of_clean {c : Cmd} {s : State} (hw : fld c.desc 8 4 < 65536) (hus : fld c.desc 12 4 ≤ 1000000)
    (hzero : allZero (slice c.desc 24 40) = true) :
    firstBad [failIf (decide (2 ^ 17 ≤ fld c.desc 8 4) || decide (1000000 < fld c.desc 12 4) || !allZero (slice c.desc 24 40)) .illegalValue,
      failIf (!cntOwned s c.part (fld c.desc 8 4 % 65536)) .accessViolation] =
      if cntOwned s c.part (fld c.desc 8 4 % 65536) = true then .ok else .accessViolation := by
  rw [hzero, decide_eq_false (show ¬ 2 ^ 17 ≤ fld c.desc 8 4 by omega), decide_eq_false (show ¬ 1000000 < fld c.desc 12 4 by omega)]
  cases cntOwned s c.part (fld c.desc 8 4 % 65536) <;> rfl

theorem bit16_of_small {w : Nat} (h : w < 65536) : bit w 16 = false := by
  unfold bit
  rw [Nat.div_eq_of_lt (by omega)]
  rfl

/-- A WAIT as it is listed. -/
def waiterOf (c : Cmd) (s : State) : Waiter :=
  { key := some (cmdKey c.ring c.rseq), counter := fld c.desc 8 4 % 65536, onAcked := false, target := fld c.desc 16 8
    due := now s + 1000 * fld c.desc 12 4 }

/-- A WAIT that waits: it runs, and stands in the list. -/
def waitListed (c : Cmd) (s : State) : State :=
  { admitCmd c (.wait (fld c.desc 8 4 % 65536)) s with rma := { s.rma with waiters := s.rma.waiters ++ [waiterOf c s] } }

theorem admitWait_of_clean {c : Cmd} {s : State} (hr : c.ring ≠ deckRing) (hw : fld c.desc 8 4 < 65536) (hus : fld c.desc 12 4 ≤ 1000000)
    (hzero : allZero (slice c.desc 24 40) = true) :
    (cntOwned s c.part (fld c.desc 8 4 % 65536) = false → admitWait c s = endAtAdmission c .accessViolation 0 s) ∧
    (cntOwned s c.part (fld c.desc 8 4 % 65536) = true → fld c.desc 16 8 ≤ (getCnt s (fld c.desc 8 4 % 65536)).value →
      admitWait c s = finish (admitted c (.wait (fld c.desc 8 4 % 65536)) s) .ok (getCnt s (fld c.desc 8 4 % 65536)).value
        (admitCmd c (.wait (fld c.desc 8 4 % 65536)) s)) ∧
    (cntOwned s c.part (fld c.desc 8 4 % 65536) = true → (getCnt s (fld c.desc 8 4 % 65536)).value < fld c.desc 16 8 →
      s.rma.waiters.length < 4096 → fld c.desc 12 4 ≠ 0 → admitWait c s = waitListed c s) := by
  have hrma : (admitCmd c (.wait (fld c.desc 8 4 % 65536)) s).rma = s.rma := (admitCmd_only ..).rma_eq (by decide)
  unfold admitWait
  dsimp only
  rw [waitStatus_of_clean hw hus hzero, bit16_of_small hw, show watched (getCnt s (fld c.desc 8 4 % 65536)) false = (getCnt s (fld c.desc 8 4 % 65536)).value from rfl]
  refine ⟨fun hown => ?_, fun hown hle => ?_, fun hown hlt hroom hne => ?_⟩ <;> rw [hown]
  · rfl
  · rw [if_pos rfl, if_neg (by decide), if_neg (by omega), getCmd_admitCmd hr, Option.getD_some, if_pos hle]
  · rw [if_pos rfl, if_neg (by decide), if_neg (by omega), if_neg (by omega), if_neg hne, hrma]
    rfl

theorem waitListed_only (c : Cmd) (s : State) : OnlyIn [.regs, .cmds, .rma] s (waitListed c s) :=
  ((admitCmd_only ..).sub (by decide)).upd_rma (by decide)

/-- A WAIT that runs stands before every later command of its ring. -/
theorem fenced_of_waiting {t : State} {d : Cmd} (hget : getCmd t d.ring d.rseq = some d) (hop : d.op = 0x32) (hrun : d.phase = .running) {e : Cmd}
    (hring : e.ring = d.ring) (hlt : serialLt d.rseq e.rseq = true) : fenced t e = true := by
  refine List.any_eq_true.2 ⟨_, tget_mem hget, ?_⟩
  simp [hring, hlt, hop, hrun]

theorem exec_waitTimeout {s : State} {ring : Nat} {rseq : BitVec 32} {c : Cmd} {w : Waiter} (hc : Runs s ring rseq c)
    (hw : (s.rma.waiters.find? fun w => w.key == some (cmdKey ring rseq)) = some w) :
    exec (.waitTimeout ring rseq) s = .next (finish { c with cause := waitExpired } .timeout 0
      (rmaCnt cWaitTimeouts 1 { advanceTo w.due s with rma := { s.rma with waiters := s.rma.waiters.erase w } })) := by
  change execWaitTimeout ring rseq s = _
  unfold execWaitTimeout
  simp only [hc.found, hw, hc.serves, Bool.not_true, Bool.false_eq_true, if_false]
  rfl

/-- Settles O36: SIGNAL within the node and to another, and WAIT with its timeout. -/
theorem signalsCountAndWaitsEnd : Obligations.SignalsCountAndWaitsEnd := by
  refine ⟨fun ring rseq c i n s hc hop hi hn => ⟨fun hlocal hbad => ?_, fun hlocal hclean h17 hnew hidle => ?_,
    fun k hremote hclean hk huse hopen hroom hnone => ?_⟩, fun ring rseq c i us s hop hi hus => ⟨fun hc hw hmax hzero => ?_, fun w hc hw => ?_⟩⟩
  · refine congrArg Host.Outcome.next ((admitting_of_mayAdmit hc (by simp [hop, hlocal]) admitSignalLocal).trans ?_)
    unfold admitSignalLocal
    dsimp only
    rw [hbad]
    rfl
  · subst hi hn
    have hexec : exec (.signalLocal ring rseq) s = .next (admitSignalLocal c s) :=
      congrArg Host.Outcome.next (admitting_of_mayAdmit hc (by simp [hop, hlocal]) admitSignalLocal)
    rw [← hc.key] at hnew
    have hst := addStatus_value s c.part (fld c.desc 8 4 % 65536) (fld c.desc 16 8)
    refine ⟨fun hown hle => ?_, fun hown hlt => ?_, fun hown => ?_⟩
    · rw [if_neg (by rw [hown]; decide), if_neg (by omega)] at hst
      obtain ⟨l, hres⟩ := (admitSignalLocal_of_new hc.ring_ne hclean h17 hnew).1 hst
      have hframe := admitCmd_only c .none s
      rw [addCounter_of_ok ((addStatus_congr (hframe.rma_eq (by decide)) (hframe.act_eq (by decide)) ..).trans hst) ((hframe.rma_eq (by decide)) ▸ hidle)] at hres
      have hrma : ∀ u, admitSignalLocal c s = finish (admitted c .none s) .ok 0 u → (admitSignalLocal c s).rma = u.rma := fun u hu => by
        rw [hu, (finish_only ..).rma_eq (by decide)]
      have hcnt : ∀ k, getCnt (admitSignalLocal c s) k = getCnt (counted (fld c.desc 8 4 % 65536) (fld c.desc 16 8) (admitCmd c .none s)) k := fun k => by
        rw [getCnt, hrma _ hres]
        rfl
      refine ⟨_, hexec, ?_, ?_, ?_, ?_, ?_, fun j hj => ?_⟩
      · rw [hres]
        exact (finish_only ..).via (by decide) (((hframe.sub (by decide)).upd_rma (by decide)).upd_rma (by decide))
      · rw [hres]
        exact endsWith_finish (c := admitted c .none s) hc.ring_ne ..
      · rw [hcnt, getCnt_counted, if_pos rfl, getCnt_of_rma (hframe.rma_eq (by decide))]
      · rw [hrma _ hres]
        change (admitCmd c .none s).rma.conns = _
        rw [hframe.rma_eq (by decide)]
      · rw [hrma _ hres]
        change (admitCmd c .none s).rma.regions = _
        rw [hframe.rma_eq (by decide)]
      · rw [hcnt, getCnt_counted, if_neg hj, getCnt_of_rma (hframe.rma_eq (by decide))]
    · rw [if_neg (by rw [hown]; decide), if_pos hlt] at hst
      exact ⟨_, hexec, signal_refused hc hclean h17 hnew hst (by decide)⟩
    · rw [if_pos hown] at hst
      exact ⟨_, hexec, signal_refused hc hclean h17 hnew hst (by decide)⟩
  · subst hi hk
    rw [← hc.key]
    exact congrArg Host.Outcome.next ((admitting_of_mayAdmit hc (by simp [hop, hremote]) admitSignalRemote).trans
      (admitSignalRemote_of_room hc.ring_ne hclean huse hopen hroom hnone))
  · subst hi hus
    have hexec : exec (.wait ring rseq) s = .next (admitWait c s) := congrArg Host.Outcome.next (admitting_of_mayAdmit hc (by simpa using hop) admitWait)
    obtain ⟨hother, hthere, hlists⟩ := admitWait_of_clean hc.ring_ne hw hmax hzero
    refine ⟨fun hown => hexec.trans (congrArg _ (hother hown)), fun hown hle => ?_, fun hown hlt hroom hne => ?_⟩
    · rw [hthere hown hle] at hexec
      exact ⟨_, hexec, finish_admitted_only .., endsWith_finish_admitted hc.ring_ne ..⟩
    · rw [hlists hown hlt hroom hne] at hexec
      have hframe := waitListed_only c s
      have hget : getCmd (waitListed c s) c.ring c.rseq = some (admitted c (.wait (fld c.desc 8 4 % 65536)) s) := getCmd_admitCmd hc.ring_ne _ s
      refine ⟨_, _, hexec, hframe, hframe.act_eq (by decide), by rw [← hc.ringIs, ← hc.rseqIs]; exact hget, rfl, ?_, fun e hring hlt => ?_⟩
      · rw [← hc.key]
        rfl
      · exact fenced_of_waiting (d := admitted c (.wait (fld c.desc 8 4 % 65536)) s) hget hop rfl (hring.trans hc.ringIs.symm) (hc.rseqIs ▸ hlt)
  · have hframe := finish_only { c with cause := waitExpired } .timeout 0
      (rmaCnt cWaitTimeouts 1 { advanceTo w.due s with rma := { s.rma with waiters := s.rma.waiters.erase w } })
    refine ⟨_, exec_waitTimeout hc hw, hframe.via (by decide) ((rmaCnt_only ..).via (by decide)
      (((advanceTo_only w.due s).sub (by decide)).upd_rma (by decide))), endsWith_finish (c := { c with cause := waitExpired }) hc.ring_ne .., ?_, ?_⟩
    · rw [now, hframe.clk_eq (by decide)]
      exact le_max_right ..
    · rw [hframe.rma_eq (by decide)]
      rfl

end Sys2Proof.Machine

namespace Sys2Proof.Machine

open Sys2Proof

/-! ## Sending on a half (R217, R219, R222): what the node's own packet touches -/

/-- A packet of the node's own at the local transport: the loop takes it, or it is counted as a stray. -/
theorem toInbox_own_only (c : Cargo) (s : State) : OnlyIn [.fab, .regs] s (toInbox 6 none c s) := by
  unfold toInbox
  rw [show leaveBuffer 6 none c (cntAdd 0x400138 1 s) = cntAdd 0x400138 1 s from rfl, if_pos (le_refl 6)]
  split
  · exact (cntAdd_only ..).sub (by decide)
  · exact (OnlyIn.refl _ s).upd_fab (by decide)

theorem deliverHere_own (c : Cargo) (s : State) : deliverHere 6 none c s = toInbox 6 none c s := by
  unfold deliverHere
  exact if_neg fun h => absurd h.1 (by decide)

/-- An unscheduled packet of the node's own reaches the local transport, is dropped and counted, or joins a port's queue. -/
theorem routePacket_own_cases (c : Cargo) (s : State) :
    routePacket 6 none c s = toInbox 6 none c s ∨ (∃ p, routePacket 6 none c s = portCnt p cUnroutable 1 s) ∨
      ∃ p f, routePacket 6 none c s = modPort p f s := by
  unfold routePacket
  dsimp only
  split
  · exact .inl (deliverHere_own c s)
  next p _ => exact .inr (.inl ⟨p, rfl⟩)
  next p vc _ =>
    rw [if_neg (show ¬ (6 < 6 ∧ _) from fun h => absurd h.1 (by decide))]
    exact .inr (.inr ⟨p, _, rfl⟩)

theorem routePacket_own_only (c : Cargo) (s : State) : OnlyIn [.fab, .regs] s (routePacket 6 none c s) := by
  obtain h | ⟨p, h⟩ | ⟨p, f, h⟩ := routePacket_own_cases c s
  · rw [h]; exact toInbox_own_only c s
  · rw [h]; exact (portCnt_only ..).sub (by decide)
  · rw [h]; exact (modPort_only ..).sub (by decide)

/-- The counters that a sent packet may move are STRAY and those of the ports, which lie at 0xB8 of their page. -/
theorem cnt_routePacket_own {o : Nat} (c : Cargo) (s : State) (ho : o % 256 ≠ 184) (ho' : o ≠ 0x400138) :
    cnt (routePacket 6 none c s) o = cnt s o := by
  obtain h | ⟨p, h⟩ | ⟨p, f, h⟩ := routePacket_own_cases c s
  · rw [h]
    unfold toInbox
    split
    · exact cnt_cntAdd_of_ne _ s ho'
    · rfl
  · rw [h]
    refine cnt_cntAdd_of_ne _ s fun heq => ho ?_
    rw [heq, portBase, cUnroutable]
    omega
  · rw [h]; rfl

/-- The areas that a packet of a half touches as it is sent. -/
def sendAreas : List Area := [.fab, .tap, .regs]

theorem sendCargo_own (part : Option Nat) {c : Cargo} {s : State} (h : c.packet.fab.static = false) :
    ∃ u, OnlyIn [.tap] s u ∧ sendCargo part c s = routePacket 6 none c u := by
  unfold sendCargo
  dsimp only
  rw [h]
  cases part with
  | none => exact ⟨s, .refl _ _, rfl⟩
  | some p => exact ⟨_, tapAdd_only .., rfl⟩

theorem connPacket_unscheduled (s : State) (c : Nat) (t : TrHdr) (payload : List Byte) : (connPacket s c t payload).fab.static = false := by
  unfold connPacket
  dsimp only
  split <;> rfl

theorem sendConn_own (c : Nat) (t : TrHdr) (payload : List Byte) {wrap : Packet → Cargo} (hw : ∀ p, (wrap p).packet = p) (s : State) :
    ∃ u cg, OnlyIn [.tap] s u ∧ sendConn c t payload wrap s = routePacket 6 none cg u := by
  obtain ⟨u, hu, heq⟩ := sendCargo_own (connPart (getConn s c)) (c := wrap (connPacket s c t payload)) (s := s)
    (by rw [hw]; exact connPacket_unscheduled ..)
  exact ⟨u, _, hu, heq⟩

theorem sendConn_own_only (c : Nat) (t : TrHdr) (payload : List Byte) {wrap : Packet → Cargo} (hw : ∀ p, (wrap p).packet = p) (s : State) :
    OnlyIn sendAreas s (sendConn c t payload wrap s) := by
  obtain ⟨u, cg, hu, heq⟩ := sendConn_own c t payload hw s
  rw [heq]
  exact (routePacket_own_only cg u).via (by decide) (hu.sub (by decide))

theorem cnt_sendConn {o : Nat} (c : Nat) (t : TrHdr) (payload : List Byte) {wrap : Packet → Cargo} (hw : ∀ p, (wrap p).packet = p) (s : State)
    (ho : o % 256 ≠ 184) (ho' : o ≠ 0x400138) : cnt (sendConn c t payload wrap s) o = cnt s o := by
  obtain ⟨u, cg, hu, heq⟩ := sendConn_own c t payload hw s
  rw [heq, cnt_routePacket_own cg u ho ho', cnt_of_regs (hu.regs_eq (by decide))]

theorem sendAck_sends (c : Nat) (top : BitVec 8) (psn : BitVec 24) (code delay : Nat) (s : State) :
    OnlyIn sendAreas s (sendAck c top psn code delay s) := sendConn_own_only c _ _ (fun _ => rfl) s

theorem sendResp_sends (c : Nat) (psn : BitVec 24) (t : BitVec 8) (m : RespMsg) (s : State) : OnlyIn sendAreas s (sendResp c psn t m s) :=
  sendConn_own_only c _ _ (fun _ => rfl) s

theorem sendAnswer_sends (c : Nat) (p : Packet) (m : Option RespMsg) (s : State) : OnlyIn sendAreas s (sendAnswer c p m s) := by
  cases m with
  | none => exact .refl _ _
  | some m => exact sendResp_sends ..

theorem respondRead_sends (c : Nat) (p : Packet) (data : List Byte) (s : State) : OnlyIn sendAreas s (respondRead c p data s) := by
  unfold respondRead
  exact .forEach _ _ fun _ _ => sendConn_own_only c _ _ (fun _ => rfl) _

theorem respondAdd_sends (c : Nat) (psn : BitVec 24) (t : BitVec 8) (old : BitVec 64) (s : State) : OnlyIn sendAreas s (respondAdd c psn t old s) :=
  sendConn_own_only c _ _ (fun _ => rfl) s

/-! ## Halves -/

theorem getConn_modConn (c n : Nat) (f : Conn → Conn) (s : State) : getConn (modConn c f s) n = if n = c then f (getConn s c) else getConn s n := by
  unfold modConn
  split
  next h => rw [h, getConn_setConn]
  next h => exact getConn_setConn_of_ne _ _ h

theorem getConn_modConn_self (c : Nat) (f : Conn → Conn) (s : State) : getConn (modConn c f s) c = f (getConn s c) := getConn_setConn ..

/-- The half of `t` has the fields of that of `s` which a request's service reads and no answer changes. -/
theorem advanceRx_rxPsn (c n : Nat) (s : State) : (getConn (advanceRx c n s) c).rxPsn = (getConn s c).rxPsn + BitVec.ofNat 24 n := by
  rw [advanceRx, getConn_modConn_self]

theorem advanceRx_addRecs (c n : Nat) (s : State) : (getConn (advanceRx c n s) c).addRecs = (getConn s c).addRecs := by
  rw [advanceRx, getConn_modConn_self]

theorem ackNow_frame (c : Nat) (s : State) : OnlyIn rxAreas s (ackNow c s) :=
  (sendAck_sends ..).via (by decide) ((modConn_only ..).sub (by decide))

theorem getConn_ackNow (c : Nat) (s : State) : getConn (ackNow c s) c = { getConn s c with unacked := 0 } := by
  rw [ackNow, getConn_of_rma ((sendAck_sends ..).rma_eq (by decide)), getConn_modConn_self]

/-- An applied packet changes of its half only what tells when the ACK is due. -/
structure OnlyAckDue (c : Nat) (s t : State) : Prop where
  frame : OnlyIn rxAreas s t
  counters : t.rma.counters = s.rma.counters
  rxPsn : (getConn t c).rxPsn = (getConn s c).rxPsn
  addRecs : (getConn t c).addRecs = (getConn s c).addRecs

theorem onlyAckDue_ackNow (c : Nat) (s : State) : OnlyAckDue c s (ackNow c s) where
  frame := ackNow_frame c s
  counters := by rw [ackNow, (sendAck_sends ..).rma_eq (by decide)]; rfl
  rxPsn := by rw [getConn_ackNow]
  addRecs := by rw [getConn_ackNow]

theorem OnlyAckDue.trans {c : Nat} {s t u : State} (h : OnlyAckDue c s t) (g : OnlyAckDue c t u) : OnlyAckDue c s u where
  frame := g.frame.via (List.Subset.refl _) h.frame
  counters := g.counters.trans h.counters
  rxPsn := g.rxPsn.trans h.rxPsn
  addRecs := g.addRecs.trans h.addRecs

/-- What a packet of the half changes as it is sent leaves every half as it was. -/
theorem OnlyAckDue.of_sends {c : Nat} {s t : State} (h : OnlyIn sendAreas s t) : OnlyAckDue c s t where
  frame := h.sub (by decide)
  counters := by rw [h.rma_eq (by decide)]
  rxPsn := by rw [getConn_of_rma (h.rma_eq (by decide))]
  addRecs := by rw [getConn_of_rma (h.rma_eq (by decide))]

theorem onlyAckDue_applied (c : Nat) (p : Packet) (s : State) : OnlyAckDue c s (applied c p s) := by
  have hcount (f : Conn → Conn) (hf : ∀ x : Conn, (f x).rxPsn = x.rxPsn ∧ (f x).addRecs = x.addRecs) : OnlyAckDue c s (modConn c f s) :=
    ⟨(modConn_only ..).sub (by decide), rfl, by rw [getConn_modConn_self, (hf _).1], by rw [getConn_modConn_self, (hf _).2]⟩
  unfold applied
  dsimp only
  split
  · refine OnlyAckDue.trans (hcount _ ?_) (onlyAckDue_ackNow ..)
    exact fun _ => ⟨rfl, rfl⟩
  · refine hcount _ ?_
    exact fun _ => ⟨rfl, rfl⟩

/-! ## The arrival of a packet (R277, steps 1 and 2) -/

theorem takeInbox_meterRx_only (port : Nat) (cg : Cargo) (part : Option Nat) (s : State) :
    OnlyIn [.fab, .tap] s (meterRx part cg.packet (takeInbox port cg s)) :=
  (meterRx_only ..).via (by decide) ((takeInbox_only ..).sub (by decide))

theorem arrived_only (port : Nat) (cg : Cargo) (c : Nat) (s : State) : OnlyIn [.rma, .fab, .tap] s (arrived port cg c s) :=
  (purgeRecs_only ..).via (by decide) ((touchCtx_only ..).via (by decide) ((takeInbox_meterRx_only ..).sub (by decide)))

/-- The half that heard the packet, with the records that CPSN has passed forgotten. -/
def purged (cpsn : BitVec 24) (x : Conn) : Conn :=
  let old (p : BitVec 24) : Bool := p != cpsn && decide ((cpsn - p).toNat < 2 ^ 23)
  { x with errRecs := x.errRecs.filter fun r => !old r.1, addRecs := x.addRecs.filter fun r => !old r.1 }

theorem getConn_arrived (port : Nat) (cg : Cargo) (c : Nat) (s : State) :
    getConn (arrived port cg c s) c = purged cg.packet.tr.cpsn (getConn s c) := by
  rw [arrived, purgeRecs, getConn_modConn_self, getConn_touchCtx, getConn_of_rma ((takeInbox_meterRx_only ..).rma_eq (by decide))]
  rfl

theorem arrived_regions (port : Nat) (cg : Cargo) (c : Nat) (s : State) : (arrived port cg c s).rma.regions = s.rma.regions := by
  rw [show (arrived port cg c s).rma.regions = (meterRx (connPart (getConn s c)) cg.packet (takeInbox port cg s)).rma.regions from rfl,
    ((takeInbox_meterRx_only ..).rma_eq (by decide))]

theorem arrived_counters (port : Nat) (cg : Cargo) (c : Nat) (s : State) : (arrived port cg c s).rma.counters = s.rma.counters := by
  rw [show (arrived port cg c s).rma.counters = (meterRx (connPart (getConn s c)) cg.packet (takeInbox port cg s)).rma.counters from rfl,
    ((takeInbox_meterRx_only ..).rma_eq (by decide))]

theorem arrived_waiters (port : Nat) (cg : Cargo) (c : Nat) (s : State) : (arrived port cg c s).rma.waiters = s.rma.waiters := by
  rw [show (arrived port cg c s).rma.waiters = (meterRx (connPart (getConn s c)) cg.packet (takeInbox port cg s)).rma.waiters from rfl,
    ((takeInbox_meterRx_only ..).rma_eq (by decide))]

theorem takeInbox_halted (port : Nat) (cg : Cargo) (s : State) : (takeInbox port cg s).tap.halted = s.tap.halted := by
  rw [(takeInbox_only ..).tap_eq (by decide)]

theorem arrived_halted (port : Nat) (cg : Cargo) (c : Nat) (s : State) : (arrived port cg c s).tap.halted = s.tap.halted := by
  have hmeter (part : Option Nat) (p : Packet) (t : State) : (meterRx part p t).tap.halted = t.tap.halted := by
    cases part with
    | none => rfl
    | some k =>
      unfold meterRx tapAdd
      dsimp only
      split <;> rfl
  exact (hmeter _ _ _).trans (takeInbox_halted ..)

theorem getRegion_arrived (port : Nat) (cg : Cargo) (c : Nat) (s : State) (i : Nat) : getRegion (arrived port cg c s) i = getRegion s i := by
  rw [getRegion, arrived_regions, ← getRegion]

/-- The key check reads the region table and what the half belongs to. -/
theorem keyCheck_arrived (port : Nat) (cg : Cargo) (c : Nat) (s : State) (p : Packet) :
    keyCheck (arrived port cg c s) (getConn (arrived port cg c s) c) p = keyCheck s (getConn s c) p := by
  rw [getConn_arrived]
  unfold keyCheck
  rw [getRegion_arrived]
  rfl

theorem openPacket_plain {s : State} {c : Nat} {p : Packet} (h : (getConn s c).enc = false) : openPacket s c p = some p.payload := by
  simp [openPacket, h]

theorem withPacket_self (cg : Cargo) : cg.withPacket { cg.packet with payload := cg.packet.payload } = cg := by cases cg <;> rfl

/-- A half that hears a packet does its part on the state of the arrival. -/
theorem rxOn_of_hears {s : State} {p : Packet} {c : Nat} (h : Hears s p c) (port : Nat) {cg : Cargo} (hp : cg.packet = p) (queue : Bool)
    (act : Nat → Cargo → State → State) : rxOn port cg queue act s = act c cg (arrived port cg c s) := by
  subst hp
  have henc : (getConn (touchCtx c (meterRx (connPart (getConn s c)) cg.packet (takeInbox port cg s))) c).enc = false := by
    rw [getConn_touchCtx, getConn_of_rma ((takeInbox_meterRx_only ..).rma_eq (by decide)), h.plain]
  unfold rxOn
  dsimp only
  rw [← h.conn, if_neg (by simp [h.serves]), if_neg (by simp [h.isOpen, h.peer]), if_neg (by simp [h.cache]), if_neg (by simp [h.idle]),
    openPacket_plain henc]
  dsimp only
  rw [withPacket_self]
  rfl

/-- A request's row at a half that hears it, before the sequence is looked at. -/
theorem rxRequest_of_hears {s : State} {p : Packet} {c : Nat} (h : Hears s p c) (port : Nat) {cg : Cargo} (hp : cg.packet = p)
    (fresh : Nat → Cargo → State → State) :
    (p.tr.psn = (getConn s c).rxPsn → rxRequest port cg fresh s = fresh c cg (arrived port cg c s)) ∧
    (0 < (p.tr.psn - (getConn s c).rxPsn).toNat → (p.tr.psn - (getConn s c).rxPsn).toNat < 2 ^ 23 → (getConn s c).nakSeqSent = true →
      rxRequest port cg fresh s = arrived port cg c s) ∧
    (0 < (p.tr.psn - (getConn s c).rxPsn).toNat → (p.tr.psn - (getConn s c).rxPsn).toNat < 2 ^ 23 → (getConn s c).nakSeqSent = false →
      rxRequest port cg fresh s = sendAck c 0x09 ((getConn s c).rxPsn - 1) nakSeq 0
        (rmaCnt cSeqNaks 1 (modConn c (fun x => { x with nakSeqSent := true, unacked := 0 }) (arrived port cg c s)))) ∧
    (2 ^ 23 ≤ (p.tr.psn - (getConn s c).rxPsn).toNat → rxRequest port cg fresh s = duplicate port c cg (arrived port cg c s)) := by
  subst hp
  have hheld : (getConn (arrived port cg c s) c).held = none := by rw [getConn_arrived]; exact h.free
  have hstate : (getConn (arrived port cg c s) c).state = .open_ := by rw [getConn_arrived]; exact h.isOpen
  have hrx : (getConn (arrived port cg c s) c).rxPsn = (getConn s c).rxPsn := by rw [getConn_arrived]; rfl
  have hnak : (getConn (arrived port cg c s) c).nakSeqSent = (getConn s c).nakSeqSent := by rw [getConn_arrived]; rfl
  unfold rxRequest
  rw [rxOn_of_hears h port rfl]
  dsimp only
  rw [hheld, hstate, hrx, hnak, if_neg (by decide)]
  refine ⟨fun hd => ?_, fun hd hlt hn => ?_, fun hd hlt hn => ?_, fun hd => ?_⟩
  · rw [if_pos (by simp [hd]), if_neg (by decide)]
  · rw [if_neg (by omega), if_pos hlt, if_pos hn]
  · rw [if_neg (by omega), if_pos hlt, if_neg (by simp [hn])]
  · rw [if_neg (by omega), if_neg (by omega)]

theorem rxRow_of_top {port top : Nat} {p : Packet} (h : topIs p top = true) (f : Nat → Cargo → State → State) (s : State) :
    rxRow port p top f s = .next (f port (.pkt p) s) := by rw [rxRow, if_pos h]

theorem Hears.topIs {s : State} {p : Packet} {c top : Nat} (h : Hears s p c) (ht : p.tr.top.toNat = top) : topIs p top = true := by
  simp [Machine.topIs, ht, h.withConn]

end Sys2Proof.Machine

namespace Sys2Proof.Machine

open Sys2Proof

/-! ## Packets that a half may not take (R270, R277) -/

theorem arrives_of_request {i : Instr} {s : State} {port : Nat} {cg : Cargo} {fresh : Nat → Cargo → State → State}
    (h : exec i s = .next (rxRequest port cg fresh s)) : ∃ queue act, exec i s = .next (rxOn port cg queue act s) := ⟨_, _, h⟩

/-- A row of a packet without a message is the arrival of the packet at its half. -/
theorem exec_packetRow {port top : Nat} {i : Instr} {p : Packet} (s : State) (hi : (top, i) ∈ packetRows port p) (ht : topIs p top = true) :
    ∃ queue act, exec i s = .next (rxOn port (.pkt p) queue act s) := by
  simp only [packetRows, List.mem_cons, List.not_mem_nil, or_false, Prod.mk.injEq] at hi
  obtain ⟨rfl, rfl⟩ | ⟨rfl, rfl⟩ | ⟨rfl, rfl⟩ | ⟨rfl, rfl⟩ | ⟨rfl, rfl⟩ | ⟨rfl, rfl⟩ | ⟨rfl, rfl⟩ | ⟨rfl, rfl⟩ | ⟨rfl, rfl⟩ | ⟨rfl, rfl⟩ := hi
  · exact arrives_of_request (rxRow_of_top ht rxWritePkt s)
  · exact arrives_of_request (rxRow_of_top ht rxReadPkt s)
  · exact ⟨_, _, rxRow_of_top ht rxReadRespPkt s⟩
  · exact arrives_of_request (rxRow_of_top ht rxReadPkt s)
  · exact ⟨_, _, rxRow_of_top ht rxAddRespPkt s⟩
  · exact arrives_of_request (rxRow_of_top ht rxSignalPkt s)
  · exact ⟨_, _, rxRow_of_top ht rxAckPkt s⟩
  · exact ⟨_, _, rxRow_of_top ht rxNakPkt s⟩
  · exact ⟨_, _, rxRow_of_top ht rxHoldPkt s⟩
  · exact ⟨_, _, rxRow_of_top ht rxRetryPkt s⟩

theorem rxOn_of_stray {port : Nat} {cg : Cargo} {queue : Bool} {act : Nat → Cargo → State → State} {s : State} (hs : serving s = true)
    (h : (getConn s (cg.packet.tr.dconn % 2 ^ 20)).state = .free ∨ cg.packet.fab.src ≠ (getConn s (cg.packet.tr.dconn % 2 ^ 20)).peerNode) :
    rxOn port cg queue act s = rmaCnt cStray 1 (takeInbox port cg s) := by
  unfold rxOn
  dsimp only
  rw [if_neg (by simp [hs]), if_pos h]

theorem rxOn_of_missing {port : Nat} {cg : Cargo} {queue : Bool} {act : Nat → Cargo → State → State} {s : State} (hs : serving s = true)
    (hf : (getConn s (cg.packet.tr.dconn % 2 ^ 20)).state ≠ .free)
    (hp : cg.packet.fab.src = (getConn s (cg.packet.tr.dconn % 2 ^ 20)).peerNode) (hc : cached s (cg.packet.tr.dconn % 2 ^ 20) = false) :
    rxOn port cg queue act s = parkPacket port (cg.packet.tr.dconn % 2 ^ 20) cg s := by
  unfold rxOn
  dsimp only
  rw [if_neg (by simp [hs]), if_neg (not_or.2 ⟨hf, not_not.2 hp⟩), if_pos (by rw [hc]; rfl)]

/-- Taking a packet from its buffer leaves every miss queue. -/
theorem takeInbox_missq (port : Nat) (cg : Cargo) (s : State) (q : Nat) : (getPort (takeInbox port cg s) q).missq = (getPort s q).missq := by
  unfold takeInbox
  dsimp only
  split
  · rfl
  split
  · rfl
  next e _ =>
    have hset : (getPort (setPort port { getPort s port with inbox := (getPort s port).inbox.erase e } s) q).missq = (getPort s q).missq := by
      by_cases hq : q = port
      · rw [hq, getPort_setPort]
      · rw [getPort_setPort_of_ne _ _ hq]
    unfold leaveBuffer returnCredit
    dsimp only
    split
    · exact hset
    refine Eq.trans ?_ hset
    by_cases hq : q = port
    · rw [hq, getPort_modPort]
      split <;> rfl
    · rw [getPort_modPort_of_ne _ _ hq]

theorem fetching_fetchCtx (c : Nat) (s : State) : (getConn (fetchCtx c s) c).fetching = true := by
  unfold fetchCtx
  split
  next h => exact h
  · rw [getConn_of_rma ((rmaCnt_only ..).rma_eq (by decide)), getConn_modConn_self]

theorem parkPacket_parks {port c : Nat} {cg : Cargo} {s : State} (hp : port < 6) (hm : (getPort s port).missq.length < 64) :
    (getPort (parkPacket port c cg s) port).missq.getLast? = some (c, cg) ∧ (getConn (parkPacket port c cg s) c).fetching = true := by
  unfold parkPacket
  dsimp only
  rw [if_neg (by omega), if_neg (by omega)]
  refine ⟨?_, fetching_fetchCtx ..⟩
  rw [getPort_of_fab ((fetchCtx_only ..).fab_eq (by decide)), takeInbox_missq, getPort_modPort]
  simp

/-! ## Requests that a half does not apply (R277, R282) -/

theorem freshWrite_of_halted {port c : Nat} {p : Packet} {a : State} (hf : p.tr.first = true) (hh : a.tap.halted = true) :
    freshWrite port c (.pkt p) a = reject c p.tr.psn (pktPsns p) nakMetering a := by
  unfold freshWrite
  exact (if_pos hf).trans (if_pos hh)

theorem freshRead_of_halted {port c : Nat} {p : Packet} {a : State} (hh : a.tap.halted = true) :
    freshRead port c (.pkt p) a = reject c p.tr.psn (pktPsns p) nakMetering a := if_pos hh

theorem freshSignal_of_halted {c : Nat} {p : Packet} {a : State} (hh : a.tap.halted = true) :
    freshSignal c (.pkt p) a = reject c p.tr.psn 1 nakMetering a := if_pos hh

/-- What a request with a wrong key or range does. -/
def turnAway (c : Nat) (p : Packet) (code : Nat) (a : State) : State := violation c p code (reject c p.tr.psn (pktPsns p) code a)

theorem freshWrite_of_violation {port c : Nat} {p : Packet} {a : State} (hf : p.tr.first = true) (hh : a.tap.halted = false)
    (hk : keyCheck a (getConn a c) p ≠ 0) (hroom : (getConn a c).errRecs.length < 8) :
    freshWrite port c (.pkt p) a = turnAway c p (keyCheck a (getConn a c) p) a := by
  unfold freshWrite
  refine (if_pos hf).trans ((if_neg (by simp [hh])).trans ?_)
  split
  next h0 => exact absurd h0 hk
  next => exact if_neg (by omega)

theorem freshRead_of_violation {port c : Nat} {p : Packet} {a : State} (hh : a.tap.halted = false) (hk : keyCheck a (getConn a c) p ≠ 0)
    (hroom : (getConn a c).errRecs.length < 8) : freshRead port c (.pkt p) a = turnAway c p (keyCheck a (getConn a c) p) a := by
  unfold freshRead
  refine (if_neg (by simp [hh])).trans ?_
  split
  next h0 => exact absurd h0 hk
  next => exact if_neg (by omega)

/-- A request's row, and what its service does with one that metering or its key turns away. -/
structure ServesRequest (port top : Nat) (i : Instr) (p : Packet) (fresh : Nat → Cargo → State → State) : Prop where
  row : ∀ s, topIs p top = true → exec i s = .next (rxRequest port (.pkt p) fresh s)
  halted : ∀ c a, p.tr.top.toNat = top → (top = 0x01 → p.tr.first = true) → a.tap.halted = true →
    fresh c (.pkt p) a = reject c p.tr.psn (pktPsns p) nakMetering a
  violates : ∀ c a, top ≠ 0x06 → (top = 0x01 → p.tr.first = true) → a.tap.halted = false → keyCheck a (getConn a c) p ≠ 0 →
    (getConn a c).errRecs.length < 8 → fresh c (.pkt p) a = turnAway c p (keyCheck a (getConn a c) p) a

theorem servesRead (port top : Nat) (i : Instr) (p : Packet) (h : ∀ s, exec i s = rxRow port p top rxReadPkt s) :
    ServesRequest port top i p (freshRead port) where
  row s ht := (h s).trans (rxRow_of_top ht rxReadPkt s)
  halted _ _ _ _ := freshRead_of_halted
  violates _ _ _ _ := freshRead_of_violation

theorem exec_requestRx {port top : Nat} {i : Instr} {p : Packet} (hi : (top, i) ∈ requestRx port p) : ∃ fresh, ServesRequest port top i p fresh := by
  simp only [requestRx, List.mem_cons, List.not_mem_nil, or_false, Prod.mk.injEq] at hi
  obtain ⟨rfl, rfl⟩ | ⟨rfl, rfl⟩ | ⟨rfl, rfl⟩ | ⟨rfl, rfl⟩ := hi
  · exact ⟨freshWrite port, fun s ht => rxRow_of_top ht rxWritePkt s, fun _ _ _ hf => freshWrite_of_halted (hf rfl),
      fun _ _ _ hf => freshWrite_of_violation (hf rfl)⟩
  · exact ⟨_, servesRead port _ _ p fun _ => rfl⟩
  · exact ⟨_, servesRead port _ _ p fun _ => rfl⟩
  · refine ⟨freshSignal, fun s ht => rxRow_of_top ht rxSignalPkt s, fun c a ht _ hh => ?_, fun _ _ h6 => absurd rfl h6⟩
    have htop : p.tr.top = 0x06 := BitVec.eq_of_toNat_eq ht
    rw [freshSignal_of_halted hh, pktPsns, htop, if_neg (by decide)]

theorem toNat_sub_eq_zero {x y : BitVec 24} (h : (x - y).toNat = 0) : x = y := by bv_omega

/-- Settles O37: the arrival's cases in their order, then the request's by its distance from the expected sequence. -/
theorem wrongPacketsAreTurnedAway : Obligations.WrongPacketsAreTurnedAway := by
  unfold Obligations.WrongPacketsAreTurnedAway
  refine ⟨fun top port c i p s hi ht hs hc => ?_, fun top port c d i p a s hi ht h ha hd => ?_⟩
  · subst hc
    obtain ⟨queue, act, hexec⟩ := exec_packetRow s hi ht
    rw [hexec]
    refine ⟨fun hstray => ⟨?_, ?_, ?_⟩, fun hf hp hmiss => ⟨?_, fun hport hroom => parkPacket_parks hport hroom⟩⟩
    · exact congrArg Host.Outcome.next (rxOn_of_stray hs hstray)
    · rw [(rmaCnt_only ..).rma_eq (by decide), (takeInbox_only ..).rma_eq (by decide)]
    · rw [(rmaCnt_only ..).mem_eq (by decide), (takeInbox_only ..).mem_eq (by decide)]
    · exact congrArg Host.Outcome.next (rxOn_of_missing hs hf hp hmiss)
  · subst ha hd
    obtain ⟨fresh, hfresh⟩ := exec_requestRx hi
    obtain ⟨hnow, hknown, hahead, hbehind⟩ := rxRequest_of_hears h port (cg := .pkt p) rfl fresh
    rw [hfresh.row s (h.topIs ht)]
    refine ⟨fun h0 hlt hn => ?_, fun h0 hlt hn => ?_, fun hd => ?_, fun h0 hf hh => ?_, fun h0 h6 hf hh hk hroom => ?_⟩
    · rw [hknown h0 hlt hn]
    · rw [hahead h0 hlt hn]
    · rw [hbehind hd]
    · rw [hnow (toNat_sub_eq_zero h0), hfresh.halted c _ ht hf (by rw [arrived_halted, hh])]
    · have haway := hfresh.violates c (arrived port (.pkt p) c s) h6 hf (by rw [arrived_halted, hh]) (by rw [keyCheck_arrived]; exact hk) hroom
      rw [keyCheck_arrived] at haway
      refine ⟨by rw [hnow (toNat_sub_eq_zero h0), haway]; rfl, ?_⟩
      rw [(violation_only ..).mem_eq (by decide), (reject_only ..).mem_eq (by decide), (arrived_only ..).mem_eq (by decide)]

end Sys2Proof.Machine

namespace Sys2Proof.Machine

open Sys2Proof

/-! ## Regions of local memory without paging (R271) -/

theorem absentPage_of_plain {s : State} {r : Region} (h : r.paging = 0) (off n : Nat) : absentPage s r off n = none := if_pos (.inl h)

theorem regionSpans_of_plain {r : Region} (h : r.paging = 0) (s t : State) (off n : Nat) : regionSpans s r off n = regionSpans t r off n := by
  simp [regionSpans, h]

theorem spansBad_of_local {s : State} {r : Region} (h : r.space = 0) (sp : List (Nat × Nat)) : spansBad s r sp = false := by simp [spansBad, h]

theorem writeSpans_of_local {r : Region} (h : r.space = 0) (a n : Nat) (l : List (Nat × Nat)) (bs : List Byte) (s : State) :
    writeSpans r ((a, n) :: l) bs s = writeSpans r l (bs.drop n) (writeMem a (slice bs 0 n) s) := by
  rw [writeSpans, if_pos h]

theorem writeSpans_local_only {r : Region} (h : r.space = 0) (l : List (Nat × Nat)) (bs : List Byte) (s : State) :
    OnlyIn [.mem, .cells] s (writeSpans r l bs s) := by
  induction l generalizing bs s with
  | nil => exact .refl _ _
  | cons e l ih =>
    rw [writeSpans_of_local h]
    exact (ih ..).via (List.Subset.refl _) (writeMem_only ..)

theorem readByte_writeSpans_of_outside {r : Region} (h : r.space = 0) {l : List (Nat × Nat)} {b : Nat} (hb : outside l b) (bs : List Byte) {s : State}
    (hm : memOk s) : readByte (writeSpans r l bs s) b = readByte s b := by
  induction l generalizing bs s with
  | nil => rfl
  | cons e l ih =>
    rw [writeSpans_of_local h, ih (fun x hx => hb x (.tail _ hx)) _ (memOk_writeMem _ _ hm),
      readByte_writeMem_of_outside _ _ hm (by rw [length_slice]; exact hb e (.head _))]

theorem getD_slice_zero {bs : List Byte} {n i : Nat} (hi : i < n) (hn : n ≤ bs.length) : (slice bs 0 n).getD i 0 = bs.getD i 0 := by
  have hlen : (bs.take n).length = n := by rw [List.length_take]; omega
  have hin : i < bs.length := by omega
  simp [slice, List.getD_eq_getElem?_getD, hlen, hi, hin]

/-- A store that lies in one span puts its bytes there. -/
theorem readByte_writeSpans_at {r : Region} (h : r.space = 0) {d n i : Nat} {bs : List Byte} {s : State} (hm : memOk s) (hd : d + n ≤ memSize)
    (hi : i < n) (hn : n ≤ bs.length) : readByte (writeSpans r [(d, n)] bs s) (d + i) = bs.getD i 0 := by
  rw [writeSpans_of_local h, writeSpans, readByte_writeMem_at _ _ _ hm (by rw [length_slice]; exact hi) (by rw [length_slice]; exact hd),
    getD_slice_zero hi hn]

/-! ## Applying a request (R277, steps 6 to 9) -/

/-- The operation that a FIRST packet of a WRITE opens. -/
def openedWrite (p : Packet) : Rest :=
  { first := p.tr.psn, psns := pktPsns p, rkey := p.tr.rkey, off := p.tr.raddr.toNat, left := p.tr.total.toNat }

theorem freshWrite_of_good {port c : Nat} {p : Packet} {a : State} (hf : p.tr.first = true) (hh : a.tap.halted = false)
    (hk : keyCheck a (getConn a c) p = 0) : freshWrite port c (.pkt p) a = serveWrite port c (.pkt p) (openedWrite p) a := by
  unfold freshWrite
  refine (if_pos hf).trans ((if_neg (by simp [hh])).trans ?_)
  split
  · rfl
  next h0 => exact absurd hk h0

theorem freshRead_of_good {port c : Nat} {p : Packet} {a : State} (hh : a.tap.halted = false)
    (hk : keyCheck a (getConn a c) p = 0) : freshRead port c (.pkt p) a = serveRead port c (.pkt p) false a := by
  unfold freshRead
  refine (if_neg (by simp [hh])).trans ?_
  split
  · rfl
  next h0 => exact absurd hk h0

/-- What a packet of a WRITE in a local region stores. -/
def storedWrite (p : Packet) (o : Rest) (r : Region) (a : State) : State :=
  writeSpans r (regionSpans a r o.off (min p.payload.length o.left)) (p.payload.take (min p.payload.length o.left)) a

theorem serveWrite_of_local {port c : Nat} {p : Packet} {o : Rest} {r : Region} {a : State} (hr : getRegion a (o.rkey.toNat % 65536) = r)
    (hpage : r.paging = 0) (hspace : r.space = 0) :
    ∃ rest, serveWrite port c (.pkt p) o a = applied c p (modConn c (fun x => { x with rest := rest }) (advanceRx c 1 (storedWrite p o r a))) := by
  subst hr
  unfold serveWrite
  dsimp only
  rw [absentPage_of_plain hpage, spansBad_of_local hspace]
  exact ⟨_, if_neg (by decide)⟩

theorem serveRead_of_data {port c : Nat} {p : Packet} {r : Region} {a : State} {bs : List Byte} {n : Nat}
    (hr : getRegion a (p.tr.rkey.toNat % 65536) = r) (hpage : r.paging = 0) (hspace : r.space = 0)
    (hn : (if p.tr.top = 0x04 then 8 else p.tr.total.toNat) = n) (hroom : p.tr.top = 0x04 → (getConn a c).addRecs.length < 16)
    (hb : readSpans a (regionSpans a r p.tr.raddr.toNat n) = .data bs) : serveRead port c (.pkt p) false a = answerRead c p bs false a := by
  subst hr hn
  unfold serveRead
  simp only [Cargo.packet, absentPage_of_plain hpage, spansBad_of_local hspace, hspace]
  rw [if_neg fun h => absurd h.2.1 (Nat.not_le.2 (hroom h.1)), if_neg (by decide), if_neg (by decide)]
  split
  next b heq => rw [MemRead.data.inj (hb.symm.trans heq)]
  next hno => exact absurd hb (hno bs)

/-- An expected request at a half that hears it. -/
theorem exec_of_expected {port c : Nat} {p : Packet} {s : State} {i : Instr} {fresh : Nat → Cargo → State → State} (h : Hears s p c)
    (hpsn : p.tr.psn = (getConn s c).rxPsn) (hrow : exec i s = .next (rxRequest port (.pkt p) fresh s)) :
    exec i s = .next (fresh c (.pkt p) (arrived port (.pkt p) c s)) := by
  rw [hrow, (rxRequest_of_hears h port rfl fresh).1 hpsn]

/-- What an applied WRITE, ADD or SIGNAL leaves: memory or counters as stored, and its half past the packet. -/
structure Applies (c n : Nat) (stored t : State) : Prop where
  frame : OnlyIn rxAreas stored t
  counters : t.rma.counters = stored.rma.counters
  rxPsn : (getConn t c).rxPsn = (getConn stored c).rxPsn + BitVec.ofNat 24 n

theorem applies_advanceRx (c n : Nat) (s : State) : Applies c n s (advanceRx c n s) :=
  ⟨(advanceRx_only ..).sub (by decide), rfl, advanceRx_rxPsn ..⟩

theorem Applies.andThen {c n : Nat} {s t u : State} (h : Applies c n s t) (g : OnlyAckDue c t u) : Applies c n s u :=
  ⟨g.frame.via (List.Subset.refl _) h.frame, g.counters.trans h.counters, g.rxPsn.trans h.rxPsn⟩

/-- A change of the half that leaves its sequence. -/
theorem Applies.modConn {c n : Nat} {s t : State} (h : Applies c n s t) {f : Conn → Conn} (hf : ∀ x, (f x).rxPsn = x.rxPsn) :
    Applies c n s (Machine.modConn c f t) :=
  ⟨(modConn_only ..).via (by decide) h.frame, h.counters, by rw [getConn_modConn_self, hf]; exact h.rxPsn⟩

/-- The half past the packet, seen from the state before its arrival. -/
theorem rxPsn_of_applies {port c n : Nat} {cg : Cargo} {s u t : State} {psn : BitVec 24} (h : Applies c n u t)
    (hu : getConn u c = getConn (arrived port cg c s) c) (hpsn : psn = (getConn s c).rxPsn) : (getConn t c).rxPsn = psn + BitVec.ofNat 24 n := by
  rw [h.rxPsn, hu, getConn_arrived, hpsn]
  rfl

theorem exec_expectedWrite {port c : Nat} {p : Packet} {s : State} (h : Hears s p c) (hpsn : p.tr.psn = (getConn s c).rxPsn)
    (hh : s.tap.halted = false) (ht : p.tr.top = 0x01) (hf : p.tr.first = true) (hk : keyCheck s (getConn s c) p = 0)
    (hpage : (getRegion s (p.tr.rkey.toNat % 65536)).paging = 0) (hspace : (getRegion s (p.tr.rkey.toNat % 65536)).space = 0) :
    ∃ t, exec (.rxWrite port p) s = .next t ∧
      Applies c 1 (storedWrite p (openedWrite p) (getRegion s (p.tr.rkey.toNat % 65536)) (arrived port (.pkt p) c s)) t := by
  obtain ⟨rest, hserve⟩ := serveWrite_of_local (port := port) (c := c) (p := p) (o := openedWrite p) (a := arrived port (.pkt p) c s)
    (getRegion_arrived ..) hpage hspace
  have hrow : exec (.rxWrite port p) s = .next (rxRequest port (.pkt p) (freshWrite port) s) :=
    rxRow_of_top (h.topIs (by rw [ht]; rfl)) rxWritePkt s
  have hgood : freshWrite port c (.pkt p) (arrived port (.pkt p) c s) = _ :=
    freshWrite_of_good hf (by rw [arrived_halted, hh]) (by rw [keyCheck_arrived, hk])
  refine ⟨_, (exec_of_expected h hpsn hrow).trans (congrArg Host.Outcome.next (hgood.trans hserve)), ?_⟩
  refine Applies.andThen (Applies.modConn (applies_advanceRx ..) ?_) (onlyAckDue_applied ..)
  exact fun _ => rfl

theorem exec_expectedRead {port c : Nat} {p : Packet} {s : State} {bs : List Byte} (h : Hears s p c) (hpsn : p.tr.psn = (getConn s c).rxPsn)
    (hh : s.tap.halted = false) (ht : p.tr.top = 0x02) (hk : keyCheck s (getConn s c) p = 0)
    (hpage : (getRegion s (p.tr.rkey.toNat % 65536)).paging = 0) (hspace : (getRegion s (p.tr.rkey.toNat % 65536)).space = 0)
    (hb : readSpans (arrived port (.pkt p) c s)
      (regionSpans (arrived port (.pkt p) c s) (getRegion s (p.tr.rkey.toNat % 65536)) p.tr.raddr.toNat p.tr.total.toNat) = .data bs) :
    exec (.rxReadReq port p) s = .next (applied c p (respondRead c p bs (advanceRx c (pktPsns p) (arrived port (.pkt p) c s)))) := by
  have hrow : exec (.rxReadReq port p) s = .next (rxRequest port (.pkt p) (freshRead port) s) :=
    rxRow_of_top (h.topIs (by rw [ht]; rfl)) rxReadPkt s
  rw [exec_of_expected h hpsn hrow, freshRead_of_good (by rw [arrived_halted, hh]) (by rw [keyCheck_arrived, hk]), serveRead_of_data (getRegion_arrived ..) hpage hspace (by rw [ht, if_neg (by decide)]) (by rw [ht]; exact fun h4 => absurd h4 (by decide)) hb]
  unfold answerRead
  rw [if_pos ht, if_neg (by decide)]

/-- The bytes that an ADD stores where it read `bs`. -/
def sumBytes (p : Packet) (bs : List Byte) : List Byte := leBytes 8 (BitVec.ofNat 64 (fld bs 0 8) + BitVec.ofNat 64 (fld p.payload 0 8)).toNat

/-- The half remembers the value before the add. -/
def rememberOld (c : Nat) (p : Packet) (bs : List Byte) (s : State) : State :=
  modConn c (fun x => { x with addRecs := x.addRecs ++ [(p.tr.psn, BitVec.ofNat 64 (fld bs 0 8))] }) (advanceRx c 1 s)

theorem applies_rememberOld (c : Nat) (p : Packet) (bs : List Byte) (s : State) : Applies c 1 s (rememberOld c p bs s) := by
  refine Applies.modConn (applies_advanceRx c 1 s) ?_
  exact fun _ => rfl

theorem exec_expectedAdd {port c : Nat} {p : Packet} {s : State} {bs : List Byte} (h : Hears s p c) (hpsn : p.tr.psn = (getConn s c).rxPsn)
    (hh : s.tap.halted = false) (ht : p.tr.top = 0x04) (hk : keyCheck s (getConn s c) p = 0)
    (hpage : (getRegion s (p.tr.rkey.toNat % 65536)).paging = 0) (hspace : (getRegion s (p.tr.rkey.toNat % 65536)).space = 0)
    (hroom : (getConn (arrived port (.pkt p) c s) c).addRecs.length < 16)
    (hb : readSpans (arrived port (.pkt p) c s)
      (regionSpans (arrived port (.pkt p) c s) (getRegion s (p.tr.rkey.toNat % 65536)) p.tr.raddr.toNat 8) = .data bs) :
    exec (.rxAddReq port p) s = .next (applied c p (respondAdd c p.tr.psn p.tr.try_ (BitVec.ofNat 64 (fld bs 0 8)) (rememberOld c p bs
      (writeSpans (getRegion s (p.tr.rkey.toNat % 65536))
        (regionSpans (arrived port (.pkt p) c s) (getRegion s (p.tr.rkey.toNat % 65536)) p.tr.raddr.toNat 8) (sumBytes p bs)
        (arrived port (.pkt p) c s))))) := by
  have hrow : exec (.rxAddReq port p) s = .next (rxRequest port (.pkt p) (freshRead port) s) :=
    rxRow_of_top (h.topIs (by rw [ht]; rfl)) rxReadPkt s
  rw [exec_of_expected h hpsn hrow, freshRead_of_good (by rw [arrived_halted, hh]) (by rw [keyCheck_arrived, hk]), serveRead_of_data (getRegion_arrived ..) hpage hspace (by rw [ht, if_pos rfl]) (fun _ => hroom) hb]
  unfold answerRead
  rw [if_neg (by rw [ht]; decide), getRegion_arrived]
  rfl

theorem addStatus_arrived (port : Nat) (cg : Cargo) (c : Nat) (s : State) (part i n : Nat) (acked : Bool) :
    addStatus (arrived port cg c s) part i n acked = addStatus s part i n acked := by
  have hcnt : getCnt (arrived port cg c s) i = getCnt s i := by simp only [getCnt, arrived_counters]
  simp only [addStatus, hcnt, cntBound_of_act ((arrived_only port cg c s).act_eq (by decide)), cntOwned_of_act ((arrived_only port cg c s).act_eq (by decide))]

theorem exec_expectedSignal {port c : Nat} {p : Packet} {s : State} {i n : Nat} (h : Hears s p c) (hpsn : p.tr.psn = (getConn s c).rxPsn)
    (hh : s.tap.halted = false) (ht : p.tr.top = 0x06) (hi : i = p.tr.total.toNat % 65536) (hn : n = fld p.payload 0 8)
    (hbit : bit p.tr.total.toNat 16 = false)
    (hok : addStatus s (if (getConn s c).mgmt then 64 else (getConn s c).part) i n false = .ok) (hw : ∀ w ∈ s.rma.waiters, w.counter ≠ i) :
    exec (.rxSignal port p) s = .next (applied c p (advanceRx c 1 (counted i n (arrived port (.pkt p) c s)))) := by
  subst hi hn
  have hrow : exec (.rxSignal port p) s = .next (rxRequest port (.pkt p) freshSignal s) := rxRow_of_top (h.topIs (by rw [ht]; rfl)) rxSignalPkt s
  have hok' : addStatus (arrived port (.pkt p) c s) (if (getConn (arrived port (.pkt p) c s) c).mgmt = true then 64
      else (getConn (arrived port (.pkt p) c s) c).part) (p.tr.total.toNat % 65536) (fld p.payload 0 8) false = .ok := by
    rw [addStatus_arrived, getConn_arrived]
    exact hok
  rw [exec_of_expected h hpsn hrow]
  unfold freshSignal
  simp only [Cargo.packet, arrived_halted, hh, hbit, hok']
  rw [if_neg (by decide), addCounter_of_ok hok' (by rw [arrived_waiters]; exact hw)]

/-- Settles O38: each request's row is its application on the state of the arrival, and the application stores, answers and counts. -/
theorem expectedRequestsAreApplied : Obligations.ExpectedRequestsAreApplied := by
  unfold Obligations.ExpectedRequestsAreApplied
  intro port c p r a s h hpsn hh ha hr
  subst ha hr
  have harr := arrived_only port (.pkt p) c s
  have hbytes (b : Nat) : readByte (arrived port (.pkt p) c s) b = readByte s b := readByte_of_cells (harr.cells_eq (by decide)) b
  have hmemOk (hm : memOk s) : memOk (arrived port (.pkt p) c s) := memOk_of_cells (harr.cells_eq (by decide)) hm
  refine ⟨fun ht hf hm hk hpage hspace => ?_, fun bs ht hk hpage hspace hb => ?_, fun bs ht hm hk hpage hspace hroom hb => ?_,
    fun i n part ht hi hn hpart hbit hok hw => ?_⟩
  · obtain ⟨t, hexec, happ⟩ := exec_expectedWrite (port := port) h hpsn hh ht hf hk hpage hspace
    have hstore := writeSpans_local_only hspace (regionSpans (arrived port (.pkt p) c s) (getRegion s (p.tr.rkey.toNat % 65536)) p.tr.raddr.toNat
      (min p.payload.length p.tr.total.toNat)) (p.payload.take (min p.payload.length p.tr.total.toNat)) (arrived port (.pkt p) c s)
    have hframe : OnlyIn (.mem :: .cells :: rxAreas) s t :=
      (happ.frame.sub (by decide)).via (List.Subset.refl _) (hstore.via (by decide) (harr.sub (by decide)))
    refine ⟨t, hexec, hframe, hframe.act_eq (by decide), rxPsn_of_applies happ (getConn_of_rma (hstore.rma_eq (by decide)) c) hpsn, fun b hb => ?_,
      fun d n hsp hn hd j hj => ?_⟩
    · rw [readByte_of_cells (happ.frame.cells_eq (by decide)), ← hbytes]
      exact readByte_writeSpans_of_outside hspace (by rwa [regionSpans_of_plain hpage _ s]) _ (hmemOk hm)
    · rw [readByte_of_cells (happ.frame.cells_eq (by decide)), storedWrite, regionSpans_of_plain hpage _ s]
      change readByte (writeSpans _ (regionSpans s _ p.tr.raddr.toNat (min p.payload.length p.tr.total.toNat)) _ _) _ = _
      rw [hsp, readByte_writeSpans_at hspace (hmemOk hm) hd hj (by rw [List.length_take]; exact by show n ≤ min (min _ p.tr.total.toNat) _; omega)]
      have hlt : j < min p.payload.length p.tr.total.toNat := hn ▸ hj
      simp only [List.getD_eq_getElem?_getD, openedWrite, List.getElem?_take, if_pos hlt]
  · have hexec := exec_expectedRead (port := port) h hpsn hh ht hk hpage hspace hb
    have happ : Applies c (pktPsns p) (arrived port (.pkt p) c s)
        (applied c p (respondRead c p bs (advanceRx c (pktPsns p) (arrived port (.pkt p) c s)))) :=
      ((applies_advanceRx ..).andThen (.of_sends (respondRead_sends ..))).andThen (onlyAckDue_applied ..)
    have hframe := happ.frame.via (List.Subset.refl _) (harr.sub (by decide))
    exact ⟨hexec, _, hexec, hframe, hframe.act_eq (by decide), rxPsn_of_applies happ rfl hpsn⟩
  · have hexec := exec_expectedAdd h hpsn hh ht hk hpage hspace hroom hb
    have hstore := writeSpans_local_only hspace (regionSpans (arrived port (.pkt p) c s) (getRegion s (p.tr.rkey.toNat % 65536)) p.tr.raddr.toNat 8)
      (sumBytes p bs) (arrived port (.pkt p) c s)
    have hlast := (OnlyAckDue.of_sends (c := c) (respondAdd_sends c p.tr.psn p.tr.try_ (BitVec.ofNat 64 (fld bs 0 8)) (rememberOld c p bs
      (writeSpans (getRegion s (p.tr.rkey.toNat % 65536)) (regionSpans (arrived port (.pkt p) c s) (getRegion s (p.tr.rkey.toNat % 65536))
        p.tr.raddr.toNat 8) (sumBytes p bs) (arrived port (.pkt p) c s))))).trans (onlyAckDue_applied c p _)
    have happ := (applies_rememberOld ..).andThen hlast
    have hframe : OnlyIn (.mem :: .cells :: rxAreas) s _ :=
      (happ.frame.sub (by decide)).via (List.Subset.refl _) (hstore.via (by decide) (harr.sub (by decide)))
    refine ⟨_, hexec, hframe, hframe.act_eq (by decide), rxPsn_of_applies happ (getConn_of_rma (hstore.rma_eq (by decide)) c) hpsn, ?_, fun b hb => ?_,
      fun d hsp hd j hj => ?_⟩
    · rw [hlast.addRecs, rememberOld, getConn_modConn_self]
      exact List.mem_append_right _ (.head _)
    · rw [readByte_of_cells (happ.frame.cells_eq (by decide)), ← hbytes]
      exact readByte_writeSpans_of_outside hspace (by rwa [regionSpans_of_plain hpage _ s]) _ (hmemOk hm)
    · rw [readByte_of_cells (happ.frame.cells_eq (by decide)), regionSpans_of_plain hpage _ s, hsp,
        readByte_writeSpans_at hspace (hmemOk hm) hd hj (by rw [sumBytes, length_leBytes])]
      rfl
  · subst hpart
    have hexec := exec_expectedSignal (port := port) h hpsn hh ht hi hn hbit hok hw
    have happ := (applies_advanceRx c 1 (counted i n (arrived port (.pkt p) c s))).andThen (onlyAckDue_applied c p _)
    have hcount : OnlyIn [.rma] (arrived port (.pkt p) c s) (counted i n (arrived port (.pkt p) c s)) := (OnlyIn.refl _ _).upd_rma (by decide)
    have hframe := happ.frame.via (List.Subset.refl _) (hcount.via (by decide) (harr.sub (by decide)))
    have hcnt (j : Nat) : getCnt (applied c p (advanceRx c 1 (counted i n (arrived port (.pkt p) c s)))) j =
        if j = i then { getCnt s i with value := (getCnt s i).value + n } else getCnt s j := by
      rw [getCnt, happ.counters, ← getCnt, getCnt_counted]
      simp only [getCnt, arrived_counters]
    exact ⟨_, hexec, hframe, hframe.act_eq (by decide), rxPsn_of_applies happ rfl hpsn, by rw [hcnt, if_pos rfl], fun j hj => by rw [hcnt, if_neg hj]⟩

end Sys2Proof.Machine

namespace Sys2Proof.Machine

open Sys2Proof

theorem now_of_clk {s t : State} (h : t.clk = s.clk) : now t = now s := by simp [now, h]

/-! ## Answers at the requester (R263, R276, R278 to R280) -/

theorem rxAckPkt_of_hears {s : State} {p : Packet} {c : Nat} (h : Hears s p c) (port : Nat) :
    rxAckPkt port (.pkt p) s = ackUpTo c p.tr.psn (arrived port (.pkt p) c s) := rxOn_of_hears h port rfl false _

theorem rxNakPkt_of_seq {s : State} {p : Packet} {c : Nat} (h : Hears s p c) (port : Nat) (hcode : p.tr.raddr.toNat % 256 = nakSeq) :
    rxNakPkt port (.pkt p) s = pump c (resendFrom c (p.tr.psn + 1) (modConn c (fun x => { x with txHeld := false })
      (ackUpTo c p.tr.psn (arrived port (.pkt p) c s)))) := by
  unfold rxNakPkt
  rw [rxOn_of_hears h port rfl]
  exact if_pos hcode

theorem rxNakPkt_of_other {s : State} {p : Packet} {c : Nat} {o : Op} (h : Hears s p c) (port : Nat) (hcode : p.tr.raddr.toNat % 256 ≠ nakSeq)
    (hfind : ((getConn (ackUpTo c (p.tr.psn - 1) (arrived port (.pkt p) c s)) c).ops.find? fun o => o.sentPkts != 0 && o.psn == p.tr.psn) = some o)
    (hmsg : o.msg = none) : rxNakPkt port (.pkt p) s =
      progress c (opDone c o (nakStatus (p.tr.raddr.toNat % 256)) 0 (ackUpTo c (p.tr.psn - 1) (arrived port (.pkt p) c s))) := by
  unfold rxNakPkt
  rw [rxOn_of_hears h port rfl]
  refine (if_neg hcode).trans ?_
  simp only [Cargo.packet, hfind, hmsg]

theorem rxHoldPkt_of_hears {s : State} {p : Packet} {c : Nat} (h : Hears s p c) (port : Nat) :
    rxHoldPkt port (.pkt p) s = modConn c (fun x => { x with timerAt := now s, txHeld := true }) (arrived port (.pkt p) c s) := by
  unfold rxHoldPkt
  rw [rxOn_of_hears h port rfl]
  have hnow : now (arrived port (.pkt p) c s) = now s := now_of_clk ((arrived_only ..).clk_eq (by decide))
  simp only [hnow]

theorem ops_arrived (port : Nat) (cg : Cargo) (c : Nat) (s : State) : (getConn (arrived port cg c s) c).ops = (getConn s c).ops := by
  rw [getConn_arrived]; rfl

theorem rxRetryPkt_of_hears {s : State} {p : Packet} {c : Nat} (h : Hears s p c) (port : Nat)
    (hop : ((getConn s c).ops.any fun o => o.sentPkts != 0 && decide ((p.tr.psn - o.psn).toNat < o.psns)) = true) :
    rxRetryPkt port (.pkt p) s = modConn c (fun x => { x with timerAt := now s, resendAt := some (now s + 1000 * bits p.tr.raddr.toNat 16 16, p.tr.psn) })
      (arrived port (.pkt p) c s) := by
  unfold rxRetryPkt
  rw [rxOn_of_hears h port rfl]
  have hnow : now (arrived port (.pkt p) c s) = now s := now_of_clk ((arrived_only ..).clk_eq (by decide))
  refine (if_pos (by rw [ops_arrived]; exact hop)).trans ?_
  simp only [hnow, Cargo.packet]

theorem rxReadRespPkt_of_part {s : State} {p : Packet} {c : Nat} {o : Op} (h : Hears s p c) (port : Nat)
    (hfind : ((getConn s c).ops.find? fun o => o.kind == .read && o.sentPkts != 0 && decide ((p.tr.psn - o.psn).toNat < o.psns)) = some o)
    (hpart : (tset o.got (p.tr.psn - o.psn).toNat p.payload).length ≠ o.psns) :
    rxReadRespPkt port (.pkt p) s = progress c (modConn c (fun x => { x with ops := x.ops.map fun y =>
      if y = o then { o with got := tset o.got (p.tr.psn - o.psn).toNat p.payload } else y }) (arrived port (.pkt p) c s)) := by
  unfold rxReadRespPkt
  rw [rxOn_of_hears h port rfl]
  have hfind' : ((getConn (arrived port (.pkt p) c s) c).ops.find? fun o =>
      o.kind == .read && o.sentPkts != 0 && decide (((Cargo.pkt p).packet.tr.psn - o.psn).toNat < o.psns)) = some o := by rw [ops_arrived]; exact hfind
  simp only [hfind']
  rw [if_neg (show (tset o.got ((Cargo.pkt p).packet.tr.psn - o.psn).toNat (Cargo.pkt p).packet.payload).length ≠ _ from hpart)]
  rfl

theorem rxAddRespPkt_of_hears {s : State} {p : Packet} {c : Nat} {o : Op} (h : Hears s p c) (port : Nat)
    (hfind : ((getConn s c).ops.find? fun o => o.kind == .add && o.sentPkts != 0 && o.psn == p.tr.psn) = some o) :
    rxAddRespPkt port (.pkt p) s = progress c (opDone c o .ok (fld p.payload 0 8) (arrived port (.pkt p) c s)) := by
  unfold rxAddRespPkt
  rw [rxOn_of_hears h port rfl]
  simp only [Cargo.packet, ops_arrived, hfind]

theorem rxRespPkt_of_hears {s : State} {p : Packet} {c : Nat} {o : Op} {m : RespMsg} (h : Hears s p c) (port : Nat)
    (hfind : ((getConn s c).ops.find? fun o => o.kind == .call && o.sentPkts != 0 && o.psn == p.tr.psn) = some o) :
    rxRespPkt port (.resp p m) s = takeResp c m (progress c (dropOp c o (arrived port (.resp p m) c s))) := by
  unfold rxRespPkt
  rw [rxOn_of_hears h port rfl]
  simp only [ops_arrived, hfind]

/-- Settles O39: each answer's row on the state of the arrival. -/
theorem answersReachTheirOperation : Obligations.AnswersReachTheirOperation := by
  unfold Obligations.AnswersReachTheirOperation
  intro port c p s h
  refine ⟨fun ht => ?_, fun ht hcode => ?_, fun o s1 ht hcode hs1 hfind hmsg => ?_, fun ht => ?_, fun o ho ht hsent hlt => ?_,
    fun o ht hfind hpart => ?_, fun o ht hfind => ?_, fun o m ht hfind => ?_⟩
  · exact (rxRow_of_top (h.topIs (by rw [ht]; rfl)) rxAckPkt s).trans (congrArg _ (rxAckPkt_of_hears h port))
  · exact (rxRow_of_top (h.topIs (by rw [ht]; rfl)) rxNakPkt s).trans (congrArg _ (rxNakPkt_of_seq h port hcode))
  · subst hs1
    exact (rxRow_of_top (h.topIs (by rw [ht]; rfl)) rxNakPkt s).trans (congrArg _ (rxNakPkt_of_other h port hcode hfind hmsg))
  · refine ⟨_, (rxRow_of_top (h.topIs (by rw [ht]; rfl)) rxHoldPkt s).trans (congrArg _ (rxHoldPkt_of_hears h port)),
      (modConn_only ..).via (by decide) (arrived_only ..), ?_, ?_, ?_, ?_⟩ <;> rw [getConn_modConn_self, getConn_arrived] <;> rfl
  · have hop : ((getConn s c).ops.any fun o => o.sentPkts != 0 && decide ((p.tr.psn - o.psn).toNat < o.psns)) = true :=
      List.any_eq_true.2 ⟨o, ho, by rw [decide_eq_true hlt, Bool.and_true]; exact bne_iff_ne.2 hsent⟩
    refine ⟨_, (rxRow_of_top (h.topIs (by rw [ht]; rfl)) rxRetryPkt s).trans (congrArg _ (rxRetryPkt_of_hears h port hop)),
      (modConn_only ..).via (by decide) (arrived_only ..), ?_, ?_⟩ <;> rw [getConn_modConn_self, getConn_arrived] <;> rfl
  · exact (rxRow_of_top (h.topIs (by rw [ht]; rfl)) rxReadRespPkt s).trans (congrArg _ (rxReadRespPkt_of_part h port hfind hpart))
  · exact (rxRow_of_top (h.topIs (by rw [ht]; rfl)) rxAddRespPkt s).trans (congrArg _ (rxAddRespPkt_of_hears h port hfind))
  · exact congrArg Host.Outcome.next ((if_pos (h.topIs (by rw [ht]; rfl))).trans (rxRespPkt_of_hears h port hfind))

/-! ## CALLs and their records (R265, R305, R360) -/

theorem exec_expectedCall {port c : Nat} {p : Packet} {m : CallMsg} {s : State} (h : Hears s p c) (ht : p.tr.top = 0x10)
    (hpsn : p.tr.psn = (getConn s c).rxPsn) :
    exec (.rxCall port p m) s = .next (freshCall port c m (.call p m) (arrived port (.call p m) c s)) :=
  congrArg Host.Outcome.next ((if_pos (h.topIs (by rw [ht]; rfl))).trans ((rxRequest_of_hears h port rfl _).1 hpsn))

/-- A CALL that is served once its row is reached: what the work leaves, and the half past the packet. -/
theorem freshCall_served {port c : Nat} {p : Packet} {m : CallMsg} {a a1 : State} {ans : Option RespMsg} (hm : (getConn a c).mgmt = false)
    (hh : a.tap.halted = false ∨ heldAnswer a (getConn a c).peerNode m = true) (hserve : serveCall port c p m a = (ans, a1)) :
    freshCall port c m (.call p m) a = applied c p (sendAnswer c p ans (advanceRx c 1 a1)) := by
  have hgo : ¬ (a.tap.halted = true ∧ (!heldAnswer a (getConn a c).peerNode m) = true) := by
    rintro ⟨h1, h2⟩
    obtain hh | hh := hh
    · rw [hh] at h1; exact absurd h1 (by decide)
    · rw [hh] at h2; exact absurd h2 (by decide)
  unfold freshCall
  dsimp only
  rw [hm, if_neg (by decide), if_neg hgo]
  simp only [Cargo.packet, hserve]

theorem applies_answered (c : Nat) (p : Packet) (ans : Option RespMsg) (s : State) :
    Applies c 1 s (applied c p (sendAnswer c p ans (advanceRx c 1 s))) :=
  ((applies_advanceRx ..).andThen (.of_sends (sendAnswer_sends ..))).andThen (onlyAckDue_applied ..)

theorem retainedOf_of_retained {s t : State} (h : t.retained = s.retained) (home : BitVec 16) (step : BitVec 64) (sub : Nat) :
    retainedOf t home step sub = retainedOf s home step sub := by simp [retainedOf, h]

theorem serveCall_of_kept {port c : Nat} {p : Packet} {a : State} {step : BitVec 64} {i : Nat} {stamp : BitVec 16} {q : SearchReq} {r : Retained}
    (h : retainedOf a (getConn a c).peerNode step i = some r) :
    serveCall port c p (.searchSub step i stamp q) a = (some r.answer, a) := by
  unfold serveCall keepOnce
  dsimp only
  rw [h]

/-- RETENTION_EXPIRY of a record that is kept. -/
theorem exec_retentionExpiry {home : BitVec 16} {step : BitVec 64} {i : Nat} {r : Retained} {s : State} (hs : serving s = true)
    (h : retainedOf s home step i = some r) :
    exec (.retentionExpiry home step i) s = .next (post { cls := 4, code := 6, step := step, detail := .s 0 0 home.toNat 0xFFFF 0 0 }
      { cntAdd 0x1C0 1 (advanceTo (r.born + retainNs s) s) with retained := s.retained.erase r }) := by
  change execRetentionExpiry home step i s = _
  unfold execRetentionExpiry
  simp only [h, hs]
  rfl

theorem le_now_advanceTo (t : Nat) (s : State) : t ≤ now (advanceTo t s) := Nat.le_max_right _ _

/-- The access is no longer held, and counted as stale. -/
def unheld (k : Nat) (h : HeldGfa) (s : State) : State :=
  { cntAdd rmxStale 1 (advanceTo h.due s) with rmx := { s.rmx with held := tdel s.rmx.held k } }

theorem exec_stampHoldTimeout {k : Nat} {h : HeldGfa} {s : State} (hs : serving s = true) (hk : tget s.rmx.held k = some h) :
    ∃ t, exec (.stampHoldTimeout k) s = .next t ∧ OnlyIn sendAreas (unheld k h s) t ∧ cnt t rmxStale = cnt (unheld k h s) rmxStale := by
  have hexec : exec (.stampHoldTimeout k) s = .next (match h.msg with
      | .gfa step sub _ _ _ _ _ =>
        sendResp (h.pkt.tr.dconn % 2 ^ 20) h.pkt.tr.psn h.pkt.tr.try_ (.gfaDone step sub (BitVec.ofNat 16 Status.epochStale.code) []) (unheld k h s)
      | _ => unheld k h s) := by
    change execStampHoldTimeout k s = _
    unfold execStampHoldTimeout
    simp only [hk, hs]
    rfl
  refine ⟨_, hexec, ?_, ?_⟩
  · split
    · exact sendResp_sends ..
    · exact .refl _ _
  · split
    · exact cnt_sendConn _ _ _ (fun _ => rfl) _ (by decide) (by decide)
    · rfl

/-- Settles O40: release and kept answer by the served CALL, the timers by their rows. -/
theorem callsAreServedOnce : Obligations.CallsAreServedOnce := by
  unfold Obligations.CallsAreServedOnce
  intro s hs
  refine ⟨fun port p c step h ht hpsn hm hh => ?_, fun port p c step i stamp q r h ht hpsn hm hkept => ?_, fun home step i r hkept => ?_,
    fun k h hk => ?_, fun ring rseq sub c u hc hu hbusy hlost hans => ?_⟩
  · have harr := arrived_only port (.call p (.releaseStep step)) c s
    have hconn := getConn_arrived port (.call p (.releaseStep step)) c s
    have happ := applies_answered c p none (releaseRecords (getConn (arrived port (.call p (.releaseStep step)) c s) c).peerNode step
      (arrived port (.call p (.releaseStep step)) c s))
    have hframe : OnlyIn (.retained :: rxAreas) s _ :=
      (happ.frame.sub (by decide)).via (List.Subset.refl _) ((harr.sub (by decide)).upd_retained (by decide))
    refine ⟨_, (exec_expectedCall h ht hpsn).trans (congrArg _ (freshCall_served (by rw [hconn]; exact hm)
      (.inl (by rw [arrived_halted, hh])) rfl)), hframe, ?_, rxPsn_of_applies happ rfl hpsn⟩
    rw [happ.frame.retained_eq (by decide), hconn]
    change List.filter _ (arrived port _ c s).retained = _
    rw [harr.retained_eq (by decide)]
    rfl
  · have harr := arrived_only port (.call p (.searchSub step i stamp q)) c s
    have hconn := getConn_arrived port (.call p (.searchSub step i stamp q)) c s
    have hkept' : retainedOf (arrived port (.call p (.searchSub step i stamp q)) c s)
        (getConn (arrived port (.call p (.searchSub step i stamp q)) c s) c).peerNode step i = some r := by
      rw [retainedOf_of_retained (harr.retained_eq (by decide)), hconn]
      exact hkept
    have happ := applies_answered c p (some r.answer) (arrived port (.call p (.searchSub step i stamp q)) c s)
    have hframe : OnlyIn rxAreas s _ := happ.frame.via (List.Subset.refl _) (harr.sub (by decide))
    exact ⟨_, (exec_expectedCall h ht hpsn).trans (congrArg _ (freshCall_served (by rw [hconn]; exact hm)
      (.inr (by rw [heldAnswer, hkept']; rfl)) (serveCall_of_kept hkept'))), hframe, hframe.retained_eq (by decide), rxPsn_of_applies happ rfl hpsn⟩
  · have hpost := post_only { cls := 4, code := 6, step := step, detail := .s 0 0 home.toNat 0xFFFF 0 0 }
      { cntAdd 0x1C0 1 (advanceTo (r.born + retainNs s) s) with retained := s.retained.erase r }
    have hframe : OnlyIn [.retained, .clk, .regs, .out, .host, .mgmt] s _ := hpost.via (by decide)
      (((cntAdd_only 0x1C0 1 (advanceTo (r.born + retainNs s) s)).via (by decide) ((advanceTo_only ..).sub (by decide))).upd_retained (by decide))
    refine ⟨_, exec_retentionExpiry hs hkept, hframe, hframe.act_eq (by decide), hpost.retained_eq (by decide), ?_, ?_⟩
    · rw [cnt_of_regs (hpost.regs_eq (by decide))]
      exact cnt_cntAdd_self ..
    · rw [now_of_clk (hpost.clk_eq (by decide))]
      exact le_now_advanceTo ..
  · obtain ⟨t, hexec, hsend, hcnt⟩ := exec_stampHoldTimeout hs hk
    refine ⟨t, hexec, ?_, ?_, ?_, ?_, hsend.mem_eq (by decide), hsend.cmds_eq (by decide)⟩
    · rw [hsend.rmx_eq (by decide)]
      simp [unheld]
    · rw [hcnt]
      exact cnt_cntAdd_self ..
    · rw [now_of_clk (hsend.clk_eq (by decide))]
      exact le_now_advanceTo ..
    · rw [hsend.rmx_eq (by decide)]
      rfl
  · change execRetentionBusyRetry ring rseq sub s = _
    unfold execRetentionBusyRetry
    simp only [runningCmd_of_runs hc, hu, hbusy, hlost, hans, hc.serves]
    rfl

end Sys2Proof.Machine

namespace Sys2Proof.Machine

open Sys2Proof

/-! ## The timers of connections (R270, R278 to R280) -/

theorem connError_rma (c : Nat) (s : State) :
    (connError c s).rma = (setConn c { getConn s c with state := .error, ops := [], timerAt := 0, txHeld := false, resendAt := none } s).rma := by
  unfold connError
  dsimp only
  rw [(connLeft_only ..).rma_eq (by decide), (post_only ..).rma_eq (by decide)]
  refine (OnlyIn.forEach (m := endAreas) _ _ fun o t => ?_).rma_eq (by decide)
  split
  · split
    · exact finish_only ..
    · exact .refl _ _
  · exact .refl _ _

theorem getConn_connError (c : Nat) (s : State) :
    getConn (connError c s) c = { getConn s c with state := .error, ops := [], timerAt := 0, txHeld := false, resendAt := none } := by
  rw [getConn_of_rma (connError_rma c s), getConn_setConn]

theorem reject_of_room {c : Nat} {s : State} (h : (getConn s c).errRecs.length < 8) (first : BitVec 24) (n code : Nat) :
    reject c first n code s = sendAck c 0x09 first code 0
      (modConn c (fun x => { x with errRecs := x.errRecs ++ [(first, n, code)], rest := none, unacked := 0, held := none })
        (advanceRx c (first + BitVec.ofNat 24 n - (getConn s c).rxPsn).toNat s)) := by
  unfold reject
  exact if_neg (by omega)

theorem getConn_reject {c : Nat} {s : State} (h : (getConn s c).errRecs.length < 8) (first : BitVec 24) (n code : Nat) :
    (getConn (reject c first n code s) c).held = none ∧ (getConn (reject c first n code s) c).errRecs = (getConn s c).errRecs ++ [(first, n, code)] := by
  rw [reject_of_room h, getConn_of_rma ((sendAck_sends ..).rma_eq (by decide)), getConn_modConn_self, advanceRx, getConn_modConn_self]
  exact ⟨rfl, rfl⟩

theorem exec_ackDelayTimeout {k : Nat} {s : State} (hs : serving s = true) (hu : (getConn s k).unacked ≠ 0) (ho : (getConn s k).state = .open_) :
    exec (.ackDelayTimeout k) s = .next (ackNow k (advanceTo ((getConn s k).unackedAt + 500) s)) := by
  change execAckDelayTimeout k s = _
  unfold execAckDelayTimeout
  simp [hu, ho, hs]

/-- The state in which the retransmit timer of a half fires. -/
def rtoFired (k : Nat) (s : State) : State := advanceTo ((getConn s k).timerAt + rtoNs s (getConn s k)) s

/-- The half's limit of retries, its own or the node's (R267). -/
def retryMax (k : Nat) (s : State) : Nat := if (getConn s k).retryLimit = 0 then actBits s 0x400010 10 4 else (getConn s k).retryLimit

theorem exec_retransmitTimeout {k : Nat} {s : State} {psn : BitVec 24} (hs : serving s = true) (hp : oldestUnacked (getConn s k) = some psn)
    (ho : (getConn s k).state = .open_) (hr : (getConn s k).resendAt = none) :
    exec (.retransmitTimeout k) s = .next (if retryMax k s ≤ (getConn s k).retries then connError k (rtoFired k s)
      else resendFrom k psn (modConn k (fun x => { x with retries := x.retries + 1 }) (rtoFired k s))) := by
  change execRetransmitTimeout k s = _
  unfold execRetransmitTimeout
  simp only [hp, ho, hr, hs]
  rfl

theorem exec_holdRepeatTimer {k : Nat} {h : Held} {s : State} (hh : (getConn s k).held = some h) :
    exec (.holdRepeatTimer k) s = .next (sendAck k 0x0A h.cargo.packet.tr.psn 0 0
      (modConn k (fun x => { x with held := some { h with lastHold := now (advanceTo (h.lastHold + 10000) s) } })
        (advanceTo (h.lastHold + 10000) s))) := by
  change execHoldRepeatTimer k s = _
  unfold execHoldRepeatTimer
  simp only [hh]

theorem exec_stallLimitExpiry {k : Nat} {h : Held} {s : State} (hh : (getConn s k).held = some h) (hroom : (getConn s k).errRecs.length < 8)
    (hrest : (getConn s k).rest = none) :
    ∃ e, exec (.stallLimitExpiry k) s = .next (post e
      (reject k h.cargo.packet.tr.psn (pktPsns h.cargo.packet) nakTimeout (advanceTo (h.since + stallNs s) s))) := by
  have hno : ¬ 8 ≤ (getConn s k).errRecs.length := by omega
  have hexec : exec (.stallLimitExpiry k) s = execStallLimitExpiry k s := rfl
  rw [hexec]
  unfold execStallLimitExpiry
  simp only [hh, hrest, if_neg hno]
  exact ⟨_, rfl⟩

theorem exec_resendDelayExpiry {k due : Nat} {psn : BitVec 24} {o : Op} {s : State} (hr : (getConn s k).resendAt = some (due, psn))
    (hfind : ((getConn s k).ops.find? fun o => o.sentPkts != 0 && decide ((psn - o.psn).toNat < o.psns)) = some o) :
    exec (.resendDelayExpiry k) s = .next (if 255 ≤ o.tries
      then pump k (opDone k o .timeout 0 (modConn k (fun x => { x with resendAt := none }) (advanceTo due s)))
      else pump k (resendFrom k psn (modConn k (fun x => { x with resendAt := none }) (advanceTo due s)))) := by
  change execResendDelayExpiry k s = _
  unfold execResendDelayExpiry
  simp only [hr, hfind]

/-! ## A context that is fetched with nothing parked for it (R270) -/

theorem missResume_of_free {q : Nat} {s : State} (h : (getPort s q).missFull = false) : missResume q s = s := by
  unfold missResume
  exact if_pos (.inl (by rw [h]; rfl))

theorem getPort_setPort_self (q k : Nat) (s : State) : getPort (setPort q (getPort s q) s) k = getPort s k := by
  by_cases h : k = q
  · rw [h, getPort_setPort]
  · rw [getPort_setPort_of_ne _ _ h]

/-- A port whose miss queue holds nothing for the half stays as it was. -/
theorem unpark_of_none {k q : Nat} {s : State} (hm : ∀ e ∈ (getPort s q).missq, e.1 ≠ k) (hf : (getPort s q).missFull = false) :
    unpark k q s = setPort q (getPort s q) s := by
  have hnone : (getPort s q).missq.filter (fun e => e.1 == k) = [] := List.filter_eq_nil_iff.2 fun e he => by simp [hm e he]
  have hall : (getPort s q).missq.filter (fun e => e.1 != k) = (getPort s q).missq := List.filter_eq_self.2 fun e he => by simp [hm e he]
  have hport : modPort q (fun x => { x with missq := x.missq.filter fun e => e.1 != k }) s = setPort q (getPort s q) s := by
    unfold modPort
    dsimp only
    rw [hall]
  unfold unpark
  dsimp only
  rw [hnone, hport]
  exact missResume_of_free (s := setPort q (getPort s q) s) (by rw [getPort_setPort]; exact hf)

theorem forEach_unpark_of_none {k : Nat} (l : List Nat) {s : State} (hm : ∀ q ∈ l, ∀ e ∈ (getPort s q).missq, e.1 ≠ k)
    (hf : ∀ q ∈ l, (getPort s q).missFull = false) :
    OnlyIn [.fab] s (forEach l (unpark k) s) ∧ (forEach l (unpark k) s).fab.loop = s.fab.loop := by
  induction l generalizing s with
  | nil => exact ⟨.refl _ _, rfl⟩
  | cons q l ih =>
    have hq := unpark_of_none (hm q (.head _)) (hf q (.head _))
    have hrest := ih (s := setPort q (getPort s q) s) (fun j hj => by rw [getPort_setPort_self]; exact hm j (.tail _ hj))
      (fun j hj => by rw [getPort_setPort_self]; exact hf j (.tail _ hj))
    rw [show forEach (q :: l) (unpark k) s = forEach l (unpark k) (unpark k q s) from rfl, hq]
    exact ⟨hrest.1.via (List.Subset.refl _) (setPort_only ..), hrest.2⟩

theorem forEach_nil {α : Type} (f : α → State → State) (s : State) : forEach [] f s = s := rfl

theorem pump_of_sent {k : Nat} {s : State} (h : ((getConn s k).ops.all fun o => o.sentPkts != 0) = true) : pump k s = s := if_pos h

/-- The context is fetched: it is no longer asked for, and the most recent of the cache. -/
def fetched (k : Nat) (s : State) : State := touchCtx k (modConn k (fun x => { x with fetching := false }) s)

theorem exec_contextFetchDone {k : Nat} {s : State} (hs : serving s = true) (hfetch : (getConn s k).fetching = true)
    (hm : ∀ q, q < 6 → ∀ e ∈ (getPort s q).missq, e.1 ≠ k) (hf : ∀ q, q < 6 → (getPort s q).missFull = false)
    (hloop : ∀ cg ∈ s.fab.loop, cg.packet.tr.dconn % 2 ^ 20 ≠ k) (hops : ∀ o ∈ (getConn s k).ops, o.sentPkts ≠ 0) :
    ∃ t, exec (.contextFetchDone k) s = .next t ∧ OnlyIn [.fab] (fetched k s) t := by
  have hexec : exec (.contextFetchDone k) s = execContextFetchDone k s := rfl
  obtain ⟨hframe, hkeep⟩ := forEach_unpark_of_none (k := k) (List.range 6) (s := fetched k s)
    (fun q hq => hm q (List.mem_range.1 hq)) (fun q hq => hf q (List.mem_range.1 hq))
  have hown : ((forEach (List.range 6) (unpark k) (fetched k s)).fab.loop.filter fun cg => !cg.packet.tr.cl && cg.packet.tr.dconn % 2 ^ 20 == k) = [] := by
    rw [hkeep]
    exact List.filter_eq_nil_iff.2 fun cg hcg h => hloop cg hcg (beq_iff_eq.1 (Bool.and_eq_true_iff.1 h).2)
  have hsent : ((getConn (forEach (List.range 6) (unpark k) (fetched k s)) k).ops.all fun o => o.sentPkts != 0) = true := by
    rw [getConn_of_rma (hframe.rma_eq (by decide)), fetched, getConn_touchCtx, getConn_modConn_self]
    exact List.all_eq_true.2 fun o ho => bne_iff_ne.2 (hops o ho)
  have hgo : execContextFetchDone k s = .next (pump k (forEach ((forEach (List.range 6) (unpark k) (fetched k s)).fab.loop.filter fun cg =>
      !cg.packet.tr.cl && cg.packet.tr.dconn % 2 ^ 20 == k) (rxCargo 6) (forEach (List.range 6) (unpark k) (fetched k s)))) := by
    unfold execContextFetchDone fetched
    rw [if_neg (by simp [hfetch, hs])]
  refine ⟨_, hexec.trans hgo, ?_⟩
  rw [hown]
  rw [forEach_nil, pump_of_sent hsent]
  exact hframe

/-- Settles O41: each timer's row, then what it leaves of the half. -/
theorem connectionTimersFire : Obligations.ConnectionTimersFire := by
  unfold Obligations.ConnectionTimersFire
  intro k x s hs hx
  subst hx
  refine ⟨fun hu ho => ?_, fun psn limit hp ho hr hlimit => ?_, fun h hh => ⟨?_, fun hroom hrest => ?_⟩, fun due psn o hr hfind => ?_,
    fun hfetch hm hf hloop hops => ?_⟩
  · have hframe := ackNow_frame k (advanceTo ((getConn s k).unackedAt + 500) s)
    refine ⟨_, exec_ackDelayTimeout hs hu ho, (hframe.sub (by decide)).via (List.Subset.refl _) ((advanceTo_only ..).sub (by decide)),
      by rw [getConn_ackNow], ?_⟩
    rw [now_of_clk (hframe.clk_eq (by decide))]
    exact le_now_advanceTo ..
  · have hmax : retryMax k s = limit := hlimit.symm
    refine ⟨fun hlt => ?_, fun hle => ?_⟩
    · rw [exec_retransmitTimeout hs hp ho hr, hmax, if_neg (by omega), rtoFired]
    · refine ⟨_, by rw [exec_retransmitTimeout hs hp ho hr, hmax, if_pos hle], by rw [getConn_connError], by rw [getConn_connError], ?_⟩
      rw [now_of_clk ((connError_only ..).clk_eq (by decide))]
      exact le_now_advanceTo ..
  · have hsend := sendAck_sends k 0x0A h.cargo.packet.tr.psn 0 0
      (modConn k (fun x => { x with held := some { h with lastHold := now (advanceTo (h.lastHold + 10000) s) } }) (advanceTo (h.lastHold + 10000) s))
    have hnow := (now_of_clk (hsend.clk_eq (by decide))).trans (now_of_clk ((modConn_only ..).clk_eq (by decide)))
    refine ⟨_, { h with lastHold := now (advanceTo (h.lastHold + 10000) s) }, exec_holdRepeatTimer hh,
      (hsend.sub (by decide)).via (List.Subset.refl _) ((modConn_only ..).via (by decide) ((advanceTo_only ..).sub (by decide))), ?_, hnow.symm, rfl, ?_⟩
    · rw [getConn_of_rma (hsend.rma_eq (by decide)), getConn_modConn_self]
    · rw [hnow]
      exact le_now_advanceTo ..
  · obtain ⟨e, hexec⟩ := exec_stallLimitExpiry hh hroom hrest
    obtain ⟨hheld, hrecs⟩ := getConn_reject (s := advanceTo (h.since + stallNs s) s) hroom h.cargo.packet.tr.psn (pktPsns h.cargo.packet) nakTimeout
    refine ⟨_, hexec, by rw [getConn_of_rma ((post_only ..).rma_eq (by decide)), hheld], ?_, ?_, ?_⟩
    · rw [getConn_of_rma ((post_only ..).rma_eq (by decide)), hrecs]
      exact List.mem_append_right _ (.head _)
    · rw [(post_only ..).mem_eq (by decide), (reject_only ..).mem_eq (by decide), (advanceTo_only ..).mem_eq (by decide)]
    · rw [now_of_clk ((post_only ..).clk_eq (by decide)), now_of_clk ((reject_only ..).clk_eq (by decide))]
      exact le_now_advanceTo ..
  · exact ⟨fun hlt => by rw [exec_resendDelayExpiry hr hfind, if_neg (by omega)], fun hle => by rw [exec_resendDelayExpiry hr hfind, if_pos hle]⟩
  · obtain ⟨t, hexec, hframe⟩ := exec_contextFetchDone hs hfetch hm hf hloop hops
    refine ⟨t, hexec, (hframe.sub (by decide)).via (List.Subset.refl _) ((touchCtx_only ..).via (by decide) ((modConn_only ..).sub (by decide))), ?_,
      fun hroom => ?_⟩
    · rw [getConn_of_rma (hframe.rma_eq (by decide)), fetched, getConn_touchCtx, getConn_modConn_self]
    · rw [cached, hframe.rma_eq (by decide)]
      exact cached_touchCtx k hroom

end Sys2Proof.Machine

namespace Sys2Proof.Machine

open Sys2Proof

/-! ## The state of a link (R208, R212) -/

/-- The areas that a link without an event touches. -/
def linkAreas : List Area := [.fab, .regs, .out]

theorem getPort_setPort_eq (n k : Nat) (x : Port) (s : State) : getPort (setPort n x s) k = if k = n then x else getPort s k := by
  split
  next h => rw [h, getPort_setPort]
  next h => exact getPort_setPort_of_ne _ _ h

theorem getPort_modPort_eq (n k : Nat) (f : Port → Port) (s : State) : getPort (modPort n f s) k = if k = n then f (getPort s n) else getPort s k :=
  getPort_setPort_eq ..

theorem setLink_event_fab (p : Nat) (st : LinkState) (s : State) : (setLink p st s).fab = (modPort p (fun x => { x with link := st }) s).fab := by
  unfold setLink
  dsimp only
  split
  · rw [linkEvent, (post_only ..).fab_eq (by decide)]; rfl
  · rfl

theorem getPort_setLink (p k : Nat) (st : LinkState) (s : State) :
    getPort (setLink p st s) k = if k = p then { getPort s p with link := st } else getPort s k := by
  rw [getPort_of_fab (setLink_event_fab p st s), getPort_modPort_eq]

/-- A link state that posts no event. -/
@[reducible] def quiet (st : LinkState) : Prop := st ≠ .down ∧ st ≠ .negFail

theorem setLink_quiet {st : LinkState} (h : quiet st) (p : Nat) (s : State) :
    setLink p st s = showPort p (emit (.link p st.code) (modPort p (fun x => { x with link := st }) s)) := by
  unfold setLink
  exact if_neg fun hev => hev.2.elim h.1 h.2

theorem setLink_quiet_only {st : LinkState} (h : quiet st) (p : Nat) (s : State) : OnlyIn linkAreas s (setLink p st s) := by
  rw [setLink_quiet h]
  exact (showPort_only ..).via (by decide) ((emit_only ..).via (by decide) ((modPort_only ..).sub (by decide)))

theorem cnt_setLink_quiet {st : LinkState} (h : quiet st) (p : Nat) (s : State) (o : Nat) : cnt (setLink p st s) o = cnt s o := by
  rw [setLink_quiet h]
  rfl

theorem enterRetrain_only' (p : Nat) (s : State) : OnlyIn linkAreas s (enterRetrain p s) :=
  (setLink_quiet_only (by decide) ..).via (by decide) ((portCnt_only ..).via (by decide) ((modPort_only ..).sub (by decide)))

theorem getPort_enterRetrain (p k : Nat) (s : State) :
    getPort (enterRetrain p s) k = if k = p then { getPort s p with retrainDue := false, link := .retrain } else getPort s k := by
  have hcnt (t : State) (j : Nat) : getPort (portCnt p cRetrains 1 t) j = getPort t j := getPort_of_fab ((portCnt_only ..).fab_eq (by decide)) j
  rw [enterRetrain, getPort_setLink, hcnt, hcnt, getPort_modPort_eq, getPort_modPort_eq, if_pos rfl]
  split <;> rfl

theorem cnt_enterRetrain (p : Nat) (s : State) :
    cnt (enterRetrain p s) (portBase p + 0x80 + 8 * cRetrains) = cnt s (portBase p + 0x80 + 8 * cRetrains) + 1 := by
  rw [enterRetrain, cnt_setLink_quiet (by decide)]
  exact cnt_cntAdd_self ..

/-- Full width posts no event. -/
theorem setWidth_full (p : Nat) (s : State) :
    setWidth p (false, false) s = showPort p (modPort p (fun x => { x with narrow := false, highHalf := false }) s) := by
  unfold setWidth
  exact if_neg fun h => absurd h.1 (by decide)

theorem setWidth_full_only (p : Nat) (s : State) : OnlyIn [.fab, .regs] s (setWidth p (false, false) s) := by
  rw [setWidth_full]
  exact (showPort_only ..).via (by decide) ((modPort_only ..).sub (by decide))

theorem getPort_setWidth_full (p k : Nat) (s : State) :
    getPort (setWidth p (false, false) s) k = if k = p then { getPort s p with narrow := false, highHalf := false } else getPort s k := by
  rw [setWidth_full, getPort_of_fab ((showPort_only ..).fab_eq (by decide)), getPort_modPort_eq]

theorem widthOf_all (s : State) (p : Nat) : widthOf s p 0xFF 0xFF = some (false, false) := rfl

/-- Without a DEMOTE outstanding a link that comes up sends none. -/
theorem redemote_of_none {s : State} (h : ∀ e ∈ s.seqs, e.2.demote = none) : redemote s = s := by
  unfold redemote
  rw [List.filter_eq_nil_iff.2]
  · rfl
  · intro e he
    simp [h e he]

/-- A port as it comes up: the resend starts at the oldest block. -/
def upPort (x : Port) : Port :=
  { x with
    attempts := 0, resendAt := if x.replayBuf.isEmpty then none else some 0, replayBuf := x.replayBuf.map fun b => { b with resends := 0 }
    link := .up }

theorem linkUp_of_none {s : State} (h : ∀ e ∈ s.seqs, e.2.demote = none) (p : Nat) :
    OnlyIn linkAreas s (linkUp p s) ∧ ∀ k, getPort (linkUp p s) k = if k = p then upPort (getPort s p) else getPort s k := by
  unfold linkUp
  rw [redemote_of_none (by rw [(setLink_quiet_only (by decide) ..).seqs_eq (by decide), (modPort_only ..).seqs_eq (by decide)]; exact h)]
  refine ⟨(setLink_quiet_only (by decide) ..).via (by decide) ((modPort_only ..).sub (by decide)), fun k => ?_⟩
  rw [getPort_setLink, getPort_modPort_eq, getPort_modPort_eq, if_pos rfl]
  split <;> rfl

/-! ## Training (R209 to R214) -/

theorem exec_signalDetect {q : Nat} {s : State} (hq : q < 6) (hm : mainOn s = true) (hen : portCfg s q 0 = true) (hl : (getPort s q).link = .down) :
    exec (.signalDetect q) s = .next (setLink q .trainLow (setPort q { getPort s q with attempts := 0, again := false } s)) :=
  congrArg Host.Outcome.next (if_pos ⟨hq, hm, hen, .inr hl⟩)

theorem exec_trainLowDone {q : Nat} {s : State} (hq : q < 6) (hl : (getPort s q).link = .trainLow) (lanes : BitVec 8) :
    exec (.trainLowDone q lanes) s = .next (enterNegotiate q lanes s) := congrArg Host.Outcome.next (if_pos ⟨hq, hl⟩)

theorem enterNegotiate_only' (p : Nat) (lanes : BitVec 8) (s : State) : OnlyIn linkAreas s (enterNegotiate p lanes s) :=
  (setLink_quiet_only (by decide) ..).via (by decide) ((modPort_only ..).sub (by decide))

theorem getPort_enterNegotiate (p k : Nat) (lanes : BitVec 8) (s : State) : getPort (enterNegotiate p lanes s) k =
    if k = p then { getPort s p with lanesOk := lanes, capIn := false, seenIn := false, seenOut := false, pickLevel := 0, link := .negotiate }
    else getPort s k := by
  rw [enterNegotiate, getPort_setLink, getPort_modPort_eq, getPort_modPort_eq, if_pos rfl]
  split <;> rfl

/-- A port that has recorded its partner's offer. -/
def offered (s : State) (q : Nat) (f : Cap) (x : Port) : Port :=
  { x with capIn := true, seenIn := x.seenIn || f.seen, partner := f.nodeId, partnerPort := f.port
           partnerLanes := f.lanesOk, gcm := f.gcm, resend := f.resend, pickLevel := if f.levels &&& levelsOf s q &&& 0x04 ≠ 0 then 2 else 1 }

theorem exec_rxCap_bad {q : Nat} {f : Cap} {s : State} (hq : q < 6) (hl : (getPort s q).link = .negotiate)
    (hbad : (f.nodeId ≠ 0xFFFF ∧ f.nodeId = BitVec.ofNat 16 (nodeId s)) ∨ f.levels &&& levelsOf s q = 0) :
    exec (.rxCap q f) s = .next (setLink q .negFail s) := by
  change execRxCap q f s = _
  unfold execRxCap
  dsimp only
  rw [if_neg (by omega), if_neg (by rw [hl]; decide), if_neg (by rw [hl]; decide)]
  split
  · rfl
  next hown => rw [if_pos (hbad.resolve_left hown)]

theorem exec_rxCap_good {q : Nat} {f : Cap} {s : State} (hq : q < 6) (hl : (getPort s q).link = .negotiate)
    (hid : f.nodeId ≠ BitVec.ofNat 16 (nodeId s)) (hcommon : f.levels &&& levelsOf s q ≠ 0)
    (hseen : (getPort s q).seenIn = false ∧ f.seen = false ∨ (getPort s q).seenOut = false) :
    exec (.rxCap q f) s = .next (showPort q (setPort q (offered s q f (getPort s q)) s)) := by
  have hport : getPort (showPort q (setPort q (offered s q f (getPort s q)) s)) q = offered s q f (getPort s q) := by
    rw [getPort_of_fab ((showPort_only ..).fab_eq (by decide)), getPort_setPort]
  have hwait : leaveNegotiate q (showPort q (setPort q (offered s q f (getPort s q)) s)) = showPort q (setPort q (offered s q f (getPort s q)) s) := by
    unfold leaveNegotiate
    dsimp only
    rw [hport]
    refine if_pos ?_
    obtain ⟨h1, h2⟩ | h3 := hseen
    · simp [offered, h1, h2]
    · simp [offered, h3]
  change execRxCap q f s = _
  unfold execRxCap
  dsimp only
  rw [if_neg (by omega), if_neg (by rw [hl]; decide), if_neg (by rw [hl]; decide), if_neg fun h => hid h.2, if_neg hcommon]
  exact congrArg Host.Outcome.next hwait

/-- A port that enters CREDIT with empty input buffers. -/
def creditPort (x : Port) : Port :=
  { x with
    link := .credit, sent := List.replicate 7 0, climit := List.replicate 7 0, granted := [2048, 3072, 1024, 512, 512, 512, 512]
    told := [2048, 3072, 1024, 512, 512, 512, 512], withheld := List.replicate 7 0, inbox := [] }

theorem getPort_enterCredit_of_empty {p : Nat} {s : State} (h : (getPort s p).inbox = []) :
    getPort (enterCredit p s) p = creditPort (getPort s p) := by
  rw [enterCredit, getPort_setLink, if_pos rfl, getPort_modPort_eq, if_pos rfl, h]
  rfl

theorem exec_trainHighDone {q : Nat} {s : State} (hq : q < 6) (hl : (getPort s q).link = .trainHigh) (hlanes : (getPort s q).partnerLanes = 0xFF) :
    exec (.trainHighDone q 0xFF) s =
      .next (enterCredit q (setWidth q (false, false) (setPort q { getPort s q with lanesOk := 0xFF, level := 2 } s))) := by
  change execTrainHighDone q 0xFF s = _
  unfold execTrainHighDone
  dsimp only
  rw [if_neg (not_or.2 ⟨by omega, not_not.2 hl⟩), hlanes, widthOf_all]

theorem exec_creditExchangeDone {q : Nat} {s : State} (hq : q < 6) (hl : (getPort s q).link = .credit) (limits : List (BitVec 16)) :
    exec (.creditExchangeDone q limits) s =
      .next (linkUp q (modPort q (fun x => { x with climit := (List.range 7).map fun i => (limits.getD i 0).toNat }) s)) :=
  congrArg Host.Outcome.next (if_neg (not_or.2 ⟨by omega, not_not.2 hl⟩))

/-! ## Retraining (R208, R212) -/

theorem exec_laneFailure {q lane : Nat} {s : State} (hq : q < 6) (hlane : lane < 8) (hl : (getPort s q).link = .up) :
    exec (.laneFailure q lane) s =
      .next (enterRetrain q (setPort q { getPort s q with lanesOk := (getPort s q).lanesOk &&& ~~~(BitVec.ofNat 8 (2 ^ lane)) } s)) :=
  congrArg Host.Outcome.next (if_neg (not_or.2 ⟨by omega, not_or.2 ⟨by omega, not_not.2 hl⟩⟩))

theorem exec_retrainDone_ok {q : Nat} {s : State} (hq : q < 6) (hl : (getPort s q).link = .retrain) (ha : (getPort s q).again = false) :
    exec (.retrainDone q true 0xFF 0xFF) s =
      .next (linkUp q (setWidth q (false, false) (setPort q { getPort s q with lanesOk := 0xFF, partnerLanes := 0xFF, again := false } s))) := by
  change execRetrainDone q true 0xFF 0xFF s = _
  unfold execRetrainDone
  dsimp only
  rw [if_neg (not_or.2 ⟨by omega, not_not.2 hl⟩), if_neg (by decide), if_neg (by rw [ha]; decide), widthOf_all]

theorem exec_retrainDone_failed {q : Nat} {s : State} (hq : q < 6) (hl : (getPort s q).link = .retrain) (ha : (getPort s q).attempts < 2)
    (l m : BitVec 8) : exec (.retrainDone q false l m) s =
      .next (setLink q .trainLow (setPort q { getPort s q with attempts := (getPort s q).attempts + 1 } s)) := by
  change execRetrainDone q false l m s = _
  unfold execRetrainDone
  dsimp only
  rw [if_neg (not_or.2 ⟨by omega, not_not.2 hl⟩), if_pos (by decide), if_neg (by omega)]

/-- Settles O42: each row's next state, then the port in it. -/
theorem portsTrainAndRetrain : Obligations.PortsTrainAndRetrain := by
  unfold Obligations.PortsTrainAndRetrain
  refine ⟨fun q x s hq hx => ?_, fun q x s hq hx => ?_⟩
  · subst hx
    refine ⟨fun hm hen hl => ?_, fun lanes hl => ?_, fun f hl => ⟨fun hbad => ?_, fun hid hcommon hseen => ?_⟩, fun hl hlanes hin => ?_,
      fun limits hl hdem => ?_⟩
    · have hframe : OnlyIn linkAreas s _ := (setLink_quiet_only (st := .trainLow) (by decide) q (setPort q { getPort s q with attempts := 0, again := false } s)).via (List.Subset.refl _) ((setPort_only ..).sub (by decide))
      refine ⟨_, exec_signalDetect hq hm hen hl, hframe, hframe.act_eq (by decide), by rw [getPort_setLink, if_pos rfl], fun k hk => ?_⟩
      rw [getPort_setLink, if_neg hk, getPort_setPort_of_ne _ _ hk]
    · refine ⟨_, exec_trainLowDone hq hl lanes, enterNegotiate_only' .., ?_, ?_, ?_, ?_, fun k hk => by rw [getPort_enterNegotiate, if_neg hk]⟩ <;>
        rw [getPort_enterNegotiate, if_pos rfl]
    · exact ⟨exec_rxCap_bad hq hl hbad, by rw [getPort_setLink, if_pos rfl]⟩
    · have hport (k : Nat) : getPort (showPort q (setPort q (offered s q f (getPort s q)) s)) k =
          if k = q then offered s q f (getPort s q) else getPort s k := by rw [getPort_of_fab ((showPort_only ..).fab_eq (by decide)), getPort_setPort_eq]
      refine ⟨_, exec_rxCap_good hq hl hid hcommon hseen, (showPort_only ..).via (by decide) ((setPort_only ..).sub (by decide)), ?_, ?_, ?_, ?_,
        fun k hk => by rw [hport, if_neg hk]⟩ <;> rw [hport, if_pos rfl]
      · exact hl
      · rfl
      · rfl
      · rfl
    · have hwide : getPort (setWidth q (false, false) (setPort q { getPort s q with lanesOk := 0xFF, level := 2 } s)) q =
          { getPort s q with lanesOk := 0xFF, level := 2, narrow := false, highHalf := false } := by
        rw [getPort_setWidth_full, if_pos rfl, getPort_setPort]
      have hcredit := getPort_enterCredit_of_empty (p := q) (s := setWidth q (false, false) (setPort q { getPort s q with lanesOk := 0xFF, level := 2 } s))
        (by rw [hwide]; exact hin)
      rw [hwide] at hcredit
      have hframe : OnlyIn linkAreas s (enterCredit q (setWidth q (false, false) (setPort q { getPort s q with lanesOk := 0xFF, level := 2 } s))) :=
        (setLink_quiet_only (by decide) ..).via (List.Subset.refl _) ((modPort_only ..).via (by decide)
          ((setWidth_full_only ..).via (by decide) ((setPort_only ..).sub (by decide))))
      refine ⟨_, exec_trainHighDone hq hl hlanes, ?_, ?_, ?_, ?_, ?_, ?_, hframe.mem_eq (by decide), hframe.cmds_eq (by decide)⟩ <;> rw [hcredit] <;> rfl
    · obtain ⟨hframe, hport⟩ := linkUp_of_none (p := q)
        (s := modPort q (fun x => { x with climit := (List.range 7).map fun i => (limits.getD i 0).toNat }) s) hdem
      refine ⟨_, exec_creditExchangeDone hq hl limits, hframe.via (List.Subset.refl _) ((modPort_only ..).sub (by decide)), ?_, ?_, fun k hk => ?_⟩
      · rw [hport, if_pos rfl]; rfl
      · rw [hport, if_pos rfl, getPort_modPort_eq, if_pos rfl]; rfl
      · rw [hport, if_neg hk, getPort_modPort_eq, if_neg hk]
  · subst hx
    refine ⟨fun hl => ⟨fun lane hlane => ?_, ?_, fun ns => ⟨fun hns => ?_, fun hns => ?_⟩⟩, fun hl hdem => ⟨fun ha hn => ?_, fun ha l m => ?_⟩⟩
    · refine ⟨_, exec_laneFailure hq hlane hl, (enterRetrain_only' ..).via (List.Subset.refl _) ((setPort_only ..).sub (by decide)), ?_, ?_, ?_⟩ <;>
        rw [getPort_enterRetrain, if_pos rfl, getPort_setPort]
    · refine ⟨_, congrArg Host.Outcome.next (if_pos ⟨hq, .inl hl⟩), enterRetrain_only' .., ?_, ?_⟩ <;> rw [getPort_enterRetrain, if_pos rfl]
    · exact congrArg Host.Outcome.next (if_neg fun h => absurd h.2.2 (by omega))
    · refine ⟨_, congrArg Host.Outcome.next (if_pos ⟨hq, hl, hns⟩), enterRetrain_only' .., ?_, cnt_enterRetrain .., ?_⟩ <;>
        rw [getPort_enterRetrain, if_pos rfl]
    · obtain ⟨hframe, hport⟩ := linkUp_of_none (p := q)
        (s := setWidth q (false, false) (setPort q { getPort s q with lanesOk := 0xFF, partnerLanes := 0xFF, again := false } s)) hdem
      refine ⟨_, exec_retrainDone_ok hq hl ha, hframe.via (List.Subset.refl _) ((setWidth_full_only ..).via (by decide) ((setPort_only ..).sub (by decide))),
        ?_, ?_, ?_, ?_⟩ <;> rw [hport, if_pos rfl, getPort_setWidth_full, if_pos rfl, getPort_setPort, upPort]
      · rw [List.map_map]; rfl
      · simp only [List.isEmpty_iff]
    · refine ⟨_, exec_retrainDone_failed hq hl ha l m, (setLink_quiet_only (by decide) ..).via (List.Subset.refl _) ((setPort_only ..).sub (by decide)),
        ?_, ?_, ?_⟩ <;> rw [getPort_setLink, if_pos rfl, getPort_setPort]

end Sys2Proof.Machine

namespace Sys2Proof.Machine

open Sys2Proof

/-! ## Blocks (R202 to R206) -/

theorem carries_of_up {x : Port} (h : x.link = .up) : carries x = true := by simp [carries, h]

/-- The injector draws nothing in a mode that is not the port's. -/
theorem misdeal_of_other {p mode : Nat} {s : State} (h : misdealBits s p 0 3 ≠ mode) : misdeal p mode s = (false, s) := if_pos h

theorem misdealBits_of_act {s t : State} (h : t.regs.act = s.regs.act) (p lo w : Nat) : misdealBits t p lo w = misdealBits s p lo w := by
  simp [misdealBits, actBits, actW, h]

/-- The state once the corrections of a block's FEC are counted. -/
def fecCounted (p : Nat) (b : RxBlock) (s : State) : State :=
  match b.fec with
  | .ok n => portCnt p cFecCorr n s
  | .uncorrectable => s

theorem fecCounted_only (p : Nat) (b : RxBlock) (s : State) : OnlyIn [.regs] s (fecCounted p b s) := by
  unfold fecCounted
  split
  · exact portCnt_only ..
  · exact .refl _ _

theorem cnt_fecCounted {p o : Nat} (b : RxBlock) (s : State) (h : o ≠ portBase p + 0x80 + 8 * cFecCorr) : cnt (fecCounted p b s) o = cnt s o := by
  unfold fecCounted
  split
  · exact cnt_cntAdd_of_ne _ _ h
  · rfl

theorem receiveBlock_of_bad {p : Nat} {b : RxBlock} {s : State} (hc : carries (getPort s p) = true) (hb : badBlock b = true) :
    receiveBlock p b s = modPort p (fun x => { x with nakDue := true }) (portCnt p cBadBlocks 1 (fecCounted p b s)) := by
  unfold receiveBlock
  rw [if_neg (by simp [hc])]
  simp only [hb, if_true]
  exact if_pos (.inl trivial)

/-- An accepted block moves the expected number on. -/
def accepted (p : Nat) (b : RxBlock) (s : State) : State :=
  portCnt p cRxFlits b.dataFlits (modPort p (fun x => { x with expect := x.expect + 1, gotBlock := true }) (fecCounted p b s))

theorem receiveBlock_of_good {p : Nat} {b : RxBlock} {s : State} (hc : carries (getPort s p) = true) (hb : badBlock b = false)
    (hmode : misdealBits s p 0 3 = 0) : receiveBlock p b s =
      if b.bsn = (getPort s p).expect then forEach b.cargo (fun c s => takeCargo p c s) (accepted p b s) else fecCounted p b s := by
  have hmode' (m : Nat) (hm : 0 ≠ m) : misdeal p m (fecCounted p b s) = (false, fecCounted p b s) :=
    misdeal_of_other (by rw [misdealBits_of_act ((fecCounted_only ..).act_eq (by decide)), hmode]; exact hm)
  have hport : getPort (fecCounted p b s) p = getPort s p := getPort_of_fab ((fecCounted_only ..).fab_eq (by decide)) p
  obtain ⟨n, hfec⟩ : ∃ n, b.fec = .ok n := by
    cases h : b.fec with
    | ok n => exact ⟨n, rfl⟩
    | uncorrectable => simp [badBlock, h] at hb
  have hcount : portCnt p cFecCorr n s = fecCounted p b s := by
    unfold fecCounted
    rw [hfec]
  unfold receiveBlock
  rw [if_neg (by simp [hc])]
  simp only [hfec, hcount, hb, hmode' 1 (by decide), hmode' 4 (by decide), Bool.false_eq_true, if_false, Bool.false_and, false_and, or_self, hport]
  by_cases h : b.bsn = (getPort s p).expect
  · rw [if_neg (not_not.2 h), if_pos h]
    rfl
  · rw [if_pos h, if_neg h]

theorem accepted_only (p : Nat) (b : RxBlock) (s : State) : OnlyIn [.fab, .regs] s (accepted p b s) :=
  (portCnt_only ..).via (by decide) ((modPort_only ..).via (by decide) ((fecCounted_only ..).sub (by decide)))

theorem getPort_accepted (p : Nat) (b : RxBlock) (s : State) :
    getPort (accepted p b s) p = { getPort s p with expect := (getPort s p).expect + 1, gotBlock := true } := by
  rw [accepted, getPort_of_fab ((portCnt_only ..).fab_eq (by decide)), getPort_modPort, getPort_of_fab ((fecCounted_only ..).fab_eq (by decide))]

theorem portCounter_ne {p i j : Nat} (h : i ≠ j) : portBase p + 0x80 + 8 * i ≠ portBase p + 0x80 + 8 * j := by omega

theorem exec_blockReceive {q : Nat} {s : State} (hq : q < 6) (hs : serving s = true) (b : RxBlock) :
    exec (.blockReceive q b) s = .next (receiveBlock q b s) := congrArg Host.Outcome.next (if_pos ⟨hq, hs⟩)

theorem exec_blockTransmit {q : Nat} {s : State} (hq : q < 6) (hs : serving s = true) : exec (.blockTransmit q) s = .next (transmitBlock q s) :=
  congrArg Host.Outcome.next (if_pos ⟨hq, hs⟩)

theorem transmitBlock_of_align {p : Nat} {s : State} (hc : carries (getPort s p) = true) (ha : 8191 ≤ (getPort s p).sinceAlign) :
    transmitBlock p s = emit (.align p) (setPort p { getPort s p with sinceAlign := 0 } s) := by
  unfold transmitBlock
  dsimp only
  rw [if_neg (by simp [hc]), if_pos ha]

/-- A block of the replay buffer as it is sent again, and the port after. -/
def resent (p i : Nat) (b : TxBlock) (s : State) : State :=
  setPort p { getPort s p with
    replayBuf := (getPort s p).replayBuf.set i { b with resends := b.resends + 1, sentAt := now s }
    resendAt := if i + 1 < (getPort s p).replayBuf.length then some (i + 1) else none
    sinceAlign := (getPort s p).sinceAlign + 1 } s

theorem getPort_resent (p i : Nat) (b : TxBlock) (s : State) :
    (getPort (resent p i b s) p).replayBuf.length = (getPort s p).replayBuf.length ∧ (getPort (resent p i b s) p).nextBsn = (getPort s p).nextBsn := by
  rw [resent, getPort_setPort]
  exact ⟨List.length_set, rfl⟩

theorem transmitBlock_of_resend {p i : Nat} {b : TxBlock} {s : State} (hc : carries (getPort s p) = true) (ha : (getPort s p).sinceAlign < 8191)
    (hr : (getPort s p).resendAt = some i) (hb : (getPort s p).replayBuf[i]? = some b) (hmode : misdealBits s p 0 3 ≠ 3) :
    transmitBlock p s = emit (.block p b.bsn true b.flits b.cargo b.ctl none) (portCnt p cReplays 1 (resent p i b s)) := by
  have hflip : flipPre p (resent p i b s) = (none, resent p i b s) := by
    unfold flipPre
    rw [misdeal_of_other (by rw [misdealBits_of_act (s := s) (by rfl)]; exact hmode)]
  have hresend : resendBlock p i s = emit (.block p b.bsn true b.flits b.cargo b.ctl none) (portCnt p cReplays 1 (resent p i b s)) := by
    unfold resendBlock
    simp only [hb]
    change (match flipPre p (resent p i b s) with | (flip, s2) => emit (.block p b.bsn true b.flits b.cargo b.ctl flip) (portCnt p cReplays 1 s2)) = _
    rw [hflip]
  unfold transmitBlock
  dsimp only
  rw [if_neg (by simp [hc]), if_neg (by omega), hr]
  exact hresend

/-- The port after an LCTL without NAK. -/
theorem exec_rxLctl {q : Nat} {f : Lctl} {s : State} (hq : q < 6) (hc : carries (getPort s q) = true) (hn : f.nak = false) :
    ∃ g : Port → Port, exec (.rxLctl q f) s = .next (modPort q g s) ∧
      (∀ x, (g x).replayBuf = if f.ackValid then ackBlocks f.ack x.replayBuf else x.replayBuf) ∧
      ∀ x, (g x).climit = (x.climit.zip (f.climit.map (·.toNat))).map (fun (a, b) => if serial16Le a b then b else a) := by
  refine ⟨_, congrArg Host.Outcome.next (if_neg (not_or.2 ⟨by omega, by rw [hc]; decide⟩)), fun x => ?_, fun x => ?_⟩ <;>
    simp only [hn] <;> rfl

theorem exec_replayAckTimeout {q : Nat} {b : TxBlock} {l : List TxBlock} {s : State} (hq : q < 6) (hc : carries (getPort s q) = true)
    (hb : (getPort s q).replayBuf = b :: l) : exec (.replayAckTimeout q) s = .next (modPort q startResend (advanceTo (b.sentAt + 4000) s)) := by
  change execReplayAckTimeout q s = _
  unfold execReplayAckTimeout
  rw [hb]
  exact congrArg Host.Outcome.next (if_neg (not_or.2 ⟨by omega, by rw [hc]; decide⟩))

theorem startResend_cons {x : Port} {b : TxBlock} {l : List TxBlock} (h : x.replayBuf = b :: l) :
    startResend x = if 8 ≤ b.resends then { x with retrainDue := true, resendAt := none } else { x with resendAt := some 0 } := by
  unfold startResend
  rw [h]

/-- Settles O43: the receiver, the transmitter and the acknowledgements of a port that is UP. -/
theorem blocksAreReplayed : Obligations.BlocksAreReplayed := by
  unfold Obligations.BlocksAreReplayed
  intro q x s hq hs hx hl
  subst hx
  have hc := carries_of_up hl
  refine ⟨fun b n hfec hb hmode hcargo => ?_, fun b hb => ?_, fun ha => ?_, fun i b ha hr hb hmode => ?_, fun f hn => ?_, fun b l hb => ?_⟩
  · rw [exec_blockReceive hq hs, receiveBlock_of_good hc hb hmode]
    by_cases hbsn : b.bsn = (getPort s q).expect
    · rw [if_pos hbsn, hcargo hbsn, forEach_nil, if_pos hbsn]
      have hframe := accepted_only q b s
      refine ⟨_, rfl, hframe, hframe.act_eq (by decide), by rw [getPort_accepted], by rw [getPort_accepted], fun _ => ?_⟩
      rw [accepted, portCnt, cnt_cntAdd_self, cnt_of_regs ((modPort_only ..).regs_eq (by decide)), cnt_fecCounted _ _ (portCounter_ne (by decide))]
    · rw [if_neg hbsn, if_neg hbsn]
      have hframe := fecCounted_only q b s
      exact ⟨_, rfl, hframe.sub (by decide), hframe.act_eq (by decide), by rw [getPort_of_fab (hframe.fab_eq (by decide))], by rw [getPort_of_fab (hframe.fab_eq (by decide))],
        fun h => absurd h hbsn⟩
  · rw [exec_blockReceive hq hs, receiveBlock_of_bad hc hb]
    have hframe : OnlyIn [.fab, .regs] s (modPort q (fun x => { x with nakDue := true }) (portCnt q cBadBlocks 1 (fecCounted q b s))) :=
      (modPort_only ..).via (by decide) ((portCnt_only ..).via (by decide) ((fecCounted_only ..).sub (by decide)))
    have hport := getPort_modPort q (fun x => { x with nakDue := true }) (portCnt q cBadBlocks 1 (fecCounted q b s))
    rw [getPort_of_fab ((portCnt_only ..).fab_eq (by decide)), getPort_of_fab ((fecCounted_only ..).fab_eq (by decide))] at hport
    refine ⟨_, rfl, hframe, hframe.act_eq (by decide), by rw [hport], by rw [hport], ?_⟩
    rw [cnt_of_regs ((modPort_only ..).regs_eq (by decide)), portCnt, cnt_cntAdd_self, cnt_fecCounted _ _ (portCounter_ne (by decide))]
    rfl
  · rw [exec_blockTransmit hq hs, transmitBlock_of_align hc ha]
  · obtain ⟨hlen, hnext⟩ := getPort_resent q i b s
    exact ⟨_, (exec_blockTransmit hq hs).trans (congrArg _ (transmitBlock_of_resend hc ha hr hb hmode)),
      (emit_only ..).via (by decide) ((portCnt_only ..).via (by decide) ((setPort_only ..).sub (by decide))), rfl, hlen, hnext⟩
  · obtain ⟨g, hexec, hbuf, hlimit⟩ := exec_rxLctl (f := f) hq hc hn
    exact ⟨_, hexec, modPort_only .., by rw [getPort_modPort, hbuf], by rw [getPort_modPort, hlimit]⟩
  · have hport : getPort (modPort q startResend (advanceTo (b.sentAt + 4000) s)) q = _ := (getPort_modPort ..).trans (startResend_cons hb)
    refine ⟨_, exec_replayAckTimeout hq hc hb, (modPort_only ..).via (by decide) ((advanceTo_only ..).sub (by decide)), ?_, fun hlt => ?_,
      fun hle => ?_, ?_⟩
    · rw [now_of_clk ((modPort_only ..).clk_eq (by decide))]
      exact le_now_advanceTo ..
    · rw [hport, if_neg (by omega)]
      exact ⟨rfl, rfl⟩
    · rw [hport, if_pos hle]
    · rw [hport]
      split <;> rfl

/-! ## Fabric time (R223 to R226, R440) -/

/-- A field below or above the one that is put stays. -/
theorem bits_putBits_of_below {v lo w x lo' w' : Nat} (h : lo' + w' ≤ lo) : bits (putBits v lo w x) lo' w' = bits v lo' w' := by
  obtain ⟨k, rfl⟩ := Nat.exists_eq_add_of_le h
  have hmod : putBits v (lo' + w' + k) w x % 2 ^ (lo' + w') = v % 2 ^ (lo' + w') := by
    have hsplit : putBits v (lo' + w' + k) w x =
        v % 2 ^ (lo' + w' + k) + 2 ^ (lo' + w') * (2 ^ k * (x % 2 ^ w + v / 2 ^ (lo' + w' + k + w) * 2 ^ w)) := by
      rw [putBits, pow_add _ (lo' + w' + k) w, pow_add _ (lo' + w') k]
      ring
    rw [hsplit, Nat.add_mul_mod_self_left, Nat.mod_mod_of_dvd _ (pow_dvd_pow 2 (Nat.le_add_right ..))]
  rw [bits, bits, ← Nat.mod_mul_right_div_self, ← Nat.mod_mul_right_div_self, ← pow_add, hmod]

theorem valBits_setValBits_of_below {o lo w lo' w' : Nat} (x : Nat) (s : State) (h : lo' + w' ≤ lo) (h32 : lo + w ≤ 32) :
    valBits (setValBits o lo w x s) o lo' w' = valBits s o lo' w' := by
  rw [valBits, setValBits, valW_setVal, BitVec.toNat_ofNat, Nat.mod_eq_of_lt (putBits_lt x (valW s o).isLt h32), bits_putBits_of_below h, valBits]

theorem valBits_of_regs {s t : State} (h : t.regs = s.regs) (o lo w : Nat) : valBits t o lo w = valBits s o lo w := by simp [valBits, valW, h]

/-- Each port that is UP is due a time flit, the others stay. -/
theorem getPort_forEach_tsyncDue (l : List Nat) (q : Nat) (s : State) :
    getPort (forEach l (fun p s => modPort p (fun x => { x with tsyncDue := x.tsyncDue || x.link == .up }) s) s) q =
      if q ∈ l then { getPort s q with tsyncDue := (getPort s q).tsyncDue || (getPort s q).link == .up } else getPort s q := by
  induction l generalizing s with
  | nil => simp [forEach]
  | cons p l ih =>
    rw [show forEach (p :: l) _ s = forEach l _ (modPort p _ s) from rfl, ih, getPort_modPort_eq]
    by_cases hq : q = p
    · subst hq
      simp
    · simp [hq]

theorem exec_tsyncDue {s : State} (hs : serving s = true) :
    exec .tsyncDue s = .next (forEach (List.range 6) (fun p s => modPort p (fun x => { x with tsyncDue := x.tsyncDue || x.link == .up }) s)
      (advanceTo ((now s / 1000 + 1) * 1000) s)) := congrArg Host.Outcome.next (if_neg (by rw [hs]; decide))

/-- What the receipt of a parent's flit leaves. -/
def tsyncTaken (q : Nat) (f : Tsync) (frac : Nat) (s : State) : State :=
  let s1 := setPort q { getPort s q with tRxLast := BitVec.ofNat 80 (now s * 65536 + frac), tseqEcho := f.tseq } s
  setValBits 0x300014 3 5 (f.depth.toNat + 1)
    (setValBits 0x300014 1 1 0 { s1 with fab := { s1.fab with time := { s1.fab.time with lastTsync := now s } } })

theorem exec_rxTsync_parent {q : Nat} {f : Tsync} {frac : Nat} {s : State} (hq : q < 6) (hl : (getPort s q).link = .up) (hfrac : frac < 65536)
    (hrole : timeRole s = 2) (hport : actBits s 0x300010 2 3 = q) (hno : tget (getPort s q).txTimes f.tseqEcho.toNat = none) :
    exec (.rxTsync q f false frac) s = .next (tsyncTaken q f frac s) := by
  change execRxTsync q f false frac s = _
  unfold execRxTsync
  dsimp only
  rw [if_neg (by simp [hl]; omega), if_neg, hno, Nat.mod_eq_of_lt hfrac]
  · rfl
  · exact not_or.2 ⟨not_not.2 hrole, not_not.2 hport⟩

theorem exec_holdoverEnter {s : State} (hs : serving s = true) (hrole : timeRole s = 2) (h : valBits s 0x300014 1 1 = 0) :
    ∃ u, OnlyIn [.fab, .clk] s u ∧ s.fab.time.lastTsync + 8000 ≤ u.fab.time.holdoverAt ∧ u.fab.time.lost = false ∧
      exec .holdoverEnter s = .next (setValBits 0x300014 1 1 1 u) :=
  ⟨_, ((advanceTo_only ..).sub (by decide)).upd_fab (by decide), le_now_advanceTo .., rfl,
    congrArg Host.Outcome.next (if_neg (by rw [hrole, hs, h]; decide))⟩

theorem deckCause_of_stopped {s : State} (h : s.deck.state = 0) (cause : Nat) : deckCause cause s = s := if_neg fun hrun => absurd hrun.1 (by rw [h]; decide)

theorem exec_timeLost {s : State} (hs : serving s = true) (hrole : timeRole s = 2) (h : valBits s 0x300014 1 1 = 1) (hl : s.fab.time.lost = false)
    (hd : s.deck.state = 0) :
    ∃ u, OnlyIn [.fab, .clk] s u ∧ s.fab.time.holdoverAt + 5000000 ≤ now u ∧ u.fab.time.lost = true ∧
      exec .timeLost s = .next (post { cls := 6, code := 2 } (setValBits 0x300014 2 1 1 (setValBits 0x300014 0 1 0 u))) := by
  refine ⟨{ advanceTo (s.fab.time.holdoverAt + 5000000) s with fab := { s.fab with time := { s.fab.time with first := true, good := 0, lost := true } } },
    ((advanceTo_only ..).sub (by decide)).upd_fab (by decide), le_now_advanceTo .., rfl, ?_⟩
  refine congrArg Host.Outcome.next ((if_neg (by rw [hrole, hs, h, hl]; decide)).trans ?_)
  refine deckCause_of_stopped ?_ 5
  rw [(post_only ..).deck_eq (by decide)]
  exact hd

/-- What an offset of at most 50 ns shows and counts. -/
def ptpTaken (off : Int) (s : State) : State :=
  setVal 0xB00304 (BitVec.ofNat 32 (b2n (decide (16 ≤ min 16 (s.mgmt.ptpGood + 1))) + 2 * toTwos off 31))
    { s with mgmt := { s.mgmt with ptpGood := min 16 (s.mgmt.ptpGood + 1) } }

theorem exec_ptpMessage {dom : BitVec 8} {off : Int} {s : State} (hs : serving s = true) (hen : bit (actW s 0xB00300).toNat 0 = true)
    (hdom : bits (actW s 0xB00300).toNat 1 8 = dom.toNat) (hlo : -50 ≤ off) (hhi : off ≤ 50) :
    ∃ t, exec (.ptpMessage dom off) s = .next t ∧ OnlyIn [.fab] (ptpTaken off s) t := by
  have hfits : (decide (-(2 ^ 30 : Int) ≤ off) && decide (off < 2 ^ 30)) = true := by
    rw [Bool.and_eq_true, decide_eq_true_iff, decide_eq_true_iff]
    omega
  have hexec : exec (.ptpMessage dom off) s = execPtpMessage dom off s := rfl
  rw [hexec]
  unfold execPtpMessage
  simp only [hen, hdom, mainOn_of_serving hs, hfits, if_pos (And.intro hlo hhi)]
  refine ⟨_, congrArg Host.Outcome.next (if_neg (by simp)), ?_⟩
  exact .ite' ((OnlyIn.refl _ (ptpTaken off s)).upd_fab (by decide)) (.refl _ _)

theorem bits_ofNat_pack {b n : Nat} (hb : b < 2) (hn : n < 2 ^ 31) : (BitVec.ofNat 32 (b + 2 * n)).toNat = b + 2 * n := by
  rw [BitVec.toNat_ofNat]
  omega

theorem toTwos_lt (i : Int) (w : Nat) : toTwos i w < 2 ^ w := by
  have hpos : (0 : Int) < ((2 ^ w : Nat) : Int) := by positivity
  have := Int.emod_lt_of_pos i hpos
  have := Int.emod_nonneg i hpos.ne'
  unfold toTwos
  omega

theorem b2n_lt (b : Bool) : b2n b < 2 := by cases b <;> decide

/-- Settles O45: each timer and flit by its row. -/
theorem fabricTimeIsLostInHoldover : Obligations.FabricTimeIsLostInHoldover := by
  unfold Obligations.FabricTimeIsLostInHoldover
  intro s hs
  refine ⟨?_, fun q f frac hq hl hfrac => ⟨?_, fun hrole hport hno => ?_⟩, fun hrole h => ?_, fun hrole h hlost hd => ?_,
    fun dom off hen hdom hlo hhi => ?_⟩
  · have hframe := OnlyIn.forEach (m := [.fab]) (f := fun p s => modPort p (fun x => { x with tsyncDue := x.tsyncDue || x.link == .up }) s)
      (List.range 6) (advanceTo ((now s / 1000 + 1) * 1000) s) fun _ _ => modPort_only ..
    refine ⟨_, exec_tsyncDue hs, (hframe.sub (by decide)).via (List.Subset.refl _) ((advanceTo_only ..).sub (by decide)), ?_, fun q hq => ?_⟩
    · rw [now_of_clk (hframe.clk_eq (by decide))]
      exact le_now_advanceTo ..
    · rw [getPort_forEach_tsyncDue, if_pos (List.mem_range.2 hq)]
      rfl
  · exact congrArg Host.Outcome.next (if_pos (.inr (.inl rfl)))
  · have hframe : OnlyIn [.fab, .regs] s (tsyncTaken q f frac s) :=
      (setValBits_only ..).via (by decide) ((setValBits_only ..).via (by decide) (((setPort_only ..).sub (by decide)).upd_fab (by decide)))
    refine ⟨_, exec_rxTsync_parent hq hl hfrac hrole hport hno, hframe, hframe.act_eq (by decide), ?_, rfl, congrArg Port.tseqEcho (getPort_setPort ..),
      congrArg Port.tRxLast (getPort_setPort ..)⟩
    rw [tsyncTaken, valBits_setValBits_of_below _ _ (by decide) (by decide), valBits_setValBits_self (by decide)]
    rfl
  · obtain ⟨u, hu, hat, hlost, hexec⟩ := exec_holdoverEnter hs hrole h
    have hframe : OnlyIn [.fab, .regs, .clk] s (setValBits 0x300014 1 1 1 u) := (setValBits_only ..).via (by decide) (hu.sub (by decide))
    exact ⟨_, hexec, hframe, hframe.act_eq (by decide), valBits_setValBits_self (by decide) .., hat, hlost⟩
  · obtain ⟨u, hu, hat, hlost, hexec⟩ := exec_timeLost hs hrole h hlost hd
    have hpost := post_only { cls := 6, code := 2 } (setValBits 0x300014 2 1 1 (setValBits 0x300014 0 1 0 u))
    have hframe : OnlyIn [.fab, .regs, .clk, .out, .host, .mgmt] s _ := hpost.via (by decide)
      ((setValBits_only ..).via (by decide) ((setValBits_only ..).via (by decide) (hu.sub (by decide))))
    refine ⟨_, hexec, hframe, hframe.act_eq (by decide), ?_, ?_, ?_, ?_⟩
    · rw [valBits_of_regs (hpost.regs_eq (by decide)), valBits_setValBits_of_below _ _ (by decide) (by decide), valBits_setValBits_self (by decide)]
      rfl
    · rw [valBits_of_regs (hpost.regs_eq (by decide)), valBits_setValBits_self (by decide)]
      rfl
    · rw [hpost.fab_eq (by decide)]
      exact hlost
    · rw [now_of_clk (hpost.clk_eq (by decide))]
      exact hat
  · obtain ⟨t, hexec, hframe⟩ := exec_ptpMessage hs hen hdom hlo hhi
    have htaken : OnlyIn [.mgmt, .regs, .fab] s (ptpTaken off s) := (setVal_only ..).via (by decide) ((OnlyIn.refl _ s).upd_mgmt (by decide) (.inr rfl))
    have hword : (valW t 0xB00304).toNat = b2n (decide (16 ≤ min 16 (s.mgmt.ptpGood + 1))) + 2 * toTwos off 31 := by
      rw [show valW t 0xB00304 = valW (ptpTaken off s) 0xB00304 by simp [valW, hframe.regs_eq (by decide)], ptpTaken, valW_setVal,
        bits_ofNat_pack (b2n_lt _) (toTwos_lt off 31)]
    have hgood := b2n_lt (decide (16 ≤ min 16 (s.mgmt.ptpGood + 1)))
    have htwos := toTwos_lt off 31
    refine ⟨t, hexec, (hframe.sub (by decide)).via (List.Subset.refl _) htaken, by rw [hframe.mgmt_eq (by decide)]; rfl, ?_, ?_⟩
    · rw [valBits, hword, bits]
      by_cases h : 15 ≤ s.mgmt.ptpGood
      · rw [if_pos h, decide_eq_true (by omega), b2n, if_pos rfl, pow_zero, pow_one, Nat.div_one]
        omega
      · rw [if_neg h, decide_eq_false (by omega), b2n, if_neg (by decide), pow_zero, pow_one, Nat.div_one]
        omega
    · rw [valBits, hword, bits]
      omega

end Sys2Proof.Machine

namespace Sys2Proof.Machine

open Sys2Proof

/-! ## DECK_LOAD (R240 to R242) -/

/-- What the deck's own record is after a change that is shown. -/
theorem modDeck_deck (f : Deck → Deck) (s : State) : (modDeck f s).deck = f s.deck := rfl

/-- The checks of a DECK_LOAD, in their order. -/
def loadStatus (s : State) (c : Cmd) : Status :=
  firstBad [failIf (fld c.desc 8 4 != 0 || !allZero (slice c.desc 24 40) || decide (fld c.desc 12 4 < 128) || decide (8388608 < fld c.desc 12 4))
      .illegalValue,
    failIf s.deck.swap.isSome .busy, checkAddr s c (fld c.desc 16 8) (fld c.desc 12 4)]

theorem loadStatus_of_clean {s : State} {c : Cmd} (h0 : fld c.desc 8 4 = 0) (hz : allZero (slice c.desc 24 40) = true) (hmin : 128 ≤ fld c.desc 12 4)
    (hmax : fld c.desc 12 4 ≤ 8388608) :
    loadStatus s c = firstBad [failIf s.deck.swap.isSome .busy, checkAddr s c (fld c.desc 16 8) (fld c.desc 12 4)] := by
  unfold loadStatus
  rw [h0, hz, decide_eq_false (by omega), decide_eq_false (by omega)]
  exact firstBad_of_ok _

theorem admitDeckLoad_of_bad {s : State} {c : Cmd} {st : Status} (h : loadStatus s c = st) (hst : st ≠ .ok) :
    admitDeckLoad c s = endAtAdmission c st 0 s := by
  subst h
  exact if_pos hst

theorem admitDeckLoad_of_good {s : State} {c : Cmd} (hr : c.ring ≠ deckRing) (h : loadStatus s c = .ok)
    (hok : checkAddr s c (fld c.desc 16 8) (fld c.desc 12 4) = .ok) (hg : isGfa (fld c.desc 16 8) = false) :
    admitDeckLoad c s =
      emit (.dmaRead (ringFn s c.ring) (fld c.desc 16 8) (fld c.desc 12 4) (.input c.ring c.rseq)) (admitCmd c .block s) := by
  unfold admitDeckLoad
  dsimp only
  rw [if_neg (by rw [show firstBad _ = loadStatus s c from rfl, h]; decide), getCmd_admitCmd hr, Option.getD_some, startRead_admitCmd hr _ hok hg]

theorem exec_deckLoad {s : State} {ring : Nat} {rseq : BitVec 32} {c : Cmd} (hc : MayAdmit s ring rseq c) (hop : c.op = 0x40) :
    exec (.deckLoad ring rseq) s = .next (admitDeckLoad c s) :=
  congrArg Host.Outcome.next (admitting_of_mayAdmit hc (by simp [hop]) admitDeckLoad)

/-- The image of a DECK_LOAD arrives whole, where no window of the partition lies in its way. -/
theorem exec_imageArrives {s : State} {ring : Nat} {rseq : BitVec 32} {c : Cmd} {b : List Byte} (hc : Runs s ring rseq c) (hop : c.op = 0x40)
    (hg : isGfa (fld c.desc 16 8) = false) (hs : isScratch c (fld c.desc 16 8) = false) (hb : b.length = fld c.desc 12 4)
    (hwin : windowsOf s c.part = []) (hm : c.metered = false) :
    exec (.dmaReadCompletion (.input ring rseq) (.data b)) s = .next (deckInput c (.now b) s) := by
  have hrange : inputRange s c = some (fld c.desc 16 8, fld c.desc 12 4) := by
    unfold inputRange
    simp only [hop, Option.filter_some, hs, hg, Bool.not_false, Bool.and_self, if_true]
  have hmeter : meterData c resPcieIn (fld c.desc 12 4) s = s := by
    unfold meterData meter
    rw [hm]
    exact ite_self _
  have hopen : windowOpen s c.part (fld c.desc 16 8) (slice b 0 (fld c.desc 12 4)) = b := by
    unfold windowOpen throughWindows
    rw [hwin, List.foldl_nil, slice_self hb]
  refine congrArg Host.Outcome.next ((if_pos hc.serves).trans ?_)
  change inputRead ring rseq (.data b) s = _
  unfold inputRead
  simp only [runningCmd_of_runs hc, hrange, hmeter, hopen]
  unfold resumeInput
  simp only [hop]

theorem deckInput_of_image {c : Cmd} {b : List Byte} {s : State} (h : imageFail b = none) (hr : fld b 32 2 = 0 ∨ sroutePending s = false) :
    deckInput c (.now b) s = finish c .ok (fld b 4 4) (modDeck (fun d => { d with pend := some (readImage b) }) s) := by
  have hroutes : ¬ (fld b 32 2 ≠ 0 ∧ sroutePending s = true) := by
    rintro ⟨h1, h2⟩
    obtain h0 | h0 := hr
    · exact h1 h0
    · exact Bool.false_ne_true (h0 ▸ h2)
  unfold deckInput
  simp only [h, Option.none_or, if_neg hroutes]

theorem deckInput_of_fail {c : Cmd} {b : List Byte} {s : State} {k j : Nat} (h : imageFail b = some (k, j)) :
    deckInput c (.now b) s = finish c (Status.ofCode (checkFail k)) (j + 2 ^ 32 * k) (modDeck (fun d => { d with pend := none }) s) := by
  unfold deckInput
  simp only [h, Option.some_or]

/-- A command that ends after a change of the deck. -/
theorem finish_modDeck_spec {c : Cmd} (hr : c.ring ≠ deckRing) (st : Status) (result : Nat) (f : Deck → Deck) (s : State) :
    OnlyIn (.deck :: endAreas) s (finish c st result (modDeck f s)) ∧ EndsWith (finish c st result (modDeck f s)) c st result ∧
      (finish c st result (modDeck f s)).deck = f s.deck :=
  ⟨((finish_only ..).sub (by decide)).via (List.Subset.refl _) ((modDeck_only ..).sub (by decide)), endsWith_finish hr ..,
    ((finish_only ..).deck_eq (by decide)).trans (modDeck_deck ..)⟩

/-! ## DECK_SWAP (R243, R244) -/

/-- The swap that a DECK_SWAP asks for. -/
def swapOf (c : Cmd) : SwapReq :=
  { key := cmdKey c.ring c.rseq, stop := swapStop c, restart := swapRestart c, cring := fld c.desc 12 2, start := fld c.desc 16 8
    stepBase := fld c.desc 24 8 }

theorem admitSwap_of_bad {s : State} {c : Cmd} (h : swapStatus s c ≠ .ok) : admitSwap c s = endAtAdmission c (swapStatus s c) 0 s := by
  unfold admitSwap
  split
  next hok => exact absurd hok h
  next => rfl

theorem admitSwap_of_offline {s : State} {c : Cmd} (h : swapStatus s c = .ok) (ho : offline s 8 = true) :
    admitSwap c s = faultAtAdmission c 16 8 s := by
  unfold admitSwap
  rw [h]
  exact if_pos ho

theorem admitSwap_of_good {s : State} {c : Cmd} (h : swapStatus s c = .ok) (ho : offline s 8 = false) :
    admitSwap c s = modDeck (fun d => { d with swap := some (swapOf c) }) (admitCmd c .none s) := by
  unfold admitSwap
  rw [h]
  exact if_neg (by rw [ho]; decide)

theorem exec_swap {s : State} {ring : Nat} {rseq : BitVec 32} {c : Cmd} {i : Instr} {stop restart : Bool} (hc : MayAdmit s ring rseq c) (hop : c.op = 0x41)
    (hstop : swapStop c = stop) (hrestart : swapRestart c = restart)
    (hi : (i, stop, restart) ∈ [(Instr.deckSwap ring rseq, false, false), (.deckSwapStop ring rseq, true, false), (.deckSwapRestart ring rseq, false, true)]) :
    exec i s = .next (admitSwap c s) := by
  simp only [List.mem_cons, List.not_mem_nil, or_false, Prod.mk.injEq] at hi
  obtain ⟨rfl, rfl, rfl⟩ | ⟨rfl, rfl, rfl⟩ | ⟨rfl, rfl, rfl⟩ := hi <;>
    exact congrArg Host.Outcome.next (admitting_of_mayAdmit hc (by simp [hop, hstop, hrestart]) admitSwap)

/-! ## START (R245) -/

theorem loadFences_of_none {s : State} (h : s.mgmt.fences = []) : loadFences s = s := by
  have hmgmt : { s.mgmt with fences := [] } = s.mgmt := by rw [← h]
  unfold loadFences
  dsimp only
  rw [h, forEach_nil, hmgmt]

theorem endSwap_of_found {s : State} {q : SwapReq} {c : Cmd} (h : tget s.cmds q.key = some c) (t : Nat) : endSwap q t s = finish c .ok t s := by
  unfold endSwap
  rw [h]

/-- The deck as it starts with an image, no other running. -/
def startedDeck (q : SwapReq) (d : DeckImage) (t : Nat) (e : Deck) : Deck :=
  { nextCmd := e.nextCmd, seen := e.seen, goodRounds := e.goodRounds, steps := e.steps
    active := some d, state := 1, cring := q.cring, stepBase := q.stepBase, round := t / d.roundNs }

theorem startDeck_of_pending {s : State} {q : SwapReq} {d : DeckImage} (hq : q.stop = false) (hr : q.restart = false) (hf : s.mgmt.fences = [])
    (hp : s.deck.pend = some d) (hroutes : d.routes = []) (t : Nat) :
    startDeck q t s = endSwap q t (modDeck (fun _ => startedDeck q d t s.deck) (advanceTo t s)) := by
  have hp' : (advanceTo t s).deck.pend = some d := hp
  unfold startDeck
  simp only [loadFences_of_none (show (advanceTo t s).mgmt.fences = [] from hf), hq, hr, hp', hroutes, Bool.false_eq_true, if_false]
  rfl

/-- The deck after a STOP. -/
def stoppedDeck (e : Deck) : Deck := { pend := e.pend, nextCmd := e.nextCmd, seen := e.seen, goodRounds := e.goodRounds }

theorem startDeck_of_stop {s : State} {q : SwapReq} (hq : q.stop = true) (hf : s.mgmt.fences = []) (hsteps : s.deck.steps = []) (t : Nat) :
    startDeck q t s = endSwap q t (modDeck (fun _ => stoppedDeck s.deck) (advanceTo t s)) := by
  have hsteps' : (advanceTo t s).deck.steps = [] := hsteps
  unfold startDeck
  simp only [loadFences_of_none (show (advanceTo t s).mgmt.fences = [] from hf), hq, hsteps', forEach_nil, if_true]
  rfl

theorem exec_deckStart_fresh {s : State} {q : SwapReq} {d : DeckImage} (hs : serving s = true) (hsw : s.deck.swap = some q) (hr : q.restart = false)
    (hq : q.stop = false) (ha : s.deck.active = none) (hp : s.deck.pend = some d) :
    exec .deckStart s = .next (startDeck q (roundUp (max (now s) q.start) d.roundNs) s) := by
  change execDeckStart s = _
  unfold execDeckStart
  simp only [hsw, hs, ha, hp, hr, hq]
  rfl

theorem exec_deckStart_stop {s : State} {q : SwapReq} {d : DeckImage} (hs : serving s = true) (hsw : s.deck.swap = some q) (hq : q.stop = true)
    (ha : s.deck.active = some d) (hst : s.deck.state = 1) (hb : boundaryReady s d = true) (hdue : swapDue s d = true) :
    exec .deckStart s = .next (startDeck q (roundEnd s d) s) := by
  change execDeckStart s = _
  unfold execDeckStart
  simp only [hsw, hs, ha, hst, hq, hb, hdue]
  rfl

theorem le_roundUp {m : Nat} (v : Nat) (h : m ≠ 0) : v ≤ roundUp v m := by
  unfold roundUp cdiv
  have hlt := Nat.lt_div_mul_add (a := v + m - 1) (Nat.pos_of_ne_zero h)
  omega

/-- A swap that has taken effect: its command has ended with the time, and the deck is as started or stopped. -/
theorem swapTaken_spec {s : State} {ring : Nat} {rseq : BitVec 32} {c : Cmd} {q : SwapReq} (hc : Runs s ring rseq c) (hkey : q.key = cmdKey ring rseq)
    (t : Nat) (e : Deck) :
    EndsWith (endSwap q t (modDeck (fun _ => e) (advanceTo t s))) c .ok t ∧ t ≤ now (endSwap q t (modDeck (fun _ => e) (advanceTo t s))) ∧
      (endSwap q t (modDeck (fun _ => e) (advanceTo t s))).deck = e ∧ (endSwap q t (modDeck (fun _ => e) (advanceTo t s))).mem = s.mem ∧
      (endSwap q t (modDeck (fun _ => e) (advanceTo t s))).seqs = s.seqs := by
  have hfound : tget (modDeck (fun _ => e) (advanceTo t s)).cmds q.key = some c := by
    rw [hkey, (modDeck_only ..).cmds_eq (by decide), (advanceTo_only ..).cmds_eq (by decide)]
    exact hc.found
  rw [endSwap_of_found hfound]
  refine ⟨endsWith_finish hc.ring_ne .., ?_, ((finish_only ..).deck_eq (by decide)).trans (modDeck_deck ..), ((finish_only ..).mem_eq (by decide)).trans (((modDeck_only ..).mem_eq (by decide)).trans ((advanceTo_only ..).mem_eq (by decide))),
    ((finish_only ..).seqs_eq (by decide)).trans (((modDeck_only ..).seqs_eq (by decide)).trans ((advanceTo_only ..).seqs_eq (by decide)))⟩
  rw [now_of_clk ((finish_only ..).clk_eq (by decide))]
  exact le_now_advanceTo ..

/-- Settles O46: the load's two steps, the swap's admission, and START. -/
theorem decksLoadAndSwap : Obligations.DecksLoadAndSwap := by
  unfold Obligations.DecksLoadAndSwap
  refine ⟨fun ring rseq c n s hop hn => ⟨fun hc h0 hz hmin hmax => ?_, fun b hc hwork hg hscr hb hwin hm hroutes => ?_⟩,
    fun ring rseq c s hop => ⟨fun i stop restart hi hc hstop hrestart => ?_, fun q d hc hsw hkey hq hr ha hp hroutes hf hne => ?_,
      fun q d hc hsw hkey hq ha hst hb hdue hsteps hf => ?_⟩⟩
  · subst hn
    rw [exec_deckLoad hc hop]
    have hclean := loadStatus_of_clean (s := s) h0 hz hmin hmax
    refine ⟨fun hsw => ?_, fun hsw hok hg => ?_⟩
    · rw [Option.isSome_iff_ne_none.2 hsw, failIf_true, firstBad_of_bad _ (by decide)] at hclean
      rw [admitDeckLoad_of_bad hclean (by decide)]
    · rw [hsw, hok] at hclean
      rw [admitDeckLoad_of_good (hc.ringIs ▸ hc.host) hclean hok hg, hc.ringIs, hc.rseqIs]
  · subst hn
    rw [exec_imageArrives hc hop hg hscr hb hwin hm]
    refine ⟨fun himg => ?_, fun k j hfail => ?_⟩
    · rw [deckInput_of_image himg hroutes]
      exact ⟨_, rfl, finish_modDeck_spec hc.ring_ne ..⟩
    · rw [deckInput_of_fail hfail]
      exact ⟨_, rfl, finish_modDeck_spec hc.ring_ne ..⟩
  · rw [exec_swap hc hop hstop hrestart hi]
    refine ⟨fun hbad => by rw [admitSwap_of_bad hbad], fun hok ho => by rw [admitSwap_of_offline hok ho], fun hok ho => ?_⟩
    rw [admitSwap_of_good hok ho]
    have hframe : OnlyIn [.regs, .cmds, .deck] s (modDeck (fun d => { d with swap := some (swapOf c) }) (admitCmd c .none s)) :=
      (modDeck_only ..).via (by decide) ((admitCmd_only ..).sub (by decide))
    refine ⟨_, rfl, hframe, hframe.act_eq (by decide), ?_⟩
    rw [modDeck_deck, (admitCmd_only ..).deck_eq (by decide), swapOf, hc.ringIs, hc.rseqIs, hstop, hrestart]
  · obtain ⟨hend, hnow, hdeck, hmem, hseqs⟩ := swapTaken_spec (s := s) hc hkey (roundUp (max (now s) q.start) d.roundNs)
      (startedDeck q d (roundUp (max (now s) q.start) d.roundNs) s.deck)
    have hle := le_roundUp (max (now s) q.start) hne
    rw [exec_deckStart_fresh hc.serves hsw hr hq ha hp, startDeck_of_pending hq hr hf hp hroutes]
    refine ⟨_, roundUp (max (now s) q.start) d.roundNs, rfl, Nat.mul_mod_left .., by omega, by omega, hnow, hend, ?_, ?_, ?_, ?_, ?_, ?_, ?_, hmem,
      hseqs⟩ <;> rw [hdeck] <;> rfl
  · obtain ⟨hend, hnow, hdeck, hmem, hseqs⟩ := swapTaken_spec hc hkey (roundEnd s d) (stoppedDeck s.deck)
    rw [exec_deckStart_stop hc.serves hsw hq ha hst hb hdue, startDeck_of_stop hq hf hsteps]
    refine ⟨_, rfl, hend, hnow, ?_, ?_, ?_, hmem, hseqs⟩ <;> rw [hdeck] <;> rfl

end Sys2Proof.Machine

namespace Sys2Proof.Machine

open Sys2Proof

/-! ## Issuing a card (R234, R238) -/

theorem issueCard_cnt (d : DeckImage) (i : Nat) (c : Card) (cyc : Nat) (s : State) :
    cnt (issueCard d i c cyc s) 0x200100 = cnt s 0x200100 + 1 := by
  have hcount (e : Deck) (t : State) (ht : t.regs = s.regs) : cnt (deckCnt 0 1 (setDeck e t)) 0x200100 = cnt s 0x200100 + 1 := by
    rw [deckCnt, cnt_cntAdd_self, cnt_of_regs (s := s) (by exact ht)]
    rfl
  have hclk : (if (s.deck.carried.any fun x => x.1 == i) = true then s else advanceTo (d.slotAt s.deck.round c.slot) s).regs = s.regs := by
    split <;> rfl
  unfold issueCard
  dsimp only
  split
  · exact hcount _ _ hclk
  · exact hcount _ _ hclk

/-- What the issue leaves of the deck's record beside the cards that it names. -/
theorem issueCard_received (d : DeckImage) (i : Nat) (c : Card) (cyc : Nat) (s : State) :
    (issueCard d i c cyc s).deck.received = s.deck.received := by
  unfold issueCard
  dsimp only
  split
  · split <;> split <;> split <;> rfl
  · split <;> split <;> split <;> rfl

/-- A card of this round is marked as issued, at its slot's time or later. -/
theorem issueCard_issued {d : DeckImage} {i : Nat} {s : State} (h : ∀ x ∈ s.deck.carried, x.1 ≠ i) (c : Card) (cyc : Nat) :
    (issueCard d i c cyc s).deck.issued = s.deck.issued ++ [i] ∧ d.slotAt s.deck.round c.slot ≤ now (issueCard d i c cyc s) := by
  have hlate : (s.deck.carried.any fun x => x.1 == i) = false := List.any_eq_false.2 fun x hx => by simp [h x hx]
  unfold issueCard
  simp only [hlate, Bool.false_eq_true, if_false]
  refine ⟨?_, ?_⟩
  · split
    · split <;> split <;> rfl
    · split <;> split <;> rfl
  · split
    · exact le_now_advanceTo ..
    · exact le_now_advanceTo ..

theorem cardRow_of_issuable {i kind cyc : Nat} {d : DeckImage} {c : Card} {s : State} (hd : runningDeck s = some d)
    (hi : issuable s d i kind = some (c, cyc)) (f : DeckImage → Card → Nat → Nat → State → State) :
    cardRow i kind f s = .next (f d c cyc (stepNumber s d cyc c.step) (issueCard d i c cyc s)) := by
  unfold cardRow
  simp only [hd, hi]

theorem getCnt_issueCard (d : DeckImage) (i : Nat) (c : Card) (cyc : Nat) (s : State) (k : Nat) : getCnt (issueCard d i c cyc s) k = getCnt s k :=
  getCnt_of_rma ((issueCard_only ..).rma_eq (by decide)) k

/-! ## RECV (R220, R238) -/

/-- What a fold takes while bytes are missing is a sublist of what it looks at. -/
theorem takeWhileShort_sublist {α : Type} (size : α → Nat) (k : Nat) (l a : List α) (n : Nat) :
    ∃ m, (l.foldl (fun (a, n) x => if n < k then (a ++ [x], n + size x) else (a, n)) (a, n)).1 = a ++ m ∧ m.Sublist l := by
  induction l generalizing a n with
  | nil => exact ⟨[], by simp, .refl _⟩
  | cons x l ih =>
    rw [List.foldl_cons]
    dsimp only
    by_cases h : n < k
    · obtain ⟨m, hm, hsub⟩ := ih (a ++ [x]) (n + size x)
      refine ⟨x :: m, ?_, hsub.cons_cons x⟩
      rw [if_pos h, hm]
      simp
    · obtain ⟨m, hm, hsub⟩ := ih a n
      exact ⟨m, by rw [if_neg h]; exact hm, hsub.cons x⟩

theorem recvPackets_sublist (s : State) (c : Card) : (recvPackets s c).Sublist s.fab.sched := by
  obtain ⟨m, hm, hsub⟩ := takeWhileShort_sublist (fun x : Nat × Packet => x.2.payload.length) c.arg2
    (s.fab.sched.filter fun (r, p) => r == c.arg0 % 4096 && p.fab.src.toNat == c.arg0 / 65536) [] 0
  have heq : recvPackets s c = m := hm
  rw [heq]
  exact hsub.trans List.filter_sublist

theorem length_erased {α : Type} [BEq α] [LawfulBEq α] {m l : List α} (h : m.Sublist l) :
    (m.foldl (fun l x => l.erase x) l).length + m.length = l.length := by
  have hperm := List.subperm_append_diff_self_of_count_le fun x _ => (h.count_le x)
  rw [List.diff_eq_foldl] at hperm
  have hlen := hperm.length_eq
  rw [List.length_append] at hlen
  exact (Nat.add_comm ..).trans hlen

theorem recvPackets_of_fab {s t : State} (h : t.fab = s.fab) (c : Card) : recvPackets t c = recvPackets s c := by simp [recvPackets, h]

theorem scratchWrite_received (a : Nat) (bs : List Byte) (s : State) : (scratchWrite a bs s).deck.received = s.deck.received := by
  induction bs generalizing a s with
  | nil => rfl
  | cons b bs ih => rw [scratchWrite, ih]

theorem countSched_received (d : DeckImage) (c : Card) (n flits : Nat) (s : State) : (countSched d c n flits s).deck.received = s.deck.received := by
  unfold countSched
  split <;> rfl

theorem tryRecv_of_short {d : DeckImage} {i n : Nat} {c : Card} {s : State} (hi : i ∉ s.deck.received)
    (h : ((recvPackets s c).flatMap fun e => e.2.payload).length < c.arg2) : tryRecv d i c n s = s := by
  have htake : takeSched d c n s = (false, s) := if_pos h
  unfold tryRecv
  rw [if_neg (by simp [hi]), htake]

/-- The state in which a RECV's bytes are in scratch and counted to its step. -/
def received (d : DeckImage) (c : Card) (n : Nat) (s : State) : State :=
  countSched d c n (sumN ((recvPackets s c).map fun e => e.2.fab.flits))
    (scratchWrite c.arg1 (((recvPackets s c).flatMap fun e => e.2.payload).take c.arg2)
      { s with fab := { s.fab with sched := (recvPackets s c).foldl (fun l x => l.erase x) s.fab.sched } })

theorem tryRecv_of_bytes {d : DeckImage} {i n : Nat} {c : Card} {s : State} (hi : i ∉ s.deck.received)
    (h : c.arg2 ≤ ((recvPackets s c).flatMap fun e => e.2.payload).length) :
    tryRecv d i c n s = setDeck { (received d c n s).deck with received := (received d c n s).deck.received ++ [i] } (received d c n s) := by
  have htake : takeSched d c n s = (true, received d c n s) := if_neg (Nat.not_lt.2 h)
  unfold tryRecv
  rw [if_neg (by simp [hi]), htake]

theorem received_spec (d : DeckImage) (c : Card) (n : Nat) (s : State) :
    OnlyIn [.deck, .fab] s (received d c n s) ∧ (received d c n s).deck.received = s.deck.received ∧
      (received d c n s).fab.sched.length + (recvPackets s c).length = s.fab.sched.length := by
  refine ⟨(countSched_only ..).via (by decide) ((scratchWrite_only ..).via (by decide) ((OnlyIn.refl _ s).upd_fab (by decide))), ?_, ?_⟩
  · rw [received, countSched_received, scratchWrite_received]
  · rw [received, (countSched_only ..).fab_eq (by decide), (scratchWrite_only ..).fab_eq (by decide)]
    exact length_erased (recvPackets_sublist s c)

/-! ## WAIT and RELEASE (R256) -/

/-- Every step that is due is an open step. -/
theorem mem_steps_of_due {s : State} {x : StepRun} (h : x ∈ dueSteps s) : x ∈ s.deck.steps :=
  (List.mem_filter.1 (List.mem_mergeSort.1 h)).1

theorem loan_modStep {n : Nat} {f : StepRun → StepRun} {s : State} (hf : ∀ x, (f x).loan = x.loan) (h : ∀ x ∈ s.deck.steps, x.loan = false) :
    ∀ x ∈ (modStep n f s).deck.steps, x.loan = false := by
  intro x hx
  obtain ⟨y, hy, rfl⟩ := List.mem_map.1 hx
  split
  · rw [hf, h y hy]
  · exact h y hy

/-- Without a step of loan mode a RELEASE card leaves its step to the end of the round. -/
theorem release_of_plain {n : Nat} {s : State} (h : ∀ x ∈ s.deck.steps, x.loan = false) :
    (dueSteps s).find? (fun x => x.number == n && x.loan) = none := by
  refine List.find?_eq_none.2 fun x hx => ?_
  rw [h x (mem_steps_of_due hx), Bool.and_false]
  exact Bool.false_ne_true

/-! ## EXEC (R239) -/

/-- The command of an EXEC card's task stands with its step. -/
def taskStands (i n : Nat) (x : Cmd) (u : State) : State :=
  modStep n (fun y => { y with tasks := tset y.tasks i (cmdKey x.ring x.rseq) }) (setCmd x (setDeck { u.deck with nextCmd := u.deck.nextCmd + 1 } u))

/-- An EXEC card's action on the state of its issue. -/
theorem exec_cardExec {i cyc : Nat} {d : DeckImage} {c : Card} {tk : Task} {x : Cmd} {s u : State} (hd : runningDeck s = some d)
    (hi : issuable s d i 1 = some (c, cyc)) (hu : u = issueCard d i c cyc s) (htk : d.tasks[c.arg0]? = some tk)
    (hx : x = { ring := deckRing, rseq := u.deck.nextCmd, desc := taskDesc tk cyc, acceptT := now u
                step := BitVec.ofNat 64 (stepNumber s d cyc c.step) }) :
    exec (.cardExec i) s = .next (if firstBad [failIf (fld x.desc 0 1 != 2) .version, failIf (fld x.desc 2 2 &&& 0xFEC0 != 0) .illegalValue] ≠ .ok
      then finish x (firstBad [failIf (fld x.desc 0 1 != 2) .version, failIf (fld x.desc 2 2 &&& 0xFEC0 != 0) .illegalValue]) 0
        (taskStands i (stepNumber s d cyc c.step) x u)
      else admitByOp x (taskStands i (stepNumber s d cyc c.step) x u)) := by
  subst hu hx
  change execCardExec i s = _
  rw [execCardExec, cardRow_of_issuable hd hi]
  simp only [htk]
  rfl

/-- Settles O47: every card's row is its action on the state of its issue. -/
theorem cardsActInTheirSlot : Obligations.CardsActInTheirSlot := by
  unfold Obligations.CardsActInTheirSlot
  refine ⟨fun i k cyc n d c s u hd hi hn hu => ?_, fun i cyc n d c tk x s u hd hi hn hu htk hx => ?_⟩
  · subst hn hu
    have hframe := issueCard_only d i c cyc s
    have hrow (f : DeckImage → Card → Nat → Nat → State → State) := cardRow_of_issuable hd hi f
    have hrecv : i ∉ s.deck.received → i ∉ (issueCard d i c cyc s).deck.received := by rw [issueCard_received]; exact id
    refine ⟨⟨hframe.sub (by decide), hframe.act_eq (by decide), issueCard_cnt .., fun hno => issueCard_issued hno c cyc⟩, ?_, ?_, ?_, ?_, ?_, ?_, ?_, ?_, ?_⟩
    · rintro rfl
      change execCardHold i s = _
      rw [execCardHold, hrow]
    · rintro rfl
      change execCardSend i s = _
      rw [execCardSend, hrow]
    · rintro rfl hnot hshort
      change execCardRecv i s = _
      rw [execCardRecv, hrow, tryRecv_of_short (hrecv hnot) hshort]
    · rintro b rfl hnot rfl hlen
      obtain ⟨hrec, hmarks, hsched⟩ := received_spec d c (stepNumber s d cyc c.step) (issueCard d i c cyc s)
      change ∃ t, execCardRecv i s = _ ∧ _
      rw [execCardRecv, hrow, tryRecv_of_bytes (hrecv hnot) hlen]
      refine ⟨_, rfl, ?_, (setDeck_only ..).via (by decide) ((hrec.sub (by decide)).via (List.Subset.refl _) (hframe.sub (by decide))), ?_⟩
      · rw [setDeck, hmarks, issueCard_received]
      · rw [← hframe.fab_eq (by decide)]
        exact hsched
    · rintro rfl
      change execCardPost i s = _
      rw [execCardPost, hrow]
    · rintro rfl
      change execCardCheck i s = _
      rw [execCardCheck, hrow, getCnt_issueCard]
      simp only [Bool.not_eq_true']
    · rintro rfl hroom hless
      have hns : waitNs (issueCard d i c cyc s) = waitNs s := by simp only [waitNs, actBits, actW_of_act (hframe.act_eq (by decide))]
      change ∃ t, execCardWait i s = _ ∧ _
      rw [execCardWait, if_neg (by omega), hrow]
      dsimp only
      rw [getCnt_issueCard, if_neg (by omega)]
      refine ⟨_, rfl, (setDeck_only ..).via (by decide) ((hframe.sub (by decide)).upd_rma (by decide)), tget_tset_self .., ?_⟩
      rw [hns, setDeck]
      dsimp only
      rw [hframe.rma_eq (by decide)]
    · rintro rfl hroom hle
      change execCardWait i s = _
      rw [execCardWait, if_neg (by omega), hrow]
      dsimp only
      rw [getCnt_issueCard, if_pos hle]
    · rintro rfl hloan hsteps
      change execCardRelease i s = _
      rw [execCardRelease, hrow]
      dsimp only
      rw [release_of_plain]
      refine loan_modStep ?_ hsteps
      exact fun _ => rfl
  · subst hn
    rw [exec_cardExec hd hi hu htk hx]
    refine ⟨fun h2 hz => ?_, fun h2 => ?_⟩
    · rw [h2, hz, if_neg (by decide)]
      rfl
    · rw [show (fld x.desc 0 1 != 2) = true from bne_iff_ne.2 h2, failIf_true, firstBad_of_bad _ (by decide), if_pos (by decide)]
      rfl

end Sys2Proof.Machine

namespace Sys2Proof.Machine

open Sys2Proof

/-! ## The end of a span and the release of a step (R250, R252) -/

theorem runningDeck_of_active {s : State} {d : DeckImage} (hs : serving s = true) (ha : s.deck.active = some d) (hst : s.deck.state = 1) :
    runningDeck s = some d := (if_pos ⟨hst, hs⟩).trans ha

/-- What marks a card as ended. -/
def markEnded (i : Nat) (s : State) : State := setDeck { s.deck with ended := s.deck.ended ++ [i] } s

theorem exec_cardSpanEnd {i : Nat} {c : Card} {d : DeckImage} {s u : State} {cause : Option FailCause} (hd : runningDeck s = some d)
    (hc : d.cards[i]? = some c) (hi : i ∈ s.deck.issued) (hne : i ∉ s.deck.ended) (hk : c.kind ≠ 4)
    (hu : u = advanceTo (d.slotAt s.deck.round (c.slot + c.spanM1 + 1)) s) :
    (failCause u d i c (stepNumber s d (curCycle s d) c.step) cause = none → exec (.cardSpanEnd i cause) s = .next (markEnded i u)) ∧
    (∀ k, failCause u d i c (stepNumber s d (curCycle s d) c.step) cause = some k →
      exec (.cardSpanEnd i cause) s = .next (markEnded i (failCard d i c (stepNumber s d (curCycle s d) c.step) k u))) := by
  subst hu
  have hgo : s.deck.issued.contains i = true ∧ (!s.deck.ended.contains i) = true := by simp [hi, hne]
  have hexec : exec (.cardSpanEnd i cause) s = execCardSpanEnd i cause s := rfl
  rw [hexec]
  unfold execCardSpanEnd
  simp only [hd, hc, if_pos hgo, if_neg hk]
  exact ⟨fun h => by rw [h]; rfl, fun k h => by rw [h]; rfl⟩

theorem exec_stepRelease {d : DeckImage} {x : StepRun} {s : State} (hd : runningDeck s = some d) (hx : (dueSteps s).head? = some x) (hl : x.loan = false)
    (hr : roundDone s d = true) : exec (.stepRelease x.number) s = .next (endMetering (releaseStep x (advanceTo (roundEnd s d) s))) := by
  change execStepRelease x.number s = _
  unfold execStepRelease
  simp only [hd, hx, hl, hr]
  rw [if_neg (by simp), if_neg (by decide)]

/-- A step that holds outputs alone: they leave, and its completion joins its ring. -/
theorem releaseStep_of_outputs {x : StepRun} (ht : x.tasks = []) (ho : x.ops = []) (hp : x.posts = []) (hc : x.counts = []) (s : State) :
    ∃ u : State, u = completeStep x.cring x.number (stepStatus s x) (emitAll x.outs (closeStep x s)) ∧
      releaseStep x s = setVal64 0x200020 x.number { u with deck := { u.deck with released := u.deck.released ++ [x.number] } } := by
  refine ⟨_, rfl, ?_⟩
  unfold releaseStep
  simp only [ht, ho, hp, hc, List.flatMap_nil, forEach_nil]

theorem releaseStep_outputs_spec {x : StepRun} (ht : x.tasks = []) (ho : x.ops = []) (hp : x.posts = []) (hc : x.counts = []) (s : State) :
    (releaseStep x s).out = s.out ++ x.outs ∧ x.number ∈ (releaseStep x s).deck.released ∧
      (∀ y ∈ (releaseStep x s).deck.steps, y.number ≠ x.number) ∧
      (getRing (releaseStep x s) x.cring).accepted = (getRing s x.cring).accepted + 1 ∧ (releaseStep x s).mem = s.mem := by
  obtain ⟨u, hu, heq⟩ := releaseStep_of_outputs ht ho hp hc s
  have hframe : OnlyIn [.host, .cmds] (emitAll x.outs (closeStep x s)) u := hu ▸ completeStep_only ..
  rw [heq]
  refine ⟨?_, ?_, fun y hy => ?_, ?_, ?_⟩
  · rw [(setVal64_only ..).out_eq (by decide)]
    exact hframe.out_eq (by decide)
  · rw [(setVal64_only ..).deck_eq (by decide)]
    exact List.mem_append_right _ (.head _)
  · rw [(setVal64_only ..).deck_eq (by decide)] at hy
    have hsteps : u.deck.steps = s.deck.steps.filter fun y => y.number != x.number := by rw [hframe.deck_eq (by decide)]; rfl
    have hy' : y ∈ u.deck.steps := hy
    rw [hsteps] at hy'
    exact bne_iff_ne.1 (List.mem_filter.1 hy').2
  · rw [getRing_of_host ((setVal64_only ..).host_eq (by decide))]
    change (getRing u x.cring).accepted = _
    rw [hu]
    exact congrArg Ring.accepted (getRing_setRing ..)
  · rw [(setVal64_only ..).mem_eq (by decide)]
    exact hframe.mem_eq (by decide)

/-! ## The end of a round (R248, R253) -/

theorem exec_noticeTake {d : DeckImage} {s : State} (hd : runningDeck s = some d) (hn : dueNotices s ≠ []) (hr : roundDone s d = true)
    (hc : s.deck.cur ≠ 0) (hw : s.deck.rewindTo = none) : exec .noticeTake s = .next (takeNotices d (dueNotices s) s) := by
  change execNoticeTake s = _
  unfold execNoticeTake
  simp only [hd]
  rw [if_neg (by simp [hn, hr, hc, hw])]

/-- The power manager's work leaves the deck but for its count of good rounds. -/
theorem adjustMargin_deck (d : DeckImage) (rc : Nat) (s : State) : ∃ g, (adjustMargin d rc s).deck = { s.deck with goodRounds := g } := by
  unfold adjustMargin
  dsimp only
  generalize hu : setDeck _ _ = u
  have hdeck : ∃ g, u.deck = { s.deck with goodRounds := g } := hu ▸ ⟨_, rfl⟩
  split
  · split
    · rw [(marginLow_only u).deck_eq (by decide)]
      exact hdeck
    · exact hdeck
  · split
    · exact hdeck
    · exact hdeck

/-- The next round's deck. -/
theorem nextRound_deck (d : DeckImage) (s : State) :
    (nextRound d s).deck.round = s.deck.round + 1 ∧ (nextRound d s).deck.cur = s.deck.rewindTo.getD (s.deck.cur + 1) ∧
      (nextRound d s).deck.issued = [] ∧ (nextRound d s).deck.ended = [] := ⟨rfl, rfl, rfl, rfl⟩

theorem exec_roundBoundary_running {d : DeckImage} {s : State} (hs : serving s = true) (ha : s.deck.active = some d) (hst : s.deck.state = 1)
    (hb : boundaryReady s d = true) (hsw : swapDue s d = false) (rc : Nat) :
    exec (.roundBoundary rc) s = .next (nextRound d (adjustMargin d rc (advanceTo (roundEnd s d) s))) := by
  change execRoundBoundary rc s = _
  unfold execRoundBoundary
  simp only [ha, hs, hst, hb, hsw]
  rfl

theorem exec_roundBoundary_halted {d : DeckImage} {s : State} (hs : serving s = true) (ha : s.deck.active = some d) (hst : s.deck.state = 2) (rc : Nat) :
    exec (.roundBoundary rc) s =
      .next (modDeck (fun e => { e with round := e.round + 1, disp := e.disp + 1 }) (advanceTo (roundEnd s d) s)) := by
  change execRoundBoundary rc s = _
  unfold execRoundBoundary
  simp only [ha, hs, hst]
  rfl

theorem exec_marginReading {d : DeckImage} {rc : Nat} {s : State} (hd : runningDeck s = some d) (hm : marginBelow d rc 2 = true)
    (hv : vcore s < 880) : exec (.marginReading rc) s = .next (moveVcore 25 0 (deckCnt 5 1 s)) := by
  have hv' : ¬ 880 ≤ vcore (deckCnt 5 1 s) := Nat.not_le.2 hv
  change execMarginReading rc s = _
  unfold execMarginReading
  simp only [hd, hm, if_neg hv']
  rfl

theorem vcore_moveVcore (up down : Nat) (s : State) : vcore (moveVcore up down s) = max 620 (min 880 (vcore s + up) - down) % 2 ^ 10 :=
  valBits_setValBits_self (by decide) ..

/-! ## Notices and loans (R251, R256) -/

/-- A notice goes to each of its ports once. -/
theorem queue_floodNotice (n : Notice) {l : List Nat} (hl : l.Nodup) (s : State) (q : Nat) :
    (getPort (floodNotice n l s) q).queue.length = (getPort s q).queue.length + b2n (l.contains q) := by
  induction l generalizing s with
  | nil => rfl
  | cons p l ih =>
    obtain ⟨hp, hl⟩ := List.nodup_cons.1 hl
    have hstep : floodNotice n (p :: l) s =
        floodNotice n l (sendOnPort p (.notice (plainPacket s 0x20 2 (getPort s p).partner.toNat (noticeBytes n)) n) s) := rfl
    rw [hstep, ih hl, sendOnPort, getPort_modPort_eq, List.contains_cons]
    by_cases hq : q = p
    · subst hq
      simp [hp, b2n]
    · rw [if_neg hq, beq_eq_false_iff_ne.2 hq, Bool.false_or]

theorem find_notice_of_empty {port : Nat} {s : State} (h : (getPort s port).inbox = []) (p : Cargo → Bool) :
    ((getPort s port).inbox.map (·.cargo)).find? p = none := by rw [h]; rfl

theorem exec_rxNotice_seen {port : Nat} {n : Notice} {s : State} (hs : serving s = true) (hin : (getPort s port).inbox = [])
    (h : noticeKey n ∈ s.deck.seen) : exec (.rxNotice port n) s = .next s := by
  change execRxNotice port n s = _
  unfold execRxNotice
  rw [if_neg (by rw [hs]; decide)]
  dsimp only
  rw [find_notice_of_empty hin]
  exact congrArg _ (if_pos (List.contains_iff_mem.2 h))

/-- The ports on which a notice goes on. -/
def floodPorts (port : Nat) (s : State) : List Nat := (List.range 6).filter fun p => p != port && torusUp s p

/-- A notice that is new is recorded and goes on. -/
def noticeSeen (port : Nat) (n : Notice) (s : State) : State :=
  floodNotice n (floodPorts port s) (setDeck { s.deck with seen := s.deck.seen ++ [noticeKey n] } s)

theorem exec_rxNotice_first {port : Nat} {n : Notice} {d : DeckImage} {s : State} (hs : serving s = true) (hin : (getPort s port).inbox = [])
    (h : noticeKey n ∉ s.deck.seen) (hst : s.deck.state = 1) (ha : s.deck.active = some d) (hid : d.id = n.deckId.toNat)
    (htype : n.ntype = 1 ∨ n.ntype = 2) :
    exec (.rxNotice port n) s = .next (setDeck { s.deck with seen := s.deck.seen ++ [noticeKey n], notices := s.deck.notices ++ [n] } (noticeSeen port n s)) := by
  have hdeck : (noticeSeen port n s).deck = { s.deck with seen := s.deck.seen ++ [noticeKey n] } := (floodNotice_only ..).deck_eq (by decide)
  have hours : (noticeSeen port n s).deck.state = 1 ∧ (noticeSeen port n s).deck.active.map (·.id) = some n.deckId.toNat ∧ (n.ntype = 1 ∨ n.ntype = 2) := by
    rw [hdeck]
    exact ⟨hst, by rw [ha]; exact congrArg some hid, htype⟩
  change execRxNotice port n s = _
  unfold execRxNotice
  rw [if_neg (by rw [hs]; decide)]
  dsimp only
  rw [find_notice_of_empty hin]
  dsimp only
  rw [if_neg (by simpa using h)]
  refine congrArg _ ((if_pos hours).trans ?_)
  change setDeck { (noticeSeen port n s).deck with notices := (noticeSeen port n s).deck.notices ++ [n] } _ = _
  rw [hdeck]
  rfl

theorem exec_loanThreshold {k t : Nat} {d : DeckImage} {s : State} (hd : runningDeck s = some d) (hw : tget s.deck.waits k = some t)
    (hl : k ∉ s.deck.loaned) :
    exec (.loanThreshold k) s = .next (deckCnt 6 1 (setDeck { s.deck with loaned := s.deck.loaned ++ [k] } (advanceTo (t + loanNs s) s))) := by
  change execLoanThreshold k s = _
  unfold execLoanThreshold
  simp only [hw]
  rw [if_neg (by simp [hl, hd])]

/-- Settles O48: the deck's boundary rows by their next states, then notices and loans. -/
theorem roundsEndAndLoansCount : Obligations.RoundsEndAndLoansCount := by
  unfold Obligations.RoundsEndAndLoansCount
  refine ⟨fun d s hs ha => ⟨fun i c u hst hc hi hne hk hu => ?_, fun x hst hx hl hr => ?_, fun x ht ho hp hc => ?_, fun hst hn hr hc hw => ?_,
    fun rc hst hb hsw => ?_, fun rc hst => ?_, fun rc hst hm hv hv' => ?_⟩, fun s hs => ⟨fun port n hin hseen => ?_,
    fun port n d hin hseen hst ha hid htype => ?_, fun k T d hd hw hl => ?_⟩⟩
  · have hspan (cause : Option FailCause) := exec_cardSpanEnd (cause := cause) (runningDeck_of_active hs ha hst) hc hi hne hk hu
    refine ⟨fun cause h => (hspan cause).1 h, fun cause k h => ⟨_, (hspan cause).2 k h, List.mem_append_right _ (.head _), ?_⟩⟩
    rw [markEnded, (setDeck_only ..).mem_eq (by decide), (failCard_only ..).mem_eq (by decide), hu, (advanceTo_only ..).mem_eq (by decide)]
  · exact exec_stepRelease (runningDeck_of_active hs ha hst) hx hl hr
  · exact releaseStep_outputs_spec ht ho hp hc s
  · exact exec_noticeTake (runningDeck_of_active hs ha hst) hn hr hc hw
  · obtain ⟨g, hg⟩ := adjustMargin_deck d rc (advanceTo (roundEnd s d) s)
    obtain ⟨hround, hcur, hissued, hended⟩ := nextRound_deck d (adjustMargin d rc (advanceTo (roundEnd s d) s))
    refine ⟨_, exec_roundBoundary_running hs ha hst hb hsw rc, by rw [hround, hg]; rfl, by rw [hcur, hg]; rfl, hissued, hended, ?_, ?_, ?_⟩
    · rw [now_of_clk ((nextRound_only ..).clk_eq (by decide)), now_of_clk ((adjustMargin_only ..).clk_eq (by decide))]
      exact le_now_advanceTo ..
    · rw [(nextRound_only ..).mem_eq (by decide), (adjustMargin_only ..).mem_eq (by decide), (advanceTo_only ..).mem_eq (by decide)]
    · rw [(nextRound_only ..).cmds_eq (by decide), (adjustMargin_only ..).cmds_eq (by decide), (advanceTo_only ..).cmds_eq (by decide)]
  · exact ⟨_, exec_roundBoundary_halted hs ha hst rc, (modDeck_only ..).via (by decide) ((advanceTo_only ..).sub (by decide)), rfl, rfl, rfl⟩
  · have hframe : OnlyIn [.regs] s (moveVcore 25 0 (deckCnt 5 1 s)) := (setValBits_only ..).via (by decide) (deckCnt_only ..)
    refine ⟨_, exec_marginReading (runningDeck_of_active hs ha hst) hm hv, hframe, hframe.act_eq (by decide), ?_⟩
    rw [vcore_moveVcore, show vcore (deckCnt 5 1 s) = vcore s from rfl, Nat.mod_eq_of_lt (by omega)]
    omega
  · exact exec_rxNotice_seen hs hin hseen
  · refine ⟨_, exec_rxNotice_first hs hin hseen hst ha hid htype,
      (setDeck_only ..).via (by decide) ((floodNotice_only ..).via (by decide) ((setDeck_only ..).sub (by decide))), rfl, fun q hq => ?_⟩
    have hports : (floodPorts port s).contains q = (q != port && torusUp s q) := by
      rw [Bool.eq_iff_iff, List.contains_iff_mem, floodPorts, List.mem_filter, List.mem_range]
      exact and_iff_right hq
    rw [getPort_of_fab ((setDeck_only ..).fab_eq (by decide)), noticeSeen, queue_floodNotice n (l := floodPorts port s) (List.nodup_range.filter _), hports]
    rfl
  · refine ⟨_, exec_loanThreshold hd hw hl, (deckCnt_only ..).via (by decide) ((setDeck_only ..).via (by decide) ((advanceTo_only ..).sub (by decide))),
      rfl, le_now_advanceTo .., ?_⟩
    rw [deckCnt, cnt_cntAdd_self]
    rfl

end Sys2Proof.Machine

namespace Sys2Proof.Machine
open Sys2Proof

/-! ## The words of a unit -/

/-- A running unit at a word with the opcode runs it. -/
theorem cruStep_of_atWord {s : State} {u op : Nat} {x : CruUnit} {w : Word} (h : AtWord s u op x w) (f : CruUnit → Word → State → State) :
    cruStep u op f s = .next (f x w s) := by
  obtain ⟨hpower, rfl, hrun, hin, rfl, hok, hop⟩ := h
  unfold cruStep
  dsimp only
  rw [if_neg (by simp [hpower, hrun]), if_neg (Nat.not_le.mpr hin), if_neg (by rw [hok]; decide), if_neg (fun hne => hne hop)]

/-- A running unit whose next word lies past its image, or is not in order, faults whatever the opcode. -/
theorem cruStep_of_faulty {s : State} {u : Nat} (hpower : mainOn s = true) (hrun : (getUnit s u).st = .run)
    (hbad : imageLen (getUnit s u) ≤ (getUnit s u).pc ∨ wordOk (tgetD (getUnit s u).prog (getUnit s u).pc 0) = false)
    (op : Nat) (f : CruUnit → Word → State → State) : cruStep u op f s = .next (programFault u 3 s) := by
  unfold cruStep
  dsimp only
  rw [if_neg (by simp [hpower, hrun])]
  by_cases hin : imageLen (getUnit s u) ≤ (getUnit s u).pc
  · rw [if_pos hin]
  · rw [if_neg hin, if_pos (by rw [hbad.resolve_left hin]; rfl)]

/-- A STORE runs in the mode that its word names. -/
theorem storeRow_of_atWord {s : State} {u mode : Nat} {x : CruUnit} {w : Word} (h : AtWord s u 0x11 x w) (hm : wImm w % 8 = mode)
    (f : CruUnit → Word → State → State) : storeRow u mode f s = .next (f x w s) :=
  (cruStep_of_atWord h _).trans (congrArg Host.Outcome.next (if_pos hm))

theorem storeRow_isStep (u mode : Nat) (f : CruUnit → Word → State → State) (s : State) : ∃ op g, storeRow u mode f s = cruStep u op g s :=
  ⟨_, _, rfl⟩

/-- Each word of a unit is a step of that unit. -/
theorem exec_of_cruRows {u : Nat} {e : Nat × Instr} (h : e ∈ cruRows u) (s : State) : ∃ op f, exec e.2 s = cruStep u op f s := by
  simp only [cruRows, List.mem_cons, List.not_mem_nil, or_false] at h
  iterate 17
    rcases h with rfl | h
    · unfold exec; exact ⟨_, _, rfl⟩
  rcases h with rfl | rfl | rfl | rfl | h
  · exact (storeRow_isStep u 0 _ s : ∃ op f, execCruStoreResult u s = cruStep u op f s)
  · exact (storeRow_isStep u 1 _ s : ∃ op f, execCruStoreCopy u s = cruStep u op f s)
  · exact (storeRow_isStep u 2 _ s : ∃ op f, execCruStoreZero u s = cruStep u op f s)
  · exact (storeRow_isStep u 3 _ s : ∃ op f, execCruStoreRewrite u s = cruStep u op f s)
  · rcases h with rfl | rfl <;> (unfold exec; exact ⟨_, _, rfl⟩)

theorem getUnit_cntAdd (o n : Nat) (s : State) (u : Nat) : getUnit (cntAdd o n s) u = getUnit s u :=
  getUnit_of_mem ((cntAdd_only o n s).mem_eq (by decide)) u

/-- STOP with code 0 leaves the unit DONE. -/
theorem stopUnit_zero (u : Nat) (s : State) :
    stopUnit u 0 s = setUnit u { getUnit s u with st := .done, code := 0, openRow := none, suspendReq := false } s := rfl

theorem jumpTo_of_inside {x : CruUnit} {w : Word} (h : wImm w < imageLen x) (u : Nat) (s : State) :
    jumpTo u x w s = setUnit u { x with pc := wImm w } s := if_neg (Nat.not_le.mpr h)

theorem jumpTo_of_outside {x : CruUnit} {w : Word} (h : imageLen x ≤ wImm w) (u : Nat) (s : State) :
    jumpTo u x w s = programFault u 3 s := if_pos h

theorem sub_one_eq_zero_iff (v : Word) : v - 1 = 0 ↔ v = 1 := sub_eq_zero

/-- LOOP at 1 leaves the register 0 and goes on with the next word. -/
theorem execCruLoop_of_last {s : State} {u : Nat} {x : CruUnit} {w : Word} (h : AtWord s u 0x05 x w) (h1 : x.reg (wX w) = 1) :
    execCruLoop u s = .next (setUnit u { x.setReg (wX w) 0 with pc := x.pc + 1 } s) := by
  rw [execCruLoop, cruStep_of_atWord h]
  simp [h1, CruUnit.next, CruUnit.setReg]

/-- LOOP elsewhere counts the register down and jumps. -/
theorem execCruLoop_of_more {s : State} {u : Nat} {x : CruUnit} {w : Word} (h : AtWord s u 0x05 x w) (h1 : x.reg (wX w) ≠ 1)
    (hin : wImm w < imageLen x) :
    execCruLoop u s = .next (setUnit u { x.setReg (wX w) (x.reg (wX w) - 1) with pc := wImm w } s) := by
  rw [execCruLoop, cruStep_of_atWord h]
  simp only [sub_one_eq_zero_iff, h1, if_false]
  exact congrArg Host.Outcome.next (jumpTo_of_inside (x := x.setReg _ _) hin u s)

/-- Settles O49: the unit runs the word at PC where that is in order, and each control word is read off its row. -/
theorem crucibleControlWordsCompute : Obligations.CrucibleControlWordsCompute := by
  intro u x w s hx hpower hrun
  refine ⟨fun hbad e he => ?_, fun h => ⟨(cruStep_of_atWord h _ : execCruStop u s = _), fun h0 => ?_⟩,
    fun h => (cruStep_of_atWord h _ : execCruYield u s = _), fun h => (cruStep_of_atWord h _ : execCruSeti u s = _),
    fun h => (cruStep_of_atWord h _ : execCruAddi u s = _), fun h => (cruStep_of_atWord h _ : execCruAdd u s = _), fun h => ⟨execCruLoop_of_last h, execCruLoop_of_more h⟩,
    fun h => ⟨fun hin => ?_, fun hout => ?_⟩, fun h => ⟨fun h0 => ?_, fun h0 hin => ?_⟩, fun h => (cruStep_of_atWord h _ : execCruPost u s = _)⟩
  · subst hx
    obtain ⟨op, f, hf⟩ := exec_of_cruRows he s
    exact hf.trans (cruStep_of_faulty hpower hrun hbad op f)
  · rw [h0, stopUnit_zero, getUnit_cntAdd, ← hx]
    exact ⟨OnlyIn.via (setUnit_only u _ _) (by decide) ((cntAdd_only _ _ s).sub (by decide)), getUnit_setUnit ..⟩
  · exact (cruStep_of_atWord h _ : execCruJump u s = _).trans (congrArg Host.Outcome.next (jumpTo_of_inside hin u s))
  · exact (cruStep_of_atWord h _ : execCruJump u s = _).trans (congrArg Host.Outcome.next (jumpTo_of_outside hout u s))
  · exact (cruStep_of_atWord h _ : execCruBz u s = _).trans (congrArg Host.Outcome.next (if_neg h0))
  · exact (cruStep_of_atWord h _ : execCruBz u s = _).trans (congrArg Host.Outcome.next ((if_pos h0).trans (jumpTo_of_inside hin u s)))

end Sys2Proof.Machine

namespace Sys2Proof.Machine
open Sys2Proof

/-! ## Streams and stores of a unit -/

/-- Byte i of a field is the byte of the buffer there, or zero past its end. -/
theorem getD_slice (bs : List Byte) (off : Nat) {n i : Nat} (hi : i < n) : (slice bs off n).getD i 0 = bs.getD (off + i) 0 := by
  unfold slice
  dsimp only
  by_cases hin : off + i < bs.length
  · have hlt : i < ((bs.drop off).take n).length := by rw [List.length_take, List.length_drop]; omega
    rw [List.getD_append _ _ _ _ hlt]
    simp [List.getD_eq_getElem?_getD, hi]
  · have hge : ((bs.drop off).take n).length ≤ i := by rw [List.length_take, List.length_drop]; omega
    rw [List.getD_append_right _ _ _ _ hge, List.getD_eq_default bs _ (by omega)]
    rw [List.getD_eq_getElem?_getD, List.getElem?_replicate]
    split <;> rfl

/-- RSTR outside the grant faults. -/
theorem execCruRstr_of_outside {s : State} {u : Nat} {x : CruUnit} {w : Word} (h : AtWord s u 0x08 x w) {a n : Nat}
    (ha : a = (x.reg (wY w)).toNat / 32 * 32) (hn : n = 32 * (x.reg (wZ w)).toNat)
    (hout : n ≠ 0 ∧ (a < x.rdLo ∨ x.rdHi < a + n ∨ ulaEnd < a + n)) : execCruRstr u s = .next (programFault u 4 s) := by
  subst ha hn
  exact (cruStep_of_atWord h _).trans (congrArg Host.Outcome.next (if_pos hout))

/-- A range is outside a grant or inside it. -/
theorem not_outside {lo hi a n : Nat} (h : n = 0 ∨ (lo ≤ a ∧ a + n ≤ hi ∧ a + n ≤ ulaEnd)) :
    ¬ (n ≠ 0 ∧ (a < lo ∨ hi < a + n ∨ ulaEnd < a + n)) := by omega

/-- RSTR past 512 rows faults. -/
theorem execCruRstr_of_rows {s : State} {u : Nat} {x : CruUnit} {w : Word} (h : AtWord s u 0x08 x w) {a n : Nat}
    (ha : a = (x.reg (wY w)).toNat / 32 * 32) (hn : n = 32 * (x.reg (wZ w)).toNat)
    (hin : n = 0 ∨ (x.rdLo ≤ a ∧ a + n ≤ x.rdHi ∧ a + n ≤ ulaEnd)) (hrows : 512 < x.rowcyc + activations x a n) :
    execCruRstr u s = .next (programFault u 2 (setUnit u { x with rowcyc := 512 } s)) := by
  subst ha hn
  refine (cruStep_of_atWord h _).trans (congrArg Host.Outcome.next ?_)
  dsimp only
  rw [if_neg (not_outside hin), if_pos hrows]

/-- The unit after an RSTR. -/
def streamedUnit (s : State) (u : Nat) (x : CruUnit) (w : Word) : CruUnit :=
  let ula := (x.reg (wY w)).toNat / 32 * 32
  let n := (x.reg (wZ w)).toNat
  let a := ulaAddr s u ula
  let found := columnMarks s a n
  { x with
    pc := x.pc + 1
    lane := { ula := ula, cols := n, bytes := (List.range (32 * n)).map fun i => eccByte s (a + i), bad := found.2, check := wImm w == 1, marks := found.1 }
    rowcyc := x.rowcyc + activations x ula (32 * n)
    openRow := if n = 0 then x.openRow else some ((ula + 32 * n - 1) / 4096)
    corr := (x.corr + found.1.length) % 2 ^ 32 }

/-- RSTR under the grant and within 512 rows reads its columns. -/
theorem execCruRstr_of_inside {s : State} {u : Nat} {x : CruUnit} {w : Word} (h : AtWord s u 0x08 x w) {a n : Nat}
    (ha : a = (x.reg (wY w)).toNat / 32 * 32) (hn : n = 32 * (x.reg (wZ w)).toNat)
    (hin : n = 0 ∨ (x.rdLo ≤ a ∧ a + n ≤ x.rdHi ∧ a + n ≤ ulaEnd)) (hrows : x.rowcyc + activations x a n ≤ 512) :
    execCruRstr u s = .next (setUnit u (streamedUnit s u x w) s) := by
  subst ha hn
  refine (cruStep_of_atWord h _).trans (congrArg Host.Outcome.next ?_)
  dsimp only
  rw [if_neg (not_outside hin), if_neg (Nat.not_lt.mpr hrows)]
  rfl

/-- Columns outside the grant are not stored: a fault 4. -/
theorem storeColumns_of_outside {ula : Nat} {x : CruUnit} {d : List Byte}
    (hout : d.length ≠ 0 ∧ (ula < x.stLo ∨ x.stHi < ula + d.length ∨ ulaEnd < ula + d.length)) (u : Nat) (s : State) :
    storeColumns u ula x d s = programFault u 4 s := if_pos hout

/-- The unit after it stored `n` bytes. -/
def storedUnit (x : CruUnit) (ula n : Nat) : CruUnit :=
  { x with pc := x.pc + 1, rowcyc := x.rowcyc + activations x ula n, openRow := if n = 0 then x.openRow else some ((ula + n - 1) / 4096) }

theorem storeColumns_of_inside {ula : Nat} {x : CruUnit} {d : List Byte}
    (hin : d.length = 0 ∨ (x.stLo ≤ ula ∧ ula + d.length ≤ x.stHi ∧ ula + d.length ≤ ulaEnd))
    (hrows : x.rowcyc + activations x ula d.length ≤ 512) (u : Nat) (s : State) :
    storeColumns u ula x d s = setUnit u (storedUnit x ula d.length) (writeMem (ulaAddr s u ula) d s) := by
  unfold storeColumns
  dsimp only
  rw [if_neg (not_outside hin), if_neg (Nat.not_lt.mpr hrows)]
  rfl

/-- A stream without an uncorrectable column is used as it is. -/
theorem useLane_of_good {x : CruUnit} (h : x.lane.bad = none) (u n : Nat) (f : State → State) (s : State) : useLane u n x f s = f s := by
  simp [useLane, h]

/-- What a unit that stored `d` at local address `at_` leaves: its own state and the bytes there. -/
structure StoredAt (u at_ : Nat) (y : CruUnit) (d : List Byte) (s t : State) : Prop where
  only : OnlyIn [.mem, .cells] s t
  unit : getUnit t u = y
  outside : ∀ b, b < at_ ∨ at_ + d.length ≤ b → readByte t b = readByte s b
  inside : ∀ i, i < d.length → at_ + d.length ≤ memSize → readByte t (at_ + i) = d.getD i 0

theorem storedAt_writeMem {s : State} (hok : memOk s) (u at_ : Nat) (y : CruUnit) (d : List Byte) :
    StoredAt u at_ y d s (setUnit u y (writeMem at_ d s)) where
  only := OnlyIn.via (setUnit_only u _ _) (by decide) (writeMem_only at_ d s)
  unit := getUnit_setUnit ..
  outside b hb := (readByte_of_cells rfl b).trans (readByte_writeMem_of_outside at_ d hok hb)
  inside i hi hend := (readByte_of_cells rfl _).trans (readByte_writeMem_at at_ d i hok hi hend)

/-- What a STORE of mode 1 or 2 stores. -/
def storeBytes (x : CruUnit) (w : Word) (n : Nat) : List Byte := if wImm w % 8 = 1 then slice x.lane.bytes 0 n else zeros n

theorem length_storeBytes (x : CruUnit) (w : Word) (n : Nat) : (storeBytes x w n).length = n := by
  unfold storeBytes
  split
  · exact length_slice ..
  · exact List.length_replicate

theorem getD_storeBytes {n i : Nat} (x : CruUnit) (w : Word) (hi : i < n) :
    (storeBytes x w n).getD i 0 = if wImm w % 8 = 1 then x.lane.bytes.getD i 0 else 0 := by
  unfold storeBytes
  split
  · rw [getD_slice _ _ hi, Nat.zero_add]
  · rw [zeros, List.getD_eq_getElem?_getD, List.getElem?_replicate]
    split <;> rfl

/-- STORE_COPY of a good stream, and STORE_ZERO, store their columns. -/
theorem exec_storeCopyOrZero {s : State} {u : Nat} {x : CruUnit} {w : Word} (h : AtWord s u 0x11 x w)
    (hm : wImm w % 8 = 1 ∨ wImm w % 8 = 2) (hbad : x.lane.bad = none) :
    exec (if wImm w % 8 = 1 then .cruStoreCopy u else .cruStoreZero u) s =
      .next (storeColumns u ((x.reg (wY w)).toNat / 32 * 32) x (storeBytes x w (32 * (x.reg (wZ w)).toNat)) s) := by
  unfold storeBytes
  rcases hm with hm | hm
  · rw [if_pos hm, if_pos hm]
    exact (storeRow_of_atWord h hm _ : execCruStoreCopy u s = _).trans (congrArg Host.Outcome.next (useLane_of_good hbad ..))
  · rw [if_neg (by omega), if_neg (by omega)]
    exact (storeRow_of_atWord h hm _ : execCruStoreZero u s = _)

/-- STORE_REWRITE without a marked column goes on. -/
theorem execCruStoreRewrite_of_unmarked {s : State} {u : Nat} {x : CruUnit} {w : Word} (h : AtWord s u 0x11 x w) (hm : wImm w % 8 = 3)
    (hbad : x.lane.bad = none) (hnone : x.lane.check = false ∨ x.lane.marks = []) :
    execCruStoreRewrite u s = .next (setUnit u { x with pc := x.pc + 1, lane := { x.lane with marks := [] } } s) := by
  have hmarks : (if x.lane.check then x.lane.marks else []) = [] := by
    rcases hnone with hc | hl
    · rw [hc]; rfl
    · rw [hl]; exact ite_self _
  refine (storeRow_of_atWord h hm _).trans (congrArg Host.Outcome.next ?_)
  dsimp only
  rw [hmarks, useLane_of_good hbad, forEach_nil]
  rfl

/-- STORE_REWRITE of one marked column in the grant stores it again. -/
theorem execCruStoreRewrite_of_one {s : State} {u : Nat} {x : CruUnit} {w : Word} (h : AtWord s u 0x11 x w) (hm : wImm w % 8 = 3)
    (hbad : x.lane.bad = none) {m : Nat} (hc : x.lane.check = true) (hl : x.lane.marks = [m]) (hlo : x.stLo ≤ x.lane.ula + 32 * m)
    (hhi : x.lane.ula + 32 * m + 32 ≤ x.stHi) :
    execCruStoreRewrite u s = .next (setUnit u { x with pc := x.pc + 1, lane := { x.lane with marks := [] } }
      (writeMem (ulaAddr s u (x.lane.ula + 32 * m)) (slice x.lane.bytes (32 * m) 32) s)) := by
  have hmarks : (if x.lane.check then x.lane.marks else []) = [m] := by rw [hc, hl]; rfl
  refine (storeRow_of_atWord h hm _).trans (congrArg Host.Outcome.next ?_)
  dsimp only
  rw [hmarks, if_neg (by simp; omega), useLane_of_good hbad]
  rfl

/-- Settles O50: RSTR and each STORE by the branch of its grant and its rows; a store is one `writeMem` at the unit's own address. -/
theorem crucibleStoresStayInGrant : Obligations.CrucibleStoresStayInGrant := by
  intro u x w a n s ha hn hok
  refine ⟨fun h => ⟨execCruRstr_of_outside h ha hn, fun hin => ⟨execCruRstr_of_rows h ha hn hin, fun hrows =>
      ⟨_, execCruRstr_of_inside h ha hn hin hrows, setUnit_only u _ s, rfl, ?_⟩⟩⟩,
    fun h hm => ⟨_, (storeRow_of_atWord h hm _ : execCruStoreResult u s = _), setUnit_only u _ s, rfl, getUnit_setUnit .., fun v hv =>
      getUnit_setUnit_of_ne _ _ hv⟩,
    fun h hm hbad => ?_, fun h hm hbad => ⟨execCruStoreRewrite_of_unmarked h hm hbad, fun m hc hl hlo hhi hlen => ?_⟩⟩
  · rw [getUnit_setUnit]
    refine ⟨rfl, ?_, ha.symm, ?_, ?_, fun v hv => getUnit_setUnit_of_ne _ _ hv⟩ <;> subst ha hn
    · rfl
    · rfl
    · rw [Nat.mul_div_cancel_left _ (by decide)]
      rfl
  · have hlen : (storeBytes x w n).length = n := length_storeBytes x w n
    rw [exec_storeCopyOrZero h hm hbad, ← ha, ← hn]
    refine ⟨fun hout _ => congrArg Host.Outcome.next (storeColumns_of_outside (by rwa [hlen]) u s), fun _ hin hrows => ?_⟩
    rw [storeColumns_of_inside (by rwa [hlen]) (by rwa [hlen])]
    have hst := storedAt_writeMem hok u (ulaAddr s u a) (storedUnit x a (storeBytes x w n).length) (storeBytes x w n)
    refine ⟨_, rfl, hst.only, ?_, ?_, fun b hb => hst.outside b (by rwa [hlen]), fun i hi hend => ?_⟩
    · rw [hst.unit]; rfl
    · rw [hst.unit, hlen]; rfl
    · rw [hst.inside i (by rwa [hlen]) (by rwa [hlen]), getD_storeBytes x w hi]
  · have hst := storedAt_writeMem hok u (ulaAddr s u (x.lane.ula + 32 * m)) { x with pc := x.pc + 1, lane := { x.lane with marks := [] } }
      (slice x.lane.bytes (32 * m) 32)
    have hsl := length_slice x.lane.bytes (32 * m) 32
    refine ⟨_, execCruStoreRewrite_of_one h hm hbad hc hl hlo hhi, hst.only, by rw [hst.unit], fun b hb => hst.outside b (by rwa [hsl]),
      fun i hi hend => ?_⟩
    rw [hst.inside i (by rwa [hsl]) (by rwa [hsl]), getD_slice _ _ hi]

end Sys2Proof.Machine

namespace Sys2Proof.Machine
open Sys2Proof

/-! ## The datapath of a unit -/

theorem getD_map_range {α : Type} (f : Nat → α) {n i : Nat} (d : α) (hi : i < n) : ((List.range n).map f).getD i d = f i := by
  simp [List.getD_eq_getElem?_getD, hi]

/-- A score of a line below nv is computed afresh; the others stay. -/
theorem sbOf_mapScores {v i : Nat} (nv : Nat) (f : Nat → Nat → BitVec 32) (x : CruUnit) (hv : v < 16) (hi : i < 64) :
    sbOf (mapScores nv f x) v i = if v < nv then f v i else sbOf x v i := by
  unfold sbOf mapScores
  rw [getD_map_range _ _ hv, getD_map_range _ _ hi]
  rfl

theorem sbOf_congr {x y : CruUnit} (h : y.sb = x.sb) (v i : Nat) : sbOf y v i = sbOf x v i := by
  unfold sbOf
  rw [h]

theorem bounds_of_nvOk {nv : Nat} (h : nvOk nv = true) : 1 ≤ nv ∧ nv ≤ 16 := by simpa [nvOk] using h

theorem nv_le_of_shapeOk {nv d : Nat} (h : shapeOk nv d = true) : nv ≤ 16 := by
  simp only [shapeOk, Bool.and_eq_true, decide_eq_true_eq] at h
  exact h.1.1.1.1.2

/-- A shape or a count out of range. -/
theorem shape_bad {nv d : Nat} {p : Prop} (h : shapeOk nv d = false ∨ p) : (!shapeOk nv d) = true ∨ p :=
  h.imp_left fun hf => by rw [hf]; rfl

theorem shape_good {nv d : Nat} {p : Prop} (h : shapeOk nv d = true) (hp : ¬ p) : ¬ ((!shapeOk nv d) = true ∨ p) := by
  rw [h]
  exact fun ho => ho.elim (fun hf => absurd hf (by decide)) hp

section
variable {s : State} {u : Nat} {x : CruUnit} {w : Word} {nv d n : Nat}

theorem execCruLds_of_shape (h : AtWord s u 0x09 x w) (hd : d = (x.reg (wY w)).toNat) (hbad : d % 32 ≠ 0 ∨ d = 0 ∨ 576 < d) :
    execCruLds u s = .next (programFault u 3 s) := by
  subst hd
  refine (cruStep_of_atWord h _).trans (congrArg Host.Outcome.next ?_)
  dsimp only
  rw [if_pos (by omega)]

/-- LDS takes the scales of K and V and the page number. -/
theorem execCruLds_of_good (h : AtWord s u 0x09 x w) (hd : d = (x.reg (wY w)).toNat) (hg : x.lane.bad = none) (h32 : d % 32 = 0) (h0 : d ≠ 0)
    (hm : d ≤ 576) :
    ∃ y : CruUnit, execCruLds u s = .next (setUnit u y s) ∧ y.pc = x.pc + 1 ∧
      y.sk = (List.range (d / 32)).map (fun g => fld x.lane.bytes (16 + 2 * g) 2) ∧ y.pageNo = fld x.lane.bytes 0 4 := by
  subst hd
  have he : execCruLds u s = _ := cruStep_of_atWord h _
  dsimp only at he
  rw [if_neg (by omega), useLane_of_good hg] at he
  exact ⟨_, he, rfl, rfl, rfl⟩

theorem execCruDot_of_shape (h : AtWord s u 0x0A x w) (hnv : nv = (x.reg (wX w)).toNat) (hd : d = (x.reg (wY w)).toNat) (hn : n = wImm w % 128)
    (hbad : shapeOk nv d = false ∨ n = 0 ∨ 64 < n) : execCruDot u s = .next (programFault u 3 s) := by
  subst hnv hd hn
  refine (cruStep_of_atWord h _).trans (congrArg Host.Outcome.next ?_)
  dsimp only
  rw [if_pos (shape_bad hbad)]

/-- The score that DOT computes for vector v and position i. -/
def dotScore (x : CruUnit) (w : Word) (d v i : Nat) : BitVec 32 :=
  scaledDot x.sk (queryCodes (x.opnd (bits (wImm w) 9 1)) d v)
    ((List.range d).map fun c => laneCode x.lane.bytes 64 (bits (wImm w) 7 2) d i c)

/-- The unit after a DOT. -/
def dotUnit (x : CruUnit) (w : Word) (nv d n : Nat) : CruUnit :=
  { mapScores nv (fun v i => if i < n then dotScore x w d v i else sbOf x v i) x with
    pc := x.pc + 1, nv := nv, d := d, half := bits (wImm w) 9 1, ops := (x.ops + 2 * nv * d * n) % 2 ^ 64 }

theorem execCruDot_of_good (h : AtWord s u 0x0A x w) (hnv : nv = (x.reg (wX w)).toNat) (hd : d = (x.reg (wY w)).toNat) (hn : n = wImm w % 128)
    (hg : x.lane.bad = none) (hshape : shapeOk nv d = true) (h1 : 1 ≤ n) (h64 : n ≤ 64) (hwide : bits (wImm w) 7 2 ≠ 2) :
    execCruDot u s = .next (setUnit u (dotUnit x w nv d n) s) := by
  subst hnv hd hn
  refine (cruStep_of_atWord h _).trans (congrArg Host.Outcome.next ?_)
  dsimp only
  rw [if_neg (shape_good hshape (by omega)), if_neg (fun h2 => hwide h2.1), useLane_of_good hg]
  rfl

theorem sbOf_dotUnit {v i : Nat} (hv : v < 16) (hi : i < 64) :
    sbOf (dotUnit x w nv d n) v i = if v < nv ∧ i < n then dotScore x w d v i else sbOf x v i := by
  refine (sbOf_congr rfl v i).trans ((sbOf_mapScores nv (fun v i => if i < n then dotScore x w d v i else sbOf x v i) x hv hi).trans ?_)
  by_cases h1 : v < nv <;> by_cases h2 : i < n <;> simp [h1, h2]

/-- The sum that a clearing ACC computes for vector v and column c. -/
def accSum (x : CruUnit) (w : Word) (d n v c : Nat) : Int :=
  (List.range n).foldl (fun t i => t + (wbOf x v i : Int) * laneCode x.lane.bytes
    (if 32 * x.lane.cols < 64 + 2 * planeBytes (bits (wImm w) 7 2) d then 64 else 64 + planeBytes (bits (wImm w) 7 2) d) (bits (wImm w) 7 2) d i c) 0

/-- The unit after an ACC that clears. -/
def accUnit (x : CruUnit) (w : Word) (nv d n : Nat) : CruUnit :=
  { x with
    pc := x.pc + 1, nv := nv, d := d, ops := (x.ops + 2 * nv * d * n) % 2 ^ 64
    acc := (List.range 16).map fun v => if v < nv then (List.range d).map fun c => (BitVec.ofInt 32 (accSum x w d n v c)).toInt else [] }

theorem execCruAcc_of_clear (h : AtWord s u 0x0B x w) (hnv : nv = (x.reg (wX w)).toNat) (hd : d = (x.reg (wY w)).toNat) (hn : n = wImm w % 128)
    (hg : x.lane.bad = none) (hshape : shapeOk nv d = true) (h1 : 1 ≤ n) (h64 : n ≤ 64) (hclear : bit (wImm w) 9 = true) :
    execCruAcc u s = .next (setUnit u (accUnit x w nv d n) s) := by
  subst hnv hd hn
  refine (cruStep_of_atWord h _).trans (congrArg Host.Outcome.next ?_)
  dsimp only
  rw [if_neg (shape_good hshape (by omega)), useLane_of_good hg, hclear]
  rfl

theorem accOf_accUnit {v c : Nat} (hshape : shapeOk nv d = true) (hv : v < nv) (hc : c < d) :
    accOf (accUnit x w nv d n) v c = (BitVec.ofInt 32 (accSum x w d n v c)).toInt := by
  have h16 : v < 16 := hv.trans_le (nv_le_of_shapeOk hshape)
  unfold accOf accUnit
  rw [getD_map_range _ _ h16, if_pos hv, getD_map_range _ _ hc]

/-- A count of vectors out of range faults in each word that has only X. -/
theorem exec_of_nvBad (hnv : nv = (x.reg (wX w)).toNat) (hbad : nvOk nv = false) :
    (AtWord s u 0x0C x w → execCruScale u s = .next (programFault u 3 s)) ∧ (AtWord s u 0x0D x w → execCruHook u s = .next (programFault u 3 s)) ∧
    (AtWord s u 0x0E x w → execCruCsel u s = .next (programFault u 3 s)) ∧ (AtWord s u 0x0F x w → execCruMax u s = .next (programFault u 3 s)) ∧
    (AtWord s u 0x10 x w → execCruExp2 u s = .next (programFault u 3 s)) := by
  subst hnv
  have hb : (!nvOk (x.reg (wX w)).toNat) = true := by rw [hbad]; rfl
  exact ⟨fun h => (cruStep_of_atWord h _).trans (congrArg Host.Outcome.next (if_pos hb)),
    fun h => (cruStep_of_atWord h _).trans (congrArg Host.Outcome.next (if_pos (.inl hb))),
    fun h => (cruStep_of_atWord h _).trans (congrArg Host.Outcome.next (if_pos hb)),
    fun h => (cruStep_of_atWord h _).trans (congrArg Host.Outcome.next (if_pos hb)),
    fun h => (cruStep_of_atWord h _).trans (congrArg Host.Outcome.next (if_pos hb))⟩

theorem not_nvBad (h : nvOk nv = true) : ¬ (!nvOk nv) = true := by rw [h]; decide

/-- HOOK of an operation that units do not compute faults. -/
theorem execCruHook_of_reserved {z op : Nat} (h : AtWord s u 0x0D x w) (hz : z = (x.reg (wZ w)).toNat)
    (hop : op = fld (x.opnd (bits (wImm w) 9 1)) (2368 + 8 * z) 1) (hno : op ∉ [0, 1, 2, 6, 7, 8, 9]) :
    execCruHook u s = .next (programFault u 3 s) := by
  subst hz hop
  refine (cruStep_of_atWord h _).trans (congrArg Host.Outcome.next ?_)
  dsimp only
  rw [if_pos (.inr (.inr (by rw [Bool.not_eq_true', List.contains_eq_mem, decide_eq_false hno])))]

/-- The unit after a HOOK that computes. -/
def hookUnit (x : CruUnit) (w : Word) (nv op : Nat) (arg : BitVec 32) : CruUnit :=
  let h := x.opnd (bits (wImm w) 9 1)
  { mapScores nv (fun v i => hookOp op arg (ctOf h (32 + v)) ((qpOf h v : Int) - ((64 * x.pageNo + i : Nat) : Int)) (sbOf x v i)) x with
    pc := x.pc + 1, half := bits (wImm w) 9 1 }

theorem execCruHook_of_computed {z op : Nat} {arg : BitVec 32} (h : AtWord s u 0x0D x w) (hnv : nv = (x.reg (wX w)).toNat) (hok : nvOk nv = true)
    (hz : z = (x.reg (wZ w)).toNat) (h16 : z < 16) (hop : op = fld (x.opnd (bits (wImm w) 9 1)) (2368 + 8 * z) 1)
    (harg : arg = BitVec.ofNat 32 (fld (x.opnd (bits (wImm w) 9 1)) (2372 + 8 * z) 4)) (hin : op ∈ [0, 1, 2, 6, 7, 8, 9]) :
    execCruHook u s = .next (setUnit u (if op = 0 then { x with pc := x.pc + 1, half := bits (wImm w) 9 1 } else hookUnit x w nv op arg) s) := by
  have hcond : ¬ ((!nvOk nv) = true ∨ 16 ≤ z ∨ (!([0, 1, 2, 6, 7, 8, 9].contains op)) = true) := by
    rw [hok, List.contains_eq_mem, decide_eq_true hin]
    simpa using h16
  subst hnv hz hop harg
  refine (cruStep_of_atWord h _).trans (congrArg Host.Outcome.next ?_)
  dsimp only
  rw [if_neg hcond]
  by_cases h0 : fld (x.opnd (bits (wImm w) 9 1)) (2368 + 8 * (x.reg (wZ w)).toNat) 1 = 0
  · rw [if_pos h0, if_pos h0]
    rfl
  · rw [if_neg h0, if_neg h0]
    rfl

theorem sbOf_hookUnit {v i op : Nat} {arg : BitVec 32} (hv : v < 16) (hi : i < 64) :
    sbOf (hookUnit x w nv op arg) v i = if v < nv then hookOp op arg (ctOf (x.opnd (bits (wImm w) 9 1)) (32 + v))
      ((qpOf (x.opnd (bits (wImm w) 9 1)) v : Int) - ((64 * x.pageNo + i : Nat) : Int)) (sbOf x v i) else sbOf x v i :=
  (sbOf_congr rfl v i).trans (sbOf_mapScores nv (fun v i => hookOp op arg (ctOf (x.opnd (bits (wImm w) 9 1)) (32 + v))
    ((qpOf (x.opnd (bits (wImm w) 9 1)) v : Int) - ((64 * x.pageNo + i : Nat) : Int)) (sbOf x v i)) x hv hi)

/-- CSEL leaves the position out. -/
def cselOut (x : CruUnit) (w : Word) (v i : Nat) : Bool :=
  if wImm w = 0 then decide (qpOf (x.opnd x.half) v < (x.reg (wZ w)).toNat + i) else decide ((x.reg (wZ w)).toNat ≤ i)

/-- CSEL turns the scores of the positions that it leaves out into minus infinity. -/
theorem execCruCsel_of_good (h : AtWord s u 0x0E x w) (hnv : nv = (x.reg (wX w)).toNat) (hok : nvOk nv = true) :
    ∃ y : CruUnit, execCruCsel u s = .next (setUnit u y s) ∧ y.pc = x.pc + 1 ∧ ∀ v i, v < nv → i < 64 → sbOf y v i =
      if (if wImm w = 0 then qpOf (x.opnd x.half) v < (x.reg (wZ w)).toNat + i else (x.reg (wZ w)).toNat ≤ i) then fNegInf else sbOf x v i := by
  have h16 := (bounds_of_nvOk hok).2
  subst hnv
  refine ⟨_, (cruStep_of_atWord h _).trans (congrArg Host.Outcome.next (if_neg (not_nvBad hok))), rfl, fun v i hv hi => ?_⟩
  refine (sbOf_congr (x := mapScores (x.reg (wX w)).toNat (fun v i => if cselOut x w v i then fNegInf else sbOf x v i) x) rfl v i).trans ?_
  rw [sbOf_mapScores _ _ x (hv.trans_le h16) hi, if_pos hv, cselOut]
  by_cases h0 : wImm w = 0 <;> simp [h0]

/-- MAX takes the greatest score of each vector. -/
theorem execCruMax_of_good (h : AtWord s u 0x0F x w) (hnv : nv = (x.reg (wX w)).toNat) (hok : nvOk nv = true) :
    ∃ y : CruUnit, execCruMax u s = .next (setUnit u y s) ∧ y.pc = x.pc + 1 ∧
      ∀ v, v < nv → y.m.getD v 0 = maxScore ((List.range 64).map (sbOf x v)) := by
  have h16 := (bounds_of_nvOk hok).2
  subst hnv
  refine ⟨_, (cruStep_of_atWord h _).trans (congrArg Host.Outcome.next (if_neg (not_nvBad hok))), rfl, fun v hv => ?_⟩
  dsimp only
  rw [getD_map_range _ _ (hv.trans_le h16), if_pos hv]

/-- EXP2 makes the weights and their sums. -/
theorem execCruExp2_of_good (h : AtWord s u 0x10 x w) (hnv : nv = (x.reg (wX w)).toNat) (hok : nvOk nv = true) :
    ∃ y : CruUnit, execCruExp2 u s = .next (setUnit u y s) ∧ y.pc = x.pc + 1 ∧
      ∀ v, v < nv → (∀ i, i < 64 → wbOf y v i = exp2Weight (x.m.getD v 0) (sbOf x v i)) ∧
        y.ps.getD v 0 = sumN ((List.range 64).map (fun i => exp2Weight (x.m.getD v 0) (sbOf x v i))) := by
  have h16 := (bounds_of_nvOk hok).2
  subst hnv
  refine ⟨_, (cruStep_of_atWord h _).trans (congrArg Host.Outcome.next (if_neg (not_nvBad hok))), rfl, fun v hv => ?_⟩
  refine ⟨fun i hi => ?_, ?_⟩
  · unfold wbOf
    dsimp only
    rw [getD_map_range _ _ (hv.trans_le h16), if_pos hv, getD_map_range _ _ hi]
  · dsimp only
    rw [getD_map_range _ _ (hv.trans_le h16), if_pos hv, getD_map_range _ _ (hv.trans_le h16), if_pos hv]

theorem execCruSscore_of_shape (h : AtWord s u 0x12 x w) (hnv : nv = (x.reg (wX w)).toNat) (hd : d = (x.reg (wY w)).toNat)
    (hn : n = (x.reg (wZ w)).toNat) (hbad : shapeOk nv d = false ∨ 2048 < n) : execCruSscore u s = .next (programFault u 3 s) := by
  subst hnv hd hn
  exact (cruStep_of_atWord h _).trans (congrArg Host.Outcome.next (if_pos (shape_bad hbad)))

theorem execCruSscore_of_good (h : AtWord s u 0x12 x w) (hnv : nv = (x.reg (wX w)).toNat) (hd : d = (x.reg (wY w)).toNat)
    (hn : n = (x.reg (wZ w)).toNat) (hg : x.lane.bad = none) (hshape : shapeOk nv d = true) (h2048 : n ≤ 2048) :
    ∃ y : CruUnit, execCruSscore u s = .next (setUnit u y s) ∧ y.pc = x.pc + 1 ∧ y.ops = (x.ops + 4 * nv * d * n) % 2 ^ 64 ∧
      y.resHalf = bits (wImm w) 9 1 := by
  subst hnv hd hn
  have he : execCruSscore u s = _ := cruStep_of_atWord h _
  dsimp only at he
  rw [if_neg (shape_good hshape (by omega)), useLane_of_good hg] at he
  exact ⟨_, he, rfl, rfl, rfl⟩

end

/-- Settles O51: each word of the datapath, by its shape; a good one changes its own unit alone. -/
theorem crucibleDatapathWordsCompute : Obligations.CrucibleDatapathWordsCompute := by
  intro u x w nv d n h s hnv hd hg hh
  subst hh
  refine ⟨fun ha => ⟨execCruLds_of_shape ha hd, fun h32 h0 hm => ?_⟩,
    fun ha hn => ⟨execCruDot_of_shape ha hnv hd hn, fun hs h1 h64 hw => ⟨_, execCruDot_of_good ha hnv hd hn hg hs h1 h64 hw, setUnit_only u _ s, ?_⟩⟩,
    fun ha hn hs h1 h64 hc => ⟨_, execCruAcc_of_clear ha hnv hd hn hg hs h1 h64 hc, setUnit_only u _ s, ?_⟩,
    fun hbad => exec_of_nvBad hnv hbad, fun hok => ⟨fun ha => ?_, fun z op arg ha hz h16 hop harg => ?_, fun ha => ?_, fun ha => ?_, fun ha => ?_⟩,
    fun ha hn => ⟨execCruSscore_of_shape ha hnv hd hn, fun hs hm => ?_⟩⟩
  · obtain ⟨y, hy, hpc, hsk, hno⟩ := execCruLds_of_good ha hd hg h32 h0 hm
    exact ⟨_, hy, setUnit_only u y s, by rw [getUnit_setUnit]; exact ⟨hpc, hsk, hno⟩⟩
  · rw [getUnit_setUnit]
    exact ⟨rfl, rfl, rfl, rfl, fun v i hv hi => sbOf_dotUnit hv hi⟩
  · rw [getUnit_setUnit]
    exact ⟨rfl, rfl, fun v c hv hc => accOf_accUnit hs hv hc⟩
  · subst hnv
    exact (cruStep_of_atWord ha _ : execCruScale u s = _).trans (congrArg Host.Outcome.next (if_neg (not_nvBad hok)))
  · refine ⟨execCruHook_of_reserved ha hz hop, fun h0 => ?_, fun hin => ?_⟩
    · exact (execCruHook_of_computed ha hnv hok hz h16 hop harg (by rw [h0]; decide)).trans (by rw [if_pos h0])
    · have h0 : op ≠ 0 := fun h0 => absurd (h0 ▸ hin) (by decide)
      refine ⟨_, execCruHook_of_computed ha hnv hok hz h16 hop harg (List.mem_cons_of_mem 0 hin), setUnit_only u _ s, ?_⟩
      rw [getUnit_setUnit, if_neg h0]
      exact ⟨rfl, fun v i hv hi => sbOf_hookUnit hv hi⟩
  · obtain ⟨y, hy, hpc, hsb⟩ := execCruCsel_of_good ha hnv hok
    exact ⟨_, hy, setUnit_only u y s, by rw [getUnit_setUnit]; exact ⟨hpc, hsb⟩⟩
  · obtain ⟨y, hy, hpc, hm⟩ := execCruMax_of_good ha hnv hok
    exact ⟨_, hy, setUnit_only u y s, by rw [getUnit_setUnit]; exact ⟨hpc, hm⟩⟩
  · obtain ⟨y, hy, hpc, hwb⟩ := execCruExp2_of_good ha hnv hok
    exact ⟨_, hy, setUnit_only u y s, by rw [getUnit_setUnit]; exact ⟨hpc, hwb⟩⟩
  · obtain ⟨y, hy, hpc, hops, hres⟩ := execCruSscore_of_good ha hnv hd hn hg hs hm
    exact ⟨_, hy, setUnit_only u y s, by rw [getUnit_setUnit]; exact ⟨hpc, hops, hres⟩⟩

end Sys2Proof.Machine

namespace Sys2Proof.Machine
open Sys2Proof

/-! ## The command path of a unit -/

theorem transfer_of_good {u bad : Nat} {s : State} (hp : mainOn s = true) (hu : u < 1152) (hb : bad < 2) (f : State → State) :
    transfer u bad f s = f s := by
  unfold transfer
  rw [if_neg (by simp [hp]; omega), if_neg (by omega)]

theorem transfer_of_failed {u bad : Nat} {s : State} (hp : mainOn s = true) (hu : u < 1152) (hb : 2 ≤ bad) (f : State → State) :
    transfer u bad f s = unitFault u (stopUnit u 7 s) := by
  unfold transfer
  rw [if_neg (by simp [hp]; omega), if_pos hb]

/-- A list of `n` bytes that agrees with a buffer is the field of the buffer there. -/
theorem slice_eq_of_getD {bs l : List Byte} {off n : Nat} (hl : l.length = n) (h : ∀ i, i < n → bs.getD (off + i) 0 = l.getD i 0) :
    slice bs off n = l := by
  refine List.ext_getElem ((length_slice ..).trans hl.symm) fun i h1 h2 => ?_
  have hi : i < n := hl ▸ h2
  rw [← List.getD_eq_getElem _ 0 h1, ← List.getD_eq_getElem _ 0 h2, getD_slice _ _ hi, h i hi]

/-- What is filled into a buffer stands there. -/
theorem slice_fillAt {n off : Nat} {d : List Byte} (b : List Byte) (h : off + d.length ≤ n) : slice (fillAt n off d b) off d.length = d := by
  refine slice_eq_of_getD rfl fun i hi => ?_
  unfold fillAt
  rw [List.take_of_length_le (by omega), getD_slice _ _ (by omega), Nat.zero_add, List.getD_eq_getElem?_getD, getElem?_patch hi,
    List.getD_eq_getElem?_getD]

/-- Words written one after another from key `b` on. -/
theorem tget_foldl_tset {α : Type} (f : Nat → α) (b j n : Nat) (t : Table α) :
    tget ((List.range n).foldl (fun t i => tset t (b + i) (f i)) t) j = if b ≤ j ∧ j < b + n then some (f (j - b)) else tget t j := by
  induction n with
  | zero => rw [if_neg (by omega)]; rfl
  | succ n ih =>
    rw [List.range_succ, List.foldl_append, List.foldl_cons, List.foldl_nil, tget_tset, ih]
    by_cases hj : j = b + n
    · rw [if_pos hj, if_pos (by omega), hj, Nat.add_sub_cancel_left]
    · rw [if_neg hj]
      by_cases hin : b ≤ j ∧ j < b + n
      · rw [if_pos hin, if_pos (by omega)]
      · rw [if_neg hin, if_neg (by omega)]

theorem tget_storeWords_in {i : Nat} (col : Nat) (d : List Byte) (t : Table Word) (hi : i < 8) :
    tget (storeWords col d t) (8 * col + i) = some (BitVec.ofNat 32 (fld d (4 * i) 4)) := by
  unfold storeWords
  rw [tget_foldl_tset, if_pos (by omega), Nat.add_sub_cancel_left]

theorem tget_storeWords_out {col j : Nat} (d : List Byte) (t : Table Word) (hj : j < 8 * col ∨ 8 * col + 8 ≤ j) :
    tget (storeWords col d t) j = tget t j := by
  unfold storeWords
  rw [tget_foldl_tset, if_neg (by omega)]

section
variable {u : Nat} {s : State} (hp : mainOn s = true) (hu : u < 1152)
include hp hu

/-- The second failure of a transfer is a unit fault 7, for each command of the path. -/
theorem exec_transfer_failed {col h bad : Nat} {data : List Byte} {c : Instr} (hb : 2 ≤ bad)
    (hc : c ∈ [Instr.crw u col data bad, .crr u col bad, .opw u h col data bad, .rbr u h col bad, .imw u col data bad]) :
    exec c s = .next (unitFault u (stopUnit u 7 s)) := by
  simp only [List.mem_cons, List.not_mem_nil, or_false] at hc
  rcases hc with rfl | rfl | rfl | rfl | rfl <;> exact congrArg Host.Outcome.next (transfer_of_failed hp hu hb _)

theorem execCrw_of_other {col bad : Nat} (hb : bad < 2) (hc : col ≠ 0) (data : List Byte) :
    execCrw u col data bad s = .next (setUnit u (writeColumn col data (getUnit s u)) s) := by
  refine congrArg Host.Outcome.next ((transfer_of_good hp hu hb _).trans ?_)
  exact if_pos hc

theorem execCrw_of_ctl {bad : Nat} {data : List Byte} (hb : bad < 2) (habort : bit (fld data 0 4) 11 = false)
    (hsuspend : bit (fld data 0 4) 12 = false) :
    execCrw u 0 data bad s = .next (if bit (fld data 0 4) 10 then goUnit (fld data 0 4 % 1024) u (setUnit u (writeColumn 0 data (getUnit s u)) s)
      else setUnit u (writeColumn 0 data (getUnit s u)) s) := by
  refine congrArg Host.Outcome.next ((transfer_of_good hp hu hb _).trans ?_)
  dsimp only
  rw [if_neg (fun h => h rfl), habort, hsuspend]
  rfl

/-- A column of an operand half is filled, and nothing else of the unit. -/
theorem execOpw_fills {h col bad : Nat} {data : List Byte} (hb : bad < 2) (hh : h < 2) (hc : col < 78) (hd : data.length = 32) :
    ∃ y : CruUnit, execOpw u h col data bad s = .next (setUnit u y s) ∧ slice (y.opnd h) (32 * col) 32 = data ∧
      y.opnd (1 - h) = (getUnit s u).opnd (1 - h) := by
  have hfill : slice (fillAt 2496 (32 * col) (slice data 0 32) ((getUnit s u).opnd h)) (32 * col) 32 = data := by
    have hroom : 32 * col + data.length ≤ 2496 := by omega
    have hstands := slice_fillAt ((getUnit s u).opnd h) hroom
    rwa [slice_self hd, ← congrArg (slice _ _) hd]
  have he : execOpw u h col data bad s = _ := congrArg Host.Outcome.next (transfer_of_good hp hu hb _)
  dsimp only at he
  rw [if_neg (by omega)] at he
  refine ⟨_, he, ?_⟩
  obtain rfl | rfl : h = 0 ∨ h = 1 := by omega
  · exact ⟨hfill, rfl⟩
  · exact ⟨hfill, rfl⟩

theorem execImw_stores {col bad : Nat} (hb : bad < 2) (hfree : unitFree (getUnit s u) = true) (hc : col < 128) (data : List Byte) :
    execImw u col data bad s = .next (setUnit u { getUnit s u with prog := storeWords col data (getUnit s u).prog } s) := by
  refine congrArg Host.Outcome.next ((transfer_of_good hp hu hb _).trans ?_)
  exact if_pos ⟨hfree, hc⟩

end

/-! ## Refresh, suspension and results -/

@[simp] theorem owedBy_setOwed (u b n : Nat) (s : State) : owedBy (setOwed u b n s) u b = n := tgetD_tset_self ..

theorem getUnit_setOwed (u b n : Nat) (s : State) (v : Nat) : getUnit (setOwed u b n s) v = getUnit s v := rfl

theorem owedBy_setUnit (v : Nat) (y : CruUnit) (s : State) (u b : Nat) : owedBy (setUnit v y s) u b = owedBy s u b := rfl

theorem owedBy_clearOwed {u b : Nat} (s : State) (hb : b < 4) : owedBy (clearOwed u s) u b = 0 := by
  unfold owedBy clearOwed tgetD
  dsimp only
  rw [tget_tfilter_out _ _ _ fun _ => by simp; omega]
  rfl

theorem run_of_holdsBank {x : CruUnit} {b : Nat} (h : holdsBank x b = true) : x.st = .run := by
  simp only [holdsBank, Bool.and_eq_true, beq_iff_eq] at h
  exact h.1

theorem suspendUnit_of_run {u : Nat} {s : State} (h : (getUnit s u).st = .run) :
    suspendUnit u s = setUnit u { getUnit s u with suspendReq := true } s := if_pos h

/-- A bank that the unit holds owes one refresh more; at 7 the unit is asked to suspend. -/
theorem refreshOwed_spec {u b : Nat} {s : State} (hp : mainOn s = true) (hu : u < 1152) (hb : b < 4) (hh : holdsBank (getUnit s u) b = true) :
    ∃ t, execRefreshDue u b s = .next t ∧ OnlyIn [.mem] s t ∧ owedBy t u b = min 8 (owedBy s u b + 1) ∧
      (getUnit t u).suspendReq = ((getUnit s u).suspendReq || decide (6 ≤ owedBy s u b)) ∧ (getUnit t u).pc = (getUnit s u).pc := by
  have he : execRefreshDue u b s = .next (if 7 ≤ min 8 (owedBy s u b + 1)
      then setUnit u { getUnit s u with suspendReq := true } (setOwed u b (min 8 (owedBy s u b + 1)) s)
      else setOwed u b (min 8 (owedBy s u b + 1)) s) := by
    unfold execRefreshDue
    dsimp only
    rw [if_neg (by simp [hp]; omega), if_neg (by rw [hh]; decide), suspendUnit_of_run (s := setOwed ..) (run_of_holdsBank hh), getUnit_setOwed]
  by_cases h6 : 6 ≤ owedBy s u b
  · rw [if_pos (by omega)] at he
    refine ⟨_, he, OnlyIn.via (setUnit_only u _ _) (by decide) (setOwed_only ..), ?_, ?_, ?_⟩
    · rw [owedBy_setUnit, owedBy_setOwed]
    · rw [getUnit_setUnit, decide_eq_true h6, Bool.or_true]
    · rw [getUnit_setUnit]
  · rw [if_neg (by omega)] at he
    refine ⟨_, he, setOwed_only .., owedBy_setOwed .., ?_, rfl⟩
    rw [getUnit_setOwed, decide_eq_false h6, Bool.or_false]

/-- Settles O52: each command of the path by its transfer, then refresh, suspension, limits and the result read, each by its own branch. -/
theorem unitsAreCommandedAndBounded : Obligations.UnitsAreCommandedAndBounded := by
  refine ⟨fun u col x s hp hu hx => ?_, fun u x s hp hu hx => ?_⟩ <;> subst hx
  · refine ⟨fun h data bad c hb hc => exec_transfer_failed hp hu hb hc, fun data bad hb hc => execCrw_of_other hp hu hb hc data,
      fun data bad hb h11 h12 => execCrw_of_ctl hp hu hb h11 h12,
      fun entry hf => congrArg Host.Outcome.next ((transfer_of_good hp hu (by decide) _).trans (if_pos hf)),
      fun entry hf => congrArg Host.Outcome.next ((transfer_of_good hp hu (by decide) _).trans (if_neg (by rw [hf]; decide))),
      fun hf => congrArg Host.Outcome.next ((transfer_of_good hp hu (by decide) _).trans (if_neg (by rw [hf]; decide))),
      fun hf => congrArg Host.Outcome.next ((transfer_of_good hp hu (by decide) _).trans (if_pos hf)),
      fun hr => congrArg Host.Outcome.next ((transfer_of_good hp hu (by decide) _).trans (if_pos hr)),
      fun bad hb => congrArg Host.Outcome.next (transfer_of_good hp hu hb _),
      fun h bad hb => congrArg Host.Outcome.next (transfer_of_good hp hu hb _),
      fun h data bad hb hh hc hd => ?_, fun data bad hb hf hc => ?_⟩
    · obtain ⟨y, hy, hfill, hother⟩ := execOpw_fills hp hu hb hh hc hd
      refine ⟨_, hy, setUnit_only u y s, ?_, ?_, fun v hv => getUnit_setUnit_of_ne _ _ hv⟩
      · rw [getUnit_setUnit, hfill]
      · rw [getUnit_setUnit, hother]
    · refine ⟨_, execImw_stores hp hu hb hf hc data, setUnit_only u _ s, fun i hi => ?_, fun j hj => ?_, fun v hv => getUnit_setUnit_of_ne _ _ hv⟩
      · rw [getUnit_setUnit]
        exact tget_storeWords_in col data _ hi
      · rw [getUnit_setUnit]
        exact tget_storeWords_out data _ hj
  · refine ⟨fun hy => ?_, fun b hb => ⟨fun hh => ?_, refreshOwed_spec hp hu hb⟩, fun hr hs => ?_, fun hsus => ?_,
      fun hr => congrArg Host.Outcome.next (if_pos ⟨hr, hp⟩), fun hr hc => congrArg Host.Outcome.next (if_pos ⟨hr, hc, hp⟩), fun hd => ?_⟩
    · refine ⟨clearOwed u (setUnit u { getUnit s u with st := .run } s), congrArg Host.Outcome.next (if_neg (by simp [hy, hp])),
        OnlyIn.via (clearOwed_only ..) (by decide) (setUnit_only ..), getUnit_setUnit .., fun b hb => owedBy_clearOwed _ hb⟩
    · refine ⟨setOwed u b 0 s, congrArg Host.Outcome.next ?_, setOwed_only .., owedBy_setOwed .., rfl⟩
      dsimp only
      rw [if_neg (by simp [hp]; omega), if_pos (by rw [hh]; rfl)]
    · refine ⟨_, congrArg Host.Outcome.next (if_neg (by simp [hr, hs, hp])), OnlyIn.via (cntAdd_only ..) (by decide) ((setUnit_only ..).sub (by decide)),
        ?_, ?_, ?_, cnt_cntAdd_self ..⟩ <;> rw [getUnit_cntAdd, getUnit_setUnit]
    · refine ⟨_, congrArg Host.Outcome.next (if_neg (by simp [hsus, hp])), OnlyIn.via (setOwed_only ..) (by decide) (setUnit_only ..),
        ?_, ?_, ?_, ?_, owedBy_setOwed ..⟩ <;> rw [getUnit_setOwed, getUnit_setUnit]
    · refine ⟨_, congrArg Host.Outcome.next (if_neg (by simp [hd, hp])), (setUnit_only u _ s).upd_mem (by decide) (.inr rfl), getUnit_setUnit .., ?_⟩
      exact tget_tset_self ..

end Sys2Proof.Machine

namespace Sys2Proof.Machine
open Sys2Proof

/-! ## What settling the shares of a kind leaves -/

/-- What every step of a loop keeps, the loop keeps. -/
theorem forEach_keeps {α β : Type} {g : State → β} {f : α → State → State} (h : ∀ a s, g (f a s) = g s) (l : List α) (s : State) :
    g (forEach l f s) = g s := by
  induction l generalizing s with
  | nil => rfl
  | cons a l ih => exact (ih (f a s)).trans (h a s)

/-- Who serves a logical number depends on the switches under way and on the active bank alone. -/
theorem servingPhys_congr {s t : State} (hs : t.parts.switching = s.parts.switching) (ha : t.regs.act = s.regs.act) (k l : Nat) :
    servingPhys t k l = servingPhys s k l := by
  unfold servingPhys
  rw [hs, show actW t = actW s from funext fun o => actW_of_act ha o]

theorem switching_enterState (st : NodeState) (cause cls : Nat) (s : State) : (enterState st cause cls s).parts.switching = s.parts.switching :=
  congrArg Parts.switching ((enterState_only st cause cls s).parts_eq (by decide))

theorem switching_addCause (what : String) (s : State) : (addCause what s).parts.switching = s.parts.switching := by
  unfold addCause
  split <;> rfl

theorem switching_degrade (what : String) (s : State) : (degrade what s).parts.switching = s.parts.switching := by
  unfold degrade
  dsimp only
  split
  · rw [switching_enterState, switching_addCause]
  · exact switching_addCause what s

theorem switching_repair (what : String) (s : State) : (repair what s).parts.switching = s.parts.switching := by
  unfold repair
  dsimp only
  split
  · rw [switching_enterState]
  · rfl

theorem servingPhys_degrade (what : String) (s : State) (k l : Nat) : servingPhys (degrade what s) k l = servingPhys s k l :=
  servingPhys_congr (switching_degrade what s) ((degrade_only what s).act_eq (by decide)) k l

theorem servingPhys_repair (what : String) (s : State) (k l : Nat) : servingPhys (repair what s) k l = servingPhys s k l :=
  servingPhys_congr (switching_repair what s) ((repair_only what s).act_eq (by decide)) k l

theorem servingPhys_settleShares (j : Nat) (s : State) (k l : Nat) : servingPhys (settleShares j s) k l = servingPhys s k l := by
  refine (forEach_keeps (g := fun s => servingPhys s k l) (fun p s => ?_) _ _).trans
    (servingPhys_congr (congrArg Parts.switching ((showRemap_only s).parts_eq (by decide))) ((showRemap_only s).act_eq (by decide)) k l)
  split
  · exact servingPhys_degrade ..
  · exact servingPhys_repair ..

theorem strikeSteps_nil (j : Nat) (s : State) : strikeSteps [] j [] s = skipFree (2 ^ 32) s := rfl

/-! ## A switch that names no part -/

/-- A node whose PHYS of tile 3 names part 1 while a switch from "part 33" is under way: no tile has that number, and PHYS holds
only its five low bits. Tile 1 is served by part 16. -/
def strayed : State :=
  { setAct 0x702004 16 (setAct 0x70200C 1 { mgmt := { st := .ready }, own := { state := .owned } }) with parts := { switching := [(0, 3, 33)] } }

/-- Tile part 1 of that node is declared faulted: the switch is undone, and that makes part 1 serve tile 3 again. -/
def strayedBack : State :=
  dropSwitch 0 3 (setPhys 0 3 33 (cntAdd 0x180 1 { strayed with parts := { strayed.parts with failed := tset strayed.parts.failed 0 [1] } }))

theorem servedBy_strayed : servedBy strayed 0 1 = [] := by decide

theorem servingPhys_strayedBack : servingPhys strayedBack 0 3 = 1 := by decide

theorem failPart_strayed : failPart 0 1 1 strayed = settleShares 0 (strikeSteps [] 0 [] strayedBack) := by
  unfold failPart
  rw [if_neg (by decide), servedBy_strayed]
  dsimp only
  rw [if_neg (by decide)]
  rfl

/-- Refutes O53: a state is free to hold a switch whose old part PHYS has no room for. Undoing it, when the part it moves to
faults, leaves that very part serving the logical number. -/
theorem not_failedPartsAreReplacedOrOffline : ¬ Obligations.FailedPartsAreReplacedOrOffline := by
  intro h
  obtain ⟨-, hserves⟩ := h.1 .tile 1 strayed (by decide) (by decide)
  obtain ⟨-, hfault⟩ := hserves (by decide) (by decide) (by decide)
  obtain ⟨u, hexec, -, -, -, hgone⟩ := hfault .parity ⟨0, by decide, by decide, by decide⟩
  rw [show servedBy strayed PartKind.tile.code 1 = [] from servedBy_strayed] at hexec
  have hrun : exec (.partFault .tile 1 .parity) strayed = .next (failPart 0 1 1 strayed) := congrArg Host.Outcome.next (if_pos (by decide))
  rw [hrun, failPart_strayed] at hexec
  have hsame : servingPhys u 0 3 = servingPhys strayedBack 0 3 := by
    have hend := congrArg (servingPhys · 0 3) (Host.Outcome.next.inj hexec)
    simp only [servingPhys_settleShares] at hend
    exact hend.symm
  exact hgone 3 (by decide) (hsame.trans servingPhys_strayedBack)

end Sys2Proof.Machine

namespace Sys2Proof.Machine
open Sys2Proof

/-! ## Watchdogs and step replay -/

theorem stepSince_of_host {s : State} {c : Cmd} (h : c.ring ≠ deckRing) : stepSince s c = some c.admT := if_pos h

theorem slotWatched_of_host {s : State} {c : Cmd} (h : c.ring ≠ deckRing) : slotWatched s c = false := by simp [slotWatched, h]

/-- A watchdog's limit is reached, counted at `o` and told by an event. -/
def watchdogFired (o t : Nat) (e : Event) (s : State) : State := post e (cntAdd o 1 (advanceTo t s))

theorem watchdogFired_only (o t : Nat) (e : Event) (s : State) : OnlyIn [.out, .host, .mgmt, .regs, .clk] s (watchdogFired o t e s) :=
  OnlyIn.via (post_only ..) (by decide) (OnlyIn.via (cntAdd_only ..) (by decide) ((advanceTo_only t s).sub (by decide)))

theorem cnt_watchdogFired (o t : Nat) (e : Event) (s : State) : cnt (watchdogFired o t e s) o = cnt s o + 1 :=
  (cnt_of_regs ((post_only ..).regs_eq (by decide)) o).trans ((cnt_cntAdd_self ..).trans
    (congrArg (· + 1) (cnt_of_regs ((advanceTo_only t s).regs_eq (by decide)) o)))

theorem le_now_watchdogFired (o t : Nat) (e : Event) (s : State) : t ≤ now (watchdogFired o t e s) := by
  rw [watchdogFired, now_of_clk ((post_only ..).clk_eq (by decide)), now_of_clk ((cntAdd_only ..).clk_eq (by decide))]
  exact le_now_advanceTo t s

section
variable {s : State} {ring : Nat} {rseq : BitVec 32} {c : Cmd}

theorem host_of_runs (h : Runs s ring rseq c) : c.ring ≠ deckRing := h.ringIs ▸ h.host

theorem execStepWatchdog_of_runs (h : Runs s ring rseq c) (hop : c.op ∈ [0x10, 0x11, 0x18, 0x1A, 0x20, 0x21, 0x22, 0x23]) :
    execStepWatchdog ring rseq s = .next (strikeCmd c 17 (watchdogFired 0x1A8 (c.admT + stepLimit s c)
      { cls := 5, code := 2, part := some c.part, step := c.step, detail := stepDetail c 17 0xFFFF 0 } s)) := by
  have hc : ([0x10, 0x11, 0x18, 0x1A, 0x20, 0x21, 0x22, 0x23].contains c.op) = true := by rwa [List.contains_eq_mem, decide_eq_true_eq]
  unfold execStepWatchdog
  rw [runningCmd_of_runs h]
  dsimp only
  rw [stepSince_of_host (host_of_runs h)]
  dsimp only
  rw [if_neg (by rw [h.whole, h.serves, hc]; decide)]
  rfl

/-- The wait watchdog loses the one producer that has not answered. -/
theorem execWaitWatchdog_of_one (h : Runs s ring rseq c) {x : Sub} (hsubs : c.subs = [x]) (ha : x.answer = none) (hl : x.lost = false)
    (hb : x.busy = false) :
    execWaitWatchdog ring rseq s = .next (loseSub c 0 (watchdogFired 0x1B0 (c.admT + waitNs s)
      { cls := 5, code := 3, part := some c.part, step := c.step, detail := stepDetail c 18 0xFFFF 0 } s)) := by
  have hopen : ((c.subs.zipIdx.filter fun (u, _) => u.answer.isNone && !u.lost && !u.busy).map (·.2)) = [0] := by
    simp [hsubs, ha, hl, hb]
  have hrun : ∀ e, runningCmd (watchdogFired 0x1B0 (c.admT + waitNs s) e s) ring rseq = some c := fun e => by
    rw [runningCmd, getCmd_of_cmds ((watchdogFired_only ..).cmds_eq (by decide)), h.found]
    simp [h.phase]
  unfold execWaitWatchdog
  rw [runningCmd_of_runs h]
  dsimp only
  rw [hopen, if_neg (by rw [h.whole, h.serves, slotWatched_of_host (host_of_runs h)]; decide), if_pos (by decide)]
  refine congrArg Host.Outcome.next ?_
  change (match runningCmd (watchdogFired 0x1B0 (c.admT + waitNs s) _ s) ring rseq with
    | some x => loseSub x 0 (watchdogFired 0x1B0 (c.admT + waitNs s) _ s)
    | none => watchdogFired 0x1B0 (c.admT + waitNs s) _ s) = _
  rw [hrun]

/-- The replay of a step without sub-requests starts over. -/
theorem execStepReplayStart_of_plain {b : Cmd} (hs : serving s = true) (hr : b.ring = ring) (hq : b.rseq = rseq) (hphase : b.phase = .running)
    (hf : b.faulted = true) (hsubs : b.subs = []) (hop : b.op ≠ 0x20) (hload : s.parts.loading = []) :
    execStepReplayStart ring rseq (setCmd b s) =
      .next (setCmd { b with faulted := false, replays := b.replays + 1, admT := now s, work := restartHands (setCmd b s) b.work }
        (cntAdd 0x190 1 (setCmd b s))) := by
  have hrun : ∀ (d : Cmd) t, d.ring = ring → d.rseq = rseq → d.phase = .running → runningCmd (setCmd d t) ring rseq = some d :=
    fun d t h1 h2 h3 => by
      rw [runningCmd, getCmd_setCmd_of_key t h1 h2]
      simp [h3]
  have hidle : ¬ ((!b.faulted) = true ∨ (!serving (setCmd b s)) = true ∨
      ((setCmd b s).parts.loading.any fun (k, _) => (kindOps k).contains b.op) = true) := by
    rw [hf, show serving (setCmd b s) = serving s from rfl, hs, show (setCmd b s).parts.loading = [] from hload]
    simp
  unfold execStepReplayStart
  rw [hrun b s hr hq hphase]
  dsimp only
  rw [if_neg hidle, if_neg (fun h => hop h.1), hsubs]
  dsimp only [List.length_nil, List.range_zero, forEach_nil]
  rw [hrun _ _ (by exact hr) (by exact hq) (by exact hphase)]
  exact congrArg Host.Outcome.next (if_pos (by simp))

end

/-! ## Memory errors -/

theorem execUeBurst_other {s : State} {a : Nat} (hs : serving s = true) (ha : a < memSize) :
    ∃ u, execUeBurst a .other s = .next (countUe (pkgOfAddr a) u) ∧ OnlyIn [.out, .host, .mgmt, .mem] s u ∧
      u.mem = { s.mem with err := tset s.mem.err (a / 32) twoErrors } := by
  have hburst : OnlyIn [.mem] s { s with mem := { s.mem with err := tset s.mem.err (a / 32) twoErrors } } :=
    (OnlyIn.refl _ s).upd_mem (by decide) (.inr rfl)
  exact ⟨_, congrArg Host.Outcome.next (if_neg (by rw [hs]; simp; omega)), OnlyIn.via (post_only ..) (by decide) (hburst.sub (by decide)),
    (post_only ..).mem_eq (by decide)⟩

theorem execSharedBufferEccError_of_use {s : State} {n : Nat} (hs : serving s = true) (hn : n < 64) (hoff : s.parts.slicesOff.contains n = false) :
    execSharedBufferEccError n .corrected s = .next s ∧ execSharedBufferEccError n .mirrored s = .next (countDouble n s) := by
  have hin : ¬ (64 ≤ n ∨ (!serving s) = true ∨ s.parts.slicesOff.contains n = true) := by
    rw [hs, hoff]
    simpa using hn
  exact ⟨congrArg Host.Outcome.next (if_neg hin), congrArg Host.Outcome.next (if_neg hin)⟩

/-- Fewer than 16 double errors within a second are only kept. -/
theorem countDouble_of_few {s : State} {n : Nat}
    (h : ((tgetD s.parts.sliceErr n []).filter fun t => decide (now s < t + 1000000000)).length < 15) :
    countDouble n s = { s with parts := { s.parts with
      sliceErr := tset s.parts.sliceErr n (((tgetD s.parts.sliceErr n []).filter fun t => decide (now s < t + 1000000000)) ++ [now s]) } } := by
  unfold countDouble
  dsimp only
  rw [if_neg (by rw [List.length_append]; simp only [List.length_cons, List.length_nil]; omega)]

theorem execCastAuditPiece_of_empty {s : State} (hs : serving s = true) (hon : actBits s 0x900100 0 1 = 1) (h : auditPages s = []) :
    execCastAuditPiece s = .next (setValBits 0x900104 31 1 1 s) := by
  unfold execCastAuditPiece
  rw [if_neg (by rw [hs, hon]; decide), h]
  rfl

/-! ## Scrub and row retirement -/

theorem logicalUnit_lt {s : State} {u : Nat} (hu : u < 1152) : logicalUnit s u < 1024 := by
  have hbank : bankGroup s u < 8 := by
    unfold bankGroup isSpare
    split
    · exact Nat.mod_lt _ (by decide)
    · rename_i h
      simp only [beq_iff_eq] at h
      omega
  unfold logicalUnit
  omega

/-- Where a row lies: 4 KiB of local memory, aligned. -/
theorem rowAddr_eq (s : State) (u r : Nat) : rowAddr s u r = (r / 64 * 1024 + logicalUnit s u) * 262144 + r % 64 * 4096 := by
  unfold rowAddr ulaAddr
  omega

theorem rowAddr_le_memSize {s : State} {u r : Nat} (hu : u < 1152) (hr : r < 393216) : rowAddr s u r + 4096 ≤ memSize := by
  have hl := logicalUnit_lt (s := s) hu
  rw [rowAddr_eq, memSize]
  omega

theorem rowAddr_mod (s : State) (u r : Nat) : rowAddr s u r % 4096 = 0 := by
  rw [rowAddr_eq]
  omega

/-- Two rows of a unit have no byte in common. -/
theorem rowAddr_apart {s : State} {u q r : Nat} (hu : u < 1152) (h : q ≠ r) :
    rowAddr s u q + 4096 ≤ rowAddr s u r ∨ rowAddr s u r + 4096 ≤ rowAddr s u q := by
  have hl := logicalUnit_lt (s := s) hu
  rw [rowAddr_eq, rowAddr_eq]
  omega

/-- A burst of a range without errors holds none. -/
theorem burstErr_of_clean {s : State} {b n k : Nat} (h : errBursts s b n = []) (hlo : b ≤ k) (hhi : k < b + n) : burstErr s k = none := by
  unfold burstErr
  rcases he : tget s.mem.err k with _ | e
  · rfl
  · have hmem : (k, e) ∈ errBursts s b n := List.mem_filter.mpr ⟨tget_mem he, by simp [hlo, hhi]⟩
    rw [h] at hmem
    exact absurd hmem List.not_mem_nil

theorem eccByte_of_clean {s : State} {a : Nat} (h : burstErr s (a / 32) = none) : eccByte s a = readByte s a := by
  simp [eccByte, h]

section
variable {s : State} {u src dst : Nat} (hclean : errBursts s (rowAddr s u src / 32) 128 = [])
include hclean

theorem eccByte_row {i : Nat} (hi : i < 4096) : eccByte s (rowAddr s u src + i) = readByte s (rowAddr s u src + i) := by
  have hmod := rowAddr_mod s u src
  exact eccByte_of_clean (burstErr_of_clean hclean (by omega) (by omega))

theorem firstBadBurst_row : firstBadBurst s (rowAddr s u src) 4096 = none := by
  have hmod := rowAddr_mod s u src
  unfold firstBadBurst
  rw [Option.map_eq_none_iff, List.find?_eq_none]
  rintro ⟨b, e⟩ hmem hbad
  simp only [decide_eq_true_eq] at hbad
  obtain ⟨-, hlo, hhi, -⟩ := hbad
  have hin : (b, e) ∈ errBursts s (rowAddr s u src / 32) 128 := List.mem_filter.mpr ⟨hmem, by simp; omega⟩
  rw [hclean] at hin
  exact absurd hin List.not_mem_nil

end

/-- The bytes of a row as a read corrects them. -/
def rowBytes (s : State) (u r : Nat) : List Byte := (List.range 4096).map fun i => eccByte s (rowAddr s u r + i)

theorem length_rowBytes (s : State) (u r : Nat) : (rowBytes s u r).length = 4096 := by simp [rowBytes]

/-- Both rows of a copy hold the bytes of the old one. -/
def rowCopied (s : State) (u src dst : Nat) : State :=
  writeMem (rowAddr s u src) (rowBytes s u src) (writeMem (rowAddr s u dst) (rowBytes s u src) s)

section
variable {s : State} {u src dst : Nat} (hok : memOk s) (hu : u < 1152) (hne : src ≠ dst)
include hok hu hne

theorem readByte_rowCopied_dst (hdst : dst < 393216) (hclean : errBursts s (rowAddr s u src / 32) 128 = []) {i : Nat} (hi : i < 4096) :
    readByte (rowCopied s u src dst) (rowAddr s u dst + i) = readByte s (rowAddr s u src + i) := by
  have hlen := length_rowBytes s u src
  have hap := rowAddr_apart (s := s) hu hne
  unfold rowCopied
  rw [readByte_writeMem_of_outside _ _ (memOk_writeMem _ _ hok) (by omega),
    readByte_writeMem_at _ _ i hok (by omega) (by rw [hlen]; exact rowAddr_le_memSize hu hdst), rowBytes, getD_map_range _ _ hi, eccByte_row hclean hi]

omit hne in
theorem readByte_rowCopied_src (hsrc : src < 393216) (hclean : errBursts s (rowAddr s u src / 32) 128 = []) {i : Nat} (hi : i < 4096) :
    readByte (rowCopied s u src dst) (rowAddr s u src + i) = readByte s (rowAddr s u src + i) := by
  have hlen := length_rowBytes s u src
  unfold rowCopied
  rw [readByte_writeMem_at _ _ i (memOk_writeMem _ _ hok) (by omega) (by rw [hlen]; exact rowAddr_le_memSize hu hsrc), rowBytes,
    getD_map_range _ _ hi, eccByte_row hclean hi]

omit hne in
theorem readByte_rowCopied_of_outside (hsrc : src < 393216) (hclean : errBursts s (rowAddr s u src / 32) 128 = []) {a : Nat}
    (ha : a < rowAddr s u dst ∨ rowAddr s u dst + 4096 ≤ a) : readByte (rowCopied s u src dst) a = readByte s a := by
  have hlen := length_rowBytes s u src
  by_cases hin : rowAddr s u src ≤ a ∧ a < rowAddr s u src + 4096
  · obtain ⟨i, rfl⟩ := Nat.exists_eq_add_of_le hin.1
    exact readByte_rowCopied_src hok hu hsrc hclean (by omega)
  · unfold rowCopied
    rw [readByte_writeMem_of_outside _ _ (memOk_writeMem _ _ hok) (by omega), readByte_writeMem_of_outside _ _ hok (by omega)]

end

/-- The row counts as retired. -/
def rowNoted (key dst : Nat) (s : State) : State := { s with mem := { s.mem with retiredRows := tset s.mem.retiredRows key dst } }

theorem rowNoted_only (key dst : Nat) (s : State) : OnlyIn [.mem] s (rowNoted key dst s) :=
  (OnlyIn.refl _ s).upd_mem (by decide) (.inr rfl)

theorem tget_rowNoted (key dst : Nat) (s : State) : tget (rowNoted key dst s).mem.retiredRows key = some dst := tget_tset_self ..

theorem cells_rowNoted (key dst : Nat) (s : State) : (rowNoted key dst s).mem.cells = s.mem.cells := rfl

theorem mem_rowNoted_congr {s t : State} (h : t.mem = s.mem) (key dst : Nat) : (rowNoted key dst t).mem = (rowNoted key dst s).mem := by
  unfold rowNoted
  dsimp only
  rw [h]

/-- A row without errors is copied, counted, noted and told. -/
theorem execRowRetireCopy_of_clean {s : State} {u src dst : Nat} (hp : mainOn s = true) (hu : u < 1152) (hsrc : src < 393216)
    (hdst : dst < 393216) (hne : src ≠ dst) (hclean : errBursts s (rowAddr s u src / 32) 128 = []) :
    ∃ n e, execRowRetireCopy u src dst s = .next (post e (rowNoted (2 ^ 20 * u + src) dst (cntAdd 0x602400 n (rowCopied s u src dst)))) := by
  unfold execRowRetireCopy rowNoted rowCopied rowBytes
  dsimp only
  rw [if_neg (by rw [hp]; simp; omega), firstBadBurst_row hclean]
  exact ⟨_, _, rfl⟩

theorem rowRetired_only (e : Event) (n key : Nat) (s : State) (u src dst : Nat) : OnlyIn [.out, .host, .mgmt, .regs, .mem, .cells] s
    (post e (rowNoted key dst (cntAdd 0x602400 n (rowCopied s u src dst)))) := by
  have hcopied : OnlyIn [.mem, .cells] s (rowCopied s u src dst) := OnlyIn.via (writeMem_only ..) (by decide) (writeMem_only ..)
  have hcounted : OnlyIn [.regs, .mem, .cells] s (cntAdd 0x602400 n (rowCopied s u src dst)) :=
    OnlyIn.via (cntAdd_only ..) (by decide) (hcopied.sub (by decide))
  exact OnlyIn.via (post_only ..) (by decide) (OnlyIn.via (rowNoted_only ..) (by decide) (hcounted.sub (by decide)))

theorem mem_rowRetired (e : Event) (n key : Nat) (s : State) (u src dst : Nat) :
    (post e (rowNoted key dst (cntAdd 0x602400 n (rowCopied s u src dst)))).mem = (rowNoted key dst (rowCopied s u src dst)).mem :=
  ((post_only ..).mem_eq (by decide)).trans (mem_rowNoted_congr ((cntAdd_only ..).mem_eq (by decide)) key dst)

/-- Settles O54: each watchdog and error by its branch; a retired row is two `writeMem` of the bytes that the old row read as. -/
theorem stepsAreReplayedAndErrorsMet : Obligations.StepsAreReplayedAndErrorsMet := by
  refine ⟨fun ring rseq c s h => ⟨fun hop => ?_, fun x hsubs ha hl hb => ?_, fun b hb hsubs hop hload => ?_⟩,
    fun s hs => ⟨fun a ha => execUeBurst_other hs ha, fun n hn hoff => ⟨(execSharedBufferEccError_of_use hs hn hoff).1, fun hfew => ?_⟩, fun ch hch => ?_,
      fun hon hnone => execCastAuditPiece_of_empty hs hon hnone⟩,
    fun u s hp hu hok => ⟨fun g hg hmod hclean => ?_, fun src dst hsrc hdst hne hclean => ?_⟩⟩
  · exact ⟨_, execStepWatchdog_of_runs h hop, watchdogFired_only .., (watchdogFired_only ..).act_eq (by decide), cnt_watchdogFired .., le_now_watchdogFired ..⟩
  · exact ⟨_, execWaitWatchdog_of_one h hsubs ha hl hb, watchdogFired_only .., (watchdogFired_only ..).act_eq (by decide), cnt_watchdogFired .., le_now_watchdogFired ..⟩
  · subst hb
    exact execStepReplayStart_of_plain h.serves h.ringIs h.rseqIs h.phase rfl hsubs hop hload
  · exact (execSharedBufferEccError_of_use hs hn hoff).2.trans (congrArg Host.Outcome.next (countDouble_of_few hfew))
  · exact ⟨congrArg Host.Outcome.next (if_neg (by simp)), fun hd => congrArg Host.Outcome.next (if_pos ⟨rfl, hd, hs, hch⟩)⟩
  · refine congrArg Host.Outcome.next ((if_neg (by rw [hp]; simp; omega)).trans ?_)
    unfold scrubBursts
    rw [hclean]
    rfl
  · obtain ⟨n, e, hexec⟩ := execRowRetireCopy_of_clean hp hu hsrc hdst hne hclean
    have hmem := mem_rowRetired e n (2 ^ 20 * u + src) s u src dst
    have hcells := (congrArg MemUnit.cells hmem).trans (cells_rowNoted ..)
    have hframe := rowRetired_only e n (2 ^ 20 * u + src) s u src dst
    refine ⟨_, hexec, hframe, hframe.act_eq (by decide), ?_, fun i hi => ⟨?_, ?_⟩, fun a ha => ?_⟩
    · rw [hmem, tget_rowNoted]
    all_goals rw [readByte_of_cells (s := rowCopied s u src dst) hcells]
    · exact readByte_rowCopied_dst hok hu hne hdst hclean hi
    · exact readByte_rowCopied_src hok hu hsrc hclean hi
    · exact readByte_rowCopied_of_outside hok hu hsrc hclean ha

end Sys2Proof.Machine

namespace Sys2Proof.Machine
open Sys2Proof

/-! ## Images, fences and remaps -/

/-- The unit holds the image, and counts as loaded. -/
def imageTaken (u v : Nat) (i : CrucImage) (sw : List Nat) (s : State) : State :=
  let s1 := setUnit u { getUnit s u with prog := imageProg i.words, imgver := v } s
  { s1 with mem := { s1.mem with imgLoaded := tset s1.mem.imgLoaded u v, switching := sw } }

theorem getUnit_imageTaken (u v : Nat) (i : CrucImage) (sw : List Nat) (s : State) :
    getUnit (imageTaken u v i sw s) u = { getUnit s u with prog := imageProg i.words, imgver := v } := getUnit_setUnit _ _ s

theorem getUnit_imageTaken_of_ne {u w : Nat} (v : Nat) (i : CrucImage) (sw : List Nat) (s : State) (h : w ≠ u) :
    getUnit (imageTaken u v i sw s) w = getUnit s w := getUnit_setUnit_of_ne _ s h

theorem imgLoaded_imageTaken (u v : Nat) (i : CrucImage) (sw : List Nat) (s : State) :
    tget (imageTaken u v i sw s).mem.imgLoaded u = some v := tget_tset_self ..

section
variable {s : State} (hp : mainOn s = true)
include hp

/-- A free unit takes the image that VERSION_PEND of its package names. -/
theorem execCrucibleImageLoad_takes {pkg unit : Nat} {i : CrucImage} (hk : pkg < 16) (hu : unit < 72) (hsw : s.mem.switching.contains pkg = true)
    (hfree : unitFree (getUnit s (72 * pkg + unit)) = true) (hi : crucImage s (imgVersion s pkg) = some i) :
    ∃ sw, execCrucibleImageLoad pkg unit s = .next (showImg pkg (imageTaken (72 * pkg + unit) (imgVersion s pkg) i sw s)) := by
  have hgo : ¬ ((!s.mem.switching.contains pkg) = true ∨ 72 ≤ unit ∨ 16 ≤ pkg ∨ (!unitFree (getUnit s (72 * pkg + unit))) = true ∨
      (!mainOn s) = true) := by
    rw [hsw, hfree, hp]
    simp
    omega
  unfold execCrucibleImageLoad
  dsimp only
  rw [if_neg hgo, hi]
  exact ⟨_, rfl⟩

theorem execMicrocodeFenceLoad_of_more {cls e : Nat} {l : List Nat} (hf : tget s.mgmt.fences cls = some l) (he : l.contains e = true)
    (hd : deckRuns s = false) (hmore : l.erase e ≠ []) :
    execMicrocodeFenceLoad cls e s = .next { s with mgmt := { s.mgmt with fences := tset s.mgmt.fences cls (l.erase e) } } := by
  have hrest : (!(l.erase e).isEmpty) = true := by simpa using hmore
  unfold execMicrocodeFenceLoad
  rw [hf]
  dsimp only
  rw [if_neg (by rw [hd, hp, he]; decide), if_pos hrest]

/-- The last engine of a class ends its fence. -/
theorem execMicrocodeFenceLoad_of_last {cls e : Nat} {l : List Nat} (hf : tget s.mgmt.fences cls = some l) (he : l.contains e = true)
    (hd : deckRuns s = false) (hlast : l.erase e = []) :
    ∃ m, execMicrocodeFenceLoad cls e s = .next (logMgmt 0x82 4 .ok m
      (setValBits (0xB00100 + 4 * cls) 1 1 1 { s with mgmt := { s.mgmt with fences := tdel s.mgmt.fences cls } })) := by
  unfold execMicrocodeFenceLoad
  rw [hf]
  dsimp only
  rw [if_neg (by rw [hd, hp, he]; decide), hlast, if_neg (by decide)]
  exact ⟨_, rfl⟩

/-- A die whose units are idle takes its new assignment. -/
theorem execRemapSwitch_crucible {l : Nat} (hold : (tget s.mem.remapOld l).isSome = true) (hidle : ∀ i, i < 9 → (getUnit s (9 * l + i)).st = .idle) :
    execRemapSwitch .crucible l s = .next { s with mem := { s.mem with remapOld := tdel s.mem.remapOld l } } := by
  unfold execRemapSwitch
  dsimp only
  rw [if_pos rfl, if_pos]
  refine ⟨hold, hp, List.all_eq_true.mpr fun i hi => ?_⟩
  rw [show (tgetD s.mem.units (9 * l + i) {}).st = .idle from hidle i (List.mem_range.mp hi)]
  rfl

/-- The one switch under way takes effect. -/
theorem execRemapSwitch_of_one {k : RemapKind} {l old : Nat} (hk : k ≠ .crucible) (hsw : s.parts.switching = [(k.code, l, old)])
    (hb : atBoundary s = true)
    (hserved : (servedBy { s with parts := { s.parts with switching := [] } } k.code (physOf (actW s) k.code l)).length ≤ 1) :
    execRemapSwitch k l s = .next (settleShares k.code { s with parts := { s.parts with switching := [] } }) := by
  unfold execRemapSwitch
  dsimp only
  have hfind : (s.parts.switching.find? fun (a, b, _) => a == k.code && b == l) = some (k.code, l, old) := by simp [hsw]
  have hrest : (s.parts.switching.filter fun (a, b, _) => !(a == k.code && b == l)) = [] := by simp [hsw]
  rw [if_neg hk, hfind]
  dsimp only
  rw [if_neg (by rw [hp, hb]; decide), hrest, if_neg]
  exact Nat.not_lt.mpr hserved

end

theorem fences_logMgmt (cls code : Nat) (st : Status) (m : DetailM) (s : State) : (logMgmt cls code st m s).mgmt.fences = s.mgmt.fences := by
  unfold logMgmt addLog
  repeat' split
  all_goals rfl

/-! ## Packages that were recalibrated -/

theorem pkgState_of_regs {s t : State} (h : t.regs = s.regs) (p : Nat) : pkgState t p = pkgState s p := valBits_of_regs h _ _ _

/-- PSTATE that changes is written. -/
theorem setPkg_of_other {p st : Nat} {s : State} (h : pkgState s p ≠ st) (status : Status) :
    setPkg p st status s = logMgmt 0x86 1 status { b0 := p, b1 := st, h0 := pkgState s p } (setValBits (0xB00200 + 4 * p) 2 2 st s) :=
  if_neg fun hs => h hs.1

theorem pkgState_setPkg {p st : Nat} {s : State} (h : pkgState s p ≠ st) (h4 : st < 4) (status : Status) : pkgState (setPkg p st status s) p = st := by
  rw [setPkg_of_other h, pkgState_of_regs ((logMgmt_only ..).regs_eq (by decide)), pkgState, valBits_setValBits_self (by decide)]
  exact Nat.mod_eq_of_lt h4

theorem execPkgRecalDone_of_recal {s : State} {p : Nat} (hp : mainOn s = true) (hlt : p < 16) (hst : pkgState s p = 2)
    (ht : actBits s (0xB00200 + 4 * p) 0 2 = 2) : execPkgRecalDone p true s = .next (setPkg p 1 .ok s) := by
  unfold execPkgRecalDone
  dsimp only
  rw [if_neg (by rw [hp, hst]; simp; omega), if_pos ht, if_pos rfl]

/-- Where TARGET is OFFLINE, the package that is OFFLINE stays so. -/
theorem execPkgRecalDone_of_offline {s : State} {p : Nat} (hp : mainOn s = true) (hlt : p < 16) (hst : pkgState s p = 2)
    (ht : actBits s (0xB00200 + 4 * p) 0 2 = 1) : execPkgRecalDone p false s = .next (setPkg p 1 .flashFault s) := by
  have hone : pkgState (setPkg p 1 .flashFault s) p = 1 := pkgState_setPkg (by omega) (by decide) _
  have htarget : actBits (setPkg p 1 .flashFault s) (0xB00200 + 4 * p) 0 2 = 1 := by
    rw [actBits, actW_of_act ((setPkg_only ..).act_eq (by decide))]
    exact ht
  unfold execPkgRecalDone
  dsimp only
  rw [if_neg (by rw [hp, hst]; simp; omega), if_neg (by omega), if_neg (by decide), pkgTarget, htarget, hone]
  exact congrArg Host.Outcome.next (if_pos ⟨hone, rfl⟩)

/-- Settles O55: each switch by its last part; PSTATE is read off the write that `setPkg` makes. -/
theorem switchesEndAtAnIdlePoint : Obligations.SwitchesEndAtAnIdlePoint := by
  refine fun s hp => ⟨fun pkg unit i hk hu hsw hfree hi => ?_, fun cls e l hf he hd => ⟨execMicrocodeFenceLoad_of_more hp hf he hd, fun hlast => ?_⟩,
    fun l hold hidle => execRemapSwitch_crucible hp hold hidle, fun k l old hk hsw hb hserved => execRemapSwitch_of_one hp hk hsw hb hserved,
    fun p hlt hst => ⟨fun ht => ?_, fun ht => ?_⟩⟩
  · obtain ⟨sw, hexec⟩ := execCrucibleImageLoad_takes hp hk hu hsw hfree hi
    have hframe := execCrucibleImageLoad_only pkg unit s hexec
    have hmem := (showImg_only pkg (imageTaken (72 * pkg + unit) (imgVersion s pkg) i sw s)).mem_eq (by decide)
    refine ⟨_, hexec, hframe.sub (by decide), hframe.act_eq (by decide), ?_, ?_, ?_, hframe.cells_eq (by decide), fun v hv => ?_⟩
    · rw [getUnit_of_mem hmem, getUnit_imageTaken]
    · rw [getUnit_of_mem hmem, getUnit_imageTaken]
    · rw [hmem, imgLoaded_imageTaken]
    · rw [getUnit_of_mem hmem, getUnit_imageTaken_of_ne _ _ _ _ hv]
  · obtain ⟨m, hexec⟩ := execMicrocodeFenceLoad_of_last hp hf he hd hlast
    refine ⟨_, hexec, ?_, ?_, ?_, ?_⟩
    · exact OnlyIn.via (logMgmt_only ..) (by decide) (OnlyIn.via (setValBits_only ..) (by decide) ((OnlyIn.refl [.mgmt, .regs] s).upd_mgmt (by decide) (.inr rfl)))
    · exact ((logMgmt_only ..).act_eq (by decide)).trans ((setValBits_only ..).act_eq (by decide))
    · rw [fences_logMgmt]
      exact tget_tdel_self ..
    · rw [valBits_of_regs ((logMgmt_only ..).regs_eq (by decide)), valBits_setValBits_self (by decide)]
      rfl
  · exact ⟨_, execPkgRecalDone_of_recal hp hlt hst ht, (setPkg_only ..).sub (by decide), (setPkg_only ..).act_eq (by decide),
      pkgState_setPkg (by omega) (by decide) _⟩
  · exact ⟨_, execPkgRecalDone_of_offline hp hlt hst ht, (setPkg_only ..).sub (by decide), (setPkg_only ..).act_eq (by decide),
      pkgState_setPkg (by omega) (by decide) _⟩

end Sys2Proof.Machine

namespace Sys2Proof.Machine
open Sys2Proof

/-! ## States of the node -/

/-- An entry of the log changes the log alone. -/
theorem logMgmt_keeps {β : Type} {g : Mgmt → β} (h : ∀ (m : Mgmt) a b c d, g { m with logHw := a, logLost := b, logBatch := c, logSeq := d } = g m)
    (cls code : Nat) (st : Status) (m : DetailM) (s : State) : g (logMgmt cls code st m s).mgmt = g s.mgmt := by
  unfold logMgmt addLog
  repeat' split
  · exact h ..
  · exact h ..
  · exact h ..

theorem stepNo_enterState (st : NodeState) (cause w0 : Nat) (s : State) : (enterState st cause w0 s).mgmt.stepNo = s.mgmt.stepNo :=
  logMgmt_keeps (g := Mgmt.stepNo) (fun _ _ _ _ _ => rfl) ..

theorem mssRunning_enterState (st : NodeState) (cause w0 : Nat) (s : State) : (enterState st cause w0 s).mgmt.mssRunning = s.mgmt.mssRunning :=
  logMgmt_keeps (g := Mgmt.mssRunning) (fun _ _ _ _ _ => rfl) ..

theorem vstby_enterState (st : NodeState) (cause w0 : Nat) (s : State) : (enterState st cause w0 s).pins.vstby = s.pins.vstby :=
  (congrArg Pins.vstby ((logMgmt_only 0x80 1 .ok { b0 := s.mgmt.st.code, b1 := st.code, h0 := cause, w0 := w0 } s).pins_eq (by decide)) :)

theorem st_enterState (st : NodeState) (cause w0 : Nat) (s : State) : (enterState st cause w0 s).mgmt.st = st := rfl

theorem mgmt_showState (s : State) : (showState s).mgmt = s.mgmt := (showState_only s).mgmt_eq (by decide)

theorem st_toStep (n : Nat) (s : State) : (toStep n s).mgmt.st = s.mgmt.st := rfl

theorem stepNo_toStep (n : Nat) (s : State) : (toStep n s).mgmt.stepNo = n := rfl

/-! ## Bring-up (R437) -/

/-- A bring-up that is not held ends its step. -/
theorem execBringupStepDone_of_going {s : State} (hh : s.mgmt.held = false) (hoff : s.mgmt.st ≠ .off) (res : BringupResult) (imgs : List RingImage) :
    execBringupStepDone res imgs s = .next (match s.mgmt.stepNo, res with
      | 1, _ => if s.pins.vin48 then toStep 2 s else s
      | 2, _ =>
        if !s.pins.oscGood then s
        else toStep 3 (if s.mgmt.st = .standby then enterState .bringup s.mgmt.bootCause 0 s else s)
      | 3, .microcodeFailed => coldReset 5 s
      | 3, _ => toStep 4 s
      | 4, .packagesFailed mask =>
        let s1 := trainPackages mask.toNat s
        if (List.range 16).all fun p => pkgState s1 p == 3 then coldReset 5 s1 else toStep 5 s1
      | 4, _ => toStep 5 s
      | 5, _ =>
        let s1 := loadCrucibles s
        if s.mgmt.warm then toStep 7 (fillAndTrain s1) else toStep 6 s1
      | 6, _ => toStep 7 (fillAndTrain s)
      | 7, _ => finishBoot imgs s
      | _, _ => s) := by
  unfold execBringupStepDone
  rw [if_neg (by rw [hh]; simp [hoff])] <;> rfl

/-- Memory is filled and the ports train. -/
theorem fillAndTrain_of_cold {s : State} (h : s.mgmt.warm = false) :
    (fillAndTrain s).mem.cells = [] ∧ OnlyIn [.mem, .cells, .fab, .regs, .out, .mgmt] s (fillAndTrain s) := by
  have hfilled : OnlyIn [.mem, .cells] s { s with mem := { s.mem with cells := [], err := [] } } :=
    (OnlyIn.refl _ s).upd_mem (by decide) (.inl (by decide))
  have hports : ∀ t, OnlyIn linkAreas t (forEach ((List.range 6).filter fun p => portCfg t p 0) (fun p s => setLink p .detect s) t) :=
    fun t => OnlyIn.forEach _ _ fun p s => setLink_quiet_only (st := .detect) (by decide) p s
  unfold fillAndTrain
  rw [h]
  dsimp only [Bool.false_eq_true, if_false]
  exact ⟨congrArg MemUnit.cells ((hports _).mem_eq (by decide)), (hports _).via (by decide) (hfilled.sub (by decide))⟩

/-- The node serves after a cold bring-up: it holds region 65,535. -/
theorem finishBoot_of_cold {s : State} (h : s.mgmt.warm = false) (imgs : List RingImage) :
    OnlyIn [.rma, .mgmt, .regs, .pins, .host, .st] s (finishBoot imgs s) ∧ (finishBoot imgs s).mgmt.st = servingState s ∧
      (finishBoot imgs s).mgmt.stepNo = 0 ∧ getRegion (finishBoot imgs s) mgmtRegion = mgmtRegionOf (getRegion s mgmtRegion) := by
  have hregion : OnlyIn [.rma, .mgmt, .regs, .pins, .host, .st] s
      { s with rma := { s.rma with regions := tset s.rma.regions mgmtRegion (mgmtRegionOf (getRegion s mgmtRegion)) } } :=
    (OnlyIn.refl _ s).upd_rma (by decide)
  have hserving : OnlyIn [.rma, .mgmt, .regs, .pins, .host, .st] s { s with
      rma := { s.rma with regions := tset s.rma.regions mgmtRegion (mgmtRegionOf (getRegion s mgmtRegion)) }
      mgmt := { s.mgmt with stepNo := 0, held := false, warm := false } } :=
    hregion.upd_mgmt (by decide) (.inr rfl)
  unfold finishBoot
  dsimp only
  rw [h, if_neg (by decide)]
  refine ⟨(enterState_only ..).via (by decide) ((rebuildMgmtRing_only _).via (by decide) hserving), rfl, stepNo_enterState .., ?_⟩
  unfold getRegion
  rw [(enterState_only ..).rma_eq (by decide), (rebuildMgmtRing_only _).rma_eq (by decide)]
  exact tgetD_tset_self ..

/-! ## Power inputs -/

theorem autoBoot_of_off {s : State} (h : actBits s 0xB0000C 0 1 = 0) : autoBoot s = s := if_neg fun hs => by omega

/-- The challenge stands in its own registers. -/
theorem valBits_drawChallenge {o : Nat} (s : State) (lo w : Nat) (ho : o < 0xA00100 ∨ 0xA00110 ≤ o) :
    valBits (drawChallenge s) o lo w = valBits s o lo w := by
  unfold drawChallenge valBits
  dsimp only
  rw [valW_forEach_setVal, if_neg (by omega), valW_stepFree]
  rfl

/-- With its slot loadable, the MSS boots the node into STANDBY. -/
theorem bootMss_of_loadable {s : State} (hl : valBits s 0xA00644 0 8 ≠ 4) (hr : s.pins.recoveryN = true)
    (hs : (fwSlot s 1 (actSlot s 1)).loadable = true) : bootMss s = enterState .standby 1 0 s := by
  unfold bootMss
  dsimp only
  rw [if_neg hl, if_neg (by rw [hr]; decide), if_pos hs]

/-- The node after standby power came: its pins, and the MSS and the Assay's lines up. -/
def standbyGood (sris : Bool) (smb : BitVec 2) (s : State) : State :=
  drawChallenge { s with
    pins := { s.pins with vstby := true, recoveryN := true, sris := sris, smbAddr := smb }
    mgmt := { s.mgmt with mssRunning := true }
    tap := { s.tap with ready := true, beat := true } }

theorem standbyGood_only (sris : Bool) (smb : BitVec 2) (s : State) :
    OnlyIn [.pins, .mgmt, .tap, .regs, .sec, .freeCnt, .st] s (standbyGood sris smb s) := by
  have hpins : OnlyIn [.pins, .mgmt, .tap, .regs, .sec, .freeCnt, .st] s
      { s with pins := { s.pins with vstby := true, recoveryN := true, sris := sris, smbAddr := smb } } := (OnlyIn.refl _ s).upd_pins (by decide)
  have hmss := hpins.upd_mgmt (x := { s.mgmt with mssRunning := true }) (by decide) (.inr rfl)
  exact (drawChallenge_only _).via (by decide) (hmss.upd_tap (x := { s.tap with ready := true, beat := true }) (by decide))

theorem mgmt_standbyGood (sris : Bool) (smb : BitVec 2) (s : State) : (standbyGood sris smb s).mgmt = { s.mgmt with mssRunning := true } :=
  (drawChallenge_only _).mgmt_eq (by decide)

theorem pins_standbyGood (sris : Bool) (smb : BitVec 2) (s : State) :
    (standbyGood sris smb s).pins = { s.pins with vstby := true, recoveryN := true, sris := sris, smbAddr := smb } :=
  (drawChallenge_only _).pins_eq (by decide)

/-- Standby power boots the MSS into STANDBY, where its slot in force can be loaded. -/
theorem execStandbyPowerGood_of_loadable {s : State} (sris : Bool) (smb : BitVec 2) (hoff : s.mgmt.st = .off) (hauto : actBits s 0xB0000C 0 1 = 0)
    (hload : (fwSlot s 1 (actSlot s 1)).loadable = true) (hlife : valBits s 0xA00644 0 8 ≠ 4) :
    execStandbyPowerGood true sris smb s = .next (enterState .standby 1 0 (standbyGood sris smb s)) := by
  have hact : (standbyGood sris smb s).regs.act = s.regs.act := (standbyGood_only ..).act_eq (by decide)
  have hboot : bootMss (standbyGood sris smb s) = enterState .standby 1 0 (standbyGood sris smb s) := by
    refine bootMss_of_loadable ?_ (congrArg Pins.recoveryN (pins_standbyGood ..)) ?_
    · rw [standbyGood, valBits_drawChallenge _ _ _ (by omega)]
      exact hlife
    · rw [fwSlot, mgmt_standbyGood, actSlot, actBits, actW_of_act hact]
      exact hload
  have hend : autoBoot (enterState .standby 1 0 (standbyGood sris smb s)) = enterState .standby 1 0 (standbyGood sris smb s) := by
    refine autoBoot_of_off ?_
    rw [actBits, actW_of_act (((enterState_only ..).act_eq (by decide)).trans hact)]
    exact hauto
  refine congrArg Host.Outcome.next ((if_neg fun h => h hoff).trans ?_)
  exact (congrArg autoBoot hboot).trans hend

/-- Settles O56: bring-up by its step in progress, the power inputs by their branch; OFF and STANDBY are read off the state that is left. -/
theorem bringupAndPowerSetTheState : Obligations.BringupAndPowerSetTheState := by
  refine ⟨fun imgs s hh hoff => ?_, fun s => ⟨fun hp => ⟨?_, ?_⟩, fun us mv hus hmv => ?_, fun us mv h => ?_, fun hauto => ⟨?_, ?_⟩, fun hoff => ?_,
    fun sris smb hoff hauto hload hlife => ?_⟩⟩
  · have hgo := execBringupStepDone_of_going hh hoff
    refine ⟨fun hn hv => ?_, fun hn ho hst => ?_, fun hn => ⟨?_, ?_⟩, fun hn => ?_, fun hn => ?_, fun hn hw => ?_, fun hn hst hw => ?_⟩
    · exact (hgo .ok imgs).trans (by rw [hn, hv]; rfl)
    · refine ⟨toStep 3 (enterState .bringup s.mgmt.bootCause 0 s), (hgo .ok imgs).trans (by rw [hn, ho, hst]; rfl), ?_, rfl, rfl⟩
      exact (toStep_only ..).via (by decide) ((enterState_only ..).sub (by decide))
    · exact (hgo .ok imgs).trans (by rw [hn]; rfl)
    · exact (hgo .microcodeFailed imgs).trans (by rw [hn]; rfl)
    · exact (hgo .ok imgs).trans (by rw [hn]; rfl)
    · exact (hgo .ok imgs).trans (by rw [hn]; rfl)
    · obtain ⟨hcells, hframe⟩ := fillAndTrain_of_cold hw
      exact ⟨toStep 7 (fillAndTrain s), (hgo .ok imgs).trans (by rw [hn]; rfl), hcells, rfl, (toStep_only ..).via (by decide) hframe⟩
    · obtain ⟨hframe, hstate, hno, hregion⟩ := finishBoot_of_cold hw imgs
      refine ⟨finishBoot imgs s, (hgo .ok imgs).trans (by rw [hn]; rfl), hframe, hstate, hno, ?_, ?_⟩ <;> rw [hregion] <;> rfl
  · exact congrArg Host.Outcome.next (if_pos (by exact hp))
  · exact congrArg Host.Outcome.next (if_pos hp)
  · exact congrArg Host.Outcome.next (if_pos ⟨hus, hmv⟩)
  · exact congrArg Host.Outcome.next (if_neg (by omega))
  · exact congrArg Host.Outcome.next (autoBoot_of_off hauto)
  · exact congrArg Host.Outcome.next (autoBoot_of_off hauto)
  · exact ⟨_, congrArg Host.Outcome.next (if_neg hoff), rfl, rfl, rfl, rfl, rfl, rfl, rfl, rfl, rfl, rfl⟩
  · refine ⟨_, execStandbyPowerGood_of_loadable sris smb hoff hauto hload hlife, (enterState_only ..).via (by decide) (standbyGood_only ..), rfl, ?_, ?_⟩
    · rw [vstby_enterState, pins_standbyGood]
    · rw [mssRunning_enterState, mgmt_standbyGood]

end Sys2Proof.Machine

namespace Sys2Proof.Machine
open Sys2Proof

/-! ## A node that serves, and whose pins JTAG drives -/

/-- A node in READY with pins driven by JTAG: no command drives pins but in TEST, yet a state is free to say so. Vector 0 of the PF is set. -/
def drivenReady : State := { mgmt := { st := .ready, jtagDriven := true }, host := { msix := [(0, {})] } }

/-- A function-level reset needs a node that serves, and this one does not. -/
theorem execFlrPf_drivenReady : exec .flrPf drivenReady = .next drivenReady := congrArg Host.Outcome.next (if_neg (by decide))

/-- Refutes O57: in READY with pins driven by JTAG a function-level reset does nothing, so the PF's MSI-X vectors stay. -/
theorem not_linksPinsAndSensorsAct : ¬ Obligations.LinksPinsAndSensorsAct := by
  intro h
  obtain ⟨-, -, -, -, hflr⟩ := h.1 drivenReady rfl
  obtain ⟨t, hexec, -, -, -, -, -, hmsix, -⟩ :=
    hflr .flrPf 0 (ownerRing drivenReady) (.inl ⟨rfl, rfl, rfl⟩) fun e he => absurd he List.not_mem_nil
  obtain rfl := Host.Outcome.next.inj (execFlrPf_drivenReady.symm.trans hexec)
  exact absurd hmsix (by decide)

end Sys2Proof.Machine

namespace Sys2Proof.Machine
open Sys2Proof

/-! ## Records that cross the tap (R406 to R409) -/

/-- Nothing is held, and no release waits for room in the tap. -/
structure TapIdle (s : State) : Prop where
  halts : s.tap.heldHalt = []
  levels : s.tap.heldLevel = []
  releases : s.sec.releases = []

theorem tapFreed_of_idle {s : State} (h : TapIdle s) : tapFreed s = s := by
  have hplace : placeHeld 200 s = s := by
    unfold placeHeld
    rw [h.halts, h.levels]
    exact ite_self _
  rw [tapFreed, hplace, finishReleases, h.releases]
  rfl

theorem TapIdle.of_frame {l : List Area} {s t : State} (h : TapIdle s) (hf : OnlyIn l s t) (ht : Area.tap ∉ l) (hs : Area.sec ∉ l) : TapIdle t where
  halts := (congrArg Tap.heldHalt (hf.tap_eq ht)).trans h.halts
  levels := (congrArg Tap.heldLevel (hf.tap_eq ht)).trans h.levels
  releases := (congrArg Sec.releases (hf.sec_eq hs)).trans h.releases

/-- The node after the record crossed the tap: the queue's rest, and the Assay with the record's number. -/
def recordTaken (r : TapRec) (l : List TapRec) (s : State) : State :=
  let s1 := emit (.tapRec (tapBytes r)) { s with tap := { s.tap with queue := l } }
  { s1 with assay := { s.assay with lastSeq := some r.seq, nodeTime := now s, lost := s.assay.lost % 2 ^ 32 } }

theorem recordTaken_only (r : TapRec) (l : List TapRec) (s : State) : OnlyIn [.tap, .assay, .out] s (recordTaken r l s) := by
  have hqueue : OnlyIn [.tap, .assay, .out] s { s with tap := { s.tap with queue := l } } := (OnlyIn.refl _ s).upd_tap (by decide)
  have hsent := (emit_only (.tapRec (tapBytes r)) { s with tap := { s.tap with queue := l } }).via (by decide) hqueue
  exact hsent.upd_assay (by decide)

/-- The number before a record's own is not at or past it, and leaves no gap. -/
theorem serialLe_pred (q : BitVec 32) : serialLe q (q - 1) = false := by
  have h : q - 1 - q = -1 := by abel
  rw [serialLe, ahead, h]
  decide

theorem gap_pred (q : BitVec 32) : (q - (q - 1) - 1).toNat = 0 := by
  have h : q - (q - 1) - 1 = 0 := by abel
  rw [h]
  rfl

section
variable {r : TapRec} {l : List TapRec} {s : State} (hq : s.tap.queue = r :: l) (ha : assayAvail s = true) (hp : mainOn s = true) (hi : TapIdle s)
include hq ha hp hi

/-- A record at or below the last one taken is discarded. -/
theorem assayTake_of_old {q : BitVec 32} {typ : Nat} (ht : r.typ = typ) (h7 : typ ≠ 7) (hlast : s.assay.lastSeq = some q)
    (hold : serialLe r.seq q = true) (f : TapRec → State → State) :
    assayTake typ f s = .next (emit (.tapRec (tapBytes r)) { s with tap := { s.tap with queue := l } }) := by
  unfold assayTake
  rw [hq]
  dsimp only
  rw [if_neg (by rw [ht, ha, hp]; simp), if_neg h7, hlast]
  dsimp only
  rw [if_pos hold, tapFreed_of_idle]
  exact ⟨hi.halts, hi.levels, hi.releases⟩

/-- The record that comes next is accepted, and so is RESTART whatever its number. -/
theorem assayTake_of_next {typ : Nat} (ht : r.typ = typ) (hseq : typ = 7 ∨ s.assay.lastSeq = some (r.seq - 1)) {f : TapRec → State → State}
    (hf : OnlyIn [.assay] (recordTaken r l s) (f r (recordTaken r l s))) :
    assayTake typ f s = .next (f r (recordTaken r l s)) := by
  have hidle : TapIdle (recordTaken r l s) := ⟨hi.halts, hi.levels, hi.releases⟩
  have hend : tapFreed (f r (recordTaken r l s)) = f r (recordTaken r l s) :=
    tapFreed_of_idle (hidle.of_frame hf (by decide) (by decide))
  unfold assayTake
  rw [hq]
  dsimp only
  rw [if_neg (by rw [ht, ha, hp]; simp)]
  refine congrArg Host.Outcome.next (Eq.trans ?_ hend)
  rcases hseq with h7 | hlast
  · simp only [h7, if_true, Bool.false_eq_true, if_false]
    rfl
  · simp only [hlast, serialLe_pred, gap_pred, ite_self, Bool.false_eq_true, if_false, if_true]
    rfl

end

/-! ## What the records do in the Assay -/

theorem forEach_signStmt_aseq (kind : Nat) (l : List Nat) (s : State) : (forEach l (signStmt kind) s).assay.aseq = s.assay.aseq + l.length := by
  induction l generalizing s with
  | nil => rfl
  | cons p l ih =>
    refine (ih (signStmt kind p s)).trans ?_
    rw [List.length_cons, show (signStmt kind p s).assay.aseq = s.assay.aseq + 1 from rfl]
    omega

theorem signActive_aseq (kind : Nat) (s : State) : (signActive kind s).assay.aseq = s.assay.aseq + s.assay.active.length := by
  rw [signActive, forEach_signStmt_aseq, List.length_mergeSort]

theorem signActive_cnt (kind : Nat) (s : State) : (signActive kind s).assay.cnt = s.assay.cnt :=
  forEach_keeps (g := fun s => s.assay.cnt) (f := signStmt kind) (fun _ _ => rfl) _ _

theorem signStmt_aseq (kind p : Nat) (s : State) : (signStmt kind p s).assay.aseq = s.assay.aseq + 1 := rfl

theorem signStmt_active (kind p : Nat) (s : State) : (signStmt kind p s).assay.active = s.assay.active := rfl

theorem signStmt_level (kind p : Nat) (s : State) : (signStmt kind p s).assay.level = s.assay.level := rfl

theorem signStmt_cnt (kind p : Nat) (s : State) : (signStmt kind p s).assay.cnt = s.assay.cnt := rfl

/-- A COUNT adds to its counter. -/
def counting (r : TapRec) (s : State) : State :=
  { s with assay := { s.assay with
    cnt := tset s.assay.cnt (12 * r.part + r.res) ((tgetD s.assay.cnt (12 * r.part + r.res) 0 + r.value) % 2 ^ 64) } }

/-- A partition opens: its level starts at 0 and it is ACTIVE. -/
def opening (r : TapRec) (t : Nat) (s : State) : State :=
  { assayClock t s with assay := { (assayClock t s).assay with
    level := tset s.assay.level r.part 0, lastT := tset s.assay.lastT r.part t, pinst := tset s.assay.pinst r.part (r.value % 2 ^ 32)
    active := if s.assay.active.contains r.part then s.assay.active else s.assay.active ++ [r.part] } }

/-- A partition closes: it is ACTIVE no more. -/
def closing (r : TapRec) (s : State) : State := { s with assay := { s.assay with active := s.assay.active.filter (· != r.part) } }

/-- Every level ends at 0, and no partition is ACTIVE. -/
def restarting (t : Nat) (s : State) : State :=
  let s1 := forEach ((List.range 64).filter fun p => (tget s.assay.lastT p).isSome) (fun p s => accrue p 0 t s) (assayClock t s)
  { s1 with assay := { s1.assay with restartFlag := List.range 64, active := [] } }

theorem counting_only (r : TapRec) (s : State) : OnlyIn [.assay] s (counting r s) := (OnlyIn.refl _ s).upd_assay (by decide)

theorem opening_only (r : TapRec) (t : Nat) (s : State) : OnlyIn [.assay] s (opening r t s) := (OnlyIn.refl _ s).upd_assay (by decide)

theorem closing_only (r : TapRec) (s : State) : OnlyIn [.assay] s (closing r s) := (OnlyIn.refl _ s).upd_assay (by decide)

theorem restarting_only (t : Nat) (s : State) : OnlyIn [.assay] s (restarting t s) := by
  have hlevels : OnlyIn [.assay] s (forEach ((List.range 64).filter fun p => (tget s.assay.lastT p).isSome) (fun p s => accrue p 0 t s)
      (assayClock t s)) :=
    (OnlyIn.forEach _ _ fun p s => accrue_only p 0 t s).via (List.Subset.refl _) (assayClock_only t s)
  exact hlevels.upd_assay (by decide)

theorem lastSeq_restarting (t : Nat) (s : State) : (restarting t s).assay.lastSeq = s.assay.lastSeq :=
  forEach_keeps (g := fun s => s.assay.lastSeq) (f := fun p s => accrue p 0 t s) (fun _ _ => rfl) _ _

/-- An opening puts the partition among the ACTIVE ones. -/
theorem contains_opened (l : List Nat) (p : Nat) : (if l.contains p then l else l ++ [p]).contains p = true := by
  split
  · assumption
  · simp

/-! ## The tap's flush and its end of a halt (R407, R410) -/

/-- A counter that a flush lists is not zero. -/
theorem acc_ne_of_flushList {s : State} {p r : Nat} (h : (p, some r) ∈ flushList s) : tgetD s.tap.acc (12 * p + r) 0 ≠ 0 := by
  rcases List.mem_append.mp h with hc | hl
  · obtain ⟨q, -, hq⟩ := List.mem_flatMap.mp hc
    obtain ⟨r', hr', heq⟩ := List.mem_map.mp hq
    obtain ⟨rfl, hr⟩ := Prod.mk.inj heq
    obtain rfl := Option.some.inj hr
    simpa using (List.mem_filter.mp hr').2
  · obtain ⟨q, -, heq⟩ := List.mem_map.mp hl
    exact absurd (Prod.mk.inj heq).2 (by simp)

/-- A flush of one counter places its record and empties it. -/
theorem execTapFlush_of_one {s : State} (hp : mainOn s = true) {p r : Nat} (hl : flushList s = [(p, some r)]) (hroom : s.tap.queue.length < 3968) :
    execTapFlush s = .next (tapPut 1 p r (tgetD s.tap.acc (12 * p + r) 0) { s with tap := { s.tap with acc := tdel s.tap.acc (12 * p + r) } }) := by
  have hne := acc_ne_of_flushList (s := s) (p := p) (r := r) (by rw [hl]; exact List.mem_singleton_self _)
  have hfree : ¬ tapShared ≤ s.tap.queue.length := Nat.not_le.mpr hroom
  unfold execTapFlush
  rw [if_pos hp, hl]
  refine congrArg Host.Outcome.next ?_
  rw [flushAll, if_neg hfree]
  dsimp only
  rw [flushAll, flushCount]
  dsimp only
  rw [if_neg (fun h => h.elim hne hfree)]

theorem execMeteringResume_of_room {s : State} (hp : mainOn s = true) (hh : s.tap.halted = true) (hroom : s.tap.queue.length ≤ 1024) :
    execMeteringResume s = .next (meteringEvents .ok (tapPut 6 0 0 0 { s with tap := { s.tap with halted := false } })) := by
  unfold execMeteringResume putHalt
  rw [if_neg (by rw [hh, hp]; simp; omega), if_pos]
  rw [tapFree, decide_eq_true_eq, tapSize]
  exact Nat.lt_of_le_of_lt hroom (by decide)

/-- Settles O58: a record that comes next is `recordTaken` and then its own effect on the Assay; a flush and a resume each put one record. -/
theorem assayTakesRecordsInOrder : Obligations.AssayTakesRecordsInOrder := by
  refine ⟨fun r l s hq ha hp hh hl hr => ?_, fun s hp => ⟨fun p r hf hroom => ?_, fun hh hroom => ?_⟩⟩
  · have hi : TapIdle s := ⟨hh, hl, hr⟩
    have hframe := recordTaken_only r l s
    have hnext := fun (typ : Nat) (ht : r.typ = typ) (hs : typ = 7 ∨ s.assay.lastSeq = some (r.seq - 1)) (f : TapRec → State → State) =>
      assayTake_of_next hq ha hp hi ht hs (f := f)
    refine ⟨fun q i hlast hold hmem => ?_, fun hs => ⟨fun ht => ?_, fun t0 ht => ?_, fun t0 ht => ?_, fun ht => ?_, fun ht => ?_, fun ht => ?_⟩, fun t0 ht => ?_⟩
    · simp only [List.mem_cons, Prod.mk.injEq, List.not_mem_nil, or_false] at hmem
      rcases hmem with ⟨ht, rfl⟩ | ⟨ht, rfl⟩ | ⟨ht, rfl⟩ | ⟨ht, rfl⟩ | ⟨ht, rfl⟩
      · exact (assayTake_of_old hq ha hp hi ht (by decide) hlast hold _ : execAssayRxCount s = _)
      · exact (assayTake_of_old hq ha hp hi ht (by decide) hlast hold _ : execAssayRxOpen 0 s = _)
      · exact (assayTake_of_old hq ha hp hi ht (by decide) hlast hold _ : execAssayRxClose s = _)
      · exact (assayTake_of_old hq ha hp hi ht (by decide) hlast hold _ : execAssayRxHalt s = _)
      · exact (assayTake_of_old hq ha hp hi ht (by decide) hlast hold _ : execAssayRxResume s = _)
    · have hf := counting_only r (recordTaken r l s)
      exact ⟨_, hnext 1 ht (.inr hs) counting hf, hf.via (by decide) hframe, rfl, rfl, rfl, rfl⟩
    · have hf := (accrue_only r.part r.value t0 _).via (List.Subset.refl _) (assayClock_only t0 (recordTaken r l s))
      exact ⟨_, hnext 2 ht (.inr hs) (fun r s => accrue r.part r.value t0 (assayClock t0 s)) hf, hf.via (by decide) hframe, tgetD_tset_self ..,
        tgetD_tset_self ..⟩
    · have hf := (signStmt_only 2 r.part _).via (List.Subset.refl _) (opening_only r t0 (recordTaken r l s))
      refine ⟨_, hnext 3 ht (.inr hs) (fun r s => signStmt 2 r.part (opening r t0 s)) hf, hf.via (by decide) hframe, ?_, ?_, ?_, ?_⟩
      · rw [signStmt_aseq]
        rfl
      · rw [signStmt_active]
        exact contains_opened ..
      · rw [signStmt_level]
        exact tgetD_tset_self ..
      · rw [signStmt_cnt]
        rfl
    · have hf := (signStmt_only 3 r.part _).via (List.Subset.refl _) (closing_only r (recordTaken r l s))
      refine ⟨_, hnext 4 ht (.inr hs) (fun r s => signStmt 3 r.part (closing r s)) hf, hf.via (by decide) hframe, ?_, ?_, ?_⟩
      · rw [signStmt_aseq]
        rfl
      · rw [signStmt_active]
        rfl
      · rw [signStmt_cnt]
        rfl
    · exact ⟨_, hnext 5 ht (.inr hs) (fun _ => signActive 4) (signActive_only ..), (signActive_only ..).via (by decide) hframe,
        signActive_aseq 4 (recordTaken r l s), signActive_cnt 4 (recordTaken r l s)⟩
    · exact ⟨_, hnext 6 ht (.inr hs) (fun _ => signActive 5) (signActive_only ..), (signActive_only ..).via (by decide) hframe,
        signActive_aseq 5 (recordTaken r l s), signActive_cnt 5 (recordTaken r l s)⟩
    · have hf := restarting_only t0 (recordTaken r l s)
      exact ⟨_, hnext 7 ht (.inl rfl) (fun _ => restarting t0) hf, hf.via (by decide) hframe, rfl, rfl, lastSeq_restarting ..⟩
  · exact ⟨_, execTapFlush_of_one hp hf hroom, (tapPut_only ..).via (by decide) ((OnlyIn.refl _ s).upd_tap (by decide)), rfl, rfl, rfl⟩
  · refine ⟨_, execMeteringResume_of_room hp hh hroom, (meteringEvents_only ..).via (by decide) ((tapPut_only ..).via (by decide)
      ((OnlyIn.refl _ s).upd_tap (by decide))), ?_, ?_⟩ <;> rw [(meteringEvents_only ..).tap_eq (by decide)] <;> rfl

end Sys2Proof.Machine

namespace Sys2Proof.Machine
open Sys2Proof

/-! ## The Assay by itself (R401, R408, R414, R416 to R418) -/

theorem signActive_atime (kind : Nat) (s : State) : (signActive kind s).assay.atime = s.assay.atime :=
  forEach_keeps (g := fun s => s.assay.atime) (f := signStmt kind) (fun _ _ => rfl) _ _

theorem assayRuns_of_power {s : State} (hv : s.pins.vstby = true) (hn : s.assay.patchPend = none) : assayRuns s = true := by
  rw [assayRuns, hv, hn]
  rfl

/-- The Assay's clock reaches the next periodic statement. -/
def periodReached (s : State) : State :=
  { s with assay := { s.assay with
    atime := max s.assay.atime (s.assay.stmtAt + 1000 * s.assay.stmtS), stmtAt := max s.assay.atime (s.assay.stmtAt + 1000 * s.assay.stmtS) } }

theorem periodReached_only (s : State) : OnlyIn [.assay] s (periodReached s) := (OnlyIn.refl _ s).upd_assay (by decide)

theorem execAssayPeriodicStatement_of_runs {s : State} (h : assayRuns s = true) :
    execAssayPeriodicStatement s = .next (signActive 1 (periodReached s)) :=
  congrArg Host.Outcome.next (if_neg (by rw [h]; decide))

/-- The Assay runs its patch. -/
def patchRunning (ver svn : Nat) (s : State) : State :=
  { s with
    tap := { s.tap with ready := true }
    assay := { s.assay with
      patchPend := none, patchVer := ver, patchSvn := svn, patchSlot := 1 - s.assay.patchSlot, fuseSvn := max s.assay.fuseSvn svn
      patchDigest := Config.sha256 (fwBody s.assay.patchBuf), patchBuf := [], stmtS := Config.freeNat s.freeCnt } }

theorem execAssayPatchRestart_of_pending {s : State} {ver svn : Nat} (hv : s.pins.vstby = true) (h : s.assay.patchPend = some (ver, svn)) :
    execAssayPatchRestart s = .next (emitAll ((List.range (svn - s.assay.fuseSvn)).map fun i => .fuse "ASSAY_ARB" (s.assay.fuseSvn + i))
      (stepFree (patchRunning ver svn s))) := by
  unfold execAssayPatchRestart
  rw [h]
  dsimp only
  rw [if_neg (by rw [hv]; decide)]
  rfl

/-! ## The Assay's port (R419) -/

theorem assayMsg_of_runs {s : State} (h : assayRuns s = true) (f : State → State) : assayMsg f s = .next (f s) :=
  congrArg Host.Outcome.next (if_pos h)

/-- The statement that a signing makes. -/
def signedStmt (kind p : Nat) (s : State) : Statement :=
  { aseq := s.assay.aseq + 1, part := p, kind := kind, body := stmtBody s kind p, sig := slice (Config.slhSign 1 (stmtBody s kind p)) 0 17088 }

theorem ring_signStmt (kind p : Nat) (s : State) :
    (signStmt kind p s).assay.ring = (s.assay.ring ++ [signedStmt kind p s]).drop (s.assay.ring.length + 1 - 48) := by
  unfold signStmt signedStmt
  dsimp only

/-- The newest of the 48 statements is the one just signed. -/
theorem getLast?_ring_signStmt (kind p : Nat) (s : State) : (signStmt kind p s).assay.ring.getLast? = some (signedStmt kind p s) := by
  rw [ring_signStmt, List.drop_append_of_le_length (by omega)]
  exact List.getLast?_concat ..

/-- A signed statement is the answer, and the signal pin is low while it waits. -/
theorem execGetStatement_of_runs {s : State} (h : assayRuns s = true) {p : Nat} (hp : p < 64) :
    execGetStatement p s = .next (assayAnswer 0x81 ((signedStmt 6 p s).body ++ (signedStmt 6 p s).sig) (signStmt 6 p s)) := by
  refine (assayMsg_of_runs h _).trans (congrArg Host.Outcome.next ?_)
  dsimp only
  rw [if_neg (Nat.not_le.mpr hp), getLast?_ring_signStmt]

theorem out_assayAnswer (typ : Nat) (data : List Byte) (s : State) :
    (assayAnswer typ data s).out = s.out ++ [.pin "ASY_ALERT#" false, .assayMsg typ data, .pin "ASY_ALERT#" true] := rfl

theorem execGetByAseq_of_runs {s : State} (h : assayRuns s = true) (a : BitVec 64) :
    execGetByAseq a s = .next (match s.assay.ring.find? fun x => x.aseq == a.toNat with
      | some x => assayAnswer 0x81 (x.body ++ x.sig) s
      | none => assayResult .wrongState s) :=
  assayMsg_of_runs h _

/-- The patch buffer with a piece put in. -/
def pieceTaken (off : Nat) (d : List Byte) (s : State) : State :=
  { s with assay := { s.assay with patchBuf := patch (s.assay.patchBuf ++ zeros (off + d.length - s.assay.patchBuf.length)) off d } }

theorem pieceTaken_only (off : Nat) (d : List Byte) (s : State) : OnlyIn [.assay] s (pieceTaken off d s) :=
  (OnlyIn.refl _ s).upd_assay (by decide)

theorem execPatchChunk_of_fits {s : State} (h : assayRuns s = true) {off : BitVec 32} {d : List Byte} (hd : d.length ≤ 1024)
    (hoff : off.toNat + d.length ≤ 65536) : execPatchChunk off d s = .next (assayResult .ok (pieceTaken off.toNat d s)) :=
  (assayMsg_of_runs h _).trans (congrArg Host.Outcome.next (if_neg (by omega)))

/-- What is patched into a buffer stands there. -/
theorem slice_patch (b : List Byte) (off : Nat) (d : List Byte) : slice (patch b off d) off d.length = d :=
  slice_eq_of_getD rfl fun i hi => by
    rw [List.getD_eq_getElem?_getD, getElem?_patch hi, List.getD_eq_getElem?_getD]

section
variable {s : State} (h : assayRuns s = true)
include h

theorem execPatchCommit_of_barred (n : BitVec 32) (hen : s.pins.asyPatchEn = false) : execPatchCommit n s = .next (assayResult .wrongState s) :=
  (assayMsg_of_runs h _).trans (congrArg Host.Outcome.next (if_pos (by rw [hen]; rfl)))

theorem execPatchCommit_of_bad (n : BitVec 32) (hen : s.pins.asyPatchEn = true)
    (hbad : patchStatus s (slice s.assay.patchBuf 0 (min 65537 n.toNat)) ≠ .ok) :
    execPatchCommit n s = .next (assayResult (patchStatus s (slice s.assay.patchBuf 0 (min 65537 n.toNat))) s) := by
  refine (assayMsg_of_runs h _).trans (congrArg Host.Outcome.next ?_)
  dsimp only
  rw [if_neg (by rw [hen]; decide)]
  generalize patchStatus s (slice s.assay.patchBuf 0 (min 65537 n.toNat)) = st at hbad
  split
  · exact absurd rfl hbad
  · rfl

/-- A patch that verifies waits for the restart. -/
def patchHeld (b : List Byte) (s : State) : State :=
  let s1 := signActive 7 s
  { s1 with
    assay := { s1.assay with patchPend := some (fld b 4 2, fld b 8 1), patchBuf := b }
    tap := { s1.tap with ready := false } }

theorem execPatchCommit_of_good (n : BitVec 32) (hen : s.pins.asyPatchEn = true)
    (hok : patchStatus s (slice s.assay.patchBuf 0 (min 65537 n.toNat)) = .ok) :
    execPatchCommit n s = .next (assayResult .ok (patchHeld (slice s.assay.patchBuf 0 (min 65537 n.toNat)) s)) := by
  refine (assayMsg_of_runs h _).trans (congrArg Host.Outcome.next ?_)
  dsimp only
  rw [if_neg (by rw [hen]; decide), hok]
  rfl

end

theorem patchHeld_only (b : List Byte) (s : State) : OnlyIn [.assay, .tap] s (patchHeld b s) := by
  have hsigned : OnlyIn [.assay, .tap] s (signActive 7 s) := (signActive_only 7 s).sub (by decide)
  have hkept := hsigned.upd_assay (x := { (signActive 7 s).assay with patchPend := some (fld b 4 2, fld b 8 1), patchBuf := b }) (by decide)
  exact hkept.upd_tap (by decide)

/-! ## MCTP control messages (R419, R429) -/

theorem mctp_of_on {s : State} (hoff : s.mgmt.st ≠ .off) (hrun : s.mgmt.mssRunning = true) (f : State → State) : mctp f s = f s :=
  if_neg (by rw [hrun]; simpa using hoff)

/-- Settles O59: the Assay's lines and port message by message; an answer leaves the Assay as it is but for what the message names. -/
theorem assayAnswersAtItsPort : Obligations.AssayAnswersAtItsPort := by
  refine ⟨fun s hv => ?_, fun s hr => ?_, fun eid s hoff hrun hr => ?_⟩
  · refine ⟨rfl, congrArg Host.Outcome.next (if_pos hv), fun b => congrArg Host.Outcome.next (if_pos hv), congrArg Host.Outcome.next (if_pos hv),
      fun hb => congrArg Host.Outcome.next (if_pos ⟨hv, by rw [hb]; rfl⟩), fun hb => congrArg Host.Outcome.next (if_neg fun h => by simp [hb] at h),
      fun hn => ⟨_, execAssayPeriodicStatement_of_runs (assayRuns_of_power hv hn), (signActive_only ..).via (by decide) (periodReached_only s),
        signActive_aseq 1 (periodReached s), ?_, signActive_cnt 1 (periodReached s)⟩,
      fun ver svn hp => ⟨_, execAssayPatchRestart_of_pending hv hp, ?_, rfl, rfl, rfl, rfl, rfl⟩⟩
    · rw [signActive_atime]
      exact Nat.le_max_right ..
    · exact (execAssayPatchRestart_only s (execAssayPatchRestart_of_pending hv hp)).sub (by decide)
  · refine ⟨fun p hp => ⟨_, signedStmt 6 p s, execGetStatement_of_runs hr hp, (execGetStatement_only p s (execGetStatement_of_runs hr hp)).sub (by decide),
        signStmt_cnt .., signStmt_aseq .., getLast?_ring_signStmt .., rfl, rfl, rfl, out_assayAnswer ..⟩,
      fun a x hx => (execGetByAseq_of_runs hr a).trans (by rw [hx]), fun a hx => (execGetByAseq_of_runs hr a).trans (by rw [hx]),
      assayMsg_of_runs hr _, assayMsg_of_runs hr _,
      fun off d hd hle => ⟨_, execPatchChunk_of_fits hr hd hle, (assayResult_only ..).via (by decide) ((pieceTaken_only ..).sub (by decide)), slice_patch ..⟩,
      fun n hen => execPatchCommit_of_barred hr n hen, fun n hen hbad => execPatchCommit_of_bad hr n hen hbad,
      fun n hen hok => ⟨_, execPatchCommit_of_good hr n hen hok, (assayResult_only ..).via (by decide) ((patchHeld_only ..).sub (by decide)), rfl, rfl,
        signActive_cnt 7 s⟩⟩
  · refine ⟨fun hok => ⟨?_, ?_⟩, fun hno => ⟨?_, ?_⟩, congrArg Host.Outcome.next (mctp_of_on hoff hrun _), assayMsg_of_runs hr _,
      ⟨_, rfl, execGetMctpVersionSupport_only s rfl⟩, ⟨_, rfl, execAssayGetMctpVersion_only s rfl⟩,
      congrArg Host.Outcome.next (mctp_of_on hoff hrun _), assayMsg_of_runs hr _⟩
    · refine congrArg Host.Outcome.next ((mctp_of_on hoff hrun _).trans ?_)
      rw [setEidAnswer, if_pos hok, if_pos hok]
    · refine (assayMsg_of_runs hr _ : execAssaySetEndpointId eid s = _).trans (congrArg Host.Outcome.next ?_)
      dsimp only
      rw [setEidAnswer, if_pos hok, if_pos hok]
    · refine congrArg Host.Outcome.next ((mctp_of_on hoff hrun _).trans ?_)
      rw [setEidAnswer, hno, if_neg (by decide), if_neg (by decide)]
    · refine (assayMsg_of_runs hr _ : execAssaySetEndpointId eid s = _).trans (congrArg Host.Outcome.next ?_)
      dsimp only
      rw [setEidAnswer, hno, if_neg (by decide), if_neg (by decide)]

end Sys2Proof.Machine

namespace Sys2Proof.Machine

open Sys2Proof

/-! ## The SEC block and its registers as a command ends (R386) -/

/-- A command that ends may leave a trace record; keys and releases stay. -/
theorem sec_addTrace {β : Type} {g : Sec → β} (hg : ∀ (x : Sec) tr n, g { x with trace := tr, traceNext := n } = g x) (r : List Byte) (s : State) :
    g (addTrace r s).sec = g s.sec := by
  unfold addTrace
  split
  · exact hg s.sec _ s.sec.traceNext
  · split
    · exact hg ..
    · rfl

theorem sec_traceWork {β : Type} {g : Sec → β} (hg : ∀ (x : Sec) tr n, g { x with trace := tr, traceNext := n } = g x) (c : Cmd) (s : State) :
    g (traceWork c s).sec = g s.sec := by
  unfold traceWork
  dsimp only
  split
  · rfl
  · rw [(showTrace_only _).sec_eq (by decide)]
    exact forEach_keeps (g := fun s => g s.sec) (fun _ s => sec_addTrace hg _ (stepFree s)) ..

theorem sec_finish {β : Type} {g : Sec → β} (hg : ∀ (x : Sec) tr n, g { x with trace := tr, traceNext := n } = g x)
    (c : Cmd) (st : Status) (result : Nat) (s : State) : g (finish c st result s).sec = g s.sec := by
  have htrace : g (if c.phase = .running then traceWork c s else s).sec = g s.sec := by
    split
    · exact sec_traceWork hg c s
    · rfl
  have hreport : g (reportEnd c s).sec = g s.sec := by
    unfold reportEnd
    dsimp only
    split
    · exact (congrArg g ((post_only ..).sec_eq (by decide))).trans htrace
    · exact htrace
  unfold finish
  rw [(countEnd_only ..).sec_eq (by decide), (keepFinished_only ..).sec_eq (by decide), hreport]

theorem slots_finish (c : Cmd) (st : Status) (result : Nat) (s : State) : (finish c st result s).sec.slots = s.sec.slots :=
  sec_finish (g := Sec.slots) (fun _ _ _ => rfl) ..

theorem releases_finish (c : Cmd) (st : Status) (result : Nat) (s : State) : (finish c st result s).sec.releases = s.sec.releases :=
  sec_finish (g := Sec.releases) (fun _ _ _ => rfl) ..

theorem memKeys_finish (c : Cmd) (st : Status) (result : Nat) (s : State) : (finish c st result s).sec.memKeys = s.sec.memKeys :=
  sec_finish (g := Sec.memKeys) (fun _ _ _ => rfl) ..

theorem slots_endAtAdmission (c : Cmd) (st : Status) (result : Nat) (s : State) : (endAtAdmission c st result s).sec.slots = s.sec.slots := by
  rw [endAtAdmission, slots_finish, (numbered_only ..).sec_eq (by decide)]

theorem valW_showTrace_of_above {o : Nat} (s : State) (h : 0xA0021C < o) : valW (showTrace s) o = valW s o := by
  unfold showTrace
  dsimp only
  rw [valW_setVal64_of_ne _ _ (by omega) (by omega), valW_setVal_of_ne _ _ (by omega)]

theorem valW_traceWork_of_above {o : Nat} (c : Cmd) (s : State) (h : 0xA0021C < o) : valW (traceWork c s) o = valW s o := by
  unfold traceWork
  dsimp only
  split
  · rfl
  · rw [valW_showTrace_of_above _ h]
    exact valW_of_regs (forEach_regs (fun _ s => addTrace_regs _ (stepFree s)) ..) o

/-- The registers past the trace buffer's stay as a command ends. -/
theorem valW_finish_of_above {o : Nat} (c : Cmd) (st : Status) (result : Nat) (s : State) (h : 0xA0021C < o) :
    valW (finish c st result s) o = valW s o := by
  have htrace : valW (if c.phase = .running then traceWork c s else s) o = valW s o := by
    split
    · exact valW_traceWork_of_above c s h
    · rfl
  have hreport : valW (reportEnd c s) o = valW s o := by
    unfold reportEnd
    dsimp only
    split
    · exact (valW_of_regs (post_regs ..) o).trans htrace
    · exact htrace
  unfold finish
  rw [valW_countEnd, valW_of_regs (keepFinished_regs ..), hreport]

theorem pstate_finish (c : Cmd) (st : Status) (result : Nat) (s : State) (p : Nat) : pstate (finish c st result s) p = pstate s p := by
  rw [pstate, valBits, valW_finish_of_above _ _ _ _ (by omega), pstate, valBits]

theorem pstate_setPstate (p st : Nat) (s : State) : pstate (setPstate p st s) p = st % 2 ^ 8 := valBits_setValBits_self (by decide) ..

/-! ## KEY_IMPORT (R374 to R377) -/

theorem sumN_append_singleton (l : List Nat) (n : Nat) : sumN (l ++ [n]) = sumN l + n := by simp [sumN]

/-- A number that is summed up from distinct powers of two has the bits named. -/
theorem sumN_two_pow_lt (f : Nat → Bool) (n : Nat) : sumN ((List.range n).map fun i => if f i then 2 ^ i else 0) < 2 ^ n := by
  induction n with
  | zero => simp [sumN]
  | succ n ih =>
    rw [List.range_succ, List.map_append, List.map_singleton, sumN_append_singleton, pow_succ]
    split <;> omega

theorem testBit_sumN_two_pow (f : Nat → Bool) {n k : Nat} (h : k < n) :
    (sumN ((List.range n).map fun i => if f i then 2 ^ i else 0)).testBit k = f k := by
  induction n with
  | zero => omega
  | succ n ih =>
    have hlow := sumN_two_pow_lt f n
    rw [List.range_succ, List.map_append, List.map_singleton, sumN_append_singleton, Nat.add_comm]
    by_cases hk : k = n
    · subst hk
      split
      next hf => rw [Nat.testBit_two_pow_add_eq, Nat.testBit_lt_two_pow hlow, hf]; rfl
      next hf => rw [Nat.zero_add, Nat.testBit_lt_two_pow hlow]; simpa using hf
    · split
      · rw [Nat.testBit_two_pow_add_gt (by omega), ih (by omega)]
      · rw [Nat.zero_add, ih (by omega)]

theorem testBit_putBits_low {v w x k : Nat} (h : k < w) : (putBits v 0 w x).testBit k = x.testBit k := by
  have hbits : putBits v 0 w x % 2 ^ w = x % 2 ^ w := by simpa [bits] using bits_putBits_self v 0 w x
  have := congrArg (Nat.testBit · k) hbits
  simpa [Nat.testBit_mod_two_pow, h] using this

/-- KEYS names the slots that hold a key. -/
theorem bit_showKeys {p k : Nat} (s : State) (hk : k < 16) :
    bit (valW (showKeys p s) (0xA01024 + 0x80 * p)).toNat k = (tget s.sec.slots (16 * p + k)).isSome := by
  unfold showKeys setValBits
  rw [valW_setVal, BitVec.toNat_ofNat, Nat.mod_eq_of_lt (putBits_lt _ (valW s _).isLt (by decide)), bit_eq_testBit, testBit_putBits_low hk,
    testBit_sumN_two_pow (fun i => (tget s.sec.slots (16 * p + i)).isSome) hk]

theorem keyStatus_addr {c : Cmd} {s : State} (h : keyStatus s c = .ok) (hk : keyKind c ≠ 0) : checkAddr s c (keySrc c) 1184 = .ok := by
  unfold keyStatus at h
  exact (if_neg hk).symm.trans (firstBad_ok h _ (.tail _ (.tail _ (.head _))))

theorem admitImport_of_bad {c : Cmd} {s : State} (h : keyStatus s c ≠ .ok) : admitImport c s = endAtAdmission c (keyStatus s c) 0 s := by
  unfold admitImport
  split
  next hok => exact absurd hok h
  next => rfl

theorem admitImport_asks {c : Cmd} {s : State} (hr : c.ring ≠ deckRing) (h : keyStatus s c = .ok) (hk : keyKind c ≠ 0) (hg : isGfa (keySrc c) = false) :
    admitImport c s = emit (.dmaRead (ringFn s c.ring) (keySrc c) 1184 (.input c.ring c.rseq)) (admitCmd c .none s) := by
  unfold admitImport
  rw [h]
  dsimp only
  rw [getCmd_admitCmd hr, Option.getD_some, startRead_admitCmd hr _ (keyStatus_addr h hk) hg]

/-- The slot of an ERASE is empty, and KEYS says so. -/
def erased (k : Nat) (s : State) : State :=
  let s1 : State := { s with sec := { s.sec with slots := tdel s.sec.slots k } }
  if slotPart k < 64 then showKeys (slotPart k) s1 else s1

theorem slots_erased (k : Nat) (s : State) : (erased k s).sec.slots = tdel s.sec.slots k := by
  unfold erased
  dsimp only
  split
  · rw [(showKeys_only ..).sec_eq (by decide)]
  · rfl

theorem bit_erased {k : Nat} (s : State) (h : slotPart k < 64) :
    bit (valW (erased k s) (0xA01024 + 0x80 * slotPart k)).toNat (k % 16) = false := by
  have hk : 16 * slotPart k + k % 16 = k := Nat.div_add_mod k 16
  unfold erased
  dsimp only
  rw [if_pos h, bit_showKeys _ (Nat.mod_lt _ (by decide)), hk, tget_tdel_self]
  rfl

theorem admitErase_of_good {c : Cmd} {s : State} (hr : c.ring ≠ deckRing) (h : keyStatus s c = .ok) :
    admitErase c s = finish (admitted c .none s) .ok (keySlotOf c) (erased (keySlotOf c) (admitCmd c .none s)) := by
  unfold admitErase
  rw [h]
  dsimp only
  rw [getCmd_admitCmd hr, Option.getD_some]
  rfl

theorem sec_admitCmd (c : Cmd) (w : Work) (s : State) : (admitCmd c w s).sec = s.sec := (admitCmd_only ..).sec_eq (by decide)

/-- The KEY_IMPORT clauses of R377. -/
theorem keyImport_rows {s : State} {ring : Nat} {rseq : BitVec 32} {c : Cmd} (hc : MayAdmit s ring rseq c) (hop : c.op = 0x61) {i : Instr}
    (hi : (i = .keyImportFabric ring rseq ∧ keyKind c = 1) ∨ (i = .keyImportWindow ring rseq ∧ keyKind c = 2)) :
    exec i s = .next (admitImport c s) ∧ keyKind c ≠ 0 := by
  rcases hi with ⟨rfl, hk⟩ | ⟨rfl, hk⟩
  · exact ⟨congrArg Host.Outcome.next (admitting_of_mayAdmit hc (by simp [hop, hk]) admitImport), by omega⟩
  · exact ⟨congrArg Host.Outcome.next (admitting_of_mayAdmit hc (by simp [hop, hk]) admitImport), by omega⟩

/-! ## Attestation (R389) -/

theorem admitAttest_of_good {c : Cmd} {s : State} (hr : c.ring ≠ deckRing) (hn : attestNode c = false) (hf : fld c.desc 8 4 < 2)
    (hz : allZero (slice c.desc 12 4) = true) (hz' : allZero (slice c.desc 56 8) = true) (hok : checkAddr s c (fld c.desc 48 8) 40960 = .ok)
    (ha : partActive s c.part = true) :
    admitAttest c s = deliver (admitted c .none s) (fld c.desc 48 8) (reportBytes s c false) .ok 0 (admitCmd c .none s) := by
  have hgood : firstBad [failIf (attestNode c && !(ownerRing s c.ring && c.part == 0)) .notOwner,
      failIf (decide (2 ≤ fld c.desc 8 4) || !allZero (slice c.desc 12 4) || !allZero (slice c.desc 56 8)) .illegalValue,
      checkAddr s c (fld c.desc 48 8) (if attestNode c then 49152 else 40960), failIf (!attestNode c && !partActive s c.part) .wrongState] = .ok := by
    simp only [hn, hz, hz', ha, hok, show decide (2 ≤ fld c.desc 8 4) = false by simpa using hf, Bool.false_and, Bool.not_true, Bool.or_false,
      Bool.and_false, failIf_false, Bool.false_eq_true, if_false]
    rfl
  unfold admitAttest
  dsimp only
  rw [hgood, if_neg (by decide), getCmd_admitCmd hr, Option.getD_some, hn]

/-! ## Release (R380 to R382, R413) -/

/-- The checks of a RELEASE read its descriptor, the partition's registers, the map and the deck. -/
theorem releaseStatus_congr {s t : State} {c d : Cmd} (hdesc : d.desc = c.desc) (hpart : d.part = c.part) (hx : t.rmx = s.rmx) (hd : t.deck = s.deck)
    (hv : ∀ o, 0xA0021C < o → valW t o = valW s o) : releaseStatus t d = releaseStatus s c := by
  have hp : pstate t c.part = pstate s c.part := by rw [pstate, valBits, hv _ (by omega), pstate, valBits]
  have hi : pinst t c.part = pinst s c.part := by rw [pinst, hv _ (by omega), pinst]
  unfold releaseStatus
  dsimp only
  rw [hdesc, hpart, hx, hd, hp, hi]

theorem releaseStatus_admitCmd {c : Cmd} (hr : c.ring ≠ deckRing) (s : State) :
    releaseStatus (admitCmd c .none s) (admitted c .none s) = releaseStatus s c := by
  refine releaseStatus_congr rfl rfl ((admitCmd_only ..).rmx_eq (by decide)) ((admitCmd_only ..).deck_eq (by decide)) fun o ho => ?_
  rw [admitCmd_of_host hr]
  exact valW_setVal64_of_ne _ _ (by omega) (by omega)

theorem admitRelease_checks {c : Cmd} {s : State} (hr : c.ring ≠ deckRing) (h : tget s.sec.releases c.part = none) :
    admitRelease c s = checkRelease (admitted c .none s) (admitCmd c .none s) := by
  unfold admitRelease
  dsimp only
  rw [getCmd_admitCmd hr, Option.getD_some, h]
  rfl

theorem checkRelease_of_done {c : Cmd} {s : State} (h : releaseStatus s c = none) : checkRelease c s = finish c .ok 0 s := by
  unfold checkRelease
  rw [h]

theorem checkRelease_of_bad {c : Cmd} {s : State} {st : Status} (h : releaseStatus s c = some st) (hb : st ≠ .ok) : checkRelease c s = finish c st 0 s := by
  unfold checkRelease
  split
  next hn => rw [h] at hn; cases hn
  next ho => rw [h] at ho; exact absurd (Option.some.inj ho) hb
  next st' _ hs => rw [h] at hs; rw [Option.some.inj hs]

theorem checkRelease_of_good {c : Cmd} {s : State} (h : releaseStatus s c = some .ok) : checkRelease c s = beginRelease c s := by
  unfold checkRelease
  rw [h]

/-- A release that begins makes its partition RELEASING, and is the one under way. -/
theorem beginRelease_spec (c : Cmd) (s : State) : pstate (beginRelease c s) c.part = 2 ∧
    tget (beginRelease c s).sec.releases c.part = some { key := cmdKey c.ring c.rseq, verify := bit (fld c.desc 8 4) 0 } := by
  unfold beginRelease
  constructor
  · exact (forEach_keeps (g := fun s => pstate s c.part) (f := fun e s => finish e .wrongState 0 s) (fun e s => pstate_finish e _ _ s _) ..).trans
      (pstate_setPstate ..)
  · refine (congrArg (tget · c.part) (forEach_keeps (g := fun s => s.sec.releases) (f := fun e s => finish e .wrongState 0 s)
      (fun e s => releases_finish e _ _ s) ..)).trans ?_
    rw [(setPstate_only ..).sec_eq (by decide)]
    exact tget_tset_self ..

theorem closeConns_of_none {p : Nat} {s : State} (h : connsOf s p = []) : closeConns p s = s := by
  unfold closeConns
  rw [h]
  rfl

/-- A region as it is after its partition's release. -/
def clearedRegion (p i : Nat) (r : Region) : Region := if r.used && r.part == p && i != 65535 then { gen := r.gen } else r

theorem regions_clearObjects (p : Nat) (s : State) : (clearObjects p s).rma.regions = tmap s.rma.regions (clearedRegion p) := by
  unfold clearObjects
  dsimp only
  rw [(OnlyIn.forEach (m := [.regs, .seqs]) _ _ freeSeq_only).rma_eq (by decide)]
  rw [(OnlyIn.forEach (m := [.regs, .walk, .act]) _ _ fun n s => (showIndex_only ..).via (by decide)
    (((OnlyIn.refl _ s).upd_walk (by decide)).andThen (setAct_only ..) (by decide))).rma_eq (by decide)]
  exact forEach_keeps (g := fun s => s.rma.regions) (f := fun i s => setAct (0x480000 + 8 * i) (BitVec.ofNat 32 (putBits (cntCfg s i) 6 1 0))
    { s with rma := { s.rma with counters := tdel s.rma.counters i } }) (fun _ _ => rfl) ..

theorem getRegion_clearObjects_part {p i : Nat} {s : State} (h : i < 65535) (hu : (getRegion (clearObjects p s) i).used = true) :
    (getRegion (clearObjects p s) i).part ≠ p := by
  have hreg : getRegion (clearObjects p s) i = ((tget s.rma.regions i).map (clearedRegion p i)).getD {} := by
    rw [getRegion, regions_clearObjects, tgetD, tget_tmap]
  rw [hreg] at hu ⊢
  cases htab : tget s.rma.regions i with
  | none => rw [htab] at hu; cases hu
  | some r =>
    rw [htab] at hu
    rw [Option.map_some, Option.getD_some] at hu ⊢
    unfold clearedRegion at hu ⊢
    split at hu
    · cases hu
    next hkept =>
      rw [if_neg hkept]
      rintro rfl
      exact hkept (by simp [hu]; omega)

theorem shards_clearObjects {p : Nat} {s : State} : ∀ q ∈ (clearObjects p s).shards, q.1 ≠ p := by
  intro q hq
  simpa using (List.mem_filter.1 hq).2

theorem retained_clearObjects {p : Nat} {s : State} : ∀ x ∈ (clearObjects p s).retained, x.part ≠ p := by
  intro x hx
  simpa using (List.mem_filter.1 hx).2

/-- A partition cleared, and the fills of its memory launched. -/
def fillsLaunched (p : Nat) (r : RelRun) (s : State) : State :=
  let s1 := invalidate p (clearObjects p s)
  { s1 with sec := { s1.sec with releases := tset s1.sec.releases p { r with filling := true } } }

theorem fillsLaunched_only (p : Nat) (r : RelRun) (s : State) : OnlyIn [.regs, .mem, .sec] (clearObjects p s) (fillsLaunched p r s) :=
  (invalidate_only ..).upd_sec (by decide)

/-- A release whose partition has nothing running and no connection clears it and launches its fills. -/
theorem execReleaseProceed_clears {p : Nat} {r : RelRun} {s : State} (hs : serving s = true) (hr : tget s.sec.releases p = some r) (hf : r.filling = false)
    (hidle : ∀ e ∈ s.cmds, e.2.phase = .running → actsFor s p e.2 = false) (hconn : connsOf s p = []) :
    execReleaseProceed p s = .next (fillsLaunched p r s) := by
  have hany : (tany s.cmds fun _ e => actsFor s p e && e.phase == .running) = false := by
    rw [tany, List.any_eq_false]
    rintro ⟨k, e⟩ he
    simp only [Bool.and_eq_true, beq_iff_eq, not_and]
    intro ha hp
    rw [hidle _ he hp] at ha
    cases ha
  unfold execReleaseProceed
  rw [hr]
  dsimp only
  rw [if_neg (by simp [hf, hs, hany]), closeConns_of_none hconn, hconn]
  rfl

/-! ## The end of a release -/

/-- What a sorted table lists, it finds. -/
theorem tget_of_mem {α : Type} {t : Table α} {k : Nat} {v : α} (h : tsorted t = true) (hm : (k, v) ∈ t) : tget t k = some v := by
  induction t with
  | nil => cases hm
  | cons e t ih =>
    obtain ⟨j, w⟩ := e
    rcases List.mem_cons.1 hm with he | he
    · cases he
      exact if_pos rfl
    · exact (if_neg (tsorted_head_lt h _ he).ne).trans (ih (tsorted_tail h) he)

/-- Cells whose addresses are kept read as before, the others as nothing listed. -/
theorem cellGet_filter {l : List Host.Cell} (q : Nat → Bool) (a : Nat) (h : tsorted l = true) :
    cellGet (l.filter fun e => q e.1) a = if q a then cellGet l a else memDefault := by
  induction l with
  | nil => simp [cellGet]
  | cons e l ih =>
    obtain ⟨k, b⟩ := e
    have hlt := tsorted_head_lt h
    have hrest := ih (tsorted_tail h)
    by_cases hq : q k = true
    · rw [List.filter_cons_of_pos (p := fun e : Host.Cell => q e.1) hq, cellGet, cellGet]
      by_cases hka : k = a
      · subst hka
        rw [if_pos rfl, if_pos rfl, if_pos hq]
      · rw [if_neg hka, if_neg hka, hrest]
        split <;> split <;> rfl
    · rw [List.filter_cons_of_neg (p := fun e : Host.Cell => q e.1) hq, hrest, cellGet]
      by_cases hka : k = a
      · subst hka
        rw [if_neg hq, if_neg hq]
      · rw [if_neg hka]
        by_cases hak : a < k
        · rw [if_pos hak, cellGet_below fun e he => hak.trans (hlt e he)]
        · rw [if_neg hak]

/-- Address `a` lies in one of the runs of granules. -/
def inRuns (runs : List (Nat × Nat)) (a : Nat) : Bool := runs.any fun (f, n) => decide (f * 2 ^ 18 ≤ a) && decide (a < (f + n) * 2 ^ 18)

theorem inRuns_iff (runs : List (Nat × Nat)) (a : Nat) :
    inRuns runs a = true ↔ ∃ f n, (f, n) ∈ runs ∧ f * 2 ^ 18 ≤ a ∧ a < (f + n) * 2 ^ 18 := by
  simp [inRuns]

/-- The runs filled read zero, and every other byte as before (R158). -/
theorem readByte_fillMemory (runs : List (Nat × Nat)) {s : State} (h : memOk s) (a : Nat) :
    readByte (fillMemory runs s) a = if inRuns runs a then 0 else readByte s a := by
  have hcell := cellGet_filter (fun a => !inRuns runs a) a ((wf_iff _).1 h).1
  unfold readByte
  change (if a < memSize then cellGet (s.mem.cells.filter fun e => !inRuns runs e.1) a else memDefault) = _
  rw [hcell]
  cases inRuns runs a <;> simp [memDefault]

/-- The keys of a partition and its release are gone, its use is no longer marked. -/
def keysForgotten (p : Nat) (s : State) : State :=
  let s1 : State := { s with sec := { s.sec with
    releases := tdel s.sec.releases p
    memKeys := tdel s.sec.memKeys p
    slots := tfilter s.sec.slots fun k _ => slotPart k != p } }
  setVal64 0xA00120 (val64 s1 0xA00120 &&& (2 ^ 64 - 1 - 2 ^ p)) (showKeys p s1)

/-- Metering of a partition closes: its counts, LEVEL and CLOSE stand in the tap queue (R413). -/
def meterClosed (p : Nat) (s : State) : State :=
  let s1 := forEach (dueCounts s p) (flushCount p) s
  tapPut 4 p 0 (pinst s1 p) (tapPut 2 p 0 0 { s1 with tap := { s1.tap with heldLevel := tdel s1.tap.heldLevel p } })

/-- A partition that is released is FREE. -/
def partFreed (p : Nat) (s : State) : State :=
  setAct (0xA01000 + 0x80 * p) (BitVec.ofNat 32 (putBits (actW s (0xA01000 + 0x80 * p)).toNat 8 1 0)) (setPstate p 0 s)

/-- What the end of a release leaves before its command ends. -/
def partReleased (p : Nat) (s : State) : State := partFreed p (meterClosed p (keysForgotten p s))

theorem keysForgotten_only (p : Nat) (s : State) : OnlyIn [.regs, .sec] s (keysForgotten p s) :=
  (setVal64_only ..).via (by decide) ((showKeys_only ..).via (by decide) ((OnlyIn.refl _ s).upd_sec (by decide)))

theorem meterClosed_only (p : Nat) (s : State) : OnlyIn [.tap] s (meterClosed p s) :=
  (tapPut_only ..).via (by decide) ((tapPut_only ..).via (by decide) ((OnlyIn.forEach _ s fun r s => flushCount_only p r s).upd_tap (by decide)))

theorem partFreed_only (p : Nat) (s : State) : OnlyIn [.regs, .act] s (partFreed p s) :=
  (setAct_only ..).via (by decide) ((setPstate_only ..).sub (by decide))

theorem partReleased_only (p : Nat) (s : State) : OnlyIn [.regs, .sec, .tap, .act] s (partReleased p s) :=
  (partFreed_only ..).via (by decide) ((meterClosed_only ..).via (by decide) ((keysForgotten_only ..).sub (by decide)))

theorem sec_partReleased (p : Nat) (s : State) : (partReleased p s).sec = (keysForgotten p s).sec :=
  ((partFreed_only ..).sec_eq (by decide)).trans ((meterClosed_only ..).sec_eq (by decide))

theorem sec_keysForgotten (p : Nat) (s : State) : (keysForgotten p s).sec = { s.sec with
    releases := tdel s.sec.releases p, memKeys := tdel s.sec.memKeys p, slots := tfilter s.sec.slots fun k _ => slotPart k != p } := by
  unfold keysForgotten
  dsimp only
  rw [(setVal64_only ..).sec_eq (by decide), (showKeys_only ..).sec_eq (by decide)]

theorem pstate_partReleased (p : Nat) (s : State) : pstate (partReleased p s) p = 0 := pstate_setPstate p 0 _

theorem pinst_keysForgotten {p : Nat} (s : State) : pinst (keysForgotten p s) p = pinst s p := by
  unfold keysForgotten showKeys setValBits pinst
  dsimp only
  rw [valW_setVal64_of_ne _ _ (by omega) (by omega), valW_setVal_of_ne _ _ (by omega)]
  rfl

theorem tap_partReleased (p : Nat) (s : State) : (partReleased p s).tap = (meterClosed p (keysForgotten p s)).tap := (partFreed_only ..).tap_eq (by decide)

/-- The last record of a partition's metering is its CLOSE. -/
theorem getLast_meterClosed (p : Nat) (s : State) : (meterClosed p s).tap.queue.getLast? =
    some { typ := 4, part := p, res := 0, seq := (meterClosed p s).tap.seq - 1, value := pinst s p % 2 ^ 64 } := by
  have hinst : pinst (forEach (dueCounts s p) (flushCount p) s) p = pinst s p := by
    rw [pinst, valW_of_regs ((OnlyIn.forEach _ s fun r s => flushCount_only p r s).regs_eq (by decide)), pinst]
  unfold meterClosed tapPut
  dsimp only
  rw [List.getLast?_concat, hinst, BitVec.add_sub_cancel]

/-- The releases that waited behind one that ended are checked until one starts. -/
def checkWaiters (p : Nat) (s : State) : State :=
  forEach ((s.cmds.filter fun (_, e) => e.op == 0x62 && e.part == p && e.phase == .running).map (·.2))
    (fun e s => if (tget s.sec.releases p).isSome then s else checkRelease e s) s

theorem checkWaiters_of_none {p : Nat} {s : State} (h : (s.cmds.filter fun (_, e) => e.op == 0x62 && e.part == p && e.phase == .running) = []) :
    checkWaiters p s = s := by
  unfold checkWaiters
  rw [h]
  rfl

theorem endRelease_eq {p : Nat} {r : RelRun} {c : Cmd} {s : State} (h : tget (partReleased p s).cmds r.key = some c) (n : Nat) :
    endRelease p n r s = checkWaiters p (finish c .ok (partGranules s p % 2 ^ 32 + 2 ^ 32 * min n 65535) (partReleased p s)) := by
  change checkWaiters p (match tget (partReleased p s).cmds r.key with
    | some c => finish c .ok (partGranules s p % 2 ^ 32 + 2 ^ 32 * min n 65535) (partReleased p s)
    | none => partReleased p s) = _
  rw [h]

/-- A release that ends frees its partition and ends its command, where no other RELEASE waits behind it. -/
theorem endRelease_alone {p : Nat} {r : RelRun} {c : Cmd} {s : State} (hr : c.ring ≠ deckRing) (hsort : tsorted s.cmds = true)
    (hc : tget s.cmds r.key = some c) (hkey : r.key = cmdKey c.ring c.rseq) (halone : ∀ e ∈ s.cmds, e.2.op = 0x62 → e.1 = r.key) (n : Nat) :
    endRelease p n r s = finish c .ok (partGranules s p % 2 ^ 32 + 2 ^ 32 * min n 65535) (partReleased p s) := by
  have hcmds : (partReleased p s).cmds = s.cmds := (partReleased_only ..).cmds_eq (by decide)
  have hnone : ((finish c .ok (partGranules s p % 2 ^ 32 + 2 ^ 32 * min n 65535) (partReleased p s)).cmds.filter
      fun (_, e) => e.op == 0x62 && e.part == p && e.phase == .running) = [] := by
    rw [finish_cmds hr, hcmds, List.filter_eq_nil_iff]
    rintro ⟨k, e⟩ he hrun
    simp only [Bool.and_eq_true, beq_iff_eq] at hrun
    obtain ⟨⟨hop, -⟩, hphase⟩ := hrun
    have hk : k = cmdKey c.ring c.rseq := by
      rcases mem_tset he with h | h
      · exact congrArg Prod.fst h
      · exact (halone _ h hop).trans hkey
    have hself := tget_of_mem (tsorted_tset (cmdKey c.ring c.rseq) (finished c .ok (partGranules s p % 2 ^ 32 + 2 ^ 32 * min n 65535)) hsort) he
    rw [hk, tget_tset_self] at hself
    rw [← Option.some.inj hself] at hphase
    cases hphase
  have hget : tget (partReleased p s).cmds r.key = some c := by rw [hcmds, hc]
  rw [endRelease_eq hget]
  exact checkWaiters_of_none hnone

/-- The release of a partition as its fills end without a check. -/
def fillsEnded (p : Nat) (r : RelRun) (s : State) : State :=
  let s1 := fillMemory (partRuns s p) s
  { skipFree 1 s1 with sec := { s1.sec with releases := tset s1.sec.releases p { r with ended := some 0 } } }

/-- The fills of a release end, and with room in the tap queue the release does too (R158, R413). -/
theorem execReleaseFillDone_ends {p : Nat} {r : RelRun} {s : State} (hs : serving s = true) (hr : tget s.sec.releases p = some r) (hf : r.filling = true)
    (he : r.ended = none) (hv : r.verify = false) (hact : actBits s 0x602000 2 1 = 0) (hroom : releaseRoom s p = true) :
    execReleaseFillDone p 0 s = .next (endRelease p 0 { r with ended := some 0 } (fillsEnded p r s)) := by
  have hget : tget (fillsEnded p r s).sec.releases p = some { r with ended := some 0 } := tget_tset_self ..
  have hfinish : finishRelease p (fillsEnded p r s) = endRelease p 0 { r with ended := some 0 } (fillsEnded p r s) := by
    unfold finishRelease
    rw [hget]
    exact if_pos hroom
  unfold execReleaseFillDone
  rw [hr]
  dsimp only
  rw [if_neg (by simp [hf, he, hs]), if_neg (by simp [hv, hact])]
  exact congrArg Host.Outcome.next hfinish

theorem readByte_endRelease {p n : Nat} {r : RelRun} (s : State) (a : Nat) : readByte (endRelease p n r s) a = readByte s a :=
  readByte_of_cells ((endRelease_only ..).cells_eq (by decide)) a

/-- The end of a release leaves the partition FREE, without keys, and its CLOSE told. -/
theorem endRelease_spec {p : Nat} {c : Cmd} {result : Nat} {s t : State} (ht : t = finish c .ok result (partReleased p s)) :
    tget t.sec.releases p = none ∧ pstate t p = 0 ∧ tget t.sec.memKeys p = none ∧ (∀ k v, tget t.sec.slots k = some v → slotPart k ≠ p) ∧
      t.tap.queue.getLast? = some { typ := 4, part := p, res := 0, seq := t.tap.seq - 1, value := pinst s p % 2 ^ 64 } := by
  subst ht
  have hsec : (partReleased p s).sec = _ := (sec_partReleased p s).trans (sec_keysForgotten p s)
  refine ⟨?_, ?_, ?_, ?_, ?_⟩
  · rw [releases_finish, hsec]
    exact tget_tdel_self ..
  · rw [pstate_finish, pstate_partReleased]
  · rw [memKeys_finish, hsec]
    exact tget_tdel_self ..
  · rw [slots_finish, hsec]
    rintro k v hk rfl
    rw [tget_tfilter_out _ _ _ fun _ => by simp] at hk
    cases hk
  · rw [(finish_only ..).tap_eq (by decide), tap_partReleased, getLast_meterClosed, pinst_keysForgotten]

/-! ## The rows as they run -/

theorem exec_keyErase {s : State} {ring : Nat} {rseq : BitVec 32} {c : Cmd} (hc : MayAdmit s ring rseq c) (hop : c.op = 0x61) (hk : keyKind c = 0) :
    exec (.keyErase ring rseq) s = .next (admitErase c s) :=
  congrArg Host.Outcome.next (admitting_of_mayAdmit hc (by simp [hop, hk]) admitErase)

theorem exec_release {s : State} {ring : Nat} {rseq : BitVec 32} {c : Cmd} (hc : MayAdmit s ring rseq c) (hop : c.op = 0x62) :
    exec (.release ring rseq) s = .next (admitRelease c s) :=
  congrArg Host.Outcome.next (admitting_of_mayAdmit hc (by simp [hop]) admitRelease)

theorem exec_attest {s : State} {ring : Nat} {rseq : BitVec 32} {c : Cmd} (hc : MayAdmit s ring rseq c) (hop : c.op = 0x60) :
    exec (.attest ring rseq) s = .next (admitAttest c s) :=
  congrArg Host.Outcome.next (admitting_of_mayAdmit hc (by simp [hop]) admitAttest)

/-- A command that was deferred is admitted by its operation (R410). -/
theorem exec_commandDeferredAdmit {s : State} {ring : Nat} {rseq : BitVec 32} {c : Cmd} (hc : MayAdmit s ring rseq c) (hd : isDeferred c = true) :
    exec (.commandDeferredAdmit ring rseq) s = .next (admitAny c s) :=
  congrArg Host.Outcome.next ((if_neg hc.host).trans (admitting_of_mayAdmit hc hd admitAny))

theorem admitAny_erase {c : Cmd} (s : State) (hop : c.op = 0x61) (hk : keyKind c = 0) : admitAny c s = admitErase c s := by
  unfold admitAny
  rw [hop]
  exact if_pos hk

theorem admitAny_release {c : Cmd} (s : State) (hop : c.op = 0x62) : admitAny c s = admitRelease c s := by
  unfold admitAny
  rw [hop] <;> rfl

theorem exec_keyErase_of_good {s : State} {ring : Nat} {rseq : BitVec 32} {c : Cmd} (hc : MayAdmit s ring rseq c) (hop : c.op = 0x61) (hk : keyKind c = 0)
    (hst : keyStatus s c = .ok) : ∃ t, exec (.keyErase ring rseq) s = .next t ∧ OnlyIn endAreas s t ∧ EndsWith t c .ok (keySlotOf c) ∧
      tget t.sec.slots (keySlotOf c) = none ∧ (∀ k, k ≠ keySlotOf c → tget t.sec.slots k = tget s.sec.slots k) ∧
      (slotPart (keySlotOf c) < 64 → bit (valW t (0xA01024 + 0x80 * slotPart (keySlotOf c))).toNat (keySlotOf c % 16) = false) := by
  have hslots : (admitErase c s).sec.slots = tdel s.sec.slots (keySlotOf c) := by
    rw [admitErase_of_good hc.ring_ne hst, slots_finish, slots_erased, sec_admitCmd]
  refine ⟨_, exec_keyErase hc hop hk, admitErase_only .., ?_, ?_, fun k hne => ?_, fun hslot => ?_⟩
  · rw [admitErase_of_good hc.ring_ne hst]
    exact endsWith_finish (c := admitted c .none s) hc.ring_ne ..
  · rw [hslots, tget_tdel_self]
  · rw [hslots, tget_tdel_of_ne _ hne]
  · rw [admitErase_of_good hc.ring_ne hst, valW_finish_of_above _ _ _ _ (by omega), bit_erased _ hslot]

theorem exec_release_of_first {s : State} {ring : Nat} {rseq : BitVec 32} {c : Cmd} (hc : MayAdmit s ring rseq c) (hop : c.op = 0x62)
    (hnone : tget s.sec.releases c.part = none) :
    exec (.release ring rseq) s = .next (checkRelease (admitted c .none s) (admitCmd c .none s)) ∧
      OnlyIn endAreas s (checkRelease (admitted c .none s) (admitCmd c .none s)) :=
  ⟨(exec_release hc hop).trans (congrArg _ (admitRelease_checks hc.ring_ne hnone)), (checkRelease_only ..).via (by decide) ((admitCmd_only ..).sub (by decide))⟩

theorem exec_releaseProceed_spec {p : Nat} {r : RelRun} {s : State} (hs : serving s = true) (hr : tget s.sec.releases p = some r) (hf : r.filling = false)
    (hidle : ∀ e ∈ s.cmds, e.2.phase = .running → actsFor s p e.2 = false) (hconn : connsOf s p = []) :
    ∃ t, exec (.releaseProceed p) s = .next t ∧ tget t.sec.releases p = some { r with filling := true } ∧ t.mem.cells = s.mem.cells ∧
      (∀ q, q ∈ t.shards → q.1 ≠ p) ∧ (∀ x ∈ t.retained, x.part ≠ p) ∧
      (∀ i, i < 65535 → (getRegion t i).used = true → (getRegion t i).part ≠ p) := by
  have hframe := fillsLaunched_only p r s
  have hreg : ∀ i, getRegion (fillsLaunched p r s) i = getRegion (clearObjects p s) i := getRegion_of_rma (hframe.rma_eq (by decide))
  refine ⟨_, execReleaseProceed_clears hs hr hf hidle hconn, tget_tset_self .., ?_, fun q hq => ?_, fun x hx => ?_, fun i hi hu => ?_⟩
  · exact (hframe.cells_eq (by decide)).trans ((clearObjects_only ..).cells_eq (by decide))
  · exact shards_clearObjects q ((hframe.shards_eq (by decide)) ▸ hq)
  · exact retained_clearObjects x ((hframe.retained_eq (by decide)) ▸ hx)
  · rw [hreg] at hu ⊢
    exact getRegion_clearObjects_part hi hu

theorem exec_releaseFillDone_spec {p : Nat} {r : RelRun} {c : Cmd} {s : State} (hs : serving s = true) (hm : memOk s)
    (hr : tget s.sec.releases p = some r) (hf : r.filling = true) (he : r.ended = none) (hv : r.verify = false) (hact : actBits s 0x602000 2 1 = 0)
    (hroom : releaseRoom s p = true) (hsort : tsorted s.cmds = true) (hring : c.ring ≠ deckRing) (hcmd : tget s.cmds r.key = some c)
    (hkey : r.key = cmdKey c.ring c.rseq) (halone : ∀ e ∈ s.cmds, e.2.op = 0x62 → e.1 = r.key) :
    ∃ t, exec (.releaseFillDone p 0) s = .next t ∧ EndsWith t c .ok (partGranules s p % 2 ^ 32) ∧ tget t.sec.releases p = none ∧ pstate t p = 0 ∧
      tget t.sec.memKeys p = none ∧ (∀ k v, tget t.sec.slots k = some v → slotPart k ≠ p) ∧
      t.tap.queue.getLast? = some { typ := 4, part := p, res := 0, seq := t.tap.seq - 1, value := pinst s p % 2 ^ 64 } ∧
      (∀ a, readByte t a = if inRuns (partRuns s p) a then 0 else readByte s a) := by
  have hend : endRelease p 0 { r with ended := some 0 } (fillsEnded p r s) = _ :=
    endRelease_alone (r := { r with ended := some 0 }) (s := fillsEnded p r s) hring hsort hcmd hkey halone 0
  obtain ⟨hrel, hfree, hmem, hslots, hclose⟩ := endRelease_spec hend
  refine ⟨_, execReleaseFillDone_ends hs hr hf he hv hact hroom, ?_, hrel, hfree, hmem, hslots, hclose, fun a => ?_⟩
  · rw [hend]
    exact endsWith_finish hring ..
  · exact (readByte_endRelease ..).trans (readByte_fillMemory (partRuns s p) hm a)

/-- Settles O60: the key clauses row by row; the rest by what the begin, the clearing and the end of a release leave. -/
theorem keysAttestationAndRelease : Obligations.KeysAttestationAndRelease := by
  unfold Obligations.KeysAttestationAndRelease
  refine ⟨fun ring rseq c s hc hop => ⟨fun i hi => ?_, fun hk hst => exec_keyErase_of_good hc hop hk hst⟩,
    fun ring rseq c s hc hd => ⟨fun hop hk => ?_, fun hop => ?_⟩,
    fun ring rseq c s hc => ⟨fun hop hn hf hz hz' hok ha => ?_, fun hop hnone => ?_⟩,
    fun p r s hp hs hm hr => ⟨fun hf hidle hconn => exec_releaseProceed_spec hs hr hf hidle hconn,
      fun hf he hv hact hroom c hsort hring hcmd hkey halone => ?_⟩⟩
  · obtain ⟨hexec, hk⟩ := keyImport_rows hc hop hi
    refine ⟨fun hst => ⟨hexec.trans (congrArg _ (admitImport_of_bad hst)), slots_endAtAdmission ..⟩, fun hst hg => ?_⟩
    rw [hexec, admitImport_asks hc.ring_ne hst hk hg, hc.ringIs, hc.rseqIs]
  · rw [exec_commandDeferredAdmit hc hd, admitAny_erase s hop hk, exec_keyErase hc hop hk]
  · rw [exec_commandDeferredAdmit hc hd, admitAny_release s hop, exec_release hc hop]
  · have hadm := getCmd_admitCmd hc.ring_ne .none s
    rw [hc.ringIs, hc.rseqIs] at hadm
    exact ⟨_, hadm, rfl, (exec_attest hc hop).trans (congrArg _ (admitAttest_of_good hc.ring_ne hn hf hz hz' hok ha))⟩
  · obtain ⟨hexec, hframe⟩ := exec_release_of_first hc hop hnone
    have hstatus := releaseStatus_admitCmd hc.ring_ne s
    refine ⟨fun h => ⟨_, hexec, hframe, ?_⟩, fun st h hb => ⟨_, hexec, hframe, ?_⟩, fun h => ⟨_, hexec, hframe, ?_⟩⟩
    · rw [checkRelease_of_done (hstatus.trans h)]
      exact endsWith_finish_admitted hc.ring_ne ..
    · rw [checkRelease_of_bad (hstatus.trans h) hb]
      exact endsWith_finish_admitted hc.ring_ne ..
    · rw [checkRelease_of_good (hstatus.trans h), ← hc.ringIs, ← hc.rseqIs]
      exact beginRelease_spec (admitted c .none s) (admitCmd c .none s)
  · obtain ⟨t, hexec, hends, hrel, hfree, hmem, hslots, hclose, hread⟩ :=
      exec_releaseFillDone_spec hs hm hr hf he hv hact hroom hsort hring hcmd hkey halone
    refine ⟨t, hexec, hends, hrel, hfree, hmem, hslots, hclose, fun a => ⟨fun hin => ?_, fun hout => ?_⟩⟩
    · rw [hread, if_pos ((inRuns_iff ..).2 hin)]
    · refine (hread a).trans (if_neg fun hin => ?_)
      obtain ⟨f, n, hrun, hlow, hhigh⟩ := (inRuns_iff ..).1 hin
      have := hout f n hrun
      omega

end Sys2Proof.Machine
